-- ==== Sys2Proof/Word.lean ====
section
/-! DEFINITION. The word types of the block: page registers are 32-bit words (R44), buffers are bytes. -/

namespace Sys2Proof

/-- A page register, an aligned 32-bit word (R44). -/
abbrev Word := BitVec 32

/-- One byte of a buffer or of the ledger store. -/
abbrev Byte := BitVec 8

end Sys2Proof
end

