-- ==== Sys2Proof/Machine/Sparse.lean ====
section
/-! DEFINITION. Finite maps from numbers as plain data: a list of (key, value) pairs in one canonical form, the keys strictly
rising and no value equal to what an unlisted key reads as. Registers, memories and arrays of units are held this way. -/

namespace Sys2Proof.Machine

/-- A map from numbers; `dflt k` is what an unlisted key `k` reads as. -/
abbrev Sparse (α : Type) := List (Nat × α)

/-- The listed value of a key. -/
def Sparse.find {α : Type} : Sparse α → Nat → Option α
  | [], _ => none
  | (j, v) :: m, k => if k = j then some v else Sparse.find m k

/-- Reads key `k`. -/
def Sparse.get {α : Type} (dflt : Nat → α) (m : Sparse α) (k : Nat) : α :=
  (Sparse.find m k).getD (dflt k)

/-- Removes key `k`. -/
def Sparse.erase {α : Type} (m : Sparse α) (k : Nat) : Sparse α := m.filter fun p => p.1 != k

/-- Lists `v` under key `k`, keeping the keys rising. -/
def Sparse.insert {α : Type} : Sparse α → Nat → α → Sparse α
  | [], k, v => [(k, v)]
  | (j, w) :: m, k, v =>
    if k < j then (k, v) :: (j, w) :: m
    else if k = j then (k, v) :: m
    else (j, w) :: Sparse.insert m k v

/-- Writes `v` to key `k`: a value equal to the unlisted one is not listed. -/
def Sparse.set {α : Type} [DecidableEq α] (dflt : Nat → α) (m : Sparse α) (k : Nat) (v : α) :
    Sparse α :=
  if v = dflt k then Sparse.erase m k else Sparse.insert m k v

/-- Every key of `m` is above `b`, and the keys rise. -/
def Sparse.sortedFrom {α : Type} : Nat → Sparse α → Bool
  | _, [] => true
  | b, (j, _) :: m => decide (b ≤ j) && Sparse.sortedFrom (j + 1) m

/-- The canonical form: keys strictly rising, no value equal to the unlisted one. -/
def Sparse.wf {α : Type} [DecidableEq α] (dflt : Nat → α) (m : Sparse α) : Bool :=
  Sparse.sortedFrom 0 m && m.all (fun p => decide (p.2 ≠ dflt p.1))

end Sys2Proof.Machine
end

