-- ==== Sys2Proof/Machine/Records.lean ====
section
/-! DEFINITION. The records of the metering, tariff, demand, ledger and readout state, which the state holds and a twin hands over
(R88–R241, R360). -/

namespace Sys2Proof.Machine

/-! ### Sampling front end and element datapath (R88–R146, R171–R178) -/

/-- Consecutive failing and passing Strides of a check. -/
structure Run where
  fail : Nat := 0
  pass : Nat := 0
  deriving DecidableEq, Repr

/-- One bitstream path (R88–R93, R106). -/
structure PathState where
  /-- The bits of the last Stride, bit c being modulator cycle c. -/
  bits : BitVec 1250 := 0
  /-- The sinc³ outputs that the FIR still needs, newest first. -/
  sinc : List Int := []
  settling : Bool := false
  /-- The settling follows a health fault (R107). -/
  afterFault : Bool := false
  /-- Strides settled so far. -/
  settled : Nat := 0
  stuck0 : Run := {}
  stuck1 : Run := {}
  density : Run := {}
  pattern : Run := {}
  /-- The path's last sample and whether it was clamped (R90). -/
  sample : Int := 0
  clip : Bool := false
  deriving DecidableEq, Repr

/-- The exact sums of an open regression window (R97) and the active-product sum of R109. -/
structure RegressionSums where
  n : Nat := 0
  sl : Int := 0
  sh : Int := 0
  sll : Int := 0
  slh : Int := 0
  p : Int := 0
  strides : Nat := 0
  deriving DecidableEq, Repr

/-- A result accepted under R99 that waits for the Stride of R100. -/
structure PendingRatio where
  ratio : Nat
  offs : Int
  due : Nat
  deriving DecidableEq, Repr

/-- One detector of R174–R176 with an open event. -/
structure OpenEvent where
  start : Nat
  /-- Ledger clock and local clock (2^-32 ns) at the start Stride. -/
  lc : Nat
  clock : Nat
  extreme : Nat
  /-- Position of the element of the extreme, and the phase mask (aggregates, R179). -/
  pos : Nat := 0
  mask : Nat := 1
  /-- The ledger clock was time-invalid at the start; it was held or corrected within the event. -/
  invalid : Bool := false
  touched : Bool := false
  deriving DecidableEq, Repr

/-- A measurement window of R171 and R172. -/
structure DipWindow where
  /-- Its Strides so far. -/
  len : Nat := 0
  /-- Its first Stride with the ledger clock, the local clock (2^-32 ns) and the time-invalid flag there. -/
  start : Nat := 0
  lc : Nat := 0
  clock : Nat := 0
  invalid : Bool := false
  /-- The sum of v_c² (AC) or of v_c (DC) so far. -/
  sum : Int := 0
  deriving DecidableEq, Repr

/-- An event that an element closed since the aggregates were last evaluated (R179). -/
structure ClosedDip where
  element : Nat
  kind : Nat
  stop : Nat
  deriving DecidableEq, Repr

/-- A record that waits for its place in the order of R183: of an aggregate or of an element, its meter or element, its kind and the 52
bytes before its sequence. -/
structure DipRecord where
  aggregate : Bool
  index : Nat
  kind : Nat
  body : List Nat
  deriving DecidableEq, Repr

/-- The power-quality state of an element (R171–R178). -/
structure Quality where
  /-- The window in progress; it is the second of its pair; the pair's N. -/
  window : DipWindow := {}
  second : Bool := false
  n : Nat := 160
  /-- A finished window that waits for its evaluation. -/
  done : Option DipWindow := none
  suspended : Bool := false
  sag : Option OpenEvent := none
  swell : Option OpenEvent := none
  intr : Option OpenEvent := none
  lastU : Int := 0
  lastLen : Nat := 0
  sags : Nat := 0
  swells : Nat := 0
  intrs : Nat := 0
  deriving DecidableEq, Repr

/-- One measurement element: its paths, selector, regression, datapath and detectors. -/
structure Element where
  v : PathState := {}
  ih : PathState := {}
  il : PathState := {}
  /-- Selector state low, its counter c, and the path of the previous sample (R94). -/
  low : Bool := true
  count : Nat := 0
  usedHigh : Option Bool := none
  /-- The samples delivered: voltage, high-gain and low-gain current, and the combined current (R93, R95, R107). -/
  vr : Int := 0
  h : Int := 0
  l : Int := 0
  i : Int := 0
  /-- V or IL clipped, or i clamped, in the last Stride (R96, R107). -/
  overrange : Bool := false
  /-- Strides since the last forced zero sample of any path, and of the voltage path, at most 103 (R131, R178). -/
  zeroAge : Nat := 103
  zeroAgeV : Nat := 103
  /-- The open regression window; none after a discard until the next boundary (R97, R101). -/
  window : Option RegressionSums := some {}
  pending : Option PendingRatio := none
  /-- Windows in a row without an accepted result, at most 60 (R102). -/
  stale : Nat := 0
  ratioLimit : Bool := false
  assignInvalid : Bool := false
  reversed : Run := {}
  xpath : Run := {}
  /-- K in force (R96). -/
  k : Nat := 4294967296
  /-- Raw voltage and current samples, newest first: at most 103 and 63 (R118). -/
  vLine : List Int := []
  iLine : List Int := []
  vc : Int := 0
  ic : Int := 0
  v90 : Int := 0
  p : Int := 0
  q : Int := 0
  /-- v_c or v90 clamped; v_c clamped; i_c clamped (R121). -/
  clipV : Bool := false
  clipVc : Bool := false
  clipI : Bool := false
  clips : Nat := 0
  /-- The zero-crossing tracker (R122, R123): last z, armed, crossing times newest first, valid periods in a row. -/
  z : Int := 0
  armed : Bool := false
  crossings : List Int := []
  goodPeriods : Nat := 0
  sinceCross : Nat := 256
  freqValid : Bool := false
  freq : Nat := 0
  /-- N and gh in force, and whether a nominal frequency gives them (R124). -/
  n : Nat := 160
  gh : Nat := 1939441486
  nominal : Bool := true
  /-- Squares of v_c and i_c, newest first: at most 200; the sums of the open second (R140). -/
  vSquares : List Int := []
  iSquares : List Int := []
  v2Sum : Int := 0
  i2Sum : Int := 0
  vSum : Int := 0
  iSum : Int := 0
  forced1s : Bool := false
  /-- The published one-second values and their window. -/
  vRms1s : Nat := 0
  iRms1s : Nat := 0
  vDc1s : Int := 0
  iDc1s : Int := 0
  window1s : Nat := 0
  incomplete1s : Bool := false
  pq : Quality := {}
  deriving DecidableEq, Repr

/-! ### Meters (R125–R146, R161–R166, R194–R199) -/

/-- A maximum of R198. -/
structure Maximum where
  w : Nat := 0
  lc : Nat := 0
  flags : Nat := 0
  deriving DecidableEq, Repr

/-- A closed demand sub-interval of one meter: its sums for +A and -A and the meter's own flags. -/
structure SubInterval where
  imp : Int
  exp : Int
  flags : Nat
  deriving DecidableEq, Repr

/-- One logical meter. -/
structure Meter where
  active : Bool := false
  dc : Bool := false
  cfgFault : Bool := false
  inputFault : Bool := false
  overrange : Bool := false
  creepP : Bool := false
  creepQ : Bool := false
  neg : Bool := false
  saturated : Bool := false
  provisional : Bool := true
  restored : Bool := false
  /-- The frequency in force, N, the source position and whether f_nom gives it (R124). -/
  freq : Nat := 0
  n : Nat := 160
  srcPos : Nat := 0
  nominal : Bool := true
  /-- The rings of P and Q, newest first: at most 200 (R125). -/
  pRing : List Int := []
  qRing : List Int := []
  p : Int := 0
  q : Int := 0
  sp : Int := 0
  sq : Int := 0
  a : Nat := 0
  exporting : Bool := false
  quadrant : Nat := 0
  /-- The 72 raw accumulators, their bases, and the eight provisional totals (R133, R134, R145). -/
  acc : Sparse Int := []
  base : Sparse Int := []
  prov : Sparse Int := []
  /-- C and Cr in force for the last Stride, and compensation acting (R134, R163). -/
  c : Nat := 0
  cr : Nat := 0
  comp : Bool := false
  i2 : Nat := 0
  lossImp : Nat := 0
  lossExp : Nat := 0
  baseLossImp : Int := 0
  baseLossExp : Int := 0
  rc : Nat := 0
  temp : Int := 0
  tempFault : Bool := false
  /-- No valid save was found for a store that had been saved (R226). -/
  unrestored : Bool := false
  compSaturated : Bool := false
  /-- Z of the open sub-interval for +A and -A, and its flags of this meter (R196, R199). -/
  zImp : Int := 0
  zExp : Int := 0
  zFlags : Nat := 0
  /-- Closed sub-intervals of the window, newest first, at most 15. -/
  closed : List SubInterval := []
  maxima : Sparse Maximum := []
  lastImp : Nat := 0
  lastExp : Nat := 0
  runImp : Nat := 0
  runExp : Nat := 0
  lastFlags : Nat := 0
  /-- Aggregate events of position 0 (R179). -/
  aggSag : Option OpenEvent := none
  aggSwell : Option OpenEvent := none
  aggIntr : Option OpenEvent := none
  deriving DecidableEq, Repr

/-- A snapshot bank (R24, R25, R227): the Fold's values as they stood at the end of the Fold work of its Stride. -/
structure Bank where
  /-- The bank has been written since reset; until then it reads zero (R241). -/
  written : Bool := false
  stride : Nat := 0
  lc : Nat := 0
  elements : Sparse Element := []
  meters : Sparse Meter := []
  tariff : Nat := 0
  /-- Per element: SFE_ESTATUS, SFE_HEALTH, and whether it belongs to a meter (R229). -/
  estatus : Sparse Nat := []
  health : Sparse Nat := []
  inMeter : Sparse Bool := []
  /-- TRF_STATUS, DMD_STATUS, DMD_FLAGS, E and HW of DMD, TRF_BPERIOD, TRF_BLAST; then what the meter blocks say of the open and the
  closed sub-intervals: start LC, summed length of the closed ones, their count (R228, R229). -/
  billing : List Nat := []
  deriving DecidableEq, Repr

/-- What the Fold keeps for the module as a whole. -/
structure Fold where
  /-- The banks 0–2, the front bank, the bank of the next Stride and the write-progress word (R24, R25). -/
  banks : Sparse Bank := []
  front : Nat := 0
  next : Nat := 0
  progress : Nat := 0
  /-- Metering runs (from provisional start on, R145). -/
  running : Bool := false
  /-- Strides at the new level of SEAL_MET_N, at most 80, and the pin (R151); the pin is pulled up. -/
  sealRun : Nat := 0
  sealPin : Bool := true
  /-- The temperature trims τg and their targets (R150). -/
  trimTarget : Sparse Int := []
  /-- A change waits for the CRC of the image and of the shadow image (R153). -/
  crcDue : Bool := false
  crcStgDue : Bool := false
  /-- Consecutive temperature readings at or above 110 °C, at most 10 (R498). -/
  dieHot : Nat := 0
  /-- The Stride at whose edge τg last moved (R150). -/
  trimmed : Nat := 0
  /-- The regression windows that end in this Stride have been decided (R99); the one-second values published (R140). -/
  regressed : Bool := false
  published1s : Bool := false
  /-- Values that a module in the Off role takes from Near: τg per group for the next Stride, T_q per port (R353). -/
  nearTrim : Sparse Int := []
  nearTemp : Sparse (Option Int) := []
  /-- The ledger work of this Stride waits for Near's frame (R353). -/
  awaiting : Bool := false
  /-- The next arm of the data-plane slot is the hand-over arm and the armed slot is the hand-over (R165). -/
  handoverArmed : Bool := false
  /-- The local clock at the Stride's edge (2^-32 ns). -/
  edgeClock : Nat := 0
  /-- The Strides, of the last 512, in which the ledger clock was held or corrected (R184). -/
  touches : List Nat := []
  /-- Events that elements closed since the aggregates were last evaluated (R179), and the records of the Stride (R183). -/
  dipsClosed : List ClosedDip := []
  dipRecords : List DipRecord := []
  deriving DecidableEq, Repr

/-! ### Tariffs and demand (R187–R209) -/

/-- The calendars and what follows the ledger clock. -/
structure Tariff where
  active : Sparse Word := []
  passive : Sparse Word := []
  /-- The frozen activation time of an armed calendar, and the Stride in which it was armed (R192, R193). -/
  activateAt : Nat := 0
  armStride : Nat := 0
  /-- The tariff in force in the present Stride and at the start of the next (R203). -/
  now : Nat := 1
  next : Nat := 1
  /-- The scaled standard time (LC plus 8000 times the offset of R187) up to which billing closes have been looked for (R200, R201);
  none before the first look of a run. -/
  billedTo : Option Int := none
  /-- The greatest calendar time, scaled likewise, that such a look has met (R200). -/
  reached : Option Int := none
  /-- The month (12 · year + month − 1) of the last monthly close (R200). -/
  closedMonth : Option Int := none
  /-- A billing close that this Stride owes: its stamp, its reason and whether it is late. -/
  billDue : Option (Nat × Nat × Bool) := none
  /-- A staged change of TRF_BCLOSE_CMD.seq applied at this edge. -/
  closeCmd : Bool := false
  pcrcDue : Bool := false
  deriving DecidableEq, Repr

/-- The demand engine (R194–R199): what all meters share. -/
structure Demand where
  isOpen : Bool := false
  start : Nat := 0
  hw : Nat := 0
  flags : Nat := 0
  /-- Lengths and flags of the closed sub-intervals of the window, newest first. -/
  closed : List (Nat × Nat) := []
  /-- The configuration in force (R194): Ls, k, Wn, whether it is valid, and the enabled meters. -/
  ls : Nat := 7200000
  k : Nat := 1
  wn : Nat := 7200000
  valid : Bool := true
  en : Nat := 0xFFFFFFFFFFFF
  /-- Edge actions that wait for the next edge: a staged DMD change, and a changed time scale (R206). -/
  cfgChange : Bool := false
  rescale : Bool := false
  /-- The first Stride after a restore is due (R205). -/
  restart : Bool := false
  /-- PFW_N has released: processing resumes at the next edge, and catches up in that Stride (R205). -/
  resuming : Bool := false
  catchUp : Bool := false
  deriving DecidableEq, Repr

/-! ### Ledger store (R210–R226) -/

/-- The Fold's ledger state as a save holds it (R215); a commit holds its accruing part (R219), and a tail record the state of its
Stride (R220). -/
structure LedgerImage where
  /-- The sequence of the save, of the commit, or k of the tail record. -/
  seq : Nat := 0
  /-- The Stride and the ledger clock; the Stride p of a commit. -/
  stride : Nat := 0
  lc : Nat := 0
  meters : Sparse Meter := []
  dmd : Demand := {}
  trf : Tariff := {}
  /-- TRF_BPERIOD, TRF_BLAST and its status; TRF_PSTATE and TRF_PACT; SFE_CAL_COUNT. -/
  period : Nat := 0
  blast : Nat := 0
  blastSt : Nat := 0
  pstate : Nat := 0
  pact : Nat := 0
  calCount : Nat := 0
  /-- The open power-quality events of each element. -/
  events : Sparse Quality := []
  /-- The next sequence of the journal and of every log. -/
  journalNext : Nat := 0
  logs : Sparse Nat := []
  /-- The sequence of the configuration record in force; of a commit, that of the last completed save. -/
  config : Nat := 0
  saveSeq : Nat := 0
  /-- Of a tail record: the sequence of its commit. -/
  commit : Nat := 0
  deriving DecidableEq, Repr

/-- An entry of the boundary journal (R216). -/
inductive JournalEntry where
  /-- Type 1: a sub-interval closes, for one meter and quantity (0 for +A, 1 for −A). -/
  | close (meter quantity start stop flags : Nat) (z : Int)
  /-- Type 2: a maximum changes. -/
  | maximum (meter j w lc flags : Nat)
  /-- Type 3: a window restart: HW and the reason (1 correction, 2 restart, 3 demand configuration, 4 time scale). -/
  | restart (hw reason : Nat)
  /-- Type 4: a billing period closes. -/
  | billing (period lc reason slot : Nat)
  /-- Type 5: the passive calendar activates. -/
  | activation (lc active passive : Nat)
  /-- Type 6: a staged change: slot, target, pages, the new active values, the new item table where the DSP page is applied, the meters
  whose constants changed as they then stood, and the sequence of the configuration record in force. -/
  | staged (slot target : Nat) (pages : List Nat) (values : List (Nat × Word)) (items : Option (Sparse Word)) (bases : Sparse Meter)
    (config : Nat)
  /-- Type 7: the hand-over: the tariff in force, and PV_q × C of each meter. -/
  | handover (tariff : Nat) (energy : List (Nat × List Int))
  /-- Type 8: PFW_N released without a reset. -/
  | released (stride lc : Nat)
  deriving DecidableEq, Repr

/-- The typed regions of the ledger store, by slot, and what the Fold keeps for it. A slot that holds no valid record is not listed. -/
structure Ledger where
  /-- The directory's flags (R210): formatted at manufacture, and ever-saved. -/
  formatted : Bool := true
  everSaved : Bool := false
  saves : Sparse (Option LedgerImage) := []
  commits : Sparse (Option LedgerImage) := []
  tails : Sparse (Option LedgerImage) := []
  /-- Journal slots: the sequence of the entry that starts there, the slots it takes, and the entry. -/
  journal : Sparse (Option (Nat × Nat × JournalEntry)) := []
  /-- The sequence that the next save, and the next commit, takes. -/
  nextSave : Nat := 1
  nextCommit : Nat := 1
  /-- The next and the oldest sequence of the journal (0) and of logs 1–4 (R212). -/
  logNext : Sparse Nat := []
  logOldest : Sparse Nat := []
  /-- The 64-bit words of the store, by address, that an uncorrectable error has spoilt and nothing has rewritten since (R211). -/
  spoilt : List Nat := []
  /-- The counter of the last audit record, and the CRC after the last switch (R164). -/
  auditCount : Nat := 0
  auditAfter : Option Nat := none
  /-- Save slots whose write was abandoned or failed its CRC, by sequence. -/
  rejected : List Nat := []
  /-- The sequence of the configuration record in force; none without a valid one (R238). -/
  config : Option Nat := none
  /-- The save that is being written, and the commit that is (R214, R219). -/
  saving : Option LedgerImage := none
  writing : Option LedgerImage := none
  /-- The commit in force while PFW_N stays asserted (R220). -/
  committed : Option LedgerImage := none
  /-- The filtered PFW_N signal is asserted (R218); Strides of the accepted level, at most 8000 (R224). -/
  asserted : Bool := false
  pfwAge : Nat := 0
  /-- LDG_CTRL.force_save was written; a reset waits for its commit, and the Stride of the request (R214, R224). -/
  forceSave : Option Nat := none
  resetWanted : Option Nat := none
  /-- The sequence of the reset commit that is being written, and that it has been written (R224). -/
  resetSeq : Option Nat := none
  resetDone : Bool := false
  deriving DecidableEq, Repr

/-- A record of n bytes at an address holds a spoilt word: it is invalid (R211). -/
def Ledger.spoiltIn (x : Ledger) (a n : Nat) : Bool := x.spoilt.any fun w => decide (a < w + 8) && decide (w < a + n)

/-- The save that is being written is abandoned: its slot stays invalid, and its sequence counts as rejected (R221, R226). -/
def Ledger.dropSaving (x : Ledger) : Ledger :=
  match x.saving with
  | some y => { x with saving := none, saves := Sparse.erase x.saves (y.seq % 256), rejected := x.rejected ++ [y.seq] }
  | none => x

/-! ### Readout link and signed readings (R230–R240) -/

/-- A display beside its registers. -/
structure Display where
  /-- The sequence of its next frame; the sequence of a poll that waits for its reply. -/
  seq : Nat := 0
  polled : Option Nat := none
  /-- Strides since the item took its place, and since it was sent; the index and the word of the item last sent. -/
  timer : Nat := 0
  sinceSent : Nat := 0
  lastSent : Option (Nat × Word) := none
  /-- Missed or corrupt replies in a row; a reply has given a push count. -/
  bad : Nat := 0
  pushKnown : Bool := false
  deriving DecidableEq, Repr

/-- The readout engine. -/
structure Readout where
  displays : Sparse Display := []
  /-- The active and the shadow copy of the item table, entry 64·d + i (R240). -/
  items : Sparse Word := []
  shadow : Sparse Word := []
  /-- Strides since the last poll round, at most 800. -/
  sincePoll : Nat := 800
  /-- The frames sent in the last command, in order. -/
  sent : List (List Nat) := []
  /-- A signed reading in progress (R236): the meter, the selection and the nonce, and its payload once the snapshot is published. -/
  signing : Option (Nat × Nat × List Nat) := none
  payload : Option (List Nat) := none
  signSeq : Nat := 0
  deriving DecidableEq, Repr

/-! ### What one module of a pair hands to the other (R359, R360) -/

/-- A mark or a join frame (R360), or the copy of Near's store with its active set (R359): the Fold's state, the registers by address,
the typed regions and the bytes of the store by address, and the item table. -/
structure TwinImage where
  elements : Sparse Element := []
  meters : Sparse Meter := []
  trf : Tariff := {}
  dmd : Demand := {}
  trims : Sparse Int := []
  led : Ledger := {}
  words : Sparse Word := []
  store : List (Nat × Nat) := []
  items : Sparse Word := []
  deriving DecidableEq, Repr

end Sys2Proof.Machine
end

