-- ==== Sys2Proof/Syntax.lean ====
section
/-! DEFINITION. The commands of the block: one constructor per row of the spec's table of operations and events, with the
operands that the row's step needs. -/

namespace Sys2Proof

/-- The four planes of R21. -/
inductive Plane where
  | control | data | management | safety
  deriving DecidableEq, Repr

/-- The initiators of a bus access, numbered as FAB_VIOL_INFO.initiator (R49). The bulk DMA and the packet engine act for a
plane. -/
inductive Initiator where
  | a0 | a1 | a2 | a3 | b0 | b1 | m0 | s0
  | dma (plane : Plane)
  | packet (plane : Plane)
  deriving DecidableEq, Repr

/-- A bus access: its initiator, its size in bytes, and how far its address lies from the aligned word (R48). -/
structure Access where
  by_ : Initiator
  size : Nat := 4
  skew : Nat := 0
  deriving DecidableEq, Repr

/-- A numbered thing, a port or a ring, and the REFCLK cycle of the Stride at which the row acts on it. -/
structure Timed where
  index : Nat
  cycle : Nat := 0
  deriving DecidableEq, Repr

/-- A core that executes WFI, and whether a core-local wake of its own ISA ends the sleep (R456). -/
structure CoreSleep where
  target : Nat
  woken : Bool := false
  deriving DecidableEq, Repr

/-- An overcurrent of a load channel: the channel, and the µs that it has been in current limit (R276). -/
structure Overcurrent where
  channel : Nat
  us : Nat
  deriving DecidableEq, Repr

/-- What reaches the block's pins and sensors during the Stride that ends at an edge. Keys not listed read as an unconnected
input: bits 0, voltages and currents 0, digital pins 0. -/
structure StrideInputs where
  /-- Modulator bits of path 3n (V), 3n + 1 (IH), 3n + 2 (IL) of element n; bit c is modulator cycle c (R88). -/
  bits : List (Nat × BitVec 1250) := []
  /-- The samples of OPn_CPS of port n, in mV, one for each µs of the Stride (R246); a port not listed converted none. -/
  pilot : List (Nat × List Int) := []
  /-- The proximity resistance of port n, in ohms (R253). -/
  proximity : List (Nat × Nat) := []
  /-- Load channel currents and output voltages: code of R281 and 10 mV units (R281, R283). -/
  channel : List (Nat × (Nat × Nat)) := []
  /-- Clamp energies of channel n in the Stride, in whole µJ, in the order of the events (R278). -/
  clamp : List (Nat × List Nat) := []
  /-- Bank supply voltages, mV (R271). -/
  bank : List (Nat × Nat) := []
  /-- OPn_LOCK of port n is high; a port not listed reads its pull-up (R255). -/
  lock : List (Nat × Bool) := []
  /-- The residual-current sample of port n, in µA (R307), and channel A's comparator level flags, DC1–AC3 (R309). -/
  rcm : List (Nat × Int) := []
  crookLevel : List (Nat × Nat) := []
  /-- Ports whose RCMn_SA lies outside 0.1–4.9 V (R306), and the samples of IMDk_MEAS in µV (R312). -/
  crookOutside : Nat := 0
  imd : List (Nat × Nat) := []
  /-- Links that delivered no valid frame: bits 0 and 1 the switch links, bit 2 the Crook link; bit 3: its frame failed its CRC (R19,
  R43, R342). -/
  badFrames : Nat := 0
  /-- BRIDLE_REQ_N is low at the edge (R287). -/
  bridleReqLow : Bool := false
  /-- Cut pins that read asserted: A in bits 0–7, B in bits 8–15 (R302). -/
  cutPins : Nat := 0xFFFF
  /-- S0 has not completed the previous safety cycle at the safety tick (R42). -/
  safetyLate : Bool := false
  /-- SEAL_MET_N is high (R151). -/
  sealMet : Bool := true
  /-- PAIR_HB_IN toggled since the last edge (R346). -/
  heartbeat : Bool := false
  /-- REFCLK lay outside ±50 ppm of 100 MHz (R12). -/
  refclkOff : Bool := false
  /-- Elements whose modulators the carrier does not clock from an MCLK_OUT pin (R12). -/
  foreignClock : List Nat := []
  deriving DecidableEq, Repr

/-- Where a calibration record lies in the configuration records of the ledger store, as byte addresses (R158, R164): its image, address
and count, the words of its CRC and counter, the bytes that are signed, and the 64 bytes of the signature, none while it is unsigned. The
spec lays out no record. -/
structure CalRecord where
  image : Nat × Nat
  crc : Nat
  counter : Nat
  signed : Nat × Nat := (0, 0)
  signature : Option Nat := none
  deriving DecidableEq, Repr

/-- A Stride frame of R353. The fields that only Near sends, or only Off, hold their defaults in the other direction. -/
structure StrideFrame where
  sequence : Nat := 0
  /-- HRN_STATUS.role, joined and divergent of the sender, and its expired watchdogs: bit p for plane p. -/
  role : Nat := 0
  joined : Bool := false
  divergent : Bool := false
  watchdogs : Nat := 0
  stride : Nat := 0
  /-- LC_s of R79 and its time-invalid flag, so that every outcome equals Near's (R204). -/
  lc : Nat := 0
  timeInvalid : Bool := false
  /-- The digest of Stride s − 1 and its health bit. -/
  digest : Nat := 0
  health : Bool := false
  /-- τg of the groups for Stride s + 1; T_q of the ports at s divisible by 8. -/
  trims : List Int := []
  temps : List (Option Int) := []
  vcxo : Nat := 0
  vcxoInteg : Int := 0
  /-- The applied pilot codes, none for −12 V. -/
  pilots : List (Option Nat) := []
  safeOk : Nat := 0
  flocks : List Nat := []
  outputs : Nat := 0
  /-- The staged-change slots whose arm record Off confirms (R58). -/
  confirmed : Nat := 0
  stuckOn : Nat := 0
  sealDiff : Nat := 0
  /-- The agreed Stride J of the join or resync that runs, which Near names (R359–R361); from Off, that HRN_CMD.rejoin started the join
  (R358). -/
  joinAt : Option Nat := none
  clears : Bool := false
  deriving DecidableEq, Repr

/-- A half-cycle of a mains-link reception at a coupler (R396, R397), in 0.1 dBµV: per symbol the energy outside the four tones, and the
energies of the tones, f0 and f1 of pair A, then f0 and f1 of pair B. -/
structure MainsHalf where
  outside : List Nat := []
  tones : List Nat := []
  deriving DecidableEq, Repr

/-- What a coupler receives of a frame: its noise floor during sync, 0.1 dBµV, the SNR, 0.1 dB, and its line half-cycles from sync on. -/
structure MainsCoupler where
  noise : Nat := 0
  snr : Int := 0
  halves : List MainsHalf := []
  deriving DecidableEq, Repr

/-- What a slot of a tag round brings (R412, R415): nothing, a collision of RN16s, a PC and EPC with the CRC received and the first bit at
which the detector finds conflicting symbols, or an Authenticate reply, HID first, with the CRC received. -/
inductive TagReply where
  | empty
  | collided
  | epc (pc : Nat) (bytes : List Nat) (crc : Nat) (conflict : Option Nat)
  | authenticate (bytes : List Nat) (crc : Nat)
  deriving DecidableEq, Repr

/-- What a Write command brings (R416): the tag's reply with any error code, its handle and the CRC received; or the command has not been
sent in full yet. -/
inductive TagWriteReply where
  | reply (error : Option Nat) (handle crc : Nat)
  | unsent
  deriving DecidableEq, Repr

/-- A tag's reply to a Read: the words, its handle and the CRC received (R408, R418). -/
structure TagReadReply where
  words : List Nat
  handle : Nat := 0
  crc : Nat := 0
  deriving DecidableEq, Repr

/-- Where the parts of a copy of the configuration record lie in its 480 KiB, as byte offsets: the spec gives the record a header, a
body, their CRCs and a sequence (R238), and no layout of their content. -/
structure ConfigLayout where
  /-- The bytes that the header CRC and the body CRC cover, offset and count, and the words that hold the CRCs. -/
  header : Nat × Nat := (0, 0)
  headerCrc : Nat := 0
  body : Nat × Nat := (0, 0)
  bodyCrc : Nat := 0
  /-- The word of the record sequence. -/
  sequence : Nat := 0
  /-- The words that the boot ROM loads into registers: register address and offset (R114). -/
  words : List (Nat × Nat) := []
  /-- The words of the calendars, offset and count, and the CRC recorded with the active one (R209). -/
  active : Nat × Nat := (0, 0)
  activeCrc : Nat := 0
  passive : Nat × Nat := (0, 0)
  /-- The entries of the item table: entry and offset (R241). -/
  items : List (Nat × Nat) := []
  deriving DecidableEq, Repr

/-- What the start of the controller die finds outside its state: the layouts of copies A and B of the configuration record, whose bytes
are in the ledger store, and the level of PAIR_POS (R238, R346). -/
structure StartInputs where
  a : ConfigLayout := {}
  b : ConfigLayout := {}
  position : Bool := false
  deriving DecidableEq, Repr

/-- The memory of an uncorrectable ECC error (R43, R325, R471): in Fold SRAM with the meters whose accumulators lie in the word. -/
inductive EccPlace where
  | management
  | safety
  | fold (meters : List Nat)
  | other
  deriving DecidableEq, Repr

/-- What a module has heard of its twin by the time it decides its role (R348). -/
structure TwinReport where
  /-- Heard on the Harness link, not only on PAIR_HB_IN. -/
  onLink : Bool
  variant : Nat
  /-- Bit n: the twin's seal word of Pn differs. -/
  sealDiff : Nat
  position : Bool
  isNear : Bool
  identity : List Nat
  deriving DecidableEq, Repr

/-- The commands, in the order of the table; each docstring names the rule of its step. -/
inductive Instr where
  /-- STRIDE_EDGE (R37). -/
  | strideEdge (inp : StrideInputs)
  /-- SNAPSHOT_PUBLICATION (R24). -/
  | snapshotPublication
  /-- SWITCH_LINK_LOSS (R19). -/
  | switchLinkLoss (d : Nat)
  /-- CROOK_LINK_LOSS (R325). -/
  | crookLinkLoss
  /-- ECC_UNCORRECTABLE (R43). -/
  | eccUncorrectable (place : EccPlace)
  /-- FABRIC_CAP_HIT (R35). -/
  | fabricCapHit (k : Nat)
  /-- MBX_PAYLOAD_WRITE (R29). -/
  | mbxPayloadWrite (acc : Access) (p k w v : Nat)
  /-- MBX_POST (R29). -/
  | mbxPost (acc : Access) (p v : Nat)
  /-- MBX_TAKE (R29). -/
  | mbxTake (acc : Access) (p v : Nat)
  /-- REGISTER_WRITE (R48). -/
  | registerWrite (acc : Access) (a v cyc : Nat)
  /-- EV_PEND_CLEAR (R46). -/
  | evPendClear (acc : Access) (page v arriving : Nat)
  /-- EV_TYPE_WRITE (R46). -/
  | evTypeWrite (acc : Access) (page v : Nat)
  /-- OWNER_WRITE (R50). -/
  | ownerWrite (acc : Access) (page v : Nat)
  /-- VIOLATION_CLEAR (R49). -/
  | violationClear (acc : Access) (v : Nat)
  /-- CLAIM (R52). -/
  | claim (acc : Access) (k : Nat)
  /-- RELEASE (R52). -/
  | release (acc : Access) (k : Nat)
  /-- CLAIM_FORCE (R52). -/
  | claimForce (acc : Access) (v : Nat)
  /-- SHADOW_WRITE (R54). -/
  | shadowWrite (acc : Access) (a v : Nat) (mirrored : Bool)
  /-- STG_ARM (R56). -/
  | stgArm (acc : Access) (p v : Nat)
  /-- STG_CANCEL (R56). -/
  | stgCancel (acc : Access) (p v : Nat)
  /-- STG_APPLY (R56). -/
  | stgApply (near : Nat)
  /-- ARM_RECORD_RECEIVE (R58). -/
  | armRecordReceive (p target : Nat) (cancel handover : Bool)
  /-- PAGE_STORE_ECC_ERROR (R61). -/
  | pageStoreEccError (page : Nat)
  /-- LATCHED_WORD_READ (R143). -/
  | latchedWordRead (acc : Access) (a : Nat)
  /-- TIM_SEC_LO_READ (R64). -/
  | timSecLoRead (acc : Access) (cyc : Nat)
  /-- TIM_STEP_CMD (R65). -/
  | timStepCmd (acc : Access) (cyc : Nat)
  /-- STEP_APPLY (R65). -/
  | stepApply
  /-- LOAD_STRIDE_CMD (R72). -/
  | loadStrideCmd (acc : Access)
  /-- CLEAR_INTEG_CMD (R80). -/
  | clearIntegCmd (acc : Access)
  /-- STRIDE_LOAD (R72). -/
  | strideLoad
  /-- OFFSET_SAMPLE (R67). -/
  | offsetSample (acc : Access) (v cyc : Nat)
  /-- PPS_IN_EDGE (R66). -/
  | ppsInEdge (rising : Bool) (cyc : Nat)
  /-- HOLDOVER_ENTER (R68). -/
  | holdoverEnter
  /-- HOLDOVER_EXPIRE (R83). -/
  | holdoverExpire
  /-- PPS_MISSING (R68). -/
  | ppsMissing
  /-- VCXO_LOOP_UPDATE (R70). -/
  | vcxoLoopUpdate
  /-- COMPARATOR_ARM (R75). -/
  | comparatorArm (acc : Access) (t v cyc : Nat)
  /-- COMPARATOR_FIRE (R75). -/
  | comparatorFire (t cyc : Nat)
  /-- PPS_OUT_PULSE_END (R75). -/
  | ppsOutPulseEnd (cyc : Nat)
  /-- CAPTURE_EDGE (R76). -/
  | captureEdge (k : Nat) (rising : Bool) (cyc : Nat)
  /-- CAPTURE_POP (R76). -/
  | capturePop (acc : Access) (k : Nat)
  /-- TIME_LIMIT_FAULT (R83). -/
  | timeLimitFault
  /-- SETTLING_END (R93). -/
  | settlingEnd (n k : Nat)
  /-- SELECTOR_SWITCH_HIGH (R94). -/
  | selectorSwitchHigh (n : Nat)
  /-- REGRESSION_WINDOW_END (R99). -/
  | regressionWindowEnd
  /-- RATIO_APPLY (R100). -/
  | ratioApply (n : Nat)
  /-- HEALTH_FAULT_SET (R106). -/
  | healthFaultSet (n b : Nat)
  /-- HEALTH_FAULT_CLEAR (R106). -/
  | healthFaultClear (n b : Nat)
  /-- FREQ_TIMEOUT (R123). -/
  | freqTimeout (n : Nat)
  /-- ONE_SECOND_PUBLISH (R140). -/
  | oneSecondPublish
  /-- INPUT_FAULT_CLEAR (R131). -/
  | inputFaultClear (m : Nat)
  /-- MET_SEAL_CHANGE (R151). -/
  | metSealChange
  /-- DIE_TEMP_READ (R150). -/
  | dieTempRead (t : Int)
  /-- TAU_TRIM_STEP (R150). -/
  | tauTrimStep
  /-- HANDOVER_WINDOW_OPEN (R165). -/
  | handoverWindowOpen (acc : Access) (v : Nat)
  /-- PQ_WINDOW_EVAL (R175). -/
  | pqWindowEval
  /-- CALENDAR_DATA_ACCESS (R191). -/
  | calendarDataAccess (acc : Access) (write : Bool) (v : Nat) (mirror : Option Nat)
  /-- CALENDAR_ARM (R192). -/
  | calendarArm (acc : Access) (v : Nat) (mirror : Option Nat)
  /-- CALENDAR_CANCEL (R192). -/
  | calendarCancel (acc : Access) (v : Nat) (mirror : Option Nat)
  /-- CALENDAR_ACTIVATE (R193). -/
  | calendarActivate
  /-- DEMAND_CLOSE (R195). -/
  | demandClose
  /-- BILLING_CLOSE (R200). -/
  | billingClose
  /-- PERIODIC_SAVE (R214). -/
  | periodicSave
  /-- FORCE_SAVE_CMD (R214). -/
  | forceSaveCmd (acc : Access) (v : Nat)
  /-- SAVE_COMPLETE (R214). -/
  | saveComplete
  /-- PFW_N_ASSERT (R218). -/
  | pfwNAssert
  /-- PFW_ACCEPT (R219). -/
  | pfwAccept
  /-- COMMIT_WRITTEN (R219). -/
  | commitWritten
  /-- TAIL_RECORD (R220). -/
  | tailRecord
  /-- BROWNOUT (R224). -/
  | brownout
  /-- PFW_N_RELEASE (R224). -/
  | pfwNRelease
  /-- RESET_COMMIT (R224). -/
  | resetCommit
  /-- LEDGER_RESTORE (R225). -/
  | ledgerRestore (records : List CalRecord)
  /-- MRAM_ECC_ERROR (R211). -/
  | mramEccError (a : Nat)
  /-- LEDGER_WRITE_WORD (R237). -/
  | ledgerWriteWord (acc : Access) (v : Nat)
  /-- LEDGER_READ_WORD (R237). -/
  | ledgerReadWord (acc : Access)
  /-- FAULT_RECORD_APPEND (R213). -/
  | faultRecordAppend (acc : Access) (v : Nat)
  /-- SIGN_READING (R236). -/
  | signReading (acc : Access) (v : Nat)
  /-- SIGN_READING_DONE (R236). -/
  | signReadingDone
  /-- DISPLAY_POLL (R231). -/
  | displayPoll
  /-- DISPLAY_REPLY (R234). -/
  | displayReply (d : Nat) (bytes : List Nat)
  /-- DISPLAY_REPLY_TIMEOUT (R231). -/
  | displayReplyTimeout (d : Nat)
  /-- DISPLAY_ITEM_STEP (R234). -/
  | displayItemStep (d : Nat)
  /-- DISPLAY_ITEM_ACCESS (R240). -/
  | displayItemAccess (acc : Access) (shadow write : Bool) (v : Nat) (mirror : Option Nat)
  /-- PWM_WRITE (R244). -/
  | pwmWrite (acc : Access) (n v : Nat)
  /-- PWM_PERIOD_START (R245). -/
  | pwmPeriodStart (n : Nat)
  /-- PILOT_STATE_ACCEPT (R248). -/
  | pilotStateAccept (n : Nat)
  /-- PORT_DROP_CMD (R249). -/
  | portDropCmd (acc : Access) (n : Nat)
  /-- PORT_REARM (R251). -/
  | portRearm (acc : Access) (n : Nat)
  /-- PORT_AUTO_REARM (R251). -/
  | portAutoRearm (n : Nat)
  /-- PROXIMITY_ACCEPT (R253). -/
  | proximityAccept (n : Nat)
  /-- CABLE_TEMP_CONVERT (R254). -/
  | cableTempConvert (n r : Nat)
  /-- LOCK_DEBOUNCE (R255). -/
  | lockDebounce (n : Nat)
  /-- PORT_FRAME_RECEIVE (R259). -/
  | portFrameReceive (n : Nat) (bytes att : List Nat) (cyc : Nat)
  /-- PORT_TX_TAIL_WRITE (R259). -/
  | portTxTailWrite (acc : Access) (n v : Nat)
  /-- PORT_FRAME_SENT (R259). -/
  | portFrameSent (n : Nat) (error : Bool) (cyc : Nat)
  /-- CAN_TX_REQUEST (R266). -/
  | canTxRequest (acc : Access) (n v : Nat)
  /-- CAN_TX_CANCEL (R261). -/
  | canTxCancel (acc : Access) (n v : Nat)
  /-- CAN_BUFFER_WRITE (R261). -/
  | canBufferWrite (acc : Access) (n b w v : Nat)
  /-- CAN_FRAME_SENT (R261). -/
  | canFrameSent (n : Nat)
  /-- CAN_FRAME_RECEIVE (R266). -/
  | canFrameReceive (n w0 w1 : Nat) (data : List Nat) (cyc : Nat)
  /-- CAN_RX_POP (R266). -/
  | canRxPop (acc : Access) (n v : Nat)
  /-- CAN_BUS_OFF (R261). -/
  | canBusOff (n : Nat)
  /-- CAN_BUS_OFF_RECOVERY (R261). -/
  | canBusOffRecovery (n : Nat)
  /-- DRIVE_IN_EDGE (R273). -/
  | driveInEdge (k : Nat) (level : Bool)
  /-- OVERCURRENT_TRIP (R276). -/
  | overcurrentTrip (n : Overcurrent)
  /-- SHORT_CIRCUIT_CUT (R276). -/
  | shortCircuitCut (n ma : Nat)
  /-- THERMAL_LATCH_SET (R277). -/
  | thermalLatchSet (n : Nat)
  /-- THERMAL_LATCH_RELEASE (R277). -/
  | thermalLatchRelease (n : Nat)
  /-- CLAMP_UNLOCK (R278). -/
  | clampUnlock (acc : Access) (n : Nat)
  /-- RETRY_DELAY_EXPIRE (R280). -/
  | retryDelayExpire (n : Nat)
  /-- RETRY_RELOAD (R279). -/
  | retryReload (n : Nat)
  /-- CHANNEL_CLEAR (R280). -/
  | channelClear (acc : Access) (n : Nat)
  /-- BANK_UNDERVOLTAGE (R271). -/
  | bankUndervoltage (b : Nat)
  /-- BANK_RECOVER (R271). -/
  | bankRecover (b : Nat)
  /-- BANK_REVERSED (R271). -/
  | bankReversed (b : Nat)
  /-- OPEN_LOAD_ON (R284). -/
  | openLoadOn (n : Nat)
  /-- OFF_STATE_DIAG (R285). -/
  | offStateDiag (acc : Access) (n : Nat)
  /-- DIAG_COMPLETE (R285). -/
  | diagComplete (n : Nat)
  /-- GLOBAL_MODE_WRITE (R285). -/
  | globalModeWrite (acc : Access) (v : Nat)
  /-- BANK_OVERLOAD (R286). -/
  | bankOverload (b : Nat)
  /-- VSLOT_ROUTE (R283). -/
  | vslotRoute (acc : Access) (n v : Nat)
  /-- BRIDLE_REQUEST (R287). -/
  | bridleRequest
  /-- BRIDLE_IN_EDGE (R288). -/
  | bridleInEdge (k : Nat) (level : Bool)
  /-- TAKE (R289). -/
  | take (acc : Access) (v : Nat)
  /-- TAKE_APPLY (R289). -/
  | takeApply
  /-- BRIDLE_MAP_COMMIT (R291). -/
  | bridleMapCommit (acc : Access) (v : Nat)
  /-- BRIDLE_MAP_COMMIT_DONE (R291). -/
  | bridleMapCommitDone (ok0 ok1 : Bool)
  /-- SWITCH_DIE_POWER_UP (R293). -/
  | switchDiePowerUp (d : Nat) (mapOk : Bool)
  /-- DARK_TEST (R302). -/
  | darkTest (a : Bool) (f : Nat) (fell : Bool)
  /-- CUT_OUTPUT_STUCK (R302). -/
  | cutOutputStuck (a : Bool) (f : Nat)
  /-- RCM_SENSOR_FAULT (R306). -/
  | rcmSensorFault (n : Nat) (bad : Bool)
  /-- RCM_BAND_TRIP (R308). -/
  | rcmBandTrip (a : Bool) (n band : Nat)
  /-- RCM_BAND_DISAGREE (R310). -/
  | rcmBandDisagree (n band : Nat)
  /-- RCM_TEST (R311). -/
  | rcmTest (acc : Access) (n v : Nat)
  /-- RCM_TEST_DONE (R311). -/
  | rcmTestDone (n : Nat)
  /-- IMD_HALF_PERIOD_END (R312). -/
  | imdHalfPeriodEnd (k uv ms : Nat) (settled : Bool)
  /-- WELD_CHECK_TIMEOUT (R314). -/
  | weldCheckTimeout (n : Nat)
  /-- ESTOP_CONTACT_CHANGE (R316). -/
  | estopContactChange (k : Nat) (b closed : Bool)
  /-- ESTOP_TEST_PULSE (R315). -/
  | estopTestPulse (k : Nat) (b stayed : Bool)
  /-- ESTOP_DISCREPANCY (R316). -/
  | estopDiscrepancy (k : Nat)
  /-- FLOCK_POWER_EXCEED (R318). -/
  | flockPowerExceed (f : Nat)
  /-- SAFETY_FRAME_RECEIVE (R321). -/
  | safetyFrameReceive (net : Nat) (bytes : List Nat) (cyc : Nat)
  /-- SAFETY_FRAME_WINDOW_END (R321). -/
  | safetyFrameWindowEnd
  /-- SAFETY_FRAME_SEND (R320). -/
  | safetyFrameSend (acc : Access) (v cyc : Nat)
  /-- HEARTBEAT_SEND (R320). -/
  | heartbeatSend (cyc : Nat)
  /-- PEER_TIMEOUT (R322). -/
  | peerTimeout (peer : Nat)
  /-- SINGLE_NETWORK_END (R323). -/
  | singleNetworkEnd
  /-- NETWORK_RECOVERY (R323). -/
  | networkRecovery
  /-- DEGRADED_SUPERVISION_START (R324). -/
  | degradedSupervisionStart (f : Nat)
  /-- DEGRADED_WARNING (R324). -/
  | degradedWarning (f : Nat)
  /-- DEGRADED_DEADLINE (R324). -/
  | degradedDeadline (f : Nat)
  /-- DEGRADED_RECOVERY (R324). -/
  | degradedRecovery (f : Nat)
  /-- SAFETY_WATCHDOG_SERVICE (R325). -/
  | safetyWatchdogService (acc : Access) (v : Nat)
  /-- SAFETY_WATCHDOG_EXPIRE (R325). -/
  | safetyWatchdogExpire
  /-- RECOVERY_WINDOW_EXPIRE (R326). -/
  | recoveryWindowExpire
  /-- RECOVERY_FINISH (R328). -/
  | recoveryFinish
  /-- FLOCK_RELEASE (R327). -/
  | flockRelease (acc : Access) (mask : Nat)
  /-- FLOCK_STOP (R327). -/
  | flockStop (acc : Access) (mask : Nat)
  /-- LOCKOUT_RELEASE (R327). -/
  | lockoutRelease (acc : Access) (mask : Nat)
  /-- ESTOP_RESET (R327). -/
  | estopReset (acc : Access) (mask : Nat)
  /-- SAF_CMD_INVALID (R327). -/
  | safCmdInvalid (acc : Access) (v : Nat)
  /-- STRAP_READ (R331). -/
  | strapRead (words crook : List Nat)
  /-- STRAP_REREAD (R334). -/
  | strapReread (words crook : List Nat)
  /-- SPB_DATA_ACCESS (R341). -/
  | spbDataAccess (acc : Access) (write : Bool) (v : Nat)
  /-- SPB_COMMIT (R337). -/
  | spbCommit (acc : Access)
  /-- SPB_CONFIRM (R337). -/
  | spbConfirm (acc : Access)
  /-- SPB_RECHECK (R337). -/
  | spbRecheck
  /-- SAFE_OK_RELEASE (R305). -/
  | safeOkRelease (n : Nat)
  /-- STARTUP_RELEASE (R344). -/
  | startupRelease (f : Nat)
  /-- SAFETY_RX_POP (R341). -/
  | safetyRxPop (acc : Access) (v : Nat)
  /-- PAIR_SEL_CHANGE (R347). -/
  | pairSelChange (level : Bool)
  /-- ROLE_DECISION (R348). -/
  | roleDecision (twin : Option TwinReport)
  /-- STRIDE_FRAME_RECEIVE (R353). -/
  | strideFrameReceive (valid errored : Nat) (frame : StrideFrame)
  /-- STRIDE_FRAME_DEADLINE (R353). -/
  | strideFrameDeadline (errored : Nat)
  /-- JOIN (R359). -/
  | join (stride : Nat) (delays : List Nat)
  /-- STORE_COPY_DONE (R359). -/
  | storeCopyDone (near : Machine.TwinImage)
  /-- JOIN_MARK_CAPTURE (R359). -/
  | joinMarkCapture
  /-- JOIN_APPLY (R360). -/
  | joinApply (near frame : Machine.TwinImage)
  /-- TAKEOVER (R363). -/
  | takeover
  /-- ASSUME_CMD (R362). -/
  | assumeCmd (acc : Access)
  /-- SWAP_CMD (R364). -/
  | swapCmd (acc : Access)
  /-- SWAP_HANDOVER (R364). -/
  | swapHandover
  /-- SWAP_COMPLETE (R364). -/
  | swapComplete
  /-- REJOIN_CMD (R358). -/
  | rejoinCmd (acc : Access)
  /-- HARNESS_LINK_DOWN (R365). -/
  | harnessLinkDown
  /-- HARNESS_LINK_UP (R365). -/
  | harnessLinkUp
  /-- HARNESS_LANE_DOWN (R352). -/
  | harnessLaneDown (l : Nat)
  /-- HARNESS_MSG_SEND (R367). -/
  | harnessMsgSend (acc : Access) (v : Nat)
  /-- HARNESS_MSG_RECEIVE (R367). -/
  | harnessMsgReceive (bytes : List Nat)
  /-- HARNESS_MSG_POP (R367). -/
  | harnessMsgPop (acc : Access) (v : Nat)
  /-- NET_LINK_UP (R371). -/
  | netLinkUp (n : Nat) (tenG : Bool)
  /-- NET_LINK_DOWN (R371). -/
  | netLinkDown (n : Nat) (los : Bool)
  /-- NET_SPEED_TRY (R371). -/
  | netSpeedTry (n : Nat)
  /-- NET_FRAME_RECEIVE (R372). -/
  | netFrameReceive (n : Nat) (frame : List Nat) (cyc : Nat)
  /-- NET_RING_DELIVER (R373). -/
  | netRingDeliver (t : Timed)
  /-- NET_TX_TAIL_WRITE (R376). -/
  | netTxTailWrite (acc : Access) (r v cyc : Nat)
  /-- NET_FRAME_SENT (R376). -/
  | netFrameSent (n cyc : Nat)
  /-- STREAM_ENABLE (R380). -/
  | streamEnable (acc : Access) (k v : Nat)
  /-- STREAM_FRAME_SEND (R377). -/
  | streamFrameSend (k : Nat)
  /-- RING_PLANE_WRITE (R381). -/
  | ringPlaneWrite (acc : Access) (t : Timed) (p : Nat)
  /-- MAINS_ZC_EDGE (R391). -/
  | mainsZcEdge (x cyc : Nat)
  /-- ZC_PREDICTED_CROSSING (R391). -/
  | zcPredictedCrossing (cyc : Nat)
  /-- MAINS_FRAME_RECEIVE (R399). -/
  | mainsFrameReceive (rx : List MainsCoupler) (cyc : Nat)
  /-- MAINS_SEND (R400). -/
  | mainsSend (acc : Access) (v : Nat)
  /-- MAINS_ABORT (R400). -/
  | mainsAbort (acc : Access) (v : Nat)
  /-- MAINS_TX_START (R400). -/
  | mainsTxStart (bandBusy : Bool)
  /-- MAINS_TX_DONE (R393). -/
  | mainsTxDone
  /-- MAINS_RX_POP (R402). -/
  | mainsRxPop (acc : Access) (v : Nat)
  /-- TAG_PING (R409). -/
  | tagPing (gammas : List (Nat × (Int × Int)))
  /-- TAG_ROUND_START (R411). -/
  | tagRoundStart (acc : Access) (re im : Int)
  /-- TAG_STOP (R421). -/
  | tagStop (acc : Access)
  /-- TAG_WRITE (R416). -/
  | tagWrite (acc : Access) (re im : Int) (replies : List TagWriteReply)
  /-- TAG_RECORD_WRITE (R418). -/
  | tagRecordWrite (acc : Access) (re im : Int) (copies : Option (TagReadReply × TagReadReply)) (replies : List TagWriteReply)
      (verify : Option (TagReadReply × TagReadReply))
  /-- TAG_SLOT (R412). -/
  | tagSlot (reply : TagReply) (rssi phase : Int) (cyc : Nat)
  /-- HALTER_RESOLVE_ANSWER (R415). -/
  | halterResolveAnswer
  /-- TAG_REPLY_TIMEOUT (R416). -/
  | tagReplyTimeout (rssi phase : Int) (cyc : Nat)
  /-- TAG_ROUND_END (R411). -/
  | tagRoundEnd
  /-- ANTENNA_FAULT (R407). -/
  | antennaFault (a : Nat) (sent : Bool)
  /-- TAG_CHANNEL_HOP (R406). -/
  | tagChannelHop
  /-- TAG_REP_POP (R421). -/
  | tagRepPop (acc : Access) (v : Nat)
  /-- KEY_WRITE (R427). -/
  | keyWrite (acc : Access)
  /-- KEY_ERASE (R427). -/
  | keyErase (acc : Access)
  /-- KEY_GENERATE (R427). -/
  | keyGenerate (acc : Access)
  /-- KEY_ATTR (R427). -/
  | keyAttr (acc : Access)
  /-- VAULT_CFG_COMMIT (R445). -/
  | vaultCfgCommit (acc : Access)
  /-- HALTER_SET (R445). -/
  | halterSet (acc : Access)
  /-- KEY_COMMAND_DONE (R430). -/
  | keyCommandDone
  /-- VAULT_RANDOM (R435). -/
  | vaultRandom (acc : Access) (n : Nat)
  /-- VAULT_SHA384 (R435). -/
  | vaultSha384 (acc : Access) (n : Nat)
  /-- VAULT_HMAC (R435). -/
  | vaultHmac (acc : Access) (n : Nat)
  /-- VAULT_CMAC (R435). -/
  | vaultCmac (acc : Access) (n : Nat)
  /-- VAULT_GCM_ENCRYPT (R435). -/
  | vaultGcmEncrypt (acc : Access) (n : Nat)
  /-- VAULT_GCM_DECRYPT (R435). -/
  | vaultGcmDecrypt (acc : Access) (n : Nat)
  /-- VAULT_ECDSA_SIGN (R435). -/
  | vaultEcdsaSign (acc : Access) (n : Nat)
  /-- VAULT_ECDSA_VERIFY (R435). -/
  | vaultEcdsaVerify (acc : Access) (n : Nat)
  /-- VAULT_ECDH (R435). -/
  | vaultEcdh (acc : Access) (n : Nat)
  /-- VAULT_PUBLIC_KEY (R435). -/
  | vaultPublicKey (acc : Access) (n : Nat)
  /-- VAULT_COSE_SIGN1 (R435). -/
  | vaultCoseSign1 (acc : Access) (n : Nat)
  /-- VAULT_ATTEST (R440). -/
  | vaultAttest (acc : Access) (n : Nat)
  /-- VAULT_SLOT_INFO (R435). -/
  | vaultSlotInfo (acc : Access) (n : Nat)
  /-- VAULT_REQUEST_ABORT (R437). -/
  | vaultRequestAbort (acc : Access) (n : Nat)
  /-- VAULT_REQUEST_START (R439). -/
  | vaultRequestStart (engine : Nat)
  /-- VAULT_REQUEST_DONE (R437). -/
  | vaultRequestDone (engine : Nat)
  /-- TRNG_HEALTH_FAIL (R441). -/
  | trngHealthFail
  /-- DRBG_RESEED (R441). -/
  | drbgReseed
  /-- VAULT_RESTORE_DONE (R446). -/
  | vaultRestoreDone
  /-- EVC_CLAIM_READ (R452). -/
  | evcClaimRead (acc : Access) (t : Nat)
  /-- EVC_COMPLETE (R454). -/
  | evcComplete (acc : Access) (t v : Nat)
  /-- EVC_RAISE_SELF (R455). -/
  | evcRaiseSelf (acc : Access) (t : Nat)
  /-- EVC_RAISE_SOFTWARE (R455). -/
  | evcRaiseSoftware (acc : Access) (t id_ : Nat)
  /-- EVC_RAISE_IPI (R455). -/
  | evcRaiseIpi (acc : Access) (t dest : Nat)
  /-- EVC_TARGET_WRITE (R460). -/
  | evcTargetWrite (acc : Access) (id_ t : Nat)
  /-- COMPAT_MODE_WRITE (R462). -/
  | compatModeWrite (acc : Access) (v : Nat)
  /-- CORE_POWER_GATE (R483). -/
  | corePowerGate (acc : Access) (v : Nat)
  /-- CORE_WFI (R456). -/
  | coreWfi (t : CoreSleep)
  /-- SHARED_SOURCE_STALL (R466). -/
  | sharedSourceStall (id : Nat)
  /-- POWER_GOOD (R467). -/
  | powerGood (inp : StartInputs)
  /-- PLANE_START_CMD (R468). -/
  | planeStartCmd (acc : Access) (p v : Nat)
  /-- IMAGE_LOAD_DONE (R477). -/
  | imageLoadDone
  /-- WATCHDOG_SERVICE (R470). -/
  | watchdogService (t v : Nat)
  /-- WATCHDOG_HALF (R470). -/
  | watchdogHalf (p : Nat)
  /-- WATCHDOG_EXPIRE (R470). -/
  | watchdogExpire (p : Nat)
  /-- PLANE_RESET_CMD (R471). -/
  | planeResetCmd (acc : Access) (v : Nat)
  /-- DIE_RESET_CMD (R471). -/
  | dieResetCmd (acc : Access) (v : Nat)
  /-- CONTROLLER_DIE_RESET (R473). -/
  | controllerDieReset
  /-- MODULE_RESET_CMD (R474). -/
  | moduleResetCmd (acc : Access) (v : Nat)
  /-- RESET_N_PIN (R471). -/
  | resetNPin
  /-- VIN_COLLAPSE (R492). -/
  | vinCollapse
  /-- VIN_OVERVOLTAGE (R492). -/
  | vinOvervoltage (mv : Nat)
  /-- REFCLK_FAULT (R496). -/
  | refclkFault
  /-- DIE_OVERTEMP (R498). -/
  | dieOvertemp
  /-- PLANE_SWITCH_CMD (R481). -/
  | planeSwitchCmd (acc : Access) (p v : Nat)
  /-- PLANE_CONFIRM_CMD (R478). -/
  | planeConfirmCmd (acc : Access) (p v : Nat)
  /-- SVN_COMMIT_CMD (R479). -/
  | svnCommitCmd (acc : Access) (p v : Nat)
  /-- PLANE_REVERT_CMD (R484). -/
  | planeRevertCmd (acc : Access) (p v : Nat)
  /-- TRIAL_WINDOW_EXPIRE (R478). -/
  | trialWindowExpire (p : Nat)
  /-- NOR_ERASE_CMD (R485). -/
  | norEraseCmd (acc : Access)
  /-- NOR_PROGRAM_CMD (R485). -/
  | norProgramCmd (acc : Access)
  /-- NOR_VERIFY_CMD (R480). -/
  | norVerifyCmd (acc : Access)
  /-- NOR_INVALIDATE_CMD (R480). -/
  | norInvalidateCmd (acc : Access)
  /-- NOR_COMMAND_DONE (R485). -/
  | norCommandDone
  /-- KEY_HASH_ENROL (R479). -/
  | keyHashEnrol (acc : Access)
  /-- KEY_HASH_REVOKE (R479). -/
  | keyHashRevoke (acc : Access)
  /-- LOCKSTEP_ERROR (R325). -/
  | lockstepError
  /-- CORRECTED_ECC_ERROR (R448). -/
  | correctedEccError (target : Option Nat)
  /-- CORE_TIMER_COMPARE (R448). -/
  | coreTimerCompare (t : Nat) (level : Bool)
  /-- HARNESS_LANE_UP (R352). -/
  | harnessLaneUp (l : Nat)
  /-- MOD_ABS_CHANGE (R383). -/
  | modAbsChange (n : Nat) (high : Bool)
  /-- PORT_PHY_LINK_CHANGE (R265). -/
  | portPhyLinkChange (n : Nat) (up : Bool)
  /-- CAN_ERROR_PASSIVE (R267). -/
  | canErrorPassive (n tec rec_ : Nat)
  /-- COUPLER_DRIVER_FAULT (R403). -/
  | couplerDriverFault (x : Nat) (bad : Bool)
  /-- ZC_SENSE_LOSS (R403). -/
  | zcSenseLoss (x : Nat)
  /-- RADIO_LINK_LOSS (R421). -/
  | radioLinkLoss (lost : Bool)
  /-- PAIRED_CROOK_LOSS_CUT (R351). -/
  | pairedCrookLossCut
  /-- RESET_RELEASE (R473). -/
  | resetRelease (inp : StartInputs)
  /-- CAL_CRC_UPDATE (R153). -/
  | calCrcUpdate
  /-- PASSIVE_CRC_UPDATE (R207). -/
  | passiveCrcUpdate
  deriving DecidableEq, Repr

end Sys2Proof
end

