-- ==== Sys2Proof/WellFormed.lean ====
section
/-! DEFINITION. Well-formed commands: every operand within what the spec's largest variant has (R2) and what its field or its word can
hold. A meaning is total all the same: an operand beyond the fitted units has no effect (R3). -/

namespace Sys2Proof

/-- An index below n. -/
def upTo (n x : Nat) : Bool := decide (x < n)

/-- A 32-bit word (R44). -/
def word (x : Nat) : Bool := decide (x < 2 ^ 32)

/-- A 64-bit number. -/
def number64 (x : Nat) : Bool := decide (x < 2 ^ 64)

/-- A REFCLK cycle of a Stride (R10). -/
def cycle (x : Nat) : Bool := decide (x ≤ 12500)

/-- An aligned address of the bus: the fabric's 32 bits, and above them the model's places of the port-traffic buffer and of the private
memories (log 30). -/
def busAddress (x : Nat) : Bool := decide (x % 4 = 0) && decide (x < 0x101700000)

/-- The base of a page of the peripheral window (R44). -/
def pageAddress (x : Nat) : Bool := decide (0x40000000 ≤ x) && decide (x < 0x40600000) && decide (x % 0x1000 = 0)

/-- Bytes. -/
def octets (l : List Nat) : Bool := l.all fun b => decide (b < 256)

/-- A tag's reply to a Read: 16-bit words, handle and CRC (R417). -/
def readReply (r : TagReadReply) : Bool := (r.words.all (upTo 65536)) && upTo 65536 r.handle && upTo 65536 r.crc

/-- What a Write command brings: an 8-bit error code, handle and CRC (R416). -/
def writeReply (r : TagWriteReply) : Bool :=
  match r with
  | .reply error handle crc => error.all (upTo 256) && upTo 65536 handle && upTo 65536 crc
  | .unsent => true

/-- The replies to the Reads of a record's two copies (R418). -/
def copyPair (p : Option (TagReadReply × TagReadReply)) : Bool := p.all fun q => readReply q.1 && readReply q.2

/-- A bus access of 1, 2, 4 or 8 bytes that starts within the addressed word (R48). -/
def Access.wellFormed (acc : Access) : Bool := [1, 2, 4, 8].contains acc.size && decide (acc.skew < 4)

/-- n bytes at an offset lie in a copy of the configuration record, of 480 KiB (R210). -/
def inCopy (ofs n : Nat) : Bool := decide (ofs + n ≤ 0x78000)

/-- A layout of a copy: everything lies in it, calendars have at most 553 words and the item table 2048 entries (R187, R239). -/
def ConfigLayout.wellFormed (x : ConfigLayout) : Bool :=
  inCopy x.header.1 x.header.2 && inCopy x.headerCrc 4 && inCopy x.body.1 x.body.2 && inCopy x.bodyCrc 4 && inCopy x.sequence 4 &&
    (x.words.all fun p => busAddress p.1 && inCopy p.2 4) && upTo 554 x.active.2 && inCopy x.active.1 (4 * x.active.2) &&
    inCopy x.activeCrc 4 && upTo 554 x.passive.2 && inCopy x.passive.1 (4 * x.passive.2) &&
    x.items.all fun p => upTo 2048 p.1 && inCopy p.2 4

/-- What a start of the controller die finds. -/
def StartInputs.wellFormed (x : StartInputs) : Bool := x.a.wellFormed && x.b.wellFormed

/-- What reaches the pins: units of the largest variant, levels of one bit each. -/
def StrideInputs.wellFormed (i : StrideInputs) : Bool :=
  (i.bits.all fun p => upTo 192 p.1) && (i.pilot.all fun p => upTo 32 p.1 && decide (p.2.length ≤ 125)) &&
    (i.proximity.all fun p => upTo 32 p.1) &&
    (i.channel.all fun p => upTo 64 p.1 && upTo 4096 p.2.1 && upTo 4096 p.2.2) && (i.clamp.all fun p => upTo 64 p.1) &&
    (i.bank.all fun p => upTo 8 p.1) && (i.lock.all fun p => upTo 32 p.1) && (i.rcm.all fun p => upTo 32 p.1) &&
    (i.crookLevel.all fun p => upTo 32 p.1 && upTo 64 p.2) && upTo 16 i.badFrames && upTo 65536 i.cutPins

/-- n bytes from an address lie in the configuration records (R210). -/
def inRecords (a n : Nat) : Bool := decide (0x0010000 ≤ a) && decide (a + n ≤ 0x0100000)

/-- A calibration record lies in the configuration records (R158). -/
def CalRecord.wellFormed (r : CalRecord) : Bool :=
  inRecords r.image.1 r.image.2 && inRecords r.crc 4 && inRecords r.counter 4 && (r.signature.all fun a => inRecords a 64) &&
    (r.signature.isNone || inRecords r.signed.1 r.signed.2)

/-- A tag's reply: a 16-bit PC, bytes, and a bit number within a reply (R412). -/
def TagReply.wellFormed (r : TagReply) : Bool :=
  match r with
  | .empty => true
  | .collided => true
  | .epc pc bytes crc conflict => upTo 65536 pc && octets bytes && upTo 65536 crc && conflict.all (upTo 512)
  | .authenticate bytes crc => octets bytes && upTo 65536 crc

/-- A Stride frame: one of the roles, four watchdogs and slots, eight groups, 64-bit numbers (R353). -/
def StrideFrame.wellFormed (f : StrideFrame) : Bool :=
  upTo 4 f.role && upTo 16 f.watchdogs && upTo 16 f.confirmed && number64 f.stride && number64 f.lc && number64 f.digest &&
    number64 f.outputs && word f.safeOk && decide (f.trims.length ≤ 8) && decide (f.temps.length ≤ 32) &&
    decide (f.pilots.length ≤ 32) && decide (f.flocks.length ≤ 8)

/-- The operands of a command are in range. -/
def Instr.wellFormed (i : Instr) : Bool :=
  match i with
  | .strideEdge inp => inp.wellFormed
  | .snapshotPublication => true
  | .switchLinkLoss d => upTo 2 d
  | .crookLinkLoss => true
  | .eccUncorrectable _ => true
  | .fabricCapHit k => upTo 6 k
  | .mbxPayloadWrite acc p k w v => acc.wellFormed && upTo 6 p && upTo 16 k && upTo 16 w && word v
  | .mbxPost acc p v => acc.wellFormed && upTo 6 p && word v
  | .mbxTake acc p v => acc.wellFormed && upTo 6 p && word v
  | .registerWrite acc a v cyc => acc.wellFormed && busAddress a && word v && cycle cyc
  | .evPendClear acc page v arriving => acc.wellFormed && pageAddress page && word v && word arriving
  | .evTypeWrite acc page v => acc.wellFormed && pageAddress page && word v
  | .ownerWrite acc page v => acc.wellFormed && pageAddress page && word v
  | .violationClear acc v => acc.wellFormed && word v
  | .claim acc k => acc.wellFormed && upTo 128 k
  | .release acc k => acc.wellFormed && upTo 128 k
  | .claimForce acc v => acc.wellFormed && word v
  | .shadowWrite acc a v _ => acc.wellFormed && busAddress a && word v
  | .stgArm acc p v => acc.wellFormed && upTo 4 p && word v
  | .stgCancel acc p v => acc.wellFormed && upTo 4 p && word v
  | .stgApply near => upTo 16 near
  | .armRecordReceive p target _ _ => upTo 4 p && number64 target
  | .pageStoreEccError page => pageAddress page
  | .latchedWordRead acc a => acc.wellFormed && busAddress a
  | .timSecLoRead acc cyc => acc.wellFormed && cycle cyc
  | .timStepCmd acc cyc => acc.wellFormed && cycle cyc
  | .stepApply => true
  | .loadStrideCmd acc => acc.wellFormed
  | .clearIntegCmd acc => acc.wellFormed
  | .strideLoad => true
  | .offsetSample acc v cyc => acc.wellFormed && word v && cycle cyc
  | .ppsInEdge _ cyc => cycle cyc
  | .holdoverEnter => true
  | .holdoverExpire => true
  | .ppsMissing => true
  | .vcxoLoopUpdate => true
  | .comparatorArm acc t v cyc => acc.wellFormed && upTo 8 t && word v && cycle cyc
  | .comparatorFire t cyc => upTo 8 t && cycle cyc
  | .ppsOutPulseEnd cyc => cycle cyc
  | .captureEdge k _ cyc => upTo 8 k && cycle cyc
  | .capturePop acc k => acc.wellFormed && upTo 8 k
  | .timeLimitFault => true
  | .settlingEnd n k => upTo 64 n && upTo 3 k
  | .selectorSwitchHigh n => upTo 64 n
  | .regressionWindowEnd => true
  | .ratioApply n => upTo 64 n
  | .healthFaultSet n b => upTo 64 n && upTo 15 b
  | .healthFaultClear n b => upTo 64 n && upTo 15 b
  | .freqTimeout n => upTo 64 n
  | .oneSecondPublish => true
  | .inputFaultClear m => upTo 48 m
  | .metSealChange => true
  | .dieTempRead _ => true
  | .tauTrimStep => true
  | .handoverWindowOpen acc v => acc.wellFormed && word v
  | .pqWindowEval => true
  | .calendarDataAccess acc _ v mirror => acc.wellFormed && word v && mirror.all word
  | .calendarArm acc v _ => acc.wellFormed && word v
  | .calendarCancel acc v _ => acc.wellFormed && word v
  | .calendarActivate => true
  | .demandClose => true
  | .billingClose => true
  | .periodicSave => true
  | .forceSaveCmd acc v => acc.wellFormed && word v
  | .saveComplete => true
  | .pfwNAssert => true
  | .pfwAccept => true
  | .commitWritten => true
  | .tailRecord => true
  | .brownout => true
  | .pfwNRelease => true
  | .resetCommit => true
  | .ledgerRestore records => records.all CalRecord.wellFormed
  | .mramEccError a => upTo 0x4000000 a
  | .ledgerWriteWord acc v => acc.wellFormed && word v
  | .ledgerReadWord acc => acc.wellFormed
  | .faultRecordAppend acc v => acc.wellFormed && word v
  | .signReading acc v => acc.wellFormed && word v
  | .signReadingDone => true
  | .displayPoll => true
  | .displayReply d bytes => upTo 32 d && octets bytes
  | .displayReplyTimeout d => upTo 32 d
  | .displayItemStep d => upTo 32 d
  | .displayItemAccess acc _ _ v mirror => acc.wellFormed && word v && mirror.all word
  | .pwmWrite acc n v => acc.wellFormed && upTo 32 n && word v
  | .pwmPeriodStart n => upTo 32 n
  | .pilotStateAccept n => upTo 32 n
  | .portDropCmd acc n => acc.wellFormed && upTo 32 n
  | .portRearm acc n => acc.wellFormed && upTo 32 n
  | .portAutoRearm n => upTo 32 n
  | .proximityAccept n => upTo 32 n
  | .cableTempConvert n _ => upTo 32 n
  | .lockDebounce n => upTo 32 n
  | .portFrameReceive n bytes att cyc => upTo 32 n && octets bytes && att.all word && cycle cyc
  | .portTxTailWrite acc n v => acc.wellFormed && upTo 32 n && word v
  | .portFrameSent n _ cyc => upTo 32 n && cycle cyc
  | .canTxRequest acc n v => acc.wellFormed && upTo 4 n && word v
  | .canTxCancel acc n v => acc.wellFormed && upTo 4 n && word v
  | .canBufferWrite acc n b w v => acc.wellFormed && upTo 4 n && upTo 32 b && upTo 18 w && word v
  | .canFrameSent n => upTo 4 n
  | .canFrameReceive n w0 w1 data cyc => upTo 4 n && word w0 && word w1 && octets data && cycle cyc
  | .canRxPop acc n v => acc.wellFormed && upTo 4 n && word v
  | .canBusOff n => upTo 4 n
  | .canBusOffRecovery n => upTo 4 n
  | .driveInEdge k _ => upTo 16 k
  | .overcurrentTrip n => upTo 64 n.channel
  | .shortCircuitCut n ma => upTo 64 n && word ma
  | .thermalLatchSet n => upTo 64 n
  | .thermalLatchRelease n => upTo 64 n
  | .clampUnlock acc n => acc.wellFormed && upTo 64 n
  | .retryDelayExpire n => upTo 64 n
  | .retryReload n => upTo 64 n
  | .channelClear acc n => acc.wellFormed && upTo 64 n
  | .bankUndervoltage b => upTo 8 b
  | .bankRecover b => upTo 8 b
  | .bankReversed b => upTo 8 b
  | .openLoadOn n => upTo 64 n
  | .offStateDiag acc n => acc.wellFormed && upTo 64 n
  | .diagComplete n => upTo 64 n
  | .globalModeWrite acc v => acc.wellFormed && word v
  | .bankOverload b => upTo 9 b
  | .vslotRoute acc n v => acc.wellFormed && upTo 64 n && word v
  | .bridleRequest => true
  | .bridleInEdge k _ => upTo 8 k
  | .take acc v => acc.wellFormed && word v
  | .takeApply => true
  | .bridleMapCommit acc v => acc.wellFormed && word v
  | .bridleMapCommitDone _ _ => true
  | .switchDiePowerUp d _ => upTo 2 d
  | .darkTest _ f _ => upTo 8 f
  | .cutOutputStuck _ f => upTo 8 f
  | .rcmSensorFault n _ => upTo 32 n
  | .rcmBandTrip _ n band => upTo 32 n && upTo 6 band
  | .rcmBandDisagree n band => upTo 32 n && upTo 6 band
  | .rcmTest acc n v => acc.wellFormed && upTo 32 n && word v
  | .rcmTestDone n => upTo 32 n
  | .imdHalfPeriodEnd k _ _ _ => upTo 8 k
  | .weldCheckTimeout n => upTo 32 n
  | .estopContactChange k _ _ => upTo 8 k
  | .estopTestPulse k _ _ => upTo 8 k
  | .estopDiscrepancy k => upTo 8 k
  | .flockPowerExceed f => upTo 8 f
  | .safetyFrameReceive net bytes cyc => upTo 2 net && octets bytes && cycle cyc
  | .safetyFrameWindowEnd => true
  | .safetyFrameSend acc v cyc => acc.wellFormed && word v && cycle cyc
  | .heartbeatSend cyc => cycle cyc
  | .peerTimeout peer => upTo 16 peer
  | .singleNetworkEnd => true
  | .networkRecovery => true
  | .degradedSupervisionStart f => upTo 8 f
  | .degradedWarning f => upTo 8 f
  | .degradedDeadline f => upTo 8 f
  | .degradedRecovery f => upTo 8 f
  | .safetyWatchdogService acc v => acc.wellFormed && word v
  | .safetyWatchdogExpire => true
  | .recoveryWindowExpire => true
  | .recoveryFinish => true
  | .flockRelease acc mask => acc.wellFormed && upTo 4096 mask
  | .flockStop acc mask => acc.wellFormed && upTo 4096 mask
  | .lockoutRelease acc mask => acc.wellFormed && upTo 4096 mask
  | .estopReset acc mask => acc.wellFormed && upTo 4096 mask
  | .safCmdInvalid acc v => acc.wellFormed && word v
  | .strapRead words crook => words.all word && crook.all word
  | .strapReread words crook => words.all word && crook.all word
  | .spbDataAccess acc _ v => acc.wellFormed && word v
  | .spbCommit acc => acc.wellFormed
  | .spbConfirm acc => acc.wellFormed
  | .spbRecheck => true
  | .safeOkRelease n => upTo 32 n
  | .startupRelease f => upTo 8 f
  | .safetyRxPop acc v => acc.wellFormed && word v
  | .pairSelChange _ => true
  | .roleDecision _ => true
  | .strideFrameReceive valid errored frame => upTo 4 valid && upTo 4 errored && frame.wellFormed
  | .strideFrameDeadline errored => upTo 4 errored
  | .join stride delays => number64 stride && delays.all word
  | .storeCopyDone _ => true
  | .joinMarkCapture => true
  | .joinApply _ _ => true
  | .takeover => true
  | .assumeCmd acc => acc.wellFormed
  | .swapCmd acc => acc.wellFormed
  | .swapHandover => true
  | .swapComplete => true
  | .rejoinCmd acc => acc.wellFormed
  | .harnessLinkDown => true
  | .harnessLinkUp => true
  | .harnessLaneDown l => upTo 2 l
  | .harnessMsgSend acc v => acc.wellFormed && word v
  | .harnessMsgReceive bytes => octets bytes
  | .harnessMsgPop acc v => acc.wellFormed && word v
  | .netLinkUp n _ => upTo 2 n
  | .netLinkDown n _ => upTo 2 n
  | .netSpeedTry n => upTo 2 n
  | .netFrameReceive n frame cyc => upTo 2 n && octets frame && cycle cyc
  | .netRingDeliver t => upTo 2 t.index && cycle t.cycle
  | .netTxTailWrite acc r v cyc => acc.wellFormed && upTo 8 r && word v && cycle cyc
  | .netFrameSent n cyc => upTo 2 n && cycle cyc
  | .streamEnable acc k v => acc.wellFormed && upTo 2 k && word v
  | .streamFrameSend k => upTo 2 k
  | .ringPlaneWrite acc t p => acc.wellFormed && upTo 8 t.index && upTo 4 p && cycle t.cycle
  | .mainsZcEdge x cyc => upTo 3 x && cycle cyc
  | .zcPredictedCrossing cyc => cycle cyc
  | .mainsFrameReceive _ cyc => cycle cyc
  | .mainsSend acc v => acc.wellFormed && word v
  | .mainsAbort acc v => acc.wellFormed && word v
  | .mainsTxStart _ => true
  | .mainsTxDone => true
  | .mainsRxPop acc v => acc.wellFormed && word v
  | .tagPing _ => true
  | .tagRoundStart acc _ _ => acc.wellFormed
  | .tagStop acc => acc.wellFormed
  | .tagWrite acc _ _ replies => acc.wellFormed && replies.all writeReply
  | .tagRecordWrite acc _ _ copies replies verify => acc.wellFormed && copyPair copies && replies.all writeReply && copyPair verify
  | .tagSlot reply _ _ cyc => reply.wellFormed && cycle cyc
  | .halterResolveAnswer => true
  | .tagReplyTimeout _ _ cyc => cycle cyc
  | .tagRoundEnd => true
  | .antennaFault a _ => upTo 4 a
  | .tagChannelHop => true
  | .tagRepPop acc v => acc.wellFormed && word v
  | .keyWrite acc => acc.wellFormed
  | .keyErase acc => acc.wellFormed
  | .keyGenerate acc => acc.wellFormed
  | .keyAttr acc => acc.wellFormed
  | .vaultCfgCommit acc => acc.wellFormed
  | .halterSet acc => acc.wellFormed
  | .keyCommandDone => true
  | .vaultRandom acc n => acc.wellFormed && upTo 16 n
  | .vaultSha384 acc n => acc.wellFormed && upTo 16 n
  | .vaultHmac acc n => acc.wellFormed && upTo 16 n
  | .vaultCmac acc n => acc.wellFormed && upTo 16 n
  | .vaultGcmEncrypt acc n => acc.wellFormed && upTo 16 n
  | .vaultGcmDecrypt acc n => acc.wellFormed && upTo 16 n
  | .vaultEcdsaSign acc n => acc.wellFormed && upTo 16 n
  | .vaultEcdsaVerify acc n => acc.wellFormed && upTo 16 n
  | .vaultEcdh acc n => acc.wellFormed && upTo 16 n
  | .vaultPublicKey acc n => acc.wellFormed && upTo 16 n
  | .vaultCoseSign1 acc n => acc.wellFormed && upTo 16 n
  | .vaultAttest acc n => acc.wellFormed && upTo 16 n
  | .vaultSlotInfo acc n => acc.wellFormed && upTo 16 n
  | .vaultRequestAbort acc n => acc.wellFormed && upTo 16 n
  | .vaultRequestStart engine => upTo 3 engine
  | .vaultRequestDone engine => upTo 3 engine
  | .trngHealthFail => true
  | .drbgReseed => true
  | .vaultRestoreDone => true
  | .evcClaimRead acc t => acc.wellFormed && upTo 8 t
  | .evcComplete acc t v => acc.wellFormed && upTo 8 t && word v
  | .evcRaiseSelf acc t => acc.wellFormed && upTo 8 t
  | .evcRaiseSoftware acc t id_ => acc.wellFormed && upTo 8 t && upTo 1056 id_
  | .evcRaiseIpi acc t dest => acc.wellFormed && upTo 8 t && upTo 8 dest
  | .evcTargetWrite acc id_ t => acc.wellFormed && upTo 1056 id_ && upTo 8 t
  | .compatModeWrite acc v => acc.wellFormed && word v
  | .corePowerGate acc v => acc.wellFormed && word v
  | .coreWfi t => upTo 8 t.target
  | .sharedSourceStall id => upTo 1056 id
  | .powerGood copies => copies.wellFormed
  | .planeStartCmd acc p v => acc.wellFormed && upTo 4 p && word v
  | .imageLoadDone => true
  | .watchdogService t v => upTo 7 t && word v
  | .watchdogHalf p => upTo 4 p
  | .watchdogExpire p => upTo 4 p
  | .planeResetCmd acc v => acc.wellFormed && word v
  | .dieResetCmd acc v => acc.wellFormed && word v
  | .controllerDieReset => true
  | .moduleResetCmd acc v => acc.wellFormed && word v
  | .resetNPin => true
  | .vinCollapse => true
  | .vinOvervoltage mv => word mv
  | .refclkFault => true
  | .dieOvertemp => true
  | .planeSwitchCmd acc p v => acc.wellFormed && upTo 4 p && word v
  | .planeConfirmCmd acc p v => acc.wellFormed && upTo 4 p && word v
  | .svnCommitCmd acc p v => acc.wellFormed && upTo 4 p && word v
  | .planeRevertCmd acc p v => acc.wellFormed && upTo 4 p && word v
  | .trialWindowExpire p => upTo 4 p
  | .norEraseCmd acc => acc.wellFormed
  | .norProgramCmd acc => acc.wellFormed
  | .norVerifyCmd acc => acc.wellFormed
  | .norInvalidateCmd acc => acc.wellFormed
  | .norCommandDone => true
  | .keyHashEnrol acc => acc.wellFormed
  | .keyHashRevoke acc => acc.wellFormed
  | .lockstepError => true
  | .correctedEccError target => target.all word
  | .coreTimerCompare t _ => upTo 8 t
  | .harnessLaneUp l => upTo 2 l
  | .modAbsChange n _ => upTo 2 n
  | .portPhyLinkChange n _ => upTo 32 n
  | .canErrorPassive n tec rec_ => upTo 4 n && upTo 512 tec && upTo 512 rec_
  | .couplerDriverFault x _ => upTo 3 x
  | .zcSenseLoss x => upTo 3 x
  | .radioLinkLoss _ => true
  | .pairedCrookLossCut => true
  | .resetRelease copies => copies.wellFormed
  | .calCrcUpdate => true
  | .passiveCrcUpdate => true

end Sys2Proof
end

