-- ==== Sys2Proof/Machine/Arith.lean ====
section
/-! DEFINITION. The exact arithmetic of the Fold: roundings, clamps, integer roots and byte orders (R95, R117, R126). -/

namespace Sys2Proof.Machine

/-- a / b rounded to the nearest integer, ties to even (R95, R98); 0 where b is 0. -/
def rheDiv (a b : Int) : Int :=
  if b = 0 then 0
  else
    let a := if b < 0 then -a else a
    let b := b.natAbs
    let q := a / (b : Int)
    let r := a % (b : Int)
    if 2 * r < b then q else if 2 * r > b then q + 1 else if q % 2 = 0 then q else q + 1

/-- rhe(x, n) of R117: x / 2^n rounded to nearest, ties to even. -/
def rhe (x : Int) (n : Nat) : Int := rheDiv x ((2 ^ n : Nat) : Int)

/-- trunc0 of R67 for a value with n fraction bits. -/
def trunc0 (x : Int) (n : Nat) : Int :=
  if 0 ≤ x then x / ((2 ^ n : Nat) : Int) else -((-x) / ((2 ^ n : Nat) : Int))

/-- x clamped to lo..hi. -/
def clampI (lo hi x : Int) : Int := if x < lo then lo else if x > hi then hi else x

/-- x clamped to lo..hi. -/
def clampN (lo hi x : Nat) : Nat := if x < lo then lo else if x > hi then hi else x

/-- The signed 24-bit range of R90 and R117. -/
def sat24 (x : Int) : Int := clampI (-8388608) 8388607 x

/-- sat24 changes x: the clip status of R117 and R90. -/
def clips24 (x : Int) : Bool := decide (sat24 x ≠ x)

/-- One step of the integer square root: bit 2^k tried on root r. -/
def isqrtGo (x : Nat) : Nat → Nat → Nat
  | 0, r => r
  | k + 1, r =>
    let t := r + 2 ^ k
    isqrtGo x k (if t * t ≤ x then t else r)

/-- The exact integer square root of R126, rounded toward zero, for values below 2^256. -/
def isqrt (x : Nat) : Nat := isqrtGo x 128 0

/-- The signed value of the low w bits of x. -/
def signed (w x : Nat) : Int :=
  let y := x % 2 ^ w
  if w = 0 then 0 else if y < 2 ^ (w - 1) then (y : Int) else (y : Int) - ((2 ^ w : Nat) : Int)

/-- The low w bits of a signed value. -/
def bitsOf (w : Nat) (x : Int) : Nat := (x % ((2 ^ w : Nat) : Int)).toNat

/-- x held at the largest value of w bits. -/
def satN (w x : Nat) : Nat := if x < 2 ^ w then x else 2 ^ w - 1

/-- Bit k of x. -/
def bit (x k : Nat) : Bool := x.testBit k

/-- x with bit k set or cleared. -/
def putBit (x k : Nat) (b : Bool) : Nat :=
  if b then x ||| 2 ^ k else if x.testBit k then x - 2 ^ k else x

/-- The first n bytes of x, low byte first. -/
def leBytes : Nat → Nat → List Nat
  | 0, _ => []
  | n + 1, x => x % 256 :: leBytes n (x / 256)

/-- The first n bytes of a signed value, low byte first. -/
def leBytesI (n : Nat) (x : Int) : List Nat := leBytes n (bitsOf (8 * n) x)

/-- The number whose bytes, low byte first, are given. -/
def ofLe : List Nat → Nat
  | [] => 0
  | b :: bs => b % 256 + 256 * ofLe bs

/-- The first n bytes of x, high byte first (network order). -/
def beBytes (n x : Nat) : List Nat := (leBytes n x).reverse

/-- The number whose bytes, high byte first, are given. -/
def ofBe (bs : List Nat) : Nat := ofLe bs.reverse

/-- A list cut or filled with zeros to n entries. -/
def fit : Nat → List Nat → List Nat
  | 0, _ => []
  | n + 1, [] => 0 :: fit n []
  | n + 1, x :: xs => x :: fit n xs

/-- Entry k of a list of numbers, 0 past its end. -/
def nth (l : List Nat) (k : Nat) : Nat := l.getD k 0

/-- Entry k of a list of integers, 0 past its end. -/
def nthI (l : List Int) (k : Nat) : Int := l.getD k 0

/-- The list with entry k replaced. -/
def setNth {α : Type} : List α → Nat → α → List α
  | [], _, _ => []
  | _ :: xs, 0, v => v :: xs
  | x :: xs, k + 1, v => x :: setNth xs k v

/-- The sum of a list of integers. -/
def sumI (l : List Int) : Int := l.foldl (· + ·) 0

/-- Applies f to the numbers 0 .. n - 1 in order. -/
def forN {α : Type} (n : Nat) (f : Nat → α → α) (a : α) : α :=
  (List.range n).foldl (fun x k => f k x) a

/-- Inserts k into a rising list without repeats. -/
def insertSorted : List Nat → Nat → List Nat
  | [], k => [k]
  | j :: js, k => if k < j then k :: j :: js else if k = j then j :: js else j :: insertSorted js k

/-- The positions of the set bits of x below n. -/
def bitsSet (n x : Nat) : List Nat := (List.range n).filter (fun k => bit x k)

end Sys2Proof.Machine
end

