-- ==== Sys2Proof/Machine/Curve.lean ====
section
/-! DEFINITION. The NIST curves P-256 and P-384, ECDSA and ECDH on them (R424, R433, R435). The spec names them; their parameters and
formulas are those of FIPS 186-5 and SP 800-56A (PRESUMED, log 5). -/

namespace Sys2Proof.Machine

/-- Bytes of a coordinate of the curve: 0 P-256, 1 P-384. -/
def curveBytes (k : Nat) : Nat := if k = 0 then 32 else 48

/-- The order n of the curve. -/
def curveOrder (k : Nat) : Nat :=
  if k = 0 then 0xFFFFFFFF00000000FFFFFFFFFFFFFFFFBCE6FAADA7179E84F3B9CAC2FC632551
  else 0xFFFFFFFFFFFFFFFFFFFFFFFFFFFFFFFFFFFFFFFFFFFFFFFFC7634D81F4372DDF581A0DB248B0A77AECEC196ACCC52973

/-- The prime p of the curve's field. -/
def curvePrime (k : Nat) : Nat :=
  if k = 0 then 0xFFFFFFFF00000001000000000000000000000000FFFFFFFFFFFFFFFFFFFFFFFF
  else 0xFFFFFFFFFFFFFFFFFFFFFFFFFFFFFFFFFFFFFFFFFFFFFFFFFFFFFFFFFFFFFFFEFFFFFFFF0000000000000000FFFFFFFF

/-- The coefficient b of y² = x³ − 3x + b. -/
def curveB (k : Nat) : Nat :=
  if k = 0 then 0x5AC635D8AA3A93E7B3EBBD55769886BC651D06B0CC53B0F63BCE3C3E27D2604B
  else 0xB3312FA7E23EE7E4988E056BE3F82D19181D9C6EFE8141120314088F5013875AC656398D8A2ED19D2A85C8EDD3EC2AEF

/-- The base point. -/
def curveBase (k : Nat) : Nat × Nat :=
  if k = 0 then
    (0x6B17D1F2E12C4247F8BCE6E563A440F277037D812DEB33A0F4A13945D898C296,
      0x4FE342E2FE1A7F9B8EE7EB4A7C0F9E162BCE33576B315ECECBB6406837BF51F5)
  else
    (0xAA87CA22BE8B05378EB1C71EF320AD746E1D3B628BA79B9859F741E082542A385502F25DBF55296C3A545E3872760AB7,
      0x3617DE4A96262C6F5D9E98BF9292DC29F8F41DBD289A147CE9DA3113B5F0B8C00A60B1CE1D7E819D7A431D7C90EA0E5F)

/-- x ^ e modulo m over the low n bits of e, from the highest. -/
def powMod (m x e : Nat) : Nat → Nat
  | 0 => 1 % m
  | n + 1 =>
    let r := powMod m x (e / 2) n
    let r := r * r % m
    if e % 2 = 1 then r * x % m else r

/-- The inverse modulo a prime below 2^384. -/
def invMod (m x : Nat) : Nat := powMod m (x % m) (m - 2) 384

/-- A point, none for the point at infinity. -/
abbrev Point := Option (Nat × Nat)

/-- The sum of two points of a curve. -/
def pointAdd (k : Nat) (a b : Point) : Point :=
  match a, b with
  | none, q => q
  | q, none => q
  | some (x1, y1), some (x2, y2) =>
    let p := curvePrime k
    if x1 = x2 ∧ (y1 + y2) % p = 0 then none
    else
      let s := if x1 = x2 then (3 * x1 * x1 + (p - 3)) * invMod p (2 * y1) % p else (y2 + p - y1) * invMod p (x2 + p - x1) % p
      let x3 := (s * s + 2 * p - x1 - x2) % p
      some (x3, (s * (x1 + p - x3) + p - y1) % p)

/-- e times a point, over the low n bits of e. -/
def pointMul (k : Nat) (a : Point) (e : Nat) : Nat → Point
  | 0 => none
  | n + 1 =>
    let r := pointMul k a (e / 2) n
    let r := pointAdd k r r
    if e % 2 = 1 then pointAdd k r a else r

/-- x ‖ y of a point. -/
def pointBytes (k : Nat) (a : Point) : List Nat :=
  let (x, y) := a.getD (0, 0)
  beBytes (curveBytes k) x ++ beBytes (curveBytes k) y

/-- The point of x ‖ y. -/
def pointOf (k : Nat) (xy : List Nat) : Point :=
  let n := curveBytes k
  some (ofBe (xy.take n), ofBe ((xy.drop n).take n))

/-- x ‖ y lies on the curve. -/
def onCurve (k : Nat) (xy : List Nat) : Bool :=
  let n := curveBytes k
  let p := curvePrime k
  let x := ofBe (xy.take n)
  let y := ofBe (xy.drop n)
  xy.length == 2 * n && decide (x < p) && decide (y < p) && (y * y) % p == (x * x * x + (p - 3) * x + curveB k) % p

/-- The curve of a key type of R424, none for a symmetric key. -/
def curveOf (type : Nat) : Option Nat := if type = 3 ∨ type = 5 then some 0 else if type = 4 then some 1 else none

/-- A private scalar of a key type lies in 1 to n − 1. -/
def scalarValid (type : Nat) (key : List Nat) : Bool :=
  match curveOf type with
  | some k => decide (1 ≤ ofBe key) && decide (ofBe key < curveOrder k)
  | none => true

/-- Bytes of a key of a type (R424). -/
def keyBytes (type : Nat) : Nat := if type = 4 then 48 else 32

/-- The public key x ‖ y of a private scalar. -/
def publicKey (k : Nat) (key : List Nat) : List Nat := pointBytes k (pointMul k (some (curveBase k)) (ofBe key) 384)

/-- The number of a digest under ECDSA: its leftmost bits, as many as the order has. -/
def digestNumber (k : Nat) (digest : List Nat) : Nat := ofBe (digest.take (curveBytes k))

/-- An ECDSA signature r ‖ s of a digest with a nonce. -/
def ecdsaSign (k : Nat) (key : List Nat) (nonce : Nat) (digest : List Nat) : List Nat :=
  let n := curveOrder k
  let r := ((pointMul k (some (curveBase k)) nonce 384).getD (0, 0)).1 % n
  let s := invMod n nonce * (digestNumber k digest + r * ofBe key) % n
  beBytes (curveBytes k) r ++ beBytes (curveBytes k) s

/-- An ECDSA signature verifies under a public key. -/
def ecdsaVerify (k : Nat) (xy digest signature : List Nat) : Bool :=
  let n := curveOrder k
  let r := ofBe (signature.take (curveBytes k))
  let s := ofBe (signature.drop (curveBytes k))
  let w := invMod n s
  let u1 := digestNumber k digest * w % n
  let u2 := r * w % n
  let q := pointAdd k (pointMul k (some (curveBase k)) u1 384) (pointMul k (pointOf k xy) u2 384)
  decide (0 < r) && decide (r < n) && decide (0 < s) && decide (s < n) &&
    (match q with
    | some (x, _) => x % n == r
    | none => false)

/-- The ECDH shared x of a private scalar and a peer's key. -/
def ecdh (k : Nat) (key xy : List Nat) : List Nat := (pointBytes k (pointMul k (pointOf k xy) (ofBe key) 384)).take (curveBytes k)

end Sys2Proof.Machine
end

