-- ==== Sys2Proof/Machine/Crc.lean ====
section
/-! DEFINITION. The check sums of the spec: CRC-32 (R153), CRC-32C (R319), CRC-64 (R355) and the CRC-16 of tag records (R417).
All but the last are reflected in input and output. -/

namespace Sys2Proof.Machine

/-- One bit of a reflected CRC with reversed polynomial p. -/
def crcBit (p c : Nat) : Nat := if c % 2 = 1 then (c / 2) ^^^ p else c / 2

/-- One byte of a reflected CRC. -/
def crcByte (p c b : Nat) : Nat :=
  let c := c ^^^ (b % 256)
  crcBit p (crcBit p (crcBit p (crcBit p (crcBit p (crcBit p (crcBit p (crcBit p c)))))))

/-- A reflected CRC of w bits with initial value and final XOR all ones. -/
def crcReflected (w p : Nat) (bs : List Nat) : Nat :=
  (bs.foldl (crcByte p) (2 ^ w - 1)) ^^^ (2 ^ w - 1)

/-- CRC-32 of R153: polynomial 0x04C1_1DB7. -/
def crc32 (bs : List Nat) : Nat := crcReflected 32 0xEDB88320 bs

/-- CRC-32C of R319: polynomial 0x1EDC_6F41. -/
def crc32c (bs : List Nat) : Nat := crcReflected 32 0x82F63B78 bs

/-- CRC-64 of R355: polynomial 0x42F0_E1EB_A9EA_3693. -/
def crc64 (bs : List Nat) : Nat := crcReflected 64 0xC96C5795D7870F42 bs

/-- One bit of the CRC-16 of ISO/IEC 18000-63: polynomial 0x1021, high bit first. -/
def crc16Bit (c : Nat) : Nat := if c ≥ 0x8000 then ((c * 2) % 65536) ^^^ 0x1021 else c * 2

/-- One byte of the CRC-16. -/
def crc16Byte (c b : Nat) : Nat :=
  let c := c ^^^ ((b % 256) * 256)
  crc16Bit (crc16Bit (crc16Bit (crc16Bit (crc16Bit (crc16Bit (crc16Bit (crc16Bit c)))))))

/-- The CRC-16 of R417: initial value 0xFFFF, the result complemented. -/
def crc16 (bs : List Nat) : Nat := (bs.foldl crc16Byte 0xFFFF) ^^^ 0xFFFF

/-- One bit of the same CRC. -/
def crc16Shift (c : Nat) (b : Bool) : Nat := if decide (0x8000 ≤ c) = b then c * 2 % 65536 else (c * 2 % 65536) ^^^ 0x1021

/-- The CRC-16 of ISO/IEC 18000-63 over bits, the first one first. -/
def crc16Bits (bits : List Bool) : Nat := (bits.foldl crc16Shift 0xFFFF) ^^^ 0xFFFF

/-- The low n bits of a number, the highest first. -/
def bitsHigh (n x : Nat) : List Bool := (List.range n).map fun k => x.testBit (n - 1 - k)

end Sys2Proof.Machine
end

