-- ==== Sys2Proof/Config.lean ====
section
/-! DEFINITION. What the spec leaves open and what one implementation fixes: uninterpreted constants. None has a body, so no
proof can see a value; a claim about one holds whatever it is. -/

namespace Sys2Proof.Config

/-- DESIGN CHOICE (log 1). A free value: the k-th value drawn where the spec leaves a number open. -/
opaque freeNat : Nat → Nat

/-- DESIGN CHOICE (log 2). The compensating FIR of R88 has 321 symmetric taps in ROM that the spec does not list: tap k of the
first 160; the centre tap follows from the gain of R89. -/
opaque firTap : Nat → Int

/-- DESIGN CHOICE (log 2). The power of two, beyond 2^20, that the FIR output of R89 is rounded by. -/
opaque firShift : Nat

/-- DESIGN CHOICE (log 104). The estimates of R98 for a window whose divisor is zero, as a function of the numerator: the spec states
none. -/
opaque byZero : Int → Int

/-- DESIGN CHOICE (log 3). The factory temperature trim table of R150: group and temperature in °C. -/
opaque trimTable : Nat → Int → Int

/-- DESIGN CHOICE (log 124). The die-unique key that wraps the key banks (R429) and the module's P-384 attestation scalar, both fixed at
manufacture (R425): the spec gives no value. -/
opaque dieKey : List Nat
opaque attestationKey : Nat

/-- DESIGN CHOICE (log 21). The word at an address of a region of the ledger store whose byte layout the spec does not give, the directory
with its layout version and module identity among them, as a function of the record there. -/
opaque storeWord : Nat → Nat → Nat

/-- DESIGN CHOICE (log 105). Whether the word at an address of the configuration regions ends the signature of a calibration record (R158):
the spec does not give the layout. -/
opaque signatureEnd : Nat → Bool

/-- DESIGN CHOICE (log 102). How severe a fault code is: R8 speaks of the most severe status, and the spec orders no codes. -/
opaque severity : Nat → Nat

/-- DESIGN CHOICE (log 107). By how many sixteenths of a degree the ROM table of R254 for a sensor type differs at a resistance; only its
first degree counts. -/
opaque sensorError : Nat → Nat → Int

/-- DESIGN CHOICE (log 119). The REFCLK cycles for which a frame holds a CAN bus, up to the end of its intermission, from its first two
words, its data and the two bit-timing registers: the spec refers to ISO 11898-1 for the frame format and its stuffing. -/
opaque canFrameCycles : Nat → Nat → List Nat → Nat → Nat → Nat

/-- DESIGN CHOICE (log 121). How much a symbol of a pair weighs, from the levels of its 0 tone and its 1 tone and the noise floor: R396
gives no formula for the soft metric. -/
opaque metricWeight : Nat → Nat → Nat → Nat

/-- DESIGN CHOICE (log 6). Frames that a transmit queue of a network port holds: the spec gives no size. -/
opaque txQueueFrames : Nat

end Sys2Proof.Config
end

