-- ==== Sys2Proof/Machine/Regs.lean ====
section
/-! DEFINITION. The register tables of the spec: the block map of R59, and for every block its registers with their offsets,
access masks and reset values (the tables of the chapters, each named at its list), and one field reference per field. -/

namespace Sys2Proof.Machine

/-- The variants of R2. -/
inductive Variant where
  | mh6432 | mh6424 | mh6416 | mh6408
  deriving DecidableEq, Repr

/-- The blocks of R59, one per base address, and the mailbox blocks (R28) and vault request windows (R436) beside them. -/
inductive Blk where
  | fab | evc | tim | stg | sfg | trf | dmd | ldg | dsp | mtr | sfe | met | pqm | opt | can | lsg | lsw | saf | crk | rcm | imd | net | ntp
  | hrn | hrl | mlk | mlc | tag | ant | vlt | vlp | upd | upu | mbx | vrq
  deriving DecidableEq, Repr

/-- One register of a block's table: its offset, how often it repeats and at what step, its reset value, and the masks of its
RW, W1C, WO, SL (sealed) and ST (staged) bits under R16. -/
structure RegRow where
  ofs : Nat
  count : Nat
  step : Nat
  reset : Nat
  rw : Nat
  w1c : Nat
  wo : Nat
  sl : Nat
  st : Nat
  deriving DecidableEq, Repr

/-- A field of a register: the register's address, its lowest bit and its width. -/
structure Fld where
  addr : Nat
  lo : Nat
  w : Nat
  deriving DecidableEq, Repr


/-- The base address of a block (R59, R28, R436). -/
def Blk.base : Blk → Nat
  | .fab => 0x40000000
  | .evc => 0x40010000
  | .tim => 0x40020000
  | .stg => 0x40030000
  | .sfg => 0x40100000
  | .trf => 0x40101000
  | .dmd => 0x40102000
  | .ldg => 0x40103000
  | .dsp => 0x40104000
  | .mtr => 0x40110000
  | .sfe => 0x40140000
  | .met => 0x40180000
  | .pqm => 0x401C0000
  | .opt => 0x40200000
  | .can => 0x40240000
  | .lsg => 0x40300000
  | .lsw => 0x40310000
  | .saf => 0x40400000
  | .crk => 0x40410000
  | .rcm => 0x40420000
  | .imd => 0x40440000
  | .net => 0x40500000
  | .ntp => 0x40501000
  | .hrn => 0x40520000
  | .hrl => 0x40521000
  | .mlk => 0x40540000
  | .mlc => 0x40541000
  | .tag => 0x40560000
  | .ant => 0x40561000
  | .vlt => 0x40580000
  | .vlp => 0x40581000
  | .upd => 0x405A0000
  | .upu => 0x405A1000
  | .mbx => 0x3FF00000
  | .vrq => 0x3FF40000

/-- The distance from one instance of a block to the next (R59, R28; a request slot of R436 counts as an instance). -/
def Blk.pitch : Blk → Nat
  | .mbx => 0x800
  | _ => 0x1000

/-- The block type code of R59. -/
def Blk.code : Blk → Nat
  | .fab => 0x01
  | .evc => 0x02
  | .tim => 0x03
  | .stg => 0x04
  | .sfg => 0x10
  | .trf => 0x18
  | .dmd => 0x19
  | .ldg => 0x1A
  | .dsp => 0x1B
  | .mtr => 0x14
  | .sfe => 0x11
  | .met => 0x12
  | .pqm => 0x16
  | .opt => 0x20
  | .can => 0x24
  | .lsg => 0x30
  | .lsw => 0x31
  | .saf => 0x40
  | .crk => 0x41
  | .rcm => 0x42
  | .imd => 0x44
  | .net => 0x50
  | .ntp => 0x51
  | .hrn => 0x52
  | .hrl => 0x53
  | .mlk => 0x54
  | .mlc => 0x55
  | .tag => 0x56
  | .ant => 0x57
  | .vlt => 0x58
  | .vlp => 0x59
  | .upd => 0x5A
  | .upu => 0x5B
  | .mbx => 0
  | .vrq => 0

/-- The seal of a block's SL fields: 1 SEAL_MET_N (R110, R151), 2 the safety seal (R264, R295, R341, R479), 0 none. -/
def Blk.seal : Blk → Nat
  | .sfg => 1
  | .trf => 1
  | .dmd => 1
  | .ldg => 1
  | .dsp => 1
  | .mtr => 1
  | .sfe => 1
  | .met => 1
  | .pqm => 1
  | .opt => 2
  | .can => 2
  | .lsg => 2
  | .lsw => 2
  | .saf => 2
  | .crk => 2
  | .rcm => 2
  | .imd => 2
  | .upd => 2
  | _ => 0

/-- The reset value of EV_TYPE (R81, R111, R113, R143, R144, R185, R207, R208, R237, R239, R265, R267, R295, R296, R341, R343, R367, R368,
R382, R383, R404, R421, R444, R445, R465, R483, R484; the Crook mirror has no events). -/
def Blk.evType : Blk → Nat
  | .fab => 0x1F
  | .evc => 0xF
  | .tim => 0xC03FFFF
  | .stg => 0x3FF
  | .sfg => 0x7
  | .trf => 0x3F
  | .dmd => 0x1F
  | .ldg => 0xFF
  | .dsp => 0xF
  | .mtr => 0xFF
  | .sfe => 0x7F
  | .met => 0xF
  | .pqm => 0x7F
  | .opt => 0x7BF
  | .can => 0xFE
  | .lsg => 0x7F
  | .lsw => 0x7F
  | .saf => 0x7F
  | .crk => 0x0
  | .rcm => 0x7
  | .imd => 0xF
  | .net => 0x3F
  | .ntp => 0xF
  | .hrn => 0x5FF
  | .hrl => 0x3
  | .mlk => 0x3E
  | .mlc => 0x3
  | .tag => 0x1E
  | .ant => 0x3
  | .vlt => 0xF
  | .vlp => 0x3
  | .upd => 0xF
  | .upu => 0x3
  | .mbx => 0
  | .vrq => 0

/-- Registers of FAB (R49, R51, R483). -/
def rowsFab : List RegRow := [
  ⟨0x004, 1, 0, 0x8400, 0x0, 0x0, 0x0, 0x0, 0x0⟩, -- FAB_CAP
  ⟨0x100, 1, 0, 0x0, 0x0, 0x0, 0x0, 0x0, 0x0⟩, -- FAB_VIOL_COUNT
  ⟨0x104, 1, 0, 0x0, 0x0, 0x0, 0x0, 0x0, 0x0⟩, -- FAB_VIOL_ADDR
  ⟨0x108, 1, 0, 0x0, 0x0, 0x0, 0x0, 0x0, 0x0⟩, -- FAB_VIOL_INFO
  ⟨0x10C, 1, 0, 0x0, 0x0, 0x0, 0x1, 0x0, 0x0⟩, -- FAB_VIOL_CLR
  ⟨0x110, 1, 0, 0x0, 0x0, 0x0, 0xFFFF030F, 0x0, 0x0⟩, -- FAB_RST
  ⟨0x114, 1, 0, 0x0, 0x0, 0x0, 0x0, 0x0, 0x0⟩, -- FAB_RST_CAUSE
  ⟨0x118, 4, 4, 0x0, 0x0, 0x0, 0x0, 0x0, 0x0⟩, -- FAB_PRST_CNT
  ⟨0x128, 3, 4, 0xC8, 0x1FFFF, 0x0, 0x0, 0x0, 0x0⟩, -- FAB_WDT_CFG
  ⟨0x134, 1, 0, 0x0, 0x0, 0x0, 0x0, 0x0, 0x0⟩, -- FAB_WDT_ST
  ⟨0x138, 1, 0, 0x0, 0xF, 0x0, 0x0, 0x0, 0x0⟩, -- FAB_PWR
  ⟨0x140, 6, 4, 0x0, 0x0, 0x0, 0x0, 0x0, 0x0⟩, -- FAB_CAPHIT
  ⟨0x200, 128, 4, 0x0, 0x0, 0x0, 0x3, 0x0, 0x0⟩, -- FAB_CLAIM
  ⟨0x400, 1, 0, 0x0, 0x0, 0x0, 0x7F, 0x0, 0x0⟩] -- FAB_CLAIM_FORCE

/-- Registers of EVC (R463). -/
def rowsEvc : List RegRow := [
  ⟨0x004, 1, 0, 0x4002008, 0x0, 0x0, 0x0, 0x0, 0x0⟩, -- EVC_CAP
  ⟨0x008, 1, 0, 0x0, 0x1, 0x0, 0x0, 0x0, 0x0⟩, -- EVC_CTRL
  ⟨0x00C, 1, 0, 0x0, 0x0, 0x0, 0x0, 0x0, 0x0⟩, -- EVC_STATUS
  ⟨0x100, 8, 64, 0xFFFF, 0x0, 0x0, 0x0, 0x0, 0x0⟩, -- EVC_CLAIM
  ⟨0x104, 8, 64, 0x0, 0x0, 0x0, 0x800007FF, 0x0, 0x0⟩, -- EVC_COMPLETE
  ⟨0x108, 8, 64, 0x0, 0xFFFFFFFF, 0x0, 0x0, 0x0, 0x0⟩, -- EVC_PRIV_EN
  ⟨0x10C, 8, 64, 0x0, 0x0, 0x0, 0x0, 0x0, 0x0⟩, -- EVC_PRIV_PEND
  ⟨0x110, 8, 64, 0x4DFF, 0x0, 0x0, 0x0, 0x0, 0x0⟩, -- EVC_PRIV_TYPE
  ⟨0x114, 8, 64, 0x0, 0x0, 0x0, 0xF7FF, 0x0, 0x0⟩, -- EVC_RAISE
  ⟨0x118, 8, 64, 0xFFFF, 0x0, 0x0, 0x0, 0x0, 0x0⟩, -- EVC_TSTAT
  ⟨0x11C, 8, 64, 0x0, 0xF, 0x0, 0x0, 0x0, 0x0⟩, -- EVC_TCFG
  ⟨0x120, 8, 64, 0x0, 0x0, 0x0, 0x0, 0x0, 0x0⟩, -- EVC_TCNT
  ⟨0x124, 8, 64, 0x0, 0x0, 0x0, 0x0, 0x0, 0x0⟩, -- EVC_CLAIMS
  ⟨0x300, 32, 4, 0x0, 0x0, 0x0, 0x0, 0x0, 0x0⟩, -- EVC_PEND
  ⟨0x380, 32, 4, 0x0, 0xFFFFFFFF, 0x0, 0x0, 0x0, 0x0⟩, -- EVC_EN
  ⟨0x400, 32, 4, 0x0, 0x0, 0x0, 0x0, 0x0, 0x0⟩, -- EVC_TYPE
  ⟨0x480, 32, 4, 0x0, 0x0, 0xFFFFFFFF, 0x0, 0x0, 0x0⟩, -- EVC_REDIR
  ⟨0x500, 128, 4, 0x0, 0x77777777, 0x0, 0x0, 0x0, 0x0⟩] -- EVC_TGT

/-- Registers of TIM (R80), part 1. -/
def rowsTim0 : List RegRow := [
  ⟨0x008, 1, 0, 0x0, 0x7F, 0x0, 0x0, 0x0, 0x0⟩, -- TIM_CTRL
  ⟨0x00C, 1, 0, 0x800, 0x0, 0x0, 0x0, 0x0, 0x0⟩, -- TIM_STATUS
  ⟨0x100, 1, 0, 0x0, 0x0, 0x0, 0x0, 0x0, 0x0⟩, -- TIM_SEC_LO
  ⟨0x104, 1, 0, 0x0, 0x0, 0x0, 0x0, 0x0, 0x0⟩, -- TIM_SEC_HI
  ⟨0x108, 1, 0, 0x0, 0x0, 0x0, 0x0, 0x0, 0x0⟩, -- TIM_NS
  ⟨0x10C, 1, 0, 0x0, 0x0, 0x0, 0x0, 0x0, 0x0⟩, -- TIM_FRAC
  ⟨0x110, 1, 0, 0x0, 0xFFFFFFFF, 0x0, 0x0, 0x0, 0x0⟩, -- TIM_RATE
  ⟨0x114, 1, 0, 0x0, 0x0, 0x0, 0xFFFFFFFF, 0x0, 0x0⟩, -- TIM_OFS
  ⟨0x118, 1, 0, 0x0, 0x0, 0x0, 0x0, 0x0, 0x0⟩, -- TIM_LAST_OFS
  ⟨0x11C, 1, 0, 0x50000, 0xFFFFFFFF, 0x0, 0x0, 0x0, 0x0⟩, -- TIM_KP
  ⟨0x120, 1, 0, 0x4000, 0xFFFFFFFF, 0x0, 0x0, 0x0, 0x0⟩, -- TIM_KI
  ⟨0x124, 1, 0, 0x0, 0x0, 0x0, 0x0, 0x0, 0x0⟩, -- TIM_INTEG
  ⟨0x128, 1, 0, 0xF4240, 0xFFFFFFFF, 0x0, 0x0, 0x0, 0x0⟩, -- TIM_STEP_THR
  ⟨0x12C, 1, 0, 0x271003E8, 0xFFFFFFFF, 0x0, 0x0, 0x0, 0x0⟩, -- TIM_LOCK_THR
  ⟨0x130, 1, 0, 0x12C, 0xFFF, 0x0, 0x0, 0x0, 0x0⟩, -- TIM_HOLDOVER
  ⟨0x134, 1, 0, 0x0, 0xFFFFFFFF, 0x0, 0x0, 0x0, 0x0⟩, -- TIM_STEP_LO
  ⟨0x138, 1, 0, 0x0, 0xFFFFFFFF, 0x0, 0x0, 0x0, 0x0⟩, -- TIM_STEP_HI
  ⟨0x13C, 1, 0, 0x0, 0x0, 0x0, 0x7, 0x0, 0x0⟩, -- TIM_CMD
  ⟨0x140, 1, 0, 0x0, 0x0, 0x0, 0x0, 0x0, 0x0⟩, -- TIM_PHASE
  ⟨0x144, 1, 0, 0x0, 0x0, 0x0, 0x0, 0x0, 0x0⟩, -- TIM_PHASE_MEAN
  ⟨0x148, 1, 0, 0x8000, 0xFFFF, 0x0, 0x0, 0x0, 0x0⟩, -- TIM_VCXO_DAC
  ⟨0x14C, 1, 0, 0xFFFF0000, 0xFFFFFFFF, 0x0, 0x0, 0x0, 0x0⟩, -- TIM_VCXO_LIM
  ⟨0x150, 1, 0, 0x0, 0xFFFFFFFF, 0x0, 0x0, 0x0, 0x0⟩, -- TIM_VKP
  ⟨0x154, 1, 0, 0x0, 0xFFFFFFFF, 0x0, 0x0, 0x0, 0x0⟩, -- TIM_VKI
  ⟨0x158, 1, 0, 0x10, 0xFFFF, 0x0, 0x0, 0x0, 0x0⟩] -- TIM_VCXO_SLEW

/-- Registers of TIM (R80), part 2. -/
def rowsTim1 : List RegRow := [
  ⟨0x160, 1, 0, 0x0, 0x0, 0x0, 0x0, 0x0, 0x0⟩, -- TIM_CALC_LO
  ⟨0x164, 1, 0, 0x0, 0x0, 0x0, 0x0, 0x0, 0x0⟩, -- TIM_CALC_HI
  ⟨0x168, 1, 0, 0x0, 0x0, 0x0, 0x0, 0x0, 0x0⟩, -- TIM_LEDGER_LO
  ⟨0x16C, 1, 0, 0x0, 0x0, 0x0, 0x0, 0x0, 0x0⟩, -- TIM_LEDGER_HI
  ⟨0x170, 1, 0, 0x1, 0x0, 0xC, 0x0, 0x0, 0x0⟩, -- TIM_LEDGER_ST
  ⟨0x174, 1, 0, 0x0, 0xFFFFFFFF, 0x0, 0x0, 0x0, 0x0⟩, -- TIM_PPS_DELAY
  ⟨0x178, 1, 0, 0x0, 0xFFFFFFFF, 0x0, 0x0, 0x0, 0x0⟩, -- TIM_NET0_CORR
  ⟨0x17C, 1, 0, 0x0, 0xFFFFFFFF, 0x0, 0x0, 0x0, 0x0⟩, -- TIM_NET1_CORR
  ⟨0x200, 8, 32, 0x0, 0xFFFFFFFF, 0x0, 0x0, 0x0, 0x0⟩, -- TIM_TC_SEC_LO
  ⟨0x204, 8, 32, 0x0, 0xFFFF, 0x0, 0x0, 0x0, 0x0⟩, -- TIM_TC_SEC_HI
  ⟨0x208, 8, 32, 0x0, 0x3FFFFFFF, 0x0, 0x0, 0x0, 0x0⟩, -- TIM_TC_NS
  ⟨0x20C, 8, 32, 0x0, 0xFFFFFFFF, 0x0, 0x0, 0x0, 0x0⟩, -- TIM_TC_PERIOD
  ⟨0x210, 8, 32, 0x27100000, 0xFFFF0037, 0x0, 0x0, 0x0, 0x0⟩, -- TIM_TC_CFG
  ⟨0x214, 8, 32, 0x0, 0x0, 0x6, 0x0, 0x0, 0x0⟩, -- TIM_TC_STAT
  ⟨0x300, 8, 32, 0x0, 0x3, 0x0, 0x0, 0x0, 0x0⟩, -- TIM_CAP_CFG
  ⟨0x304, 8, 32, 0x0, 0x0, 0x0, 0x0, 0x0, 0x0⟩, -- TIM_CAP_NS
  ⟨0x308, 8, 32, 0x0, 0x0, 0x0, 0x0, 0x0, 0x0⟩, -- TIM_CAP_SEC_LO
  ⟨0x30C, 8, 32, 0x0, 0x0, 0x0, 0x0, 0x0, 0x0⟩, -- TIM_CAP_SEC_HI
  ⟨0x310, 8, 32, 0x0, 0x0, 0x100, 0x0, 0x0, 0x0⟩] -- TIM_CAP_STAT

/-- Registers of TIM. -/
def rowsTim : List RegRow := rowsTim0 ++ rowsTim1

/-- Registers of STG (R55). -/
def rowsStg : List RegRow := [
  ⟨0x100, 1, 0, 0x0, 0x0, 0x0, 0x0, 0x0, 0x0⟩, -- STG_NOW_LO
  ⟨0x104, 1, 0, 0x0, 0x0, 0x0, 0x0, 0x0, 0x0⟩, -- STG_NOW_HI
  ⟨0x108, 1, 0, 0x0, 0x0, 0x0, 0x0, 0x0, 0x0⟩, -- STG_STATUS
  ⟨0x10C, 1, 0, 0x0, 0x0, 0x0, 0x0, 0x0, 0x0⟩, -- STG_APPLY_COUNT
  ⟨0x200, 4, 32, 0x0, 0xFFFFFFFF, 0x0, 0x0, 0x0, 0x0⟩, -- STG_TGT_LO
  ⟨0x204, 4, 32, 0x0, 0xFFFFFFFF, 0x0, 0x0, 0x0, 0x0⟩, -- STG_TGT_HI
  ⟨0x208, 4, 32, 0x0, 0x0, 0x0, 0x3, 0x0, 0x0⟩, -- STG_CMD
  ⟨0x20C, 4, 32, 0x0, 0x0, 0x0, 0x0, 0x0, 0x0⟩, -- STG_SLOT_ST
  ⟨0x210, 4, 32, 0x0, 0x0, 0x0, 0x0, 0x0, 0x0⟩, -- STG_DONE_LO
  ⟨0x214, 4, 32, 0x0, 0x0, 0x0, 0x0, 0x0, 0x0⟩, -- STG_DONE_HI
  ⟨0x218, 4, 32, 0x0, 0x0, 0x0, 0x0, 0x0, 0x0⟩] -- STG_DIRTY

/-- Registers of SFG (R111, R167). -/
def rowsSfg : List RegRow := [
  ⟨0x004, 1, 0, 0x4EDA0840, 0x0, 0x0, 0x0, 0x0, 0x0⟩, -- SFE_CAP
  ⟨0x008, 1, 0, 0x0, 0x0, 0x0, 0x0, 0xFF, 0xFF⟩, -- SFE_CTRL
  ⟨0x00C, 1, 0, 0x0, 0x0, 0x0, 0x0, 0x0, 0x0⟩, -- SFE_STATUS
  ⟨0x100, 8, 4, 0x14, 0x0, 0x0, 0x0, 0x3F, 0x3F⟩, -- SFE_CAP_DLY
  ⟨0x120, 1, 0, 0x4A3003F, 0x0, 0x0, 0x0, 0x0, 0x7FF07FF⟩, -- SFE_DEN_LIM
  ⟨0x124, 1, 0, 0x10, 0x0, 0x0, 0x0, 0x0, 0x7FF⟩, -- SFE_ACT_MIN
  ⟨0x128, 1, 0, 0x10000, 0x0, 0x0, 0x0, 0x0, 0xFFFFFF⟩, -- SFE_XPATH
  ⟨0x12C, 1, 0, 0x40, 0x0, 0x0, 0x0, 0x0, 0xFFFF⟩, -- SFE_REV_CFG
  ⟨0x130, 1, 0, 0x320E0FA0, 0x0, 0x0, 0x0, 0xFF1F1FFF, 0xFF1F1FFF⟩, -- SFE_REG_CFG
  ⟨0x134, 1, 0, 0x10800F80, 0x0, 0x0, 0x0, 0xFFFFFFFF, 0xFFFFFFFF⟩, -- SFE_RATIO_LIM
  ⟨0x140, 1, 0, 0x0, 0x0, 0x0, 0x0, 0x0, 0x0⟩, -- SFE_FAULT_LO
  ⟨0x144, 1, 0, 0x0, 0x0, 0x0, 0x0, 0x0, 0x0⟩, -- SFE_FAULT_HI
  ⟨0x148, 1, 0, 0x0, 0x0, 0x0, 0x0, 0x0, 0x0⟩, -- SFE_LOW_LO
  ⟨0x14C, 1, 0, 0x0, 0x0, 0x0, 0x0, 0x0, 0x0⟩, -- SFE_LOW_HI
  ⟨0x180, 1, 0, 0x0, 0x0, 0x0, 0x0, 0x0, 0x0⟩, -- SFE_CAL_COUNT
  ⟨0x184, 1, 0, 0x0, 0x0, 0x0, 0x0, 0x0, 0x0⟩, -- SFE_CAL_SEAL
  ⟨0x188, 1, 0, 0x0, 0x0, 0x0, 0x0, 0x0, 0x0⟩, -- SFE_CAL_CRC
  ⟨0x18C, 1, 0, 0x0, 0x0, 0x0, 0x0, 0x0, 0x0⟩, -- SFE_CAL_CRC_STG
  ⟨0x190, 4, 4, 0x0, 0x0, 0x0, 0x0, 0xFFFFFFFF, 0xFFFFFFFF⟩, -- SFE_CAL_SESS
  ⟨0x1A0, 1, 0, 0x0, 0x0, 0x0, 0x0, 0x0, 0x0⟩, -- SFE_CAL_LAST_LO
  ⟨0x1A4, 1, 0, 0x0, 0x0, 0x0, 0x0, 0x0, 0x0⟩, -- SFE_CAL_LAST_HI
  ⟨0x1A8, 1, 0, 0x0, 0x0, 0x0, 0x0, 0x0, 0x0⟩, -- SFE_CAL_TEMP
  ⟨0x1B0, 1, 0, 0x0, 0x0, 0x0, 0x1, 0x0, 0x0⟩, -- SFE_CAL_HO
  ⟨0x1B4, 1, 0, 0x0, 0xFFFFFFFF, 0x0, 0x0, 0x0, 0x0⟩, -- SFE_CAL_HO_CRC
  ⟨0x1C0, 8, 4, 0x0, 0x0, 0x0, 0x0, 0x0, 0x0⟩] -- SFE_CAL_TTRIM

/-- Registers of TRF (R207). -/
def rowsTrf : List RegRow := [
  ⟨0x004, 1, 0, 0x884108, 0x0, 0x0, 0x0, 0x0, 0x0⟩, -- TRF_CAP
  ⟨0x008, 1, 0, 0x0, 0x0, 0x0, 0x0, 0x0, 0x0⟩, -- TRF_CTRL
  ⟨0x00C, 1, 0, 0x40001, 0x0, 0x0, 0x0, 0x0, 0x0⟩, -- TRF_STATUS
  ⟨0x100, 1, 0, 0x25, 0x0, 0x0, 0x0, 0x0, 0xFFFF⟩, -- TRF_TAI_UTC
  ⟨0x104, 1, 0, 0x0, 0x0, 0x0, 0x0, 0x0, 0xFFF⟩, -- TRF_STD_OFS
  ⟨0x108, 1, 0, 0xFFFFFFFF, 0x0, 0x0, 0x0, 0x0, 0xFFFFFFFF⟩, -- TRF_USE_LO
  ⟨0x10C, 1, 0, 0xFFFF, 0x0, 0x0, 0x0, 0x0, 0xFFFF⟩, -- TRF_USE_HI
  ⟨0x110, 1, 0, 0x3, 0x0, 0x0, 0x0, 0x0, 0x3FFFF⟩, -- TRF_BCLOSE
  ⟨0x114, 1, 0, 0x0, 0x0, 0x0, 0x0, 0x0, 0xFF⟩, -- TRF_BCLOSE_CMD
  ⟨0x118, 1, 0, 0x0, 0x0, 0x0, 0x0, 0x0, 0x0⟩, -- TRF_BPERIOD
  ⟨0x11C, 1, 0, 0x0, 0x0, 0x0, 0x0, 0x0, 0x0⟩, -- TRF_BLAST_LO
  ⟨0x120, 1, 0, 0x0, 0x0, 0x0, 0x0, 0x0, 0x0⟩, -- TRF_BLAST_HI
  ⟨0x124, 1, 0, 0x0, 0x0, 0x0, 0x0, 0x0, 0x0⟩, -- TRF_BLAST_ST
  ⟨0x130, 1, 0, 0x0, 0x13FF, 0x0, 0x0, 0x0, 0x0⟩, -- TRF_CAL_ADDR
  ⟨0x134, 1, 0, 0x0, 0x0, 0x0, 0x0, 0x0, 0x0⟩, -- TRF_CAL_DATA
  ⟨0x138, 1, 0, 0x0, 0xFFFFFFFF, 0x0, 0x0, 0x0, 0x0⟩, -- TRF_PACT_LO
  ⟨0x13C, 1, 0, 0x0, 0xFFFFFFFF, 0x0, 0x0, 0x0, 0x0⟩, -- TRF_PACT_HI
  ⟨0x140, 1, 0, 0x0, 0x0, 0x0, 0x3, 0x0, 0x0⟩, -- TRF_PCMD
  ⟨0x144, 1, 0, 0x0, 0x0, 0x0, 0x0, 0x0, 0x0⟩, -- TRF_PSTATE
  ⟨0x148, 1, 0, 0x0, 0x0, 0x0, 0x0, 0x0, 0x0⟩, -- TRF_ACAL_CRC
  ⟨0x14C, 1, 0, 0x0, 0x0, 0x0, 0x0, 0x0, 0x0⟩, -- TRF_PCAL_CRC
  ⟨0x150, 1, 0, 0x0, 0x0, 0x0, 0x0, 0x0, 0x0⟩, -- TRF_ACT_LO
  ⟨0x154, 1, 0, 0x0, 0x0, 0x0, 0x0, 0x0, 0x0⟩] -- TRF_ACT_HI

/-- Registers of DMD (R208). -/
def rowsDmd : List RegRow := [
  ⟨0x008, 1, 0, 0x0, 0x0, 0x0, 0x0, 0x0, 0x0⟩, -- DMD_CTRL
  ⟨0x00C, 1, 0, 0x0, 0x0, 0x0, 0x0, 0x0, 0x0⟩, -- DMD_STATUS
  ⟨0x100, 1, 0, 0x105, 0x0, 0x0, 0x0, 0x0, 0xF1F⟩, -- DMD_CFG
  ⟨0x104, 1, 0, 0xFFFFFFFF, 0x0, 0x0, 0x0, 0x0, 0xFFFFFFFF⟩, -- DMD_EN_LO
  ⟨0x108, 1, 0, 0xFFFF, 0x0, 0x0, 0x0, 0x0, 0xFFFF⟩, -- DMD_EN_HI
  ⟨0x110, 1, 0, 0x6DDD00, 0x0, 0x0, 0x0, 0x0, 0x0⟩, -- DMD_SUBLEN
  ⟨0x114, 1, 0, 0x6DDD00, 0x0, 0x0, 0x0, 0x0, 0x0⟩, -- DMD_NOMLEN
  ⟨0x118, 1, 0, 0x0, 0x0, 0x0, 0x0, 0x0, 0x0⟩, -- DMD_NEXT_LO
  ⟨0x11C, 1, 0, 0x0, 0x0, 0x0, 0x0, 0x0, 0x0⟩, -- DMD_NEXT_HI
  ⟨0x120, 1, 0, 0x0, 0x0, 0x0, 0x0, 0x0, 0x0⟩, -- DMD_HW_LO
  ⟨0x124, 1, 0, 0x0, 0x0, 0x0, 0x0, 0x0, 0x0⟩, -- DMD_HW_HI
  ⟨0x128, 1, 0, 0x0, 0x0, 0x0, 0x0, 0x0, 0x0⟩] -- DMD_FLAGS

/-- Registers of LDG (R237), part 1. -/
def rowsLdg0 : List RegRow := [
  ⟨0x004, 1, 0, 0x100840, 0x0, 0x0, 0x0, 0x0, 0x0⟩, -- LDG_CAP
  ⟨0x008, 1, 0, 0x0, 0x0, 0x0, 0x1, 0x0, 0x0⟩, -- LDG_CTRL
  ⟨0x00C, 1, 0, 0x0, 0x0, 0x0, 0x0, 0x0, 0x0⟩, -- LDG_STATUS
  ⟨0x100, 1, 0, 0x0, 0x0, 0x0, 0x0, 0x0, 0x0⟩, -- LDG_SAVE_SEQ
  ⟨0x104, 1, 0, 0x0, 0x0, 0x0, 0x0, 0x0, 0x0⟩, -- LDG_SAVE_STRIDE_LO
  ⟨0x108, 1, 0, 0x0, 0x0, 0x0, 0x0, 0x0, 0x0⟩, -- LDG_SAVE_STRIDE_HI
  ⟨0x10C, 1, 0, 0x0, 0x0, 0x0, 0x0, 0x0, 0x0⟩, -- LDG_SAVE_SKIP
  ⟨0x110, 1, 0, 0x0, 0x0, 0x0, 0x0, 0x0, 0x0⟩, -- LDG_COMMIT_STRIDE_LO
  ⟨0x114, 1, 0, 0x0, 0x0, 0x0, 0x0, 0x0, 0x0⟩, -- LDG_COMMIT_STRIDE_HI
  ⟨0x118, 1, 0, 0x0, 0x0, 0x0, 0x0, 0x0, 0x0⟩, -- LDG_TAIL
  ⟨0x11C, 1, 0, 0x0, 0x0, 0x0, 0x0, 0x0, 0x0⟩, -- LDG_RESTORE_ST
  ⟨0x120, 1, 0, 0x0, 0x0, 0x0, 0x0, 0x0, 0x0⟩, -- LDG_RESTORE_STRIDE_LO
  ⟨0x124, 1, 0, 0x0, 0x0, 0x0, 0x0, 0x0, 0x0⟩, -- LDG_RESTORE_STRIDE_HI
  ⟨0x128, 1, 0, 0x0, 0x0, 0x0, 0x0, 0x0, 0x0⟩, -- LDG_RESTORE_LC_LO
  ⟨0x12C, 1, 0, 0x0, 0x0, 0x0, 0x0, 0x0, 0x0⟩, -- LDG_RESTORE_LC_HI
  ⟨0x130, 1, 0, 0x0, 0x0, 0x0, 0x0, 0x0, 0x0⟩, -- LDG_PFW_CNT
  ⟨0x134, 1, 0, 0x0, 0x0, 0x0, 0x0, 0x0, 0x0⟩, -- LDG_ECC_CNT
  ⟨0x138, 1, 0, 0x0, 0x0, 0x3, 0x0, 0x0, 0x0⟩, -- LDG_ERR
  ⟨0x140, 5, 8, 0x0, 0x0, 0x0, 0x0, 0x0, 0x0⟩, -- LDG_LOG_NEXT
  ⟨0x144, 5, 8, 0x0, 0x0, 0x0, 0x0, 0x0, 0x0⟩, -- LDG_LOG_OLDEST
  ⟨0x170, 1, 0, 0x0, 0x3FFFFFC, 0x0, 0x0, 0x0, 0x0⟩, -- LDG_RD_ADDR
  ⟨0x174, 1, 0, 0x0, 0x0, 0x0, 0x0, 0x0, 0x0⟩, -- LDG_RD_DATA
  ⟨0x178, 1, 0, 0x0, 0x3FFFFFC, 0x0, 0x0, 0x0, 0x0⟩, -- LDG_WR_ADDR
  ⟨0x17C, 1, 0, 0x0, 0x0, 0x0, 0xFFFFFFFF, 0x0, 0x0⟩, -- LDG_WR_DATA
  ⟨0x200, 16, 4, 0x0, 0x0, 0x0, 0xFFFFFFFF, 0x0, 0x0⟩] -- LDG_APPEND_BUF

/-- Registers of LDG (R237), part 2. -/
def rowsLdg1 : List RegRow := [
  ⟨0x240, 1, 0, 0x0, 0x0, 0x0, 0x7, 0x0, 0x0⟩, -- LDG_APPEND_CMD
  ⟨0x300, 1, 0, 0x0, 0x3F, 0x0, 0x0, 0x0, 0x0⟩, -- LDG_SIGN_MTR
  ⟨0x304, 1, 0, 0x1, 0x7FF, 0x0, 0x0, 0x0, 0x0⟩, -- LDG_SIGN_SEL
  ⟨0x308, 8, 4, 0x0, 0xFFFFFFFF, 0x0, 0x0, 0x0, 0x0⟩, -- LDG_SIGN_NONCE
  ⟨0x328, 1, 0, 0x0, 0x3F, 0x0, 0x0, 0x0, 0x0⟩, -- LDG_SIGN_NLEN
  ⟨0x32C, 1, 0, 0x0, 0x0, 0x0, 0x1, 0x0, 0x0⟩, -- LDG_SIGN_CMD
  ⟨0x330, 1, 0, 0x0, 0x0, 0x0, 0x0, 0x0, 0x0⟩, -- LDG_SIGN_ST
  ⟨0x400, 256, 4, 0x0, 0x0, 0x0, 0x0, 0x0, 0x0⟩] -- LDG_SIGN_OUT

/-- Registers of LDG. -/
def rowsLdg : List RegRow := rowsLdg0 ++ rowsLdg1

/-- Registers of DSP (R239). -/
def rowsDsp : List RegRow := [
  ⟨0x004, 1, 0, 0x4000, 0x0, 0x0, 0x0, 0x0, 0x0⟩, -- DSP_CAP
  ⟨0x008, 1, 0, 0x0, 0x0, 0x0, 0x0, 0x1, 0x1⟩, -- DSP_CTRL
  ⟨0x00C, 1, 0, 0x0, 0x0, 0x0, 0x0, 0x0, 0x0⟩, -- DSP_STATUS
  ⟨0x100, 32, 4, 0x12800, 0x0, 0x0, 0x0, 0x7FF, 0xFFFFFF⟩, -- DSP_DISP_CFG
  ⟨0x180, 32, 4, 0x0, 0x0, 0x0, 0x0, 0x0, 0x0⟩, -- DSP_DISP_ST
  ⟨0x200, 1, 0, 0x0, 0x1F3F, 0x0, 0x0, 0x0, 0x0⟩, -- DSP_ITEM_ADDR
  ⟨0x204, 1, 0, 0x0, 0x0, 0x0, 0x0, 0x0, 0x0⟩] -- DSP_ITEM_DATA

/-- Registers of MTR (R144, R169, R208), part 1. -/
def rowsMtr0 : List RegRow := [
  ⟨0x004, 1, 0, 0x188, 0x0, 0x0, 0x0, 0x0, 0x0⟩, -- MTR_CAP
  ⟨0x008, 1, 0, 0x0, 0x0, 0x0, 0x0, 0x0, 0x0⟩, -- MTR_CTRL
  ⟨0x00C, 1, 0, 0x400, 0x0, 0x0, 0x0, 0x0, 0x0⟩, -- MTR_STATUS
  ⟨0x100, 1, 0, 0x0, 0x0, 0x0, 0x0, 0x1, 0x1⟩, -- MTR_CFG
  ⟨0x104, 1, 0, 0x4000400, 0x0, 0x0, 0x0, 0xFFFFFFFF, 0xFFFFFFFF⟩, -- MTR_CREEP
  ⟨0x108, 1, 0, 0x0, 0x0, 0x0, 0x0, 0xFFFFFFFF, 0xFFFFFFFF⟩, -- MTR_CONST_LO
  ⟨0x10C, 1, 0, 0x0, 0x0, 0x0, 0x0, 0xFFFFFFFF, 0xFFFFFFFF⟩, -- MTR_CONST_HI
  ⟨0x110, 1, 0, 0x19, 0x0, 0x0, 0x0, 0x3F, 0x3F⟩, -- MTR_DISP
  ⟨0x114, 1, 0, 0x5000000, 0x0, 0x0, 0x0, 0xFFFF1F01, 0xFFFF1F01⟩, -- MTR_COMP_CFG
  ⟨0x118, 1, 0, 0x0, 0x0, 0x0, 0x0, 0xFFFFFFFF, 0xFFFFFFFF⟩, -- MTR_RC20
  ⟨0x11C, 1, 0, 0x3EE, 0x0, 0x0, 0x0, 0xFFFF, 0xFFFF⟩, -- MTR_ALPHA
  ⟨0x120, 1, 0, 0x0, 0x0, 0x0, 0x0, 0x0, 0x0⟩, -- MTR_FREQ
  ⟨0x124, 1, 0, 0x4A0, 0x0, 0x0, 0x0, 0x0, 0x0⟩, -- MTR_N
  ⟨0x130, 2, 4, 0x0, 0x0, 0x0, 0x0, 0x0, 0x0⟩, -- MTR_P_LO
  ⟨0x138, 2, 4, 0x0, 0x0, 0x0, 0x0, 0x0, 0x0⟩, -- MTR_Q_LO
  ⟨0x140, 2, 4, 0x0, 0x0, 0x0, 0x0, 0x0, 0x0⟩, -- MTR_SP_LO
  ⟨0x148, 2, 4, 0x0, 0x0, 0x0, 0x0, 0x0, 0x0⟩, -- MTR_SQ_LO
  ⟨0x150, 2, 4, 0x0, 0x0, 0x0, 0x0, 0x0, 0x0⟩, -- MTR_APP_LO
  ⟨0x158, 1, 0, 0x0, 0x0, 0x0, 0x0, 0x0, 0x0⟩, -- MTR_SORT
  ⟨0x170, 1, 0, 0x0, 0x0, 0x0, 0x0, 0xFFFFFFFF, 0xFFFFFFFF⟩, -- MTR_COMP_CR_LO
  ⟨0x174, 1, 0, 0x0, 0x0, 0x0, 0x0, 0xFFFFFFFF, 0xFFFFFFFF⟩, -- MTR_COMP_CR_HI
  ⟨0x178, 1, 0, 0x0, 0x0, 0x0, 0x0, 0xFFFFFFFF, 0xFFFFFFFF⟩, -- MTR_INOM
  ⟨0x200, 72, 8, 0x0, 0x0, 0x0, 0x0, 0x0, 0x0⟩, -- MTR_PUB_LO
  ⟨0x204, 72, 8, 0x0, 0x0, 0x0, 0x0, 0x0, 0x0⟩, -- MTR_PUB_HI
  ⟨0x440, 72, 4, 0x0, 0x0, 0x0, 0x0, 0x0, 0x0⟩] -- MTR_ROLL

/-- Registers of MTR (R144, R169, R208), part 2. -/
def rowsMtr1 : List RegRow := [
  ⟨0x560, 24, 4, 0x0, 0x0, 0x0, 0x0, 0x0, 0x0⟩, -- MTR_RAW
  ⟨0x5C0, 24, 4, 0x0, 0x0, 0x0, 0x0, 0x0, 0x0⟩, -- MTR_REM
  ⟨0x620, 2, 4, 0x0, 0x0, 0x0, 0x0, 0x0, 0x0⟩, -- MTR_CMP_IMP_LO
  ⟨0x628, 2, 4, 0x0, 0x0, 0x0, 0x0, 0x0, 0x0⟩, -- MTR_CMP_EXP_LO
  ⟨0x640, 3, 4, 0x0, 0x0, 0x0, 0x0, 0x0, 0x0⟩, -- MTR_I2
  ⟨0x650, 4, 4, 0x0, 0x0, 0x0, 0x0, 0x0, 0x0⟩, -- MTR_LOSS_IMP
  ⟨0x660, 4, 4, 0x0, 0x0, 0x0, 0x0, 0x0, 0x0⟩, -- MTR_LOSS_EXP
  ⟨0x670, 1, 0, 0x0, 0x0, 0x0, 0x0, 0x0, 0x0⟩, -- MTR_RC
  ⟨0x674, 1, 0, 0x0, 0x0, 0x0, 0x0, 0x0, 0x0⟩, -- MTR_COMP_T
  ⟨0x678, 1, 0, 0x8, 0x0, 0x0, 0x0, 0x0, 0x0⟩, -- MTR_COMP_ST
  ⟨0x680, 1, 0, 0x0, 0x0, 0x0, 0x0, 0x0, 0x0⟩, -- MTR_DMD_LAST_IMP
  ⟨0x684, 1, 0, 0x0, 0x0, 0x0, 0x0, 0x0, 0x0⟩, -- MTR_DMD_LAST_EXP
  ⟨0x688, 1, 0, 0x0, 0x0, 0x0, 0x0, 0x0, 0x0⟩, -- MTR_DMD_RUN_IMP
  ⟨0x68C, 1, 0, 0x0, 0x0, 0x0, 0x0, 0x0, 0x0⟩, -- MTR_DMD_RUN_EXP
  ⟨0x690, 1, 0, 0x0, 0x0, 0x0, 0x0, 0x0, 0x0⟩, -- MTR_DMD_FLAGS
  ⟨0x6A0, 72, 4, 0x0, 0x0, 0x0, 0x0, 0x0, 0x0⟩] -- MTR_MAX

/-- Registers of MTR. -/
def rowsMtr : List RegRow := rowsMtr0 ++ rowsMtr1

/-- Registers of SFE (R112). -/
def rowsSfe : List RegRow := [
  ⟨0x004, 1, 0, 0x7, 0x0, 0x0, 0x0, 0x0, 0x0⟩, -- SFE_ECAP
  ⟨0x008, 1, 0, 0x0, 0x0, 0x0, 0x0, 0x1, 0x1⟩, -- SFE_ECTRL
  ⟨0x00C, 1, 0, 0x1, 0x0, 0x0, 0x0, 0x0, 0x0⟩, -- SFE_ESTATUS
  ⟨0x100, 1, 0, 0x0, 0x0, 0x0, 0x0, 0x7FF, 0x7FF⟩, -- SFE_ASSIGN
  ⟨0x104, 1, 0, 0x27, 0x0, 0x0, 0x0, 0x7, 0x27⟩, -- SFE_PATH_CFG
  ⟨0x110, 1, 0, 0x10000000, 0x0, 0x0, 0x0, 0x0, 0x0⟩, -- SFE_RATIO_APPLIED
  ⟨0x114, 1, 0, 0x0, 0x0, 0x0, 0x0, 0x0, 0x0⟩, -- SFE_OFFS_APPLIED
  ⟨0x118, 1, 0, 0x0, 0x0, 0x0, 0x0, 0x0, 0x0⟩, -- SFE_RATIO_EST
  ⟨0x11C, 1, 0, 0x0, 0x0, 0x0, 0x0, 0x0, 0x0⟩, -- SFE_OFFS_EST
  ⟨0x120, 1, 0, 0x0, 0x0, 0x0, 0x0, 0x0, 0x0⟩, -- SFE_REG_ST
  ⟨0x124, 1, 0, 0x0, 0x0, 0x0, 0x0, 0x0, 0x0⟩, -- SFE_REG_STRIDE_LO
  ⟨0x128, 1, 0, 0x0, 0x0, 0x0, 0x0, 0x0, 0x0⟩, -- SFE_REG_STRIDE_HI
  ⟨0x130, 1, 0, 0x0, 0x0, 0x0, 0x0, 0x0, 0x0⟩, -- SFE_HEALTH
  ⟨0x134, 1, 0, 0x0, 0x0, 0x7FFF, 0x0, 0x0, 0x0⟩, -- SFE_HEALTH_LATCH
  ⟨0x138, 1, 0, 0x0, 0x0, 0x0, 0x0, 0x0, 0x0⟩, -- SFE_SEAM_CNT
  ⟨0x13C, 1, 0, 0x0, 0x0, 0x0, 0x0, 0x0, 0x0⟩, -- SFE_LOW_CNT
  ⟨0x140, 1, 0, 0x0, 0x0, 0x0, 0x0, 0x0, 0x0⟩, -- SFE_SMP_V
  ⟨0x144, 1, 0, 0x0, 0x0, 0x0, 0x0, 0x0, 0x0⟩, -- SFE_SMP_IH
  ⟨0x148, 1, 0, 0x0, 0x0, 0x0, 0x0, 0x0, 0x0⟩, -- SFE_SMP_IL
  ⟨0x14C, 1, 0, 0x0, 0x0, 0x0, 0x0, 0x0, 0x0⟩] -- SFE_SMP_I

/-- Registers of MET (R143, R168), part 1. -/
def rowsMet0 : List RegRow := [
  ⟨0x004, 1, 0, 0x37105F, 0x0, 0x0, 0x0, 0x0, 0x0⟩, -- MET_CAP
  ⟨0x008, 1, 0, 0x0, 0x0, 0x0, 0x0, 0x0, 0x0⟩, -- MET_CTRL
  ⟨0x00C, 1, 0, 0x2, 0x0, 0x0, 0x0, 0x0, 0x0⟩, -- MET_STATUS
  ⟨0x100, 1, 0, 0x20000, 0x0, 0x0, 0x0, 0x0, 0x7FFFFF⟩, -- MET_ZC_CFG
  ⟨0x110, 1, 0, 0x0, 0x0, 0x0, 0x0, 0x0, 0x0⟩, -- MET_V
  ⟨0x114, 1, 0, 0x0, 0x0, 0x0, 0x0, 0x0, 0x0⟩, -- MET_I
  ⟨0x118, 1, 0, 0x0, 0x0, 0x0, 0x0, 0x0, 0x0⟩, -- MET_V90
  ⟨0x120, 1, 0, 0x0, 0x0, 0x0, 0x0, 0x0, 0x0⟩, -- MET_P_LO
  ⟨0x124, 1, 0, 0x0, 0x0, 0x0, 0x0, 0x0, 0x0⟩, -- MET_P_HI
  ⟨0x128, 1, 0, 0x0, 0x0, 0x0, 0x0, 0x0, 0x0⟩, -- MET_Q_LO
  ⟨0x12C, 1, 0, 0x0, 0x0, 0x0, 0x0, 0x0, 0x0⟩, -- MET_Q_HI
  ⟨0x130, 1, 0, 0x0, 0x0, 0x0, 0x0, 0x0, 0x0⟩, -- MET_FREQ
  ⟨0x134, 1, 0, 0xA0, 0x0, 0x0, 0x0, 0x0, 0x0⟩, -- MET_N
  ⟨0x138, 1, 0, 0x0, 0x0, 0x0, 0x0, 0x0, 0x0⟩, -- MET_HGAIN
  ⟨0x140, 1, 0, 0x0, 0x0, 0x0, 0x0, 0x0, 0x0⟩, -- MET_VRMS_CYC
  ⟨0x144, 1, 0, 0x0, 0x0, 0x0, 0x0, 0x0, 0x0⟩, -- MET_IRMS_CYC
  ⟨0x148, 1, 0, 0x0, 0x0, 0x0, 0x0, 0x0, 0x0⟩, -- MET_VRMS_1S
  ⟨0x14C, 1, 0, 0x0, 0x0, 0x0, 0x0, 0x0, 0x0⟩, -- MET_IRMS_1S
  ⟨0x150, 1, 0, 0x0, 0x0, 0x0, 0x0, 0x0, 0x0⟩, -- MET_VDC_1S
  ⟨0x154, 1, 0, 0x0, 0x0, 0x0, 0x0, 0x0, 0x0⟩, -- MET_IDC_1S
  ⟨0x158, 1, 0, 0x0, 0x0, 0x0, 0x0, 0x0, 0x0⟩, -- MET_WIN_LO
  ⟨0x15C, 1, 0, 0x0, 0x0, 0x0, 0x0, 0x0, 0x0⟩, -- MET_WIN_HI
  ⟨0x160, 1, 0, 0x0, 0x0, 0x0, 0x0, 0x0, 0x0⟩, -- MET_CLIP_CNT
  ⟨0x180, 1, 0, 0x40000000, 0x0, 0x0, 0x0, 0xFFFFFFFF, 0xFFFFFFFF⟩, -- MET_CAL_GV
  ⟨0x184, 1, 0, 0x40000000, 0x0, 0x0, 0x0, 0xFFFFFFFF, 0xFFFFFFFF⟩] -- MET_CAL_GI

/-- Registers of MET (R143, R168), part 2. -/
def rowsMet1 : List RegRow := [
  ⟨0x188, 1, 0, 0x0, 0x0, 0x0, 0x0, 0xFFFFFFFF, 0xFFFFFFFF⟩, -- MET_CAL_OV
  ⟨0x18C, 1, 0, 0x0, 0x0, 0x0, 0x0, 0xFFFFFFFF, 0xFFFFFFFF⟩, -- MET_CAL_OI
  ⟨0x190, 1, 0, 0x0, 0x0, 0x0, 0x0, 0xFFFF, 0xFFFF⟩, -- MET_CAL_PHI
  ⟨0x194, 1, 0, 0x10000000, 0x0, 0x0, 0x0, 0xFFFFFFFF, 0xFFFFFFFF⟩, -- MET_CAL_RATIO
  ⟨0x198, 1, 0, 0x0, 0x0, 0x0, 0x0, 0xFFFFFFFF, 0xFFFFFFFF⟩, -- MET_CAL_ROFS
  ⟨0x19C, 1, 0, 0x0, 0x0, 0x0, 0x0, 0x0, 0x0⟩] -- MET_CAL_DELAY

/-- Registers of MET. -/
def rowsMet : List RegRow := rowsMet0 ++ rowsMet1

/-- Registers of PQM (R185). -/
def rowsPqm : List RegRow := [
  ⟨0x004, 1, 0, 0xC3, 0x0, 0x0, 0x0, 0x0, 0x0⟩, -- PQM_CAP
  ⟨0x008, 1, 0, 0x0, 0x0, 0x0, 0x0, 0x0, 0x0⟩, -- PQM_CTRL
  ⟨0x00C, 1, 0, 0x0, 0x0, 0x0, 0x0, 0x0, 0x0⟩, -- PQM_STATUS
  ⟨0x100, 1, 0, 0x2, 0x0, 0x0, 0x0, 0x0, 0x3⟩, -- PQM_CFG
  ⟨0x104, 1, 0, 0x0, 0x0, 0x0, 0x0, 0x0, 0xFFFFFF⟩, -- PQM_UDIN
  ⟨0x108, 1, 0, 0xC82328, 0x0, 0x0, 0x0, 0x0, 0xFFFFFFFF⟩, -- PQM_SAG
  ⟨0x10C, 1, 0, 0xC82AF8, 0x0, 0x0, 0x0, 0x0, 0xFFFFFFFF⟩, -- PQM_SWELL
  ⟨0x110, 1, 0, 0xC801F4, 0x0, 0x0, 0x0, 0x0, 0xFFFFFFFF⟩, -- PQM_INTR
  ⟨0x120, 1, 0, 0x0, 0x0, 0x0, 0x0, 0x0, 0x0⟩, -- PQM_HC_U
  ⟨0x124, 1, 0, 0x0, 0x0, 0x0, 0x0, 0x0, 0x0⟩, -- PQM_HC_LEN
  ⟨0x128, 1, 0, 0x0, 0x0, 0x0, 0x0, 0x0, 0x0⟩, -- PQM_EXT_LOW
  ⟨0x12C, 1, 0, 0x0, 0x0, 0x0, 0x0, 0x0, 0x0⟩, -- PQM_EXT_HIGH
  ⟨0x130, 1, 0, 0x0, 0x0, 0x0, 0x0, 0x0, 0x0⟩, -- PQM_OPEN_LO
  ⟨0x134, 1, 0, 0x0, 0x0, 0x0, 0x0, 0x0, 0x0⟩, -- PQM_OPEN_HI
  ⟨0x138, 1, 0, 0x0, 0x0, 0x0, 0x0, 0x0, 0x0⟩, -- PQM_CNT_SS
  ⟨0x13C, 1, 0, 0x0, 0x0, 0x0, 0x0, 0x0, 0x0⟩] -- PQM_CNT_INTR

/-- Registers of OPT (R264), part 1. -/
def rowsOpt0 : List RegRow := [
  ⟨0x004, 1, 0, 0xF, 0x0, 0x0, 0x0, 0x0, 0x0⟩, -- OPT_CAP
  ⟨0x008, 1, 0, 0x2, 0x3, 0x0, 0x0, 0x0, 0x0⟩, -- OPT_CTRL
  ⟨0x00C, 1, 0, 0x7, 0x0, 0x0, 0x0, 0x0, 0x0⟩, -- OPT_STATUS
  ⟨0x100, 1, 0, 0x0, 0xFFFFFF, 0x0, 0x0, 0xFFFC00, 0x0⟩, -- OPT_CFG
  ⟨0x104, 1, 0, 0x7D0, 0x707FF, 0x0, 0x0, 0x0, 0x0⟩, -- OPT_PWM
  ⟨0x108, 1, 0, 0x7D0, 0x0, 0x0, 0x0, 0x0, 0x0⟩, -- OPT_PWM_APPLIED
  ⟨0x10C, 1, 0, 0x320, 0x7FF, 0x0, 0x0, 0x0, 0x0⟩, -- OPT_LIM
  ⟨0x110, 1, 0, 0x7FF, 0x0, 0x0, 0x0, 0x0, 0x0⟩, -- OPT_LIM2
  ⟨0x114, 1, 0, 0x0, 0x0, 0x0, 0x0, 0x0, 0x0⟩, -- OPT_CP
  ⟨0x118, 1, 0, 0xFFFF, 0x0, 0x0, 0x0, 0x0, 0x0⟩, -- OPT_PP
  ⟨0x11C, 1, 0, 0x0, 0x0, 0x0, 0x0, 0x0, 0x0⟩, -- OPT_TEMP
  ⟨0x120, 1, 0, 0x640, 0xFFFF, 0x0, 0x0, 0x0, 0x0⟩, -- OPT_TEMP_LIM
  ⟨0x124, 1, 0, 0x0, 0x0, 0x0, 0x0, 0x0, 0x0⟩, -- OPT_LOCK
  ⟨0x128, 1, 0, 0x0, 0x0, 0x0, 0x0, 0x0, 0x0⟩, -- OPT_DROP
  ⟨0x12C, 1, 0, 0x0, 0x0, 0x0, 0x3, 0x0, 0x0⟩, -- OPT_CMD
  ⟨0x130, 1, 0, 0x0, 0x0, 0x0, 0x0, 0x0, 0x0⟩, -- OPT_DROP_STRIDE_LO
  ⟨0x134, 1, 0, 0x0, 0x0, 0x0, 0x0, 0x0, 0x0⟩, -- OPT_DROP_STRIDE_HI
  ⟨0x140, 1, 0, 0x8FF, 0xFFFFFF, 0x0, 0x0, 0x0, 0x0⟩, -- OPT_COMM
  ⟨0x144, 4, 4, 0x0, 0x0, 0x0, 0xFFFFFFFF, 0x0, 0x0⟩, -- OPT_NMK
  ⟨0x160, 1, 0, 0x0, 0xFFFFFFFF, 0x0, 0x0, 0x0, 0x0⟩, -- OPT_RX_BASE
  ⟨0x164, 1, 0, 0x0, 0xFF, 0x0, 0x0, 0x0, 0x0⟩, -- OPT_RING_SIZE
  ⟨0x168, 1, 0, 0x0, 0x0, 0x0, 0x0, 0x0, 0x0⟩, -- OPT_RX_HEAD
  ⟨0x16C, 1, 0, 0x0, 0x3FF, 0x0, 0x0, 0x0, 0x0⟩, -- OPT_RX_TAIL
  ⟨0x170, 1, 0, 0x0, 0xFFFFFFFF, 0x0, 0x0, 0x0, 0x0⟩, -- OPT_TX_BASE
  ⟨0x174, 1, 0, 0x0, 0x0, 0x0, 0x0, 0x0, 0x0⟩] -- OPT_TX_HEAD

/-- Registers of OPT (R264), part 2. -/
def rowsOpt1 : List RegRow := [
  ⟨0x178, 1, 0, 0x0, 0x3FF, 0x0, 0x0, 0x0, 0x0⟩, -- OPT_TX_TAIL
  ⟨0x17C, 1, 0, 0x0, 0x0, 0x0, 0x0, 0x0, 0x0⟩, -- OPT_RX_DROP
  ⟨0x190, 15, 4, 0x0, 0x0, 0x0, 0x0, 0x0, 0x0⟩] -- OPT_ATTEN

/-- Registers of OPT. -/
def rowsOpt : List RegRow := rowsOpt0 ++ rowsOpt1

/-- Registers of CAN (R266). -/
def rowsCan : List RegRow := [
  ⟨0x004, 1, 0, 0x402020, 0x0, 0x0, 0x0, 0x0, 0x0⟩, -- CAN_CAP
  ⟨0x008, 1, 0, 0x30, 0x3F, 0x0, 0x0, 0x0, 0x0⟩, -- CAN_CTRL
  ⟨0x00C, 1, 0, 0x3, 0x0, 0x4, 0x0, 0x0, 0x0⟩, -- CAN_STATUS
  ⟨0x100, 1, 0, 0xF1E7C9, 0x7FFFFFF, 0x0, 0x0, 0x0, 0x0⟩, -- CAN_NBT
  ⟨0x104, 1, 0, 0x3D1241, 0x1FFFFFF, 0x0, 0x0, 0x0, 0x0⟩, -- CAN_DBT
  ⟨0x108, 1, 0, 0x0, 0x0, 0x0, 0xFFFFFFFF, 0x0, 0x0⟩, -- CAN_TX_REQ
  ⟨0x10C, 1, 0, 0x0, 0x0, 0x0, 0x0, 0x0, 0x0⟩, -- CAN_TX_PEND
  ⟨0x110, 1, 0, 0x0, 0x0, 0x0, 0xFFFFFFFF, 0x0, 0x0⟩, -- CAN_TX_CANCEL
  ⟨0x114, 1, 0, 0x0, 0x0, 0xFFFFFFFF, 0x0, 0x0, 0x0⟩, -- CAN_TX_DONE
  ⟨0x118, 1, 0, 0x0, 0xFFFFFFFF, 0x0, 0x0, 0x0, 0x0⟩, -- CAN_TT_MASK
  ⟨0x11C, 1, 0, 0x0, 0x3F, 0x0, 0x0, 0x0, 0x0⟩, -- CAN_STOP_CFG
  ⟨0x120, 1, 0, 0x0, 0xFFFFFFFF, 0x0, 0x0, 0x0, 0x0⟩, -- CAN_STOP_PORTS
  ⟨0x124, 1, 0, 0x0, 0x0, 0x0, 0x0, 0x0, 0x0⟩, -- CAN_RX_COUNT
  ⟨0x128, 1, 0, 0x0, 0x0, 0x0, 0x1, 0x0, 0x0⟩, -- CAN_RX_POP
  ⟨0x12C, 1, 0, 0x0, 0x0, 0x0, 0x0, 0x0, 0x0⟩, -- CAN_RX_LOST
  ⟨0x130, 1, 0, 0x0, 0x0, 0x0, 0x0, 0x0, 0x0⟩, -- CAN_TRIG_NS
  ⟨0x134, 1, 0, 0x0, 0x0, 0x0, 0x0, 0x0, 0x0⟩, -- CAN_TRIG_SEC
  ⟨0x140, 32, 8, 0x0, 0xBFFFFFFF, 0x0, 0x0, 0x0, 0x0⟩, -- CAN_FILT_ID
  ⟨0x144, 32, 8, 0x0, 0x1FFFFFFF, 0x0, 0x0, 0x0, 0x0⟩] -- CAN_FILT_MASK

/-- Registers of LSG (R295). -/
def rowsLsg : List RegRow := [
  ⟨0x004, 1, 0, 0x840, 0x0, 0x0, 0x0, 0x0, 0x0⟩, -- LSW_GCAP
  ⟨0x008, 1, 0, 0x0, 0x3, 0x0, 0x0, 0x0, 0x0⟩, -- LSW_GCTRL
  ⟨0x00C, 1, 0, 0x1, 0x0, 0x100, 0x0, 0x0, 0x0⟩, -- LSW_GSTATUS
  ⟨0x100, 1, 0, 0x0, 0x0, 0x0, 0x0, 0x0, 0x0⟩, -- LSW_BRIDLE_CAUSE
  ⟨0x104, 1, 0, 0x0, 0x0, 0x0, 0x0, 0x0, 0x0⟩, -- LSW_BRIDLE_IN
  ⟨0x108, 1, 0, 0x0, 0x0, 0x0, 0x0, 0x0, 0x0⟩, -- LSW_BSTATE_LO
  ⟨0x10C, 1, 0, 0x0, 0x0, 0x0, 0x0, 0x0, 0x0⟩, -- LSW_BSTATE_HI
  ⟨0x110, 1, 0, 0x0, 0x0, 0x0, 0x1, 0x0, 0x0⟩, -- LSW_TAKE
  ⟨0x114, 1, 0, 0x0, 0x0, 0x0, 0x0, 0x0, 0x0⟩, -- LSW_TAKE_ST
  ⟨0x118, 1, 0, 0x0, 0x0, 0x0, 0x0, 0x0, 0x0⟩, -- LSW_TAKE_DIFF_LO
  ⟨0x11C, 1, 0, 0x0, 0x0, 0x0, 0x0, 0x0, 0x0⟩, -- LSW_TAKE_DIFF_HI
  ⟨0x120, 16, 4, 0x0, 0x3F3F3F3F, 0x0, 0x0, 0x3F3F3F3F, 0x0⟩, -- LSW_BMAP_STG
  ⟨0x160, 16, 4, 0x0, 0x0, 0x0, 0x0, 0x0, 0x0⟩, -- LSW_BMAP_ACT
  ⟨0x1A0, 1, 0, 0x0, 0x0, 0x0, 0x1, 0x0, 0x0⟩, -- LSW_BMAP_CMD
  ⟨0x1A4, 1, 0, 0x0, 0x0, 0x0, 0x0, 0x0, 0x0⟩, -- LSW_BMAP_ST
  ⟨0x1A8, 1, 0, 0x0, 0x0, 0x0, 0x0, 0x0, 0x0⟩, -- LSW_BMAP_CRC
  ⟨0x1AC, 1, 0, 0x0, 0x0, 0x0, 0x0, 0x0, 0x0⟩, -- LSW_BMAP_WR
  ⟨0x1B0, 1, 0, 0x0, 0x13F, 0x0, 0x0, 0x0, 0x0⟩, -- LSW_MON
  ⟨0x1B4, 1, 0, 0x0, 0x0, 0x0, 0x0, 0x0, 0x0⟩, -- LSW_DRIVE_IN
  ⟨0x1B8, 1, 0, 0x1900064, 0x1FF007F, 0x0, 0x0, 0x0, 0x0⟩, -- LSW_LIMITS
  ⟨0x1BC, 1, 0, 0x0, 0x0, 0x0, 0x0, 0x0, 0x0⟩, -- LSW_MOD_I
  ⟨0x1C0, 8, 4, 0x0, 0x0, 0x0, 0x0, 0x0, 0x0⟩, -- LSW_BANK
  ⟨0x1E0, 8, 4, 0x0, 0x0, 0x0, 0x0, 0x0, 0x0⟩, -- LSW_BANK_V
  ⟨0x200, 16, 4, 0x0, 0x0, 0x0, 0x0, 0x0, 0x0⟩] -- LSW_VSLOT_RES

/-- Registers of LSW (R296). -/
def rowsLsw : List RegRow := [
  ⟨0x004, 1, 0, 0x0, 0x0, 0x0, 0x0, 0x0, 0x0⟩, -- LSW_CAP
  ⟨0x008, 1, 0, 0x0, 0xFF, 0x0, 0x0, 0x0, 0x0⟩, -- LSW_CTRL
  ⟨0x00C, 1, 0, 0x8000, 0x0, 0x20000, 0x0, 0x0, 0x0⟩, -- LSW_STATUS
  ⟨0x100, 1, 0, 0x0, 0x1, 0x0, 0x0, 0x0, 0x0⟩, -- LSW_DRIVE
  ⟨0x104, 1, 0, 0xA19, 0xFF3F, 0x0, 0x0, 0x0, 0x0⟩, -- LSW_LIM
  ⟨0x108, 1, 0, 0x6403, 0xFF0F, 0x0, 0x0, 0x0, 0x0⟩, -- LSW_RETRY
  ⟨0x10C, 1, 0, 0x64000A, 0x1FF003F, 0x0, 0x0, 0x0, 0x0⟩, -- LSW_CLAMP
  ⟨0x110, 1, 0, 0x6414, 0xFFFF, 0x0, 0x0, 0x0, 0x0⟩, -- LSW_OL
  ⟨0x114, 1, 0, 0x0, 0x1F, 0x0, 0x0, 0x0, 0x0⟩, -- LSW_CFG
  ⟨0x118, 1, 0, 0x0, 0x0, 0x0, 0x7, 0x0, 0x0⟩, -- LSW_CMD
  ⟨0x11C, 1, 0, 0x0, 0x0, 0x0, 0x0, 0x0, 0x0⟩, -- LSW_SENSE
  ⟨0x120, 1, 0, 0x0, 0x0, 0x0, 0x0, 0x0, 0x0⟩, -- LSW_BUCKET
  ⟨0x124, 1, 0, 0x0, 0x0, 0x0, 0x0, 0x0, 0x0⟩, -- LSW_LAST_E
  ⟨0x128, 1, 0, 0x0, 0x0, 0x0, 0x0, 0x0, 0x0⟩, -- LSW_TOFF
  ⟨0x12C, 1, 0, 0x0, 0x0, 0x0, 0x0, 0x0, 0x0⟩, -- LSW_OC_CNT
  ⟨0x130, 1, 0, 0x0, 0x10F, 0x0, 0x0, 0x0, 0x0⟩, -- LSW_VSLOT
  ⟨0x134, 1, 0, 0x0, 0x0, 0x0, 0x0, 0x0, 0x0⟩] -- LSW_DIAG

/-- Registers of SAF (R341), part 1. -/
def rowsSaf0 : List RegRow := [
  ⟨0x004, 1, 0, 0x208, 0x0, 0x0, 0x0, 0x0, 0x0⟩, -- SAF_CAP
  ⟨0x008, 1, 0, 0x0, 0x1, 0x0, 0x0, 0x0, 0x0⟩, -- SAF_CTRL
  ⟨0x00C, 1, 0, 0x0, 0x0, 0x0, 0x0, 0x0, 0x0⟩, -- SAF_STATUS
  ⟨0x100, 1, 0, 0x0, 0x0, 0x0, 0xFFFFFFFF, 0x0, 0x0⟩, -- SAF_WDT
  ⟨0x110, 8, 4, 0x2002, 0x0, 0x0, 0x0, 0x0, 0x0⟩, -- SAF_FLOCK_ST
  ⟨0x150, 1, 0, 0x0, 0x0, 0x0, 0x0, 0x0, 0x0⟩, -- SAF_SAFE_OK
  ⟨0x154, 1, 0, 0xFFFFFF, 0x0, 0x0, 0x0, 0x0, 0x0⟩, -- SAF_CUT
  ⟨0x158, 1, 0, 0x0, 0x0, 0x0, 0x7FFF, 0x0, 0x0⟩, -- SAF_CMD
  ⟨0x15C, 1, 0, 0x0, 0x0, 0x0, 0x0, 0x0, 0x0⟩, -- SAF_CMD_ST
  ⟨0x160, 1, 0, 0x0, 0x0, 0x0, 0x0, 0x0, 0x0⟩, -- SAF_NET_ST
  ⟨0x164, 6, 4, 0x0, 0x0, 0x0, 0x0, 0x0, 0x0⟩, -- SAF_RX_CNT
  ⟨0x180, 1, 0, 0x0, 0x0, 0x0, 0x0, 0x0, 0x0⟩, -- SAF_PEER_OK
  ⟨0x184, 1, 0, 0x0, 0x0, 0x0, 0x1, 0x0, 0x0⟩, -- SAF_TX_CMD
  ⟨0x188, 1, 0, 0x0, 0xFFFFFFFF, 0x0, 0x0, 0x0, 0x0⟩, -- SAF_TX_BUF
  ⟨0x18C, 1, 0, 0x0, 0xFFFFFFFF, 0x0, 0x0, 0x0, 0x0⟩, -- SAF_TX_DEST
  ⟨0x190, 1, 0, 0x0, 0x13F, 0x0, 0x0, 0x0, 0x0⟩, -- SAF_WELD
  ⟨0x300, 1, 0, 0x0, 0x0, 0x0, 0x0, 0x0, 0x0⟩, -- SAF_SEAL_MOD
  ⟨0x304, 16, 4, 0x0, 0x0, 0x0, 0x0, 0x0, 0x0⟩, -- SAF_SEAL_P
  ⟨0x344, 1, 0, 0x0, 0x0, 0x0, 0x0, 0x0, 0x0⟩, -- SAF_SEAL_DIFF
  ⟨0x400, 1, 0, 0x0, 0x1FF, 0x0, 0x0, 0x0, 0x0⟩, -- SAF_SPB_ADDR
  ⟨0x404, 1, 0, 0x0, 0x0, 0x0, 0x0, 0x0, 0x0⟩, -- SAF_SPB_DATA
  ⟨0x408, 1, 0, 0x0, 0x0, 0x0, 0x3, 0x0, 0x0⟩, -- SAF_SPB_CMD
  ⟨0x40C, 1, 0, 0x0, 0xFFFFFFFF, 0x0, 0x0, 0xFFFFFFFF, 0x0⟩, -- SAF_SPB_CONF_VAL
  ⟨0x410, 1, 0, 0x0, 0xFFFFFFFF, 0x0, 0x0, 0xFFFFFFFF, 0x0⟩, -- SAF_SPB_MAP_VAL
  ⟨0x414, 1, 0, 0x0, 0x0, 0x0, 0x0, 0x0, 0x0⟩] -- SAF_SPB_ST

/-- Registers of SAF (R341), part 2. -/
def rowsSaf1 : List RegRow := [
  ⟨0x418, 1, 0, 0x0, 0x0, 0x0, 0x0, 0x0, 0x0⟩, -- SAF_SPB_CRC_B
  ⟨0x41C, 1, 0, 0x0, 0x0, 0x0, 0x0, 0x0, 0x0⟩, -- SAF_SPB_CRC_A
  ⟨0x420, 1, 0, 0x0, 0x0, 0x0, 0x0, 0x0, 0x0⟩, -- SAF_SPB_CONF
  ⟨0x424, 1, 0, 0x0, 0x0, 0x0, 0x0, 0x0, 0x0⟩] -- SAF_SPB_CONF_MAP

/-- Registers of SAF. -/
def rowsSaf : List RegRow := rowsSaf0 ++ rowsSaf1

/-- Registers of CRK (R342). -/
def rowsCrk : List RegRow := [
  ⟨0x00C, 1, 0, 0x0, 0x0, 0x0, 0x0, 0x0, 0x0⟩, -- CRK_STATUS
  ⟨0x100, 1, 0, 0xFF, 0x0, 0x0, 0x0, 0x0, 0x0⟩, -- CRK_CUT_A
  ⟨0x104, 1, 0, 0x0, 0x0, 0x0, 0x0, 0x0, 0x0⟩, -- CRK_RCM_TRIP
  ⟨0x108, 1, 0, 0x0, 0x0, 0x0, 0x0, 0x0, 0x0⟩, -- CRK_RCM_LVL
  ⟨0x10C, 1, 0, 0x0, 0x0, 0x0, 0x0, 0x0, 0x0⟩, -- CRK_ES
  ⟨0x110, 1, 0, 0x0, 0x0, 0x0, 0x0, 0x0, 0x0⟩, -- CRK_LINK_ERR
  ⟨0x114, 1, 0, 0x0, 0x0, 0x0, 0x0, 0x0, 0x0⟩] -- CRK_DISAGREE

/-- Registers of RCM (R343). -/
def rowsRcm : List RegRow := [
  ⟨0x00C, 1, 0, 0x0, 0x0, 0x0, 0x0, 0x0, 0x0⟩, -- RCM_STATUS
  ⟨0x100, 1, 0, 0x0, 0x0, 0x0, 0x0, 0x0, 0x0⟩, -- RCM_SMP
  ⟨0x104, 1, 0, 0x0, 0x0, 0x0, 0x0, 0x0, 0x0⟩, -- RCM_IDC
  ⟨0x108, 1, 0, 0x0, 0x0, 0x0, 0x0, 0x0, 0x0⟩, -- RCM_IAC
  ⟨0x10C, 1, 0, 0x0, 0x0, 0x0, 0x1, 0x0, 0x0⟩, -- RCM_TEST
  ⟨0x110, 1, 0, 0x0, 0x0, 0x0, 0x0, 0x0, 0x0⟩] -- RCM_TRIPS

/-- Registers of IMD (R343). -/
def rowsImd : List RegRow := [
  ⟨0x00C, 1, 0, 0x0, 0x0, 0x0, 0x0, 0x0, 0x0⟩, -- IMD_STATUS
  ⟨0x100, 1, 0, 0x0, 0x0, 0x0, 0x0, 0x0, 0x0⟩, -- IMD_RISO
  ⟨0x104, 1, 0, 0x0, 0x0, 0x0, 0x0, 0x0, 0x0⟩, -- IMD_UM_POS
  ⟨0x108, 1, 0, 0x0, 0x0, 0x0, 0x0, 0x0, 0x0⟩, -- IMD_UM_NEG
  ⟨0x10C, 1, 0, 0x0, 0x0, 0x0, 0x0, 0x0, 0x0⟩] -- IMD_HALF

/-- Registers of NET (R382). -/
def rowsNet : List RegRow := [
  ⟨0x004, 1, 0, 0x2, 0x0, 0x0, 0x0, 0x0, 0x0⟩, -- NET_CAP
  ⟨0x008, 1, 0, 0x0, 0x1, 0x0, 0x0, 0x0, 0x0⟩, -- NET_CTRL
  ⟨0x00C, 1, 0, 0x0, 0x0, 0x0, 0x0, 0x0, 0x0⟩, -- NET_STATUS
  ⟨0x100, 8, 4, 0x440, 0xFFFF0FF3, 0x0, 0x0, 0x0, 0x0⟩, -- NET_RING_CFG
  ⟨0x120, 8, 4, 0x0, 0xFFF, 0x0, 0x0, 0x0, 0x0⟩, -- NET_RING_LEN
  ⟨0x140, 8, 16, 0x0, 0x0, 0x0, 0x0, 0x0, 0x0⟩, -- NET_RX_HEAD
  ⟨0x144, 8, 16, 0x0, 0x3FF, 0x0, 0x0, 0x0, 0x0⟩, -- NET_RX_TAIL
  ⟨0x148, 8, 16, 0x0, 0x0, 0x0, 0x0, 0x0, 0x0⟩, -- NET_TX_HEAD
  ⟨0x14C, 8, 16, 0x0, 0x3FF, 0x0, 0x0, 0x0, 0x0⟩, -- NET_TX_TAIL
  ⟨0x1C0, 1, 0, 0x0, 0x7, 0x0, 0x0, 0x0, 0x0⟩, -- NET_DEF_RING
  ⟨0x200, 16, 8, 0x0, 0xFFFFFFFF, 0x0, 0x0, 0x0, 0x0⟩, -- NET_RULE_MATCH
  ⟨0x204, 16, 8, 0x0, 0x800FFFFF, 0x0, 0x0, 0x0, 0x0⟩, -- NET_RULE_ACT
  ⟨0x280, 1, 0, 0x1, 0x3, 0x0, 0x0, 0x0, 0x0⟩, -- NET_VLAN_CFG
  ⟨0x300, 64, 4, 0x0, 0x80000FFF, 0x0, 0x0, 0x0, 0x0⟩, -- NET_VLAN
  ⟨0x400, 2, 64, 0x2100000, 0x3FFFFFF, 0x0, 0x0, 0x0, 0x0⟩, -- NET_STR_CFG
  ⟨0x404, 2, 64, 0x0, 0xFFFFFFFF, 0x0, 0x0, 0x0, 0x0⟩, -- NET_STR_DST_LO
  ⟨0x408, 2, 64, 0x0, 0xFFFF, 0x0, 0x0, 0x0, 0x0⟩, -- NET_STR_DST_HI
  ⟨0x40C, 6, 4, 0x0, 0xFFFFFFFF, 0x0, 0x0, 0x0, 0x0⟩, -- NET_STR_MASK0
  ⟨0x424, 2, 64, 0x0, 0x0, 0x8, 0x0, 0x0, 0x0⟩, -- NET_STR_ST
  ⟨0x428, 2, 64, 0x0, 0x0, 0x0, 0x0, 0x0, 0x0⟩, -- NET_STR_SEQ
  ⟨0x42C, 2, 64, 0x0, 0x0, 0x0, 0x0, 0x0, 0x0⟩, -- NET_STR_DROP
  ⟨0x430, 2, 64, 0x0, 0x0, 0x0, 0x0, 0x0, 0x0⟩, -- NET_STR_RATE
  ⟨0x44C, 6, 4, 0x0, 0xFFFFFFFF, 0x0, 0x0, 0x0, 0x0⟩] -- NET_STR_MASK1

/-- Registers of NTP (R383). -/
def rowsNtp : List RegRow := [
  ⟨0x004, 1, 0, 0x3, 0x0, 0x0, 0x0, 0x0, 0x0⟩, -- NET_PCAP
  ⟨0x008, 1, 0, 0x0, 0xF, 0x0, 0x0, 0x0, 0x0⟩, -- NET_PCTRL
  ⟨0x00C, 1, 0, 0x0, 0x0, 0x0, 0x0, 0x0, 0x0⟩, -- NET_PSTATUS
  ⟨0x100, 1, 0, 0x0, 0xFFFFFFFF, 0x0, 0x0, 0x0, 0x0⟩, -- NET_MAC_LO
  ⟨0x104, 1, 0, 0x0, 0xFFFF, 0x0, 0x0, 0x0, 0x0⟩, -- NET_MAC_HI
  ⟨0x108, 1, 0, 0x5F2, 0x3FFF, 0x0, 0x0, 0x0, 0x0⟩, -- NET_MAX_LEN
  ⟨0x110, 6, 4, 0x0, 0x3FF, 0x0, 0x0, 0x0, 0x0⟩, -- NET_QRATE
  ⟨0x130, 1, 0, 0x0, 0x0, 0x0, 0x0, 0x0, 0x0⟩, -- NET_RX_FRAMES
  ⟨0x134, 1, 0, 0x0, 0x0, 0x0, 0x0, 0x0, 0x0⟩, -- NET_RX_CRC_ERR
  ⟨0x138, 1, 0, 0x0, 0x0, 0x0, 0x0, 0x0, 0x0⟩, -- NET_RX_DROP_RING
  ⟨0x13C, 1, 0, 0x0, 0x0, 0x0, 0x0, 0x0, 0x0⟩, -- NET_RX_DROP_FIFO
  ⟨0x140, 1, 0, 0x0, 0x0, 0x0, 0x0, 0x0, 0x0⟩, -- NET_RX_DROP_VLAN
  ⟨0x144, 1, 0, 0x0, 0x0, 0x0, 0x0, 0x0, 0x0⟩, -- NET_TX_FRAMES
  ⟨0x148, 1, 0, 0x0, 0x0, 0x0, 0x0, 0x0, 0x0⟩, -- NET_TX_DROP
  ⟨0x14C, 1, 0, 0x0, 0x0, 0x0, 0x0, 0x0, 0x0⟩] -- NET_FABRIC_STALL

/-- Registers of HRN (R367). -/
def rowsHrn : List RegRow := [
  ⟨0x004, 1, 0, 0x2, 0x0, 0x0, 0x0, 0x0, 0x0⟩, -- HRN_CAP
  ⟨0x008, 1, 0, 0x6, 0x7, 0x0, 0x0, 0x0, 0x0⟩, -- HRN_CTRL
  ⟨0x00C, 1, 0, 0x0, 0x0, 0x0, 0x0, 0x0, 0x0⟩, -- HRN_STATUS
  ⟨0x100, 1, 0, 0x0, 0x0, 0x0, 0x7, 0x0, 0x0⟩, -- HRN_CMD
  ⟨0x104, 1, 0, 0x0, 0x0, 0x0, 0x0, 0x0, 0x0⟩, -- HRN_CMD_ST
  ⟨0x108, 1, 0, 0x0, 0x0, 0x0, 0x0, 0x0, 0x0⟩, -- HRN_EV_STRIDE_LO
  ⟨0x10C, 1, 0, 0x0, 0x0, 0x0, 0x0, 0x0, 0x0⟩, -- HRN_EV_STRIDE_HI
  ⟨0x110, 1, 0, 0x0, 0x0, 0x0, 0x0, 0x0, 0x0⟩, -- HRN_MISMATCH
  ⟨0x114, 1, 0, 0x0, 0x0, 0x0, 0x0, 0x0, 0x0⟩, -- HRN_MISMATCH_1S
  ⟨0x118, 1, 0, 0x0, 0x0, 0x0, 0x0, 0x0, 0x0⟩, -- HRN_DIGEST_LO
  ⟨0x11C, 1, 0, 0x0, 0x0, 0x0, 0x0, 0x0, 0x0⟩, -- HRN_DIGEST_HI
  ⟨0x120, 1, 0, 0x0, 0x0, 0x0, 0x0, 0x0, 0x0⟩, -- HRN_TWIN_DIGEST_LO
  ⟨0x124, 1, 0, 0x0, 0x0, 0x0, 0x0, 0x0, 0x0⟩, -- HRN_TWIN_DIGEST_HI
  ⟨0x128, 1, 0, 0x0, 0x0, 0x0, 0x0, 0x0, 0x0⟩, -- HRN_HB_MISS
  ⟨0x12C, 1, 0, 0x0, 0x0, 0x0, 0x0, 0x0, 0x0⟩, -- HRN_COPY
  ⟨0x130, 1, 0, 0x0, 0x0, 0x0, 0x0, 0x0, 0x0⟩, -- HRN_COUNTS
  ⟨0x140, 4, 4, 0x0, 0x0, 0x0, 0x0, 0x0, 0x0⟩, -- HRN_TWIN_ID
  ⟨0x150, 1, 0, 0x0, 0x0, 0x0, 0x0, 0x0, 0x0⟩, -- HRN_TWIN_VAR
  ⟨0x154, 1, 0, 0x0, 0x0, 0x0, 0x0, 0x0, 0x0⟩, -- HRN_SEAL_DIFF
  ⟨0x200, 16, 4, 0x0, 0x0, 0x0, 0xFFFFFFFF, 0x0, 0x0⟩, -- HRN_MSG_TX
  ⟨0x240, 1, 0, 0x0, 0x0, 0x0, 0x1, 0x0, 0x0⟩, -- HRN_MSG_CMD
  ⟨0x280, 16, 4, 0x0, 0x0, 0x0, 0x0, 0x0, 0x0⟩, -- HRN_MSG_RX
  ⟨0x2C0, 1, 0, 0x0, 0x0, 0x0, 0x1, 0x0, 0x0⟩, -- HRN_MSG_POP
  ⟨0x2C4, 1, 0, 0x0, 0x0, 0x0, 0x0, 0x0, 0x0⟩] -- HRN_MSG_ST

/-- Registers of HRL (R368). -/
def rowsHrl : List RegRow := [
  ⟨0x00C, 1, 0, 0x0, 0x0, 0x0, 0x0, 0x0, 0x0⟩, -- HRN_LANE_ST
  ⟨0x100, 1, 0, 0x0, 0x0, 0x0, 0x0, 0x0, 0x0⟩, -- HRN_LANE_DELAY
  ⟨0x104, 1, 0, 0x0, 0x0, 0x0, 0x0, 0x0, 0x0⟩, -- HRN_LANE_CRC_ERR
  ⟨0x108, 1, 0, 0x0, 0x0, 0x0, 0x0, 0x0, 0x0⟩, -- HRN_LANE_DROP
  ⟨0x10C, 1, 0, 0x42, 0xFF, 0x0, 0x0, 0x0, 0x0⟩] -- HRN_LANE_EQ

/-- Registers of MLK (R402), part 1. -/
def rowsMlk0 : List RegRow := [
  ⟨0x004, 1, 0, 0x43, 0x0, 0x0, 0x0, 0x0, 0x0⟩, -- MLK_CAP
  ⟨0x008, 1, 0, 0x0, 0x1, 0x0, 0x0, 0x0, 0x0⟩, -- MLK_CTRL
  ⟨0x00C, 1, 0, 0x0, 0x0, 0x0, 0x0, 0x0, 0x0⟩, -- MLK_STATUS
  ⟨0x100, 1, 0, 0x800078, 0x1FF01FF, 0x0, 0x0, 0x0, 0x0⟩, -- MLK_TONE_A
  ⟨0x104, 1, 0, 0xA00098, 0x1FF01FF, 0x0, 0x0, 0x0, 0x0⟩, -- MLK_TONE_B
  ⟨0x108, 1, 0, 0x13E40, 0x1FFFFFF, 0x0, 0x0, 0x0, 0x0⟩, -- MLK_CFG
  ⟨0x10C, 1, 0, 0x6E, 0x7F, 0x0, 0x0, 0x0, 0x0⟩, -- MLK_TX_LEVEL
  ⟨0x110, 1, 0, 0xC, 0xFF, 0x0, 0x0, 0x0, 0x0⟩, -- MLK_IMP_THR
  ⟨0x114, 1, 0, 0x0, 0xFFFF, 0x0, 0x0, 0x0, 0x0⟩, -- MLK_ZC_OFS
  ⟨0x118, 1, 0, 0x0, 0x0, 0x0, 0x0, 0x0, 0x0⟩, -- MLK_HALFPER
  ⟨0x11C, 1, 0, 0x0, 0x0, 0x0, 0x0, 0x0, 0x0⟩, -- MLK_ZC_ST
  ⟨0x120, 1, 0, 0x0, 0x0, 0x0, 0x3, 0x0, 0x0⟩, -- MLK_TX_CMD
  ⟨0x124, 1, 0, 0x0, 0x0, 0x0, 0x0, 0x0, 0x0⟩, -- MLK_TX_ST
  ⟨0x128, 1, 0, 0x0, 0x0, 0x0, 0x0, 0x0, 0x0⟩, -- MLK_RX_COUNT
  ⟨0x12C, 1, 0, 0x0, 0x0, 0x0, 0x1, 0x0, 0x0⟩, -- MLK_RX_POP
  ⟨0x130, 1, 0, 0x0, 0x0, 0x0, 0x0, 0x0, 0x0⟩, -- MLK_RX_OK
  ⟨0x134, 1, 0, 0x0, 0x0, 0x0, 0x0, 0x0, 0x0⟩, -- MLK_RX_CRC_ERR
  ⟨0x138, 1, 0, 0x0, 0x0, 0x0, 0x0, 0x0, 0x0⟩, -- MLK_RX_LOST
  ⟨0x13C, 1, 0, 0x0, 0x0, 0x0, 0x0, 0x0, 0x0⟩, -- MLK_RX_ABORT
  ⟨0x140, 1, 0, 0x0, 0x0, 0x0, 0x0, 0x0, 0x0⟩, -- MLK_TX_FRAMES
  ⟨0x144, 1, 0, 0x0, 0x0, 0x0, 0x0, 0x0, 0x0⟩, -- MLK_TX_ABORT
  ⟨0x200, 66, 4, 0x0, 0xFFFFFFFF, 0x0, 0x0, 0x0, 0x0⟩, -- MLK_TX_BUF
  ⟨0x400, 66, 4, 0x0, 0x0, 0x0, 0x0, 0x0, 0x0⟩, -- MLK_RX_BUF
  ⟨0x508, 1, 0, 0x0, 0x0, 0x0, 0x0, 0x0, 0x0⟩, -- MLK_RX_NS
  ⟨0x50C, 1, 0, 0x0, 0x0, 0x0, 0x0, 0x0, 0x0⟩] -- MLK_RX_SEC

/-- Registers of MLK (R402), part 2. -/
def rowsMlk1 : List RegRow := [
  ⟨0x510, 1, 0, 0x0, 0x0, 0x0, 0x0, 0x0, 0x0⟩] -- MLK_RX_INFO

/-- Registers of MLK. -/
def rowsMlk : List RegRow := rowsMlk0 ++ rowsMlk1

/-- Registers of MLC (R403). -/
def rowsMlc : List RegRow := [
  ⟨0x00C, 1, 0, 0x0, 0x0, 0x0, 0x0, 0x0, 0x0⟩, -- MLK_CSTATUS
  ⟨0x100, 1, 0, 0x0, 0x0, 0x0, 0x0, 0x0, 0x0⟩, -- MLK_CNOISE
  ⟨0x104, 1, 0, 0x0, 0x0, 0x0, 0x0, 0x0, 0x0⟩, -- MLK_CSNR
  ⟨0x108, 1, 0, 0x0, 0x0, 0x0, 0x0, 0x0, 0x0⟩] -- MLK_CERASE

/-- Registers of TAG (R421). -/
def rowsTag : List RegRow := [
  ⟨0x004, 1, 0, 0x4004, 0x0, 0x0, 0x0, 0x0, 0x0⟩, -- TAG_CAP
  ⟨0x008, 1, 0, 0x0, 0x1, 0x0, 0x0, 0x0, 0x0⟩, -- TAG_CTRL
  ⟨0x00C, 1, 0, 0x0, 0x0, 0x8, 0x0, 0x0, 0x0⟩, -- TAG_STATUS
  ⟨0x100, 1, 0, 0xF0, 0xFF, 0x0, 0x0, 0x0, 0x0⟩, -- TAG_CFG
  ⟨0x104, 1, 0, 0x736, 0x7FF, 0x0, 0x0, 0x0, 0x0⟩, -- TAG_LINK
  ⟨0x108, 1, 0, 0x640204, 0xFFF0FFF, 0x0, 0x0, 0x0, 0x0⟩, -- TAG_ROUND
  ⟨0x10C, 1, 0, 0x0, 0x0, 0x0, 0xF, 0x0, 0x0⟩, -- TAG_CMD
  ⟨0x110, 1, 0, 0x3330064, 0xFFFFFFFF, 0x0, 0x0, 0x0, 0x0⟩, -- TAG_PING_CFG
  ⟨0x114, 1, 0, 0x800E8, 0x3FFFFF, 0x0, 0x0, 0x0, 0x0⟩, -- TAG_HALT_CFG
  ⟨0x120, 16, 4, 0x0, 0xFFFFFFFF, 0x0, 0x0, 0x0, 0x0⟩, -- TAG_SEL
  ⟨0x160, 1, 0, 0x0, 0x1FF, 0x0, 0x0, 0x0, 0x0⟩, -- TAG_SEL_LEN
  ⟨0x180, 16, 4, 0x0, 0xFFFFFFFF, 0x0, 0x0, 0x0, 0x0⟩, -- TAG_WR_EPC
  ⟨0x1C0, 1, 0, 0xC00403, 0x1FFFFFF, 0x0, 0x0, 0x0, 0x0⟩, -- TAG_WR_CFG
  ⟨0x1C4, 1, 0, 0x0, 0x0, 0x0, 0xFFFFFFFF, 0x0, 0x0⟩, -- TAG_WR_PW
  ⟨0x1C8, 1, 0, 0x100, 0x1FFF, 0x0, 0x0, 0x0, 0x0⟩, -- TAG_REC_CFG
  ⟨0x200, 16, 4, 0x0, 0xFFFFFFFF, 0x0, 0x0, 0x0, 0x0⟩, -- TAG_WR_DATA
  ⟨0x240, 1, 0, 0x0, 0x0, 0x0, 0x0, 0x0, 0x0⟩, -- TAG_WR_ST
  ⟨0x280, 16, 4, 0x0, 0x0, 0x0, 0x0, 0x0, 0x0⟩, -- TAG_REP_BUF
  ⟨0x2C0, 1, 0, 0x0, 0x0, 0x0, 0x0, 0x0, 0x0⟩, -- TAG_REP_COUNT
  ⟨0x2C4, 1, 0, 0x0, 0x0, 0x0, 0x1, 0x0, 0x0⟩, -- TAG_REP_POP
  ⟨0x2C8, 1, 0, 0x0, 0x0, 0x0, 0x0, 0x0, 0x0⟩, -- TAG_REP_LOST
  ⟨0x2CC, 1, 0, 0x0, 0x0, 0x0, 0x0, 0x0, 0x0⟩] -- TAG_ERR_CNT

/-- Registers of ANT (R422). -/
def rowsAnt : List RegRow := [
  ⟨0x008, 1, 0, 0xA0, 0xFF, 0x0, 0x0, 0x0, 0x0⟩, -- TAG_ANT_CFG
  ⟨0x00C, 1, 0, 0x0, 0x0, 0x0, 0x0, 0x0, 0x0⟩, -- TAG_ANT_ST
  ⟨0x100, 1, 0, 0x0, 0x0, 0x0, 0x0, 0x0, 0x0⟩, -- TAG_GAMMA
  ⟨0x104, 1, 0, 0x0, 0x0, 0x0, 0x0, 0x0, 0x0⟩, -- TAG_GAMMA_REF
  ⟨0x108, 1, 0, 0x0, 0x0, 0x0, 0x0, 0x0, 0x0⟩] -- TAG_ANT_CNT

/-- Registers of VLT (R444). -/
def rowsVlt : List RegRow := [
  ⟨0x004, 1, 0, 0x884100, 0x0, 0x0, 0x0, 0x0, 0x0⟩, -- VLT_CAP
  ⟨0x008, 1, 0, 0x0, 0x0, 0x0, 0x0, 0x0, 0x0⟩, -- VLT_CTRL
  ⟨0x00C, 1, 0, 0x0, 0x0, 0x0, 0x0, 0x0, 0x0⟩, -- VLT_STATUS
  ⟨0x100, 4, 4, 0x0, 0x0, 0x0, 0x0, 0x0, 0x0⟩, -- VLT_ID
  ⟨0x110, 1, 0, 0x0, 0x0, 0x0, 0x0, 0x0, 0x0⟩, -- VLT_KEY_CHG
  ⟨0x114, 1, 0, 0x0, 0x0, 0x0, 0x0, 0x0, 0x0⟩, -- VLT_REQ_CNT
  ⟨0x118, 1, 0, 0x0, 0x0, 0x0, 0x0, 0x0, 0x0⟩, -- VLT_ERR_CNT
  ⟨0x11C, 1, 0, 0x0, 0x0, 0x0, 0x0, 0x0, 0x0⟩] -- VLT_TRNG_CNT

/-- Registers of VLP (R445). -/
def rowsVlp : List RegRow := [
  ⟨0x100, 1, 0, 0x0, 0xFF, 0x0, 0x0, 0x0, 0x0⟩, -- VLT_KW_SLOT
  ⟨0x104, 1, 0, 0x0, 0xF3F07, 0x0, 0x0, 0x0, 0x0⟩, -- VLT_KW_ATTR
  ⟨0x108, 16, 4, 0x0, 0x0, 0x0, 0xFFFFFFFF, 0x0, 0x0⟩, -- VLT_KW_DATA
  ⟨0x148, 1, 0, 0x0, 0x0, 0x0, 0x3F, 0x0, 0x0⟩, -- VLT_KW_CMD
  ⟨0x14C, 1, 0, 0x0, 0x0, 0x0, 0x0, 0x0, 0x0⟩, -- VLT_KW_ST
  ⟨0x150, 1, 0, 0x0, 0x0, 0x0, 0x0, 0x0, 0x0⟩, -- VLT_KW_GEN
  ⟨0x160, 1, 0, 0x0, 0xFFFF, 0x0, 0x0, 0x0, 0x0⟩, -- VLT_CFG
  ⟨0x164, 4, 4, 0x0, 0xFFFFFFFF, 0x0, 0x0, 0x0, 0x0⟩, -- VLT_SITE_CTX
  ⟨0x174, 1, 0, 0x0, 0xFFFFFFFF, 0x0, 0x0, 0x0, 0x0⟩, -- VLT_MTR_EPOCH
  ⟨0x178, 1, 0, 0x0, 0x0, 0x0, 0x0, 0x0, 0x0⟩, -- VLT_CFG_CRC
  ⟨0x180, 8, 4, 0x0, 0x801FFFFF, 0x0, 0x0, 0x0, 0x0⟩, -- VLT_HALT_GRP
  ⟨0x1A0, 1, 0, 0x0, 0xFFF7, 0x0, 0x0, 0x0, 0x0⟩, -- VLT_HALT_SET
  ⟨0x1A4, 1, 0, 0x0, 0xFFFFFFFF, 0x0, 0x0, 0x0, 0x0⟩] -- VLT_HALT_VAL

/-- Registers of UPD (R484). -/
def rowsUpd : List RegRow := [
  ⟨0x004, 1, 0, 0x1000004, 0x0, 0x0, 0x0, 0x0, 0x0⟩, -- UPD_CAP
  ⟨0x00C, 1, 0, 0x0, 0x0, 0x0, 0x0, 0x0, 0x0⟩, -- UPD_STATUS
  ⟨0x100, 4, 32, 0x0, 0x0, 0x60, 0x0, 0x0, 0x0⟩, -- UPD_PL_ST
  ⟨0x104, 4, 32, 0x3C0003, 0xFFF000F, 0x0, 0x0, 0x0, 0x0⟩, -- UPD_PL_CFG
  ⟨0x108, 4, 32, 0x0, 0x0, 0x0, 0xFFFF001F, 0x0, 0x0⟩, -- UPD_PL_CMD
  ⟨0x10C, 4, 32, 0x0, 0x0, 0x0, 0x0, 0x0, 0x0⟩, -- UPD_PL_CMD_ST
  ⟨0x110, 4, 32, 0x0, 0x0, 0x0, 0x0, 0x0, 0x0⟩, -- UPD_PL_VER
  ⟨0x114, 4, 32, 0x0, 0x0, 0x0, 0x0, 0x0, 0x0⟩, -- UPD_PL_LEN
  ⟨0x200, 48, 4, 0x0, 0x0, 0x0, 0x0, 0x0, 0x0⟩, -- UPD_MEAS
  ⟨0x300, 1, 0, 0x0, 0x3, 0x0, 0x0, 0x0, 0x0⟩, -- UPD_KH_SEL
  ⟨0x304, 12, 4, 0x0, 0xFFFFFFFF, 0x0, 0x0, 0xFFFFFFFF, 0x0⟩, -- UPD_KH_DATA
  ⟨0x334, 1, 0, 0x0, 0x0, 0x0, 0x3, 0x3, 0x0⟩, -- UPD_KH_CMD
  ⟨0x338, 1, 0, 0x0, 0x0, 0x0, 0x0, 0x0, 0x0⟩] -- UPD_KH_ST

/-- Registers of UPU (R485). -/
def rowsUpu : List RegRow := [
  ⟨0x00C, 1, 0, 0x0, 0x0, 0x0, 0x0, 0x0, 0x0⟩, -- UPD_U_STATUS
  ⟨0x100, 1, 0, 0x0, 0x13, 0x0, 0x0, 0x0, 0x0⟩, -- UPD_U_TGT
  ⟨0x104, 1, 0, 0x0, 0xFFFFFFF, 0x0, 0x0, 0x0, 0x0⟩, -- UPD_U_OFS
  ⟨0x108, 1, 0, 0x0, 0x0, 0x0, 0xF, 0x0, 0x0⟩, -- UPD_U_CMD
  ⟨0x10C, 1, 0, 0x0, 0x0, 0x0, 0x0, 0x0, 0x0⟩, -- UPD_U_ST
  ⟨0x200, 64, 4, 0x0, 0x0, 0x0, 0xFFFFFFFF, 0x0, 0x0⟩] -- UPD_U_BUF

/-- Registers of MBX (R28). -/
def rowsMbx : List RegRow := [
  ⟨0x400, 1, 0, 0x0, 0x0, 0x0, 0x0, 0x0, 0x0⟩, -- MBX_STATE
  ⟨0x404, 1, 0, 0x0, 0x0, 0x0, 0xF, 0x0, 0x0⟩, -- MBX_POST
  ⟨0x408, 1, 0, 0x0, 0x0, 0x0, 0xF, 0x0, 0x0⟩, -- MBX_TAKE
  ⟨0x40C, 1, 0, 0x0, 0x0, 0x3, 0x0, 0x0, 0x0⟩] -- MBX_ERR

/-- Registers of VRQ (R437). -/
def rowsVrq : List RegRow := [
  ⟨0x000, 1, 0, 0x0, 0x7FFFFF, 0x0, 0x0, 0x0, 0x0⟩, -- VREQ_OP
  ⟨0x004, 1, 0, 0x0, 0xFFF0FFF, 0x0, 0x0, 0x0, 0x0⟩, -- VREQ_LEN
  ⟨0x008, 1, 0, 0x0, 0x0, 0x0, 0x3, 0x0, 0x0⟩, -- VREQ_CMD
  ⟨0x00C, 1, 0, 0x0, 0x0, 0x8, 0x0, 0x0, 0x0⟩, -- VREQ_ST
  ⟨0x010, 1, 0, 0x0, 0x0, 0x0, 0x0, 0x0, 0x0⟩, -- VREQ_SEQ
  ⟨0x100, 64, 4, 0x0, 0xFFFFFFFF, 0x0, 0x0, 0x0, 0x0⟩, -- VREQ_PATH
  ⟨0x200, 512, 4, 0x0, 0xFFFFFFFF, 0x0, 0x0, 0x0, 0x0⟩, -- VREQ_IN
  ⟨0xA00, 384, 4, 0x0, 0x0, 0x0, 0x0, 0x0, 0x0⟩] -- VREQ_OUT

/-- The register table of a block. -/
def Blk.rows : Blk → List RegRow
  | .fab => rowsFab
  | .evc => rowsEvc
  | .tim => rowsTim
  | .stg => rowsStg
  | .sfg => rowsSfg
  | .trf => rowsTrf
  | .dmd => rowsDmd
  | .ldg => rowsLdg
  | .dsp => rowsDsp
  | .mtr => rowsMtr
  | .sfe => rowsSfe
  | .met => rowsMet
  | .pqm => rowsPqm
  | .opt => rowsOpt
  | .can => rowsCan
  | .lsg => rowsLsg
  | .lsw => rowsLsw
  | .saf => rowsSaf
  | .crk => rowsCrk
  | .rcm => rowsRcm
  | .imd => rowsImd
  | .net => rowsNet
  | .ntp => rowsNtp
  | .hrn => rowsHrn
  | .hrl => rowsHrl
  | .mlk => rowsMlk
  | .mlc => rowsMlc
  | .tag => rowsTag
  | .ant => rowsAnt
  | .vlt => rowsVlt
  | .vlp => rowsVlp
  | .upd => rowsUpd
  | .upu => rowsUpu
  | .mbx => rowsMbx
  | .vrq => rowsVrq

/-! Fields of FAB. -/

def FAB_VIOL_COUNT : Fld := ⟨0x40000100, 0, 32⟩
def FAB_VIOL_ADDR : Fld := ⟨0x40000104, 0, 32⟩
def FAB_VIOL_INFO : Fld := ⟨0x40000108, 0, 32⟩
def FAB_VIOL_CLR : Fld := ⟨0x4000010C, 0, 32⟩
def FAB_CLAIM (k : Nat) : Fld := ⟨0x40000200 + k * 4, 0, 32⟩
def FAB_CLAIM_FORCE : Fld := ⟨0x40000400, 0, 32⟩
def FAB_CAP : Fld := ⟨0x40000004, 0, 32⟩
def FAB_RST : Fld := ⟨0x40000110, 0, 32⟩
def FAB_RST_CAUSE : Fld := ⟨0x40000114, 0, 32⟩
def FAB_PRST_CNT (k : Nat) : Fld := ⟨0x40000118 + k * 4, 0, 32⟩
def FAB_WDT_CFG (k : Nat) : Fld := ⟨0x40000128 + k * 4, 0, 32⟩
def FAB_WDT_ST : Fld := ⟨0x40000134, 0, 32⟩
def FAB_PWR : Fld := ⟨0x40000138, 0, 32⟩
def FAB_CAPHIT (k : Nat) : Fld := ⟨0x40000140 + k * 4, 0, 32⟩
def FAB_VIOL_COUNT_count : Fld := ⟨0x40000100, 0, 32⟩
def FAB_VIOL_ADDR_addr : Fld := ⟨0x40000104, 0, 32⟩
def FAB_VIOL_INFO_plane : Fld := ⟨0x40000108, 0, 2⟩
def FAB_VIOL_INFO_kind : Fld := ⟨0x40000108, 4, 3⟩
def FAB_VIOL_INFO_write : Fld := ⟨0x40000108, 8, 1⟩
def FAB_VIOL_INFO_initiator : Fld := ⟨0x40000108, 12, 4⟩
def FAB_VIOL_CLR_clear : Fld := ⟨0x4000010C, 0, 1⟩
def FAB_CLAIM_op (k : Nat) : Fld := ⟨0x40000200 + k * 4, 0, 2⟩
def FAB_CLAIM_held (k : Nat) : Fld := ⟨0x40000200 + k * 4, 4, 1⟩
def FAB_CLAIM_owner (k : Nat) : Fld := ⟨0x40000200 + k * 4, 8, 2⟩
def FAB_CLAIM_override (k : Nat) : Fld := ⟨0x40000200 + k * 4, 12, 1⟩
def FAB_CLAIM_override_by (k : Nat) : Fld := ⟨0x40000200 + k * 4, 13, 2⟩
def FAB_CLAIM_refused (k : Nat) : Fld := ⟨0x40000200 + k * 4, 16, 1⟩
def FAB_CLAIM_FORCE_index : Fld := ⟨0x40000400, 0, 7⟩
def FAB_CAP_variant : Fld := ⟨0x40000004, 0, 8⟩
def FAB_CAP_n_planes : Fld := ⟨0x40000004, 8, 4⟩
def FAB_CAP_n_cores : Fld := ⟨0x40000004, 12, 8⟩
def FAB_RST_plane : Fld := ⟨0x40000110, 0, 4⟩
def FAB_RST_die : Fld := ⟨0x40000110, 8, 1⟩
def FAB_RST_module : Fld := ⟨0x40000110, 9, 1⟩
def FAB_RST_key : Fld := ⟨0x40000110, 16, 16⟩
def FAB_RST_CAUSE_cause : Fld := ⟨0x40000114, 0, 3⟩
def FAB_RST_CAUSE_plane : Fld := ⟨0x40000114, 4, 2⟩
def FAB_PRST_CNT_count (k : Nat) : Fld := ⟨0x40000118 + k * 4, 0, 32⟩
def FAB_WDT_CFG_timeout (k : Nat) : Fld := ⟨0x40000128 + k * 4, 0, 16⟩
def FAB_WDT_CFG_action (k : Nat) : Fld := ⟨0x40000128 + k * 4, 16, 1⟩
def FAB_WDT_ST_expired : Fld := ⟨0x40000134, 0, 4⟩
def FAB_PWR_gate : Fld := ⟨0x40000138, 0, 4⟩
def FAB_PWR_gated : Fld := ⟨0x40000138, 8, 4⟩
def FAB_CAPHIT_count (k : Nat) : Fld := ⟨0x40000140 + k * 4, 0, 32⟩

/-! Fields of EVC. -/

def EVC_CAP : Fld := ⟨0x40010004, 0, 32⟩
def EVC_CTRL : Fld := ⟨0x40010008, 0, 32⟩
def EVC_STATUS : Fld := ⟨0x4001000C, 0, 32⟩
def EVC_CLAIM (k : Nat) : Fld := ⟨0x40010100 + k * 64, 0, 32⟩
def EVC_COMPLETE (k : Nat) : Fld := ⟨0x40010104 + k * 64, 0, 32⟩
def EVC_PRIV_EN (k : Nat) : Fld := ⟨0x40010108 + k * 64, 0, 32⟩
def EVC_PRIV_PEND (k : Nat) : Fld := ⟨0x4001010C + k * 64, 0, 32⟩
def EVC_PRIV_TYPE (k : Nat) : Fld := ⟨0x40010110 + k * 64, 0, 32⟩
def EVC_RAISE (k : Nat) : Fld := ⟨0x40010114 + k * 64, 0, 32⟩
def EVC_TSTAT (k : Nat) : Fld := ⟨0x40010118 + k * 64, 0, 32⟩
def EVC_TCFG (k : Nat) : Fld := ⟨0x4001011C + k * 64, 0, 32⟩
def EVC_TCNT (k : Nat) : Fld := ⟨0x40010120 + k * 64, 0, 32⟩
def EVC_CLAIMS (k : Nat) : Fld := ⟨0x40010124 + k * 64, 0, 32⟩
def EVC_PEND (k : Nat) : Fld := ⟨0x40010300 + k * 4, 0, 32⟩
def EVC_EN (k : Nat) : Fld := ⟨0x40010380 + k * 4, 0, 32⟩
def EVC_TYPE (k : Nat) : Fld := ⟨0x40010400 + k * 4, 0, 32⟩
def EVC_REDIR (k : Nat) : Fld := ⟨0x40010480 + k * 4, 0, 32⟩
def EVC_TGT (k : Nat) : Fld := ⟨0x40010500 + k * 4, 0, 32⟩
def EVC_CAP_n_targets : Fld := ⟨0x40010004, 0, 8⟩
def EVC_CAP_n_private : Fld := ⟨0x40010004, 8, 8⟩
def EVC_CAP_n_shared : Fld := ⟨0x40010004, 16, 11⟩
def EVC_CTRL_compat : Fld := ⟨0x40010008, 0, 1⟩
def EVC_STATUS_parked : Fld := ⟨0x4001000C, 0, 8⟩
def EVC_STATUS_online : Fld := ⟨0x4001000C, 8, 8⟩
def EVC_STATUS_compat_active : Fld := ⟨0x4001000C, 16, 1⟩
def EVC_STATUS_compat_refused : Fld := ⟨0x4001000C, 17, 1⟩
def EVC_CLAIM_id (k : Nat) : Fld := ⟨0x40010100 + k * 64, 0, 16⟩
def EVC_COMPLETE_id (k : Nat) : Fld := ⟨0x40010104 + k * 64, 0, 11⟩
def EVC_COMPLETE_spurious (k : Nat) : Fld := ⟨0x40010104 + k * 64, 31, 1⟩
def EVC_PRIV_EN_en (k : Nat) : Fld := ⟨0x40010108 + k * 64, 0, 32⟩
def EVC_PRIV_PEND_pend (k : Nat) : Fld := ⟨0x4001010C + k * 64, 0, 32⟩
def EVC_PRIV_TYPE_edge (k : Nat) : Fld := ⟨0x40010110 + k * 64, 0, 32⟩
def EVC_RAISE_id (k : Nat) : Fld := ⟨0x40010114 + k * 64, 0, 11⟩
def EVC_RAISE_ipi (k : Nat) : Fld := ⟨0x40010114 + k * 64, 12, 1⟩
def EVC_RAISE_dest (k : Nat) : Fld := ⟨0x40010114 + k * 64, 13, 3⟩
def EVC_TSTAT_held (k : Nat) : Fld := ⟨0x40010118 + k * 64, 0, 16⟩
def EVC_TSTAT_wfi (k : Nat) : Fld := ⟨0x40010118 + k * 64, 16, 1⟩
def EVC_TSTAT_parked (k : Nat) : Fld := ⟨0x40010118 + k * 64, 17, 1⟩
def EVC_TSTAT_online (k : Nat) : Fld := ⟨0x40010118 + k * 64, 18, 1⟩
def EVC_TSTAT_fb_valid (k : Nat) : Fld := ⟨0x40010118 + k * 64, 19, 1⟩
def EVC_TSTAT_redir_in (k : Nat) : Fld := ⟨0x40010118 + k * 64, 20, 1⟩
def EVC_TSTAT_requesting (k : Nat) : Fld := ⟨0x40010118 + k * 64, 21, 1⟩
def EVC_TCFG_fallback (k : Nat) : Fld := ⟨0x4001011C + k * 64, 0, 3⟩
def EVC_TCFG_fb_en (k : Nat) : Fld := ⟨0x4001011C + k * 64, 3, 1⟩
def EVC_TCNT_spurious (k : Nat) : Fld := ⟨0x40010120 + k * 64, 0, 16⟩
def EVC_TCNT_mismatch (k : Nat) : Fld := ⟨0x40010120 + k * 64, 16, 16⟩
def EVC_CLAIMS_count (k : Nat) : Fld := ⟨0x40010124 + k * 64, 0, 32⟩
def EVC_PEND_pend (k : Nat) : Fld := ⟨0x40010300 + k * 4, 0, 32⟩
def EVC_EN_en (k : Nat) : Fld := ⟨0x40010380 + k * 4, 0, 32⟩
def EVC_TYPE_edge (k : Nat) : Fld := ⟨0x40010400 + k * 4, 0, 32⟩
def EVC_REDIR_redir (k : Nat) : Fld := ⟨0x40010480 + k * 4, 0, 32⟩

/-! Fields of TIM. -/

def TIM_CTRL : Fld := ⟨0x40020008, 0, 32⟩
def TIM_STATUS : Fld := ⟨0x4002000C, 0, 32⟩
def TIM_SEC_LO : Fld := ⟨0x40020100, 0, 32⟩
def TIM_SEC_HI : Fld := ⟨0x40020104, 0, 32⟩
def TIM_NS : Fld := ⟨0x40020108, 0, 32⟩
def TIM_FRAC : Fld := ⟨0x4002010C, 0, 32⟩
def TIM_RATE : Fld := ⟨0x40020110, 0, 32⟩
def TIM_OFS : Fld := ⟨0x40020114, 0, 32⟩
def TIM_LAST_OFS : Fld := ⟨0x40020118, 0, 32⟩
def TIM_KP : Fld := ⟨0x4002011C, 0, 32⟩
def TIM_KI : Fld := ⟨0x40020120, 0, 32⟩
def TIM_INTEG : Fld := ⟨0x40020124, 0, 32⟩
def TIM_STEP_THR : Fld := ⟨0x40020128, 0, 32⟩
def TIM_LOCK_THR : Fld := ⟨0x4002012C, 0, 32⟩
def TIM_HOLDOVER : Fld := ⟨0x40020130, 0, 32⟩
def TIM_STEP_LO : Fld := ⟨0x40020134, 0, 32⟩
def TIM_STEP_HI : Fld := ⟨0x40020138, 0, 32⟩
def TIM_CMD : Fld := ⟨0x4002013C, 0, 32⟩
def TIM_PHASE : Fld := ⟨0x40020140, 0, 32⟩
def TIM_PHASE_MEAN : Fld := ⟨0x40020144, 0, 32⟩
def TIM_VCXO_DAC : Fld := ⟨0x40020148, 0, 32⟩
def TIM_VCXO_LIM : Fld := ⟨0x4002014C, 0, 32⟩
def TIM_VKP : Fld := ⟨0x40020150, 0, 32⟩
def TIM_VKI : Fld := ⟨0x40020154, 0, 32⟩
def TIM_VCXO_SLEW : Fld := ⟨0x40020158, 0, 32⟩
def TIM_CALC_LO : Fld := ⟨0x40020160, 0, 32⟩
def TIM_CALC_HI : Fld := ⟨0x40020164, 0, 32⟩
def TIM_LEDGER_LO : Fld := ⟨0x40020168, 0, 32⟩
def TIM_LEDGER_HI : Fld := ⟨0x4002016C, 0, 32⟩
def TIM_LEDGER_ST : Fld := ⟨0x40020170, 0, 32⟩
def TIM_PPS_DELAY : Fld := ⟨0x40020174, 0, 32⟩
def TIM_NET0_CORR : Fld := ⟨0x40020178, 0, 32⟩
def TIM_NET1_CORR : Fld := ⟨0x4002017C, 0, 32⟩
def TIM_TC_SEC_LO (k : Nat) : Fld := ⟨0x40020200 + k * 32, 0, 32⟩
def TIM_TC_SEC_HI (k : Nat) : Fld := ⟨0x40020204 + k * 32, 0, 32⟩
def TIM_TC_NS (k : Nat) : Fld := ⟨0x40020208 + k * 32, 0, 32⟩
def TIM_TC_PERIOD (k : Nat) : Fld := ⟨0x4002020C + k * 32, 0, 32⟩
def TIM_TC_CFG (k : Nat) : Fld := ⟨0x40020210 + k * 32, 0, 32⟩
def TIM_TC_STAT (k : Nat) : Fld := ⟨0x40020214 + k * 32, 0, 32⟩
def TIM_CAP_CFG (k : Nat) : Fld := ⟨0x40020300 + k * 32, 0, 32⟩
def TIM_CAP_NS (k : Nat) : Fld := ⟨0x40020304 + k * 32, 0, 32⟩
def TIM_CAP_SEC_LO (k : Nat) : Fld := ⟨0x40020308 + k * 32, 0, 32⟩
def TIM_CAP_SEC_HI (k : Nat) : Fld := ⟨0x4002030C + k * 32, 0, 32⟩
def TIM_CAP_STAT (k : Nat) : Fld := ⟨0x40020310 + k * 32, 0, 32⟩
def TIM_CTRL_servo_en : Fld := ⟨0x40020008, 0, 1⟩
def TIM_CTRL_ref_src : Fld := ⟨0x40020008, 1, 2⟩
def TIM_CTRL_flock : Fld := ⟨0x40020008, 3, 1⟩
def TIM_CTRL_auto_step : Fld := ⟨0x40020008, 4, 1⟩
def TIM_CTRL_vcxo_neg : Fld := ⟨0x40020008, 5, 1⟩
def TIM_CTRL_pps_edge : Fld := ⟨0x40020008, 6, 1⟩
def TIM_STATUS_flags : Fld := ⟨0x4002000C, 0, 12⟩
def TIM_SEC_LO_sec : Fld := ⟨0x40020100, 0, 32⟩
def TIM_SEC_HI_sec : Fld := ⟨0x40020104, 0, 16⟩
def TIM_NS_ns : Fld := ⟨0x40020108, 0, 30⟩
def TIM_FRAC_frac : Fld := ⟨0x4002010C, 0, 32⟩
def TIM_RATE_adj : Fld := ⟨0x40020110, 0, 32⟩
def TIM_OFS_ofs : Fld := ⟨0x40020114, 0, 32⟩
def TIM_LAST_OFS_ofs : Fld := ⟨0x40020118, 0, 32⟩
def TIM_KP_kp : Fld := ⟨0x4002011C, 0, 32⟩
def TIM_KI_ki : Fld := ⟨0x40020120, 0, 32⟩
def TIM_INTEG_i : Fld := ⟨0x40020124, 0, 32⟩
def TIM_STEP_THR_thr : Fld := ⟨0x40020128, 0, 32⟩
def TIM_LOCK_THR_enter : Fld := ⟨0x4002012C, 0, 16⟩
def TIM_LOCK_THR_exit : Fld := ⟨0x4002012C, 16, 16⟩
def TIM_HOLDOVER_limit : Fld := ⟨0x40020130, 0, 12⟩
def TIM_STEP_LO_step : Fld := ⟨0x40020134, 0, 32⟩
def TIM_STEP_HI_step : Fld := ⟨0x40020138, 0, 32⟩
def TIM_CMD_step : Fld := ⟨0x4002013C, 0, 1⟩
def TIM_CMD_load_stride : Fld := ⟨0x4002013C, 1, 1⟩
def TIM_CMD_clear_integ : Fld := ⟨0x4002013C, 2, 1⟩
def TIM_PHASE_phi : Fld := ⟨0x40020140, 0, 32⟩
def TIM_PHASE_MEAN_phi_mean : Fld := ⟨0x40020144, 0, 32⟩
def TIM_VCXO_DAC_code : Fld := ⟨0x40020148, 0, 16⟩
def TIM_VCXO_LIM_min : Fld := ⟨0x4002014C, 0, 16⟩
def TIM_VCXO_LIM_max : Fld := ⟨0x4002014C, 16, 16⟩
def TIM_VKP_kvp : Fld := ⟨0x40020150, 0, 32⟩
def TIM_VKI_kvi : Fld := ⟨0x40020154, 0, 32⟩
def TIM_VCXO_SLEW_slew : Fld := ⟨0x40020158, 0, 16⟩
def TIM_CALC_LO_c : Fld := ⟨0x40020160, 0, 32⟩
def TIM_CALC_HI_c : Fld := ⟨0x40020164, 0, 32⟩
def TIM_LEDGER_LO_lc : Fld := ⟨0x40020168, 0, 32⟩
def TIM_LEDGER_HI_lc : Fld := ⟨0x4002016C, 0, 32⟩
def TIM_LEDGER_ST_time_invalid : Fld := ⟨0x40020170, 0, 1⟩
def TIM_LEDGER_ST_hold : Fld := ⟨0x40020170, 1, 1⟩
def TIM_LEDGER_ST_back_corr : Fld := ⟨0x40020170, 2, 1⟩
def TIM_LEDGER_ST_fwd_corr : Fld := ⟨0x40020170, 3, 1⟩
def TIM_PPS_DELAY_delay : Fld := ⟨0x40020174, 0, 32⟩
def TIM_NET0_CORR_rx_add : Fld := ⟨0x40020178, 0, 16⟩
def TIM_NET0_CORR_tx_add : Fld := ⟨0x40020178, 16, 16⟩
def TIM_NET1_CORR_corr : Fld := ⟨0x4002017C, 0, 32⟩
def TIM_TC_SEC_LO_sec (k : Nat) : Fld := ⟨0x40020200 + k * 32, 0, 32⟩
def TIM_TC_SEC_HI_sec (k : Nat) : Fld := ⟨0x40020204 + k * 32, 0, 16⟩
def TIM_TC_NS_ns (k : Nat) : Fld := ⟨0x40020208 + k * 32, 0, 30⟩
def TIM_TC_PERIOD_period (k : Nat) : Fld := ⟨0x4002020C + k * 32, 0, 32⟩
def TIM_TC_CFG_arm (k : Nat) : Fld := ⟨0x40020210 + k * 32, 0, 1⟩
def TIM_TC_CFG_action (k : Nat) : Fld := ⟨0x40020210 + k * 32, 1, 2⟩
def TIM_TC_CFG_can_sel (k : Nat) : Fld := ⟨0x40020210 + k * 32, 4, 2⟩
def TIM_TC_CFG_pulse_10us (k : Nat) : Fld := ⟨0x40020210 + k * 32, 16, 16⟩
def TIM_TC_STAT_fired (k : Nat) : Fld := ⟨0x40020214 + k * 32, 1, 1⟩
def TIM_TC_STAT_late (k : Nat) : Fld := ⟨0x40020214 + k * 32, 2, 1⟩
def TIM_CAP_CFG_edge (k : Nat) : Fld := ⟨0x40020300 + k * 32, 0, 2⟩
def TIM_CAP_NS_ns (k : Nat) : Fld := ⟨0x40020304 + k * 32, 0, 30⟩
def TIM_CAP_NS_rising (k : Nat) : Fld := ⟨0x40020304 + k * 32, 31, 1⟩
def TIM_CAP_SEC_LO_sec (k : Nat) : Fld := ⟨0x40020308 + k * 32, 0, 32⟩
def TIM_CAP_SEC_HI_sec (k : Nat) : Fld := ⟨0x4002030C + k * 32, 0, 16⟩
def TIM_CAP_STAT_count (k : Nat) : Fld := ⟨0x40020310 + k * 32, 0, 5⟩
def TIM_CAP_STAT_overflow (k : Nat) : Fld := ⟨0x40020310 + k * 32, 8, 1⟩

/-! Fields of STG. -/

def STG_NOW_LO : Fld := ⟨0x40030100, 0, 32⟩
def STG_NOW_HI : Fld := ⟨0x40030104, 0, 32⟩
def STG_STATUS : Fld := ⟨0x40030108, 0, 32⟩
def STG_APPLY_COUNT : Fld := ⟨0x4003010C, 0, 32⟩
def STG_TGT_LO (k : Nat) : Fld := ⟨0x40030200 + k * 32, 0, 32⟩
def STG_TGT_HI (k : Nat) : Fld := ⟨0x40030204 + k * 32, 0, 32⟩
def STG_CMD (k : Nat) : Fld := ⟨0x40030208 + k * 32, 0, 32⟩
def STG_SLOT_ST (k : Nat) : Fld := ⟨0x4003020C + k * 32, 0, 32⟩
def STG_DONE_LO (k : Nat) : Fld := ⟨0x40030210 + k * 32, 0, 32⟩
def STG_DONE_HI (k : Nat) : Fld := ⟨0x40030214 + k * 32, 0, 32⟩
def STG_DIRTY (k : Nat) : Fld := ⟨0x40030218 + k * 32, 0, 32⟩
def STG_NOW_LO_stride : Fld := ⟨0x40030100, 0, 32⟩
def STG_NOW_HI_stride : Fld := ⟨0x40030104, 0, 32⟩
def STG_STATUS_pair_mismatch : Fld := ⟨0x40030108, 0, 1⟩
def STG_STATUS_harness_up : Fld := ⟨0x40030108, 1, 1⟩
def STG_STATUS_near : Fld := ⟨0x40030108, 2, 1⟩
def STG_APPLY_COUNT_count : Fld := ⟨0x4003010C, 0, 32⟩
def STG_TGT_LO_target (k : Nat) : Fld := ⟨0x40030200 + k * 32, 0, 32⟩
def STG_TGT_HI_target (k : Nat) : Fld := ⟨0x40030204 + k * 32, 0, 32⟩
def STG_CMD_arm (k : Nat) : Fld := ⟨0x40030208 + k * 32, 0, 1⟩
def STG_CMD_cancel (k : Nat) : Fld := ⟨0x40030208 + k * 32, 1, 1⟩
def STG_SLOT_ST_state (k : Nat) : Fld := ⟨0x4003020C + k * 32, 0, 4⟩
def STG_SLOT_ST_wrote_armed (k : Nat) : Fld := ⟨0x4003020C + k * 32, 8, 1⟩
def STG_DONE_LO_stride (k : Nat) : Fld := ⟨0x40030210 + k * 32, 0, 32⟩
def STG_DONE_HI_stride (k : Nat) : Fld := ⟨0x40030214 + k * 32, 0, 32⟩
def STG_DIRTY_pages (k : Nat) : Fld := ⟨0x40030218 + k * 32, 0, 9⟩

/-! Fields of SFG. -/

def SFE_CAP : Fld := ⟨0x40100004, 0, 32⟩
def SFE_CTRL : Fld := ⟨0x40100008, 0, 32⟩
def SFE_STATUS : Fld := ⟨0x4010000C, 0, 32⟩
def SFE_CAP_DLY (k : Nat) : Fld := ⟨0x40100100 + k * 4, 0, 32⟩
def SFE_DEN_LIM : Fld := ⟨0x40100120, 0, 32⟩
def SFE_ACT_MIN : Fld := ⟨0x40100124, 0, 32⟩
def SFE_XPATH : Fld := ⟨0x40100128, 0, 32⟩
def SFE_REV_CFG : Fld := ⟨0x4010012C, 0, 32⟩
def SFE_REG_CFG : Fld := ⟨0x40100130, 0, 32⟩
def SFE_RATIO_LIM : Fld := ⟨0x40100134, 0, 32⟩
def SFE_FAULT_LO : Fld := ⟨0x40100140, 0, 32⟩
def SFE_FAULT_HI : Fld := ⟨0x40100144, 0, 32⟩
def SFE_LOW_LO : Fld := ⟨0x40100148, 0, 32⟩
def SFE_LOW_HI : Fld := ⟨0x4010014C, 0, 32⟩
def SFE_CAL_COUNT : Fld := ⟨0x40100180, 0, 32⟩
def SFE_CAL_SEAL : Fld := ⟨0x40100184, 0, 32⟩
def SFE_CAL_CRC : Fld := ⟨0x40100188, 0, 32⟩
def SFE_CAL_CRC_STG : Fld := ⟨0x4010018C, 0, 32⟩
def SFE_CAL_SESS (k : Nat) : Fld := ⟨0x40100190 + k * 4, 0, 32⟩
def SFE_CAL_LAST_LO : Fld := ⟨0x401001A0, 0, 32⟩
def SFE_CAL_LAST_HI : Fld := ⟨0x401001A4, 0, 32⟩
def SFE_CAL_TEMP : Fld := ⟨0x401001A8, 0, 32⟩
def SFE_CAL_HO : Fld := ⟨0x401001B0, 0, 32⟩
def SFE_CAL_HO_CRC : Fld := ⟨0x401001B4, 0, 32⟩
def SFE_CAL_TTRIM (k : Nat) : Fld := ⟨0x401001C0 + k * 4, 0, 32⟩
def SFE_CAP_n_elem : Fld := ⟨0x40100004, 0, 8⟩
def SFE_CAP_n_mclk : Fld := ⟨0x40100004, 8, 4⟩
def SFE_CAP_delay : Fld := ⟨0x40100004, 16, 16⟩
def SFE_CTRL_mclk_en : Fld := ⟨0x40100008, 0, 8⟩
def SFE_STATUS_mclk_run : Fld := ⟨0x4010000C, 0, 8⟩
def SFE_STATUS_any_fault : Fld := ⟨0x4010000C, 8, 1⟩
def SFE_STATUS_any_settling : Fld := ⟨0x4010000C, 9, 1⟩
def SFE_CAP_DLY_dly (k : Nat) : Fld := ⟨0x40100100 + k * 4, 0, 6⟩
def SFE_DEN_LIM_lo : Fld := ⟨0x40100120, 0, 11⟩
def SFE_DEN_LIM_hi : Fld := ⟨0x40100120, 16, 11⟩
def SFE_ACT_MIN_min : Fld := ⟨0x40100124, 0, 11⟩
def SFE_XPATH_thr : Fld := ⟨0x40100128, 0, 24⟩
def SFE_REV_CFG_thr : Fld := ⟨0x4010012C, 0, 16⟩
def SFE_REG_CFG_min_count : Fld := ⟨0x40100130, 0, 13⟩
def SFE_REG_CFG_spread : Fld := ⟨0x40100130, 16, 5⟩
def SFE_REG_CFG_max_step : Fld := ⟨0x40100130, 24, 8⟩
def SFE_RATIO_LIM_lo : Fld := ⟨0x40100134, 0, 16⟩
def SFE_RATIO_LIM_hi : Fld := ⟨0x40100134, 16, 16⟩
def SFE_FAULT_LO_elem : Fld := ⟨0x40100140, 0, 32⟩
def SFE_FAULT_HI_elem : Fld := ⟨0x40100144, 0, 32⟩
def SFE_LOW_LO_elem : Fld := ⟨0x40100148, 0, 32⟩
def SFE_LOW_HI_elem : Fld := ⟨0x4010014C, 0, 32⟩
def SFE_CAL_COUNT_count : Fld := ⟨0x40100180, 0, 32⟩
def SFE_CAL_SEAL_met_open : Fld := ⟨0x40100184, 0, 1⟩
def SFE_CAL_SEAL_handed_over : Fld := ⟨0x40100184, 1, 1⟩
def SFE_CAL_SEAL_rec_unsigned : Fld := ⟨0x40100184, 2, 1⟩
def SFE_CAL_SEAL_unverified : Fld := ⟨0x40100184, 3, 1⟩
def SFE_CAL_SEAL_ho_open : Fld := ⟨0x40100184, 4, 1⟩
def SFE_CAL_CRC_crc : Fld := ⟨0x40100188, 0, 32⟩
def SFE_CAL_CRC_STG_crc : Fld := ⟨0x4010018C, 0, 32⟩
def SFE_CAL_SESS_sess (k : Nat) : Fld := ⟨0x40100190 + k * 4, 0, 32⟩
def SFE_CAL_LAST_LO_stride : Fld := ⟨0x401001A0, 0, 32⟩
def SFE_CAL_LAST_HI_stride : Fld := ⟨0x401001A4, 0, 32⟩
def SFE_CAL_TEMP_temp : Fld := ⟨0x401001A8, 0, 16⟩
def SFE_CAL_TEMP_trim_remote : Fld := ⟨0x401001A8, 16, 1⟩
def SFE_CAL_HO_open : Fld := ⟨0x401001B0, 0, 1⟩
def SFE_CAL_HO_CRC_crc : Fld := ⟨0x401001B4, 0, 32⟩
def SFE_CAL_TTRIM_trim (k : Nat) : Fld := ⟨0x401001C0 + k * 4, 0, 16⟩

/-! Fields of TRF. -/

def TRF_CAP : Fld := ⟨0x40101004, 0, 32⟩
def TRF_CTRL : Fld := ⟨0x40101008, 0, 32⟩
def TRF_STATUS : Fld := ⟨0x4010100C, 0, 32⟩
def TRF_TAI_UTC : Fld := ⟨0x40101100, 0, 32⟩
def TRF_STD_OFS : Fld := ⟨0x40101104, 0, 32⟩
def TRF_USE_LO : Fld := ⟨0x40101108, 0, 32⟩
def TRF_USE_HI : Fld := ⟨0x4010110C, 0, 32⟩
def TRF_BCLOSE : Fld := ⟨0x40101110, 0, 32⟩
def TRF_BCLOSE_CMD : Fld := ⟨0x40101114, 0, 32⟩
def TRF_BPERIOD : Fld := ⟨0x40101118, 0, 32⟩
def TRF_BLAST_LO : Fld := ⟨0x4010111C, 0, 32⟩
def TRF_BLAST_HI : Fld := ⟨0x40101120, 0, 32⟩
def TRF_BLAST_ST : Fld := ⟨0x40101124, 0, 32⟩
def TRF_CAL_ADDR : Fld := ⟨0x40101130, 0, 32⟩
def TRF_CAL_DATA : Fld := ⟨0x40101134, 0, 32⟩
def TRF_PACT_LO : Fld := ⟨0x40101138, 0, 32⟩
def TRF_PACT_HI : Fld := ⟨0x4010113C, 0, 32⟩
def TRF_PCMD : Fld := ⟨0x40101140, 0, 32⟩
def TRF_PSTATE : Fld := ⟨0x40101144, 0, 32⟩
def TRF_ACAL_CRC : Fld := ⟨0x40101148, 0, 32⟩
def TRF_PCAL_CRC : Fld := ⟨0x4010114C, 0, 32⟩
def TRF_ACT_LO : Fld := ⟨0x40101150, 0, 32⟩
def TRF_ACT_HI : Fld := ⟨0x40101154, 0, 32⟩
def TRF_CAP_n_season : Fld := ⟨0x40101004, 0, 4⟩
def TRF_CAP_n_week : Fld := ⟨0x40101004, 4, 5⟩
def TRF_CAP_n_day : Fld := ⟨0x40101004, 9, 6⟩
def TRF_CAP_special_log2 : Fld := ⟨0x40101004, 16, 4⟩
def TRF_CAP_n_tariff : Fld := ⟨0x40101004, 20, 4⟩
def TRF_STATUS_tariff : Fld := ⟨0x4010100C, 0, 4⟩
def TRF_STATUS_season : Fld := ⟨0x4010100C, 4, 3⟩
def TRF_STATUS_day_profile : Fld := ⟨0x4010100C, 7, 5⟩
def TRF_STATUS_special : Fld := ⟨0x4010100C, 12, 1⟩
def TRF_STATUS_week : Fld := ⟨0x4010100C, 13, 4⟩
def TRF_STATUS_cal_fault : Fld := ⟨0x4010100C, 17, 1⟩
def TRF_STATUS_time_invalid : Fld := ⟨0x4010100C, 18, 1⟩
def TRF_TAI_UTC_ofs : Fld := ⟨0x40101100, 0, 16⟩
def TRF_STD_OFS_ofs : Fld := ⟨0x40101104, 0, 12⟩
def TRF_USE_LO_use : Fld := ⟨0x40101108, 0, 32⟩
def TRF_USE_HI_use : Fld := ⟨0x4010110C, 0, 16⟩
def TRF_BCLOSE_monthly : Fld := ⟨0x40101110, 0, 1⟩
def TRF_BCLOSE_day : Fld := ⟨0x40101110, 1, 5⟩
def TRF_BCLOSE_minute : Fld := ⟨0x40101110, 6, 11⟩
def TRF_BCLOSE_special : Fld := ⟨0x40101110, 17, 1⟩
def TRF_BCLOSE_CMD_seq : Fld := ⟨0x40101114, 0, 8⟩
def TRF_BPERIOD_count : Fld := ⟨0x40101118, 0, 32⟩
def TRF_BLAST_LO_lc : Fld := ⟨0x4010111C, 0, 32⟩
def TRF_BLAST_HI_lc : Fld := ⟨0x40101120, 0, 32⟩
def TRF_BLAST_ST_reason : Fld := ⟨0x40101124, 0, 2⟩
def TRF_BLAST_ST_late : Fld := ⟨0x40101124, 2, 1⟩
def TRF_CAL_ADDR_word : Fld := ⟨0x40101130, 0, 10⟩
def TRF_CAL_ADDR_bank : Fld := ⟨0x40101130, 12, 1⟩
def TRF_CAL_DATA_data : Fld := ⟨0x40101134, 0, 32⟩
def TRF_PACT_LO_lc : Fld := ⟨0x40101138, 0, 32⟩
def TRF_PACT_HI_lc : Fld := ⟨0x4010113C, 0, 32⟩
def TRF_PCMD_arm : Fld := ⟨0x40101140, 0, 1⟩
def TRF_PCMD_cancel : Fld := ⟨0x40101140, 1, 1⟩
def TRF_PSTATE_state : Fld := ⟨0x40101144, 0, 3⟩
def TRF_PSTATE_late : Fld := ⟨0x40101144, 3, 1⟩
def TRF_PSTATE_error : Fld := ⟨0x40101144, 4, 4⟩
def TRF_PSTATE_wrote_armed : Fld := ⟨0x40101144, 8, 1⟩
def TRF_ACAL_CRC_crc : Fld := ⟨0x40101148, 0, 32⟩
def TRF_PCAL_CRC_crc : Fld := ⟨0x4010114C, 0, 32⟩
def TRF_ACT_LO_lc : Fld := ⟨0x40101150, 0, 32⟩
def TRF_ACT_HI_lc : Fld := ⟨0x40101154, 0, 32⟩

/-! Fields of DMD. -/

def DMD_CTRL : Fld := ⟨0x40102008, 0, 32⟩
def DMD_STATUS : Fld := ⟨0x4010200C, 0, 32⟩
def DMD_CFG : Fld := ⟨0x40102100, 0, 32⟩
def DMD_EN_LO : Fld := ⟨0x40102104, 0, 32⟩
def DMD_EN_HI : Fld := ⟨0x40102108, 0, 32⟩
def DMD_SUBLEN : Fld := ⟨0x40102110, 0, 32⟩
def DMD_NOMLEN : Fld := ⟨0x40102114, 0, 32⟩
def DMD_NEXT_LO : Fld := ⟨0x40102118, 0, 32⟩
def DMD_NEXT_HI : Fld := ⟨0x4010211C, 0, 32⟩
def DMD_HW_LO : Fld := ⟨0x40102120, 0, 32⟩
def DMD_HW_HI : Fld := ⟨0x40102124, 0, 32⟩
def DMD_FLAGS : Fld := ⟨0x40102128, 0, 32⟩
def DMD_STATUS_cfg_invalid : Fld := ⟨0x4010200C, 0, 1⟩
def DMD_STATUS_window_full : Fld := ⟨0x4010200C, 1, 1⟩
def DMD_STATUS_sub_index : Fld := ⟨0x4010200C, 4, 4⟩
def DMD_STATUS_suspended : Fld := ⟨0x4010200C, 8, 1⟩
def DMD_CFG_len : Fld := ⟨0x40102100, 0, 4⟩
def DMD_CFG_mode : Fld := ⟨0x40102100, 4, 1⟩
def DMD_CFG_sub : Fld := ⟨0x40102100, 8, 4⟩
def DMD_EN_LO_en : Fld := ⟨0x40102104, 0, 32⟩
def DMD_EN_HI_en : Fld := ⟨0x40102108, 0, 16⟩
def DMD_SUBLEN_ls : Fld := ⟨0x40102110, 0, 32⟩
def DMD_NOMLEN_wn : Fld := ⟨0x40102114, 0, 32⟩
def DMD_NEXT_LO_lc : Fld := ⟨0x40102118, 0, 32⟩
def DMD_NEXT_HI_lc : Fld := ⟨0x4010211C, 0, 32⟩
def DMD_HW_LO_lc : Fld := ⟨0x40102120, 0, 32⟩
def DMD_HW_HI_lc : Fld := ⟨0x40102124, 0, 32⟩
def DMD_FLAGS_flags : Fld := ⟨0x40102128, 0, 12⟩

/-! Fields of LDG. -/

def LDG_CAP : Fld := ⟨0x40103004, 0, 32⟩
def LDG_CTRL : Fld := ⟨0x40103008, 0, 32⟩
def LDG_STATUS : Fld := ⟨0x4010300C, 0, 32⟩
def LDG_SAVE_SEQ : Fld := ⟨0x40103100, 0, 32⟩
def LDG_SAVE_STRIDE_LO : Fld := ⟨0x40103104, 0, 32⟩
def LDG_SAVE_STRIDE_HI : Fld := ⟨0x40103108, 0, 32⟩
def LDG_SAVE_SKIP : Fld := ⟨0x4010310C, 0, 32⟩
def LDG_COMMIT_STRIDE_LO : Fld := ⟨0x40103110, 0, 32⟩
def LDG_COMMIT_STRIDE_HI : Fld := ⟨0x40103114, 0, 32⟩
def LDG_TAIL : Fld := ⟨0x40103118, 0, 32⟩
def LDG_RESTORE_ST : Fld := ⟨0x4010311C, 0, 32⟩
def LDG_RESTORE_STRIDE_LO : Fld := ⟨0x40103120, 0, 32⟩
def LDG_RESTORE_STRIDE_HI : Fld := ⟨0x40103124, 0, 32⟩
def LDG_RESTORE_LC_LO : Fld := ⟨0x40103128, 0, 32⟩
def LDG_RESTORE_LC_HI : Fld := ⟨0x4010312C, 0, 32⟩
def LDG_PFW_CNT : Fld := ⟨0x40103130, 0, 32⟩
def LDG_ECC_CNT : Fld := ⟨0x40103134, 0, 32⟩
def LDG_ERR : Fld := ⟨0x40103138, 0, 32⟩
def LDG_LOG_NEXT (k : Nat) : Fld := ⟨0x40103140 + k * 8, 0, 32⟩
def LDG_LOG_OLDEST (k : Nat) : Fld := ⟨0x40103144 + k * 8, 0, 32⟩
def LDG_RD_ADDR : Fld := ⟨0x40103170, 0, 32⟩
def LDG_RD_DATA : Fld := ⟨0x40103174, 0, 32⟩
def LDG_WR_ADDR : Fld := ⟨0x40103178, 0, 32⟩
def LDG_WR_DATA : Fld := ⟨0x4010317C, 0, 32⟩
def LDG_APPEND_BUF (k : Nat) : Fld := ⟨0x40103200 + k * 4, 0, 32⟩
def LDG_APPEND_CMD : Fld := ⟨0x40103240, 0, 32⟩
def LDG_SIGN_MTR : Fld := ⟨0x40103300, 0, 32⟩
def LDG_SIGN_SEL : Fld := ⟨0x40103304, 0, 32⟩
def LDG_SIGN_NONCE (k : Nat) : Fld := ⟨0x40103308 + k * 4, 0, 32⟩
def LDG_SIGN_NLEN : Fld := ⟨0x40103328, 0, 32⟩
def LDG_SIGN_CMD : Fld := ⟨0x4010332C, 0, 32⟩
def LDG_SIGN_ST : Fld := ⟨0x40103330, 0, 32⟩
def LDG_SIGN_OUT (k : Nat) : Fld := ⟨0x40103400 + k * 4, 0, 32⟩
def LDG_CAP_size_mib : Fld := ⟨0x40103004, 0, 8⟩
def LDG_CAP_snap_log2 : Fld := ⟨0x40103004, 8, 4⟩
def LDG_CAP_n_hist : Fld := ⟨0x40103004, 16, 5⟩
def LDG_CTRL_force_save : Fld := ⟨0x40103008, 0, 1⟩
def LDG_STATUS_restored : Fld := ⟨0x4010300C, 0, 1⟩
def LDG_STATUS_gap : Fld := ⟨0x4010300C, 1, 1⟩
def LDG_STATUS_fresh : Fld := ⟨0x4010300C, 2, 1⟩
def LDG_STATUS_store_fault : Fld := ⟨0x4010300C, 3, 1⟩
def LDG_STATUS_pfw : Fld := ⟨0x4010300C, 4, 1⟩
def LDG_STATUS_committed : Fld := ⟨0x4010300C, 5, 1⟩
def LDG_STATUS_brownout : Fld := ⟨0x4010300C, 6, 1⟩
def LDG_STATUS_save_busy : Fld := ⟨0x4010300C, 7, 1⟩
def LDG_SAVE_SEQ_seq : Fld := ⟨0x40103100, 0, 32⟩
def LDG_SAVE_STRIDE_LO_stride : Fld := ⟨0x40103104, 0, 32⟩
def LDG_SAVE_STRIDE_HI_stride : Fld := ⟨0x40103108, 0, 32⟩
def LDG_SAVE_SKIP_count : Fld := ⟨0x4010310C, 0, 32⟩
def LDG_COMMIT_STRIDE_LO_stride : Fld := ⟨0x40103110, 0, 32⟩
def LDG_COMMIT_STRIDE_HI_stride : Fld := ⟨0x40103114, 0, 32⟩
def LDG_TAIL_k : Fld := ⟨0x40103118, 0, 16⟩
def LDG_RESTORE_ST_source : Fld := ⟨0x4010311C, 0, 2⟩
def LDG_RESTORE_ST_fallbacks : Fld := ⟨0x4010311C, 8, 8⟩
def LDG_RESTORE_ST_tail_k : Fld := ⟨0x4010311C, 16, 16⟩
def LDG_RESTORE_STRIDE_LO_stride : Fld := ⟨0x40103120, 0, 32⟩
def LDG_RESTORE_STRIDE_HI_stride : Fld := ⟨0x40103124, 0, 32⟩
def LDG_RESTORE_LC_LO_lc : Fld := ⟨0x40103128, 0, 32⟩
def LDG_RESTORE_LC_HI_lc : Fld := ⟨0x4010312C, 0, 32⟩
def LDG_PFW_CNT_count : Fld := ⟨0x40103130, 0, 32⟩
def LDG_ECC_CNT_corrected : Fld := ⟨0x40103134, 0, 16⟩
def LDG_ECC_CNT_uncorrected : Fld := ⟨0x40103134, 16, 16⟩
def LDG_ERR_wr_refused : Fld := ⟨0x40103138, 0, 1⟩
def LDG_ERR_append_refused : Fld := ⟨0x40103138, 1, 1⟩
def LDG_LOG_NEXT_seq (k : Nat) : Fld := ⟨0x40103140 + k * 8, 0, 32⟩
def LDG_LOG_OLDEST_seq (k : Nat) : Fld := ⟨0x40103144 + k * 8, 0, 32⟩
def LDG_RD_ADDR_addr : Fld := ⟨0x40103170, 2, 24⟩
def LDG_RD_DATA_data : Fld := ⟨0x40103174, 0, 32⟩
def LDG_WR_ADDR_addr : Fld := ⟨0x40103178, 2, 24⟩
def LDG_WR_DATA_data : Fld := ⟨0x4010317C, 0, 32⟩
def LDG_APPEND_BUF_rec (k : Nat) : Fld := ⟨0x40103200 + k * 4, 0, 32⟩
def LDG_APPEND_CMD_log : Fld := ⟨0x40103240, 0, 3⟩
def LDG_SIGN_MTR_meter : Fld := ⟨0x40103300, 0, 6⟩
def LDG_SIGN_SEL_totals : Fld := ⟨0x40103304, 0, 8⟩
def LDG_SIGN_SEL_tariffs : Fld := ⟨0x40103304, 8, 1⟩
def LDG_SIGN_SEL_comp : Fld := ⟨0x40103304, 9, 1⟩
def LDG_SIGN_SEL_maxima : Fld := ⟨0x40103304, 10, 1⟩
def LDG_SIGN_NONCE_nonce (k : Nat) : Fld := ⟨0x40103308 + k * 4, 0, 32⟩
def LDG_SIGN_NLEN_len : Fld := ⟨0x40103328, 0, 6⟩
def LDG_SIGN_CMD_go : Fld := ⟨0x4010332C, 0, 1⟩
def LDG_SIGN_ST_state : Fld := ⟨0x40103330, 0, 2⟩
def LDG_SIGN_ST_error : Fld := ⟨0x40103330, 8, 8⟩
def LDG_SIGN_ST_length : Fld := ⟨0x40103330, 16, 11⟩
def LDG_SIGN_OUT_obj (k : Nat) : Fld := ⟨0x40103400 + k * 4, 0, 32⟩

/-! Fields of DSP. -/

def DSP_CAP : Fld := ⟨0x40104004, 0, 32⟩
def DSP_CTRL : Fld := ⟨0x40104008, 0, 32⟩
def DSP_STATUS : Fld := ⟨0x4010400C, 0, 32⟩
def DSP_DISP_CFG (k : Nat) : Fld := ⟨0x40104100 + k * 4, 0, 32⟩
def DSP_DISP_ST (k : Nat) : Fld := ⟨0x40104180 + k * 4, 0, 32⟩
def DSP_ITEM_ADDR : Fld := ⟨0x40104200, 0, 32⟩
def DSP_ITEM_DATA : Fld := ⟨0x40104204, 0, 32⟩
def DSP_CAP_n_disp : Fld := ⟨0x40104004, 0, 6⟩
def DSP_CAP_n_items : Fld := ⟨0x40104004, 8, 7⟩
def DSP_CTRL_link_en : Fld := ⟨0x40104008, 0, 1⟩
def DSP_STATUS_link_active : Fld := ⟨0x4010400C, 0, 1⟩
def DSP_STATUS_any_fault : Fld := ⟨0x4010400C, 1, 1⟩
def DSP_DISP_CFG_en (k : Nat) : Fld := ⟨0x40104100 + k * 4, 0, 1⟩
def DSP_DISP_CFG_port (k : Nat) : Fld := ⟨0x40104100 + k * 4, 1, 5⟩
def DSP_DISP_CFG_n_legal (k : Nat) : Fld := ⟨0x40104100 + k * 4, 6, 5⟩
def DSP_DISP_CFG_step (k : Nat) : Fld := ⟨0x40104100 + k * 4, 11, 5⟩
def DSP_DISP_CFG_push_en (k : Nat) : Fld := ⟨0x40104100 + k * 4, 16, 1⟩
def DSP_DISP_CFG_n_items (k : Nat) : Fld := ⟨0x40104100 + k * 4, 17, 7⟩
def DSP_DISP_ST_item (k : Nat) : Fld := ⟨0x40104180 + k * 4, 0, 6⟩
def DSP_DISP_ST_responding (k : Nat) : Fld := ⟨0x40104180 + k * 4, 6, 1⟩
def DSP_DISP_ST_fault (k : Nat) : Fld := ⟨0x40104180 + k * 4, 7, 1⟩
def DSP_DISP_ST_push (k : Nat) : Fld := ⟨0x40104180 + k * 4, 8, 8⟩
def DSP_DISP_ST_missed (k : Nat) : Fld := ⟨0x40104180 + k * 4, 16, 8⟩
def DSP_ITEM_ADDR_item : Fld := ⟨0x40104200, 0, 6⟩
def DSP_ITEM_ADDR_disp : Fld := ⟨0x40104200, 8, 5⟩
def DSP_ITEM_DATA_meter : Fld := ⟨0x40104204, 0, 6⟩
def DSP_ITEM_DATA_kind : Fld := ⟨0x40104204, 6, 4⟩
def DSP_ITEM_DATA_index : Fld := ⟨0x40104204, 10, 7⟩
def DSP_ITEM_DATA_valid : Fld := ⟨0x40104204, 31, 1⟩

/-! Fields of MTR. -/

def MTR_CAP (n : Nat) : Fld := ⟨0x40110004 + n * 0x1000, 0, 32⟩
def MTR_CTRL (n : Nat) : Fld := ⟨0x40110008 + n * 0x1000, 0, 32⟩
def MTR_STATUS (n : Nat) : Fld := ⟨0x4011000C + n * 0x1000, 0, 32⟩
def MTR_CFG (n : Nat) : Fld := ⟨0x40110100 + n * 0x1000, 0, 32⟩
def MTR_CREEP (n : Nat) : Fld := ⟨0x40110104 + n * 0x1000, 0, 32⟩
def MTR_CONST_LO (n : Nat) : Fld := ⟨0x40110108 + n * 0x1000, 0, 32⟩
def MTR_CONST_HI (n : Nat) : Fld := ⟨0x4011010C + n * 0x1000, 0, 32⟩
def MTR_DISP (n : Nat) : Fld := ⟨0x40110110 + n * 0x1000, 0, 32⟩
def MTR_FREQ (n : Nat) : Fld := ⟨0x40110120 + n * 0x1000, 0, 32⟩
def MTR_N (n : Nat) : Fld := ⟨0x40110124 + n * 0x1000, 0, 32⟩
def MTR_P_LO (n : Nat) (k : Nat) : Fld := ⟨0x40110130 + n * 0x1000 + k * 4, 0, 32⟩
def MTR_Q_LO (n : Nat) (k : Nat) : Fld := ⟨0x40110138 + n * 0x1000 + k * 4, 0, 32⟩
def MTR_SP_LO (n : Nat) (k : Nat) : Fld := ⟨0x40110140 + n * 0x1000 + k * 4, 0, 32⟩
def MTR_SQ_LO (n : Nat) (k : Nat) : Fld := ⟨0x40110148 + n * 0x1000 + k * 4, 0, 32⟩
def MTR_APP_LO (n : Nat) (k : Nat) : Fld := ⟨0x40110150 + n * 0x1000 + k * 4, 0, 32⟩
def MTR_SORT (n : Nat) : Fld := ⟨0x40110158 + n * 0x1000, 0, 32⟩
def MTR_PUB_LO (n : Nat) (k : Nat) : Fld := ⟨0x40110200 + n * 0x1000 + k * 8, 0, 32⟩
def MTR_PUB_HI (n : Nat) (k : Nat) : Fld := ⟨0x40110204 + n * 0x1000 + k * 8, 0, 32⟩
def MTR_ROLL (n : Nat) (k : Nat) : Fld := ⟨0x40110440 + n * 0x1000 + k * 4, 0, 32⟩
def MTR_RAW (n : Nat) (k : Nat) : Fld := ⟨0x40110560 + n * 0x1000 + k * 4, 0, 32⟩
def MTR_REM (n : Nat) (k : Nat) : Fld := ⟨0x401105C0 + n * 0x1000 + k * 4, 0, 32⟩
def MTR_CMP_IMP_LO (n : Nat) (k : Nat) : Fld := ⟨0x40110620 + n * 0x1000 + k * 4, 0, 32⟩
def MTR_CMP_EXP_LO (n : Nat) (k : Nat) : Fld := ⟨0x40110628 + n * 0x1000 + k * 4, 0, 32⟩
def MTR_COMP_CFG (n : Nat) : Fld := ⟨0x40110114 + n * 0x1000, 0, 32⟩
def MTR_RC20 (n : Nat) : Fld := ⟨0x40110118 + n * 0x1000, 0, 32⟩
def MTR_ALPHA (n : Nat) : Fld := ⟨0x4011011C + n * 0x1000, 0, 32⟩
def MTR_COMP_CR_LO (n : Nat) : Fld := ⟨0x40110170 + n * 0x1000, 0, 32⟩
def MTR_COMP_CR_HI (n : Nat) : Fld := ⟨0x40110174 + n * 0x1000, 0, 32⟩
def MTR_INOM (n : Nat) : Fld := ⟨0x40110178 + n * 0x1000, 0, 32⟩
def MTR_I2 (n : Nat) (k : Nat) : Fld := ⟨0x40110640 + n * 0x1000 + k * 4, 0, 32⟩
def MTR_LOSS_IMP (n : Nat) (k : Nat) : Fld := ⟨0x40110650 + n * 0x1000 + k * 4, 0, 32⟩
def MTR_LOSS_EXP (n : Nat) (k : Nat) : Fld := ⟨0x40110660 + n * 0x1000 + k * 4, 0, 32⟩
def MTR_RC (n : Nat) : Fld := ⟨0x40110670 + n * 0x1000, 0, 32⟩
def MTR_COMP_T (n : Nat) : Fld := ⟨0x40110674 + n * 0x1000, 0, 32⟩
def MTR_COMP_ST (n : Nat) : Fld := ⟨0x40110678 + n * 0x1000, 0, 32⟩
def MTR_DMD_LAST_IMP (n : Nat) : Fld := ⟨0x40110680 + n * 0x1000, 0, 32⟩
def MTR_DMD_LAST_EXP (n : Nat) : Fld := ⟨0x40110684 + n * 0x1000, 0, 32⟩
def MTR_DMD_RUN_IMP (n : Nat) : Fld := ⟨0x40110688 + n * 0x1000, 0, 32⟩
def MTR_DMD_RUN_EXP (n : Nat) : Fld := ⟨0x4011068C + n * 0x1000, 0, 32⟩
def MTR_DMD_FLAGS (n : Nat) : Fld := ⟨0x40110690 + n * 0x1000, 0, 32⟩
def MTR_MAX (n : Nat) (k : Nat) : Fld := ⟨0x401106A0 + n * 0x1000 + k * 4, 0, 32⟩
def MTR_CAP_n_quant (n : Nat) : Fld := ⟨0x40110004 + n * 0x1000, 0, 4⟩
def MTR_CAP_n_tariff (n : Nat) : Fld := ⟨0x40110004 + n * 0x1000, 4, 4⟩
def MTR_CAP_comp (n : Nat) : Fld := ⟨0x40110004 + n * 0x1000, 8, 1⟩
def MTR_STATUS_active (n : Nat) : Fld := ⟨0x4011000C + n * 0x1000, 0, 1⟩
def MTR_STATUS_kind (n : Nat) : Fld := ⟨0x4011000C + n * 0x1000, 1, 1⟩
def MTR_STATUS_cfg_fault (n : Nat) : Fld := ⟨0x4011000C + n * 0x1000, 2, 1⟩
def MTR_STATUS_input_fault (n : Nat) : Fld := ⟨0x4011000C + n * 0x1000, 3, 1⟩
def MTR_STATUS_overrange (n : Nat) : Fld := ⟨0x4011000C + n * 0x1000, 4, 1⟩
def MTR_STATUS_freq_nominal (n : Nat) : Fld := ⟨0x4011000C + n * 0x1000, 5, 1⟩
def MTR_STATUS_creep_p (n : Nat) : Fld := ⟨0x4011000C + n * 0x1000, 6, 1⟩
def MTR_STATUS_creep_q (n : Nat) : Fld := ⟨0x4011000C + n * 0x1000, 7, 1⟩
def MTR_STATUS_neg (n : Nat) : Fld := ⟨0x4011000C + n * 0x1000, 8, 1⟩
def MTR_STATUS_saturated (n : Nat) : Fld := ⟨0x4011000C + n * 0x1000, 9, 1⟩
def MTR_STATUS_provisional (n : Nat) : Fld := ⟨0x4011000C + n * 0x1000, 10, 1⟩
def MTR_STATUS_restored (n : Nat) : Fld := ⟨0x4011000C + n * 0x1000, 11, 1⟩
def MTR_CFG_f_nom (n : Nat) : Fld := ⟨0x40110100 + n * 0x1000, 0, 1⟩
def MTR_CREEP_p_thr (n : Nat) : Fld := ⟨0x40110104 + n * 0x1000, 0, 16⟩
def MTR_CREEP_q_thr (n : Nat) : Fld := ⟨0x40110104 + n * 0x1000, 16, 16⟩
def MTR_CONST_LO_c (n : Nat) : Fld := ⟨0x40110108 + n * 0x1000, 0, 32⟩
def MTR_CONST_HI_c (n : Nat) : Fld := ⟨0x4011010C + n * 0x1000, 0, 32⟩
def MTR_DISP_digits (n : Nat) : Fld := ⟨0x40110110 + n * 0x1000, 0, 4⟩
def MTR_DISP_dec (n : Nat) : Fld := ⟨0x40110110 + n * 0x1000, 4, 2⟩
def MTR_FREQ_f_mhz (n : Nat) : Fld := ⟨0x40110120 + n * 0x1000, 0, 17⟩
def MTR_N_n (n : Nat) : Fld := ⟨0x40110124 + n * 0x1000, 0, 8⟩
def MTR_N_src_pos (n : Nat) : Fld := ⟨0x40110124 + n * 0x1000, 8, 2⟩
def MTR_N_nominal (n : Nat) : Fld := ⟨0x40110124 + n * 0x1000, 10, 1⟩
def MTR_P_LO_p (n : Nat) (k : Nat) : Fld := ⟨0x40110130 + n * 0x1000 + k * 4, 0, 32⟩
def MTR_Q_LO_q (n : Nat) (k : Nat) : Fld := ⟨0x40110138 + n * 0x1000 + k * 4, 0, 32⟩
def MTR_SP_LO_sp (n : Nat) (k : Nat) : Fld := ⟨0x40110140 + n * 0x1000 + k * 4, 0, 32⟩
def MTR_SQ_LO_sq (n : Nat) (k : Nat) : Fld := ⟨0x40110148 + n * 0x1000 + k * 4, 0, 32⟩
def MTR_APP_LO_a (n : Nat) (k : Nat) : Fld := ⟨0x40110150 + n * 0x1000 + k * 4, 0, 32⟩
def MTR_SORT_export (n : Nat) : Fld := ⟨0x40110158 + n * 0x1000, 0, 1⟩
def MTR_SORT_quadrant (n : Nat) : Fld := ⟨0x40110158 + n * 0x1000, 1, 2⟩
def MTR_PUB_LO_e (n : Nat) (k : Nat) : Fld := ⟨0x40110200 + n * 0x1000 + k * 8, 0, 32⟩
def MTR_PUB_HI_e (n : Nat) (k : Nat) : Fld := ⟨0x40110204 + n * 0x1000 + k * 8, 0, 32⟩
def MTR_ROLL_wh (n : Nat) (k : Nat) : Fld := ⟨0x40110440 + n * 0x1000 + k * 4, 0, 32⟩
def MTR_RAW_a (n : Nat) (k : Nat) : Fld := ⟨0x40110560 + n * 0x1000 + k * 4, 0, 32⟩
def MTR_REM_r (n : Nat) (k : Nat) : Fld := ⟨0x401105C0 + n * 0x1000 + k * 4, 0, 32⟩
def MTR_CMP_IMP_LO_e (n : Nat) (k : Nat) : Fld := ⟨0x40110620 + n * 0x1000 + k * 4, 0, 32⟩
def MTR_CMP_EXP_LO_e (n : Nat) (k : Nat) : Fld := ⟨0x40110628 + n * 0x1000 + k * 4, 0, 32⟩
def MTR_COMP_CFG_comp_en (n : Nat) : Fld := ⟨0x40110114 + n * 0x1000, 0, 1⟩
def MTR_COMP_CFG_port (n : Nat) : Fld := ⟨0x40110114 + n * 0x1000, 8, 5⟩
def MTR_COMP_CFG_t_fallback (n : Nat) : Fld := ⟨0x40110114 + n * 0x1000, 16, 16⟩
def MTR_RC20_rc20 (n : Nat) : Fld := ⟨0x40110118 + n * 0x1000, 0, 32⟩
def MTR_ALPHA_alpha (n : Nat) : Fld := ⟨0x4011011C + n * 0x1000, 0, 16⟩
def MTR_COMP_CR_LO_cr (n : Nat) : Fld := ⟨0x40110170 + n * 0x1000, 0, 32⟩
def MTR_COMP_CR_HI_cr (n : Nat) : Fld := ⟨0x40110174 + n * 0x1000, 0, 32⟩
def MTR_INOM_in_ma (n : Nat) : Fld := ⟨0x40110178 + n * 0x1000, 0, 32⟩
def MTR_I2_i2 (n : Nat) (k : Nat) : Fld := ⟨0x40110640 + n * 0x1000 + k * 4, 0, 32⟩
def MTR_LOSS_IMP_lam (n : Nat) (k : Nat) : Fld := ⟨0x40110650 + n * 0x1000 + k * 4, 0, 32⟩
def MTR_LOSS_EXP_lam (n : Nat) (k : Nat) : Fld := ⟨0x40110660 + n * 0x1000 + k * 4, 0, 32⟩
def MTR_RC_rc (n : Nat) : Fld := ⟨0x40110670 + n * 0x1000, 0, 32⟩
def MTR_COMP_T_t (n : Nat) : Fld := ⟨0x40110674 + n * 0x1000, 0, 16⟩
def MTR_COMP_ST_temp_fault (n : Nat) : Fld := ⟨0x40110678 + n * 0x1000, 0, 1⟩
def MTR_COMP_ST_cmp_neg (n : Nat) : Fld := ⟨0x40110678 + n * 0x1000, 1, 1⟩
def MTR_COMP_ST_cmp_saturated (n : Nat) : Fld := ⟨0x40110678 + n * 0x1000, 2, 1⟩
def MTR_COMP_ST_inactive (n : Nat) : Fld := ⟨0x40110678 + n * 0x1000, 3, 1⟩
def MTR_DMD_LAST_IMP_w (n : Nat) : Fld := ⟨0x40110680 + n * 0x1000, 0, 32⟩
def MTR_DMD_LAST_EXP_w (n : Nat) : Fld := ⟨0x40110684 + n * 0x1000, 0, 32⟩
def MTR_DMD_RUN_IMP_w (n : Nat) : Fld := ⟨0x40110688 + n * 0x1000, 0, 32⟩
def MTR_DMD_RUN_EXP_w (n : Nat) : Fld := ⟨0x4011068C + n * 0x1000, 0, 32⟩
def MTR_DMD_FLAGS_flags (n : Nat) : Fld := ⟨0x40110690 + n * 0x1000, 0, 12⟩
def MTR_MAX_max (n : Nat) (k : Nat) : Fld := ⟨0x401106A0 + n * 0x1000 + k * 4, 0, 32⟩

/-! Fields of SFE. -/

def SFE_ECAP (n : Nat) : Fld := ⟨0x40140004 + n * 0x1000, 0, 32⟩
def SFE_ECTRL (n : Nat) : Fld := ⟨0x40140008 + n * 0x1000, 0, 32⟩
def SFE_ESTATUS (n : Nat) : Fld := ⟨0x4014000C + n * 0x1000, 0, 32⟩
def SFE_ASSIGN (n : Nat) : Fld := ⟨0x40140100 + n * 0x1000, 0, 32⟩
def SFE_PATH_CFG (n : Nat) : Fld := ⟨0x40140104 + n * 0x1000, 0, 32⟩
def SFE_RATIO_APPLIED (n : Nat) : Fld := ⟨0x40140110 + n * 0x1000, 0, 32⟩
def SFE_OFFS_APPLIED (n : Nat) : Fld := ⟨0x40140114 + n * 0x1000, 0, 32⟩
def SFE_RATIO_EST (n : Nat) : Fld := ⟨0x40140118 + n * 0x1000, 0, 32⟩
def SFE_OFFS_EST (n : Nat) : Fld := ⟨0x4014011C + n * 0x1000, 0, 32⟩
def SFE_REG_ST (n : Nat) : Fld := ⟨0x40140120 + n * 0x1000, 0, 32⟩
def SFE_REG_STRIDE_LO (n : Nat) : Fld := ⟨0x40140124 + n * 0x1000, 0, 32⟩
def SFE_REG_STRIDE_HI (n : Nat) : Fld := ⟨0x40140128 + n * 0x1000, 0, 32⟩
def SFE_HEALTH (n : Nat) : Fld := ⟨0x40140130 + n * 0x1000, 0, 32⟩
def SFE_HEALTH_LATCH (n : Nat) : Fld := ⟨0x40140134 + n * 0x1000, 0, 32⟩
def SFE_SEAM_CNT (n : Nat) : Fld := ⟨0x40140138 + n * 0x1000, 0, 32⟩
def SFE_LOW_CNT (n : Nat) : Fld := ⟨0x4014013C + n * 0x1000, 0, 32⟩
def SFE_SMP_V (n : Nat) : Fld := ⟨0x40140140 + n * 0x1000, 0, 32⟩
def SFE_SMP_IH (n : Nat) : Fld := ⟨0x40140144 + n * 0x1000, 0, 32⟩
def SFE_SMP_IL (n : Nat) : Fld := ⟨0x40140148 + n * 0x1000, 0, 32⟩
def SFE_SMP_I (n : Nat) : Fld := ⟨0x4014014C + n * 0x1000, 0, 32⟩
def SFE_ECAP_paths (n : Nat) : Fld := ⟨0x40140004 + n * 0x1000, 0, 3⟩
def SFE_ECAP_group (n : Nat) : Fld := ⟨0x40140004 + n * 0x1000, 8, 3⟩
def SFE_ECTRL_en (n : Nat) : Fld := ⟨0x40140008 + n * 0x1000, 0, 1⟩
def SFE_ESTATUS_on_low (n : Nat) : Fld := ⟨0x4014000C + n * 0x1000, 0, 1⟩
def SFE_ESTATUS_settling (n : Nat) : Fld := ⟨0x4014000C + n * 0x1000, 1, 1⟩
def SFE_ESTATUS_health_fault (n : Nat) : Fld := ⟨0x4014000C + n * 0x1000, 2, 1⟩
def SFE_ESTATUS_ratio_stale (n : Nat) : Fld := ⟨0x4014000C + n * 0x1000, 3, 1⟩
def SFE_ESTATUS_overrange (n : Nat) : Fld := ⟨0x4014000C + n * 0x1000, 4, 1⟩
def SFE_ESTATUS_assign_invalid (n : Nat) : Fld := ⟨0x4014000C + n * 0x1000, 5, 1⟩
def SFE_ESTATUS_ratio_limit (n : Nat) : Fld := ⟨0x4014000C + n * 0x1000, 6, 1⟩
def SFE_ASSIGN_meter (n : Nat) : Fld := ⟨0x40140100 + n * 0x1000, 0, 6⟩
def SFE_ASSIGN_pos (n : Nat) : Fld := ⟨0x40140100 + n * 0x1000, 6, 2⟩
def SFE_ASSIGN_assigned (n : Nat) : Fld := ⟨0x40140100 + n * 0x1000, 8, 1⟩
def SFE_ASSIGN_kind (n : Nat) : Fld := ⟨0x40140100 + n * 0x1000, 9, 1⟩
def SFE_ASSIGN_import_only (n : Nat) : Fld := ⟨0x40140100 + n * 0x1000, 10, 1⟩
def SFE_PATH_CFG_v_en (n : Nat) : Fld := ⟨0x40140104 + n * 0x1000, 0, 1⟩
def SFE_PATH_CFG_ih_en (n : Nat) : Fld := ⟨0x40140104 + n * 0x1000, 1, 1⟩
def SFE_PATH_CFG_il_en (n : Nat) : Fld := ⟨0x40140104 + n * 0x1000, 2, 1⟩
def SFE_PATH_CFG_reg_en (n : Nat) : Fld := ⟨0x40140104 + n * 0x1000, 5, 1⟩
def SFE_RATIO_APPLIED_ratio (n : Nat) : Fld := ⟨0x40140110 + n * 0x1000, 0, 32⟩
def SFE_OFFS_APPLIED_offs (n : Nat) : Fld := ⟨0x40140114 + n * 0x1000, 0, 32⟩
def SFE_RATIO_EST_ratio (n : Nat) : Fld := ⟨0x40140118 + n * 0x1000, 0, 32⟩
def SFE_OFFS_EST_offs (n : Nat) : Fld := ⟨0x4014011C + n * 0x1000, 0, 32⟩
def SFE_REG_ST_n (n : Nat) : Fld := ⟨0x40140120 + n * 0x1000, 0, 14⟩
def SFE_REG_ST_accepted (n : Nat) : Fld := ⟨0x40140120 + n * 0x1000, 16, 1⟩
def SFE_REG_ST_step_limited (n : Nat) : Fld := ⟨0x40140120 + n * 0x1000, 17, 1⟩
def SFE_REG_ST_reject (n : Nat) : Fld := ⟨0x40140120 + n * 0x1000, 18, 2⟩
def SFE_REG_STRIDE_LO_stride (n : Nat) : Fld := ⟨0x40140124 + n * 0x1000, 0, 32⟩
def SFE_REG_STRIDE_HI_stride (n : Nat) : Fld := ⟨0x40140128 + n * 0x1000, 0, 32⟩
def SFE_HEALTH_v (n : Nat) : Fld := ⟨0x40140130 + n * 0x1000, 0, 4⟩
def SFE_HEALTH_ih (n : Nat) : Fld := ⟨0x40140130 + n * 0x1000, 4, 4⟩
def SFE_HEALTH_il (n : Nat) : Fld := ⟨0x40140130 + n * 0x1000, 8, 4⟩
def SFE_HEALTH_xpath (n : Nat) : Fld := ⟨0x40140130 + n * 0x1000, 12, 1⟩
def SFE_HEALTH_reversed (n : Nat) : Fld := ⟨0x40140130 + n * 0x1000, 13, 1⟩
def SFE_HEALTH_mclk_off (n : Nat) : Fld := ⟨0x40140130 + n * 0x1000, 14, 1⟩
def SFE_HEALTH_LATCH_latch (n : Nat) : Fld := ⟨0x40140134 + n * 0x1000, 0, 15⟩
def SFE_SEAM_CNT_count (n : Nat) : Fld := ⟨0x40140138 + n * 0x1000, 0, 32⟩
def SFE_LOW_CNT_count (n : Nat) : Fld := ⟨0x4014013C + n * 0x1000, 0, 32⟩
def SFE_SMP_V_v (n : Nat) : Fld := ⟨0x40140140 + n * 0x1000, 0, 32⟩
def SFE_SMP_IH_h (n : Nat) : Fld := ⟨0x40140144 + n * 0x1000, 0, 32⟩
def SFE_SMP_IL_l (n : Nat) : Fld := ⟨0x40140148 + n * 0x1000, 0, 32⟩
def SFE_SMP_I_i (n : Nat) : Fld := ⟨0x4014014C + n * 0x1000, 0, 32⟩

/-! Fields of MET. -/

def MET_CAP (n : Nat) : Fld := ⟨0x40180004 + n * 0x1000, 0, 32⟩
def MET_CTRL (n : Nat) : Fld := ⟨0x40180008 + n * 0x1000, 0, 32⟩
def MET_STATUS (n : Nat) : Fld := ⟨0x4018000C + n * 0x1000, 0, 32⟩
def MET_ZC_CFG (n : Nat) : Fld := ⟨0x40180100 + n * 0x1000, 0, 32⟩
def MET_V (n : Nat) : Fld := ⟨0x40180110 + n * 0x1000, 0, 32⟩
def MET_I (n : Nat) : Fld := ⟨0x40180114 + n * 0x1000, 0, 32⟩
def MET_V90 (n : Nat) : Fld := ⟨0x40180118 + n * 0x1000, 0, 32⟩
def MET_P_LO (n : Nat) : Fld := ⟨0x40180120 + n * 0x1000, 0, 32⟩
def MET_P_HI (n : Nat) : Fld := ⟨0x40180124 + n * 0x1000, 0, 32⟩
def MET_Q_LO (n : Nat) : Fld := ⟨0x40180128 + n * 0x1000, 0, 32⟩
def MET_Q_HI (n : Nat) : Fld := ⟨0x4018012C + n * 0x1000, 0, 32⟩
def MET_FREQ (n : Nat) : Fld := ⟨0x40180130 + n * 0x1000, 0, 32⟩
def MET_N (n : Nat) : Fld := ⟨0x40180134 + n * 0x1000, 0, 32⟩
def MET_HGAIN (n : Nat) : Fld := ⟨0x40180138 + n * 0x1000, 0, 32⟩
def MET_VRMS_CYC (n : Nat) : Fld := ⟨0x40180140 + n * 0x1000, 0, 32⟩
def MET_IRMS_CYC (n : Nat) : Fld := ⟨0x40180144 + n * 0x1000, 0, 32⟩
def MET_VRMS_1S (n : Nat) : Fld := ⟨0x40180148 + n * 0x1000, 0, 32⟩
def MET_IRMS_1S (n : Nat) : Fld := ⟨0x4018014C + n * 0x1000, 0, 32⟩
def MET_VDC_1S (n : Nat) : Fld := ⟨0x40180150 + n * 0x1000, 0, 32⟩
def MET_IDC_1S (n : Nat) : Fld := ⟨0x40180154 + n * 0x1000, 0, 32⟩
def MET_WIN_LO (n : Nat) : Fld := ⟨0x40180158 + n * 0x1000, 0, 32⟩
def MET_WIN_HI (n : Nat) : Fld := ⟨0x4018015C + n * 0x1000, 0, 32⟩
def MET_CLIP_CNT (n : Nat) : Fld := ⟨0x40180160 + n * 0x1000, 0, 32⟩
def MET_CAL_GV (n : Nat) : Fld := ⟨0x40180180 + n * 0x1000, 0, 32⟩
def MET_CAL_GI (n : Nat) : Fld := ⟨0x40180184 + n * 0x1000, 0, 32⟩
def MET_CAL_OV (n : Nat) : Fld := ⟨0x40180188 + n * 0x1000, 0, 32⟩
def MET_CAL_OI (n : Nat) : Fld := ⟨0x4018018C + n * 0x1000, 0, 32⟩
def MET_CAL_PHI (n : Nat) : Fld := ⟨0x40180190 + n * 0x1000, 0, 32⟩
def MET_CAL_RATIO (n : Nat) : Fld := ⟨0x40180194 + n * 0x1000, 0, 32⟩
def MET_CAL_ROFS (n : Nat) : Fld := ⟨0x40180198 + n * 0x1000, 0, 32⟩
def MET_CAL_DELAY (n : Nat) : Fld := ⟨0x4018019C + n * 0x1000, 0, 32⟩
def MET_CAP_hilbert_taps (n : Nat) : Fld := ⟨0x40180004 + n * 0x1000, 0, 8⟩
def MET_CAP_fd_taps (n : Nat) : Fld := ⟨0x40180004 + n * 0x1000, 8, 8⟩
def MET_CAP_latency (n : Nat) : Fld := ⟨0x40180004 + n * 0x1000, 16, 8⟩
def MET_STATUS_freq_valid (n : Nat) : Fld := ⟨0x4018000C + n * 0x1000, 0, 1⟩
def MET_STATUS_gh_nominal (n : Nat) : Fld := ⟨0x4018000C + n * 0x1000, 1, 1⟩
def MET_STATUS_clip_v (n : Nat) : Fld := ⟨0x4018000C + n * 0x1000, 2, 1⟩
def MET_STATUS_clip_i (n : Nat) : Fld := ⟨0x4018000C + n * 0x1000, 3, 1⟩
def MET_STATUS_incomplete_1s (n : Nat) : Fld := ⟨0x4018000C + n * 0x1000, 4, 1⟩
def MET_STATUS_in_meter (n : Nat) : Fld := ⟨0x4018000C + n * 0x1000, 5, 1⟩
def MET_ZC_CFG_hyst (n : Nat) : Fld := ⟨0x40180100 + n * 0x1000, 0, 23⟩
def MET_V_v (n : Nat) : Fld := ⟨0x40180110 + n * 0x1000, 0, 32⟩
def MET_I_i (n : Nat) : Fld := ⟨0x40180114 + n * 0x1000, 0, 32⟩
def MET_V90_v90 (n : Nat) : Fld := ⟨0x40180118 + n * 0x1000, 0, 32⟩
def MET_P_LO_p (n : Nat) : Fld := ⟨0x40180120 + n * 0x1000, 0, 32⟩
def MET_P_HI_p (n : Nat) : Fld := ⟨0x40180124 + n * 0x1000, 0, 32⟩
def MET_Q_LO_q (n : Nat) : Fld := ⟨0x40180128 + n * 0x1000, 0, 32⟩
def MET_Q_HI_q (n : Nat) : Fld := ⟨0x4018012C + n * 0x1000, 0, 32⟩
def MET_FREQ_f_mhz (n : Nat) : Fld := ⟨0x40180130 + n * 0x1000, 0, 17⟩
def MET_N_n (n : Nat) : Fld := ⟨0x40180134 + n * 0x1000, 0, 8⟩
def MET_HGAIN_gh (n : Nat) : Fld := ⟨0x40180138 + n * 0x1000, 0, 32⟩
def MET_VRMS_CYC_rms (n : Nat) : Fld := ⟨0x40180140 + n * 0x1000, 0, 24⟩
def MET_IRMS_CYC_rms (n : Nat) : Fld := ⟨0x40180144 + n * 0x1000, 0, 24⟩
def MET_VRMS_1S_rms (n : Nat) : Fld := ⟨0x40180148 + n * 0x1000, 0, 24⟩
def MET_IRMS_1S_rms (n : Nat) : Fld := ⟨0x4018014C + n * 0x1000, 0, 24⟩
def MET_VDC_1S_dc (n : Nat) : Fld := ⟨0x40180150 + n * 0x1000, 0, 32⟩
def MET_IDC_1S_dc (n : Nat) : Fld := ⟨0x40180154 + n * 0x1000, 0, 32⟩
def MET_WIN_LO_w (n : Nat) : Fld := ⟨0x40180158 + n * 0x1000, 0, 32⟩
def MET_WIN_HI_w (n : Nat) : Fld := ⟨0x4018015C + n * 0x1000, 0, 32⟩
def MET_CLIP_CNT_count (n : Nat) : Fld := ⟨0x40180160 + n * 0x1000, 0, 32⟩
def MET_CAL_GV_g (n : Nat) : Fld := ⟨0x40180180 + n * 0x1000, 0, 32⟩
def MET_CAL_GI_g (n : Nat) : Fld := ⟨0x40180184 + n * 0x1000, 0, 32⟩
def MET_CAL_OV_o (n : Nat) : Fld := ⟨0x40180188 + n * 0x1000, 0, 32⟩
def MET_CAL_OI_o (n : Nat) : Fld := ⟨0x4018018C + n * 0x1000, 0, 32⟩
def MET_CAL_PHI_phi (n : Nat) : Fld := ⟨0x40180190 + n * 0x1000, 0, 16⟩
def MET_CAL_RATIO_r0 (n : Nat) : Fld := ⟨0x40180194 + n * 0x1000, 0, 32⟩
def MET_CAL_ROFS_b0 (n : Nat) : Fld := ⟨0x40180198 + n * 0x1000, 0, 32⟩
def MET_CAL_DELAY_phi_e (n : Nat) : Fld := ⟨0x4018019C + n * 0x1000, 0, 21⟩

/-! Fields of PQM. -/

def PQM_CAP (n : Nat) : Fld := ⟨0x401C0004 + n * 0x1000, 0, 32⟩
def PQM_CTRL (n : Nat) : Fld := ⟨0x401C0008 + n * 0x1000, 0, 32⟩
def PQM_STATUS (n : Nat) : Fld := ⟨0x401C000C + n * 0x1000, 0, 32⟩
def PQM_CFG (n : Nat) : Fld := ⟨0x401C0100 + n * 0x1000, 0, 32⟩
def PQM_UDIN (n : Nat) : Fld := ⟨0x401C0104 + n * 0x1000, 0, 32⟩
def PQM_SAG (n : Nat) : Fld := ⟨0x401C0108 + n * 0x1000, 0, 32⟩
def PQM_SWELL (n : Nat) : Fld := ⟨0x401C010C + n * 0x1000, 0, 32⟩
def PQM_INTR (n : Nat) : Fld := ⟨0x401C0110 + n * 0x1000, 0, 32⟩
def PQM_HC_U (n : Nat) : Fld := ⟨0x401C0120 + n * 0x1000, 0, 32⟩
def PQM_HC_LEN (n : Nat) : Fld := ⟨0x401C0124 + n * 0x1000, 0, 32⟩
def PQM_EXT_LOW (n : Nat) : Fld := ⟨0x401C0128 + n * 0x1000, 0, 32⟩
def PQM_EXT_HIGH (n : Nat) : Fld := ⟨0x401C012C + n * 0x1000, 0, 32⟩
def PQM_OPEN_LO (n : Nat) : Fld := ⟨0x401C0130 + n * 0x1000, 0, 32⟩
def PQM_OPEN_HI (n : Nat) : Fld := ⟨0x401C0134 + n * 0x1000, 0, 32⟩
def PQM_CNT_SS (n : Nat) : Fld := ⟨0x401C0138 + n * 0x1000, 0, 32⟩
def PQM_CNT_INTR (n : Nat) : Fld := ⟨0x401C013C + n * 0x1000, 0, 32⟩
def PQM_CAP_kinds (n : Nat) : Fld := ⟨0x401C0004 + n * 0x1000, 0, 4⟩
def PQM_CAP_ring_log2 (n : Nat) : Fld := ⟨0x401C0004 + n * 0x1000, 4, 4⟩
def PQM_STATUS_sag_open (n : Nat) : Fld := ⟨0x401C000C + n * 0x1000, 0, 1⟩
def PQM_STATUS_swell_open (n : Nat) : Fld := ⟨0x401C000C + n * 0x1000, 1, 1⟩
def PQM_STATUS_intr_open (n : Nat) : Fld := ⟨0x401C000C + n * 0x1000, 2, 1⟩
def PQM_STATUS_suspended (n : Nat) : Fld := ⟨0x401C000C + n * 0x1000, 3, 1⟩
def PQM_STATUS_dc (n : Nat) : Fld := ⟨0x401C000C + n * 0x1000, 4, 1⟩
def PQM_STATUS_agg_member (n : Nat) : Fld := ⟨0x401C000C + n * 0x1000, 5, 1⟩
def PQM_CFG_en (n : Nat) : Fld := ⟨0x401C0100 + n * 0x1000, 0, 1⟩
def PQM_CFG_agg (n : Nat) : Fld := ⟨0x401C0100 + n * 0x1000, 1, 1⟩
def PQM_UDIN_udin (n : Nat) : Fld := ⟨0x401C0104 + n * 0x1000, 0, 24⟩
def PQM_SAG_start (n : Nat) : Fld := ⟨0x401C0108 + n * 0x1000, 0, 16⟩
def PQM_SAG_hyst (n : Nat) : Fld := ⟨0x401C0108 + n * 0x1000, 16, 16⟩
def PQM_SWELL_start (n : Nat) : Fld := ⟨0x401C010C + n * 0x1000, 0, 16⟩
def PQM_SWELL_hyst (n : Nat) : Fld := ⟨0x401C010C + n * 0x1000, 16, 16⟩
def PQM_INTR_start (n : Nat) : Fld := ⟨0x401C0110 + n * 0x1000, 0, 16⟩
def PQM_INTR_hyst (n : Nat) : Fld := ⟨0x401C0110 + n * 0x1000, 16, 16⟩
def PQM_HC_U_u (n : Nat) : Fld := ⟨0x401C0120 + n * 0x1000, 0, 32⟩
def PQM_HC_LEN_h (n : Nat) : Fld := ⟨0x401C0124 + n * 0x1000, 0, 8⟩
def PQM_EXT_LOW_u (n : Nat) : Fld := ⟨0x401C0128 + n * 0x1000, 0, 24⟩
def PQM_EXT_HIGH_u (n : Nat) : Fld := ⟨0x401C012C + n * 0x1000, 0, 24⟩
def PQM_OPEN_LO_stride (n : Nat) : Fld := ⟨0x401C0130 + n * 0x1000, 0, 32⟩
def PQM_OPEN_HI_stride (n : Nat) : Fld := ⟨0x401C0134 + n * 0x1000, 0, 32⟩
def PQM_CNT_SS_sags (n : Nat) : Fld := ⟨0x401C0138 + n * 0x1000, 0, 16⟩
def PQM_CNT_SS_swells (n : Nat) : Fld := ⟨0x401C0138 + n * 0x1000, 16, 16⟩
def PQM_CNT_INTR_intr (n : Nat) : Fld := ⟨0x401C013C + n * 0x1000, 0, 16⟩

/-! Fields of OPT. -/

def OPT_CAP (n : Nat) : Fld := ⟨0x40200004 + n * 0x1000, 0, 32⟩
def OPT_CTRL (n : Nat) : Fld := ⟨0x40200008 + n * 0x1000, 0, 32⟩
def OPT_STATUS (n : Nat) : Fld := ⟨0x4020000C + n * 0x1000, 0, 32⟩
def OPT_CFG (n : Nat) : Fld := ⟨0x40200100 + n * 0x1000, 0, 32⟩
def OPT_PWM (n : Nat) : Fld := ⟨0x40200104 + n * 0x1000, 0, 32⟩
def OPT_PWM_APPLIED (n : Nat) : Fld := ⟨0x40200108 + n * 0x1000, 0, 32⟩
def OPT_LIM (n : Nat) : Fld := ⟨0x4020010C + n * 0x1000, 0, 32⟩
def OPT_LIM2 (n : Nat) : Fld := ⟨0x40200110 + n * 0x1000, 0, 32⟩
def OPT_CP (n : Nat) : Fld := ⟨0x40200114 + n * 0x1000, 0, 32⟩
def OPT_PP (n : Nat) : Fld := ⟨0x40200118 + n * 0x1000, 0, 32⟩
def OPT_TEMP (n : Nat) : Fld := ⟨0x4020011C + n * 0x1000, 0, 32⟩
def OPT_TEMP_LIM (n : Nat) : Fld := ⟨0x40200120 + n * 0x1000, 0, 32⟩
def OPT_LOCK (n : Nat) : Fld := ⟨0x40200124 + n * 0x1000, 0, 32⟩
def OPT_DROP (n : Nat) : Fld := ⟨0x40200128 + n * 0x1000, 0, 32⟩
def OPT_CMD (n : Nat) : Fld := ⟨0x4020012C + n * 0x1000, 0, 32⟩
def OPT_DROP_STRIDE_LO (n : Nat) : Fld := ⟨0x40200130 + n * 0x1000, 0, 32⟩
def OPT_DROP_STRIDE_HI (n : Nat) : Fld := ⟨0x40200134 + n * 0x1000, 0, 32⟩
def OPT_COMM (n : Nat) : Fld := ⟨0x40200140 + n * 0x1000, 0, 32⟩
def OPT_NMK (n : Nat) (k : Nat) : Fld := ⟨0x40200144 + n * 0x1000 + k * 4, 0, 32⟩
def OPT_RX_BASE (n : Nat) : Fld := ⟨0x40200160 + n * 0x1000, 0, 32⟩
def OPT_RING_SIZE (n : Nat) : Fld := ⟨0x40200164 + n * 0x1000, 0, 32⟩
def OPT_RX_HEAD (n : Nat) : Fld := ⟨0x40200168 + n * 0x1000, 0, 32⟩
def OPT_RX_TAIL (n : Nat) : Fld := ⟨0x4020016C + n * 0x1000, 0, 32⟩
def OPT_TX_BASE (n : Nat) : Fld := ⟨0x40200170 + n * 0x1000, 0, 32⟩
def OPT_TX_HEAD (n : Nat) : Fld := ⟨0x40200174 + n * 0x1000, 0, 32⟩
def OPT_TX_TAIL (n : Nat) : Fld := ⟨0x40200178 + n * 0x1000, 0, 32⟩
def OPT_RX_DROP (n : Nat) : Fld := ⟨0x4020017C + n * 0x1000, 0, 32⟩
def OPT_ATTEN (n : Nat) (k : Nat) : Fld := ⟨0x40200190 + n * 0x1000 + k * 4, 0, 32⟩
def OPT_CAP_units (n : Nat) : Fld := ⟨0x40200004 + n * 0x1000, 0, 4⟩
def OPT_CTRL_en (n : Nat) : Fld := ⟨0x40200008 + n * 0x1000, 0, 1⟩
def OPT_CTRL_auto_rearm (n : Nat) : Fld := ⟨0x40200008 + n * 0x1000, 1, 1⟩
def OPT_STATUS_state (n : Nat) : Fld := ⟨0x4020000C + n * 0x1000, 0, 3⟩
def OPT_STATUS_dropped (n : Nat) : Fld := ⟨0x4020000C + n * 0x1000, 3, 1⟩
def OPT_STATUS_safe_ok (n : Nat) : Fld := ⟨0x4020000C + n * 0x1000, 4, 1⟩
def OPT_STATUS_permit (n : Nat) : Fld := ⟨0x4020000C + n * 0x1000, 5, 1⟩
def OPT_STATUS_duty_clamped (n : Nat) : Fld := ⟨0x4020000C + n * 0x1000, 6, 1⟩
def OPT_STATUS_duty_invalid (n : Nat) : Fld := ⟨0x4020000C + n * 0x1000, 7, 1⟩
def OPT_STATUS_mode_refused (n : Nat) : Fld := ⟨0x4020000C + n * 0x1000, 8, 1⟩
def OPT_STATUS_rearm_refused (n : Nat) : Fld := ⟨0x4020000C + n * 0x1000, 9, 1⟩
def OPT_STATUS_override (n : Nat) : Fld := ⟨0x4020000C + n * 0x1000, 10, 1⟩
def OPT_STATUS_pp_fault (n : Nat) : Fld := ⟨0x4020000C + n * 0x1000, 11, 1⟩
def OPT_STATUS_temp_fault (n : Nat) : Fld := ⟨0x4020000C + n * 0x1000, 12, 1⟩
def OPT_STATUS_lock_fault (n : Nat) : Fld := ⟨0x4020000C + n * 0x1000, 13, 1⟩
def OPT_STATUS_link_up (n : Nat) : Fld := ⟨0x4020000C + n * 0x1000, 14, 1⟩
def OPT_STATUS_diode_fault (n : Nat) : Fld := ⟨0x4020000C + n * 0x1000, 15, 1⟩
def OPT_STATUS_flock (n : Nat) : Fld := ⟨0x4020000C + n * 0x1000, 16, 3⟩
def OPT_CFG_vent_ok (n : Nat) : Fld := ⟨0x40200100 + n * 0x1000, 0, 1⟩
def OPT_CFG_pp_mode (n : Nat) : Fld := ⟨0x40200100 + n * 0x1000, 1, 2⟩
def OPT_CFG_temp_type (n : Nat) : Fld := ⟨0x40200100 + n * 0x1000, 3, 2⟩
def OPT_CFG_lock_req (n : Nat) : Fld := ⟨0x40200100 + n * 0x1000, 5, 1⟩
def OPT_CFG_lock_pol (n : Nat) : Fld := ⟨0x40200100 + n * 0x1000, 6, 1⟩
def OPT_CFG_drop_f (n : Nat) : Fld := ⟨0x40200100 + n * 0x1000, 7, 1⟩
def OPT_CFG_comm (n : Nat) : Fld := ⟨0x40200100 + n * 0x1000, 8, 2⟩
def OPT_CFG_cont_ch0 (n : Nat) : Fld := ⟨0x40200100 + n * 0x1000, 10, 6⟩
def OPT_CFG_cont0_v (n : Nat) : Fld := ⟨0x40200100 + n * 0x1000, 16, 1⟩
def OPT_CFG_cont_ch1 (n : Nat) : Fld := ⟨0x40200100 + n * 0x1000, 17, 6⟩
def OPT_CFG_cont1_v (n : Nat) : Fld := ⟨0x40200100 + n * 0x1000, 23, 1⟩
def OPT_PWM_duty (n : Nat) : Fld := ⟨0x40200104 + n * 0x1000, 0, 11⟩
def OPT_PWM_phase (n : Nat) : Fld := ⟨0x40200104 + n * 0x1000, 16, 3⟩
def OPT_PWM_APPLIED_duty (n : Nat) : Fld := ⟨0x40200108 + n * 0x1000, 0, 11⟩
def OPT_LIM_soft (n : Nat) : Fld := ⟨0x4020010C + n * 0x1000, 0, 11⟩
def OPT_LIM_seal (n : Nat) : Fld := ⟨0x4020010C + n * 0x1000, 16, 11⟩
def OPT_LIM2_cable (n : Nat) : Fld := ⟨0x40200110 + n * 0x1000, 0, 11⟩
def OPT_LIM2_ilim (n : Nat) : Fld := ⟨0x40200110 + n * 0x1000, 16, 11⟩
def OPT_CP_vh (n : Nat) : Fld := ⟨0x40200114 + n * 0x1000, 0, 16⟩
def OPT_CP_vl (n : Nat) : Fld := ⟨0x40200114 + n * 0x1000, 16, 16⟩
def OPT_PP_r_ohm (n : Nat) : Fld := ⟨0x40200118 + n * 0x1000, 0, 16⟩
def OPT_TEMP_t (n : Nat) : Fld := ⟨0x4020011C + n * 0x1000, 0, 16⟩
def OPT_TEMP_LIM_trip (n : Nat) : Fld := ⟨0x40200120 + n * 0x1000, 0, 16⟩
def OPT_LOCK_locked (n : Nat) : Fld := ⟨0x40200124 + n * 0x1000, 0, 1⟩
def OPT_DROP_cause (n : Nat) : Fld := ⟨0x40200128 + n * 0x1000, 0, 11⟩
def OPT_CMD_drop (n : Nat) : Fld := ⟨0x4020012C + n * 0x1000, 0, 1⟩
def OPT_CMD_rearm (n : Nat) : Fld := ⟨0x4020012C + n * 0x1000, 1, 1⟩
def OPT_DROP_STRIDE_LO_stride (n : Nat) : Fld := ⟨0x40200130 + n * 0x1000, 0, 32⟩
def OPT_DROP_STRIDE_HI_stride (n : Nat) : Fld := ⟨0x40200134 + n * 0x1000, 0, 32⟩
def OPT_COMM_plca_id (n : Nat) : Fld := ⟨0x40200140 + n * 0x1000, 0, 8⟩
def OPT_COMM_plca_count (n : Nat) : Fld := ⟨0x40200140 + n * 0x1000, 8, 8⟩
def OPT_COMM_plca_en (n : Nat) : Fld := ⟨0x40200140 + n * 0x1000, 16, 1⟩
def OPT_COMM_gp_cco (n : Nat) : Fld := ⟨0x40200140 + n * 0x1000, 17, 1⟩
def OPT_COMM_tx_att (n : Nat) : Fld := ⟨0x40200140 + n * 0x1000, 18, 6⟩
def OPT_NMK_nmk (n : Nat) (k : Nat) : Fld := ⟨0x40200144 + n * 0x1000 + k * 4, 0, 32⟩
def OPT_RX_BASE_addr (n : Nat) : Fld := ⟨0x40200160 + n * 0x1000, 0, 32⟩
def OPT_RING_SIZE_rx (n : Nat) : Fld := ⟨0x40200164 + n * 0x1000, 0, 4⟩
def OPT_RING_SIZE_tx (n : Nat) : Fld := ⟨0x40200164 + n * 0x1000, 4, 4⟩
def OPT_RX_HEAD_idx (n : Nat) : Fld := ⟨0x40200168 + n * 0x1000, 0, 10⟩
def OPT_RX_TAIL_idx (n : Nat) : Fld := ⟨0x4020016C + n * 0x1000, 0, 10⟩
def OPT_TX_BASE_addr (n : Nat) : Fld := ⟨0x40200170 + n * 0x1000, 0, 32⟩
def OPT_TX_HEAD_idx (n : Nat) : Fld := ⟨0x40200174 + n * 0x1000, 0, 10⟩
def OPT_TX_TAIL_idx (n : Nat) : Fld := ⟨0x40200178 + n * 0x1000, 0, 10⟩
def OPT_RX_DROP_count (n : Nat) : Fld := ⟨0x4020017C + n * 0x1000, 0, 32⟩
def OPT_ATTEN_atten (n : Nat) (k : Nat) : Fld := ⟨0x40200190 + n * 0x1000 + k * 4, 0, 32⟩

/-! Fields of CAN. -/

def CAN_CAP (n : Nat) : Fld := ⟨0x40240004 + n * 0x1000, 0, 32⟩
def CAN_CTRL (n : Nat) : Fld := ⟨0x40240008 + n * 0x1000, 0, 32⟩
def CAN_STATUS (n : Nat) : Fld := ⟨0x4024000C + n * 0x1000, 0, 32⟩
def CAN_NBT (n : Nat) : Fld := ⟨0x40240100 + n * 0x1000, 0, 32⟩
def CAN_DBT (n : Nat) : Fld := ⟨0x40240104 + n * 0x1000, 0, 32⟩
def CAN_TX_REQ (n : Nat) : Fld := ⟨0x40240108 + n * 0x1000, 0, 32⟩
def CAN_TX_PEND (n : Nat) : Fld := ⟨0x4024010C + n * 0x1000, 0, 32⟩
def CAN_TX_CANCEL (n : Nat) : Fld := ⟨0x40240110 + n * 0x1000, 0, 32⟩
def CAN_TX_DONE (n : Nat) : Fld := ⟨0x40240114 + n * 0x1000, 0, 32⟩
def CAN_TT_MASK (n : Nat) : Fld := ⟨0x40240118 + n * 0x1000, 0, 32⟩
def CAN_STOP_CFG (n : Nat) : Fld := ⟨0x4024011C + n * 0x1000, 0, 32⟩
def CAN_STOP_PORTS (n : Nat) : Fld := ⟨0x40240120 + n * 0x1000, 0, 32⟩
def CAN_RX_COUNT (n : Nat) : Fld := ⟨0x40240124 + n * 0x1000, 0, 32⟩
def CAN_RX_POP (n : Nat) : Fld := ⟨0x40240128 + n * 0x1000, 0, 32⟩
def CAN_RX_LOST (n : Nat) : Fld := ⟨0x4024012C + n * 0x1000, 0, 32⟩
def CAN_TRIG_NS (n : Nat) : Fld := ⟨0x40240130 + n * 0x1000, 0, 32⟩
def CAN_TRIG_SEC (n : Nat) : Fld := ⟨0x40240134 + n * 0x1000, 0, 32⟩
def CAN_FILT_ID (n : Nat) (k : Nat) : Fld := ⟨0x40240140 + n * 0x1000 + k * 8, 0, 32⟩
def CAN_FILT_MASK (n : Nat) (k : Nat) : Fld := ⟨0x40240144 + n * 0x1000 + k * 8, 0, 32⟩
def CAN_CAP_n_tx (n : Nat) : Fld := ⟨0x40240004 + n * 0x1000, 0, 6⟩
def CAN_CAP_n_filt (n : Nat) : Fld := ⟨0x40240004 + n * 0x1000, 8, 6⟩
def CAN_CAP_rx_depth (n : Nat) : Fld := ⟨0x40240004 + n * 0x1000, 16, 7⟩
def CAN_CTRL_en (n : Nat) : Fld := ⟨0x40240008 + n * 0x1000, 0, 1⟩
def CAN_CTRL_fd_en (n : Nat) : Fld := ⟨0x40240008 + n * 0x1000, 1, 1⟩
def CAN_CTRL_brs_en (n : Nat) : Fld := ⟨0x40240008 + n * 0x1000, 2, 1⟩
def CAN_CTRL_listen (n : Nat) : Fld := ⟨0x40240008 + n * 0x1000, 3, 1⟩
def CAN_CTRL_auto_recover (n : Nat) : Fld := ⟨0x40240008 + n * 0x1000, 4, 1⟩
def CAN_CTRL_tdc_en (n : Nat) : Fld := ⟨0x40240008 + n * 0x1000, 5, 1⟩
def CAN_STATUS_state (n : Nat) : Fld := ⟨0x4024000C + n * 0x1000, 0, 2⟩
def CAN_STATUS_wr_pending (n : Nat) : Fld := ⟨0x4024000C + n * 0x1000, 2, 1⟩
def CAN_STATUS_tec (n : Nat) : Fld := ⟨0x4024000C + n * 0x1000, 8, 8⟩
def CAN_STATUS_rec (n : Nat) : Fld := ⟨0x4024000C + n * 0x1000, 16, 8⟩
def CAN_NBT_presc (n : Nat) : Fld := ⟨0x40240100 + n * 0x1000, 0, 5⟩
def CAN_NBT_tseg1 (n : Nat) : Fld := ⟨0x40240100 + n * 0x1000, 5, 8⟩
def CAN_NBT_tseg2 (n : Nat) : Fld := ⟨0x40240100 + n * 0x1000, 13, 7⟩
def CAN_NBT_sjw (n : Nat) : Fld := ⟨0x40240100 + n * 0x1000, 20, 7⟩
def CAN_DBT_presc (n : Nat) : Fld := ⟨0x40240104 + n * 0x1000, 0, 5⟩
def CAN_DBT_tseg1 (n : Nat) : Fld := ⟨0x40240104 + n * 0x1000, 5, 5⟩
def CAN_DBT_tseg2 (n : Nat) : Fld := ⟨0x40240104 + n * 0x1000, 10, 4⟩
def CAN_DBT_sjw (n : Nat) : Fld := ⟨0x40240104 + n * 0x1000, 14, 4⟩
def CAN_DBT_tdc_ofs (n : Nat) : Fld := ⟨0x40240104 + n * 0x1000, 18, 7⟩
def CAN_TX_REQ_req (n : Nat) : Fld := ⟨0x40240108 + n * 0x1000, 0, 32⟩
def CAN_TX_PEND_pend (n : Nat) : Fld := ⟨0x4024010C + n * 0x1000, 0, 32⟩
def CAN_TX_CANCEL_cancel (n : Nat) : Fld := ⟨0x40240110 + n * 0x1000, 0, 32⟩
def CAN_TX_DONE_done (n : Nat) : Fld := ⟨0x40240114 + n * 0x1000, 0, 32⟩
def CAN_TT_MASK_mask (n : Nat) : Fld := ⟨0x40240118 + n * 0x1000, 0, 32⟩
def CAN_STOP_CFG_buf (n : Nat) : Fld := ⟨0x4024011C + n * 0x1000, 0, 5⟩
def CAN_STOP_CFG_en (n : Nat) : Fld := ⟨0x4024011C + n * 0x1000, 5, 1⟩
def CAN_STOP_PORTS_ports (n : Nat) : Fld := ⟨0x40240120 + n * 0x1000, 0, 32⟩
def CAN_RX_COUNT_count (n : Nat) : Fld := ⟨0x40240124 + n * 0x1000, 0, 7⟩
def CAN_RX_POP_pop (n : Nat) : Fld := ⟨0x40240128 + n * 0x1000, 0, 1⟩
def CAN_RX_LOST_count (n : Nat) : Fld := ⟨0x4024012C + n * 0x1000, 0, 32⟩
def CAN_TRIG_NS_ns (n : Nat) : Fld := ⟨0x40240130 + n * 0x1000, 0, 30⟩
def CAN_TRIG_SEC_sec (n : Nat) : Fld := ⟨0x40240134 + n * 0x1000, 0, 16⟩
def CAN_FILT_ID_id (n : Nat) (k : Nat) : Fld := ⟨0x40240140 + n * 0x1000 + k * 8, 0, 29⟩
def CAN_FILT_ID_ide (n : Nat) (k : Nat) : Fld := ⟨0x40240140 + n * 0x1000 + k * 8, 29, 1⟩
def CAN_FILT_ID_en (n : Nat) (k : Nat) : Fld := ⟨0x40240140 + n * 0x1000 + k * 8, 31, 1⟩
def CAN_FILT_MASK_mask (n : Nat) (k : Nat) : Fld := ⟨0x40240144 + n * 0x1000 + k * 8, 0, 29⟩

/-! Fields of LSG. -/

def LSW_GCAP : Fld := ⟨0x40300004, 0, 32⟩
def LSW_GCTRL : Fld := ⟨0x40300008, 0, 32⟩
def LSW_GSTATUS : Fld := ⟨0x4030000C, 0, 32⟩
def LSW_BRIDLE_CAUSE : Fld := ⟨0x40300100, 0, 32⟩
def LSW_BRIDLE_IN : Fld := ⟨0x40300104, 0, 32⟩
def LSW_BSTATE_LO : Fld := ⟨0x40300108, 0, 32⟩
def LSW_BSTATE_HI : Fld := ⟨0x4030010C, 0, 32⟩
def LSW_TAKE : Fld := ⟨0x40300110, 0, 32⟩
def LSW_TAKE_ST : Fld := ⟨0x40300114, 0, 32⟩
def LSW_TAKE_DIFF_LO : Fld := ⟨0x40300118, 0, 32⟩
def LSW_TAKE_DIFF_HI : Fld := ⟨0x4030011C, 0, 32⟩
def LSW_BMAP_STG (k : Nat) : Fld := ⟨0x40300120 + k * 4, 0, 32⟩
def LSW_BMAP_ACT (k : Nat) : Fld := ⟨0x40300160 + k * 4, 0, 32⟩
def LSW_BMAP_CMD : Fld := ⟨0x403001A0, 0, 32⟩
def LSW_BMAP_ST : Fld := ⟨0x403001A4, 0, 32⟩
def LSW_BMAP_CRC : Fld := ⟨0x403001A8, 0, 32⟩
def LSW_BMAP_WR : Fld := ⟨0x403001AC, 0, 32⟩
def LSW_MON : Fld := ⟨0x403001B0, 0, 32⟩
def LSW_DRIVE_IN : Fld := ⟨0x403001B4, 0, 32⟩
def LSW_LIMITS : Fld := ⟨0x403001B8, 0, 32⟩
def LSW_MOD_I : Fld := ⟨0x403001BC, 0, 32⟩
def LSW_BANK (k : Nat) : Fld := ⟨0x403001C0 + k * 4, 0, 32⟩
def LSW_BANK_V (k : Nat) : Fld := ⟨0x403001E0 + k * 4, 0, 32⟩
def LSW_VSLOT_RES (k : Nat) : Fld := ⟨0x40300200 + k * 4, 0, 32⟩
def LSW_GCAP_n_ch : Fld := ⟨0x40300004, 0, 7⟩
def LSW_GCAP_n_bank : Fld := ⟨0x40300004, 8, 4⟩
def LSW_GCTRL_mode : Fld := ⟨0x40300008, 0, 2⟩
def LSW_GSTATUS_bridle : Fld := ⟨0x4030000C, 0, 1⟩
def LSW_GSTATUS_req : Fld := ⟨0x4030000C, 1, 1⟩
def LSW_GSTATUS_wd_both : Fld := ⟨0x4030000C, 2, 1⟩
def LSW_GSTATUS_map_fault : Fld := ⟨0x4030000C, 3, 1⟩
def LSW_GSTATUS_coil_map_fault : Fld := ⟨0x4030000C, 4, 1⟩
def LSW_GSTATUS_link0_ok : Fld := ⟨0x4030000C, 5, 1⟩
def LSW_GSTATUS_link1_ok : Fld := ⟨0x4030000C, 6, 1⟩
def LSW_GSTATUS_module_over : Fld := ⟨0x4030000C, 7, 1⟩
def LSW_GSTATUS_mode_refused : Fld := ⟨0x4030000C, 8, 1⟩
def LSW_BRIDLE_CAUSE_die0 : Fld := ⟨0x40300100, 0, 4⟩
def LSW_BRIDLE_CAUSE_die1 : Fld := ⟨0x40300100, 8, 4⟩
def LSW_BRIDLE_IN_in : Fld := ⟨0x40300104, 0, 8⟩
def LSW_BRIDLE_IN_req_low : Fld := ⟨0x40300104, 8, 1⟩
def LSW_BSTATE_LO_on : Fld := ⟨0x40300108, 0, 32⟩
def LSW_BSTATE_HI_on : Fld := ⟨0x4030010C, 0, 32⟩
def LSW_TAKE_take : Fld := ⟨0x40300110, 0, 1⟩
def LSW_TAKE_ST_state : Fld := ⟨0x40300114, 0, 2⟩
def LSW_TAKE_ST_reason : Fld := ⟨0x40300114, 4, 4⟩
def LSW_TAKE_DIFF_LO_diff : Fld := ⟨0x40300118, 0, 32⟩
def LSW_TAKE_DIFF_HI_diff : Fld := ⟨0x4030011C, 0, 32⟩
def LSW_BMAP_STG_entries (k : Nat) : Fld := ⟨0x40300120 + k * 4, 0, 32⟩
def LSW_BMAP_ACT_entries (k : Nat) : Fld := ⟨0x40300160 + k * 4, 0, 32⟩
def LSW_BMAP_CMD_commit : Fld := ⟨0x403001A0, 0, 1⟩
def LSW_BMAP_ST_state : Fld := ⟨0x403001A4, 0, 2⟩
def LSW_BMAP_ST_error : Fld := ⟨0x403001A4, 4, 4⟩
def LSW_BMAP_CRC_crc : Fld := ⟨0x403001A8, 0, 32⟩
def LSW_BMAP_WR_count : Fld := ⟨0x403001AC, 0, 32⟩
def LSW_MON_ch : Fld := ⟨0x403001B0, 0, 6⟩
def LSW_MON_en : Fld := ⟨0x403001B0, 8, 1⟩
def LSW_DRIVE_IN_pins : Fld := ⟨0x403001B4, 0, 16⟩
def LSW_LIMITS_bank_lim : Fld := ⟨0x403001B8, 0, 7⟩
def LSW_LIMITS_mod_lim : Fld := ⟨0x403001B8, 16, 9⟩
def LSW_MOD_I_i : Fld := ⟨0x403001BC, 0, 16⟩
def LSW_BANK_i (k : Nat) : Fld := ⟨0x403001C0 + k * 4, 0, 16⟩
def LSW_BANK_rev (k : Nat) : Fld := ⟨0x403001C0 + k * 4, 16, 1⟩
def LSW_BANK_uv (k : Nat) : Fld := ⟨0x403001C0 + k * 4, 17, 1⟩
def LSW_BANK_over (k : Nat) : Fld := ⟨0x403001C0 + k * 4, 18, 1⟩
def LSW_BANK_V_mv (k : Nat) : Fld := ⟨0x403001E0 + k * 4, 0, 16⟩
def LSW_VSLOT_RES_v (k : Nat) : Fld := ⟨0x40300200 + k * 4, 0, 12⟩
def LSW_VSLOT_RES_ch (k : Nat) : Fld := ⟨0x40300200 + k * 4, 16, 6⟩
def LSW_VSLOT_RES_valid (k : Nat) : Fld := ⟨0x40300200 + k * 4, 24, 1⟩

/-! Fields of LSW. -/

def LSW_CAP (n : Nat) : Fld := ⟨0x40310004 + n * 0x1000, 0, 32⟩
def LSW_CTRL (n : Nat) : Fld := ⟨0x40310008 + n * 0x1000, 0, 32⟩
def LSW_STATUS (n : Nat) : Fld := ⟨0x4031000C + n * 0x1000, 0, 32⟩
def LSW_DRIVE (n : Nat) : Fld := ⟨0x40310100 + n * 0x1000, 0, 32⟩
def LSW_LIM (n : Nat) : Fld := ⟨0x40310104 + n * 0x1000, 0, 32⟩
def LSW_RETRY (n : Nat) : Fld := ⟨0x40310108 + n * 0x1000, 0, 32⟩
def LSW_CLAMP (n : Nat) : Fld := ⟨0x4031010C + n * 0x1000, 0, 32⟩
def LSW_OL (n : Nat) : Fld := ⟨0x40310110 + n * 0x1000, 0, 32⟩
def LSW_CFG (n : Nat) : Fld := ⟨0x40310114 + n * 0x1000, 0, 32⟩
def LSW_CMD (n : Nat) : Fld := ⟨0x40310118 + n * 0x1000, 0, 32⟩
def LSW_SENSE (n : Nat) : Fld := ⟨0x4031011C + n * 0x1000, 0, 32⟩
def LSW_BUCKET (n : Nat) : Fld := ⟨0x40310120 + n * 0x1000, 0, 32⟩
def LSW_LAST_E (n : Nat) : Fld := ⟨0x40310124 + n * 0x1000, 0, 32⟩
def LSW_TOFF (n : Nat) : Fld := ⟨0x40310128 + n * 0x1000, 0, 32⟩
def LSW_OC_CNT (n : Nat) : Fld := ⟨0x4031012C + n * 0x1000, 0, 32⟩
def LSW_VSLOT (n : Nat) : Fld := ⟨0x40310130 + n * 0x1000, 0, 32⟩
def LSW_DIAG (n : Nat) : Fld := ⟨0x40310134 + n * 0x1000, 0, 32⟩
def LSW_CAP_bank (n : Nat) : Fld := ⟨0x40310004 + n * 0x1000, 0, 3⟩
def LSW_CAP_die (n : Nat) : Fld := ⟨0x40310004 + n * 0x1000, 8, 1⟩
def LSW_CTRL_src (n : Nat) : Fld := ⟨0x40310008 + n * 0x1000, 0, 2⟩
def LSW_CTRL_pin (n : Nat) : Fld := ⟨0x40310008 + n * 0x1000, 2, 4⟩
def LSW_CTRL_pin_inv (n : Nat) : Fld := ⟨0x40310008 + n * 0x1000, 6, 1⟩
def LSW_CTRL_twin_par (n : Nat) : Fld := ⟨0x40310008 + n * 0x1000, 7, 1⟩
def LSW_STATUS_on (n : Nat) : Fld := ⟨0x4031000C + n * 0x1000, 0, 1⟩
def LSW_STATUS_demand (n : Nat) : Fld := ⟨0x4031000C + n * 0x1000, 1, 1⟩
def LSW_STATUS_forced (n : Nat) : Fld := ⟨0x4031000C + n * 0x1000, 2, 1⟩
def LSW_STATUS_interlock (n : Nat) : Fld := ⟨0x4031000C + n * 0x1000, 3, 1⟩
def LSW_STATUS_oc_fault (n : Nat) : Fld := ⟨0x4031000C + n * 0x1000, 4, 1⟩
def LSW_STATUS_oc_wait (n : Nat) : Fld := ⟨0x4031000C + n * 0x1000, 5, 1⟩
def LSW_STATUS_exhausted (n : Nat) : Fld := ⟨0x4031000C + n * 0x1000, 6, 1⟩
def LSW_STATUS_therm (n : Nat) : Fld := ⟨0x4031000C + n * 0x1000, 7, 1⟩
def LSW_STATUS_clamp_lock (n : Nat) : Fld := ⟨0x4031000C + n * 0x1000, 8, 1⟩
def LSW_STATUS_open_on (n : Nat) : Fld := ⟨0x4031000C + n * 0x1000, 9, 1⟩
def LSW_STATUS_open_off (n : Nat) : Fld := ⟨0x4031000C + n * 0x1000, 10, 1⟩
def LSW_STATUS_stb (n : Nat) : Fld := ⟨0x4031000C + n * 0x1000, 11, 1⟩
def LSW_STATUS_shed_off (n : Nat) : Fld := ⟨0x4031000C + n * 0x1000, 12, 1⟩
def LSW_STATUS_uv_off (n : Nat) : Fld := ⟨0x4031000C + n * 0x1000, 13, 1⟩
def LSW_STATUS_pin_unclaimed (n : Nat) : Fld := ⟨0x4031000C + n * 0x1000, 14, 1⟩
def LSW_STATUS_bridle (n : Nat) : Fld := ⟨0x4031000C + n * 0x1000, 15, 1⟩
def LSW_STATUS_unlock_refused (n : Nat) : Fld := ⟨0x4031000C + n * 0x1000, 16, 1⟩
def LSW_STATUS_diag_refused (n : Nat) : Fld := ⟨0x4031000C + n * 0x1000, 17, 1⟩
def LSW_STATUS_diag_busy (n : Nat) : Fld := ⟨0x4031000C + n * 0x1000, 18, 1⟩
def LSW_STATUS_e_over (n : Nat) : Fld := ⟨0x4031000C + n * 0x1000, 19, 1⟩
def LSW_STATUS_remaining (n : Nat) : Fld := ⟨0x4031000C + n * 0x1000, 20, 4⟩
def LSW_DRIVE_on (n : Nat) : Fld := ⟨0x40310100 + n * 0x1000, 0, 1⟩
def LSW_LIM_ilim (n : Nat) : Fld := ⟨0x40310104 + n * 0x1000, 0, 6⟩
def LSW_LIM_t_lim (n : Nat) : Fld := ⟨0x40310104 + n * 0x1000, 8, 8⟩
def LSW_RETRY_max (n : Nat) : Fld := ⟨0x40310108 + n * 0x1000, 0, 4⟩
def LSW_RETRY_delay (n : Nat) : Fld := ⟨0x40310108 + n * 0x1000, 8, 8⟩
def LSW_CLAMP_budget (n : Nat) : Fld := ⟨0x4031010C + n * 0x1000, 0, 6⟩
def LSW_CLAMP_refill (n : Nat) : Fld := ⟨0x4031010C + n * 0x1000, 16, 9⟩
def LSW_OL_thr (n : Nat) : Fld := ⟨0x40310110 + n * 0x1000, 0, 8⟩
def LSW_OL_filt (n : Nat) : Fld := ⟨0x40310110 + n * 0x1000, 8, 8⟩
def LSW_CFG_flock (n : Nat) : Fld := ⟨0x40310114 + n * 0x1000, 0, 3⟩
def LSW_CFG_flock_v (n : Nat) : Fld := ⟨0x40310114 + n * 0x1000, 3, 1⟩
def LSW_CFG_shed (n : Nat) : Fld := ⟨0x40310114 + n * 0x1000, 4, 1⟩
def LSW_CMD_clear (n : Nat) : Fld := ⟨0x40310118 + n * 0x1000, 0, 1⟩
def LSW_CMD_unlock (n : Nat) : Fld := ⟨0x40310118 + n * 0x1000, 1, 1⟩
def LSW_CMD_diag (n : Nat) : Fld := ⟨0x40310118 + n * 0x1000, 2, 1⟩
def LSW_SENSE_code (n : Nat) : Fld := ⟨0x4031011C + n * 0x1000, 0, 12⟩
def LSW_BUCKET_level (n : Nat) : Fld := ⟨0x40310120 + n * 0x1000, 0, 25⟩
def LSW_LAST_E_e (n : Nat) : Fld := ⟨0x40310124 + n * 0x1000, 0, 24⟩
def LSW_TOFF_count (n : Nat) : Fld := ⟨0x40310128 + n * 0x1000, 0, 32⟩
def LSW_OC_CNT_trips (n : Nat) : Fld := ⟨0x4031012C + n * 0x1000, 0, 16⟩
def LSW_OC_CNT_therm (n : Nat) : Fld := ⟨0x4031012C + n * 0x1000, 16, 16⟩
def LSW_VSLOT_slot (n : Nat) : Fld := ⟨0x40310130 + n * 0x1000, 0, 4⟩
def LSW_VSLOT_en (n : Nat) : Fld := ⟨0x40310130 + n * 0x1000, 8, 1⟩
def LSW_DIAG_result (n : Nat) : Fld := ⟨0x40310134 + n * 0x1000, 0, 2⟩

/-! Fields of SAF. -/

def SAF_CAP : Fld := ⟨0x40400004, 0, 32⟩
def SAF_CTRL : Fld := ⟨0x40400008, 0, 32⟩
def SAF_STATUS : Fld := ⟨0x4040000C, 0, 32⟩
def SAF_WDT : Fld := ⟨0x40400100, 0, 32⟩
def SAF_FLOCK_ST (k : Nat) : Fld := ⟨0x40400110 + k * 4, 0, 32⟩
def SAF_SAFE_OK : Fld := ⟨0x40400150, 0, 32⟩
def SAF_CUT : Fld := ⟨0x40400154, 0, 32⟩
def SAF_CMD : Fld := ⟨0x40400158, 0, 32⟩
def SAF_CMD_ST : Fld := ⟨0x4040015C, 0, 32⟩
def SAF_NET_ST : Fld := ⟨0x40400160, 0, 32⟩
def SAF_RX_CNT (k : Nat) : Fld := ⟨0x40400164 + k * 4, 0, 32⟩
def SAF_PEER_OK : Fld := ⟨0x40400180, 0, 32⟩
def SAF_TX_CMD : Fld := ⟨0x40400184, 0, 32⟩
def SAF_TX_BUF : Fld := ⟨0x40400188, 0, 32⟩
def SAF_TX_DEST : Fld := ⟨0x4040018C, 0, 32⟩
def SAF_WELD : Fld := ⟨0x40400190, 0, 32⟩
def SAF_SEAL_MOD : Fld := ⟨0x40400300, 0, 32⟩
def SAF_SEAL_P (k : Nat) : Fld := ⟨0x40400304 + k * 4, 0, 32⟩
def SAF_SEAL_DIFF : Fld := ⟨0x40400344, 0, 32⟩
def SAF_SPB_ADDR : Fld := ⟨0x40400400, 0, 32⟩
def SAF_SPB_DATA : Fld := ⟨0x40400404, 0, 32⟩
def SAF_SPB_CMD : Fld := ⟨0x40400408, 0, 32⟩
def SAF_SPB_CONF_VAL : Fld := ⟨0x4040040C, 0, 32⟩
def SAF_SPB_MAP_VAL : Fld := ⟨0x40400410, 0, 32⟩
def SAF_SPB_ST : Fld := ⟨0x40400414, 0, 32⟩
def SAF_SPB_CRC_B : Fld := ⟨0x40400418, 0, 32⟩
def SAF_SPB_CRC_A : Fld := ⟨0x4040041C, 0, 32⟩
def SAF_SPB_CONF : Fld := ⟨0x40400420, 0, 32⟩
def SAF_SPB_CONF_MAP : Fld := ⟨0x40400424, 0, 32⟩
def SAF_CAP_n_flock : Fld := ⟨0x40400004, 0, 4⟩
def SAF_CAP_n_port : Fld := ⟨0x40400004, 4, 6⟩
def SAF_CTRL_net_en : Fld := ⟨0x40400008, 0, 1⟩
def SAF_STATUS_spb_confirmed : Fld := ⟨0x4040000C, 0, 1⟩
def SAF_STATUS_seal_valid : Fld := ⟨0x4040000C, 1, 1⟩
def SAF_STATUS_seal_open : Fld := ⟨0x4040000C, 2, 1⟩
def SAF_STATUS_net_single : Fld := ⟨0x4040000C, 3, 1⟩
def SAF_STATUS_crook_ok : Fld := ⟨0x4040000C, 4, 1⟩
def SAF_STATUS_recov_busy : Fld := ⟨0x4040000C, 5, 1⟩
def SAF_STATUS_strap_fault : Fld := ⟨0x4040000C, 6, 1⟩
def SAF_WDT_key : Fld := ⟨0x40400100, 0, 32⟩
def SAF_FLOCK_ST_state (k : Nat) : Fld := ⟨0x40400110 + k * 4, 0, 2⟩
def SAF_FLOCK_ST_cause (k : Nat) : Fld := ⟨0x40400110 + k * 4, 2, 12⟩
def SAF_FLOCK_ST_warn (k : Nat) : Fld := ⟨0x40400110 + k * 4, 14, 1⟩
def SAF_FLOCK_ST_left (k : Nat) : Fld := ⟨0x40400110 + k * 4, 16, 16⟩
def SAF_SAFE_OK_ports : Fld := ⟨0x40400150, 0, 32⟩
def SAF_CUT_cmd_b : Fld := ⟨0x40400154, 0, 8⟩
def SAF_CUT_rb_b : Fld := ⟨0x40400154, 8, 8⟩
def SAF_CUT_rb_a : Fld := ⟨0x40400154, 16, 8⟩
def SAF_CUT_out_fault : Fld := ⟨0x40400154, 24, 8⟩
def SAF_CMD_flocks : Fld := ⟨0x40400158, 0, 8⟩
def SAF_CMD_estops : Fld := ⟨0x40400158, 8, 4⟩
def SAF_CMD_op : Fld := ⟨0x40400158, 12, 3⟩
def SAF_CMD_ST_result : Fld := ⟨0x4040015C, 0, 2⟩
def SAF_CMD_ST_reason : Fld := ⟨0x4040015C, 4, 4⟩
def SAF_NET_ST_left : Fld := ⟨0x40400160, 0, 24⟩
def SAF_RX_CNT_count (k : Nat) : Fld := ⟨0x40400164 + k * 4, 0, 32⟩
def SAF_PEER_OK_heard : Fld := ⟨0x40400180, 0, 32⟩
def SAF_TX_CMD_send : Fld := ⟨0x40400184, 0, 1⟩
def SAF_TX_BUF_word : Fld := ⟨0x40400188, 0, 32⟩
def SAF_TX_DEST_addr : Fld := ⟨0x4040018C, 0, 32⟩
def SAF_WELD_ch : Fld := ⟨0x40400190, 0, 6⟩
def SAF_WELD_en : Fld := ⟨0x40400190, 8, 1⟩
def SAF_SEAL_MOD_word : Fld := ⟨0x40400300, 0, 16⟩
def SAF_SEAL_P_words (k : Nat) : Fld := ⟨0x40400304 + k * 4, 0, 32⟩
def SAF_SEAL_DIFF_ports : Fld := ⟨0x40400344, 0, 32⟩
def SAF_SPB_ADDR_word : Fld := ⟨0x40400400, 0, 8⟩
def SAF_SPB_ADDR_bank : Fld := ⟨0x40400400, 8, 1⟩
def SAF_SPB_DATA_data : Fld := ⟨0x40400404, 0, 32⟩
def SAF_SPB_CMD_commit : Fld := ⟨0x40400408, 0, 1⟩
def SAF_SPB_CMD_confirm : Fld := ⟨0x40400408, 1, 1⟩
def SAF_SPB_CONF_VAL_crc : Fld := ⟨0x4040040C, 0, 32⟩
def SAF_SPB_MAP_VAL_crc : Fld := ⟨0x40400410, 0, 32⟩
def SAF_SPB_ST_state : Fld := ⟨0x40400414, 0, 2⟩
def SAF_SPB_ST_error : Fld := ⟨0x40400414, 4, 4⟩
def SAF_SPB_CRC_B_crc : Fld := ⟨0x40400418, 0, 32⟩
def SAF_SPB_CRC_A_crc : Fld := ⟨0x4040041C, 0, 32⟩
def SAF_SPB_CONF_crc : Fld := ⟨0x40400420, 0, 32⟩
def SAF_SPB_CONF_MAP_crc : Fld := ⟨0x40400424, 0, 32⟩

/-! Fields of CRK. -/

def CRK_STATUS : Fld := ⟨0x4041000C, 0, 32⟩
def CRK_CUT_A : Fld := ⟨0x40410100, 0, 32⟩
def CRK_RCM_TRIP : Fld := ⟨0x40410104, 0, 32⟩
def CRK_RCM_LVL : Fld := ⟨0x40410108, 0, 32⟩
def CRK_ES : Fld := ⟨0x4041010C, 0, 32⟩
def CRK_LINK_ERR : Fld := ⟨0x40410110, 0, 32⟩
def CRK_DISAGREE : Fld := ⟨0x40410114, 0, 32⟩
def CRK_STATUS_link_ok : Fld := ⟨0x4041000C, 0, 1⟩
def CRK_STATUS_spb_ok : Fld := ⟨0x4041000C, 1, 1⟩
def CRK_STATUS_strap_ok : Fld := ⟨0x4041000C, 2, 1⟩
def CRK_CUT_A_asserted : Fld := ⟨0x40410100, 0, 8⟩
def CRK_CUT_A_own : Fld := ⟨0x40410100, 8, 8⟩
def CRK_RCM_TRIP_ports : Fld := ⟨0x40410104, 0, 32⟩
def CRK_RCM_LVL_ports : Fld := ⟨0x40410108, 0, 32⟩
def CRK_ES_a : Fld := ⟨0x4041010C, 0, 4⟩
def CRK_ES_b : Fld := ⟨0x4041010C, 4, 4⟩
def CRK_ES_disc : Fld := ⟨0x4041010C, 8, 4⟩
def CRK_ES_short : Fld := ⟨0x4041010C, 12, 4⟩
def CRK_LINK_ERR_crc : Fld := ⟨0x40410110, 0, 16⟩
def CRK_LINK_ERR_lost : Fld := ⟨0x40410110, 16, 16⟩
def CRK_DISAGREE_ports : Fld := ⟨0x40410114, 0, 32⟩

/-! Fields of RCM. -/

def RCM_STATUS (n : Nat) : Fld := ⟨0x4042000C + n * 0x1000, 0, 32⟩
def RCM_SMP (n : Nat) : Fld := ⟨0x40420100 + n * 0x1000, 0, 32⟩
def RCM_IDC (n : Nat) : Fld := ⟨0x40420104 + n * 0x1000, 0, 32⟩
def RCM_IAC (n : Nat) : Fld := ⟨0x40420108 + n * 0x1000, 0, 32⟩
def RCM_TEST (n : Nat) : Fld := ⟨0x4042010C + n * 0x1000, 0, 32⟩
def RCM_TRIPS (n : Nat) : Fld := ⟨0x40420110 + n * 0x1000, 0, 32⟩
def RCM_STATUS_trip (n : Nat) : Fld := ⟨0x4042000C + n * 0x1000, 0, 6⟩
def RCM_STATUS_level (n : Nat) : Fld := ⟨0x4042000C + n * 0x1000, 8, 6⟩
def RCM_STATUS_sensor_fault (n : Nat) : Fld := ⟨0x4042000C + n * 0x1000, 16, 1⟩
def RCM_STATUS_test (n : Nat) : Fld := ⟨0x4042000C + n * 0x1000, 17, 2⟩
def RCM_SMP_ua (n : Nat) : Fld := ⟨0x40420100 + n * 0x1000, 0, 32⟩
def RCM_IDC_ua (n : Nat) : Fld := ⟨0x40420104 + n * 0x1000, 0, 32⟩
def RCM_IAC_ua (n : Nat) : Fld := ⟨0x40420108 + n * 0x1000, 0, 32⟩
def RCM_TEST_start (n : Nat) : Fld := ⟨0x4042010C + n * 0x1000, 0, 1⟩
def RCM_TRIPS_count (n : Nat) : Fld := ⟨0x40420110 + n * 0x1000, 0, 32⟩

/-! Fields of IMD. -/

def IMD_STATUS (n : Nat) : Fld := ⟨0x4044000C + n * 0x1000, 0, 32⟩
def IMD_RISO (n : Nat) : Fld := ⟨0x40440100 + n * 0x1000, 0, 32⟩
def IMD_UM_POS (n : Nat) : Fld := ⟨0x40440104 + n * 0x1000, 0, 32⟩
def IMD_UM_NEG (n : Nat) : Fld := ⟨0x40440108 + n * 0x1000, 0, 32⟩
def IMD_HALF (n : Nat) : Fld := ⟨0x4044010C + n * 0x1000, 0, 32⟩
def IMD_STATUS_enabled (n : Nat) : Fld := ⟨0x4044000C + n * 0x1000, 0, 1⟩
def IMD_STATUS_alarm (n : Nat) : Fld := ⟨0x4044000C + n * 0x1000, 1, 1⟩
def IMD_STATUS_trip (n : Nat) : Fld := ⟨0x4044000C + n * 0x1000, 2, 1⟩
def IMD_STATUS_fault (n : Nat) : Fld := ⟨0x4044000C + n * 0x1000, 3, 1⟩
def IMD_STATUS_over (n : Nat) : Fld := ⟨0x4044000C + n * 0x1000, 4, 1⟩
def IMD_RISO_kohm (n : Nat) : Fld := ⟨0x40440100 + n * 0x1000, 0, 32⟩
def IMD_UM_POS_uv (n : Nat) : Fld := ⟨0x40440104 + n * 0x1000, 0, 32⟩
def IMD_UM_NEG_uv (n : Nat) : Fld := ⟨0x40440108 + n * 0x1000, 0, 32⟩
def IMD_HALF_ms (n : Nat) : Fld := ⟨0x4044010C + n * 0x1000, 0, 16⟩

/-! Fields of NET. -/

def NET_CAP : Fld := ⟨0x40500004, 0, 32⟩
def NET_CTRL : Fld := ⟨0x40500008, 0, 32⟩
def NET_STATUS : Fld := ⟨0x4050000C, 0, 32⟩
def NET_RING_CFG (k : Nat) : Fld := ⟨0x40500100 + k * 4, 0, 32⟩
def NET_RING_LEN (k : Nat) : Fld := ⟨0x40500120 + k * 4, 0, 32⟩
def NET_RX_HEAD (k : Nat) : Fld := ⟨0x40500140 + k * 16, 0, 32⟩
def NET_RX_TAIL (k : Nat) : Fld := ⟨0x40500144 + k * 16, 0, 32⟩
def NET_TX_HEAD (k : Nat) : Fld := ⟨0x40500148 + k * 16, 0, 32⟩
def NET_TX_TAIL (k : Nat) : Fld := ⟨0x4050014C + k * 16, 0, 32⟩
def NET_DEF_RING : Fld := ⟨0x405001C0, 0, 32⟩
def NET_RULE_MATCH (k : Nat) : Fld := ⟨0x40500200 + k * 8, 0, 32⟩
def NET_RULE_ACT (k : Nat) : Fld := ⟨0x40500204 + k * 8, 0, 32⟩
def NET_VLAN_CFG : Fld := ⟨0x40500280, 0, 32⟩
def NET_VLAN (k : Nat) : Fld := ⟨0x40500300 + k * 4, 0, 32⟩
def NET_STR_CFG (k : Nat) : Fld := ⟨0x40500400 + k * 64, 0, 32⟩
def NET_STR_DST_LO (k : Nat) : Fld := ⟨0x40500404 + k * 64, 0, 32⟩
def NET_STR_DST_HI (k : Nat) : Fld := ⟨0x40500408 + k * 64, 0, 32⟩
def NET_STR_MASK0 (k : Nat) : Fld := ⟨0x4050040C + k * 4, 0, 32⟩
def NET_STR_MASK1 (k : Nat) : Fld := ⟨0x4050044C + k * 4, 0, 32⟩
def NET_STR_ST (k : Nat) : Fld := ⟨0x40500424 + k * 64, 0, 32⟩
def NET_STR_SEQ (k : Nat) : Fld := ⟨0x40500428 + k * 64, 0, 32⟩
def NET_STR_DROP (k : Nat) : Fld := ⟨0x4050042C + k * 64, 0, 32⟩
def NET_STR_RATE (k : Nat) : Fld := ⟨0x40500430 + k * 64, 0, 32⟩
def NET_CAP_n_ports : Fld := ⟨0x40500004, 0, 2⟩
def NET_CTRL_en : Fld := ⟨0x40500008, 0, 1⟩
def NET_STATUS_link_up : Fld := ⟨0x4050000C, 0, 2⟩
def NET_STATUS_str_run : Fld := ⟨0x4050000C, 2, 2⟩
def NET_STATUS_str_susp : Fld := ⟨0x4050000C, 4, 2⟩
def NET_RING_CFG_plane (k : Nat) : Fld := ⟨0x40500100 + k * 4, 0, 2⟩
def NET_RING_CFG_rx_log2 (k : Nat) : Fld := ⟨0x40500100 + k * 4, 4, 4⟩
def NET_RING_CFG_tx_log2 (k : Nat) : Fld := ⟨0x40500100 + k * 4, 8, 4⟩
def NET_RING_CFG_base (k : Nat) : Fld := ⟨0x40500100 + k * 4, 16, 16⟩
def NET_RING_LEN_len (k : Nat) : Fld := ⟨0x40500120 + k * 4, 0, 12⟩
def NET_RX_HEAD_idx (k : Nat) : Fld := ⟨0x40500140 + k * 16, 0, 10⟩
def NET_RX_TAIL_idx (k : Nat) : Fld := ⟨0x40500144 + k * 16, 0, 10⟩
def NET_TX_HEAD_idx (k : Nat) : Fld := ⟨0x40500148 + k * 16, 0, 10⟩
def NET_TX_TAIL_idx (k : Nat) : Fld := ⟨0x4050014C + k * 16, 0, 10⟩
def NET_DEF_RING_ring : Fld := ⟨0x405001C0, 0, 3⟩
def NET_RULE_MATCH_etype (k : Nat) : Fld := ⟨0x40500200 + k * 8, 0, 16⟩
def NET_RULE_MATCH_vid (k : Nat) : Fld := ⟨0x40500200 + k * 8, 16, 12⟩
def NET_RULE_MATCH_etype_any (k : Nat) : Fld := ⟨0x40500200 + k * 8, 28, 1⟩
def NET_RULE_MATCH_vid_any (k : Nat) : Fld := ⟨0x40500200 + k * 8, 29, 1⟩
def NET_RULE_MATCH_dst (k : Nat) : Fld := ⟨0x40500200 + k * 8, 30, 2⟩
def NET_RULE_ACT_udp (k : Nat) : Fld := ⟨0x40500204 + k * 8, 0, 16⟩
def NET_RULE_ACT_udp_any (k : Nat) : Fld := ⟨0x40500204 + k * 8, 16, 1⟩
def NET_RULE_ACT_ring (k : Nat) : Fld := ⟨0x40500204 + k * 8, 17, 3⟩
def NET_RULE_ACT_en (k : Nat) : Fld := ⟨0x40500204 + k * 8, 31, 1⟩
def NET_VLAN_CFG_untagged : Fld := ⟨0x40500280, 0, 1⟩
def NET_VLAN_CFG_filter_en : Fld := ⟨0x40500280, 1, 1⟩
def NET_VLAN_vid (k : Nat) : Fld := ⟨0x40500300 + k * 4, 0, 12⟩
def NET_VLAN_valid (k : Nat) : Fld := ⟨0x40500300 + k * 4, 31, 1⟩
def NET_STR_CFG_en (k : Nat) : Fld := ⟨0x40500400 + k * 64, 0, 1⟩
def NET_STR_CFG_port (k : Nat) : Fld := ⟨0x40500400 + k * 64, 1, 1⟩
def NET_STR_CFG_queue (k : Nat) : Fld := ⟨0x40500400 + k * 64, 2, 3⟩
def NET_STR_CFG_pcp (k : Nat) : Fld := ⟨0x40500400 + k * 64, 5, 3⟩
def NET_STR_CFG_vid (k : Nat) : Fld := ⟨0x40500400 + k * 64, 8, 12⟩
def NET_STR_CFG_k (k : Nat) : Fld := ⟨0x40500400 + k * 64, 20, 4⟩
def NET_STR_CFG_src (k : Nat) : Fld := ⟨0x40500400 + k * 64, 24, 1⟩
def NET_STR_CFG_tagged (k : Nat) : Fld := ⟨0x40500400 + k * 64, 25, 1⟩
def NET_STR_DST_LO_mac (k : Nat) : Fld := ⟨0x40500404 + k * 64, 0, 32⟩
def NET_STR_DST_HI_mac (k : Nat) : Fld := ⟨0x40500408 + k * 64, 0, 16⟩
def NET_STR_MASK0_mask (k : Nat) : Fld := ⟨0x4050040C + k * 4, 0, 32⟩
def NET_STR_MASK1_mask (k : Nat) : Fld := ⟨0x4050044C + k * 4, 0, 32⟩
def NET_STR_ST_running (k : Nat) : Fld := ⟨0x40500424 + k * 64, 0, 1⟩
def NET_STR_ST_suspended (k : Nat) : Fld := ⟨0x40500424 + k * 64, 1, 1⟩
def NET_STR_ST_refused (k : Nat) : Fld := ⟨0x40500424 + k * 64, 2, 1⟩
def NET_STR_ST_wrote_running (k : Nat) : Fld := ⟨0x40500424 + k * 64, 3, 1⟩
def NET_STR_SEQ_seq (k : Nat) : Fld := ⟨0x40500428 + k * 64, 0, 32⟩
def NET_STR_DROP_count (k : Nat) : Fld := ⟨0x4050042C + k * 64, 0, 32⟩
def NET_STR_RATE_mbps (k : Nat) : Fld := ⟨0x40500430 + k * 64, 0, 16⟩

/-! Fields of NTP. -/

def NET_PCAP (n : Nat) : Fld := ⟨0x40501004 + n * 0x1000, 0, 32⟩
def NET_PCTRL (n : Nat) : Fld := ⟨0x40501008 + n * 0x1000, 0, 32⟩
def NET_PSTATUS (n : Nat) : Fld := ⟨0x4050100C + n * 0x1000, 0, 32⟩
def NET_MAC_LO (n : Nat) : Fld := ⟨0x40501100 + n * 0x1000, 0, 32⟩
def NET_MAC_HI (n : Nat) : Fld := ⟨0x40501104 + n * 0x1000, 0, 32⟩
def NET_MAX_LEN (n : Nat) : Fld := ⟨0x40501108 + n * 0x1000, 0, 32⟩
def NET_QRATE (n : Nat) (k : Nat) : Fld := ⟨0x40501110 + n * 0x1000 + k * 4, 0, 32⟩
def NET_RX_FRAMES (n : Nat) : Fld := ⟨0x40501130 + n * 0x1000, 0, 32⟩
def NET_RX_CRC_ERR (n : Nat) : Fld := ⟨0x40501134 + n * 0x1000, 0, 32⟩
def NET_RX_DROP_RING (n : Nat) : Fld := ⟨0x40501138 + n * 0x1000, 0, 32⟩
def NET_RX_DROP_FIFO (n : Nat) : Fld := ⟨0x4050113C + n * 0x1000, 0, 32⟩
def NET_RX_DROP_VLAN (n : Nat) : Fld := ⟨0x40501140 + n * 0x1000, 0, 32⟩
def NET_TX_FRAMES (n : Nat) : Fld := ⟨0x40501144 + n * 0x1000, 0, 32⟩
def NET_TX_DROP (n : Nat) : Fld := ⟨0x40501148 + n * 0x1000, 0, 32⟩
def NET_FABRIC_STALL (n : Nat) : Fld := ⟨0x4050114C + n * 0x1000, 0, 32⟩
def NET_PCAP_modes (n : Nat) : Fld := ⟨0x40501004 + n * 0x1000, 0, 2⟩
def NET_PCTRL_en (n : Nat) : Fld := ⟨0x40501008 + n * 0x1000, 0, 1⟩
def NET_PCTRL_speed (n : Nat) : Fld := ⟨0x40501008 + n * 0x1000, 1, 2⟩
def NET_PCTRL_pause_rx (n : Nat) : Fld := ⟨0x40501008 + n * 0x1000, 3, 1⟩
def NET_PSTATUS_link_up (n : Nat) : Fld := ⟨0x4050100C + n * 0x1000, 0, 1⟩
def NET_PSTATUS_is_10g (n : Nat) : Fld := ⟨0x4050100C + n * 0x1000, 1, 1⟩
def NET_PSTATUS_mod_abs (n : Nat) : Fld := ⟨0x4050100C + n * 0x1000, 2, 1⟩
def NET_PSTATUS_los (n : Nat) : Fld := ⟨0x4050100C + n * 0x1000, 3, 1⟩
def NET_MAC_LO_mac (n : Nat) : Fld := ⟨0x40501100 + n * 0x1000, 0, 32⟩
def NET_MAC_HI_mac (n : Nat) : Fld := ⟨0x40501104 + n * 0x1000, 0, 16⟩
def NET_MAX_LEN_len (n : Nat) : Fld := ⟨0x40501108 + n * 0x1000, 0, 14⟩
def NET_QRATE_rate (n : Nat) (k : Nat) : Fld := ⟨0x40501110 + n * 0x1000 + k * 4, 0, 10⟩
def NET_RX_FRAMES_count (n : Nat) : Fld := ⟨0x40501130 + n * 0x1000, 0, 32⟩
def NET_RX_CRC_ERR_count (n : Nat) : Fld := ⟨0x40501134 + n * 0x1000, 0, 32⟩
def NET_RX_DROP_RING_count (n : Nat) : Fld := ⟨0x40501138 + n * 0x1000, 0, 32⟩
def NET_RX_DROP_FIFO_count (n : Nat) : Fld := ⟨0x4050113C + n * 0x1000, 0, 32⟩
def NET_RX_DROP_VLAN_count (n : Nat) : Fld := ⟨0x40501140 + n * 0x1000, 0, 32⟩
def NET_TX_FRAMES_count (n : Nat) : Fld := ⟨0x40501144 + n * 0x1000, 0, 32⟩
def NET_TX_DROP_count (n : Nat) : Fld := ⟨0x40501148 + n * 0x1000, 0, 32⟩
def NET_FABRIC_STALL_us (n : Nat) : Fld := ⟨0x4050114C + n * 0x1000, 0, 32⟩

/-! Fields of HRN. -/

def HRN_CAP : Fld := ⟨0x40520004, 0, 32⟩
def HRN_CTRL : Fld := ⟨0x40520008, 0, 32⟩
def HRN_STATUS : Fld := ⟨0x4052000C, 0, 32⟩
def HRN_CMD : Fld := ⟨0x40520100, 0, 32⟩
def HRN_CMD_ST : Fld := ⟨0x40520104, 0, 32⟩
def HRN_EV_STRIDE_LO : Fld := ⟨0x40520108, 0, 32⟩
def HRN_EV_STRIDE_HI : Fld := ⟨0x4052010C, 0, 32⟩
def HRN_MISMATCH : Fld := ⟨0x40520110, 0, 32⟩
def HRN_MISMATCH_1S : Fld := ⟨0x40520114, 0, 32⟩
def HRN_DIGEST_LO : Fld := ⟨0x40520118, 0, 32⟩
def HRN_DIGEST_HI : Fld := ⟨0x4052011C, 0, 32⟩
def HRN_TWIN_DIGEST_LO : Fld := ⟨0x40520120, 0, 32⟩
def HRN_TWIN_DIGEST_HI : Fld := ⟨0x40520124, 0, 32⟩
def HRN_HB_MISS : Fld := ⟨0x40520128, 0, 32⟩
def HRN_COPY : Fld := ⟨0x4052012C, 0, 32⟩
def HRN_COUNTS : Fld := ⟨0x40520130, 0, 32⟩
def HRN_TWIN_ID (k : Nat) : Fld := ⟨0x40520140 + k * 4, 0, 32⟩
def HRN_TWIN_VAR : Fld := ⟨0x40520150, 0, 32⟩
def HRN_SEAL_DIFF : Fld := ⟨0x40520154, 0, 32⟩
def HRN_MSG_TX (k : Nat) : Fld := ⟨0x40520200 + k * 4, 0, 32⟩
def HRN_MSG_CMD : Fld := ⟨0x40520240, 0, 32⟩
def HRN_MSG_RX (k : Nat) : Fld := ⟨0x40520280 + k * 4, 0, 32⟩
def HRN_MSG_POP : Fld := ⟨0x405202C0, 0, 32⟩
def HRN_MSG_ST : Fld := ⟨0x405202C4, 0, 32⟩
def HRN_CAP_n_lanes : Fld := ⟨0x40520004, 0, 2⟩
def HRN_CTRL_pair_en : Fld := ⟨0x40520008, 0, 1⟩
def HRN_CTRL_auto_takeover : Fld := ⟨0x40520008, 1, 1⟩
def HRN_CTRL_auto_rejoin : Fld := ⟨0x40520008, 2, 1⟩
def HRN_STATUS_role : Fld := ⟨0x4052000C, 0, 2⟩
def HRN_STATUS_pos : Fld := ⟨0x4052000C, 2, 1⟩
def HRN_STATUS_selected : Fld := ⟨0x4052000C, 3, 1⟩
def HRN_STATUS_link_up : Fld := ⟨0x4052000C, 4, 1⟩
def HRN_STATUS_twin_hb : Fld := ⟨0x4052000C, 5, 1⟩
def HRN_STATUS_joined : Fld := ⟨0x4052000C, 6, 1⟩
def HRN_STATUS_joining : Fld := ⟨0x4052000C, 7, 1⟩
def HRN_STATUS_detached : Fld := ⟨0x4052000C, 8, 1⟩
def HRN_STATUS_divergent : Fld := ⟨0x4052000C, 9, 1⟩
def HRN_STATUS_twin_absent : Fld := ⟨0x4052000C, 10, 1⟩
def HRN_STATUS_refused : Fld := ⟨0x4052000C, 11, 1⟩
def HRN_STATUS_unverified : Fld := ⟨0x4052000C, 12, 1⟩
def HRN_STATUS_pos_clash : Fld := ⟨0x4052000C, 13, 1⟩
def HRN_CMD_swap : Fld := ⟨0x40520100, 0, 1⟩
def HRN_CMD_rejoin : Fld := ⟨0x40520100, 1, 1⟩
def HRN_CMD_assume : Fld := ⟨0x40520100, 2, 1⟩
def HRN_CMD_ST_state : Fld := ⟨0x40520104, 0, 2⟩
def HRN_CMD_ST_reason : Fld := ⟨0x40520104, 4, 4⟩
def HRN_EV_STRIDE_LO_stride : Fld := ⟨0x40520108, 0, 32⟩
def HRN_EV_STRIDE_HI_stride : Fld := ⟨0x4052010C, 0, 32⟩
def HRN_MISMATCH_count : Fld := ⟨0x40520110, 0, 32⟩
def HRN_MISMATCH_1S_count : Fld := ⟨0x40520114, 0, 14⟩
def HRN_DIGEST_LO_d : Fld := ⟨0x40520118, 0, 32⟩
def HRN_DIGEST_HI_d : Fld := ⟨0x4052011C, 0, 32⟩
def HRN_TWIN_DIGEST_LO_d : Fld := ⟨0x40520120, 0, 32⟩
def HRN_TWIN_DIGEST_HI_d : Fld := ⟨0x40520124, 0, 32⟩
def HRN_HB_MISS_frames : Fld := ⟨0x40520128, 0, 16⟩
def HRN_HB_MISS_pins : Fld := ⟨0x40520128, 16, 16⟩
def HRN_COPY_kib : Fld := ⟨0x4052012C, 0, 32⟩
def HRN_COUNTS_takeovers : Fld := ⟨0x40520130, 0, 16⟩
def HRN_COUNTS_swaps : Fld := ⟨0x40520130, 16, 16⟩
def HRN_TWIN_ID_id (k : Nat) : Fld := ⟨0x40520140 + k * 4, 0, 32⟩
def HRN_TWIN_VAR_variant : Fld := ⟨0x40520150, 0, 8⟩
def HRN_SEAL_DIFF_ports : Fld := ⟨0x40520154, 0, 32⟩
def HRN_MSG_TX_msg (k : Nat) : Fld := ⟨0x40520200 + k * 4, 0, 32⟩
def HRN_MSG_CMD_send : Fld := ⟨0x40520240, 0, 1⟩
def HRN_MSG_RX_msg (k : Nat) : Fld := ⟨0x40520280 + k * 4, 0, 32⟩
def HRN_MSG_POP_pop : Fld := ⟨0x405202C0, 0, 1⟩
def HRN_MSG_ST_count : Fld := ⟨0x405202C4, 0, 5⟩
def HRN_MSG_ST_tx_busy : Fld := ⟨0x405202C4, 8, 1⟩
def HRN_MSG_ST_lost : Fld := ⟨0x405202C4, 16, 8⟩

/-! Fields of HRL. -/

def HRN_LANE_ST (n : Nat) : Fld := ⟨0x4052100C + n * 0x1000, 0, 32⟩
def HRN_LANE_DELAY (n : Nat) : Fld := ⟨0x40521100 + n * 0x1000, 0, 32⟩
def HRN_LANE_CRC_ERR (n : Nat) : Fld := ⟨0x40521104 + n * 0x1000, 0, 32⟩
def HRN_LANE_DROP (n : Nat) : Fld := ⟨0x40521108 + n * 0x1000, 0, 32⟩
def HRN_LANE_EQ (n : Nat) : Fld := ⟨0x4052110C + n * 0x1000, 0, 32⟩
def HRN_LANE_ST_up (n : Nat) : Fld := ⟨0x4052100C + n * 0x1000, 0, 1⟩
def HRN_LANE_ST_aligned (n : Nat) : Fld := ⟨0x4052100C + n * 0x1000, 1, 1⟩
def HRN_LANE_DELAY_ps (n : Nat) : Fld := ⟨0x40521100 + n * 0x1000, 0, 24⟩
def HRN_LANE_CRC_ERR_count (n : Nat) : Fld := ⟨0x40521104 + n * 0x1000, 0, 32⟩
def HRN_LANE_DROP_count (n : Nat) : Fld := ⟨0x40521108 + n * 0x1000, 0, 32⟩
def HRN_LANE_EQ_pre (n : Nat) : Fld := ⟨0x4052110C + n * 0x1000, 0, 4⟩
def HRN_LANE_EQ_post (n : Nat) : Fld := ⟨0x4052110C + n * 0x1000, 4, 4⟩

/-! Fields of MLK. -/

def MLK_CAP : Fld := ⟨0x40540004, 0, 32⟩
def MLK_CTRL : Fld := ⟨0x40540008, 0, 32⟩
def MLK_STATUS : Fld := ⟨0x4054000C, 0, 32⟩
def MLK_TONE_A : Fld := ⟨0x40540100, 0, 32⟩
def MLK_TONE_B : Fld := ⟨0x40540104, 0, 32⟩
def MLK_CFG : Fld := ⟨0x40540108, 0, 32⟩
def MLK_TX_LEVEL : Fld := ⟨0x4054010C, 0, 32⟩
def MLK_IMP_THR : Fld := ⟨0x40540110, 0, 32⟩
def MLK_ZC_OFS : Fld := ⟨0x40540114, 0, 32⟩
def MLK_HALFPER : Fld := ⟨0x40540118, 0, 32⟩
def MLK_ZC_ST : Fld := ⟨0x4054011C, 0, 32⟩
def MLK_TX_CMD : Fld := ⟨0x40540120, 0, 32⟩
def MLK_TX_ST : Fld := ⟨0x40540124, 0, 32⟩
def MLK_RX_COUNT : Fld := ⟨0x40540128, 0, 32⟩
def MLK_RX_POP : Fld := ⟨0x4054012C, 0, 32⟩
def MLK_RX_OK : Fld := ⟨0x40540130, 0, 32⟩
def MLK_RX_CRC_ERR : Fld := ⟨0x40540134, 0, 32⟩
def MLK_RX_LOST : Fld := ⟨0x40540138, 0, 32⟩
def MLK_RX_ABORT : Fld := ⟨0x4054013C, 0, 32⟩
def MLK_TX_FRAMES : Fld := ⟨0x40540140, 0, 32⟩
def MLK_TX_ABORT : Fld := ⟨0x40540144, 0, 32⟩
def MLK_TX_BUF (k : Nat) : Fld := ⟨0x40540200 + k * 4, 0, 32⟩
def MLK_RX_BUF (k : Nat) : Fld := ⟨0x40540400 + k * 4, 0, 32⟩
def MLK_RX_NS : Fld := ⟨0x40540508, 0, 32⟩
def MLK_RX_SEC : Fld := ⟨0x4054050C, 0, 32⟩
def MLK_RX_INFO : Fld := ⟨0x40540510, 0, 32⟩
def MLK_CAP_n_coupler : Fld := ⟨0x40540004, 0, 2⟩
def MLK_CAP_fifo : Fld := ⟨0x40540004, 4, 3⟩
def MLK_CTRL_en : Fld := ⟨0x40540008, 0, 1⟩
def MLK_STATUS_locked : Fld := ⟨0x4054000C, 0, 1⟩
def MLK_STATUS_is_60hz : Fld := ⟨0x4054000C, 1, 1⟩
def MLK_STATUS_rx_busy : Fld := ⟨0x4054000C, 2, 1⟩
def MLK_STATUS_tx_busy : Fld := ⟨0x4054000C, 3, 1⟩
def MLK_STATUS_band_busy : Fld := ⟨0x4054000C, 4, 1⟩
def MLK_STATUS_cfg_invalid : Fld := ⟨0x4054000C, 5, 1⟩
def MLK_STATUS_band : Fld := ⟨0x4054000C, 6, 2⟩
def MLK_TONE_A_f0 : Fld := ⟨0x40540100, 0, 9⟩
def MLK_TONE_A_f1 : Fld := ⟨0x40540100, 16, 9⟩
def MLK_TONE_B_f0 : Fld := ⟨0x40540104, 0, 9⟩
def MLK_TONE_B_f1 : Fld := ⟨0x40540104, 16, 9⟩
def MLK_CFG_mode : Fld := ⟨0x40540108, 0, 1⟩
def MLK_CFG_mains : Fld := ⟨0x40540108, 1, 2⟩
def MLK_CFG_ref_phase : Fld := ⟨0x40540108, 3, 2⟩
def MLK_CFG_phase_rev : Fld := ⟨0x40540108, 5, 1⟩
def MLK_CFG_tx_mask : Fld := ⟨0x40540108, 6, 3⟩
def MLK_CFG_rx_mask : Fld := ⟨0x40540108, 9, 3⟩
def MLK_CFG_imp_min : Fld := ⟨0x40540108, 12, 4⟩
def MLK_CFG_addr : Fld := ⟨0x40540108, 16, 8⟩
def MLK_CFG_promisc : Fld := ⟨0x40540108, 24, 1⟩
def MLK_TX_LEVEL_dbuv : Fld := ⟨0x4054010C, 0, 7⟩
def MLK_IMP_THR_db : Fld := ⟨0x40540110, 0, 8⟩
def MLK_ZC_OFS_us : Fld := ⟨0x40540114, 0, 16⟩
def MLK_HALFPER_p : Fld := ⟨0x40540118, 0, 20⟩
def MLK_ZC_ST_run : Fld := ⟨0x4054011C, 0, 4⟩
def MLK_ZC_ST_misses : Fld := ⟨0x4054011C, 16, 16⟩
def MLK_TX_CMD_send : Fld := ⟨0x40540120, 0, 1⟩
def MLK_TX_CMD_abort : Fld := ⟨0x40540120, 1, 1⟩
def MLK_TX_ST_state : Fld := ⟨0x40540124, 0, 3⟩
def MLK_TX_ST_reason : Fld := ⟨0x40540124, 4, 4⟩
def MLK_TX_ST_h : Fld := ⟨0x40540124, 16, 8⟩
def MLK_RX_COUNT_count : Fld := ⟨0x40540128, 0, 3⟩
def MLK_RX_POP_pop : Fld := ⟨0x4054012C, 0, 1⟩
def MLK_RX_OK_count : Fld := ⟨0x40540130, 0, 32⟩
def MLK_RX_CRC_ERR_count : Fld := ⟨0x40540134, 0, 32⟩
def MLK_RX_LOST_count : Fld := ⟨0x40540138, 0, 32⟩
def MLK_RX_ABORT_count : Fld := ⟨0x4054013C, 0, 32⟩
def MLK_TX_FRAMES_count : Fld := ⟨0x40540140, 0, 32⟩
def MLK_TX_ABORT_count : Fld := ⟨0x40540144, 0, 32⟩
def MLK_TX_BUF_frame (k : Nat) : Fld := ⟨0x40540200 + k * 4, 0, 32⟩
def MLK_RX_BUF_frame (k : Nat) : Fld := ⟨0x40540400 + k * 4, 0, 32⟩
def MLK_RX_NS_ns : Fld := ⟨0x40540508, 0, 30⟩
def MLK_RX_SEC_sec : Fld := ⟨0x4054050C, 0, 16⟩
def MLK_RX_INFO_d : Fld := ⟨0x40540510, 0, 8⟩
def MLK_RX_INFO_erased : Fld := ⟨0x40540510, 8, 8⟩
def MLK_RX_INFO_couplers : Fld := ⟨0x40540510, 16, 3⟩
def MLK_RX_INFO_mode : Fld := ⟨0x40540510, 19, 1⟩

/-! Fields of MLC. -/

def MLK_CSTATUS (n : Nat) : Fld := ⟨0x4054100C + n * 0x1000, 0, 32⟩
def MLK_CNOISE (n : Nat) : Fld := ⟨0x40541100 + n * 0x1000, 0, 32⟩
def MLK_CSNR (n : Nat) : Fld := ⟨0x40541104 + n * 0x1000, 0, 32⟩
def MLK_CERASE (n : Nat) : Fld := ⟨0x40541108 + n * 0x1000, 0, 32⟩
def MLK_CSTATUS_sense_ok (n : Nat) : Fld := ⟨0x4054100C + n * 0x1000, 0, 1⟩
def MLK_CSTATUS_drv_fault (n : Nat) : Fld := ⟨0x4054100C + n * 0x1000, 1, 1⟩
def MLK_CNOISE_floor (n : Nat) : Fld := ⟨0x40541100 + n * 0x1000, 0, 16⟩
def MLK_CSNR_snr (n : Nat) : Fld := ⟨0x40541104 + n * 0x1000, 0, 16⟩
def MLK_CERASE_count (n : Nat) : Fld := ⟨0x40541108 + n * 0x1000, 0, 32⟩

/-! Fields of TAG. -/

def TAG_CAP : Fld := ⟨0x40560004, 0, 32⟩
def TAG_CTRL : Fld := ⟨0x40560008, 0, 32⟩
def TAG_STATUS : Fld := ⟨0x4056000C, 0, 32⟩
def TAG_CFG : Fld := ⟨0x40560100, 0, 32⟩
def TAG_LINK : Fld := ⟨0x40560104, 0, 32⟩
def TAG_ROUND : Fld := ⟨0x40560108, 0, 32⟩
def TAG_CMD : Fld := ⟨0x4056010C, 0, 32⟩
def TAG_PING_CFG : Fld := ⟨0x40560110, 0, 32⟩
def TAG_HALT_CFG : Fld := ⟨0x40560114, 0, 32⟩
def TAG_SEL (k : Nat) : Fld := ⟨0x40560120 + k * 4, 0, 32⟩
def TAG_SEL_LEN : Fld := ⟨0x40560160, 0, 32⟩
def TAG_WR_EPC (k : Nat) : Fld := ⟨0x40560180 + k * 4, 0, 32⟩
def TAG_WR_CFG : Fld := ⟨0x405601C0, 0, 32⟩
def TAG_WR_PW : Fld := ⟨0x405601C4, 0, 32⟩
def TAG_REC_CFG : Fld := ⟨0x405601C8, 0, 32⟩
def TAG_WR_DATA (k : Nat) : Fld := ⟨0x40560200 + k * 4, 0, 32⟩
def TAG_WR_ST : Fld := ⟨0x40560240, 0, 32⟩
def TAG_REP_BUF (k : Nat) : Fld := ⟨0x40560280 + k * 4, 0, 32⟩
def TAG_REP_COUNT : Fld := ⟨0x405602C0, 0, 32⟩
def TAG_REP_POP : Fld := ⟨0x405602C4, 0, 32⟩
def TAG_REP_LOST : Fld := ⟨0x405602C8, 0, 32⟩
def TAG_ERR_CNT : Fld := ⟨0x405602CC, 0, 32⟩
def TAG_CAP_n_ant : Fld := ⟨0x40560004, 0, 3⟩
def TAG_CAP_fifo : Fld := ⟨0x40560004, 8, 6⟩
def TAG_CTRL_en : Fld := ⟨0x40560008, 0, 1⟩
def TAG_STATUS_state : Fld := ⟨0x4056000C, 0, 2⟩
def TAG_STATUS_busy : Fld := ⟨0x4056000C, 2, 1⟩
def TAG_STATUS_refused : Fld := ⟨0x4056000C, 3, 1⟩
def TAG_STATUS_radio_fault : Fld := ⟨0x4056000C, 4, 1⟩
def TAG_CFG_region : Fld := ⟨0x40560100, 0, 1⟩
def TAG_CFG_halter_en : Fld := ⟨0x40560100, 1, 1⟩
def TAG_CFG_bitsplit : Fld := ⟨0x40560100, 2, 1⟩
def TAG_CFG_auto_inv : Fld := ⟨0x40560100, 3, 1⟩
def TAG_CFG_ch_mask : Fld := ⟨0x40560100, 4, 4⟩
def TAG_LINK_mod : Fld := ⟨0x40560104, 0, 2⟩
def TAG_LINK_tari : Fld := ⟨0x40560104, 2, 2⟩
def TAG_LINK_blf : Fld := ⟨0x40560104, 4, 3⟩
def TAG_LINK_m : Fld := ⟨0x40560104, 7, 2⟩
def TAG_LINK_dr : Fld := ⟨0x40560104, 9, 1⟩
def TAG_LINK_trext : Fld := ⟨0x40560104, 10, 1⟩
def TAG_ROUND_ant : Fld := ⟨0x40560108, 0, 2⟩
def TAG_ROUND_session : Fld := ⟨0x40560108, 2, 2⟩
def TAG_ROUND_target : Fld := ⟨0x40560108, 4, 1⟩
def TAG_ROUND_sel : Fld := ⟨0x40560108, 5, 2⟩
def TAG_ROUND_q : Fld := ⟨0x40560108, 7, 4⟩
def TAG_ROUND_sel_epc : Fld := ⟨0x40560108, 11, 1⟩
def TAG_ROUND_max_ms : Fld := ⟨0x40560108, 16, 12⟩
def TAG_CMD_start : Fld := ⟨0x4056010C, 0, 1⟩
def TAG_CMD_stop : Fld := ⟨0x4056010C, 1, 1⟩
def TAG_CMD_write : Fld := ⟨0x4056010C, 2, 1⟩
def TAG_CMD_rec_write : Fld := ⟨0x4056010C, 3, 1⟩
def TAG_PING_CFG_period : Fld := ⟨0x40560110, 0, 10⟩
def TAG_PING_CFG_chan : Fld := ⟨0x40560110, 10, 6⟩
def TAG_PING_CFG_thr : Fld := ⟨0x40560110, 16, 16⟩
def TAG_HALT_CFG_csi : Fld := ⟨0x40560114, 0, 8⟩
def TAG_HALT_CFG_slot : Fld := ⟨0x40560114, 8, 8⟩
def TAG_HALT_CFG_window : Fld := ⟨0x40560114, 16, 6⟩
def TAG_SEL_mask (k : Nat) : Fld := ⟨0x40560120 + k * 4, 0, 32⟩
def TAG_SEL_LEN_bits : Fld := ⟨0x40560160, 0, 9⟩
def TAG_WR_EPC_epc (k : Nat) : Fld := ⟨0x40560180 + k * 4, 0, 32⟩
def TAG_WR_CFG_bank : Fld := ⟨0x405601C0, 0, 2⟩
def TAG_WR_CFG_ptr : Fld := ⟨0x405601C0, 2, 8⟩
def TAG_WR_CFG_count : Fld := ⟨0x405601C0, 10, 6⟩
def TAG_WR_CFG_pw_en : Fld := ⟨0x405601C0, 16, 1⟩
def TAG_WR_CFG_epc_bits : Fld := ⟨0x405601C0, 17, 8⟩
def TAG_WR_PW_pw : Fld := ⟨0x405601C4, 0, 32⟩
def TAG_REC_CFG_ptr : Fld := ⟨0x405601C8, 0, 8⟩
def TAG_REC_CFG_n : Fld := ⟨0x405601C8, 8, 5⟩
def TAG_WR_DATA_data (k : Nat) : Fld := ⟨0x40560200 + k * 4, 0, 32⟩
def TAG_WR_ST_outcome : Fld := ⟨0x40560240, 0, 3⟩
def TAG_WR_ST_step : Fld := ⟨0x40560240, 3, 6⟩
def TAG_WR_ST_tag_err : Fld := ⟨0x40560240, 9, 7⟩
def TAG_WR_ST_rec : Fld := ⟨0x40560240, 16, 2⟩
def TAG_REP_BUF_rep (k : Nat) : Fld := ⟨0x40560280 + k * 4, 0, 32⟩
def TAG_REP_COUNT_count : Fld := ⟨0x405602C0, 0, 7⟩
def TAG_REP_POP_pop : Fld := ⟨0x405602C4, 0, 1⟩
def TAG_REP_LOST_count : Fld := ⟨0x405602C8, 0, 32⟩
def TAG_ERR_CNT_count : Fld := ⟨0x405602CC, 0, 32⟩

/-! Fields of ANT. -/

def TAG_ANT_CFG (n : Nat) : Fld := ⟨0x40561008 + n * 0x1000, 0, 32⟩
def TAG_ANT_ST (n : Nat) : Fld := ⟨0x4056100C + n * 0x1000, 0, 32⟩
def TAG_GAMMA (n : Nat) : Fld := ⟨0x40561100 + n * 0x1000, 0, 32⟩
def TAG_GAMMA_REF (n : Nat) : Fld := ⟨0x40561104 + n * 0x1000, 0, 32⟩
def TAG_ANT_CNT (n : Nat) : Fld := ⟨0x40561108 + n * 0x1000, 0, 32⟩
def TAG_ANT_CFG_en (n : Nat) : Fld := ⟨0x40561008 + n * 0x1000, 0, 1⟩
def TAG_ANT_CFG_ping_en (n : Nat) : Fld := ⟨0x40561008 + n * 0x1000, 1, 1⟩
def TAG_ANT_CFG_pwr (n : Nat) : Fld := ⟨0x40561008 + n * 0x1000, 2, 6⟩
def TAG_ANT_ST_fault (n : Nat) : Fld := ⟨0x4056100C + n * 0x1000, 0, 1⟩
def TAG_ANT_ST_claimed (n : Nat) : Fld := ⟨0x4056100C + n * 0x1000, 1, 1⟩
def TAG_GAMMA_re (n : Nat) : Fld := ⟨0x40561100 + n * 0x1000, 0, 16⟩
def TAG_GAMMA_im (n : Nat) : Fld := ⟨0x40561100 + n * 0x1000, 16, 16⟩
def TAG_GAMMA_REF_re (n : Nat) : Fld := ⟨0x40561104 + n * 0x1000, 0, 16⟩
def TAG_GAMMA_REF_im (n : Nat) : Fld := ⟨0x40561104 + n * 0x1000, 16, 16⟩
def TAG_ANT_CNT_wakes (n : Nat) : Fld := ⟨0x40561108 + n * 0x1000, 0, 16⟩
def TAG_ANT_CNT_faults (n : Nat) : Fld := ⟨0x40561108 + n * 0x1000, 16, 16⟩

/-! Fields of VLT. -/

def VLT_CAP : Fld := ⟨0x40580004, 0, 32⟩
def VLT_CTRL : Fld := ⟨0x40580008, 0, 32⟩
def VLT_STATUS : Fld := ⟨0x4058000C, 0, 32⟩
def VLT_ID (k : Nat) : Fld := ⟨0x40580100 + k * 4, 0, 32⟩
def VLT_KEY_CHG : Fld := ⟨0x40580110, 0, 32⟩
def VLT_REQ_CNT : Fld := ⟨0x40580114, 0, 32⟩
def VLT_ERR_CNT : Fld := ⟨0x40580118, 0, 32⟩
def VLT_TRNG_CNT : Fld := ⟨0x4058011C, 0, 32⟩
def VLT_CAP_n_slots : Fld := ⟨0x40580004, 0, 9⟩
def VLT_CAP_req_slots : Fld := ⟨0x40580004, 12, 4⟩
def VLT_CAP_depth : Fld := ⟨0x40580004, 16, 4⟩
def VLT_CAP_n_halter : Fld := ⟨0x40580004, 20, 4⟩
def VLT_STATUS_ready : Fld := ⟨0x4058000C, 0, 1⟩
def VLT_STATUS_trng_fault : Fld := ⟨0x4058000C, 1, 1⟩
def VLT_STATUS_store_fault : Fld := ⟨0x4058000C, 2, 1⟩
def VLT_STATUS_sym_busy : Fld := ⟨0x4058000C, 3, 1⟩
def VLT_STATUS_pk_busy : Fld := ⟨0x4058000C, 4, 1⟩
def VLT_STATUS_search_busy : Fld := ⟨0x4058000C, 5, 1⟩
def VLT_ID_id (k : Nat) : Fld := ⟨0x40580100 + k * 4, 0, 32⟩
def VLT_KEY_CHG_count : Fld := ⟨0x40580110, 0, 32⟩
def VLT_REQ_CNT_count : Fld := ⟨0x40580114, 0, 32⟩
def VLT_ERR_CNT_count : Fld := ⟨0x40580118, 0, 32⟩
def VLT_TRNG_CNT_count : Fld := ⟨0x4058011C, 0, 32⟩

/-! Fields of VLP. -/

def VLT_KW_SLOT : Fld := ⟨0x40581100, 0, 32⟩
def VLT_KW_ATTR : Fld := ⟨0x40581104, 0, 32⟩
def VLT_KW_DATA (k : Nat) : Fld := ⟨0x40581108 + k * 4, 0, 32⟩
def VLT_KW_CMD : Fld := ⟨0x40581148, 0, 32⟩
def VLT_KW_ST : Fld := ⟨0x4058114C, 0, 32⟩
def VLT_KW_GEN : Fld := ⟨0x40581150, 0, 32⟩
def VLT_CFG : Fld := ⟨0x40581160, 0, 32⟩
def VLT_SITE_CTX (k : Nat) : Fld := ⟨0x40581164 + k * 4, 0, 32⟩
def VLT_MTR_EPOCH : Fld := ⟨0x40581174, 0, 32⟩
def VLT_CFG_CRC : Fld := ⟨0x40581178, 0, 32⟩
def VLT_HALT_GRP (k : Nat) : Fld := ⟨0x40581180 + k * 4, 0, 32⟩
def VLT_HALT_SET : Fld := ⟨0x405811A0, 0, 32⟩
def VLT_HALT_VAL : Fld := ⟨0x405811A4, 0, 32⟩
def VLT_KW_SLOT_slot : Fld := ⟨0x40581100, 0, 8⟩
def VLT_KW_ATTR_type : Fld := ⟨0x40581104, 0, 3⟩
def VLT_KW_ATTR_usage : Fld := ⟨0x40581104, 8, 6⟩
def VLT_KW_ATTR_planes : Fld := ⟨0x40581104, 16, 4⟩
def VLT_KW_DATA_key (k : Nat) : Fld := ⟨0x40581108 + k * 4, 0, 32⟩
def VLT_KW_CMD_cmd : Fld := ⟨0x40581148, 0, 6⟩
def VLT_KW_ST_state : Fld := ⟨0x4058114C, 0, 2⟩
def VLT_KW_ST_reason : Fld := ⟨0x4058114C, 4, 4⟩
def VLT_KW_GEN_gen : Fld := ⟨0x40581150, 0, 32⟩
def VLT_CFG_rec_slot : Fld := ⟨0x40581160, 0, 8⟩
def VLT_CFG_mtr_root : Fld := ⟨0x40581160, 8, 8⟩
def VLT_SITE_CTX_ctx (k : Nat) : Fld := ⟨0x40581164 + k * 4, 0, 32⟩
def VLT_MTR_EPOCH_epoch : Fld := ⟨0x40581174, 0, 32⟩
def VLT_CFG_CRC_crc : Fld := ⟨0x40581178, 0, 32⟩
def VLT_HALT_GRP_slot (k : Nat) : Fld := ⟨0x40581180 + k * 4, 0, 8⟩
def VLT_HALT_GRP_n_ids (k : Nat) : Fld := ⟨0x40581180 + k * 4, 8, 13⟩
def VLT_HALT_GRP_en (k : Nat) : Fld := ⟨0x40581180 + k * 4, 31, 1⟩
def VLT_HALT_SET_group : Fld := ⟨0x405811A0, 0, 3⟩
def VLT_HALT_SET_id : Fld := ⟨0x405811A0, 4, 12⟩
def VLT_HALT_VAL_last : Fld := ⟨0x405811A4, 0, 32⟩

/-! Fields of UPD. -/

def UPD_CAP : Fld := ⟨0x405A0004, 0, 32⟩
def UPD_STATUS : Fld := ⟨0x405A000C, 0, 32⟩
def UPD_PL_ST (k : Nat) : Fld := ⟨0x405A0100 + k * 32, 0, 32⟩
def UPD_PL_CFG (k : Nat) : Fld := ⟨0x405A0104 + k * 32, 0, 32⟩
def UPD_PL_CMD (k : Nat) : Fld := ⟨0x405A0108 + k * 32, 0, 32⟩
def UPD_PL_CMD_ST (k : Nat) : Fld := ⟨0x405A010C + k * 32, 0, 32⟩
def UPD_PL_VER (k : Nat) : Fld := ⟨0x405A0110 + k * 32, 0, 32⟩
def UPD_PL_LEN (k : Nat) : Fld := ⟨0x405A0114 + k * 32, 0, 32⟩
def UPD_MEAS (k : Nat) : Fld := ⟨0x405A0200 + k * 4, 0, 32⟩
def UPD_KH_SEL : Fld := ⟨0x405A0300, 0, 32⟩
def UPD_KH_DATA (k : Nat) : Fld := ⟨0x405A0304 + k * 4, 0, 32⟩
def UPD_KH_CMD : Fld := ⟨0x405A0334, 0, 32⟩
def UPD_KH_ST : Fld := ⟨0x405A0338, 0, 32⟩
def UPD_CAP_n_planes : Fld := ⟨0x405A0004, 0, 4⟩
def UPD_CAP_nor_mib : Fld := ⟨0x405A0004, 16, 9⟩
def UPD_STATUS_loader_busy : Fld := ⟨0x405A000C, 0, 1⟩
def UPD_STATUS_waiting : Fld := ⟨0x405A000C, 1, 4⟩
def UPD_PL_ST_state (k : Nat) : Fld := ⟨0x405A0100 + k * 32, 0, 3⟩
def UPD_PL_ST_bank (k : Nat) : Fld := ⟨0x405A0100 + k * 32, 3, 1⟩
def UPD_PL_ST_trial (k : Nat) : Fld := ⟨0x405A0100 + k * 32, 4, 1⟩
def UPD_PL_ST_reverted (k : Nat) : Fld := ⟨0x405A0100 + k * 32, 5, 1⟩
def UPD_PL_ST_failover (k : Nat) : Fld := ⟨0x405A0100 + k * 32, 6, 1⟩
def UPD_PL_ST_tries (k : Nat) : Fld := ⟨0x405A0100 + k * 32, 8, 4⟩
def UPD_PL_ST_svn (k : Nat) : Fld := ⟨0x405A0100 + k * 32, 16, 6⟩
def UPD_PL_ST_svn_min (k : Nat) : Fld := ⟨0x405A0100 + k * 32, 24, 6⟩
def UPD_PL_CFG_max_tries (k : Nat) : Fld := ⟨0x405A0104 + k * 32, 0, 4⟩
def UPD_PL_CFG_window (k : Nat) : Fld := ⟨0x405A0104 + k * 32, 16, 12⟩
def UPD_PL_CMD_start (k : Nat) : Fld := ⟨0x405A0108 + k * 32, 0, 1⟩
def UPD_PL_CMD_switch (k : Nat) : Fld := ⟨0x405A0108 + k * 32, 1, 1⟩
def UPD_PL_CMD_confirm (k : Nat) : Fld := ⟨0x405A0108 + k * 32, 2, 1⟩
def UPD_PL_CMD_svn_commit (k : Nat) : Fld := ⟨0x405A0108 + k * 32, 3, 1⟩
def UPD_PL_CMD_revert (k : Nat) : Fld := ⟨0x405A0108 + k * 32, 4, 1⟩
def UPD_PL_CMD_key (k : Nat) : Fld := ⟨0x405A0108 + k * 32, 16, 16⟩
def UPD_PL_CMD_ST_state (k : Nat) : Fld := ⟨0x405A010C + k * 32, 0, 2⟩
def UPD_PL_CMD_ST_reason (k : Nat) : Fld := ⟨0x405A010C + k * 32, 4, 4⟩
def UPD_PL_VER_version (k : Nat) : Fld := ⟨0x405A0110 + k * 32, 0, 32⟩
def UPD_PL_LEN_len (k : Nat) : Fld := ⟨0x405A0114 + k * 32, 0, 32⟩
def UPD_MEAS_meas (k : Nat) : Fld := ⟨0x405A0200 + k * 4, 0, 32⟩
def UPD_KH_SEL_index : Fld := ⟨0x405A0300, 0, 2⟩
def UPD_KH_DATA_hash (k : Nat) : Fld := ⟨0x405A0304 + k * 4, 0, 32⟩
def UPD_KH_CMD_enrol : Fld := ⟨0x405A0334, 0, 1⟩
def UPD_KH_CMD_revoke : Fld := ⟨0x405A0334, 1, 1⟩
def UPD_KH_ST_enrolled : Fld := ⟨0x405A0338, 0, 4⟩
def UPD_KH_ST_revoked : Fld := ⟨0x405A0338, 4, 4⟩

/-! Fields of UPU. -/

def UPD_U_STATUS : Fld := ⟨0x405A100C, 0, 32⟩
def UPD_U_TGT : Fld := ⟨0x405A1100, 0, 32⟩
def UPD_U_OFS : Fld := ⟨0x405A1104, 0, 32⟩
def UPD_U_CMD : Fld := ⟨0x405A1108, 0, 32⟩
def UPD_U_ST : Fld := ⟨0x405A110C, 0, 32⟩
def UPD_U_BUF (k : Nat) : Fld := ⟨0x405A1200 + k * 4, 0, 32⟩
def UPD_U_STATUS_busy : Fld := ⟨0x405A100C, 0, 1⟩
def UPD_U_STATUS_verified : Fld := ⟨0x405A100C, 1, 2⟩
def UPD_U_TGT_plane : Fld := ⟨0x405A1100, 0, 2⟩
def UPD_U_TGT_bank : Fld := ⟨0x405A1100, 4, 1⟩
def UPD_U_OFS_ofs : Fld := ⟨0x405A1104, 0, 28⟩
def UPD_U_CMD_erase : Fld := ⟨0x405A1108, 0, 1⟩
def UPD_U_CMD_program : Fld := ⟨0x405A1108, 1, 1⟩
def UPD_U_CMD_verify : Fld := ⟨0x405A1108, 2, 1⟩
def UPD_U_CMD_invalidate : Fld := ⟨0x405A1108, 3, 1⟩
def UPD_U_ST_state : Fld := ⟨0x405A110C, 0, 3⟩
def UPD_U_ST_reason : Fld := ⟨0x405A110C, 4, 4⟩
def UPD_U_BUF_data (k : Nat) : Fld := ⟨0x405A1200 + k * 4, 0, 32⟩

/-! Fields of MBX. -/

def MBX_STATE (n : Nat) : Fld := ⟨0x3FF00400 + n * 0x800, 0, 32⟩
def MBX_POST (n : Nat) : Fld := ⟨0x3FF00404 + n * 0x800, 0, 32⟩
def MBX_TAKE (n : Nat) : Fld := ⟨0x3FF00408 + n * 0x800, 0, 32⟩
def MBX_ERR (n : Nat) : Fld := ⟨0x3FF0040C + n * 0x800, 0, 32⟩
def MBX_STATE_full (n : Nat) : Fld := ⟨0x3FF00400 + n * 0x800, 0, 16⟩
def MBX_POST_slot (n : Nat) : Fld := ⟨0x3FF00404 + n * 0x800, 0, 4⟩
def MBX_TAKE_slot (n : Nat) : Fld := ⟨0x3FF00408 + n * 0x800, 0, 4⟩
def MBX_ERR_refused_up (n : Nat) : Fld := ⟨0x3FF0040C + n * 0x800, 0, 1⟩
def MBX_ERR_refused_down (n : Nat) : Fld := ⟨0x3FF0040C + n * 0x800, 1, 1⟩

/-! Fields of VRQ. -/

def VREQ_OP (n : Nat) : Fld := ⟨0x3FF40000 + n * 0x1000, 0, 32⟩
def VREQ_LEN (n : Nat) : Fld := ⟨0x3FF40004 + n * 0x1000, 0, 32⟩
def VREQ_CMD (n : Nat) : Fld := ⟨0x3FF40008 + n * 0x1000, 0, 32⟩
def VREQ_ST (n : Nat) : Fld := ⟨0x3FF4000C + n * 0x1000, 0, 32⟩
def VREQ_SEQ (n : Nat) : Fld := ⟨0x3FF40010 + n * 0x1000, 0, 32⟩
def VREQ_PATH (n : Nat) (k : Nat) : Fld := ⟨0x3FF40100 + n * 0x1000 + k * 4, 0, 32⟩
def VREQ_IN (n : Nat) (k : Nat) : Fld := ⟨0x3FF40200 + n * 0x1000 + k * 4, 0, 32⟩
def VREQ_OUT (n : Nat) (k : Nat) : Fld := ⟨0x3FF40A00 + n * 0x1000 + k * 4, 0, 32⟩
def VREQ_OP_op (n : Nat) : Fld := ⟨0x3FF40000 + n * 0x1000, 0, 8⟩
def VREQ_OP_slot (n : Nat) : Fld := ⟨0x3FF40000 + n * 0x1000, 8, 8⟩
def VREQ_OP_depth (n : Nat) : Fld := ⟨0x3FF40000 + n * 0x1000, 16, 4⟩
def VREQ_OP_ktype (n : Nat) : Fld := ⟨0x3FF40000 + n * 0x1000, 20, 3⟩
def VREQ_LEN_len (n : Nat) : Fld := ⟨0x3FF40004 + n * 0x1000, 0, 12⟩
def VREQ_LEN_param (n : Nat) : Fld := ⟨0x3FF40004 + n * 0x1000, 16, 12⟩
def VREQ_CMD_go (n : Nat) : Fld := ⟨0x3FF40008 + n * 0x1000, 0, 1⟩
def VREQ_CMD_abort (n : Nat) : Fld := ⟨0x3FF40008 + n * 0x1000, 1, 1⟩
def VREQ_ST_state (n : Nat) : Fld := ⟨0x3FF4000C + n * 0x1000, 0, 3⟩
def VREQ_ST_wrote_busy (n : Nat) : Fld := ⟨0x3FF4000C + n * 0x1000, 3, 1⟩
def VREQ_ST_error (n : Nat) : Fld := ⟨0x3FF4000C + n * 0x1000, 8, 4⟩
def VREQ_ST_out_len (n : Nat) : Fld := ⟨0x3FF4000C + n * 0x1000, 16, 11⟩
def VREQ_SEQ_seq (n : Nat) : Fld := ⟨0x3FF40010 + n * 0x1000, 0, 32⟩
def VREQ_PATH_path (n : Nat) (k : Nat) : Fld := ⟨0x3FF40100 + n * 0x1000 + k * 4, 0, 32⟩
def VREQ_IN_in (n : Nat) (k : Nat) : Fld := ⟨0x3FF40200 + n * 0x1000 + k * 4, 0, 32⟩
def VREQ_OUT_out (n : Nat) (k : Nat) : Fld := ⟨0x3FF40A00 + n * 0x1000 + k * 4, 0, 32⟩

end Sys2Proof.Machine
end

