-- ==== Sys2Proof/Machine/Rom.lean ====
section
/-! DEFINITION. The coefficient ROMs that the spec gives by formula: the Hilbert taps and gain table of R119 and the
fractional-delay tap sets of R149, evaluated in fixed point with 120 fraction bits (DEDUCED, log 4). -/

namespace Sys2Proof.Machine

/-- 1.0 of the fixed-point format. -/
def fxOne : Nat := 2 ^ 120

/-- π in the fixed-point format. -/
def fxPi : Nat := 4175892906503776358826876457663557747

/-- The Taylor terms of a sine from term k on: x², the last term, the running sum. -/
def sinTerms (x2 : Int) : Nat → Nat → Int → Int → Int
  | 0, _, _, s => s
  | n + 1, k, t, s =>
    let t' := (t * x2 / (fxOne : Int)) / (((2 * k) * (2 * k + 1) : Nat) : Int)
    sinTerms x2 n (k + 1) t' (if k % 2 = 1 then s - t' else s + t')

/-- sin(π · num / den). -/
def sinPi (num den : Nat) : Int :=
  let n := num % (2 * den)
  let neg := decide (den ≤ n)
  let n := if den ≤ n then n - den else n
  let n := if den < 2 * n then den - n else n
  let x : Int := ((fxPi * n / den : Nat) : Int)
  let s := sinTerms (x * x / (fxOne : Int)) 23 1 x x
  if neg then -s else s

/-- sin(π · num / den) for a signed numerator. -/
def sinPiI (num : Int) (den : Nat) : Int :=
  if num < 0 then -(sinPi num.natAbs den) else sinPi num.natAbs den

/-- The series terms of I0 from term k on. -/
def i0Terms (y : Nat) : Nat → Nat → Nat → Nat → Nat
  | 0, _, _, s => s
  | n + 1, k, t, s =>
    let t' := (t * y / fxOne) / (k * k)
    i0Terms y n (k + 1) t' (s + t')

/-- I0(2√y), the zeroth-order modified Bessel function of the first kind. -/
def besselI0 (y : Nat) : Nat := i0Terms y 47 1 fxOne fxOne

/-- hh[47 + j] of R119 for odd j, by its formula. -/
def hilbertTap (j : Nat) : Int :=
  rheDiv ((2 ^ 24 * besselI0 (9 * fxOne * (2304 - j * j) / 2304) * fxOne : Nat) : Int)
    ((fxPi * j * besselI0 (9 * fxOne) : Nat) : Int)

/-- hh[47 + j] of R119 for j = 1, 3, …, 47. -/
def hilbertRom : List Int :=
  [5334013, 1761170, 1036741, 719564, 538520, 419755, 334926, 270851, 220577, 180094, 146921, 119437,
   96523, 77377, 61393, 48100, 37114, 28113, 20822, 14999, 10426, 6912, 4281, 2378]

/-- The Hilbert FIR of R119 over a list of samples whose entry k is vr[t - 8 - k]. -/
def hilbertSum (x : List Int) : Int :=
  (List.range 24).foldl
    (fun s i => s + nthI hilbertRom i * (nthI x (47 + (2 * i + 1)) - nthI x (47 - (2 * i + 1)))) 0

/-- The gain table entry e of R119: the correction for 40.00 Hz + e × 0.01 Hz. -/
def hilbertGain (e : Nat) : Nat :=
  if e = 1000 then 1939441486
  else
    let s := (List.range 24).foldl
      (fun s i => s + nthI hilbertRom i * sinPi (2 * (4000 + e) * (2 * i + 1)) 800000) 0
    (rheDiv ((2 ^ 52 * fxOne : Nat) : Int) ((s.natAbs : Nat) : Int)).toNat

/-- gh of R119 for a frequency in mHz. -/
def hilbertGainAt (f : Nat) : Nat :=
  hilbertGain (clampI 0 3000 (rheDiv (f : Int) 10 - 4000)).toNat

/-- The taps of set m of R149 before the residue is absorbed. -/
def delayTapsRaw (m : Nat) : List Int :=
  (List.range 16).map fun k =>
    let a : Int := 1024 * ((k : Int) - 7) - (m : Int)
    let a2 := a.natAbs * a.natAbs
    if 8704 * 8704 < a2 then 0
    else
      let w := besselI0 (16 * fxOne * (8704 * 8704 - a2) / (8704 * 8704))
      if a = 0 then rheDiv ((2 ^ 17 * w : Nat) : Int) ((besselI0 (16 * fxOne) : Nat) : Int)
      else rheDiv (((2 ^ 17 : Nat) : Int) * sinPiI a 1024 * 1024 * (w : Int))
        ((fxPi : Int) * a * ((besselI0 (16 * fxOne) : Nat) : Int))

/-- The taps with the tap at index i absorbing the residue to 2^17. -/
def absorb (t : List Int) (i : Nat) : List Int :=
  setNth t i (nthI t i + ((2 ^ 17 : Nat) : Int) - sumI t)

/-- Tap set m of R149. -/
def delaySet (m : Nat) : List Int := absorb (delayTapsRaw m) ((7168 + m + 512) / 1024)

/-- hfd of R149 for the effective delay code φe. -/
def delayTaps (phi : Int) : List Int :=
  if phi = 0 then [0, 0, 0, 0, 0, 0, 0, 0, 131072, 0, 0, 0, 0, 0, 0, 0]
  else
    let u := (phi + 524288).toNat
    let m := u / 512
    let r := u % 512
    let h0 := delaySet m
    let h1 := delaySet (m + 1)
    let t := (List.range 16).map fun k =>
      rhe (nthI h0 k * ((512 - r : Nat) : Int) + nthI h1 k * (r : Int)) 9
    absorb t ((17 * 2 ^ 18 + phi).toNat / 2 ^ 19)

end Sys2Proof.Machine
end

