-- ==== Sys2Proof/Machine/State.lean ====
section
/-! DEFINITION. The state of the block as plain data: every register of the page map by its address, every memory, and the
state of each unit that no register shows; the queue of waiting commands; the state after reset. -/

namespace Sys2Proof.Machine

/-- No command of this block stops with a fault: the spec gives every command an effect or has it ignored, so this type is
empty. Nothing raises one (safe). -/
inductive Fault where
  deriving DecidableEq, Repr

/-- Why a command is refused. `notModelled` is raised by an arm of `exec` for a command that has no meaning yet (safe). -/
inductive Refusal where
  | notModelled (mnemonic : String)
  deriving DecidableEq, Repr

/-! ### Time unit (R62–R83) -/

/-- One entry of a capture FIFO (R76). -/
structure Capture where
  sec : Nat
  ns : Nat
  rising : Bool
  deriving DecidableEq, Repr

/-- The time unit's state that no register shows whole. Times are in units of 2^-32 ns, intervals in Strides. -/
structure TimeUnit where
  /-- The local clock of R62 as one number, in 2^-32 ns. -/
  clock : Nat := 0
  /-- I of R67, 24 fraction bits. -/
  integ : Int := 0
  /-- J of R70, 24 fraction bits. -/
  vcxoInteg : Int := 0
  /-- Consecutive samples within the enter limit, at most 16 (R68). -/
  inRange : Nat := 0
  /-- Strides since the last sample that counted (R68). -/
  sinceSample : Nat := 0
  /-- Strides in holdover (R68). -/
  holdover : Nat := 0
  /-- Strides since the last active PPS_IN edge (R68). -/
  sincePps : Nat := 0
  /-- Strides that rate_at_limit and vcxo_at_limit have held (R83). -/
  rateLimited : Nat := 0
  vcxoLimited : Nat := 0
  /-- The pending step in ns, and the cycle in which its command landed, 0 once an edge has passed (R65). -/
  step : Option Int := none
  stepCycle : Nat := 0
  /-- The exact values of φ at the preceding edges, newest first, at most 8000, in 2^-32 ns (R70); Stride 0 starts with φ at 0. -/
  phases : List Int := [0]
  /-- Consecutive phase means within ±500 ns, at most 4 (R71). -/
  alignedRun : Nat := 0
  /-- stride_aligned has set since module reset (R72). -/
  everAligned : Bool := false
  /-- A load of the Stride number is requested (R72). -/
  loadRequest : Bool := false
  /-- The armed comparators whose target a forward step has passed (R75), bit t for comparator t. -/
  passed : Nat := 0
  /-- PPS_OUT is high for the given number of REFCLK cycles more (R75). -/
  ppsOut : Option Nat := none
  /-- The capture FIFOs, oldest first. -/
  captures : Sparse (List Capture) := []
  deriving DecidableEq, Repr

/-! ### Staged change, events and mailboxes (R29, R54–R58, R447–R466) -/

/-- The hidden part of a staged-change slot (R56, R58, R165). -/
structure StageSlot where
  /-- The captured target of an armed slot. -/
  target : Option Nat := none
  /-- The frozen pages, by page address. -/
  frozen : List Nat := []
  handover : Bool := false
  /-- On Near: Off has confirmed the arm record. On Off: the arm record has been received (R58). -/
  confirmed : Bool := false
  deriving DecidableEq, Repr

/-- A record of step 4 of the boundary sequence that waits for the Stride's ledger window (R202). -/
inductive StepFour where
  /-- An audit record of kind 1 or 2: kind, CRC before, CRC after, elements and meters named, session words. -/
  | audit (kind : Nat) (before after elements meters : Nat) (session : List Nat)
  /-- A transfer record of R166. -/
  | transfer (values : List Nat)
  /-- A journal entry (R216). -/
  | journal (entry : JournalEntry)
  deriving DecidableEq, Repr

/-- The staged-change controller. -/
structure Staging where
  slots : Sparse StageSlot := []
  /-- The hand-over has applied at this edge: its energy waits for the tariff in force (R206). -/
  handover : Bool := false
  /-- The dirty pages and the plane each is dirty for (R54). -/
  dirty : Sparse Nat := []
  stepFour : List StepFour := []
  deriving DecidableEq, Repr

/-- The event controller beside its registers. -/
structure Events where
  /-- Targets whose core timer is at or past its compare value (R448, source 9). -/
  timer : Nat := 0
  /-- Strides that a shared source has been pending with no effective target (R466). -/
  stalled : Sparse Nat := []
  /-- Control ticks missed (R42). -/
  missedTicks : Nat := 0
  /-- The shared sources that a fallback receives at present, each with that target (R458, R459). -/
  redirections : List (Nat × Nat) := []
  deriving DecidableEq, Repr

/-- A fault in force: its level as in R213 (1 Sample to 6 Pair), its code under R213 or R502, and its unit. -/
structure ActiveFault where
  level : Nat
  code : Nat
  unit : Nat
  deriving DecidableEq, Repr

/-! ### Outlet ports and CAN controllers (R242–R268) -/

/-- A class of R247: the accepted states and the readings. -/
inductive PilotClass where
  | a | b | c | d | e | f | diode | invalid
  deriving DecidableEq, Repr

/-- The generator over a Stride: its level and the REFCLK cycle of its last edge at the Stride's start, the Stride's place in the PWM
period, and the outputs of the Stride, each from a cycle on: none −12 V, 2000 +12 V, otherwise a duty code (R245). -/
structure Wave where
  high : Bool := false
  edge : Int := -12500
  slot : Nat := 0
  parts : List (Nat × Option Nat) := [(0, none)]
  deriving DecidableEq, Repr

/-- An outlet port beside its registers. -/
structure Port where
  /-- The generator in the present Stride (R245, R246). -/
  wave : Wave := {}
  /-- Drop causes that arose since the last Stride edge (R249). -/
  arisen : Nat := 0
  /-- The Stride of the last temperature conversion (R254). -/
  converted : Option Nat := none
  /-- The class of the last fresh high-plateau reading, and that of the last Stride where it was E, F or a diode fault (R248). -/
  lastHigh : Option PilotClass := none
  last : Option PilotClass := none
  invalidRun : Nat := 0
  /-- A class that R248 accepts at this edge; invalid stands for pilot fault. -/
  due : Option PilotClass := none
  /-- The accepted class since the port was enabled. -/
  accepted : Option PilotClass := none
  /-- Strides that the state has been A, at most 16 (R251). -/
  aRun : Nat := 0
  /-- A rearm waits for the next Stride edge (R251), or there for the temperature conversion of that edge (R263). -/
  rearm : Bool := false
  rearmHeld : Bool := false
  /-- Proximity: the last code and its run of Strides, and the accepted code, numbered by the rows of R253. -/
  ppCode : Nat := 6
  ppRun : Nat := 0
  pp : Option Nat := none
  /-- Lock input: the last level, its run, and the debounced level (R255). The pin is pulled up. -/
  lockPin : Bool := true
  lockRun : Nat := 0
  lockLevel : Option Bool := none
  /-- Consecutive temperature readings at or above the trip, and consecutive good readings (R249, R254). -/
  hot : Nat := 0
  good : Nat := 8
  /-- The membership key written to OPT_NMK0–3 (R257). -/
  nmk : List Nat := [0, 0, 0, 0]
  /-- Sums of the attenuation of each SLAC group and the sounds received (R257). -/
  slac : List Nat := []
  sounds : Nat := 0
  deriving DecidableEq, Repr

/-- A CAN controller beside its registers. -/
structure CanState where
  /-- The receive FIFO slot of the oldest entry (R260). -/
  head : Nat := 0
  /-- The buffer whose frame is on the bus. -/
  sending : Option Nat := none
  /-- The cycle of the present Stride, or of a later one counted on, at which pending buffers meet the idle bus: those pending then contend
  (R261); and the cycle at which another node's frame leaves the bus idle. -/
  contend : Option Nat := none
  idleAt : Nat := 0
  /-- The bytes of the last frame sent, as fd_en and brs_en let it go (R266). -/
  sent : List Nat := []
  deriving DecidableEq, Repr

/-! ### Load channels and bridle mode (R269–R298) -/

/-- A load channel in its switch die, beside the registers that show it. -/
structure Channel where
  /-- The die's copy of LSW_CTRL, DRIVE, LIM, RETRY, CLAMP, OL and CFG, taken from the last frame (R274, R288), and whether the
  frame carried the pin's claim (R272). -/
  ctrl : Nat := 0
  drive : Nat := 0
  lim : Nat := 0x0A19
  retry : Nat := 0x6403
  clamp : Nat := 0x64000A
  ol : Nat := 0x6414
  cfg : Nat := 0
  pinClaimed : Bool := false
  /-- The source was 1 at some instant of this Stride (R275). -/
  sourceSeen : Bool := false
  /-- Strides of the retry delay left, the delay has run out, and the thermal latch set during the wait (R280). -/
  waitLeft : Nat := 0
  delayDone : Bool := false
  thermInWait : Bool := false
  /-- A trip fell in this Stride (R294). -/
  tripped : Bool := false
  /-- The output current digitised last, in units of 2 mA up to 0xFFE (R281). -/
  current : Nat := 0
  /-- Strides without trip, latch or lock, at most 8000 (R279). -/
  clean : Nat := 0
  /-- Strides below the open-load threshold, and the channel has been on since the last edge (R284). -/
  openRun : Nat := 0
  onThroughout : Bool := false
  /-- The output at bridle entry and the map entry in use (R288, R291). -/
  held : Bool := false
  entry : Nat := 0
  /-- Strides of a running diagnosis, and whether every Stride of its phases read above 2.0 V (R285). -/
  diag : Nat := 0
  high1 : Bool := true
  high2 : Bool := true
  deriving DecidableEq, Repr

/-- What the switch dies and the load interface hold beside registers. -/
structure Load where
  channels : Sparse Channel := []
  /-- Bit d: switch die d is in bridle mode (R287, R297). -/
  bridle : Nat := 3
  /-- DRIVE_IN levels, and Strides BRIDLE_REQ_N has been high, at most 80 (R273, R289). -/
  pins : Nat := 0
  reqHigh : Nat := 80
  /-- Watchdogs that have expired and have not been serviced since (R287). -/
  wdManagement : Bool := false
  wdSafety : Bool := false
  /-- Frames of each switch link that have been invalid in a row (R19). -/
  linkBad : Sparse Nat := []
  /-- A take waits for the next edge (R289). -/
  take : Bool := false
  /-- The 64 map bytes that a running commit took (R291), and the dies whose stored half failed its check (R293). -/
  commit : Option (List Nat) := none
  mapFault : Nat := 0
  /-- Strides of each bank current (0–7) and of the module current (8) above its limit, at most 800 (R286). -/
  overRun : Sparse Nat := []
  /-- The dies' copy of LSW_LIMITS, taken from the last frame (R274, R288). -/
  limits : Word := 0x1900064
  /-- The channel that each sense slot converts from the next edge (R283). -/
  slots : Sparse (Option Nat) := []
  /-- The channel that each slot converts in this Stride. -/
  converting : Sparse (Option Nat) := []
  deriving DecidableEq, Repr

/-! ### Safety (R299–R344) -/

/-- An active cause of a Flock: the register bit of SAF_FLOCK_ST, the state it demands (R303), the port, e-stop, peer or other unit
behind it, and whether the condition is still present. -/
structure Cause where
  bit : Nat
  state : Nat
  unit : Nat
  present : Bool
  deriving DecidableEq, Repr

/-- A Flock's safety state. -/
structure Flock where
  causes : List Cause := [⟨13, 2, 0, true⟩]
  /-- Strides since entry into Degraded plus one, 0 for none, and Strides since its fault cleared, at most 80000 (R324). -/
  degraded : Nat := 0
  cleared : Nat := 0
  /-- The 50 % supervision acts (R324). -/
  halved : Bool := false
  /-- Strides that the Flock power has exceeded its level, plus one, 0 while it does not (R318); the power, mW. -/
  exceed : Nat := 0
  power : Int := 0
  /-- The Stride of the last demand (R330). -/
  demand : Option Nat := none
  deriving DecidableEq, Repr

/-- Residual-current supervision of a port (R306–R311). -/
structure Residual where
  /-- Channel B's samples, newest first, at most 160. -/
  samples : List Int := []
  /-- Hold counters of DC1–AC3 in channel B: Strides at the level plus one, 0 below it. -/
  holds : List Nat := [0, 0, 0, 0, 0, 0]
  /-- Channel A: level flags and trips; Strides that the level flags of each band have differed (R310). -/
  levelA : Nat := 0
  tripA : Nat := 0
  /-- Hold counters of DC1–AC3 in channel A: Strides that the level flag is set (R308); a trip is latched until the release (R342). -/
  holdsA : List Nat := [0, 0, 0, 0, 0, 0]
  latchedA : Bool := false
  /-- Strides that RCMn_SB and RCMn_SA have lain outside 0.1–4.9 V, each at most 2 (R306). -/
  outside : Nat := 0
  outsideA : Nat := 0
  /-- The level flags of channel A that the Crook link delivered last (R309). -/
  seenA : Nat := 0
  disagree : List Nat := [0, 0, 0, 0, 0, 0]
  /-- Strides left of the test plus one, 0 for none; the DC2 flags seen in it, bit 0 channel A, bit 1 channel B (R311). -/
  test : Nat := 0
  testSeen : Nat := 0
  /-- The test has passed since safe_ok last fell. -/
  passed : Bool := false
  deriving DecidableEq, Repr

/-- An insulation channel (R312, R313). -/
structure Insulation where
  /-- The half-period that runs is the negative one; the period has had a fault, and a half that reached 10 s unsettled; low periods and
  clean periods in a row, at most 2. -/
  negative : Bool := false
  unsettled : Bool := false
  noValue : Bool := false
  alarms : Nat := 0
  good : Nat := 2
  /-- The samples of IMDk_MEAS of the last 50 ms in µV, newest first, at most 401, and Strides of the half-period that runs, at most
  80000. -/
  samples : List Nat := []
  age : Nat := 0
  /-- The port stops of R313 act. -/
  stopping : Bool := false
  deriving DecidableEq, Repr

/-- A contactor weld check that runs for a port (R314). -/
structure Weld where
  port : Nat
  age : Nat := 0
  coilOff : Bool := false
  low : Bool := false
  coilFailed : Bool := false
  weldFailed : Bool := false
  deriving DecidableEq, Repr

/-- An emergency stop (R315, R316): the filtered contacts, the actuation and its timers in Strides. -/
structure Estop where
  closedA : Bool := true
  closedB : Bool := true
  actuated : Bool := false
  /-- Contacts that stayed closed through their own test pulse: bit 0 A, bit 1 B. -/
  short : Nat := 0
  discrepancy : Bool := false
  /-- Both contacts have been open together since the discrepancy. -/
  bothOpened : Bool := false
  /-- Strides that the contacts differ, and that both have been closed, at most 800. -/
  differ : Nat := 0
  closed : Nat := 800
  deriving DecidableEq, Repr

/-- A copy of a safety frame that waits for its pair (R321). -/
structure SafetyWindow where
  source : Nat
  bytes : List Nat
  net : Nat
  age : Nat := 0
  deriving DecidableEq, Repr

/-- A recovery that runs (R328, R329): each Flock it moves with the state and the causes before; for network recovery the Strides
left before; Strides in the new state. -/
structure Recovery where
  before : List (Nat × Nat × List Cause)
  network : Option Nat := none
  age : Nat := 0
  deriving DecidableEq, Repr

/-- A detected fault whose reaction is not confirmed yet (R326, R329). -/
structure FaultWindow where
  cause : Nat
  unit : Nat
  flocks : Nat
  state : Nat
  age : Nat := 0
  deriving DecidableEq, Repr

/-- What the safety core, the SAF block and the Crook hold beside registers. -/
structure Safety where
  flocks : Sparse Flock := []
  rcm : Sparse Residual := []
  imd : Sparse Insulation := []
  welds : List Weld := []
  estops : Sparse Estop := []
  /-- Σ p and Σ v_c of each element over the safety cycle (R314, R318). -/
  powerSum : Sparse Int := []
  voltSum : Sparse Int := []
  /-- Port stops for pilot state F, and the ports at which its condition has arisen since the last safety cycle (R317). -/
  stops : Sparse Nat := []
  stopsDue : Sparse Nat := []
  /-- Strides that each output (B 0–7, A 8–15) has read released against its command, and, from 16 on, asserted against it, at most
  2 (R302). -/
  against : Sparse Nat := []
  /-- Readbacks left that the dark test of each output may meet (R302). -/
  dark : Sparse Nat := []
  /-- The Stride of the last accepted release command and its Flocks (R330). -/
  released : Option (Nat × Nat) := none
  /-- Channel A's outputs asserted (R342). -/
  cutA : Nat := 0xFF
  /-- Strides without a valid Crook-link frame, at most 160: none has been valid before the first (R43, R351). The Crook's last strap read
  was valid (R342). -/
  crookBad : Nat := 1
  crookStrap : Bool := false
  /-- Copies waiting; per source the last sequence acted on plus one; per peer and network (16 more) Strides since its last heartbeat
  (R321, R322). -/
  windows : List SafetyWindow := []
  sequences : Sparse Nat := []
  heard : Sparse Nat := []
  /-- Strides since both networks last failed to match, at most 480000, and Strides left of single-network operation (R323). -/
  matching : Nat := 0
  singleLeft : Nat := 0
  txSequence : Nat := 0
  /-- Frames sent, the last one; Strides since the last heartbeat. -/
  sent : List Nat := []
  heartbeat : Nat := 0
  /-- Entries of the SAF RX FIFO, oldest first. -/
  rx : List (List Nat) := []
  /-- Strides since the safety watchdog was serviced, at most 80, and whether it has expired (R325). -/
  watchdog : Nat := 0
  expired : Bool := false
  /-- Running and waiting recoveries; open recovery windows. -/
  running : Option Recovery := none
  /-- Automatic recoveries that wait: bit f for Flock f, bit 8 for the network (R329). -/
  waiting : Nat := 0
  faultWindows : List FaultWindow := []
  /-- The adopted port words; whether they have been adopted; invalid reads in a row (R334). -/
  adopted : Sparse Nat := []
  adoptedYet : Bool := false
  invalidReads : Nat := 0
  /-- Staging and stored words of the site parameter block; the CRC that the Crook stores (R335–R337). -/
  staged : Sparse Word := []
  stored : Sparse Word := []
  /-- S0 runs (R344). -/
  running0 : Bool := false
  /-- The safety logic die has learnt from the Crook link that the module is paired (R351). -/
  crookPaired : Bool := false
  deriving DecidableEq, Repr

/-! ### Twin pair (R346–R369) -/

/-- An item of the mirror stream from Near to Off (R58, R191, R352): a shadow write, a write of an item-table entry or of a word of the
passive calendar, a write of TRF_PCMD with the activation value, and the record of an arm or of a cancel. -/
inductive Mirror where
  | shadow (addr value : Nat)
  | item (entry value : Nat)
  | calendar (word value : Nat)
  | calendarCmd (value activateAt : Nat)
  | arm (slot target : Nat) (handover : Bool)
  | cancel (slot : Nat)
  deriving DecidableEq, Repr

/-- What the pair logic holds beside registers. -/
structure Pair where
  /-- The module claims Near; the level of PAIR_SEL; the role is decided (R347, R348). -/
  claims : Bool := false
  select : Bool := false
  decided : Bool := false
  /-- The REFCLK divider is aligned to the twin's Stride edge, or the module has held Near (R354). -/
  aligned : Bool := false
  /-- The level of PAIR_HB_OUT (R346). -/
  heartbeat : Bool := false
  /-- The sequence of the next Stride frame, and the frame sent at the last edge. -/
  sequence : Nat := 0
  sent : Option StrideFrame := none
  /-- The twin's frame of this edge has arrived, or its deadline has passed. -/
  received : Bool := false
  /-- Errored frames in a row per lane, at most 8 (R352). -/
  laneErrors : Sparse Nat := []
  /-- The digests of the last two Strides, newest first: Stride, digest and health bit; the last Stride whose frame failed (R356). -/
  digests : List (Nat × Nat × Bool) := []
  missed : Option Nat := none
  /-- Mismatched Strides of the last 8000, newest first. -/
  mismatches : List Nat := []
  /-- A join is wanted; its step: 0 none, 1 the store copy runs, 2 the module rebuilds, 3 the first digest is awaited (R359); the Stride J
  that Near has named; HRN_CMD.rejoin started it (R358); a resync follows the swap that runs (R357). -/
  joinWanted : Bool := false
  joinStep : Nat := 0
  joinAt : Option Nat := none
  joinClears : Bool := false
  resyncAfterSwap : Bool := false
  /-- A resync has still to load Near's active set (R361). -/
  loadDue : Bool := false
  /-- What Near has put into the mirror stream since the last edge, oldest first (R58). -/
  stream : List Mirror := []
  mark : Option TwinImage := none
  /-- Off's values are flagged until a resync has completed (R357). -/
  flagged : Bool := false
  /-- Near's values of the last frame (R351, R353). -/
  nearOk : Nat := 0
  nearOutputs : Nat := 0
  nearPilots : List (Option Nat) := []
  /-- A takeover at this Stride, and whether it is unverified; a swap at this Stride (R362, R364). -/
  takeoverAt : Option (Nat × Bool) := none
  swapAt : Option Nat := none
  /-- The old Near keeps its outputs until this Stride (R364); accepted F drops no port before this one (R363). -/
  keepUntil : Option Nat := none
  graceUntil : Nat := 0
  /-- Channels that follow the pair demand after a takeover (R363). -/
  follow : Nat := 0
  /-- The words of HRN_MSG_TX, the message in flight, and the messages received, oldest first (R367). -/
  txWords : Sparse Word := []
  inFlight : Option (List Nat) := none
  messages : List (List Nat) := []
  deriving DecidableEq, Repr

/-! ### Network ports (R370–R384) -/

/-- A received frame in a port FIFO (R373): its bytes without the FCS, its priority (8 for the SAF block), its ring, none for the SAF
block, and its time-stamp in 2^-32 ns. -/
structure RxFrame where
  bytes : List Nat
  pcp : Nat
  ring : Option Nat
  stamp : Nat
  deriving DecidableEq, Repr

/-- A frame to be sent: its bytes without the FCS, the ring and index of its descriptor, and the PTP one-step request (R375). -/
structure TxFrame where
  bytes : List Nat
  descriptor : Option (Nat × Nat) := none
  oneStep : Bool := false
  stamp : Nat := 0
  deriving DecidableEq, Repr

/-- What a port holds beside registers. -/
structure NetPort where
  /-- The receive FIFO, oldest first (R373). -/
  fifo : List RxFrame := []
  /-- The transmit queues 0–7 (R376), the frame on the line, and the last frame sent. -/
  queues : Sparse (List TxFrame) := []
  sending : Option TxFrame := none
  last : Option TxFrame := none
  /-- What queues 0–5 started in the last 1 ms: queue, REFCLK cycle, bits. -/
  started : List (Nat × Nat × Nat) := []
  /-- No frame starts before this REFCLK cycle (R371). -/
  pausedTo : Nat := 0
  /-- With speed 0: the attempt is 10GBASE-R, and Strides of the attempt (R371). -/
  tries10g : Bool := true
  trying : Nat := 0
  /-- Receive time-stamps of the last Pdelay_Req per PTP domain, at most four domains (R74). -/
  requests : Sparse Nat := []
  /-- When the FIFO went above half full, and REFCLK cycles so counted that are not yet a whole µs (R373). -/
  above : Option Nat := none
  stall : Nat := 0
  deriving DecidableEq, Repr

/-- A diagnostic stream (R377–R380). -/
structure NetStream where
  /-- It is accepted; it starts or resumes at the next Stride divisible by 8. -/
  active : Bool := false
  starting : Bool := false
  /-- Frames were lost before the next one. -/
  lost : Bool := false
  /-- The open frame: its first Stride, the local clock at that edge, its flags, and its payload bytes. -/
  firstStride : Nat := 0
  firstClock : Nat := 0
  flags : Nat := 0
  payload : List Nat := []
  /-- The bits of the selected paths in the open raw frame, newest Stride first, and the paths of it that had a health fault. -/
  bits : Sparse (List Nat) := []
  faulty : List Nat := []
  /-- The Stride number with which the open frame goes on; none where no frame is open. -/
  due : Option Nat := none
  /-- Complete frames that wait to be sent, without sequence: flags, header fields and payload. -/
  ready : List (Nat × List Nat × List Nat) := []
  deriving DecidableEq, Repr

/-- The packet engine beside its registers. -/
structure Net where
  ports : Sparse NetPort := []
  /-- The next TX descriptor that each ring queues, and its descriptors that are queued, oldest first. -/
  next : Sparse Nat := []
  queued : Sparse (List Nat) := []
  streams : Sparse NetStream := []
  /-- REFCLK cycles up to the last Stride edge. -/
  cycles : Nat := 0
  deriving DecidableEq, Repr

/-! ### Mains link (R385–R405) -/

/-- A received frame in the FIFO (R399, R402). -/
structure MainsEntry where
  bytes : List Nat
  stamp : Nat
  d : Nat
  erased : Nat
  couplers : Nat
  double : Bool
  deriving DecidableEq, Repr

/-- The mains link beside its registers. Times in REFCLK cycles since reset. -/
structure Mains where
  /-- The last edge of each coupler's sense input; the tracker's edges in range so far, and its last half-periods, newest first, at most
  16 (R390). -/
  edges : Sparse (Option Nat) := []
  run : Nat := 0
  periods : List Nat := []
  /-- The last crossing was accepted, and when; the next prediction; a crossing has come that no frame has used. -/
  crossing : Option Nat := none
  next : Nat := 0
  crossed : Bool := false
  /-- The local clock and the REFCLK cycle at the start of the half-cycle that runs (R392). -/
  start : Nat := 0
  begun : Nat := 0
  /-- MLK_TX_CMD.abort ends the frame being sent at this symbol boundary (R400). -/
  aborting : Option Nat := none
  /-- The frame that waits or is sent; half-cycles left on the line; the symbols sent, two bits each, per half-cycle. -/
  frame : List Nat := []
  left : Nat := 0
  line : List Nat := []
  /-- Half-cycles left of the backoff; half-cycles since the end of the last frame, at most 4; its end. -/
  backoff : Nat := 0
  gap : Nat := 4
  ended : Option Nat := none
  /-- A frame is being received: the clock at the start of its sync. -/
  receiving : Option Nat := none
  fifo : List MainsEntry := []
  /-- Strides that lock has been lost for while the link is enabled, at most 8001. -/
  unlocked : Nat := 0
  deriving DecidableEq, Repr

/-! ### Tag reader (R406–R423) -/

/-- A frame level of a round: the round itself, or a sub-round of a bit-split (R411, R413): twice the floating Q, consecutive empty
frames at Q = 0, the depth, the bit and the SL value that a sub-round selects, and the slots of the present frame that have passed. -/
structure TagFrame where
  q2 : Nat
  empties : Nat := 0
  depth : Nat := 0
  split : Option (Nat × Bool) := none
  slots : Nat := 0
  deriving DecidableEq, Repr

/-- The link options in effect (R408, R421): modulation, Tari, link frequency, encoding, divide ratio and pilot tone, each as the code of
TAG_LINK. -/
structure TagLink where
  mod : Nat := 2
  tari : Nat := 1
  blf : Nat := 3
  m : Nat := 2
  dr : Nat := 1
  trext : Nat := 1
  deriving DecidableEq, Repr

/-- A Query as issued (R411): its Sel field, session, target and Q. -/
structure TagQuery where
  sel : Nat := 0
  session : Nat := 0
  target : Nat := 0
  q : Nat := 0
  deriving DecidableEq, Repr

/-- A command of ISO/IEC 18000-63 that the reader issues (R408, R411–R418). A Select asserts SL on a match of the mask in memory bank 01
from a bit pointer on and deasserts it otherwise; QueryAdjust moves Q by its step. -/
inductive TagCommand where
  | select (pointer : Nat) (mask : List Bool)
  | query (query : TagQuery)
  | queryAdjust (step : Int)
  | queryRep
  | ack
  | nak
  | reqRn
  | access (password : Nat)
  | read (bank pointer words : Nat)
  | write (bank pointer word : Nat)
  | authenticate (csi nonce : Nat)
  deriving DecidableEq, Repr

/-- What the reader last put on the air: conducted power in steps of 0.5 dB above +10.0 dBm, the link options, and the commands in their
order; none of them for an unmodulated carrier (R406–R418). -/
structure TagAir where
  power : Nat := 0
  link : TagLink := {}
  commands : List TagCommand := []
  deriving DecidableEq, Repr

/-- The work of a write or record write (R416, R418): its reads, the words to write (bank, word pointer, word), what the tag answers, the
outcome of the verifying read, and whether the first reads failed. -/
structure TagWork where
  reads : List TagCommand := []
  words : List (Nat × Nat × Nat) := []
  replies : List TagWriteReply := []
  verified : Nat := 0
  unread : Bool := false
  deriving DecidableEq, Repr

/-- A start that waits until its channel may be used again (R406): the antenna, Γ as measured when the carrier comes on, and the work, none
for a round. -/
structure TagJob where
  ant : Nat
  re : Int
  im : Int
  work : Option TagWork
  deriving DecidableEq, Repr

/-- A round that runs: its antenna, Strides it has run, its nonce (R414), its Query, and its frame levels, the present one first. -/
structure TagRound where
  ant : Nat
  query : TagQuery := {}
  age : Nat := 0
  nonce : Nat := 0
  frames : List TagFrame := []
  /-- A Halter exchange waits for the Authenticate reply; the round ends with it (R415, R420). -/
  exchange : Bool := false
  ending : Bool := false
  deriving DecidableEq, Repr

/-- A Halter resolve that waits for the vault's answer (R415): its antenna, bytes 36–53 of its report, the group slot, the window, HID,
and Strides from its submission until the vault's answer. -/
structure TagResolve where
  id : Nat
  ant : Nat
  tail : List Nat
  slot : Nat
  window : Nat
  hid : List Nat
  age : Nat := 0
  deriving DecidableEq, Repr

/-- The tag reader beside its registers. -/
structure TagReader where
  round : Option TagRound := none
  /-- A write that runs: its antenna and the step that waits for its reply. -/
  writing : Option (Nat × Nat) := none
  /-- The Write command of that step has not been sent in full (R416). -/
  midCommand : Bool := false
  deferred : Option TagJob := none
  /-- Strides since the last ping or the end of a round or write. -/
  sincePing : Nat := 0
  /-- Antennas whose last ping exceeded the threshold (R410). -/
  exceeded : Nat := 0
  air : TagAir := {}
  /-- The channel index, Strides of carrier on it, Strides since each channel was left, and the channels of region 1 that the present
  pass of its hopping has used (R406). -/
  channel : Nat := 0
  dwell : Nat := 0
  left : Sparse Nat := []
  hopped : List Nat := []
  rounds : Nat := 0
  fifo : List (List Nat) := []
  resolves : List TagResolve := []
  nextResolve : Nat := 0
  /-- Strides that each antenna has been faulted for. -/
  faulted : Sparse Nat := []
  deriving DecidableEq, Repr

/-! ### Aloalon vault (R424–R446) -/

/-- A key with its attributes and generation (R424). -/
structure VaultKey where
  type : Nat := 0
  usage : Nat := 0
  planes : Nat := 0
  generation : Nat := 0
  key : List Nat := []
  deriving DecidableEq, Repr

/-- A key bank of the store (R429): attributes, generation, the key wrapped, and its CRC once that is written. -/
structure VaultBank where
  type : Nat := 0
  usage : Nat := 0
  planes : Nat := 0
  generation : Nat := 0
  wrapped : List Nat := []
  crc : Option Nat := none
  deriving DecidableEq, Repr

/-- A commit entry (R429): generation, bank, the bank's CRC, Stride number and LC, and its own CRC, with which it is whole. -/
structure VaultEntry where
  generation : Nat
  bank : Nat
  crc : Nat
  stride : Nat
  lc : Nat
  check : Nat := 0
  deriving DecidableEq, Repr

/-- A stored copy of the configuration (R429, R430): its generation, its words in register order, and its CRC. -/
structure VaultCopy where
  generation : Nat
  words : List Nat
  crc : Nat
  deriving DecidableEq, Repr

/-- A stored copy of a Halter counter (R429, R430): its generation, last_i, and its CRC. -/
structure VaultHalter where
  generation : Nat
  last : Nat
  crc : Nat
  deriving DecidableEq, Repr

/-- The vault header (R429): layout version, module identity, key-change counter, and the CRC over them; the version and identity of the
factory are those of log 7. -/
structure VaultHeader where
  version : Nat := 0
  identity : List Nat := List.replicate 16 0
  changes : Nat := 0
  crc : Nat := 1614480521
  deriving DecidableEq, Repr

/-- The key in force in a slot, with the bank that holds it and the entry that names it (R430). -/
structure VaultSlot where
  key : VaultKey := {}
  bank : Nat := 1
  entry : Nat := 1
  deriving DecidableEq, Repr

/-- A key command that runs (R427, R445). -/
inductive VaultCommand where
  /-- The new bank of a slot has been written; its entry follows. -/
  | slot (k : Nat) (key : VaultKey)
  | config (words : List Nat)
  | halter (group id last : Nat)
  deriving DecidableEq, Repr

/-- Who sent a request: a window slot (4·plane + slot), the readout engine, or the tag reader (R436). -/
inductive VaultSource where
  | window (n : Nat)
  | readout
  | tag (id : Nat)
  deriving DecidableEq, Repr

/-- A request (R435). -/
structure VaultRequest where
  source : VaultSource
  plane : Nat
  op : Nat
  slot : Nat := 0
  ktype : Nat := 0
  /-- The steps of the path: label and context. -/
  path : List (List Nat × List Nat) := []
  param : Nat := 0
  input : List Nat := []
  deriving DecidableEq, Repr

/-- The answer of an operation: error 0 with the output, or the error; a Halter resolve's matches (R415). -/
structure VaultAnswer where
  error : Nat := 0
  output : List Nat := []
  found : List (Nat × Nat) := []
  deriving DecidableEq, Repr

/-- The vault beside its registers. -/
structure Vault where
  /-- The vault region: its header, key banks 2·slot + b, commit entries 2·slot + e, the two copies of each Halter counter,
  2·(4096·group + i) + copy, and of the configuration (R429, R430). -/
  header : VaultHeader := {}
  banks : Sparse (Option VaultBank) := []
  entries : Sparse (Option VaultEntry) := []
  halters : Sparse (Option VaultHalter) := []
  stored : Sparse (Option VaultCopy) := []
  /-- The keys in force, and the committed configuration in force: its words in register order. -/
  slots : Sparse VaultSlot := []
  config : List Nat := []
  command : Option VaultCommand := none
  /-- Queued requests in the order of acceptance, and what each engine runs: 0 symmetric, 1 public-key, 2 search. -/
  queue : List VaultRequest := []
  engines : Sparse (Option (VaultRequest × VaultAnswer)) := []
  /-- Answers for the internal requesters that wait to be taken: a tag request by its id, the readout engine's under 256. -/
  answers : Sparse (Option VaultAnswer) := []
  sequence : Nat := 0
  /-- A health test has failed during the start-up tests (R441). -/
  testsFailed : Bool := false
  /-- DRBG requests and Strides since the last reseed (R441). -/
  drawn : Nat := 0
  sinceSeed : Nat := 0
  deriving DecidableEq, Repr

/-! ### Start-up, resets and update (R467–R486) -/

/-- A plane's part of a boot record (R478). -/
structure BootPlane where
  preferred : Nat := 0
  previous : Nat := 1
  trial : Bool := false
  trialBank : Nat := 1
  tries : Nat := 0
  deriving DecidableEq, Repr

/-- A boot record (R478). -/
structure BootRecord where
  generation : Nat := 0
  planes : List BootPlane := [{}, {}, {}, {}]
  deriving DecidableEq, Repr

/-- A NOR update command that runs (R485). -/
inductive NorCommand where
  | erase (plane bank ofs : Nat)
  | program (plane bank ofs : Nat) (data : List Nat)
  | verify (plane bank : Nat)
  deriving DecidableEq, Repr

/-- The boot and update logic beside its registers. -/
structure Boot where
  /-- The image partitions of both NOR devices, address bank · 2^28 + offset; erased bytes are 0xFF (R476). -/
  nor : Sparse Byte := []
  /-- The four boot-record copies: two in NOR A, two in NOR B. -/
  records : List (Option BootRecord) := [none, none, none, none]
  /-- The enrolled signing-key hashes by index (R479). -/
  hashes : Sparse (List Nat) := []
  /-- Banks that passed verify since their last program command: bit 2·plane + bank (R480). -/
  verified : Nat := 0
  /-- Banks of which power was lost during a program or erase: they fail R477 until they are programmed again (R482). -/
  spoilt : Nat := 0
  command : Option NorCommand := none
  /-- The plane that the loader loads and its bank, the starts that wait, and the Strides left of a plane reset (R468, R472). -/
  loading : Option (Nat × Nat) := none
  waiting : List Nat := []
  hold : Sparse Nat := []
  /-- Planes that restart after a plane reset, and those whose loader has reverted and that do not run yet (R478, R481). -/
  restarting : Nat := 0
  reverting : Nat := 0
  /-- Watchdogs: Strides since the service, none while stopped; the half-time sources raised (R470). -/
  watchdogs : Sparse (Option Nat) := []
  halves : Nat := 0
  /-- Strides since the start of a trial plane (R478). -/
  trials : Sparse Nat := []
  /-- A controller-die or module reset that waits for its commit: module, cause, plane (R471, R475). -/
  wanted : Option (Bool × Nat × Nat) := none
  /-- PAIR_POS has been sampled since the last module reset (R346). -/
  positionKnown : Bool := false
  /-- The CRC of the configuration record in force (R440). -/
  configCrc : Nat := 0
  /-- The controller die is held in reset; since power-up, so that no bring-up has yet run; REFCLK is at fault (R473, R496). -/
  held : Bool := false
  powered : Bool := true
  refclkBad : Bool := false
  deriving DecidableEq, Repr

/-! ### The block -/

/-- Everything but the queue. -/
structure Chip where
  variant : Variant := .mh6432
  /-- The page registers, active and shadow copies, and the words of the windows beside them, by address. -/
  regs : Sparse Word := []
  /-- Words latched by a read of word 0 of a multi-word register, by address (R64, R143, R144). -/
  latch : Sparse Word := []
  /-- What the last read access returned. -/
  rdata : Nat := 0
  /-- Fabric memory outside the pages: mailbox payloads, CAN buffers, port and network rings (R27, R260, R373). -/
  mem : List Host.Cell := []
  /-- The MRAM ledger store (R210). -/
  mram : List Host.Cell := []
  /-- The Stride number (R72), the number the next edge loads, and REFCLK cycles since the last edge. -/
  stride : Nat := 0
  strideNext : Option Nat := none
  cycle : Nat := 0
  /-- The ledger clock LC and its flags of this Stride (R77, R78). -/
  lc : Nat := 0
  /-- Free values drawn so far (the model's own field, log 1). -/
  drawn : Nat := 0
  faults : List ActiveFault := []
  stg : Staging := {}
  evc : Events := {}
  tim : TimeUnit := {}
  elements : Sparse Element := []
  meters : Sparse Meter := []
  fold : Fold := {}
  trf : Tariff := {}
  dmd : Demand := {}
  led : Ledger := {}
  dsp : Readout := {}
  ports : Sparse Port := []
  can : Sparse CanState := []
  load : Load := {}
  saf : Safety := {}
  pair : Pair := {}
  net : Net := {}
  mlk : Mains := {}
  tag : TagReader := {}
  vlt : Vault := {}
  boot : Boot := {}
  deriving DecidableEq, Repr

/-- The state of the block: the block itself and the commands that wait, first in, first out. -/
structure State where
  chip : Chip
  pending : List Instr
  deriving DecidableEq, Repr

/-- The block right after module reset: no register, memory or unit differs from its reset value, and no command waits. -/
def State.reset : State := { chip := {}, pending := [] }

end Sys2Proof.Machine
end

