-- ==== Sys2Proof/Machine/Ops.lean ====
section
/-! DEFINITION. The named operations over the block: registers and their fields, reset values by variant, byte memories, unit
arrays, free values, and the outcome of a command. -/

namespace Sys2Proof.Machine

/-- What a command answers. -/
abbrev Answer := Host.Outcome State Fault Refusal

/-- A command's effect on everything but the queue. -/
def State.effect (f : Chip → Chip) (s : State) : Answer := .next { s with chip := f s.chip }

/-- The number of the plane (R49). -/
def planeNo : Plane → Nat
  | .control => 0
  | .data => 1
  | .management => 2
  | .safety => 3

/-- The initiator code of FAB_VIOL_INFO (R49). -/
def initiatorNo : Initiator → Nat
  | .a0 => 0
  | .a1 => 1
  | .a2 => 2
  | .a3 => 3
  | .b0 => 4
  | .b1 => 5
  | .m0 => 6
  | .s0 => 7
  | .dma _ => 8
  | .packet _ => 9

/-- The plane that an initiator acts for (R21). -/
def initiatorPlane : Initiator → Nat
  | .a0 | .a1 | .a2 | .a3 => 0
  | .b0 | .b1 => 1
  | .m0 => 2
  | .s0 => 3
  | .dma p => planeNo p
  | .packet p => planeNo p

/-- The plane of event-controller target t (R447). -/
def targetPlane (t : Nat) : Nat := if t < 4 then 0 else if t < 6 then 1 else if t = 6 then 2 else 3

/-- The first core of a plane as a target (R449). -/
def firstTarget (p : Nat) : Nat := if p = 0 then 0 else if p = 1 then 4 else if p = 2 then 6 else 7

/-- FAB_CAP.variant: the port count (R2). -/
def Variant.ports : Variant → Nat
  | .mh6432 => 32
  | .mh6424 => 24
  | .mh6416 => 16
  | .mh6408 => 8

/-- The pages of a block that the variant carries (R2, R59). -/
def Blk.count (v : Variant) : Blk → Nat
  | .mtr => v.ports * 3 / 2
  | .sfe | .met | .pqm | .lsw => v.ports * 2
  | .opt | .rcm => v.ports
  | .imd => v.ports / 4
  | .can => 4
  | .ntp => if v.ports ≥ 24 then 2 else 1
  | .hrn => if v.ports ≥ 16 then 1 else 0
  | .hrl => if v.ports ≥ 16 then 2 else 0
  | .mlk => if v.ports ≥ 24 then 1 else 0
  | .mlc => if v.ports ≥ 24 then 3 else 0
  | .tag => if v.ports ≥ 32 then 1 else 0
  | .ant => if v.ports ≥ 32 then 4 else 0
  | .mbx => 6
  | .vrq => 16
  | _ => 1

/-- Metering elements of the variant. -/
def Variant.elements (v : Variant) : Nat := v.ports * 2
/-- Logical meters of the variant. -/
def Variant.meters (v : Variant) : Nat := v.ports * 3 / 2
/-- Flocks, load banks and cut outputs of the variant. -/
def Variant.flocks (v : Variant) : Nat := v.ports / 4
/-- Load channels of the variant. -/
def Variant.channels (v : Variant) : Nat := v.ports * 2

/-- The blocks in the order of the block map. -/
def allBlocks : List Blk :=
  [.fab, .evc, .tim, .stg, .sfg, .trf, .dmd, .ldg, .dsp, .mtr, .sfe, .met, .pqm, .opt, .can, .lsg, .lsw, .saf, .crk, .rcm, .imd,
   .net, .ntp, .hrn, .hrl, .mlk, .mlc, .tag, .ant, .vlt, .vlp, .upd, .upu, .mbx, .vrq]

/-- The block and instance that an address lies in, for the fitted pages of the variant (R3, R47, R59). -/
def locate (v : Variant) (a : Nat) : Option (Blk × Nat) :=
  match allBlocks.find? (fun b => decide (b.base ≤ a) && decide (a < b.base + b.count v * b.pitch)) with
  | some b => some (b, (a - b.base) / b.pitch)
  | none => none

/-- The base address of the page of an instance. -/
def pageOf (b : Blk) (n : Nat) : Nat := b.base + n * b.pitch

/-- The row of a block's table that holds an offset, with the copy's index. -/
def rowAt (b : Blk) (ofs : Nat) : Option (RegRow × Nat) :=
  match b.rows.find? (fun r =>
      if r.count ≤ 1 then decide (r.ofs = ofs)
      else decide (r.ofs ≤ ofs) && decide ((ofs - r.ofs) % r.step = 0) &&
        decide ((ofs - r.ofs) / r.step < r.count)) with
  | some r => some (r, if r.count ≤ 1 then 0 else (ofs - r.ofs) / r.step)
  | none => none

/-- The owner after module reset (R23). -/
def Blk.owner : Blk → Nat
  | .fab | .tim | .stg | .hrn | .hrl | .upd | .upu | .vlt | .vlp | .evc | .lsg => 2
  | .sfg | .sfe | .met | .mtr | .pqm | .trf | .dmd | .ldg | .dsp => 1
  | .saf | .crk | .rcm | .imd => 3
  | _ => 0

/-- The owner may be changed (R23). -/
def Blk.reassignable : Blk → Bool
  | .opt | .can | .lsw | .mlk | .mlc | .tag | .ant | .net | .ntp => true
  | _ => false

/-- Pages mirrored to the twin (R58). -/
def Blk.pairScope : Blk → Bool
  | .sfg | .sfe | .met | .mtr | .pqm | .trf | .dmd | .ldg | .dsp => true
  | _ => false

/-- The reset value of OWNER (R23, R45). -/
def Blk.ownerReset (b : Blk) : Nat :=
  b.owner + 16 * (match b with
    | .vlp | .upd | .upu | .fab => 4
    | _ => 15) + 256 * b.reassignable.toNat + 512 * b.pairScope.toNat

/-- The reset value of an EVC_TGT word (R449): the targets of the eight sources from 32 + 8n. -/
def resetTarget (id : Nat) : Nat :=
  if id = 32 then 0
  else if id < 37 then firstTarget (id - 33)
  else if id < 61 then
    -- doorbell 37 + 4p + k of pair p: upward posts and downward freed go to the higher plane
    let p := (id - 37) / 4
    let k := (id - 37) % 4
    let lower := if p < 3 then 0 else if p < 5 then 1 else 2
    let higher := if p < 3 then p + 1 else if p = 3 then 2 else 3
    if k = 0 ∨ k = 3 then firstTarget higher else firstTarget lower
  else if id < 64 then 0
  else if id < 106 then 7
  else if id = 106 then 6
  else if id < 207 then 0
  else if id < 212 then 6
  else if id = 212 then 4
  else if id < 218 then 6
  else if id < 222 then 4
  else if id < 234 then 0
  else if id = 234 then 6
  else if id < 256 then 0
  else if id < 496 then 4
  else 6

/-- Reset values that depend on the variant or the instance (R2, R111, R112, R239, R295, R296, R341, R382, R449, R464, R466, R483,
and the DESIGN CHOICES of log 7 where the spec names a factory, stored or strap value). -/
def specialReset (v : Variant) (b : Blk) (n ofs : Nat) : Option Nat :=
  match b with
  | .fab =>
    if ofs = 0x004 then some (v.ports + 0x400 + 0x8000)
    else if ofs = 0x2FC then some 0x7310
    else if ofs = 0x128 then some 200
    else if ofs = 0x12C then some 200
    else if ofs = 0x130 then some (0x10000 + 500)
    else none
  | .sfg =>
    if ofs = 0x004 then some (v.elements + 256 * (v.elements / 8) + 0x4EDA0000)
    else if ofs = 0x008 then some (2 ^ (v.elements / 8) - 1)
    else none
  | .sfe => if ofs = 0x004 then some (7 + 256 * (n / 8)) else none
  | .met => if ofs = 0x138 then some 1939441486 else none
  | .dsp => if ofs = 0x004 then some (v.ports + 0x4000) else none
  | .lsg =>
    if ofs = 0x004 then some (v.channels + 256 * v.flocks)
    else if ofs = 0x100 then some (if 32 < v.channels then 0x404 else 4)
    else if ofs = 0x1A8 then some 0x758D6336
    else none
  | .lsw =>
    if ofs = 0x004 then some (n / 8 % 8 + 256 * (n / 32))
    else if ofs = 0x00C then some (0x8000 + 0x300000)
    else if ofs = 0x120 then some 8000000
    else none
  | .saf =>
    if ofs = 0x004 then some (v.flocks + 16 * v.ports)
    else if ofs = 0x154 then some ((2 ^ v.flocks - 1) * 0x10101)
    else if 0x110 + 4 * v.flocks ≤ ofs ∧ ofs < 0x130 then some 0
    else none
  | .crk => if ofs = 0x100 then some (2 ^ v.flocks - 1) else none
  | .ntp => if ofs = 0x100 then some n else none
  | .net =>
    if ofs = 0x004 then some (if v.ports ≥ 24 then 2 else 1)
    else if ofs = 0x11C then some 0x442
    else none
  | .evc =>
    if 0x100 ≤ ofs ∧ ofs < 0x300 then
      let t := (ofs - 0x100) / 0x40
      let o := (ofs - 0x100) % 0x40
      if o = 0x10 then some (if t = 7 then 0x5DFF else 0x4DFF)
      else if o = 0x18 then some (0xFFFF + (if t < 6 then 0x80000 else 0))
      else if o = 0x1C then some (if t = 0 then 9 else if t < 4 then 8 else if t = 4 then 13 else if t = 5 then 12 else 0)
      else none
    else if ofs = 0x400 then some 0x1FFFFFFF
    else if ofs = 0x438 then some 0xFFFF0000
    else if 0x43C ≤ ofs ∧ ofs < 0x480 then some 0xFFFFFFFF
    else if 0x500 ≤ ofs ∧ ofs < 0x700 then
      let w := (ofs - 0x500) / 4
      some ((List.range 8).foldl (fun x j => x + resetTarget (32 + 8 * w + j) * 16 ^ j) 0)
    else none
  | _ => none

/-- The reset value of a register, by its block, instance and offset: a shadow's is that of its active register (R60). -/
def resetOf (v : Variant) (b : Blk) (n ofs : Nat) : Nat :=
  if b = .mbx ∨ b = .vrq then
    match rowAt b ofs with
    | some (r, _) => r.reset
    | none => 0
  else if ofs = 0x000 then b.code * 0x1000000 + 0x10000 + n * 0x100 + 1
  else if ofs = 0x01C then b.evType
  else if ofs = 0x030 then b.ownerReset
  else
    let o := if ofs = 0xF08 then 0x008 else if 0x800 ≤ ofs then ofs - 0x700 else ofs
    match specialReset v b n o with
    | some x => x
    | none =>
      match rowAt b o with
      | some (r, _) => r.reset
      | none => 0

/-- The reset value of the word at an address. -/
def resetWord (v : Variant) (a : Nat) : Word :=
  match locate v a with
  | some (b, n) => BitVec.ofNat 32 (resetOf v b n ((a - b.base) % b.pitch))
  | none => 0

/-- The word held at an address. -/
def Chip.word (c : Chip) (a : Nat) : Word := Sparse.get (resetWord c.variant) c.regs a

/-- The block with the word at an address replaced. -/
def Chip.setWord (c : Chip) (a : Nat) (w : Word) : Chip :=
  { c with regs := Sparse.set (resetWord c.variant) c.regs a w }

/-- Reads a field. -/
def Chip.rd (c : Chip) (f : Fld) : Nat := ((c.word f.addr).extractLsb' f.lo f.w).toNat

/-- The word w with field f replaced by v. -/
def Fld.into (f : Fld) (v : Nat) (w : Word) : Word :=
  let m := BitVec.ofNat 32 ((2 ^ f.w - 1) <<< f.lo)
  (w &&& ~~~m) ||| (BitVec.ofNat 32 (v <<< f.lo) &&& m)

/-- Writes a field. -/
def Chip.put (c : Chip) (f : Fld) (v : Nat) : Chip := c.setWord f.addr (f.into v (c.word f.addr))

/-- Reads a field as a signed number. -/
def Chip.rdS (c : Chip) (f : Fld) : Int := signed f.w (c.rd f)

/-- Writes a signed number to a field. -/
def Chip.putS (c : Chip) (f : Fld) (v : Int) : Chip := c.put f (bitsOf f.w v)

/-- A one-bit field. -/
def Chip.flag (c : Chip) (f : Fld) : Bool := c.rd f != 0

/-- Writes a one-bit field. -/
def Chip.setFlag (c : Chip) (f : Fld) (b : Bool) : Chip := c.put f b.toNat

/-- Bit k of the register of a field. -/
def Fld.bitOf (f : Fld) (k : Nat) : Fld := ⟨f.addr, f.lo + k, 1⟩

/-- The shadow of a field (R54). -/
def Fld.shadow (f : Fld) : Fld :=
  { f with addr := if f.addr % 0x1000 = 0x008 then f.addr + 0xF00 else f.addr + 0x700 }

/-- A 64-bit value of a low and a high word. -/
def Chip.rd64 (c : Chip) (lo hi : Fld) : Nat := c.rd lo + 2 ^ 32 * c.rd hi

/-- Writes a 64-bit value to a low and a high word. -/
def Chip.put64 (c : Chip) (lo hi : Fld) (v : Nat) : Chip := (c.put lo v).put hi (v / 2 ^ 32)

/-- Increments a field, wrapping. -/
def Chip.inc (c : Chip) (f : Fld) : Chip := c.put f (c.rd f + 1)

/-- Increments a field that saturates. -/
def Chip.incSat (c : Chip) (f : Fld) : Chip := c.put f (satN f.w (c.rd f + 1))

/-- An element's state. -/
def Chip.elem (c : Chip) (n : Nat) : Element := Sparse.get (fun _ => {}) c.elements n

/-- The block with an element's state replaced. -/
def Chip.setElem (c : Chip) (n : Nat) (e : Element) : Chip :=
  { c with elements := Sparse.set (fun _ => {}) c.elements n e }

/-- A meter's state. -/
def Chip.meter (c : Chip) (m : Nat) : Meter := Sparse.get (fun _ => {}) c.meters m

/-- The block with a meter's state replaced. -/
def Chip.setMeter (c : Chip) (m : Nat) (x : Meter) : Chip :=
  { c with meters := Sparse.set (fun _ => {}) c.meters m x }

/-- A free value (log 1): the next one, and the block that has drawn it. -/
def Chip.draw (c : Chip) : Nat × Chip := (Config.freeNat c.drawn, { c with drawn := c.drawn + 1 })

/-! ### Byte memories -/

/-- What a byte of memory that nothing has written reads as (DESIGN CHOICE, log 8). -/
def unwritten (_ : Nat) : Byte := 0

/-- A byte memory is in canonical form. -/
abbrev Memory.wf (m : List Host.Cell) : Prop := Sparse.wf unwritten m = true

/-- Reads one byte of a memory. -/
def Memory.byte (m : List Host.Cell) (a : Nat) : Nat := (Sparse.get unwritten m a).toNat

/-- Writes one byte of a memory. -/
def Memory.setByte (m : List Host.Cell) (a v : Nat) : List Host.Cell :=
  Sparse.set unwritten m a (BitVec.ofNat 8 v)

/-- Reads n bytes from address a on. -/
def Memory.read (m : List Host.Cell) (a : Nat) : Nat → List Nat
  | 0 => []
  | n + 1 => Memory.byte m a :: Memory.read m (a + 1) n

/-- Writes bytes from address a on. -/
def Memory.write (m : List Host.Cell) (a : Nat) : List Nat → List Host.Cell
  | [] => m
  | b :: bs => Memory.write (Memory.setByte m a b) (a + 1) bs

/-- A little-endian number of n bytes at address a. -/
def Memory.le (m : List Host.Cell) (a n : Nat) : Nat := ofLe (Memory.read m a n)

/-- Reads n bytes of fabric memory. -/
def Chip.bytes (c : Chip) (a n : Nat) : List Nat := Memory.read c.mem a n

/-- Writes bytes to fabric memory. -/
def Chip.setBytes (c : Chip) (a : Nat) (bs : List Nat) : Chip :=
  { c with mem := Memory.write c.mem a bs }

/-- Writes bytes to the ledger store. -/
def Chip.store (c : Chip) (a : Nat) (bs : List Nat) : Chip :=
  { c with
    mram := Memory.write c.mram a bs
    led := { c.led with spoilt := c.led.spoilt.filter fun w => !(decide (a < w + 8) && decide (w < a + bs.length)) } }

/-- Reads n bytes of the ledger store. -/
def Chip.stored (c : Chip) (a n : Nat) : List Nat := Memory.read c.mram a n

end Sys2Proof.Machine
end

