-- ==== Sys2Proof/Machine/Flags.lean ====
section
/-! DEFINITION. Events, event sources, and faults: the event registers of every page (R46), the pending state of shared and
private sources (R447–R460), and the faults reported under R7. -/

namespace Sys2Proof.Machine

/-- The live state of event condition k of a page (R44). -/
def evRaw (page k : Nat) : Fld := ⟨page + 0x010, k, 1⟩
/-- The enable of event k of a page. -/
def evEn (page k : Nat) : Fld := ⟨page + 0x014, k, 1⟩
/-- The stored pending state of edge event k of a page. -/
def evPend (page k : Nat) : Fld := ⟨page + 0x018, k, 1⟩
/-- The kind of event k of a page: 1 for an edge event. -/
def evType (page k : Nat) : Fld := ⟨page + 0x01C, k, 1⟩

/-- The owner field and the read scope of a page (R44). -/
def ownerFld (page : Nat) : Fld := ⟨page + 0x030, 0, 2⟩
def scopeFld (page : Nat) : Fld := ⟨page + 0x030, 4, 4⟩

/-- EV_PEND as it reads: stored edges, and the live state of level events (R46). -/
def Chip.pendWord (c : Chip) (page : Nat) : Word :=
  let t := c.word (page + 0x01C)
  (c.word (page + 0x018) &&& t) ||| (c.word (page + 0x010) &&& ~~~t)

/-- The page's event source is asserted to the event controller (R46). -/
def Chip.pageAsserts (c : Chip) (page : Nat) : Bool :=
  c.pendWord page &&& c.word (page + 0x014) != 0

/-- The page that asserts a shared level source (R449). -/
def sourcePage (v : Variant) (id : Nat) : Option Nat :=
  let inst (b : Blk) (n : Nat) : Option Nat := if n < b.count v then some (pageOf b n) else none
  if id < 64 then none
  else if id = 64 then inst .saf 0
  else if id = 65 then inst .crk 0
  else if id < 98 then inst .rcm (id - 66)
  else if id < 106 then inst .imd (id - 98)
  else if id = 106 then inst .lsg 0
  else if id < 171 then inst .lsw (id - 107)
  else if id < 203 then inst .opt (id - 171)
  else if id < 207 then inst .can (id - 203)
  else if id = 207 then inst .tim 0
  else if id = 208 then inst .stg 0
  else if id = 209 then inst .hrn 0
  else if id < 212 then inst .hrl (id - 210)
  else if id = 212 then inst .ldg 0
  else if id = 213 then inst .fab 0
  else if id = 214 then inst .upd 0
  else if id = 215 then inst .upu 0
  else if id = 216 then inst .vlt 0
  else if id = 217 then inst .vlp 0
  else if id = 218 then inst .sfg 0
  else if id = 219 then inst .trf 0
  else if id = 220 then inst .dmd 0
  else if id = 221 then inst .dsp 0
  else if id = 222 then inst .net 0
  else if id < 225 then inst .ntp (id - 223)
  else if id = 225 then inst .mlk 0
  else if id < 229 then inst .mlc (id - 226)
  else if id = 229 then inst .tag 0
  else if id < 234 then inst .ant (id - 230)
  else if id = 234 then inst .evc 0
  else if id < 256 then none
  else if id < 304 then inst .mtr (id - 256)
  else if id < 368 then inst .sfe (id - 304)
  else if id < 432 then inst .met (id - 368)
  else if id < 496 then inst .pqm (id - 432)
  else none

/-- The EVC_PEND, EVC_EN, EVC_REDIR and EVC_TGT fields of a shared source (R463). -/
def srcPend (id : Nat) : Fld := ⟨0x40010300 + (id - 32) / 32 * 4, (id - 32) % 32, 1⟩
def srcEn (id : Nat) : Fld := ⟨0x40010380 + (id - 32) / 32 * 4, (id - 32) % 32, 1⟩
def srcRedir (id : Nat) : Fld := ⟨0x40010480 + (id - 32) / 32 * 4, (id - 32) % 32, 1⟩
def srcTarget (id : Nat) : Fld := ⟨0x40010500 + (id - 32) / 8 * 4, (id - 32) % 8 * 4, 3⟩

/-- The shared source is an edge source (R449, R464). -/
def srcIsEdge (id : Nat) : Bool := decide (id < 61) || decide (496 ≤ id)

/-- Some target holds the shared source claimed (R451). -/
def Chip.claimed (c : Chip) (id : Nat) : Bool :=
  (List.range 8).any fun t => c.rd (EVC_TSTAT_held t) == id

/-- The shared source is pending (R451): an edge as stored; a level while asserted and not claimed. -/
def Chip.srcPending (c : Chip) (id : Nat) : Bool :=
  if srcIsEdge id then c.flag (srcPend id)
  else match sourcePage c.variant id with
    | some p => c.pageAsserts p && !c.claimed id
    | none => false

/-- Target t is online (R457). -/
def Chip.online (c : Chip) (t : Nat) : Bool := c.flag (EVC_TSTAT_online t)

/-- The effective target of a shared source (R458), none in compatibility mode for a target that is not online (R461). -/
def Chip.effective (c : Chip) (id : Nat) : Option Nat :=
  let t := c.rd (srcTarget id)
  if c.online t then some t
  else if c.flag EVC_CTRL_compat then none
  else
    let f := c.rd (EVC_TCFG_fallback t)
    if c.flag (EVC_TSTAT_parked t) && c.flag (EVC_TCFG_fb_en t) && targetPlane f == targetPlane t && c.online f then
      some f
    else none

/-- Edge event k of a page is pending (R46). -/
def Chip.edgeEv (c : Chip) (page k : Nat) : Chip :=
  if c.flag (evType page k) then c.setFlag (evPend page k) true else c

/-- The number that a source shows at a claim: a private source shows as 496 + 32t + k in compatibility mode (R461). -/
def Chip.privateId (c : Chip) (t k : Nat) : Nat := if c.flag EVC_CTRL_compat then 496 + 32 * t + k else k

/-- The private sources pending at a target: stored edges and the core timer (R448, R451). A claimed level is not sampled. -/
def Chip.privatePending (c : Chip) (t : Nat) : Nat :=
  let e := c.rd (EVC_PRIV_PEND t)
  if bit c.evc.timer t && c.rd (EVC_TSTAT_held t) != c.privateId t 9 then e ||| 512 else e

/-- The private sources deliverable to target t (R451). -/
def Chip.privateDeliverable (c : Chip) (t : Nat) : List Nat :=
  bitsSet 32 (c.privatePending t &&& c.rd (EVC_PRIV_EN t))

/-- The shared sources from lo to below hi that are deliverable to target t (R451). -/
def Chip.sharedDeliverable (c : Chip) (t lo hi : Nat) : Option Nat :=
  ((List.range (hi - lo)).map (· + lo)).find? fun id =>
    c.flag (srcEn id) && c.srcPending id && !c.claimed id && c.effective id == some t

/-- The lowest deliverable source of target t, private ones first; in compatibility mode they follow the page sources (R452, R461). -/
def Chip.lowestDeliverable (c : Chip) (t : Nat) : Option Nat :=
  let priv := ((c.privateDeliverable t).head?).map (c.privateId t)
  if c.flag EVC_CTRL_compat then
    (c.sharedDeliverable t 32 496).or (priv.or (c.sharedDeliverable t 752 1056))
  else priv.or (c.sharedDeliverable t 32 1056)

/-- Target t requests its core (R453). -/
def Chip.requesting (c : Chip) (t : Nat) : Bool :=
  c.rd (EVC_TSTAT_held t) == 0xFFFF && (c.lowestDeliverable t).isSome

/-- The wake-up of R456: a sleeping core whose target requests runs again. -/
def Chip.wakeCores (c : Chip) : Chip :=
  forN 8 (fun t c => if c.flag (EVC_TSTAT_wfi t) && c.requesting t then c.setFlag (EVC_TSTAT_wfi t) false else c) c

/-- A private source of a target fires (R448); a core that sleeps wakes when its target requests (R456). -/
def Chip.firePrivate (c : Chip) (t k : Nat) : Chip := (c.setFlag ((EVC_PRIV_PEND t).bitOf k) true).wakeCores

/-- The pending sources that R458 redirects at present, with the target that receives each. A claimed source stays with its holder
(R460). -/
def Chip.redirectedNow (c : Chip) : List (Nat × Nat) :=
  (List.range 1024).filterMap fun k =>
    let id := k + 32
    if c.online (c.rd (srcTarget id)) || !c.srcPending id || c.claimed id then none
    else (c.effective id).map fun f => (id, f)

/-- The redirections in force: of the sources that are pending, and of those that their fallback holds claimed and completes (R459). -/
def Chip.redirected (c : Chip) : List (Nat × Nat) :=
  (if c.rd EVC_STATUS_parked = 0 then [] else c.redirectedNow) ++ c.evc.redirections.filter fun r => c.rd (EVC_TSTAT_held r.2) == r.1

/-- R458 and R459 after a change: a redirection that begins sets EVC_REDIR, raises event 1 and notifies the fallback unless it has others;
redir_in follows. -/
def Chip.settleRedirection (c : Chip) : Chip :=
  let rs := c.redirected
  if rs = c.evc.redirections then c
  else
    let new := rs.filter fun r => !c.evc.redirections.contains r
    let c := new.foldl (fun c r =>
      let c := (c.setFlag (srcRedir r.1) true).edgeEv 0x40010000 1
      if c.flag (EVC_TSTAT_redir_in r.2) then c
      else (c.firePrivate r.2 14).setFlag (EVC_TSTAT_redir_in r.2) true) c
    let c := forN 8 (fun t c => c.setFlag (EVC_TSTAT_redir_in t) (rs.any fun r => r.2 == t)) c
    { c with evc := { c.evc with redirections := rs } }

/-- What follows in the event controller from any change of a source, an enable, a target or a claim (R456, R458, R459). -/
def Chip.settleEvents (c : Chip) : Chip := c.settleRedirection.wakeCores

/-- In compatibility mode an ID from 496 to 751 shows a private source: its target and number (R461). -/
def Chip.aliased (c : Chip) (id : Nat) : Option (Nat × Nat) :=
  if c.flag EVC_CTRL_compat ∧ 496 ≤ id ∧ id < 752 then some ((id - 496) / 32, (id - 496) % 32) else none

/-- The source with an ID is enabled, an aliased one by its own target's enable (R461). -/
def Chip.sourceEnabled (c : Chip) (id : Nat) : Bool :=
  match c.aliased id with
  | some (t, k) => bit (c.rd (EVC_PRIV_EN t)) k
  | none => c.flag (srcEn id)

/-- An edge arrives at event k of a page: EV_PEND sets when the event is an edge event, whatever EV_EN holds (R46). -/
def Chip.raiseEv (c : Chip) (page k : Nat) : Chip := (c.edgeEv page k).settleEvents

/-- The condition of event k of a page takes the level b: a rise is an edge (R46). -/
def Chip.setRaw (c : Chip) (page k : Nat) (b : Bool) : Chip :=
  let was := c.flag (evRaw page k)
  let c := c.setFlag (evRaw page k) b
  if b && !was then c.raiseEv page k else if b = was then c else c.settleEvents

/-- A shared edge source fires: it is pending, and further firings coalesce (R451). -/
def Chip.fireShared (c : Chip) (id : Nat) : Chip := (c.setFlag (srcPend id) true).settleEvents

/-- The control tick is raised (R40): not a second time while it is pending or claimed, which counts as missed (R42). -/
def Chip.controlTick (c : Chip) : Chip :=
  if c.flag (srcPend 32) || c.claimed 32 then
    { c with evc := { c.evc with missedTicks := c.evc.missedTicks + 1 } }
  else c.fireShared 32

/-- The doorbell source of pair p: k = 0 posted upward, 1 freed upward, 2 posted downward, 3 freed downward (R449). -/
def doorbell (p k : Nat) : Nat := 37 + 4 * p + k

/-! ### Faults -/

/-- A fault is in force. -/
def Chip.hasFault (c : Chip) (level code unit : Nat) : Bool :=
  c.faults.any fun f => f.level == level && f.code == code && f.unit == unit

/-- A fault is reported at its level (R7). -/
def Chip.setFault (c : Chip) (level code unit : Nat) : Chip :=
  if c.hasFault level code unit then c else { c with faults := c.faults ++ [⟨level, code, unit⟩] }

/-- A reported fault ends. -/
def Chip.clearFault (c : Chip) (level code unit : Nat) : Chip :=
  { c with faults := c.faults.filter fun f => !(f.level == level && f.code == code && f.unit == unit) }

/-- A fault follows a condition. -/
def Chip.faultIs (c : Chip) (level code unit : Nat) (b : Bool) : Chip :=
  if b then c.setFault level code unit else c.clearFault level code unit

/-- The meter that an element belongs to (R104). -/
def Chip.meterOf (c : Chip) (e : Nat) : Option Nat :=
  if c.flag (SFE_ASSIGN_assigned e) && decide (c.rd (SFE_ASSIGN_meter e) < c.variant.meters) then
    some (c.rd (SFE_ASSIGN_meter e))
  else none

end Sys2Proof.Machine
end

