-- ==== Sys2Proof/Machine/Operands.lean ====
section
/-! DEFINITION. Bus accesses: which copy a write lands in, the checks of R48 in their order, the violation registers of R49, and
the lock of a staged page. -/

namespace Sys2Proof.Machine

/-- The module acts in the Off role: pairing is enabled and it does not hold Near (R347). -/
def Chip.isOff (c : Chip) : Bool := c.flag HRN_CTRL_pair_en && c.rd HRN_STATUS_role != 1

/-- The role is Off: neither None nor Blocked (R347). -/
def Chip.inOffRole (c : Chip) : Bool := c.flag HRN_CTRL_pair_en && c.rd HRN_STATUS_role == 2

/-- The outputs are held back as in the Off role (R351); after a swap the old Near keeps its outputs for 8 Strides (R364). -/
def Chip.outputsHeld (c : Chip) : Bool := c.isOff && c.pair.keepUntil.isNone

/-- The Stride at whose edge the module became Near has not ended: the Off hold of its outputs is ending (R363). -/
def Chip.offHoldEnds (c : Chip) : Bool := !c.isOff && decide (c.stride + 7 < c.pair.graceUntil)

/-- Near puts an item into the mirror stream while the Harness link is up (R58). -/
def Chip.mirror (c : Chip) (m : Mirror) : Chip :=
  if c.flag HRN_CTRL_pair_en ∧ c.rd HRN_STATUS_role = 1 ∧ c.flag HRN_STATUS_link_up then
    { c with pair := { c.pair with stream := c.pair.stream ++ [m] } }
  else c

/-- The metrology seal is open (R151), the safety seal is open (R332). -/
def Chip.sealOpen (c : Chip) (k : Nat) : Bool :=
  if k = 1 then c.flag SFE_CAL_SEAL_met_open else if k = 2 then c.flag SAF_STATUS_seal_open else true

/-- The register belongs to the calibration image (R153). -/
def imageWord (b : Blk) (ofs : Nat) : Bool :=
  match b with
  | .met => [0x180, 0x184, 0x188, 0x18C, 0x190, 0x194, 0x198].contains ofs
  | .sfe => ofs == 0x100
  | .mtr => [0x108, 0x10C, 0x114, 0x118, 0x11C, 0x170, 0x174, 0x178].contains ofs
  | _ => false

/-- The active offset that a page offset names: a shadow's offset is that of its active register (R54). -/
def activeOfs (ofs : Nat) : Nat :=
  if ofs = 0xF08 then 0x008 else if 0x800 ≤ ofs ∧ ofs < 0xF00 then ofs - 0x700 else ofs

/-- The offset of the shadow of an active offset (R54). -/
def shadowOfs (ofs : Nat) : Nat := if ofs = 0x008 then 0xF08 else ofs + 0x700

/-- The staged bits of the register at an active offset. -/
def stagedMask (b : Blk) (ofs : Nat) : Nat :=
  match rowAt b ofs with
  | some (r, _) => r.st
  | none => 0

/-- An entry of a page of all variants that belongs to a unit beyond the variant's count: it reads zero and takes no write (R3, R241,
R297). -/
def absentEntry (v : Variant) (b : Blk) (ofs : Nat) : Bool :=
  let beyond (base step n : Nat) : Bool := decide (base + step * n ≤ activeOfs ofs)
  match b with
  | .sfg => beyond 0x100 4 (v.elements / 8) && decide (activeOfs ofs < 0x120)
  | .dsp => (beyond 0x100 4 v.ports && decide (activeOfs ofs < 0x180)) || (beyond 0x180 4 v.ports && decide (activeOfs ofs < 0x200))
  | .lsg =>
    (beyond 0x120 1 v.channels && decide (ofs < 0x160)) || (beyond 0x160 1 v.channels && decide (ofs < 0x1A0)) ||
      (beyond 0x1C0 4 (v.channels / 8) && decide (ofs < 0x1E0)) || (beyond 0x1E0 4 (v.channels / 8) && decide (ofs < 0x200))
  | .saf => beyond 0x110 4 v.flocks && decide (ofs < 0x130)
  | _ => false

/-- The address holds a register of a fitted unit. -/
def isFitted (v : Variant) (a : Nat) : Bool :=
  match locate v a with
  | some (b, _) => !absentEntry v b ((a - b.base) % b.pitch)
  | none => false

/-- The address of the copy that a write to an address lands in: the shadow for a staged register (R54). -/
def landing (v : Variant) (a : Nat) : Nat :=
  match locate v a with
  | some (b, _) =>
    let ofs := activeOfs ((a - b.base) % b.pitch)
    let page := a - (a - b.base) % b.pitch
    if stagedMask b ofs ≠ 0 then page + shadowOfs ofs else page + ofs
  | none => a

/-- The resource that gates a register, with the value written for LSW_VSLOT (R48, R51). -/
def gate (b : Blk) (n ofs v : Nat) : Option Nat :=
  match b with
  | .opt => if ofs = 0x104 then some (16 + n) else none
  | .lsw => if ofs = 0x130 ∧ v % 16 ≠ 15 then some (48 + v % 16) else none
  | .tim => if 0x200 ≤ ofs ∧ ofs < 0x300 then some (68 + (ofs - 0x200) / 0x20) else none
  | _ => none

/-- A plane holds the claim of a resource (R51). -/
def Chip.holds (c : Chip) (plane k : Nat) : Bool :=
  c.flag (FAB_CLAIM_held k) && c.rd (FAB_CLAIM_owner k) == plane

/-- The planes of mailbox pair p, lower and higher (R27). -/
def pairPlanes (p : Nat) : Nat × Nat :=
  match p with
  | 0 => (0, 1)
  | 1 => (0, 2)
  | 2 => (0, 3)
  | 3 => (1, 2)
  | 4 => (1, 3)
  | _ => (2, 3)

/-- The plane sits at one end of the pair. -/
def inPair (p plane : Nat) : Bool := (pairPlanes p).1 == plane || (pairPlanes p).2 == plane

/-- A write by the initiator to the page offset passes ownership (R48, R50): the three exceptions, the owner otherwise. -/
def Chip.mayWrite (c : Chip) (by_ : Initiator) (b : Blk) (n ofs : Nat) : Bool :=
  let plane := initiatorPlane by_
  match b with
  | .mbx => inPair n plane
  | .vrq => plane == n / 4
  | .fab => if 0x200 ≤ ofs ∧ ofs < 0x400 then true
      else if ofs = 0x030 then plane == 2 else plane == c.rd (ownerFld (pageOf b n))
  | .evc =>
    if 0x100 ≤ ofs ∧ ofs < 0x300 ∧ [0x04, 0x08, 0x14].contains ((ofs - 0x100) % 0x40) then
      initiatorNo by_ == (ofs - 0x100) / 0x40
    else plane == (if ofs = 0x030 then 2 else c.rd (ownerFld (pageOf b n)))
  | .stg =>
    if 0x200 ≤ ofs ∧ ofs < 0x280 then plane == (ofs - 0x200) / 0x20
    else plane == (if ofs = 0x030 then 2 else c.rd (ownerFld (pageOf b n)))
  | .net =>
    if ofs = 0x030 then plane == 2
    else if 0x100 ≤ ofs ∧ ofs < 0x120 then plane == c.rd (ownerFld (pageOf b n)) || plane == 2
    else plane == c.rd (ownerFld (pageOf b n))
  | _ =>
    if ofs = 0x030 then plane == 2
    else plane == c.rd (ownerFld (pageOf b n)) && !(c.isOff && b.pairScope && stagedMask b (activeOfs ofs) != 0)

/-- A read by a plane passes the read scope (R45, R48, R51, R436). -/
def Chip.mayRead (c : Chip) (plane : Nat) (b : Blk) (n ofs : Nat) : Bool :=
  match b with
  | .mbx => inPair n plane
  | .vrq => plane == n / 4
  | .fab => decide (ofs < 8) || (decide (0x200 ≤ ofs) && decide (ofs < 0x400)) || bit (c.rd (scopeFld (pageOf b n))) plane
  | _ => bit (c.rd (scopeFld (pageOf b n))) plane

/-- The write would change a sealed field whose seal is closed, outside what the hand-over window admits (R48, R165). -/
def Chip.sealHit (c : Chip) (by_ : Initiator) (b : Blk) (ofs a v : Nat) : Bool :=
  let o := activeOfs ofs
  match rowAt b o with
  | some (r, _) =>
    r.sl != 0 && !c.sealOpen b.seal &&
      ((c.word (landing c.variant a) ^^^ BitVec.ofNat 32 v) &&& BitVec.ofNat 32 r.sl != 0) &&
      !(c.flag SFE_CAL_SEAL_ho_open && imageWord b o && initiatorPlane by_ == 1)
  | none => false

/-- The kind of violation of a write of v to address a, if it commits one: the rows of R48 in their order (R49 kinds). -/
def Chip.writeViolation (c : Chip) (acc : Access) (a v : Nat) : Option Nat :=
  if 0x3F000000 ≤ a ∧ a < 0x3F300000 then (if acc.size ≠ 4 ∨ acc.skew ≠ 0 then some 4 else some 0)
  else match locate c.variant a with
  | none => none
  | some (b, n) =>
    let ofs := (a - b.base) % b.pitch
    if acc.size ≠ 4 ∨ acc.skew ≠ 0 then some 4
    else if ¬ c.mayWrite acc.by_ b n ofs then some 0
    else if c.sealHit acc.by_ b ofs a v then some 1
    else match gate b n ofs v with
      | some k => if c.holds (initiatorPlane acc.by_) k then none else some 0
      | none => none

/-- The kind of violation of a read of address a, if it commits one. -/
def Chip.readViolation (c : Chip) (acc : Access) (a : Nat) : Option Nat :=
  match locate c.variant a with
  | none => none
  | some (b, n) =>
    let ofs := (a - b.base) % b.pitch
    if acc.size ≠ 4 ∨ acc.skew ≠ 0 then some 4
    else if ¬ c.mayRead (initiatorPlane acc.by_) b n ofs then some 2
    else none

/-- Records a violation: the count saturates, the address and the info are those of the most recent one (R49). -/
def Chip.violate (c : Chip) (acc : Access) (a kind : Nat) (write : Bool) : Chip :=
  let c := c.incSat FAB_VIOL_COUNT
  let c := c.put FAB_VIOL_ADDR (a + acc.skew)
  c.put FAB_VIOL_INFO
    (initiatorPlane acc.by_ + 16 * kind + 256 * write.toNat + 4096 * initiatorNo acc.by_)

/-- A write access of v to address a: what `f` does when the checks pass; nothing at an absent unit or an empty address (R3, R47);
a violating write is ignored and recorded (R49). -/
def Chip.write (c : Chip) (acc : Access) (a v : Nat) (f : Chip → Chip) : Chip :=
  match c.writeViolation acc a v with
  | some kind => c.violate acc a kind true
  | none => if isFitted c.variant a then f c else c

/-- The address is the base of a fitted page with the common registers of R44. -/
def Chip.isPage (c : Chip) (page : Nat) : Bool :=
  match locate c.variant page with
  | some (b, n) => b != .mbx && b != .vrq && pageOf b n == page
  | none => false

/-- A write access to a register of unit n of a block; an absent unit takes none (R3). -/
def Chip.writeUnit (c : Chip) (b : Blk) (n : Nat) (acc : Access) (a v : Nat) (f : Chip → Chip) : Chip :=
  if n < b.count c.variant then c.write acc a v f else c

/-- A read access of address a: what `f` does when the checks pass; an absent unit reads zero (R3), a violating read returns zero and
is recorded (R49). -/
def Chip.read (c : Chip) (acc : Access) (a : Nat) (f : Chip → Chip) : Chip :=
  match c.readViolation acc a with
  | some kind => { c.violate acc a kind false with rdata := 0 }
  | none => if isFitted c.variant a then f c else { c with rdata := 0 }

/-- A read access of a register of unit n of a block; an absent unit reads zero (R3). -/
def Chip.readUnit (c : Chip) (b : Blk) (n : Nat) (acc : Access) (a : Nat) (f : Chip → Chip) : Chip :=
  if n < b.count c.variant then c.read acc a f else { c with rdata := 0 }

/-- A byte of the stored site parameter block (R335). -/
def Chip.spbByte (c : Chip) (k : Nat) : Nat :=
  ((Sparse.get (fun _ => (0 : Word)) c.saf.stored (k / 4)).toNat >>> (8 * (k % 4))) % 256

/-- A little-endian number of n bytes of the stored site parameter block. -/
def Chip.spb (c : Chip) (k n : Nat) : Nat := ofLe ((List.range n).map fun i => c.spbByte (k + i))

/-- A staged-change slot. -/
def Chip.slot (c : Chip) (p : Nat) : StageSlot := Sparse.get (fun _ => {}) c.stg.slots p

/-- The block with a staged-change slot replaced. -/
def Chip.setSlot (c : Chip) (p : Nat) (x : StageSlot) : Chip :=
  { c with stg := { c.stg with slots := Sparse.set (fun _ => {}) c.stg.slots p x } }

/-- Slot p is armed: it holds a captured target, also while its state shows the busy of a refused second arm (R56). -/
def Chip.armed (c : Chip) (p : Nat) : Bool := (c.slot p).target.isSome

/-- The pages dirty for a plane, by page address (R54). -/
def Chip.dirtyPages (c : Chip) (p : Nat) : List Nat :=
  c.stg.dirty.filterMap fun d => if d.2 == p then some d.1 else none

/-- The STG_DIRTY.pages counts follow the dirty set (R55). -/
def Chip.countDirty (c : Chip) : Chip :=
  forN 4 (fun p c => c.put (STG_DIRTY_pages p) (c.dirtyPages p).length) c

/-- The page of an address. -/
def pageBase (a : Nat) : Nat := a - a % 0x1000

/-- The page becomes dirty for the plane. -/
def Chip.markDirty (c : Chip) (page p : Nat) : Chip :=
  ({ c with stg := { c.stg with dirty := Sparse.insert c.stg.dirty page p } } : Chip).countDirty

/-- The image field at the address makes the CRC of the shadow image due (R153). -/
def Chip.noteImage (c : Chip) (a : Nat) : Chip :=
  match locate c.variant a with
  | some (b, _) =>
    if imageWord b (activeOfs ((a - b.base) % b.pitch)) then { c with fold := { c.fold with crcStgDue := true } } else c
  | none => c

/-- The bits of a register that a write stores in the copy it lands in. -/
def writeMask (b : Blk) (ofs : Nat) : Nat :=
  match rowAt b (activeOfs ofs) with
  | some (r, _) => r.rw ||| r.st
  | none => if ofs = 0x014 ∨ ofs = 0x01C then 0xFFFFFFFF else 0

/-- A write lands in a shadow of the plane's page: ignored with wrote_armed while the plane's slot is armed (R54, R56). One of a pair-scope
page is mirrored as it lands (R58). -/
def Chip.stageWrite (c : Chip) (plane a v : Nat) : Chip :=
  match locate c.variant a with
  | none => c
  | some (b, _) =>
    let ofs := activeOfs ((a - b.base) % b.pitch)
    let m := BitVec.ofNat 32 (stagedMask b ofs)
    if m = 0 then c
    else if c.armed plane then c.setFlag (STG_SLOT_ST_wrote_armed plane) true
    else
      let s := pageBase a + shadowOfs ofs
      let c := c.setWord s ((c.word s &&& ~~~m) ||| (BitVec.ofNat 32 v &&& m))
      let c := (c.markDirty (pageBase a) plane).noteImage a
      if b.pairScope then c.mirror (.shadow a v) else c

end Sys2Proof.Machine
end

