-- ==== Sys2Proof/Machine/Events.lean ====
section
/-! DEFINITION. The event controller's own commands (R447–R466). -/

namespace Sys2Proof.Machine

/-- The claimed source id stops being pending: an edge clears (R451). -/
def Chip.consume (c : Chip) (t id : Nat) : Chip :=
  if c.flag EVC_CTRL_compat ∧ 496 ≤ id ∧ id < 752 then c.setFlag ((EVC_PRIV_PEND t).bitOf (id - 496 - 32 * t)) false
  else if id < 32 then c.setFlag ((EVC_PRIV_PEND t).bitOf id) false
  else if srcIsEdge id then c.setFlag (srcPend id) false
  else c

/-- A read of EVC_CLAIM of target t: by the target it claims the lowest deliverable source or returns the held one; by any other
initiator it returns the held one (R452). -/
def evcClaimRead (acc : Access) (t : Nat) (c : Chip) : Chip :=
  c.read acc (EVC_CLAIM t).addr fun c =>
    let held := c.rd (EVC_TSTAT_held t)
    if initiatorNo acc.by_ ≠ t ∨ held ≠ 0xFFFF then { c with rdata := held }
    else match c.lowestDeliverable t with
      | none => { c with rdata := 0xFFFF }
      | some id =>
        let c := (c.consume t id).put (EVC_TSTAT_held t) id
        { c.inc (EVC_CLAIMS t) with rdata := id }

/-- EVC_CLAIM_READ (R452). -/
def execEvcClaimRead (acc : Access) (t : Nat) (s : State) : Answer :=
  if 8 ≤ t then s.effect id else s.effect (evcClaimRead acc t)

/-- A write to EVC_COMPLETE of target t: the held ID ends the claim, anything else is a mismatch (R454). -/
def evcComplete (acc : Access) (t v : Nat) (c : Chip) : Chip :=
  c.write acc (EVC_COMPLETE t).addr v fun c =>
    let held := c.rd (EVC_TSTAT_held t)
    if held ≠ 0xFFFF ∧ v % 2048 = held then
      let c := c.put (EVC_TSTAT_held t) 0xFFFF
      let c := if bit v 31 then c.incSat (EVC_TCNT_spurious t) else c
      c.settleEvents
    else (c.incSat (EVC_TCNT_mismatch t)).raiseEv 0x40010000 0

/-- EVC_COMPLETE (R454). -/
def execEvcComplete (acc : Access) (t v : Nat) (s : State) : Answer :=
  if 8 ≤ t then s.effect id else s.effect (evcComplete acc t v)

/-- A write to EVC_RAISE of target t (R455): self, software source or inter-target doorbell; every other value is ignored. -/
def evcRaise (acc : Access) (t v : Nat) (c : Chip) : Chip :=
  c.write acc (EVC_RAISE t).addr v fun c =>
    let id := v % 2048
    if bit v 12 then c.firePrivate (v / 8192 % 8) (1 + t)
    else if id = 0 then c.firePrivate t 0
    else if c.flag EVC_CTRL_compat ∧ id < 752 then c
    else if 496 ≤ id ∧ id < 1056 then c.fireShared id
    else c

/-- EVC_RAISE_SELF (R455): ipi 0 and id 0. -/
def execEvcRaiseSelf (acc : Access) (t : Nat) (s : State) : Answer :=
  if 8 ≤ t then s.effect id else s.effect (evcRaise acc t 0)

/-- EVC_RAISE_SOFTWARE (R455): ipi 0 and the id of a software source. -/
def execEvcRaiseSoftware (acc : Access) (t id_ : Nat) (s : State) : Answer :=
  if 8 ≤ t ∨ id_ < 496 ∨ 1056 ≤ id_ then s.effect id else s.effect (evcRaise acc t id_)

/-- EVC_RAISE_IPI (R455): ipi 1 and a destination. -/
def execEvcRaiseIpi (acc : Access) (t dest : Nat) (s : State) : Answer :=
  if 8 ≤ t ∨ 8 ≤ dest then s.effect id else s.effect (evcRaise acc t (4096 + 8192 * dest))

/-! ### Sources without a target (R466) -/

/-- A shared source is pending with no effective target; one that is claimed is with its holder, and an aliased ID is none (R460, R461). -/
def Chip.stuck (c : Chip) (id : Nat) : Bool :=
  (c.aliased id).isNone && c.flag (srcEn id) && c.srcPending id && !c.claimed id && (c.effective id).isNone

/-- The time of a source that is delivered or disabled ends, and its fault with it (R466). -/
def Chip.settleStalls (c : Chip) : Chip :=
  c.evc.stalled.foldl (fun c e =>
    if c.stuck e.1 then c
    else ({ c with evc := { c.evc with stalled := Sparse.erase c.evc.stalled e.1 } } : Chip).clearFault 5 0x0126 e.1) c

/-- What follows from a change of a target, of an enable or of what a target is. -/
def Chip.settleSources (c : Chip) : Chip := c.settleEvents.settleStalls

/-- A write of one field of EVC_TGT (R460): ignored for an enabled source in compatibility mode. -/
def evcTargetWrite (acc : Access) (id t : Nat) (c : Chip) : Chip :=
  c.write acc (srcTarget id).addr 0 fun c =>
    if c.flag EVC_CTRL_compat && c.sourceEnabled id then c
    else (c.put (srcTarget id) t).settleSources

/-- EVC_TARGET_WRITE (R460). -/
def execEvcTargetWrite (acc : Access) (id_ t : Nat) (s : State) : Answer :=
  if id_ < 32 ∨ 1056 ≤ id_ then s.effect id else s.effect (evcTargetWrite acc id_ t)

/-- A write of EVC_CTRL.compat lands only while no target holds a claim (R462). -/
def compatModeWrite (acc : Access) (v : Nat) (c : Chip) : Chip :=
  c.write acc EVC_CTRL.addr v fun c =>
    if (List.range 8).any (fun t => c.rd (EVC_TSTAT_held t) != 0xFFFF) then
      (c.setFlag EVC_STATUS_compat_refused true).raiseEv 0x40010000 3
    else
      let c := c.setFlag EVC_STATUS_compat_refused false
      ((c.put EVC_CTRL_compat v).put EVC_STATUS_compat_active v).settleSources

/-- COMPAT_MODE_WRITE (R462). -/
def execCompatModeWrite (acc : Access) (v : Nat) (s : State) : Answer := s.effect (compatModeWrite acc v)

/-- A core executes WFI: it sleeps until its target requests, or until a core-local wake of its own ISA (R456). -/
def coreWfi (t : Nat) (woken : Bool) (c : Chip) : Chip :=
  if 8 ≤ t then c else c.setFlag (EVC_TSTAT_wfi t) (!woken && !c.requesting t)

/-- CORE_WFI (R456). -/
def execCoreWfi (t : CoreSleep) (s : State) : Answer := s.effect (coreWfi t.target t.woken)

/-- Target t parks (R457): the claim it holds is released without completion, an edge source becoming pending again. -/
def Chip.parkOne (c : Chip) (t : Nat) : Chip :=
  let held := c.rd (EVC_TSTAT_held t)
  let c := if held = 0xFFFF then c
    else
      let c := c.put (EVC_TSTAT_held t) 0xFFFF
      if c.flag EVC_CTRL_compat ∧ 496 ≤ held ∧ held < 752 then
        (if held - 496 - 32 * t = 9 then c else c.firePrivate t (held - 496 - 32 * t))
      else if held < 32 then (if held = 9 then c else c.firePrivate t held)
      else if srcIsEdge held then c.setFlag (srcPend held) true
      else c
  let c := (c.setFlag (EVC_TSTAT_parked t) true).setFlag (EVC_TSTAT_online t) false
  let c := (c.setFlag (EVC_STATUS_parked.bitOf t) true).setFlag (EVC_STATUS_online.bitOf t) false
  c.setFlag (EVC_TSTAT_wfi t) false

/-- Targets park in the same cycle: what they leave is redirected once all of them are parked (R457, R458). -/
def Chip.parkTargets (c : Chip) (ts : List Nat) : Chip := (ts.foldl (fun (c : Chip) t => c.parkOne t) c).settleEvents

/-- Target t comes back online (R459). -/
def Chip.onlineOne (c : Chip) (t : Nat) : Chip :=
  let c := (c.setFlag (EVC_TSTAT_parked t) false).setFlag (EVC_TSTAT_online t) true
  (c.setFlag (EVC_STATUS_parked.bitOf t) false).setFlag (EVC_STATUS_online.bitOf t) true

/-- Targets come online in the same cycle, and their sources return to them (R459). -/
def Chip.onlineTargets (c : Chip) (ts : List Nat) : Chip := (ts.foldl (fun (c : Chip) t => c.onlineOne t) c).settleSources

/-- The private bank of a target takes its reset values after a plane reset (R466). -/
def Chip.resetPrivate (c : Chip) (t : Nat) : Chip :=
  (((c.put (EVC_PRIV_EN t) 0).put (EVC_PRIV_PEND t) 0).put (EVC_TSTAT_held t) 0xFFFF).put (EVC_TCNT t) 0

/-- A shared source has been pending for 1 s with no effective target (R466). -/
def sharedSourceStall (id : Nat) (c : Chip) : Chip :=
  if 8000 ≤ Sparse.get (fun _ => 0) c.evc.stalled id ∧ ¬ c.hasFault 5 0x0126 id then
    (c.setFault 5 0x0126 id).raiseEv 0x40010000 2
  else c

/-- SHARED_SOURCE_STALL (R466). -/
def execSharedSourceStall (id : Nat) (s : State) : Answer := s.effect (sharedSourceStall id)

/-- At each Stride the stall time of every pending source with no effective target grows (R466). -/
def Chip.stallTick (c : Chip) : Chip :=
  (List.range 1024).foldl (fun c k =>
    let id := k + 32
    if c.stuck id then
      { c with
        evc := { c.evc with
          stalled := Sparse.set (fun _ => 0) c.evc.stalled id (min 8000 (Sparse.get (fun _ => 0) c.evc.stalled id + 1)) } }
    else c) c.settleStalls

/-- The core timer of a target reaches, or leaves, its compare value: the level of private source 9 (R448). -/
def coreTimerCompare (t : Nat) (level : Bool) (c : Chip) : Chip :=
  if 8 ≤ t then c else ({ c with evc := { c.evc with timer := putBit c.evc.timer t level } } : Chip).wakeCores

/-- CORE_TIMER_COMPARE (R448). -/
def execCoreTimerCompare (t : Nat) (level : Bool) (s : State) : Answer := s.effect (coreTimerCompare t level)

end Sys2Proof.Machine
end

