-- ==== Sys2Proof/Machine/Pages.lean ====
section
/-! DEFINITION. Mailboxes (R27–R29), the event registers of a page (R46), ownership (R50), claims (R52), the violation registers
(R49) and errors of the page store (R61). -/

namespace Sys2Proof.Machine

/-- The address of word w of slot k of mailbox pair p (R27). -/
def mailboxWord (p k w : Nat) : Nat := 0x3FF00000 + p * 0x800 + k * 0x40 + w * 4

/-- The plane that sends in slot k of pair p (R27). -/
def mailboxSender (p k : Nat) : Nat := if k < 8 then (pairPlanes p).1 else (pairPlanes p).2

/-- A write or post of slot k was refused: the bit of the writer's direction sets (R28). -/
def Chip.mailboxRefuse (c : Chip) (p k : Nat) : Chip :=
  c.setFlag (if k < 8 then MBX_ERR_refused_up p else MBX_ERR_refused_down p) true

/-- A write of a mailbox control word for slot k by the plane that must write it; the wrong direction is a violation (R29). -/
def Chip.mailboxWrite (c : Chip) (acc : Access) (a p plane : Nat) (f : Chip → Chip) : Chip :=
  c.writeUnit .mbx p acc a 0 fun c =>
    if initiatorPlane acc.by_ ≠ plane then c.violate acc a 3 true else f c

/-- A payload write lands in a free slot; at a full one it is ignored and the refused bit sets (R29). -/
def mbxPayloadWrite (acc : Access) (p k w v : Nat) (c : Chip) : Chip :=
  let a := mailboxWord p k w
  if 16 ≤ k ∨ 16 ≤ w then c
  else c.mailboxWrite acc a p (mailboxSender p k) fun c =>
    if c.flag ((MBX_STATE_full p).bitOf k) then c.mailboxRefuse p k else c.setBytes a (leBytes 4 v)

/-- MBX_PAYLOAD_WRITE (R29). -/
def execMbxPayloadWrite (acc : Access) (p k w v : Nat) (s : State) : Answer :=
  s.effect (mbxPayloadWrite acc p k w v)

/-- A post marks a free slot full and raises the posted doorbell; at a full one it is ignored and the refused bit sets (R29). -/
def mbxPost (acc : Access) (p v : Nat) (c : Chip) : Chip :=
  let k := v % 16
  c.mailboxWrite acc (MBX_POST p).addr p (mailboxSender p k) fun c =>
    if c.flag ((MBX_STATE_full p).bitOf k) then c.mailboxRefuse p k
    else (c.setFlag ((MBX_STATE_full p).bitOf k) true).fireShared (doorbell p (if k < 8 then 0 else 2))

/-- MBX_POST (R29). -/
def execMbxPost (acc : Access) (p v : Nat) (s : State) : Answer := s.effect (mbxPost acc p v)

/-- A take frees a full slot and raises the freed doorbell to the sender; at a free one nothing happens (R29). -/
def mbxTake (acc : Access) (p v : Nat) (c : Chip) : Chip :=
  let k := v % 16
  let receiver := if k < 8 then (pairPlanes p).2 else (pairPlanes p).1
  c.mailboxWrite acc (MBX_TAKE p).addr p receiver fun c =>
    if c.flag ((MBX_STATE_full p).bitOf k) then
      (c.setFlag ((MBX_STATE_full p).bitOf k) false).fireShared (doorbell p (if k < 8 then 1 else 3))
    else c

/-- MBX_TAKE (R29). -/
def execMbxTake (acc : Access) (p v : Nat) (s : State) : Answer := s.effect (mbxTake acc p v)

/-- The receiving plane takes a plane reset: the full slots it receives clear, with one freed doorbell per pair (R29). -/
def Chip.mailboxPlaneReset (c : Chip) (plane : Nat) : Chip :=
  forN 6 (fun p c =>
    let clear (lo : Nat) (bell : Nat) (c : Chip) : Chip :=
      let f : Fld := ⟨(MBX_STATE_full p).addr, lo, 8⟩
      if c.rd f = 0 then c else (c.put f 0).fireShared (doorbell p bell)
    if (pairPlanes p).2 = plane then clear 0 1 c
    else if (pairPlanes p).1 = plane then clear 8 3 c
    else c) c

/-! ### Event registers -/

/-- A write of ones to EV_PEND: the named edge events clear, unless an edge arrives in the same cycle (R46). -/
def evPendClear (acc : Access) (page v arriving : Nat) (c : Chip) : Chip :=
  if ¬ c.isPage page then c else c.write acc (page + 0x018) v fun c =>
    let t := c.word (page + 0x01C)
    let a := BitVec.ofNat 32 arriving &&& t
    (c.setWord (page + 0x018) ((c.word (page + 0x018) &&& ~~~(BitVec.ofNat 32 v &&& t)) ||| a)).settleEvents

/-- EV_PEND_CLEAR (R46). -/
def execEvPendClear (acc : Access) (page v arriving : Nat) (s : State) : Answer :=
  s.effect (evPendClear acc page v arriving)

/-- A write of EV_TYPE: the pending bit of every changed type clears and then follows the new type (R46). -/
def evTypeWrite (acc : Access) (page v : Nat) (c : Chip) : Chip :=
  if ¬ c.isPage page then c else c.write acc (page + 0x01C) v fun c =>
    let changed := c.word (page + 0x01C) ^^^ BitVec.ofNat 32 v
    let c := (c.setWord (page + 0x018) (c.word (page + 0x018) &&& ~~~changed)).setWord (page + 0x01C) (BitVec.ofNat 32 v)
    c.settleEvents

/-- EV_TYPE_WRITE (R46). -/
def execEvTypeWrite (acc : Access) (page v : Nat) (s : State) : Answer := s.effect (evTypeWrite acc page v)

/-! ### Ownership and violations -/

/-- The shadows of a page take their active values and the page is dirty for no plane (R50). -/
def Chip.discardShadows (c : Chip) (page : Nat) : Chip :=
  let regs := c.regs.filter fun p => !(pageBase p.1 == page && decide (0x800 ≤ p.1 % 0x1000))
  let c := { c with regs := regs, stg := { c.stg with dirty := Sparse.erase c.stg.dirty page } }
  let active := c.regs.filter fun p => pageBase p.1 == page
  let c := active.foldl (fun c p =>
    match locate c.variant p.1 with
    | some (b, _) =>
      let ofs := p.1 % 0x1000
      if stagedMask b ofs ≠ 0 then c.setWord (page + shadowOfs ofs) p.2 else c
    | none => c) c
  c.countDirty

/-- The page lies in the frozen set of an armed slot (R50). -/
def Chip.frozen (c : Chip) (page : Nat) : Bool :=
  (List.range 4).any fun p => c.armed p && (c.slot p).frozen.contains page

/-- A page that is reassignable may pass to the management plane and back to its owner of R23 (log 101). -/
def Chip.ownerAllowed (c : Chip) (page new : Nat) : Bool :=
  new == 2 || match locate c.variant page with
    | some (b, _) => new == b.owner
    | none => false

/-- A write of OWNER by the management plane (R50). -/
def ownerWrite (acc : Access) (page v : Nat) (c : Chip) : Chip :=
  if ¬ c.isPage page then c else c.write acc (page + 0x030) v fun c =>
    let c := c.put (scopeFld page) (v / 16)
    let new := v % 4
    if ¬ c.flag ⟨page + 0x030, 8, 1⟩ ∨ ¬ c.ownerAllowed page new ∨ new = c.rd (ownerFld page) then c
    else if c.frozen page then c.violate acc (page + 0x030) 0 true
    else
      let dirty := c.stg.dirty.any fun d => d.1 == page
      let c := c.put (ownerFld page) new
      if dirty then c.discardShadows page else c

/-- A write of FAB_VIOL_CLR: with clear at 1 the violation registers are zero (R49). -/
def violationClear (acc : Access) (v : Nat) (c : Chip) : Chip :=
  c.write acc FAB_VIOL_CLR.addr v fun c =>
    if v % 2 = 1 then ((c.put FAB_VIOL_COUNT 0).put FAB_VIOL_ADDR 0).put FAB_VIOL_INFO 0 else c

/-- VIOLATION_CLEAR (R49). -/
def execViolationClear (acc : Access) (v : Nat) (s : State) : Answer := s.effect (violationClear acc v)

/-! ### Claims -/

/-- A write of op = claim to word k (R52). Words 76–127 are reserved (R51). -/
def claim (acc : Access) (k : Nat) (c : Chip) : Chip :=
  let plane := initiatorPlane acc.by_
  if 76 ≤ k then c
  else if ¬ c.flag (FAB_CLAIM_held k) then
    ((c.setFlag (FAB_CLAIM_held k) true).put (FAB_CLAIM_owner k) plane).setFlag (FAB_CLAIM_refused k) false
  else if c.rd (FAB_CLAIM_owner k) = plane then c
  else c.setFlag (FAB_CLAIM_refused k) true

/-- CLAIM (R52). -/
def execClaim (acc : Access) (k : Nat) (s : State) : Answer := s.effect (claim acc k)

/-- Resource k has a fixed owner (R51, R53): sense ADC slot 15. -/
def fixedOwner (k : Nat) : Bool := k == 63

/-- The registers of a release of word k: what R52 leaves of it. No plane holds a reserved word (R51), so its release is a violation as
well (R48). -/
def Chip.releaseWord (c : Chip) (acc : Access) (k : Nat) : Chip :=
  if 128 ≤ k then c
  else if c.holds (initiatorPlane acc.by_) k then
    if fixedOwner k then c else (c.setFlag (FAB_CLAIM_held k) false).put (FAB_CLAIM_owner k) 0
  else c.violate acc (FAB_CLAIM k).addr (if acc.size ≠ 4 ∨ acc.skew ≠ 0 then 4 else 5) true

/-! ### The page store -/

/-- The level and unit at which the unit of a page reports (R7, R61): ports, their residual-current channels and displays at their Flock
(R268), an insulation channel at the Flock of the first port that it serves, a load channel as LSW_CFG gives (R298), the Harness link at
Pair level (R369), and every other page at Module level. -/
def Chip.pageLevel (c : Chip) (b : Blk) (n : Nat) : Nat × Nat :=
  match b with
  | .sfe | .met | .pqm => (2, n)
  | .mtr => (3, n)
  | .opt | .rcm => (4, c.rd (OPT_STATUS_flock n))
  | .imd =>
    match (List.range c.variant.ports).find? fun p => c.spbByte (163 + 8 * p) == n with
    | some p => (4, c.rd (OPT_STATUS_flock p))
    | none => (5, n)
  | .lsw => if c.flag (LSW_CFG_flock_v n) then (4, c.rd (LSW_CFG_flock n)) else (5, n)
  | .hrn | .hrl => (6, n)
  | _ => (5, n)

/-- An uncorrectable error in the page store: the page's block is faulted, and an armed slot whose frozen pages include the page is
cancelled with its event (R61). -/
def pageStoreEccError (page : Nat) (c : Chip) : Chip :=
  match locate c.variant page with
  | none => c
  | some (b, n) =>
    let l := c.pageLevel b n
    let c := c.setFault l.1 (b.code * 256 + 32) l.2
    forN 4 (fun p c =>
      if c.armed p && (c.slot p).frozen.contains (pageBase page) then
        ((c.put (STG_SLOT_ST_state p) 5).setSlot p {}).raiseEv 0x40030000 (4 + p)
      else c) c

/-- PAGE_STORE_ECC_ERROR (R61). -/
def execPageStoreEccError (page : Nat) (s : State) : Answer := s.effect (pageStoreEccError page)

end Sys2Proof.Machine
end

