-- ==== Sys2Proof/Machine/Logs.lean ====
section
/-! DEFINITION. The rings and logs of the ledger store (R210, R212), and the fault-log record (R213). -/

namespace Sys2Proof.Machine

/-- The base address of log n: 0 journal, 1 power quality, 2 audit, 3 safety, 4 fault (R210, R237). -/
def logBase : Nat → Nat
  | 0 => 0x0200000
  | 1 => 0x3300000
  | 2 => 0x3340000
  | 3 => 0x3B40000
  | _ => 0x3C40000

/-- The slots of log n (R210). -/
def logSlots : Nat → Nat
  | 0 => 131072
  | 1 => 4096
  | 2 => 32768
  | _ => 16384

/-- The bytes of a slot of log n. -/
def logSlotBytes (n : Nat) : Nat := if n = 2 then 80 else 64

/-- A slot of 64 bytes with its sequence and CRC (R212). -/
def sealSlot (rec_ : List Nat) (seq : Nat) : List Nat :=
  let body := fit 52 rec_ ++ leBytes 4 seq
  body ++ leBytes 4 (crc32 body) ++ [0, 0, 0, 0]

/-- An audit slot: the 64-byte record, the sequence as 8 bytes, the CRC and four zero bytes (R212). -/
def sealAudit (rec_ : List Nat) (seq : Nat) : List Nat :=
  let body := fit 64 rec_ ++ leBytes 8 seq
  body ++ leBytes 4 (crc32 body) ++ [0, 0, 0, 0]

/-- The next and the oldest sequence of log n (R212); n = 0 is the journal. -/
def Chip.logNext (c : Chip) (n : Nat) : Nat := Sparse.get (fun _ => 0) c.led.logNext n
def Chip.logOldest (c : Chip) (n : Nat) : Nat := Sparse.get (fun _ => 0) c.led.logOldest n

/-- LDG_LOG_NEXT and LDG_LOG_OLDEST show log n once the ledger is restored (R237). -/
def Chip.showLog (c : Chip) (n : Nat) : Chip :=
  if c.flag LDG_STATUS_restored then (c.put (LDG_LOG_NEXT_seq n) (c.logNext n)).put (LDG_LOG_OLDEST_seq n) (c.logOldest n) else c

/-- Log n takes `k` slots from its next sequence on (R212). -/
def Chip.advanceLog (c : Chip) (n k : Nat) : Chip :=
  let next := (c.logNext n + k) % 2 ^ 32
  let held := (next + 2 ^ 32 - c.logOldest n) % 2 ^ 32
  let oldest := if logSlots n < held then (next + 2 ^ 32 - logSlots n) % 2 ^ 32 else c.logOldest n
  let c : Chip :=
    { c with
      led :=
        { c.led with
          logNext := Sparse.set (fun _ => 0) c.led.logNext n next
          logOldest := Sparse.set (fun _ => 0) c.led.logOldest n oldest } }
  c.showLog n

/-- A record is appended to log n (R212). -/
def Chip.appendLog (c : Chip) (n : Nat) (rec_ : List Nat) : Chip :=
  let seq := c.logNext n
  let bytes := if n = 2 then sealAudit rec_ seq else sealSlot rec_ seq
  (c.store (logBase n + seq % logSlots n * logSlotBytes n) bytes).advanceLog n 1

/-- A fault-log record (R213). -/
def Chip.faultRecord (c : Chip) (level code unit : Nat) (set : Bool) (detail : List Nat) : List Nat :=
  [level, set.toNat] ++ leBytes 2 code ++ leBytes 2 unit ++ [0, 0] ++ leBytes 8 c.stride ++ leBytes 8 c.lc ++ fit 28 detail

/-- The Fold writes the record of a health fault itself (R107, R213). -/
def Chip.logFault (c : Chip) (level code unit : Nat) (set : Bool) : Chip :=
  c.appendLog 4 (c.faultRecord level code unit set [])

/-- The slots that a journal entry takes: 52 payload bytes each (DESIGN CHOICE, log 21). -/
def JournalEntry.slots : JournalEntry → Nat
  | .staged _ _ pages values items bases _ =>
    1 + (16 + 4 * pages.length + 8 * values.length + 8 * (items.getD []).length + 1792 * bases.length) / 52
  | .handover _ energy => 1 + (130 * energy.length) / 52
  | _ => 1

/-- An entry is appended to the boundary journal (R216): it takes the next slots, and the entries they held are gone. -/
def Chip.journal (c : Chip) (e : JournalEntry) : Chip :=
  let seq := c.logNext 0
  let n := e.slots
  let j := forN n (fun k (j : Sparse (Option (Nat × Nat × JournalEntry))) => Sparse.erase j ((seq + k) % 131072)) c.led.journal
  let c := { c with led := { c.led with journal := Sparse.insert j (seq % 131072) (some (seq, n, e)) } }
  c.advanceLog 0 n

end Sys2Proof.Machine
end

