-- ==== Sys2Proof/Machine/Clock.lean ====
section
/-! DEFINITION. The local clock (R62–R64) and the values derived from it at a Stride edge (R69, R72). -/

namespace Sys2Proof.Machine

/-- The clamp limit of TIM_RATE.adj (R63). -/
def adjLimit : Int := 42949672

/-- What the clock adds on one REFCLK cycle, in 2^-32 ns (R63). -/
def Chip.clockStep (c : Chip) : Int := 10 * 2 ^ 32 + clampI (-adjLimit) adjLimit (c.rdS TIM_RATE_adj)

/-- REFCLK cycles of a Stride (R10). -/
def strideCycles : Nat := 12500

/-- The block as time passes to REFCLK cycle `cyc` of the present Stride; time does not run back. -/
def Chip.advanceTo (c : Chip) (cyc : Nat) : Chip :=
  let cyc := min cyc strideCycles
  if cyc ≤ c.cycle then c
  else
    { c with
      cycle := cyc
      tim :=
        { c.tim with
          clock := (c.tim.clock + ((cyc - c.cycle : Nat) : Int) * c.clockStep).toNat
          ppsOut := c.tim.ppsOut.map fun n => n - (cyc - c.cycle) } }

/-- 2^-32 ns in a second. -/
def unitsPerSecond : Nat := 1000000000 * 2 ^ 32

/-- The seconds, nanoseconds and fraction of a clock value (R62). -/
def clockSec (t : Nat) : Nat := t / unitsPerSecond % 2 ^ 48
def clockNs (t : Nat) : Nat := t / 2 ^ 32 % 1000000000
def clockFrac (t : Nat) : Nat := t % 2 ^ 32

/-- 2^-32 ns in a Stride of the 125 µs grid. -/
def unitsPerStride : Nat := 125000 * 2 ^ 32

/-- The computed Stride value c of a clock value. -/
def computedStride (t : Nat) : Nat := (t + unitsPerStride / 2) / unitsPerStride

/-- The Stride phase φ of a clock value, exact, in 2^-32 ns. -/
def stridePhase (t : Nat) : Int := (t : Int) - (computedStride t * unitsPerStride : Nat)

/-- Bit k of TIM_STATUS (R80). -/
def tst (k : Nat) : Fld := TIM_STATUS_flags.bitOf k

/-- The base of the TIM page. -/
def timPage : Nat := 0x40020000

/-- time_valid (R68). -/
def Chip.timeValid (c : Chip) : Bool := c.flag (tst 2)

end Sys2Proof.Machine
end

