-- ==== Sys2Proof/Machine/Can.lean ====
section
/-! DEFINITION. The CAN FD controllers (R260–R263, R266, R267). -/

namespace Sys2Proof.Machine

/-- The hidden part of a CAN controller. -/
def Chip.canState (c : Chip) (n : Nat) : CanState := Sparse.get (fun _ => {}) c.can n

/-- The block with the hidden part of a CAN controller replaced. -/
def Chip.setCan (c : Chip) (n : Nat) (x : CanState) : Chip :=
  { c with can := Sparse.set (fun _ => {}) c.can n x }

/-- The page of controller n. -/
def canPage (n : Nat) : Nat := 0x40240000 + n * 0x1000

/-- The address of transmit buffer b (R260). -/
def canBuffer (n b : Nat) : Nat := 0x3FE00000 + n * 0x4000 + b * 0x48

/-- The address of receive FIFO slot k (R260). -/
def canSlot (n k : Nat) : Nat := 0x3FE01000 + n * 0x4000 + k * 80

/-- The controller takes part in the bus: enabled and neither bus-off nor off. -/
def Chip.canOnBus (c : Chip) (n : Nat) : Bool := c.rd (CAN_STATUS_state n) < 2

/-- The ID that a buffer arbitrates with: the first word's base ID is compared before the extension, so a standard ID is placed
at the top of 29 bits and goes ahead of an extended one with the same base. -/
def Chip.canPriority (c : Chip) (n b : Nat) : Nat :=
  let w := Memory.le c.mem (canBuffer n b) 4
  if bit w 29 then w % 2 ^ 29 * 2 + 1 else w % 2 ^ 11 * 2 ^ 19

/-- The pending buffer that is sent next: the stop buffer, otherwise the lowest ID (R261, R262). -/
def Chip.canWinner (c : Chip) (n : Nat) : Option Nat :=
  let ps := bitsSet 32 (c.rd (CAN_TX_PEND_pend n))
  let stop := c.rd (CAN_STOP_CFG_buf n)
  if c.flag (CAN_STOP_CFG_en n) && ps.contains stop then some stop
  else ps.foldl (fun best b =>
    match best with
    | none => some b
    | some x => if c.canPriority n b < c.canPriority n x then some b else some x) none

/-- The controller may send: on the bus and not listen-only, which every controller of a module outside the Near role is (R349). -/
def Chip.canMaySend (c : Chip) (n : Nat) : Bool := c.canOnBus n && !c.flag (CAN_CTRL_listen n) && !c.isOff

/-- Pending buffers contend at the next bus idle (R261): now, or behind another node's frame. -/
def Chip.canContend (c : Chip) (n : Nat) : Chip :=
  let x := c.canState n
  if x.sending.isSome ∨ x.contend.isSome ∨ c.rd (CAN_TX_PEND_pend n) = 0 ∨ ¬ c.canMaySend n then c
  else c.setCan n { x with contend := some (max c.cycle x.idleAt) }

/-- A contention of an earlier instant is over: its winner among the buffers pending then is on the bus (R261). -/
def Chip.canSettle (c : Chip) (n : Nat) : Chip :=
  let x := c.canState n
  match x.contend with
  | some t => if c.cycle ≤ t then c else c.setCan n { x with sending := c.canWinner n, contend := none }
  | none => c

/-- The Stride ends: the instants of a controller are counted from the start of the next. -/
def Chip.canStrideEnd (c : Chip) (n : Nat) : Chip :=
  let c := c.canSettle n
  let x := c.canState n
  if x.contend.isNone ∧ x.idleAt = 0 then c
  else c.setCan n { x with contend := x.contend.map fun t => t - strideCycles, idleAt := x.idleAt - strideCycles }

/-- Buffers of a mask become pending (R261, R266). -/
def Chip.canRequest (c : Chip) (n mask : Nat) : Chip :=
  let c := c.canSettle n
  (c.put (CAN_TX_PEND_pend n) (c.rd (CAN_TX_PEND_pend n) ||| mask)).canContend n

/-- A comparator trigger to controller n at a clock value (R261): the buffers of the mask become pending, a pending one is late. -/
def Chip.canTrigger (c : Chip) (n t : Nat) : Chip :=
  if 4 ≤ n then c
  else
    let mask := c.rd (CAN_TT_MASK_mask n)
    let late := mask &&& c.rd (CAN_TX_PEND_pend n) != 0
    let c := (c.put (CAN_TRIG_NS_ns n) (clockNs t)).put (CAN_TRIG_SEC_sec n) (clockSec t)
    let c := (c.raiseEv (canPage n) 2).canRequest n mask
    if late then c.raiseEv (canPage n) 3 else c

/-- A drop of a port makes the stop buffer of each controller that names it pending (R262). -/
def Chip.canStop (c : Chip) (port : Nat) : Chip :=
  forN 4 (fun n c =>
    if c.flag (CAN_STOP_CFG_en n) && bit (c.rd (CAN_STOP_PORTS_ports n)) port then
      c.canRequest n (2 ^ c.rd (CAN_STOP_CFG_buf n))
    else c) c

/-- A write to CAN_TX_REQ makes the named buffers pending (R266). -/
def canTxRequest (acc : Access) (n v : Nat) (c : Chip) : Chip :=
  c.writeUnit .can n acc (CAN_TX_REQ n).addr v fun c => c.canRequest n (v % 2 ^ 32)

/-- CAN_TX_REQUEST (R266). -/
def execCanTxRequest (acc : Access) (n v : Nat) (s : State) : Answer := s.effect (canTxRequest acc n v)

/-- A write to CAN_TX_CANCEL cancels the named pending buffers; a frame on the bus completes (R261). -/
def canTxCancel (acc : Access) (n v : Nat) (c : Chip) : Chip :=
  c.writeUnit .can n acc (CAN_TX_CANCEL n).addr v fun c =>
    let c := c.canSettle n
    let keep := match (c.canState n).sending with
      | some b => 2 ^ b
      | none => 0
    let p := c.rd (CAN_TX_PEND_pend n)
    let c := c.put (CAN_TX_PEND_pend n) ((p ^^^ (p &&& v)) ||| (p &&& keep))
    if c.rd (CAN_TX_PEND_pend n) = 0 then c.setCan n { c.canState n with contend := none } else c

/-- CAN_TX_CANCEL (R261). -/
def execCanTxCancel (acc : Access) (n v : Nat) (s : State) : Answer := s.effect (canTxCancel acc n v)

/-- A write of word w of transmit buffer b: by the owner of the controller's page, and ignored while the buffer is pending
(R260, R261). -/
def canBufferWrite (acc : Access) (n b w v : Nat) (c : Chip) : Chip :=
  if Blk.can.count c.variant ≤ n ∨ 32 ≤ b ∨ 18 ≤ w then c
  else
    let a := canBuffer n b + 4 * w
    if acc.size ≠ 4 ∨ acc.skew ≠ 0 then c.violate acc a 4 true
    else if initiatorPlane acc.by_ ≠ c.rd (ownerFld (canPage n)) then c.violate acc a 0 true
    else if bit (c.rd (CAN_TX_PEND_pend n)) b then c.setFlag (CAN_STATUS_wr_pending n) true
    else c.setBytes a (leBytes 4 v)

/-- CAN_BUFFER_WRITE (R261). -/
def execCanBufferWrite (acc : Access) (n b w v : Nat) (s : State) : Answer := s.effect (canBufferWrite acc n b w v)

/-- The bytes of buffer b as they go on the bus: an FD frame only with fd_en, and a switched bit rate only with brs_en (R266, log 108). -/
def Chip.canBytes (c : Chip) (n b : Nat) : List Nat :=
  let a := canBuffer n b
  let w1 := Memory.le c.mem (a + 4) 4
  let fd := bit w1 4 && c.flag (CAN_CTRL_fd_en n)
  let brs := fd && bit w1 5 && c.flag (CAN_CTRL_brs_en n)
  leBytes 4 (Memory.le c.mem a 4 % 2 ^ 30) ++ leBytes 4 (w1 % 16 + 16 * fd.toNat + 32 * brs.toNat) ++
    (List.range (if fd then 64 else 8)).map fun k => Memory.le c.mem (a + 8 + k) 1

/-- The frame on the bus has been sent: its buffer is done, and the pending ones contend again (R261, R262). -/
def canFrameSent (n : Nat) (c : Chip) : Chip :=
  let x := c.canState n
  match (if x.sending.isSome then x.sending else if x.contend.isSome then c.canWinner n else none) with
  | none => c
  | some b =>
    let sent := c.canBytes n b
    let c := c.put (CAN_TX_PEND_pend n) (putBit (c.rd (CAN_TX_PEND_pend n)) b false)
    let c := (c.put (CAN_TX_DONE_done n) (c.rd (CAN_TX_DONE_done n) ||| 2 ^ b)).raiseEv (canPage n) 1
    let c := if c.flag (CAN_STOP_CFG_en n) && c.rd (CAN_STOP_CFG_buf n) == b then c.raiseEv (canPage n) 7 else c
    (c.setCan n { c.canState n with sending := none, contend := none, idleAt := 0, sent := sent }).canContend n

/-- CAN_FRAME_SENT (R261). -/
def execCanFrameSent (n : Nat) (s : State) : Answer := s.effect (canFrameSent n)

/-- The lowest enabled filter that matches a frame with the first word w (R266). -/
def Chip.canMatch (c : Chip) (n w : Nat) : Option Nat :=
  (List.range 32).find? fun f =>
    c.flag (CAN_FILT_ID_en n f) && c.flag (CAN_FILT_ID_ide n f) == bit w 29 &&
      ((c.rd (CAN_FILT_ID_id n f) ^^^ (w % 2 ^ 29)) &&& c.rd (CAN_FILT_MASK_mask n f)) == 0

/-- The controller takes in a frame with word 1: an FD frame with fd_en, a switched bit rate with brs_en (R266, log 108). -/
def Chip.canTakes (c : Chip) (n w1 : Nat) : Bool :=
  (!bit w1 4 || c.flag (CAN_CTRL_fd_en n)) && (!bit w1 5 || c.flag (CAN_CTRL_brs_en n))

/-- Another node's frame is on the bus for some cycles from now: the pending buffers contend at the idle bus behind it, and those that
are pending by then count (R261). -/
def Chip.canYield (c : Chip) (n cycles : Nat) : Chip :=
  (c.setCan n { c.canState n with sending := none, contend := none, idleAt := c.cycle + cycles }).canContend n

/-- A frame arrives with the words 0 and 1 of R260, its data and its start-of-frame cycle: it enters the FIFO when a filter
matches, and is lost when the FIFO is full (R266, R267). -/
def canFrameReceive (n w0 w1 : Nat) (data : List Nat) (cyc : Nat) (c : Chip) : Chip :=
  if Blk.can.count c.variant ≤ n ∨ ¬ c.canOnBus n then c
  else
    let c := (c.advanceTo cyc).canYield n (Config.canFrameCycles w0 w1 data (c.rd (CAN_NBT n)) (c.rd (CAN_DBT n)))
    if ¬ c.canTakes n w1 then c else
    match c.canMatch n w0 with
    | none => c
    | some f =>
      let k := c.rd (CAN_RX_COUNT_count n)
      if 64 ≤ k then (c.incSat (CAN_RX_LOST_count n)).raiseEv (canPage n) 6
      else
        let t := c.tim.clock
        let a := canSlot n (((c.canState n).head + k) % 64)
        let c := c.setBytes a (leBytes 4 (w0 % 2 ^ 30) ++ leBytes 4 (w1 % 64 + 256 * f) ++ leBytes 4 (clockNs t) ++
          leBytes 4 (clockSec t % 2 ^ 16) ++ fit 64 data)
        (c.put (CAN_RX_COUNT_count n) (k + 1)).setRaw (canPage n) 0 true

/-- CAN_FRAME_RECEIVE (R266). -/
def execCanFrameReceive (n w0 w1 : Nat) (data : List Nat) (cyc : Nat) (s : State) : Answer :=
  s.effect (canFrameReceive n w0 w1 data cyc)

/-- A write of CAN_RX_POP with pop at 1 frees the oldest entry (R266). -/
def canRxPop (acc : Access) (n v : Nat) (c : Chip) : Chip :=
  c.writeUnit .can n acc (CAN_RX_POP n).addr v fun c =>
    let k := c.rd (CAN_RX_COUNT_count n)
    if v % 2 = 0 ∨ k = 0 then c
    else
      let x := c.canState n
      ((c.setCan n { x with head := (x.head + 1) % 64 }).put (CAN_RX_COUNT_count n) (k - 1)).setRaw (canPage n) 0 (k != 1)

/-- CAN_RX_POP (R266). -/
def execCanRxPop (acc : Access) (n v : Nat) (s : State) : Answer := s.effect (canRxPop acc n v)

/-- The transmit error count reaches bus-off: nothing is on the bus, and pending buffers stay pending (R261); bus-off is a
Module-level fault (R268). -/
def canBusOff (n : Nat) (c : Chip) : Chip :=
  if Blk.can.count c.variant ≤ n ∨ ¬ c.canOnBus n then c
  else
    let c := ((c.put (CAN_STATUS_state n) 2).put (CAN_STATUS_tec n) 255).raiseEv (canPage n) 5
    (c.setCan n { c.canState n with sending := none, contend := none }).setFault 5 0x2400 n

/-- CAN_BUS_OFF (R261). -/
def execCanBusOff (n : Nat) (s : State) : Answer := s.effect (canBusOff n)

/-- With auto_recover a bus-off controller recovers under ISO 11898-1 and sends what is pending (R261). -/
def canBusOffRecovery (n : Nat) (c : Chip) : Chip :=
  if c.rd (CAN_STATUS_state n) ≠ 2 ∨ ¬ c.flag (CAN_CTRL_auto_recover n) ∨ Blk.can.count c.variant ≤ n then c
  else
    let c := ((c.put (CAN_STATUS_state n) 0).put (CAN_STATUS_tec n) 0).put (CAN_STATUS_rec n) 0
    (c.clearFault 5 0x2400 n).canContend n

/-- CAN_BUS_OFF_RECOVERY (R261). -/
def execCanBusOffRecovery (n : Nat) (s : State) : Answer := s.effect (canBusOffRecovery n)

/-- The error counters move: at 128 or more in either the controller is error-passive, entry raising its event; below it is
error-active (R266, R267). -/
def canErrorPassive (n tec rec_ : Nat) (c : Chip) : Chip :=
  if Blk.can.count c.variant ≤ n ∨ ¬ c.canOnBus n then c
  else
    let passive := 128 ≤ tec ∨ 128 ≤ rec_
    let was := c.rd (CAN_STATUS_state n)
    let c := (c.put (CAN_STATUS_tec n) (satN 8 tec)).put (CAN_STATUS_rec n) (satN 8 rec_)
    let c := c.put (CAN_STATUS_state n) (if passive then 1 else 0)
    if passive ∧ was = 0 then c.raiseEv (canPage n) 4 else c

/-- CAN_ERROR_PASSIVE (R267). -/
def execCanErrorPassive (n tec rec_ : Nat) (s : State) : Answer := s.effect (canErrorPassive n tec rec_)

/-- CAN_CTRL has been written: the controller joins the bus error-active, or leaves it; without listen-only pending buffers contend
(R266). -/
def Chip.canEnable (c : Chip) (n : Nat) : Chip :=
  if c.flag (CAN_CTRL_en n) then
    let c := if c.rd (CAN_STATUS_state n) = 3 then
        ((c.put (CAN_STATUS_state n) 0).put (CAN_STATUS_tec n) 0).put (CAN_STATUS_rec n) 0
      else c
    c.canContend n
  else ((c.put (CAN_STATUS_state n) 3).setCan n { c.canState n with sending := none, contend := none }).clearFault 5 0x2400 n

/-- The controllers follow the role: outside the Near role none transmits, and what is pending waits; in it what is pending contends
(R349, R363). -/
def Chip.canRole (c : Chip) : Chip :=
  forN 4 (fun n c =>
    if ¬ c.isOff then c.canContend n
    else
      let x := c.canState n
      if x.sending.isNone ∧ x.contend.isNone then c else c.setCan n { x with sending := none, contend := none }) c

end Sys2Proof.Machine
end

