-- ==== Sys2Proof/Machine/TimeUnit.lean ====
section
/-! DEFINITION. The time unit: steps, the clock servo, lock and holdover, the VCXO loop, the Stride load, comparators and captures
(R62–R83). -/

namespace Sys2Proof.Machine

/-- The block with its time unit changed. -/
def Chip.setTim (c : Chip) (f : TimeUnit → TimeUnit) : Chip := { c with tim := f c.tim }

/-! ### Reading the clock -/

/-- A read of TIM_SEC_LO latches the high seconds, the nanoseconds and the fraction of the same cycle (R64). -/
def timSecLoRead (acc : Access) (cyc : Nat) (c : Chip) : Chip :=
  (c.advanceTo cyc).read acc TIM_SEC_LO.addr fun c =>
    let t := c.tim.clock
    let c := ((c.put TIM_SEC_LO_sec (clockSec t)).put TIM_SEC_HI_sec (clockSec t / 2 ^ 32)).put TIM_NS_ns (clockNs t)
    { c.put TIM_FRAC_frac (clockFrac t) with rdata := clockSec t % 2 ^ 32 }

/-- TIM_SEC_LO_READ (R64). -/
def execTimSecLoRead (acc : Access) (cyc : Nat) (s : State) : Answer := s.effect (timSecLoRead acc cyc)

/-! ### Lock and validity (R68, R71) -/

/-- stride_aligned clears with its event (R71). -/
def Chip.alignLost (c : Chip) : Chip :=
  let c := c.setTim fun t => { t with alignedRun := 0 }
  if c.flag (tst 3) then (c.setFlag (tst 3) false).raiseEv timPage 6 else c

/-- time_valid follows clock_locked and holdover; stride_aligned clears when it clears (R68, R71). -/
def Chip.settleTime (c : Chip) : Chip :=
  let v := c.flag (tst 0) || c.flag (tst 1)
  let c := c.setFlag (tst 2) v
  if v then c else c.alignLost

/-- clock_locked clears with its event (R68, R81). -/
def Chip.lockLost (c : Chip) : Chip :=
  let c := c.setTim fun t => { t with inRange := 0 }
  if c.flag (tst 0) then ((c.setFlag (tst 0) false).raiseEv timPage 1).settleTime else c

/-- A sample counts for lock (R68): in Q24.8 ns. The fault of an expired holdover ends when lock is gained again; the spec names no end
for it (DESIGN CHOICE, log 103). -/
def Chip.countSample (c : Chip) (o : Int) : Chip :=
  let c := c.setTim fun t => { t with sinceSample := 0 }
  let enter : Int := c.rd TIM_LOCK_THR_enter * 256
  let exit : Int := c.rd TIM_LOCK_THR_exit * 256
  let c := c.setTim fun t => { t with inRange := if -enter ≤ o ∧ o ≤ enter then min 16 (t.inRange + 1) else 0 }
  let c := if o < -exit ∨ exit < o then c.lockLost else c
  if c.tim.inRange = 16 ∧ ¬ c.flag (tst 0) then
    ((((c.setFlag (tst 0) true).setFlag (tst 1) false).clearFault 5 0x0301 0).raiseEv timPage 0).settleTime
  else c

/-- TIM_RATE.adj takes a value (R67); rate_at_limit shows whether it sits at a clamp limit. -/
def Chip.setRate (c : Chip) (adj : Int) : Chip :=
  let adj := clampI (-adjLimit) adjLimit adj
  (c.putS TIM_RATE_adj adj).setFlag (tst 7) (adj == adjLimit || adj == -adjLimit)

/-- TIM_INTEG shows trunc0(I) (R80). -/
def Chip.showInteg (c : Chip) : Chip := c.putS TIM_INTEG_i (trunc0 c.tim.integ 24)

/-- A step of n ns is requested: step_pending sets (R65). -/
def Chip.requestStep (c : Chip) (n : Int) : Chip :=
  (c.setTim fun t => { t with step := some n, stepCycle := c.cycle }).setFlag (tst 5) true

/-- The servo uses a sample below the step threshold (R67): the integrator, then the rate. -/
def Chip.servo (c : Chip) (o : Int) : Chip :=
  let c := c.putS TIM_LAST_OFS_ofs o
  let lim : Int := adjLimit * 2 ^ 24
  let prodP : Int := c.rd TIM_KP_kp * o
  let i := clampI (-lim) lim (c.tim.integ - c.rd TIM_KI_ki * o)
  let c := (c.setTim fun t => { t with integ := i }).showInteg
  c.setRate (-(trunc0 prodP 24) + trunc0 i 24)

/-- One offset sample, in Q24.8 ns (R67, R68): discarded while a step is pending. -/
def Chip.offsetSample (c : Chip) (o : Int) : Chip :=
  if c.tim.step.isSome then c
  else
    let c := c.countSample o
    if ¬ c.flag TIM_CTRL_servo_en then c.putS TIM_LAST_OFS_ofs o
    else if (c.rd TIM_STEP_THR_thr : Int) * 256 ≤ o.natAbs then
      if c.flag TIM_CTRL_auto_step then c.requestStep (rhe (-o) 8) else c.raiseEv timPage 4
    else c.servo o

/-- A write to TIM_OFS is one sample while ref_src is 1 (R66). -/
def offsetSampleWrite (acc : Access) (v : Nat) (cyc : Nat) (c : Chip) : Chip :=
  (c.advanceTo cyc).write acc TIM_OFS.addr v fun c =>
    if c.rd TIM_CTRL_ref_src = 1 then c.offsetSample (signed 32 v) else c

/-- OFFSET_SAMPLE (R67). -/
def execOffsetSample (acc : Access) (v cyc : Nat) (s : State) : Answer := s.effect (offsetSampleWrite acc v cyc)

/-- The sample of a PPS_IN edge (R66): local time minus the delay minus the nearest whole second, in 1/256 ns. It is rounded half to
even and keeps its whole range of half a second either way; TIM_LAST_OFS shows its low 32 bits (DESIGN CHOICE, log 103). -/
def ppsSample (clock : Nat) (delay : Int) : Int :=
  let t : Int := clock - delay * 2 ^ 32
  let near := (t + (unitsPerSecond / 2 : Nat)) / (unitsPerSecond : Int)
  rhe (t - near * unitsPerSecond) 24

/-- An edge at PPS_IN: the active one is one sample while ref_src is 2, and ends pps_missing (R66, R68). -/
def ppsInEdge (rising : Bool) (cyc : Nat) (c : Chip) : Chip :=
  let c := c.advanceTo cyc
  if rising = c.flag TIM_CTRL_pps_edge then c
  else
    let c := (c.setTim fun t => { t with sincePps := 0 }).setFlag (tst 9) false
    if c.rd TIM_CTRL_ref_src = 2 then c.offsetSample (ppsSample c.tim.clock (c.rdS TIM_PPS_DELAY_delay)) else c

/-- PPS_IN_EDGE (R66). -/
def execPpsInEdge (rising : Bool) (cyc : Nat) (s : State) : Answer := s.effect (ppsInEdge rising cyc)

/-- No sample for 4 s while locked: holdover sets and adj holds trunc0(I) (R68), unless servo_en is 0, when the module does not update
TIM_RATE (R67). -/
def holdoverEnter (c : Chip) : Chip :=
  if c.flag (tst 0) ∧ 32000 ≤ c.tim.sinceSample then
    let c := (c.setFlag (tst 1) true).setTim fun t => { t with holdover := 0 }
    let c := c.lockLost
    if c.flag TIM_CTRL_servo_en then c.setRate (trunc0 c.tim.integ 24) else c
  else c

/-- HOLDOVER_ENTER (R68). -/
def execHoldoverEnter (s : State) : Answer := s.effect holdoverEnter

/-- Seconds that holdover may last (R80). -/
def Chip.holdoverLimit (c : Chip) : Nat := clampN 1 3600 (c.rd TIM_HOLDOVER_limit)

/-- Holdover has lasted its limit: it clears, time_valid clears and the time fault is reported (R68, R83). -/
def holdoverExpire (c : Chip) : Chip :=
  if c.flag (tst 1) ∧ c.holdoverLimit * 8000 ≤ c.tim.holdover then
    (((c.setFlag (tst 1) false).settleTime).setFault 5 0x0301 0).raiseEv timPage 2
  else c

/-- HOLDOVER_EXPIRE (R83). -/
def execHoldoverExpire (s : State) : Answer := s.effect holdoverExpire

/-- No PPS_IN edge for 1.5 s while ref_src is 2 (R68). -/
def ppsMissing (c : Chip) : Chip :=
  if c.rd TIM_CTRL_ref_src = 2 ∧ 12000 ≤ c.tim.sincePps ∧ ¬ c.flag (tst 9) then
    (c.setFlag (tst 9) true).raiseEv timPage 27
  else c

/-- PPS_MISSING (R68). -/
def execPpsMissing (s : State) : Answer := s.effect ppsMissing

/-- A limit status has held for 10 s: a time fault (R83). -/
def timeLimitFault (c : Chip) : Chip :=
  let c := if 80000 ≤ c.tim.rateLimited then c.setFault 5 0x0307 0 else c
  if 80000 ≤ c.tim.vcxoLimited then c.setFault 5 0x0308 0 else c

/-- TIME_LIMIT_FAULT (R83). -/
def execTimeLimitFault (s : State) : Answer := s.effect timeLimitFault

/-! ### Commands -/

/-- TIM_CMD.step: a step is requested unless one is pending (R65). TIM_STEP is taken as the command lands, not at the edge (DESIGN CHOICE,
log 117: the spec does not say which). -/
def timStepCmd (acc : Access) (cyc : Nat) (c : Chip) : Chip :=
  (c.advanceTo cyc).write acc TIM_CMD.addr 1 fun c =>
    if c.tim.step.isSome then c else c.requestStep (signed 64 (c.rd64 TIM_STEP_LO_step TIM_STEP_HI_step))

/-- TIM_STEP_CMD (R65). -/
def execTimStepCmd (acc : Access) (cyc : Nat) (s : State) : Answer := s.effect (timStepCmd acc cyc)

/-- The module holds the Off role, where no load occurs (R72). -/
def Chip.strideFollows (c : Chip) : Bool := c.rd HRN_STATUS_role == 2

/-- TIM_CMD.load_stride: stride_back clears with the write (R83), in the Off role too (DESIGN CHOICE, log 103), and the next edge loads c
(R72). -/
def loadStrideCmd (acc : Access) (c : Chip) : Chip :=
  c.write acc TIM_CMD.addr 2 fun c => (c.setFlag (tst 4) false).setTim fun t => { t with loadRequest := true }

/-- LOAD_STRIDE_CMD (R72). -/
def execLoadStrideCmd (acc : Access) (s : State) : Answer := s.effect (loadStrideCmd acc)

/-- TIM_CMD.clear_integ zeroes I and J (R80). -/
def clearIntegCmd (acc : Access) (c : Chip) : Chip :=
  c.write acc TIM_CMD.addr 4 fun c => (c.setTim fun t => { t with integ := 0, vcxoInteg := 0 }).showInteg

/-- CLEAR_INTEG_CMD (R80). -/
def execClearIntegCmd (acc : Access) (s : State) : Answer := s.effect (clearIntegCmd acc)

/-! ### At a Stride edge -/

/-- The target of comparator t in 2^-32 ns: what its target registers hold, also when they are written while it is armed (DESIGN
CHOICE, log 103). -/
def Chip.comparatorTarget (c : Chip) (t : Nat) : Nat :=
  (c.rd64 (TIM_TC_SEC_LO_sec t) (TIM_TC_SEC_HI_sec t) * 1000000000 + c.rd (TIM_TC_NS_ns t)) * 2 ^ 32

/-- The target of comparator t takes a value in whole ns. -/
def Chip.setTarget (c : Chip) (t ns : Nat) : Chip :=
  let sec := ns / 1000000000
  ((c.put (TIM_TC_SEC_LO_sec t) sec).put (TIM_TC_SEC_HI_sec t) (sec / 2 ^ 32)).put (TIM_TC_NS_ns t) (ns % 1000000000)

/-- Whether a forward step has passed the target of comparator t. -/
def Chip.setPassed (c : Chip) (t : Nat) (b : Bool) : Chip := c.setTim fun u => { u with passed := putBit u.passed t b }

/-- The target of an armed comparator was passed by a forward step (R75). -/
def Chip.markPassed (c : Chip) (old new : Nat) : Chip :=
  forN 8 (fun t c =>
    let x := c.comparatorTarget t
    if c.flag (TIM_TC_CFG_arm t) && decide (old < x) && decide (x ≤ new) then c.setPassed t true else c) c

/-- The pending step at the edge that ends the present Stride, when its command landed at least 1 µs before it; every edge resets the
cycle of a command that came before it (R65). -/
def stepApply (c : Chip) : Chip :=
  match c.tim.step with
  | none => c
  | some n =>
    if strideCycles < c.tim.stepCycle + 100 then c
    else
      let c := c.advanceTo strideCycles
      let old := c.tim.clock
      let new : Int := old + n * 2 ^ 32
      let c := (c.setTim fun t => { t with step := none }).setFlag (tst 5) false
      if new < 0 then ((c.setFlag (tst 6) true).setFault 5 0x0306 0).raiseEv timPage 3
      else
        let c := c.setTim fun t => { t with clock := new.toNat }
        let c := ((c.setFlag (tst 6) false).clearFault 5 0x0306 0).raiseEv timPage 3
        c.lockLost.markPassed old new.toNat

/-- STEP_APPLY (R65). -/
def execStepApply (s : State) : Answer := s.effect stepApply

/-- Every armed slot becomes rebased: nothing applies and the shadows stay dirty (R56). -/
def Chip.rebaseSlots (c : Chip) : Chip :=
  forN 4 (fun p c =>
    if c.armed p then ((c.put (STG_SLOT_ST_state p) 8).setSlot p {}).raiseEv 0x40030000 9 else c) c

/-- The open regression windows of all elements are discarded (R101). -/
def Chip.discardWindows (c : Chip) : Chip :=
  forN c.variant.elements (fun n c => c.setElem n { c.elem n with window := none }) c

/-- The one-second sums of every element start at zero (R140). -/
def Chip.openSums (c : Chip) : Chip :=
  forN c.variant.elements (fun n c =>
    c.setElem n { c.elem n with v2Sum := 0, i2Sum := 0, vSum := 0, iSum := 0, forced1s := false }) c

/-- The next edge loads the Stride number n (R72): armed slots rebase, regression windows are discarded, and the one-second sums of
another window start anew. -/
def Chip.loadNext (c : Chip) (n : Nat) : Chip :=
  let c := ({ c with strideNext := some n } : Chip).rebaseSlots.discardWindows
  if n / 8000 = c.stride / 8000 then c else c.openSums

/-- The number that the next edge gives its Stride. -/
def Chip.nextStride (c : Chip) : Nat := c.strideNext.getD (c.stride + 1)

/-- A requested load takes c at the edge that ends the present Stride, but for the Off role (R72). -/
def strideLoad (c : Chip) : Chip :=
  if c.tim.loadRequest then
    let c := (c.advanceTo strideCycles).setTim fun t => { t with loadRequest := false }
    let n := computedStride c.tim.clock
    if c.strideFollows ∨ n = c.stride + 1 then c else c.loadNext n
  else c

/-- STRIDE_LOAD (R72). -/
def execStrideLoad (s : State) : Answer := s.effect strideLoad

/-- stride_aligned sets (R71); for the first time since module reset it may load the Stride number (R72). -/
def Chip.alignGained (c : Chip) : Chip :=
  if c.flag (tst 3) then c
  else
    let c := (c.setFlag (tst 3) true).raiseEv timPage 5
    if c.tim.everAligned then c
    else
      let c := c.setTim fun t => { t with everAligned := true }
      let n := computedStride c.tim.clock
      if c.strideFollows then c
      else if c.nextStride < n then c.loadNext n
      else if c.nextStride = n then c
      else (c.setFlag (tst 4) true).raiseEv timPage 7

/-- φ̄ at the edge of a Stride number divisible by 8000: the exact mean of the preceding 8000 values of φ, rounded once (R70); of those
there are when a load made fewer (DEDUCED, log 42). -/
def Chip.phaseMean (c : Chip) : Int := rheDiv (sumI c.tim.phases) (c.tim.phases.length * 2 ^ 24)

/-- vcxo_at_limit follows the code and its limits (R70, R80). -/
def Chip.showVcxo (c : Chip) : Chip :=
  let dac := c.rd TIM_VCXO_DAC_code
  c.setFlag (tst 8) (dac == c.rd TIM_VCXO_LIM_min || dac == c.rd TIM_VCXO_LIM_max)

/-- One update of the VCXO loop by φ̄ in Q24.8 ns (R70). -/
def Chip.vcxoStep (c : Chip) (mean : Int) : Chip :=
  let j := c.tim.vcxoInteg + c.rd TIM_VKI_kvi * mean
  let slew : Int := c.rd TIM_VCXO_SLEW_slew
  let step := clampI (-slew) slew (-(trunc0 (c.rd TIM_VKP_kvp * mean + j) 24))
  let step := if c.flag TIM_CTRL_vcxo_neg then -step else step
  let lo : Int := c.rd TIM_VCXO_LIM_min
  let hi : Int := c.rd TIM_VCXO_LIM_max
  let dac := clampI lo hi (c.rd TIM_VCXO_DAC_code + step)
  ((c.setTim fun t => { t with vcxoInteg := j }).putS TIM_VCXO_DAC_code dac).showVcxo

/-- The alignment that φ̄ decides (R71): four means within ±500 ns set, one beyond ±2000 ns clears. Where time_valid or flock becomes 1
after the fourth mean, the alignment sets at the next mean within range, and a loss of either starts the four anew (DESIGN CHOICE,
log 117: R71 does not say). -/
def Chip.alignBy (c : Chip) (mean : Int) : Chip :=
  let c := c.setTim fun t =>
    { t with alignedRun := if -128000 ≤ mean ∧ mean ≤ 128000 then min 4 (t.alignedRun + 1) else 0 }
  if mean < -512000 ∨ 512000 < mean then c.alignLost
  else if c.tim.alignedRun = 4 ∧ c.timeValid then c.alignGained
  else c

/-- The VCXO loop at the edge of a Stride divisible by 8000 in frequency-locked mode (R70, R71). Off the Near role the code follows
Near's and the loop does not run (R349). -/
def vcxoLoopUpdate (c : Chip) : Chip :=
  if c.flag TIM_CTRL_flock ∧ c.nextStride % 8000 = 0 then
    let c := c.advanceTo strideCycles
    let m := c.phaseMean
    let c := c.putS TIM_PHASE_MEAN_phi_mean m
    (if c.isOff then c else c.vcxoStep m).alignBy m
  else c

/-- VCXO_LOOP_UPDATE (R70). -/
def execVcxoLoopUpdate (s : State) : Answer := s.effect vcxoLoopUpdate

/-! ### Comparators -/

/-- The period of comparator t in ns; 1–99 ns act as 100 (R80). -/
def Chip.comparatorPeriod (c : Chip) (t : Nat) : Nat :=
  let p := c.rd (TIM_TC_PERIOD_period t)
  if p = 0 then 0 else max 100 p

/-- Comparator t fires: fired sets, its event is raised and its action runs (R75). -/
def Chip.comparatorAct (c : Chip) (t : Nat) (late : Bool) : Chip :=
  let c := (c.setFlag (TIM_TC_STAT_fired t) true).raiseEv timPage (10 + t)
  let c := if late then c.setFlag (TIM_TC_STAT_late t) true else c
  match c.rd (TIM_TC_CFG_action t) with
  | 1 => c.setTim fun u => { u with ppsOut := some (c.rd (TIM_TC_CFG_pulse_10us t) * 1000) }
  | 2 => c.controlTick
  | 3 => c.canTrigger (c.rd (TIM_TC_CFG_can_sel t)) c.tim.clock
  | _ => c

/-- After firing: a one-shot disarms; a periodic target that lies behind advances by the smallest number of periods into the
future, otherwise by one (R75). -/
def Chip.comparatorNext (c : Chip) (t : Nat) (skip : Bool) : Chip :=
  let p := c.comparatorPeriod t
  let c := c.setPassed t false
  if p = 0 then c.setFlag (TIM_TC_CFG_arm t) false
  else
    let x := c.comparatorTarget t
    let k := if skip then (c.tim.clock - x) / (p * 2 ^ 32) + 1 else 1
    c.setTarget t (x / 2 ^ 32 + k * p)

/-- A write of TIM_TC_CFG of comparator t: with arm at 1 a past target fires at once and late (R75). -/
def comparatorArm (acc : Access) (t v cyc : Nat) (c : Chip) : Chip :=
  if 8 ≤ t then c
  else (c.advanceTo cyc).write acc (TIM_TC_CFG t).addr v fun c =>
    let c := (c.put (TIM_TC_CFG t) (v &&& 0xFFFF0037)).setPassed t false
    if v % 2 = 1 ∧ c.comparatorTarget t < c.tim.clock then (c.comparatorAct t true).comparatorNext t true else c

/-- COMPARATOR_ARM (R75). -/
def execComparatorArm (acc : Access) (t v cyc : Nat) (s : State) : Answer := s.effect (comparatorArm acc t v cyc)

/-- Armed comparator t, whose target the clock has reached, fires (R75). -/
def comparatorFire (t cyc : Nat) (c : Chip) : Chip :=
  if 8 ≤ t then c
  else
    let c := c.advanceTo cyc
    if ¬ c.flag (TIM_TC_CFG_arm t) ∨ c.tim.clock < c.comparatorTarget t then c
    else
      let passed := bit c.tim.passed t
      (c.comparatorAct t (passed && c.comparatorPeriod t != 0)).comparatorNext t passed

/-- COMPARATOR_FIRE (R75). -/
def execComparatorFire (t cyc : Nat) (s : State) : Answer := s.effect (comparatorFire t cyc)

/-- PPS_OUT falls once its width has passed (R75). -/
def ppsOutPulseEnd (cyc : Nat) (c : Chip) : Chip :=
  let c := c.advanceTo cyc
  if c.tim.ppsOut = some 0 then c.setTim fun u => { u with ppsOut := none } else c

/-- PPS_OUT_PULSE_END (R75). -/
def execPpsOutPulseEnd (cyc : Nat) (s : State) : Answer := s.effect (ppsOutPulseEnd cyc)

/-- Some armed comparator gives the control tick (R75). -/
def Chip.comparatorTicks (c : Chip) : Bool :=
  (List.range 8).any fun t => c.flag (TIM_TC_CFG_arm t) && c.rd (TIM_TC_CFG_action t) == 2

/-! ### Captures -/

/-- The entries of capture FIFO k, oldest first. -/
def Chip.captures (c : Chip) (k : Nat) : List Capture := Sparse.get (fun _ => []) c.tim.captures k

/-- The FIFO of input k holds the given entries: its count and its level event follow (R76, R81). -/
def Chip.setCaptures (c : Chip) (k : Nat) (l : List Capture) : Chip :=
  let c := c.setTim fun u => { u with captures := Sparse.set (fun _ => []) u.captures k l }
  (c.put (TIM_CAP_STAT_count k) l.length).setRaw timPage (18 + k) (!l.isEmpty)

/-- An edge at CAPT_INk: a selected one is time-stamped into the FIFO, or lost when it is full (R76). -/
def captureEdge (k : Nat) (rising : Bool) (cyc : Nat) (c : Chip) : Chip :=
  if 8 ≤ k then c
  else
    let c := c.advanceTo cyc
    if ¬ bit (c.rd (TIM_CAP_CFG_edge k)) (if rising then 0 else 1) then c
    else if 16 ≤ (c.captures k).length then (c.setFlag (TIM_CAP_STAT_overflow k) true).raiseEv timPage 26
    else c.setCaptures k (c.captures k ++ [⟨clockSec c.tim.clock, clockNs c.tim.clock, rising⟩])

/-- CAPTURE_EDGE (R76). -/
def execCaptureEdge (k : Nat) (rising : Bool) (cyc : Nat) (s : State) : Answer := s.effect (captureEdge k rising cyc)

/-- A read of TIM_CAP_NS pops the oldest entry and latches its seconds; an empty FIFO reads zero (R76). -/
def capturePop (acc : Access) (k : Nat) (c : Chip) : Chip :=
  if 8 ≤ k then c
  else c.read acc (TIM_CAP_NS k).addr fun c =>
    match c.captures k with
    | [] => { c with rdata := 0 }
    | x :: l =>
      let c := c.setCaptures k l
      let c := (c.put (TIM_CAP_SEC_LO_sec k) x.sec).put (TIM_CAP_SEC_HI_sec k) (x.sec / 2 ^ 32)
      let c := (c.put (TIM_CAP_NS_ns k) x.ns).setFlag (TIM_CAP_NS_rising k) x.rising
      { c with rdata := x.ns + 2 ^ 31 * x.rising.toNat }

/-- CAPTURE_POP (R76). -/
def execCapturePop (acc : Access) (k : Nat) (s : State) : Answer := s.effect (capturePop acc k)

/-! ### What every Stride edge does to the time unit -/

/-- The timers of R68 and R83 count one Stride. -/
def TimeUnit.tick (t : TimeUnit) (rateAtLimit vcxoAtLimit holdover : Bool) : TimeUnit :=
  { t with
    sinceSample := min 32000 (t.sinceSample + 1)
    sincePps := min 12000 (t.sincePps + 1)
    holdover := if holdover then min 28800000 (t.holdover + 1) else 0
    rateLimited := if rateAtLimit then min 80000 (t.rateLimited + 1) else 0
    vcxoLimited := if vcxoAtLimit then min 80000 (t.vcxoLimited + 1) else 0 }

/-- The values that the time unit derives at the edge of Stride n (R69, R70, R80), after any step and load; a step that has been waiting
has now seen an edge (R65). -/
def Chip.timeEdge (c : Chip) : Chip :=
  let t := c.tim.clock
  let phi := stridePhase t
  let c := (c.putS TIM_PHASE_phi (rhe phi 24)).put64 TIM_CALC_LO_c TIM_CALC_HI_c (computedStride t)
  let c := if c.stride % 8000 = 0 then c.putS TIM_PHASE_MEAN_phi_mean c.phaseMean else c
  let c := c.setTim fun u => { u with phases := (phi :: u.phases).take 8000, stepCycle := 0 }
  let c := c.setTim fun u => u.tick (c.flag (tst 7)) (c.flag (tst 8)) (c.flag (tst 1))
  let c := if c.flag (tst 7) then c else c.clearFault 5 0x0307 0
  if c.flag (tst 8) then c else c.clearFault 5 0x0308 0

/-- TIM_CTRL has been written: stride_aligned clears when flock clears (R71). -/
def Chip.timCtrlWritten (c : Chip) : Chip := if c.flag TIM_CTRL_flock then c else c.alignLost

/-- The ledger clock of an edge under R78 and R79 is resolved: its outcome. -/
inductive LedgerRow where
  | invalid | next | short | forward | hold | backward
  deriving DecidableEq, Repr

/-- The row of R78 for the previous ledger clock L and the computed Stride value c. -/
def ledgerRow (valid : Bool) (l c : Nat) : LedgerRow :=
  if ¬ valid then .invalid
  else if c = l + 1 then .next
  else if l + 2 ≤ c then (if c - (l + 1) ≤ 8000 then .short else .forward)
  else if (l + 1) - c ≤ 480000 then .hold
  else .backward

/-- The ledger clock that a row gives (R78). -/
def ledgerValue (row : LedgerRow) (l c : Nat) : Nat :=
  match row with
  | .invalid => l + 1
  | .hold => l
  | _ => c

/-- LC takes a value with a row's flags: TIM_LEDGER, TIM_LEDGER_ST, TIM_STATUS bits 10 and 11 and the events of R81. -/
def Chip.setLedger (c : Chip) (row : LedgerRow) (v : Nat) : Chip :=
  let c := ({ c with lc := v } : Chip).put64 TIM_LEDGER_LO_lc TIM_LEDGER_HI_lc v
  let was := c.flag (tst 10)
  let held := row == .hold
  let c := (c.setFlag (tst 10) held).setFlag TIM_LEDGER_ST_hold held
  let c := if held && !was then c.raiseEv timPage 9 else c
  let inv := row == .invalid
  let c := (c.setFlag (tst 11) inv).setFlag TIM_LEDGER_ST_time_invalid inv
  match row with
  | .backward => (c.setFlag TIM_LEDGER_ST_back_corr true).raiseEv timPage 8
  | .forward => (c.setFlag TIM_LEDGER_ST_fwd_corr true).raiseEv timPage 8
  | _ => c

end Sys2Proof.Machine
end

