-- ==== Sys2Proof/Machine/Load.lean ====
section
/-! DEFINITION. The protected load channels and bridle mode (R269–R298). -/

namespace Sys2Proof.Machine

/-- The entry of a list of keyed inputs. -/
def inputOf {α : Type} (l : List (Nat × α)) (k : Nat) : Option α := (l.find? fun p => p.1 == k).map (·.2)

/-- The hidden part of a channel. -/
def Chip.channel (c : Chip) (n : Nat) : Channel := Sparse.get (fun _ => {}) c.load.channels n

/-- The block with the load state changed. -/
def Chip.setLoad (c : Chip) (f : Load → Load) : Chip := { c with load := f c.load }

/-- The block with the hidden part of a channel changed. -/
def Chip.setChannel (c : Chip) (n : Nat) (f : Channel → Channel) : Chip :=
  c.setLoad fun l => { l with channels := Sparse.set (fun _ => {}) l.channels n (f (c.channel n)) }

/-- The base of the global page. -/
def lsgPage : Nat := 0x40300000
/-- The base of a channel's page. -/
def lswPage (n : Nat) : Nat := 0x40310000 + n * 0x1000

/-- The switch die of a channel is in bridle mode. -/
def Chip.inBridle (c : Chip) (n : Nat) : Bool := bit c.load.bridle (n / 32)

/-- The source of a channel (R272); after a takeover a paralleled channel follows the pair demand (R363). -/
def Chip.channelSource (c : Chip) (n : Nat) : Bool :=
  let x := c.channel n
  if bit c.pair.follow n then bit c.pair.nearOutputs n
  else if x.ctrl % 4 = 1 then bit x.drive 0
  else if x.ctrl % 4 = 2 then x.pinClaimed && (bit c.load.pins (x.ctrl / 4 % 16) != bit x.ctrl 6)
  else false

/-- The port names the channel as a contactor channel (R250). -/
def Chip.portNames (c : Chip) (p n : Nat) : Bool :=
  (c.flag (OPT_CFG_cont0_v p) && c.rd (OPT_CFG_cont_ch0 p) == n) ||
    (c.flag (OPT_CFG_cont1_v p) && c.rd (OPT_CFG_cont_ch1 p) == n)

/-- Some port that names the channel has its permit at 0 (R275). -/
def Chip.forced (c : Chip) (n : Nat) : Bool :=
  (List.range c.variant.ports).any fun p => c.portNames p n && !c.flag (OPT_STATUS_permit p)

/-- The demand that the bridle map gives (R288). -/
def Chip.mapDemand (c : Chip) (n : Nat) : Bool :=
  let x := c.channel n
  match x.entry % 4 with
  | 1 => x.held
  | 2 => bit (c.rd LSW_BRIDLE_IN_in) (x.entry / 4 % 8)
  | _ => false

/-- A protection holds the channel off (R275). -/
def Chip.protectedOff (c : Chip) (n : Nat) : Bool :=
  c.flag (LSW_STATUS_shed_off n) || c.flag (LSW_STATUS_therm n) || c.flag (LSW_STATUS_clamp_lock n) ||
    c.flag (LSW_STATUS_oc_wait n) || c.flag (LSW_STATUS_exhausted n) || c.flag (LSW_STATUS_uv_off n) ||
    c.flag (LSW_BANK_rev (n / 8))

/-- The channel is in fault (R281). -/
def Chip.channelFault (c : Chip) (n : Nat) : Bool :=
  c.flag (LSW_STATUS_oc_fault n) || c.flag (LSW_STATUS_exhausted n) || c.flag (LSW_STATUS_therm n) ||
    c.flag (LSW_STATUS_clamp_lock n)

/-- SENSE_MON in mV (R282): 0.5 V/A of the output current of its channel up to 3.3 V, 4.5 V while that is in fault, and 0 V while it is off
or the controller die is in reset. -/
def Chip.senseMon (c : Chip) : Nat :=
  let n := c.rd LSW_MON_ch
  if ¬ c.flag LSW_MON_en ∨ c.boot.held ∨ c.variant.channels ≤ n then 0
  else if c.channelFault n then 4500
  else if ¬ c.flag (LSW_STATUS_on n) then 0
  else min 3300 (c.channel n).current

/-- The faults of the channels (R298), at the level and unit that LSW_CFG gives. -/
def Chip.loadFaults (c : Chip) : List ActiveFault :=
  (List.range c.variant.channels).foldl (fun l n =>
    let bits := [4, 6, 7, 8, 9, 10, 11, 12].filter fun b => c.flag ((LSW_STATUS n).bitOf b)
    bits.foldl (fun l b =>
      let f : ActiveFault :=
        if c.flag (LSW_CFG_flock_v n) then ⟨4, 0x3100 + b, c.rd (LSW_CFG_flock n)⟩ else ⟨5, 0x3100 + b, 0⟩
      if l.contains f then l else l ++ [f]) l) []

/-- The channels' faults and the level event 7 of a channel follow its status (R296, R298). -/
def Chip.noteChannel (c : Chip) (n : Nat) : Chip :=
  let c := { c with faults := c.faults.filter (fun f : ActiveFault => f.code / 32 != 0x188) ++ c.loadFaults }
  c.setRaw (lswPage n) 7 (c.channelFault n)

/-- A diagnosis ends with a result (R285). -/
def Chip.endDiag (c : Chip) (n r : Nat) : Chip :=
  let c := (c.setChannel n fun x => { x with diag := 0 }).setFlag (LSW_STATUS_diag_busy n) false
  (c.put (LSW_DIAG_result n) r).raiseEv (lswPage n) 5

/-- The retry decision while a channel is in retry wait (R280). In the Stride of a trip it waits for the buckets at the end of the Stride,
so that an emptying of the same Stride goes first (R294). -/
def Chip.retryDecide (c : Chip) (n : Nat) : Chip :=
  if ¬ c.flag (LSW_STATUS_oc_wait n) ∨ (c.channel n).tripped then c
  else if c.flag (LSW_STATUS_clamp_lock n) ∨ c.flag (LSW_STATUS_therm n) then c
  else if c.rd (LSW_STATUS_remaining n) = 0 then
    (((c.setFlag (LSW_STATUS_exhausted n) true).setFlag (LSW_STATUS_oc_wait n) false).raiseEv (lswPage n) 3).noteChannel n
  else if ¬ (c.channel n).delayDone ∨ ¬ c.flag (LSW_STATUS_demand n) then c
  else (c.put (LSW_STATUS_remaining n) (c.rd (LSW_STATUS_remaining n) - 1)).setFlag (LSW_STATUS_oc_wait n) false

/-- The bit of a channel in LSW_BSTATE or LSW_TAKE_DIFF. -/
def wordBit (lo hi : Fld) (n : Nat) : Fld := if n < 32 then lo.bitOf n else hi.bitOf (n - 32)

/-- The output of a channel takes a value: turn-offs are counted, and LSW_BSTATE shows it (R289, R296). -/
def Chip.setOutput (c : Chip) (n : Nat) (on : Bool) : Chip :=
  let was := c.flag (LSW_STATUS_on n)
  let c := (c.setFlag (LSW_STATUS_on n) on).setFlag (wordBit LSW_BSTATE_LO_on LSW_BSTATE_HI_on n) on
  let c := if was && !on then c.incSat (LSW_TOFF_count n) else c
  if on then c else c.setChannel n fun x => { x with onThroughout := false }

/-- A paralleled channel is held off (R351). -/
def Chip.twinHeld (c : Chip) (n : Nat) : Bool := c.outputsHeld && bit (c.channel n).ctrl 7 && !c.inBridle n

/-- Evaluates a channel (R275): forcing and its interlock, demand, the retry decision, and the output. In the Off role a paralleled
channel has Near's output as its demand and is held off (R351); the end of that hold sets no interlock (R363). -/
def Chip.settleChannel (c : Chip) (n : Nat) : Chip :=
  let src := c.channelSource n
  let forced := c.forced n
  let ends := c.offHoldEnds && bit c.pair.follow n
  let c := if c.flag (LSW_STATUS_forced n) && !forced && src && !ends then c.setFlag (LSW_STATUS_interlock n) true else c
  let c := c.setFlag (LSW_STATUS_forced n) forced
  let x := c.channel n
  let c := if src then c.setChannel n fun x => { x with sourceSeen := true } else c
  let c := c.setFlag (LSW_STATUS_pin_unclaimed n) (x.ctrl % 4 == 2 && !x.pinClaimed)
  let held := c.twinHeld n
  let d := if c.inBridle n then c.mapDemand n else if held then bit c.pair.nearOutputs n
    else !forced && src && !c.flag (LSW_STATUS_interlock n)
  let c := c.setFlag (LSW_STATUS_demand n) d
  let c := if d && c.flag (LSW_STATUS_diag_busy n) then c.endDiag n 0 else c
  let c := c.retryDecide n
  c.setOutput n (d && !c.protectedOff n && !held)

/-- Evaluates every channel. -/
def Chip.settleLoad (c : Chip) : Chip := forN c.variant.channels (fun n c => c.settleChannel n) c

/-! ### Pins and protection -/

/-- DRIVE_INk takes a level, and the channels in pin mode follow it (R273). -/
def driveInEdge (k : Nat) (level : Bool) (c : Chip) : Chip :=
  if 16 ≤ k then c else (c.setLoad fun l => { l with pins := putBit l.pins k level }).settleLoad

/-- DRIVE_IN_EDGE (R273). -/
def execDriveInEdge (k : Nat) (level : Bool) (s : State) : Answer := s.effect (driveInEdge k level)

/-- The retry delay of a channel in Strides (R280); 0 ms acts as 1. -/
def Channel.retryStrides (x : Channel) : Nat := max 1 (x.retry / 256 % 256) * 8

/-- An overcurrent trip of a channel that is on (R276). -/
def Chip.trip (c : Chip) (n : Nat) : Chip :=
  if c.variant.channels ≤ n ∨ ¬ c.flag (LSW_STATUS_on n) then c
  else
    let c := ((c.setFlag (LSW_STATUS_oc_fault n) true).setFlag (LSW_STATUS_oc_wait n) true).incSat (LSW_OC_CNT_trips n)
    let c := c.setChannel n fun x =>
      { x with waitLeft := x.retryStrides, delayDone := false, thermInWait := false, tripped := true, clean := 0 }
    (((c.raiseEv (lswPage n) 0).setOutput n false).noteChannel n).settleChannel n

/-- A channel has been in current limit for some µs without a break: it trips from t_lim on, where 0 acts as 1 (R276, R296). -/
def overcurrentTrip (n us : Nat) (c : Chip) : Chip :=
  if max 1 ((c.channel n).lim / 256 % 256) * 100 ≤ us then c.trip n else c

/-- OVERCURRENT_TRIP (R276). -/
def execOvercurrentTrip (n : Overcurrent) (s : State) : Answer := s.effect (overcurrentTrip n.channel n.us)

/-- The current limit of a channel in units of 0.1 A (R296). -/
def Channel.ilim (x : Channel) : Nat := clampN 10 60 (x.lim % 64)

/-- A current, in mA, above twice ilim or 12 A turns the channel off as an overcurrent trip (R276). -/
def shortCircuitCut (n ma : Nat) (c : Chip) : Chip :=
  if min (2 * (c.channel n).ilim * 100) 12000 < ma then c.trip n else c

/-- SHORT_CIRCUIT_CUT (R276). -/
def execShortCircuitCut (n ma : Nat) (s : State) : Answer := s.effect (shortCircuitCut n ma)

/-- The junction reaches 175 °C: the latch sets and the channel is off (R277). -/
def thermalLatchSet (n : Nat) (c : Chip) : Chip :=
  if c.variant.channels ≤ n ∨ c.flag (LSW_STATUS_therm n) then c
  else
    let wait := c.flag (LSW_STATUS_oc_wait n)
    let c := (c.setFlag (LSW_STATUS_therm n) true).incSat (LSW_OC_CNT_therm n)
    let c := c.setChannel n fun x => { x with thermInWait := x.thermInWait || wait, clean := 0 }
    ((c.raiseEv (lswPage n) 1).noteChannel n).settleChannel n

/-- THERMAL_LATCH_SET (R277). -/
def execThermalLatchSet (n : Nat) (s : State) : Answer := s.effect (thermalLatchSet n)

/-- The junction has cooled to 155 °C: the latch releases; a wait that it fell in starts its delay again (R277, R280). -/
def thermalLatchRelease (n : Nat) (c : Chip) : Chip :=
  if c.variant.channels ≤ n ∨ ¬ c.flag (LSW_STATUS_therm n) then c
  else
    let c := c.setFlag (LSW_STATUS_therm n) false
    let c := if c.flag (LSW_STATUS_oc_wait n) && (c.channel n).thermInWait then
        c.setChannel n fun x => { x with waitLeft := x.retryStrides, delayDone := false, thermInWait := false }
      else c
    (c.noteChannel n).settleChannel n

/-- THERMAL_LATCH_RELEASE (R277). -/
def execThermalLatchRelease (n : Nat) (s : State) : Answer := s.effect (thermalLatchRelease n)

/-- The clamp budget of a channel in Q22.3 µJ (R278). -/
def Channel.budget (x : Channel) : Nat := clampN 1 40 (x.clamp % 64) * 800000

/-- The refill of a channel in a Stride, in Q22.3 µJ (R278). -/
def Channel.refill (x : Channel) : Nat := clampN 10 500 (x.clamp / 65536 % 512)

/-- LSW_CMD.unlock: clamp_lock clears above half the budget, otherwise the unlock is refused (R278). -/
def clampUnlock (acc : Access) (n : Nat) (c : Chip) : Chip :=
  c.writeUnit .lsw n acc (LSW_CMD n).addr 2 fun c =>
    if (c.channel n).budget < 2 * c.rd (LSW_BUCKET_level n) then
      (((c.setFlag (LSW_STATUS_clamp_lock n) false).setFlag (LSW_STATUS_unlock_refused n) false).noteChannel n).settleChannel n
    else c.setFlag (LSW_STATUS_unlock_refused n) true

/-- CLAMP_UNLOCK (R278). -/
def execClampUnlock (acc : Access) (n : Nat) (s : State) : Answer := s.effect (clampUnlock acc n)

/-- The retry delay of a channel has run out (R280). -/
def retryDelayExpire (n : Nat) (c : Chip) : Chip :=
  let x := c.channel n
  if c.variant.channels ≤ n ∨ ¬ c.flag (LSW_STATUS_oc_wait n) ∨ x.waitLeft ≠ 0 ∨ x.thermInWait then c
  else (c.setChannel n fun x => { x with delayDone := true }).settleChannel n

/-- RETRY_DELAY_EXPIRE (R280). -/
def execRetryDelayExpire (n : Nat) (s : State) : Answer := s.effect (retryDelayExpire n)

/-- After 8000 clean Strides the remaining restarts are loaded again (R279). -/
def retryReload (n : Nat) (c : Chip) : Chip :=
  if c.variant.channels ≤ n ∨ (c.channel n).clean < 8000 then c
  else (c.put (LSW_STATUS_remaining n) ((c.channel n).retry % 16)).setChannel n fun x => { x with clean := 0 }

/-- RETRY_RELOAD (R279). -/
def execRetryReload (n : Nat) (s : State) : Answer := s.effect (retryReload n)

/-- LSW_CMD.clear (R280); a trip of the same Stride is applied after it (R294). -/
def channelClear (acc : Access) (n : Nat) (c : Chip) : Chip :=
  c.writeUnit .lsw n acc (LSW_CMD n).addr 1 fun c =>
    let x := c.channel n
    let wasShed := c.flag (LSW_STATUS_shed_off n)
    let c := ((c.setFlag (LSW_STATUS_oc_fault n) x.tripped).setFlag (LSW_STATUS_oc_wait n) x.tripped).setFlag
      (LSW_STATUS_exhausted n) false
    let c := ((c.setFlag (LSW_STATUS_e_over n) false).setFlag (LSW_STATUS_shed_off n) false).put (LSW_STATUS_remaining n)
      (x.retry % 16)
    let c := if wasShed && c.channelSource n then c.setFlag (LSW_STATUS_interlock n) true else c
    (c.noteChannel n).settleChannel n

/-- CHANNEL_CLEAR (R280). -/
def execChannelClear (acc : Access) (n : Nat) (s : State) : Answer := s.effect (channelClear acc n)

/-! ### Banks -/

/-- The fitted channels of a bank. -/
def Chip.bankChannels (c : Chip) (b : Nat) : List Nat :=
  (List.range 8).filterMap fun i => if 8 * b + i < c.variant.channels then some (8 * b + i) else none

/-- A bank supply falls below 9.0 V: its channels turn off with uv set (R271). -/
def bankUndervoltage (b : Nat) (c : Chip) : Chip :=
  if c.variant.flocks ≤ b then c
  else
    let c := ((c.setFlag (LSW_BANK_uv b) true).raiseEv lsgPage 5).setFault 5 0x3011 b
    (c.bankChannels b).foldl (fun (c : Chip) n => (c.setFlag (LSW_STATUS_uv_off n) true).settleChannel n) c

/-- BANK_UNDERVOLTAGE (R271). -/
def execBankUndervoltage (b : Nat) (s : State) : Answer := s.effect (bankUndervoltage b)

/-- A bank supply rises above 10.0 V: its channels resume, which is no retry (R271). -/
def bankRecover (b : Nat) (c : Chip) : Chip :=
  if c.variant.flocks ≤ b then c
  else
    let c := ((c.setFlag (LSW_BANK_uv b) false).clearFault 5 0x3011 b).setFlag (LSW_BANK_rev b) false
    let c := c.clearFault 5 0x3010 b
    (c.bankChannels b).foldl (fun (c : Chip) n => (c.setFlag (LSW_STATUS_uv_off n) false).settleChannel n) c

/-- BANK_RECOVER (R271). -/
def execBankRecover (b : Nat) (s : State) : Answer := s.effect (bankRecover b)

/-- A reversed bank supply blocks the bank's channels (R271). -/
def bankReversed (b : Nat) (c : Chip) : Chip :=
  if c.variant.flocks ≤ b then c
  else
    let c := ((c.setFlag (LSW_BANK_rev b) true).raiseEv lsgPage 5).setFault 5 0x3010 b
    (c.bankChannels b).foldl (fun (c : Chip) n => c.settleChannel n) c

/-- BANK_REVERSED (R271). -/
def execBankReversed (b : Nat) (s : State) : Answer := s.effect (bankReversed b)

/-- The sheddable channels that are on, of the given ones, have shed_off set (R286). -/
def Chip.shed (c : Chip) (l : List Nat) : Chip :=
  l.foldl (fun (c : Chip) n =>
    if bit (c.channel n).cfg 4 && c.flag (LSW_STATUS_on n) then
      (((c.setFlag (LSW_STATUS_shed_off n) true).raiseEv (lswPage n) 6).noteChannel n).settleChannel n
    else c) c

/-- The current of bank b (8: of the module) has stayed above its limit for 800 Strides (R286). -/
def bankOverload (b : Nat) (c : Chip) : Chip :=
  if Sparse.get (fun _ => 0) c.load.overRun b < 800 then c
  else if b = 8 then
    (((c.setFlag LSW_GSTATUS_module_over true).raiseEv lsgPage 4).setFault 5 0x3007 0).shed (List.range c.variant.channels)
  else if c.variant.flocks ≤ b then c
  else (((c.setFlag (LSW_BANK_over b) true).raiseEv lsgPage 4).setFault 5 0x3012 b).shed (c.bankChannels b)

/-- BANK_OVERLOAD (R286). -/
def execBankOverload (b : Nat) (s : State) : Answer := s.effect (bankOverload b)

/-! ### Diagnosis and routing -/

/-- The sense current has stayed below the threshold for the filter time (R284). -/
def openLoadOn (n : Nat) (c : Chip) : Chip :=
  let x := c.channel n
  if c.variant.channels ≤ n ∨ x.openRun < max 1 (x.ol / 256 % 256) * 8 then c
  else ((c.setFlag (LSW_STATUS_open_on n) true).raiseEv (lswPage n) 4).noteChannel n

/-- OPEN_LOAD_ON (R284). -/
def execOpenLoadOn (n : Nat) (s : State) : Answer := s.effect (openLoadOn n)

/-- LSW_CMD.diag starts the off-state diagnosis, or is refused (R285). -/
def offStateDiag (acc : Access) (n : Nat) (c : Chip) : Chip :=
  c.writeUnit .lsw n acc (LSW_CMD n).addr 4 fun c =>
    if c.rd LSW_GCTRL_mode = 1 ∨ c.flag (LSW_STATUS_diag_busy n) ∨ c.flag (LSW_STATUS_on n) ∨ c.flag (LSW_STATUS_demand n) then
      c.setFlag (LSW_STATUS_diag_refused n) true
    else
      (c.setFlag (LSW_STATUS_diag_busy n) true).setChannel n fun x => { x with diag := 1, high1 := true, high2 := true }

/-- OFF_STATE_DIAG (R285). -/
def execOffStateDiag (acc : Access) (n : Nat) (s : State) : Answer := s.effect (offStateDiag acc n)

/-- After its 16 Strides the diagnosis gives its result (R285). -/
def diagComplete (n : Nat) (c : Chip) : Chip :=
  let x := c.channel n
  if c.variant.channels ≤ n ∨ x.diag ≠ 17 then c
  else if x.high1 then ((c.setFlag (LSW_STATUS_stb n) true).endDiag n 3).noteChannel n
  else if x.high2 then ((c.setFlag (LSW_STATUS_open_off n) true).endDiag n 2).noteChannel n
  else (((c.setFlag (LSW_STATUS_open_off n) false).setFlag (LSW_STATUS_stb n) false).endDiag n 1).noteChannel n

/-- DIAG_COMPLETE (R285). -/
def execDiagComplete (n : Nat) (s : State) : Answer := s.effect (diagComplete n)

/-- LSW_GCTRL.mode: test or recovery only while no port has its permit (R285). -/
def globalModeWrite (acc : Access) (v : Nat) (c : Chip) : Chip :=
  c.write acc LSW_GCTRL.addr v fun c =>
    if 2 ≤ v % 4 ∧ (List.range c.variant.ports).any (fun p => c.flag (OPT_STATUS_permit p)) then
      c.setFlag LSW_GSTATUS_mode_refused true
    else c.put LSW_GCTRL_mode v

/-- GLOBAL_MODE_WRITE (R285). -/
def execGlobalModeWrite (acc : Access) (v : Nat) (s : State) : Answer := s.effect (globalModeWrite acc v)

/-- The channel routed into a sense slot from the next edge. -/
def Chip.slotOf (c : Chip) (k : Nat) : Option Nat := Sparse.get (fun _ => none) c.load.slots k

/-- A sense slot converts a channel from the next edge. -/
def Chip.setSlotOf (c : Chip) (k : Nat) (x : Option Nat) : Chip :=
  c.setLoad fun l => { l with slots := Sparse.set (fun _ => none) l.slots k x }

/-- A write of LSW_VSLOT routes a channel into a slot, the later of two writes winning; one that names slot 15 is ignored
(R283). -/
def vslotRoute (acc : Access) (n v : Nat) (c : Chip) : Chip :=
  c.writeUnit .lsw n acc (LSW_VSLOT n).addr v fun c =>
    if v % 16 = 15 then c
    else
      let old := c.rd (LSW_VSLOT_slot n)
      let c := if c.slotOf old = some n then c.setSlotOf old none else c
      let c := (c.put (LSW_VSLOT_slot n) v).setFlag (LSW_VSLOT_en n) (bit v 8)
      if bit v 8 then c.setSlotOf (v % 16) (some n) else c

/-- VSLOT_ROUTE (R283). -/
def execVslotRoute (acc : Access) (n v : Nat) (s : State) : Answer := s.effect (vslotRoute acc n v)

/-! ### Bridle mode -/

/-- The map byte in force for a channel (R290). -/
def Chip.mapEntry (c : Chip) (n : Nat) : Nat := c.rd (LSW_BMAP_ACT (n / 4)) / 256 ^ (n % 4) % 256

/-- The fitted channels of switch die d (R269). -/
def Chip.dieChannels (c : Chip) (d : Nat) : List Nat :=
  (List.range 32).filterMap fun i => if 32 * d + i < c.variant.channels then some (32 * d + i) else none

/-- The bit of LSW_BRIDLE_CAUSE of a die. -/
def bridleCause (d k : Nat) : Fld := LSW_BRIDLE_CAUSE.bitOf (8 * d + k)

/-- LSW_GSTATUS.bridle, its events, the fault of R298 and the override of the DRIVE_IN claims (R53) follow the dies' mode. -/
def Chip.showBridle (c : Chip) : Chip :=
  let b := c.load.bridle != 0
  let c := (c.setFlag LSW_GSTATUS_bridle b).setRaw lsgPage 7 b
  let c := c.faultIs 5 0x3000 0 b
  forN 16 (fun k c => (c.setFlag (FAB_CLAIM_override k) b).put (FAB_CLAIM_override_by k) b.toNat) c

/-- The die carries channels on this variant; one that carries none is taken as absent, with its causes, its link and its mode (R3, R297;
DESIGN CHOICE, log 120). -/
def Chip.dieFitted (c : Chip) (d : Nat) : Bool := !(c.dieChannels d).isEmpty

/-- A switch die enters bridle mode on a cause, which is latched (R287); each channel keeps its output for HOLD and follows its map
entry from there (R288); a running diagnosis ends (R294). -/
def Chip.enterBridle (c : Chip) (d cause : Nat) : Chip :=
  if ¬ c.dieFitted d then c
  else
    let c := c.setFlag (bridleCause d cause) true
    if bit c.load.bridle d then c
    else
      let c := (c.setLoad fun l => { l with bridle := putBit l.bridle d true }).raiseEv lsgPage 0
      let c := (c.dieChannels d).foldl (fun (c : Chip) n =>
        let on := c.flag (LSW_STATUS_on n)
        let e := c.mapEntry n
        let c := (c.setChannel n fun x => { x with held := on, entry := e }).setFlag (LSW_STATUS_bridle n) true
        let c := if c.flag (LSW_STATUS_diag_busy n) then c.endDiag n 0 else c
        c.settleChannel n) c
      c.showBridle

/-- Both switch dies enter bridle mode on a cause. -/
def Chip.bothBridle (c : Chip) (cause : Nat) : Chip := (c.enterBridle 0 cause).enterBridle 1 cause

/-- BRIDLE_REQ_N has been low for 200 µs: it is accepted and both dies enter bridle mode (R287). -/
def bridleRequest (c : Chip) : Chip :=
  let c := (c.setFlag LSW_GSTATUS_req true).setFlag LSW_BRIDLE_IN_req_low true
  (c.setLoad fun l => { l with reqHigh := 0 }).bothBridle 0

/-- BRIDLE_REQUEST (R287). -/
def execBridleRequest (s : State) : Answer := s.effect bridleRequest

/-- Both watchdogs are expired, which LSW_GSTATUS shows and the next frame reports to the dies (R287). -/
def Chip.watchdogsChanged (c : Chip) : Chip :=
  c.setFlag LSW_GSTATUS_wd_both (c.load.wdManagement && c.load.wdSafety)

/-- A filtered BRIDLE_IN pin changes; FOLLOW channels in bridle mode follow it (R288). -/
def bridleInEdge (k : Nat) (level : Bool) (c : Chip) : Chip :=
  if 8 ≤ k then c else (c.setFlag (LSW_BRIDLE_IN_in.bitOf k) level).settleLoad

/-- BRIDLE_IN_EDGE (R288). -/
def execBridleInEdge (k : Nat) (level : Bool) (s : State) : Answer := s.effect (bridleInEdge k level)

/-- A switch link has delivered no valid frame for two Strides: its die enters bridle mode, and the loss is a fault (R19, R43). -/
def switchLinkLoss (d : Nat) (c : Chip) : Chip :=
  if 2 ≤ d ∨ ¬ c.dieFitted d ∨ Sparse.get (fun _ => 0) c.load.linkBad d < 2 then c
  else ((c.raiseEv lsgPage 6).setFault 5 (0x3005 + d) 0).enterBridle d 3

/-- SWITCH_LINK_LOSS (R19). -/
def execSwitchLinkLoss (d : Nat) (s : State) : Answer := s.effect (switchLinkLoss d)

/-- The reason that refuses a take (R289). -/
def Chip.takeRefusal (c : Chip) : Option Nat :=
  if c.load.reqHigh < 80 then some 1
  else if c.load.wdManagement && c.load.wdSafety then some 2
  else if ¬ c.flag LSW_GSTATUS_link0_ok ∨ (c.dieFitted 1 ∧ ¬ c.flag LSW_GSTATUS_link1_ok) then some 3
  else if c.flag LSW_GSTATUS_map_fault then some 4
  else none

/-- A take is refused with a reason. -/
def Chip.refuseTake (c : Chip) (r : Nat) : Chip :=
  (((c.put LSW_TAKE_ST_state 2).put LSW_TAKE_ST_reason r).setLoad fun l => { l with take := false }).raiseEv lsgPage 2

/-- A write of LSW_TAKE.take (R289). -/
def take (acc : Access) (v : Nat) (c : Chip) : Chip :=
  c.write acc LSW_TAKE.addr v fun c =>
    if v % 2 = 0 ∨ c.load.bridle = 0 then c
    else match c.takeRefusal with
      | some r => c.refuseTake r
      | none => c.setLoad fun l => { l with take := true }

/-- TAKE (R289). -/
def execTake (acc : Access) (v : Nat) (s : State) : Answer := s.effect (take acc v)

/-- The die takes a channel's configuration from the frame (R274): a lower budget lowers the bucket (R278). -/
def Chip.frameCopy (c : Chip) (n : Nat) : Chip :=
  let pin := c.rd (LSW_CTRL_pin n)
  let claimed := c.holds (c.rd (ownerFld (lswPage n))) pin
  let c := c.setChannel n fun x =>
    { x with
      ctrl := c.rd (LSW_CTRL n), drive := c.rd (LSW_DRIVE n), lim := c.rd (LSW_LIM n), retry := c.rd (LSW_RETRY n),
      clamp := c.rd (LSW_CLAMP n), ol := c.rd (LSW_OL n), cfg := c.rd (LSW_CFG n), pinClaimed := claimed }
  c.put (LSW_BUCKET_level n) (min (c.rd (LSW_BUCKET_level n)) (c.channel n).budget)

/-- A scheduled take at the next edge (R289): refused there, or both dies leave bridle mode together with the page store's
contents, and LSW_TAKE_DIFF records the outputs that changed. -/
def takeApply (c : Chip) : Chip :=
  if ¬ c.load.take then c
  else match c.takeRefusal with
    | some r => c.refuseTake r
    | none =>
      let lo := c.rd LSW_BSTATE_LO_on
      let hi := c.rd LSW_BSTATE_HI_on
      let c := c.setLoad fun l => { l with take := false, bridle := 0 }
      let c := forN c.variant.channels (fun n c =>
        ((c.setFlag (LSW_STATUS_bridle n) false).frameCopy n).settleChannel n) c
      let c := (c.put LSW_TAKE_DIFF_LO_diff (c.rd LSW_BSTATE_LO_on ^^^ lo)).put LSW_TAKE_DIFF_HI_diff
        (c.rd LSW_BSTATE_HI_on ^^^ hi)
      let c := ((c.put LSW_BRIDLE_CAUSE 0).put LSW_TAKE_ST_state 1).put LSW_TAKE_ST_reason 0
      (c.raiseEv lsgPage 1).showBridle

/-- TAKE_APPLY (R289). -/
def execTakeApply (s : State) : Answer := s.effect takeApply

/-! ### The bridle map -/

/-- The bytes of 16 map words, in channel order. -/
def Chip.mapBytes (c : Chip) (f : Nat → Fld) : List Nat := (List.range 16).flatMap fun k => leBytes 4 (c.rd (f k))

/-- Every port's contactor channels have coil = 1 in the map in force, or coil_map_fault sets (R292). -/
def Chip.checkCoilMap (c : Chip) : Chip :=
  let missing (v : Bool) (n : Nat) : Bool := v && n < c.variant.channels && !bit (c.mapEntry n) 5
  let bad := (List.range c.variant.ports).any fun p =>
    missing (c.flag (OPT_CFG_cont0_v p)) (c.rd (OPT_CFG_cont_ch0 p)) ||
      missing (c.flag (OPT_CFG_cont1_v p)) (c.rd (OPT_CFG_cont_ch1 p))
  (c.setFlag LSW_GSTATUS_coil_map_fault bad).faultIs 5 0x3004 0 bad

/-- A commit of the bridle map is refused with an error (R291). -/
def Chip.refuseCommit (c : Chip) (e : Nat) : Chip :=
  ((c.put LSW_BMAP_ST_state 3).put LSW_BMAP_ST_error e).raiseEv lsgPage 3

/-- A write of LSW_BMAP_CMD.commit: ignored while a commit is writing, refused under R291, otherwise started. -/
def bridleMapCommit (acc : Access) (v : Nat) (c : Chip) : Chip :=
  c.write acc LSW_BMAP_CMD.addr v fun c =>
    if v % 2 = 0 ∨ c.rd LSW_BMAP_ST_state = 1 then c
    else
      let bytes := (c.mapBytes LSW_BMAP_STG_entries).mapIdx fun n b => if n < c.variant.channels then b else 0
      if ¬ c.sealOpen 2 then c.refuseCommit 4
      else if c.load.bridle ≠ 0 ∧ ¬ c.flag LSW_GSTATUS_map_fault then c.refuseCommit 1
      else if bytes.any (fun b => b % 4 == 3) then c.refuseCommit 2
      else if bytes.any (fun b => bit b 5 && b % 4 != 0) then c.refuseCommit 3
      else ((c.put LSW_BMAP_ST_state 1).put LSW_BMAP_ST_error 0).setLoad fun l => { l with commit := some bytes }

/-- BRIDLE_MAP_COMMIT (R291). -/
def execBridleMapCommit (acc : Access) (v : Nat) (s : State) : Answer := s.effect (bridleMapCommit acc v)

/-- Both dies have stored and read back their halves, with the outcome of each (R291). -/
def bridleMapCommitDone (ok0 ok1 : Bool) (c : Chip) : Chip :=
  match c.load.commit with
  | none => c
  | some bytes =>
    let ok (d : Nat) : Bool := if d = 0 then ok0 else ok1
    let c := forN 16 (fun k c =>
      if ok (k / 8) then c.put (LSW_BMAP_ACT_entries k) (ofLe ((bytes.drop (4 * k)).take 4)) else c) c
    let c := c.setLoad fun l =>
      { l with
        commit := none
        mapFault := putBit (putBit l.mapFault 0 (bit l.mapFault 0 && !ok0)) 1 (bit l.mapFault 1 && !ok1) }
    let c := (c.incSat LSW_BMAP_WR_count).put LSW_BMAP_CRC_crc (crc32 (c.mapBytes LSW_BMAP_ACT_entries))
    let c := if ok0 && ok1 then
        ((((c.put LSW_BMAP_ST_state 2).put LSW_BMAP_ST_error 0).setFlag LSW_GSTATUS_map_fault false).clearFault 5 0x3003 0).raiseEv
          lsgPage 3
      else c.refuseCommit 5
    c.checkCoilMap

/-- BRIDLE_MAP_COMMIT_DONE (R291). -/
def execBridleMapCommitDone (ok0 ok1 : Bool) (s : State) : Answer := s.effect (bridleMapCommitDone ok0 ok1)

/-- Switch die d powers up (R293, R297): its outputs are off, a half that fails its check becomes all OFF with map_fault, its
buckets are full and its restarts loaded, and it is in bridle mode with cause bit 2. -/
def switchDiePowerUp (d : Nat) (mapOk : Bool) (c : Chip) : Chip :=
  if 2 ≤ d ∨ ¬ c.dieFitted d then c
  else
    let c := c.setLoad fun l => { l with bridle := putBit l.bridle d false }
    let c := (c.dieChannels d).foldl (fun (c : Chip) n =>
      let c := (c.setChannel n fun _ => {}).setOutput n false
      let c := c.put (LSW_STATUS n) 0
      let c := c.put (LSW_STATUS_remaining n) ((c.channel n).retry % 16)
      c.put (LSW_BUCKET_level n) (c.channel n).budget) c
    let c := if mapOk then c
      else
        let c := forN 8 (fun k c => c.put (LSW_BMAP_ACT_entries (8 * d + k)) 0) c
        ((c.setFlag LSW_GSTATUS_map_fault true).setFault 5 0x3003 0).setLoad fun l => { l with mapFault := putBit l.mapFault d true }
    let c := { c with faults := c.faults.filter (fun f : ActiveFault => f.code / 32 != 0x188) ++ c.loadFaults }
    c.enterBridle d 2

/-- SWITCH_DIE_POWER_UP (R293). -/
def execSwitchDiePowerUp (d : Nat) (mapOk : Bool) (s : State) : Answer := s.effect (switchDiePowerUp d mapOk)

/-! ### What every Stride edge does -/

/-- The clamp energies of a Stride, then the refill (R278). -/
def Chip.bucketStep (c : Chip) (n : Nat) (events : List Nat) : Chip :=
  let c := events.foldl (fun (c : Chip) e =>
    let level := c.rd (LSW_BUCKET_level n)
    let c := c.put (LSW_LAST_E_e n) (satN 24 e)
    let c := if 20000 < e then c.setFlag (LSW_STATUS_e_over n) true else c
    let c := c.put (LSW_BUCKET_level n) (level - 8 * e)
    let empties := decide (level ≤ 8 * e) && e != 0 && !c.flag (LSW_STATUS_clamp_lock n)
    if empties then
      ((c.setFlag (LSW_STATUS_clamp_lock n) true).raiseEv (lswPage n) 2).noteChannel n
    else c) c
  let x := c.channel n
  c.put (LSW_BUCKET_level n) (min x.budget (c.rd (LSW_BUCKET_level n) + x.refill))

/-- The sense code of a channel (R281). -/
def Chip.senseCode (c : Chip) (n code : Nat) : Nat := if c.channelFault n then 0xFFF else min 0xFFE code

/-- The counters of a channel over the Stride that ends, with its sense current in 2 mA units and its output voltage (R275, R279, R280,
R284, R285). -/
def Chip.channelTimers (c : Chip) (n amps volts : Nat) : Chip :=
  let x := c.channel n
  let thr := clampN 5 200 (x.ol % 256)
  let low := amps * 2 < thr
  let c := if x.onThroughout && !low && c.flag (LSW_STATUS_open_on n) then
      (c.setFlag (LSW_STATUS_open_on n) false).noteChannel n
    else c
  let c := if x.sourceSeen then c else c.setFlag (LSW_STATUS_interlock n) false
  let dirty := x.tripped || c.flag (LSW_STATUS_therm n) || c.flag (LSW_STATUS_clamp_lock n)
  c.setChannel n fun x =>
    { x with
      openRun := if x.onThroughout then (if low then min 2040 (x.openRun + 1) else 0) else x.openRun
      onThroughout := c.flag (LSW_STATUS_on n)
      sourceSeen := false
      waitLeft := if c.flag (LSW_STATUS_oc_wait n) && !c.flag (LSW_STATUS_therm n) then x.waitLeft - 1 else x.waitLeft
      tripped := false
      current := min 0xFFE amps
      clean := if dirty then 0 else min 8000 (x.clean + 1)
      high1 := if 1 ≤ x.diag ∧ x.diag ≤ 8 then x.high1 && decide (200 < volts) else x.high1
      high2 := if 9 ≤ x.diag ∧ x.diag ≤ 16 then x.high2 && decide (200 < volts) else x.high2
      diag := if x.diag = 0 then 0 else min 17 (x.diag + 1) }

/-- One channel at a Stride edge, with what its pins gave in the Stride; a controller die held in reset shows nothing of it. -/
def Chip.channelEdge (c : Chip) (inp : StrideInputs) (n : Nat) : Chip :=
  let m := (inputOf inp.channel n).getD (0, 0)
  let c := if c.boot.held then c else c.put (LSW_SENSE_code n) (c.senseCode n m.1)
  let c := c.bucketStep n ((inputOf inp.clamp n).getD [])
  let c := c.channelTimers n m.1 m.2
  let link := if n < 32 then LSW_GSTATUS_link0_ok else LSW_GSTATUS_link1_ok
  let c := if c.flag link && !c.inBridle n && !c.boot.held then c.frameCopy n else c
  c.settleChannel n

/-- The run of Strides for which current k has been above its limit, up to 100 ms. -/
def Chip.overRun (c : Chip) (k i lim : Nat) : Chip :=
  let r := Sparse.get (fun _ => 0) c.load.overRun k
  c.setLoad fun l => { l with overRun := Sparse.set (fun _ => 0) l.overRun k (if lim < i then min 800 (r + 1) else 0) }

/-- The currents of the banks and of the module, and their time above the limits (R286). -/
def Chip.bankEdge (c : Chip) (inp : StrideInputs) : Chip :=
  let code (n : Nat) : Nat := if c.channelFault n then 0 else (c.channel n).current
  let sum (b : Nat) : Nat := ((c.bankChannels b).map code).foldl (· + ·) 0
  let bankLim := min 100 (c.load.limits.extractLsb' 0 7).toNat * 50
  let modLim := min 400 (c.load.limits.extractLsb' 16 9).toNat * 50
  let c := forN c.variant.flocks (fun b c =>
    let i := sum b
    let c := if c.boot.held then c
      else (c.put (LSW_BANK_i b) (satN 16 i)).put (LSW_BANK_V_mv b) (satN 16 ((inputOf inp.bank b).getD 0))
    let c := c.overRun b i bankLim
    if bankLim < i then (if c.flag (LSW_BANK_over b) then c.shed (c.bankChannels b) else c)
    else (c.setFlag (LSW_BANK_over b) false).clearFault 5 0x3012 b) c
  let i := (List.range c.variant.flocks).foldl (fun x b => x + sum b) 0
  let c := (if c.boot.held then c else c.put LSW_MOD_I_i (satN 16 i)).overRun 8 i modLim
  if modLim < i then (if c.flag LSW_GSTATUS_module_over then c.shed (List.range c.variant.channels) else c)
  else (c.setFlag LSW_GSTATUS_module_over false).clearFault 5 0x3007 0

/-- The sense slots publish what they converted, and take the routing of the next Stride (R283); slot 15 follows SAF_WELD. -/
def Chip.slotEdge (c : Chip) (inp : StrideInputs) : Chip :=
  let c := c.setSlotOf 15 (if c.flag SAF_WELD_en then some (c.rd SAF_WELD_ch) else none)
  let c := forN 16 (fun k c =>
    match Sparse.get (fun _ => none) c.load.converting k with
    | none => c.setFlag (LSW_VSLOT_RES_valid k) false
    | some n =>
      ((c.put (LSW_VSLOT_RES_v k) (min 4095 ((inputOf inp.channel n).getD (0, 0)).2)).put (LSW_VSLOT_RES_ch k) n).setFlag
        (LSW_VSLOT_RES_valid k) true) c
  let c := forN c.variant.channels (fun n c =>
    if c.flag (LSW_VSLOT_en n) && c.slotOf (c.rd (LSW_VSLOT_slot n)) != some n then c.setFlag (LSW_VSLOT_en n) false else c) c
  c.setLoad fun l => { l with converting := l.slots }

/-- The link to switch die d at an edge: whether its frame of the Stride was bad, and the run of bad frames; a valid frame that reports both
watchdogs expired makes the die enter bridle mode (R287). -/
def Chip.linkEdge (c : Chip) (inp : StrideInputs) (d : Nat) (f : Fld) : Chip :=
  if ¬ c.dieFitted d then c else
  let bad := bit inp.badFrames d
  let r := Sparse.get (fun _ => 0) c.load.linkBad d
  let c := c.setLoad fun l => { l with linkBad := Sparse.set (fun _ => 0) l.linkBad d (if bad then min 2 (r + 1) else 0) }
  let c := c.setFlag f (!bad)
  if bad then c
  else
    let c := c.clearFault 5 (0x3005 + d) 0
    if c.load.wdManagement && c.load.wdSafety then c.enterBridle d 1 else c

/-- What the switch dies do in a Stride whether or not the controller die runs (R288): the pin BRIDLE_REQ_N, channels and banks. -/
def Chip.switchesEdge (c : Chip) (inp : StrideInputs) : Chip :=
  let c := c.setLoad fun l => { l with reqHigh := if inp.bridleReqLow then 0 else min 80 (l.reqHigh + 1) }
  (forN c.variant.channels (fun n c => c.channelEdge inp n) c).bankEdge inp

/-- The dies take LSW_LIMITS from a valid frame while none is in bridle mode (R274, R288). -/
def Chip.limitsCopy (c : Chip) : Chip :=
  if c.flag LSW_GSTATUS_link0_ok ∧ c.load.bridle = 0 then c.setLoad fun l => { l with limits := c.word LSW_LIMITS.addr } else c

/-- The switch links, pins, channels, banks and slots at a Stride edge (R19, R273, R274). -/
def Chip.loadEdge (c : Chip) (inp : StrideInputs) : Chip :=
  let c := (c.linkEdge inp 0 LSW_GSTATUS_link0_ok).linkEdge inp 1 LSW_GSTATUS_link1_ok
  let c := (c.put LSW_DRIVE_IN_pins c.load.pins).setFlag LSW_BRIDLE_IN_req_low inp.bridleReqLow
  let c := if inp.bridleReqLow then c else c.setFlag LSW_GSTATUS_req false
  (c.limitsCopy.switchesEdge inp).slotEdge inp

end Sys2Proof.Machine
end

