-- ==== Sys2Proof/Machine/FrontEnd.lean ====
section
/-! DEFINITION. The sampling front end: decimation, settling, the current-path selector, the path-ratio regression and the counts of
the health checks (R84–R116). -/

namespace Sys2Proof.Machine

/-- The base of the global SFE page, and of an element's. -/
def sfgPage : Nat := 0x40100000
def sfePage (n : Nat) : Nat := 0x40140000 + n * 0x1000

/-- The block with an element changed. -/
def Chip.modElem (c : Chip) (n : Nat) (f : Element → Element) : Chip := c.setElem n (f (c.elem n))

/-- Path k of an element: 0 voltage, 1 high-gain current, 2 low-gain current. -/
def Element.path (e : Element) (k : Nat) : PathState := if k = 0 then e.v else if k = 1 then e.ih else e.il

/-- The element with path k replaced. -/
def Element.setPath (e : Element) (k : Nat) (p : PathState) : Element :=
  if k = 0 then { e with v := p } else if k = 1 then { e with ih := p } else { e with il := p }

/-! ### Decimation (R88–R90) -/

/-- Binomial coefficient k over 2. -/
def choose2 (k : Nat) : Int := k * (k - 1 : Nat) / 2

/-- Tap j of the sinc³ filter of decimation 125, in modulator cycles: 373 taps. -/
def sincTap (j : Nat) : Int :=
  choose2 (j + 2) - (if 125 ≤ j then 3 * choose2 (j - 123) else 0) + (if 250 ≤ j then 3 * choose2 (j - 248) else 0)

/-- The modulator bit k of the present Stride as ±1, negative k lying in the Stride before (R90). -/
def bitValue (prev cur : BitVec 1250) (k : Int) : Int :=
  let b := if 0 ≤ k then cur.getLsbD k.toNat else prev.getLsbD (1250 + k).toNat
  if b then 1 else -1

/-- The sinc³ output after cycle 125 (m + 1) of the Stride. -/
def sincOut (prev cur : BitVec 1250) (m : Nat) : Int :=
  (List.range 373).foldl (fun x j => x + sincTap j * bitValue prev cur (125 * (m + 1) - 1 - j : Int)) 0

/-- The power of two that the FIR output is rounded by. -/
def firScale : Nat := 20 + Config.firShift

/-- The taps of the FIR, symmetric about tap 160 (R88). Their sum gives the chain the gain 1 at 0 Hz within one LSB (R89): a constant
density d settles at (2d − 1) · 2^23, with 125³ the gain of the sinc³ stage (R90). -/
def firCoefficient (k : Nat) : Int :=
  if k = 160 then
    rheDiv (2 ^ (23 + firScale)) (125 ^ 3) - 2 * (List.range 160).foldl (fun (x : Int) j => x + Config.firTap j) 0
  else Config.firTap (min k (320 - k))

/-- The FIR over sinc³ outputs, newest first. -/
def firOut (sinc : List Int) : Int := (sinc.zipIdx).foldl (fun x s => x + firCoefficient s.2 * s.1) 0

/-- The path takes the bits of a Stride: ten sinc³ outputs, and the sample of the FIR rounded once and clamped (R88–R90). -/
def PathState.decimate (p : PathState) (cur : BitVec 1250) : PathState :=
  let outs := (List.range 10).foldl (fun l m => sincOut p.bits cur m :: l) p.sinc
  let sinc := outs.take 321
  let raw := rhe (firOut sinc) firScale
  { p with bits := cur, sinc := sinc, sample := sat24 raw, clip := clips24 raw }

/-! ### Health checks on a Stride's bits (R106) -/

/-- Ones of a Stride. -/
def countOnes (b : BitVec 1250) : Nat := (List.range 1250).foldl (fun x k => if b.getLsbD k then x + 1 else x) 0

/-- Transitions within a Stride. -/
def transitions (b : BitVec 1250) : Nat :=
  (List.range 1249).foldl (fun x k => if b.getLsbD k != b.getLsbD (k + 1) then x + 1 else x) 0

/-- The Stride repeats with period p throughout. -/
def hasPeriod (b : BitVec 1250) (p : Nat) : Bool := (List.range (1250 - p)).all fun k => b.getLsbD k == b.getLsbD (k + p)

/-- A run of Strides takes an outcome. -/
def Run.step (r : Run) (failed : Bool) : Run :=
  if failed then { fail := min 64 (r.fail + 1), pass := 0 } else { fail := 0, pass := min 64 (r.pass + 1) }

/-- The four checks of a path count a Stride (R106). -/
def PathState.check (p : PathState) (minAct lo hi : Nat) : PathState :=
  let ones := countOnes p.bits
  let quiet := decide (transitions p.bits < minAct)
  { p with
    stuck0 := p.stuck0.step (quiet && decide (ones < 625))
    stuck1 := p.stuck1.step (quiet && decide (625 ≤ ones))
    density := p.density.step (decide (ones < lo) || decide (hi < ones))
    pattern := p.pattern.step (hasPeriod p.bits 2 || hasPeriod p.bits 3 || hasPeriod p.bits 4) }

/-- The Strides that set the fault of check b: stuck0, stuck1, density, pattern (R106). -/
def checkLimit (b : Nat) : Nat := if b = 2 then 8 else 2

/-- The run of check b of a path. -/
def PathState.run (p : PathState) (b : Nat) : Run :=
  if b = 0 then p.stuck0 else if b = 1 then p.stuck1 else if b = 2 then p.density else p.pattern

/-! ### Paths -/

/-- The enable of path k of element n. -/
def pathEnable (n k : Nat) : Fld :=
  if k = 0 then SFE_PATH_CFG_v_en n else if k = 1 then SFE_PATH_CFG_ih_en n else SFE_PATH_CFG_il_en n

/-- Path k of element n is enabled. -/
def Chip.pathOn (c : Chip) (n k : Nat) : Bool := c.flag (SFE_ECTRL_en n) && c.flag (pathEnable n k)

/-- The group of element n has its modulator clock (R87, R115). -/
def Chip.clocked (c : Chip) (n : Nat) : Bool := c.flag (SFE_STATUS_mclk_run.bitOf (n / 8))

/-- Path k of element n has a fault of R106. -/
def Chip.pathFault (c : Chip) (n k : Nat) : Bool :=
  c.rd (SFE_HEALTH n) / 16 ^ k % 16 != 0 || c.flag (SFE_HEALTH_mclk_off n)

/-- Path k of element n is usable: enabled, without a fault, clocked and not settling (R94). -/
def Chip.pathUsable (c : Chip) (n k : Nat) : Bool :=
  c.pathOn n k && !c.pathFault n k && c.clocked n && !((c.elem n).path k).settling

/-- Path k of element n begins to settle (R93). -/
def Chip.settlePath (c : Chip) (n k : Nat) : Chip :=
  c.modElem n fun e => e.setPath k { e.path k with settling := true, afterFault := false, settled := 0 }

/-- SFE_ESTATUS.settling and SFE_STATUS.any_settling follow the paths. -/
def Chip.showSettling (c : Chip) (n : Nat) : Chip :=
  let s (n : Nat) : Bool := let e := c.elem n; e.v.settling || e.ih.settling || e.il.settling
  let c := c.setFlag (SFE_ESTATUS_settling n) (s n)
  c.setFlag SFE_STATUS_any_settling ((List.range c.variant.elements).any s)

/-- Every enabled path of element n begins to settle. -/
def Chip.settleElement (c : Chip) (n : Nat) : Chip :=
  (forN 3 (fun k c => if c.pathOn n k then c.settlePath n k else c) c).showSettling n

/-- A path has settled for 33 Strides: its samples count from the next Stride (R93). -/
def settlingEnd (n k : Nat) (c : Chip) : Chip :=
  let p := (c.elem n).path k
  if 3 ≤ k ∨ ¬ p.settling ∨ p.settled < 33 then c
  else (c.modElem n fun e => e.setPath k { e.path k with settling := false, settled := 0 }).showSettling n

/-- SETTLING_END (R93). -/
def execSettlingEnd (n k : Nat) (s : State) : Answer := s.effect (settlingEnd n k)

/-! ### The selector and the combined sample (R94–R96) -/

/-- K of an applied ratio (R96). -/
def reciprocal (q : Nat) : Nat :=
  if q = 0 then 2 ^ 33 - 1 else min (2 ^ 33 - 1) (rheDiv (2 ^ 60 : Nat) q).toNat

/-- The combined sample from H, before its clamp (R95). -/
def combineHigh (h b : Int) (k : Nat) : Int := rhe ((h * 256 - b) * k) 44

/-- The selector's outcome: the path used (high), the state low, the counter (R94). -/
def selectPath (low : Bool) (count : Nat) (ihOk ilOk : Bool) (h : Int) : Bool × Bool × Nat :=
  if ¬ ihOk then (false, true, 0)
  else if ¬ ilOk then (true, low, count)
  else if ¬ low then (if 7340032 < h.natAbs then (false, true, 0) else (true, false, count))
  else if h.natAbs < 6291456 then (false, true, min 16 (count + 1))
  else (false, true, 0)

/-- The selector has counted 16 samples below 3/4 of full scale: its state becomes high (R94). -/
def selectorSwitchHigh (n : Nat) (c : Chip) : Chip :=
  let e := c.elem n
  if e.low ∧ 16 ≤ e.count then
    (c.setElem n { e with low := false, count := 0 }).setFlag (SFE_ESTATUS_on_low n) false
  else c

/-- SELECTOR_SWITCH_HIGH (R94). -/
def execSelectorSwitchHigh (n : Nat) (s : State) : Answer := s.effect (selectorSwitchHigh n)

/-- The applied ratio and offset of element n take values at an edge, with their K (R96). -/
def Chip.applyRatio (c : Chip) (n ratio : Nat) (offs : Int) : Chip :=
  let c := (c.put (SFE_RATIO_APPLIED_ratio n) ratio).putS (SFE_OFFS_APPLIED_offs n) offs
  c.modElem n fun e => { e with k := reciprocal ratio }

/-- A calibration bank switch of element n applies at the edge of Stride s. -/
def Chip.switchDue (c : Chip) (n s : Nat) : Bool :=
  !c.flag LDG_STATUS_committed && (List.range 4).any fun p =>
    (c.slot p).target == some s && (c.slot p).frozen.contains (0x40180000 + n * 0x1000)

/-- An accepted regression result whose Stride begins at the next edge is applied (R100), or discarded where a bank switch of the element
applies at that edge (R142). -/
def ratioApply (n : Nat) (c : Chip) : Chip :=
  match (c.elem n).pending with
  | none => c
  | some r =>
    if c.nextStride < r.due then c
    else if c.switchDue n c.nextStride then c.modElem n fun e => { e with pending := none }
    else
      let c := (c.modElem n fun e => { e with pending := none }).applyRatio n r.ratio r.offs
      (c.put64 (SFE_REG_STRIDE_LO_stride n) (SFE_REG_STRIDE_HI_stride n) c.nextStride).raiseEv (sfePage n) 4

/-- RATIO_APPLY (R100). -/
def execRatioApply (n : Nat) (s : State) : Answer := s.effect (ratioApply n)

/-! ### The regression (R97–R102, R109) -/

/-- A sample qualifies for the window and for the cross-path check (R97). -/
def Chip.qualifies (c : Chip) (n : Nat) (h l : Int) : Bool :=
  c.pathUsable n 1 && c.pathUsable n 2 && decide (h.natAbs < 6291456) && decide (l.natAbs < 6291456) &&
    c.flag (SFE_PATH_CFG_reg_en n)

/-- The sums take a sample (R97). -/
def RegressionSums.add (r : RegressionSums) (h l : Int) : RegressionSums :=
  { r with n := r.n + 1, sl := r.sl + l, sh := r.sh + h, sll := r.sll + l * l, slh := r.slh + l * h }

/-- An estimate of R98: a quotient rounded half to even, a free value of the numerator where the divisor is 0. -/
def estimate (num den : Int) : Int := if den = 0 then Config.byZero num else rheDiv num den

/-- The ratio estimate of R98. -/
def RegressionSums.ratio (r : RegressionSums) : Int :=
  estimate ((r.n * r.slh - r.sl * r.sh) * 2 ^ 24) (r.n * r.sll - r.sl * r.sl)

/-- The offset estimate of R98 for a ratio. -/
def RegressionSums.offset (r : RegressionSums) (ratio : Int) : Int :=
  estimate (r.sh * 2 ^ 24 - ratio * r.sl) (r.n * 2 ^ 16)

/-- The decision of a window (R99). -/
inductive WindowRow where
  | count | spread | limit
  | accept (limited : Bool) (ratio : Nat) (offs : Int)
  deriving DecidableEq, Repr

/-- The row of R99 for the sums, the estimates, the applied ratio and the configuration. -/
def windowRow (r : RegressionSums) (est offs : Int) (applied minCount spread lo hi maxStep : Nat) : WindowRow :=
  let den := r.n * r.sll - r.sl * r.sl
  if r.n < minCount then .count
  else if den < (r.n : Int) * r.n * ((2 ^ (2 * spread) : Nat) : Int) then .spread
  else if est < lo * 2 ^ 16 ∨ (hi * 2 ^ 16 : Int) < est then .limit
  else if (applied * maxStep : Nat) < (est - applied).natAbs * 1000000 then
    let d := applied * maxStep / 1000000
    let q : Nat := if (applied : Int) < est then applied + d else applied - d
    .accept true q (r.offset q)
  else .accept false est.toNat offs

/-- The reversal check of a window (R109). -/
def Chip.reversalCheck (c : Chip) (n : Nat) (r : RegressionSums) : Chip :=
  if c.flag (SFE_ASSIGN_import_only n) then
    let failed := decide (r.p < -((r.strides * c.rd SFE_REV_CFG_thr * 2 ^ 30 : Nat) : Int))
    c.modElem n fun e => { e with reversed := e.reversed.step failed }
  else c

/-- The statuses ratio_stale, overrange and ratio_limit of an element, which it reports at its own level and which roll up from there
(R7, R99, R103, R107). The spec gives them no code: 0x1123, 0x1124 and 0x1126 by the pattern of R502 (DESIGN CHOICE, log 36). -/
def Chip.showStale (c : Chip) (n : Nat) (on : Bool) : Chip :=
  (c.setFlag (SFE_ESTATUS_ratio_stale n) on).faultIs 2 0x1123 n on
def Chip.showOverrange (c : Chip) (n : Nat) (on : Bool) : Chip :=
  (c.setFlag (SFE_ESTATUS_overrange n) on).faultIs 2 0x1124 n on
def Chip.showRatioLimit (c : Chip) (n : Nat) (on : Bool) : Chip :=
  (c.setFlag (SFE_ESTATUS_ratio_limit n) on).faultIs 2 0x1126 n on

/-- The window of an element without an accepted result counts for ratio_stale (R102). -/
def Chip.windowStale (c : Chip) (n : Nat) : Chip :=
  let c := c.modElem n fun e => { e with stale := min 60 (e.stale + 1) }
  if (c.elem n).stale = 60 ∧ ¬ c.flag (SFE_ESTATUS_ratio_stale n) then (c.showStale n true).raiseEv (sfePage n) 6 else c

/-- A window is rejected with a reason. -/
def Chip.rejectWindow (c : Chip) (n reason : Nat) : Chip :=
  let c := ((c.setFlag (SFE_REG_ST_accepted n) false).setFlag (SFE_REG_ST_step_limited n) false).put (SFE_REG_ST_reject n) reason
  ((c.showRatioLimit n (reason == 3)).raiseEv (sfePage n) 5).windowStale n

/-- The end of the regression window of an element that has one open (R98, R99). Where no sample qualified or L did not vary the
spec states no estimate: a free value of the sums. An estimate that SFE_RATIO_EST or SFE_OFFS_EST cannot hold is stored modulo 2^32, and
a window discarded under R101 does not count for R102 (DESIGN CHOICE, log 104). -/
def Chip.windowEnd (c : Chip) (n : Nat) : Chip :=
  match (c.elem n).window with
  | none => c
  | some r =>
    let est := r.ratio
    let offs := r.offset est
    let c := (c.putS (SFE_RATIO_EST_ratio n) est).putS (SFE_OFFS_EST_offs n) offs
    let c := (c.put (SFE_REG_ST_n n) r.n).reversalCheck n r
    let c := c.modElem n fun e => { e with window := some {} }
    match windowRow r est offs (c.rd (SFE_RATIO_APPLIED_ratio n)) (c.rd SFE_REG_CFG_min_count) (c.rd SFE_REG_CFG_spread)
        (c.rd SFE_RATIO_LIM_lo) (c.rd SFE_RATIO_LIM_hi) (c.rd SFE_REG_CFG_max_step) with
    | .count => c.rejectWindow n 1
    | .spread => c.rejectWindow n 2
    | .limit => c.rejectWindow n 3
    | .accept limited ratio offs =>
      let c := (c.setFlag (SFE_REG_ST_accepted n) true).setFlag (SFE_REG_ST_step_limited n) limited
      let c := ((c.put (SFE_REG_ST_reject n) 0).showRatioLimit n false).showStale n false
      c.modElem n fun e => { e with stale := 0, pending := some ⟨ratio, offs, c.stride + 3⟩ }

/-- The regression windows that end with this Stride, the last of its 8000, are decided (R99). -/
def regressionWindowEnd (c : Chip) : Chip :=
  if c.stride % 8000 ≠ 7999 ∨ c.fold.regressed then c
  else
    let c := forN c.variant.elements (fun n c => if c.flag (SFE_ECTRL_en n) then c.windowEnd n else c) c
    { c with fold := { c.fold with regressed := true } }

/-- REGRESSION_WINDOW_END (R99). -/
def execRegressionWindowEnd (s : State) : Answer := s.effect regressionWindowEnd

/-! ### What every Stride edge does -/

/-- A settling path has settled one Stride more (R93). -/
def PathState.settle (p : PathState) : PathState := { p with settled := if p.settling then min 33 (p.settled + 1) else 0 }

/-- The paths of element n take the bits of the Stride that ends: decimation and the counts of the checks. Settling lasts its Strides
on a path that is disabled or stopped meanwhile; the run counters of such a path stand, and so do its faults, which its checks no longer
count for (DESIGN CHOICE, log 104). -/
def Chip.pathsEdge (c : Chip) (inp : StrideInputs) (n : Nat) : Chip :=
  forN 3 (fun k c =>
    if ¬ c.pathOn n k ∨ ¬ c.clocked n then
      (if ((c.elem n).path k).settling then c.modElem n fun e => e.setPath k (e.path k).settle else c)
    else c.modElem n fun e =>
      let p := (e.path k).decimate ((inputOf inp.bits (3 * n + k)).getD 0)
      e.setPath k (p.check (c.rd SFE_ACT_MIN_min) (c.rd SFE_DEN_LIM_lo) (c.rd SFE_DEN_LIM_hi)).settle) c

/-- The sample that path k of element n delivers: 0 while it is not usable (R93, R107). What a path that is only disabled delivers the
spec does not say: 0 as well, and that 0 is no forced zero of R131 (DESIGN CHOICE, log 104). -/
def Chip.delivered (c : Chip) (n k : Nat) : Int := if c.pathUsable n k then ((c.elem n).path k).sample else 0

/-- The cross-path check counts a qualifying sample (R108). -/
def Chip.crossCheck (c : Chip) (n : Nat) (h l : Int) : Chip :=
  let e := trunc0 (h * 2 ^ 24 - c.rd (SFE_RATIO_APPLIED_ratio n) * l - c.rdS (SFE_OFFS_APPLIED_offs n) * 2 ^ 16) 24
  c.modElem n fun x => { x with xpath := x.xpath.step (decide (c.rd SFE_XPATH_thr < e.natAbs)) }

/-- Path k of element n delivers a zero that R93 or R107 forces: it is enabled and not usable (R131). -/
def Chip.forcedZero (c : Chip) (n k : Nat) : Bool := c.pathOn n k && !c.pathUsable n k

/-- Element n at a Stride edge: its samples, the selector with its counters, the combined current, the regression sums and the
cross-path check (R94–R97, R107, R108). il_unusable and ih_unusable are reported as faults of the element with codes by the pattern of
R502 (log 104). A path that clips under R90 while it is faulted or settles, so that it delivers 0, does not set overrange: R107 says
'samples continue, clamped', and these do not (DESIGN CHOICE, log 104). -/
def Chip.elementSamples (c : Chip) (n : Nat) : Chip :=
  let e := c.elem n
  let vFault := c.pathFault n 0
  let forcedV := c.forcedZero n 0
  let ihOk := c.pathUsable n 1
  let ilOk := c.pathUsable n 2
  let h := c.delivered n 1
  let l := c.delivered n 2
  let (high, low, count) := selectPath e.low e.count ihOk ilOk h
  let raw := if high then combineHigh h (c.rdS (SFE_OFFS_APPLIED_offs n)) e.k else l
  let i := if vFault || (e.v.settling && e.v.afterFault) then 0 else sat24 raw
  let beyond := (c.pathUsable n 0 && e.v.clip) || (ilOk && e.il.clip) || (high && clips24 raw)
  let c := match e.usedHigh with
    | some u => if u != high then (c.inc (SFE_SEAM_CNT_count n)).raiseEv (sfePage n) (if high then 3 else 2) else c
    | none => c
  let c := if high then c else c.inc (SFE_LOW_CNT_count n)
  let c := (c.setFlag (SFE_ESTATUS_on_low n) low).showOverrange n beyond
  let q := c.qualifies n h l
  let c := if q then c.crossCheck n h l else c
  let window := if c.stride % 8000 = 0 then some {} else e.window
  let noCurrent := !ihOk && !ilOk && (c.forcedZero n 1 || c.forcedZero n 2)
  let c := (c.faultIs 2 0x1120 n (ihOk && !ilOk)).faultIs 2 0x1121 n (ilOk && c.pathFault n 1)
  c.modElem n fun e =>
    { e with
      low := low, count := count, usedHigh := some high
      vr := c.delivered n 0, h := h, l := l, i := i, overrange := beyond
      zeroAge := if forcedV || noCurrent then 0 else min 103 (e.zeroAge + 1)
      zeroAgeV := if forcedV then 0 else min 103 (e.zeroAgeV + 1)
      window := if q then window.map (fun r => r.add h l) else window }

/-- A Stride of a disabled element: it delivers and computes nothing, its lines and rings hold zeros, and the counts of Strides since its
last forced zero and its last crossing run on (R94, R123, R131; log 104). -/
def Element.idle (e : Element) : Element :=
  { e with
    vr := 0, h := 0, l := 0, i := 0, overrange := false, usedHigh := none, vLine := [], iLine := [], vc := 0, ic := 0, v90 := 0
    p := 0, q := 0, clipV := false, clipVc := false, clipI := false, vSquares := [], iSquares := []
    zeroAge := min 103 (e.zeroAge + 1), zeroAgeV := min 103 (e.zeroAgeV + 1), sinceCross := min 256 (e.sinceCross + 1) }

/-- A disabled element at a Stride edge: it reports no clamp and no degraded path. -/
def Chip.elementIdle (c : Chip) (n : Nat) : Chip :=
  let e := c.elem n
  if e.idle = e then c
  else
    let c := (c.setElem n e.idle).showOverrange n false
    [0x1202, 0x1203, 0x1120, 0x1121].foldl (fun (c : Chip) k => c.clearFault 2 k n) c

/-- Element n reports an input-health fault: a bit of SFE_HEALTH, or the clock fault of R12. -/
def Chip.unhealthy (c : Chip) (n : Nat) : Bool := c.rd (SFE_HEALTH n) != 0 || c.hasFault 2 0x1122 n

/-- The status bits and the level event follow the element's input-health faults. -/
def Chip.showHealth (c : Chip) (n : Nat) : Chip :=
  let any := c.unhealthy n
  let c := (c.setFlag (SFE_ESTATUS_health_fault n) any).setRaw (sfePage n) 7 any
  c.setFlag SFE_STATUS_any_fault ((List.range c.variant.elements).any fun e => c.unhealthy e)

/-- The input-health fault of an element whose clock is outside R12, with its events and its record as the faults of R106 have them; the
code is by the pattern of R502 (DESIGN CHOICE, log 104). -/
def Chip.clockHealth (c : Chip) (n : Nat) (bad : Bool) : Chip :=
  if c.hasFault 2 0x1122 n = bad then c
  else
    let k := if bad then 0 else 1
    let c := ((c.faultIs 2 0x1122 n bad).showHealth n).raiseEv (sfePage n) k
    (c.raiseEv sfgPage k).logFault 2 0x1122 n bad

/-- Element n at a Stride edge, from its bits to its samples (R87, R112). While REFCLK lies outside ±50 ppm every enabled element reports
an input-health fault, and an element whose modulators the carrier does not clock from MCLK_OUT reports its own (R12). -/
def Chip.frontEndEdge (c : Chip) (inp : StrideInputs) (n : Nat) : Chip :=
  let c := c.pathsEdge inp n
  if c.flag (SFE_ECTRL_en n) then (c.elementSamples n).clockHealth n (inp.refclkOff || inp.foreignClock.contains n)
  else (c.elementIdle n).clockHealth n false

/-- The element is enabled at an edge: the selector starts low, and its paths settle (R93, R94). -/
def Chip.elementEnabled (c : Chip) (n : Nat) : Chip :=
  let c := c.modElem n fun e => { e with low := true, count := 0, usedHigh := none }
  (c.setFlag (SFE_ESTATUS_on_low n) true).settleElement n

/-- The running clock groups follow SFE_CTRL.mclk_en; a group that starts makes its paths settle, one that stops raises its event
(R87, R93, R111). -/
def Chip.clockGroups (c : Chip) (running : Bool) : Chip :=
  forN 8 (fun g c =>
    let on := running && c.flag (SFE_CTRL_mclk_en.bitOf g) && decide (8 * g < c.variant.elements)
    let was := c.flag (SFE_STATUS_mclk_run.bitOf g)
    let c := c.setFlag (SFE_STATUS_mclk_run.bitOf g) on
    if on && !was then forN 8 (fun i c => c.settleElement (8 * g + i)) c
    else if was && !on then c.raiseEv sfgPage 2
    else c) c

end Sys2Proof.Machine
end

