-- ==== Sys2Proof/Machine/Sensor.lean ====
section
/-! DEFINITION. What the ports' analogue inputs make of their samples: the pilot plateaus (R246) and the cable temperature (R254). -/

namespace Sys2Proof.Machine

/-! ### Pilot plateaus (R246) -/

/-- The level of an output at a cycle of the Stride. -/
def Wave.level (w : Wave) (o : Option Nat) (x : Nat) : Bool :=
  match o with
  | none => false
  | some d => d == 2000 || decide ((12500 * w.slot + x) % 100000 < 50 * d)

/-- The cycle at which a duty code falls, counted from the Stride's start. -/
def Wave.fall (w : Wave) (o : Option Nat) : Option Int :=
  match o with
  | some d => if d = 2000 then none else some ((50 * d : Nat) - (12500 * w.slot : Nat) : Int)
  | none => none

/-- The edges of one part, from cycle a up to b, with the level before it: at its start where the level changes, and where its code
falls. -/
def Wave.partEdges (w : Wave) (was : Bool) (a b : Nat) (o : Option Nat) : List Int :=
  (if was != w.level o a then [(a : Int)] else []) ++
    match w.fall o with
    | some x => if (a : Int) < x ∧ x < b then [x] else []
    | none => []

/-- The edges within the parts given, with the level before them. -/
def Wave.edgesFrom (w : Wave) : Bool → List (Nat × Option Nat) → List Int
  | _, [] => []
  | was, [(a, o)] => w.partEdges was a 12500 o
  | was, (a, o) :: (b, p) :: l => w.partEdges was a b o ++ w.edgesFrom (w.level o (b - 1)) ((b, p) :: l)

/-- The edges of the Stride. -/
def Wave.edges (w : Wave) : List Int := w.edgesFrom w.high w.parts

/-- The output at the end of the Stride. -/
def Wave.last (w : Wave) : Option Nat := (w.parts.getLastD (0, none)).2

/-- The output at a cycle. -/
def Wave.at_ (w : Wave) (x : Nat) : Option Nat :=
  (w.parts.foldl (fun (b : Option Nat) p => if p.1 ≤ x then p.2 else b) none)

/-- The edges that the code in force at the end of the Stride gives soon after it. -/
def Wave.coming (w : Wave) : List Int :=
  let falls := match w.fall w.last with
    | some x => if 12500 ≤ x then [x] else []
    | none => []
  match w.last with
  | some d => if w.slot = 7 ∧ d ≠ 2000 then 12500 :: falls else falls
  | none => []

/-- The outputs of the Stride with a new one from cycle x on. -/
def Wave.change (w : Wave) (x : Nat) (o : Option Nat) : Wave :=
  if w.last = o then w else { w with parts := (w.parts.filter fun p => decide (p.1 < x)) ++ [(x, o)] }

/-- The generator at the start of the next Stride, with its output and place there. -/
def Wave.next (w : Wave) (o : Option Nat) (slot : Nat) : Wave :=
  { high := w.level w.last 12499, edge := (w.edges.foldl (fun _ x => x) w.edge) - 12500, slot := slot, parts := [(0, o)] }

/-- The samples of a Stride, one for each µs in mV, that belong to a plateau: from 3 µs after an edge to 1 µs before the next. -/
def Wave.plateau (w : Wave) (high : Bool) (samples : List Int) : List Int :=
  let edges := w.edges ++ w.coming
  (samples.take 125).zipIdx.filterMap fun p =>
    let x : Nat := 100 * p.2
    let prev := edges.foldl (fun (b : Int) e => if e ≤ (x : Int) then e else b) w.edge
    let clear := edges.all fun e => decide (e ≤ (x : Int)) || decide ((x : Int) + 100 < e)
    if prev + 300 ≤ (x : Int) ∧ clear ∧ w.level (w.at_ x) x = high then some p.1 else none

/-- The mean of a plateau in mV, without its fraction; none where the plateau has no sample. -/
def plateauMean (l : List Int) : Option Int :=
  if l.isEmpty then none else some (let s := l.foldl (· + ·) 0; if s < 0 then -((-s) / l.length) else s / l.length)

/-! ### Cable temperature (R254) -/

/-- 2^40 times the exponential of n / d, for an argument of at most 8 in size: the sixteenth power of a series of its sixteenth. -/
def expFixed (n d : Int) : Int :=
  let one : Int := 2 ^ 40
  let y := n * one / (16 * d)
  let s := forN 10 (fun k (p : Int × Int) => let t := p.2 * y / (one * (k + 1)); (p.1 + t, t)) (one, one)
  let sq (z : Int) : Int := z * z / one
  sq (sq (sq (sq s.1)))

/-- The resistance, in mΩ, of the NTC of R254 at q sixteenths of a degree: 10 kΩ · exp(3435 · (1/T − 1/298.15)). -/
def ntcResistance (q : Int) : Int :=
  let t := 5 * q + 21852
  10000000 * expFixed (274800 * (23852 - t)) (t * 23852) / 2 ^ 40

/-- The resistance, in mΩ, of a PT1000 of IEC 60751 at q sixteenths of a degree. -/
def ptResistance (q : Int) : Int :=
  (10 ^ 15 * 65536 + 3908300000000 * 4096 * q - 577500000 * 256 * q ^ 2 - (if q < 0 then 4183 * (q - 1600) * q ^ 3 else 0)) /
    (10 ^ 9 * 65536)

/-- The greatest q from lo on, fewer than 2^k steps above it, for which f holds; f holds at lo and changes once. -/
def lastHolding (f : Int → Bool) (k : Nat) (lo : Int) : Int :=
  (List.range k).foldl (fun (b : Int) i => let q := b + 2 ^ (k - 1 - i); if f q then q else b) lo

/-- The temperature, in sixteenths of a degree, of a sensor of a type with a resistance in mΩ; none outside −40 °C to +200 °C. The ROM
tables keep within 1 °C of it (log 107). -/
def sensorTemperature (type r : Nat) : Option Int :=
  let off := clampI (-16) 16 (Config.sensorError type r)
  if type = 1 then
    if (r : Int) ≤ ntcResistance (-640) ∧ ntcResistance 3200 ≤ r then
      some (clampI (-640) 3200 (lastHolding (fun q => decide (q ≤ 3200) && decide ((r : Int) ≤ ntcResistance q)) 12 (-640) + off))
    else none
  else if ptResistance (-640) ≤ r ∧ (r : Int) ≤ ptResistance 3200 then
    some (clampI (-640) 3200 (lastHolding (fun q => decide (q ≤ 3200) && decide (ptResistance q ≤ r)) 12 (-640) + off))
  else none

end Sys2Proof.Machine
end

