-- ==== Sys2Proof/Machine/Port.lean ====
section
/-! DEFINITION. The outlet ports: the pilot generator and sampler, drops and permits, proximity, temperature, lock and the
communication rings (R242–R265, R268). -/

namespace Sys2Proof.Machine

/-- The hidden part of a port. -/
def Chip.port (c : Chip) (n : Nat) : Port := Sparse.get (fun _ => {}) c.ports n

/-- The block with the hidden part of a port changed. -/
def Chip.setPort (c : Chip) (n : Nat) (f : Port → Port) : Chip :=
  { c with ports := Sparse.set (fun _ => {}) c.ports n (f (c.port n)) }

/-- The page of port n. -/
def optPage (n : Nat) : Nat := 0x40200000 + n * 0x1000

/-- SAFE_CUT of a Flock is asserted: by channel A or by channel B (R301). -/
def Chip.cutAsserted (c : Chip) (f : Nat) : Bool := bit (c.rd SAF_CUT_cmd_b) f || bit c.saf.cutA f

/-- SAFE_CUT of the Flock of a port is asserted. In the Off role, where every output is asserted and no drop acts (R351), and in the Stride
in which that hold ends, until the Crook-link frame has released channel A (R363), the Flock's state stands for it. -/
def Chip.portCut (c : Chip) (n : Nat) : Bool :=
  let f := c.rd (OPT_STATUS_flock n)
  if c.outputsHeld || c.offHoldEnds then decide (2 ≤ c.rd (SAF_FLOCK_ST_state f)) else c.cutAsserted f

/-! ### The pilot generator (R243–R245) -/

/-- The generator's output: none for −12 V constant, otherwise the code, 2000 being +12 V (R245); in the Off role Near's applied code
(R351). -/
def Chip.pilotOutput (c : Chip) (n : Nat) : Option Nat :=
  if c.isOff then c.pair.nearPilots.getD n none
  else if c.portCut n ∨ ¬ c.flag (OPT_CTRL_en n) then none
  else if c.flag (OPT_STATUS_dropped n) then (if c.flag (OPT_CFG_drop_f n) then none else some 2000)
  else some (c.rd (OPT_PWM_APPLIED_duty n))

/-- A valid duty code (R245). -/
def dutyValid (d : Nat) : Bool := d == 100 || (decide (200 ≤ d) && decide (d ≤ 1920)) || d == 2000

/-- The largest code not above d whose offered current does not exceed a limit of l units of 0.1 A, 2000 where no code from 200 on
does (R245). -/
def dutyFit (d l : Nat) : Nat :=
  let hi := min d ((8 * l + 12800) / 10)
  let lo := min d (min 1700 (10 * l / 3))
  if 1700 < hi then hi else if 200 ≤ lo then lo else 2000

/-- Ilim in units of 0.1 A (R245). -/
def Chip.currentLimit (c : Chip) (n : Nat) : Nat :=
  min (c.rd (OPT_LIM_soft n)) (min (c.rd (OPT_LIM_seal n)) (c.rd (OPT_LIM2_cable n)))

/-- The generator's output may have changed at this cycle of the Stride. -/
def Chip.noteOutput (c : Chip) (n : Nat) : Chip :=
  let o := c.pilotOutput n
  if (c.port n).wave.last = o then c else c.setPort n fun p => { p with wave := p.wave.change c.cycle o }

/-- OPT_LIM2.ilim shows Ilim. -/
def Chip.showLimit (c : Chip) (n : Nat) : Chip := c.put (OPT_LIM2_ilim n) (c.currentLimit n)

/-- A write of OPT_PWM by the holder of its claim: the code waits for the next period start (R244). -/
def pwmWrite (acc : Access) (n v : Nat) (c : Chip) : Chip :=
  c.writeUnit .opt n acc (OPT_PWM n).addr v fun c => (c.put (OPT_PWM_duty n) v).put (OPT_PWM_phase n) (v / 2 ^ 16)

/-- PWM_WRITE (R244). -/
def execPwmWrite (acc : Access) (n v : Nat) (s : State) : Answer := s.effect (pwmWrite acc n v)

/-- A period starts at the edge of a Stride of the port's phase: the written code is validated, clamped and applied (R244, R245).
It waits while the port is dropped (R263) and while SAFE_CUT is asserted (R53). -/
def pwmPeriodStart (n : Nat) (c : Chip) : Chip :=
  if c.variant.ports ≤ n ∨ c.stride % 8 ≠ c.rd (OPT_PWM_phase n) ∨ c.flag (OPT_STATUS_dropped n) ∨ c.portCut n then c
  else
    let d := c.rd (OPT_PWM_duty n)
    let ok := dutyValid d
    let d := if ok then d else 2000
    let a := if d = 100 ∨ d = 2000 then d else dutyFit d (c.currentLimit n)
    let clamped := a != d
    let c := if clamped && !c.flag (OPT_STATUS_duty_clamped n) then c.raiseEv (optPage n) 10 else c
    (((c.put (OPT_PWM_APPLIED_duty n) a).setFlag (OPT_STATUS_duty_clamped n) clamped).setFlag (OPT_STATUS_duty_invalid n) (!ok)).noteOutput
      n

/-- PWM_PERIOD_START (R245). -/
def execPwmPeriodStart (n : Nat) (s : State) : Answer := s.effect (pwmPeriodStart n)

/-! ### Pilot classes -/

/-- The class of a fresh reading (R247), with the code that the generator applied; none for no new class. -/
def classify (code : Option Nat) (vh vl : Option Int) : Option PilotClass :=
  let within (lo hi : Int) (v : Option Int) : Bool :=
    match v with
    | some x => decide (lo ≤ x) && decide (x ≤ hi)
    | none => false
  let pwm := match code with
    | some d => d == 100 || (decide (200 ≤ d) && decide (d ≤ 1920))
    | none => false
  let lowOk := within (-13000) (-11000) vl
  if within (-1000) 1000 vh || within (-1000) 1000 vl then some .e
  else if within (-32768) (-11000) vh then some .f
  else if within 11000 13000 vh then some .a
  else if within 8000 10000 vh then some .b
  else if within 5000 7000 vh then some .c
  else if within 2000 4000 vh then some .d
  else if vl.isSome && pwm && !lowOk then some .diode
  else if vh.isNone && lowOk then none
  else some .invalid

/-- The code that OPT_STATUS.state shows for an accepted class (R248). -/
def classCode : PilotClass → Nat
  | .a => 0
  | .b => 1
  | .c => 2
  | .d => 3
  | .e => 4
  | .f => 5
  | _ => 6

/-- The state that OPT_STATUS.state shows (R248): F while the generator holds −12 V unless E or pilot fault is accepted. -/
def Chip.shownState (c : Chip) (n : Nat) (acc : Option PilotClass) : Nat :=
  if (c.pilotOutput n).isNone ∧ acc ≠ some .e ∧ acc ≠ some .invalid then 5
  else match acc with
    | some k => classCode k
    | none => 7

/-- The proximity code of a resistance under R253, by the rows of its table. -/
def proximityCode (r : Nat) : Nat :=
  if r < 75 then 0 else if r < 150 then 1 else if r < 400 then 2 else if r < 1000 then 3 else if r < 2700 then 4
  else if r < 4500 then 5 else 6

/-- The cable rating of a proximity code, in units of 0.1 A (R253). -/
def cableRating : Nat → Nat
  | 1 => 630
  | 2 => 320
  | 3 => 200
  | 4 => 130
  | _ => 0

/-- OPT_LOCK.locked: the debounced level, inverted with lock_pol (R255). -/
def Chip.locked (c : Chip) (n : Nat) : Bool :=
  match (c.port n).lockLevel with
  | some b => b != c.flag (OPT_CFG_lock_pol n)
  | none => false

/-- The drop causes that are present, bits 0–8 of R249, with the accepted class given; causes 9 and 10 are happenings. The generator is high
or in PWM at the end of the Stride's output. An accepted F
drops no port in the first 8 Strides after a takeover (R363). -/
def Chip.dropCauses (c : Chip) (n : Nat) (acc : Option PilotClass) : Nat :=
  let p := c.port n
  let state := c.shownState n acc
  let charging := state == 2 || state == 3
  let noCable := c.rd (OPT_CFG_pp_mode n) == 1 && (p.pp == some 0 || p.pp == some 5 || p.pp == some 6)
  let bits : List Bool :=
    [acc == some .e, acc == some .f && p.wave.last.isSome && decide (c.pair.graceUntil ≤ c.stride), acc == some .invalid,
      c.flag (OPT_STATUS_diode_fault n),
      acc == some .d && !c.flag (OPT_CFG_vent_ok n), noCable && charging, decide (8 ≤ p.hot),
      c.flag (OPT_CFG_lock_req n) && charging && !c.locked n, c.portCut n]
  (bits.zipIdx).foldl (fun x b => if b.1 then x + 2 ^ b.2 else x) 0

/-! ### Drop and permit -/

/-- The faults of the ports at Flock level (R268). -/
def Chip.portFaults (c : Chip) : List ActiveFault :=
  (List.range c.variant.ports).foldl (fun l n =>
    let drop := c.flag (OPT_STATUS_dropped n) && c.rd (OPT_DROP_cause n) % 256 != 0
    let bits := (if drop then [3] else []) ++ [11, 12, 13].filter fun b => c.flag ((OPT_STATUS n).bitOf b)
    bits.foldl (fun l b =>
      let f : ActiveFault := ⟨4, 0x2000 + b, c.rd (OPT_STATUS_flock n)⟩
      if l.contains f then l else l ++ [f]) l) []

/-- The ports' faults follow their status. -/
def Chip.notePorts (c : Chip) : Chip :=
  { c with faults := c.faults.filter (fun f : ActiveFault => f.code / 32 != 0x100) ++ c.portFaults }

/-- The temperature conversion of this Stride is still to come (R254): a permit does not rise before it, so that a drop of the same edge
wins (R263). -/
def Chip.conversionDue (c : Chip) (n : Nat) : Bool :=
  let type := c.rd (OPT_CFG_temp_type n)
  c.stride % 8 == 0 && (type == 1 || type == 2) && (c.port n).converted != some c.stride && !c.flag (OPT_STATUS_permit n)

/-- The contactor permit of R250; a module in the Off role withholds it (R268). -/
def Chip.permitted (c : Chip) (n : Nat) : Bool :=
  let acc := (c.port n).accepted
  c.flag (OPT_CTRL_en n) && c.flag (OPT_STATUS_safe_ok n) && !c.flag (OPT_STATUS_dropped n) &&
    (acc == some .c || (acc == some .d && c.flag (OPT_CFG_vent_ok n))) && !c.outputsHeld && !c.conversionDue n

/-- A weld check of a port starts (R314), unless its weld element is 0xFF. -/
def Chip.startWeld (c : Chip) (n : Nat) : Chip :=
  if c.spbByte (161 + 8 * n) = 0xFF ∨ c.saf.welds.any (fun w => w.port == n) then c
  else
    let before := c.saf.welds.filter fun w => w.port < n
    let after := c.saf.welds.filter fun w => n < w.port
    { c with saf := { c.saf with welds := before ++ [{ port := n }] ++ after } }

/-- The channel that a contactor field names decides its output again, where the field is valid. -/
def Chip.settleContactor (c : Chip) (v ch : Fld) : Chip :=
  if c.flag v && decide (c.rd ch < c.variant.channels) then c.settleChannel (c.rd ch) else c

/-- The contactor channels of a port follow its permit. -/
def Chip.settleContactors (c : Chip) (n : Nat) : Chip :=
  (c.settleContactor (OPT_CFG_cont0_v n) (OPT_CFG_cont_ch0 n)).settleContactor (OPT_CFG_cont1_v n) (OPT_CFG_cont_ch1 n)

/-- What follows from a port's inputs: the shown state, the permit, the override of R53, lock_fault, Ilim and the contactors. -/
def Chip.settlePort (c : Chip) (n : Nat) : Chip :=
  let acc := (c.port n).accepted
  let c := c.put (OPT_STATUS_state n) (c.shownState n acc)
  let cut := c.portCut n
  let c := (c.setFlag (OPT_STATUS_override n) cut).setFlag (FAB_CLAIM_override (16 + n)) cut
  let c := c.put (FAB_CLAIM_override_by (16 + n)) (if cut then 2 else 0)
  let lf := bit (c.dropCauses n acc) 7
  let c := if lf && !c.flag (OPT_STATUS_lock_fault n) then c.raiseEv (optPage n) 5 else c
  let c := (c.setFlag (OPT_STATUS_lock_fault n) lf).showLimit n
  let was := c.flag (OPT_STATUS_permit n)
  let now := c.permitted n
  let c := c.setFlag (OPT_STATUS_permit n) now
  let c := if was && !now then c.startWeld n else c
  let c := if was != now then c.settleContactors n else c
  (c.noteOutput n).notePorts

/-- Causes that arise at a port between two Stride edges wait for the next (R249). -/
def Chip.noteCauses (c : Chip) (n causes : Nat) : Chip :=
  if causes = 0 ∨ c.variant.ports ≤ n then c else c.setPort n fun p => { p with arisen := p.arisen ||| causes }

/-- Cause 1 of R249 makes S0 apply a port stop at its next safety cycle (R317). -/
def Chip.noteStop (c : Chip) (n causes : Nat) : Chip :=
  if bit causes 1 then { c with saf := { c.saf with stopsDue := Sparse.set (fun _ => 0) c.saf.stopsDue n 1 } } else c

/-- Drop causes arise at a port at this Stride edge (R249): an enabled port drops, a dropped one latches them. -/
def Chip.dropPort (c : Chip) (n causes : Nat) : Chip :=
  if causes = 0 ∨ c.variant.ports ≤ n then c
  else if c.flag (OPT_STATUS_dropped n) then
    (c.put (OPT_DROP_cause n) (c.rd (OPT_DROP_cause n) ||| causes)).settlePort n
  else if ¬ c.flag (OPT_CTRL_en n) then c
  else
    let all := causes ||| c.dropCauses n (c.port n).accepted
    let c := (c.setFlag (OPT_STATUS_dropped n) true).put (OPT_DROP_cause n) all
    let c := c.put64 (OPT_DROP_STRIDE_LO_stride n) (OPT_DROP_STRIDE_HI_stride n) c.stride
    let c := c.setPort n fun p => { p with rearm := false, rearmHeld := false }
    ((c.raiseEv (optPage n) 1).canStop n).settlePort n

/-- The causes that are present at a port act at this Stride edge. -/
def Chip.checkDrop (c : Chip) (n : Nat) : Chip :=
  let causes := c.dropCauses n (c.port n).accepted
  ((c.noteStop n causes).dropPort n causes).settlePort n

/-- The drop of a port clears, and OPT_DROP with it (R251). -/
def Chip.clearDrop (c : Chip) (n : Nat) : Chip :=
  let c := (c.setFlag (OPT_STATUS_dropped n) false).put (OPT_DROP_cause n) 0
  (c.raiseEv (optPage n) 2).settlePort n

/-- OPT_CMD.drop drops the port at the next edge (R249). -/
def portDropCmd (acc : Access) (n : Nat) (c : Chip) : Chip :=
  c.writeUnit .opt n acc (OPT_CMD n).addr 1 fun c => c.noteCauses n 1024

/-- PORT_DROP_CMD (R249). -/
def execPortDropCmd (acc : Access) (n : Nat) (s : State) : Answer := s.effect (portDropCmd acc n)

/-- OPT_CMD.rearm (R251): ignored at a port that is not dropped, refused while a cause is present or the state is neither A nor B,
otherwise the drop clears at the next edge. -/
def portRearm (acc : Access) (n : Nat) (c : Chip) : Chip :=
  c.writeUnit .opt n acc (OPT_CMD n).addr 2 fun c =>
    if ¬ c.flag (OPT_STATUS_dropped n) then c
    else
      let acc := (c.port n).accepted
      if c.dropCauses n acc = 0 ∧ c.shownState n acc < 2 then c.setPort n fun p => { p with rearm := true }
      else c.setFlag (OPT_STATUS_rearm_refused n) true

/-- PORT_REARM (R251). -/
def execPortRearm (acc : Access) (n : Nat) (s : State) : Answer := s.effect (portRearm acc n)

/-- The state has been A for 16 Strides with auto_rearm and no cause present: the drop clears (R251). -/
def portAutoRearm (n : Nat) (c : Chip) : Chip :=
  if c.flag (OPT_STATUS_dropped n) ∧ c.flag (OPT_CTRL_auto_rearm n) ∧ 16 ≤ (c.port n).aRun ∧
      c.dropCauses n (c.port n).accepted = 0 ∧ n < c.variant.ports then c.clearDrop n
  else c

/-- PORT_AUTO_REARM (R251). -/
def execPortAutoRearm (n : Nat) (s : State) : Answer := s.effect (portAutoRearm n)

/-! ### Proximity, temperature and lock -/

/-- The cable rating takes a value, with its event (R253, R265). -/
def Chip.setCable (c : Chip) (n v : Nat) : Chip :=
  if c.rd (OPT_LIM2_cable n) = v then c else ((c.put (OPT_LIM2_cable n) v).raiseEv (optPage n) 3).showLimit n

/-- A proximity code seen for 16 Strides is accepted (R253). -/
def proximityAccept (n : Nat) (c : Chip) : Chip :=
  let p := c.port n
  if c.variant.ports ≤ n ∨ c.rd (OPT_CFG_pp_mode n) ≠ 1 ∨ p.ppRun < 16 then c
  else
    let c := c.setPort n fun p => { p with pp := some p.ppCode }
    let c := (c.setFlag (OPT_STATUS_pp_fault n) (p.ppCode == 0 || p.ppCode == 5)).setCable n (cableRating p.ppCode)
    c.checkDrop n

/-- PROXIMITY_ACCEPT (R253). -/
def execProximityAccept (n : Nat) (s : State) : Answer := s.effect (proximityAccept n)

/-- The lock input has held a level for 16 Strides: the debounced level changes (R255). -/
def lockDebounce (n : Nat) (c : Chip) : Chip :=
  let p := c.port n
  if c.variant.ports ≤ n ∨ p.lockRun < 16 ∨ p.lockLevel = some p.lockPin then c
  else
    let c := c.setPort n fun p => { p with lockLevel := some p.lockPin }
    let c := c.setFlag (OPT_LOCK_locked n) (c.locked n)
    c.checkDrop n

/-- LOCK_DEBOUNCE (R255). -/
def execLockDebounce (n : Nat) (s : State) : Answer := s.effect (lockDebounce n)

/-- The temperature conversion of this edge can still give cause 6 of R249 (R254, R263). -/
def Chip.hotDue (c : Chip) (n : Nat) : Bool :=
  let type := c.rd (OPT_CFG_temp_type n)
  c.stride % 8 == 0 && (type == 1 || type == 2) && (c.port n).hot == 7 && (c.port n).converted != some c.stride

/-- A rearm that was accepted clears the drop at the edge, unless a cause arises at the same edge: by a class, the proximity or the lock
input accepted there, or by the temperature, for whose conversion it then waits (R251, R263). -/
def Chip.rearmEdge (c : Chip) (n : Nat) : Chip :=
  if ¬ ((c.port n).rearm || (c.port n).rearmHeld) then c
  else
    let c := lockDebounce n (proximityAccept n (c.setPort n fun p => { p with rearm := false, rearmHeld := false }))
    let p := c.port n
    let acc := match p.due with
      | some .diode => p.accepted
      | some k => some k
      | none => p.accepted
    if ¬ c.flag (OPT_STATUS_dropped n) then c
    else if c.dropCauses n acc ≠ 0 ∨ p.arisen ≠ 0 ∨ p.due = some .diode then c.setFlag (OPT_STATUS_rearm_refused n) true
    else if c.hotDue n then c.setPort n fun p => { p with rearmHeld := true }
    else (c.setFlag (OPT_STATUS_rearm_refused n) false).clearDrop n

/-- A rearm that waited for the temperature conversion of its edge clears the drop or is refused (R263). -/
def Chip.heldRearm (c : Chip) (n : Nat) : Chip :=
  if ¬ (c.port n).rearmHeld then c
  else
    let c := c.setPort n fun p => { p with rearmHeld := false }
    if ¬ c.flag (OPT_STATUS_dropped n) then c
    else if c.dropCauses n (c.port n).accepted = 0 ∧ (c.port n).arisen = 0 then
      (c.setFlag (OPT_STATUS_rearm_refused n) false).clearDrop n
    else c.setFlag (OPT_STATUS_rearm_refused n) true

/-- The cable temperature of a control cycle from the sensor's resistance in mΩ (R254). -/
def Chip.convertTemp (c : Chip) (n r : Nat) : Chip :=
  let c := c.setPort n fun p => { p with converted := some c.stride }
  let type := c.rd (OPT_CFG_temp_type n)
  if type = 0 ∨ type = 3 then
    (((c.setPort n fun p => { p with hot := 0, good := 8 }).put (OPT_TEMP_t n) 0).setFlag (OPT_STATUS_temp_fault n) false).notePorts
  else match sensorTemperature type r with
    | none =>
      let c := c.setPort n fun p => { p with hot := 0, good := 0 }
      let c := if c.flag (OPT_STATUS_temp_fault n) then c else c.raiseEv (optPage n) 4
      (c.setFlag (OPT_STATUS_temp_fault n) true).checkDrop n
    | some t =>
      let hot := decide (c.rdS (OPT_TEMP_LIM_trip n) ≤ t)
      let c := c.setPort n fun p =>
        { p with hot := if hot then min 8 (p.hot + 1) else 0, good := min 8 (p.good + 1) }
      let c := c.putS (OPT_TEMP_t n) t
      let c := if 8 ≤ (c.port n).good then c.setFlag (OPT_STATUS_temp_fault n) false else c
      c.checkDrop n

/-- The temperature conversion of a control cycle (R254), and a rearm that has waited for it (R263). -/
def cableTempConvert (n r : Nat) (c : Chip) : Chip :=
  if c.variant.ports ≤ n ∨ c.stride % 8 ≠ 0 then c else (c.convertTemp n r).heldRearm n

/-- CABLE_TEMP_CONVERT (R254). -/
def execCableTempConvert (n r : Nat) (s : State) : Answer := s.effect (cableTempConvert n r)

/-- A class that R248 accepts at this edge takes effect; while the generator holds −12 V only E and pilot fault do. The drop wins over it,
and so does one by the proximity or the lock input, accepted at the same edge (R263). -/
def pilotStateAccept (n : Nat) (c : Chip) : Chip :=
  match (c.port n).due with
  | none => c
  | some k =>
    let c := lockDebounce n (proximityAccept n (c.setPort n fun p => { p with due := none }))
    if (c.pilotOutput n).isNone ∧ k ≠ .e ∧ k ≠ .invalid then c
    else if k = .diode then (c.setFlag (OPT_STATUS_diode_fault n) true).checkDrop n
    else
      let changed := (c.port n).accepted != some k
      let c := (c.setPort n fun p => { p with accepted := some k }).setFlag (OPT_STATUS_diode_fault n) false
      (if changed then c.raiseEv (optPage n) 0 else c).checkDrop n

/-- PILOT_STATE_ACCEPT (R248). -/
def execPilotStateAccept (n : Nat) (s : State) : Answer := s.effect (pilotStateAccept n)

/-! ### Communication -/

/-- The descriptors of a ring with log2 size k (R264). -/
def ringSize (k : Nat) : Nat := 2 ^ (if 4 ≤ k ∧ k ≤ 10 then k else 4)

/-- A PHY runs on the port (R256); outside the Near role the pair is high-impedance, from X of a swap on
(R268, R349, R364). -/
def Chip.portPhy (c : Chip) (n : Nat) : Bool := (c.rd (OPT_CFG_comm n) == 1 || c.rd (OPT_CFG_comm n) == 2) && !c.isOff

/-- The 10BASE-T1S PHY runs under PLCA, and is then the coordinator with the node ID 0 (R258). -/
def Chip.plcaRuns (c : Chip) (n : Nat) : Bool := c.rd (OPT_CFG_comm n) == 2 && c.flag (OPT_COMM_plca_en n)
def Chip.plcaCoordinator (c : Chip) (n : Nat) : Bool := c.plcaRuns n && c.rd (OPT_COMM_plca_id n) == 0

/-- The port may send: under PLCA a node has transmit opportunities with an ID below the node count, and none with 0xFF (R258, R264). -/
def Chip.mayTransmit (c : Chip) (n : Nat) : Bool :=
  c.portPhy n && (!c.plcaRuns n || (c.rd (OPT_COMM_plca_id n) != 0xFF && decide (c.rd (OPT_COMM_plca_id n) < c.rd (OPT_COMM_plca_count n))))

/-- A received SLAC sound with its attenuation per group, in dB: the profile is the average over the sounds (R257). -/
def Chip.slacSound (c : Chip) (n : Nat) (att : List Nat) : Chip :=
  if att.isEmpty ∨ c.rd (OPT_CFG_comm n) ≠ 1 then c
  else
    let c := c.setPort n fun p =>
      { p with slac := (List.range 58).map (fun g => nth p.slac g + nth att g), sounds := p.sounds + 1 }
    let p := c.port n
    let avg := (List.range 60).map fun g => min 255 (nth p.slac g / p.sounds)
    forN 15 (fun k c => c.put (OPT_ATTEN_atten n k) (ofLe ((avg.drop (4 * k)).take 4))) c

/-- A frame from the port PHY: written to the next RX descriptor with its time-stamp, or discarded when none is free (R259). -/
def portFrameReceive (n : Nat) (bytes att : List Nat) (cyc : Nat) (c : Chip) : Chip :=
  if c.variant.ports ≤ n ∨ ¬ c.portPhy n ∨ 1522 < bytes.length then c
  else
    let c := (c.advanceTo cyc).slacSound n att
    let size := ringSize (c.rd (OPT_RING_SIZE_rx n))
    let h := c.rd (OPT_RX_HEAD_idx n) % size
    if (h + 1) % size = c.rd (OPT_RX_TAIL_idx n) % size then
      (c.incSat (OPT_RX_DROP_count n)).raiseEv (optPage n) 9
    else
      let d := c.rd (OPT_RX_BASE_addr n) + 16 * h
      let t := c.tim.clock
      let c := c.setBytes (Memory.le c.mem d 4) bytes
      let c := c.setBytes (d + 4) (leBytes 4 (bytes.length + 0x10000) ++ leBytes 4 (clockNs t) ++ leBytes 4 (clockSec t % 2 ^ 16))
      (c.put (OPT_RX_HEAD_idx n) ((h + 1) % size)).setRaw (optPage n) 6 true

/-- PORT_FRAME_RECEIVE (R259). -/
def execPortFrameReceive (n : Nat) (bytes att : List Nat) (cyc : Nat) (s : State) : Answer :=
  s.effect (portFrameReceive n bytes att cyc)

/-- Software advances OPT_TX_TAIL (R259). -/
def portTxTailWrite (acc : Access) (n v : Nat) (c : Chip) : Chip :=
  c.writeUnit .opt n acc (OPT_TX_TAIL n).addr v fun c => c.put (OPT_TX_TAIL_idx n) v

/-- PORT_TX_TAIL_WRITE (R259). -/
def execPortTxTailWrite (acc : Access) (n v : Nat) (s : State) : Answer := s.effect (portTxTailWrite acc n v)

/-- The frame of the TX descriptor at the head has been sent, or failed: the descriptor is done, with its time-stamp (R259). -/
def portFrameSent (n : Nat) (error : Bool) (cyc : Nat) (c : Chip) : Chip :=
  let size := ringSize (c.rd (OPT_RING_SIZE_tx n))
  let h := c.rd (OPT_TX_HEAD_idx n) % size
  if c.variant.ports ≤ n ∨ ¬ c.mayTransmit n ∨ h = c.rd (OPT_TX_TAIL_idx n) % size then c
  else
    let c := c.advanceTo cyc
    let d := c.rd (OPT_TX_BASE_addr n) + 16 * h
    let t := c.tim.clock
    let w1 := Memory.le c.mem (d + 4) 4 % 0x10000 + 0x10000 + 0x20000 * error.toNat
    let c := c.setBytes (d + 4) (leBytes 4 w1 ++ leBytes 4 (clockNs t) ++ leBytes 4 (clockSec t % 2 ^ 16))
    (c.put (OPT_TX_HEAD_idx n) ((h + 1) % size)).raiseEv (optPage n) 7

/-- PORT_FRAME_SENT (R259). -/
def execPortFrameSent (n : Nat) (error : Bool) (cyc : Nat) (s : State) : Answer := s.effect (portFrameSent n error cyc)

/-- The PHY link or the AVLN membership comes or goes (R264, R265). -/
def portPhyLinkChange (n : Nat) (up : Bool) (c : Chip) : Chip :=
  if c.variant.ports ≤ n ∨ ¬ c.portPhy n ∨ c.flag (OPT_STATUS_link_up n) = up then c
  else (c.setFlag (OPT_STATUS_link_up n) up).raiseEv (optPage n) 8

/-- PORT_PHY_LINK_CHANGE (R265). -/
def execPortPhyLinkChange (n : Nat) (up : Bool) (s : State) : Answer := s.effect (portPhyLinkChange n up)

/-! ### Register writes with an effect of their own -/

/-- OPT_CTRL has been written: enabling forgets what was accepted (R248). -/
def Chip.optCtrlWritten (c : Chip) (n : Nat) (wasEn : Bool) : Chip :=
  let c := if c.flag (OPT_CTRL_en n) && !wasEn then
      (c.setPort n fun p =>
        { p with lastHigh := none, last := none, invalidRun := 0, due := none, accepted := none, aRun := 0 }).setFlag
        (OPT_STATUS_diode_fault n) false
    else c
  c.settlePort n

/-- The value that a write of OPT_CFG stores: a change of comm lands only while the port is disabled or in accepted state A
(R256). -/
def Chip.optCfgValue (c : Chip) (n v : Nat) : Nat :=
  let old := c.rd (OPT_CFG_comm n)
  if v / 256 % 4 = old ∨ ¬ c.flag (OPT_CTRL_en n) ∨ (c.port n).accepted = some .a then v
  else v - (v / 256 % 4) * 256 + old * 256

/-- OPT_CFG has been written with v: mode_refused, the sensors and the contactor map check follow (R253–R256, R292). -/
def Chip.optCfgWritten (c : Chip) (n v oldComm : Nat) : Chip :=
  let c := if v / 256 % 4 ≠ oldComm then c.setFlag (OPT_STATUS_mode_refused n) (c.rd (OPT_CFG_comm n) != v / 256 % 4) else c
  let c := if c.rd (OPT_CFG_comm n) ≠ oldComm then
      let c := c.setPort n fun p => { p with slac := [], sounds := 0 }
      if c.flag (OPT_STATUS_link_up n) then (c.setFlag (OPT_STATUS_link_up n) false).raiseEv (optPage n) 8 else c
    else c
  let c := if c.rd (OPT_CFG_pp_mode n) ≠ 1 then
      ((c.setPort n fun p => { p with pp := none, ppRun := 0 }).setFlag (OPT_STATUS_pp_fault n) false).setCable n 0x7FF
    else c
  let c := c.setFlag (OPT_LOCK_locked n) (c.locked n)
  ((c.settlePort n).settleLoad).checkCoilMap

/-- OPT_RX_TAIL has been written: the level event 6 follows the ring (R265). -/
def Chip.optRxTailWritten (c : Chip) (n : Nat) : Chip :=
  let size := ringSize (c.rd (OPT_RING_SIZE_rx n))
  c.setRaw (optPage n) 6 (c.rd (OPT_RX_HEAD_idx n) % size != c.rd (OPT_RX_TAIL_idx n) % size)

/-! ### What every Stride edge does -/

/-- The acceptance that a reading leads to (R248). -/
def acceptance (p : Port) (r : Option PilotClass) (fresh : Bool) : Option PilotClass :=
  let abcd (k : PilotClass) : Bool := k == .a || k == .b || k == .c || k == .d
  match r with
  | none => none
  | some .invalid => if 8 ≤ p.invalidRun + 1 then some .invalid else none
  | some k =>
    if abcd k then (if fresh && p.lastHigh == some k then some k else none)
    else if p.last == some k then some k else none

/-- The pilot reading of the Stride that ends (R246–R248), with the code that the generator applied in it. -/
def Chip.pilotSample (c : Chip) (inp : StrideInputs) (n : Nat) : Chip :=
  let samples := (inputOf inp.pilot n).getD []
  let w := (c.port n).wave
  let v := (plateauMean (w.plateau true samples), plateauMean (w.plateau false samples))
  let c := match v.1 with
    | some x => c.putS (OPT_CP_vh n) x
    | none => c
  let c := match v.2 with
    | some x => c.putS (OPT_CP_vl n) x
    | none => c
  let p := c.port n
  if v.1.isNone ∧ v.2.isNone then c.setPort n fun p => { p with due := none }
  else
    let r := classify w.last v.1 v.2
    let due := acceptance p r v.1.isSome
    let due := if w.last.isNone ∧ due ≠ some .e ∧ due ≠ some .invalid then none else due
    let due := if due = p.accepted ∧ ¬ c.flag (OPT_STATUS_diode_fault n) then none
      else if due = some .diode ∧ c.flag (OPT_STATUS_diode_fault n) then none else due
    c.setPort n fun p =>
      { p with
        due := due
        lastHigh := if v.1.isSome then r else p.lastHigh
        last := if r = some .e ∨ r = some .f ∨ r = some .diode then r else none
        invalidRun := if r = some .invalid then min 8 (p.invalidRun + 1) else 0 }

/-- The proximity and lock inputs of a Stride (R253, R255). -/
def Chip.inputSample (c : Chip) (inp : StrideInputs) (n : Nat) : Chip :=
  let mode := c.rd (OPT_CFG_pp_mode n)
  let r := (inputOf inp.proximity n).getD 0xFFFF
  let c := if mode = 1 ∨ mode = 2 then c.put (OPT_PP_r_ohm n) (satN 16 r) else c
  let k := proximityCode r
  let pin := (inputOf inp.lock n).getD true
  c.setPort n fun p =>
    { p with
      ppRun := if mode = 1 then (if k = p.ppCode then min 16 (p.ppRun + 1) else 1) else 0
      ppCode := k
      lockRun := if pin = p.lockPin then min 16 (p.lockRun + 1) else 1
      lockPin := pin }

/-- The readings of the Stride that ends at a port, before anything at the edge changes its generator, whose next Stride begins with the
output of the last (R246). -/
def Chip.portSample (c : Chip) (inp : StrideInputs) (n : Nat) : Chip :=
  let c := (c.pilotSample inp n).inputSample inp n
  let slot := (c.stride + 8 - c.rd (OPT_PWM_phase n)) % 8
  c.setPort n fun p => { p with wave := p.wave.next p.wave.last slot }

/-- The readings of every port. -/
def Chip.portsSample (c : Chip) (inp : StrideInputs) : Chip := forN c.variant.ports (fun n c => c.portSample inp n) c

/-- A port at a Stride edge: a rearm, and the causes that arose or are present. -/
def Chip.portEdge (c : Chip) (n : Nat) : Chip :=
  let c := c.rearmEdge n
  let arisen := (c.port n).arisen
  let c := c.setPort n fun p => { p with arisen := 0 }
  let causes := c.dropCauses n (c.port n).accepted
  let c := ((c.noteStop n causes).dropPort n (arisen ||| causes)).settlePort n
  c.setPort n fun p => { p with aRun := if c.rd (OPT_STATUS_state n) = 0 then min 16 (p.aRun + 1) else 0 }

/-- Every port at a Stride edge. -/
def Chip.portsEdge (c : Chip) : Chip := forN c.variant.ports (fun n c => c.portEdge n) c

end Sys2Proof.Machine
end

