-- ==== Sys2Proof/Machine/Metrology.lean ====
section
/-! DEFINITION. The energy arithmetic: the element datapath, fundamental frequency, meter aggregation and sorting, raw accumulators,
published registers and transfer-point compensation (R117–R146, R161–R163). -/

namespace Sys2Proof.Machine

/-- The base of the MET page of element n, and of the MTR page of meter m. -/
def metPage (n : Nat) : Nat := 0x40180000 + n * 0x1000
def mtrPage (m : Nat) : Nat := 0x40110000 + m * 0x1000

/-- The block with a meter changed. -/
def Chip.modMeter (c : Chip) (m : Nat) (f : Meter → Meter) : Chip := c.setMeter m (f (c.meter m))

/-- The members of meter m by rising position (R104). -/
def Chip.members (c : Chip) (m : Nat) : List Nat :=
  (List.range 4).flatMap fun p =>
    (List.range c.variant.elements).filter fun e => c.meterOf e == some m && c.rd (SFE_ASSIGN_pos e) == p

/-! ### Fundamental frequency (R122–R124) -/

/-- N for a frequency in mHz (R124). -/
def cycleLength (f : Nat) : Nat := (clampI 114 200 (rheDiv 8000000 (f : Int))).toNat

/-- Invalidates the estimate of an element: 8 further valid periods are needed (R123). -/
def Chip.freqInvalid (c : Chip) (n : Nat) : Chip :=
  let was := (c.elem n).freqValid
  let c := c.modElem n fun e => { e with freqValid := false, goodPeriods := 0 }
  if was then c.raiseEv (metPage n) 1 else c

/-- The tracker takes the sample of Stride n with its z (R122, R123). -/
def Element.track (e : Element) (n : Nat) (z hyst : Int) : Element :=
  if e.armed && decide (e.z < 0) && decide (0 ≤ z) then
    let tc : Int := ((n : Int) - 1) * 65536 + (-e.z * 65536) / (z - e.z)
    let good := match e.crossings with
      | [] => 0
      | t :: _ => if 114 * 65536 ≤ tc - t ∧ tc - t ≤ 200 * 65536 then min 8 (e.goodPeriods + 1) else 0
    let freq := match e.crossings.drop 7 with
      | t :: _ => (rheDiv 4194304000000 (tc - t)).toNat
      | [] => e.freq
    { e with
      z := z, armed := false, crossings := (tc :: e.crossings).take 8, goodPeriods := good, sinceCross := 0
      freq := freq, freqValid := good == 8 }
  else { e with z := z, armed := e.armed || decide (z < -hyst * 256), sinceCross := min 256 (e.sinceCross + 1) }

/-- The frequency tracker of element n at Stride s (R122, R123). -/
def Chip.trackFrequency (c : Chip) (n : Nat) : Chip :=
  let e := c.elem n
  let bad := c.pathFault n 0 || e.v.settling
  let z := e.vr * 256 - c.rdS (MET_CAL_OV_o n)
  let c := c.setElem n (e.track c.stride z (c.rd (MET_ZC_CFG_hyst n)))
  let now := (c.elem n).freqValid && !bad
  let c := if bad then c.modElem n fun e => { e with freqValid := false, goodPeriods := 0, crossings := [] } else c
  if now && !e.freqValid then c.raiseEv (metPage n) 0
  else if !now && e.freqValid then c.raiseEv (metPage n) 1
  else c

/-- No crossing for 256 Strides: the estimate is invalid (R123). -/
def freqTimeout (n : Nat) (c : Chip) : Chip :=
  if (c.elem n).sinceCross < 256 then c else c.freqInvalid n

/-- FREQ_TIMEOUT (R123). -/
def execFreqTimeout (n : Nat) (s : State) : Answer := s.effect (freqTimeout n)

/-- The frequency and N of an AC meter for this Stride (R124). -/
def Chip.meterFrequency (c : Chip) (m : Nat) : Chip :=
  let x := c.meter m
  if ¬ x.active ∨ x.dc then c
  else match (c.members m).find? (fun e => (c.elem e).freqValid) with
    | some e =>
      let f := (c.elem e).freq
      c.setMeter m { x with freq := f, n := cycleLength f, srcPos := c.rd (SFE_ASSIGN_pos e), nominal := false }
    | none =>
      let f := if c.flag (MTR_CFG_f_nom m) then 60000 else 50000
      let c := c.setMeter m { x with freq := f, n := cycleLength f, srcPos := 0, nominal := true }
      if x.nominal then c else c.raiseEv (mtrPage m) 6

/-- The frequency, N and gh of an element for this Stride (R119, R124). An element of a DC meter, which uses neither, keeps the values it
had, and its cycle RMS of R140 that N (DESIGN CHOICE, log 104). -/
def Chip.elementFrequency (c : Chip) (n : Nat) : Chip :=
  let e := c.elem n
  let own := (if e.freqValid then e.freq else 50000, !e.freqValid)
  let fn := match c.meterOf n with
    | some m => let x := c.meter m; if x.dc then none else some (x.freq, x.nominal)
    | none => some own
  match fn with
  | none => c
  | some (f, nominal) => c.setElem n { e with n := cycleLength f, gh := hilbertGainAt f, nominal := nominal }

/-! ### The element datapath (R117–R121, R149) -/

/-- The effective delay code of element n (R149). -/
def Chip.delayCode (c : Chip) (n : Nat) : Int :=
  clampI (-524288) 524287 (16 * c.rdS (MET_CAL_PHI_phi n) + c.rdS (SFE_CAL_TTRIM_trim (n / 8)))

/-- The products and the calibrated operands of R117 for an element whose delay lines hold the Stride's samples. -/
def Element.products (e : Element) (gv gi : Nat) (ov oi phi : Int) (dc : Bool) : Element :=
  let taps := delayTaps phi
  let yi := (List.range 16).foldl (fun s k => s + nthI taps k * nthI e.iLine (47 + k)) (0 : Int)
  let y90 := hilbertSum (e.vLine.drop 8)
  let v := rhe ((nthI e.vLine 55 * 256 - ov) * gv) 38
  let i := rhe ((yi - oi * 512) * gi) 47
  let w := rhe (y90 * gv * e.gh) 83
  { e with
    vc := sat24 v, ic := sat24 i, v90 := sat24 w, p := sat24 v * sat24 i, q := if dc then 0 else sat24 w * sat24 i
    clipVc := clips24 v, clipV := clips24 v || clips24 w, clipI := clips24 i }

/-- The sums of R140 and of R109 take the Stride's products. -/
def Element.addSums (e : Element) (forced : Bool) : Element :=
  { e with
    vSquares := (e.vc * e.vc :: e.vSquares).take 200, iSquares := (e.ic * e.ic :: e.iSquares).take 200
    v2Sum := e.v2Sum + e.vc * e.vc, i2Sum := e.i2Sum + e.ic * e.ic, vSum := e.vSum + e.vc, iSum := e.iSum + e.ic
    forced1s := e.forced1s || forced
    window := e.window.map fun r => { r with p := r.p + e.p, strides := r.strides + 1 } }

/-- The datapath of element n in the element-processing window (R117). -/
def Chip.datapath (c : Chip) (n : Nat) : Chip :=
  let phi := c.delayCode n
  let c := c.putS (MET_CAL_DELAY_phi_e n) phi
  let e := c.elem n
  let e := { e with vLine := (e.vr :: e.vLine).take 103, iLine := (e.i :: e.iLine).take 63 }
  let e := e.products (c.rd (MET_CAL_GV_g n)) (c.rd (MET_CAL_GI_g n)) (c.rdS (MET_CAL_OV_o n)) (c.rdS (MET_CAL_OI_o n)) phi
    (c.flag (SFE_ASSIGN_kind n))
  let e := e.addSums (e.zeroAge == 0)
  let clip := e.clipV || e.clipI
  let c := c.setElem n (if clip then { e with clips := (e.clips + 1) % 2 ^ 32 } else e)
  let c := (c.faultIs 2 0x1202 n e.clipV).faultIs 2 0x1203 n e.clipI
  if clip then c.raiseEv (metPage n) 2 else c

/-- The one-second values of every enabled element over the window that ends with this Stride (R140). -/
def oneSecondPublish (c : Chip) : Chip :=
  if c.stride % 8000 ≠ 7999 ∨ c.fold.published1s then c
  else
    let c := forN c.variant.elements (fun n c =>
      if ¬ c.flag (SFE_ECTRL_en n) then c
      else
        let c := c.modElem n fun e =>
          { e with
            vRms1s := isqrt (e.v2Sum.toNat / 8000), iRms1s := isqrt (e.i2Sum.toNat / 8000)
            vDc1s := rheDiv e.vSum 8000, iDc1s := rheDiv e.iSum 8000
            window1s := c.stride / 8000, incomplete1s := e.forced1s }
        c.raiseEv (metPage n) 3) c
    let c := c.openSums
    { c with fold := { c.fold with published1s := true } }

/-- ONE_SECOND_PUBLISH (R140). -/
def execOneSecondPublish (s : State) : Answer := s.effect oneSecondPublish

/-- The cycle RMS of a list of squares, newest first, over the last n Strides (R140). -/
def cycleRms (squares : List Int) (n : Nat) : Nat := isqrt ((sumI (squares.take n)).toNat / n)

/-! ### Meters: status (R105, R121, R130–R132) -/

/-- A meter's inputs are unfit: a member reports a health fault, settles, or delivered a forced zero sample within the last 103
Strides (R131). -/
def Chip.inputsBad (c : Chip) (m : Nat) : Bool :=
  (c.members m).any fun n =>
    let e := c.elem n
    c.unhealthy n || e.v.settling || e.ih.settling || e.il.settling || decide (e.zeroAge < 103)

/-- input_fault sets when the inputs become unfit (R131). -/
def Chip.noteInput (c : Chip) (m : Nat) : Chip :=
  if c.inputsBad m && !(c.meter m).inputFault then
    ((c.modMeter m fun x => { x with inputFault := true }).setFault 3 0x1403 m).raiseEv (mtrPage m) 1
  else c

/-- The inputs of a meter are fit again: input_fault clears (R131). -/
def inputFaultClear (m : Nat) (c : Chip) : Chip :=
  if (c.meter m).inputFault && !c.inputsBad m then
    ((c.modMeter m fun x => { x with inputFault := false }).clearFault 3 0x1403 m).raiseEv (mtrPage m) 2
  else c

/-- INPUT_FAULT_CLEAR (R131). -/
def execInputFaultClear (m : Nat) (s : State) : Answer := s.effect (inputFaultClear m)

/-- MTR_CONST of meter m. -/
def Chip.meterConst (c : Chip) (m : Nat) : Nat := c.rd64 (MTR_CONST_LO_c m) (MTR_CONST_HI_c m)
/-- Cr of meter m. -/
def Chip.meterCr (c : Chip) (m : Nat) : Nat := c.rd64 (MTR_COMP_CR_LO_cr m) (MTR_COMP_CR_HI_cr m)

/-- The meter breaks a rule of R105 or R132. -/
def Chip.cfgBroken (c : Chip) (m : Nat) : Bool :=
  let ms := c.members m
  let dup := (List.range 4).any fun p => 1 < (ms.filter fun e => c.rd (SFE_ASSIGN_pos e) == p).length
  let ac := ms.any fun e => !c.flag (SFE_ASSIGN_kind e)
  let dc := ms.any fun e => c.flag (SFE_ASSIGN_kind e)
  dup || (ac && dc) || (ac && !dc && ms.any fun e => c.rd (SFE_ASSIGN_pos e) == 3) || (!ms.isEmpty && c.meterConst m == 0)

/-- A meter without members measures nothing (R105): its registers of the Stride and its status take their reset values. -/
def Meter.unused (x : Meter) : Meter :=
  { x with
    pRing := [], qRing := [], p := 0, q := 0, sp := 0, sq := 0, a := 0, exporting := false, quadrant := 0, overrange := false
    creepP := false, creepQ := false, inputFault := false, comp := false, tempFault := false, freq := 0, n := 160, srcPos := 0
    nominal := true }

/-- The last member of meter m has left: it reports nothing more (R105). -/
def Chip.meterUnused (c : Chip) (m : Nat) : Chip :=
  let was := (c.meter m).inputFault
  let c := [0x1403, 0x1404, 0x1430].foldl (fun (c : Chip) k => c.clearFault 3 k m) (c.modMeter m Meter.unused)
  if was then c.raiseEv (mtrPage m) 2 else c

/-- The check of meter m at an edge at which an assignment applies (R105, R132). -/
def Chip.checkMeter (c : Chip) (m : Nat) : Chip :=
  let ms := c.members m
  let bad := c.cfgBroken m
  let dc := match ms with
    | e :: _ => c.flag (SFE_ASSIGN_kind e)
    | [] => false
  let was := (c.meter m).cfgFault
  let c := (c.modMeter m fun x => { x with active := !ms.isEmpty, dc := dc, cfgFault := bad }).faultIs 3 0x1402 m bad
  let c := if ms.isEmpty then c.meterUnused m else c
  if bad && !was then c.raiseEv (mtrPage m) 0 else c

/-- Every meter is checked, and elements that name a meter beyond the variant's count are unassigned (R105). -/
def Chip.checkMeters (c : Chip) : Chip :=
  let c := forN c.variant.elements (fun n c =>
    let bad := c.flag (SFE_ASSIGN_assigned n) && decide (c.variant.meters ≤ c.rd (SFE_ASSIGN_meter n))
    let c := (c.setFlag (SFE_ESTATUS_assign_invalid n) bad).faultIs 2 0x1125 n bad
    c.modElem n fun e => { e with assignInvalid := bad }) c
  forN c.variant.meters (fun m c => c.checkMeter m) c

/-- The rings of a meter whose membership changes are cleared, and its frequency is evaluated afresh (R130). -/
def Chip.membershipChanged (c : Chip) (m : Nat) : Chip :=
  (c.modMeter m fun x => { x with pRing := [], qRing := [] }).meterFrequency m

/-! ### Aggregation and sorting (R125–R129) -/

/-- P or Q of a Stride over the members; a disabled element contributes nothing (R125). -/
def Chip.memberSum (c : Chip) (m : Nat) (f : Element → Int) : Int :=
  sumI ((c.members m).map fun n => if c.flag (SFE_ECTRL_en n) then f (c.elem n) else 0)

/-- a of R126; a DC meter's contribution is that of its own P (R129). -/
def apparent (dc : Bool) (p sp sq : Int) (n : Nat) : Nat :=
  if dc then p.natAbs else isqrt (sp.natAbs ^ 2 + sq.natAbs ^ 2) / n

/-- The quadrant of S_P and S_Q: 0–3 for Q1–Q4 (R128). -/
def quadrantOf (sp sq : Int) : Nat := if 0 ≤ sq then (if 0 ≤ sp then 0 else 1) else if sp < 0 then 2 else 3

/-- Meter m in the meter-aggregation window (R125–R127). -/
def Chip.aggregate (c : Chip) (m : Nat) : Chip :=
  let x := c.meter m
  let p := c.memberSum m (fun e => e.p)
  let q := c.memberSum m (fun e => e.q)
  let pr := (p :: x.pRing).take 200
  let qr := (q :: x.qRing).take 200
  let sp := sumI (pr.take x.n)
  let sq := sumI (qr.take x.n)
  let high := (c.members m).any fun n => (c.elem n).clipVc || (c.elem n).clipI
  let act := decide ((if x.dc then 1 else x.n) * c.rd (MTR_CREEP_p_thr m) * 2 ^ 20 ≤ (if x.dc then p else sp).natAbs)
  let rea := !x.dc && decide (x.n * c.rd (MTR_CREEP_q_thr m) * 2 ^ 20 ≤ sq.natAbs)
  let c := c.setMeter m
    { x with
      pRing := pr, qRing := qr, p := p, q := q, sp := sp, sq := sq, a := apparent x.dc p sp sq x.n
      exporting := decide ((if x.dc then p else sp) < 0), quadrant := quadrantOf sp sq, overrange := high
      creepP := !act || x.cfgFault, creepQ := !x.dc && (!rea || x.cfgFault) }
  (c.faultIs 3 0x1404 m high).noteInput m

/-- The additions of a Stride by quantity (R128, R129). -/
def Meter.contributions (x : Meter) : List (Nat × Int) :=
  if x.dc then
    if x.creepP then []
    else if 0 < x.p then [(0, x.p), (6, x.p)]
    else if x.p < 0 then [(1, -x.p), (7, -x.p)]
    else []
  else
    let imp := decide (0 ≤ x.sp)
    (if x.creepP then [] else if imp then [(0, x.p)] else [(1, -x.p)]) ++
      (if x.creepQ then []
        else if 0 ≤ x.sq then [(if imp then 2 else 3, x.q)] else [(if imp then 5 else 4, -x.q)]) ++
      (if x.creepP && x.creepQ then [] else [(if imp then 6 else 7, (x.a : Int))])

/-! ### Accumulators and published registers (R133–R139) -/

/-- Raw accumulator j. -/
def Meter.accOf (x : Meter) (j : Nat) : Int := Sparse.get (fun _ => 0) x.acc j
/-- Base j. -/
def Meter.baseOf (x : Meter) (j : Nat) : Int := Sparse.get (fun _ => 0) x.base j
/-- Provisional total q. -/
def Meter.provOf (x : Meter) (q : Nat) : Int := Sparse.get (fun _ => 0) x.prov q

/-- Adds to raw accumulator j, held at the limits of 96 bits (R133). -/
def Meter.addAcc (x : Meter) (j : Nat) (v : Int) : Meter :=
  let s := x.accOf j + v
  let h := clampI (-(2 ^ 95)) (2 ^ 95 - 1) s
  { x with acc := Sparse.set (fun _ => 0) x.acc j h, saturated := x.saturated || decide (h ≠ s) }

/-- Adds to provisional total q (R145). -/
def Meter.addProv (x : Meter) (q : Nat) (v : Int) : Meter :=
  { x with prov := Sparse.set (fun _ => 0) x.prov q (x.provOf q + v) }

/-- Adds to base j. -/
def Meter.addBase (x : Meter) (j : Nat) (v : Int) : Meter :=
  { x with base := Sparse.set (fun _ => 0) x.base j (x.baseOf j + v) }

/-- X of register j (R134). -/
def Meter.exact (x : Meter) (j : Nat) : Int := x.accOf j * x.c + x.baseOf j

/-- E_j, in mWh (R134). -/
def Meter.published (x : Meter) (j : Nat) : Nat := min (2 ^ 64 - 1) ((x.exact j).toNat / 2 ^ 72)

/-- The 72-bit remainder of register j (R134). -/
def Meter.remainder (x : Meter) (j : Nat) : Nat := (x.exact j).toNat % 2 ^ 72

/-- The rolling register of register j, in Wh (R138). -/
def Meter.rolling (x : Meter) (j : Nat) : Nat := x.published j / 1000 % 2 ^ 32

/-- A display count in units of 10^-dec kWh of an energy in mWh (R139). -/
def displayCount (e digits dec : Nat) : Nat := e / 10 ^ (6 - min 3 dec) % 10 ^ (clampN 6 10 digits)

/-- The display count of register j of meter m (R139). -/
def Chip.meterDisplay (c : Chip) (m j : Nat) : Nat :=
  displayCount ((c.meter m).published j) (c.rd (MTR_DISP_digits m)) (c.rd (MTR_DISP_dec m))

/-- Meter m has the bit of a pair of 48-bit enable registers. -/
def Chip.meterBit (c : Chip) (lo hi : Fld) (m : Nat) : Bool := if m < 32 then bit (c.rd lo) m else bit (c.rd hi) (m - 32)

/-- The tariff register that takes the energy of meter m (R190). -/
def Chip.tariffOf (c : Chip) (m : Nat) : Nat :=
  if c.meterBit TRF_USE_LO_use TRF_USE_HI_use m then c.trf.now else 1

/-- Energy of a hand-over goes into the bases of meter m: the totals, and the registers of tariff t or of T1 (R166, R190). -/
def Chip.creditEnergy (c : Chip) (t m : Nat) (energy : List Int) : Chip :=
  let j := if c.meterBit TRF_USE_LO_use TRF_USE_HI_use m then t else 1
  c.modMeter m fun y => forN 8 (fun q y => (y.addBase (9 * q) (nthI energy q)).addBase (9 * q + j) (nthI energy q)) y

/-- The Stride's additions to the accumulators of a meter under tariff t, or to its provisional totals (R133, R145). -/
def Meter.accumulate (x : Meter) (t : Nat) : Meter :=
  x.contributions.foldl (fun (x : Meter) k =>
    if x.provisional then x.addProv k.1 k.2 else (x.addAcc (9 * k.1) k.2).addAcc (9 * k.1 + t) k.2) x

/-- The Stride's additions to the open demand sub-interval, scaled by C (R196). -/
def Meter.demandAdd (x : Meter) : Meter :=
  if x.provisional then x
  else x.contributions.foldl (fun (x : Meter) k =>
    if k.1 = 0 then { x with zImp := x.zImp + k.2 * x.c }
    else if k.1 = 1 then { x with zExp := x.zExp + k.2 * x.c }
    else x) x

/-- neg, saturated and their events and faults follow the registers (R133, R134). -/
def Chip.noteRegisters (c : Chip) (m : Nat) (before : Meter) : Chip :=
  let x := c.meter m
  let neg := (List.range 72).any fun j => decide (x.exact j < 0)
  let sat := x.saturated || (List.range 72).any fun j => decide (2 ^ 64 ≤ (x.exact j).toNat / 2 ^ 72)
  let c := c.setMeter m { x with neg := neg, saturated := sat }
  let c := (c.faultIs 3 0x1408 m neg).faultIs 3 0x1409 m sat
  let c := if neg && !before.neg then c.raiseEv (mtrPage m) 4 else c
  if sat && !before.saturated then c.raiseEv (mtrPage m) 5 else c

/-! ### Compensation (R162, R163) -/

/-- T_q of port p: none while its channel is faulted or absent; Near's value in the Off role (R162). -/
def Chip.portTemp (c : Chip) (p : Nat) : Option Int :=
  if c.isOff ∧ ¬ c.flag HRN_STATUS_detached then Sparse.get (fun _ => none) c.fold.nearTemp p
  else if c.variant.ports ≤ p ∨ c.flag (OPT_STATUS_temp_fault p) ∨ c.rd (OPT_CFG_temp_type p) = 0 ∨
      c.rd (OPT_CFG_temp_type p) = 3 then none
  else some (c.rdS (OPT_TEMP_t p))

/-- Rc_q for a temperature (R162). -/
def cableResistance (rc20 : Nat) (alpha t : Int) : Nat :=
  (clampI 0 (2 ^ 32 - 1) (rc20 + rheDiv (rc20 * alpha * (t - 320)) 4096000)).toNat

/-- T_q and Rc_q of meter m take values (R162). -/
def Chip.setCableTemp (c : Chip) (m : Nat) : Chip :=
  let t := c.portTemp (c.rd (MTR_COMP_CFG_port m))
  let v := t.getD (c.rdS (MTR_COMP_CFG_t_fallback m))
  let rc := cableResistance (c.rd (MTR_RC20_rc20 m)) (c.rdS (MTR_ALPHA_alpha m)) v
  (c.modMeter m fun x => { x with temp := v, tempFault := t.isNone, rc := rc }).faultIs 3 0x1430 m t.isNone

/-- Compensation acts on meter m: a DC meter with comp_en (R163). -/
def Chip.compensates (c : Chip) (m : Nat) : Bool :=
  let x := c.meter m
  x.active && x.dc && c.flag (MTR_COMP_CFG_comp_en m)

/-- The loss sums of a meter take a Stride with I2 (R162). -/
def Meter.addLoss (x : Meter) (i2 : Nat) : Meter :=
  if x.creepP || x.provisional then x
  else
    let add (l : Nat) : Nat × Bool := (min (2 ^ 128 - 1) (l + i2 * x.rc), decide (2 ^ 128 ≤ l + i2 * x.rc))
    let x := { x with i2 := (x.i2 + i2) % 2 ^ 96 }
    if 0 < x.p then { x with lossImp := (add x.lossImp).1, compSaturated := x.compSaturated || (add x.lossImp).2 }
    else if x.p < 0 then { x with lossExp := (add x.lossExp).1, compSaturated := x.compSaturated || (add x.lossExp).2 }
    else x

/-- The import and export arguments of R163. -/
def Meter.compImport (x : Meter) : Int := x.exact 0 * 2 ^ 32 - (x.lossImp * x.cr : Nat) - x.baseLossImp
def Meter.compExport (x : Meter) : Int := x.exact 9 * 2 ^ 32 + (x.lossExp * x.cr : Nat) + x.baseLossExp

/-- The compensated totals: those of R134 while compensation does not act (R163). -/
def Meter.compTotal (x : Meter) (imp : Bool) : Nat :=
  if ¬ x.comp then x.published (if imp then 0 else 9)
  else min (2 ^ 64 - 1) ((if imp then x.compImport else x.compExport).toNat / 2 ^ 104)

/-- Meter m in the ledger window: the loss sums, which stand while the meter is in configuration fault (R162). A meter whose compensation
stops reports no temperature fault more (R170). From the Stride in which comp_en becomes 1 to the next one divisible by 8 the loss uses
the Rc_q last formed, 0 when none has been (DESIGN CHOICE, log 117: the spec does not say). -/
def Chip.compensate (c : Chip) (m : Nat) : Chip :=
  let on := c.compensates m
  let c := c.modMeter m fun x => { x with comp := on, tempFault := on && x.tempFault }
  if ¬ on then c.clearFault 3 0x1430 m
  else if (c.meter m).cfgFault then c
  else
    let c := if c.stride % 8 = 0 then c.setCableTemp m else c
    let i2 := (c.memberSum m (fun e => e.ic * e.ic)).toNat
    let c := c.modMeter m fun x =>
      let x := x.addLoss i2
      let big := decide (2 ^ 64 ≤ x.compImport.toNat / 2 ^ 104) || decide (2 ^ 64 ≤ x.compExport.toNat / 2 ^ 104)
      { x with compSaturated := x.compSaturated || big }
    c.faultIs 3 0x1432 m (c.meter m).compSaturated

/-- C or Cr of meter m changes at an edge: the bases keep every published value, and the loss keeps its old conversion (R136,
R163). -/
def Chip.constantChange (c : Chip) (m : Nat) : Chip :=
  let x := c.meter m
  let new := c.meterConst m
  let cr := c.meterCr m
  let d : Int := (x.c : Int) - new
  let y := (List.range 72).foldl (fun (y : Meter) j => if y.accOf j = 0 then y else y.addBase j (y.accOf j * d)) x
  let e : Int := (cr : Int) - x.cr
  let c := c.setMeter m
    { y with
      c := new, cr := cr, baseLossImp := x.baseLossImp + x.lossImp * e, baseLossExp := x.baseLossExp + x.lossExp * e }
  if new ≠ x.c then c.raiseEv (mtrPage m) 7 else c

/-- MTR_STATUS of a meter (R144); freq_nominal is that of an AC meter (R124). -/
def Meter.statusWord (x : Meter) : Nat :=
  x.active.toNat + 2 * x.dc.toNat + 4 * x.cfgFault.toNat + 8 * x.inputFault.toNat + 16 * x.overrange.toNat +
    32 * (x.nominal && x.active && !x.dc).toNat +
    64 * x.creepP.toNat + 128 * x.creepQ.toNat + 256 * x.neg.toNat + 512 * x.saturated.toNat + 1024 * x.provisional.toNat +
    2048 * x.restored.toNat

/-! ### What every Stride does -/

/-- Meter m in the ledger window, step 1 of R202: its energy, loss and demand; a meter in configuration fault adds nothing (R105,
R206). -/
def Chip.meterLedger (c : Chip) (m : Nat) : Chip :=
  let before := c.meter m
  if ¬ before.active then c
  else
    let on := c.meterBit DMD_EN_LO_en DMD_EN_HI_en m && c.dmd.isOpen
    let c := if before.cfgFault then c
      else c.modMeter m fun x => let x := x.accumulate (c.tariffOf m); if on then x.demandAdd else x
    let c := c.compensate m
    let flags := (if before.provisional then 512 else 0) ||| (if before.inputFault then 1024 else 0)
    if on then c.modMeter m fun x => { x with zFlags := x.zFlags ||| flags } else c

/-- The registers of meter m after the energy of a Stride and of a hand-over, `old` being the block before both: neg and saturated, and
the rollover of a display count, which has wrapped where it falls while its energy does not (R134, R139). -/
def Chip.settleRegisters (c old : Chip) (m : Nat) : Chip :=
  let before := old.meter m
  if c.meter m = before then c
  else
    let c := c.noteRegisters m before
    let wraps := (List.range 8).any fun q =>
      decide (c.meterDisplay m (9 * q) < old.meterDisplay m (9 * q)) &&
        decide (before.published (9 * q) ≤ (c.meter m).published (9 * q))
    if wraps then c.raiseEv (mtrPage m) 3 else c

/-- The element-processing and meter-aggregation windows of a Stride (R38): frequencies as they stood at the end of the Stride
before, then every element and every meter. -/
def Chip.measure (c : Chip) : Chip :=
  let c := forN c.variant.meters (fun m c => c.meterFrequency m) c
  let c := forN c.variant.elements (fun n c =>
    if ¬ c.flag (SFE_ECTRL_en n) then c else ((c.elementFrequency n).datapath n).trackFrequency n) c
  forN c.variant.meters (fun m c => if (c.meter m).active then c.aggregate m else c) c

end Sys2Proof.Machine
end

