-- ==== Sys2Proof/Machine/Quality.lean ====
section
/-! DEFINITION. Sag, swell and interruption detection: half-cycle windows, detectors, aggregates and event records (R171–R186). -/

namespace Sys2Proof.Machine

/-- The base of the PQM page of element n. -/
def pqmPage (n : Nat) : Nat := 0x401C0000 + n * 0x1000

/-- The block with the power-quality state of an element changed. -/
def Chip.modPq (c : Chip) (n : Nat) (f : Quality → Quality) : Chip := c.modElem n fun e => { e with pq := f e.pq }

/-- The open event of kind k: 1 sag, 2 swell, 3 interruption. -/
def Quality.event (q : Quality) (k : Nat) : Option OpenEvent := if k = 1 then q.sag else if k = 2 then q.swell else q.intr

/-- The state with the open event of kind k replaced. -/
def Quality.setEvent (q : Quality) (k : Nat) (e : Option OpenEvent) : Quality :=
  if k = 1 then { q with sag := e } else if k = 2 then { q with swell := e } else { q with intr := e }

/-- Some event is open. -/
def Quality.anyOpen (q : Quality) : Bool := q.sag.isSome || q.swell.isSome || q.intr.isSome

/-- The open aggregate event of kind k of a meter. -/
def Meter.aggregateEvent (x : Meter) (k : Nat) : Option OpenEvent := if k = 1 then x.aggSag else if k = 2 then x.aggSwell else x.aggIntr

/-- The meter with its aggregate event of kind k replaced. -/
def Meter.setAggregate (x : Meter) (k : Nat) (e : Option OpenEvent) : Meter :=
  if k = 1 then { x with aggSag := e } else if k = 2 then { x with aggSwell := e } else { x with aggIntr := e }

/-! ### Levels (R174) -/

/-- The start level and the hysteresis of detector k of element n, in 0.01 % of Udin. -/
def Chip.dipLevels (c : Chip) (n k : Nat) : Nat × Nat :=
  if k = 1 then (c.rd (PQM_SAG_start n), c.rd (PQM_SAG_hyst n))
  else if k = 2 then (c.rd (PQM_SWELL_start n), c.rd (PQM_SWELL_hyst n))
  else (c.rd (PQM_INTR_start n), c.rd (PQM_INTR_hyst n))

/-- Detector k starts at U (R174). -/
def dipStarts (k start udin u : Nat) : Bool :=
  if k = 2 then decide (start * udin < u * 10000) else decide (u * 10000 < start * udin)

/-- Detector k ends at U (R174). -/
def dipEnds (k start hyst udin u : Nat) : Bool :=
  if k = 2 then decide (start < hyst) || decide (u * 10000 ≤ (start - hyst) * udin)
  else decide ((start + hyst) * udin ≤ u * 10000)

/-- The more extreme of two values of kind k (R176). -/
def dipExtreme (k a b : Nat) : Nat := if k = 2 then max a b else min a b

/-! ### Records (R182) -/

/-- What a record names: element, meter, kind, flags, phase mask, position and Udin. -/
structure DipTag where
  element : Nat
  meter : Nat
  kind : Nat
  flags : Nat
  mask : Nat
  pos : Nat
  udin : Nat
  deriving DecidableEq, Repr

/-- The 52 bytes of a record before its sequence (R182). -/
def dipRecord (t : DipTag) (e : OpenEvent) (end_ : Nat) : List Nat :=
  let at_ := e.clock - 8893600 * 2 ^ 32
  let d := min (2 ^ 32 - 1) (end_ - e.start)
  [t.kind, t.flags, t.mask, t.pos, t.element, t.meter, 0, 0] ++ leBytes 8 e.start ++ leBytes 8 e.lc ++ leBytes 6 (clockSec at_) ++
    [0, 0] ++ leBytes 4 (clockNs at_) ++ leBytes 4 d ++ leBytes 4 (min (2 ^ 32 - 1) (rhe (end_ - e.start : Nat) 3).toNat) ++
    leBytes 4 e.extreme ++ leBytes 2 (min 0xFFFF (rheDiv (e.extreme * 10000 : Nat) t.udin).toNat) ++ [0, 0]

/-- The ledger clock was held or corrected in a Stride from `first` up to `stop`, within the last 512 Strides (R184). -/
def Chip.touchedIn (c : Chip) (first stop : Nat) : Bool := c.fold.touches.any fun x => decide (first ≤ x) && decide (x < stop)

/-- The open event with the holds and corrections of its Strides before `stop`. -/
def Chip.touch (c : Chip) (stop : Nat) (e : OpenEvent) : OpenEvent := { e with touched := e.touched || c.touchedIn e.start stop }

/-- The flags of a record of an event that ends at Stride `stop`, beside the given ones (R182). -/
def Chip.dipFlags (c : Chip) (e : OpenEvent) (flags stop : Nat) : Nat :=
  flags + 32 * e.invalid.toNat + 64 * (c.touch stop e).touched.toNat + 128 * c.isOff.toNat

/-- The element at position 0 of meter m declares aggregation, and the meter is AC (R179). -/
def Chip.aggregated (c : Chip) (m : Nat) : Bool :=
  let x := c.meter m
  x.active && !x.dc && match c.members m with
    | e :: _ => c.rd (SFE_ASSIGN_pos e) == 0 && c.flag (PQM_CFG_agg e)
    | [] => false

/-- The element's records are its aggregate's (R180). -/
def Chip.inAggregate (c : Chip) (n : Nat) : Bool :=
  match c.meterOf n with
  | some m => c.aggregated m
  | none => false

/-- The record of an event of kind k of element n that ends at Stride `stop`. -/
def Chip.elementRecord (c : Chip) (n k flags stop : Nat) (e : OpenEvent) : List Nat :=
  let pos := if (c.meterOf n).isSome then c.rd (SFE_ASSIGN_pos n) else 0
  let tag : DipTag :=
    { element := n, meter := (c.meterOf n).getD 0xFF, kind := k
      flags := c.dipFlags e (flags + 2 * c.rd (SFE_ASSIGN_kind n)) stop, mask := 2 ^ pos, pos := pos, udin := c.rd (PQM_UDIN_udin n) }
  dipRecord tag e stop

/-- The record of an aggregate event of kind k of meter m that ends at Stride `stop` (R180). -/
def Chip.aggregateRecord (c : Chip) (m k flags stop : Nat) (e : OpenEvent) : List Nat :=
  let first := (c.members m).headD 0
  let who := ((c.members m).find? fun n => c.rd (SFE_ASSIGN_pos n) == e.pos).getD first
  let tag : DipTag :=
    { element := first, meter := m, kind := k, flags := c.dipFlags e (1 + flags) stop, mask := e.mask, pos := e.pos
      udin := c.rd (PQM_UDIN_udin who) }
  dipRecord tag e stop

/-- A record waits for the others of its Stride (R183). -/
def Chip.noteDip (c : Chip) (r : DipRecord) : Chip := { c with fold := { c.fold with dipRecords := c.fold.dipRecords ++ [r] } }

/-- An event of element n closes with its extreme: the counts, the event, and its record unless the meter aggregates (R175, R180,
R181). -/
def Chip.closeDip (c : Chip) (n k flags stop : Nat) : Chip :=
  match (c.elem n).pq.event k with
  | none => c
  | some e =>
    let c := c.modPq n fun q =>
      let q := q.setEvent k none
      if k = 1 then { q with sags := (q.sags + 1) % 65536 }
      else if k = 2 then { q with swells := (q.swells + 1) % 65536 }
      else { q with intrs := (q.intrs + 1) % 65536 }
    let c := (c.raiseEv (pqmPage n) (2 * k - 1)).setRaw (pqmPage n) 7 ((c.elem n).pq.anyOpen)
    let c := { c with fold := { c.fold with dipsClosed := c.fold.dipsClosed ++ [{ element := n, kind := k, stop := stop }] } }
    if c.inAggregate n then c
    else c.noteDip { aggregate := false, index := n, kind := k, body := c.elementRecord n k flags stop e }

/-- Every open event of element n closes at a Stride with the given flag. -/
def Chip.closeDips (c : Chip) (n flags end_ : Nat) : Chip :=
  ((c.closeDip n 1 flags end_).closeDip n 2 flags end_).closeDip n 3 flags end_

/-! ### Detectors (R175, R176) -/

/-- Detector k of element n evaluates the U of a window. -/
def Chip.detect (c : Chip) (n k u : Nat) (w : DipWindow) : Chip :=
  let (start, hyst) := c.dipLevels n k
  let udin := c.rd (PQM_UDIN_udin n)
  match (c.elem n).pq.event k with
  | none =>
    if dipStarts k start udin u then
      let e : OpenEvent := { start := w.start, lc := w.lc, clock := w.clock, extreme := u, invalid := w.invalid }
      let c := c.modPq n fun q => q.setEvent k (some e)
      (c.raiseEv (pqmPage n) (2 * k - 2)).setRaw (pqmPage n) 7 true
    else c
  | some e =>
    if dipEnds k start hyst udin u then c.closeDip n k 0 w.start
    else c.modPq n fun q => q.setEvent k (some { c.touch w.start e with extreme := dipExtreme k e.extreme u })

/-- Element n evaluates the window that ended in this Stride (R171, R172, R177). -/
def Chip.evalWindow (c : Chip) (n : Nat) : Chip :=
  match (c.elem n).pq.done with
  | none => c
  | some w =>
    let c := c.modPq n fun q => { q with done := none }
    if ¬ c.flag (PQM_CFG_en n) ∨ c.rd (PQM_UDIN_udin n) = 0 ∨ (c.elem n).pq.suspended then c
    else
      let shown : Int := if c.flag (SFE_ASSIGN_kind n) then rhe w.sum 3 else (isqrt (w.sum.toNat / w.len) : Nat)
      let c := c.modPq n fun q => { q with lastU := shown, lastLen := w.len }
      ((c.detect n 1 shown.natAbs w).detect n 2 shown.natAbs w).detect n 3 shown.natAbs w

/-! ### Aggregates (R179, R180) -/

/-- The members of an aggregate with detection on. -/
def Chip.aggregateMembers (c : Chip) (m : Nat) : List Nat :=
  (c.members m).filter fun n => decide (c.rd (SFE_ASSIGN_pos n) < 3) && c.flag (PQM_CFG_en n)

/-- The members with an open event of kind k, with their events. -/
def Chip.openMembers (c : Chip) (m k : Nat) : List (Nat × OpenEvent) :=
  (c.aggregateMembers m).filterMap fun n => ((c.elem n).pq.event k).map fun e => (n, e)

/-- The aggregate of kind k takes in the members' open events: mask, extreme and its position; holds and corrections of its Strides that
lie behind every window still to be evaluated. -/
def Chip.takeMembers (c : Chip) (k : Nat) (e : OpenEvent) (l : List (Nat × OpenEvent)) : OpenEvent :=
  l.foldl (fun (e : OpenEvent) x =>
    let pos := c.rd (SFE_ASSIGN_pos x.1)
    let better := dipExtreme k e.extreme x.2.extreme != e.extreme
    { e with
      mask := e.mask ||| 2 ^ pos, extreme := dipExtreme k e.extreme x.2.extreme, pos := if better then pos else e.pos })
    (c.touch (c.stride - 256) e)

/-- The aggregate of kind k of meter m follows its members, with the events that they have closed since it was last evaluated. -/
def Chip.aggregateStep (c : Chip) (m k flags : Nat) : Chip :=
  let ms := c.aggregateMembers m
  let l := c.openMembers m k
  let stops := (c.fold.dipsClosed.filter fun d => d.kind == k && ms.contains d.element).map fun d => d.stop
  match (c.meter m).aggregateEvent k with
  | none =>
    if (k ≠ 3 ∧ ¬ l.isEmpty) ∨ (k = 3 ∧ ¬ ms.isEmpty ∧ l.length = ms.length) then
      let first := l.foldl (fun (b : Option OpenEvent) x =>
        match b with
        | none => some x.2
        | some e => if (if k = 3 then e.start < x.2.start else x.2.start < e.start) then some x.2 else b) none
      match first, l with
      | some f, (n, y) :: _ =>
        let e : OpenEvent := { f with extreme := y.extreme, pos := c.rd (SFE_ASSIGN_pos n), mask := 0, touched := false }
        c.modMeter m fun x => x.setAggregate k (some (c.takeMembers k e l))
      | _, _ => c
    else c
  | some e =>
    let e := c.takeMembers k e l
    if l.isEmpty ∨ (k = 3 ∧ ¬ stops.isEmpty) then
      let stop := match stops with
        | [] => c.stride
        | s :: r => r.foldl (fun (x y : Nat) => if k = 3 then min x y else max x y) s
      let fault := !ms.isEmpty && ms.all fun n => (c.elem n).pq.suspended
      (c.modMeter m fun x => x.setAggregate k none).noteDip
        { aggregate := true, index := m, kind := k, body := c.aggregateRecord m k (flags + 4 * fault.toNat) stop e }
    else c.modMeter m fun x => x.setAggregate k (some e)

/-- Every aggregate follows its members, once all of them have been handled (R179). -/
def Chip.aggregateAll (c : Chip) (flags : Nat) : Chip :=
  let c := forN c.variant.meters (fun m c =>
    if c.aggregated m then ((c.aggregateStep m 1 flags).aggregateStep m 2 flags).aggregateStep m 3 flags else c) c
  { c with fold := { c.fold with dipsClosed := [] } }

/-- A meter that an application at the edge of Stride s takes out of aggregation closes its aggregate events with the
configuration-change flag; `before` is the block before the application (R184). -/
def Chip.endAggregates (c before : Chip) (s : Nat) : Chip :=
  forN c.variant.meters (fun m c =>
    if before.aggregated m && !c.aggregated m then
      forN 3 (fun k c =>
        match (c.meter m).aggregateEvent (k + 1) with
        | some e => (c.modMeter m fun x => x.setAggregate (k + 1) none).noteDip
            { aggregate := true, index := m, kind := k + 1, body := before.aggregateRecord m (k + 1) 8 s e }
        | none => c) c
    else c) c

/-- The place of a record in the order of R183. -/
def DipRecord.rank (r : DipRecord) : Nat := 2 ^ 16 * r.aggregate.toNat + 4 * r.index + r.kind

/-- A record takes its place, behind those of the same rank. -/
def placeDip (r : DipRecord) : List DipRecord → List DipRecord
  | [] => [r]
  | x :: l => if r.rank < x.rank then r :: x :: l else x :: placeDip r l

/-- The records of the Stride are written in the order of R183. -/
def Chip.writeDips (c : Chip) : Chip :=
  let l := c.fold.dipRecords.foldl (fun (l : List DipRecord) r => placeDip r l) []
  l.foldl (fun (c : Chip) r => c.appendLog 1 r.body) { c with fold := { c.fold with dipRecords := [] } }

/-- The windows that ended in this Stride are evaluated: elements by rising index, then aggregates; the Stride's records are written
(R175, R183). -/
def pqWindowEval (c : Chip) : Chip :=
  ((forN c.variant.elements (fun n c => c.evalWindow n) c).aggregateAll 0).writeDips

/-- PQ_WINDOW_EVAL (R175). -/
def execPqWindowEval (s : State) : Answer := s.effect pqWindowEval

/-! ### Suspension and restarts (R173, R178, R184) -/

/-- Windows of element n restart; the one in progress is discarded (R173). -/
def Chip.restartWindows (c : Chip) (n : Nat) : Chip :=
  c.modPq n fun q => { q with window := {}, second := false, done := none }

/-- The conditions of R177 and R178 hold for element n. -/
def Chip.unfitForQuality (c : Chip) (n : Nat) : Bool :=
  let e := c.elem n
  !c.pathOn n 0 || c.pathFault n 0 || e.v.settling || decide (e.zeroAgeV < 103)

/-- Element n enters suspension: its open events close at Stride s with the input-fault flag (R178). -/
def Chip.suspend (c : Chip) (n s : Nat) : Chip :=
  if (c.elem n).pq.suspended then c
  else (((c.modPq n fun q => { q with suspended := true }).restartWindows n).raiseEv (pqmPage n) 6).closeDips n 4 s

/-- A change at the edge of Stride s closes the open events of element n with the configuration-change flag; windows restart (R184).
It runs before the change takes effect. -/
def Chip.qualityChange (c : Chip) (n s : Nat) : Chip := (c.closeDips n 8 s).restartWindows n

/-! ### What every Stride does (R171, R172) -/

/-- The window of element n takes the Stride's v_c. A DC window covers the 8 Strides from a number divisible by 8, so that one that a load
of the Stride number has cut is discarded. -/
def Chip.windowStride (c : Chip) (n : Nat) : Chip :=
  let e := c.elem n
  let dc := c.flag (SFE_ASSIGN_kind n)
  let q := e.pq
  let len := if dc && q.window.len != c.stride % 8 then 0 else q.window.len
  if dc ∧ len ≠ c.stride % 8 then c.modPq n fun q => { q with window := {} }
  else
    let n0 := if len = 0 ∧ ¬ q.second then e.n else q.n
    let w : DipWindow := if len = 0 then
        { start := c.stride, lc := c.lc, clock := c.fold.edgeClock, invalid := c.flag TIM_LEDGER_ST_time_invalid }
      else q.window
    let h := if dc then 8 else if q.second then n0 - n0 / 2 else n0 / 2
    let w := { w with len := w.len + 1, sum := w.sum + (if dc then e.vc else e.vc * e.vc) }
    c.modPq n fun q =>
      if h ≤ w.len then { q with n := n0, window := {}, done := some w, second := !dc && !q.second }
      else { q with n := n0, window := w }

/-- Element n in the power-quality part of a Stride: suspension follows its conditions, and windows run while it is enabled; an element
that is disabled with an event open is suspended. -/
def Chip.qualityStride (c : Chip) (n : Nat) : Chip :=
  if ¬ c.flag (SFE_ECTRL_en n) ∧ ¬ (c.elem n).pq.anyOpen then c
  else if c.unfitForQuality n then c.suspend n c.stride
  else
    let c := if (c.elem n).pq.suspended then (c.modPq n fun q => { q with suspended := false }).restartWindows n else c
    if c.flag (PQM_CFG_en n) then c.windowStride n else c.restartWindows n

/-- The ledger clock is held or corrected in this Stride (R184). -/
def Chip.noteTouch (c : Chip) : Chip :=
  { c with
    fold := { c.fold with
      touches := c.stride :: c.fold.touches.filter fun x => decide (x < c.stride) && decide (c.stride < x + 512) } }

/-! ### New values of the front end -/

/-- The pages of an application that are elements' MET pages (R154), PQM pages and SFE pages. -/
def pagesOf (v : Variant) (b : Blk) (pages : List Nat) : List Nat :=
  pages.filterMap fun p =>
    match locate v p with
    | some (x, n) => if x = b then some n else none
    | none => none

/-- What follows from the new values of the front end and of the elements (R87, R93, R101, R142): windows are discarded, enabled elements
settle, and a bank's ratio and offset govern. -/
def Chip.appliedElements (c before : Chip) (pages : List Nat) : Chip :=
  let c := (pagesOf c.variant .sfe pages).foldl (fun (c : Chip) n =>
    let c := c.modElem n fun e => { e with window := none }
    if c.flag (SFE_ECTRL_en n) && !before.flag (SFE_ECTRL_en n) then
      (c.elementEnabled n).restartWindows n
    else if c.flag (SFE_ECTRL_en n) then
      (forN 3 (fun k c => if c.pathOn n k && !before.pathOn n k then c.settlePath n k else c) c).showSettling n
    else c) c
  let c := (pagesOf c.variant .met pages).foldl (fun (c : Chip) n =>
    (c.modElem n fun e => { e with window := none, pending := none }).applyRatio n (c.rd (MET_CAL_RATIO n))
      (c.rdS (MET_CAL_ROFS n))) c
  if pages.contains sfgPage then
    (forN c.variant.elements (fun n c =>
      if c.flag (SFE_CTRL_mclk_en.bitOf (n / 8)) != before.flag (SFE_CTRL_mclk_en.bitOf (n / 8)) then
        c.modElem n fun e => { e with window := none }
      else c) c).clockGroups true
  else c

/-- Journalled values of staged registers are in force (R216, R225): what follows for the elements on the given pages, the checks of
R105 and R132, the rings of meters whose members change (R130), and the CRCs of the calibration image (R153). -/
def Chip.appliedReplay (c before : Chip) (pages : List Nat) : Chip :=
  let c := (c.appliedElements before pages).checkMeters
  let c := forN c.variant.meters (fun m c => if c.members m = before.members m then c else c.membershipChanged m) c
  { c with fold := { c.fold with crcDue := true, crcStgDue := true } }

end Sys2Proof.Machine
end

