-- ==== Sys2Proof/Machine/SafetyCore.lean ====
section
/-! DEFINITION. The safety function's shared operations: Flock states and their causes, faults and demands, the cut outputs, safe_ok,
recoveries, the seal words and the site parameter block (R299–R305, R324–R337, R340, R344). -/

namespace Sys2Proof.Machine

/-! ### Causes -/

/-- The bits of SAF_FLOCK_ST that name causes (R341). -/
def causeRcm : Nat := 2
def causeEstop : Nat := 3
def causeNet : Nat := 4
def causePeer : Nat := 5
def causeSingle : Nat := 6
def causeWeld : Nat := 7
def causePower : Nat := 8
def causeFault : Nat := 9
def causeDouble : Nat := 10
def causeOutput : Nat := 11
def causeStop : Nat := 12
def causeStart : Nat := 13

/-- What stands behind a cause: the kind times 256 plus the unit; 0 for what only a release ends. -/
def unitRcmA (n : Nat) : Nat := 0x100 + n
def unitRcmB (n : Nat) : Nat := 0x200 + n
def unitSensor (n : Nat) : Nat := 0x300 + n
def unitBands (n : Nat) : Nat := 0x400 + n
def unitTest (n : Nat) : Nat := 0x500 + n
def unitSealChange (n : Nat) : Nat := 0x600 + n
def unitSealDiffer (n : Nat) : Nat := 0x700 + n
def unitEstop (k : Nat) : Nat := 0x800 + k
def unitShort (k : Nat) : Nat := 0x900 + k
def unitCoil (n : Nat) : Nat := 0xA00 + n
def unitWeld (n : Nat) : Nat := 0xB00 + n
def unitStuckOn (o : Nat) : Nat := 0xC00 + o
def unitStuckOff (o : Nat) : Nat := 0xD00 + o
def unitSilent (n : Nat) : Nat := 0xF00 + n
def unitPower : Nat := 0x1000
def unitPeer (i : Nat) : Nat := 0x1100 + i
def unitSingleEnd : Nat := 0x1200
def unitTwinCut (f : Nat) : Nat := 0x1300 + f
/-- Module-wide faults. -/
def unitCrook : Nat := 0xE00
def unitOverrun : Nat := 0xE01
def unitStrap : Nat := 0xE02
def unitBlock : Nat := 0xE03
def unitWatchdog : Nat := 0xE04
def unitLockstep : Nat := 0xE05
def unitEcc : Nat := 0xE06

/-- The channels that a condition concerns, as byte 5 of a safety-log record codes them: 1 channel A, 2 channel B, 3 both (R340). -/
def unitChannels (unit : Nat) : Nat :=
  let kind := unit / 256
  if kind = 0x1 ∨ unit = unitCrook then 1
  else if [0x4, 0x6, 0x7, 0x8, 0x9].contains kind ∨ unit = unitStrap ∨ unit = unitBlock then 3
  else if kind = 0xC ∨ kind = 0xD then (if unit % 256 < 8 then 2 else 1)
  else 2

/-- The base of the SAF page. -/
def safPage : Nat := 0x40400000
/-- The base of the page of RCMn. -/
def rcmPage (n : Nat) : Nat := 0x40420000 + n * 0x1000
/-- The base of the page of IMDk. -/
def imdPage (k : Nat) : Nat := 0x40440000 + k * 0x1000

/-- The block with the safety state changed. -/
def Chip.setSaf (c : Chip) (f : Safety → Safety) : Chip := { c with saf := f c.saf }

/-- A Flock's safety state. -/
def Chip.flock (c : Chip) (f : Nat) : Flock := Sparse.get (fun _ => {}) c.saf.flocks f

/-- The block with a Flock's safety state changed. -/
def Chip.setFlock (c : Chip) (f : Nat) (g : Flock → Flock) : Chip :=
  c.setSaf fun s => { s with flocks := Sparse.set (fun _ => {}) s.flocks f (g (c.flock f)) }

/-- A port's residual-current supervision. -/
def Chip.residual (c : Chip) (n : Nat) : Residual := Sparse.get (fun _ => {}) c.saf.rcm n

/-- The block with a port's residual-current supervision changed. -/
def Chip.setResidual (c : Chip) (n : Nat) (g : Residual → Residual) : Chip :=
  c.setSaf fun s => { s with rcm := Sparse.set (fun _ => {}) s.rcm n (g (c.residual n)) }

/-- An insulation channel. -/
def Chip.insulation (c : Chip) (k : Nat) : Insulation := Sparse.get (fun _ => {}) c.saf.imd k

/-- The block with an insulation channel changed. -/
def Chip.setInsulation (c : Chip) (k : Nat) (g : Insulation → Insulation) : Chip :=
  c.setSaf fun s => { s with imd := Sparse.set (fun _ => {}) s.imd k (g (c.insulation k)) }

/-- An emergency stop. -/
def Chip.estop (c : Chip) (k : Nat) : Estop := Sparse.get (fun _ => {}) c.saf.estops k

/-- The block with an emergency stop changed. -/
def Chip.setEstop (c : Chip) (k : Nat) (g : Estop → Estop) : Chip :=
  c.setSaf fun s => { s with estops := Sparse.set (fun _ => {}) s.estops k (g (c.estop k)) }

/-- The state of a Flock (R303). -/
def Chip.flockState (c : Chip) (f : Nat) : Nat := c.rd (SAF_FLOCK_ST_state f)

/-- The Flock of a port: the port map of the stored block (R335). -/
def Chip.flockOf (c : Chip) (n : Nat) : Nat := c.rd (OPT_STATUS_flock n)

/-- The mask of every Flock of the variant. -/
def Chip.allFlocks (c : Chip) : Nat := 2 ^ c.variant.flocks - 1

/-- The Flocks of the variant in a mask. -/
def Chip.flocksIn (c : Chip) (mask : Nat) : List Nat := bitsSet c.variant.flocks mask

/-- The ports of a Flock. -/
def Chip.portsOf (c : Chip) (f : Nat) : List Nat := (List.range c.variant.ports).filter fun n => c.flockOf n == f

/-! ### Status at the levels (R7–R9) -/

/-- Element e feeds Flock f: it is in the Flock's element mask or the weld element of one of its ports (R335, log 102). -/
def Chip.feedsFlock (c : Chip) (f e : Nat) : Bool :=
  bit (c.spb (36 + 16 * f) 8) e || (c.portsOf f).any fun n => c.spbByte (161 + 8 * n) == e

/-- Meter m belongs to Flock f (R9). -/
def Chip.meterInFlock (c : Chip) (f m : Nat) : Bool :=
  (List.range c.variant.elements).any fun e => c.meterOf e == some m && c.feedsFlock f e

/-- The faults that arise at a unit of a level. -/
def Chip.ownFaults (c : Chip) (level unit : Nat) : List ActiveFault := c.faults.filter fun x => x.level == level && x.unit == unit

/-- The faults of an element and of its paths, of a meter and its elements, of a Flock, its ports and its meters, and of the module, which
rolls up every level below; the pair adds its own (R7, R8). -/
def Chip.elementFaults (c : Chip) (e : Nat) : List ActiveFault :=
  c.ownFaults 2 e ++ (c.faults.filter fun x => x.level == 1 && x.unit / 3 == e)
def Chip.meterFaults (c : Chip) (m : Nat) : List ActiveFault :=
  c.ownFaults 3 m ++ ((List.range c.variant.elements).filter fun e => c.meterOf e == some m).flatMap c.elementFaults
def Chip.flockFaults (c : Chip) (f : Nat) : List ActiveFault :=
  c.ownFaults 4 f ++ ((List.range c.variant.meters).filter fun m => c.meterInFlock f m).flatMap c.meterFaults
def Chip.moduleFaults (c : Chip) : List ActiveFault := c.faults.filter fun x => decide (x.level ≤ 5)
def Chip.pairFaults (c : Chip) : List ActiveFault := (c.faults.filter fun x => x.level == 6) ++ c.moduleFaults

/-- The most severe of a list of faults (R8): the severity of a code is a free value (log 102). -/
def mostSevere (l : List ActiveFault) : Option ActiveFault :=
  l.foldl (fun (best : Option ActiveFault) x =>
    match best with
    | none => some x
    | some y => if Config.severity y.code < Config.severity x.code then some x else some y) none

/-- Status of a unit at a level: 1 Sample, 2 Element, 3 Meter, 4 Flock, 5 Module, 6 Pair (R7, R8). -/
def Chip.statusAt (c : Chip) (level unit : Nat) : Option ActiveFault :=
  mostSevere (match level with
    | 1 => c.ownFaults 1 unit
    | 2 => c.elementFaults unit
    | 3 => c.meterFaults unit
    | 4 => c.flockFaults unit
    | 5 => c.moduleFaults
    | _ => c.pairFaults)

/-- The window flags of R199 at a level: those of a meter's last closed window, and their OR over the meters of a Flock and of the module
and the pair (R7, R209). -/
def Chip.windowFlagsAt (c : Chip) (level unit : Nat) : Nat :=
  let flags (l : List Nat) : Nat := l.foldl (fun x m => x ||| (c.meter m).lastFlags) 0
  match level with
  | 3 => (c.meter unit).lastFlags
  | 4 => flags ((List.range c.variant.meters).filter fun m => c.meterInFlock unit m)
  | _ => flags (List.range c.variant.meters)

/-- A safety-log record (R340). -/
def Chip.safetyRecord (c : Chip) (kind level unit old new channels cause : Nat) (detail : List Nat) : List Nat :=
  [kind, level, unit, old, new, channels] ++ leBytes 2 cause ++ leBytes 8 c.stride ++ leBytes 8 c.lc ++ fit 28 detail

/-- The SAF block writes a record to the safety log (R340), unless its die does nothing (R473). -/
def Chip.logSafety (c : Chip) (kind level unit old new channels cause : Nat) (detail : List Nat) : Chip :=
  if c.fold.running then c.appendLog 3 (c.safetyRecord kind level unit old new channels cause detail) else c

/-- SAF_FLOCK_ST.cause, SAF_CUT.out_fault and the faults of R502 follow the latched causes. -/
def Chip.showCauses (c : Chip) : Chip :=
  let c := forN c.variant.flocks (fun f c =>
    let bits := (c.flock f).causes.foldl (fun x k => x ||| 2 ^ k.bit) 0
    let c := c.put (SAF_FLOCK_ST_cause f) (bits / 4)
    c.setFlag (SAF_CUT_out_fault.bitOf f) (bit bits causeOutput)) c
  let one (f : Nat) (k : Cause) : List ActiveFault :=
    ⟨4, 0x4000 + k.bit, f⟩ :: (if k.unit / 256 = 0xE then [⟨5, 0x4000 + k.bit, 0⟩] else [])
  let all := (List.range c.variant.flocks).flatMap fun f => ((c.flock f).causes).flatMap (one f)
  let all := all.foldl (fun (l : List ActiveFault) x => if l.contains x then l else l ++ [x]) []
  { c with faults := c.faults.filter (fun f : ActiveFault => f.code / 32 != 0x200) ++ all }

/-! ### Seal words -/

/-- The parity of R332. -/
def sealParity (w : Nat) : Bool :=
  let ones (s : Nat) : Nat := ((List.range 8).filter fun k => bit w (2 * k + s)).length
  ones 0 % 2 == 1 && ones 1 % 2 == 1

/-- The class limit of R333, in units of 0.1 A. -/
def classLimit (k : Nat) : Nat := nth [0, 60, 100, 130, 160, 200, 320, 630, 800, 1250, 2000, 2500, 5000, 10000, 30000] k

/-- A port seal word is valid (R332, R333). -/
def portWordValid (w : Nat) : Bool :=
  let cls := w % 16
  let rcm := w / 16 % 4
  let conn := w / 128 % 8
  sealParity w && w / 1024 % 16 == 0 && cls != 15 && decide (conn ≤ 4) && !(decide (conn ≤ 1) && (rcm == 0 || decide (7 < cls))) &&
    !((conn == 2 || conn == 3 || conn == 4) && !bit w 6)

/-- A module word is valid (R332). -/
def moduleWordValid (w : Nat) : Bool := sealParity w && (bit w 0 != bit w 1) && w / 4 % 4096 == 0

/-- The adopted seal word of a port. -/
def Chip.adoptedWord (c : Chip) (n : Nat) : Nat := Sparse.get (fun _ => 0) c.saf.adopted n

/-- The port has a valid adopted word that S0 has taken up (R268). -/
def Chip.sealValid (c : Chip) (n : Nat) : Bool := c.saf.running0 && c.saf.adoptedYet && portWordValid (c.adoptedWord n)

/-- The RCM type of a port, 0 without a valid word (R309). -/
def Chip.rcmType (c : Chip) (n : Nat) : Nat :=
  if c.saf.adoptedYet && portWordValid (c.adoptedWord n) then c.adoptedWord n / 16 % 4 else 0

/-- The bands that the RCM type enables, DC1–AC3 (R309). -/
def bandsOf (type : Nat) : Nat := if type = 1 then 0x3F else if type = 2 then 0x38 else if type = 3 then 0x07 else 0

/-- IMD enable of a port. -/
def Chip.imdEnabled (c : Chip) (n : Nat) : Bool :=
  c.saf.adoptedYet && portWordValid (c.adoptedWord n) && bit (c.adoptedWord n) 6

/-- OPT_LIM.seal of every port (R268, R324, R333). -/
def Chip.showSeals (c : Chip) : Chip :=
  forN c.variant.ports (fun n c =>
    let w := c.adoptedWord n
    let l := if c.sealValid n then classLimit (w % 16) else 0
    let l := if w / 128 % 8 ≤ 1 ∧ c.flockState (c.flockOf n) = 1 then l / 2 else l
    let l := min l 0x7FF
    if c.rd (OPT_LIM_seal n) = l then c else (c.put (OPT_LIM_seal n) l).showLimit n) c

/-! ### Outputs and safe_ok -/

/-- Channel B is commanded asserted for a Flock: in Cut and Lockout, in the Off role, and while the SAF block asserts every output
(R303, R325, R330, R351). -/
def Chip.cutWanted (c : Chip) (f : Nat) : Bool := decide (2 ≤ c.flockState f) || c.outputsHeld || !c.saf.running0 || c.saf.expired

/-- SAF_CUT.cmd_b follows the Flock states. -/
def Chip.commandCuts (c : Chip) : Chip :=
  forN c.variant.flocks (fun f c => c.setFlag (SAF_CUT_cmd_b.bitOf f) (c.cutWanted f)) c

/-- The Flocks that the Crook's own trips assert: its residual-current trips and the actuated e-stops (R309, R316). -/
def Chip.crookOwn (c : Chip) : Nat :=
  let ports := (List.range c.variant.ports).foldl (fun x n =>
    if (c.residual n).tripA = 0 then x else x ||| 2 ^ c.flockOf n) 0
  (List.range 4).foldl (fun x k => if (c.estop k).actuated then x ||| c.spbByte (672 + 4 * k) else x) ports % 2 ^ c.variant.flocks

/-- The CRK page mirrors channel A while the Crook link is valid (R342). -/
def Chip.showCrook (c : Chip) : Chip :=
  if c.saf.crookBad ≠ 0 then c
  else
    let c := ((c.put CRK_CUT_A_asserted c.saf.cutA).put CRK_CUT_A_own c.crookOwn).setFlag CRK_STATUS_strap_ok c.saf.crookStrap
    let c := forN c.variant.ports (fun n c =>
      let r := c.residual n
      (c.setFlag (CRK_RCM_LVL_ports.bitOf n) (r.levelA != 0)).setFlag (CRK_RCM_TRIP_ports.bitOf n) r.latchedA) c
    forN 4 (fun k c =>
      let e := c.estop k
      let c := (c.setFlag (CRK_ES_a.bitOf k) e.closedA).setFlag (CRK_ES_b.bitOf k) e.closedB
      (c.setFlag (CRK_ES_disc.bitOf k) e.discrepancy).setFlag (CRK_ES_short.bitOf k) (e.short != 0)) c

/-- The Crook asserts its outputs for its own trips (R309, R316). -/
def Chip.crookActs (c : Chip) : Chip := (c.setSaf fun s => { s with cutA := s.cutA ||| c.crookOwn }).showCrook

/-- The IMD channel of a port is fitted, enabled, reports neither trip nor fault and stops no port (R305, R313). -/
def Chip.imdOk (c : Chip) (n : Nat) : Bool :=
  let k := c.spbByte (163 + 8 * n)
  decide (k < c.variant.ports / 4) && c.flag (IMD_STATUS_enabled k) && !c.flag (IMD_STATUS_trip k) && !c.flag (IMD_STATUS_fault k) &&
    !(c.insulation k).stopping

/-- The conditions of R305 hold for a port, apart from the release request, with its Flock at most in state `most`. -/
def Chip.okHolds (c : Chip) (n most : Nat) : Bool :=
  decide (c.flockState (c.flockOf n) ≤ most) && c.sealValid n && c.adoptedWord n % 16 != 0 && c.flag SAF_STATUS_spb_confirmed &&
    (c.rcmType n == 0 || (c.residual n).passed) && (!c.imdEnabled n || c.imdOk n) && Sparse.get (fun _ => 0) c.saf.stops n == 0

/-- safe_ok of a port takes a value. -/
def Chip.setSafeOk (c : Chip) (n : Nat) (b : Bool) : Chip :=
  (c.setFlag (SAF_SAFE_OK_ports.bitOf n) b).setFlag (OPT_STATUS_safe_ok n) b

/-- safe_ok falls where a condition of R305 fails, which is cause 9 at the next Stride edge, and a cut that asserts is cause 8 there (R249,
R305). In the Off role safe_ok follows Near (R351). -/
def Chip.safetyDrops (c : Chip) : Chip :=
  forN c.variant.ports (fun n c =>
    let c := if c.isOff && bit c.pair.nearOk n && c.okHolds n 1 then c.setSafeOk n true else c
    let fell := c.flag (OPT_STATUS_safe_ok n) && !(c.okHolds n 1 && (!c.isOff || bit c.pair.nearOk n))
    let c := if fell then (c.setSafeOk n false).setResidual n fun r => { r with passed := false } else c
    let cut := c.portCut n && !c.flag (OPT_STATUS_override n)
    let c := c.noteCauses n ((if fell then 512 else 0) + (if cut then 256 else 0))
    if fell || c.portCut n != c.flag (OPT_STATUS_override n) then c.settlePort n else c) c

/-- What follows from a change of the safety state; the ports drop at the next Stride edge (R305). -/
def Chip.settleSafety (c : Chip) : Chip := (((c.commandCuts.showCauses).showSeals).crookActs).safetyDrops

/-! ### States, demands and faults -/

/-- A Flock enters a state: the safety-log record, with the channels concerned, and the event (R304, R340). -/
def Chip.setFlockState (c : Chip) (f new cause channels : Nat) : Chip :=
  let old := c.flockState f
  if new = old then c
  else
    let c := c.put (SAF_FLOCK_ST_state f) new
    let c := c.setFlock f fun k =>
      { k with
        degraded := if new = 1 then max 1 k.degraded else if 2 ≤ new then 0 else k.degraded
        halved := new == 1 && k.halved
        exceed := 0, cleared := 0 }
    let c := if new = 1 then c else (c.setFlag (SAF_FLOCK_ST_warn f) false).put (SAF_FLOCK_ST_left f) 0
    (c.logSafety 1 4 f old new channels cause []).raiseEv safPage 0

/-- A cause of a Flock is latched (R304): one of the same origin is present again. -/
def Chip.latchCause (c : Chip) (f : Nat) (k : Cause) : Chip :=
  c.setFlock f fun x => { x with causes := (x.causes.filter fun j => !(j.bit == k.bit && j.unit == k.unit)) ++ [k] }

/-- A Flock has a cause of the origin present. -/
def Chip.causePresent (c : Chip) (f unit : Nat) : Bool := (c.flock f).causes.any fun k => k.unit == unit && k.present

/-- Some cause of the Flock is present. -/
def Chip.anyPresent (c : Chip) (f : Nat) : Bool := (c.flock f).causes.any fun k => k.present

/-- A Flock takes a state if it is more conservative (R304). -/
def Chip.raiseFlock (c : Chip) (f state cause channels : Nat) : Chip :=
  if c.flockState f < state then c.setFlockState f state cause channels else c

/-- SAF_STATUS.net_single and SAF_NET_ST.left follow single-network operation, which is a state at Module level (R323, R344). -/
def Chip.showSingle (c : Chip) (on : Bool) : Chip :=
  let was := c.flag SAF_STATUS_net_single
  let c := (c.setFlag SAF_STATUS_net_single on).faultIs 5 0x4020 0 on
  let c := c.put SAF_NET_ST_left (if on then (c.saf.singleLeft + 7999) / 8000 else 0)
  if was != on then c.raiseEv safPage 3 else c

/-- The single-network duration has ended (R323): the operation ends, and every Flock goes to Cut. The condition lasts until the network
recovers. -/
def Chip.endSingle (c : Chip) : Chip :=
  (c.flocksIn c.allFlocks).foldl (fun (c : Chip) f =>
    (c.latchCause f ⟨causeSingle, 2, unitSingleEnd, true⟩).raiseFlock f 2 causeSingle 2) (c.showSingle false)

/-- The recovery that runs is abandoned: its Flocks, or the network, are as before it (R329). -/
def Chip.abandonRecovery (c : Chip) : Chip :=
  match c.saf.running with
  | none => c
  | some r =>
    let c := (c.setSaf fun s => { s with running := none }).setFlag SAF_STATUS_recov_busy false
    let c := r.before.foldl (fun (c : Chip) (b : Nat × Nat × List Cause) =>
      let kept := b.2.2.filter fun k => !((c.flock b.1).causes.any fun j => j.unit == k.unit && j.bit == k.bit)
      let c := c.setFlock b.1 fun k => { k with causes := kept ++ k.causes }
      c.setFlockState b.1 (max b.2.1 (c.flockState b.1)) 0 2) c
    match r.network with
    | some 0 => c.endSingle
    | some left => (c.setSaf fun s => { s with singleLeft := left }).showSingle true
    | none => c

/-- A demand has moved Flock f on: the recovery that runs is over for it, since its new state has not held for 1 s (R328). -/
def Chip.leaveRecovery (c : Chip) (f : Nat) : Chip :=
  match c.saf.running with
  | none => c
  | some r =>
    if r.before.all fun b => b.1 != f then c
    else
      let rest := r.before.filter fun b => b.1 != f
      if rest.isEmpty ∧ r.network.isNone then (c.setSaf fun s => { s with running := none }).setFlag SAF_STATUS_recov_busy false
      else c.setSaf fun s => { s with running := some { r with before := rest } }

/-- The result of a SAF_CMD: 0 done, otherwise the reason that refuses it (R327, R340, R341). -/
def Chip.commandResult (c : Chip) (word reason : Nat) : Chip :=
  let c := (c.put SAF_CMD_ST_result (if reason = 0 then 1 else 2)).put SAF_CMD_ST_reason reason
  let c := c.logSafety 4 5 0 0 0 2 0 (leBytes 4 word)
  if reason = 0 then c else c.raiseEv safPage 4

/-- A demand on a Flock that a release command of the same Stride names refuses that release (R330): its recovery is abandoned. -/
def Chip.refuseReleased (c : Chip) (mask : Nat) : Chip :=
  match c.saf.released with
  | none => c
  | some (s, m) =>
    if s ≠ c.stride ∨ m &&& mask % 2 ^ c.variant.flocks = 0 then c
    else
      let mine := match c.saf.running with
        | some r => r.network.isNone && r.before.all fun b => bit m b.1
        | none => false
      ((if mine then c.abandonRecovery else c).setSaf fun s => { s with released := none }).commandResult (m + 0x1000) 1

/-- A demand of the safety function on the Flocks of a mask (R304). It is present while its origin lasts; one with origin 0 is latched
only. -/
def Chip.demandFlocks (c : Chip) (mask cause state unit : Nat) : Chip :=
  (c.flocksIn mask).foldl (fun (c : Chip) f =>
    let c := c.setFlock f fun k => { k with demand := some c.stride }
    let c := if c.flockState f < state then c.leaveRecovery f else c
    (c.latchCause f ⟨cause, state, unit, unit != 0⟩).raiseFlock f state cause (unitChannels unit)) (c.refuseReleased mask)

/-- A fault of the safety function is detected (R325, R326, R329): the same fault of the same scope counts once; within the recovery
window of a fault with a different cause the union of the scopes goes one state above the more conservative of the two. -/
def Chip.faultFlocks (c : Chip) (mask cause state unit : Nat) : Chip :=
  let scope := c.flocksIn mask
  if scope.all fun f => c.causePresent f unit then c
  else
    let hit := match c.saf.running with
      | some r => r.network.isSome || r.before.any (fun b => scope.contains b.1)
      | none => false
    let c := if hit then c.abandonRecovery else c
    let c := scope.foldl (fun (c : Chip) f => c.latchCause f ⟨cause, state, unit, true⟩) c
    let c := match scope with
      | f :: _ =>
        let wide := unit / 256 == 0xE
        (c.logSafety 2 (if wide then 5 else 4) (if wide then 0 else f) (c.flockState f) state (unitChannels unit) cause []).raiseEv safPage 1
      | [] => c
    match c.saf.faultWindows.find? fun w => w.cause != cause with
    | some w =>
      let s := min 3 (max state w.state + 1)
      let all := (c.flocksIn w.flocks).foldl insertSorted scope
      let c := all.foldl (fun (c : Chip) f =>
        (c.latchCause f ⟨causeDouble, s, 0, false⟩).raiseFlock f s causeDouble (unitChannels unit)) c
      c.setSaf fun x => { x with faultWindows := x.faultWindows ++ [⟨cause, unit, all.foldl (fun m f => m ||| 2 ^ f) 0, s, 0⟩] }
    | none =>
      let c := scope.foldl (fun (c : Chip) f => c.raiseFlock f state cause (unitChannels unit)) c
      c.setSaf fun x => { x with faultWindows := x.faultWindows ++ [⟨cause, unit, scope.foldl (fun m f => m ||| 2 ^ f) 0, state, 0⟩] }

/-- What stood behind a cause is gone: the cause stays latched (R304); the end of a fault is logged. -/
def Chip.clearCause (c : Chip) (mask unit : Nat) (fault : Bool) : Chip :=
  let scope := (c.flocksIn mask).filter fun f => c.causePresent f unit
  match scope with
  | [] => c
  | f :: _ =>
    let cause := match (c.flock f).causes.find? fun k => k.unit == unit with
      | some k => k.bit
      | none => 0
    let c := scope.foldl (fun (c : Chip) f =>
      c.setFlock f fun x => { x with causes := x.causes.map fun k => if k.unit = unit then { k with present := false } else k }) c
    let wide := unit / 256 == 0xE
    if fault then c.logSafety 3 (if wide then 5 else 4) (if wide then 0 else f) 0 0 (unitChannels unit) cause [] else c

/-- A recovery of Flocks begins (R328); one of a move out of Lockout, which nothing refuses while another runs, joins it (log 116). -/
def Chip.beginRecovery (c : Chip) (flocks : List Nat) : Chip :=
  let before := flocks.map fun f => (f, c.flockState f, (c.flock f).causes)
  let r : Recovery := match c.saf.running with
    | some r => { r with before := r.before ++ before, age := 0 }
    | none => { before := before }
  (c.setSaf fun s => { s with running := some r }).setFlag SAF_STATUS_recov_busy true

/-- A recovery moves Flocks to Normal (R328): their causes are released. -/
def Chip.recoverFlocks (c : Chip) (flocks : List Nat) : Chip :=
  flocks.foldl (fun (c : Chip) f => (c.setFlock f fun k => { k with causes := [] }).setFlockState f 0 0 2) (c.beginRecovery flocks)

/-- Single-network operation begins for its duration (R321, R323); one that runs goes on. -/
def Chip.beginSingle (c : Chip) : Chip :=
  let c := c.setSaf fun s => { s with matching := 0 }
  let net := match c.saf.running with
    | some r => r.network.isSome
    | none => false
  let c := if net then c.abandonRecovery else c
  if c.flag SAF_STATUS_net_single then c
  else (c.setSaf fun s => { s with singleLeft := c.spb 16 4 * 8000 }).showSingle true

/-- The network recovery of R323: a recovery that also ends what the end of the single-network duration demands. -/
def Chip.recoverNetwork (c : Chip) : Chip :=
  let left := if c.flag SAF_STATUS_net_single then c.saf.singleLeft else 0
  let c := (c.setSaf fun s => { s with running := some { before := [], network := some left } }).setFlag SAF_STATUS_recov_busy true
  (c.showSingle false).clearCause c.allFlocks unitSingleEnd false

/-- A Flock in Degraded whose fault has cleared for 10 s (R324). -/
def Chip.mayRecover (c : Chip) (f : Nat) : Bool :=
  c.flockState f == 1 && !c.anyPresent f && decide (80000 ≤ (c.flock f).cleared)

/-- Both networks have delivered matching copies from every peer for 60 s, in single-network operation or after its duration (R323). -/
def Chip.mayRecoverNetwork (c : Chip) : Bool :=
  (c.flag SAF_STATUS_net_single || (c.flocksIn c.allFlocks).any fun f => c.causePresent f unitSingleEnd) && decide (480000 ≤ c.saf.matching)

/-- The next waiting recovery starts: network recovery first, then Flocks in ascending order (R329). -/
def Chip.startWaiting (c : Chip) : Chip :=
  let w := c.saf.waiting
  if bit w 8 ∧ c.mayRecoverNetwork then (c.setSaf fun s => { s with waiting := putBit w 8 false }).recoverNetwork
  else match (c.flocksIn w).find? c.mayRecover with
    | some f => (c.setSaf fun s => { s with waiting := putBit w f false }).recoverFlocks [f]
    | none => c.setSaf fun s => { s with waiting := 0 }

/-! ### The site parameter block -/

/-- The 1024 bytes of a copy of the block. -/
def blockBytes (m : Sparse Word) : List Nat :=
  (List.range 256).flatMap fun k => leBytes 4 (Sparse.get (fun _ => (0 : Word)) m k).toNat

/-- OPT_STATUS.flock and IMD_STATUS.enabled follow the stored block (R335, R343). -/
def Chip.showBlock (c : Chip) : Chip :=
  let c := forN c.variant.ports (fun n c => c.put (OPT_STATUS_flock n) (c.spbByte (160 + 8 * n))) c
  forN (c.variant.ports / 4) (fun k c => c.setFlag (IMD_STATUS_enabled k) (bit (c.spbByte (700 + 16 * k)) 0)) c

/-- Both channels compute the CRC over the stored block (R337). -/
def Chip.computeBlock (c : Chip) : Chip :=
  let crc := crc32 (blockBytes c.saf.stored)
  (c.put SAF_SPB_CRC_B_crc crc).put SAF_SPB_CRC_A_crc crc

/-- SAF_STATUS.spb_confirmed and CRK_STATUS.spb_ok follow the CRCs and the confirmed values (R337, R342). -/
def Chip.showConfirmed (c : Chip) : Chip :=
  let conf := c.rd SAF_SPB_CONF_crc
  let c := c.setFlag SAF_STATUS_spb_confirmed (c.rd SAF_SPB_CRC_B_crc == conf && c.rd SAF_SPB_CRC_A_crc == conf &&
    c.rd LSW_BMAP_CRC_crc == c.rd SAF_SPB_CONF_MAP_crc)
  if c.saf.crookBad = 0 then c.setFlag CRK_STATUS_spb_ok (c.rd SAF_SPB_CRC_A_crc == conf) else c

/-- The reason that refuses a commit (R336); the closed seal comes first. -/
def Chip.blockError (c : Chip) : Option Nat :=
  let bs := blockBytes c.saf.staged
  let le (k n : Nat) : Nat := ofLe ((bs.drop k).take n)
  let within (x lo hi : Nat) : Bool := decide (lo ≤ x) && decide (x ≤ hi)
  let ranges := le 0 2 == 1 && le 2 2 == 1024 && within (le 16 4) 60 86400 && within (le 20 2) 10 900 && within (le 22 2) 1 100 &&
    within (le 24 2) 50 5000 && within (le 26 2) 10 1000
  let portOk (n : Nat) : Bool :=
    let e := le (161 + 8 * n) 1
    let k := le (163 + 8 * n) 1
    decide (le (160 + 8 * n) 1 < c.variant.flocks) && (e == 0xFF || decide (e < c.variant.elements)) &&
      (k == 0xFF || decide (k < c.variant.ports / 4))
  if ¬ c.sealOpen 2 then some 4
  else if ¬ ranges then some 1
  else if ¬ ((List.range c.variant.ports).all portOk) then some 2
  else if le 12 2 < le 14 2 + 4 then some 3
  else none

/-! ### Start of the safety plane -/

/-- Conditions that stand outside S0 when it restarts: wiring, contacts, channel A, straps and the block. -/
def Cause.outside (k : Cause) : Bool :=
  k.present && [0x1, 0x3, 0x6, 0x7, 0x8, 0x9, 0xC, 0xD].contains (k.unit / 256) ||
    k.present && (k.unit == unitCrook || k.unit == unitStrap || k.unit == unitBlock)

/-- What S0 keeps of a port's supervision over its own restart: channel A's part and the samples. -/
def Residual.restart (r : Residual) : Residual :=
  { r with
    test := 0, testSeen := 0, passed := false
    holds := [0, 0, 0, 0, 0, 0], disagree := [0, 0, 0, 0, 0, 0] }

/-- S0 stops, at a reset of its plane or of its die (R330, R344, R472): every Flock is in Cut with the start-up cause, its tests, checks
and recoveries are lost, and every B output asserts. -/
def Chip.stopSafety (c : Chip) : Chip :=
  let c := forN c.variant.flocks (fun f c =>
    let c := c.setFlock f fun k =>
      { k with causes := ⟨causeStart, 2, 0, true⟩ :: k.causes.filter fun j => j.outside && j.bit != causeStart }
    c.setFlockState f (max 2 (c.flockState f)) causeStart 2) c
  let c := c.setSaf fun s =>
    { s with
      running0 := false, running := none, waiting := 0, faultWindows := [], welds := [], windows := [], stops := [], stopsDue := []
      imd := [],
      rcm := (s.rcm.map fun r => (r.1, r.2.restart)).filter fun r => r.2 != ({} : Residual),
      powerSum := [], voltSum := [], watchdog := 0, heartbeat := 0, dark := [], released := none }
  (c.setFlag SAF_STATUS_recov_busy false).settleSafety

/-- S0 starts: both channels compute the CRC of the stored block, and S0 evaluates from here on (R337, R344). Its watchdog runs anew, with
its bit of FAB_WDT_ST set until it is serviced (R470). -/
def Chip.startSafety (c : Chip) : Chip :=
  ((c.setSaf fun s => { s with running0 := true, watchdog := 0, expired := false }).computeBlock.showBlock.showConfirmed).settleSafety

end Sys2Proof.Machine
end

