-- ==== Sys2Proof/Machine/Sha.lean ====
section
/-! DEFINITION. SHA-256 and SHA-384 (FIPS 180-4), HMAC-SHA-256, and the key derivation of SP 800-108 in counter mode, over byte lists
(R432, R435). The spec names these functions; their text is that of the standards (PRESUMED, log 5). -/

namespace Sys2Proof.Machine

/-- The primes below 410, which are the first 80: no smaller number from 2 to 20 divides them. -/
def smallPrimes : List Nat := (List.range 410).filter fun p => decide (2 ≤ p) && (List.range 19).all fun k => p % (k + 2) != 0 || p == k + 2

/-- The exact integer cube root of a value below 2^204, rounded down: each bit is tried from the highest. -/
def icbrt (x : Nat) : Nat :=
  (List.range 68).foldl (fun r k => let t := r + 2 ^ (67 - k); if t * t * t ≤ x then t else r) 0

/-- The round constants of both functions: the first w bits of the fraction of a prime's cube root. -/
def cubeFraction (w p : Nat) : Nat := icbrt (p * 2 ^ (3 * w)) % 2 ^ w

/-- The initial words of both functions: the first w bits of the fraction of a prime's square root. -/
def squareFraction (w p : Nat) : Nat := isqrt (p * 2 ^ (2 * w)) % 2 ^ w

/-- What tells the two functions apart: the word size in bits, the round constants, and the rotations of Σ0, Σ1, σ0 and σ1, of which the
last two end in a shift. -/
structure ShaKind where
  w : Nat
  constants : List Nat
  big0 : List Nat
  big1 : List Nat
  small0 : List Nat
  small1 : List Nat
  deriving DecidableEq, Repr

/-- SHA-256, with the first 64 primes. -/
def sha256Kind : ShaKind :=
  ⟨32, (smallPrimes.take 64).map (cubeFraction 32), [2, 13, 22], [6, 11, 25], [7, 18, 3], [17, 19, 10]⟩

/-- SHA-384, with all 80. -/
def sha384Kind : ShaKind := ⟨64, smallPrimes.map (cubeFraction 64), [28, 34, 39], [14, 18, 41], [1, 8, 7], [19, 61, 6]⟩

/-- A rotation to the right. -/
def ShaKind.rotr (p : ShaKind) (n x : Nat) : Nat := x / 2 ^ n ||| (x * 2 ^ (p.w - n)) % 2 ^ p.w

/-- Three rotations combined, or two and a shift. -/
def ShaKind.big (p : ShaKind) (l : List Nat) (x : Nat) : Nat := p.rotr (nth l 0) x ^^^ p.rotr (nth l 1) x ^^^ p.rotr (nth l 2) x
def ShaKind.small (p : ShaKind) (l : List Nat) (x : Nat) : Nat := p.rotr (nth l 0) x ^^^ p.rotr (nth l 1) x ^^^ x / 2 ^ nth l 2

/-- The message schedule extended by n words, newest first. -/
def ShaKind.schedule (p : ShaKind) : Nat → List Nat → List Nat
  | 0, l => l
  | n + 1, l => p.schedule n ((p.small p.small1 (nth l 1) + nth l 6 + p.small p.small0 (nth l 14) + nth l 15) % 2 ^ p.w :: l)

/-- One round with the sum of its constant and its schedule word. -/
def ShaKind.round (p : ShaKind) (s : List Nat) (kw : Nat) : List Nat :=
  match s with
  | [a, b, c, d, e, f, g, h] =>
    let t1 := h + p.big p.big1 e + ((e &&& f) ^^^ ((2 ^ p.w - 1 - e) &&& g)) + kw
    let t2 := p.big p.big0 a + ((a &&& b) ^^^ (a &&& c) ^^^ (b &&& c))
    [(t1 + t2) % 2 ^ p.w, a, b, c, (d + t1) % 2 ^ p.w, e, f, g]
  | _ => s

/-- One block, as words, into the chaining value. -/
def ShaKind.block (p : ShaKind) (s ws : List Nat) : List Nat :=
  let sched := (p.schedule (p.constants.length - 16) ws.reverse).reverse
  let out := (List.zipWith (· + ·) p.constants sched).foldl p.round s
  List.zipWith (fun a b => (a + b) % 2 ^ p.w) s out

/-- The first n words of a byte list. -/
def ShaKind.words (p : ShaKind) : Nat → List Nat → List Nat
  | 0, _ => []
  | n + 1, bs => ofBe (bs.take (p.w / 8)) :: p.words n (bs.drop (p.w / 8))

/-- The blocks of a padded message, at most `fuel`. -/
def ShaKind.blocks (p : ShaKind) : Nat → List Nat → List Nat → List Nat
  | 0, s, _ => s
  | fuel + 1, s, bs => if bs.isEmpty then s else p.blocks fuel (p.block s (p.words 16 bs)) (bs.drop (2 * p.w))

/-- The hash of a byte list from an initial value. -/
def ShaKind.hash (p : ShaKind) (init bs : List Nat) : List Nat :=
  let size := 2 * p.w
  let tail := p.w / 4
  let pad := (2 * size - 1 - (bs.length + tail) % size) % size
  let m := bs ++ 0x80 :: (List.replicate pad 0 ++ beBytes tail (8 * bs.length))
  (p.blocks (m.length / size + 1) init m).flatMap (beBytes (p.w / 8))

/-- SHA-256 of a byte list: it starts from the first eight primes. -/
def sha256 (bs : List Nat) : List Nat := sha256Kind.hash ((smallPrimes.take 8).map (squareFraction 32)) bs

/-- SHA-384 of a byte list: it starts from the next eight, and drops the last two words. -/
def sha384 (bs : List Nat) : List Nat := (sha384Kind.hash (((smallPrimes.drop 8).take 8).map (squareFraction 64)) bs).take 48

/-- HMAC-SHA-256 (FIPS 198-1) under a key of at most 64 bytes. -/
def hmacSha256 (key bs : List Nat) : List Nat :=
  let k := fit 64 key
  sha256 (k.map (· ^^^ 0x5C) ++ sha256 (k.map (· ^^^ 0x36) ++ bs))

/-- The derivation step of R432: the first L bits, L a whole number of bytes. -/
def derive (key label context : List Nat) (l : Nat) : List Nat :=
  let block (i : Nat) : List Nat := hmacSha256 key (beBytes 4 i ++ label ++ [0] ++ context ++ beBytes 4 l)
  ((List.range ((l + 255) / 256)).flatMap fun i => block (i + 1)).take (l / 8)

end Sys2Proof.Machine
end

