-- ==== Sys2Proof/Machine/Aes.lean ====
section
/-! DEFINITION. AES-256 (FIPS 197), its CMAC (SP 800-38B) and GCM (SP 800-38D), and the key wrap of RFC 5649, over byte lists (R429, R435).
The spec names these functions; their text is that of the standards (PRESUMED, log 5). -/

namespace Sys2Proof.Machine

/-- The S-box. -/
def aesBox : List Nat :=
  [99, 124, 119, 123, 242, 107, 111, 197, 48, 1, 103, 43, 254, 215, 171, 118,
   202, 130, 201, 125, 250, 89, 71, 240, 173, 212, 162, 175, 156, 164, 114, 192,
   183, 253, 147, 38, 54, 63, 247, 204, 52, 165, 229, 241, 113, 216, 49, 21,
   4, 199, 35, 195, 24, 150, 5, 154, 7, 18, 128, 226, 235, 39, 178, 117] ++
  [9, 131, 44, 26, 27, 110, 90, 160, 82, 59, 214, 179, 41, 227, 47, 132,
   83, 209, 0, 237, 32, 252, 177, 91, 106, 203, 190, 57, 74, 76, 88, 207,
   208, 239, 170, 251, 67, 77, 51, 133, 69, 249, 2, 127, 80, 60, 159, 168,
   81, 163, 64, 143, 146, 157, 56, 245, 188, 182, 218, 33, 16, 255, 243, 210] ++
  [205, 12, 19, 236, 95, 151, 68, 23, 196, 167, 126, 61, 100, 93, 25, 115,
   96, 129, 79, 220, 34, 42, 144, 136, 70, 238, 184, 20, 222, 94, 11, 219,
   224, 50, 58, 10, 73, 6, 36, 92, 194, 211, 172, 98, 145, 149, 228, 121,
   231, 200, 55, 109, 141, 213, 78, 169, 108, 86, 244, 234, 101, 122, 174, 8] ++
  [186, 120, 37, 46, 28, 166, 180, 198, 232, 221, 116, 31, 75, 189, 139, 138,
   112, 62, 181, 102, 72, 3, 246, 14, 97, 53, 87, 185, 134, 193, 29, 158,
   225, 248, 152, 17, 105, 217, 142, 148, 155, 30, 135, 233, 206, 85, 40, 223,
   140, 161, 137, 13, 191, 230, 66, 104, 65, 153, 45, 15, 176, 84, 187, 22]

/-- Bytewise exclusive or. -/
def xorBytes (a b : List Nat) : List Nat := List.zipWith (· ^^^ ·) a b

/-- The product with x in the field of AES. -/
def aesDouble (b : Nat) : Nat := if 128 ≤ b then ((2 * b) % 256) ^^^ 0x1B else 2 * b

/-- The key words extended by n words, newest first; i counts the words so far (FIPS 197, 5.2). -/
def aesExpand : Nat → Nat → List (List Nat) → List (List Nat)
  | 0, _, l => l
  | n + 1, i, l =>
    let t := l.headD []
    let rot (w : List Nat) : List Nat := w.drop 1 ++ w.take 1
    let t := if i % 8 = 0 then xorBytes ((rot t).map (nth aesBox)) [2 ^ (i / 8 - 1), 0, 0, 0]
      else if i % 8 = 4 then t.map (nth aesBox) else t
    aesExpand n (i + 1) (xorBytes (l.getD 7 []) t :: l)

/-- The 15 round keys of a 32-byte key. -/
def aesKeys (key : List Nat) : List (List Nat) :=
  let k := fit 32 key
  let ws := (aesExpand 52 8 (((List.range 8).map fun i => (k.drop (4 * i)).take 4).reverse)).reverse
  (List.range 15).map fun i => ((ws.drop (4 * i)).take 4).flatten

/-- SubBytes and ShiftRows. -/
def aesShift (s : List Nat) : List Nat :=
  (List.range 16).map fun i => nth aesBox (nth s ((i + 4 * (i % 4)) % 16))

/-- MixColumns. -/
def aesMix (s : List Nat) : List Nat :=
  (List.range 16).map fun i =>
    let at_ (k : Nat) : Nat := nth s (i / 4 * 4 + (i + k) % 4)
    aesDouble (at_ 0) ^^^ (aesDouble (at_ 1) ^^^ at_ 1) ^^^ at_ 2 ^^^ at_ 3

/-- A block encrypted under expanded keys. -/
def aesBlock (keys : List (List Nat)) (block : List Nat) : List Nat :=
  let s := xorBytes (fit 16 block) (keys.headD [])
  let s := ((keys.drop 1).take 13).foldl (fun s k => xorBytes (aesMix (aesShift s)) k) s
  xorBytes (aesShift s) (keys.getD 14 [])

/-- A byte list in blocks of 16. -/
def blocks16 : Nat → List Nat → List (List Nat)
  | 0, _ => []
  | fuel + 1, bs => if bs.isEmpty then [] else bs.take 16 :: blocks16 fuel (bs.drop 16)

/-! ### CMAC -/

/-- A subkey doubled in the field of CMAC. -/
def cmacDouble (b : List Nat) : List Nat :=
  let x := ofBe b
  beBytes 16 (((2 * x) % 2 ^ 128) ^^^ (if 2 ^ 127 ≤ x then 0x87 else 0))

/-- AES-256-CMAC. -/
def aesCmac (key bs : List Nat) : List Nat :=
  let keys := aesKeys key
  let k1 := cmacDouble (aesBlock keys [])
  let all := blocks16 (bs.length + 1) bs
  let last := all.getLastD []
  let last := if last.length = 16 then xorBytes last k1 else xorBytes (fit 16 (last ++ [0x80])) (cmacDouble k1)
  (all.dropLast ++ [last]).foldl (fun c b => aesBlock keys (xorBytes c b)) (List.replicate 16 0)

/-! ### GCM -/

/-- The product in the field of GHASH, over the bits of y from the highest. -/
def ghashMul (x y : Nat) : Nat :=
  ((List.range 128).foldl (fun (p : Nat × Nat) i =>
    let z := if y.testBit (127 - i) then p.1 ^^^ p.2 else p.1
    let v := p.2 / 2 ^^^ (if p.2 % 2 = 1 then 0xE1 * 2 ^ 120 else 0)
    (z, v)) (0, x)).1

/-- GHASH of additional data and ciphertext. -/
def ghash (h : Nat) (aad ct : List Nat) : Nat :=
  let bs := (blocks16 (aad.length + 1) aad ++ blocks16 (ct.length + 1) ct).map (fit 16)
  (bs ++ [beBytes 8 (8 * aad.length) ++ beBytes 8 (8 * ct.length)]).foldl (fun y b => ghashMul (y ^^^ ofBe b) h) 0

/-- The counter mode of GCM from counter 2 on. -/
def gcmCtr (keys : List (List Nat)) (iv bs : List Nat) : List Nat :=
  ((blocks16 (bs.length + 1) bs).zipIdx).flatMap fun b => xorBytes b.1 (aesBlock keys (iv ++ beBytes 4 (b.2 + 2)))

/-- The tag of GCM. -/
def gcmTag (keys : List (List Nat)) (iv aad ct : List Nat) : List Nat :=
  xorBytes (beBytes 16 (ghash (ofBe (aesBlock keys [])) aad ct)) (aesBlock keys (iv ++ [0, 0, 0, 1]))

/-- AES-256-GCM with a 12-byte IV: ciphertext then tag. -/
def gcmEncrypt (key iv aad bs : List Nat) : List Nat :=
  let keys := aesKeys key
  let ct := gcmCtr keys iv bs
  ct ++ gcmTag keys iv aad ct

/-- AES-256-GCM decryption; none on a bad tag. -/
def gcmDecrypt (key iv aad ct tag : List Nat) : Option (List Nat) :=
  let keys := aesKeys key
  if gcmTag keys iv aad ct = tag then some (gcmCtr keys iv ct) else none

/-! ### Key wrap -/

/-- The wrapping steps of RFC 3394 over n blocks: step t of 6n takes block t mod n. -/
def wrapSteps (keys : List (List Nat)) (n : Nat) : Nat → List Nat × List (List Nat) → List Nat × List (List Nat)
  | 0, s => s
  | t + 1, s =>
    let (a, r) := wrapSteps keys n t s
    let b := aesBlock keys (a ++ r.getD (t % n) [])
    (beBytes 8 (ofBe (b.take 8) ^^^ (t + 1)), setNth r (t % n) (b.drop 8))

/-- AES-256 key wrap with padding (RFC 5649) of more than 8 bytes. -/
def keyWrap (key bs : List Nat) : List Nat :=
  let n := (bs.length + 7) / 8
  let r := (List.range n).map fun i => fit 8 (bs.drop (8 * i))
  let (a, r) := wrapSteps (aesKeys key) n (6 * n) ([0xA6, 0x59, 0x59, 0xA6] ++ beBytes 4 bs.length, r)
  a ++ r.flatten

/-- ShiftRows and SubBytes undone. -/
def aesUnshift (s : List Nat) : List Nat :=
  (List.range 16).map fun j => aesBox.idxOf (nth s ((j + 12 * (j % 4)) % 16))

/-- MixColumns undone: its third power, since its fourth is the identity. -/
def aesUnmix (s : List Nat) : List Nat := aesMix (aesMix (aesMix s))

/-- A block decrypted under expanded keys. -/
def aesOpen (keys : List (List Nat)) (block : List Nat) : List Nat :=
  let s := aesUnshift (xorBytes (fit 16 block) (keys.getD 14 []))
  let s := ((keys.drop 1).take 13).reverse.foldl (fun s k => aesUnshift (aesUnmix (xorBytes s k))) s
  xorBytes s (keys.headD [])

/-- The wrapping steps undone. -/
def unwrapSteps (keys : List (List Nat)) (n : Nat) : Nat → List Nat × List (List Nat) → List Nat × List (List Nat)
  | 0, s => s
  | t + 1, (a, r) =>
    let b := aesOpen keys (beBytes 8 (ofBe a ^^^ (t + 1)) ++ r.getD (t % n) [])
    unwrapSteps keys n t (b.take 8, setNth r (t % n) (b.drop 8))

/-- The key that a wrapped key holds, none where its check value or its length field is wrong (RFC 5649). -/
def keyUnwrap (key bs : List Nat) : Option (List Nat) :=
  let n := bs.length / 8 - 1
  let r := (List.range n).map fun i => (bs.drop (8 * (i + 1))).take 8
  let (a, r) := unwrapSteps (aesKeys key) n (6 * n) (bs.take 8, r)
  let len := ofBe (a.drop 4)
  if a.take 4 = [0xA6, 0x59, 0x59, 0xA6] ∧ len ≤ 8 * n then some (r.flatten.take len) else none

end Sys2Proof.Machine
end

