-- ==== Sys2Proof/Machine/Cbor.lean ====
section
/-! DEFINITION. The deterministic CBOR encoding of RFC 8949 that signed readings and attestation statements use, and the COSE_Sign1
structures of RFC 9052 (R235, R435, R440). -/

namespace Sys2Proof.Machine

/-- A CBOR item head: its major type and its argument. -/
def cborHead (major n : Nat) : List Nat :=
  if n < 24 then [32 * major + n]
  else if n < 2 ^ 8 then [32 * major + 24, n]
  else if n < 2 ^ 16 then (32 * major + 25) :: beBytes 2 n
  else if n < 2 ^ 32 then (32 * major + 26) :: beBytes 4 n
  else (32 * major + 27) :: beBytes 8 n

/-- An unsigned integer below 2^64. -/
def cborNat (n : Nat) : List Nat := cborHead 0 n

/-- An integer. -/
def cborInt (x : Int) : List Nat := if 0 ≤ x then cborNat x.toNat else cborHead 1 (-1 - x).toNat

/-- A byte string, a text string and an array of encoded items. -/
def cborBytes (bs : List Nat) : List Nat := cborHead 2 bs.length ++ bs
def cborText (bs : List Nat) : List Nat := cborHead 3 bs.length ++ bs
def cborArray (items : List (List Nat)) : List Nat := cborHead 4 items.length ++ items.flatten

/-- A map of encoded values under unsigned keys given in rising order. -/
def cborMap (l : List (Nat × List Nat)) : List Nat := cborHead 5 l.length ++ (l.flatMap fun p => cborNat p.1 ++ p.2)

/-- The Sig_structure of a COSE_Sign1 over a protected header and a payload (RFC 9052): the context "Signature1", no external data. -/
def sigStructure (header payload : List Nat) : List Nat :=
  cborArray [cborText [0x53, 0x69, 0x67, 0x6E, 0x61, 0x74, 0x75, 0x72, 0x65, 0x31], cborBytes header, cborBytes [], cborBytes payload]

/-- The tagged COSE_Sign1 object: tag 18, protected header, empty unprotected header, payload, signature. -/
def coseSign1 (header payload signature : List Nat) : List Nat :=
  0xD2 :: cborArray [cborBytes header, cborMap [], cborBytes payload, cborBytes signature]

end Sys2Proof.Machine
end

