-- ==== Sys2Proof/Machine/Calib.lean ====
section
/-! DEFINITION. Calibration: the seal, the temperature trim, the calibration image with its CRCs, and audit records (R147–R170). -/

namespace Sys2Proof.Machine

/-! ### The calibration image (R153) -/

/-- A word of the active or of the shadow copy of a page. -/
def Chip.copyWord (c : Chip) (shadow : Bool) (page ofs : Nat) : Nat :=
  (c.word (page + (if shadow then shadowOfs ofs else ofs))).toNat

/-- The low 16 bits of a word, sign-extended. -/
def extend16 (w : Nat) : Nat := bitsOf 32 (signed 16 w)

/-- The eight words of an element in the image. -/
def Chip.imageElement (c : Chip) (shadow : Bool) (n : Nat) : List Nat :=
  if c.variant.elements ≤ n then [0, 0, 0, 0, 0, 0, 0, 0]
  else
    let w (o : Nat) : Nat := c.copyWord shadow (metPage n) o
    [w 0x180, w 0x184, w 0x188, w 0x18C, extend16 (w 0x190), w 0x194, w 0x198, c.copyWord shadow (sfePage n) 0x100]

/-- The eight words of a meter in the image. -/
def Chip.imageMeter (c : Chip) (shadow : Bool) (m : Nat) : List Nat :=
  if c.variant.meters ≤ m then [0, 0, 0, 0, 0, 0, 0, 0]
  else
    let w (o : Nat) : Nat := c.copyWord shadow (mtrPage m) o
    [w 0x108, w 0x10C, w 0x118, extend16 (w 0x11C), w 0x170, w 0x174, w 0x114, w 0x178]

/-- The CRC of the active or of the shadow image. -/
def Chip.imageCrc (c : Chip) (shadow : Bool) : Nat :=
  let words := (List.range 64).flatMap (c.imageElement shadow) ++ (List.range 48).flatMap (c.imageMeter shadow)
  crc32 (words.flatMap (leBytes 4))

/-- The page holds fields of the calibration image. -/
def imagePage (v : Variant) (page : Nat) : Bool :=
  match locate v page with
  | some (b, _) => b == .met || b == .sfe || b == .mtr
  | none => false

/-- SFE_CAL_CRC and SFE_CAL_CRC_STG take the CRCs of the images after a change (R153). -/
def calCrcUpdate (c : Chip) : Chip :=
  let c := if c.fold.crcDue then c.put SFE_CAL_CRC_crc (c.imageCrc false) else c
  let c := if c.fold.crcDue || c.fold.crcStgDue then c.put SFE_CAL_CRC_STG_crc (c.imageCrc true) else c
  { c with fold := { c.fold with crcDue := false, crcStgDue := false } }

/-- CAL_CRC_UPDATE (R153). -/
def execCalCrcUpdate (s : State) : Answer := s.effect calCrcUpdate

/-! ### Audit records (R157) -/

/-- The flags of an audit record. -/
def Chip.auditFlags (c : Chip) : Nat :=
  c.isOff.toNat + 2 * c.rd STG_STATUS_pair_mismatch + 4 * c.rd TIM_LEDGER_ST_time_invalid

/-- The first 24 bytes of an audit record. -/
def Chip.auditHead (c : Chip) (kind : Nat) : List Nat :=
  leBytes 2 kind ++ leBytes 2 1 ++ leBytes 4 (c.rd SFE_CAL_COUNT_count) ++ leBytes 8 c.stride ++ leBytes 8 c.lc

/-- An audit record of kind 1, 2 or 5. -/
def Chip.auditRecord (c : Chip) (kind before after elements meters : Nat) (session : List Nat) : List Nat :=
  c.auditHead kind ++ leBytes 4 before ++ leBytes 4 after ++ leBytes 8 elements ++ leBytes 6 meters ++ leBytes 2 c.auditFlags ++
    session.flatMap (leBytes 4)

/-- An audit record is appended; every kind carries the counter as it stands (R157, R164). -/
def Chip.appendAudit (c : Chip) (rec_ : List Nat) : Chip :=
  let c := c.appendLog 2 rec_
  { c with led := { c.led with auditCount := c.rd SFE_CAL_COUNT_count } }

/-- The bits of the elements and of the meters that a switch of the given pages applies to: those whose MET or MTR page is among them
(R154). -/
def imageElements (v : Variant) (pages : List Nat) : Nat :=
  pages.foldl (fun (x : Nat) p =>
    match locate v p with
    | some (.met, n) => x ||| 2 ^ n
    | _ => x) 0
def imageMeters (v : Variant) (pages : List Nat) : Nat :=
  pages.foldl (fun (x : Nat) p =>
    match locate v p with
    | some (.mtr, n) => x ||| 2 ^ n
    | _ => x) 0

/-! ### The metrology seal (R151, R152) -/

/-- The frozen pages of a slot include one that is mirrored (R58). -/
def Chip.pairPages (c : Chip) (p : Nat) : Bool :=
  (c.slot p).frozen.any fun g =>
    match locate c.variant g with
    | some (b, _) => b.pairScope
    | none => false

/-- The closing seal cancels an armed slot whose frozen pages hold image fields (R152); the cancel of a slot with mirrored pages is sent
to Off as one record (R58). -/
def Chip.sealCancel (c : Chip) : Chip :=
  forN 4 (fun p c =>
    let pages := (c.slot p).frozen
    if c.armed p && pages.any (imagePage c.variant) then
      let c := if c.pairPages p then c.mirror (.cancel p) else c
      let c := ((c.put (STG_SLOT_ST_state p) 5).setSlot p {}).raiseEv 0x40030000 (4 + p)
      let crc := c.imageCrc false
      c.appendAudit (c.auditRecord 5 crc crc (imageElements c.variant pages) (imageMeters c.variant pages) [])
    else c) c

/-- SEAL_MET_N has held a new level for 80 Strides: it is accepted, and an audit record follows (R151, R152). -/
def metSealChange (c : Chip) : Chip :=
  let now := !c.fold.sealPin
  if c.fold.sealRun < 80 ∨ c.flag SFE_CAL_SEAL_met_open = now then c
  else
    let c := c.setFlag SFE_CAL_SEAL_met_open now
    let c := c.appendAudit (c.auditHead (if now then 3 else 4))
    if now || c.isOff then c else c.sealCancel

/-- MET_SEAL_CHANGE (R151). -/
def execMetSealChange (s : State) : Answer := s.effect metSealChange

/-- The seal pin at a Stride edge (R151). -/
def Chip.sealEdge (c : Chip) (pin : Bool) : Chip :=
  let run := if pin = c.fold.sealPin then min 80 (c.fold.sealRun + 1) else 1
  { c with fold := { c.fold with sealRun := run, sealPin := pin } }

/-! ### Temperature (R150) -/

/-- τg comes from Near (R150). -/
def Chip.trimRemote (c : Chip) : Bool := c.isOff && !c.flag HRN_STATUS_detached

/-- The die temperature, Q12.4 °C, is read and the target trims are looked up (R150); below 100 °C the overtemperature fault clears
(R498). -/
def dieTempRead (t : Int) (c : Chip) : Chip :=
  let c := c.putS SFE_CAL_TEMP_temp t
  let c := if t < 1600 then c.clearFault 5 0x0121 0 else c
  let deg := clampI (-40) 125 (rhe t 4)
  let hot := if 1760 ≤ t then min 10 (c.fold.dieHot + 1) else 0
  let targets := forN 8 (fun g l => Sparse.set (fun _ => 0) l g (clampI (-16) 16 (Config.trimTable g deg))) c.fold.trimTarget
  { c with fold := { c.fold with dieHot := hot, trimTarget := targets } }

/-- DIE_TEMP_READ (R150). -/
def execDieTempRead (t : Int) (s : State) : Answer := s.effect (dieTempRead t)

/-- τg moves at the edge of Stride n (R150). -/
def trimStride (n : Nat) : Bool := n % 8000 == 2 && decide (8002 ≤ n)

/-- τg one unit nearer to its target (R150). -/
def Chip.steppedTrim (c : Chip) (g : Nat) : Int :=
  let now := c.rdS (SFE_CAL_TTRIM_trim g)
  let target := Sparse.get (fun _ => 0) c.fold.trimTarget g
  if now < target then now + 1 else if target < now then now - 1 else now

/-- τg of group g for the Stride after the present one, as Near sends it (R353). -/
def Chip.nextTrim (c : Chip) (g : Nat) : Int :=
  if trimStride (c.stride + 1) then c.steppedTrim g else c.rdS (SFE_CAL_TTRIM_trim g)

/-- What Near's frame of the present Stride said of group g, so that both modules of a pair move alike (R150). -/
def Chip.sentTrim (c : Chip) (g : Nat) : Option Int :=
  match c.pair.sent with
  | some f => if f.role = 1 ∧ f.stride = c.stride then f.trims[g]? else none
  | none => none

/-- τg moves one unit towards its target at the edge of Stride 8000(w + 1) + 2; in the Off role it takes Near's value (R150). -/
def tauTrimStep (c : Chip) : Chip :=
  let n := c.nextStride
  if ¬ trimStride n ∨ c.fold.trimmed = n then c
  else
    let c := { c with fold := { c.fold with trimmed := n } }
    forN 8 (fun g c =>
      c.putS (SFE_CAL_TTRIM_trim g)
        (if c.trimRemote then Sparse.get (fun _ => c.rdS (SFE_CAL_TTRIM_trim g)) c.fold.nearTrim g
          else (c.sentTrim g).getD (c.steppedTrim g))) c

/-- TAU_TRIM_STEP (R150). -/
def execTauTrimStep (s : State) : Answer := s.effect tauTrimStep

/-! ### The hand-over window (R165) -/

/-- A write of 1 to SFE_CAL_HO.open opens the window before the hand-over while the data-plane slot is not armed. -/
def handoverWindowOpen (acc : Access) (v : Nat) (c : Chip) : Chip :=
  c.write acc SFE_CAL_HO.addr v fun c =>
    if v % 2 = 0 ∨ c.flag SFE_CAL_SEAL_handed_over ∨ c.armed 1 then c else c.setFlag SFE_CAL_SEAL_ho_open true

/-- HANDOVER_WINDOW_OPEN (R165). -/
def execHandoverWindowOpen (acc : Access) (v : Nat) (s : State) : Answer := s.effect (handoverWindowOpen acc v)

end Sys2Proof.Machine
end

