-- ==== Sys2Proof/Machine/Tariff.lean ====
section
/-! DEFINITION. Calendar time, the calendar image, the tariff lookup, and the active and passive calendars (R187–R193, R207). -/

namespace Sys2Proof.Machine

/-! ### Calendar time (R187) -/

/-- A date of the proleptic Gregorian calendar. -/
structure Date where
  year : Int
  month : Nat
  day : Nat
  deriving DecidableEq, Repr

/-- The date of a day number counted from 1970-01-01. -/
def dateOf (dn : Int) : Date :=
  let z := dn + 719468
  let era := z / 146097
  let doe := z % 146097
  let yoe := (doe - doe / 1460 + doe / 36524 - doe / 146096) / 365
  let doy := doe - (365 * yoe + yoe / 4 - yoe / 100)
  let mp := (5 * doy + 2) / 153
  let day := (doy - (153 * mp + 2) / 5 + 1).toNat
  let month := (if mp < 10 then mp + 3 else mp - 9).toNat
  { year := yoe + era * 400 + (if month ≤ 2 then 1 else 0), month := month, day := day }

/-- The day number of a date. -/
def dayNumber (d : Date) : Int :=
  let y := if d.month ≤ 2 then d.year - 1 else d.year
  let era := y / 400
  let yoe := y % 400
  let mp : Int := if 2 < d.month then (d.month : Int) - 3 else (d.month : Int) + 9
  let doy := (153 * mp + 2) / 5 + (d.day : Int) - 1
  era * 146097 + (yoe * 365 + yoe / 4 - yoe / 100 + doy) - 719468

/-- The year is a leap year. -/
def leapYear (y : Int) : Bool := decide (y % 4 = 0) && (decide (y % 100 ≠ 0) || decide (y % 400 = 0))

/-- The days of a month; none for a month that is not one. -/
def daysIn (leap : Bool) (month : Nat) : Nat :=
  if month = 0 ∨ 12 < month then 0
  else if month = 2 then (if leap then 29 else 28)
  else if month = 4 ∨ month = 6 ∨ month = 9 ∨ month = 11 then 30
  else 31

/-- TRF_STD_OFS in minutes, clamped to ±1440. -/
def Chip.stdOffset (c : Chip) : Int := clampI (-1440) 1440 (c.rdS TRF_STD_OFS_ofs)

/-- TS − t: the offset of standard time in seconds. -/
def Chip.tsOffset (c : Chip) : Int := 60 * c.stdOffset - c.rdS TRF_TAI_UTC_ofs

/-- TS of a ledger clock value. -/
def Chip.standardTime (c : Chip) (lc : Nat) : Int := (lc / 8000 : Nat) + c.tsOffset

/-- The minute of a day of a time in seconds. -/
def minuteOf (t : Int) : Nat := (t % 86400 / 60).toNat

/-! ### The calendar image (R188) -/

/-- Bits hi..lo of a word of a calendar. -/
def calBits (cal : Sparse Word) (k lo w : Nat) : Nat := ((Sparse.get (fun _ => 0) cal k).extractLsb' lo w).toNat

/-- The CRC of a calendar image. -/
def calCrc (cal : Sparse Word) : Nat :=
  crc32 ((List.range 553).flatMap fun k => leBytes 4 (calBits cal k 0 32))

/-- The start of season s as a number that grows through the year. -/
def seasonStart (cal : Sparse Word) (s : Nat) : Nat :=
  (calBits cal s 5 4 * 32 + calBits cal s 0 5) * 2048 + calBits cal s 9 11

/-- Season s is used with a month of the year. -/
def seasonUsed (cal : Sparse Word) (s : Nat) : Bool := decide (1 ≤ calBits cal s 5 4) && decide (calBits cal s 5 4 ≤ 12)

/-- The dst of season s, in minutes. -/
def seasonDst (cal : Sparse Word) (s : Nat) : Int := signed 8 (calBits cal s 24 8)

/-- Of the seasons given, the one with the latest start. -/
def latestSeason (cal : Sparse Word) (l : List Nat) : Option Nat :=
  l.foldl (fun (b : Option Nat) s =>
    match b with
    | none => some s
    | some r => if seasonStart cal r < seasonStart cal s then some s else some r) none

/-- The season in force at a standard time (R189). -/
def seasonAt (cal : Sparse Word) (ts : Int) : Option Nat :=
  let d := dateOf (ts / 86400)
  let key := (d.month * 32 + d.day) * 2048 + minuteOf ts
  let used := (List.range 8).filter (seasonUsed cal)
  match latestSeason cal (used.filter fun s => decide (seasonStart cal s ≤ key)) with
  | some s => some s
  | none => latestSeason cal used

/-- Calendar time of a standard time. -/
def calendarTime (cal : Sparse Word) (ts : Int) : Int :=
  ts + 60 * (match seasonAt cal ts with
    | some s => seasonDst cal s
    | none => 0)

/-- Special day e matches a date. -/
def specialMatches (cal : Sparse Word) (e : Nat) (d : Date) : Bool :=
  let k := 296 + e
  decide (calBits cal k 31 1 = 1) && (decide (calBits cal k 0 7 = 0) || decide ((calBits cal k 0 7 : Int) + 2000 = d.year)) &&
    decide (calBits cal k 7 4 = d.month) && decide (calBits cal k 11 5 = d.day)

/-- Field lo.. of point i of day profile d. -/
def pointBits (cal : Sparse Word) (d i lo w : Nat) : Nat := calBits cal (40 + 8 * d + i / 2) (16 * (i % 2) + lo) w

/-- The valid points of day profile d, by index. -/
def validPoints (cal : Sparse Word) (d : Nat) : List Nat := (List.range 16).filter fun i => pointBits cal d i 15 1 == 1

/-- Of the points given, the one with the greatest minute. -/
def latestPoint (cal : Sparse Word) (d : Nat) (l : List Nat) : Option Nat :=
  l.foldl (fun (b : Option Nat) i =>
    match b with
    | none => some i
    | some r => if pointBits cal d r 0 11 < pointBits cal d i 0 11 then some i else some r) none

/-- What the lookup of R189 gives. -/
structure TariffChoice where
  tariff : Nat := 1
  season : Nat := 0
  week : Nat := 0
  day : Nat := 0
  special : Bool := false
  /-- The day number of TC. -/
  dn : Int := 0
  deriving DecidableEq, Repr

/-- The lookup of R189 at a standard time. A calendar with no season gives T1 (R209). -/
def lookupTariff (cal : Sparse Word) (ts : Int) : TariffChoice :=
  match seasonAt cal ts with
  | none => { dn := ts / 86400 }
  | some s =>
    let tc := ts + 60 * seasonDst cal s
    let dn := tc / 86400
    let week := calBits cal s 20 4
    let special := (List.range 256).find? fun e => specialMatches cal e (dateOf dn)
    let wd := ((dn + 3) % 7).toNat
    let day := match special with
      | some e => calBits cal (296 + e) 16 5
      | none => calBits cal (8 + 2 * week + wd / 4) (8 * (wd % 4)) 5
    let pts := validPoints cal day
    let pt := match latestPoint cal day (pts.filter fun i => decide (pointBits cal day i 0 11 ≤ minuteOf tc)) with
      | some i => some i
      | none => latestPoint cal day pts
    { tariff := match pt with
        | some i => pointBits cal day i 12 3 + 1
        | none => 1
      season := s, week := week, day := day, special := special.isSome, dn := dn }

/-- The tariff for a ledger clock value; T1 while the active calendar is at fault (R209). -/
def Chip.tariffAt (c : Chip) (lc : Nat) : TariffChoice :=
  let t := lookupTariff c.trf.active (c.standardTime lc)
  if c.flag TRF_STATUS_cal_fault then { t with tariff := 1 } else t

/-- The block with the tariff state changed. -/
def Chip.setTrf (c : Chip) (f : Tariff → Tariff) : Chip := { c with trf := f c.trf }

/-- The base of the TRF page. -/
def trfPage : Nat := 0x40101000

/-- Step 3 of R202: the tariff for LC + 1, TRF_STATUS and its events (R189, R207). -/
def Chip.lookupNext (c : Chip) : Chip :=
  let t := c.tariffAt (c.lc + 1)
  let was := c.trf.next
  let season := c.rd TRF_STATUS_season
  let entered := t.special && (!c.flag TRF_STATUS_special || (c.tariffAt c.lc).dn != t.dn)
  let c := c.setTrf fun x => { x with next := t.tariff }
  let c := (((c.put TRF_STATUS_tariff t.tariff).put TRF_STATUS_season t.season).put TRF_STATUS_day_profile t.day).put
    TRF_STATUS_week t.week
  let c := c.setFlag TRF_STATUS_special t.special
  let c := if t.tariff ≠ was then c.raiseEv trfPage 0 else c
  let c := if t.season ≠ season then c.raiseEv trfPage 1 else c
  if entered then c.raiseEv trfPage 5 else c

/-! ### The passive calendar (R191–R193) -/

/-- The passive calendar is armed. -/
def Chip.calArmed (c : Chip) : Bool := c.rd TRF_PSTATE_state == 1

/-- A word of the passive calendar is stored; while it is armed the write is ignored and marked (R192). -/
def Chip.storeCal (c : Chip) (k v : Nat) : Chip :=
  if c.calArmed then c.setFlag TRF_PSTATE_wrote_armed true
  else if 552 < k then c
  else c.setTrf fun x => { x with passive := Sparse.set (fun _ => 0) x.passive k (BitVec.ofNat 32 v), pcrcDue := true }

/-- The plane owns the TRF page. -/
def Chip.ownsTrf (c : Chip) (acc : Access) : Bool := initiatorPlane acc.by_ == c.rd (ownerFld trfPage)

/-- Every access by the owner advances the word address (R191). -/
def Chip.advanceCal (c : Chip) (acc : Access) : Chip :=
  if c.ownsTrf acc then c.put TRF_CAL_ADDR_word (c.rd TRF_CAL_ADDR_word + 1) else c

/-- An access to TRF_CAL_DATA (R191). `mirror` names the word of a write that Near mirrors to this module. -/
def calendarDataAccess (acc : Access) (write : Bool) (v : Nat) (mirror : Option Nat) (c : Chip) : Chip :=
  match mirror with
  | some k => if c.isOff then c.storeCal k v else c
  | none =>
    if write then
      if c.isOff ∧ c.ownsTrf acc ∧ (c.writeViolation acc TRF_CAL_DATA.addr v).isNone then
        c.violate acc TRF_CAL_DATA.addr 0 true
      else c.write acc TRF_CAL_DATA.addr v fun c =>
        let k := c.rd TRF_CAL_ADDR_word
        let c := if c.flag TRF_CAL_ADDR_bank then c else (c.storeCal k v).mirror (.calendar k v)
        c.advanceCal acc
    else c.read acc TRF_CAL_DATA.addr fun c =>
      let k := c.rd TRF_CAL_ADDR_word
      let w := if 552 < k then 0 else calBits (if c.flag TRF_CAL_ADDR_bank then c.trf.active else c.trf.passive) k 0 32
      { c.advanceCal acc with rdata := w }

/-- CALENDAR_DATA_ACCESS (R191). -/
def execCalendarDataAccess (acc : Access) (write : Bool) (v : Nat) (mirror : Option Nat) (s : State) : Answer :=
  s.effect (calendarDataAccess acc write v mirror)

/-- Minutes that do not rise strictly, or a minute past the end of a day. -/
def pointsBad (cal : Sparse Word) (d : Nat) : Bool :=
  let ms := (validPoints cal d).map fun i => pointBits cal d i 0 11
  ms.any (fun m => decide (1439 < m)) || (ms.zip (ms.drop 1)).any fun p => decide (p.2 ≤ p.1)

/-- A used season breaks a rule of R192. -/
def seasonBad (cal : Sparse Word) (s : Nat) : Bool :=
  calBits cal s 5 4 != 0 &&
    (decide (12 < calBits cal s 5 4) || calBits cal s 0 5 == 0 || decide (1439 < calBits cal s 9 11) ||
      (List.range 8).any fun r => r != s && calBits cal r 5 4 != 0 && seasonStart cal r == seasonStart cal s)

/-- A valid special day has a date that no year, or no matching year, contains. -/
def specialBad (cal : Sparse Word) (e : Nat) : Bool :=
  let k := 296 + e
  let y := calBits cal k 0 7
  let n := daysIn (y == 0 || leapYear (2000 + y)) (calBits cal k 7 4)
  calBits cal k 31 1 == 1 && (calBits cal k 11 5 == 0 || decide (n < calBits cal k 11 5))

/-- The error of R192 that a calendar has; 0 for none. -/
def calendarError (cal : Sparse Word) : Nat :=
  if (List.range 32).any (pointsBad cal) then 1
  else if (List.range 8).any (seasonBad cal) then 2
  else if (List.range 256).any (specialBad cal) then 3
  else if (List.range 8).all (fun s => calBits cal s 5 4 == 0) then 4
  else 0

/-- The passive calendar is validated, and armed or refused (R192, R193). -/
def Chip.armCalendar (c : Chip) : Chip :=
  if c.calArmed then c
  else
    let e := calendarError c.trf.passive
    let c := c.put TRF_PSTATE_error e
    if e ≠ 0 then (c.put TRF_PSTATE_state 3).raiseEv trfPage 3
    else
      let at_ := c.rd64 TRF_PACT_LO_lc TRF_PACT_HI_lc
      let c := (c.put TRF_PSTATE_state 1).setFlag TRF_PSTATE_wrote_armed false
      let c := c.setFlag TRF_PSTATE_late (decide (at_ ≤ c.lc + 1))
      c.setTrf fun x => { x with activateAt := at_, armStride := c.stride }

/-- A write of TRF_PCMD: on Off only Near's mirrored one is admitted, which carries Near's TRF_PACT (R191). -/
def Chip.pcmd (c : Chip) (acc : Access) (v : Nat) (mirror : Option Nat) (f : Chip → Chip) : Chip :=
  match mirror with
  | some at_ =>
    if ¬ c.isOff then c
    else f (if c.calArmed then c else c.put64 TRF_PACT_LO_lc TRF_PACT_HI_lc at_)
  | none =>
  if c.isOff ∧ c.ownsTrf acc ∧ (c.writeViolation acc TRF_PCMD.addr v).isNone then c.violate acc TRF_PCMD.addr 0 true
  else c.write acc TRF_PCMD.addr v fun c => f (c.mirror (.calendarCmd v (c.rd64 TRF_PACT_LO_lc TRF_PACT_HI_lc)))

/-- TRF_PCMD.arm; with cancel in the same write nothing changes (R192). -/
def calendarArm (acc : Access) (v : Nat) (mirror : Option Nat) (c : Chip) : Chip :=
  c.pcmd acc v mirror fun c => if v % 4 = 1 then c.armCalendar else c

/-- CALENDAR_ARM (R192). -/
def execCalendarArm (acc : Access) (v : Nat) (mirror : Option Nat) (s : State) : Answer := s.effect (calendarArm acc v mirror)

/-- TRF_PCMD.cancel ends an arm (R192). -/
def calendarCancel (acc : Access) (v : Nat) (mirror : Option Nat) (c : Chip) : Chip :=
  c.pcmd acc v mirror fun c => if v % 4 = 2 ∧ c.calArmed then c.put TRF_PSTATE_state 4 else c

/-- CALENDAR_CANCEL (R192). -/
def execCalendarCancel (acc : Access) (v : Nat) (mirror : Option Nat) (s : State) : Answer :=
  s.effect (calendarCancel acc v mirror)

/-- Boundary processing is suspended (R205). -/
def Chip.suspended (c : Chip) : Bool := c.flag DMD_STATUS_suspended

/-- The armed calendar activates in step 3 of this Stride (R193). -/
def Chip.activationDue (c : Chip) : Bool :=
  c.calArmed && !c.suspended && decide (c.trf.activateAt ≤ c.lc + 1) && c.trf.armStride != c.stride

/-- The calendars swap (R193), and the lookup of this Stride uses the new one (R206). cal_fault stays until the next configuration load
(DESIGN CHOICE, log 117: the spec does not say whether a sound passive calendar ends it). -/
def calendarActivate (c : Chip) : Chip :=
  if ¬ c.activationDue then c
  else
    let before := calCrc c.trf.active
    let after := calCrc c.trf.passive
    let label := calBits c.trf.passive 552 0 32
    let c := c.setTrf fun x => { x with active := x.passive, passive := x.active, pcrcDue := false }
    let c := ((c.put TRF_PSTATE_state 2).put64 TRF_ACT_LO_lc TRF_ACT_HI_lc (c.lc + 1)).put TRF_ACAL_CRC_crc after
    let c := (c.put TRF_PCAL_CRC_crc before).raiseEv trfPage 2
    let c := c.appendAudit (c.auditHead 6 ++ leBytes 4 before ++ leBytes 4 after ++ fit 16 [] ++ leBytes 4 label)
    (c.journal (.activation (c.lc + 1) after before)).lookupNext

/-- CALENDAR_ACTIVATE (R193). -/
def execCalendarActivate (s : State) : Answer := s.effect calendarActivate

/-- TRF_PCAL_CRC follows the passive calendar after a write (R207). -/
def passiveCrcUpdate (c : Chip) : Chip :=
  if c.trf.pcrcDue then
    (c.put TRF_PCAL_CRC_crc (calCrc c.trf.passive)).setTrf fun x => { x with pcrcDue := false }
  else c

/-- PASSIVE_CRC_UPDATE (R207). -/
def execPassiveCrcUpdate (s : State) : Answer := s.effect passiveCrcUpdate

end Sys2Proof.Machine
end

