-- ==== Sys2Proof/Machine/Demand.lean ====
section
/-! DEFINITION. Maximum demand and billing periods: the grid, sub-intervals, windows, maxima, edge actions and closes (R194–R206). -/

namespace Sys2Proof.Machine

/-- The block with the demand engine changed. -/
def Chip.setDmd (c : Chip) (f : Demand → Demand) : Chip := { c with dmd := f c.dmd }

/-- The base of the DMD page. -/
def dmdPage : Nat := 0x40102000

/-- Flags of R199. -/
def flagShort : Nat := 1
def flagLong : Nat := 2
def flagTimeCorrected : Nat := 4
def flagForward : Nat := 8
def flagPowerFail : Nat := 16
def flagInterrupted : Nat := 32
def flagCfgChange : Nat := 64
def flagTimeInvalid : Nat := 128
def flagHeld : Nat := 256
def flagProvisional : Nat := 512
def flagOff : Nat := 2048

/-! ### Configuration and grid (R194, R195) -/

/-- D in minutes of a length code (R194). -/
def demandMinutes (len : Nat) : Nat := nth [1, 2, 3, 5, 10, 15, 20, 30, 60] len

/-- The configuration of the registers comes into force (R194): Ls, k and Wn, or cfg_invalid. While it is invalid DMD_SUBLEN and
DMD_NOMLEN keep the last valid values and DMD_NEXT reads 0 (DESIGN CHOICE, log 117: the spec gives no value). -/
def Chip.loadDemand (c : Chip) : Chip :=
  let len := c.rd DMD_CFG_len
  let d := demandMinutes len
  let k := if c.flag DMD_CFG_mode then c.rd DMD_CFG_sub else 1
  let valid := decide (len ≤ 8) && k != 0 && (d * 60) % k == 0
  let was := c.flag DMD_STATUS_cfg_invalid
  let c := c.setDmd fun x => { x with valid := valid, en := c.rd DMD_EN_LO_en + 2 ^ 32 * c.rd DMD_EN_HI_en }
  let c := (c.setFlag DMD_STATUS_cfg_invalid !valid).faultIs 5 0x1900 0 !valid
  let c := if ¬ valid ∧ ¬ was then c.raiseEv dmdPage 3 else c
  if ¬ valid then c
  else
    let ls := d * 480000 / k
    let c := c.setDmd fun x => { x with ls := ls, k := k, wn := k * ls }
    (c.put DMD_SUBLEN_ls ls).put DMD_NOMLEN_wn (k * ls)

/-- The first grid point above x (R195). -/
def Chip.gridAfter (c : Chip) (x : Nat) : Nat :=
  x + c.dmd.ls - (((x : Int) + 8000 * c.tsOffset) % (c.dmd.ls : Int)).toNat

/-- The end E of the open sub-interval (R195); none while the configuration is invalid. -/
def Chip.subEnd (c : Chip) : Option Nat :=
  if c.dmd.isOpen ∧ c.dmd.valid then some (c.gridAfter (max c.dmd.start c.dmd.hw)) else none

/-- Some sum of the open or of a closed sub-interval of the meter is not zero, or some flag of its own. -/
def Meter.hasDemand (x : Meter) : Bool :=
  x.zImp != 0 || x.zExp != 0 || x.zFlags != 0 || x.closed.any fun s => s.imp != 0 || s.exp != 0 || s.flags != 0

/-- Meter m takes part in demand: it is enabled, and it has members or sums from when it had (R196, R206). -/
def Chip.inDemand (c : Chip) (m : Nat) : Bool := bit c.dmd.en m && ((c.meter m).active || (c.meter m).hasDemand)

/-- The registers that show the demand engine (R208). -/
def Chip.showDemand (c : Chip) : Chip :=
  let c := (c.put64 DMD_HW_LO_lc DMD_HW_HI_lc c.dmd.hw).put DMD_FLAGS_flags (if c.dmd.isOpen then c.dmd.flags else 0)
  let n := min c.dmd.k c.dmd.closed.length
  let c := (c.setFlag DMD_STATUS_window_full (decide (c.dmd.k ≤ c.dmd.closed.length))).put DMD_STATUS_sub_index n
  c.put64 DMD_NEXT_LO_lc DMD_NEXT_HI_lc (c.subEnd.getD 0)

/-! ### Windows and maxima (R196, R198) -/

/-- d of R196 for the energy of a window and its divisor. -/
def demandOf (zw : Int) (n : Nat) : Nat :=
  if zw < 0 then 0
  else
    let d := (rheDiv (zw * 28800) ((n * 2 ^ 72 : Nat) : Int)).toNat
    if 2 ^ 32 ≤ d then 0xFFFFFFFF else d

/-- Maximum j of a meter. -/
def Meter.maxOf (x : Meter) (j : Nat) : Maximum := Sparse.get (fun _ => {}) x.maxima j

/-- Maximum j of meter m takes a value: its journal entry and the event (R198, R208). -/
def Chip.setMax (c : Chip) (m j : Nat) (v : Maximum) : Chip :=
  let c := c.modMeter m fun x => { x with maxima := Sparse.set (fun _ => {}) x.maxima j v }
  (c.journal (.maximum m j v.w v.lc v.flags)).raiseEv dmdPage 1

/-- Maximum j takes d when d strictly exceeds it. -/
def Chip.raiseMax (c : Chip) (m j d e flags : Nat) : Chip :=
  if ((c.meter m).maxOf j).w < d then c.setMax m j { w := d, lc := e, flags := flags } else c

/-- The window that ends at E gives its demand for meter m (R196, R198). -/
def Chip.windowClose (c : Chip) (m e : Nat) : Chip :=
  let x := c.meter m
  let k := c.dmd.k
  let na := ((c.dmd.closed.take k).map (fun p => p.1)).foldl (· + ·) 0
  let n := max na c.dmd.wn
  let shared := (c.dmd.closed.take k).foldl (fun (f : Nat) p => f ||| p.2) 0
  let own := (x.closed.take k).foldl (fun (f : Nat) p => f ||| p.flags) 0
  let flags := shared ||| own ||| (if na < c.dmd.wn then flagShort else if c.dmd.wn < na then flagLong else 0)
  let di := demandOf (sumI ((x.closed.take k).map fun p => p.imp)) n
  let de := demandOf (sumI ((x.closed.take k).map fun p => p.exp)) n
  let c := c.setMeter m { x with lastImp := di, lastExp := de, lastFlags := flags }
  if bit flags 9 then c
  else
    let t := c.tariffOf m
    (((c.raiseMax m 0 di e flags).raiseMax m t di e flags).raiseMax m 9 de e flags).raiseMax m (9 + t) de e flags

/-- The running demand of R196 of meter m. -/
def Chip.runningDemand (c : Chip) (m : Nat) : Nat × Nat :=
  let x := c.meter m
  let l := x.closed.take (c.dmd.k - 1)
  if ¬ c.dmd.isOpen ∨ ¬ c.inDemand m then (0, 0)
  else
    (demandOf (x.zImp + sumI (l.map fun p => p.imp)) c.dmd.wn, demandOf (x.zExp + sumI (l.map fun p => p.exp)) c.dmd.wn)

/-! ### Sub-intervals (R195, R199) -/

/-- The open sub-interval closes at E with further flags; one of zero length is not recorded (R202). -/
def Chip.closeSub (c : Chip) (e extra : Nat) : Chip :=
  if ¬ c.dmd.isOpen then c
  else
    let start := c.dmd.start
    let c := c.setDmd fun x => { x with isOpen := false, hw := max x.hw e }
    if e ≤ start then c
    else
      let fl := c.dmd.flags ||| extra ||| (if c.isOff then flagOff else 0)
      let c := (c.setDmd fun x => { x with closed := ((e - start, fl) :: x.closed).take 15 }).raiseEv dmdPage 0
      let c := forN c.variant.meters (fun m c =>
        if ¬ c.inDemand m then c
        else
          let x := c.meter m
          let c := (c.journal (.close m 0 start e (fl ||| x.zFlags) x.zImp)).journal (.close m 1 start e (fl ||| x.zFlags) x.zExp)
          c.setMeter m
            { x with
              closed := ({ imp := x.zImp, exp := x.zExp, flags := x.zFlags } :: x.closed).take 15
              zImp := 0, zExp := 0, zFlags := 0 }) c
      if c.dmd.valid then
        forN c.variant.meters (fun m c => if c.inDemand m then c.windowClose m e else c) c
      else c

/-- A sub-interval opens at S with flags. -/
def Chip.openSub (c : Chip) (s flags : Nat) : Chip :=
  let c := c.setDmd fun x => { x with isOpen := true, start := s, flags := flags }
  forN c.variant.meters (fun m c =>
    let x := c.meter m
    if x.zImp = 0 ∧ x.zExp = 0 ∧ x.zFlags = 0 then c else c.setMeter m { x with zImp := 0, zExp := 0, zFlags := 0 }) c

/-- A window restart empties the list of closed sub-intervals (R197). -/
def Chip.restartDemand (c : Chip) (reason : Nat) : Chip :=
  let c := c.setDmd fun x => { x with closed := [] }
  let c := forN c.variant.meters (fun m c => if (c.meter m).closed = [] then c else c.modMeter m fun x => { x with closed := [] }) c
  c.journal (.restart c.dmd.hw reason)

/-! ### Edge actions (R202, R204–R206) -/

/-- The flag of a correction of R78. -/
def correctionFlag (row : LedgerRow) : Nat :=
  match row with
  | .forward => flagForward
  | .backward => flagTimeCorrected
  | _ => 0

/-- The edge actions, merged into one (R202); L is the ledger clock before R78 resolved the edge. -/
def Chip.demandEdge (c : Chip) (row : LedgerRow) (l : Nat) : Chip :=
  let d := c.dmd
  let corr := correctionFlag row
  let moved := d.restart || corr != 0
  let cfg := d.cfgChange || (moved && d.rescale)
  let fl := corr ||| (if cfg then flagCfgChange else 0)
  let c := c.setDmd fun x => { x with restart := false, cfgChange := false, rescale := false }
  if moved || d.cfgChange then
    let at_ := if moved then l + 1 else c.lc
    let c := if d.isOpen && moved && decide (d.start < at_) then c.raiseEv dmdPage 2 else c
    let c := c.closeSub at_ (fl ||| (if d.restart then flagPowerFail else 0))
    let c := (c.setDmd fun x => { x with hw := max x.hw at_ }).loadDemand
    let c := c.restartDemand (if d.restart then 2 else if corr ≠ 0 then 1 else 3)
    c.openSub c.lc (fl ||| (if d.restart then flagInterrupted else 0))
  else if d.rescale then
    (c.setDmd fun x => { x with flags := x.flags ||| flagCfgChange }).restartDemand 4
  else c

/-- A sub-interval reached its grid end: it closes and the next opens (R195, step 2 of R202). While processing catches up after a
released PFW_N it carries power_fail (R205). -/
def demandClose (c : Chip) : Chip :=
  if ¬ c.flag LDG_STATUS_restored ∨ c.suspended then c
  else match c.subEnd with
    | some e =>
      if e ≤ c.lc + 1 then
        ((c.closeSub e (if c.dmd.catchUp then flagPowerFail else 0)).openSub e 0).showDemand
      else c
    | none => c

/-- DEMAND_CLOSE (R195). -/
def execDemandClose (s : State) : Answer := s.effect demandClose

/-! ### Billing periods (R200, R201) -/

/-- The standard times at which calendar time can first reach X: X less each season's dst, and the season starts near it. -/
def reachCandidates (cal : Sparse Word) (x : Int) : List Int :=
  let used := (List.range 8).filter (seasonUsed cal)
  let y := (dateOf (x / 86400)).year
  let starts := [y - 1, y, y + 1].flatMap fun (yr : Int) => used.map fun s =>
    dayNumber ⟨yr, calBits cal s 5 4, calBits cal s 0 5⟩ * 86400 + 60 * (calBits cal s 9 11 : Int)
  (if used = [] then [x] else used.map fun s => x - 60 * seasonDst cal s) ++
    starts.filter fun u => decide (x - 7680 ≤ u) && decide (u ≤ x + 7680)

/-- The first standard time, in seconds, at which TC reaches or passes X. -/
def firstReach (cal : Sparse Word) (x : Int) : Int :=
  let l := (reachCandidates cal x).filter fun u => decide (x ≤ calendarTime cal u)
  match l with
  | [] => x
  | u :: us => us.foldl (fun a b => if b < a then b else a) u

/-- The month of a calendar time, counted in months. -/
def monthOf (tc : Int) : Int := let d := dateOf (tc / 86400); 12 * d.year + (d.month : Int) - 1

/-- The calendar time of the monthly close of a month (R207). -/
def Chip.monthTarget (c : Chip) (month : Int) : Int :=
  let day := clampN 1 28 (c.rd TRF_BCLOSE_day)
  let minute := min 1439 (c.rd TRF_BCLOSE_minute)
  dayNumber ⟨month / 12, (month % 12).toNat + 1, day⟩ * 86400 + 60 * (minute : Int)

/-- The latest monthly instant at or before the standard time `hi` (scaled by 8000): the instant, and its month. -/
def Chip.monthlyInstant (c : Chip) (hi : Int) : Option (Int × Int) :=
  let m := monthOf (calendarTime c.trf.active (hi / 8000))
  ([m + 1, m, m - 1].map fun k => (8000 * firstReach c.trf.active (c.monthTarget k), k)).find? fun p => decide (p.1 ≤ hi)

/-- The calendar time of a standard time, both scaled by 8000. -/
def Chip.scaledCalendar (c : Chip) (h : Int) : Int := h + 8000 * (calendarTime c.trf.active (h / 8000) - h / 8000)

/-- The instants at or before `hi` at which special day e begins in the years about it, of the days that calendar time has not reached. -/
def Chip.specialInstants (c : Chip) (e : Nat) (reached hi : Int) : List Int :=
  let cal := c.trf.active
  let k := 296 + e
  if calBits cal k 30 2 ≠ 3 then []
  else
    let y := (dateOf (hi / 8000 / 86400)).year
    let month := calBits cal k 7 4
    let day := calBits cal k 11 5
    ([y - 1, y, y + 1].filter fun (yr : Int) =>
        (calBits cal k 0 7 == 0 || decide ((calBits cal k 0 7 : Int) + 2000 = yr)) && day != 0 &&
          decide (day ≤ daysIn (leapYear yr) month)).filterMap fun yr =>
      let x := dayNumber ⟨yr, month, day⟩ * 86400
      let u := 8000 * firstReach cal x
      if reached < 8000 * x ∧ u ≤ hi then some u else none

/-- The latest of a list of instants. -/
def latestOf (l : List Int) : Option Int :=
  l.foldl (fun (b : Option Int) u =>
    match b with
    | none => some u
    | some v => if v < u then some u else some v) none

/-- The billing closes that this Stride owes (R200, R201): targets that calendar time reaches for the first time, and a commanded close.
`moved` says that the time scale changed at this edge; a target that a changed scale or calendar jumps over is due at the ledger clock of
the jump. One close for a TRF_BCLOSE_CMD and a scheduled instant of the same Stride is stamped with the instant (DESIGN CHOICE, log 117:
R200 and R201 give one stamp each). -/
def Chip.billingDues (c : Chip) (moved : Bool) : Chip :=
  let scale := 8000 * c.tsOffset
  let hi : Int := (c.lc + 1 : Nat) + scale
  let lo := c.trf.billedTo.getD (hi - 1)
  let reached := c.trf.reached.getD (c.scaledCalendar (hi - 1))
  let last := c.rd64 TRF_BLAST_LO_lc TRF_BLAST_HI_lc
  let lcOf (u : Int) : Nat := let v := (u - scale).toNat; if moved ∨ u ≤ lo then max v c.lc else v
  let monthly := if c.flag TRF_BCLOSE_monthly then
      (c.monthlyInstant hi).filter fun p =>
        decide (reached < 8000 * c.monthTarget p.2) && decide (last < lcOf p.1) && decide (c.trf.closedMonth.getD (p.2 - 1) < p.2)
    else none
  let special := if c.flag TRF_BCLOSE_special then
      latestOf (((List.range 256).flatMap fun e => c.specialInstants e reached hi).filter fun u => decide (last < lcOf u))
    else none
  let cmd := c.trf.closeCmd
  let stamp := match monthly, special with
    | some p, some u => some (lcOf (max p.1 u))
    | some p, none => some (lcOf p.1)
    | none, some u => some (lcOf u)
    | none, none => none
  let due := match stamp with
    | some x =>
      let earliest := match monthly, special with
        | some p, some u => min (lcOf p.1) (lcOf u)
        | _, _ => x
      some (x, (if monthly.isSome then 1 else 2), decide (earliest < c.lc + 1))
    | none => if cmd then some (c.lc, 3, false) else none
  c.setTrf fun x =>
    { x with
      billedTo := some (max lo hi), reached := some (max reached (c.scaledCalendar hi)), closeCmd := false, billDue := due
      closedMonth := match monthly with
        | some p => some p.2
        | none => x.closedMonth }

/-- The historic set of a close (R217). -/
def Chip.historicSet (c : Chip) (period lc reason : Nat) : List Nat :=
  let head := leBytes 4 period ++ leBytes 4 0 ++ leBytes 8 lc ++ [reason] ++ fit 7 [] ++ leBytes 8 c.stride ++ fit 28 []
  let body := (List.range c.variant.meters).flatMap fun m =>
    let x := c.meter m
    ((List.range 72).flatMap fun j => leBytes 8 (x.published j)) ++
      (List.range 18).flatMap fun j => let v := x.maxOf j; leBytes 4 v.w ++ leBytes 8 v.lc ++ leBytes 4 v.flags
  let all := head ++ leBytes 4 (crc32 head) ++ body
  all ++ leBytes 4 (crc32 all)

/-- A billing period closes (R200). -/
def billingClose (c : Chip) : Chip :=
  match c.trf.billDue with
  | none => c
  | some (lc, reason, late) =>
    if c.suspended then c
    else
      let c := (c.setTrf fun x => { x with billDue := none }).inc TRF_BPERIOD_count
      let period := c.rd TRF_BPERIOD_count
      let slot := (period + 2 ^ 32 - 1) % 16
      let c := (c.put64 TRF_BLAST_LO_lc TRF_BLAST_HI_lc lc).put TRF_BLAST_ST_reason reason
      let c := (c.setFlag TRF_BLAST_ST_late late).raiseEv trfPage 4
      let c := c.store (0x3200000 + slot * 0x10000) (c.historicSet period lc reason)
      let c := c.journal (.billing period lc reason slot)
      forN c.variant.meters (fun m c => if (c.meter m).maxima = [] then c else c.modMeter m fun x => { x with maxima := [] }) c

/-- BILLING_CLOSE (R200). -/
def execBillingClose (s : State) : Answer := s.effect billingClose

end Sys2Proof.Machine
end

