-- ==== Sys2Proof/Machine/Ledger.lean ====
section
/-! DEFINITION. The ledger store: saves, the boundary journal, commits and tail records, the power cut, the restore, and the LDG page
(R210–R226, R237). -/

namespace Sys2Proof.Machine

/-- The block with its ledger store changed. -/
def Chip.setLed (c : Chip) (f : Ledger → Ledger) : Chip := { c with led := f c.led }

/-- The base of the LDG page. -/
def ldgPage : Nat := 0x40103000

/-! ### Captures (R215, R219) -/

/-- What a save holds of a meter (R215). -/
def Meter.saved (x : Meter) : Meter :=
  { acc := x.acc, base := x.base, prov := x.prov, i2 := x.i2, lossImp := x.lossImp, lossExp := x.lossExp
    baseLossImp := x.baseLossImp, baseLossExp := x.baseLossExp, c := x.c, cr := x.cr
    zImp := x.zImp, zExp := x.zExp, zFlags := x.zFlags, closed := x.closed, maxima := x.maxima
    lastImp := x.lastImp, lastExp := x.lastExp, lastFlags := x.lastFlags
    aggSag := x.aggSag, aggSwell := x.aggSwell, aggIntr := x.aggIntr }

/-- What a save holds of an element's power quality: its open events, with the holds and corrections of their Strides. -/
def Chip.savedEvents (c : Chip) (q : Quality) : Quality :=
  let f := c.touch (c.stride + 1)
  { sag := q.sag.map f, swell := q.swell.map f, intr := q.intr.map f }

/-- The meter with the holds and corrections of its aggregate events. -/
def Chip.savedAggregates (c : Chip) (x : Meter) : Meter :=
  let f := c.touch (c.stride + 1)
  { x with aggSag := x.aggSag.map f, aggSwell := x.aggSwell.map f, aggIntr := x.aggIntr.map f }

/-- The ledger state as it stands (R215). -/
def Chip.capture (c : Chip) (seq : Nat) : LedgerImage :=
  { seq := seq, stride := c.stride, lc := c.lc
    meters := c.meters.map fun p => (p.1, c.savedAggregates p.2.saved)
    dmd := c.dmd
    trf := { c.trf with active := [], passive := [] }
    period := c.rd TRF_BPERIOD_count, blast := c.rd64 TRF_BLAST_LO_lc TRF_BLAST_HI_lc, blastSt := c.rd TRF_BLAST_ST
    pstate := c.rd TRF_PSTATE, pact := c.rd64 TRF_PACT_LO_lc TRF_PACT_HI_lc, calCount := c.rd SFE_CAL_COUNT_count
    events := (c.elements.filter fun p => p.2.pq.anyOpen).map fun p => (p.1, c.savedEvents p.2.pq)
    journalNext := c.logNext 0, logs := c.led.logNext, config := c.led.config.getD 0, saveSeq := c.rd LDG_SAVE_SEQ_seq }

/-- Step 4 of R202: the records of the changes that applied at this edge are written. -/
def Chip.flushStepFour (c : Chip) : Chip :=
  let l := c.stg.stepFour
  let c : Chip := { c with stg := { c.stg with stepFour := [] } }
  l.foldl (fun (c : Chip) r =>
    match r with
    | .audit kind before after elements meters session =>
      let c := c.appendAudit (c.auditRecord kind before after elements meters session)
      if kind = 1 then c.setLed fun x => { x with auditAfter := some after } else c
    | .transfer values => c.appendLog 2 (values.flatMap (leBytes 8))
    | .journal e => c.journal e) c

/-! ### Saves (R214) -/

/-- A save is captured, or skipped while the previous one is being written. -/
def Chip.takeSave (c : Chip) : Chip :=
  if c.led.saving.isSome then (c.inc LDG_SAVE_SKIP_count).raiseEv ldgPage 1
  else
    let seq := c.led.nextSave
    let image := c.capture seq
    let c := c.setLed fun x => { x with saving := some image, nextSave := (seq + 1) % 2 ^ 32 }
    c.setFlag LDG_STATUS_save_busy true

/-- Step 5 of R202: the save of a Stride divisible by 8000, and one that LDG_CTRL.force_save asked for (R214); none while a commit
stands (R221). -/
def periodicSave (c : Chip) : Chip :=
  if ¬ c.flag LDG_STATUS_restored ∨ c.flag LDG_STATUS_committed then c
  else
    let c := c.flushStepFour
    let taken := (match c.led.saving with
      | some x => x.stride == c.stride
      | none => false) || (c.stride != 0 && c.rd64 LDG_SAVE_STRIDE_LO_stride LDG_SAVE_STRIDE_HI_stride == c.stride)
    let c := if c.stride % 8000 = 0 ∧ ¬ taken then c.takeSave else c
    match c.led.forceSave with
    | some s => if s < c.stride then (c.setLed fun x => { x with forceSave := none }).takeSave else c
    | none => c

/-- PERIODIC_SAVE (R214). -/
def execPeriodicSave (s : State) : Answer := s.effect periodicSave

/-- LDG_CTRL.force_save asks for one extra save (R214). -/
def forceSaveCmd (acc : Access) (v : Nat) (c : Chip) : Chip :=
  c.write acc LDG_CTRL.addr v fun c => if v % 2 = 1 then c.setLed fun x => { x with forceSave := some c.stride } else c

/-- FORCE_SAVE_CMD (R214). -/
def execForceSaveCmd (acc : Access) (v : Nat) (s : State) : Answer := s.effect (forceSaveCmd acc v)

/-- The write of a save ends with its trailer (R214). -/
def saveComplete (c : Chip) : Chip :=
  match c.led.saving with
  | none => c
  | some x =>
    let c := c.setLed fun l =>
      { l with saving := none, everSaved := true, saves := Sparse.insert l.saves (x.seq % 256) (some x) }
    let c := (c.setFlag LDG_STATUS_save_busy false).put LDG_SAVE_SEQ_seq x.seq
    (c.put64 LDG_SAVE_STRIDE_LO_stride LDG_SAVE_STRIDE_HI_stride x.stride).raiseEv ldgPage 0

/-- SAVE_COMPLETE (R214). -/
def execSaveComplete (s : State) : Answer := s.effect saveComplete

/-! ### The power cut (R218–R224) -/

/-- VIN falls below its threshold or the carrier drives PFW_N low, and the filtered signal asserts (R218). -/
def pfwNAssert (c : Chip) : Chip := c.setLed fun x => { x with asserted := true }

/-- PFW_N_ASSERT (R218). -/
def execPfwNAssert (s : State) : Answer := s.effect pfwNAssert

/-- A commit is captured, and a save whose write has not ended is abandoned (R219, R221). -/
def Chip.takeCommit (c : Chip) : Chip :=
  let c := c.flushStepFour
  let seq := c.led.nextCommit
  let k := c.capture seq
  let c := c.setLed fun x => { x.dropSaving with nextCommit := (seq + 1) % 2 ^ 32, writing := some k }
  (c.setFlag LDG_STATUS_save_busy false).put64 LDG_COMMIT_STRIDE_LO_stride LDG_COMMIT_STRIDE_HI_stride c.stride

/-- Step 6 on power fail: the commit of R219, after which steps 2 and 3 are suspended (R205). -/
def Chip.powerFailCommit (c : Chip) : Chip :=
  let c := c.takeCommit
  let c := (c.setLed fun x => { x with committed := x.writing }).setFlag LDG_STATUS_committed true
  (c.setFlag DMD_STATUS_suspended true).raiseEv dmdPage 4

/-- The sample at 60 µs finds PFW_N released after it was accepted: a type 8 entry, and processing resumes at the next Stride (R205, R218,
R224). -/
def Chip.pfwReleased (c : Chip) : Chip :=
  if c.led.asserted ∨ ¬ c.flag LDG_STATUS_pfw then c
  else
    let c := (c.setLed fun x => { x with pfwAge := 0 }).setFlag LDG_STATUS_pfw false
    let c := ((c.setFlag LDG_STATUS_brownout false).clearFault 5 0x1A06 0).raiseEv ldgPage 4
    if c.flag LDG_STATUS_committed then
      let c := (c.setFlag LDG_STATUS_committed false).journal (.released c.stride c.lc)
      (c.setLed fun x => { x with committed := none }).setDmd fun x => { x with resuming := true }
    else c

/-- The sample at 60 µs: the accepted level follows the filtered one, and once the ledger is restored the commit is taken while it is
asserted (R218, R219). -/
def pfwAccept (c : Chip) : Chip :=
  if ¬ c.led.asserted then c.pfwReleased
  else
    let c := if c.flag LDG_STATUS_pfw then c
      else ((c.setFlag LDG_STATUS_pfw true).inc LDG_PFW_CNT_count).raiseEv ldgPage 2
    if c.flag LDG_STATUS_restored ∧ ¬ c.flag LDG_STATUS_committed then c.powerFailCommit else c

/-- PFW_ACCEPT (R219). -/
def execPfwAccept (s : State) : Answer := s.effect pfwAccept

/-- The write of a commit ends with its CRC (R219); a reset that waits begins after its own (R224). -/
def commitWritten (c : Chip) : Chip :=
  match c.led.writing with
  | none => c
  | some k =>
    let c := c.setLed fun x =>
      { x with
        writing := none, commits := Sparse.insert x.commits (k.seq % 2) (some k), resetSeq := none
        resetDone := x.resetDone || x.resetSeq == some k.seq }
    c.raiseEv ldgPage 3

/-- COMMIT_WRITTEN (R219). -/
def execCommitWritten (s : State) : Answer := s.effect commitWritten

/-- The sums of a meter since the commit held it as k (R220). -/
def Meter.since (x k : Meter) : Meter :=
  { acc := (List.range 8).foldl (fun (a : Sparse Int) q => Sparse.set (fun _ => 0) a (9 * q) (x.accOf (9 * q) - k.accOf (9 * q))) []
    prov := (List.range 8).foldl (fun (a : Sparse Int) q => Sparse.set (fun _ => 0) a q (x.provOf q - k.provOf q)) []
    i2 := (x.i2 + 2 ^ 96 - k.i2) % 2 ^ 96, lossImp := x.lossImp - k.lossImp, lossExp := x.lossExp - k.lossExp
    zImp := x.zImp - k.zImp, zExp := x.zExp - k.zExp
    aggSag := x.aggSag, aggSwell := x.aggSwell, aggIntr := x.aggIntr }

/-- A tail record at step 6 of each Stride p + 8k while the accepted level stays asserted (R220). -/
def tailRecord (c : Chip) : Chip :=
  match c.led.committed with
  | none => c
  | some k =>
    let n := c.stride - k.stride
    if ¬ c.flag LDG_STATUS_pfw ∨ n = 0 ∨ n % 8 ≠ 0 then c
    else
      let t : LedgerImage :=
        { seq := n / 8, commit := k.seq, stride := c.stride, lc := c.lc
          meters := (List.range c.variant.meters).foldl (fun (a : Sparse Meter) m =>
            Sparse.set (fun _ => {}) a m (c.savedAggregates ((c.meter m).since (Sparse.get (fun _ => {}) k.meters m)))) []
          events := (c.elements.filter fun p => p.2.pq.anyOpen).map fun p => (p.1, c.savedEvents p.2.pq) }
      (c.setLed fun x => { x with tails := Sparse.insert x.tails (n / 8 % 48) (some t) }).put LDG_TAIL_k (n / 8)

/-- TAIL_RECORD (R220). -/
def execTailRecord (s : State) : Answer := s.effect tailRecord

/-- PFW_N has stayed asserted for 8000 Strides (R224). -/
def brownout (c : Chip) : Chip :=
  if c.flag LDG_STATUS_pfw ∧ 8000 ≤ c.led.pfwAge ∧ ¬ c.flag LDG_STATUS_brownout then
    ((c.setFlag LDG_STATUS_brownout true).setFault 5 0x1A06 0).raiseEv ldgPage 7
  else c

/-- BROWNOUT (R224). -/
def execBrownout (s : State) : Answer := s.effect brownout

/-- PFW_N releases without a reset: the next sample at 60 µs finds it (R218). -/
def pfwNRelease (c : Chip) : Chip := c.setLed fun x => { x with asserted := false }

/-- PFW_N_RELEASE (R224). -/
def execPfwNRelease (s : State) : Answer := s.effect pfwNRelease

/-- Step 6 of the Stride after a reset was requested: the reset commit (R224). -/
def resetCommit (c : Chip) : Chip :=
  match c.led.resetWanted with
  | some s =>
    if s < c.stride ∧ c.led.writing.isNone ∧ ¬ c.led.resetDone ∧ c.flag LDG_STATUS_restored ∧ ¬ c.flag LDG_STATUS_pfw then
      let seq := c.led.nextCommit
      c.takeCommit.setLed fun x => { x with resetSeq := some seq }
    else c
  | none => c

/-- RESET_COMMIT (R224). -/
def execResetCommit (s : State) : Answer := s.effect resetCommit

/-! ### The restore (R225, R226) -/

/-- Of a list of images, the one with the highest sequence. -/
def newest (l : List LedgerImage) : Option LedgerImage :=
  l.foldl (fun (b : Option LedgerImage) x =>
    match b with
    | none => some x
    | some y => if y.seq < x.seq then some x else some y) none

/-- The images of a region. -/
def images (m : Sparse (Option LedgerImage)) : List LedgerImage := m.filterMap fun p => p.2

/-- A meter takes the part that a save holds (R225). -/
def Meter.restoreFrom (x s : Meter) : Meter :=
  { x with
    acc := s.acc, base := s.base, prov := s.prov
    i2 := s.i2, lossImp := s.lossImp, lossExp := s.lossExp, baseLossImp := s.baseLossImp, baseLossExp := s.baseLossExp
    zImp := s.zImp, zExp := s.zExp, zFlags := s.zFlags, closed := s.closed, maxima := s.maxima
    lastImp := s.lastImp, lastExp := s.lastExp, lastFlags := s.lastFlags }

/-- The accruing state of a commit replaces that of the save (R219, R225). -/
def Meter.adopt (x k : Meter) : Meter :=
  { x with
    acc := k.acc, i2 := k.i2, lossImp := k.lossImp, lossExp := k.lossExp, zImp := k.zImp, zExp := k.zExp, zFlags := k.zFlags
    prov := k.prov }

/-- The provisional totals that this run accrued before the restore are added (R225). -/
def Meter.addOwn (x own : Meter) : Meter := forN 8 (fun q x => x.addProv q (own.provOf q)) x

/-- A tail record's sums are added, each total's also to tariff register t (R225). -/
def Meter.addTail (x d : Meter) (t : Nat) : Meter :=
  let x := (List.range 8).foldl (fun (x : Meter) q =>
    let v := d.accOf (9 * q)
    (((x.addAcc (9 * q) v).addAcc (9 * q + t) v).addProv q (d.provOf q))) x
  { x with
    i2 := (x.i2 + d.i2) % 2 ^ 96, lossImp := min (2 ^ 128 - 1) (x.lossImp + d.lossImp)
    lossExp := min (2 ^ 128 - 1) (x.lossExp + d.lossExp), zImp := x.zImp + d.zImp, zExp := x.zExp + d.zExp }

/-- Every meter of the variant changed. -/
def Chip.eachMeter (c : Chip) (f : Nat → Meter → Meter) : Chip :=
  forN c.variant.meters (fun m c => c.setMeter m (f m (c.meter m))) c

/-- The block takes the state of a save (R215, R225). -/
def Chip.adoptSave (c : Chip) (s : LedgerImage) : Chip :=
  let c := c.eachMeter fun m x => x.restoreFrom (Sparse.get (fun _ => {}) s.meters m)
  let c := c.setDmd fun d =>
    { d with isOpen := s.dmd.isOpen, start := s.dmd.start, hw := s.dmd.hw, flags := s.dmd.flags, closed := s.dmd.closed }
  let c := c.setTrf fun x =>
    { x with
      now := s.trf.now, next := s.trf.next, activateAt := s.trf.activateAt, reached := s.trf.reached, closedMonth := s.trf.closedMonth }
  let c := (c.put TRF_BPERIOD_count s.period).put64 TRF_BLAST_LO_lc TRF_BLAST_HI_lc s.blast
  let c := ((c.put TRF_BLAST_ST s.blastSt).put TRF_PSTATE s.pstate).put64 TRF_PACT_LO_lc TRF_PACT_HI_lc s.pact
  { c.put SFE_CAL_COUNT_count s.calCount with lc := s.lc }

/-- The scaled calendar time of a ledger clock value, and the month of the latest monthly target at or before it (R200). -/
def Chip.scaledStamp (c : Chip) (lc : Nat) : Int := c.scaledCalendar (lc + 8000 * c.tsOffset)
def Chip.stampMonth (c : Chip) (lc : Nat) : Option Int := (c.monthlyInstant (lc + 8000 * c.tsOffset)).map fun p => p.2

/-- A journal entry is replayed; `last` is the start and end of the sub-interval that the entry before closed (R216, R225). -/
def Chip.replay (c : Chip) (e : JournalEntry) (last : Option (Nat × Nat)) : Chip × Option (Nat × Nat) :=
  match e with
  | .close m q start stop flags z =>
    let c := if last = some (start, stop) then c
      else
        let c := c.setDmd fun d =>
          { d with
            closed := ((stop - start, flags - (flags &&& 0x600)) :: d.closed).take 15, hw := max d.hw stop, isOpen := true
            start := stop, flags := 0 }
        c.eachMeter fun m x =>
          if c.inDemand m then
            { x with closed := ({ imp := 0, exp := 0, flags := 0 } :: x.closed).take 15, zImp := 0, zExp := 0, zFlags := 0 }
          else { x with zImp := 0, zExp := 0, zFlags := 0 }
    let c := c.modMeter m fun x =>
      match x.closed with
      | s :: l => { x with closed := (if q = 0 then { s with imp := z, flags := flags } else { s with exp := z, flags := flags }) :: l }
      | [] => x
    (c, some (start, stop))
  | .maximum m j w lc flags =>
    (c.modMeter m fun x => { x with maxima := Sparse.set (fun _ => {}) x.maxima j { w := w, lc := lc, flags := flags } }, last)
  | .restart hw _ =>
    ((c.setDmd fun d => { d with closed := [], hw := max d.hw hw }).eachMeter fun _ x => { x with closed := [] }, last)
  | .billing period lc reason _ =>
    let c := (c.put TRF_BPERIOD_count period).put64 TRF_BLAST_LO_lc TRF_BLAST_HI_lc lc
    let c := c.setTrf fun x =>
      { x with
        reached := some (max (x.reached.getD (c.scaledStamp lc)) (c.scaledStamp lc))
        closedMonth := if reason % 4 = 1 then c.stampMonth lc else x.closedMonth }
    ((c.put TRF_BLAST_ST reason).eachMeter fun _ x => { x with maxima := [] }, last)
  | .activation lc active _ =>
    let c := if calCrc c.trf.active ≠ active ∧ calCrc c.trf.passive = active then
        let c := (c.put TRF_ACAL_CRC_crc active).put TRF_PCAL_CRC_crc (calCrc c.trf.active)
        c.setTrf fun x => { x with active := x.passive, passive := x.active, pcrcDue := false }
      else c
    ((c.put64 TRF_ACT_LO_lc TRF_ACT_HI_lc lc).put TRF_PSTATE_state 2, last)
  | .staged _ _ _ values items bases config =>
    let c := if c.led.config = some config then
        let before := c
        let c := values.foldl (fun (c : Chip) p => (c.setWord p.1 p.2).setWord (pageBase p.1 + shadowOfs (p.1 % 0x1000)) p.2) c
        let c := c.appliedReplay before ((values.map fun p => pageBase p.1).foldl insertSorted [])
        match items with
        | some l => { c with dsp := { c.dsp with items := l, shadow := l } }
        | none => c
      else c
    (bases.foldl (fun (c : Chip) p =>
      c.modMeter p.1 fun x =>
        { x with base := p.2.base, baseLossImp := p.2.baseLossImp, baseLossExp := p.2.baseLossExp }) c, last)
  | .handover t energy =>
    (energy.foldl (fun (c : Chip) p => (c.creditEnergy t p.1 p.2).modMeter p.1 fun x => { x with prov := [] }) c, last)
  | .released _ _ => (c, last)

/-- The journal from sequence seq on, stopping at the first slot that holds no entry of that sequence; the sequence reached. -/
def Chip.replayFrom (c : Chip) : Nat → Nat → Option (Nat × Nat) → Chip × Nat
  | 0, seq, _ => (c, seq)
  | fuel + 1, seq, last =>
    match Sparse.get (fun _ => none) c.led.journal (seq % 131072) with
    | some (q, n, e) =>
      if q = seq then
        let r := c.replay e last
        r.1.replayFrom fuel ((seq + n) % 2 ^ 32) r.2
      else (c, seq)
    | none => (c, seq)

/-- The open power-quality events that the last valid tail record holds are written with flag bit 4, ending at its Stride (R184,
R186). -/
def Chip.writeCutEvents (c : Chip) (t : LedgerImage) : Chip :=
  let c := t.events.foldl (fun (c : Chip) p =>
    if c.inAggregate p.1 then c
    else
      [1, 2, 3].foldl (fun (c : Chip) k =>
        match p.2.event k with
        | some e => c.appendLog 1 (c.elementRecord p.1 k 16 t.stride e)
        | none => c) c) c
  forN c.variant.meters (fun m c =>
    [1, 2, 3].foldl (fun (c : Chip) k =>
      match (Sparse.get (fun _ => {}) t.meters m).aggregateEvent k with
      | some e => c.appendLog 1 (c.aggregateRecord m k 16 t.stride e)
      | none => c) c) c

/-- The tariff register that a tail record's sums of meter m go to. -/
def Chip.tailTariff (c : Chip) (m t : Nat) : Nat := if c.meterBit TRF_USE_LO_use TRF_USE_HI_use m then t else 1

/-- The commit and the tail record that R225 adopts after the replay; open power-quality events are written only from a tail record
(R184, R186). -/
def Chip.adoptCommit (c : Chip) (k : LedgerImage) : Chip :=
  let t := newest ((images c.led.tails).filter fun t => t.commit == k.seq)
  let c := c.eachMeter fun m x => x.adopt (Sparse.get (fun _ => {}) k.meters m)
  let c := c.setDmd fun d => { d with isOpen := k.dmd.isOpen, start := k.dmd.start, flags := k.dmd.flags }
  let c := c.setTrf fun x =>
    { x with
      now := if t.isSome then k.trf.next else k.trf.now, next := k.trf.next, reached := k.trf.reached, closedMonth := k.trf.closedMonth }
  let c : Chip := { c with lc := k.lc }
  match t with
  | none =>
    let c := c.put LDG_RESTORE_ST_source 2
    c.put64 LDG_RESTORE_STRIDE_LO_stride LDG_RESTORE_STRIDE_HI_stride k.stride
  | some t =>
    let c := c.eachMeter fun m x => x.addTail (Sparse.get (fun _ => {}) t.meters m) (c.tailTariff m k.trf.next)
    let c := ({ c with lc := t.lc } : Chip).writeCutEvents t
    let c := (c.put LDG_RESTORE_ST_source 3).put LDG_RESTORE_ST_tail_k t.seq
    c.put64 LDG_RESTORE_STRIDE_LO_stride LDG_RESTORE_STRIDE_HI_stride t.stride

/-- No commit is adopted: gap, and every window takes power_fail (R226). -/
def Chip.restoreGap (c : Chip) (s : LedgerImage) : Chip :=
  let c := (c.setFlag LDG_STATUS_gap true).put LDG_RESTORE_ST_source 1
  let c := c.put64 LDG_RESTORE_STRIDE_LO_stride LDG_RESTORE_STRIDE_HI_stride s.stride
  c.setDmd fun d =>
    { d with flags := d.flags ||| flagPowerFail, closed := d.closed.map fun p => (p.1, p.2 ||| flagPowerFail) }

/-- No save is valid (R226). No row of R226 then gives LDG_RESTORE_ST.source and gap a value of its own: 'no commit is adopted' is read as
a row for a restored save, and both stay 0 (DESIGN CHOICE, log 117). -/
def Chip.restoreNothing (c : Chip) : Chip :=
  if ¬ c.led.everSaved then c.setFlag LDG_STATUS_fresh true
  else
    let c := ((c.setFlag LDG_STATUS_store_fault true).setFault 5 0x1A03 0).raiseEv ldgPage 5
    forN c.variant.meters (fun m c => (c.modMeter m fun x => { x with unrestored := true }).setFault 3 0x1A03 m) c

/-! ### The store itself (R210, R211, R237) -/

/-- Eight free bytes (log 1). -/
def Chip.drawBytes (c : Chip) (n : Nat) : List Nat × Chip :=
  let (v, c) := c.draw
  (leBytes n v, c)

/-- The record that an address lies in becomes invalid (R211). -/
def Chip.spoil (c : Chip) (a : Nat) : Chip :=
  if 0x0100000 ≤ a ∧ a < 0x0120000 then c.setLed fun x => { x with commits := Sparse.erase x.commits ((a - 0x0100000) / 0x10000) }
  else if 0x0120000 ≤ a ∧ a < 0x01E0000 then c.setLed fun x => { x with tails := Sparse.erase x.tails ((a - 0x0120000) / 0x4000) }
  else if 0x0200000 ≤ a ∧ a < 0x0A00000 then
    let k := (a - 0x0200000) / 64
    c.setLed fun x =>
      { x with
        journal := x.journal.filter fun p =>
          match p.2 with
          | some (_, n, _) => decide (n ≤ (k + 131072 - p.1) % 131072)
          | none => true }
  else if 0x0A00000 ≤ a ∧ a < 0x3200000 then
    let k := (a - 0x0A00000) / 0x28000
    c.setLed fun x =>
      { x with
        saves := Sparse.erase x.saves k
        rejected := match Sparse.get (fun _ => none) x.saves k with
          | some s => x.rejected ++ [s.seq]
          | none => x.rejected }
  else if 0x0010000 ≤ a ∧ a < 0x3F00000 then
    let d := c.drawBytes 8
    let w := a - a % 8
    (d.2.store w d.1).setLed fun x => { x with spoilt := if x.spoilt.contains w then x.spoilt else x.spoilt ++ [w] }
  else if 0x3F00000 ≤ a ∧ a < 0x3F01000 then { c with vlt := { c.vlt with header := { c.vlt.header with crc := 2 ^ 32 } } }
  else if 0x3F01000 ≤ a ∧ a < 0x3F05000 then
    let spoilt (e : VaultEntry) : VaultEntry := { e with check := 2 ^ 32 }
    { c with
      vlt :=
        { c.vlt with
          entries := c.vlt.entries.map fun p => if p.1 = (a - 0x3F01000) / 32 then (p.1, p.2.map spoilt) else p } }
  else if 0x3F10000 ≤ a ∧ a < 0x3F30000 then
    let spoilt (b : VaultBank) : VaultBank := { b with crc := none }
    { c with
      vlt := { c.vlt with banks := c.vlt.banks.map fun p => if p.1 = (a - 0x3F10000) / 256 then (p.1, p.2.map spoilt) else p } }
  else if 0x3F40000 ≤ a ∧ a < 0x3FC0000 then
    let spoilt (h : VaultHalter) : VaultHalter := { h with crc := 2 ^ 32 }
    { c with
      vlt := { c.vlt with halters := c.vlt.halters.map fun p => if p.1 = (a - 0x3F40000) / 8 then (p.1, p.2.map spoilt) else p } }
  else if 0x3FC0000 ≤ a ∧ a < 0x3FC2000 then
    let spoilt (x : VaultCopy) : VaultCopy := { x with crc := 2 ^ 32 }
    { c with
      vlt := { c.vlt with stored := c.vlt.stored.map fun p => if p.1 = (a - 0x3FC0000) / 0x1000 then (p.1, p.2.map spoilt) else p } }
  else c

/-- An uncorrectable MRAM error at an address (R211). -/
def mramEccError (a : Nat) (c : Chip) : Chip :=
  let was := c.flag LDG_STATUS_store_fault
  let c := ((c.incSat LDG_ECC_CNT_uncorrected).setFlag LDG_STATUS_store_fault true).setFault 5 0x1A03 0
  let c := if was then c else c.raiseEv ldgPage 5
  c.spoil (a % 0x4000000)

/-- MRAM_ECC_ERROR (R211). -/
def execMramEccError (a : Nat) (s : State) : Answer := s.effect (mramEccError a)

/-- A write of LDG_WR_DATA (R237); the write that ends the signature of the calibration record ends rec_unsigned (R164). -/
def ledgerWriteWord (acc : Access) (v : Nat) (c : Chip) : Chip :=
  c.write acc LDG_WR_DATA.addr v fun c =>
    let a := 4 * c.rd LDG_WR_ADDR_addr
    if 0x0010000 ≤ a ∧ a < 0x0100000 then
      let c := (c.store a (leBytes 4 v)).put LDG_WR_ADDR_addr (a / 4 + 1)
      if Config.signatureEnd a then c.setFlag SFE_CAL_SEAL_rec_unsigned false else c
    else c.setFlag LDG_ERR_wr_refused true

/-- LEDGER_WRITE_WORD (R237). -/
def execLedgerWriteWord (acc : Access) (v : Nat) (s : State) : Answer := s.effect (ledgerWriteWord acc v)

/-- The regions whose byte layout the spec does not give: the directory, commits, tails, the journal and the saves (log 21). -/
def typedRegion (a : Nat) : Bool :=
  decide (a < 0x0010000) || (decide (0x0100000 ≤ a) && decide (a < 0x01E0000)) || (decide (0x0200000 ≤ a) && decide (a < 0x3200000))

/-- The record that lies at an address of a typed region, as a number: the directory's flags, or the sequences of the slot's record and 0
for none. -/
def Ledger.slotKey (x : Ledger) (a : Nat) : Nat :=
  let key (m : Sparse (Option LedgerImage)) (k : Nat) : Nat :=
    match Sparse.get (fun _ => none) m k with
    | some y => 1 + y.seq + 2 ^ 32 * y.commit
    | none => 0
  if a < 0x0010000 then x.formatted.toNat + 2 * x.everSaved.toNat
  else if a < 0x0120000 then key x.commits ((a - 0x0100000) / 0x10000)
  else if a < 0x01E0000 then key x.tails ((a - 0x0120000) / 0x4000)
  else if a < 0x0A00000 then
    match Sparse.get (fun _ => none) x.journal ((a - 0x0200000) / 64) with
    | some (seq, _, _) => 1 + seq
    | none => 0
  else key x.saves ((a - 0x0A00000) / 0x28000)

/-- A read of LDG_RD_DATA (R237). Where the spec gives no byte layout the word is a free value of the address and of the record there
(log 21). -/
def ledgerReadWord (acc : Access) (c : Chip) : Chip :=
  c.read acc LDG_RD_DATA.addr fun c =>
    let a := 4 * c.rd LDG_RD_ADDR_addr
    let c := c.put LDG_RD_ADDR_addr (a / 4 + 1)
    if 0x3F00000 ≤ a then { c with rdata := 0 }
    else if typedRegion a then { c with rdata := Config.storeWord a (c.led.slotKey a) % 2 ^ 32 }
    else { c with rdata := ofLe (c.stored a 4) }

/-- LEDGER_READ_WORD (R237). -/
def execLedgerReadWord (acc : Access) (s : State) : Answer := s.effect (ledgerReadWord acc)

/-- A write of LDG_APPEND_CMD: 4 appends the buffer to the fault log (R213, R237). -/
def faultRecordAppend (acc : Access) (v : Nat) (c : Chip) : Chip :=
  c.write acc LDG_APPEND_CMD.addr v fun c =>
    if v % 8 = 4 then c.appendLog 4 ((List.range 13).flatMap fun k => leBytes 4 (c.rd (LDG_APPEND_BUF_rec k)))
    else c.setFlag LDG_ERR_append_refused true

/-- FAULT_RECORD_APPEND (R213). -/
def execFaultRecordAppend (acc : Access) (v : Nat) (s : State) : Answer := s.effect (faultRecordAppend acc v)

end Sys2Proof.Machine
end

