-- ==== Sys2Proof/Machine/Display.lean ====
section
/-! DEFINITION. The readout link: item and poll frames, replies, item sequences and the item table (R230–R234, R239, R240). -/

namespace Sys2Proof.Machine

/-- The block with its readout engine changed. -/
def Chip.setDsp (c : Chip) (f : Readout → Readout) : Chip := { c with dsp := f c.dsp }

/-- The base of the DSP page. -/
def dspPage : Nat := 0x40104000

/-- A display. -/
def Chip.display (c : Chip) (d : Nat) : Display := Sparse.get (fun _ => {}) c.dsp.displays d

/-- The block with a display changed. -/
def Chip.modDisplay (c : Chip) (d : Nat) (f : Display → Display) : Chip :=
  c.setDsp fun r => { r with displays := Sparse.set (fun _ => {}) r.displays d (f (c.display d)) }

/-- The link runs: after the restore, while link_en is 1 (R239, R241), on a module in the Near role, since the others hold RDL_DE low
(R349). -/
def Chip.linkRuns (c : Chip) : Bool := c.flag DSP_CTRL_link_en && c.flag LDG_STATUS_restored && !c.isOff

/-- Display d exists and is enabled. -/
def Chip.displayOn (c : Chip) (d : Nat) : Bool := decide (d < c.variant.ports) && c.flag (DSP_DISP_CFG_en d)

/-- The legal items of a display (R239). -/
def Chip.legalItems (c : Chip) (d : Nat) : Nat := min 16 (c.rd (DSP_DISP_CFG_n_legal d))

/-- The items of a display's sequence (R234). -/
def Chip.itemCount (c : Chip) (d : Nat) : Nat := max (c.legalItems d) (min 64 (c.rd (DSP_DISP_CFG_n_items d)))

/-- The active item word of entry i of display d. -/
def Chip.itemWord (c : Chip) (d i : Nat) : Word := Sparse.get (fun _ => 0) c.dsp.items (64 * d + i)

/-- Fields of an item word (R239). -/
def itemMeter (w : Word) : Nat := (w.extractLsb' 0 6).toNat
def itemKind (w : Word) : Nat := (w.extractLsb' 6 4).toNat
def itemIndex (w : Word) : Nat := (w.extractLsb' 10 7).toNat

/-- The item word names a source of R233. -/
def Chip.itemValid (c : Chip) (w : Word) : Bool :=
  w.getLsbD 31 &&
    (if itemKind w = 4 then true
    else decide (itemMeter w < c.variant.meters) &&
      (match itemKind w with
      | 0 => decide (itemIndex w < 72)
      | 1 => decide (itemIndex w < 72)
      | 2 => decide (itemIndex w < 18)
      | 3 => decide (itemIndex w < 2)
      | _ => false))

/-- The next valid item after i (R234); i where there is none. -/
def Chip.nextItem (c : Chip) (d i : Nat) : Nat :=
  let n := c.itemCount d
  match (List.range n).find? (fun k => c.itemValid (c.itemWord d ((i + 1 + k) % n))) with
  | some k => (i + 1 + k) % n
  | none => i

/-- The bank published last (R24). -/
def Chip.frontBank (c : Chip) : Bank := Sparse.get (fun _ => {}) c.fold.banks c.fold.front

/-- The OBIS value C and the unit of a quantity (R232, R233). -/
def quantityCode (q : Nat) : Nat := nth [1, 2, 5, 6, 7, 8, 9, 10] q
def quantityUnit (q : Nat) : Nat := if q < 2 then 30 else if q < 6 then 32 else 31

/-- What an item frame shows. -/
structure ItemView where
  obis : List Nat
  unit : Nat
  scaler : Int
  value : Int
  lc : Nat
  /-- The form byte; none where the spec states none. -/
  form : Option Nat
  flags : Nat
  deriving DecidableEq, Repr

/-- The source of an item word, from the snapshot published last (R233). -/
def Chip.itemView (c : Chip) (w : Word) : ItemView :=
  let b := c.frontBank
  let shared := 8 * c.rd TIM_LEDGER_ST_time_invalid + 16 * c.rd LDG_STATUS_pfw + 32 * c.rd LDG_STATUS_gap
  let m := itemMeter w
  let j := itemIndex w
  let x := Sparse.get (fun _ => {}) b.meters m
  let digits := clampN 6 10 (c.rd (MTR_DISP_digits m))
  let dec := min 3 (c.rd (MTR_DISP_dec m))
  let faulty := x.cfgFault || c.faults.any fun f => f.level == 3 && f.unit == m
  let early := if c.flag SFE_CAL_SEAL_handed_over then 0 else 1
  let flags := shared + (x.provisional || early == 1).toNat + 4 * faulty.toNat
  let held (v : Int) : Int := if x.cfgFault then 0 else v
  let form := some (digits + 16 * dec)
  match itemKind w with
  | 0 =>
    { obis := [1, m + 1, quantityCode (j / 9), 8, j % 9, 255], unit := quantityUnit (j / 9), scaler := 3 - (dec : Int)
      value := held (displayCount (x.published j) digits dec : Nat), lc := b.lc, form := form, flags := flags }
  | 1 =>
    { obis := [1, m + 1, quantityCode (j / 9), 8, j % 9, 255], unit := quantityUnit (j / 9), scaler := -3
      value := held (x.published j : Nat), lc := b.lc, form := none, flags := flags }
  | 2 =>
    { obis := [1, m + 1, 1 + j / 9, 6, j % 9, 255], unit := 27, scaler := 0, value := held ((x.maxOf j).w : Nat)
      lc := (x.maxOf j).lc, form := none, flags := flags }
  | 3 =>
    { obis := [1, m + 1, 128 + j, 8, 0, 255], unit := 30, scaler := 3 - (dec : Int)
      value := held (displayCount (x.compTotal (j == 0)) digits dec : Nat), lc := b.lc, form := form, flags := flags + 64 }
  | _ =>
    { obis := [0, 0, 1, 0, 0, 255], unit := 7, scaler := 0, value := calendarTime c.trf.active (c.standardTime b.lc), lc := b.lc
      form := none, flags := shared + early }

/-- A frame with its CRC (R232). -/
def framed (bs : List Nat) : List Nat := bs ++ leBytes 4 (crc32 bs)

/-- A frame leaves for display d: its sequence moves on. -/
def Chip.sendFrame (c : Chip) (d : Nat) (bs : List Nat) : Chip :=
  (c.modDisplay d fun x => { x with seq := (x.seq + 1) % 256 }).setDsp fun r => { r with sent := r.sent ++ [framed bs] }

/-- The item that display d shows: its index and its word. -/
def Chip.shownItem (c : Chip) (d : Nat) : Nat × Word :=
  let i := c.rd (DSP_DISP_ST_item d)
  (i, c.itemWord d i)

/-- The item frame of the current item of display d, where it is valid (R232). -/
def Chip.sendItem (c : Chip) (d : Nat) : Chip :=
  let (i, w) := c.shownItem d
  if ¬ c.itemValid w then c
  else
    let v := c.itemView w
    let (form, c) := match v.form with
      | some f => (f, c)
      | none => let (f, c) := c.draw; (f % 256, c)
    let legal := if i < c.legalItems d then 2 else 0
    let c := c.sendFrame d
      ([0xA5, d, (c.display d).seq, i] ++ v.obis ++ [v.unit, bitsOf 8 v.scaler, v.flags + legal, form] ++ leBytesI 8 v.value ++
        leBytes 8 v.lc)
    c.modDisplay d fun x => { x with lastSent := some (i, w), sinceSent := 0 }

/-- The current item of display d is sent when it is not the one sent last, in its index or in its word (R231). -/
def Chip.sendChanged (c : Chip) (d : Nat) : Chip :=
  if (c.display d).lastSent = some (c.shownItem d) ∨ ¬ c.linkRuns ∨ ¬ c.displayOn d then c else c.sendItem d

/-- Every enabled display is polled, in address order; an item that is invalid is skipped, and one that has changed is sent (R231,
R234). -/
def displayPoll (c : Chip) : Chip :=
  if ¬ c.linkRuns ∨ c.dsp.sincePoll < 800 then c
  else
    let c := c.setDsp fun r => { r with sincePoll := 0, sent := [] }
    forN c.variant.ports (fun d c =>
      if ¬ c.displayOn d then c
      else
        let i := c.rd (DSP_DISP_ST_item d)
        let c := if c.itemValid (c.itemWord d i) then c else c.put (DSP_DISP_ST_item d) (c.nextItem d i)
        let c := c.sendChanged d
        let q := (c.display d).seq
        (c.sendFrame d [0xA5, d + 32, q]).modDisplay d fun x => { x with polled := some q }) c

/-- DISPLAY_POLL (R231). -/
def execDisplayPoll (s : State) : Answer := s.effect displayPoll

/-- The Flock that a display's port belongs to (R9). -/
def Chip.displayFlock (c : Chip) (d : Nat) : Nat := c.rd (OPT_STATUS_flock (c.rd (DSP_DISP_CFG_port d)))

/-- any_fault and the Flock-level faults follow the displays (R231). -/
def Chip.showDisplayFaults (c : Chip) : Chip :=
  let bad := (List.range c.variant.ports).filter fun d => c.flag (DSP_DISP_ST_fault d)
  let c := c.setFlag DSP_STATUS_any_fault !bad.isEmpty
  forN 8 (fun f c => c.faultIs 4 0x1B07 f (bad.any fun d => c.displayFlock d == f)) c

/-- A reply of display d is missing or corrupt: three in a row set its fault (R231). -/
def Chip.badReply (c : Chip) (d : Nat) : Chip :=
  let c := (c.modDisplay d fun x => { x with polled := none, bad := min 3 (x.bad + 1) }).setFlag (DSP_DISP_ST_responding d) false
  if (c.display d).bad = 3 ∧ ¬ c.flag (DSP_DISP_ST_fault d) then
    ((c.setFlag (DSP_DISP_ST_fault d) true).raiseEv dspPage 0).showDisplayFaults
  else c

/-- The display shows item i from now on; a changed item is sent (R231, R234). -/
def Chip.showItem (c : Chip) (d i : Nat) : Chip :=
  ((c.put (DSP_DISP_ST_item d) i).modDisplay d fun x => { x with timer := 0 }).sendChanged d

/-- A reply with a push count and the long-press bit (R234). -/
def Chip.pushReply (c : Chip) (d push : Nat) (long : Bool) : Chip :=
  let steps := if (c.display d).pushKnown then (push + 256 - c.rd (DSP_DISP_ST_push d)) % 256 else 0
  let c := (c.put (DSP_DISP_ST_push d) push).modDisplay d fun x => { x with pushKnown := true }
  let c := if steps = 0 then c else c.raiseEv dspPage 2
  if ¬ c.flag (DSP_DISP_CFG_push_en d) then c
  else
    let c := if steps = 0 then c else c.showItem d (forN (min 64 steps) (fun _ i => c.nextItem d i) (c.rd (DSP_DISP_ST_item d)))
    if long then c.showItem d 0 else c

/-- Bytes that begin within 100 µs of the poll of display d: a good reply, or a corrupt one (R231, R232). -/
def displayReply (d : Nat) (bytes : List Nat) (c : Chip) : Chip :=
  if c.variant.ports ≤ d then c
  else match (c.display d).polled with
    | none => c
    | some q =>
      let c := c.setDsp fun r => { r with sent := [] }
      let body := fit 5 bytes
      let good := bytes.length == 9 && bytes.drop 5 == leBytes 4 (crc32 body) && nth bytes 0 == 0x5A && nth bytes 1 == d + 64 &&
        nth bytes 2 == q
      if good then
        let c := (c.modDisplay d fun x => { x with polled := none, bad := 0 }).setFlag (DSP_DISP_ST_responding d) true
        let c := if c.flag (DSP_DISP_ST_fault d) then
            ((c.setFlag (DSP_DISP_ST_fault d) false).raiseEv dspPage 1).showDisplayFaults
          else c
        c.pushReply d (nth bytes 3) (bit (nth bytes 4) 0)
      else (c.raiseEv dspPage 3).badReply d

/-- DISPLAY_REPLY (R234). -/
def execDisplayReply (d : Nat) (bytes : List Nat) (s : State) : Answer := s.effect (displayReply d bytes)

/-- No reply began within 100 µs of the poll (R231). -/
def displayReplyTimeout (d : Nat) (c : Chip) : Chip :=
  if (c.display d).polled.isNone then c else (c.incSat (DSP_DISP_ST_missed d)).badReply d

/-- DISPLAY_REPLY_TIMEOUT (R231). -/
def execDisplayReplyTimeout (d : Nat) (s : State) : Answer := s.effect (displayReplyTimeout d)

/-- The step of display d in Strides (R234, R239). -/
def Chip.displayStep (c : Chip) (d : Nat) : Nat := 8000 * clampN 1 30 (c.rd (DSP_DISP_CFG_step d))

/-- The item of display d at its next step (R234). An index beyond the sequence, after a staged change has shortened it, is limited to
n_items − 1 here and not at the application (DESIGN CHOICE, log 117: the item so limited is shown for a step of its own). -/
def Chip.stepItem (c : Chip) (d : Nat) : Nat :=
  let i := c.rd (DSP_DISP_ST_item d)
  let n := c.itemCount d
  if n ≤ i ∧ c.itemValid (c.itemWord d (n - 1)) then n - 1 else c.nextItem d i

/-- The step timer of display d has run: it moves to its next item, which is sent as it changes (R231, R234). -/
def displayItemStep (d : Nat) (c : Chip) : Chip :=
  if ¬ c.displayOn d ∨ (c.display d).timer < c.displayStep d then c
  else (c.setDsp fun r => { r with sent := [] }).showItem d (c.stepItem d)

/-- DISPLAY_ITEM_STEP (R234). -/
def execDisplayItemStep (d : Nat) (s : State) : Answer := s.effect (displayItemStep d)

/-- The timers of the readout engine count one Stride; the current item of a display is repeated every second (R231). -/
def Chip.displayTick (c : Chip) : Chip :=
  let c := c.setDsp fun r => { r with sincePoll := min 800 (r.sincePoll + 1), sent := [] }
  if ¬ c.linkRuns then c
  else
    forN c.variant.ports (fun d c =>
      if c.displayOn d then
        let c := c.modDisplay d fun x => { x with timer := min 240000 (x.timer + 1), sinceSent := min 8000 (x.sinceSent + 1) }
        if 8000 ≤ (c.display d).sinceSent then c.sendItem d else c
      else c) c

/-! ### The item table (R240) -/

/-- The bits of an item word. -/
def itemMask : Word := 0x8001FFFF

/-- The entry belongs to a legal item, by the larger of the active and the shadow n_legal. -/
def Chip.legalEntry (c : Chip) (e : Nat) : Bool :=
  decide (e % 64 < max (c.legalItems (e / 64)) (min 16 (c.rd (DSP_DISP_CFG_n_legal (e / 64)).shadow)))

/-- The entry that DSP_ITEM_ADDR selects. -/
def Chip.itemEntry (c : Chip) : Nat := 64 * c.rd DSP_ITEM_ADDR_disp + c.rd DSP_ITEM_ADDR_item

/-- The shadow of an entry takes a word, and the DSP page becomes dirty for the data plane. -/
def Chip.storeItem (c : Chip) (e : Nat) (w : Word) : Chip :=
  if c.variant.ports ≤ e / 64 then c
  else (c.setDsp fun r => { r with shadow := Sparse.set (fun _ => 0) r.shadow e (w &&& itemMask) }).markDirty dspPage 1

/-- Every access by the owner advances the item index. -/
def Chip.advanceItem (c : Chip) (acc : Access) : Chip :=
  if initiatorPlane acc.by_ = c.rd (ownerFld dspPage) then c.put DSP_ITEM_ADDR_item (c.rd DSP_ITEM_ADDR_item + 1) else c

/-- An access to DSP_ITEM_DATA at 0x204, or at 0x904 for its shadow (R240). `mirror` names the entry of a write that Near mirrors to this
module. -/
def displayItemAccess (acc : Access) (shadow write : Bool) (v : Nat) (mirror : Option Nat) (c : Chip) : Chip :=
  let a := DSP_ITEM_DATA.addr + (if shadow then 0x700 else 0)
  let w := BitVec.ofNat 32 v
  match mirror with
  | some e => if c.isOff then c.storeItem (e % 2048) w else c
  | none =>
    let e := c.itemEntry
    if write then
      c.write acc a v fun c =>
        if c.isOff then c.violate acc a 0 true else
        let c := c.advanceItem acc
        let old : Word := Sparse.get (fun _ => 0) c.dsp.shadow e
        if c.legalEntry e && !c.sealOpen 1 && old != w &&& itemMask then c.violate acc a 1 true
        else if c.armed 1 then c.setFlag (STG_SLOT_ST_wrote_armed 1) true
        else (c.storeItem e w).mirror (.item e v)
    else
      c.read acc a fun c =>
        { c.advanceItem acc with rdata := (Sparse.get (fun _ => 0) (if shadow then c.dsp.shadow else c.dsp.items) e : Word).toNat }

/-- DISPLAY_ITEM_ACCESS (R240). -/
def execDisplayItemAccess (acc : Access) (shadow write : Bool) (v : Nat) (mirror : Option Nat) (s : State) : Answer :=
  s.effect (displayItemAccess acc shadow write v mirror)

end Sys2Proof.Machine
end

