-- ==== Sys2Proof/Machine/Vault.lean ====
section
/-! DEFINITION. The Aloalon vault: key commands, the request windows, the operations, attestation, and the restore (R424–R446). -/

namespace Sys2Proof.Machine

/-- The bases of the VLT pages. -/
def vltPage : Nat := 0x40580000
def vlpPage : Nat := 0x40581000

/-- The block with its vault changed. -/
def Chip.setVlt (c : Chip) (f : Vault → Vault) : Chip := { c with vlt := f c.vlt }

/-- Slot k. Slot 0 is fixed at manufacture (R425). -/
def Chip.vaultSlot (c : Chip) (k : Nat) : VaultSlot :=
  if k = 0 then
    { key := { type := 4, usage := 32, key := beBytes 48 (Config.attestationKey % (curveOrder 1 - 1) + 1) } }
  else Sparse.get (fun _ => {}) c.vlt.slots k

/-- The module identity (R425). -/
def Chip.identity (c : Chip) : List Nat := (List.range 4).flatMap fun k => leBytes 4 (c.rd (VLT_ID_id k))

/-- Word k of the committed configuration, in register order (R445). -/
def Chip.vaultWord (c : Chip) (k : Nat) : Nat := nth c.vlt.config k

/-- The record slot and the meter root of the committed configuration (R434). -/
def Chip.recordSlot (c : Chip) : Nat := c.vaultWord 0 % 256
def Chip.meterRoot (c : Chip) : Nat := c.vaultWord 0 / 256 % 256

/-- A Halter group of a configuration: its slot, its identities, and whether it is enabled (R445). -/
def halterGroup (words : List Nat) (g : Nat) : Nat × Nat × Bool :=
  let w := nth words (6 + g)
  (w % 256, min 4096 (w / 256 % 8192), bit w 31)

/-- The DRBG is reseeded from the source (R441). -/
def Vault.reseed (v : Vault) : Vault := { v with drawn := 0, sinceSeed := 0 }

/-- A request to the DRBG; after 2^20 of them it is reseeded (R441). -/
def Vault.drbgUse (v : Vault) : Vault := if 2 ^ 20 ≤ v.drawn + 1 then v.reseed else { v with drawn := v.drawn + 1 }

/-- n random bytes of the DRBG (R441): a free value. -/
def Chip.randomBytes (c : Chip) (n : Nat) : List Nat × Chip :=
  let (v, c) := c.draw
  (leBytes n v, c.setVlt fun x => x.drbgUse)

/-- A random number from 1 to m − 1 (R427, R435). -/
def Chip.randomScalar (c : Chip) (m : Nat) : Nat × Chip :=
  let (v, c) := c.draw
  (v % (m - 1) + 1, c.setVlt fun x => x.drbgUse)

/-! ### Writing keys (R427–R430) -/

/-- The bytes of a key bank under its CRC (R429). -/
def VaultBank.bytes (b : VaultBank) : List Nat :=
  [b.type, b.usage, b.planes, 0] ++ leBytes 4 b.generation ++ fit 244 b.wrapped

/-- The bank's CRC is written and holds. -/
def VaultBank.valid (b : VaultBank) : Bool := b.crc == some (crc32 b.bytes)

/-- A key as its bank holds it: wrapped under the die-unique key, with its CRC written (R429). -/
def VaultKey.bank (k : VaultKey) : VaultBank :=
  let b : VaultBank :=
    { type := k.type, usage := k.usage, planes := k.planes, generation := k.generation, wrapped := keyWrap Config.dieKey (fit 64 k.key) }
  { b with crc := some (crc32 b.bytes) }

/-- The key that a bank holds, none where it does not unwrap (R429). -/
def VaultBank.opened (b : VaultBank) : Option VaultKey :=
  (keyUnwrap Config.dieKey b.wrapped).map fun bs =>
    { type := b.type, usage := b.usage, planes := b.planes, generation := b.generation
      key := if b.type = 0 then [] else bs.take (keyBytes b.type) }

/-- The bytes of a commit entry under its CRC (R429). -/
def VaultEntry.bytes (e : VaultEntry) : List Nat :=
  leBytes 4 e.generation ++ [e.bank, 0, 0, 0] ++ leBytes 4 e.crc ++ leBytes 8 e.stride ++ leBytes 8 e.lc

/-- The entry with its CRC written, and whether that holds. -/
def VaultEntry.whole (e : VaultEntry) : VaultEntry := { e with check := crc32 e.bytes }
def VaultEntry.valid (e : VaultEntry) : Bool := e.check == crc32 e.bytes

/-- The CRC of a stored configuration copy, 4 KiB with it (R429). -/
def copyCheck (generation : Nat) (words : List Nat) : Nat := crc32 (fit 4092 (leBytes 4 generation ++ words.flatMap (leBytes 4)))

/-- The CRC of a stored Halter counter (R429). -/
def halterCheck (generation last : Nat) : Nat := crc32 (leBytes 4 generation ++ leBytes 4 last)

/-- The header with a key-change counter and its CRC (R429, R430). -/
def VaultHeader.counted (h : VaultHeader) (n : Nat) : VaultHeader :=
  { h with changes := n, crc := crc32 (fit 4092 (leBytes 4 h.version ++ h.identity ++ leBytes 4 n)) }

/-- Bit b of a usage mask is set (R424). -/
def hasUsage (k : VaultKey) (b : Nat) : Bool := bit k.usage b

/-- A secret with derive usage. -/
def canDerive (k : VaultKey) : Bool := k.type == 2 && hasUsage k 0

/-- The pending configuration, in register order (R445). -/
def Chip.pendingConfig (c : Chip) : List Nat :=
  [c.rd VLT_CFG] ++ (List.range 4).map (fun k => c.rd (VLT_SITE_CTX_ctx k)) ++ [c.rd VLT_MTR_EPOCH_epoch] ++
    (List.range 8).map fun k => c.rd (VLT_HALT_GRP k)

/-- Reason 6 of R428. -/
def Chip.badConfig (c : Chip) (words : List Nat) : Bool :=
  let rec_ := (c.vaultSlot (nth words 0 % 256)).key
  let root := (c.vaultSlot (nth words 0 / 256 % 256)).key
  !(rec_.type == 3 && hasUsage rec_ 3) || !canDerive root ||
    (List.range 8).any fun g =>
      let (s, _, en) := halterGroup words g
      en && !canDerive (c.vaultSlot s).key

/-- A key given to a command is one of its type (R424, R428): type 1 to 5, a scalar in range. -/
def keyAllowed (type : Nat) (key : Option (List Nat)) : Bool :=
  decide (1 ≤ type) && decide (type ≤ 5) &&
    (match key with
    | some k => scalarValid type k
    | none => true)

/-- What of VLT_KW_CMD a command row names: bits 0 to 5 (R445). -/
inductive KeyOp where
  | write
  | erase
  | generate
  | attr
  | cfg
  | halter
  deriving DecidableEq, Repr

/-- The command acts on a key slot. -/
def KeyOp.onSlot : KeyOp → Bool
  | .write | .erase | .generate | .attr => true
  | .cfg | .halter => false

/-- The bit of VLT_KW_CMD. -/
def KeyOp.word : KeyOp → Nat
  | .write => 1
  | .erase => 2
  | .generate => 4
  | .attr => 8
  | .cfg => 16
  | .halter => 32

/-- The key data given, cut to the type's size (R427). -/
def Chip.keyData (c : Chip) (type : Nat) : List Nat :=
  ((List.range 16).flatMap fun k => leBytes 4 (c.rd (VLT_KW_DATA_key k))).take (keyBytes type)

/-- Reason 3 of R428, on a command for a slot: a type above 5, type 0 with write or generate, a scalar out of range. -/
def Chip.badType (c : Chip) (op : KeyOp) : Bool :=
  let type := c.rd VLT_KW_ATTR_type
  op.onSlot && (decide (5 < type) || (op == .write && !keyAllowed type (some (c.keyData type))) || (op == .generate && !keyAllowed type none))

/-- The reason of R428 for which a command is refused. -/
def Chip.keyRefusal (c : Chip) (op : KeyOp) : Option Nat :=
  if c.vlt.command.isSome then some 1
  else if op.onSlot ∧ c.rd VLT_KW_SLOT_slot = 0 then some 2
  else if c.badType op then some 3
  else if c.flag LDG_STATUS_pfw then some 4
  else if op = .generate ∧ c.flag VLT_STATUS_trng_fault then some 5
  else if op = .cfg ∧ c.badConfig c.pendingConfig then some 6
  else if ¬ c.flag VLT_STATUS_ready then some 7
  else none

/-- VLT_KW_DATA is zeroed (R427). -/
def Chip.wipeKeyData (c : Chip) : Chip := forN 16 (fun k c => c.put (VLT_KW_DATA_key k) 0) c

/-- The next key of slot k: the next generation, with new contents (R430). -/
def Chip.newKey (c : Chip) (k type usage planes : Nat) (key : List Nat) : VaultKey :=
  { type := type, usage := usage, planes := planes, generation := ((c.vaultSlot k).key.generation + 1) % 2 ^ 32, key := key }

/-- The command that an accepted row starts (R427, R445). -/
def Chip.keyStart (c : Chip) (op : KeyOp) : VaultCommand × Chip :=
  let k := c.rd VLT_KW_SLOT_slot
  let type := c.rd VLT_KW_ATTR_type
  let usage := c.rd VLT_KW_ATTR_usage
  let planes := c.rd VLT_KW_ATTR_planes
  match op with
  | .write => (.slot k (c.newKey k type usage planes (c.keyData type)), c)
  | .erase => (.slot k (c.newKey k 0 0 0 []), c)
  | .generate =>
    match curveOf type with
    | some v =>
      let (d, c) := c.randomScalar (curveOrder v)
      (.slot k (c.newKey k type usage planes (beBytes (keyBytes type) d)), c)
    | none =>
      let (b, c) := c.randomBytes 32
      (.slot k (c.newKey k type usage planes b), c)
  | .attr =>
    let old := (c.vaultSlot k).key
    (.slot k (c.newKey k old.type usage planes old.key), c)
  | .cfg => (.config c.pendingConfig, c)
  | .halter => (.halter (c.rd VLT_HALT_SET_group) (c.rd VLT_HALT_SET_id) (c.rd VLT_HALT_VAL_last), c)

/-- Step 1 of R430: the new bank of a slot is written to the half that is not in force. -/
def Chip.stageBank (c : Chip) (x : VaultCommand) : Chip :=
  match x with
  | .slot k b => c.setVlt fun v => { v with banks := Sparse.set (fun _ => none) v.banks (2 * k + (1 - (c.vaultSlot k).bank)) (some b.bank) }
  | .config _ | .halter _ _ _ => c

/-- A write of one bit of VLT_KW_CMD (R427, R428): the command starts, or is refused with its reason. -/
def Chip.keyCommand (c : Chip) (op : KeyOp) : Chip :=
  match c.keyRefusal op with
  | some r =>
    let c := (c.put VLT_KW_ST_reason r).raiseEv vlpPage 1
    if r = 1 then c else (c.put VLT_KW_ST_state 3).wipeKeyData
  | none =>
    let (x, c) := c.keyStart op
    let c := c.stageBank x
    ((c.setVlt fun v => { v with command := some x }).put VLT_KW_ST_reason 0).put VLT_KW_ST_state 1

/-- The bus write of VLT_KW_CMD with the bit of a command. -/
def keyWrite (acc : Access) (op : KeyOp) (c : Chip) : Chip := c.write acc VLT_KW_CMD.addr op.word fun c => c.keyCommand op

/-- KEY_WRITE (R427). -/
def execKeyWrite (acc : Access) (s : State) : Answer := s.effect (keyWrite acc .write)

/-- KEY_ERASE (R427). -/
def execKeyErase (acc : Access) (s : State) : Answer := s.effect (keyWrite acc .erase)

/-- KEY_GENERATE (R427). -/
def execKeyGenerate (acc : Access) (s : State) : Answer := s.effect (keyWrite acc .generate)

/-- KEY_ATTR (R427). -/
def execKeyAttr (acc : Access) (s : State) : Answer := s.effect (keyWrite acc .attr)

/-- VAULT_CFG_COMMIT (R445). -/
def execVaultCfgCommit (acc : Access) (s : State) : Answer := s.effect (keyWrite acc .cfg)

/-- HALTER_SET (R445). -/
def execHalterSet (acc : Access) (s : State) : Answer := s.effect (keyWrite acc .halter)

/-- The copies of a Halter counter (R429, R430): the active one, its generation first, and the index of the other. -/
def Chip.halterCopies (c : Chip) (id : Nat) : (Nat × Nat) × Nat :=
  let x (e : Nat) : Nat × Nat :=
    match Sparse.get (fun _ => none) c.vlt.halters (2 * id + e) with
    | some y => if y.crc = halterCheck y.generation y.last then (y.generation, y.last) else (0, 0)
    | none => (0, 0)
  if (x 0).1 < (x 1).1 then (x 1, 0) else (x 0, 1)

/-- last_i of an identity of a group (R415). -/
def Chip.halterLast (c : Chip) (group i : Nat) : Nat := (c.halterCopies (4096 * group + i)).1.2

/-- A Halter counter is written to the copy not in force (R430). -/
def Chip.setHalter (c : Chip) (group i last : Nat) : Chip :=
  let (now, other) := c.halterCopies (4096 * group + i)
  c.setVlt fun v =>
    { v with
      halters := Sparse.set (fun _ => none) v.halters (2 * (4096 * group + i) + other)
        (some ⟨now.1 + 1, last, halterCheck (now.1 + 1) last⟩) }

/-- The copy of the stored configuration in force, and its index. -/
def newestCopy (m : Sparse (Option VaultCopy)) : Option ((Nat × List Nat) × Nat) :=
  let valid (e : Nat) : Option (Nat × List Nat) :=
    (Sparse.get (fun _ => none) m e).bind fun x => if x.crc = copyCheck x.generation x.words then some (x.generation, x.words) else none
  match valid 0, valid 1 with
  | none, none => none
  | some a, none => some (a, 0)
  | none, some b => some (b, 1)
  | some a, some b => if a.1 < b.1 then some (b, 1) else some (a, 0)

/-- The configuration is in force, and VLT_CFG_CRC shows its CRC (R445). -/
def Chip.adoptConfig (c : Chip) (words : List Nat) : Chip :=
  (c.setVlt fun v => { v with config := words }).put VLT_CFG_CRC_crc (crc32 (words.flatMap (leBytes 4)))

/-- The CRC of the new commit entry of slot k is written: bank and entry are in force, and the counter increments (R430). -/
def Chip.commitSlot (c : Chip) (k : Nat) (b : VaultKey) : Chip :=
  let old := c.vaultSlot k
  let e : VaultEntry :=
    { generation := b.generation, bank := 1 - old.bank, crc := b.bank.crc.getD 0, stride := c.stride, lc := c.lc }
  let c := c.setVlt fun v =>
    { v with
      entries := Sparse.set (fun _ => none) v.entries (2 * k + (1 - old.entry)) (some e.whole)
      slots := Sparse.set (fun _ => {}) v.slots k { key := b, bank := 1 - old.bank, entry := 1 - old.entry }
      header := v.header.counted (satN 32 (v.header.changes + 1)) }
  c.put VLT_KEY_CHG_count c.vlt.header.changes

/-- The running key command ends (R430). -/
def keyCommandDone (c : Chip) : Chip :=
  match c.vlt.command with
  | none => c
  | some x =>
    let c := c.setVlt fun v => { v with command := none }
    let c := match x with
      | .slot k b => (c.commitSlot k b).raiseEv vltPage 1
      | .config words =>
        let old := newestCopy c.vlt.stored
        let g : Nat := match old with
          | some p => p.1.1 + 1
          | none => 1
        let e : Nat := match old with
          | some p => 1 - p.2
          | none => 0
        let c := c.setVlt fun v => { v with stored := Sparse.set (fun _ => none) v.stored e (some ⟨g, words, copyCheck g words⟩) }
        (c.adoptConfig words).raiseEv vltPage 1
      | .halter g i last => c.setHalter g i last
    ((c.put VLT_KW_ST_state 2).wipeKeyData).raiseEv vlpPage 0

/-- KEY_COMMAND_DONE (R430). -/
def execKeyCommandDone (s : State) : Answer := s.effect keyCommandDone

/-! ### Derivation (R432–R434) -/

/-- A text label of R432. -/
def textLabel (bs : List Nat) : List Nat := fit 16 bs

/-- A derived key of a type from a parent key (R433). -/
def deriveKey (parent : List Nat) (step : List Nat × List Nat) (type : Nat) : List Nat :=
  let l := if type = 4 then 448 else if type = 3 ∨ type = 5 then 320 else 256
  let out := derive parent step.1 step.2 l
  match curveOf type with
  | some v => beBytes (keyBytes type) (ofBe out % (curveOrder v - 1) + 1)
  | none => out

/-- The key at the end of a path: every step but the last gives a secret (R433). -/
def pathKey (root : List Nat) (type : Nat) : List (List Nat × List Nat) → List Nat
  | [] => root
  | [p] => deriveKey root p type
  | p :: ps => pathKey (deriveKey root p 2) type ps

/-- The label of a meter key, which is its kid (R434). -/
def Chip.meterLabel (c : Chip) (m : Nat) : List Nat := textLabel ([0x4D, 0x54, 0x52, 0x00, m] ++ beBytes 4 (c.vaultWord 5))

/-- The site context (R434). -/
def Chip.siteContext (c : Chip) : List Nat := (List.range 4).flatMap fun k => leBytes 4 (c.vaultWord (1 + k))

/-- The Halter key of identity i of a group's secret (R434). -/
def halterKey (root : List Nat) (i : Nat) : List Nat :=
  deriveKey root (textLabel [0x48, 0x41, 0x4C, 0x54, 0x45, 0x52], beBytes 16 i) 1

/-! ### Operations (R435, R440) -/

/-- The type and the key that a request uses. -/
def Chip.requestType (c : Chip) (r : VaultRequest) : Nat := if r.path.isEmpty then (c.vaultSlot r.slot).key.type else r.ktype
def Chip.requestKey (c : Chip) (r : VaultRequest) : List Nat := pathKey (c.vaultSlot r.slot).key.key r.ktype r.path

/-- The key types that an operation takes (R435). -/
def opTypes (op : Nat) : List Nat :=
  match op with
  | 0x03 => [2]
  | 0x04 | 0x05 | 0x06 => [1]
  | 0x07 | 0x0B => [3, 4]
  | 0x09 => [5]
  | 0x0A => [3, 4, 5]
  | _ => []

/-- The usage bit that an operation needs with a key type (R424). -/
def opUsage (op type : Nat) : Nat :=
  match op with
  | 0x03 => 1
  | 0x04 | 0x05 | 0x06 => 2
  | 0x09 => 4
  | 0x0A => if type = 5 then 4 else 3
  | _ => 3

/-- The operation draws random values (R435, R438). -/
def opRandom (op : Nat) : Bool := op == 0x01 || op == 0x07 || op == 0x0B || op == 0x0C

/-- The enabled Halter group of the committed configuration whose slot is k (R445). -/
def Chip.groupOf (c : Chip) (k : Nat) : Option Nat :=
  (List.range 8).find? fun g => let (s, _, en) := halterGroup c.vlt.config g; en && s == k

/-- Errors 3 and 4 of R438: the key slot or derived key, and the plane mask. -/
def Chip.keyError (c : Chip) (r : VaultRequest) : Nat :=
  let k := (c.vaultSlot r.slot).key
  let masked (ok : Bool) : Nat := if !ok then 3 else if bit k.planes r.plane then 0 else 4
  match r.op with
  | 0x01 | 0x02 | 0x08 | 0x0C => 0
  | 0x0D => masked (k.type != 0)
  | 0x0E => if (c.groupOf r.slot).isNone then 0 else masked (canDerive k)
  | op =>
    if r.path.isEmpty then masked ((opTypes op).contains k.type && hasUsage k (opUsage op k.type))
    else masked (canDerive k && (opTypes op).contains r.ktype)

/-- The additional data of a GCM input (R435). -/
def gcmAad (input : List Nat) : Nat := ofBe ((input.drop 12).take 2)

/-- The lengths of key, digest and signature in a verify input (R435): the digest has 32 or 48 bytes. -/
def verifyLengths (r : VaultRequest) : Bool :=
  let n := 4 * curveBytes r.param
  decide (r.param ≤ 1) && (r.input.length == n + 32 || r.input.length == n + 48)

/-- Error 1 of R438. -/
def VaultRequest.malformed (r : VaultRequest) : Bool :=
  let n := r.input.length
  decide (8 < r.path.length) || decide (2048 < n) ||
    (match r.op with
    | 0x01 => r.param == 0 || decide (1024 < r.param)
    | 0x02 | 0x03 | 0x04 | 0x0A | 0x0D | 0x0E => false
    | 0x05 => decide (n < 14 + gcmAad r.input)
    | 0x06 => decide (n < 30 + gcmAad r.input)
    | 0x07 => !(n == 32 || n == 48)
    | 0x08 => !verifyLengths r || !onCurve r.param (r.input.take (2 * curveBytes r.param))
    | 0x09 => !onCurve 0 r.input
    | 0x0B => decide (n < r.param)
    | 0x0C => decide (64 < n)
    | _ => true)

/-- The tagged object with a signature of the key's size in place of the real one. -/
def coseLength (r : VaultRequest) (type : Nat) : Nat :=
  (coseSign1 (r.input.take r.param) (r.input.drop r.param) (List.replicate (2 * curveBytes (type - 3)) 0)).length

/-- Error 8 of R438: the output would exceed 1536 bytes. -/
def Chip.tooLong (c : Chip) (r : VaultRequest) : Bool :=
  match r.op with
  | 0x05 => decide (1536 < r.input.length - 14 - gcmAad r.input + 16)
  | 0x06 => decide (1536 < r.input.length - 30 - gcmAad r.input)
  | 0x0B => decide (1536 < coseLength r (c.requestType r))
  | _ => false

/-- What R438 decides for a go of a request: an error, or 0 where it is queued. -/
def Chip.goError (c : Chip) (r : VaultRequest) : Nat :=
  if ¬ c.flag VLT_STATUS_ready then 2
  else if r.malformed then 1
  else if c.keyError r ≠ 0 then c.keyError r
  else if opRandom r.op ∧ c.flag VLT_STATUS_trng_fault then 5
  else if c.tooLong r then 8
  else 0

/-- An ECDSA signature of a digest with a nonce of the DRBG (R435). -/
def Chip.ecdsa (c : Chip) (curve : Nat) (key digest : List Nat) : List Nat × Chip :=
  let (k, c) := c.randomScalar (curveOrder curve)
  (ecdsaSign curve key k digest, c)

/-- A COSE_Sign1 object: ES256 on P-256, ES384 on P-384 (R435). -/
def Chip.cose (c : Chip) (curve : Nat) (key header payload : List Nat) : List Nat × Chip :=
  let m := sigStructure header payload
  let (s, c) := c.ecdsa curve key (if curve = 0 then sha256 m else sha384 m)
  (coseSign1 header payload s, c)

/-- A register value as a CBOR integer. -/
def Chip.cborRd (c : Chip) (f : Fld) : List Nat := cborNat (c.rd f)

/-- The measured images: of every plane that runs (R440). -/
def Chip.measuredImages (c : Chip) : List (List Nat) :=
  ((List.range 4).filter fun p => c.rd (UPD_PL_ST_state p) == 2).map fun p =>
    cborArray
      [cborNat (p + 1), c.cborRd (UPD_PL_ST_bank p),
        cborBytes ((List.range 12).flatMap fun k => leBytes 4 (c.rd (UPD_MEAS_meas (12 * p + k))))]

/-- The payload of an attestation statement (R440). -/
def Chip.attestPayload (c : Chip) (nonce : List Nat) : List Nat :=
  let ns := c.tim.clock / 2 ^ 32
  cborMap
    [(1, cborBytes c.identity), (2, cborNat c.variant.ports), (3, cborArray c.measuredImages),
      (4, cborArray [cborNat (c.led.config.getD 0), cborNat c.boot.configCrc]),
      (5, cborArray [c.cborRd SFE_CAL_COUNT_count, c.cborRd SFE_CAL_CRC_crc]), (6, c.cborRd TRF_ACAL_CRC_crc),
      (7, cborArray [c.cborRd SAF_SPB_CONF, c.cborRd SAF_SPB_CONF_MAP]),
      (8, cborArray [c.cborRd VLT_CFG_CRC_crc, c.cborRd VLT_KEY_CHG_count]),
      (9, cborArray [cborArray [cborNat (ns / 1000000000), cborNat (ns % 1000000000)], cborNat c.timeValid.toNat]),
      (10, cborNat c.lc), (11, c.cborRd HRN_STATUS_role), (12, cborBytes nonce)]

/-- An attestation statement: ES384 with slot 0 (R440). -/
def Chip.attest (c : Chip) (nonce : List Nat) : List Nat × Chip :=
  c.cose 1 (c.vaultSlot 0).key.key (cborMap [(1, cborInt (-35)), (4, cborBytes c.identity)]) (c.attestPayload nonce)

/-- The identities and counters of the group that answer a challenge with the given HID (R414, R415). -/
def Chip.halterSearch (c : Chip) (r : VaultRequest) : List (Nat × Nat) :=
  match c.groupOf r.slot with
  | none => []
  | some g =>
    let root := (c.vaultSlot r.slot).key.key
    let nonce := r.input.take 8
    (List.range (halterGroup c.vlt.config g).2.1).flatMap fun i =>
      let key := halterKey root i
      let last := c.halterLast g i
      ((List.range r.param).filter fun j =>
        (aesCmac key (beBytes 4 (last + 1 + j) ++ nonce)).take 8 == (r.input.drop 8).take 8).map fun j =>
          (i, (last + 1 + j) % 2 ^ 32)

/-- What an operation answers (R435). -/
def Chip.vaultRun (c : Chip) (r : VaultRequest) : VaultAnswer × Chip :=
  let key := c.requestKey r
  let curve := c.requestType r - 3
  let inp := r.input
  let plain (bs : List Nat) : VaultAnswer := { output := bs }
  let a := gcmAad inp
  let iv := inp.take 12
  let aad := (inp.drop 14).take a
  let body := inp.drop (14 + a)
  match r.op with
  | 0x01 => let (bs, c) := c.randomBytes r.param; (plain bs, c)
  | 0x02 => (plain (sha384 inp), c)
  | 0x03 => (plain (hmacSha256 key inp), c)
  | 0x04 => (plain (aesCmac key inp), c)
  | 0x05 => (plain (gcmEncrypt key iv aad body), c)
  | 0x06 =>
    match gcmDecrypt key iv aad (body.take (body.length - 16)) (body.drop (body.length - 16)) with
    | some bs => (plain bs, c)
    | none => ({ error := 6 }, c)
  | 0x07 => let (bs, c) := c.ecdsa curve key inp; (plain bs, c)
  | 0x08 =>
    let n := 2 * curveBytes r.param
    let digest := (inp.drop n).take (inp.length - 2 * n)
    (if ecdsaVerify r.param (inp.take n) digest (inp.drop (inp.length - n)) then {} else { error := 6 }, c)
  | 0x09 => (plain (ecdh 0 key inp), c)
  | 0x0A => (plain (publicKey ((curveOf (c.requestType r)).getD 0) key), c)
  | 0x0B => let (bs, c) := c.cose curve key (inp.take r.param) (inp.drop r.param); (plain bs, c)
  | 0x0C => let (bs, c) := c.attest inp; (plain bs, c)
  | 0x0D =>
    let k := (c.vaultSlot r.slot).key
    (plain ([k.type, k.usage, k.planes, 0] ++ leBytes 4 k.generation), c)
  | _ => ({ found := c.halterSearch r }, c)

/-! ### The request queue (R436–R439) -/

/-- The engine that serves an operation (R439): 0 symmetric, 1 public-key, 2 search. -/
def opEngine (op : Nat) : Nat := if op = 0x0E then 2 else if 0x07 ≤ op ∧ op ≤ 0x0C then 1 else 0

/-- The plane's vault-done source (R449). -/
def Chip.vaultDone (c : Chip) (plane : Nat) : Chip := c.fireShared (33 + plane)

/-- A request ends with an answer: a window shows it and its plane's source fires; an internal requester finds it waiting (R437), a tag
request whose report has gone out as late no more (R415). -/
def Chip.endRequest (c : Chip) (r : VaultRequest) (a : VaultAnswer) : Chip :=
  let c := if a.error = 0 then c else c.incSat VLT_ERR_CNT_count
  match r.source with
  | .window n =>
    let c := forN ((a.output.length + 3) / 4) (fun k c => c.put (VREQ_OUT_out n k) (ofLe ((a.output.drop (4 * k)).take 4))) c
    let c := (c.put (VREQ_ST_state n) (if a.error = 0 then 3 else 4)).put (VREQ_ST_error n) a.error
    (c.put (VREQ_ST_out_len n) a.output.length).vaultDone r.plane
  | .readout => c.setVlt fun v => { v with answers := Sparse.set (fun _ => none) v.answers 256 (some a) }
  | .tag id =>
    let c := match r.op, a.found with
      | 0x0E, [(i, ctr)] =>
        (match c.groupOf r.slot with
        | some g => c.setHalter g i ctr
        | none => c)
      | _, _ => c
    if c.tag.resolves.any fun x => x.id == id then
      c.setVlt fun v => { v with answers := Sparse.set (fun _ => none) v.answers id (some a) }
    else c

/-- A request enters the queue (R437, R438). -/
def Chip.queueRequest (c : Chip) (r : VaultRequest) : Chip :=
  let seq := (c.vlt.sequence + 1) % 2 ^ 32
  let c := (c.setVlt fun v => { v with queue := v.queue ++ [r], sequence := seq }).inc VLT_REQ_CNT_count
  match r.source with
  | .window n =>
    let c := ((c.put (VREQ_ST_state n) 1).put (VREQ_ST_error n) 0).put (VREQ_ST_out_len n) 0
    c.put (VREQ_SEQ_seq n) seq
  | _ => c

/-- A request is submitted: queued, or ended with its error (R438). -/
def Chip.submit (c : Chip) (r : VaultRequest) : Chip :=
  let e := c.goError r
  if e = 0 then c.queueRequest r else c.endRequest r { error := e }

/-- n bytes of consecutive registers, byte 0 in bits 7–0 of the first. -/
def Chip.regBytes (c : Chip) (f : Nat → Fld) (n : Nat) : List Nat :=
  ((List.range ((n + 3) / 4)).flatMap fun k => leBytes 4 (c.rd (f k))).take n

/-- The request that window slot n holds (R437). -/
def Chip.windowRequest (c : Chip) (n : Nat) : VaultRequest :=
  let depth := c.rd (VREQ_OP_depth n)
  { source := .window n, plane := n / 4, op := (let op := c.rd (VREQ_OP_op n); if op = 0x0E then 0 else op)
    slot := c.rd (VREQ_OP_slot n), ktype := c.rd (VREQ_OP_ktype n), param := c.rd (VREQ_LEN_param n)
    path := (List.range depth).map fun d =>
      let bs := (List.range 8).flatMap fun k => leBytes 4 (c.rd (VREQ_PATH_path n (8 * d + k)))
      (bs.take 16, bs.drop 16)
    input := c.regBytes (VREQ_IN_in n) (c.rd (VREQ_LEN_len n)) }

/-- Window slot n is queued or running (R437). -/
def Chip.windowBusy (c : Chip) (n : Nat) : Bool := c.rd (VREQ_ST_state n) == 1 || c.rd (VREQ_ST_state n) == 2

/-- A write of VREQ_CMD.go of window slot n (R437, R438). -/
def Chip.windowGo (c : Chip) (n : Nat) : Chip :=
  if c.windowBusy n then c.setFlag (VREQ_ST_wrote_busy n) true else c.submit (c.windowRequest n)

/-- The bus write of VREQ_CMD.go of a window slot that names operation op. -/
def vaultGo (acc : Access) (n op : Nat) (c : Chip) : Chip :=
  c.writeUnit .vrq n acc (VREQ_CMD n).addr 1 fun c => if c.rd (VREQ_OP_op n) = op then c.windowGo n else c

/-- VAULT_RANDOM (R435). -/
def execVaultRandom (acc : Access) (n : Nat) (s : State) : Answer := s.effect (vaultGo acc n 0x01)

/-- VAULT_SHA384 (R435). -/
def execVaultSha384 (acc : Access) (n : Nat) (s : State) : Answer := s.effect (vaultGo acc n 0x02)

/-- VAULT_HMAC (R435). -/
def execVaultHmac (acc : Access) (n : Nat) (s : State) : Answer := s.effect (vaultGo acc n 0x03)

/-- VAULT_CMAC (R435). -/
def execVaultCmac (acc : Access) (n : Nat) (s : State) : Answer := s.effect (vaultGo acc n 0x04)

/-- VAULT_GCM_ENCRYPT (R435). -/
def execVaultGcmEncrypt (acc : Access) (n : Nat) (s : State) : Answer := s.effect (vaultGo acc n 0x05)

/-- VAULT_GCM_DECRYPT (R435). -/
def execVaultGcmDecrypt (acc : Access) (n : Nat) (s : State) : Answer := s.effect (vaultGo acc n 0x06)

/-- VAULT_ECDSA_SIGN (R435). -/
def execVaultEcdsaSign (acc : Access) (n : Nat) (s : State) : Answer := s.effect (vaultGo acc n 0x07)

/-- VAULT_ECDSA_VERIFY (R435). -/
def execVaultEcdsaVerify (acc : Access) (n : Nat) (s : State) : Answer := s.effect (vaultGo acc n 0x08)

/-- VAULT_ECDH (R435). -/
def execVaultEcdh (acc : Access) (n : Nat) (s : State) : Answer := s.effect (vaultGo acc n 0x09)

/-- VAULT_PUBLIC_KEY (R435). -/
def execVaultPublicKey (acc : Access) (n : Nat) (s : State) : Answer := s.effect (vaultGo acc n 0x0A)

/-- VAULT_COSE_SIGN1 (R435). -/
def execVaultCoseSign1 (acc : Access) (n : Nat) (s : State) : Answer := s.effect (vaultGo acc n 0x0B)

/-- VAULT_ATTEST (R440). -/
def execVaultAttest (acc : Access) (n : Nat) (s : State) : Answer := s.effect (vaultGo acc n 0x0C)

/-- VAULT_SLOT_INFO (R435). -/
def execVaultSlotInfo (acc : Access) (n : Nat) (s : State) : Answer := s.effect (vaultGo acc n 0x0D)

/-- A write of VREQ_CMD.abort: a queued request is withdrawn (R437). -/
def Chip.windowAbort (c : Chip) (n : Nat) : Chip :=
  if c.rd (VREQ_ST_state n) = 1 then
    let c := c.setVlt fun v => { v with queue := v.queue.filter fun r => !(decide (r.source = .window n)) }
    (c.put (VREQ_ST_state n) 5).vaultDone (n / 4)
  else if c.rd (VREQ_ST_state n) = 2 then c.setFlag (VREQ_ST_wrote_busy n) true
  else c

/-- The bus write of VREQ_CMD.abort. -/
def vaultRequestAbort (acc : Access) (n : Nat) (c : Chip) : Chip :=
  c.writeUnit .vrq n acc (VREQ_CMD n).addr 2 fun c => c.windowAbort n

/-- VAULT_REQUEST_ABORT (R437). -/
def execVaultRequestAbort (acc : Access) (n : Nat) (s : State) : Answer := s.effect (vaultRequestAbort acc n)

/-- What an engine runs. -/
def Chip.engine (c : Chip) (e : Nat) : Option (VaultRequest × VaultAnswer) := Sparse.get (fun _ => none) c.vlt.engines e

/-- The engine's work is replaced, and its busy bit follows (R444). -/
def Chip.setEngine (c : Chip) (e : Nat) (x : Option (VaultRequest × VaultAnswer)) : Chip :=
  (c.setVlt fun v => { v with engines := Sparse.set (fun _ => none) v.engines e x }).setFlag
    (VLT_STATUS_sym_busy.bitOf e) x.isSome

/-- The rank of a requester (R439): the tag reader, the readout engine, all others. -/
def VaultSource.rank : VaultSource → Nat
  | .tag _ => 0
  | .readout => 1
  | .window _ => 2

/-- The request that engine e takes next (R439). -/
def Chip.nextRequest (c : Chip) (e : Nat) : Option VaultRequest :=
  let mine := c.vlt.queue.filter fun r => opEngine r.op == e
  (mine.find? fun r => r.source.rank == 0).or ((mine.find? fun r => r.source.rank == 1).or mine.head?)

/-- Engine e takes its next request and repeats the checks for errors 3 and 4 (R438, R439). The request runs on the key in force now
(R443). -/
def vaultRequestStart (e : Nat) (c : Chip) : Chip :=
  if 3 ≤ e ∨ (c.engine e).isSome then c
  else match c.nextRequest e with
  | none => c
  | some r =>
    let c := c.setVlt fun v => { v with queue := v.queue.filter fun x => !(decide (x.source = r.source)) }
    if c.keyError r ≠ 0 then c.endRequest r { error := c.keyError r }
    else
      let (a, c) := c.vaultRun r
      let c := match r.source with
        | .window n => c.put (VREQ_ST_state n) 2
        | _ => c
      c.setEngine e (some (r, a))

/-- VAULT_REQUEST_START (R439). -/
def execVaultRequestStart (engine : Nat) (s : State) : Answer := s.effect (vaultRequestStart engine)

/-- The request that engine e runs ends (R437). -/
def vaultRequestDone (e : Nat) (c : Chip) : Chip :=
  match c.engine e with
  | none => c
  | some (r, a) => (c.setEngine e none).endRequest r a

/-- VAULT_REQUEST_DONE (R437). -/
def execVaultRequestDone (engine : Nat) (s : State) : Answer := s.effect (vaultRequestDone engine)

/-- A plane takes a plane reset (R443): its queued requests are removed and its slots read idle; a running request's result is
discarded with error 7; the management plane's pending key data is zeroed. -/
def Chip.vaultPlaneReset (c : Chip) (p : Nat) : Chip :=
  let own (r : VaultRequest) : Bool :=
    match r.source with
    | .window n => n / 4 == p
    | _ => false
  let c := c.setVlt fun v =>
    { v with
      queue := v.queue.filter fun r => !own r
      engines := v.engines.map fun x =>
        (x.1, x.2.map fun y => if own y.1 then (y.1, ({ error := 7 } : VaultAnswer)) else y) }
  let c := forN 4 (fun q c =>
    let n := 4 * p + q
    if c.rd (VREQ_ST_state n) = 2 then c else c.put (VREQ_ST_state n) 0) c
  if p = 2 then c.wipeKeyData else c

/-! ### Random numbers and the restore (R431, R441, R446) -/

/-- An entropy health test fails (R441). -/
def trngHealthFail (c : Chip) : Chip :=
  let was := c.flag VLT_STATUS_trng_fault
  let c := ((c.setFlag VLT_STATUS_trng_fault true).setFault 5 0x5801 0).incSat VLT_TRNG_CNT_count
  let c := if c.flag VLT_STATUS_ready then c else c.setVlt fun v => { v with testsFailed := true }
  if was then c else c.raiseEv vltPage 2

/-- TRNG_HEALTH_FAIL (R441). -/
def execTrngHealthFail (s : State) : Answer := s.effect trngHealthFail

/-- The DRBG is reseeded (R441). -/
def drbgReseed (c : Chip) : Chip := c.setVlt Vault.reseed

/-- DRBG_RESEED (R441). -/
def execDrbgReseed (s : State) : Answer := s.effect drbgReseed

/-- The valid commit entries of slot k, the higher generation first, each with its index (R431). -/
def Chip.entriesOf (c : Chip) (k : Nat) : List (Nat × VaultEntry) :=
  let x (e : Nat) : Option (Nat × VaultEntry) := (Sparse.get (fun _ => none) c.vlt.entries (2 * k + e)).map fun y => (e, y)
  match (x 0).filter fun y => y.2.valid, (x 1).filter fun y => y.2.valid with
  | none, none => []
  | some a, none => [a]
  | none, some b => [b]
  | some a, some b => if a.2.generation < b.2.generation then [b, a] else [a, b]

/-- The bank that an entry of slot k names, if it passes the test of R431. -/
def Chip.namedBank (c : Chip) (k : Nat) (e : Nat × VaultEntry) : Option VaultSlot :=
  match Sparse.get (fun _ => none) c.vlt.banks (2 * k + e.2.bank) with
  | some b =>
    if b.valid ∧ b.generation = e.2.generation ∧ b.crc = some e.2.crc then
      b.opened.map fun k => { key := k, bank := e.2.bank, entry := e.1 }
    else none
  | none => none

/-- An entry of slot k has been written (R431). -/
def Chip.entryWritten (c : Chip) (k : Nat) : Bool :=
  (Sparse.get (fun _ => none) c.vlt.entries (2 * k)).isSome || (Sparse.get (fun _ => none) c.vlt.entries (2 * k + 1)).isSome

/-- Slot k as R431 restores it; true where it faults. -/
def Chip.restoreSlot (c : Chip) (k : Nat) : VaultSlot × Bool :=
  match (c.entriesOf k).findSome? (c.namedBank k) with
  | some s => (s, false)
  | none => ({}, c.entryWritten k)

/-- The vault has restored its region and run its start-up tests, which clear trng_fault where they passed (R431, R441, R446). -/
def vaultRestoreDone (c : Chip) : Chip :=
  if c.flag VLT_STATUS_ready then c
  else
    let rs := ((List.range 256).drop 1).map fun k => (k, c.restoreSlot k)
    let bad := rs.any fun r => r.2.2
    let sum := (rs.map fun r => r.2.1.key.generation).foldl (· + ·) 0
    let c := c.setVlt fun v =>
      { v with
        slots := rs.foldl (fun (m : Sparse VaultSlot) r => Sparse.set (fun _ => {}) m r.1 r.2.1) []
        header := v.header.counted (satN 32 (max v.header.changes sum)), drawn := 0, sinceSeed := 0 }
    let c := c.put VLT_KEY_CHG_count c.vlt.header.changes
    let c := match newestCopy c.vlt.stored with
      | some x => c.adoptConfig x.1.2
      | none => c
    let c := if bad then ((c.setFlag VLT_STATUS_store_fault true).setFault 5 0x5802 0).raiseEv vltPage 3 else c
    let c := if c.vlt.testsFailed then c else (c.setFlag VLT_STATUS_trng_fault false).clearFault 5 0x5801 0
    (c.setFlag VLT_STATUS_ready true).raiseEv vltPage 0

/-- VAULT_RESTORE_DONE (R446). -/
def execVaultRestoreDone (s : State) : Answer := s.effect vaultRestoreDone

/-- The vault at a Stride edge: the age of the seed, and a reseed after one second without one (R441). -/
def Chip.vaultEdge (c : Chip) : Chip :=
  c.setVlt fun v => if 8000 ≤ v.sinceSeed + 1 then v.reseed else { v with sinceSeed := v.sinceSeed + 1 }

/-- VLT_KW_GEN as it reads (R445). -/
def Chip.keyGeneration (c : Chip) : Nat := (c.vaultSlot (c.rd VLT_KW_SLOT_slot)).key.generation

/-! ### Signed readings (R235, R236) -/

/-- A signed reading ends in error e (R236). -/
def Chip.signError (c : Chip) (e : Nat) : Chip :=
  let c := { c with dsp := { c.dsp with signing := none, payload := none } }
  ((c.put LDG_SIGN_ST_state 3).put LDG_SIGN_ST_error e).raiseEv 0x40103000 6

/-- A write of LDG_SIGN_CMD.go (R236). -/
def signReading (acc : Access) (v : Nat) (c : Chip) : Chip :=
  c.write acc LDG_SIGN_CMD.addr v fun c =>
    let m := c.rd LDG_SIGN_MTR_meter
    if v % 2 = 0 ∨ c.rd LDG_SIGN_ST_state = 1 then c
    else if ¬ (m < c.variant.meters ∧ (c.meter m).active) then c.signError 1
    else
      let nonce := c.regBytes LDG_SIGN_NONCE_nonce (min 32 (c.rd LDG_SIGN_NLEN_len))
      let c : Chip := { c with dsp := { c.dsp with signing := some (m, c.rd LDG_SIGN_SEL, nonce), payload := none } }
      ((c.put LDG_SIGN_ST_state 1).put LDG_SIGN_ST_error 0).put LDG_SIGN_ST_length 0

/-- SIGN_READING (R236). -/
def execSignReading (acc : Access) (v : Nat) (s : State) : Answer := s.effect (signReading acc v)

/-- The registers that a selection names, in rising order (R237). -/
def signedRegisters (sel : Nat) : List Nat :=
  (bitsSet 8 sel).flatMap fun q => 9 * q :: (if bit sel 8 then (List.range 8).map (fun t => 9 * q + 1 + t) else [])

/-- The payload of a signed reading from a snapshot (R235). -/
def Chip.readingPayload (c : Chip) (b : Bank) (m sel : Nat) (nonce : List Nat) : List Nat :=
  let x := Sparse.get (fun _ => {}) b.meters m
  cborMap
    ([(1, cborBytes c.identity), (2, cborNat m), (3, cborNat b.stride), (4, cborNat b.lc), (5, cborNat x.statusWord),
        (6, cborMap ((signedRegisters sel).map fun j => (j, cborNat (x.published j))))] ++
      (if bit sel 9 then [(7, cborArray [cborNat (x.compTotal true), cborNat (x.compTotal false)])] else []) ++
      (if bit sel 10 then
        [(8, cborMap ((List.range 18).map fun j =>
          let y := Sparse.get (fun _ => {}) x.maxima j
          (j, cborArray [cborNat y.w, cborNat y.lc, cborNat y.flags])))]
      else []) ++
      [(9, c.cborRd SFE_CAL_COUNT_count), (10, c.cborRd SFE_CAL_CRC_crc), (11, c.cborRd TRF_ACAL_CRC_crc), (12, cborBytes nonce),
        (13, cborNat c.dsp.signSeq)])

/-- At a publication the readout engine builds the payload of a waiting reading and submits it to the vault (R235, R236, R434). -/
def Chip.signPublished (c : Chip) (b : Bank) : Chip :=
  match c.dsp.signing, c.dsp.payload with
  | some (m, sel, nonce), none =>
    let payload := c.readingPayload b m sel nonce
    let c : Chip := { c with dsp := { c.dsp with payload := some payload, signSeq := (c.dsp.signSeq + 1) % 2 ^ 32 } }
    let label := c.meterLabel m
    let header := cborMap [(1, cborInt (-7)), (4, cborBytes label)]
    c.submit
      { source := .readout, plane := 1, op := 0x0B, slot := c.meterRoot, ktype := 3, path := [(label, c.siteContext)]
        param := header.length, input := header ++ payload }
  | _, _ => c

/-- The vault's answer to the readout engine: the reading is done, or failed with error 2, 3 or 4 (R236). -/
def signReadingDone (c : Chip) : Chip :=
  match Sparse.get (fun _ => none) c.vlt.answers 256 with
  | none => c
  | some a =>
    let c := c.setVlt fun v => { v with answers := Sparse.set (fun _ => none) v.answers 256 none }
    if c.rd LDG_SIGN_ST_state ≠ 1 then c
    else if a.error = 3 ∨ a.error = 4 then c.signError 3
    else if a.error = 8 ∨ 1024 < a.output.length then c.signError 4
    else if a.error ≠ 0 then c.signError 2
    else
      let c := { c with dsp := { c.dsp with signing := none, payload := none } }
      let c := forN ((a.output.length + 3) / 4) (fun k c => c.put (LDG_SIGN_OUT_obj k) (ofLe ((a.output.drop (4 * k)).take 4))) c
      ((c.put LDG_SIGN_ST_state 2).put LDG_SIGN_ST_length a.output.length).raiseEv 0x40103000 6

/-- SIGN_READING_DONE (R236). -/
def execSignReadingDone (s : State) : Answer := s.effect signReadingDone

end Sys2Proof.Machine
end

