-- ==== Sys2Proof/Machine/Boot.lean ====
section
/-! DEFINITION. The image store, measured boot, the image loader, plane resets, watchdogs, live change and the update page
(R468–R486). -/

namespace Sys2Proof.Machine

/-- The bases of the FAB, UPD boot and UPD update pages. -/
def fabPage : Nat := 0x40000000
def updPage : Nat := 0x405A0000
def upuPage : Nat := 0x405A1000

/-- The block with the boot and update logic changed. -/
def Chip.setBoot (c : Chip) (f : Boot → Boot) : Chip := { c with boot := f c.boot }

/-- The key of FAB_RST and UPD_PL_CMD (R471, R484). -/
def resetKey : Nat := 0xC1A5

/-! ### The image store (R476–R478) -/

/-- The offset and the size of the partition of plane p in a bank (R476). -/
def partition (p : Nat) : Nat × Nat :=
  match p with
  | 0 => (0x2900000, 0xC000000)
  | 1 => (0x1900000, 0x1000000)
  | 2 => (0x0100000, 0x1000000)
  | _ => (0x1100000, 0x0800000)

/-- n bytes of the partition of plane p in a bank, from an offset on; erased bytes are 0xFF. -/
def Chip.image (c : Chip) (p bank ofs n : Nat) : List Nat :=
  (List.range n).map fun k => (Sparse.get (fun _ => (0xFF : Byte)) c.boot.nor (bank * 2 ^ 28 + (partition p).1 + ofs + k)).toNat

/-- Writes bytes to the partition of plane p in a bank. -/
def Chip.setImage (c : Chip) (p bank ofs : Nat) (bs : List Nat) : Chip :=
  c.setBoot fun b =>
    { b with
      nor := ((List.range bs.length).zip bs).foldl (fun (m : Sparse Byte) x =>
        Sparse.set (fun _ => (0xFF : Byte)) m (bank * 2 ^ 28 + (partition p).1 + ofs + x.1) (BitVec.ofNat 8 x.2)) b.nor }

/-- The 4096 header bytes of an image (R477). -/
def Chip.header (c : Chip) (p bank : Nat) : List Nat := c.image p bank 0 4096

/-- A little-endian header field. -/
def headerLe (h : List Nat) (ofs n : Nat) : Nat := ofLe ((h.drop ofs).take n)

/-- The bank holds an image of plane p that the loader accepts (R477). A bank that lost power during a program or erase fails (R482). -/
def Chip.imageValid (c : Chip) (p bank : Nat) : Bool :=
  let h := c.header p bank
  let len := headerLe h 16 4
  let key := nth h 5
  let pub := (h.drop 72).take 96
  !bit c.boot.spoilt (2 * p + bank) && headerLe h 0 4 == 0x4D495851 && nth h 4 == p && decide (len ≤ (partition p).2 - 4096) &&
    decide (key < 4) && bit (c.rd UPD_KH_ST_enrolled) key && !bit (c.rd UPD_KH_ST_revoked) key &&
    sha384 pub == Sparse.get (fun _ => []) c.boot.hashes key &&
    ecdsaVerify 1 pub (sha384 (h.take 4000)) (h.drop 4000) && sha384 (c.image p bank 4096 len) == (h.drop 24).take 48 &&
    decide (nth h 12 ≤ 63) && decide (c.rd (UPD_PL_ST_svn_min p) ≤ nth h 12)

/-- The valid boot record with the highest generation; without one, the first bank of every plane and no trial (R478). -/
def Chip.bootRecord (c : Chip) : BootRecord :=
  (c.boot.records.filterMap id).foldl (fun (best : BootRecord) r => if best.generation < r.generation then r else best) {}

/-- The copy of a NOR device that does not hold its newest record (R478). -/
def olderCopy (a b : Option BootRecord) : Nat :=
  match a, b with
  | none, _ => 0
  | some _, none => 1
  | some x, some y => if x.generation ≤ y.generation then 0 else 1

/-- A new boot record is written to NOR A and then to NOR B (R478). -/
def Chip.writeRecord (c : Chip) (planes : List BootPlane) : Chip :=
  let r : BootRecord := { generation := c.bootRecord.generation + 1, planes := planes }
  let l := c.boot.records
  let l := setNth l (olderCopy (l.getD 0 none) (l.getD 1 none)) (some r)
  let l := setNth l (2 + olderCopy (l.getD 2 none) (l.getD 3 none)) (some r)
  c.setBoot fun b => { b with records := l }

/-- A plane's part of the boot record in force. -/
def Chip.bootPlane (c : Chip) (p : Nat) : BootPlane := c.bootRecord.planes.getD p {}

/-- The boot record takes a plane's part; one that is unchanged is not written (R478). UPD_PL_ST.trial and .tries follow it. -/
def Chip.setBootPlane (c : Chip) (p : Nat) (x : BootPlane) : Chip :=
  let c := if c.bootPlane p = x then c else c.writeRecord (setNth c.bootRecord.planes p x)
  (c.setFlag (UPD_PL_ST_trial p) x.trial).put (UPD_PL_ST_tries p) x.tries

/-! ### The loader (R468, R478) -/

/-- UPD_STATUS follows the loader. -/
def Chip.showLoader (c : Chip) : Chip :=
  (c.setFlag UPD_STATUS_loader_busy c.boot.loading.isSome).put UPD_STATUS_waiting
    ((List.range 4).foldl (fun x p => if c.boot.waiting.contains p then x + 2 ^ p else x) 0)

/-- The fault of a plane's bit in UPD_PL_ST (R486, R502). -/
def Chip.planeFault (c : Chip) (p k : Nat) (b : Bool) : Chip := c.faultIs 5 (Blk.upd.code * 256 + k) p b

/-- A plane's trial ends with the previous bank preferred, and reverted sets (R478); its event is raised once that bank runs, as the worked
example of R481 gives it. -/
def Chip.revertPlane (c : Chip) (p : Nat) : Chip :=
  let x := c.bootPlane p
  let c := c.setBootPlane p { x with preferred := x.previous, previous := 1 - x.previous, trial := false, tries := 0 }
  ((c.setFlag (UPD_PL_ST_reverted p) true).planeFault p 5 true).setBoot fun b => { b with reverting := putBit b.reverting p true }

/-- The bank that the loader of a plane selects (R478). -/
def Chip.selectBank (c : Chip) (p : Nat) : Nat × Chip :=
  let x := c.bootPlane p
  if ¬ x.trial then (x.preferred, c.setBootPlane p x)
  else if x.tries = max 1 (c.rd (UPD_PL_CFG_max_tries p)) then (x.previous, c.revertPlane p)
  else (x.trialBank, c.setBootPlane p { x with tries := x.tries + 1 })

/-- The loader takes the start that has waited longest (R468). -/
def Chip.loaderNext (c : Chip) : Chip :=
  match c.boot.loading, c.boot.waiting with
  | none, p :: rest =>
    let (bank, c) := c.selectBank p
    ((c.setBoot fun b => { b with loading := some (p, bank), waiting := rest }).put (UPD_PL_ST_state p) 1).showLoader
  | _, _ => c.showLoader

/-- A start of a plane waits for the loader (R468). -/
def Chip.queueStart (c : Chip) (p : Nat) : Chip :=
  if c.boot.waiting.contains p ∨ c.boot.loading.map (·.1) = some p then c
  else (c.setBoot fun b => { b with waiting := b.waiting ++ [p] }).loaderNext

/-- The targets of a plane's cores (R447). -/
def planeTargets (p : Nat) : List Nat := (List.range 8).filter fun t => targetPlane t == p

/-- The target of core k of FAB_PWR.gate: A1, A2, A3, B1 (R483). -/
def gatedTarget (k : Nat) : Nat := if k < 3 then k + 1 else 5

/-- Target t's core is power-gated. -/
def Chip.isGated (c : Chip) (t : Nat) : Bool := (List.range 4).any fun k => gatedTarget k == t && bit (c.rd FAB_PWR_gated) k

/-- The loader hands a plane to the verified image of a bank; after a plane reset the private banks of its targets take their reset values
(R459, R466, R470, R477). -/
def Chip.startPlane (c : Chip) (p bank : Nat) : Chip :=
  let h := c.header p bank
  let m := sha384 (h.take 4000)
  let c := forN 12 (fun k c => c.put (UPD_MEAS_meas (12 * p + k)) (headerLe m (4 * k) 4)) c
  let c := ((c.put (UPD_PL_ST_state p) 2).put (UPD_PL_ST_bank p) bank).put (UPD_PL_ST_svn p) (nth h 12)
  let c := (c.put (UPD_PL_VER_version p) (headerLe h 8 4)).put (UPD_PL_LEN_len p) (headerLe h 16 4)
  let c := (c.planeFault p 32 false).raiseEv updPage 0
  let again := bit c.boot.restarting p
  let c := if again then c.raiseEv fabPage 3 else c
  let c := if bit c.boot.reverting p then c.raiseEv updPage 1 else c
  let trial := (c.bootPlane p).trial
  let c := c.setBoot fun b =>
    { b with
      restarting := putBit b.restarting p false
      reverting := putBit b.reverting p false
      watchdogs := Sparse.set (fun _ => none) b.watchdogs p (if p < 3 then some 0 else none)
      halves := putBit b.halves p false
      trials := if trial then Sparse.insert b.trials p 0 else Sparse.erase b.trials p }
  let c := if again then (planeTargets p).foldl (fun (c : Chip) t => c.resetPrivate t) c else c
  let c := c.onlineTargets ((planeTargets p).filter fun t => !c.isGated t)
  let c := if c.rd (UPD_PL_CMD_ST_state p) = 1 then c.put (UPD_PL_CMD_ST_state p) 2 else c
  if p = 3 then c.startSafety else c

/-- No image of a plane is accepted: it stays in reset (R478). -/
def Chip.failPlane (c : Chip) (p : Nat) : Chip :=
  let c := ((c.put (UPD_PL_ST_state p) 3).planeFault p 32 true).raiseEv updPage 3
  if c.rd (UPD_PL_CMD_ST_state p) = 1 then c.put (UPD_PL_CMD_ST_state p) 2 else c

/-- The loader has verified and measured the image of the plane that it loads (R477, R478). -/
def imageLoadDone (c : Chip) : Chip :=
  match c.boot.loading with
  | none => c
  | some (p, bank) =>
    let c := c.setBoot fun b => { b with loading := none }
    let c :=
      if c.imageValid p bank then c.startPlane p bank
      else
        let c := if (c.bootPlane p).trial then c.revertPlane p
          else ((c.setFlag (UPD_PL_ST_failover p) true).planeFault p 6 true).raiseEv updPage 2
        if c.imageValid p (1 - bank) then c.startPlane p (1 - bank) else c.failPlane p
    c.loaderNext

/-- IMAGE_LOAD_DONE (R477). -/
def execImageLoadDone (s : State) : Answer := s.effect imageLoadDone

/-! ### Plane resets (R471, R472) -/

/-- The commit of a controller-die or module reset is being written (R224, R473). -/
def Chip.resetCommitting (c : Chip) : Bool := c.boot.wanted.isSome && c.led.writing.isSome

/-- Plane p takes a plane reset: its targets park, what waits for it is freed, and after 1 ms its image is loaded again. One that
runs goes on, and a request while a reset commit is written joins that reset (R482). -/
def Chip.planeReset (c : Chip) (p : Nat) : Chip :=
  if 4 ≤ p ∨ Sparse.get (fun _ => 0) c.boot.hold p ≠ 0 ∨ c.resetCommitting then c
  else
    let c := c.parkTargets (planeTargets p)
    let c := (c.mailboxPlaneReset p).vaultPlaneReset p
    let c := (c.incSat (FAB_PRST_CNT_count p)).raiseEv fabPage 2
    let c := (c.put (UPD_PL_ST_state p) 0).setBoot fun b =>
      { b with
        loading := if b.loading.map (·.1) = some p then none else b.loading
        waiting := b.waiting.filter (· != p)
        hold := Sparse.set (fun _ => 0) b.hold p 8
        restarting := putBit b.restarting p true
        watchdogs := Sparse.set (fun _ => none) b.watchdogs p none
        halves := putBit b.halves p false
        trials := Sparse.erase b.trials p }
    let c := if p = 3 then c.stopSafety else c
    c.loaderNext

/-- The holds of plane resets at a Stride edge, and the ages of the watchdogs and of the trials (R470, R472, R478). -/
def Chip.bootEdge (c : Chip) : Chip :=
  let c := forN 4 (fun p c =>
    let n := Sparse.get (fun _ => 0) c.boot.hold p
    if n = 0 then c
    else
      let c := c.setBoot fun b => { b with hold := Sparse.set (fun _ => 0) b.hold p (n - 1) }
      if n = 1 then c.queueStart p else c) c
  c.setBoot fun b =>
    { b with
      watchdogs := b.watchdogs.map fun w => (w.1, w.2.map (· + 1))
      trials := b.trials.map fun t => (t.1, t.2 + 1) }

/-! ### UPD_PL_CMD (R468, R469, R478, R479, R481) -/

/-- A keyed write of UPD_PL_CMD with bit k set. -/
def Chip.planeCommand (c : Chip) (acc : Access) (p v k : Nat) (f : Chip → Chip) : Chip :=
  if 4 ≤ p then c
  else c.write acc (UPD_PL_CMD p).addr v fun c => if v / 65536 % 65536 ≠ resetKey ∨ ¬ bit v k then c else f c

/-- A command of UPD_PL_CMD ends as done (2) or refused (3) with its reason. -/
def Chip.endPlaneCommand (c : Chip) (p state reason : Nat) : Chip :=
  (c.put (UPD_PL_CMD_ST_state p) state).put (UPD_PL_CMD_ST_reason p) reason

/-- UPD_PL_CMD.start (R468, R469): refused for a running plane. -/
def planeStartCmd (acc : Access) (p v : Nat) (c : Chip) : Chip :=
  c.planeCommand acc p v 0 fun c =>
    if c.rd (UPD_PL_ST_state p) = 2 then c.endPlaneCommand p 3 2
    else if Sparse.get (fun _ => 0) c.boot.hold p ≠ 0 then c.endPlaneCommand p 1 0
    else (c.endPlaneCommand p 1 0).queueStart p

/-- PLANE_START_CMD (R468). -/
def execPlaneStartCmd (acc : Access) (p v : Nat) (s : State) : Answer := s.effect (planeStartCmd acc p v)

/-- The reason that refuses a switch of plane p (R481). -/
def Chip.switchRefusal (c : Chip) (p : Nat) : Option Nat :=
  if ¬ bit c.boot.verified (2 * p + (1 - c.rd (UPD_PL_ST_bank p))) then some 1
  else if c.flag LDG_STATUS_pfw then some 3
  else if c.boot.command.isSome then some 4
  else if p = 3 ∧ ¬ c.flag HRN_CTRL_pair_en ∧ (List.range c.variant.flocks).any (fun f => c.flockState f != 2) then some 5
  else none

/-- UPD_PL_CMD.switch: a trial of the other bank (R481). -/
def planeSwitchCmd (acc : Access) (p v : Nat) (c : Chip) : Chip :=
  c.planeCommand acc p v 1 fun c =>
    match c.switchRefusal p with
    | some r => c.endPlaneCommand p 3 r
    | none =>
      let bank := c.rd (UPD_PL_ST_bank p)
      let c := c.setBootPlane p { c.bootPlane p with previous := bank, trialBank := 1 - bank, trial := true, tries := 0 }
      (c.endPlaneCommand p 2 0).planeReset p

/-- PLANE_SWITCH_CMD (R481). -/
def execPlaneSwitchCmd (acc : Access) (p v : Nat) (s : State) : Answer := s.effect (planeSwitchCmd acc p v)

/-- UPD_PL_CMD.confirm: the trial ends, and the running bank is preferred (R478). -/
def planeConfirmCmd (acc : Access) (p v : Nat) (c : Chip) : Chip :=
  c.planeCommand acc p v 2 fun c =>
    if c.rd (UPD_PL_ST_state p) ≠ 2 then c
    else
      let bank := c.rd (UPD_PL_ST_bank p)
      let c := c.setBootPlane p { c.bootPlane p with preferred := bank, previous := 1 - bank, trial := false, tries := 0 }
      (c.setBoot fun b => { b with trials := Sparse.erase b.trials p }).endPlaneCommand p 2 0

/-- PLANE_CONFIRM_CMD (R478). -/
def execPlaneConfirmCmd (acc : Access) (p v : Nat) (s : State) : Answer := s.effect (planeConfirmCmd acc p v)

/-- UPD_PL_CMD.svn_commit: the minimum svn rises to that of the running image (R479). -/
def svnCommitCmd (acc : Access) (p v : Nat) (c : Chip) : Chip :=
  c.planeCommand acc p v 3 fun c =>
    if c.rd (UPD_PL_ST_state p) ≠ 2 then c
    else (c.put (UPD_PL_ST_svn_min p) (max (c.rd (UPD_PL_ST_svn_min p)) (c.rd (UPD_PL_ST_svn p)))).endPlaneCommand p 2 0

/-- SVN_COMMIT_CMD (R479). -/
def execSvnCommitCmd (acc : Access) (p v : Nat) (s : State) : Answer := s.effect (svnCommitCmd acc p v)

/-- UPD_PL_CMD.revert: the previous bank is selected, and the plane takes a plane reset (R484). -/
def planeRevertCmd (acc : Access) (p v : Nat) (c : Chip) : Chip :=
  c.planeCommand acc p v 4 fun c =>
    let x := c.bootPlane p
    let c := c.setBootPlane p { x with preferred := x.previous, previous := 1 - x.previous, trial := false, tries := 0 }
    (c.endPlaneCommand p 2 0).planeReset p

/-- PLANE_REVERT_CMD (R484). -/
def execPlaneRevertCmd (acc : Access) (p v : Nat) (s : State) : Answer := s.effect (planeRevertCmd acc p v)

/-- The trial window of plane p ends without a confirmation: a plane reset (R478). -/
def trialWindowExpire (p : Nat) (c : Chip) : Chip :=
  match Sparse.find c.boot.trials p with
  | some age => if (c.bootPlane p).trial ∧ 8000 * max 1 (c.rd (UPD_PL_CFG_window p)) ≤ age then c.planeReset p else c
  | none => c

/-- TRIAL_WINDOW_EXPIRE (R478). -/
def execTrialWindowExpire (p : Nat) (s : State) : Answer := s.effect (trialWindowExpire p)

/-! ### Watchdogs (R470) and power gating (R483) -/

/-- The watchdog of plane p: Strides since its service; none while stopped. -/
def Chip.watchdog (c : Chip) (p : Nat) : Option Nat := Sparse.get (fun _ => none) c.boot.watchdogs p

/-- The timeout of plane p's watchdog in Strides. -/
def Chip.watchdogTime (c : Chip) (p : Nat) : Nat :=
  let t := c.rd (FAB_WDT_CFG_timeout p)
  8 * (if t = 0 then 10 else t)

/-- The management plane's watchdog is expired or serviced, which the switch dies see (R287). -/
def Chip.managementExpired (c : Chip) (b : Bool) : Chip :=
  (c.setLoad fun l => { l with wdManagement := b }).watchdogsChanged

/-- A core writes its CSR 0x7C0 (R470). -/
def watchdogService (t v : Nat) (c : Chip) : Chip :=
  let p := targetPlane t
  if 7 ≤ t ∨ v ≠ 0x5AFE ∨ (c.watchdog p).isNone then c
  else
    let c := c.setBoot fun b =>
      { b with watchdogs := Sparse.set (fun _ => none) b.watchdogs p (some 0), halves := putBit b.halves p false }
    let c := c.setFlag (FAB_WDT_ST.bitOf p) false
    if p = 2 then c.managementExpired false else c

/-- WATCHDOG_SERVICE (R470). -/
def execWatchdogService (t v : Nat) (s : State) : Answer := s.effect (watchdogService t v)

/-- Half of the timeout of plane p's watchdog has run: private source 10 of its targets (R470). -/
def watchdogHalf (p : Nat) (c : Chip) : Chip :=
  match c.watchdog p with
  | some age =>
    if c.watchdogTime p ≤ 2 * age ∧ ¬ bit c.boot.halves p then
      let c := c.setBoot fun b => { b with halves := putBit b.halves p true }
      (planeTargets p).foldl (fun (c : Chip) t => c.firePrivate t 10) c
    else c
  | none => c

/-- WATCHDOG_HALF (R470). -/
def execWatchdogHalf (p : Nat) (s : State) : Answer := s.effect (watchdogHalf p)

/-- A controller-die or module reset is requested: it waits for its commit, and a further request joins it (R224, R471, R482). -/
def Chip.requestReset (c : Chip) (module : Bool) (cause plane : Nat) : Chip :=
  if c.boot.wanted.isSome then c
  else (c.setBoot fun b => { b with wanted := some (module, cause, plane) }).setLed fun l => { l with resetWanted := some c.stride }

/-- The timeout of plane p's watchdog has run (R470, R475). -/
def watchdogExpire (p : Nat) (c : Chip) : Chip :=
  match c.watchdog p with
  | some age =>
    if age < c.watchdogTime p then c
    else
      let c := c.setBoot fun b => { b with watchdogs := Sparse.set (fun _ => none) b.watchdogs p none }
      let c := (c.setFlag (FAB_WDT_ST.bitOf p) true).raiseEv fabPage 4
      let c := if p = 2 then c.managementExpired true else c
      if c.flag (FAB_WDT_CFG_action p) then c.requestReset false 5 p else c.planeReset p
  | none => c

/-- WATCHDOG_EXPIRE (R470). -/
def execWatchdogExpire (p : Nat) (s : State) : Answer := s.effect (watchdogExpire p)

/-- A write of FAB_PWR.gate: a core that is gated parks its target; one that wakes comes online while its plane runs (R457, R483). -/
def corePowerGate (acc : Access) (v : Nat) (c : Chip) : Chip :=
  c.write acc FAB_PWR.addr v fun c =>
    let was := c.rd FAB_PWR_gate
    let c := (c.put FAB_PWR_gate v).put FAB_PWR_gated v
    let changed := (List.range 4).filter fun k => bit v k != bit was k
    let c := c.parkTargets ((changed.filter fun k => bit v k).map gatedTarget)
    c.onlineTargets (((changed.filter fun k => !bit v k).map gatedTarget).filter fun t => c.rd (UPD_PL_ST_state (targetPlane t)) == 2)

/-- CORE_POWER_GATE (R483). -/
def execCorePowerGate (acc : Access) (v : Nat) (s : State) : Answer := s.effect (corePowerGate acc v)

/-! ### The update page (R480, R485) -/

/-- UPD_U_STATUS follows the command and the target plane's verified banks. -/
def Chip.showUpdate (c : Chip) : Chip :=
  (c.setFlag UPD_U_STATUS_busy c.boot.command.isSome).put UPD_U_STATUS_verified (c.boot.verified / 4 ^ c.rd UPD_U_TGT_plane)

/-- The target plane and bank of UPD_U_TGT. -/
def Chip.updateTarget (c : Chip) : Nat × Nat := (c.rd UPD_U_TGT_plane, c.rd UPD_U_TGT_bank)

/-- The reason that refuses a command at an offset that must be a multiple of `align` (R480, R485). -/
def Chip.updateRefusal (c : Chip) (ofs align : Nat) : Option Nat :=
  let (p, bank) := c.updateTarget
  let x := c.bootPlane p
  if c.boot.command.isSome then some 3
  else if c.rd (UPD_PL_ST_state p) = 2 ∧ c.rd (UPD_PL_ST_bank p) = bank ∨ x.trial ∧ x.previous = bank then some 1
  else if ofs % align ≠ 0 ∨ (partition p).2 ≤ ofs then some 2
  else none

/-- A write of bit k of UPD_U_CMD: the command runs, or is refused with its reason (R485). None starts after a reset of the management
plane until that plane has restarted (R472). -/
def Chip.updateCommand (c : Chip) (acc : Access) (k ofs align : Nat) (cmd : NorCommand) : Chip :=
  c.write acc UPD_U_CMD.addr (2 ^ k) fun c =>
    if bit c.boot.restarting 2 then c
    else match c.updateRefusal ofs align with
    | some r => ((c.put UPD_U_ST_state 3).put UPD_U_ST_reason r).raiseEv upuPage 1
    | none =>
      let c := c.setBoot fun b =>
        { b with
          command := some cmd
          verified := match cmd with
            | .program p bank _ _ => putBit b.verified (2 * p + bank) false
            | _ => b.verified }
      ((c.put UPD_U_ST_state 1).put UPD_U_ST_reason 0).showUpdate

/-- UPD_U_CMD.erase (R485). -/
def norEraseCmd (acc : Access) (c : Chip) : Chip :=
  let (p, bank) := c.updateTarget
  let ofs := c.rd UPD_U_OFS_ofs
  c.updateCommand acc 0 ofs 0x10000 (.erase p bank ofs)

/-- NOR_ERASE_CMD (R485). -/
def execNorEraseCmd (acc : Access) (s : State) : Answer := s.effect (norEraseCmd acc)

/-- UPD_U_CMD.program: the 256 bytes of UPD_U_BUF (R485). -/
def norProgramCmd (acc : Access) (c : Chip) : Chip :=
  let (p, bank) := c.updateTarget
  let ofs := c.rd UPD_U_OFS_ofs
  c.updateCommand acc 1 ofs 256 (.program p bank ofs (c.regBytes UPD_U_BUF_data 256))

/-- NOR_PROGRAM_CMD (R485). -/
def execNorProgramCmd (acc : Access) (s : State) : Answer := s.effect (norProgramCmd acc)

/-- UPD_U_CMD.verify (R480). -/
def norVerifyCmd (acc : Access) (c : Chip) : Chip :=
  let (p, bank) := c.updateTarget
  c.updateCommand acc 2 0 1 (.verify p bank)

/-- NOR_VERIFY_CMD (R480). -/
def execNorVerifyCmd (acc : Access) (s : State) : Answer := s.effect (norVerifyCmd acc)

/-- UPD_U_CMD.invalidate: the header sector is erased (R480). -/
def norInvalidateCmd (acc : Access) (c : Chip) : Chip :=
  let (p, bank) := c.updateTarget
  c.updateCommand acc 3 0 1 (.erase p bank 0)

/-- NOR_INVALIDATE_CMD (R480). -/
def execNorInvalidateCmd (acc : Access) (s : State) : Answer := s.effect (norInvalidateCmd acc)

/-- The command ends in a state with a reason: event 0, or event 1 where it failed. -/
def Chip.endUpdate (c : Chip) (state reason : Nat) : Chip :=
  (((c.put UPD_U_ST_state state).put UPD_U_ST_reason reason).showUpdate).raiseEv upuPage (if state = 4 then 1 else 0)

/-- A NOR command ends (R485). -/
def norCommandDone (c : Chip) : Chip :=
  match c.boot.command with
  | none => c
  | some cmd =>
    let c := c.setBoot fun b => { b with command := none }
    match cmd with
    | .erase p bank ofs => (c.setImage p bank ofs (List.replicate 0x10000 0xFF)).endUpdate 2 0
    | .program p bank ofs data =>
      ((c.setImage p bank ofs data).setBoot fun b => { b with spoilt := putBit b.spoilt (2 * p + bank) false }).endUpdate 2 0
    | .verify p bank =>
      if c.imageValid p bank then
        (c.setBoot fun b => { b with verified := putBit b.verified (2 * p + bank) true }).endUpdate 2 0
      else c.endUpdate 4 4

/-- NOR_COMMAND_DONE (R485). -/
def execNorCommandDone (s : State) : Answer := s.effect norCommandDone

/-- n bytes of a partition are free, and its bank fails R477 until it is programmed again (R482, log 1). -/
def Chip.spoilRange (c : Chip) (p bank ofs n : Nat) : Chip :=
  let (bs, c) := (List.range (n / 8)).foldl (fun (x : List Nat × Chip) _ =>
    let (v, c) := x.2.draw
    (x.1 ++ leBytes 8 v, c)) ([], c)
  (c.setImage p bank ofs bs).setBoot fun b => { b with spoilt := putBit b.spoilt (2 * p + bank) true, command := none }

/-- Power is lost while a program or an erase runs: its bytes are free, and the bank fails R477 until it is programmed again (R482). -/
def Chip.spoilUpdate (c : Chip) : Chip :=
  match c.boot.command with
  | some (.erase p bank ofs) => c.spoilRange p bank ofs 0x10000
  | some (.program p bank ofs _) => c.spoilRange p bank ofs 256
  | _ => c

/-! ### Signing keys (R479) -/

/-- UPD_KH_CMD.enrol: the selected index takes the hash of UPD_KH_DATA, once. -/
def keyHashEnrol (acc : Access) (c : Chip) : Chip :=
  c.write acc UPD_KH_CMD.addr 1 fun c =>
    let k := c.rd UPD_KH_SEL_index
    if c.flag (UPD_KH_ST_enrolled.bitOf k) then c
    else
      let h := c.regBytes UPD_KH_DATA_hash 48
      (c.setFlag (UPD_KH_ST_enrolled.bitOf k) true).setBoot fun b => { b with hashes := Sparse.set (fun _ => []) b.hashes k h }

/-- KEY_HASH_ENROL (R479). -/
def execKeyHashEnrol (acc : Access) (s : State) : Answer := s.effect (keyHashEnrol acc)

/-- UPD_KH_CMD.revoke: an enrolled index is revoked, once. -/
def keyHashRevoke (acc : Access) (c : Chip) : Chip :=
  c.write acc UPD_KH_CMD.addr 2 fun c =>
    let k := c.rd UPD_KH_SEL_index
    if c.flag (UPD_KH_ST_enrolled.bitOf k) then c.setFlag (UPD_KH_ST_revoked.bitOf k) true else c

/-- KEY_HASH_REVOKE (R479). -/
def execKeyHashRevoke (acc : Access) (s : State) : Answer := s.effect (keyHashRevoke acc)

end Sys2Proof.Machine
end

