-- ==== Sys2Proof/Machine/Tag.lean ====
section
/-! DEFINITION. The UHF tag reader: pings, rounds, the Halter exchange, writes, the two-copy record and the report queue
(R406–R423). -/

namespace Sys2Proof.Machine

/-- The base of the TAG page and of the page of ANTa. -/
def tagPage : Nat := 0x40560000
def antPage (a : Nat) : Nat := 0x40561000 + a * 0x1000

/-- The block with its tag reader changed. -/
def Chip.setTag (c : Chip) (f : TagReader → TagReader) : Chip := { c with tag := f c.tag }

/-- The plane that owns the TAG pages. -/
def Chip.tagOwner (c : Chip) : Nat := c.rd (ownerFld tagPage)

/-- The owner of the TAG pages holds the claim of antenna a (R407, R422). -/
def Chip.antClaimed (c : Chip) (a : Nat) : Bool := c.holds c.tagOwner (64 + a)

/-- A round or write runs, or waits for its channel. -/
def Chip.tagBusy (c : Chip) : Bool := c.tag.round.isSome || c.tag.writing.isSome || c.tag.deferred.isSome

/-- TAG_STATUS.state: 3 for a write, 2 for a round, 1 while pinging (R421). -/
def Chip.tagState (c : Chip) : Nat :=
  match c.tag.deferred with
  | some j => if j.work.isSome then 3 else 2
  | none => if c.tag.writing.isSome then 3 else if c.tag.round.isSome then 2 else c.rd TAG_CTRL_en

/-- TAG_STATUS.state and busy follow what runs (R421). -/
def Chip.tagShow (c : Chip) : Chip :=
  let s := c.tagState
  (c.put TAG_STATUS_state s).setFlag TAG_STATUS_busy c.tagBusy

/-- The reader may transmit on antenna a: it and the antenna are enabled, the claim is held, the radio die answers, and the module does
not act as Off (R407, R411, R423). -/
def Chip.tagMay (c : Chip) (a : Nat) : Bool :=
  c.flag TAG_CTRL_en && decide (a < 4) && c.flag (TAG_ANT_CFG_en a) && c.antClaimed a && !c.flag TAG_STATUS_radio_fault && !c.isOff

/-! ### Reports (R419) -/

/-- The report queue shows in its registers and its level event (R421). -/
def Chip.tagFifo (c : Chip) : Chip :=
  let c := c.put TAG_REP_COUNT_count c.tag.fifo.length
  let r := c.tag.fifo.headD []
  let c := forN 16 (fun k c => c.put (TAG_REP_BUF_rep k) (ofLe ((r.drop (4 * k)).take 4))) c
  c.setRaw tagPage 0 (!c.tag.fifo.isEmpty)

/-- A report arrives; at a full FIFO it is lost. -/
def Chip.tagReport (c : Chip) (r : List Nat) : Chip :=
  if 64 ≤ c.tag.fifo.length then (c.incSat TAG_REP_LOST_count).raiseEv tagPage 3
  else (c.setTag fun t => { t with fifo := t.fifo ++ [r] }).tagFifo

/-- A report's bytes: kind, antenna, reason, the word at offset 2, the bytes from offset 4, the tail from offset 36, the group slot. -/
def reportBytes (kind ant reason word : Nat) (body tail : List Nat) (slot : Nat) : List Nat :=
  [kind, ant % 4 + 4 * (reason % 64)] ++ leBytes 2 word ++ fit 32 body ++ fit 18 tail ++ fit 10 [slot]

/-- The centre frequency of the channel in use, in 100 kHz units (R406). -/
def Chip.tagFrequency (c : Chip) : Nat :=
  if c.flag TAG_CFG_region then 9027 + 5 * c.tag.channel else nth [8657, 8663, 8669, 8675] c.tag.channel

/-- Bytes 36–53 of a report. -/
def Chip.reportTail (c : Chip) (rssi phase : Int) : List Nat :=
  leBytes 2 c.tagFrequency ++ leBytesI 2 rssi ++ leBytesI 2 phase ++ leBytes 2 c.tag.rounds ++ leBytes 4 (clockNs c.tim.clock) ++
    leBytes 6 (clockSec c.tim.clock)

/-- A write of TAG_REP_POP frees the oldest report. -/
def tagRepPop (acc : Access) (v : Nat) (c : Chip) : Chip :=
  c.write acc TAG_REP_POP.addr v fun c =>
    if v % 2 = 1 then (c.setTag fun t => { t with fifo := t.fifo.drop 1 }).tagFifo else c

/-- TAG_REP_POP (R421). -/
def execTagRepPop (acc : Access) (v : Nat) (s : State) : Answer := s.effect (tagRepPop acc v)

/-! ### Antennas and channels (R406, R407) -/

/-- A measurement of Γ, parts in Q1.14, sets or clears the antenna fault: |Γ| above 0.5 (R407). -/
def Chip.measureGamma (c : Chip) (a : Nat) (re im : Int) : Chip :=
  let c := (c.putS (TAG_GAMMA_re a) re).putS (TAG_GAMMA_im a) im
  if 2 ^ 26 < re * re + im * im then
    if c.flag (TAG_ANT_ST_fault a) then c
    else ((c.setFlag (TAG_ANT_ST_fault a) true).incSat (TAG_ANT_CNT_faults a)).raiseEv (antPage a) 1
  else
    let c := (c.setFlag (TAG_ANT_ST_fault a) false).clearFault 5 0x5700 a
    c.setTag fun t => { t with faulted := Sparse.erase t.faulted a }

/-- The channels of region 0 in use: a mask of 0 acts as 0xF (R421). -/
def Chip.channelMask (c : Chip) : Nat := if c.rd TAG_CFG_ch_mask = 0 then 15 else c.rd TAG_CFG_ch_mask

/-- Strides since a channel was left; 800 once the 100 ms are over (R406). -/
def Chip.sinceLeft (c : Chip) (k : Nat) : Nat := Sparse.get (fun _ => 800) c.tag.left k

/-- The carrier is off: the reader left the channel that it is tuned to less than 100 ms ago (R406). -/
def Chip.carrierPaused (c : Chip) : Bool := !c.flag TAG_CFG_region && decide (c.sinceLeft c.tag.channel < 800)

/-- The reader leaves its channel for channel k. -/
def Chip.tuneTo (c : Chip) (k : Nat) : Chip :=
  c.setTag fun t => { t with left := Sparse.set (fun _ => 800) t.left t.channel 0, channel := k, dwell := 0 }

/-- A channel of the plan is in use at the start of an operation. -/
def Chip.tagChannel (c : Chip) : Chip :=
  if c.flag TAG_CFG_region then c.setTag fun t => { t with channel := t.channel % 50 }
  else if c.tag.channel < 4 ∧ bit c.channelMask c.tag.channel then c
  else
    let ks := bitsSet 4 c.channelMask
    c.tuneTo ((ks.find? fun k => decide (800 ≤ c.sinceLeft k)).getD (ks.headD 0))

/-! ### The air interface (R406, R408, R411, R413, R416) -/

/-- The link options with the codes that act as another one resolved (R421). -/
def Chip.tagLink (c : Chip) : TagLink :=
  { mod := if c.rd TAG_LINK_mod = 3 then 2 else c.rd TAG_LINK_mod
    tari := if c.rd TAG_LINK_tari = 3 then 1 else c.rd TAG_LINK_tari
    blf := if 4 < c.rd TAG_LINK_blf then 3 else c.rd TAG_LINK_blf
    m := c.rd TAG_LINK_m, dr := c.rd TAG_LINK_dr, trext := c.rd TAG_LINK_trext }

/-- The power of antenna a: a value above the region's maximum acts as that maximum (R406, R422). -/
def Chip.tagPower (c : Chip) (a : Nat) : Nat := min (c.rd (TAG_ANT_CFG_pwr a)) (if c.flag TAG_CFG_region then 40 else 43)

/-- The first n bits of registers that hold them MSB first, 32 to a register. -/
def Chip.regBits (c : Chip) (reg : Nat → Fld) (n : Nat) : List Bool :=
  (List.range n).map fun k => (c.rd (reg (k / 32))).testBit (31 - k % 32)

/-- A Select on the EPC, which starts at bit 0x20 of its bank (R413, R416). -/
def epcSelect (mask : List Bool) : TagCommand := .select 0x20 mask

/-- The reader transmits commands on antenna a. -/
def Chip.onAir (c : Chip) (a : Nat) (commands : List TagCommand) : Chip :=
  c.setTag fun t => { t with air := { power := c.tagPower a, link := c.tagLink, commands := commands } }

/-- The Query of TAG_ROUND (R411). -/
def Chip.roundQuery (c : Chip) : TagQuery :=
  { sel := c.rd TAG_ROUND_sel, session := c.rd TAG_ROUND_session, target := c.rd TAG_ROUND_target, q := c.rd TAG_ROUND_q }

/-- The Select that opens a round with sel_epc at 1 (R411). -/
def Chip.roundSelect (c : Chip) : List TagCommand :=
  if c.flag TAG_ROUND_sel_epc then [epcSelect (c.regBits TAG_SEL_mask (min 256 (c.rd TAG_SEL_LEN_bits)))] else []

/-- The commands that single out the tag whose EPC is TAG_WR_EPC: a Select on it, a Query at Q = 0, ACK, Req_RN for a handle, and an Access
where pw_en is 1 (R416). -/
def Chip.singulation (c : Chip) : List TagCommand :=
  [epcSelect (c.regBits TAG_WR_EPC_epc (c.rd TAG_WR_CFG_epc_bits)), .query { c.roundQuery with sel := 3, q := 0 }, .ack, .reqRn] ++
    (if c.flag TAG_WR_CFG_pw_en then [.access (c.rd TAG_WR_PW_pw)] else [])

/-- The write in progress ends with an outcome at a step (R416). -/
def Chip.endWrite (c : Chip) (outcome step err rec_ : Nat) : Chip :=
  let c := c.setTag fun t => { t with writing := none, midCommand := false, deferred := none, sincePing := 0 }
  let c := (((c.put TAG_WR_ST_outcome outcome).put TAG_WR_ST_step step).put TAG_WR_ST_tag_err err).put TAG_WR_ST_rec rec_
  (c.raiseEv tagPage 2).tagShow

/-- The round ends (R411). -/
def Chip.endRound (c : Chip) : Chip :=
  ((c.setTag fun t => { t with round := none, deferred := none, sincePing := 0 }).raiseEv tagPage 1).tagShow

/-- The Authenticate reply fails its CRC or does not come: a report of kind 3, reason 4, with no HID (R415). -/
def Chip.unanswered (c : Chip) (a : Nat) (rssi phase : Int) : Chip :=
  c.tagReport (reportBytes 3 a 4 0 [] (c.reportTail rssi phase) (c.rd TAG_HALT_CFG_slot))

/-- A round that is cut; a Halter exchange gets no reply, whose level and phase are free values (R415, log 1). -/
def Chip.cutRound (c : Chip) (r : TagRound) : Chip :=
  if r.exchange then
    let (v, c) := c.draw
    let (w, c) := c.draw
    (c.unanswered r.ant (v % 65536 : Nat) (w % 65536 : Nat)).endRound
  else c.endRound

/-- A start that waits for its channel is given up: of a write, no command has been sent (R416). -/
def Chip.dropJob (c : Chip) (j : TagJob) : Chip := if j.work.isSome then c.endWrite 1 0 0 0 else c.endRound

/-- The carrier is cut: what runs ends, a Write step indeterminate where its command was sent in full, unchanged otherwise (R407, R416). -/
def Chip.tagAbort (c : Chip) (sent : Bool) : Chip :=
  match c.tag.deferred, c.tag.writing, c.tag.round with
  | some j, _, _ => c.dropJob j
  | none, some (_, step), _ => c.endWrite (if sent then 2 else 1) step 0 0
  | none, none, some r => c.cutRound r
  | none, none, none => c

/-- What runs ends at the end of the current command: an Authenticate waits for its reply; a Write step is unchanged where it is caught
mid-command, indeterminate after its command (R416, R420, R421). -/
def Chip.tagHalt (c : Chip) : Chip :=
  match c.tag.round with
  | some r => if r.exchange then c.setTag fun t => { t with round := some { r with ending := true } } else c.tagAbort false
  | none => c.tagAbort (!c.tag.midCommand)

/-- The antenna in use. -/
def Chip.activeAntenna (c : Chip) : Option Nat :=
  match c.tag.deferred, c.tag.writing, c.tag.round with
  | some j, _, _ => some j.ant
  | none, some w, _ => some w.1
  | none, none, some r => some r.ant
  | none, none, none => none

/-- What runs ends when its claim, the Near role or an enable is gone (R420), and at once when the radio die is (R421). -/
def Chip.tagSettle (c : Chip) : Chip :=
  match c.activeAntenna with
  | some a =>
    if c.tagMay a then c else if c.flag TAG_STATUS_radio_fault then c.tagAbort (!c.tag.midCommand) else c.tagHalt
  | none => c

/-- After a write of TAG_CTRL. -/
def Chip.tagCtrlWritten (c : Chip) : Chip := c.tagSettle.tagShow

/-- |Γ| exceeds 0.5 while the reader transmits on antenna a; `sent`: the Write command had been sent in full (R407, R416). -/
def antennaFault (a : Nat) (sent : Bool) (c : Chip) : Chip :=
  if c.activeAntenna ≠ some a ∨ c.carrierPaused ∨ c.flag (TAG_ANT_ST_fault a) then c
  else
    let c := ((c.setFlag (TAG_ANT_ST_fault a) true).incSat (TAG_ANT_CNT_faults a)).raiseEv (antPage a) 1
    c.tagAbort sent

/-- ANTENNA_FAULT (R407). -/
def execAntennaFault (a : Nat) (sent : Bool) (s : State) : Answer := s.effect (antennaFault a sent)

/-- The dwell limit on a channel, in Strides (R406). -/
def Chip.dwellLimit (c : Chip) : Nat := if c.flag TAG_CFG_region then 3200 else 32000

/-- The next channel of region 0: the next one of the mask that was left at least 100 ms ago; the present one where there is no other
(R406). -/
def Chip.nextChannel (c : Chip) : Nat :=
  (((List.range 3).map fun k => (c.tag.channel + 1 + k) % 4).find? fun k =>
    bit c.channelMask k && decide (800 ≤ c.sinceLeft k)).getD c.tag.channel

/-- The channels of region 1 that a pass of the hopping has still to use, the present one never first (R406). -/
def Chip.channelsAhead (c : Chip) : List Nat :=
  let ks := (List.range 50).filter fun k => k != c.tag.channel
  match ks.filter fun k => !c.tag.hopped.contains k with
  | [] => ks
  | xs => xs

/-- The pseudo-random next channel of region 1, drawn from those that the pass has still to use (R406). -/
def Chip.hopChannel (c : Chip) (v : Nat) : Nat × Chip :=
  let xs := c.channelsAhead
  let k := nth xs (v % xs.length)
  (k, c.setTag fun t => { t with hopped := if t.hopped.length < 49 then t.hopped ++ [k] else [k] })

/-- A command awaits its reply: a Write step, or an Authenticate. -/
def Chip.awaitsReply (c : Chip) : Bool :=
  c.tag.writing.isSome || (match c.tag.round with
    | some r => r.exchange
    | none => false)

/-- The dwell limit has passed: the reader moves to its next channel, never inside a command or before a step has ended (R406, R416). -/
def tagChannelHop (c : Chip) : Chip :=
  if ¬ c.tagBusy ∨ c.tag.dwell < c.dwellLimit ∨ c.awaitsReply then c
  else
    if c.flag TAG_CFG_region then
      let (v, c) := c.draw
      let (k, c) := c.hopChannel v
      c.tuneTo k
    else c.tuneTo c.nextChannel

/-- TAG_CHANNEL_HOP (R406). -/
def execTagChannelHop (s : State) : Answer := s.effect tagChannelHop

/-- The link to the radio die is lost or is back (R421, R423). -/
def radioLinkLoss (lost : Bool) (c : Chip) : Chip :=
  if Blk.count c.variant .tag = 0 then c
  else if lost then
    let was := c.flag TAG_STATUS_radio_fault
    let c := (c.setFlag TAG_STATUS_radio_fault true).setFault 5 0x5604 0
    (if was then c else c.raiseEv tagPage 4).tagSettle
  else (c.setFlag TAG_STATUS_radio_fault false).clearFault 5 0x5604 0

/-- RADIO_LINK_LOSS (R421). -/
def execRadioLinkLoss (lost : Bool) (s : State) : Answer := s.effect (radioLinkLoss lost)

/-! ### Rounds (R411–R413) -/

/-- A round starts on antenna a with the settings of TAG_ROUND (R411). -/
def Chip.startRound (c : Chip) (a : Nat) : Chip :=
  let (v, c) := c.tagChannel.draw
  let r : TagRound := { ant := a, nonce := v % 2 ^ 64, query := c.roundQuery, frames := [{ q2 := 2 * c.rd TAG_ROUND_q }] }
  ((c.onAir a (c.roundSelect ++ [.query c.roundQuery])).setTag fun t =>
    { t with round := some r, rounds := (t.rounds + 1) % 2 ^ 16 }).tagShow

/-! ### Writes (R416–R418) -/

/-- Entry k of TAG_WR_DATA. -/
def Chip.writeData (c : Chip) (k : Nat) : Nat := c.rd ⟨(TAG_WR_DATA (k / 2)).addr, 16 * (k % 2), 16⟩

/-- The bits of a reply to a Write command that its CRC-16 covers: a header bit, an error code where there is one, the handle (R408). -/
def writeReplyBits (error : Option Nat) (handle : Nat) : List Bool :=
  match error with
  | none => false :: bitsHigh 16 handle
  | some e => true :: (bitsHigh 8 e ++ bitsHigh 16 handle)

/-- Write commands from step k on, each with what it brings: the step that ends them and its outcome; none while no reply that passes its
CRC has come (R408, R416). -/
def writeSteps : List (Nat × Nat × Nat) → List TagWriteReply → Nat → Nat × Option (Nat × Nat)
  | [], _, k => (k - 1, some (3, 0))
  | _ :: _, [], k => (k, none)
  | _ :: _, .unsent :: _, k => (k, none)
  | _ :: ws, .reply error handle crc :: rs, k =>
    if crc16Bits (writeReplyBits error handle) = crc then
      match error with
      | none => writeSteps ws rs (k + 1)
      | some e => (k, some (4, e))
    else (k, none)

/-- A write or record write runs on antenna a; TAG_WR_ST.rec reports the verifying read when every step is done (R416, R418). -/
def Chip.runWork (c : Chip) (a : Nat) (w : TagWork) : Chip :=
  if w.unread then (c.onAir a (c.singulation ++ w.reads)).endWrite 2 0 0 0
  else
    let (step, out) := writeSteps w.words w.replies 0
    let done := decide (out.map Prod.fst = some 3)
    let issued := if done then w.words else w.words.take (step + 1)
    let c := c.onAir a (c.singulation ++ w.reads ++ issued.map (fun x => TagCommand.write x.1 x.2.1 x.2.2) ++ (if done then w.reads else []))
    let c := c.setTag fun t => { t with writing := some (a, step), midCommand := decide (w.replies[step]? = some .unsent) }
    match out with
    | none => ((((c.put TAG_WR_ST_outcome 0).put TAG_WR_ST_step step).put TAG_WR_ST_tag_err 0).put TAG_WR_ST_rec 0).tagShow
    | some (o, e) => c.endWrite o step e (if o = 3 then w.verified else 0)

/-! ### Starts (R411, R416) -/

/-- The carrier comes on and Γ is measured: a faulted port refuses the start (R407, R411). -/
def Chip.runJob (c : Chip) (j : TagJob) : Chip :=
  let c := (c.setTag fun t => { t with deferred := none }).measureGamma j.ant j.re j.im
  if c.flag (TAG_ANT_ST_fault j.ant) then (c.setFlag TAG_STATUS_refused true).tagShow
  else match j.work with
    | none => c.startRound j.ant
    | some w => c.runWork j.ant w

/-- A start begins on a channel of the plan, or waits until its channel may be used again (R406). -/
def Chip.beginJob (c : Chip) (j : TagJob) : Chip :=
  let c := c.tagChannel
  if c.carrierPaused then (c.setTag fun t => { t with deferred := some j }).tagShow else c.runJob j

/-- A start of a round or a write on antenna a, with Γ as measured: refused without claim, with a faulted port, or in the Off role
(R411); ignored while one runs (R420). -/
def Chip.tagStart (c : Chip) (a : Nat) (re im : Int) (work : Option TagWork) : Chip :=
  if c.tagBusy then c
  else if ¬ c.tagMay a then c.setFlag TAG_STATUS_refused true
  else c.beginJob ⟨a, re, im, work⟩

/-- A write of TAG_CMD.start (R411). -/
def tagRoundStart (acc : Access) (re im : Int) (c : Chip) : Chip :=
  c.write acc TAG_CMD.addr 1 fun c => c.tagStart (c.rd TAG_ROUND_ant) re im none

/-- TAG_ROUND_START (R411). -/
def execTagRoundStart (acc : Access) (re im : Int) (s : State) : Answer := s.effect (tagRoundStart acc re im)

/-- A write of TAG_CMD.stop (R416, R421). -/
def tagStop (acc : Access) (c : Chip) : Chip := c.write acc TAG_CMD.addr 2 Chip.tagHalt

/-- TAG_STOP (R421). -/
def execTagStop (acc : Access) (s : State) : Answer := s.effect (tagStop acc)

/-- The Q of a frame level: its floating value rounded to the nearest integer, halves up (R411). -/
def TagFrame.q (f : TagFrame) : Nat := (f.q2 + 1) / 2

/-- The round with its frame levels changed. -/
def Chip.setFrames (c : Chip) (r : TagRound) (fs : List TagFrame) : Chip :=
  c.setTag fun t => { t with round := some { r with frames := fs } }

/-- The command that opens the slot after one of frame f, whose floating Q becomes q2 / 2 (R411): QueryAdjust where the rounded Q moves or
the frame has no slot left, QueryRep otherwise. -/
def nextSlot (f : TagFrame) (q2 : Nat) : TagCommand × TagFrame :=
  let g := { f with q2 := q2 }
  if g.q ≠ f.q then (.queryAdjust ((g.q : Int) - f.q), { g with slots := 0 })
  else if 2 ^ f.q ≤ f.slots + 1 then (.queryAdjust 0, { g with slots := 0 })
  else (.queryRep, { g with slots := f.slots + 1 })

/-- A slot ends after some commands, and the next one opens. -/
def Chip.openSlot (c : Chip) (r : TagRound) (before : List TagCommand) (f : TagFrame) (q2 : Nat) (fs : List TagFrame) : Chip :=
  let x := nextSlot f q2
  (c.setFrames r (x.2 :: fs)).onAir r.ant (before ++ [x.1])

/-- The round enters the first of the frame levels given: a sub-round with the Select on its bit and Sel = SL or ¬SL at Q = 0, or the
round itself with its own Query at the Q it has reached (R411, R413). -/
def Chip.enterFrame (c : Chip) (r : TagRound) (before : List TagCommand) (fs : List TagFrame) : Chip :=
  let c := c.setFrames r fs
  match fs with
  | [] => c
  | f :: _ =>
    match f.split with
    | some (b, sl) =>
      c.onAir r.ant (before ++ [.select (0x10 + b) [false], .query { r.query with sel := if sl then 3 else 2, q := 0 }])
    | none => c.onAir r.ant (before ++ [.query { r.query with q := f.q }])

/-- A slot without a reply: Q falls by one half; two empty frames at Q = 0 in a row end a sub-round, and the round at TAG_ROUND_END
(R411, R413). -/
def Chip.emptySlot (c : Chip) (r : TagRound) : Chip :=
  match r.frames with
  | f :: fs =>
    let f := { f with empties := if f.q = 0 then f.empties + 1 else 0 }
    if f.empties < 2 then c.openSlot r [] f (f.q2 - 1) fs
    else if fs.isEmpty then c.setFrames r [f]
    else c.enterFrame r [] fs
  | [] => c

/-- A collided slot: Q rises by one half, and no ACK is sent (R411, R412). -/
def Chip.collidedSlot (c : Chip) (r : TagRound) : Chip :=
  match r.frames with
  | f :: fs => c.openSlot r [] { f with empties := 0 } (min 30 (f.q2 + 1)) fs
  | [] => c

/-- A slot with a reply leaves Q as it is and ends a run of empty frames. -/
def Chip.repliedSlot (c : Chip) (r : TagRound) (before : List TagCommand) : Chip :=
  match r.frames with
  | f :: fs => c.openSlot r before { f with empties := 0 } f.q2 fs
  | [] => c

/-- After a collision report at bit b, a bit-split: a sub-round for each value of SL, to a depth of 8 (R413). -/
def Chip.bitSplit (c : Chip) (r : TagRound) (b : Nat) : Chip :=
  match r.frames with
  | f :: fs =>
    if ¬ c.flag TAG_CFG_bitsplit ∨ 8 ≤ f.depth then c.repliedSlot r [.ack, .nak]
    else
      let sub (sl : Bool) : TagFrame := { q2 := 0, depth := f.depth + 1, split := some (b, sl) }
      c.enterFrame r [.ack, .nak] (sub true :: sub false :: { f with empties := 0 } :: fs)
  | [] => c

/-- A Halter exchange begins in its slot: ACK, Req_RN for a handle, Authenticate with the crypto suite and the round's nonce (R415). -/
def Chip.beginExchange (c : Chip) (r : TagRound) : Chip :=
  (c.setTag fun t => { t with round := some { r with exchange := true } }).onAir r.ant
    [.ack, .reqRn, .authenticate (c.rd TAG_HALT_CFG_csi) r.nonce]

/-- A Halter exchange is over: the round goes on, or ends where it was to end with its command (R420). -/
def Chip.endExchange (c : Chip) (r : TagRound) : Chip :=
  let r := { r with exchange := false }
  let c := c.setTag fun t => { t with round := some r }
  if r.ending then c.endRound else c.repliedSlot r []

/-- The reader submits a Halter resolve (R415); at most two can wait (R436). -/
def Chip.resolveHalter (c : Chip) (r : TagRound) (hid tail : List Nat) : Chip :=
  let slot := c.rd TAG_HALT_CFG_slot
  let window := max 1 (c.rd TAG_HALT_CFG_window)
  let id := c.tag.nextResolve
  let req : VaultRequest :=
    { source := .tag id, plane := c.tagOwner, op := 0x0E, slot := slot, param := window, input := beBytes 8 r.nonce ++ fit 8 hid }
  if 2 ≤ c.tag.resolves.length then c.tagReport (reportBytes 3 r.ant 3 0 (fit 8 hid) tail slot)
  else if c.goError req ≠ 0 then (c.incSat VLT_ERR_CNT_count).tagReport (reportBytes 3 r.ant 3 0 (fit 8 hid) tail slot)
  else
    let x : TagResolve := { id := id, ant := r.ant, tail := tail, slot := slot, window := window, hid := fit 8 hid }
    (c.queueRequest req).setTag fun t => { t with resolves := t.resolves ++ [x], nextResolve := (id + 1) % 256 }

/-- A slot of the round, decided by the first matching row of R412; or the Authenticate reply that a Halter exchange waits for
(R415). -/
def tagSlot (reply : TagReply) (rssi phase : Int) (cyc : Nat) (c : Chip) : Chip :=
  match c.tag.round with
  | none => c
  | some r =>
    if c.carrierPaused then c
    else
    let c := c.advanceTo cyc
    let tail := c.reportTail rssi phase
    if r.exchange then
      match reply with
      | .authenticate bytes crc =>
        (if crc16 bytes = crc then c.resolveHalter r (bytes.take 8) tail else c.unanswered r.ant rssi phase).endExchange r
      | _ => c
    else match reply with
      | .empty => c.emptySlot r
      | .collided => c.collidedSlot r
      | .epc pc bytes crc conflict =>
        if crc16 (beBytes 2 pc ++ bytes) = crc then
          if pc / 2048 % 32 = 0 ∧ c.flag TAG_CFG_halter_en then c.beginExchange r
          else (c.repliedSlot r [.ack]).tagReport (reportBytes 1 r.ant 0 pc bytes tail 0)
        else match conflict with
          | some b => (c.tagReport (reportBytes 4 r.ant 0 b [] tail 0)).bitSplit r b
          | none => (c.repliedSlot r [.ack, .nak]).incSat TAG_ERR_CNT_count
      | .authenticate _ _ => c

/-- TAG_SLOT (R412). -/
def execTagSlot (reply : TagReply) (rssi phase : Int) (cyc : Nat) (s : State) : Answer := s.effect (tagSlot reply rssi phase cyc)

/-- A round ends after two empty frames at Q = 0, or when max_ms has elapsed, at a command boundary (R411). -/
def tagRoundEnd (c : Chip) : Chip :=
  match c.tag.round with
  | none => c
  | some r =>
    let quiet : Bool := match r.frames with
      | [f] => decide (2 ≤ f.empties)
      | _ => false
    if ¬ r.exchange ∧ (quiet ∨ 8 * max 1 (c.rd TAG_ROUND_max_ms) ≤ r.age) then c.endRound else c

/-- TAG_ROUND_END (R411). -/
def execTagRoundEnd (s : State) : Answer := s.effect tagRoundEnd

/-- The search bound of a resolve has passed twice (R415): 5 ms and 0.4 µs per identity and counter, in 0.1 µs. -/
def Chip.resolveLate (c : Chip) (x : TagResolve) : Bool :=
  let ids := match c.groupOf x.slot with
    | some g => (halterGroup c.vlt.config g).2.1
    | none => 0
  decide (2 * (50000 + 4 * ids * x.window) < 1250 * x.age)

/-- A resolve ends with its report (R415). -/
def Chip.endResolve (c : Chip) (x : TagResolve) (kind reason word : Nat) : Chip :=
  let c := c.setTag fun t => { t with resolves := t.resolves.filter fun y => y.id != x.id }
  let c := c.setVlt fun v => { v with answers := Sparse.erase v.answers x.id }
  c.tagReport (reportBytes kind x.ant reason word x.hid x.tail x.slot)

/-- The vault answers the oldest Halter resolve that it has an answer for, or a resolve is late (R415). -/
def halterResolveAnswer (c : Chip) : Chip :=
  let answer (x : TagResolve) : Option VaultAnswer := Sparse.get (fun _ => none) c.vlt.answers x.id
  match c.tag.resolves.find? (fun x => (answer x).isSome || c.resolveLate x) with
  | none => c
  | some x =>
    match answer x with
    | none => c.endResolve x 3 3 0
    | some a =>
      if a.error ≠ 0 ∨ c.resolveLate x then c.endResolve x 3 3 0
      else match a.found with
        | [] => c.endResolve x 3 1 0
        | [(i, _)] => c.endResolve x 2 0 i
        | _ => c.endResolve x 3 2 0

/-- HALTER_RESOLVE_ANSWER (R415). -/
def execHalterResolveAnswer (s : State) : Answer := s.effect halterResolveAnswer

/-- No valid reply within 20 ms: a Write step is indeterminate, an Authenticate has failed (R415, R416). -/
def tagReplyTimeout (rssi phase : Int) (cyc : Nat) (c : Chip) : Chip :=
  match c.tag.writing, c.tag.round with
  | some (_, step), _ => c.endWrite 2 step 0 0
  | none, some r =>
    if r.exchange then
      ((c.advanceTo cyc).unanswered r.ant rssi phase).endExchange r
    else c
  | none, none => c

/-- TAG_REPLY_TIMEOUT (R416). -/
def execTagReplyTimeout (rssi phase : Int) (cyc : Nat) (s : State) : Answer := s.effect (tagReplyTimeout rssi phase cyc)

/-! ### Pings (R409, R410) -/

/-- The channel of pings; an index beyond the plan counts on from its start (R409, log 82). -/
def Chip.pingChannel (c : Chip) : Nat := c.rd TAG_PING_CFG_chan % (if c.flag TAG_CFG_region then 50 else 4)

/-- The reader tunes to the channel of pings where it may use it (R406, R409). -/
def Chip.tunePing (c : Chip) : Chip :=
  let k := c.pingChannel
  if c.tag.channel = k ∨ (¬ c.flag TAG_CFG_region ∧ c.sinceLeft k < 800) then c else c.tuneTo k

/-- 250 µs of unmodulated carrier at +10.0 dBm, two Strides on the channel, which the reader leaves first where its dwell would pass the
limit (R406, R409). -/
def Chip.pingCarrier (c : Chip) : Chip :=
  let c := if c.dwellLimit < c.tag.dwell + 2 then c.tuneTo c.tag.channel else c
  if c.tag.channel ≠ c.pingChannel ∨ c.carrierPaused then c
  else c.setTag fun t => { t with dwell := t.dwell + 2, air := { power := 0, link := c.tagLink, commands := [] } }

/-- The carrier of a ping may sound. -/
def Chip.pingSounds (c : Chip) : Bool := decide (c.tag.channel = c.pingChannel) && !c.carrierPaused

/-- A ping of antenna a with Γ as measured: true where it wakes the reader (R410). -/
def Chip.pingAntenna (c : Chip) (a : Nat) (re im : Int) : Bool × Chip :=
  let c := c.measureGamma a re im
  let dre := re - c.rdS (TAG_GAMMA_REF_re a)
  let dim := im - c.rdS (TAG_GAMMA_REF_im a)
  let thr : Int := c.rd TAG_PING_CFG_thr
  let was := bit c.tag.exceeded a
  let far := decide (thr * thr * 16 < dre * dre + dim * dim)
  let c := c.setTag fun t => { t with exceeded := putBit t.exceeded a far }
  if c.flag (TAG_ANT_ST_fault a) then (false, c)
  else if far ∧ was then
    let c := (c.putS (TAG_GAMMA_REF_re a) re).putS (TAG_GAMMA_REF_im a) im
    (true, (c.incSat (TAG_ANT_CNT_wakes a)).raiseEv (antPage a) 0)
  else if far then (false, c)
  else
    let c := c.putS (TAG_GAMMA_REF_re a) (c.rdS (TAG_GAMMA_REF_re a) + trunc0 dre 4)
    (false, c.putS (TAG_GAMMA_REF_im a) (c.rdS (TAG_GAMMA_REF_im a) + trunc0 dim 4))

/-- Antenna a is pinged where it takes part; an antenna without a listed Γ reflects nothing. The antennas that woke the reader so far. -/
def pingStep (gammas : List (Nat × (Int × Int))) (a : Nat) (x : List Nat × Chip) : List Nat × Chip :=
  if x.2.tagMay a && x.2.flag (TAG_ANT_CFG_ping_en a) then
    let c := x.2.pingCarrier
    if c.pingSounds then
      let g := (inputOf gammas a).getD (0, 0)
      let r := c.pingAntenna a g.1 g.2
      (if r.1 then x.1 ++ [a] else x.1, r.2)
    else (x.1, c)
  else x

/-- The reader pings, one period after the last ping, round or write (R409, R420). -/
def tagPing (gammas : List (Nat × (Int × Int))) (c : Chip) : Chip :=
  if ¬ c.flag TAG_CTRL_en ∨ c.tagBusy ∨ c.tag.sincePing < 8 * max 20 (c.rd TAG_PING_CFG_period) then c
  else
    let c := (c.setTag fun t => { t with sincePing := 0 }).tunePing
    let (woken, c) := forN 4 (pingStep gammas) ([], c)
    match woken with
    | a :: _ => if c.flag TAG_CFG_auto_inv then c.beginJob ⟨a, c.rdS (TAG_GAMMA_re a), c.rdS (TAG_GAMMA_im a), none⟩ else c
    | [] => c

/-- TAG_PING (R409). -/
def execTagPing (gammas : List (Nat × (Int × Int))) (s : State) : Answer := s.effect (tagPing gammas)

/-! ### Write commands (R416–R418) -/

/-- The work of TAG_CMD.write: TAG_WR_CFG.count words from TAG_WR_DATA, in ascending address (R416). -/
def Chip.writeWork (c : Chip) (replies : List TagWriteReply) : TagWork :=
  { words := (List.range (clampN 1 32 (c.rd TAG_WR_CFG_count))).map fun k => (c.rd TAG_WR_CFG_bank, c.rd TAG_WR_CFG_ptr + k, c.writeData k)
    replies := replies }

/-- A write of TAG_CMD.write (R416). -/
def tagWrite (acc : Access) (re im : Int) (replies : List TagWriteReply) (c : Chip) : Chip :=
  c.write acc TAG_CMD.addr 4 fun c => c.tagStart (c.rd TAG_ROUND_ant) re im (some (c.writeWork replies))

/-- TAG_WRITE (R416). -/
def execTagWrite (acc : Access) (re im : Int) (replies : List TagWriteReply) (s : State) : Answer :=
  s.effect (tagWrite acc re im replies)

/-- The CRC word of a copy: over the generation and the data, each word high byte first (R417). -/
def copyCrc (g : Nat) (data : List Nat) : Nat := crc16 ((g :: data).flatMap (beBytes 2))

/-- A copy of n data words is valid (R417). -/
def copyValid (n : Nat) (x : List Nat) : Bool :=
  nth x 0 != 0 && nth x (n + 1) == copyCrc (nth x 0) ((x.drop 1).take n)

/-- Generation a is ahead of b in 16-bit serial-number order (R417). -/
def aheadOf (a b : Nat) : Bool :=
  let d := (a + 65536 - b) % 65536
  decide (1 ≤ d) && decide (d < 32768)

/-- The newer valid copy, none where neither is: 0 for A, 1 for B (R417). -/
def newerCopy (n : Nat) (x : List Nat × List Nat) : Option Nat :=
  match copyValid n x.1, copyValid n x.2 with
  | true, true => some (if aheadOf (nth x.2 0) (nth x.1 0) then 1 else 0)
  | true, false => some 0
  | false, true => some 1
  | false, false => none

/-- The generation after g, with 0 skipped (R418). -/
def nextGeneration (g : Nat) : Nat := if (g + 1) % 65536 = 0 then 1 else (g + 1) % 65536

/-- A copy of a pair. -/
def copyOf (x : List Nat × List Nat) (k : Nat) : List Nat := if k = 0 then x.1 else x.2

/-- TAG_WR_ST.rec (R418): the new record reads valid and newest, only the old one reads valid, or the verifying read got no reply. -/
def recordResult (n target : Nat) (fresh : List Nat) (verify : Option (List Nat × List Nat)) : Nat :=
  match verify with
  | none => 3
  | some v =>
    if (copyOf v target).take (n + 2) = fresh ∧ newerCopy n v = some target then 1
    else if copyValid n (copyOf v (1 - target)) ∧ ¬ copyValid n (copyOf v target) then 2
    else 0

/-- The words of two Read replies, none where one fails its CRC-16: a header bit, the words and the handle (R408). -/
def readPair (x : Option (TagReadReply × TagReadReply)) : Option (List Nat × List Nat) :=
  let sound (r : TagReadReply) : Bool := crc16Bits (false :: (r.words.flatMap (bitsHigh 16) ++ bitsHigh 16 r.handle)) == r.crc
  x.bind fun p => if sound p.1 && sound p.2 then some (p.1.words, p.2.words) else none

/-- The work of TAG_CMD.rec_write on the two copies as read: the copy that is not the newer one gets generation 0, the data, the CRC and
then its generation (R418). -/
def Chip.recordWork (c : Chip) (copies : Option (List Nat × List Nat)) (replies : List TagWriteReply)
    (verify : Option (List Nat × List Nat)) : TagWork :=
  let n := clampN 1 30 (c.rd TAG_REC_CFG_n)
  let ptr := c.rd TAG_REC_CFG_ptr
  let reads : List TagCommand := [.read 3 ptr (n + 2), .read 3 (ptr + n + 2) (n + 2)]
  match copies with
  | none => { reads := reads, unread := true }
  | some x =>
    let newer := newerCopy n x
    let target := if newer = some 0 then 1 else 0
    let g := match newer with
      | some k => nextGeneration (nth (copyOf x k) 0)
      | none => 1
    let data := (List.range n).map c.writeData
    let base := ptr + target * (n + 2)
    let crc := copyCrc g data
    { reads := reads
      words := [(3, base, 0)] ++ (data.zipIdx).map (fun d => (3, base + 1 + d.2, d.1)) ++ [(3, base + n + 1, crc), (3, base, g)]
      replies := replies
      verified := recordResult n target (g :: data ++ [crc]) verify }

/-- A write of TAG_CMD.rec_write (R417, R418). -/
def tagRecordWrite (acc : Access) (re im : Int) (copies : Option (TagReadReply × TagReadReply)) (replies : List TagWriteReply)
    (verify : Option (TagReadReply × TagReadReply)) (c : Chip) : Chip :=
  c.write acc TAG_CMD.addr 8 fun c =>
    c.tagStart (c.rd TAG_ROUND_ant) re im (some (c.recordWork (readPair copies) replies (readPair verify)))

/-- TAG_RECORD_WRITE (R418). -/
def execTagRecordWrite (acc : Access) (re im : Int) (copies : Option (TagReadReply × TagReadReply)) (replies : List TagWriteReply)
    (verify : Option (TagReadReply × TagReadReply)) (s : State) : Answer :=
  s.effect (tagRecordWrite acc re im copies replies verify)

/-! ### The Stride edge -/

/-- The reader at a Stride edge: its timers, and a port fault that has lasted 10 s (R406, R409, R411, R423). -/
def Chip.tagEdge (c : Chip) : Chip :=
  let busy := c.tagBusy
  let paused := c.carrierPaused
  let c := c.setTag fun t =>
    { t with
      sincePing := t.sincePing + 1, dwell := if busy && !paused then t.dwell + 1 else t.dwell
      left := (t.left.map fun p => (p.1, p.2 + 1)).filter fun p => decide (p.2 < 800)
      round := t.round.map fun r => { r with age := r.age + 1 }
      resolves := t.resolves.map fun x => if (Sparse.get (fun _ => none) c.vlt.answers x.id).isNone then { x with age := x.age + 1 } else x }
  let c := match c.tag.deferred with
    | some j => if c.carrierPaused then c else c.runJob j
    | none => c
  let c := forN (Blk.count c.variant .ant) (fun a c =>
    if c.flag (TAG_ANT_ST_fault a) then
      let n := min 80000 (Sparse.get (fun _ => 0) c.tag.faulted a + 1)
      let c := c.setTag fun t => { t with faulted := Sparse.set (fun _ => 0) t.faulted a n }
      if n = 80000 then c.setFault 5 0x5700 a else c
    else c) c
  c.tagSettle

end Sys2Proof.Machine
end

