-- ==== Sys2Proof/Machine/Claims.lean ====
section
/-! DEFINITION. What a change of an owner or of a claim stops at once: the end of a claim by its holder or by the management plane (R50,
R52, R420). -/

namespace Sys2Proof.Machine

/-- OWNER_WRITE (R50): a round or write whose antenna claim the new owner does not hold ends (R407). -/
def execOwnerWrite (acc : Access) (page v : Nat) (s : State) : Answer := s.effect fun c => (ownerWrite acc page v c).tagSettle

/-- RELEASE (R52). -/
def execRelease (acc : Access) (k : Nat) (s : State) : Answer := s.effect fun c => (c.releaseWord acc k).tagSettle

/-- DRIVE_INk no longer acts: the channels whose source it is read pin_unclaimed at once (R52, R272). -/
def Chip.stopPin (c : Chip) (k : Nat) : Chip :=
  forN c.variant.channels (fun n c =>
    let x := c.channel n
    if x.pinClaimed && x.ctrl / 4 % 16 == k then (c.setChannel n fun x => { x with pinClaimed := false }).settleChannel n else c) c

/-- The pilot PWM timer of port n no longer acts: its code returns to the reset value, +12 V, and is applied at once (R52, R246). -/
def Chip.stopPilot (c : Chip) (n : Nat) : Chip :=
  if c.variant.ports ≤ n then c
  else
    ((((c.put (OPT_PWM_duty n) 2000).put (OPT_PWM_APPLIED_duty n) 2000).setFlag (OPT_STATUS_duty_clamped n) false).setFlag
      (OPT_STATUS_duty_invalid n) false).settlePort n

/-- A resource stops acting at once for a holder that loses it (R52): channels leave an input, a pilot PWM timer returns to its reset
code, a sense slot is no longer routed, and a comparator is disarmed. -/
def Chip.stopResource (c : Chip) (k : Nat) : Chip :=
  if k < 16 then c.stopPin k
  else if k < 48 then c.stopPilot (k - 16)
  else if 48 ≤ k ∧ k < 63 then
    match c.slotOf (k - 48) with
    | some n => (c.setSlotOf (k - 48) none).setFlag (LSW_VSLOT_en n) false
    | none => c
  else if 68 ≤ k ∧ k < 76 then (c.setFlag (TIM_TC_CFG_arm (k - 68)) false).setPassed (k - 68) false
  else c

/-- A write of FAB_CLAIM_FORCE (R52): a resource with a fixed owner, and one that nobody holds, stays as it is. -/
def claimForce (acc : Access) (v : Nat) (c : Chip) : Chip :=
  c.write acc FAB_CLAIM_FORCE.addr v fun c =>
    let k := v % 128
    if 76 ≤ k ∨ fixedOwner k ∨ ¬ c.flag (FAB_CLAIM_held k) then c
    else ((((c.setFlag (FAB_CLAIM_held k) false).put (FAB_CLAIM_owner k) 0).stopResource k)).tagSettle

/-- CLAIM_FORCE (R52). -/
def execClaimForce (acc : Access) (v : Nat) (s : State) : Answer := s.effect (claimForce acc v)

end Sys2Proof.Machine
end

