-- ==== Sys2Proof/Machine/Health.lean ====
section
/-! DEFINITION. Input-health faults of the bitstream paths: setting and clearing, and what follows from them (R87, R106–R109, R113). -/

namespace Sys2Proof.Machine

/-- Bit b of SFE_HEALTH of element n. -/
def healthBit (n b : Nat) : Fld := ⟨(SFE_HEALTH n).addr, b, 1⟩

/-- The path of a health bit 0–11: voltage, high-gain and low-gain current. -/
def healthPath (b : Nat) : Nat := b / 4

/-- The condition of R106 that sets bit b of element n. -/
def Chip.healthFails (c : Chip) (n b : Nat) : Bool :=
  let e := c.elem n
  if b < 12 then c.pathOn n (healthPath b) && decide (checkLimit (b % 4) ≤ ((e.path (healthPath b)).run (b % 4)).fail)
  else if b = 12 then decide (64 ≤ e.xpath.fail)
  else if b = 13 then decide (3 ≤ e.reversed.fail)
  else b == 14 && c.flag (SFE_ECTRL_en n) && !c.clocked n

/-- The condition of R106 that clears bit b of element n. -/
def Chip.healthPasses (c : Chip) (n b : Nat) : Bool :=
  let e := c.elem n
  if b < 12 then decide (64 ≤ ((e.path (healthPath b)).run (b % 4)).pass)
  else if b = 12 then decide (64 ≤ e.xpath.pass)
  else if b = 13 then decide (3 ≤ e.reversed.pass)
  else b == 14 && c.clocked n && !(e.v.settling || e.ih.settling || e.il.settling)

/-- The fault of health bit b at its own level (R7): the element reports it, and for a check of a path the path too at the Sample level. -/
def Chip.healthReport (c : Chip) (n b : Nat) (on : Bool) : Chip :=
  let c := c.faultIs 2 (0x1100 + b) n on
  if b < 12 then c.faultIs 1 (0x1100 + b) (3 * n + healthPath b) on else c

/-- A health fault of element n sets (R106): latch, events, the fault record (R107), the discarded regression window (R101), and for
the voltage path the frequency estimate (R123), power quality (R178) and the meter's input fault (R131). -/
def healthFaultSet (n b : Nat) (c : Chip) : Chip :=
  if c.variant.elements ≤ n ∨ 14 < b ∨ c.flag (healthBit n b) ∨ ¬ c.healthFails n b then c
  else
    let c := (c.setFlag (healthBit n b) true).setFlag ((SFE_HEALTH_LATCH_latch n).bitOf b) true
    let c := ((c.showHealth n).raiseEv (sfePage n) 0).raiseEv sfgPage 0
    let c := (c.healthReport n b true).logFault 2 (0x1100 + b) n true
    let c := if (4 ≤ b ∧ b < 12) ∨ b = 14 then c.modElem n fun e => { e with window := none } else c
    let c := if b < 4 ∨ b = 14 then (c.freqInvalid n).suspend n c.stride else c
    match c.meterOf n with
    | some m => c.noteInput m
    | none => c

/-- HEALTH_FAULT_SET (R106). -/
def execHealthFaultSet (n b : Nat) (s : State) : Answer := s.effect (healthFaultSet n b)

/-- A health fault of element n clears (R106); a path with no fault left settles before its samples count (R93, R107). -/
def healthFaultClear (n b : Nat) (c : Chip) : Chip :=
  if c.variant.elements ≤ n ∨ 14 < b ∨ ¬ c.flag (healthBit n b) ∨ ¬ c.healthPasses n b then c
  else
    let c := ((c.setFlag (healthBit n b) false).showHealth n).raiseEv (sfePage n) 1
    let c := ((c.raiseEv sfgPage 1).healthReport n b false).logFault 2 (0x1100 + b) n false
    let k := healthPath b
    if b < 12 ∧ ¬ c.pathFault n k then
      ((c.settlePath n k).modElem n fun e => e.setPath k { e.path k with afterFault := true }).showSettling n
    else c

/-- HEALTH_FAULT_CLEAR (R106). -/
def execHealthFaultClear (n b : Nat) (s : State) : Answer := s.effect (healthFaultClear n b)

end Sys2Proof.Machine
end

