-- ==== Sys2Proof/Machine/MainsCode.lean ====
section
/-! DEFINITION. The coding of mains-link frames: sizes, the convolutional code, the interleaver, the symbols on the line, and the
decoder (R393–R398). -/

namespace Sys2Proof.Machine

/-- Symbols per half-cycle (R390). -/
def symbols (hz60 : Bool) : Nat := if hz60 then 20 else 24

/-- Coded bits per half-cycle (R395). -/
def codedPerHalf (hz60 double : Bool) : Nat := symbols hz60 * (if double then 2 else 1)

/-- Data half-cycles D of a frame with a payload of L bytes (R394). -/
def dataHalves (hz60 double : Bool) (l : Nat) : Nat :=
  let b := codedPerHalf hz60 double
  max 16 ((2 * (8 * l + 102) + b - 1) / b)

/-- The parity of the low 7 bits of x. -/
def parity7 (x : Nat) : Nat := (x + x / 2 + x / 4 + x / 8 + x / 16 + x / 32 + x / 64) % 2

/-- The two outputs of the code of generators 171 and 133 octal for the register whose highest bit is the newest (R394). -/
def coderOut (reg : Nat) : Nat × Nat := (parity7 (reg &&& 0o171), parity7 (reg &&& 0o133))

/-- The coded stream of n encoder steps over the information bits of x, low bit first, then zeros: coded bit c is bit c (R394). -/
def encodeSteps (x : Nat) : Nat → Nat × Nat
  | 0 => (0, 0)
  | n + 1 =>
    let (s, out) := encodeSteps x n
    let reg := 64 * (x >>> n % 2) + s
    let o := coderOut reg
    (reg / 2, out + (o.1 + 2 * o.2) * 2 ^ (2 * n))

/-- The coded bit at position r of data half-cycle h (R395). -/
def codedIndex (d h r : Nat) : Nat :=
  let o := r % 2
  2 * (r / 2 * d + (h + d - o * (d / 2)) % d) + o

/-- The symbols of data half-cycle h, two bits each: pair A in bit 2i, pair B in bit 2i + 1 (R395). -/
def dataHalf (hz60 double : Bool) (d coded h : Nat) : Nat :=
  (List.range (symbols hz60)).foldl (fun x i =>
    let at_ (r : Nat) : Nat := (coded >>> codedIndex d h r) % 2
    let a := if double then at_ (2 * i) else at_ i
    let b := if double then at_ (2 * i + 1) else a
    x + (a + 2 * b) * 4 ^ i) 0

/-- The frame-control field F (R393). -/
def frameControl (d : Nat) (double : Bool) : Nat :=
  let f := d - 16 + 256 * double.toNat
  let ones := (List.range 9).foldl (fun x k => x + (f >>> k) % 2) 0
  f + 512 * ((ones + 1) % 2)

/-- F has an odd count of ones. -/
def controlOdd (f : Nat) : Bool := (List.range 10).foldl (fun x k => x + (f >>> k) % 2) 0 % 2 == 1

/-- The symbols of the sync half-cycle: pair A carries 0x3A_D94B, pair B its complement (R393). -/
def syncHalf (hz60 : Bool) : Nat :=
  (List.range (symbols hz60)).foldl (fun x i => let a := (0x3AD94B >>> i) % 2; x + (a + 2 * (1 - a)) * 4 ^ i) 0

/-- The symbols of the frame-control half-cycle (R393). -/
def controlHalf (f : Nat) : Nat :=
  (List.range 20).foldl (fun x i => x + 3 * ((f >>> (i % 10)) % 2) * 4 ^ i) 0

/-- The half-cycles of a frame with header and payload `bytes` on the line (R393–R395). -/
def lineFrame (hz60 double : Bool) (bytes : List Nat) : List Nat :=
  let d := dataHalves hz60 double (bytes.length - 8)
  let x := ofLe (bytes ++ leBytes 4 (crc32 bytes))
  let coded := (encodeSteps x (d * codedPerHalf hz60 double / 2)).2
  syncHalf hz60 :: controlHalf (frameControl d double) :: (List.range d).map (dataHalf hz60 double d coded)

/-! ### Decoding -/

/-- A survivor of the decoder: its metric and its information bits, low bit first. -/
abbrev Survivor := Int × Nat

/-- One step of the decoder over the 64 states, for metrics m1 and m2 of the two outputs, positive for a 1; of two equal predecessors the
lower one survives (log 32). -/
def viterbiStep (k : Nat) (m1 m2 : Int) (l : List Survivor) : List Survivor :=
  (List.range 64).map fun ns =>
    let inp := ns / 32
    let branch (s : Nat) : Survivor :=
      let o := coderOut (64 * inp + s)
      let p := l.getD s (-1000000000000, 0)
      (p.1 + (if o.1 = 1 then m1 else -m1) + (if o.2 = 1 then m2 else -m2), p.2 + inp * 2 ^ k)
    let a := branch (2 * (ns % 32))
    let b := branch (2 * (ns % 32) + 1)
    if a.1 < b.1 then b else a

/-- The decoder over a list of metric pairs, from step k: the bits of the path from state 0 to state 0. -/
def viterbi (k : Nat) : List (Int × Int) → List Survivor → Nat
  | [], l => (l.getD 0 (0, 0)).2
  | (m1, m2) :: rest, l => viterbi (k + 1) rest (viterbiStep k m1 m2 l)

/-- The information bits decoded from the metrics of the data half-cycles: each half-cycle holds two metrics per symbol, pair A then
pair B; an erased one is empty and counts as zeros (R395–R397). -/
def decodeHalves (hz60 double : Bool) (d : Nat) (halves : List (List Int)) : Nat :=
  let at_ (c : Nat) : Int :=
    let k := c / 2
    let o := c % 2
    let h := (k + o * (d / 2)) % d
    let r := 2 * (c / (2 * d)) + o
    let m := halves.getD h []
    if double then nthI m r else nthI m (2 * r) + nthI m (2 * r + 1)
  let steps := d * codedPerHalf hz60 double / 2
  viterbi 0 ((List.range steps).map fun k => (at_ (2 * k), at_ (2 * k + 1)))
    ((0, 0) :: List.replicate 63 (-1000000000000, 0))

end Sys2Proof.Machine
end

