-- ==== Sys2Proof/Machine/NetCore.lean ====
section
/-! DEFINITION. The transmit side of the packet engine: time-stamps, queues, descriptors and the start of a frame (R73, R74, R374–R376,
R381). -/

namespace Sys2Proof.Machine

/-- The block with the packet engine's hidden part changed. -/
def Chip.setNet (c : Chip) (f : Net → Net) : Chip := { c with net := f c.net }

/-- The hidden part of port n. -/
def Chip.netPort (c : Chip) (n : Nat) : NetPort := Sparse.get (fun _ => {}) c.net.ports n

/-- The block with the hidden part of port n changed. -/
def Chip.setNetPort (c : Chip) (n : Nat) (f : NetPort → NetPort) : Chip :=
  c.setNet fun x => { x with ports := Sparse.set (fun _ => {}) x.ports n (f (c.netPort n)) }

/-- The page of port n, and the engine's page. -/
def ntpPage (n : Nat) : Nat := 0x40501000 + n * 0x1000
def netPage : Nat := 0x40500000

/-- Network ports of the variant (R382). -/
def Variant.nets (v : Variant) : Nat := Blk.count v .ntp

/-- REFCLK cycles since reset: the measure of pauses and rate limits. -/
def Chip.netNow (c : Chip) : Nat := c.net.cycles + c.cycle

/-- The output NETn_TX_DIS is high: the port is disabled (R370, R383). -/
def Chip.txDisable (c : Chip) (n : Nat) : Bool := !c.flag (NET_PCTRL_en n)

/-- The port moves frames: engine and port enabled, link up. -/
def Chip.netRuns (c : Chip) (n : Nat) : Bool :=
  decide (n < c.variant.nets) && c.flag NET_CTRL_en && c.flag (NET_PCTRL_en n) && c.flag (NET_PSTATUS_link_up n)

/-- NET_MAX_LEN in force (R383). -/
def Chip.maxLen (c : Chip) (n : Nat) : Nat := clampN 1522 9216 (c.rd (NET_MAX_LEN_len n))

/-- A picosecond number in 2^-32 ns, rounded half to even (DESIGN CHOICE, log 103: R73 gives no rounding). -/
def picoseconds (x : Int) : Int := rheDiv (x * 2 ^ 32) 1000

/-- TIM_NETn_CORR (R73, R80): receive and transmit parts, signed ps. -/
def netRxAdd (n : Nat) : Fld := ⟨0x40020178 + 4 * n, 0, 16⟩
def netTxAdd (n : Nat) : Fld := ⟨0x40020178 + 4 * n, 16, 16⟩

/-- The receive time-stamp of a capture at clock value t (R73). -/
def Chip.rxStamp (c : Chip) (n t : Nat) : Nat :=
  ((t : Int) - picoseconds ((if c.flag (NET_PSTATUS_is_10g n) then 58200 else 248000) + c.rdS (netRxAdd n))).toNat

/-- The transmit time-stamp of a capture at clock value t (R73). -/
def Chip.txStamp (c : Chip) (n t : Nat) : Nat :=
  ((t : Int) + picoseconds ((if c.flag (NET_PSTATUS_is_10g n) then 41600 else 176000) + c.rdS (netTxAdd n))).toNat

/-! ### Frames -/

/-- The number of n bytes at offset k of a frame, high byte first. -/
def frameBe (bs : List Nat) (k n : Nat) : Nat := ofBe ((bs.drop k).take n)

/-- The frame carries an 802.1Q tag. -/
def tagged (bs : List Nat) : Bool := frameBe bs 12 2 == 0x8100

/-- The offset of the EtherType after any tag. -/
def typeAt (bs : List Nat) : Nat := if tagged bs then 16 else 12

/-- The EtherType after any tag. -/
def etherType (bs : List Nat) : Nat := frameBe bs (typeAt bs) 2

/-- The offset of the UDP header, where the frame is UDP over IPv4 or IPv6. -/
def udpAt (bs : List Nat) : Option Nat :=
  let ip := typeAt bs + 2
  if etherType bs = 0x0800 ∧ nth bs (ip + 9) = 17 ∧ frameBe bs (ip + 6) 2 % 0x2000 = 0 then some (ip + 4 * (nth bs ip % 16))
  else if etherType bs = 0x86DD ∧ nth bs (ip + 6) = 17 then some (ip + 40)
  else none

/-- The UDP destination port of a frame. -/
def udpPort (bs : List Nat) : Option Nat := (udpAt bs).map fun k => frameBe bs (k + 2) 2

/-- The offset of the PTP header of a frame that carries PTP (R372). -/
def ptpAt (bs : List Nat) : Option Nat :=
  if etherType bs = 0x88F7 then some (typeAt bs + 2)
  else match udpAt bs with
    | some k => if frameBe bs (k + 2) 2 = 319 ∨ frameBe bs (k + 2) 2 = 320 then some (k + 8) else none
    | none => none

/-- The bytes of a frame from offset k replaced. -/
def patch (bs : List Nat) (k : Nat) (new : List Nat) : List Nat := bs.take k ++ new ++ bs.drop (k + new.length)

/-- The sum of a byte list as 16-bit words, high byte first. -/
def wordSum : List Nat → Nat
  | a :: b :: l => 256 * a + b + wordSum l
  | [a] => 256 * a
  | [] => 0

/-- A one's-complement sum folded to 16 bits. -/
def fold16 (x : Nat) : Nat :=
  let y := x / 65536 + x % 65536
  let y := y / 65536 + y % 65536
  y / 65536 + y % 65536

/-- A UDP checksum after some words of the datagram change; 0 means none and stays (R74). -/
def udpFix (ck : Nat) (old new : List Nat) : Nat :=
  if ck = 0 then 0
  else
    let n := (0xFFFF - ck) + (new.length / 2 * 0xFFFF - wordSum old) + wordSum new
    let r := 0xFFFF - fold16 n
    if r = 0 then 0xFFFF else r

/-- A frame with the bytes at offset k, inside its PTP message, replaced and its UDP checksum fixed. -/
def ptpPatch (bs : List Nat) (k : Nat) (new : List Nat) : List Nat :=
  let out := patch bs k new
  match udpAt bs with
  | some u => patch out (u + 6) (beBytes 2 (udpFix (frameBe bs (u + 6) 2) ((bs.drop k).take new.length) new))
  | none => out

/-- The one-step insertion of R74 in a frame sent at time-stamp t: originTimestamp of a Sync, the turnaround in the correctionField of a
Pdelay_Resp whose request was stamped. Every other frame is sent unchanged (R381). -/
def Chip.oneStep (c : Chip) (n t : Nat) (bs : List Nat) : List Nat :=
  match ptpAt bs with
  | none => bs
  | some k =>
    if nth bs k % 16 = 0 then ptpPatch bs (k + 34) (beBytes 6 (clockSec t) ++ beBytes 4 (clockNs t))
    else if nth bs k % 16 = 3 then
      match Sparse.get (fun _ => 0) (c.netPort n).requests (nth bs (k + 4)) with
      | 0 => bs
      | r => ptpPatch bs (k + 8) (beBytes 8 ((frameBe bs (k + 8) 8 + (t - r) / 2 ^ 16) % 2 ^ 64))
    else bs

/-! ### Rings -/

/-- The address that stands in the model for offset x of the port-traffic buffer, above every fabric address (log 26). -/
def trafficBase : Nat := 0x100000000

/-- n bytes from offset x lie inside the region of ring r (R374). -/
def Chip.inRegion (c : Chip) (r x n : Nat) : Bool :=
  let lo := 256 * c.rd (NET_RING_CFG_base r)
  decide (lo ≤ x) && decide (x + n ≤ lo + 256 * c.rd (NET_RING_LEN_len r)) && decide (x + n ≤ 0x80000)

/-- The offsets of RX and TX descriptor i of ring r: the RX ring at the region's start, the TX ring after it (log 26). -/
def Chip.rxDescriptor (c : Chip) (r i : Nat) : Nat := 256 * c.rd (NET_RING_CFG_base r) + 16 * i
def Chip.txDescriptor (c : Chip) (r i : Nat) : Nat :=
  256 * c.rd (NET_RING_CFG_base r) + 16 * ringSize (c.rd (NET_RING_CFG_rx_log2 r)) + 16 * i

/-- Descriptors of the RX and TX rings of ring pair r. -/
def Chip.rxSize (c : Chip) (r : Nat) : Nat := ringSize (c.rd (NET_RING_CFG_rx_log2 r))
def Chip.txSize (c : Chip) (r : Nat) : Nat := ringSize (c.rd (NET_RING_CFG_tx_log2 r))

/-- The descriptor at offset d completes: word 1 and the time-stamp (R259). -/
def Chip.closeDescriptor (c : Chip) (r d word1 stamp : Nat) : Chip :=
  if c.inRegion r d 16 then
    c.setBytes (trafficBase + d + 4) (leBytes 4 word1 ++ leBytes 4 (clockNs stamp) ++ leBytes 4 (clockSec stamp % 2 ^ 16))
  else c

/-- TX descriptor i of ring r completes; NET_TX_HEAD follows the oldest that is queued. -/
def Chip.txDone (c : Chip) (r i stamp : Nat) (error : Bool) : Chip :=
  let d := c.txDescriptor r i
  let w := Memory.le c.mem (trafficBase + d + 4) 4
  let w := w - (w / 0x10000 % 4) * 0x10000
  let c := c.closeDescriptor r d (w + 0x10000 + 0x20000 * error.toNat) stamp
  let left := (Sparse.get (fun _ => []) c.net.queued r).filter (· != i)
  let c := c.setNet fun x => { x with queued := Sparse.set (fun _ => []) x.queued r left }
  let c := c.put (NET_TX_HEAD_idx r) (left.headD (Sparse.get (fun _ => 0) c.net.next r))
  let c := c.raiseEv netPage 1
  if error then c.raiseEv netPage 5 else c

/-! ### Transmit scheduling (R376) -/

/-- Queue q of port n. -/
def Chip.txQueue (c : Chip) (n q : Nat) : List TxFrame := Sparse.get (fun _ => []) (c.netPort n).queues q

/-- Queue q of port n is within its rate limit: the bits it started in the last 1 ms stay below NET_QRATE × 10 Mbit/s. -/
def Chip.withinRate (c : Chip) (n q : Nat) : Bool :=
  let rate := if q < 6 then c.rd (NET_QRATE_rate n q) else 0
  let used := (c.netPort n).started.foldl (fun (x : Nat) s => if s.1 = q ∧ c.netNow < s.2.1 + 100000 then x + s.2.2 else x) 0
  rate == 0 || decide (used < rate * 10000)

/-- A port with nothing on the line starts the next frame: the highest non-empty queue within its rate limit. -/
def Chip.startTx (c : Chip) (n : Nat) : Chip :=
  let p := c.netPort n
  if ¬ c.netRuns n ∨ p.sending.isSome ∨ c.netNow < p.pausedTo then c
  else
    match [7, 6, 5, 4, 3, 2, 1, 0].find? fun q => !(c.txQueue n q).isEmpty && c.withinRate n q with
    | none => c
    | some q =>
      match c.txQueue n q with
      | [] => c
      | f :: rest =>
        let t := c.txStamp n c.tim.clock
        let bs := if f.oneStep then c.oneStep n t f.bytes else f.bytes
        c.setNetPort n fun p =>
          { p with
            queues := Sparse.set (fun _ => []) p.queues q rest
            sending := some { f with bytes := bs, stamp := t }
            started := if q < 6 then
                (q, c.netNow, 8 * (bs.length + 4)) :: p.started.filter fun s => c.netNow < s.2.1 + 100000
              else p.started }

/-- A frame joins queue q of port n. -/
def Chip.enqueue (c : Chip) (n q : Nat) (f : TxFrame) : Chip :=
  (c.setNetPort n fun p =>
    { p with queues := Sparse.set (fun _ => []) p.queues q (c.txQueue n q ++ [f]) }).startTx n

/-- A frame filled with zeros to the shortest length without FCS. -/
def padded (bs : List Nat) : List Nat := bs ++ List.replicate (60 - bs.length) 0

/-- A MAC address as six bytes, bits 47–40 first. -/
def Chip.ownMac (c : Chip) (n : Nat) : Nat := c.rd64 (NET_MAC_LO_mac n) (NET_MAC_HI_mac n)

/-- A copy of a safety frame goes to port n (R319, R381): discarded and counted where its link is down. The spec gives no destination
and no VID: free values (log 1). -/
def Chip.safetyOut (c : Chip) (n : Nat) (bs : List Nat) : Chip :=
  if ¬ c.netRuns n then c.incSat (NET_TX_DROP_count n)
  else
    let mac := c.ownMac n
    let (d, c) := c.draw
    let (v, c) := c.draw
    c.enqueue n 7 { bytes := padded (beBytes 6 d ++ beBytes 6 mac ++ [0x81, 0x00] ++ beBytes 2 (7 * 8192 + v % 4096) ++ [0x88, 0xB5] ++ bs) }

/-- Both copies of a safety frame: one per port, or both on NET0 (R6, R319). -/
def Chip.safetyCopies (c : Chip) (bs : List Nat) : Chip :=
  if c.variant.nets = 2 then (c.safetyOut 0 bs).safetyOut 1 bs else (c.safetyOut 0 bs).safetyOut 0 bs

end Sys2Proof.Machine
end

