-- ==== Sys2Proof/Machine/SafetyRows.lean ====
section
/-! DEFINITION. The commands of the safety function: cut outputs, residual current, insulation, weld checks, emergency stops, power,
safety frames, Degraded operation, SAF_CMD, straps, the site parameter block and safe_ok (R302–R344). -/

namespace Sys2Proof.Machine

/-! ### Cut outputs -/

/-- An output's command: B of Flock f is output f, A is output 8 + f; true is asserted. -/
def Chip.cutCommand (c : Chip) (o : Nat) : Bool := if o < 8 then bit (c.rd SAF_CUT_cmd_b) o else bit c.saf.cutA (o - 8)

/-- An output is stuck on: a fault that puts its Flock in Lockout (R302). -/
def Chip.stuckOn (c : Chip) (o : Nat) : Chip := c.faultFlocks (2 ^ (o % 8)) causeOutput 3 (unitStuckOn o)

/-- A dark test of a released output of channel A or B: a pin that does not fall is stuck on (R302). Channel B tests at Stride numbers
divisible by 8000, channel A by its own oscillator. Its 200 µs can meet the readbacks of two Strides. -/
def darkTest (a : Bool) (f : Nat) (fell : Bool) (c : Chip) : Chip :=
  let o := if a then 8 + f else f
  if c.variant.flocks ≤ f ∨ c.cutCommand o ∨ (¬ a ∧ c.stride % 8000 ≠ 0) then c
  else
    let c := c.setSaf fun s => { s with dark := Sparse.set (fun _ => 0) s.dark o 2 }
    if fell then c else (c.stuckOn o).settleSafety

/-- DARK_TEST (R302). -/
def execDarkTest (a : Bool) (f : Nat) (fell : Bool) (s : State) : Answer := s.effect (darkTest a f fell)

/-- An output has read against its command for 2 Strides: stuck on puts the Flock in Lockout, stuck off in Cut (R302). -/
def cutOutputStuck (a : Bool) (f : Nat) (c : Chip) : Chip :=
  let o := if a then 8 + f else f
  if c.variant.flocks ≤ f then c
  else if 2 ≤ Sparse.get (fun _ => 0) c.saf.against o then (c.stuckOn o).settleSafety
  else if 2 ≤ Sparse.get (fun _ => 0) c.saf.against (16 + o) then
    (c.faultFlocks (2 ^ f) causeOutput 2 (unitStuckOff o)).settleSafety
  else c

/-- CUT_OUTPUT_STUCK (R302). -/
def execCutOutputStuck (a : Bool) (f : Nat) (s : State) : Answer := s.effect (cutOutputStuck a f)

/-! ### Residual current -/

/-- One of the two inputs has stayed outside 0.1–4.9 V for 2 Strides (R306). -/
def Residual.astray (r : Residual) : Bool := decide (2 ≤ r.outside) || decide (2 ≤ r.outsideA)

/-- An RCM input has stayed outside 0.1–4.9 V for 2 Strides, or both are inside again (R306). -/
def rcmSensorFault (n : Nat) (bad : Bool) (c : Chip) : Chip :=
  if c.variant.ports ≤ n ∨ c.rcmType n = 0 ∨ bad ≠ (c.residual n).astray then c
  else
    let mask := 2 ^ c.flockOf n
    let c := c.setFlag (RCM_STATUS_sensor_fault n) (bad || c.rd (RCM_STATUS_test n) == 3)
    if bad then ((c.raiseEv (rcmPage n) 1).faultFlocks mask causeRcm 2 (unitSensor n)).settleSafety
    else (c.clearCause mask (unitSensor n) true).settleSafety

/-- RCM_SENSOR_FAULT (R306). -/
def execRcmSensorFault (n : Nat) (bad : Bool) (s : State) : Answer := s.effect (rcmSensorFault n bad)

/-- The holds of the bands in ms, channel B and channel A (R308). -/
def holdB (band : Nat) : Nat := nth [8000, 200, 50, 200, 100, 10] band
def holdA (band : Nat) : Nat := nth [8500, 220, 55, 220, 110, 11] band

/-- The levels of the bands in µA (R308). -/
def bandLevel (band : Nat) : Nat := nth [6000, 60000, 200000, 30000, 60000, 150000] band

/-- A trip's record: the band, the channel, Idc and Iac (R340). -/
def Chip.logTrip (c : Chip) (n band : Nat) (a : Bool) : Chip :=
  let f := c.flockOf n
  let s := c.flockState f
  c.logSafety 7 4 f s s (if a then 1 else 2) causeRcm (band :: n :: 0 :: 0 :: leBytes 4 (c.rd (RCM_IDC_ua n)) ++
    leBytes 4 (c.rd (RCM_IAC_ua n)))

/-- A band has stayed at its level for its hold in channel A or B: the port's Flock goes to Cut (R308, R309). CRK_RCM_TRIP shows the
latched trip of channel A over the Crook link (R342); channel A trips also while the controller die is in reset (R20). -/
def rcmBandTrip (a : Bool) (n band : Nat) (c : Chip) : Chip :=
  let r := c.residual n
  if c.variant.ports ≤ n ∨ ¬ bit (bandsOf (c.rcmType n)) band then c
  else if a then
    if r.holdsA.getD band 0 < 8 * holdA band ∨ bit r.tripA band then c
    else
      let c := c.setResidual n fun r => { r with tripA := putBit r.tripA band true, latchedA := true }
      if ¬ c.fold.running then (c.latchCause (c.flockOf n) ⟨causeRcm, 2, unitRcmA n, true⟩).crookActs
      else ((c.logTrip n band true).demandFlocks (2 ^ c.flockOf n) causeRcm 2 (unitRcmA n)).settleSafety
  else if r.holds.getD band 0 ≤ 8 * holdB band ∨ c.flag ((RCM_STATUS_trip n).bitOf band) then c
  else
    let c := ((c.setFlag ((RCM_STATUS_trip n).bitOf band) true).incSat (RCM_TRIPS_count n)).raiseEv (rcmPage n) 0
    ((c.logTrip n band false).demandFlocks (2 ^ c.flockOf n) causeRcm 2 (unitRcmB n)).settleSafety

/-- RCM_BAND_TRIP (R308). -/
def execRcmBandTrip (a : Bool) (n band : Nat) (s : State) : Answer := s.effect (rcmBandTrip a n band)

/-- A band has disagreed for 1 s beyond the slower hold, one channel having tripped (R310). -/
def Chip.disagrees (c : Chip) (n band : Nat) : Bool :=
  let r := c.residual n
  decide (8 * (max (holdA band) (holdB band) + 1000) ≤ r.disagree.getD band 0) &&
    (bit r.tripA band || c.flag ((RCM_STATUS_trip n).bitOf band))

/-- A band-disagreement fault of a port (R310, R325). -/
def rcmBandDisagree (n band : Nat) (c : Chip) : Chip :=
  if c.variant.ports ≤ n ∨ c.saf.crookBad ≠ 0 ∨ ¬ c.disagrees n band then c
  else ((c.setFlag (CRK_DISAGREE_ports.bitOf n) true).faultFlocks (2 ^ c.flockOf n) causeFault 1 (unitBands n)).settleSafety

/-- RCM_BAND_DISAGREE (R310). -/
def execRcmBandDisagree (n band : Nat) (s : State) : Answer := s.effect (rcmBandDisagree n band)

/-- RCM_TEST.start: ignored while safe_ok is 1 (R311, R343); a test that runs goes on. -/
def rcmTest (acc : Access) (n v : Nat) (c : Chip) : Chip :=
  c.writeUnit .rcm n acc (RCM_TEST n).addr v fun c =>
    if v % 2 = 0 ∨ c.flag (OPT_STATUS_safe_ok n) ∨ (c.residual n).test ≠ 0 then c
    else c.setResidual n fun r => { r with test := 321, testSeen := 0 }

/-- RCM_TEST (R311). -/
def execRcmTest (acc : Access) (n v : Nat) (s : State) : Answer := s.effect (rcmTest acc n v)

/-- The 40 ms of the test are over: both DC2 flags pass it, one is a single-channel fault, none a sensor fault that puts the Flock in
Cut; in both the port stays unreleased (R311, R325). What an earlier test found ends with the result that replaces it. -/
def rcmTestDone (n : Nat) (c : Chip) : Chip :=
  let r := c.residual n
  if r.test ≠ 1 then c
  else
    let f := c.flockOf n
    let mask := 2 ^ f
    let c := (c.setResidual n fun r => { r with test := 0, testSeen := 0, passed := r.testSeen == 3 }).raiseEv (rcmPage n) 2
    let result := if r.testSeen = 3 then 1 else if r.testSeen = 0 then 3 else 2
    let c := c.put (RCM_STATUS_test n) result
    let c := if result = 2 then c.faultFlocks mask causeFault 1 (unitTest n) else c.clearCause mask (unitTest n) true
    let c := if result = 3 then (c.raiseEv (rcmPage n) 1).faultFlocks mask causeRcm 2 (unitSilent n)
      else c.clearCause mask (unitSilent n) true
    (c.setFlag (RCM_STATUS_sensor_fault n) (c.causePresent f (unitSensor n) || c.causePresent f (unitSilent n))).settleSafety

/-- RCM_TEST_DONE (R311). -/
def execRcmTestDone (n : Nat) (s : State) : Answer := s.effect (rcmTestDone n)

/-! ### Insulation -/

/-- Riso in kΩ, from the settled values in µV, and whether it lies above 10 MΩ (R312). -/
def Chip.insulationOf (c : Chip) (k pos neg : Nat) : Nat × Bool :=
  let e := 688 + 16 * k
  if pos ≤ neg then (10000, true)
  else
    let q := c.spb (e + 8) 4 * c.spb (e + 4) 2 * 100 / (pos - neg)
    let r := q - c.spb (e + 6) 2
    (min 10000 r, decide (10000 < r))

/-- The Flocks of the ports that IMD channel k serves with IMD enable 1 (R313). -/
def Chip.imdFlocks (c : Chip) (k : Nat) : List Nat :=
  (List.range c.variant.flocks).filter fun f => (c.portsOf f).any fun n => c.imdEnabled n && c.spbByte (163 + 8 * n) == k

/-- IMD_STATUS of channel k takes its results; the results are reported at the level of the Flocks that the channels serve (R313, R344). -/
def Chip.showImd (c : Chip) (k : Nat) (alarm trip fault : Bool) : Chip :=
  let c := ((c.setFlag (IMD_STATUS_alarm k) alarm).setFlag (IMD_STATUS_trip k) trip).setFlag (IMD_STATUS_fault k) fault
  forN c.variant.flocks (fun f c =>
    let some_ (x : Nat → Fld) : Bool := (List.range (c.variant.ports / 4)).any fun j => (c.imdFlocks j).contains f && c.flag (x j)
    ((c.faultIs 4 0x4401 f (some_ IMD_STATUS_alarm)).faultIs 4 0x4402 f (some_ IMD_STATUS_trip)).faultIs 4 0x4403 f
      (some_ IMD_STATUS_fault)) c

/-- An IMD fault: the port stop of every port that the channel serves with IMD enable 1 (R313). -/
def Chip.imdFault (c : Chip) (k : Nat) : Chip :=
  let c := if c.flag (IMD_STATUS_fault k) then c else c.raiseEv (imdPage k) 2
  let c := c.setInsulation k fun i => { i with unsettled := true, stopping := true, good := 0 }
  c.showImd k (c.flag (IMD_STATUS_alarm k)) (c.flag (IMD_STATUS_trip k)) true

/-- The measured voltage has changed by less than 0.5 % over the last 50 ms (R312). -/
def Insulation.settled (i : Insulation) : Bool :=
  let now := i.samples.headD 0
  let before := i.samples.getD 400 0
  decide (200 * (max now before - min now before) < before)

/-- IMDk_MEAS lies outside 0.1–3.2 V (R313). -/
def imdOutside (uv : Nat) : Bool := decide (uv < 100000) || decide (3200000 < uv)

/-- The half-period of channel k that runs may end: settled after 0.5 s, or at 10 s (R312). -/
def Insulation.halfOver (i : Insulation) : Bool := (decide (4000 ≤ i.age) && i.settled) || decide (80000 ≤ i.age)

/-- The half-period that runs ends with this last sample, length in ms and settling, as the samples that the channel has taken show (log
112). -/
def Insulation.ends (i : Insulation) (uv ms : Nat) (settled : Bool) : Bool :=
  i.halfOver && i.samples.headD 0 == uv && i.age / 8 == ms && i.settled == settled

/-- A half-period of IMD channel k ends (R312): its last sample is the settled value. A full period of settled values gives Riso, and
alarm, trip, fault and their release follow R313; one with a half that did not settle gives no Riso, and leaves alarm and trip as they
are (log 115). -/
def imdHalfPeriodEnd (k uv ms : Nat) (settled : Bool) (c : Chip) : Chip :=
  let i := c.insulation k
  if c.variant.ports / 4 ≤ k ∨ ¬ c.flag (IMD_STATUS_enabled k) ∨ ¬ c.saf.running0 ∨ ¬ i.ends uv ms settled then c
  else
    let c := c.put (IMD_HALF_ms k) ms
    let c := if imdOutside uv || !settled then c.imdFault k else c
    let c := c.setInsulation k fun i => { i with noValue := i.noValue || !settled }
    let i := c.insulation k
    let c := c.setInsulation k fun i => { i with age := 0, negative := !i.negative }
    if ¬ i.negative then (c.put (IMD_UM_POS_uv k) uv).settleSafety
    else
      let pos := c.rd (IMD_UM_POS_uv k)
      let c := c.put (IMD_UM_NEG_uv k) uv
      let fault := i.unsettled
      let r := c.insulationOf k pos uv
      let c := if i.noValue then c else (c.put (IMD_RISO_kohm k) r.1).setFlag (IMD_STATUS_over k) r.2
      let trip := if i.noValue then c.flag (IMD_STATUS_trip k) else decide (r.1 < c.spb (690 + 16 * k) 2)
      let low := decide (r.1 < c.spb (688 + 16 * k) 2)
      let good := if trip || fault then 0 else min 2 (i.good + 1)
      let c := c.setInsulation k fun i =>
        { i with
          unsettled := false
          noValue := false
          alarms := if i.noValue then i.alarms else if low then min 2 (i.alarms + 1) else 0
          good := good, stopping := trip || fault || (i.stopping && good != 2) }
      let alarm := (c.insulation k).alarms == 2
      let c := if alarm && !c.flag (IMD_STATUS_alarm k) then c.raiseEv (imdPage k) 0 else c
      let c := if trip && !c.flag (IMD_STATUS_trip k) then
          (c.imdFlocks k).foldl (fun (c : Chip) f =>
            c.logSafety 7 4 f (c.flockState f) (c.flockState f) 2 0 (leBytes 4 r.1)) (c.raiseEv (imdPage k) 1)
        else c
      ((c.showImd k alarm trip fault).raiseEv (imdPage k) 3).settleSafety

/-- IMD_HALF_PERIOD_END (R312). -/
def execImdHalfPeriodEnd (k uv ms : Nat) (settled : Bool) (s : State) : Answer := s.effect (imdHalfPeriodEnd k uv ms settled)

/-! ### Weld checks, emergency stops and power -/

/-- The coil of a checked port has not turned off within 20 ms, or its weld element is not low within t_act: Lockout (R314, R325). -/
def weldCheckTimeout (n : Nat) (c : Chip) : Chip :=
  match c.saf.welds.find? fun w => w.port == n with
  | none => c
  | some w =>
    let coil := !w.coilOff && !w.coilFailed && decide (160 ≤ w.age)
    let weld := !w.low && !w.weldFailed && decide (c.spb 14 2 * 8 ≤ w.age)
    let mask := 2 ^ c.flockOf n
    let c := if coil then c.faultFlocks mask causeWeld 3 (unitCoil n) else c
    let c := if weld then c.faultFlocks mask causeWeld 3 (unitWeld n) else c
    let c := c.setSaf fun s =>
      { s with
        welds := s.welds.map fun x =>
          if x.port = n then { x with coilFailed := x.coilFailed || coil, weldFailed := x.weldFailed || weld } else x }
    if coil || weld then c.settleSafety else c

/-- WELD_CHECK_TIMEOUT (R314). -/
def execWeldCheckTimeout (n : Nat) (s : State) : Answer := s.effect (weldCheckTimeout n)

/-- An e-stop is actuated: both channels put the Flocks of its mask in Cut (R316). -/
def Chip.actuate (c : Chip) (k : Nat) : Chip :=
  if (c.estop k).actuated then c
  else (c.setEstop k fun e => { e with actuated := true }).demandFlocks (c.spbByte (672 + 4 * k)) causeEstop 2 (unitEstop k)

/-- A contact of an e-stop takes a level (R316). A discrepancy ends when both contacts, having been open together, have closed again
within 50 ms of each other. -/
def Estop.contact (old : Estop) (b closed : Bool) : Estop :=
  let e := if b then { old with closedB := closed } else { old with closedA := closed }
  let e := if old.closedA = e.closedA ∧ old.closedB = e.closedB then e else { e with closed := 0 }
  let e := if ¬ e.closedA ∧ ¬ e.closedB then { e with bothOpened := e.discrepancy } else e
  let e := if e.closedA ∧ e.closedB then
      { e with discrepancy := e.discrepancy && !(e.bothOpened && decide (e.differ ≤ 400)), bothOpened := false }
    else e
  if e.closedA = e.closedB then { e with differ := 0 } else e

/-- A filtered contact of e-stop k opens or closes (R315, R316). -/
def estopContactChange (k : Nat) (b closed : Bool) (c : Chip) : Chip :=
  if 4 ≤ k then c
  else
    let c := c.setEstop k fun e => e.contact b closed
    let e := c.estop k
    (if e.closedA ∧ e.closedB then c else c.actuate k).settleSafety

/-- ESTOP_CONTACT_CHANGE (R316). -/
def execEstopContactChange (k : Nat) (b closed : Bool) (s : State) : Answer := s.effect (estopContactChange k b closed)

/-- A test pulse of a contact of e-stop k: one that stays closed through it has a cross-short, the e-stop counts as actuated, and its
Flocks go to Lockout (R315). -/
def estopTestPulse (k : Nat) (b stayed : Bool) (c : Chip) : Chip :=
  if 4 ≤ k then c
  else
    let mask := c.spbByte (672 + 4 * k)
    let c := c.setEstop k fun e => { e with short := putBit e.short b.toNat stayed }
    if (c.estop k).short = 0 then (c.clearCause mask (unitShort k) true).settleSafety
    else if ¬ c.fold.running then (c.actuate k).crookActs
    else ((c.actuate k).faultFlocks mask causeEstop 3 (unitShort k)).settleSafety

/-- ESTOP_TEST_PULSE (R315). -/
def execEstopTestPulse (k : Nat) (b stayed : Bool) (s : State) : Answer := s.effect (estopTestPulse k b stayed)

/-- The contacts of e-stop k have differed for more than 50 ms (R316). -/
def estopDiscrepancy (k : Nat) (c : Chip) : Chip :=
  if 4 ≤ k ∨ (c.estop k).differ ≤ 400 then c else (c.setEstop k fun e => { e with discrepancy := true }).settleSafety

/-- ESTOP_DISCREPANCY (R316). -/
def execEstopDiscrepancy (k : Nat) (s : State) : Answer := s.effect (estopDiscrepancy k)

/-- Flock power has exceeded its supervised level for 2 s in Normal, or for 1 s in Degraded: Cut (R318). -/
def flockPowerExceed (f : Nat) (c : Chip) : Chip :=
  let s := c.flockState f
  let x := (c.flock f).exceed
  if c.variant.flocks ≤ f ∨ ¬ (s = 0 ∧ 16000 < x ∨ s = 1 ∧ 8000 < x) then c
  else (c.demandFlocks (2 ^ f) causePower 2 unitPower).settleSafety

/-- FLOCK_POWER_EXCEED (R318). -/
def execFlockPowerExceed (f : Nat) (s : State) : Answer := s.effect (flockPowerExceed f)

/-! ### Safety frames -/

/-- The words of SAF_RX_BUF, SAF_RX_COUNT and SAF_RX_POP (R341). -/
def safRxBuf (k : Nat) : Fld := ⟨0x40400200 + 4 * k, 0, 32⟩
def safRxCount : Fld := ⟨0x40400230, 0, 4⟩
def safRxPop : Fld := ⟨0x40400234, 0, 1⟩

/-- SAF_RX_BUF, SAF_RX_COUNT and the level event 7 follow the FIFO (R341). -/
def Chip.showSafetyRx (c : Chip) : Chip :=
  let e := c.saf.rx.headD []
  let c := forN 12 (fun k c => c.put (safRxBuf k) (ofLe ((e.drop (4 * k)).take 4))) c
  (c.put safRxCount c.saf.rx.length).setRaw safPage 7 (!c.saf.rx.isEmpty)

/-- The entry of the peer list with a source address (R335). -/
def Chip.peerOf (c : Chip) (a : Nat) : Option Nat :=
  if a = 0 then none else (List.range 16).find? fun i => c.spb (816 + 12 * i) 4 == a

/-- The fields of a safety frame (R319). -/
def frameLe (bs : List Nat) (k n : Nat) : Nat := ofLe ((bs.drop k).take n)

/-- A frame's safe-stop puts the Flocks of its mask in Cut (R321). -/
def Chip.frameStop (c : Chip) (bs : List Nat) : Chip :=
  if nth bs 1 = 2 then c.demandFlocks (nth bs 28) causeNet 2 0 else c

/-- A frame is acted on: its sequence is the source's last, it is counted, a safe-stop acts, and a safe-stop or release request queues
for S0 (R321, R341). -/
def Chip.actFrame (c : Chip) (bs : List Nat) : Chip :=
  let c := c.setSaf fun s =>
    { s with
      sequences := Sparse.set (fun _ => 0) s.sequences (frameLe bs 4 4)
        (max (Sparse.get (fun _ => 0) s.sequences (frameLe bs 4 4)) (frameLe bs 12 4 + 1))
      rx := if (nth bs 1 = 2 ∨ nth bs 1 = 3) ∧ s.rx.length < 8 then s.rx ++ [bs] else s.rx }
  ((c.incSat (SAF_RX_CNT_count 0)).showSafetyRx).frameStop bs

/-- A copy of a heartbeat restarts its peer's timer on its network (R322); on a variant with one network both copies travel there
(R6), and it stands for both. -/
def Chip.hearPeer (c : Chip) (bs : List Nat) (net : Nat) : Chip :=
  match c.peerOf (frameLe bs 4 4) with
  | none => c
  | some i =>
    if nth bs 1 ≠ 1 then c
    else
      let nets := if c.variant.ports ≥ 24 then [net] else [0, 1]
      let c := nets.foldl (fun (c : Chip) n =>
        (c.setSaf fun s => { s with heard := Sparse.set (fun _ => 0) s.heard (i + 16 * n) 0 }).setFlag
          (SAF_PEER_OK_heard.bitOf (i + 16 * n)) true) c
      c.clearCause (c.spbByte (820 + 12 * i)) (unitPeer i) false

/-- An accepted copy: the first matching row of R321 decides. An old sequence is discarded; a copy that pairs with one that waits is
compared with it; a new one opens a window or, in single-network operation, is acted on at once. -/
def Chip.acceptCopy (c : Chip) (bs : List Nat) (net : Nat) : Chip :=
  let src := frameLe bs 4 4
  let seq := frameLe bs 12 4
  let c := c.hearPeer bs net
  let mine (w : SafetyWindow) : Bool := w.source == src && frameLe w.bytes 12 4 == seq
  if seq < Sparse.get (fun _ => 0) c.saf.sequences src then c.incSat (SAF_RX_CNT_count 5)
  else match c.saf.windows.find? mine with
  | some w =>
    if w.net = net ∧ c.variant.ports ≥ 24 then c.incSat (SAF_RX_CNT_count 5)
    else
      let c := c.setSaf fun s => { s with windows := s.windows.filter fun x => !mine x }
      if w.bytes = bs then c.actFrame bs
      else
        let c := (c.incSat (SAF_RX_CNT_count 2)).beginSingle
        let c := if nth w.bytes 1 = 2 then c.actFrame w.bytes else c
        if nth bs 1 = 2 then c.actFrame bs else c
  | none =>
    if c.flag SAF_STATUS_net_single then c.actFrame bs
    else c.setSaf fun s => { s with windows := s.windows ++ [⟨src, bs, net, 0⟩] }

/-- A copy of a safety frame arrives on a network (R319, R321): the checks of R321, each failure counted. -/
def Chip.safetyCopy (c : Chip) (net : Nat) (bs : List Nat) : Chip :=
  if ¬ c.flag SAF_CTRL_net_en ∨ 2 ≤ net ∨ bs.length ≠ 48 then c
  else if frameLe bs 44 4 ≠ crc32c (leBytes 4 (c.spb 8 4) ++ bs.take 44) then c.incSat (SAF_RX_CNT_count 3)
  else if (frameLe bs 8 4 ≠ c.spb 4 4 ∧ frameLe bs 8 4 ≠ 0xFFFFFFFF) ∨ (c.peerOf (frameLe bs 4 4)).isNone then c
  else
    let now := clockSec c.tim.clock * 1000000000 + clockNs c.tim.clock
    let sent := frameLe bs 16 6 * 1000000000 + frameLe bs 22 4
    if c.timeValid ∧ sent + c.spb 22 2 * 1000000 < now then c.incSat (SAF_RX_CNT_count 4)
    else (c.acceptCopy bs net).settleSafety

/-- SAFETY_FRAME_RECEIVE (R321). -/
def execSafetyFrameReceive (net : Nat) (bytes : List Nat) (cyc : Nat) (s : State) : Answer :=
  s.effect fun c => (c.advanceTo cyc).safetyCopy net bytes

/-- A 10 ms window closes with one copy: single-network operation begins, and a safe-stop in that copy acts (R321). -/
def safetyFrameWindowEnd (c : Chip) : Chip :=
  let due := c.saf.windows.filter fun w => 80 ≤ w.age
  if due.isEmpty then c
  else
    let c := c.setSaf fun s => { s with windows := s.windows.filter fun w => w.age < 80 }
    (due.foldl (fun (c : Chip) w =>
      let c := (c.incSat (SAF_RX_CNT_count 1)).beginSingle
      if nth w.bytes 1 = 2 then c.actFrame w.bytes else c) c).settleSafety

/-- SAFETY_FRAME_WINDOW_END (R321). -/
def execSafetyFrameWindowEnd (s : State) : Answer := s.effect safetyFrameWindowEnd

/-- The module sends a safety frame: both copies carry the same bytes (R319, R320). -/
def Chip.sendSafety (c : Chip) (type dest mask : Nat) : Chip :=
  let t := c.tim.clock
  let head := [1, type, 0, 0] ++ leBytes 4 (c.spb 4 4) ++ leBytes 4 dest ++ leBytes 4 c.saf.txSequence ++ leBytes 6 (clockSec t) ++
    leBytes 4 (clockNs t) ++ [0, 0, mask] ++ List.replicate 15 0
  let bs := head ++ leBytes 4 (crc32c (leBytes 4 (c.spb 8 4) ++ head))
  (c.setSaf fun s => { s with sent := bs, txSequence := (s.txSequence + 1) % 2 ^ 32 }).safetyCopies bs

/-- SAF_TX_CMD.send: the frame of SAF_TX_BUF and SAF_TX_DEST is completed and sent (R320); nothing while safety frames are off. -/
def safetyFrameSend (acc : Access) (v cyc : Nat) (c : Chip) : Chip :=
  (c.advanceTo cyc).write acc SAF_TX_CMD.addr v fun c =>
    if v % 2 = 0 ∨ ¬ c.flag SAF_CTRL_net_en then c
    else c.sendSafety (c.rd SAF_TX_BUF_word % 256) (c.rd SAF_TX_DEST_addr) (c.rd SAF_TX_BUF_word / 256 % 256)

/-- SAFETY_FRAME_SEND (R320). -/
def execSafetyFrameSend (acc : Access) (v cyc : Nat) (s : State) : Answer := s.effect (safetyFrameSend acc v cyc)

/-- Every heartbeat period the module sends a heartbeat to all peers, with its Flocks in Cut (R319, R320). -/
def heartbeatSend (cyc : Nat) (c : Chip) : Chip :=
  if ¬ c.flag SAF_CTRL_net_en ∨ c.saf.heartbeat < c.spb 26 2 * 8 then c
  else
    let mask := (List.range c.variant.flocks).foldl (fun x f => if 2 ≤ c.flockState f then x + 2 ^ f else x) 0
    ((c.advanceTo cyc).sendSafety 1 0xFFFFFFFF mask).setSaf fun s => { s with heartbeat := 0 }

/-- HEARTBEAT_SEND (R320). -/
def execHeartbeatSend (cyc : Nat) (s : State) : Answer := s.effect (heartbeatSend cyc)

/-- Peer i has not been heard on network `net` for the peer timeout (R322). -/
def Chip.peerSilent (c : Chip) (i net : Nat) : Bool :=
  decide (c.spb 24 2 * 8 ≤ Sparse.get (fun _ => 0) c.saf.heard (i + 16 * net))

/-- Peer i times out on both networks, which puts the Flocks of its mask in Cut, or on one, which begins single-network operation
(R322). -/
def peerTimeout (i : Nat) (c : Chip) : Chip :=
  if 16 ≤ i ∨ c.spb (816 + 12 * i) 4 = 0 ∨ ¬ c.flag SAF_CTRL_net_en then c
  else
    let lost0 := c.peerSilent i 0
    let lost1 := c.peerSilent i 1
    let c := if lost0 then c.setFlag (SAF_PEER_OK_heard.bitOf i) false else c
    let c := if lost1 then c.setFlag (SAF_PEER_OK_heard.bitOf (16 + i)) false else c
    if lost0 ∧ lost1 then (c.demandFlocks (c.spbByte (820 + 12 * i)) causePeer 2 (unitPeer i)).settleSafety
    else if lost0 ∨ lost1 then c.beginSingle
    else c

/-- PEER_TIMEOUT (R322). -/
def execPeerTimeout (i : Nat) (s : State) : Answer := s.effect (peerTimeout i)

/-- The single-network duration ends, and with it the operation: every Flock goes to Cut (R323). -/
def singleNetworkEnd (c : Chip) : Chip :=
  if ¬ c.flag SAF_STATUS_net_single ∨ c.saf.singleLeft ≠ 0 then c
  else ((c.showSingle false).demandFlocks c.allFlocks causeSingle 2 unitSingleEnd).settleSafety

/-- SINGLE_NETWORK_END (R323). -/
def execSingleNetworkEnd (s : State) : Answer := s.effect singleNetworkEnd

/-- Matching copies from every peer for 60 s: the network recovers, or waits for the recovery that runs (R323, R329). -/
def networkRecovery (c : Chip) : Chip :=
  if ¬ c.mayRecoverNetwork then c
  else if c.saf.running.isSome then c.setSaf fun s => { s with waiting := putBit s.waiting 8 true }
  else c.recoverNetwork.settleSafety

/-- NETWORK_RECOVERY (R323). -/
def execNetworkRecovery (s : State) : Answer := s.effect networkRecovery

/-! ### Degraded operation -/

/-- t_deg in Strides (R335). -/
def Chip.degradedTime (c : Chip) : Nat := c.spb 20 2 * 8000

/-- Strides since Flock f entered Degraded. -/
def Chip.degradedFor (c : Chip) (f : Nat) : Nat := (c.flock f).degraded - 1

/-- Five seconds after entry into Degraded the 50 % power supervision begins (R318, R324). -/
def degradedSupervisionStart (f : Nat) (c : Chip) : Chip :=
  if c.variant.flocks ≤ f ∨ c.flockState f ≠ 1 ∨ c.degradedFor f < 40000 ∨ (c.flock f).halved then c
  else c.setFlock f fun k => { k with halved := true, exceed := 0 }

/-- DEGRADED_SUPERVISION_START (R324). -/
def execDegradedSupervisionStart (f : Nat) (s : State) : Answer := s.effect (degradedSupervisionStart f)

/-- The deadline warning: at t_deg − 60 s, or on entry when t_deg is shorter (R324). -/
def degradedWarning (f : Nat) (c : Chip) : Chip :=
  if c.variant.flocks ≤ f ∨ c.flockState f ≠ 1 ∨ c.flag (SAF_FLOCK_ST_warn f) ∨ c.degradedFor f < c.degradedTime - 480000 then c
  else (c.setFlag (SAF_FLOCK_ST_warn f) true).raiseEv safPage 2

/-- DEGRADED_WARNING (R324). -/
def execDegradedWarning (f : Nat) (s : State) : Answer := s.effect (degradedWarning f)

/-- At t_deg the Flock goes to Cut (R324), also while its recovery runs (R330). -/
def degradedDeadline (f : Nat) (c : Chip) : Chip :=
  let recovering : Bool := match c.saf.running with
    | some r => r.before.any fun b => b.1 == f && b.2.1 == 1
    | none => false
  if c.variant.flocks ≤ f ∨ (c.flock f).degraded = 0 ∨ c.degradedFor f < c.degradedTime ∨
      ¬ (c.flockState f = 1 ∨ recovering) then c
  else
    let c := if recovering then c.abandonRecovery else c
    (c.setFlockState f 2 causeFault 2).settleSafety

/-- DEGRADED_DEADLINE (R324). -/
def execDegradedDeadline (f : Nat) (s : State) : Answer := s.effect (degradedDeadline f)

/-- A Flock whose fault has cleared for 10 s returns to Normal, or waits for the recovery that runs (R324, R329). -/
def degradedRecovery (f : Nat) (c : Chip) : Chip :=
  if c.variant.flocks ≤ f ∨ ¬ c.mayRecover f then c
  else if c.saf.running.isSome then c.setSaf fun s => { s with waiting := putBit s.waiting f true }
  else (c.recoverFlocks [f]).settleSafety

/-- DEGRADED_RECOVERY (R324). -/
def execDegradedRecovery (f : Nat) (s : State) : Answer := s.effect (degradedRecovery f)

/-- A write to SAF_WDT: the key restarts the safety watchdog; one that had expired reads serviced again (R325, R470). -/
def safetyWatchdogService (acc : Access) (v : Nat) (c : Chip) : Chip :=
  c.write acc SAF_WDT.addr v fun c =>
    if v % 2 ^ 32 ≠ 0x5AFE then c
    else
      let c := c.setSaf fun s => { s with watchdog := 0, expired := false }
      let c := c.setFlag (FAB_WDT_ST.bitOf 3) false
      ((c.setLoad fun l => { l with wdSafety := false }).watchdogsChanged).settleSafety

/-- SAFETY_WATCHDOG_SERVICE (R325). -/
def execSafetyWatchdogService (acc : Access) (v : Nat) (s : State) : Answer := s.effect (safetyWatchdogService acc v)

/-! ### Recoveries and SAF_CMD -/

/-- A scope whose reaction is not confirmed within 20 ms goes to Lockout (R326). -/
def recoveryWindowExpire (c : Chip) : Chip :=
  let due := c.saf.faultWindows.filter fun w => 160 ≤ w.age
  if due.isEmpty then c
  else
    let c := c.setSaf fun s => { s with faultWindows := s.faultWindows.filter fun w => w.age < 160 }
    (due.foldl (fun (c : Chip) w =>
      (c.flocksIn w.flocks).foldl (fun (c : Chip) f =>
        (c.latchCause f ⟨causeOutput, 3, 0, false⟩).raiseFlock f 3 causeOutput (unitChannels w.unit)) c) c).settleSafety

/-- RECOVERY_WINDOW_EXPIRE (R326). -/
def execRecoveryWindowExpire (s : State) : Answer := s.effect recoveryWindowExpire

/-- A recovery finishes when its state has held for 1 s; a waiting one starts (R328, R329). -/
def recoveryFinish (c : Chip) : Chip :=
  match c.saf.running with
  | none => c
  | some r =>
    if r.age < 8000 then c
    else
      let c := (c.setSaf fun s => { s with running := none }).setFlag SAF_STATUS_recov_busy false
      let c := r.before.foldl (fun (c : Chip) (b : Nat × Nat × List Cause) =>
        if c.flockState b.1 = 1 then c else c.setFlock b.1 fun k => { k with degraded := 0 }) c
      c.startWaiting.settleSafety

/-- RECOVERY_FINISH (R328). -/
def execRecoveryFinish (s : State) : Answer := s.effect recoveryFinish

/-- A write of SAF_CMD, with the word that the record holds (R340): the effect answers the block and the reason, 0 for none. -/
def Chip.safCmd (c : Chip) (acc : Access) (word : Nat) (f : Chip → Chip × Nat) : Chip :=
  c.write acc SAF_CMD.addr word fun c =>
    let r := f c
    (r.1.commandResult word r.2).settleSafety

/-- Either channel still reports a trip of a port of Flock f (R327). -/
def Chip.stillTrips (c : Chip) (f : Nat) : Bool :=
  (c.portsOf f).any fun n => (c.residual n).tripA != 0 || c.rd (RCM_STATUS_trip n) != 0

/-- SAF_CMD op 1 (R327, R330), with bits 11–0 of the word: the first matching row decides. -/
def flockRelease (acc : Access) (mask : Nat) (c : Chip) : Chip :=
  c.safCmd acc (mask % 4096 + 0x1000) fun c =>
    let fs := c.flocksIn (mask % 256)
    if fs.any fun f => c.anyPresent f || c.stillTrips f || (c.flock f).demand == some c.stride then (c, 1)
    else if c.saf.running.isSome then (c, 2)
    else if ¬ c.flag SAF_STATUS_spb_confirmed then (c, 3)
    else if fs.any fun f => c.flockState f == 3 then (c, 4)
    else
      let cut := fs.filter fun f => c.flockState f == 2
      let c := c.setSaf fun s => { s with released := some (c.stride, mask % 4096) }
      (if cut.isEmpty then c else c.recoverFlocks cut, 0)

/-- FLOCK_RELEASE (R327). -/
def execFlockRelease (acc : Access) (mask : Nat) (s : State) : Answer := s.effect (flockRelease acc mask)

/-- SAF_CMD op 2, with bits 11–0 of the word: the named Flocks go to Cut (R327). -/
def flockStop (acc : Access) (mask : Nat) (c : Chip) : Chip :=
  c.safCmd acc (mask % 4096 + 0x2000) fun c => (c.demandFlocks (mask % 256) causeStop 2 0, 0)

/-- FLOCK_STOP (R327). -/
def execFlockStop (acc : Access) (mask : Nat) (s : State) : Answer := s.effect (flockStop acc mask)

/-- SAF_CMD op 3, with bits 11–0 of the word: from Lockout to Cut with the safety seal open and no cause present, a recovery (R327,
R328). -/
def lockoutRelease (acc : Access) (mask : Nat) (c : Chip) : Chip :=
  c.safCmd acc (mask % 4096 + 0x3000) fun c =>
    let fs := c.flocksIn (mask % 256)
    if ¬ c.sealOpen 2 then (c, 4)
    else if fs.any c.anyPresent then (c, 1)
    else
      let locked := fs.filter fun f => c.flockState f == 3
      (if locked.isEmpty then c else locked.foldl (fun (c : Chip) f => c.setFlockState f 2 0 2) (c.beginRecovery locked), 0)

/-- LOCKOUT_RELEASE (R327). -/
def execLockoutRelease (acc : Access) (mask : Nat) (s : State) : Answer := s.effect (lockoutRelease acc mask)

/-- E-stop k passes R316: both contacts closed for 100 ms, with no discrepancy and no cross-short. -/
def Chip.estopReady (c : Chip) (k : Nat) : Bool :=
  let e := c.estop k
  e.closedA && e.closedB && decide (800 ≤ e.closed) && !e.discrepancy && e.short == 0

/-- SAF_CMD op 4, with bits 11–0 of the word: the named e-stops are no longer actuated, and the e-stop cause of their Flocks is released;
a Flock in Cut with no other cause recovers (R327). An e-stop cause that another actuated e-stop still demands stays. -/
def estopReset (acc : Access) (mask : Nat) (c : Chip) : Chip :=
  c.safCmd acc (mask % 4096 + 0x4000) fun c =>
    let ks := bitsSet 4 (mask / 256)
    if ks.any fun k => !c.estopReady k then (c, 5)
    else if c.saf.running.isSome then (c, 2)
    else
      let c := ks.foldl (fun (c : Chip) k => c.setEstop k fun e => { e with actuated := false }) c
      let flocks := c.flocksIn (ks.foldl (fun m k => m ||| c.spbByte (672 + 4 * k)) 0)
      let mine (k : Cause) : Bool := ks.any fun j => k.unit == unitEstop j || k.unit == unitShort j
      let c := flocks.foldl (fun (c : Chip) f =>
        c.setFlock f fun x => { x with causes := x.causes.filter fun k => !mine k }) c
      let cut := flocks.filter fun f => c.flockState f == 2 && (c.flock f).causes.isEmpty
      (if cut.isEmpty then c else c.recoverFlocks cut, 0)

/-- ESTOP_RESET (R327). -/
def execEstopReset (acc : Access) (mask : Nat) (s : State) : Answer := s.effect (estopReset acc mask)

/-- A word written to SAF_CMD with op 0, 5, 6 or 7 is refused (R327). -/
def safCmdInvalid (acc : Access) (v : Nat) (c : Chip) : Chip :=
  if 1 ≤ v / 4096 % 8 ∧ v / 4096 % 8 ≤ 4 then c else c.safCmd acc (v % 2 ^ 15) fun c => (c, 6)

/-- SAF_CMD_INVALID (R327). -/
def execSafCmdInvalid (acc : Access) (v : Nat) (s : State) : Answer := s.effect (safCmdInvalid acc v)

/-! ### Straps -/

/-- The words of a strap read are valid: module word, port words, check word (R331–R334). -/
def strapsValid (ports : Nat) (words : List Nat) : Bool :=
  words.length == ports + 2 && moduleWordValid (nth words 0) && ((words.drop 1).take ports).all sealParity &&
    nth words (ports + 1) == 0x5A3C

/-- A strap event: its record and event 5 (R340, R341). -/
def Chip.strapEvent (c : Chip) (level unit new channels : Nat) : Chip :=
  (c.logSafety 5 level unit 0 new channels causeFault []).raiseEv safPage 5

/-- A difference of port n's seal word arises or ends: its fault and its record (R325, R334). -/
def Chip.sealDifference (c : Chip) (n state unit channels : Nat) (differs : Bool) : Chip :=
  let f := c.flockOf n
  if differs = c.causePresent f unit then c
  else if differs then (c.faultFlocks (2 ^ f) causeFault state unit).strapEvent 4 f 1 channels
  else (c.clearCause (2 ^ f) unit true).strapEvent 4 f 0 channels

/-- A read of the strap chain, as the controller die and as the Crook sampled it (R331–R334); it is invalid when either sample is. -/
def strapRead (words crook : List Nat) (c : Chip) : Chip :=
  let ports := c.variant.ports
  let ok := strapsValid ports words
  let okA := strapsValid ports crook
  let c := c.setFlag SAF_STATUS_seal_valid ok
  let c := c.setSaf fun s => { s with crookStrap := okA, invalidReads := if ok ∧ okA then 0 else min 2 (s.invalidReads + 1) }
  let c := if 2 ≤ c.saf.invalidReads ∧ ¬ c.flag SAF_STATUS_strap_fault then
      ((c.setFlag SAF_STATUS_strap_fault true).faultFlocks c.allFlocks causeFault 1 unitStrap).strapEvent 5 0 1 3
    else if c.saf.invalidReads = 0 ∧ c.flag SAF_STATUS_strap_fault then
      ((c.setFlag SAF_STATUS_strap_fault false).clearCause c.allFlocks unitStrap true).strapEvent 5 0 0 3
    else c
  if ¬ ok then c.settleSafety
  else
    let isOpen := bit (nth words 0) 0
    let c := if c.flag SAF_STATUS_seal_open ≠ isOpen ∧ c.saf.adoptedYet then c.strapEvent 5 0 isOpen.toNat 3 else c
    let c := (c.setFlag SAF_STATUS_seal_open isOpen).put SAF_SEAL_MOD_word (nth words 0)
    let c := forN ports (fun n c =>
      let w := c.rd (SAF_SEAL_P_words (n / 2))
      let x := nth words (n + 1)
      c.put (SAF_SEAL_P_words (n / 2)) (if n % 2 = 0 then w / 65536 * 65536 + x else w % 65536 + 65536 * x)) c
    let c := if c.saf.adoptedYet then c
      else
        let l := (List.range ports).foldl (fun (m : Sparse Nat) n => Sparse.set (fun _ => 0) m n (nth words (n + 1))) []
        c.setSaf fun s => { s with adopted := l, adoptedYet := true }
    (forN ports (fun n c =>
      let x := nth words (n + 1)
      let diff := x != c.adoptedWord n
      let c := (c.setFlag (SAF_SEAL_DIFF_ports.bitOf n) diff).sealDifference n 3 (unitSealChange n) 3 diff
      if okA then c.sealDifference n 1 (unitSealDiffer n) 1 (nth crook (n + 1) != x) else c) c).settleSafety

/-- STRAP_READ (R331). -/
def execStrapRead (words crook : List Nat) (s : State) : Answer := s.effect (strapRead words crook)

/-- The repeat, 10 ms later, of a read that was invalid (R334). -/
def strapReread (words crook : List Nat) (c : Chip) : Chip := if c.saf.invalidReads = 0 then c else strapRead words crook c

/-- STRAP_REREAD (R334). -/
def execStrapReread (words crook : List Nat) (s : State) : Answer := s.effect (strapReread words crook)

/-! ### The site parameter block -/

/-- SAF_SPB_ADDR.word advances (R341). -/
def Chip.advanceBlock (c : Chip) : Chip := c.put SAF_SPB_ADDR_word (c.rd SAF_SPB_ADDR_word + 1)

/-- An access to SAF_SPB_DATA (R341): a staging write, sealed by the safety seal; a write while the bank is the stored block is ignored
and is no violation. Each access by the owner advances the address. -/
def spbDataAccess (acc : Access) (write : Bool) (v : Nat) (c : Chip) : Chip :=
  let a := SAF_SPB_DATA.addr
  let k := c.rd SAF_SPB_ADDR_word
  let stored := c.flag SAF_SPB_ADDR_bank
  let owner := initiatorPlane acc.by_ == c.rd (ownerFld safPage)
  let old := Sparse.get (fun _ => (0 : Word)) c.saf.staged k
  if write then
    let kind := match c.writeViolation acc a v with
      | some 4 => some 4
      | some 0 => some 0
      | _ => if ¬ stored ∧ ¬ c.sealOpen 2 ∧ old ≠ BitVec.ofNat 32 v then some 1 else none
    let c := match kind with
      | some x => c.violate acc a x true
      | none =>
        if stored then c else c.setSaf fun s => { s with staged := Sparse.set (fun _ => (0 : Word)) s.staged k (BitVec.ofNat 32 v) }
    if owner then c.advanceBlock else c
  else
    let c := c.read acc a fun c => { c with rdata := (if stored then Sparse.get (fun _ => (0 : Word)) c.saf.stored k else old).toNat }
    if owner then c.advanceBlock else c

/-- SPB_DATA_ACCESS (R341). -/
def execSpbDataAccess (acc : Access) (write : Bool) (v : Nat) (s : State) : Answer := s.effect (spbDataAccess acc write v)

/-- SAF_SPB_CMD.commit (R336, R337): the staging block is stored in the safety logic die, and both channels compute its CRC. -/
def spbCommit (acc : Access) (c : Chip) : Chip :=
  c.write acc SAF_SPB_CMD.addr 1 fun c =>
    match c.blockError with
    | some e => (c.put SAF_SPB_ST_state 3).put SAF_SPB_ST_error e
    | none =>
      let c := ((c.setSaf fun s => { s with stored := s.staged }).computeBlock.showBlock)
      let c := (c.put SAF_SPB_ST_state 1).put SAF_SPB_ST_error 0
      let c := c.logSafety 6 5 0 0 1 3 0 (leBytes 4 (c.rd SAF_SPB_CRC_B_crc) ++ leBytes 4 (c.rd SAF_SPB_CRC_A_crc))
      ((c.raiseEv safPage 6).showConfirmed).settleSafety

/-- SPB_COMMIT (R337). -/
def execSpbCommit (acc : Access) (s : State) : Answer := s.effect (spbCommit acc)

/-- SAF_SPB_CMD.confirm (R336, R337): the Crook stores both values if each equals what it computed. -/
def spbConfirm (acc : Access) (c : Chip) : Chip :=
  c.write acc SAF_SPB_CMD.addr 2 fun c =>
    let crc := c.rd SAF_SPB_CONF_VAL_crc
    let map := c.rd SAF_SPB_MAP_VAL_crc
    if ¬ c.sealOpen 2 then (c.put SAF_SPB_ST_state 3).put SAF_SPB_ST_error 4
    else if crc ≠ c.rd SAF_SPB_CRC_A_crc ∨ map ≠ c.rd LSW_BMAP_CRC_crc then (c.put SAF_SPB_ST_state 3).put SAF_SPB_ST_error 0
    else
      let c := (c.put SAF_SPB_CONF_crc crc).put SAF_SPB_CONF_MAP_crc map
      let c := (c.put SAF_SPB_ST_state 2).put SAF_SPB_ST_error 0
      let c := c.logSafety 6 5 0 1 2 3 0 (leBytes 4 crc ++ leBytes 4 map)
      ((c.raiseEv safPage 6).showConfirmed).settleSafety

/-- SPB_CONFIRM (R337). -/
def execSpbConfirm (acc : Access) (s : State) : Answer := s.effect (spbConfirm acc)

/-- Every second both channels recompute the CRC and compare it with the confirmed one (R325, R337). -/
def spbRecheck (c : Chip) : Chip :=
  let c := c.computeBlock.showConfirmed
  let conf := c.rd SAF_SPB_CONF_crc
  if c.rd SAF_SPB_CRC_B_crc = conf ∧ c.rd SAF_SPB_CRC_A_crc = conf then (c.clearCause c.allFlocks unitBlock true).settleSafety
  else (c.faultFlocks c.allFlocks causeFault 2 unitBlock).settleSafety

/-- SPB_RECHECK (R337). -/
def execSpbRecheck (s : State) : Answer := s.effect spbRecheck

/-! ### Release, start-up and the rest -/

/-- The control plane requests release of a port: safe_ok rises if every condition of R305 holds and its Flock is Normal (R305, R324).
In the Off role it follows Near instead (R351). -/
def safeOkRelease (n : Nat) (c : Chip) : Chip :=
  if c.variant.ports ≤ n ∨ c.flag (OPT_STATUS_safe_ok n) ∨ ¬ c.okHolds n 0 ∨ c.isOff then c else (c.setSafeOk n true).settlePort n

/-- SAFE_OK_RELEASE (R305). -/
def execSafeOkRelease (n : Nat) (s : State) : Answer := s.effect (safeOkRelease n)

/-- The conditions of R344 for the release of the start-up cause of Flock f. -/
def Chip.mayStart (c : Chip) (f : Nat) : Bool :=
  c.saf.running0 && c.flag SAF_STATUS_spb_confirmed && c.flag SAF_STATUS_crook_ok && decide (c.saf.crookBad < 2) &&
    (c.portsOf f).all c.sealValid &&
    (List.range 4).all fun k =>
      !bit (c.spbByte (672 + 4 * k)) f || ((c.estop k).closedA && (c.estop k).closedB && (c.estop k).short == 0)

/-- S0 releases the start-up cause of Flock f, which is no recovery (R344): the Flock takes the state that its other causes demand. -/
def startupRelease (f : Nat) (c : Chip) : Chip :=
  if c.variant.flocks ≤ f ∨ ¬ c.mayStart f ∨ ¬ (c.flock f).causes.any (fun k => k.bit == causeStart) then c
  else
    let c := c.setFlock f fun k => { k with causes := k.causes.filter fun j => j.bit != causeStart }
    let state := (c.flock f).causes.foldl (fun x k => max x k.state) 0
    (if c.flockState f = 3 ∧ state < 3 then c else c.setFlockState f state causeStart 2).settleSafety

/-- STARTUP_RELEASE (R344). -/
def execStartupRelease (f : Nat) (s : State) : Answer := s.effect (startupRelease f)

/-- SAF_RX_POP frees the oldest entry (R341). -/
def safetyRxPop (acc : Access) (v : Nat) (c : Chip) : Chip :=
  c.write acc safRxPop.addr v fun c =>
    if v % 2 = 0 then c else (c.setSaf fun s => { s with rx := s.rx.drop 1 }).showSafetyRx

/-- SAFETY_RX_POP (R341). -/
def execSafetyRxPop (acc : Access) (v : Nat) (s : State) : Answer := s.effect (safetyRxPop acc v)

/-- The Crook link has delivered no valid frame for 2 Strides: the module goes to Degraded (R43, R325). -/
def crookLinkLoss (c : Chip) : Chip :=
  if c.saf.crookBad < 2 then c
  else
    let c := (c.setFlag SAF_STATUS_crook_ok false).setFlag CRK_STATUS_link_ok false
    (c.faultFlocks c.allFlocks causeFault 1 unitCrook).settleSafety

/-- CROOK_LINK_LOSS (R325). -/
def execCrookLinkLoss (s : State) : Answer := s.effect crookLinkLoss

/-- The safety logic die of a paired module has lost the Crook link for 20 ms: it asserts every A output (R351). -/
def pairedCrookLossCut (c : Chip) : Chip :=
  if ¬ c.saf.crookPaired ∨ c.saf.crookBad < 160 then c
  else (c.setSaf fun s => { s with cutA := c.allFlocks }).settleSafety

/-- PAIRED_CROOK_LOSS_CUT (R351). -/
def execPairedCrookLossCut (s : State) : Answer := s.effect pairedCrookLossCut

/-! ### What every Stride edge does -/

/-- The Crook link of the Stride that ends: channel A takes the Flock states from a valid frame (R43, R327, R342). -/
def Chip.crookEdge (c : Chip) (inp : StrideInputs) : Chip :=
  if bit inp.badFrames 2 then
    let c := c.setSaf fun s => { s with crookBad := min 160 (s.crookBad + 1) }
    c.incSat (if bit inp.badFrames 3 then CRK_LINK_ERR_crc else CRK_LINK_ERR_lost)
  else
    let c := c.setSaf fun s => { s with crookBad := 0, crookPaired := c.flag HRN_CTRL_pair_en }
    let c := c.clearCause c.allFlocks unitCrook true
    let c := (c.setFlag SAF_STATUS_crook_ok true).setFlag CRK_STATUS_link_ok true
    let want := (List.range c.variant.flocks).foldl (fun x f => if c.cutWanted f then x + 2 ^ f else x) 0
    let c := c.setSaf fun s => { s with cutA := want ||| c.crookOwn }
    (forN c.variant.ports (fun n c =>
      if (c.residual n).tripA = 0 ∧ ¬ bit c.saf.cutA (c.flockOf n) then c.setResidual n fun r => { r with latchedA := false }
      else c) c).showCrook

/-- The readback of one cut output against its command, and the causes that it clears; a released output that reads asserted counts
only outside its dark test (R302). -/
def Chip.readbackCut (c : Chip) (o : Nat) (pin : Bool) : Chip :=
  let cmd := c.cutCommand o
  let dark := Sparse.get (fun _ => 0) c.saf.dark o
  let c := c.setSaf fun s => { s with dark := Sparse.set (fun _ => 0) s.dark o (dark - 1) }
  let run (b : Bool) (k : Nat) (s : Safety) : Safety :=
    let r := Sparse.get (fun _ => 0) s.against k
    { s with against := Sparse.set (fun _ => 0) s.against k (if b then min 2 (r + 1) else 0) }
  let c := c.setSaf (run (cmd && !pin) o)
  let c := if !cmd && pin && dark != 0 then c else c.setSaf (run (!cmd && pin) (16 + o))
  let c := if cmd && pin then c.clearCause (2 ^ (o % 8)) (unitStuckOn o) true else c
  if cmd || pin then c else c.clearCause (2 ^ (o % 8)) (unitStuckOff o) true

/-- The readback of the cut outputs (R301, R302, R326). -/
def Chip.cutReadback (c : Chip) (inp : StrideInputs) : Chip :=
  let c := forN c.variant.flocks (fun f c => (c.readbackCut f (bit inp.cutPins (8 + f))).readbackCut (8 + f) (bit inp.cutPins f)) c
  let c := (c.put SAF_CUT_rb_a (inp.cutPins % 256 % 2 ^ c.variant.flocks)).put SAF_CUT_rb_b
    (inp.cutPins / 256 % 2 ^ c.variant.flocks)
  let confirmed (w : FaultWindow) : Bool :=
    decide (w.state < 2) || (c.flocksIn w.flocks).all fun f => bit inp.cutPins f && bit inp.cutPins (8 + f)
  c.setSaf fun s =>
    { s with
      faultWindows := (s.faultWindows.filter fun w => !confirmed w).map fun w => { w with age := min 160 (w.age + 1) } }

/-- Idc and Iac over the last 160 Strides (R307). -/
def residualQuantities (samples : List Int) : Int × Nat :=
  let s := sumI samples
  let q := sumI (samples.map fun x => x * x)
  (Int.tdiv s 160, isqrt ((160 * q - s * s).toNat / 25600))

/-- The level flags of the quantities (R308). -/
def levelFlags (q : Int × Nat) : Nat :=
  (List.range 6).foldl (fun x b => if bandLevel b ≤ (if b < 3 then q.1.natAbs else q.2) then x + 2 ^ b else x) 0

/-- The safety tick for a port's channel B (R307, R308). -/
def Chip.residualTick (c : Chip) (n : Nat) : Chip :=
  let q := residualQuantities (c.residual n).samples
  let raw := levelFlags q
  let lv := raw &&& bandsOf (c.rcmType n)
  let trip := c.rd (RCM_STATUS_trip n)
  let c := ((c.putS (RCM_IDC_ua n) q.1).put (RCM_IAC_ua n) q.2).put (RCM_STATUS_level n) lv
  let c := c.put (RCM_STATUS_trip n) (trip &&& lv)
  let c := if trip ≠ 0 ∧ trip &&& lv = 0 then c.clearCause (2 ^ c.flockOf n) (unitRcmB n) false else c
  c.setResidual n fun r =>
    { r with
      holds := (List.range 6).map fun b =>
        let h := r.holds.getD b 0
        if bit lv b then (if h = 0 then 1 else min 80000 (h + 8)) else 0
      testSeen := if 1 < r.test ∧ bit raw 1 then r.testSeen ||| 2 else r.testSeen }

/-- Channel A of a port in a Stride, by its own oscillator (R20, R308, R309): the level flags of the bands that the RCM type enables, their
holds, and the trips that end. -/
def Chip.crookResidual (c : Chip) (inp : StrideInputs) (n : Nat) : Chip :=
  let lv := (inputOf inp.crookLevel n).getD 0 &&& bandsOf (c.rcmType n)
  let was := (c.residual n).tripA
  let c := c.setResidual n fun r =>
    { r with
      levelA := lv, tripA := r.tripA &&& lv
      holdsA := (List.range 6).map fun b => if bit lv b then min 80000 (r.holdsA.getD b 0 + 1) else 0 }
  if was ≠ 0 ∧ (c.residual n).tripA = 0 then c.clearCause (2 ^ c.flockOf n) (unitRcmA n) false else c

/-- A port's residual current in the Stride that ends (R306–R311). What channel A reports to S0 comes over the Crook link: without it S0
sees nothing new of channel A (R309, R342). -/
def Chip.residualEdge (c : Chip) (inp : StrideInputs) (tick : Bool) (n : Nat) : Chip :=
  let x := (inputOf inp.rcm n).getD 0
  let raw := (inputOf inp.crookLevel n).getD 0
  let linked := c.saf.crookBad == 0
  let c := (c.crookResidual inp n).putS (RCM_SMP_ua n) x
  let c := c.setResidual n fun r =>
    { r with
      samples := if x = 0 ∧ r.samples.isEmpty then [] else (x :: r.samples).take 160
      outside := if 240000 < x.natAbs then min 2 (r.outside + 1) else 0
      outsideA := if bit inp.crookOutside n then min 2 (r.outsideA + 1) else 0
      seenA := if linked then r.levelA else r.seenA
      testSeen := if 1 < r.test ∧ linked ∧ bit raw 1 then r.testSeen ||| 1 else r.testSeen
      test := if 1 < r.test then r.test - 1 else r.test }
  let c := if tick then c.residualTick n else c
  let differ := (c.residual n).seenA ^^^ c.rd (RCM_STATUS_level n)
  let c := if ¬ linked then c
    else c.setResidual n fun r =>
      { r with disagree := (List.range 6).map fun b => if bit differ b then min 80000 (r.disagree.getD b 0 + 1) else 0 }
  if linked && c.flag (CRK_DISAGREE_ports.bitOf n) && !(List.range 6).any (c.disagrees n) then
    (c.setFlag (CRK_DISAGREE_ports.bitOf n) false).clearCause (2 ^ c.flockOf n) (unitBands n) true
  else c

/-- The sample of an insulation channel that S0 evaluates (R312); at the safety tick one of the last 8 outside 0.1–3.2 V is a fault
(R41, R313). A channel that is not enabled keeps nothing. -/
def Chip.insulationEdge (c : Chip) (inp : StrideInputs) (tick : Bool) (k : Nat) : Chip :=
  if ¬ c.flag (IMD_STATUS_enabled k) then (c.setInsulation k fun _ => {}).showImd k false false false
  else if ¬ c.saf.running0 then c
  else
    let c := c.setInsulation k fun i =>
      { i with samples := ((inputOf inp.imd k).getD 0 :: i.samples).take 401, age := min 80000 (i.age + 1) }
    if tick && ((c.insulation k).samples.take 8).any imdOutside then c.imdFault k else c

/-- The Flock power of a safety cycle, and its time above the supervised level (R318). -/
def Chip.powerTick (c : Chip) (f : Nat) : Chip :=
  let limit := c.spb (32 + 16 * f) 4
  if limit = 0 then c
  else
    let mask := c.spb (36 + 16 * f) 8
    let sum := (bitsSet c.variant.elements mask).foldl (fun (x : Int) e =>
      x + Sparse.get (fun _ => 0) c.saf.powerSum e * (c.spb (416 + 4 * e) 4 : Nat)) 0
    let p := trunc0 sum 33
    let state := c.flockState f
    let above (pct : Nat) : Bool := decide (((limit * 1000000 * pct : Nat) : Int) < p * 100)
    let over_ := if state = 1 then (c.flock f).halved && above 50 else above 110
    let c := c.setFlock f fun k =>
      { k with power := p, exceed := if over_ then (if k.exceed = 0 then 1 else min 16001 (k.exceed + 8)) else 0 }
    if over_ then c else c.clearCause (2 ^ f) unitPower false

/-- The weld element of a port lies below its threshold (R314): the cycle RMS of v_c for AC, the magnitude of the exact mean over the
safety cycle for DC. -/
def Chip.weldLow (c : Chip) (n : Nat) : Bool :=
  let e := c.spbByte (161 + 8 * n)
  let t := c.spb (164 + 8 * n) 4
  if c.flag (SFE_ASSIGN_kind e) then decide ((Sparse.get (fun _ => 0) c.saf.voltSum e).natAbs < 8 * t)
  else decide (cycleRms (c.elem e).vSquares (c.elem e).n < t)

/-- The weld checks at a Stride edge (R314): the coil channel that slot 15 has converted, the weld elements at the safety tick, what
has passed, and the next coil channel: those still to read take turns in ascending port order. -/
def Chip.weldEdge (c : Chip) (tick : Bool) : Chip :=
  let read := c.flag (LSW_VSLOT_RES_valid 15)
  let ch := c.rd (LSW_VSLOT_RES_ch 15)
  let low := decide (c.rd (LSW_VSLOT_RES_v 15) < 200)
  let coil (w : Weld) : Nat := c.spbByte (162 + 8 * w.port)
  let welds := c.saf.welds.map fun w =>
    { w with
      age := min 600000 (w.age + 1)
      coilOff := w.coilOff || decide (c.variant.channels ≤ coil w) || (read && ch == coil w && low)
      low := w.low || (tick && c.weldLow w.port) }
  let c := welds.foldl (fun (c : Chip) w =>
    let mask := 2 ^ c.flockOf w.port
    let c := if w.coilOff ∧ w.coilFailed then c.clearCause mask (unitCoil w.port) true else c
    if w.low ∧ w.weldFailed then c.clearCause mask (unitWeld w.port) true else c) c
  let open_ := welds.filter fun w => !(w.coilOff && w.low)
  let c := c.setSaf fun s => { s with welds := open_ }
  let due := open_.filter fun w => !w.coilOff
  let last := ((due.find? fun w => coil w == c.rd SAF_WELD_ch).map Weld.port).getD 0
  let next := (due.find? fun w => decide (last < w.port)).or due.head?
  match next with
  | some w => (c.put SAF_WELD_ch (coil w)).setFlag SAF_WELD_en true
  | none => c

/-- The contacts' timers of the e-stops (R316). -/
def Chip.estopEdge (c : Chip) : Chip :=
  forN 4 (fun k c => c.setEstop k fun e =>
    { e with
      differ := if e.closedA = e.closedB then 0 else min 401 (e.differ + 1)
      closed := if e.closedA ∧ e.closedB then min 800 (e.closed + 1) else 0 }) c

/-- The network's timers (R320–R323). -/
def Chip.safetyNetEdge (c : Chip) : Chip :=
  let on := c.flag SAF_CTRL_net_en
  let peers := (List.range 16).filter fun i => c.spb (816 + 12 * i) 4 != 0
  let c := c.setSaf fun s =>
    { s with
      windows := s.windows.map fun w => { w with age := min 80 (w.age + 1) }
      heard := if on then peers.foldl (fun (m : Sparse Nat) i =>
          let up (m : Sparse Nat) (k : Nat) : Sparse Nat :=
            Sparse.set (fun _ => 0) m k (min 40000 (Sparse.get (fun _ => 0) m k + 1))
          up (up m i) (16 + i)) s.heard else []
      heartbeat := if on then min 8000 (s.heartbeat + 1) else 0
      singleLeft := s.singleLeft - 1 }
  let ok := on && peers.all fun i => !c.peerSilent i 0 && !c.peerSilent i 1
  let c := c.setSaf fun s => { s with matching := if ok then min 480000 (s.matching + 1) else 0 }
  if c.flag SAF_STATUS_net_single then c.put SAF_NET_ST_left ((c.saf.singleLeft + 7999) / 8000) else c

/-- The Flocks' and the recovery's timers (R324, R328); a recovery that waits starts once none runs (R329). -/
def Chip.flockEdge (c : Chip) : Chip :=
  let c := forN c.variant.flocks (fun f c =>
    let quiet := c.flockState f == 1 && !c.anyPresent f
    let c := c.setFlock f fun k =>
      { k with
        degraded := if k.degraded = 0 then 0 else k.degraded + 1
        cleared := if quiet then min 80000 (k.cleared + 1) else 0 }
    if c.flockState f = 1 then
      c.put (SAF_FLOCK_ST_left f) ((c.degradedTime + 7999 - c.degradedFor f) / 8000)
    else c) c
  let c := c.setSaf fun s => { s with running := s.running.map fun r => { r with age := min 8000 (r.age + 1) } }
  if c.saf.running.isNone ∧ c.saf.waiting ≠ 0 then c.startWaiting else c

/-- Port stops for accepted pilot state F with the generator high or in PWM (R317): S0 applies one at its next safety cycle, also where the
drop has meanwhile turned the generator to −12 V, and ends it at the first cycle without the condition. -/
def Chip.pilotStops (c : Chip) : Chip :=
  let c := forN c.variant.ports (fun n c =>
    let b := bit (c.dropCauses n (c.port n).accepted) 1 || Sparse.get (fun _ => 0) c.saf.stopsDue n != 0
    c.setSaf fun s => { s with stops := Sparse.set (fun _ => 0) s.stops n b.toNat }) c
  c.setSaf fun s => { s with stopsDue := [] }

/-- The port stops of a Flock are reported at its level (R344). -/
def Chip.showStops (c : Chip) : Chip :=
  forN c.variant.flocks (fun f c =>
    let imd (n : Nat) : Bool :=
      let k := c.spbByte (163 + 8 * n)
      decide (k < c.variant.ports / 4) && c.imdEnabled n && (c.insulation k).stopping
    c.faultIs 4 0x4404 f ((c.portsOf f).any fun n => Sparse.get (fun _ => 0) c.saf.stops n != 0 || imd n)) c

/-- A safety tick that finds the previous cycle unfinished is a single-channel fault (R42, R43, R325). -/
def Chip.safetyOverrun (c : Chip) (late : Bool) : Chip :=
  let c := c.faultIs 5 0x0125 0 late
  if late then c.faultFlocks c.allFlocks causeFault 1 unitOverrun else c.clearCause c.allFlocks unitOverrun true

/-- The safety function at a Stride edge; `tick` at the safety tick (R41), with S0 running. -/
def Chip.safetyEdge (c : Chip) (inp : StrideInputs) : Chip :=
  let tick := c.saf.running0 && c.stride % 8 == 4
  let c := (c.cutReadback inp).crookEdge inp
  let c := c.setSaf fun s =>
    { s with
      powerSum := (List.range c.variant.elements).foldl (fun (m : Sparse Int) e =>
        Sparse.set (fun _ => 0) m e (Sparse.get (fun _ => 0) m e + (c.elem e).p)) s.powerSum
      voltSum := (List.range c.variant.elements).foldl (fun (m : Sparse Int) e =>
        Sparse.set (fun _ => 0) m e (Sparse.get (fun _ => 0) m e + (c.elem e).vc)) s.voltSum
      watchdog := if s.running0 then min 80 (s.watchdog + 1) else 0 }
  let c := forN c.variant.ports (fun n c => c.residualEdge inp tick n) c
  let c := forN (c.variant.ports / 4) (fun k c => c.insulationEdge inp tick k) c
  let c := if tick then (forN c.variant.flocks (fun f c => c.powerTick f) c).pilotStops.safetyOverrun inp.safetyLate else c
  let c := (((c.weldEdge tick).estopEdge).safetyNetEdge).flockEdge
  let c := if c.stride % 8 = 4 then c.setSaf fun s => { s with powerSum := [], voltSum := [] } else c
  (c.showConfirmed.settleSafety).showStops

/-- What channel A does in a Stride by its own oscillator while the controller die does nothing (R20, R330): its residual-current and
e-stop paths go on, the Crook link delivers no frame, and the outputs assert for its own trips. -/
def Chip.crookAlone (c : Chip) (inp : StrideInputs) : Chip :=
  let c := (forN c.variant.ports (fun n c => c.crookResidual inp n) c).estopEdge
  (c.setSaf fun s => { s with crookBad := min 160 (s.crookBad + 1) }).crookActs

end Sys2Proof.Machine
end

