-- ==== Sys2Proof/Machine/Net.lean ====
section
/-! DEFINITION. The network ports and the packet engine: links, filtering and steering, rings, and the diagnostic streams
(R370–R384). -/

namespace Sys2Proof.Machine

/-! ### Streams (R377–R380) -/

/-- The hidden part of stream s. -/
def Chip.stream (c : Chip) (s : Nat) : NetStream := Sparse.get (fun _ => {}) c.net.streams s

/-- The block with the hidden part of stream s changed. -/
def Chip.setStream (c : Chip) (s : Nat) (f : NetStream → NetStream) : Chip :=
  c.setNet fun x => { x with streams := Sparse.set (fun _ => {}) x.streams s (f (c.stream s)) }

/-- The elements of stream 0 or the paths of stream 1 that its mask selects, ascending (R382). -/
def Chip.streamMask (c : Chip) (s : Nat) : List Nat :=
  let w (k : Nat) : Nat := if s = 0 then c.rd (NET_STR_MASK0_mask k) else c.rd (NET_STR_MASK1_mask k)
  (List.range (if s = 0 then c.variant.elements else 3 * c.variant.elements)).filter fun i => bit (w (i / 32)) (i % 32)

/-- Strides per frame: k of stream 0, 8 of stream 1 (R378, R379). -/
def Chip.streamK (c : Chip) (s : Nat) : Nat :=
  let k := c.rd (NET_STR_CFG_k s)
  if s = 1 then 8 else if 1 ≤ k ∧ k ≤ 8 then k else 1

/-- The frame length of a stream with its FCS (R377–R379). -/
def Chip.streamLength (c : Chip) (s : Nat) : Nat :=
  14 + 4 * (c.rd (NET_STR_CFG_tagged s)) + 32 + (if s = 0 then 12 * (c.streamMask s).length * c.streamK s else 1250) + 4

/-- Eight times the wire rate of a stream's configuration over its Strides per frame, in bit/s: frames per second are 8000 / k, for each
path of stream 1 (R380). -/
def Chip.streamBits (c : Chip) (s : Nat) : Nat :=
  8000 * (if s = 0 then 1 else (c.streamMask s).length) * (c.streamLength s + 20) * 8

/-- NET_STR_RATE.mbps: the wire rate in Mbit/s, rounded up; 0 with an empty mask. -/
def Chip.streamRate (c : Chip) (s : Nat) : Nat :=
  if (c.streamMask s).isEmpty then 0 else (c.streamBits s + c.streamK s * 1000000 - 1) / (c.streamK s * 1000000)

/-- The link of port n carries stream s: its wire rate is within 90 % of the link rate (R380). -/
def Chip.carries (c : Chip) (s n : Nat) : Bool :=
  decide (c.streamBits s ≤ (if c.flag (NET_PSTATUS_is_10g n) then 9000000000 else 900000000) * c.streamK s)

/-- The port of stream s. -/
def Chip.streamPort (c : Chip) (s : Nat) : Nat := c.rd (NET_STR_CFG_port s)

/-- NET_STR_ST and NET_STATUS show whether stream s runs and is suspended. -/
def Chip.showStream (c : Chip) (s : Nat) (running susp : Bool) : Chip :=
  let c := (c.setFlag (NET_STR_ST_running s) running).setFlag (NET_STR_ST_suspended s) susp
  (c.setFlag (NET_STATUS_str_run.bitOf s) running).setFlag (NET_STATUS_str_susp.bitOf s) susp

/-- The open frame of a stream is dropped. -/
def NetStream.cleared (x : NetStream) : NetStream := { x with payload := [], bits := [], faulty := [], flags := 0, due := none }

/-- The open frame goes on with Stride number `stride`, or is dropped: a loaded number (R72) or a time without a link breaks its Strides'
order (R378, R379). -/
def NetStream.at (x : NetStream) (stride : Nat) : NetStream := if x.due = some stride then x else x.cleared

/-- A stream stops. -/
def Chip.stopStream (c : Chip) (s : Nat) : Chip :=
  ((c.setStream s fun x => { x.cleared with active := false, starting := false, ready := [] }).setFlag (NET_STR_CFG_en s) false).showStream
    s false false

/-- The link of port n changed: a stream that it cannot carry is suspended, one that it carries again resumes at the next Stride
divisible by 8 (R380). -/
def Chip.recheckStream (c : Chip) (n s : Nat) : Chip :=
  let x := c.stream s
  if ¬ x.active ∨ c.streamPort s ≠ n ∨ ¬ c.flag (NET_PSTATUS_link_up n) then c
  else if c.carries s n then
    (if c.flag (NET_STR_ST_suspended s) then c.setStream s fun x => { x with starting := true } else c)
  else if c.flag (NET_STR_ST_suspended s) then c.setStream s fun x => { x with starting := false }
  else
    ((c.setStream s fun x => { x.cleared with starting := false, ready := [] }).showStream s false true).raiseEv netPage 3

/-- Why an enable of stream s with the configuration in place is refused (R380). -/
def Chip.streamRefused (c : Chip) (s : Nat) : Bool :=
  let n := c.streamPort s
  decide (c.variant.nets ≤ n) || (c.streamMask s).isEmpty || decide (c.maxLen n < c.streamLength s) ||
    (c.flag (NET_PSTATUS_link_up n) && !c.carries s n)

/-- A write of NET_STR_CFG of stream s (R380): en = 1 starts the stream at the next Stride divisible by 8, or is refused; en = 0 stops
it; other writes to a running stream are ignored and flagged. -/
def streamEnable (acc : Access) (s v : Nat) (c : Chip) : Chip :=
  if 2 ≤ s then c
  else c.write acc (NET_STR_CFG s).addr v fun c =>
    if (c.stream s).active then
      (if v % 2 = 1 then c.setFlag (NET_STR_ST_wrote_running s) true else c.stopStream s)
    else
      let c := (c.put (NET_STR_CFG s) (v % 2 ^ 26)).setFlag (NET_STR_CFG_en s) false
      if v % 2 = 0 then c
      else if c.streamRefused s then (c.setFlag (NET_STR_ST_refused s) true).raiseEv netPage 3
      else
        let c := (c.setFlag (NET_STR_ST_refused s) false).setFlag (NET_STR_CFG_en s) true
        c.setStream s fun x => { x.cleared with active := true, starting := true, ready := [], lost := false }

/-- STREAM_ENABLE (R380). -/
def execStreamEnable (acc : Access) (s v : Nat) (st : State) : Answer := st.effect (streamEnable acc s v)

/-- The header fields of a frame of stream s after its sequence: first Stride, path count, flags, path, clock (R377). -/
def Chip.streamHeader (c : Chip) (s path flags : Nat) (x : NetStream) : List Nat :=
  let paths := if s = 0 then 3 * (c.streamMask s).length else 1
  leBytes 8 x.firstStride ++ leBytes 2 paths ++ leBytes 2 flags ++ leBytes 2 path ++ [0, 0] ++ leBytes 4 (clockNs x.firstClock) ++
    leBytes 4 (clockSec x.firstClock)

/-- The flags of a Stride that every path shares: bit 1 not aligned, bit 2 recorded by Off (R377). -/
def Chip.streamFlags (c : Chip) : Nat := 2 * (!c.flag (tst 3)).toNat + 4 * c.isOff.toNat

/-- Flag bit 3: a path of the frame had a health fault (R377). -/
def faultFlag (faulty : Bool) : Nat := 8 * faulty.toNat

/-- Path p, numbered 3n + 0 to 3n + 2, has a health fault. -/
def Chip.pathUnsound (c : Chip) (p : Nat) : Bool := c.pathFault (p / 3) (p % 3)

/-- The three words that an element contributes to a waveform frame (R378). -/
def Chip.waveform (c : Chip) (n : Nat) : List Nat :=
  let e := c.elem n
  (if c.flag (NET_STR_CFG_src 0) then [e.vc, e.ic, e.v90] else [e.vr, c.delivered n 1, c.delivered n 2]).flatMap (leBytesI 4)

/-- Stream 0 at the edge of a Stride, whose samples have been delivered: they join the open frame; the last Stride of a frame makes it
ready. -/
def Chip.waveformEdge (c : Chip) : Chip :=
  let k := c.streamK 0
  let els := c.streamMask 0
  let fl := c.streamFlags ||| faultFlag ((els.flatMap fun n => [3 * n, 3 * n + 1, 3 * n + 2]).any c.pathUnsound)
  let x := (c.stream 0).at c.stride
  let x := if c.stride % k = 0 then { x.cleared with firstStride := c.stride, firstClock := c.tim.clock } else x
  if c.stride % k ≠ 0 ∧ x.payload.isEmpty then c.setStream 0 fun _ => x
  else
    let x := { x with payload := x.payload ++ els.flatMap c.waveform, flags := x.flags ||| fl }
    if (c.stride + 1) % k = 0 then
      c.setStream 0 fun _ => { x.cleared with ready := x.ready ++ [(x.flags, c.streamHeader 0 0 0 x, x.payload)] }
    else c.setStream 0 fun _ => { x with due := some (c.stride + 1) }

/-- The 10,000 bits of a path over 8 Strides, newest first, as 1250 bytes with the earliest bit in bit 0 of byte 0 (R379). -/
def rawBytes (l : List Nat) : List Nat := leBytes 1250 (l.foldl (fun x w => x * 2 ^ 1250 + w) 0)

/-- The open raw frames take the bits of the Stride that ends, and the health of each path (R379). -/
def Chip.recordRaw (c : Chip) (inp : StrideInputs) (paths : List Nat) (x : NetStream) : NetStream :=
  { x with
    bits := paths.foldl (fun b p =>
      Sparse.set (fun _ => []) b p (((inputOf inp.bits p).getD 0).toNat :: Sparse.get (fun _ => []) b p)) x.bits
    faulty := (paths.filter fun p => c.pathUnsound p && !x.faulty.contains p) ++ x.faulty
    flags := x.flags ||| c.streamFlags }

/-- The raw frames of 8 Strides, in ascending path index (R379). -/
def Chip.rawFrames (c : Chip) (paths : List Nat) (x : NetStream) : List (Nat × List Nat × List Nat) :=
  (paths.filter fun p => (Sparse.get (fun _ => []) x.bits p).length = 8).map fun p =>
    (x.flags ||| faultFlag (x.faulty.contains p), c.streamHeader 1 p 0 x, rawBytes (Sparse.get (fun _ => []) x.bits p))

/-- Stream 1 at an edge: the bits of the Stride that ends join the open frames; at a Stride divisible by 8 each selected path has a
frame ready (R379). -/
def Chip.rawEdge (c : Chip) (inp : StrideInputs) : Chip :=
  let paths := c.streamMask 1
  let x := (c.stream 1).at c.stride
  let x := if x.due.isSome then c.recordRaw inp paths x else x
  let x := if c.stride % 8 = 0 then
      { x.cleared with ready := x.ready ++ c.rawFrames paths x, firstStride := c.stride, firstClock := c.tim.clock }
    else x
  c.setStream 1 fun _ => { x with due := some (c.stride + 1) }

/-- A stream at a Stride edge: it starts or resumes at a Stride divisible by 8; a running one whose link is up records. -/
def Chip.streamEdge (c : Chip) (inp : StrideInputs) (s : Nat) : Chip :=
  let x := c.stream s
  let n := c.streamPort s
  let begins := x.active && x.starting && decide (c.stride % 8 = 0)
  let c := if begins then
      ((c.setStream s fun x => { x.cleared with starting := false }).showStream s true false).raiseEv netPage 2
    else c
  if ¬ c.flag (NET_STR_ST_running s) then c
  else if ¬ c.netRuns n then c.setStream s fun x => { x.cleared with ready := [] }
  else if s = 0 then c.waveformEdge
  else c.rawEdge inp

/-- A running stream sends its next ready frame (R377), or drops it where its queue is full (R380). -/
def streamFrameSend (s : Nat) (c : Chip) : Chip :=
  if 2 ≤ s then c
  else
    let x := c.stream s
    let n := c.streamPort s
    match x.ready with
    | [] => c
    | (flags, head, payload) :: rest =>
      let q := min 6 (c.rd (NET_STR_CFG_queue s))
      if Config.txQueueFrames ≤ (c.txQueue n q).length then
        ((c.setStream s fun x => { x with ready := rest, lost := true }).incSat (NET_STR_DROP_count s)).raiseEv netPage 4
      else
        let head := head.take 10 ++ leBytes 2 (flags ||| x.lost.toNat) ++ head.drop 12
        let seq := c.rd (NET_STR_SEQ_seq s)
        let tag := if c.flag (NET_STR_CFG_tagged s) then
            [0x81, 0x00] ++ beBytes 2 (c.rd (NET_STR_CFG_pcp s) * 8192 + c.rd (NET_STR_CFG_vid s))
          else []
        let bytes := beBytes 6 (c.rd64 (NET_STR_DST_LO_mac s) (NET_STR_DST_HI_mac s)) ++ beBytes 6 (c.ownMac n) ++ tag ++ [0x88, 0xB6] ++
          [1, 1 + s, s, c.streamK s] ++ leBytes 4 seq ++ head ++ payload
        ((c.setStream s fun x => { x with ready := rest, lost := false }).inc (NET_STR_SEQ_seq s)).enqueue n q { bytes := padded bytes }

/-- STREAM_FRAME_SEND (R377). -/
def execStreamFrameSend (s : Nat) (st : State) : Answer := st.effect (streamFrameSend s)

/-! ### Links (R371) -/

/-- A link down on an enabled port is a Module-level fault (R384): the code of NET_PSTATUS.link_up, unit n. -/
def Chip.showLinkFault (c : Chip) (n : Nat) : Chip :=
  c.faultIs 5 0x5100 n (decide (n < c.variant.nets) && c.flag (NET_PCTRL_en n) && !c.flag (NET_PSTATUS_link_up n))

/-- NET_PSTATUS.link_up and NET_STATUS.link_up. -/
def Chip.setLink (c : Chip) (n : Nat) (up tenG : Bool) : Chip :=
  ((c.setFlag (NET_PSTATUS_link_up n) up).setFlag (NET_PSTATUS_is_10g n) (up && tenG)).setFlag (NET_STATUS_link_up.bitOf n) up

/-- Block lock or completed auto-negotiation under the port's speed setting: the link comes up (R371), and streams are checked against
its rate (R380). -/
def netLinkUp (n : Nat) (tenG : Bool) (c : Chip) : Chip :=
  let sp := c.rd (NET_PCTRL_speed n)
  let allowed := if sp = 1 then tenG else if sp = 2 then !tenG else tenG == (c.netPort n).tries10g
  if c.variant.nets ≤ n ∨ ¬ c.flag (NET_PCTRL_en n) ∨ c.flag (NET_PSTATUS_link_up n) ∨ ¬ allowed then c
  else
    let c := ((c.setLink n true tenG).setFlag (NET_PSTATUS_los n) false).raiseEv (ntpPage n) 0
    let c := c.setNetPort n fun p => { p with trying := 0 }
    (((c.showLinkFault n).recheckStream n 0).recheckStream n 1).startTx n

/-- NET_LINK_UP (R371). -/
def execNetLinkUp (n : Nat) (tenG : Bool) (s : State) : Answer := s.effect (netLinkUp n tenG)

/-- The link of port n goes down: the frame on the line is lost and counted in TX_DROP (R383). -/
def Chip.linkDown (c : Chip) (n : Nat) : Chip :=
  if ¬ c.flag (NET_PSTATUS_link_up n) then c.showLinkFault n
  else
    let c := (c.setLink n false false).raiseEv (ntpPage n) 1
    let c := match (c.netPort n).sending with
      | none => c
      | some f =>
        let c := (c.incSat (NET_TX_DROP_count n)).setNetPort n fun p => { p with sending := none }
        match f.descriptor with
        | some (r, i) => c.txDone r i f.stamp true
        | none => c
    (c.setNetPort n fun p => { p with trying := 0, tries10g := true, pausedTo := 0 }).showLinkFault n

/-- 10 ms of lost lock or sync, or NETn_LOS (R371). -/
def netLinkDown (n : Nat) (los : Bool) (c : Chip) : Chip :=
  if c.variant.nets ≤ n then c else (c.setFlag (NET_PSTATUS_los n) los).linkDown n

/-- NET_LINK_DOWN (R371). -/
def execNetLinkDown (n : Nat) (los : Bool) (s : State) : Answer := s.effect (netLinkDown n los)

/-- With speed 0 an attempt of 500 ms ends and the other mode is tried (R371). -/
def netSpeedTry (n : Nat) (c : Chip) : Chip :=
  let sp := c.rd (NET_PCTRL_speed n)
  if c.variant.nets ≤ n ∨ ¬ c.flag (NET_PCTRL_en n) ∨ c.flag (NET_PSTATUS_link_up n) ∨ sp = 1 ∨ sp = 2 ∨
      (c.netPort n).trying < 4000 then c
  else c.setNetPort n fun p => { p with trying := 0, tries10g := !p.tries10g }

/-- NET_SPEED_TRY (R371). -/
def execNetSpeedTry (n : Nat) (s : State) : Answer := s.effect (netSpeedTry n)

/-- NETn_MOD_ABS changes (R383). -/
def modAbsChange (n : Nat) (high : Bool) (c : Chip) : Chip :=
  if c.variant.nets ≤ n ∨ c.flag (NET_PSTATUS_mod_abs n) = high then c
  else (c.setFlag (NET_PSTATUS_mod_abs n) high).raiseEv (ntpPage n) 3

/-- MOD_ABS_CHANGE (R383). -/
def execModAbsChange (n : Nat) (high : Bool) (s : State) : Answer := s.effect (modAbsChange n high)

/-! ### Receive (R372, R373) -/

/-- A dropped frame is counted and raises port event 2. -/
def Chip.rxDrop (c : Chip) (n : Nat) (f : Fld) : Chip := (c.incSat f).raiseEv (ntpPage n) 2

/-- The VID of a tagged frame. -/
def vidOf (bs : List Nat) : Nat := frameBe bs 14 2 % 4096

/-- The VID of a tagged frame is in a valid NET_VLAN entry. -/
def Chip.vidKnown (c : Chip) (v : Nat) : Bool := (List.range 64).any fun i => c.flag (NET_VLAN_valid i) && c.rd (NET_VLAN_vid i) == v

/-- Steering rule i matches a frame of port n (R372). -/
def Chip.ruleMatches (c : Chip) (n i : Nat) (bs : List Nat) : Bool :=
  let dst := frameBe bs 0 6
  let d := c.rd (NET_RULE_MATCH_dst i)
  c.flag (NET_RULE_ACT_en i) &&
    (c.flag (NET_RULE_MATCH_etype_any i) || etherType bs == c.rd (NET_RULE_MATCH_etype i)) &&
    (c.flag (NET_RULE_MATCH_vid_any i) || (tagged bs && vidOf bs == c.rd (NET_RULE_MATCH_vid i))) &&
    (if d = 0 then true else if d = 1 then dst == c.ownMac n
      else if d = 2 then nth bs 0 % 2 == 1 && dst != 0xFFFFFFFFFFFF else dst == 0xFFFFFFFFFFFF) &&
    (c.flag (NET_RULE_ACT_udp_any i) || udpPort bs == some (c.rd (NET_RULE_ACT_udp i)))

/-- Where a received frame goes. -/
inductive Steer where
  | crcError | foreign | vlan | saf | ring (r : Nat)
  deriving DecidableEq, Repr

/-- The rows of R372 in their order, for a frame with its FCS. -/
def Chip.steer (c : Chip) (n : Nat) (frame : List Nat) : Steer :=
  let bs := frame.take (frame.length - 4)
  let dst := frameBe bs 0 6
  if frame.length < 64 ∨ c.maxLen n < frame.length ∨ ofLe (frame.drop (frame.length - 4)) ≠ crc32 bs then .crcError
  else if dst ≠ c.ownMac n ∧ nth bs 0 % 2 = 0 then .foreign
  else if tagged bs ∧ c.flag NET_VLAN_CFG_filter_en ∧ ¬ c.vidKnown (vidOf bs) then .vlan
  else if ¬ tagged bs ∧ ¬ c.flag NET_VLAN_CFG_untagged then .vlan
  else if etherType bs = 0x88B5 then .saf
  else if (ptpAt bs).isSome then .ring 7
  else match (List.range 16).find? fun i => c.ruleMatches n i bs with
    | some i => .ring (c.rd (NET_RULE_ACT_ring i))
    | none => .ring (c.rd NET_DEF_RING_ring)

/-- The bytes of a FIFO. -/
def fifoBytes (l : List RxFrame) : Nat := (l.map fun f => f.bytes.length).foldl (· + ·) 0

/-- NET_FABRIC_STALL takes the time that the FIFO of port n was above half full until now (R373). -/
def Chip.noteStall (c : Chip) (n : Nat) : Chip :=
  let p := c.netPort n
  let run := p.stall + (match p.above with
    | some t => c.netNow - t
    | none => 0)
  let c := if run < 100 then c else c.put (NET_FABRIC_STALL_us n) (satN 32 (c.rd (NET_FABRIC_STALL_us n) + run / 100))
  c.setNetPort n fun p => { p with stall := run % 100, above := if 65536 < fifoBytes p.fifo then some c.netNow else none }

/-- The index of the oldest of the queued frames with the lowest priority. -/
def lowestPcp (l : List RxFrame) : Option Nat :=
  let m := (l.map RxFrame.pcp).foldl min 9
  l.findIdx? fun f => f.pcp == m

/-- An arriving frame enters the 128 KiB FIFO; each displaced frame, or the arriving one, is counted (R373). -/
def Chip.enterFifo (c : Chip) (n : Nat) (f : RxFrame) : Nat → Chip
  | 0 => c.rxDrop n (NET_RX_DROP_FIFO_count n)
  | fuel + 1 =>
    let l := (c.netPort n).fifo
    if fifoBytes l + f.bytes.length ≤ 131072 then c.setNetPort n fun p => { p with fifo := l ++ [f] }
    else match lowestPcp l with
      | none => c.rxDrop n (NET_RX_DROP_FIFO_count n)
      | some k =>
        if (l.map RxFrame.pcp).getD k 9 < f.pcp then
          ((c.setNetPort n fun p => { p with fifo := l.eraseIdx k }).rxDrop n (NET_RX_DROP_FIFO_count n)).enterFifo n f fuel
        else c.rxDrop n (NET_RX_DROP_FIFO_count n)

/-- The receive time-stamp of a Pdelay_Req is kept for its turnaround, for up to four domains (R74). -/
def Chip.notePdelay (c : Chip) (n stamp : Nat) (bs : List Nat) : Chip :=
  match ptpAt bs with
  | none => c
  | some k =>
    let d := nth bs (k + 4)
    let held := (c.netPort n).requests
    if nth bs k % 16 ≠ 2 ∨ (Sparse.get (fun _ => 0) held d = 0 ∧ 4 ≤ held.length) then c
    else c.setNetPort n fun p => { p with requests := Sparse.set (fun _ => 0) p.requests d stamp }

/-- A PAUSE frame of clause 31, to its group address or to the port's own. -/
def Chip.isPause (c : Chip) (n : Nat) (bs : List Nat) : Bool :=
  (frameBe bs 0 6 == 0x0180C2000001 || frameBe bs 0 6 == c.ownMac n) && frameBe bs 12 2 == 0x8808 && frameBe bs 14 2 == 1

/-- A frame arrives at port n, its FCS included (R372). A PAUSE frame is honoured where NET_PCTRL.pause_rx is 1 (R371). -/
def netFrameReceive (n : Nat) (frame : List Nat) (cyc : Nat) (c : Chip) : Chip :=
  let c := c.advanceTo cyc
  if ¬ c.netRuns n then c
  else
    let bs := frame.take (frame.length - 4)
    let stamp := c.rxStamp n c.tim.clock
    let pcp := if tagged bs then frameBe bs 14 2 / 8192 else 0
    match c.steer n frame with
    | .crcError => c.rxDrop n (NET_RX_CRC_ERR_count n)
    | way =>
      if c.isPause n bs ∧ c.flag (NET_PCTRL_pause_rx n) then
        let q := frameBe bs 16 2 * (if c.flag (NET_PSTATUS_is_10g n) then 512 else 5120)
        (c.setNetPort n fun p => { p with pausedTo := c.netNow + (q + 99) / 100 }).startTx n
      else match way with
        | .saf => (c.incSat (NET_RX_FRAMES_count n)).enterFifo n ⟨bs, 8, none, stamp⟩ 4096 |>.noteStall n
        | .ring r => ((c.incSat (NET_RX_FRAMES_count n)).notePdelay n stamp bs).enterFifo n ⟨bs, pcp, some r, stamp⟩ 4096
          |>.noteStall n
        | .vlan => c.rxDrop n (NET_RX_DROP_VLAN_count n)
        | _ => c

/-- NET_FRAME_RECEIVE (R372). -/
def execNetFrameReceive (n : Nat) (frame : List Nat) (cyc : Nat) (s : State) : Answer := s.effect (netFrameReceive n frame cyc)

/-- A frame goes into ring r, or is dropped: no free descriptor, or an address outside the region (R373, R374). -/
def Chip.intoRing (c : Chip) (n r : Nat) (f : RxFrame) : Chip :=
  let size := c.rxSize r
  let h := c.rd (NET_RX_HEAD_idx r) % size
  if (h + 1) % size = c.rd (NET_RX_TAIL_idx r) % size then c.rxDrop n (NET_RX_DROP_RING_count n)
  else
    let d := c.rxDescriptor r h
    let b := Memory.le c.mem (trafficBase + d) 4
    let ok := c.inRegion r d 16 && c.inRegion r b f.bytes.length
    let c := if ok then c.setBytes (trafficBase + b) f.bytes else (c.raiseEv (ntpPage n) 2).raiseEv netPage 5
    let c := c.closeDescriptor r d (f.bytes.length % 0x10000 + 0x10000 + 0x20000 * (!ok).toNat) f.stamp
    (c.put (NET_RX_HEAD_idx r) ((h + 1) % size)).raiseEv netPage 0

/-- The oldest frame of the FIFO of port n is written to its ring, or handed to the SAF block (R321, R373). -/
def netRingDeliver (n cyc : Nat) (c : Chip) : Chip :=
  let c := c.advanceTo cyc
  if c.variant.nets ≤ n ∨ ¬ c.flag NET_CTRL_en then c
  else match (c.netPort n).fifo with
    | [] => c
    | f :: rest =>
      let c := (c.setNetPort n fun p => { p with fifo := rest }).noteStall n
      match f.ring with
      | some r => c.intoRing n r f
      | none => c.safetyCopy n ((f.bytes.drop (typeAt f.bytes + 2)).take 48)

/-- NET_RING_DELIVER (R373). -/
def execNetRingDeliver (t : Timed) (s : State) : Answer := s.effect (netRingDeliver t.index t.cycle)

/-! ### Transmit descriptors (R375) -/

/-- TX descriptor i of ring r is queued on its port, or completes with error. -/
def Chip.queueDescriptor (c : Chip) (r i : Nat) : Chip :=
  let d := c.txDescriptor r i
  let b := Memory.le c.mem (trafficBase + d) 4
  let w := Memory.le c.mem (trafficBase + d + 4) 4
  let len := w % 0x10000
  let n := w / 0x40000 % 2
  let q := w / 0x100000 % 8
  let c := c.setNet fun x =>
    { x with
      queued := Sparse.set (fun _ => []) x.queued r (Sparse.get (fun _ => []) x.queued r ++ [i])
      next := Sparse.set (fun _ => 0) x.next r ((i + 1) % c.txSize r) }
  if ¬ c.inRegion r d 16 ∨ ¬ c.inRegion r b len ∨ c.variant.nets ≤ n ∨ q = 7 ∨ c.maxLen n < len + 4 then
    c.txDone r i c.tim.clock true
  else
    c.enqueue n q { bytes := padded (c.bytes (trafficBase + b) len), descriptor := some (r, i), oneStep := bit w 19 }

/-- The descriptors up to NET_TX_TAIL are queued. -/
def Chip.pumpRing (c : Chip) (r : Nat) : Nat → Chip
  | 0 => c
  | fuel + 1 =>
    let i := Sparse.get (fun _ => 0) c.net.next r % c.txSize r
    if ¬ c.flag NET_CTRL_en ∨ i = c.rd (NET_TX_TAIL_idx r) % c.txSize r then c
    else (c.queueDescriptor r i).pumpRing r fuel

/-- Software advances NET_TX_TAIL (R376). -/
def netTxTailWrite (acc : Access) (r v cyc : Nat) (c : Chip) : Chip :=
  if 8 ≤ r then c
  else (c.advanceTo cyc).write acc (NET_TX_TAIL r).addr v fun c => (c.put (NET_TX_TAIL_idx r) v).pumpRing r 1024

/-- NET_TX_TAIL_WRITE (R376). -/
def execNetTxTailWrite (acc : Access) (r v cyc : Nat) (s : State) : Answer := s.effect (netTxTailWrite acc r v cyc)

/-- The frame on the line of port n ends; the next one starts (R376). -/
def netFrameSent (n cyc : Nat) (c : Chip) : Chip :=
  let c := c.advanceTo cyc
  if ¬ c.netRuns n then c
  else match (c.netPort n).sending with
    | none => c.startTx n
    | some f =>
      let c := (c.incSat (NET_TX_FRAMES_count n)).setNetPort n fun p => { p with sending := none, last := some f }
      let c := match f.descriptor with
        | some (r, i) => c.txDone r i f.stamp false
        | none => c
      c.startTx n

/-- NET_FRAME_SENT (R376). -/
def execNetFrameSent (n cyc : Nat) (s : State) : Answer := s.effect (netFrameSent n cyc)

/-- The TX descriptors of ring r up to NET_TX_TAIL that the engine has not taken up. -/
def Chip.untakenTx (c : Chip) (r : Nat) : List Nat :=
  let size := c.txSize r
  let i := Sparse.get (fun _ => 0) c.net.next r % size
  (List.range ((c.rd (NET_TX_TAIL_idx r) % size + size - i) % size)).map fun k => (i + k) % size

/-- Every TX descriptor of ring r up to NET_TX_TAIL completes with error, but for one whose frame is on the line (R381). -/
def Chip.failTx (c : Chip) (r : Nat) : Chip :=
  let line := (List.range c.variant.nets).filterMap fun n => (c.netPort n).sending.bind fun f => f.descriptor
  let l := Sparse.get (fun _ => []) c.net.queued r ++ c.untakenTx r
  let c := c.setNet fun x =>
    { x with
      queued := Sparse.set (fun _ => []) x.queued r l
      next := Sparse.set (fun _ => 0) x.next r (c.rd (NET_TX_TAIL_idx r) % c.txSize r) }
  l.foldl (fun (c : Chip) i => if line.contains (r, i) then c else c.txDone r i c.tim.clock true) c

/-- NET_RING_CFG.plane of ring r is rewritten: frames for the ring that wait in a FIFO are discarded, its queued descriptors complete
with error (R381). Ring 7 stays with the management plane (R374). -/
def Chip.setRingPlane (c : Chip) (r p : Nat) : Chip :=
  if r = 7 then c
  else
    let c := forN c.variant.nets (fun n c =>
      Chip.noteStall (n := n) <| c.setNetPort n fun x =>
        { x with
          fifo := x.fifo.filter fun f => f.ring != some r
          queues := x.queues.filterMap fun q =>
            let l := q.2.filter fun f => (f.descriptor.map (·.1)) != some r
            if l.isEmpty then none else some (q.1, l) }) c
    (c.failTx r).put (NET_RING_CFG_plane r) p

/-- A write of NET_RING_CFG.plane, by the management plane only (R374, R382). -/
def ringPlaneWrite (acc : Access) (r p cyc : Nat) (c : Chip) : Chip :=
  if 8 ≤ r then c
  else (c.advanceTo cyc).write acc (NET_RING_CFG r).addr (p % 4) fun c => if initiatorPlane acc.by_ = 2 then c.setRingPlane r p else c

/-- RING_PLANE_WRITE (R381). -/
def execRingPlaneWrite (acc : Access) (t : Timed) (p : Nat) (s : State) : Answer := s.effect (ringPlaneWrite acc t.index p t.cycle)

/-! ### Register writes with an effect of their own, and the Stride edge -/

/-- NET_PCTRL has a new enable or speed: a disabled port loses its link, and a port without a link begins anew, with 500 ms of 10GBASE-R
where the speed is 0 (R371, R383). -/
def Chip.netPctrlWritten (c : Chip) (n : Nat) : Chip :=
  let c := if c.txDisable n then c.linkDown n else c.showLinkFault n
  if c.flag (NET_PSTATUS_link_up n) then c else c.setNetPort n fun p => { p with trying := 0, tries10g := true }

/-- NET_CTRL has been written: an enabled engine takes up the rings and the ports. -/
def Chip.netCtrlWritten (c : Chip) : Chip :=
  let c := forN 8 (fun r c => c.pumpRing r 1024) c
  forN c.variant.nets (fun n c => c.startTx n) c

/-- The ports at a Stride edge: attempts age, NET_FABRIC_STALL takes up to now, and an idle port starts what its limits or a pause held
back (R371, R373, R376). -/
def Chip.netEdge (c : Chip) (inp : StrideInputs) : Chip :=
  let c := c.setNet fun x => { x with cycles := x.cycles + strideCycles }
  let c := forN c.variant.nets (fun n c =>
    let c := if c.flag (NET_PCTRL_en n) && !c.flag (NET_PSTATUS_link_up n) then
        c.setNetPort n fun p => { p with trying := min 4000 (p.trying + 1) }
      else c
    (c.noteStall n).startTx n) c
  (c.streamEdge inp 0).streamEdge inp 1

end Sys2Proof.Machine
end

