-- ==== Sys2Proof/Machine/MainsLink.lean ====
section
/-! DEFINITION. The mains link: its zero-crossing tracker, reception, transmission and faults (R385–R405). -/

namespace Sys2Proof.Machine

/-- The block with the mains link's hidden part changed. -/
def Chip.setMlk (c : Chip) (f : Mains → Mains) : Chip := { c with mlk := f c.mlk }

/-- The global page and the page of coupler x. -/
def mlkPage : Nat := 0x40540000
def mlcPage (x : Nat) : Nat := 0x40541000 + x * 0x1000

/-- The variant has a mains link (R3). -/
def Chip.hasMains (c : Chip) : Bool := Blk.count c.variant .mlk == 1

/-- The reference phase, 0–2 (R402). -/
def Chip.refPhase (c : Chip) : Nat := if c.rd MLK_CFG_ref_phase = 3 then 0 else c.rd MLK_CFG_ref_phase

/-- The link runs at S = 20. -/
def Chip.hz60 (c : Chip) : Bool := c.flag MLK_STATUS_is_60hz

/-- By how many times 120° coupler x lags PH1: phase_rev exchanges PH2 and PH3 (R386). -/
def Chip.phaseLag (c : Chip) (x : Nat) : Nat := if c.flag MLK_CFG_phase_rev then (3 - x) % 3 else x

/-! ### Tones (R387) -/

/-- The four tone codes. -/
def Chip.tones (c : Chip) : List Nat :=
  [c.rd MLK_TONE_A_f0, c.rd MLK_TONE_A_f1, c.rd MLK_TONE_B_f0, c.rd MLK_TONE_B_f1]

/-- The band of R387 that holds all tones at least 1 kHz from its edges, in 0.5 kHz units: 0 A, 1 B, 2 C, 3 D. -/
def toneBand (l : List Nat) : Option Nat :=
  let inside (lo hi : Nat) : Bool := l.all fun t => decide (lo + 2 ≤ t) && decide (t + 2 ≤ hi)
  if inside 18 190 then some 0 else if inside 190 250 then some 1 else if inside 250 280 then some 2
  else if inside 280 297 then some 3 else none

/-- A tone set is valid: distinct, a whole multiple of 4 kHz apart, inside one band (R387). -/
def tonesValid (l : List Nat) : Bool :=
  decide l.Nodup && l.all (fun t => decide (t % 8 = l.headD 0 % 8)) && (toneBand l).isSome

/-- MLK_STATUS.cfg_invalid and band follow the configuration. -/
def Chip.checkMains (c : Chip) : Chip :=
  let bad := !tonesValid c.tones || c.rd MLK_CFG_tx_mask == 0 || c.rd MLK_CFG_rx_mask == 0
  (c.setFlag MLK_STATUS_cfg_invalid bad).put MLK_STATUS_band ((toneBand c.tones).getD 0)

/-- The tone set lies in band C. -/
def Chip.bandC (c : Chip) : Bool := toneBand c.tones == some 2

/-- The link runs. -/
def Chip.mainsRuns (c : Chip) : Bool := c.hasMains && c.flag MLK_CTRL_en && !c.flag MLK_STATUS_cfg_invalid

/-! ### Frames that end early -/

/-- The transmit state is shown; tx_busy while a frame waits or is sent. -/
def Chip.setTx (c : Chip) (state : Nat) : Chip :=
  (c.put MLK_TX_ST_state state).setFlag MLK_STATUS_tx_busy (state == 1 || state == 2)

/-- A fresh backoff of 0–15 half-cycles: a free value (R400). -/
def Chip.newBackoff (c : Chip) : Chip :=
  let (v, c) := c.draw
  c.setMlk fun m => { m with backoff := v % 16 }

/-- A frame that waits or is sent is aborted and counted (R400, R401). -/
def Chip.abortTx (c : Chip) : Chip :=
  let st := c.rd MLK_TX_ST_state
  if st ≠ 1 ∧ st ≠ 2 then c
  else
    let c := c.setMlk fun m =>
      { m with
        frame := [], line := [], left := 0, aborting := none, gap := if st = 2 then 0 else m.gap
        ended := if st = 2 then some c.netNow else m.ended }
    (((c.setTx 5).incSat MLK_TX_ABORT_count)).raiseEv mlkPage 2

/-- A frame being received is aborted and counted; the line is free, and a waiting frame draws a new backoff (R400, R401). -/
def Chip.abortRx (c : Chip) : Chip :=
  if c.mlk.receiving.isNone then c
  else
    let c := ((c.setMlk fun m => { m with receiving := none }).setFlag MLK_STATUS_rx_busy false).incSat MLK_RX_ABORT_count
    if c.rd MLK_TX_ST_state = 1 then c.newBackoff else c

/-! ### The zero-crossing tracker (R390, R391) -/

/-- The half-period estimate P in REFCLK cycles. -/
def Chip.halfPeriod (c : Chip) : Nat :=
  (rheDiv (c.mlk.periods.foldl (· + ·) 0 : Nat) (c.mlk.periods.length : Nat)).toNat

/-- MLK_HALFPER shows P in 0.1 µs. -/
def Chip.showHalfPeriod (c : Chip) : Chip :=
  c.put MLK_HALFPER_p (rheDiv (c.mlk.periods.foldl (· + ·) 0 : Nat) ((10 * c.mlk.periods.length : Nat) : Int)).toNat

/-- A half-cycle starts at its crossing, so many REFCLK cycles ago, plus MLK_ZC_OFS (R392, R402). -/
def Chip.startHalf (c : Chip) (ago : Nat) : Chip :=
  let ofs : Int := 100 * max (-2000) (min 2000 (c.rdS MLK_ZC_OFS_us)) - (ago : Nat)
  c.setMlk fun m =>
    { m with start := ((c.tim.clock : Int) + 10 * ofs * 2 ^ 32).toNat, begun := ((c.netNow : Int) + ofs).toNat }

/-- The REFCLK cycle at which symbol i of the half-cycle that runs starts: symbols of length P / S each (R392). -/
def Chip.symbolStart (c : Chip) (i : Nat) : Nat :=
  c.mlk.begun + (i * c.halfPeriod + symbols c.hz60 - 1) / symbols c.hz60

/-- The next symbol boundary (R392, R400). -/
def Chip.nextSymbol (c : Chip) : Nat :=
  if c.netNow < c.mlk.begun then c.mlk.begun
  else c.symbolStart (min (symbols c.hz60) ((c.netNow - c.mlk.begun) * symbols c.hz60 / c.halfPeriod + 1))

/-- The next crossing of the reference phase that the last crossing of coupler x predicts, by the phase relation of R386: 120° are two
thirds of a half-period (R392). -/
def Chip.referenceCrossing (c : Chip) (x : Nat) : Option Nat :=
  (Sparse.get (fun _ => none) c.mlk.edges x).map fun t =>
    t + 2 * (c.phaseLag c.refPhase + 3 - c.phaseLag x) % 3 * c.halfPeriod / 3

/-- A crossing, accepted or flywheeled: half-cycles pass for a frame on the line, for the gap after one, and for a backoff while the line
is free (R400). -/
def Chip.halfCycle (c : Chip) : Chip :=
  c.setMlk fun m =>
    { m with
      crossed := true
      left := m.left - 1
      gap := if c.rd MLK_TX_ST_state = 2 then 0 else min 4 (m.gap + 1)
      backoff := if c.rd MLK_TX_ST_state = 1 ∧ m.receiving = none then m.backoff - 1 else m.backoff }

/-- Lock is gained: P, the mains frequency and S follow (R390). -/
def Chip.gainLock (c : Chip) (t : Nat) : Chip :=
  let n := c.mlk.periods.length
  let sum := c.mlk.periods.foldl (· + ·) 0
  let k := c.rd MLK_CFG_mains
  let hz60 := if k = 1 then false else if k = 2 then true else !decide (100000000 * n < 110 * sum)
  let c := ((c.setFlag MLK_STATUS_locked true).setFlag MLK_STATUS_is_60hz hz60).put MLK_ZC_ST_run 0
  let c := (c.showHalfPeriod).raiseEv mlkPage 3
  (c.setMlk fun m => { m with crossing := some t, next := t + c.halfPeriod, unlocked := 0 }).startHalf 0

/-- Lock is lost: frames in progress are aborted, and the tracker reacquires (R391, R401). -/
def Chip.loseLock (c : Chip) : Chip :=
  let c := ((c.setFlag MLK_STATUS_locked false).raiseEv mlkPage 4).abortRx
  let c := if c.rd MLK_TX_ST_state = 2 then c.abortTx else c
  c.setMlk fun m => { m with run := 0, periods := [], crossing := none, crossed := false }

/-- The tracker takes an edge of the reference input at cycle t, with its spacing from the edge before. -/
def Chip.trackEdge (c : Chip) (t : Nat) (spacing : Option Nat) : Chip :=
  if ¬ c.flag MLK_STATUS_locked then
    match spacing with
    | some d =>
      if 769000 ≤ d ∧ d ≤ 1111000 then
        let c := c.setMlk fun m => { m with run := m.run + 1, periods := (d :: m.periods).take 16 }
        if 8 ≤ c.mlk.run then c.gainLock t else c
      else c.setMlk fun m => { m with run := 1, periods := [] }
    | none => c.setMlk fun m => { m with run := 1, periods := [] }
  else if t + 20000 < c.mlk.next ∨ c.mlk.next + 20000 < t then c
  else
    let c := match c.mlk.crossing with
      | some p => c.setMlk fun m => { m with periods := ((t - p) :: m.periods).take 16 }
      | none => c
    let c := (c.showHalfPeriod).put MLK_ZC_ST_run 0
    ((c.setMlk fun m => { m with crossing := some t, next := t + c.halfPeriod }).startHalf 0).halfCycle

/-- An edge of MLK_PHx_ZC: edges at mains rate show sense_ok; those of the reference phase drive the tracker of an enabled link (R390,
R391, R403). -/
def mainsZcEdge (x cyc : Nat) (c : Chip) : Chip :=
  let c := c.advanceTo cyc
  if ¬ c.hasMains ∨ 3 ≤ x then c
  else
    let t := c.netNow
    let spacing := (Sparse.get (fun _ => none) c.mlk.edges x).map (t - ·)
    let c := c.setMlk fun m => { m with edges := Sparse.set (fun _ => none) m.edges x (some t) }
    let ok := match spacing with
      | some d => decide (769000 ≤ d) && decide (d ≤ 1111000)
      | none => false
    let c := if ok then (c.setFlag (MLK_CSTATUS_sense_ok x) true).clearFault 5 0x5500 x else c
    if x = c.refPhase ∧ c.flag MLK_CTRL_en then c.trackEdge t spacing else c

/-- MAINS_ZC_EDGE (R391). -/
def execMainsZcEdge (x cyc : Nat) (s : State) : Answer := s.effect (mainsZcEdge x cyc)

/-- A predicted crossing has passed by 200 µs with no accepted edge: a miss, on which the tracker flywheels; the eighth loses lock
(R391). -/
def zcPredictedCrossing (cyc : Nat) (c : Chip) : Chip :=
  let c := c.advanceTo cyc
  if ¬ c.hasMains ∨ ¬ c.flag MLK_STATUS_locked ∨ c.netNow ≤ c.mlk.next + 20000 then c
  else
    let c := (c.inc MLK_ZC_ST_run).incSat MLK_ZC_ST_misses
    let c := c.startHalf (c.netNow - c.mlk.next)
    let c := (c.setMlk fun m => { m with crossing := none, next := m.next + c.halfPeriod }).halfCycle
    if 8 ≤ c.rd MLK_ZC_ST_run then c.loseLock else c

/-- ZC_PREDICTED_CROSSING (R391). -/
def execZcPredictedCrossing (cyc : Nat) (s : State) : Answer := s.effect (zcPredictedCrossing cyc)

/-- A coupler's sense input stops toggling at mains rate (R403); on the reference phase that is a Module-level fault (R405). -/
def zcSenseLoss (x : Nat) (c : Chip) : Chip :=
  if ¬ c.hasMains ∨ 3 ≤ x ∨ ¬ c.flag (MLK_CSTATUS_sense_ok x) then c
  else
    let c := (c.setFlag (MLK_CSTATUS_sense_ok x) false).raiseEv (mlcPage x) 1
    if x = c.refPhase then c.setFault 5 0x5500 x else c

/-- ZC_SENSE_LOSS (R403). -/
def execZcSenseLoss (x : Nat) (s : State) : Answer := s.effect (zcSenseLoss x)

/-- A coupler's driver current exceeds 1.5 A peak or its coupler opens, or neither any longer: drv_fault, a Module-level fault (R403,
R405). -/
def couplerDriverFault (x : Nat) (bad : Bool) (c : Chip) : Chip :=
  if ¬ c.hasMains ∨ 3 ≤ x ∨ c.flag (MLK_CSTATUS_drv_fault x) = bad then c
  else
    let c := (c.setFlag (MLK_CSTATUS_drv_fault x) bad).faultIs 5 0x5501 x bad
    if bad then c.raiseEv (mlcPage x) 0 else c

/-- COUPLER_DRIVER_FAULT (R403). -/
def execCouplerDriverFault (x : Nat) (bad : Bool) (s : State) : Answer := s.effect (couplerDriverFault x bad)

/-! ### Reception (R396–R399) -/

/-- Coupler x contributes to half-cycle h: it is in rx_mask and the half-cycle holds fewer than imp_min hit symbols (R397). -/
def Chip.contributes (c : Chip) (rx : List MainsCoupler) (x h : Nat) : Bool :=
  match (rx.getD x {}).halves[h]? with
  | none => false
  | some half =>
    let hits := (half.outside.filter fun e => decide ((rx.getD x {}).noise + 10 * c.rd MLK_IMP_THR_db < e)).length
    bit (c.rd MLK_CFG_rx_mask) x && decide (hits < max 1 (c.rd MLK_CFG_imp_min))

/-- The soft metric of a pair of tones, positive for a 1: its sign is that of the stronger tone; its size over the coupler's noise floor
is a free value (R396, log 121). -/
def softMetric (low high noise : Nat) : Int :=
  let w : Int := ((Config.metricWeight low high noise + 1 : Nat) : Int)
  if low < high then w else if high < low then -w else 0

/-- Metric k of half-cycle h at a coupler, two per symbol: pair A, then pair B. -/
def couplerMetric (q : MainsCoupler) (h k : Nat) : Int :=
  match q.halves[h]? with
  | some half => softMetric (nth half.tones (2 * k)) (nth half.tones (2 * k + 1)) q.noise
  | none => 0

/-- A reception with each coupler's noise floor as sync measured it (R396). -/
def Chip.atFloor (c : Chip) (rx : List MainsCoupler) : List MainsCoupler :=
  (List.range 3).map fun x => { rx.getD x {} with noise := c.rd (MLK_CNOISE_floor x) }

/-- The combined metrics of half-cycle h, two per symbol; empty where it is erased (R396, R397). -/
def Chip.combined (c : Chip) (rx : List MainsCoupler) (h : Nat) : List Int :=
  let xs := (List.range 3).filter fun x => c.contributes rx x h
  if xs.isEmpty then []
  else (List.range (2 * symbols c.hz60)).map fun i =>
    sumI (xs.map fun x => couplerMetric (rx.getD x {}) h i)

/-- Sync is accepted: at least S − 2 symbols match on the combined metric (R396). -/
def Chip.syncAccepted (c : Chip) (rx : List MainsCoupler) : Bool :=
  let m := c.combined rx 0
  let good := (List.range (symbols c.hz60)).filter fun i =>
    let x := nthI m (2 * i) - nthI m (2 * i + 1)
    if bit 0x3AD94B i then decide (0 < x) else decide (x < 0)
  !m.isEmpty && decide (symbols c.hz60 ≤ good.length + 2)

/-- The F that the frame-control half-cycle carries: a copy that passes its parity, not two that differ (R396). -/
def Chip.controlField (c : Chip) (rx : List MainsCoupler) : Option Nat :=
  let m := c.combined rx 1
  let copy (k : Nat) : Nat := (List.range 10).foldl (fun x i =>
    if 0 < nthI m (2 * (10 * k + i)) + nthI m (2 * (10 * k + i) + 1) then x + 2 ^ i else x) 0
  if m.isEmpty then none
  else if controlOdd (copy 0) then
    (if controlOdd (copy 1) ∧ copy 1 ≠ copy 0 then none else some (copy 0))
  else if controlOdd (copy 1) then some (copy 1) else none

/-- MLK_RX_COUNT, the oldest entry and the level event 0 follow the FIFO (R402, R404). -/
def Chip.showMainsRx (c : Chip) : Chip :=
  let c := (c.put MLK_RX_COUNT_count c.mlk.fifo.length).setRaw mlkPage 0 (!c.mlk.fifo.isEmpty)
  match c.mlk.fifo with
  | [] => c
  | e :: _ =>
    let c := forN 66 (fun k c => c.put (MLK_RX_BUF_frame k) (ofLe ((e.bytes.drop (4 * k)).take 4))) c
    let c := (c.put MLK_RX_NS_ns (clockNs e.stamp)).put MLK_RX_SEC_sec (clockSec e.stamp)
    (((c.put MLK_RX_INFO_d (e.d - 16)).put MLK_RX_INFO_erased (satN 8 e.erased)).put MLK_RX_INFO_couplers e.couplers).setFlag
      MLK_RX_INFO_mode e.double

/-- A frame's content is checked and enters the FIFO (R399). -/
def Chip.mainsFrame (c : Chip) (x d erased couplers stamp : Nat) (double : Bool) : Chip :=
  let l := x / 2 ^ 48 % 256
  let bytes := leBytes (8 + l) x
  let crc := x / 2 ^ (8 * (8 + l)) % 2 ^ 32
  let dest := nth bytes 2
  if d < dataHalves c.hz60 double l ∨ crc ≠ crc32 bytes then (c.incSat MLK_RX_CRC_ERR_count).raiseEv mlkPage 5
  else if nth bytes 0 ≠ 1 ∨ (dest ≠ c.rd MLK_CFG_addr ∧ dest ≠ 255 ∧ ¬ c.flag MLK_CFG_promisc) then c
  else if 4 ≤ c.mlk.fifo.length then (c.incSat MLK_RX_LOST_count).raiseEv mlkPage 5
  else
    ((c.setMlk fun m => { m with fifo := m.fifo ++ [⟨bytes, stamp, d, erased, couplers, double⟩] }).incSat MLK_RX_OK_count).showMainsRx

/-- The half-cycles that a frame lost at each coupler are counted, and its SNR is shown (R403). -/
def Chip.couplerCounts (c : Chip) (rx : List MainsCoupler) : Chip :=
  forN 3 (fun x c =>
    let q := rx.getD x {}
    let lost := ((List.range q.halves.length).filter fun h => bit (c.rd MLK_CFG_rx_mask) x && !c.contributes rx x h).length
    (c.put (MLK_CERASE_count x) (satN 32 (c.rd (MLK_CERASE_count x) + lost))).putS (MLK_CSNR_snr x) q.snr) c

/-- The received frame ends: it is decoded, and a waiting frame draws a new backoff (R396–R399, R401). -/
def Chip.mainsEnd (c : Chip) (rx : List MainsCoupler) (stamp : Nat) : Chip :=
  let rx := c.atFloor rx
  let c := ((c.setMlk fun m => { m with receiving := none }).setFlag MLK_STATUS_rx_busy false).couplerCounts rx
  let c := if c.rd MLK_TX_ST_state = 1 then c.newBackoff else c
  match c.controlField rx with
  | none => c
  | some f =>
    let d := f % 256 + 16
    if 254 < d then c
    else
      let double := bit f 8
      let halves := (List.range d).map fun h => c.combined rx (h + 2)
      let erased := (halves.filter List.isEmpty).length
      let couplers := ((List.range 3).filter fun x => (List.range d).any fun h => c.contributes rx x (h + 2)).foldl (fun v x => v + 2 ^ x) 0
      c.mainsFrame (decodeHalves c.hz60 double d halves) d erased couplers stamp double

/-- A mains-link reception: with its sync half-cycle alone the frame begins, and its stamp is the start of the half-cycle that runs; with
all its half-cycles it ends (R396, R399). -/
def mainsFrameReceive (rx : List MainsCoupler) (cyc : Nat) (c : Chip) : Chip :=
  let c := c.advanceTo cyc
  if ¬ c.mainsRuns ∨ ¬ c.flag MLK_STATUS_locked ∨ c.rd MLK_TX_ST_state = 2 then c
  else match c.mlk.receiving with
    | none =>
      if ¬ c.syncAccepted rx then c
      else
        let c := forN 3 (fun x c => c.put (MLK_CNOISE_floor x) (satN 16 (rx.getD x {}).noise)) c
        (c.setMlk fun m => { m with receiving := some c.mlk.start }).setFlag MLK_STATUS_rx_busy true
    | some stamp => c.mainsEnd rx stamp

/-- MAINS_FRAME_RECEIVE (R399). -/
def execMainsFrameReceive (rx : List MainsCoupler) (cyc : Nat) (s : State) : Answer := s.effect (mainsFrameReceive rx cyc)

/-- MLK_RX_POP frees the oldest entry (R402). -/
def mainsRxPop (acc : Access) (v : Nat) (c : Chip) : Chip :=
  c.write acc MLK_RX_POP.addr v fun c =>
    if v % 2 = 0 then c else (c.setMlk fun m => { m with fifo := m.fifo.drop 1 }).showMainsRx

/-- MAINS_RX_POP (R402). -/
def execMainsRxPop (acc : Access) (v : Nat) (s : State) : Answer := s.effect (mainsRxPop acc v)

/-! ### Transmission (R400) -/

/-- H of the frame in MLK_TX_BUF. -/
def Chip.frameHalves (c : Chip) : Nat :=
  dataHalves c.hz60 (c.flag MLK_CFG_mode) (c.rd (MLK_TX_BUF_frame 1) / 65536 % 256) + 2

/-- Why a send is refused: the rows of R400 after the first, in their order. -/
def Chip.sendRefusal (c : Chip) : Option Nat :=
  if ¬ c.flag MLK_CTRL_en ∨ c.flag MLK_STATUS_cfg_invalid then some 5
  else if ¬ c.flag MLK_STATUS_locked then some 3
  else if c.isOff then some 4
  else if c.rd (MLK_TX_BUF_frame 0) % 256 ≠ 1 then some 1
  else if c.bandC ∧ 100000000 < c.frameHalves * c.halfPeriod then some 2
  else none

/-- A write of MLK_TX_CMD.send (R400). -/
def mainsSend (acc : Access) (v : Nat) (c : Chip) : Chip :=
  c.write acc MLK_TX_CMD.addr v fun c =>
    let st := c.rd MLK_TX_ST_state
    if v % 2 = 0 ∨ st = 1 ∨ st = 2 then c
    else match c.sendRefusal with
      | some r => ((c.setTx 4).put MLK_TX_ST_reason r).raiseEv mlkPage 2
      | none =>
        let l := c.rd (MLK_TX_BUF_frame 1) / 65536 % 256
        let bytes := ((List.range 66).flatMap fun k => leBytes 4 (c.rd (MLK_TX_BUF_frame k))).take (8 + l)
        let c := (c.setTx 1).put MLK_TX_ST_reason 0
        (c.setMlk fun m => { m with frame := bytes }).newBackoff

/-- MAINS_SEND (R400). -/
def execMainsSend (acc : Access) (v : Nat) (s : State) : Answer := s.effect (mainsSend acc v)

/-- MLK_TX_CMD.abort: a waiting frame is removed, a frame being sent ends at the next symbol boundary (R400). -/
def Chip.abortSend (c : Chip) : Chip :=
  if c.rd MLK_TX_ST_state = 2 then c.setMlk fun m => { m with aborting := some (m.aborting.getD c.nextSymbol) } else c.abortTx

/-- The symbol boundary at which an abort ends the frame being sent has come. -/
def Chip.abortDue (c : Chip) : Chip :=
  match c.mlk.aborting with
  | some t => if t ≤ c.netNow then c.abortTx.setMlk fun m => { m with ended := some t } else c
  | none => c

/-- A write of MLK_TX_CMD.abort (R400). -/
def mainsAbort (acc : Access) (v : Nat) (c : Chip) : Chip :=
  c.write acc MLK_TX_CMD.addr v fun c => if bit v 1 then c.abortSend else c

/-- MAINS_ABORT (R400). -/
def execMainsAbort (acc : Access) (v : Nat) (s : State) : Answer := s.effect (mainsAbort acc v)

/-- At a crossing a waiting frame starts when the line is free, the band-C conditions hold, 4 half-cycles have passed since the last
frame and the backoff has elapsed (R389, R400). The operand is the band-in-use detector. -/
def mainsTxStart (bandBusy : Bool) (c : Chip) : Chip :=
  if ¬ c.hasMains then c
  else
    let c := c.setFlag MLK_STATUS_band_busy bandBusy
    let m := c.mlk
    let quiet : Bool := match m.ended with
      | some t => decide (t + 12500000 ≤ c.netNow)
      | none => true
    if ¬ c.mainsRuns ∨ c.isOff ∨ c.rd MLK_TX_ST_state ≠ 1 ∨ ¬ m.crossed ∨ m.receiving.isSome ∨ m.gap < 4 ∨ m.backoff ≠ 0 ∨
        (c.bandC ∧ (bandBusy ∨ ¬ quiet)) then c.setMlk fun m => { m with crossed := false }
    else
      let line := lineFrame c.hz60 (c.flag MLK_CFG_mode) m.frame
      ((c.setTx 2).put MLK_TX_ST_h (line.length - 1)).setMlk fun m => { m with crossed := false, line := line, left := line.length }

/-- MAINS_TX_START (R400). -/
def execMainsTxStart (bandBusy : Bool) (s : State) : Answer := s.effect (mainsTxStart bandBusy)

/-- A transmitted frame ends after its last half-cycle (R393). -/
def mainsTxDone (c : Chip) : Chip :=
  let c := c.abortDue
  if c.rd MLK_TX_ST_state ≠ 2 ∨ c.mlk.left ≠ 0 then c
  else
    let c := ((c.setTx 3).incSat MLK_TX_FRAMES_count).raiseEv mlkPage 1
    c.setMlk fun m => { m with frame := [], gap := 0, aborting := none, ended := some c.netNow }

/-- MAINS_TX_DONE (R393). -/
def execMainsTxDone (s : State) : Answer := s.effect mainsTxDone

/-! ### Register writes with an effect of their own, and the Stride edge -/

/-- MLK_CFG.mains 1 and 2 fix 50 Hz and 60 Hz (R390). -/
def Chip.fixMains (c : Chip) : Chip :=
  let k := c.rd MLK_CFG_mains
  if k = 1 ∨ k = 2 then c.setFlag MLK_STATUS_is_60hz (k == 2) else c

/-- The tracker of a link that is not enabled holds no lock (R390, R402). -/
def Chip.restTracker (c : Chip) : Chip :=
  if c.flag MLK_CTRL_en then c
  else if c.flag MLK_STATUS_locked then c.loseLock
  else c.setMlk fun m => { m with run := 0, periods := [] }

/-- The MLK page has been written: a link that no longer runs aborts its frames (R402), and a loss of sense stays a fault on the
reference phase only (R405). -/
def Chip.mainsWritten (c : Chip) : Chip :=
  let c := forN 3 (fun x c => if x = c.refPhase then c else c.clearFault 5 0x5500 x) c.checkMains.fixMains
  (if c.mainsRuns then c else c.abortTx.abortRx).restTracker

/-- The total transmit level in dBµV (R388, R402). -/
def Chip.mainsLevel (c : Chip) : Nat := clampN 100 134 (c.rd MLK_TX_LEVEL_dbuv)

/-- The tones that a symbol of a half-cycle on the line sounds, one of each pair (R387). -/
def Chip.symbolTones (c : Chip) (half i : Nat) : Nat × Nat :=
  (if bit half (2 * i) then c.rd MLK_TONE_A_f1 else c.rd MLK_TONE_A_f0,
   if bit half (2 * i + 1) then c.rd MLK_TONE_B_f1 else c.rd MLK_TONE_B_f0)

/-- What the line driver of coupler x sounds in symbol i of the half-cycle that runs: two tone codes and the level of each, 3 dB below the
total, in 0.1 dBµV; none where it is high-impedance. Every coupler of tx_mask carries the same signal (R386, R388, R405). -/
def Chip.lineDriver (c : Chip) (x i : Nat) : Option ((Nat × Nat) × Nat) :=
  if c.hasMains ∧ c.rd MLK_TX_ST_state = 2 ∧ ¬ c.isOff ∧ bit (c.rd MLK_CFG_tx_mask) x then
    some (c.symbolTones (nth c.mlk.line (c.mlk.line.length - c.mlk.left)) i, 10 * c.mainsLevel - 30)
  else none

/-- The mains link at a Stride edge: a frame is aborted when the role changes from Near (R401) or where its abort is due (R400), and lock
lost for more than 1 s while enabled is a fault (R405). -/
def Chip.mainsEdge (c : Chip) : Chip :=
  if ¬ c.hasMains then c
  else
    let c := (if c.isOff ∧ c.rd MLK_TX_ST_state = 2 then c.abortTx else c).abortDue
    let off := c.flag MLK_CTRL_en && !c.flag MLK_STATUS_locked
    let c := c.setMlk fun m => { m with unlocked := if off then min 8001 (m.unlocked + 1) else 0 }
    c.faultIs 5 0x5400 0 (decide (8000 < c.mlk.unlocked))

end Sys2Proof.Machine
end

