-- ==== Sys2Proof/Machine/Window.lean ====
section
/-! DEFINITION. The ledger window of a Stride: the ledger clock of the edge, energy, tariff and demand, billing, power quality, and the
digest (R38, R77–R79, R202–R206, R355). -/

namespace Sys2Proof.Machine

/-- The bytes of the digest (R355), at the end of the ledger window. -/
def Chip.digestBytes (c : Chip) : List Nat :=
  leBytes 8 c.stride ++ leBytes 8 c.lc ++ (List.range c.variant.meters).flatMap fun m =>
    let x := c.meter m
    ((List.range 72).flatMap fun j => leBytesI 12 (x.accOf j)) ++ ((List.range 8).flatMap fun q => leBytesI 16 (x.provOf q)) ++
      leBytes 12 x.i2 ++ leBytes 16 x.lossImp ++ leBytes 16 x.lossExp

/-- The health bit of R355. -/
def Chip.healthOr (c : Chip) : Bool := (List.range c.variant.meters).any fun m => (c.meter m).inputFault

/-- A paired module forms the digest of the Stride (R355). -/
def Chip.formDigest (c : Chip) : Chip :=
  if ¬ c.flag HRN_CTRL_pair_en then c
  else
    let d := crc64 c.digestBytes
    let c := c.put64 HRN_DIGEST_LO_d HRN_DIGEST_HI_d d
    { c with pair := { c.pair with digests := ((c.stride, d, c.healthOr) :: c.pair.digests).take 2 } }

/-- The row of R78 at an edge by this module's own time unit; time-invalid before the ledger restore. -/
def Chip.ownLedgerRow (c : Chip) : LedgerRow :=
  if c.flag LDG_STATUS_restored then ledgerRow c.timeValid c.lc (computedStride c.tim.clock) else .invalid

/-- The energy of a hand-over at this edge goes into the bases, under the tariff in force (R166, R206), which its journal entry names. -/
def Chip.creditHandover (c : Chip) : Chip :=
  if ¬ c.stg.handover then c
  else
    let c : Chip := { c with stg := { c.stg with handover := false } }
    c.stg.stepFour.foldl (fun (c : Chip) r =>
      match r with
      | .journal (.handover _ energy) => energy.foldl (fun (c : Chip) x => c.creditEnergy c.trf.now x.1 x.2) c
      | _ => c)
      { c with
        stg := { c.stg with
          stepFour := c.stg.stepFour.map fun r =>
            match r with
            | .journal (.handover _ energy) => .journal (.handover c.trf.now energy)
            | r => r } }

/-- The ledger window of a Stride once the ledger clock has taken its value by a row of R78 from L (R202): edge actions, the tariff in
force, energy and demand, billing, the tariff of the next Stride, and the registers. -/
def Chip.ledgerWindow (c : Chip) (row : LedgerRow) (l : Nat) : Chip :=
  let resumes := c.dmd.resuming
  let c := c.setDmd fun x => { x with resuming := false, catchUp := resumes }
  let c := if resumes then c.setFlag DMD_STATUS_suspended false else c
  let moved := c.dmd.rescale
  let jump := c.dmd.restart || c.dmd.rescale || correctionFlag row != 0
  let c := if c.suspended then c.setTrf fun x => { x with now := x.next }
    else
      let c := c.demandEdge row l
      let choice := c.tariffAt c.lc
      c.setTrf fun x => { x with now := if jump then choice.tariff else x.next }
  let old := c
  let c := forN c.variant.meters (fun m c => c.meterLedger m) c.creditHandover
  let c := forN c.variant.meters (fun m c => c.settleRegisters old m) c
  let invalid := row == .invalid || c.flag TRF_STATUS_cal_fault
  let fl := (if invalid then flagTimeInvalid else 0) ||| (if row == .hold then flagHeld else 0)
  let c := if c.dmd.isOpen then c.setDmd fun x => { x with flags := x.flags ||| fl } else c
  let c := c.setFlag TRF_STATUS_time_invalid (row == .invalid)
  let c := if c.flag LDG_STATUS_restored ∧ ¬ c.suspended then c.billingDues moved else c
  let c := if c.suspended ∨ c.activationDue then c else c.lookupNext
  let c := c.showDemand
  let c := if row == .hold || correctionFlag row != 0 then c.noteTouch else c
  let c := forN c.variant.elements (fun n c => c.qualityStride n) c
  c.formDigest

/-- The ledger window with the ledger clock resolved here (R78); before the ledger restore it keeps its value. -/
def Chip.ownWindow (c : Chip) : Chip :=
  let l := c.lc
  let row := c.ownLedgerRow
  let v := if c.flag LDG_STATUS_restored then ledgerValue row l (computedStride c.tim.clock) else l
  (c.setLedger row v).ledgerWindow row l

/-- The row of R78 that Near's ledger clock and its time-invalid flag show, for Off (R204, R353). -/
def nearRow (l v : Nat) (invalid : Bool) : LedgerRow :=
  if invalid then .invalid
  else if v = l + 1 then .next
  else if v = l then .hold
  else if l + 1 < v then (if v - (l + 1) ≤ 8000 then .short else .forward)
  else .backward

/-- The ledger window of a Stride that waits for Near's frame, with the ledger clock v and its flag (R353). -/
def Chip.nearWindow (c : Chip) (v : Nat) (invalid : Bool) : Chip :=
  if ¬ c.fold.awaiting then c
  else
    let l := c.lc
    let row := nearRow l v invalid
    let c := { c with fold := { c.fold with awaiting := false } }
    (c.setLedger row v).ledgerWindow row l

/-- Without Near's frame the ledger clock of the edge is one more, and stays time-invalid if it was (R353; log 77). -/
def Chip.loneWindow (c : Chip) : Chip := c.nearWindow (c.lc + 1) (c.flag TIM_LEDGER_ST_time_invalid)

end Sys2Proof.Machine
end

