-- ==== Sys2Proof/Machine/Pair.lean ====
section
/-! DEFINITION. The twin pair: roles, Stride frames, digests, join and resync, takeover, swap, lanes and messages (R346–R369). -/

namespace Sys2Proof.Machine

/-- The base of the link page, and of the page of lane l. -/
def hrnPage : Nat := 0x40520000
def hrlPage (l : Nat) : Nat := 0x40521000 + l * 0x1000

/-- The block with the pair logic changed. -/
def Chip.setPair (c : Chip) (f : Pair → Pair) : Chip := { c with pair := f c.pair }

/-- The module is paired: it has HRN pages and pair_en is 1. -/
def Chip.paired (c : Chip) : Bool := c.flag HRN_CTRL_pair_en && decide (16 ≤ c.variant.ports)

/-- A Pair-level fault that a bit of HRN_STATUS shows (R369). -/
def Chip.pairFault (c : Chip) (bit_ : Nat) (b : Bool) : Chip := c.faultIs 6 (0x5200 + bit_) 0 b

/-! ### Roles -/

/-- No join runs any more, and none has completed. -/
def Chip.endJoin (c : Chip) : Chip :=
  ((c.setFlag HRN_STATUS_joined false).setFlag HRN_STATUS_joining false).setPair fun p => { p with joinStep := 0, mark := none }

/-- What follows from a change of role for every output (R349, R351, R363): cuts, ports, load channels and CAN controllers. -/
def Chip.roleOutputs (c : Chip) : Chip :=
  let c := c.settleSafety
  let c := forN c.variant.ports (fun n c => c.settlePort n) c
  c.settleLoad.canRole

/-- The role that the table of R347 gives; a module that is to be Off takes the role once it is aligned to Near's Stride edge (R354). -/
def Chip.roleOf (c : Chip) : Nat :=
  if ¬ c.paired then 1
  else if ¬ c.pair.decided ∨ (c.flag HRN_STATUS_pos_clash ∧ ¬ c.pair.claims) then 0
  else if ¬ c.pair.claims then (if c.pair.aligned then 2 else 0)
  else if c.pair.select = c.flag HRN_STATUS_pos then 1
  else 3

/-- HRN_STATUS.role, .selected and STG_STATUS.near follow the claim and the select net (R347). A blocked module stops claiming and is
detached, with no join (R356, R365). -/
def Chip.settleRole (c : Chip) : Chip :=
  let c := c.setFlag HRN_STATUS_selected (c.pair.select == c.flag HRN_STATUS_pos)
  let was := c.rd HRN_STATUS_role
  let r := c.roleOf
  let c := (c.put HRN_STATUS_role r).setFlag STG_STATUS_near (r == 1)
  let c := c.pairFault 0 (r == 3)
  let c := if r = 3 then (c.setFlag HRN_STATUS_detached true).endJoin else c
  if r = was then c else (c.raiseEv hrnPage 0).roleOutputs

/-- The level of the select net changes (R347). -/
def pairSelChange (level : Bool) (c : Chip) : Chip := (c.setPair fun p => { p with select := level }).settleRole

/-- PAIR_SEL_CHANGE (R347). -/
def execPairSelChange (level : Bool) (s : State) : Answer := s.effect (pairSelChange level)

/-- What the twin reported of itself is shown (R367). -/
def Chip.showTwin (c : Chip) (t : TwinReport) : Chip :=
  let c := forN 4 (fun k c => c.put (HRN_TWIN_ID_id k) (ofLe ((t.identity.drop (4 * k)).take 4))) c
  (c.put HRN_TWIN_VAR_variant t.variant).put HRN_SEAL_DIFF_ports t.sealDiff

/-- The module refuses to pair with a twin that differs, or that reports the same position (R348). -/
def Chip.refuseTwin (c : Chip) (t : TwinReport) : Chip :=
  if t.variant ≠ c.variant.ports ∨ t.sealDiff ≠ 0 then (c.setFlag HRN_STATUS_refused true).pairFault 11 true
  else (c.setFlag HRN_STATUS_pos_clash true).pairFault 13 true

/-- A twin differs from this module, or reports its position over the Harness link (R348). -/
def Chip.unfit (c : Chip) (t : TwinReport) : Bool :=
  t.variant != c.variant.ports || t.sealDiff != 0 || (t.onLink && t.position == c.flag HRN_STATUS_pos)

/-- The module claims Near: its own Stride edge is the pair's. -/
def Chip.claimNear (c : Chip) : Chip := c.setPair fun p => { p with claims := true, aligned := true }

/-- The role is decided (R348): the first matching row. A module that is to join as Off has the role None until it is aligned (R354). A
module that holds Near finds out later what a twin is that arrives, and keeps the role. -/
def roleDecision (twin : Option TwinReport) (c : Chip) : Chip :=
  if c.pair.decided then
    match twin with
    | some t =>
      if ¬ c.paired ∨ c.rd HRN_STATUS_role ≠ 1 then c
      else if c.unfit t then (c.showTwin t).refuseTwin t
      else c.showTwin t
    | none => c
  else if ¬ c.paired then (c.setFlag HRN_CTRL_pair_en false).settleRole
  else
    let c := c.setPair fun p => { p with decided := true }
    match twin with
    | none => (c.claimNear.setFlag HRN_STATUS_twin_absent true |>.pairFault 10 true).settleRole
    | some t =>
      let c := c.showTwin t
      if t.variant ≠ c.variant.ports ∨ t.sealDiff ≠ 0 then
        (c.claimNear.refuseTwin t).settleRole
      else if c.unfit t then (c.refuseTwin t).settleRole
      else if t.isNear ∨ c.flag HRN_STATUS_pos then (c.setPair fun p => { p with joinWanted := true }).settleRole
      else c.claimNear.settleRole

/-- ROLE_DECISION (R348). -/
def execRoleDecision (twin : Option TwinReport) (s : State) : Answer := s.effect (roleDecision twin)

/-! ### Joins -/

/-- The state that a mark holds (R360). -/
def Chip.markOf (c : Chip) : TwinImage :=
  let addrs := (List.range c.variant.elements).flatMap (fun n =>
      [(SFE_SEAM_CNT n).addr, (SFE_LOW_CNT n).addr, (SFE_RATIO_APPLIED n).addr, (SFE_OFFS_APPLIED n).addr]) ++
    [TRF_BPERIOD.addr, TRF_BLAST_LO.addr, TRF_BLAST_HI.addr, TRF_BLAST_ST.addr]
  { elements := c.elements, meters := c.meters, trf := c.trf, dmd := c.dmd, led := c.led
    trims := (List.range 8).foldl (fun (m : Sparse Int) g => Sparse.set (fun _ => 0) m g (c.rdS (SFE_CAL_TTRIM_trim g))) []
    words := addrs.foldl (fun (m : Sparse Word) a => Sparse.insert m a (c.word a)) [] }

/-- (lo, hi] holds a demand or billing close, a calendar activation or the target of an armed slot (R360), as far as it is known now. -/
def Chip.busyWindow (c : Chip) (lo hi : Nat) : Bool :=
  let within (x : Nat) : Bool := decide (lo < x) && decide (x ≤ hi)
  let lcOf (s : Nat) : Nat := c.lc + (s - c.stride)
  let slots := (List.range 4).any fun p => c.armed p && ((c.slot p).target.any within)
  let demand := match c.subEnd with
    | some e => (List.range 4).any fun k => within (c.stride + (e + k * c.dmd.ls - 1 - c.lc))
    | none => false
  let scale := 8000 * c.tsOffset
  let past (u : Int) : Bool := decide ((lcOf lo + 1 : Nat) + scale < u) && decide (u ≤ (lcOf hi + 1 : Nat) + scale)
  let top : Int := (lcOf hi + 1 : Nat) + scale
  let monthly := c.flag TRF_BCLOSE_monthly && ((c.monthlyInstant top).any fun p => past p.1)
  let special := c.flag TRF_BCLOSE_special && (List.range 256).any fun e =>
    (c.specialInstants e (c.trf.reached.getD (c.scaledCalendar ((c.lc + 1 : Nat) + scale))) top).any past
  let active := c.calArmed && within (c.stride + (c.trf.activateAt - c.lc))
  slots || demand || monthly || special || active

/-- The agreed Stride J (R360) for a join whose step 3 begins now. -/
def Chip.joinStride (c : Chip) : Nat :=
  (List.range 16).foldl (fun j _ => if c.busyWindow (j - 16) j then j + 8000 else j) (8000 * (c.stride / 8000 + 2) + 32)

/-- The agreed Stride J of the join that runs is known: Near has named it (R360). -/
def Chip.agreeOn (c : Chip) (j : Nat) : Chip :=
  (c.setPair fun p => { p with joinAt := some j }).put64 HRN_EV_STRIDE_LO_stride HRN_EV_STRIDE_HI_stride j

/-- A join or resync enters step 3: Near names J, and Off waits for Near's (R359, R361). -/
def Chip.beginRebuild (c : Chip) : Chip :=
  let j := c.joinStride
  let c := c.setPair fun p => { p with joinStep := 2, joinAt := none, mark := none, loadDue := false, resyncAfterSwap := false }
  let c := (c.setFlag HRN_STATUS_joining true).setFlag HRN_STATUS_joined false
  if c.isOff then c else c.agreeOn j

/-- A join that starts at step 3 without a store copy; Off loads Near's active set (R361). -/
def Chip.beginResync (c : Chip) : Chip := c.beginRebuild.setPair fun p => { p with loadDue := c.isOff }

/-- The module joins as Off: it measures the lane delays (ps) and aligns to Near's Stride number, which counts as a load, takes the Off
role, and every path settles; Near begins its copy (R354, R359). -/
def join (stride : Nat) (delays : List Nat) (c : Chip) : Chip :=
  if ¬ c.paired ∨ ¬ c.flag HRN_STATUS_link_up ∨ c.flag HRN_STATUS_joining then c
  else
    let c := ((c.setFlag HRN_STATUS_joining true).setFlag HRN_STATUS_joined false).put HRN_COPY_kib 0
    let c := c.setPair fun p => { p with joinStep := 1, joinWanted := false }
    if c.rd HRN_STATUS_role = 1 then c
    else
      let c := forN 2 (fun l c =>
        match delays[l]? with
        | some d => (c.put (HRN_LANE_DELAY_ps l) d).setFlag (HRN_LANE_ST_aligned l) true
        | none => c) c
      let c := (c.setFlag HRN_STATUS_detached false).loadNext stride
      let c := (c.setPair fun p => { p with aligned := true }).settleRole
      forN c.variant.elements (fun n c => if c.flag (SFE_ECTRL_en n) then c.settleElement n else c) c

/-- JOIN (R359): Off joins when a join is wanted; Near when its twin asks. -/
def execJoin (stride : Nat) (delays : List Nat) (s : State) : Answer :=
  s.effect fun c => if c.isOff ∧ ¬ c.pair.joinWanted then c else join stride delays c

/-- At the end of the Fold work of J − 16 the module captures its mark (R359). -/
def joinMarkCapture (c : Chip) : Chip :=
  if c.pair.joinStep ≠ 2 ∨ c.pair.joinAt ≠ some (c.stride + 16) then c
  else
    let m := c.markOf
    c.setPair fun p => { p with mark := some m }

/-- JOIN_MARK_CAPTURE (R359). -/
def execJoinMarkCapture (s : State) : Answer := s.effect joinMarkCapture

/-- own − own mark + Near's mark, for each key (R360). -/
def addMarks (own mark near : Sparse Int) : Sparse Int :=
  let keys := ((own ++ mark ++ near).map fun p => p.1).foldl insertSorted []
  let g (m : Sparse Int) (k : Nat) : Int := Sparse.get (fun _ => 0) m k
  keys.foldl (fun (m : Sparse Int) k => Sparse.set (fun _ => 0) m k (g own k - g mark k + g near k)) []

/-- own − own mark + Near's mark, for a counter. -/
def addMark (own mark near : Nat) : Nat := ((own : Int) - mark + near).toNat

/-- An element at the edge of J (R116, R360): its counters, its selector, open regression sums, health runs and detectors. -/
def Element.joined (own mark near frame : Element) : Element :=
  let runs (p q : PathState) : PathState := { p with stuck0 := q.stuck0, stuck1 := q.stuck1, density := q.density, pattern := q.pattern }
  { own with
    v := runs own.v frame.v, ih := runs own.ih frame.ih, il := runs own.il frame.il
    xpath := frame.xpath, reversed := frame.reversed, low := frame.low, count := frame.count, usedHigh := frame.usedHigh
    window := frame.window, zeroAge := frame.zeroAge, zeroAgeV := frame.zeroAgeV, k := near.k
    clips := addMark own.clips mark.clips near.clips
    pq :=
      { frame.pq with
        sags := addMark own.pq.sags mark.pq.sags near.pq.sags, swells := addMark own.pq.swells mark.pq.swells near.pq.swells
        intrs := addMark own.pq.intrs mark.pq.intrs near.pq.intrs } }

/-- A meter at the edge of J (R360): its additive and its slow items, and input_fault. -/
def Meter.joined (own mark near frame : Meter) : Meter :=
  { own with
    acc := addMarks own.acc mark.acc near.acc, prov := addMarks own.prov mark.prov near.prov
    i2 := addMark own.i2 mark.i2 near.i2, lossImp := addMark own.lossImp mark.lossImp near.lossImp
    lossExp := addMark own.lossExp mark.lossExp near.lossExp
    zImp := own.zImp - mark.zImp + near.zImp, zExp := own.zExp - mark.zExp + near.zExp, zFlags := own.zFlags ||| near.zFlags
    closed := near.closed, maxima := near.maxima, base := near.base, baseLossImp := near.baseLossImp
    baseLossExp := near.baseLossExp, inputFault := frame.inputFault, aggSag := frame.aggSag, aggSwell := frame.aggSwell
    aggIntr := frame.aggIntr }

/-- At the edge of J Off applies the marks and Near's join frame (R360); the first digest compared is that of J. -/
def joinApply (near frame : TwinImage) (c : Chip) : Chip :=
  if c.pair.joinStep ≠ 2 ∨ c.pair.joinAt ≠ some c.nextStride then c
  else
    let c := c.setPair fun p => { p with joinStep := 3 }
    if ¬ c.isOff then c
    else match c.pair.mark with
    | none => c
    | some mark =>
      let e (m : Sparse Element) (n : Nat) : Element := Sparse.get (fun _ => {}) m n
      let x (m : Sparse Meter) (n : Nat) : Meter := Sparse.get (fun _ => {}) m n
      let c := forN c.variant.elements (fun n c =>
        let c := c.modElem n fun own => own.joined (e mark.elements n) (e near.elements n) (e frame.elements n)
        let w (m : TwinImage) (f : Fld) : Nat := (Sparse.get (fun _ => (0 : Word)) m.words f.addr).toNat
        let add (c : Chip) (f : Fld) : Chip := c.put f (addMark (c.rd f) (w mark f) (w near f))
        let c := (add (add c (SFE_SEAM_CNT n)) (SFE_LOW_CNT n)).put (SFE_RATIO_APPLIED n) (w near (SFE_RATIO_APPLIED n))
        c.put (SFE_OFFS_APPLIED n) (w near (SFE_OFFS_APPLIED n))) c
      let c := forN c.variant.meters (fun m c =>
        let own := c.meter m
        (c.setMeter m (own.joined (x mark.meters m) (x near.meters m) (x frame.meters m))).noteRegisters m own) c
      let c := [TRF_BPERIOD, TRF_BLAST_LO, TRF_BLAST_HI, TRF_BLAST_ST].foldl (fun (c : Chip) f =>
        c.put f (Sparse.get (fun _ => (0 : Word)) near.words f.addr).toNat) c
      let c := c.setDmd fun d => { near.dmd with flags := near.dmd.flags ||| d.flags }
      let c := c.setTrf fun t =>
        { t with
          now := near.trf.now, next := near.trf.next, billedTo := near.trf.billedTo, reached := near.trf.reached
          closedMonth := near.trf.closedMonth }
      let c := forN 8 (fun g c => c.putS (SFE_CAL_TTRIM_trim g) (Sparse.get (fun _ => 0) near.trims g)) c
      let c : Chip :=
        { c with
          led :=
            { c.led with
              nextSave := near.led.nextSave, logNext := near.led.logNext, logOldest := near.led.logOldest } }
      forN 5 (fun n c => c.showLog n) c

/-- JOIN_APPLY (R360). -/
def execJoinApply (near frame : TwinImage) (s : State) : Answer := s.effect (joinApply near frame)

/-- The values of every meter are flagged, or no longer (R357, R362). -/
def Chip.flagMeters (c : Chip) (code : Nat) (b : Bool) : Chip := forN c.variant.meters (fun m c => c.faultIs 3 code m b) c

/-- A join or resync has completed: the first digest matched (R357–R359, R362). On Off the join ends the fault of
meters that no save restored (R226). pair_mismatch clears once Off has loaded Near's active
set (R58). -/
def Chip.joinComplete (c : Chip) : Chip :=
  let p := c.pair
  let c := c.setPair fun p => { p with joinStep := 0, joinClears := false, flagged := false, mark := none }
  let c := (c.setFlag HRN_STATUS_joined true).setFlag HRN_STATUS_joining false
  let c := if p.joinClears then (c.setFlag HRN_STATUS_divergent false).pairFault 9 false else c
  let c := if c.rd HRN_CMD_ST_state = 1 ∧ p.joinClears then c.put HRN_CMD_ST_state 2 else c
  let c := ((c.setFlag HRN_STATUS_unverified false).pairFault 12 false).flagMeters 0x520C false
  let c := if p.loadDue then c else c.setFlag STG_STATUS_pair_mismatch false
  let c := if c.isOff then c.eachMeter (fun _ x => { x with unrestored := false }) |>.flagMeters 0x1A03 false else c
  let c := ((c.clearFault 6 0x5224 0).clearFault 6 0x5226 0).clearFault 6 0x5221 0
  (c.flagMeters 0x5224 false).raiseEv hrnPage 3

/-! ### Takeover and swap -/

/-- The new Near takes the role and the outputs at an edge, and its readout engine the link, on which every display has its item to come
(R363). -/
def Chip.becomeNear (c : Chip) (t : Nat) : Chip :=
  let c := c.setPair fun p =>
    { p with
      claims := true, decided := true, aligned := true, graceUntil := t + 8, takeoverAt := none, swapAt := none
      follow := (List.range c.variant.channels).foldl (fun x n => if c.flag (LSW_CTRL_twin_par n) then x ||| 2 ^ n else x) 0 }
  let c := forN c.variant.ports (fun n c =>
    match c.pair.nearPilots.getD n none with
    | some d => (c.put (OPT_PWM_duty n) d).put (OPT_PWM_APPLIED_duty n) d
    | none => c) c
  let c := forN c.variant.ports (fun d c => c.modDisplay d fun x => { x with lastSent := none }) c
  let c := (c.setFlag HRN_STATUS_detached false).put64 HRN_EV_STRIDE_LO_stride HRN_EV_STRIDE_HI_stride t
  let c := (c.put HRN_STATUS_role 1).setFlag STG_STATUS_near true
  (c.raiseEv hrnPage 0).roleOutputs

/-- At the edge of T Off becomes Near (R363). -/
def takeover (c : Chip) : Chip :=
  match c.pair.takeoverAt with
  | none => c
  | some (t, unverified) =>
    if c.nextStride < t ∨ ¬ c.inOffRole then c
    else
      let c := c.becomeNear c.nextStride
      let c := c.incSat HRN_COUNTS_takeovers
      let c := if unverified then ((c.setFlag HRN_STATUS_unverified true).pairFault 12 true).flagMeters 0x520C true else c
      let c := c.endJoin
      let c := if c.rd HRN_CMD_ST_state = 1 then c.put HRN_CMD_ST_state 2 else c
      (c.setFault 6 0x5221 0).raiseEv hrnPage 1

/-- TAKEOVER (R363). -/
def execTakeover (s : State) : Answer := s.effect takeover

/-- A takeover is decided for the next edge (R362). -/
def Chip.decideTakeover (c : Chip) (unverified : Bool) : Chip :=
  (c.setPair fun p => { p with takeoverAt := some (c.stride + 1, unverified) }).raiseEv hrnPage 1

/-- Off decides on takeover at a deadline after two failed edges (R362): the first matching row. -/
def Chip.takeoverDecision (c : Chip) : Chip :=
  let verified := c.flag HRN_STATUS_joined && !c.flag HRN_STATUS_divergent
  let auto := c.flag HRN_CTRL_auto_takeover
  if c.rd HRN_HB_MISS_pins < 2 then c
  else if verified ∧ auto then c.decideTakeover false
  else if (c.flag HRN_STATUS_divergent ∨ c.flag HRN_STATUS_detached) ∧ auto then c.decideTakeover true
  else if ¬ verified ∧ ¬ c.flag HRN_STATUS_divergent ∧ ¬ c.flag HRN_STATUS_detached then c.setFault 6 0x5226 0
  else c.raiseEv hrnPage 1

/-- An HRN command is refused with a reason, or takes effect (R367). -/
def Chip.refusePair (c : Chip) (reason : Nat) : Chip :=
  ((c.put HRN_CMD_ST_state 3).put HRN_CMD_ST_reason reason).raiseEv hrnPage 10

/-- HRN_CMD.assume in the Off role takes over at the next edge (R362). -/
def assumeCmd (acc : Access) (c : Chip) : Chip :=
  c.write acc HRN_CMD.addr 4 fun c =>
    if ¬ c.inOffRole then c.refusePair 5
    else
      let c := (c.put HRN_CMD_ST_state 1).put HRN_CMD_ST_reason 0
      c.decideTakeover !(c.flag HRN_STATUS_joined && !c.flag HRN_STATUS_divergent)

/-- ASSUME_CMD (R362). -/
def execAssumeCmd (acc : Access) (s : State) : Answer := s.effect (assumeCmd acc)

/-- A slot with pair-scope pages is armed; both modules hold its arm (R58, R364). -/
def Chip.pairSlotArmed (c : Chip) : Bool :=
  (List.range 4).any fun p => c.armed p && (c.slot p).frozen.any fun a =>
    match locate c.variant a with
    | some (b, _) => b.pairScope
    | none => false

/-- What Off knows of Near's refusal of a swap (R364, R366). -/
def Chip.swapBlocked (c : Chip) : Bool := !c.flag HRN_STATUS_link_up || c.flag HRN_STATUS_joining || c.pairSlotArmed

/-- The reason that refuses a swap (R364, R366). -/
def Chip.swapRefusal (c : Chip) : Option Nat :=
  if ¬ c.paired ∨ c.rd HRN_STATUS_role ≠ 1 then some 5
  else if ¬ c.flag HRN_STATUS_joined ∨ c.flag HRN_STATUS_joining then some 1
  else if c.flag HRN_STATUS_divergent then some 2
  else if ¬ c.flag HRN_STATUS_link_up then some 3
  else if c.pairSlotArmed then some 4
  else none

/-- Near names X for a swap: the first Stride number divisible by 8 at least 16 Strides ahead (R364). -/
def Chip.nameSwap (c : Chip) : Chip :=
  let x := (c.stride + 16 + 7) / 8 * 8
  (c.setPair fun p => { p with swapAt := some x }).put64 HRN_EV_STRIDE_LO_stride HRN_EV_STRIDE_HI_stride x

/-- HRN_CMD.swap on Near (R364). -/
def swapCmd (acc : Access) (c : Chip) : Chip :=
  c.write acc HRN_CMD.addr 1 fun c =>
    match c.swapRefusal with
    | some r => c.refusePair r
    | none => ((c.put HRN_CMD_ST_state 1).put HRN_CMD_ST_reason 0).nameSwap

/-- SWAP_CMD (R364). -/
def execSwapCmd (acc : Access) (s : State) : Answer := s.effect (swapCmd acc)

/-- At the edge of X the old Near stops claiming and keeps its channels and cuts for 8 Strides, and the new Near takes the role
(R364); after a yield the new Near rebuilds with the old one and names J (R357). -/
def swapHandover (c : Chip) : Chip :=
  let x := c.nextStride
  if ¬ c.paired then c
  else if c.rd HRN_STATUS_role = 1 then
    if c.pair.swapAt ≠ some x then c
    else
      let c := c.setPair fun p =>
        { p with
          claims := false, swapAt := none, keepUntil := some (x + 8)
          nearPilots := (List.range c.variant.ports).map fun n => c.pilotOutput n
          nearOutputs := c.rd LSW_BSTATE_LO_on + 2 ^ 32 * c.rd LSW_BSTATE_HI_on, nearOk := c.rd SAF_SAFE_OK_ports }
      ((c.put HRN_STATUS_role 2).setFlag STG_STATUS_near false |>.raiseEv hrnPage 0).roleOutputs
  else if ¬ c.inOffRole ∨ ¬ c.flag HRN_STATUS_joined ∨ c.flag HRN_STATUS_divergent ∨ x % 8 ≠ 0 then c
  else
    let yielded := c.pair.resyncAfterSwap
    let c := ((c.becomeNear x).incSat HRN_COUNTS_swaps).raiseEv hrnPage 2
    if yielded then c.beginRebuild else c

/-- SWAP_HANDOVER (R364). -/
def execSwapHandover (s : State) : Answer := s.effect swapHandover

/-- At the edge of X + 8 the old Near turns its paralleled channels off, asserts its cut outputs and is Off (R364); after a yield it
resyncs from the new Near (R357). -/
def swapComplete (c : Chip) : Chip :=
  match c.pair.keepUntil with
  | none => c
  | some t =>
    if c.nextStride < t then c
    else
      let c := (c.setPair fun p => { p with keepUntil := none }).roleOutputs
      let c := (c.incSat HRN_COUNTS_swaps).raiseEv hrnPage 2
      let c := if c.rd HRN_CMD_ST_state = 1 then c.put HRN_CMD_ST_state 2 else c
      if c.pair.resyncAfterSwap then c.beginResync else c

/-- SWAP_COMPLETE (R364). -/
def execSwapComplete (s : State) : Answer := s.effect swapComplete

/-- HRN_CMD.rejoin on Off starts a join that clears divergence when it completes (R358, R366). -/
def rejoinCmd (acc : Access) (c : Chip) : Chip :=
  c.write acc HRN_CMD.addr 2 fun c =>
    if ¬ c.inOffRole then c.refusePair 5
    else if c.flag HRN_STATUS_joining then c.refusePair 1
    else if ¬ c.flag HRN_STATUS_link_up then c.refusePair 3
    else ((c.put HRN_CMD_ST_state 1).put HRN_CMD_ST_reason 0).setPair fun p => { p with joinWanted := true, joinClears := true }

/-- REJOIN_CMD (R358). -/
def execRejoinCmd (acc : Access) (s : State) : Answer := s.effect (rejoinCmd acc)

/-! ### Stride frames and digests -/

/-- The shadow is rebuilt, unless the module is divergent or a takeover is decided (R358, R366). -/
def Chip.resync (c : Chip) : Chip :=
  if c.flag HRN_STATUS_divergent then c
  else if c.pair.takeoverAt.isSome then c
  else c.beginResync

/-- The digests of a Stride differ (R357): the first matching row. A takeover that is decided becomes unverified (R366). -/
def Chip.mismatch (c : Chip) (s : Nat) (own twin : Bool) : Chip :=
  let off := c.isOff
  let offHealth := if off then own else twin
  let nearHealth := if off then twin else own
  let c := c.setPair fun p =>
    { p with
      mismatches := s :: p.mismatches.filter (fun x => s < x + 8000), flagged := p.flagged || off
      takeoverAt := p.takeoverAt.map fun x => (x.1, true) }
  let n := c.pair.mismatches.length
  let c := ((c.incSat HRN_MISMATCH_count).put HRN_MISMATCH_1S_count n).raiseEv hrnPage 4
  let c := c.setFault 6 0x5224 0
  let c := if off then c.flagMeters 0x5224 true else c
  if 3 ≤ n then
    if c.flag HRN_STATUS_divergent then c
    else ((c.setFlag HRN_STATUS_divergent true).pairFault 9 true).raiseEv hrnPage 5
  else if offHealth ∧ ¬ nearHealth then c.resync
  else if nearHealth ∧ ¬ offHealth ∧ c.flag HRN_STATUS_joined ∧ ¬ c.flag HRN_STATUS_divergent then
    if off then (if c.swapBlocked then c.resync else c.setPair fun p => { p with resyncAfterSwap := true })
    else if c.pair.swapAt.isSome then c.setPair fun p => { p with resyncAfterSwap := true }
    else match c.swapRefusal with
      | some _ => c.beginResync
      | none => (c.setPair fun p => { p with resyncAfterSwap := true }).nameSwap
  else c.resync

/-- The twin's digest of the Stride before is compared with this module's, unless either is joining or detached (R356). -/
def Chip.compareDigest (c : Chip) (f : StrideFrame) : Chip :=
  let c := c.put64 HRN_TWIN_DIGEST_LO_d HRN_TWIN_DIGEST_HI_d f.digest
  let s := c.stride - 1
  let first := c.pair.joinStep == 3 && c.pair.joinAt.any fun j => decide (j ≤ s)
  if c.flag HRN_STATUS_detached ∨ c.pair.missed = some s ∨
      ¬ (first ∨ (c.pair.joinStep = 0 ∧ c.flag HRN_STATUS_joined ∧ f.joined)) then c
  else match c.pair.digests.find? fun d => d.1 == s with
    | none => c
    | some d =>
      if d.2.1 = f.digest then (if first then c.joinComplete else c) else c.mismatch s d.2.2 f.health

/-- The lanes of an edge (R352, R368): bit l of `valid` delivered a frame, bit l of `errored` an errored one. -/
def Chip.laneEdge (c : Chip) (valid errored : Nat) : Chip :=
  forN 2 (fun l c =>
    let r := Sparse.get (fun _ => 0) c.pair.laneErrors l
    let c := if bit errored l then c.incSat (HRN_LANE_CRC_ERR_count l) else c
    let c := if bit valid l then c else c.incSat (HRN_LANE_DROP_count l)
    c.setPair fun p =>
      { p with
        laneErrors := Sparse.set (fun _ => 0) p.laneErrors l (if bit errored l then min 8 (r + 1) else if bit valid l then 0 else r) }) c

/-- Off takes the Stride J that Near names; named to a joined Off it begins the resync there (R359, R361). -/
def Chip.hearJoin (c : Chip) (at_ : Option Nat) : Chip :=
  match at_ with
  | none => c
  | some j =>
    if c.pair.joinStep = 2 then (if c.pair.joinAt = some j then c else c.agreeOn j)
    else if c.pair.joinStep = 0 ∧ c.flag HRN_STATUS_joined then c.beginResync.agreeOn j
    else c

/-- What Off takes from Near's frame (R349–R353). -/
def Chip.followNear (c : Chip) (f : StrideFrame) : Chip :=
  let c := c.hearJoin f.joinAt
  let c := c.setPair fun p => { p with nearOk := f.safeOk, nearOutputs := f.outputs, nearPilots := f.pilots }
  let c := (c.put TIM_VCXO_DAC_code f.vcxo).showVcxo.setTim fun t => { t with vcxoInteg := f.vcxoInteg }
  let trims := (f.trims.zipIdx).foldl (fun (m : Sparse Int) x => Sparse.insert m x.2 x.1) []
  let temps := (f.temps.zipIdx).foldl (fun (m : Sparse (Option Int)) x => Sparse.set (fun _ => none) m x.2 x.1) []
  let c : Chip :=
    { c with
      fold :=
        { c.fold with
          nearTrim := if f.trims.isEmpty then c.fold.nearTrim else trims
          nearTemp := if c.stride % 8 = 0 then temps else c.fold.nearTemp } }
  (c.nearWindow f.lc f.timeInvalid).settleSafety

/-- What Near takes from Off's frame: confirmations of arm records, stuck-on cut outputs, seal differences, and that the join which runs
clears divergence (R58, R351, R353, R358). -/
def Chip.hearOff (c : Chip) (f : StrideFrame) : Chip :=
  let c := if f.clears ∧ c.flag HRN_STATUS_joining then c.setPair fun p => { p with joinClears := true } else c
  let c := forN 4 (fun p c => if bit f.confirmed p && c.armed p then c.setSlot p { c.slot p with confirmed := true } else c) c
  let c := c.put HRN_SEAL_DIFF_ports f.sealDiff
  let c := forN c.variant.flocks (fun k c =>
    if bit f.stuckOn k then c.faultFlocks (2 ^ k) causeOutput 3 (unitTwinCut k) else c.clearCause (2 ^ k) (unitTwinCut k) true) c
  c.settleSafety

/-- The twin's Stride frame arrives on the lanes of `valid` (R353): its digest is compared, and its fields are taken up. -/
def strideFrameReceive (valid errored : Nat) (f : StrideFrame) (c : Chip) : Chip :=
  if ¬ c.paired ∨ c.pair.received ∨ valid % 4 = 0 then c
  else
    let c := (c.laneEdge valid errored).setPair fun p => { p with received := true }
    let c := ((c.put HRN_HB_MISS_frames 0).setFlag HRN_STATUS_twin_absent false).pairFault 10 false
    let c := c.compareDigest f
    if c.isOff ∧ ¬ c.flag HRN_STATUS_detached ∧ f.role = 1 then c.followNear f
    else if c.rd HRN_STATUS_role = 1 ∧ f.role ≠ 1 then c.hearOff f
    else c

/-- STRIDE_FRAME_RECEIVE (R353). -/
def execStrideFrameReceive (valid errored : Nat) (frame : StrideFrame) (s : State) : Answer :=
  s.effect (strideFrameReceive valid errored frame)

/-- The twin's frame of this edge has not arrived by its deadline (R353): Off uses L + 1, and after two edges decides on takeover. -/
def strideFrameDeadline (errored : Nat) (c : Chip) : Chip :=
  if ¬ c.paired ∨ c.pair.received then c
  else
    let c := (c.laneEdge 0 errored).setPair fun p => { p with received := true, missed := some c.stride }
    let c := c.incSat HRN_HB_MISS_frames
    if ¬ c.inOffRole then c
    else
      let c := c.loneWindow
      if 2 ≤ c.rd HRN_HB_MISS_frames ∧ c.pair.takeoverAt.isNone then c.takeoverDecision else c

/-- STRIDE_FRAME_DEADLINE (R353). -/
def execStrideFrameDeadline (errored : Nat) (s : State) : Answer := s.effect (strideFrameDeadline errored)

/-! ### Link, lanes and messages -/

/-- PAIR_HB_IN has made no transition at the last two edges. -/
def Chip.heartSilent (c : Chip) : Bool := decide (2 ≤ c.rd HRN_HB_MISS_pins)

/-- Off is detached while the link is down and PAIR_HB_IN toggles, also where it begins to toggle later (R365). -/
def Chip.detach (c : Chip) : Chip :=
  if ¬ c.inOffRole ∨ c.flag HRN_STATUS_detached ∨ c.flag HRN_STATUS_link_up ∨ c.rd HRN_HB_MISS_frames < 2 ∨ c.heartSilent ∨
      c.pair.takeoverAt.isSome then c
  else (c.setFlag HRN_STATUS_detached true).endJoin

/-- No lane has delivered a valid frame for 2 Strides: the link is down (R352). While PAIR_HB_IN toggles, Off is detached; while it does
not, Off decides by R362 and Near no longer hears its twin (R365, R369). -/
def harnessLinkDown (c : Chip) : Chip :=
  if ¬ c.flag HRN_STATUS_link_up ∨ c.rd HRN_HB_MISS_frames < 2 then c.detach
  else
    let c := (((c.setFlag HRN_STATUS_link_up false).setFlag STG_STATUS_harness_up false).pairFault 4 true).raiseEv hrnPage 6
    if ¬ c.isOff then c.endJoin.pairFault 10 c.heartSilent else c.detach

/-- HARNESS_LINK_DOWN (R365). -/
def execHarnessLinkDown (s : State) : Answer := s.effect harnessLinkDown

/-- The link delivers valid Stride frames again; a detached Off joins again with auto_rejoin (R352, R365). -/
def harnessLinkUp (c : Chip) : Chip :=
  if ¬ c.paired ∨ c.flag HRN_STATUS_link_up ∨ c.rd HRN_HB_MISS_frames ≠ 0 then c
  else
    let c := (((c.setFlag HRN_STATUS_link_up true).setFlag STG_STATUS_harness_up true).pairFault 4 false).raiseEv hrnPage 7
    if c.isOff ∧ c.flag HRN_STATUS_detached ∧ c.flag HRN_CTRL_auto_rejoin then c.setPair fun p => { p with joinWanted := true } else c

/-- HARNESS_LINK_UP (R365). -/
def execHarnessLinkUp (s : State) : Answer := s.effect harnessLinkUp

/-- A lane has received 8 errored frames in a row: it is down and retrains (R352, R365). -/
def harnessLaneDown (l : Nat) (c : Chip) : Chip :=
  if 2 ≤ l ∨ ¬ c.flag (HRN_LANE_ST_up l) ∨ Sparse.get (fun _ => 0) c.pair.laneErrors l < 8 then c
  else ((c.setFlag (HRN_LANE_ST_up l) false).setFault 6 0x5300 l).raiseEv (hrlPage l) 1

/-- HARNESS_LANE_DOWN (R352). -/
def execHarnessLaneDown (l : Nat) (s : State) : Answer := s.effect (harnessLaneDown l)

/-- A lane delivers valid frames (R352, R368). -/
def harnessLaneUp (l : Nat) (c : Chip) : Chip :=
  if Blk.count c.variant .hrl ≤ l ∨ c.flag (HRN_LANE_ST_up l) then c
  else
    let c := c.setPair fun p => { p with laneErrors := Sparse.set (fun _ => 0) p.laneErrors l 0 }
    ((c.setFlag (HRN_LANE_ST_up l) true).clearFault 6 0x5300 l).raiseEv (hrlPage l) 0

/-- HARNESS_LANE_UP (R352). -/
def execHarnessLaneUp (l : Nat) (s : State) : Answer := s.effect (harnessLaneUp l)

/-- HRN_MSG_RX, HRN_MSG_ST.count and the level event 9 follow the messages held (R367, R368). -/
def Chip.showMessages (c : Chip) : Chip :=
  let m := c.pair.messages.headD []
  let c := forN 16 (fun k c => c.put (HRN_MSG_RX_msg k) (ofLe ((m.drop (4 * k)).take 4))) c
  (c.put HRN_MSG_ST_count c.pair.messages.length).setRaw hrnPage 9 (!c.pair.messages.isEmpty)

/-- HRN_MSG_CMD.send sends HRN_MSG_TX; ignored while a message is in flight (R367). -/
def harnessMsgSend (acc : Access) (v : Nat) (c : Chip) : Chip :=
  c.write acc HRN_MSG_CMD.addr v fun c =>
    if v % 2 = 0 ∨ c.flag HRN_MSG_ST_tx_busy then c
    else
      let bytes := (List.range 16).flatMap fun k => leBytes 4 (Sparse.get (fun _ => (0 : Word)) c.pair.txWords k).toNat
      (c.setFlag HRN_MSG_ST_tx_busy true).setPair fun p => { p with inFlight := some bytes }

/-- HARNESS_MSG_SEND (R367). -/
def execHarnessMsgSend (acc : Access) (v : Nat) (s : State) : Answer := s.effect (harnessMsgSend acc v)

/-- A message from the twin arrives: it is held, or lost and counted when 16 are held (R367). -/
def harnessMsgReceive (bytes : List Nat) (c : Chip) : Chip :=
  if ¬ c.paired ∨ bytes.length ≠ 64 then c
  else if 16 ≤ c.pair.messages.length then c.incSat HRN_MSG_ST_lost
  else (c.setPair fun p => { p with messages := p.messages ++ [bytes] }).showMessages

/-- HARNESS_MSG_RECEIVE (R367). -/
def execHarnessMsgReceive (bytes : List Nat) (s : State) : Answer := s.effect (harnessMsgReceive bytes)

/-- HRN_MSG_POP frees the oldest message (R367). -/
def harnessMsgPop (acc : Access) (v : Nat) (c : Chip) : Chip :=
  c.write acc HRN_MSG_POP.addr v fun c =>
    if v % 2 = 0 then c else (c.setPair fun p => { p with messages := p.messages.drop 1 }).showMessages

/-- HARNESS_MSG_POP (R367). -/
def execHarnessMsgPop (acc : Access) (v : Nat) (s : State) : Answer := s.effect (harnessMsgPop acc v)

/-! ### What every Stride edge does -/

/-- The Stride frame that this module sends at an edge (R353). -/
def Chip.strideFrame (c : Chip) : StrideFrame :=
  let last := (c.pair.digests.find? fun d => d.1 + 1 == c.stride).getD (0, 0, false)
  let near := c.rd HRN_STATUS_role == 1
  let base : StrideFrame :=
    { sequence := c.pair.sequence, role := c.rd HRN_STATUS_role, joined := c.flag HRN_STATUS_joined
      divergent := c.flag HRN_STATUS_divergent, watchdogs := c.rd FAB_WDT_ST % 16, stride := c.stride
      digest := last.2.1, health := last.2.2, safeOk := c.rd SAF_SAFE_OK_ports
      flocks := (List.range c.variant.flocks).map c.flockState
      joinAt := if c.pair.joinStep = 2 && near then c.pair.joinAt else none, clears := !near && c.pair.joinClears }
  if near then
    { base with
      lc := c.lc, timeInvalid := c.flag TIM_LEDGER_ST_time_invalid, trims := (List.range 8).map c.nextTrim
      temps := if c.stride % 8 = 0 then (List.range c.variant.ports).map c.portTemp else []
      vcxo := c.rd TIM_VCXO_DAC_code, vcxoInteg := c.tim.vcxoInteg, pilots := (List.range c.variant.ports).map c.pilotOutput
      outputs := c.rd LSW_BSTATE_LO_on + 2 ^ 32 * c.rd LSW_BSTATE_HI_on }
  else
    { base with
      confirmed := (List.range 4).foldl (fun x p => if c.armed p && (c.slot p).confirmed then x + 2 ^ p else x) 0
      stuckOn := (List.range c.variant.flocks).foldl (fun x f =>
        if 2 ≤ Sparse.get (fun _ => 0) c.saf.against f ∨ 2 ≤ Sparse.get (fun _ => 0) c.saf.against (8 + f) then x + 2 ^ f else x) 0
      sealDiff := c.rd HRN_SEAL_DIFF_ports }

/-- The pair logic at a Stride edge: PAIR_HB, which is a fault where it stays silent while frames arrive (R362), the blocked role, the
message in flight, and the frame sent (R346, R353). -/
def Chip.pairEdge (c : Chip) (toggled : Bool) : Chip :=
  let expired := c.load.wdManagement && c.load.wdSafety
  let c := c.setPair fun p => { p with heartbeat := if expired then p.heartbeat else !p.heartbeat, received := false, stream := [] }
  if ¬ c.paired then c
  else
    let c := if toggled then c.put HRN_HB_MISS_pins 0 else c.incSat HRN_HB_MISS_pins
    let hb := toggled || decide (c.rd HRN_HB_MISS_pins < 2) && c.flag HRN_STATUS_twin_hb
    let c := if hb != c.flag HRN_STATUS_twin_hb then (c.setFlag HRN_STATUS_twin_hb hb).raiseEv hrnPage 8 else c
    let c := (c.pairFault 5 (!hb && c.flag HRN_STATUS_link_up && c.rd HRN_HB_MISS_frames == 0)).detach
    let c := if c.rd HRN_STATUS_role = 3 then
        (c.setPair fun p =>
          { p with claims := false, joinWanted := c.flag HRN_STATUS_link_up && c.flag HRN_CTRL_auto_rejoin }).settleRole
      else c
    let c := if c.flag HRN_MSG_ST_tx_busy && c.flag HRN_STATUS_link_up then
        (c.setFlag HRN_MSG_ST_tx_busy false).setPair fun p => { p with inFlight := none }
      else c
    let n := (c.pair.mismatches.filter fun x => c.stride < x + 8000).length
    let c := if c.rd HRN_MISMATCH_1S_count = n then c else c.put HRN_MISMATCH_1S_count n
    if expired then c
    else
      let f := c.strideFrame
      c.setPair fun p => { p with sent := some f, sequence := p.sequence + 1 }

end Sys2Proof.Machine
end

