-- ==== Sys2Proof/Machine/Views.lean ====
section
/-! DEFINITION. What a read returns where the module computes it from its state: the measured registers (R112, R143, R144, R169, R185,
R208), the snapshot windows (R227–R229), and the live words of the event controller and of other units; which words a read latches. -/

namespace Sys2Proof.Machine

/-- Word k of a number. -/
def wordOf (x k : Nat) : Nat := x / 2 ^ (32 * k) % 2 ^ 32

/-- Word k of a signed number. -/
def wordOfI (x : Int) (k : Nat) : Nat := wordOf (bitsOf (32 * (k + 1)) x) k

/-- The words at a row of an array of n entries of `step` bytes: the entry and the word within it. -/
def entryAt (ofs base n step : Nat) : Option (Nat × Nat) :=
  if base ≤ ofs ∧ ofs < base + n * step then some ((ofs - base) / step, (ofs - base) % step / 4) else none

/-! ### The banks -/

/-- An element and a meter in a bank. -/
def Bank.element (b : Bank) (n : Nat) : Element := Sparse.get (fun _ => {}) b.elements n
def Bank.meter (b : Bank) (m : Nat) : Meter := Sparse.get (fun _ => {}) b.meters m

/-- MET_STATUS of an element (R143). -/
def Bank.metStatus (b : Bank) (n : Nat) : Nat :=
  let e := b.element n
  e.freqValid.toNat + 2 * e.nominal.toNat + 4 * e.clipV.toNat + 8 * e.clipI.toNat + 16 * e.incomplete1s.toNat +
    32 * (Sparse.get (fun _ => false) b.inMeter n).toNat

/-- MTR_COMP_ST of a meter (R169). -/
def Meter.compWord (x : Meter) : Nat :=
  x.tempFault.toNat + 2 * (decide (x.compImport < 0)).toNat + 4 * x.compSaturated.toNat + 8 * (!x.comp).toNat

/-- The Fold's values as a bank takes them at the end of the Fold work of the Stride (R24). -/
def Chip.foldBank (c : Chip) : Bank :=
  let es := List.range c.variant.elements
  let k := min c.dmd.k c.dmd.closed.length
  { written := true, stride := c.stride, lc := c.lc, elements := c.elements
    meters := (List.range c.variant.meters).foldl (fun (l : Sparse Meter) m =>
      let r := c.runningDemand m
      Sparse.set (fun _ => {}) l m { c.meter m with runImp := r.1, runExp := r.2 }) c.meters
    tariff := c.trf.now
    estatus := es.foldl (fun (l : Sparse Nat) n => Sparse.set (fun _ => 0) l n (c.rd (SFE_ESTATUS n))) []
    health := es.foldl (fun (l : Sparse Nat) n => Sparse.set (fun _ => 0) l n (c.rd (SFE_HEALTH n))) []
    inMeter := es.foldl (fun (l : Sparse Bool) n => Sparse.set (fun _ => false) l n (c.meterOf n).isSome) []
    billing :=
      [c.rd TRF_STATUS, c.rd DMD_STATUS, c.rd DMD_FLAGS, c.rd64 DMD_NEXT_LO DMD_NEXT_HI, c.dmd.hw, c.rd TRF_BPERIOD,
        c.rd64 TRF_BLAST_LO TRF_BLAST_HI, c.dmd.start, ((c.dmd.closed.take k).map fun p => p.1).foldl (· + ·) 0, k] }

/-! ### Measured registers -/

/-- The registers of a MET page that show measured values (R143). A frequency beyond the 17 bits of MET_FREQ, or of MTR_FREQ, shows
modulo 2^17 (DESIGN CHOICE, log 104: the spec does not say). -/
def Bank.metWord (b : Bank) (n ofs : Nat) : Option Nat :=
  let e := b.element n
  match ofs with
  | 0x00C => some (b.metStatus n)
  | 0x110 => some (wordOfI e.vc 0)
  | 0x114 => some (wordOfI e.ic 0)
  | 0x118 => some (wordOfI e.v90 0)
  | 0x120 => some (wordOfI e.p 0)
  | 0x124 => some (wordOfI e.p 1)
  | 0x128 => some (wordOfI e.q 0)
  | 0x12C => some (wordOfI e.q 1)
  | 0x130 => some (e.freq % 2 ^ 17)
  | 0x134 => some e.n
  | 0x138 => some e.gh
  | 0x140 => some (cycleRms e.vSquares e.n)
  | 0x144 => some (cycleRms e.iSquares e.n)
  | 0x148 => some e.vRms1s
  | 0x14C => some e.iRms1s
  | 0x150 => some (wordOfI e.vDc1s 0)
  | 0x154 => some (wordOfI e.iDc1s 0)
  | 0x158 => some (wordOf e.window1s 0)
  | 0x15C => some (wordOf e.window1s 1)
  | 0x160 => some e.clips
  | _ => none

/-- The registers of an SFE element page that show samples (R112). -/
def Bank.sfeWord (b : Bank) (n ofs : Nat) : Option Nat :=
  let e := b.element n
  match ofs with
  | 0x140 => some (wordOfI e.vr 0)
  | 0x144 => some (wordOfI e.h 0)
  | 0x148 => some (wordOfI e.l 0)
  | 0x14C => some (wordOfI e.i 0)
  | _ => none

/-- The arrays of an MTR page: published registers, rolling registers, raw totals, remainders and maxima (R144, R208). -/
def Meter.arrayWord (x : Meter) (ofs : Nat) : Option Nat :=
  match entryAt ofs 0x200 72 8 with
  | some (j, k) => some (wordOf (x.published j) k)
  | none => match entryAt ofs 0x440 72 4 with
    | some (j, _) => some (x.rolling j)
    | none => match entryAt ofs 0x560 8 12 with
      | some (q, k) => some (wordOf (bitsOf 96 (x.accOf (9 * q))) k)
      | none => match entryAt ofs 0x5C0 8 12 with
        | some (q, k) => some (wordOf (x.remainder (9 * q)) k)
        | none => match entryAt ofs 0x6A0 18 16 with
          | some (j, k) =>
            let y := x.maxOf j
            some (nth [y.w, wordOf y.lc 0, wordOf y.lc 1, y.flags] k)
          | none => none

/-- The registers of an MTR page that show measured values (R144, R169, R208). -/
def Meter.pageWord (x : Meter) (ofs : Nat) : Option Nat :=
  match ofs with
  | 0x00C => some x.statusWord
  | 0x120 => some (x.freq % 2 ^ 17)
  | 0x124 => some (x.n + 256 * x.srcPos + 1024 * x.nominal.toNat)
  | 0x130 => some (wordOfI x.p 0)
  | 0x134 => some (wordOfI x.p 1)
  | 0x138 => some (wordOfI x.q 0)
  | 0x13C => some (wordOfI x.q 1)
  | 0x140 => some (wordOfI x.sp 0)
  | 0x144 => some (wordOfI x.sp 1)
  | 0x148 => some (wordOfI x.sq 0)
  | 0x14C => some (wordOfI x.sq 1)
  | 0x150 => some (wordOf x.a 0)
  | 0x154 => some (wordOf x.a 1)
  | 0x158 => some (x.exporting.toNat + 2 * x.quadrant)
  | 0x620 => some (wordOf (x.compTotal true) 0)
  | 0x624 => some (wordOf (x.compTotal true) 1)
  | 0x628 => some (wordOf (x.compTotal false) 0)
  | 0x62C => some (wordOf (x.compTotal false) 1)
  | 0x670 => some x.rc
  | 0x674 => some (bitsOf 16 x.temp)
  | 0x678 => some x.compWord
  | 0x680 => some x.lastImp
  | 0x684 => some x.lastExp
  | 0x688 => some x.runImp
  | 0x68C => some x.runExp
  | 0x690 => some x.lastFlags
  | _ =>
    match entryAt ofs 0x640 1 12 with
    | some (_, k) => some (wordOf x.i2 k)
    | none => match entryAt ofs 0x650 1 16 with
      | some (_, k) => some (wordOf x.lossImp k)
      | none => match entryAt ofs 0x660 1 16 with
        | some (_, k) => some (wordOf x.lossExp k)
        | none => x.arrayWord ofs

/-- The start Stride of the earliest open event (R185). -/
def Quality.openSince (q : Quality) : Nat :=
  match [q.sag, q.swell, q.intr].filterMap (fun (e : Option OpenEvent) => e.map fun x => x.start) with
  | [] => 0
  | s :: l => l.foldl min s

/-- The registers of a PQM page that show measured values (R177, R185). -/
def Chip.pqmWord (c : Chip) (n ofs : Nat) : Option Nat :=
  let q := (c.frontBank.element n).pq
  match ofs with
  | 0x00C =>
    let susp := q.suspended || !c.flag (SFE_PATH_CFG_v_en n)
    some (q.sag.isSome.toNat + 2 * q.swell.isSome.toNat + 4 * q.intr.isSome.toNat + 8 * susp.toNat +
      16 * (c.flag (PQM_CFG_en n) && c.flag (SFE_ASSIGN_kind n)).toNat +
      32 * (c.inAggregate n && decide (c.rd (SFE_ASSIGN_pos n) < 3)).toNat)
  | 0x120 => some (wordOfI q.lastU 0)
  | 0x124 => some q.lastLen
  | 0x128 => some ((q.sag.map fun e => e.extreme).getD 0)
  | 0x12C => some ((q.swell.map fun e => e.extreme).getD 0)
  | 0x130 => some (wordOf q.openSince 0)
  | 0x134 => some (wordOf q.openSince 1)
  | 0x138 => some (q.sags % 2 ^ 16 + 2 ^ 16 * (q.swells % 2 ^ 16))
  | 0x13C => some (q.intrs % 2 ^ 16)
  | _ => none

/-! ### Live words -/

/-- Word k of a bitmap over elements. -/
def bitmapWord (k : Nat) (f : Nat → Bool) : Nat := (List.range 32).foldl (fun x i => if f (32 * k + i) then x + 2 ^ i else x) 0

/-- The live words of the event controller (R447–R464). -/
def Chip.evcWord (c : Chip) (ofs : Nat) : Option Nat :=
  match entryAt ofs 0x100 8 0x40 with
  | some (t, 3) => some (c.privatePending t)
  | some (t, 6) =>
    let s := c.rd (EVC_TSTAT t) % 2 ^ 19 + 2 ^ 20 * c.rd (EVC_TSTAT_redir_in t)
    let s := if c.requesting t && c.flag (EVC_TSTAT_wfi t) then s - 2 ^ 16 else s
    some (s + 2 ^ 19 * (decide (targetPlane (c.rd (EVC_TCFG_fallback t)) = targetPlane t)).toNat + 2 ^ 21 * (c.requesting t).toNat)
  | some _ => none
  | none => match entryAt ofs 0x300 32 4 with
    | some (w, _) => some (bitmapWord w fun i =>
        match c.aliased (i + 32) with
        | some (t, k) => bit (c.privatePending t) k
        | none => c.srcPending (i + 32))
    | none => match entryAt ofs 0x400 32 4 with
      | some (w, _) => some (bitmapWord w fun i =>
          match c.aliased (i + 32) with
          | some (t, k) => c.flag ((EVC_PRIV_TYPE t).bitOf k)
          | none => srcIsEdge (i + 32))
      | none => none

/-- The summary bitmaps of the front end take the state at the snapshot publication (R111): health faults, and the elements in the low
state, where a disabled element lies too. -/
def Chip.showSummary (c : Chip) : Chip :=
  let fault (k : Nat) : Nat := bitmapWord k fun e => decide (e < c.variant.elements) && c.flag (SFE_ESTATUS_health_fault e)
  let low (k : Nat) : Nat := bitmapWord k fun e => decide (e < c.variant.elements) && (c.elem e).low
  (((c.put SFE_FAULT_LO_elem (fault 0)).put SFE_FAULT_HI_elem (fault 1)).put SFE_LOW_LO_elem (low 0)).put SFE_LOW_HI_elem (low 1)

/-- The words of a page that the module computes when they are read; none where the register itself holds them. -/
def Chip.liveWord (c : Chip) (b : Blk) (n ofs : Nat) : Option Nat :=
  if ofs = 0x018 ∧ b ≠ .mbx ∧ b ≠ .vrq then some (c.pendWord (pageOf b n)).toNat
  else match b with
    | .evc => c.evcWord ofs
    | .stg => if ofs = 0x100 then some (wordOf c.stride 0) else if ofs = 0x104 then some (wordOf c.stride 1) else none
    | .sfg => if ofs = 0x1A8 then some (putBit (c.rd SFE_CAL_TEMP) 16 c.trimRemote) else none
    | .dsp => if ofs = 0x00C then some (putBit (c.rd DSP_STATUS) 0 c.linkRuns) else none
    | .sfe => c.frontBank.sfeWord n ofs
    | .met => c.frontBank.metWord n ofs
    | .mtr => (c.frontBank.meter n).pageWord ofs
    | .pqm => c.pqmWord n ofs
    | .net =>
      if ofs = 0x430 then some (c.streamRate 0) else if ofs = 0x470 then some (c.streamRate 1) else none
    | .ant =>
      if ofs = 0x00C then
        let w := c.rd (TAG_ANT_ST n)
        some (putBit w 1 (c.antClaimed n))
      else none
    | .vlt | .vlp => if pageOf b n + ofs = VLT_KW_GEN.addr then some c.keyGeneration else none
    | _ => none

/-- The value of the word at an address of a page: computed, stored, or zero for the write-only bits and for the shadow of a register
that is not staged (R47, R54). -/
def Chip.wordAt (c : Chip) (a : Nat) : Nat :=
  match locate c.variant a with
  | none => 0
  | some (b, n) =>
    let ofs := (a - b.base) % b.pitch
    if absentEntry c.variant b ofs then 0
    else if b = .mbx then
      if ofs < 0x400 then Memory.le c.mem a 4 else (c.word a &&& ~~~BitVec.ofNat 32 (match rowAt b ofs with
        | some (r, _) => r.wo
        | none => 0)).toNat
    else if b ≠ .vrq ∧ 0x800 ≤ ofs then
      let m := stagedMask b (activeOfs ofs)
      (c.word a &&& BitVec.ofNat 32 m).toNat
    else match c.liveWord b n ofs with
      | some x => x
      | none => match rowAt b ofs with
        | some (r, _) => (c.word a &&& ~~~BitVec.ofNat 32 r.wo).toNat
        | none => (c.word a).toNat

/-! ### Latches -/

/-- The other words of the multi-word register whose word 0 lies at a page offset (R64, R76–R80, R111, R143, R144, R167, R169, R185,
R207, R208, R237, R264, R367). -/
def latchedBy (b : Blk) (ofs : Nat) : List Nat :=
  let pair (l : List Nat) : List Nat := if l.contains ofs then [ofs + 4] else []
  match b with
  | .tim => if ofs = 0x160 then [0x164] else if ofs = 0x168 then [0x16C, 0x170] else []
  | .stg => pair [0x100]
  | .sfg => pair [0x1A0]
  | .sfe => pair [0x124]
  | .met => pair [0x120, 0x128, 0x158]
  | .pqm => pair [0x130]
  | .trf => pair [0x11C, 0x150]
  | .dmd => pair [0x118, 0x120]
  | .ldg => pair [LDG_SAVE_STRIDE_LO.addr % 0x1000, LDG_COMMIT_STRIDE_LO.addr % 0x1000, LDG_RESTORE_STRIDE_LO.addr % 0x1000,
      LDG_RESTORE_LC_LO.addr % 0x1000]
  | .opt => pair [0x130]
  | .hrn => pair [0x108, 0x118, 0x120]
  | .mtr =>
    if ofs = 0x640 then [0x644, 0x648]
    else if ofs = 0x650 ∨ ofs = 0x660 then [ofs + 4, ofs + 8, ofs + 12]
    else match entryAt ofs 0x200 72 8, entryAt ofs 0x560 8 12, entryAt ofs 0x5C0 8 12, entryAt ofs 0x6A0 18 16 with
      | some (_, 0), _, _, _ => [ofs + 4]
      | _, some (_, 0), _, _ => [ofs + 4, ofs + 8]
      | _, _, some (_, 0), _ => [ofs + 4, ofs + 8]
      | _, _, _, some (_, 0) => [ofs + 4, ofs + 8, ofs + 12]
      | _, _, _, _ => pair [0x108, 0x130, 0x138, 0x140, 0x148, 0x150, 0x620, 0x628]
  | _ => []

/-- A page offset that reads as latched. -/
def isLatched (b : Blk) (ofs : Nat) : Bool := [4, 8, 12].any fun d => decide (d ≤ ofs) && (latchedBy b (ofs - d)).contains ofs

/-! ### The snapshot windows -/

/-- The word at an offset of a block of fields, each an offset, a length in bytes and a value; zero between them. -/
def fieldWord (l : List (Nat × Nat × Nat)) (ofs : Nat) : Nat :=
  match l.find? fun f => decide (f.1 ≤ ofs) && decide (ofs < f.1 + f.2.1) with
  | some f => f.2.2 / 256 ^ (ofs - f.1) % 2 ^ 32
  | none => 0

/-- The block of meter m in the meter window (R228). -/
def Bank.meterBlock (b : Bank) (m : Nat) : List (Nat × Nat × Nat) :=
  let x := b.meter m
  let n := nth b.billing 9
  let sum (f : SubInterval → Int) : Nat := bitsOf 192 (sumI ((x.closed.take n).map f))
  [(0x000, 8, b.stride), (0x008, 8, b.lc), (0x010, 4, x.statusWord), (0x014, 4, b.tariff), (0x018, 8, x.c)] ++
  ((List.range 72).flatMap fun j =>
    [(0x020 + 48 * j, 12, bitsOf 96 (x.accOf j)), (0x02C + 48 * j, 12, x.remainder j), (0x038 + 48 * j, 24, bitsOf 192 (x.baseOf j))]) ++
  ((List.range 8).map fun q => (0xDA0 + 16 * q, 16, bitsOf 128 (x.provOf q))) ++
  [(0xE20, 16, x.i2), (0xE30, 16, x.lossImp), (0xE40, 16, x.lossExp), (0xE50, 32, bitsOf 256 x.baseLossImp),
    (0xE70, 32, bitsOf 256 x.baseLossExp), (0xE90, 8, x.cr), (0xEA0, 24, bitsOf 192 x.zImp), (0xEB8, 24, bitsOf 192 x.zExp),
    (0xED0, 24, sum fun s => s.imp), (0xEE8, 24, sum fun s => s.exp), (0xF00, 8, nth b.billing 7), (0xF08, 8, nth b.billing 3),
    (0xF10, 8, nth b.billing 8), (0xF18, 4, nth b.billing 2 ||| x.zFlags), (0xF1C, 4, n)]

/-- The block of element n in the element window (R229). -/
def Bank.elementBlock (b : Bank) (n : Nat) : List (Nat × Nat × Nat) :=
  let e := b.element n
  [(0x00, 8, b.stride), (0x08, 4, bitsOf 32 e.vr), (0x0C, 4, bitsOf 32 e.h), (0x10, 4, bitsOf 32 e.l), (0x14, 4, bitsOf 32 e.i),
    (0x18, 4, bitsOf 32 e.vc), (0x1C, 4, bitsOf 32 e.ic), (0x20, 4, bitsOf 32 e.v90), (0x28, 8, bitsOf 64 e.p), (0x30, 8, bitsOf 64 e.q),
    (0x38, 4, e.freq), (0x3C, 4, e.n), (0x40, 4, cycleRms e.vSquares e.n), (0x44, 4, cycleRms e.iSquares e.n),
    (0x48, 4, Sparse.get (fun _ => 0) b.estatus n), (0x4C, 4, Sparse.get (fun _ => 0) b.health n), (0x50, 4, b.metStatus n)]

/-- The head of the billing window (R229). -/
def Bank.billingHead (b : Bank) : List (Nat × Nat × Nat) :=
  [(0x00, 8, b.stride), (0x08, 8, b.lc), (0x10, 4, nth b.billing 0), (0x14, 4, nth b.billing 1), (0x18, 4, nth b.billing 2),
    (0x20, 8, nth b.billing 3), (0x28, 8, nth b.billing 4), (0x30, 8, nth b.billing 5), (0x38, 8, nth b.billing 6)]

/-- The word at an offset of a bank of a window: 0 meter, 1 element, 2 billing; zero for absent meters and elements, and until the bank
is written (R227, R241). -/
def Chip.bankWord (c : Chip) (b : Bank) (window ofs : Nat) : Nat :=
  if ¬ b.written then 0
  else if window = 0 then
    let m := ofs / 0x1000
    if m < c.variant.meters then fieldWord (b.meterBlock m) (ofs % 0x1000) else if ofs < 8 then wordOf b.stride (ofs / 4) else 0
  else if window = 1 then
    let n := ofs / 0x80
    if n < c.variant.elements then fieldWord (b.elementBlock n) (ofs % 0x80) else 0
  else match entryAt ofs 0x40 c.variant.meters 288 with
    | some (m, k) =>
      let y := (b.meter m).maxOf (k / 4)
      nth [y.w, wordOf y.lc 0, wordOf y.lc 1, y.flags] (k % 4)
    | none => fieldWord b.billingHead ofs

/-- The write-progress word: the Stride's number from 80 µs after its edge (R25). -/
def Chip.progress (c : Chip) : Nat := if c.fold.running ∧ 8000 ≤ c.cycle then c.stride else c.fold.progress

/-- The word at an offset of a snapshot window: its control page, then its three banks (R227). -/
def Chip.windowWord (c : Chip) (window ofs : Nat) : Nat :=
  let start := if window = 0 then 0x10000 else if window = 1 then 0x1000 else 0x4000
  let size := if window = 0 then 0x30000 else if window = 1 then 0x2000 else 0x4000
  if ofs = 0 then c.fold.front
  else if ofs = 8 then wordOf c.progress 0
  else if start ≤ ofs ∧ ofs < start + 3 * size then
    c.bankWord (Sparse.get (fun _ => {}) c.fold.banks ((ofs - start) / size)) window ((ofs - start) % size)
  else 0

end Sys2Proof.Machine
end

