-- ==== Sys2Proof/Machine/RegAccess.lean ====
section
/-! DEFINITION. REGISTER_WRITE and LATCHED_WORD_READ: bus accesses to registers that have no row of their own, to the snapshot windows
and to the memories that a bus reaches (R22, R44–R49, R64, R143, R227). -/

namespace Sys2Proof.Machine

/-! ### Which register -/

/-- Write-only registers that hold data for a later command; every other write-only register is a command with a row of its own. -/
def dataRegister (b : Blk) (ofs : Nat) : Bool :=
  match b with
  | .ldg => decide (0x200 ≤ ofs) && decide (ofs < 0x240)
  | .opt => decide (0x144 ≤ ofs) && decide (ofs < 0x154)
  | .hrn => decide (0x200 ≤ ofs) && decide (ofs < 0x240)
  | .tag => ofs == 0x1C4
  | .vlp => decide (0x108 ≤ ofs) && decide (ofs < 0x148)
  | .upu => decide (0x200 ≤ ofs) && decide (ofs < 0x300)
  | .vrq => true
  | _ => false

/-- Registers that hold a value and whose writes have a row of their own. -/
def commandValue (b : Blk) (ofs : Nat) : Bool :=
  match b with
  | .mbx => decide (ofs < 0x400) || ofs == 0x404 || ofs == 0x408
  | .fab => ofs == 0x138 || (decide (0x200 ≤ ofs) && decide (ofs < 0x400))
  | .evc => ofs == 0x008 || decide (0x500 ≤ ofs)
  | .tim => decide (0x200 ≤ ofs) && decide (ofs < 0x300) && ofs % 0x20 == 0x10
  | .trf => ofs == TRF_CAL_DATA.addr % 0x1000
  | .dsp => ofs == 0x204
  | .opt => ofs == 0x104 || ofs == 0x178
  | .lsg => ofs == 0x008
  | .lsw => ofs == 0x130
  | .saf => ofs == 0x404
  | .net => ofs == 0x400 || ofs == 0x440 || (decide (0x140 ≤ ofs) && decide (ofs < 0x1C0) && ofs % 0x10 == 0xC)
  | _ => false

/-- The write-only bits of a register. -/
def commandMask (b : Blk) (ofs : Nat) : Nat :=
  match rowAt b ofs with
  | some (r, _) => r.wo
  | none => 0

/-- A write of the register at a page offset is another row of the table: a staged register (SHADOW_WRITE), EV_PEND, EV_TYPE, OWNER, or
a command. -/
def hasOwnRow (b : Blk) (ofs : Nat) : Bool :=
  commandValue b ofs || (stagedMask b (activeOfs ofs) != 0 && b != .vrq) || (commandMask b ofs != 0 && !dataRegister b ofs) ||
    (b != .vrq && (ofs == 0x018 || ofs == 0x01C || ofs == 0x030))

/-- A read of the register at a page offset is another row of the table. -/
def readHasOwnRow (b : Blk) (ofs : Nat) : Bool :=
  match b with
  | .tim => ofs == 0x100 || (decide (0x300 ≤ ofs) && decide (ofs < 0x400) && ofs % 0x20 == 4)
  | .evc => decide (0x100 ≤ ofs) && decide (ofs < 0x300) && 0x40010000 + ofs == (EVC_CLAIM ((ofs - 0x100) / 0x40)).addr
  | .trf => ofs == TRF_CAL_DATA.addr % 0x1000
  | .dsp => ofs == 0x204 || ofs == 0x904
  | .ldg => ofs == LDG_RD_DATA.addr % 0x1000
  | .saf => ofs == 0x404
  | _ => false

/-- The page offset is a shadow location (R44, R47). -/
def isShadow (b : Blk) (ofs : Nat) : Bool :=
  b != .vrq && b != .mbx && ((decide (0x800 ≤ ofs) && decide (ofs < 0xF00)) || ofs == 0xF08)

/-- The receiver of a mailbox slot reads it while it is free (R29). -/
def Chip.freeSlotRead (c : Chip) (plane p ofs : Nat) : Bool :=
  decide (ofs < 0x400) && !c.flag ((MBX_STATE_full p).bitOf (ofs / 0x40)) &&
    plane == (if ofs / 0x40 < 8 then (pairPlanes p).2 else (pairPlanes p).1)

/-! ### A write that lands -/

/-- The bits that a write may store in a register, and those that a 1 clears. -/
def storeMask (b : Blk) (ofs : Nat) : Nat :=
  match rowAt b ofs with
  | some (r, _) => r.rw ||| (if dataRegister b ofs then r.wo else 0)
  | none => if b ≠ .vrq ∧ ofs = 0x014 then 0xFFFFFFFF else 0

def clearMask (b : Blk) (ofs : Nat) : Nat :=
  match rowAt b ofs with
  | some (r, _) => r.w1c
  | none => 0

/-- The word of a register after a write: read-write bits take the value, write-one-to-clear bits clear where it holds 1, and every
other bit keeps (R16, R46). -/
def writtenWord (old : Word) (v rw w1c : Nat) : Word :=
  let m := BitVec.ofNat 32 rw
  let x := BitVec.ofNat 32 v
  ((old &&& ~~~m) ||| (x &&& m)) &&& ~~~(x &&& BitVec.ofNat 32 w1c)

/-- The write of a register at its address. -/
def Chip.store32 (c : Chip) (b : Blk) (a ofs v : Nat) : Chip :=
  c.setWord a (writtenWord (c.word a) v (storeMask b ofs) (clearMask b ofs))

/-- A write of a TIM register (R63, R70, R71, R80). -/
def Chip.storeTim (c : Chip) (a ofs v : Nat) : Chip :=
  match ofs with
  | 0x008 => (c.store32 .tim a ofs v).timCtrlWritten
  | 0x110 => if c.flag TIM_CTRL_servo_en then c else c.setRate (signed 32 (v % 2 ^ 32))
  | 0x148 => if c.flag TIM_CTRL_flock then c else (c.store32 .tim a ofs v).showVcxo
  | 0x14C => (c.store32 .tim a ofs v).showVcxo
  | _ => c.store32 .tim a ofs v

/-- A write of an OPT register (R248, R256, R257, R264, R265). -/
def Chip.storeOpt (c : Chip) (n a ofs v : Nat) : Chip :=
  match ofs with
  | 0x008 => (c.store32 .opt a ofs v).optCtrlWritten n (c.flag (OPT_CTRL_en n))
  | 0x100 => (c.store32 .opt a ofs (c.optCfgValue n v)).optCfgWritten n v (c.rd (OPT_CFG_comm n))
  | 0x10C => (c.store32 .opt a ofs v).showLimit n
  | 0x164 | 0x16C => (c.store32 .opt a ofs v).optRxTailWritten n
  | _ =>
    if 0x144 ≤ ofs ∧ ofs < 0x154 then c.setPort n fun p => { p with nmk := setNth p.nmk ((ofs - 0x144) / 4) (v % 2 ^ 32) }
    else c.store32 .opt a ofs v

/-- A write of a channel's register: the owner's own drive ends what a takeover left (R363), and the fault status follows (R296). -/
def Chip.storeLsw (c : Chip) (n a ofs v : Nat) : Chip :=
  let c := c.store32 .lsw a ofs v
  if ofs = 0x008 ∨ ofs = 0x100 then c.setPair fun p => { p with follow := putBit p.follow n false }
  else if ofs = 0x00C ∨ ofs = 0x114 then c.noteChannel n
  else c

/-- A write of an engine register (R374, R380–R382): the owner writes a ring's layout, the management plane its plane, and a running
stream's configuration is not written. -/
def Chip.storeNet (c : Chip) (plane a ofs v : Nat) : Chip :=
  if ofs = 0x008 then (c.store32 .net a ofs v).netCtrlWritten
  else if 0x100 ≤ ofs ∧ ofs < 0x120 then
    let r := (ofs - 0x100) / 4
    let c := if plane = 2 ∧ v % 4 ≠ c.rd (NET_RING_CFG_plane r) then c.setRingPlane r (v % 4) else c
    if plane = c.rd (ownerFld netPage) then c.setWord a (writtenWord (c.word a) v 0xFFFF0FF0 0) else c
  else if 0x400 ≤ ofs ∧ ofs < 0x480 ∧ (ofs - 0x400) % 0x40 < 0x24 then
    let s := (ofs - 0x400) / 0x40
    if (c.stream s).active then c.setFlag (NET_STR_ST_wrote_running s) true else c.store32 .net a ofs v
  else c.store32 .net a ofs v

/-- A write of a port's register (R371, R383). -/
def Chip.storeNtp (c : Chip) (n a ofs v : Nat) : Chip :=
  let was := c.rd (NET_PCTRL_speed n) % 3
  let wasEn := c.flag (NET_PCTRL_en n)
  let c := c.store32 .ntp a ofs v
  if ofs = 0x008 ∧ (c.flag (NET_PCTRL_en n) ≠ wasEn ∨ c.rd (NET_PCTRL_speed n) % 3 ≠ was) then c.netPctrlWritten n else c

/-- A write of a register of the global mains-link page (R402). -/
def Chip.storeMlk (c : Chip) (a ofs v : Nat) : Chip :=
  if [0x100, 0x104, 0x108, 0x114].contains ofs then (if c.flag MLK_CTRL_en then c else (c.store32 .mlk a ofs v).mainsWritten)
  else if ofs = 0x008 then (c.store32 .mlk a ofs v).mainsWritten
  else c.store32 .mlk a ofs v

/-- A write of a register of the tag page (R421). -/
def Chip.storeTag (c : Chip) (a ofs v : Nat) : Chip :=
  if [0x100, 0x104, 0x114].contains ofs then (if c.tagBusy then c else c.store32 .tag a ofs v)
  else if ofs = 0x008 then (c.store32 .tag a ofs v).tagCtrlWritten
  else c.store32 .tag a ofs v

/-- A write to a request window (R437): ignored and flagged while its slot is queued or running, but for an abort. -/
def Chip.storeVreq (c : Chip) (n a ofs v : Nat) : Chip :=
  if ofs = 0x008 then
    if v % 2 = 1 then c.windowGo n else if bit v 1 then c.windowAbort n
    else if c.windowBusy n then c.setFlag (VREQ_ST_wrote_busy n) true else c
  else if c.windowBusy n then c.setFlag (VREQ_ST_wrote_busy n) true
  else c.store32 .vrq a ofs v

/-- A write of a register of the UPD page: clearing reverted or failover clears its fault (R469, R478, R484). -/
def Chip.storeUpd (c : Chip) (a ofs v : Nat) : Chip :=
  let c := c.store32 .upd a ofs v
  if clearMask .upd ofs = 0 then c
  else
    let p := (ofs - 0x100) / ((UPD_PL_ST 1).addr - (UPD_PL_ST 0).addr)
    let c := if bit v 5 then c.planeFault p 5 false else c
    if bit v 6 then c.planeFault p 6 false else c

/-- A register of a block takes the value written, with what the block does on its new value. -/
def Chip.storeBlock (c : Chip) (plane : Nat) (b : Blk) (n a ofs v : Nat) : Chip :=
  match b with
  | .tim => c.storeTim a ofs v
  | .opt => c.storeOpt n a ofs v
  | .can => if ofs = 0x008 then (c.store32 .can a ofs v).canEnable n else c.store32 .can a ofs v
  | .lsw => c.storeLsw n a ofs v
  | .net => c.storeNet plane a ofs v
  | .ntp => c.storeNtp n a ofs v
  | .hrn =>
    if ofs = 0x008 then (c.store32 .hrn a ofs v).settleRole
    else if dataRegister .hrn ofs then
      c.setPair fun p => { p with txWords := Sparse.set (fun _ => 0) p.txWords ((ofs - 0x200) / 4) (BitVec.ofNat 32 v) }
    else c.store32 .hrn a ofs v
  | .mlk => c.storeMlk a ofs v
  | .tag => c.storeTag a ofs v
  | .vrq => c.storeVreq n a ofs v
  | .upd => c.storeUpd a ofs v
  | .upu => if ofs = 0x100 then (c.store32 .upu a ofs v).showUpdate else c.store32 .upu a ofs v
  | .evc => (c.store32 .evc a ofs v).settleSources
  | .trf => if (ofs = 0x138 ∨ ofs = 0x13C) ∧ c.calArmed then c else c.store32 .trf a ofs v
  | _ => c.store32 b a ofs v

/-- A write that has passed the checks lands in the register, with what follows from its new value; an enable of events changes what a
page asserts (R46, R456). -/
def Chip.storeRegister (c : Chip) (plane : Nat) (b : Blk) (n a ofs v : Nat) : Chip :=
  let c := c.storeBlock plane b n a ofs v
  if ofs = 0x014 then c.settleSources else c

/-! ### Memory that a bus reaches (R22, R259, R374) -/

/-- Addresses of the planes' memories and of the port-traffic buffer. -/
def isMemory (a : Nat) : Bool := decide (a < 0x3F000000) || decide (trafficBase ≤ a)

/-- The private memories of R21 that have no address in the fabric (log 30), each a plane, the model's place and a size: the TCMs of B0
and B1, the SRAM of M0 and that of S0, the L2 SRAM of A0 to A3, and the last 16 MiB of the LPDDR4X, whose fabric addresses the windows
take. The Fold SRAM is the Fold's state: no core reaches it but through the snapshot windows. -/
def privateMemories : List (Nat × Nat × Nat) :=
  [(1, 0x100080000, 0x80000), (1, 0x100100000, 0x80000), (2, 0x100180000, 0x100000), (3, 0x100280000, 0x80000),
   (0, 0x100300000, 0x400000), (0, 0x100700000, 0x1000000)]

/-- The plane may reach n bytes at a memory address: each plane its private memory, a ring's plane the ring's region (R21, R22). -/
def Chip.mayReach (c : Chip) (plane a n : Nat) : Bool :=
  if a < 0x3F000000 then plane == 0
  else if a < 0x100080000 then (List.range 8).any fun r => c.rd (NET_RING_CFG_plane r) == plane && c.inRegion r (a - trafficBase) n
  else privateMemories.any fun m => m.1 == plane && decide (m.2.1 ≤ a) && decide (a + n ≤ m.2.1 + m.2.2)

/-! ### The rows -/

/-- A write of v to address a, at REFCLK cycle `cyc` of the Stride. Where the register's write is another row of the table, this row makes
the checks of R48 alone; a shadow location without a staged register ignores it (R47). An access to memory of another plane is a violation
(R22); its kind, 0 for a write and 2 for a read, is the model's choice, since R48 and R49 name none (log 30). -/
def registerWrite (acc : Access) (a v cyc : Nat) (c : Chip) : Chip :=
  let c := c.advanceTo cyc
  let plane := initiatorPlane acc.by_
  if isMemory a then
    if c.mayReach plane (a + acc.skew) acc.size then c.setBytes (a + acc.skew) (leBytes (min 8 acc.size) v)
    else c.violate acc a 0 true
  else match locate c.variant a with
    | none => c.write acc a v id
    | some (b, n) =>
      let ofs := (a - b.base) % b.pitch
      if isShadow b ofs ∧ stagedMask b (activeOfs ofs) = 0 ∧ ¬ (b = .dsp ∧ ofs = 0x904) then c
      else if hasOwnRow b ofs ∨ isShadow b ofs then c.write acc a v id
      else c.write acc a v fun c =>
        if b = .trf ∧ ofs = 0x130 ∧ c.isOff then c.violate acc a 0 true else c.storeRegister plane b n a ofs v

/-- REGISTER_WRITE (R48). -/
def execRegisterWrite (acc : Access) (a v cyc : Nat) (s : State) : Answer := s.effect (registerWrite acc a v cyc)

/-- A read of a register that has passed its checks: its latched words when it is word 0 of several, itself latched when it is another
(R64, R143, R144). -/
def Chip.readWord (c : Chip) (b : Blk) (a ofs : Nat) : Chip :=
  let x := if isLatched b ofs then (Sparse.get (resetWord c.variant) c.latch a).toNat else c.wordAt a
  let l := (latchedBy b ofs).foldl (fun (l : Sparse Word) o =>
    let k := a + o - ofs
    Sparse.set (resetWord c.variant) l k (BitVec.ofNat 32 (c.wordAt k))) c.latch
  { c with latch := l, rdata := x }

/-- A read of a snapshot window (R227): every plane may read, and a read of the low word of the write-progress word latches the high
one. -/
def Chip.readWindow (c : Chip) (acc : Access) (a : Nat) : Chip :=
  if acc.size ≠ 4 ∨ acc.skew ≠ 0 then { c.violate acc a 4 false with rdata := 0 }
  else
    let ofs := a % 0x100000
    if ofs = 12 then { c with rdata := (Sparse.get (resetWord c.variant) c.latch a).toNat }
    else
      let c := if ofs = 8 then
          { c with latch := Sparse.set (resetWord c.variant) c.latch (a + 4) (BitVec.ofNat 32 (wordOf c.progress 1)) }
        else c
      { c with rdata := c.windowWord (a / 0x100000 % 4) ofs }

/-- The memory of a CAN controller reads within the read scope of its page (R48, R260). -/
def Chip.readCan (c : Chip) (acc : Access) (a : Nat) : Chip :=
  let n := (a - 0x3FE00000) / 0x4000
  if Blk.can.count c.variant ≤ n then { c with rdata := 0 }
  else if acc.size ≠ 4 ∨ acc.skew ≠ 0 then { c.violate acc a 4 false with rdata := 0 }
  else if ¬ bit (c.rd (scopeFld (canPage n))) (initiatorPlane acc.by_) then { c.violate acc a 2 false with rdata := 0 }
  else { c with rdata := Memory.le c.mem a 4 }

/-- A read of address a. -/
def latchedWordRead (acc : Access) (a : Nat) (c : Chip) : Chip :=
  if isMemory a then
    if c.mayReach (initiatorPlane acc.by_) (a + acc.skew) acc.size then
      { c with rdata := Memory.le c.mem (a + acc.skew) (min 8 acc.size) }
    else { c.violate acc a 2 false with rdata := 0 }
  else if 0x3F000000 ≤ a ∧ a < 0x3F300000 then c.readWindow acc a
  else if 0x3FE00000 ≤ a ∧ a < 0x3FE10000 then c.readCan acc a
  else match locate c.variant a with
    | none => { c with rdata := 0 }
    | some (b, n) =>
      let ofs := (a - b.base) % b.pitch
      if readHasOwnRow b ofs then c
      else if isShadow b ofs ∧ stagedMask b (activeOfs ofs) = 0 then { c with rdata := 0 }
      else c.read acc a fun c =>
        if b = .mbx ∧ c.freeSlotRead (initiatorPlane acc.by_) n ofs then { c with rdata := 0 } else c.readWord b a ofs

/-- LATCHED_WORD_READ (R143). -/
def execLatchedWordRead (acc : Access) (a : Nat) (s : State) : Answer := s.effect (latchedWordRead acc a)

end Sys2Proof.Machine
end

