-- ==== Sys2Proof/Machine/Reset.lean ====
section
/-! DEFINITION. Bring-up, the configuration record, controller-die and module resets, and the module's supply, clock, temperature and
memory faults (R43, R114, R467, R471–R475, R482, R492, R496, R498). -/

namespace Sys2Proof.Machine

/-! ### The configuration record (R114, R145, R186, R209, R241, R348) -/

/-- The boot ROM loads the register at a block's offset from the configuration record: the SFE, PQM, TRF, DMD, DSP and HRN
configuration, and of the MTR and MET pages the registers that R145 names. -/
def configWord (b : Blk) (ofs : Nat) : Bool :=
  match b with
  | .sfg | .sfe | .pqm | .trf | .dmd | .dsp | .hrn => decide (ofs = 0x008 ∨ 0x100 ≤ ofs ∧ ofs < 0x800)
  | .mtr => [0x100, 0x104, 0x108, 0x10C, 0x110].contains ofs
  | .met => ofs == 0x100
  | _ => false

/-- The content of a configuration record (R114, R238): its sequence, its CRC, the words that it loads by address, the words of the
calendars with the CRC recorded with the active one, and the entries of the item table. -/
structure ConfigRecord where
  sequence : Nat := 0
  crc : Nat := 0
  words : List (Nat × Nat) := []
  active : List Nat := []
  activeCrc : Nat := 0
  passive : List Nat := []
  items : List (Nat × Nat) := []
  deriving DecidableEq, Repr

/-- A register takes its value from the record, in its active copy and in its shadow. -/
def Chip.loadWord (c : Chip) (a v : Nat) : Chip :=
  match locate c.variant a with
  | none => c
  | some (b, _) =>
    let ofs := (a - b.base) % b.pitch
    if ¬ configWord b ofs then c
    else match rowAt b ofs with
      | none => c
      | some (r, _) =>
        let m := BitVec.ofNat 32 (r.rw ||| r.st)
        let c := c.setWord a ((c.word a &&& ~~~m) ||| (BitVec.ofNat 32 v &&& m))
        if r.st = 0 then c
        else
          let s := pageBase a + shadowOfs ofs
          c.setWord s ((c.word s &&& ~~~BitVec.ofNat 32 r.st) ||| (BitVec.ofNat 32 v &&& BitVec.ofNat 32 r.st))

/-- A calendar of the record. -/
def calendarWords (l : List Nat) : Sparse Word :=
  ((List.range 553).zip l).foldl (fun (m : Sparse Word) x => Sparse.set (fun _ => 0) m x.1 (BitVec.ofNat 32 x.2)) []

/-- The boot ROM loads the configuration record, and the values are in force from the first Stride of provisional metering (R114);
without one every element stays disabled and the module reports the fault of R502. -/
def Chip.loadConfig (c : Chip) (config : Option ConfigRecord) : Chip :=
  match config with
  | none => c.setFault 5 0x0122 0
  | some r =>
    let c := r.words.foldl (fun (c : Chip) w => c.loadWord w.1 w.2) c
    let c := c.setTrf fun x => { x with active := calendarWords r.active, passive := calendarWords r.passive }
    let crc := calCrc c.trf.active
    let c := (c.put TRF_ACAL_CRC_crc crc).put TRF_PCAL_CRC_crc (calCrc c.trf.passive)
    let c := (c.setFlag TRF_STATUS_cal_fault (crc != r.activeCrc)).faultIs 5 0x1811 0 (crc != r.activeCrc)
    let items := r.items.foldl (fun (m : Sparse Word) x =>
      if x.1 < 2048 then Sparse.set (fun _ => 0) m x.1 (BitVec.ofNat 32 x.2 &&& itemMask) else m) []
    let c := c.setDsp fun d => { d with items := items, shadow := items }
    let c := (c.setLed fun x => { x with config := some r.sequence }).setBoot fun b => { b with configCrc := r.crc }
    let c := forN c.variant.elements (fun n c => if c.flag (SFE_ECTRL_en n) then c.elementEnabled n else c) c
    let c := forN c.variant.meters (fun m c => c.modMeter m fun x => { x with c := c.meterConst m, cr := c.meterCr m }) c
    c.checkMeters.loadDemand

/-- A little-endian word of the ledger store. -/
def Chip.storedWord (c : Chip) (a : Nat) : Nat := ofLe (c.stored a 4)

/-- n words of the ledger store. -/
def Chip.storedWords (c : Chip) (a n : Nat) : List Nat := (List.range n).map fun k => c.storedWord (a + 4 * k)

/-- The bytes of the ledger store, offset and count in a copy, agree with the CRC-32 of R153 at an offset; no bytes agree with none. -/
def Chip.copyCrcOk (c : Chip) (base : Nat) (part : Nat × Nat) (crc : Nat) : Bool :=
  part.2 != 0 && crc32 (c.stored (base + part.1) part.2) == c.storedWord (base + crc)

/-- A copy of the configuration record in the ledger store: it is valid when its header CRC and its body CRC match and no word of it is
spoilt (R211, R238). The body CRC is taken for the CRC of the record (DESIGN CHOICE, log 118). -/
def Chip.configCopy (c : Chip) (base : Nat) (x : ConfigLayout) : Option ConfigRecord :=
  if ¬ c.copyCrcOk base x.header x.headerCrc ∨ ¬ c.copyCrcOk base x.body x.bodyCrc ∨ c.led.spoiltIn base 0x78000 then none
  else
    some
      { sequence := c.storedWord (base + x.sequence), crc := c.storedWord (base + x.bodyCrc)
        words := x.words.map fun p => (p.1, c.storedWord (base + p.2))
        active := c.storedWords (base + x.active.1) x.active.2, activeCrc := c.storedWord (base + x.activeCrc)
        passive := c.storedWords (base + x.passive.1) x.passive.2
        items := x.items.map fun p => (p.1, c.storedWord (base + p.2)) }

/-- The record that the boot ROM loads: of two valid copies the one with the higher record sequence (R238). -/
def Chip.configRecord (c : Chip) (inp : StartInputs) : Option ConfigRecord :=
  match c.configCopy 0x0010000 inp.a, c.configCopy 0x0088000 inp.b with
  | some a, some b => if a.sequence < b.sequence then some b else some a
  | some a, none => some a
  | none, b => b

/-- PAIR_POS is sampled at a module reset, and not at a reset of the controller die alone (R346). -/
def Chip.samplePosition (c : Chip) (level : Bool) : Chip :=
  if c.boot.positionKnown then c
  else (c.setFlag HRN_STATUS_pos level).setBoot fun b => { b with positionKnown := true }

/-- Steps 3, 4 and 6 of R467: the configuration load, provisional metering, and the start of the management image. -/
def Chip.bringUp (c : Chip) (inp : StartInputs) : Chip :=
  let c := c.samplePosition inp.position
  let c := (c.loadConfig (c.configRecord inp)).clockGroups true
  let c := { c with fold := { c.fold with running := true, crcDue := true, crcStgDue := true } }
  (c.settleRole).queueStart 2

/-- Step 2 of R467 in the safety logic die: the stored block is checked; every cut output is asserted (R344). -/
def Chip.checkStoredBlock (c : Chip) : Chip := ((c.computeBlock.showBlock).showConfirmed).settleSafety

/-- VIN has been in range for 5 ms (R467): with REFCLK at fault the controller die stays in reset after step 2 (R496). -/
def powerGood (inp : StartInputs) (c : Chip) : Chip :=
  if ¬ c.boot.powered then c
  else
    let c := ((c.put FAB_RST_CAUSE_cause 1).put FAB_RST_CAUSE_plane 0).checkStoredBlock
    let c := c.setBoot fun b => { b with powered := false, held := b.refclkBad }
    if c.boot.held then c else c.bringUp inp

/-- POWER_GOOD (R467). -/
def execPowerGood (inp : StartInputs) (s : State) : Answer := s.effect (powerGood inp)

/-- The hold of a controller-die or module reset ends, after its 1 ms or once REFCLK has been good for 1 s (R473, R496). -/
def resetRelease (inp : StartInputs) (c : Chip) : Chip :=
  if ¬ c.boot.held ∨ c.boot.powered then c
  else (c.setBoot fun b => { b with held := false, refclkBad := false }).bringUp inp

/-- RESET_RELEASE (R473). -/
def execResetRelease (inp : StartInputs) (s : State) : Answer := s.effect (resetRelease inp)

/-! ### Controller-die and module resets (R473–R475) -/

/-- Registers whose value every reset keeps: the bridle map in force with its CRC and count (R293, R295), LSW_TOFF (R296), the confirmed
CRCs (R337), FAB_RST_CAUSE (R475), the vault's identity, and UPD_KH_ST (R486). -/
def keptAlways (a : Nat) : Bool :=
  (decide (0x40300160 ≤ a) && decide (a < 0x403001A0)) || (decide (0x40310000 ≤ a) && decide (a < 0x40350000) && a % 0x1000 == 0x128) ||
    [0x403001A8, 0x403001AC, 0x40400420, 0x40400424, 0x40000114, 0x40580100, 0x40580104, 0x40580108, 0x4058010C, 0x405A0338].contains a

/-- The parts of the ledger store that last without power; a save whose write is cut stays invalid (R226). The filtered level of PFW_N is
not among them: one that is still asserted after the reset asserts anew (DESIGN CHOICE, log 117: the spec does not say). -/
def Ledger.stored (y : Ledger) : Ledger :=
  let x := y.dropSaving
  { everSaved := x.everSaved, saves := x.saves, commits := x.commits, tails := x.tails, journal := x.journal
    nextSave := x.nextSave, nextCommit := x.nextCommit, logNext := x.logNext, logOldest := x.logOldest, formatted := x.formatted
    spoilt := x.spoilt, auditCount := x.auditCount, auditAfter := x.auditAfter, rejected := x.rejected }

/-- An e-stop as its contacts stand when the safety logic die starts. -/
def Estop.fresh (e : Estop) : Estop := { closedA := e.closedA, closedB := e.closedB }

/-- The block after a reset of every die, held in reset: what is stored and what stands at its pins is kept, and with it an overvoltage
that has not ended (R492). -/
def Chip.resetDies (c : Chip) : Chip :=
  let c := c.spoilUpdate
  let d : Chip :=
    { variant := c.variant, mram := c.mram, drawn := c.drawn, regs := c.regs.filter fun p => keptAlways p.1
      led := c.led.stored
      vlt := { banks := c.vlt.banks, entries := c.vlt.entries, header := c.vlt.header, halters := c.vlt.halters, stored := c.vlt.stored }
      boot :=
        { nor := c.boot.nor, records := c.boot.records, hashes := c.boot.hashes, spoilt := c.boot.spoilt
          held := true, powered := c.boot.powered, refclkBad := c.boot.refclkBad }
      load := { pins := c.load.pins, reqHigh := c.load.reqHigh }
      saf :=
        { stored := c.saf.stored
          estops := (c.saf.estops.map fun e => (e.1, e.2.fresh)).filter fun e => e.2 != ({} : Estop) }
      pair := { select := c.pair.select }
      faults := c.faults.filter fun f => f.code == 0x0120 }
  let d := d.setFlag HRN_STATUS_pos (c.flag HRN_STATUS_pos)
  let d := (d.put LSW_BRIDLE_IN_in (c.rd LSW_BRIDLE_IN_in)).setFlag LSW_BRIDLE_IN_req_low (c.flag LSW_BRIDLE_IN_req_low)
  let d := forN 4 (fun p (d : Chip) =>
    d.put (UPD_PL_ST_svn_min p) (c.rd (UPD_PL_ST_svn_min p))) d
  let d := d.checkStoredBlock
  forN 4 (fun k (d : Chip) =>
    let e := d.estop k
    if e.closedA && e.closedB then d else (d.actuate k).settleSafety) d

/-- A reset records its cause (R475). -/
def Chip.resetCause (c : Chip) (cause plane : Nat) : Chip := (c.put FAB_RST_CAUSE_cause cause).put FAB_RST_CAUSE_plane plane

/-- The bits of a load-switch register that its switch die holds (R297): status and counters from offset 0x100 on and STATUS, but not what
the controller die shows of its own: links, refusals, the coil check, the take, the commit, the sense slots and the result of a
diagnosis. -/
def switchDieMask (v : Variant) (a : Nat) : Nat :=
  match locate v a with
  | some (b, _) =>
    let ofs := (a - b.base) % b.pitch
    if b = .lsg ∧ ofs = 0x00C then 0x8B
    else if b = .lsw ∧ ofs = 0x134 then 0
    else if b = .lsw ∧ ofs = 0x00C then 0xFFFCFFFF
    else if (b = .lsw ∨ b = .lsg) ∧ (ofs = 0x00C ∨ 0x100 ≤ ofs) ∧
        ¬ (b = .lsg ∧ ([0x114, 0x118, 0x11C, 0x1A4].contains ofs ∨ 0x200 ≤ ofs)) then
      match rowAt b ofs with
      | some (r, _) => 2 ^ 32 - 1 - (r.rw ||| r.st ||| r.w1c)
      | none => 0
    else 0
  | none => 0

/-- A Flock as its outside conditions leave it over a reset of the controller die. -/
def Flock.overReset (k : Flock) : Flock :=
  { causes := ⟨causeStart, 2, 0, true⟩ :: k.causes.filter fun j => j.outside && j.bit != causeStart }

/-- The residual-current comparators of the safety logic die, which a reset of the controller die leaves running (R20). -/
def Residual.crook (r : Residual) : Residual :=
  { levelA := r.levelA, tripA := r.tripA, holdsA := r.holdsA, latchedA := r.latchedA }

/-- A fault that the switch dies report (R473), but for those of the channels, whose level follows LSW_CFG (R298), and the coil check. -/
def ActiveFault.ofSwitches (f : ActiveFault) : Bool := (f.code / 256 == 0x30 && f.code != 0x3004) || f.code == 0x0120

/-- A controller-die reset (R473): the switch dies enter bridle mode with their protection state kept, every B output asserts, every
page of the die takes its reset value, and the die is held. A position clash clears only at a module reset (R348). -/
def Chip.dieReset (c : Chip) : Chip :=
  let d := c.resetDies
  let d := c.regs.foldl (fun (d : Chip) p =>
    let m := BitVec.ofNat 32 (switchDieMask c.variant p.1)
    if m = 0 then d else d.setWord p.1 ((d.word p.1 &&& ~~~m) ||| (p.2 &&& m))) d
  let d := (d.setFlag LSW_GSTATUS_wd_both false).setBoot fun b => { b with positionKnown := c.boot.positionKnown }
  let d : Chip := { d with 
    load := { c.load with wdManagement := false, wdSafety := false, take := false, slots := [], converting := [] }
    faults := c.faults.filter ActiveFault.ofSwitches }
  let clash := c.flag HRN_STATUS_pos_clash
  let d : Chip := { d with faults := d.faults ++ d.loadFaults }
  let d := forN d.variant.channels (fun n (d : Chip) => d.setRaw (lswPage n) 7 (d.channelFault n)) d
  let d := (d.setFlag HRN_STATUS_pos_clash clash).faultIs 6 0x520D 0 clash
  let d := d.setSaf fun s =>
    { s with
      flocks := (c.saf.flocks.map fun k => (k.1, k.2.overReset)).filter fun k => k.2 != ({} : Flock)
      estops := c.saf.estops, cutA := c.saf.cutA, adopted := c.saf.adopted, adoptedYet := c.saf.adoptedYet, invalidReads := c.saf.invalidReads
      crookPaired := c.saf.crookPaired, crookStrap := c.saf.crookStrap
      rcm := (c.saf.rcm.map fun r => (r.1, r.2.crook)).filter fun r => r.2 != ({} : Residual) }
  let d := forN d.variant.flocks (fun f (d : Chip) =>
    d.put (SAF_FLOCK_ST_state f) ((d.flock f).causes.foldl (fun x k => max x k.state) 2)) d
  ((d.showBridle.bothBridle 2).showCrook).settleSafety

/-- The reset that waits is carried out once its commit is written; none is taken while PFW_N is accepted or before the ledger is
restored (R224, R473, R474). -/
def controllerDieReset (c : Chip) : Chip :=
  match c.boot.wanted with
  | none => c
  | some (module, cause, plane) =>
    if c.led.resetDone ∨ c.flag LDG_STATUS_pfw ∨ ¬ c.flag LDG_STATUS_restored then
      (if module then c.resetDies else c.dieReset).resetCause cause plane
    else c

/-- CONTROLLER_DIE_RESET (R473). -/
def execControllerDieReset (s : State) : Answer := s.effect controllerDieReset

/-- A keyed write of FAB_RST starts the widest kind that it names (R471); one during a reset commit joins it (R482). -/
def resetWrite (acc : Access) (v : Nat) (c : Chip) : Chip :=
  c.write acc FAB_RST.addr v fun c =>
    if v / 65536 % 65536 ≠ resetKey then c
    else if bit v 9 then c.requestReset true 3 0
    else if bit v 8 then c.requestReset false 4 0
    else forN 4 (fun p c => if bit v p then c.planeReset p else c) c

/-- PLANE_RESET_CMD (R471). -/
def execPlaneResetCmd (acc : Access) (v : Nat) (s : State) : Answer := s.effect (resetWrite acc v)

/-- DIE_RESET_CMD (R471). -/
def execDieResetCmd (acc : Access) (v : Nat) (s : State) : Answer := s.effect (resetWrite acc v)

/-- MODULE_RESET_CMD (R474). -/
def execModuleResetCmd (acc : Access) (v : Nat) (s : State) : Answer := s.effect (resetWrite acc v)

/-- RESET_N has been low for 10 µs: a module reset at once, with no commit (R471, R474). -/
def resetNPin (c : Chip) : Chip := c.resetDies.resetCause 2 0

/-- RESET_N_PIN (R471). -/
def execResetNPin (s : State) : Answer := s.effect resetNPin

/-! ### Supply, clock, temperature and memory -/

/-- VIN falls below 9.0 V: every die resets and every output turns off (R492). -/
def vinCollapse (c : Chip) : Chip := (c.resetDies.clearFault 5 0x0120 0).setBoot fun b => { b with powered := true }

/-- VIN_COLLAPSE (R492). -/
def execVinCollapse (s : State) : Answer := s.effect vinCollapse

/-- VIN above 33 V is a fault until it falls below 32 V; before power good every die is in reset, and none is reported (R492). -/
def vinOvervoltage (mv : Nat) (c : Chip) : Chip :=
  if c.boot.powered then c
  else if 33000 < mv then c.setFault 5 0x0120 0 else if mv < 32000 then c.clearFault 5 0x0120 0 else c

/-- VIN_OVERVOLTAGE (R492). -/
def execVinOvervoltage (mv : Nat) (s : State) : Answer := s.effect (vinOvervoltage mv)

/-- REFCLK is absent or beyond ±1000 ppm: at power-up the controller die stays in reset; in service it takes a controller-die reset
(R496). Its cause is a code that R475 does not name (log 1). -/
def refclkFault (c : Chip) : Chip :=
  let c := c.setBoot fun b => { b with refclkBad := true }
  if c.boot.powered ∨ c.boot.held then c
  else
    let (v, c) := c.draw
    c.requestReset false (v % 8) 0

/-- REFCLK_FAULT (R496). -/
def execRefclkFault (s : State) : Answer := s.effect refclkFault

/-- The die temperature has read 110 °C or more for 10 s (R498). -/
def dieOvertemp (c : Chip) : Chip := if 10 ≤ c.fold.dieHot then c.setFault 5 0x0121 0 else c

/-- DIE_OVERTEMP (R498). -/
def execDieOvertemp (s : State) : Answer := s.effect dieOvertemp

/-- S0 stops on a fault that its hardware detects: every B output asserts, every Flock goes to Cut, and the safety plane takes a plane
reset (R325). -/
def Chip.safetyPlaneFault (c : Chip) (unit : Nat) : Chip := ((c.faultFlocks c.allFlocks causeFault 2 unit).settleSafety).planeReset 3

/-- An uncorrectable ECC error in on-die SRAM or LPDDR4X (R43, R325, R471). -/
def eccUncorrectable (place : EccPlace) (c : Chip) : Chip :=
  let c := c.setFault 5 0x0123 0
  match place with
  | .management => c.requestReset false 6 0
  | .safety => c.safetyPlaneFault unitEcc
  | .fold meters => meters.foldl (fun (c : Chip) m => if m < c.variant.meters then c.setFault 3 0x0123 m else c) c
  | .other => c

/-- ECC_UNCORRECTABLE (R43). -/
def execEccUncorrectable (place : EccPlace) (s : State) : Answer := s.effect (eccUncorrectable place)

/-- A fabric class reaches its occupancy cap (R35). -/
def fabricCapHit (k : Nat) (c : Chip) : Chip :=
  if 6 ≤ k then c
  else
    let c := c.incSat (FAB_CAPHIT_count k)
    if k < 4 then (c.raiseEv fabPage 0).setFault 5 0x0124 k else c.raiseEv fabPage 1

/-- FABRIC_CAP_HIT (R35). -/
def execFabricCapHit (k : Nat) (s : State) : Answer := s.effect (fabricCapHit k)

/-- The safety watchdog has not been serviced for 10 ms (R325, R470). -/
def safetyWatchdogExpire (c : Chip) : Chip :=
  if ¬ c.saf.running0 ∨ c.saf.expired ∨ c.saf.watchdog < 80 then c
  else
    let c := c.setSaf fun s => { s with expired := true }
    let c := (c.setFlag (FAB_WDT_ST.bitOf 3) true).raiseEv fabPage 4
    let c := (c.setLoad fun l => { l with wdSafety := true }).watchdogsChanged
    c.safetyPlaneFault unitWatchdog

/-- SAFETY_WATCHDOG_EXPIRE (R325). -/
def execSafetyWatchdogExpire (s : State) : Answer := s.effect safetyWatchdogExpire

/-- The S0 lockstep pair detects a mismatch (R325). -/
def lockstepError (c : Chip) : Chip := c.safetyPlaneFault unitLockstep

/-- LOCKSTEP_ERROR (R325). -/
def execLockstepError (s : State) : Answer := s.effect lockstepError

/-- A corrected ECC error: in a target's private memory its private source 11, in the MRAM a count (R211, R448). -/
def correctedEccError (target : Option Nat) (c : Chip) : Chip :=
  match target with
  | some t => if t < 8 then c.firePrivate t 11 else c
  | none => c.incSat LDG_ECC_CNT_corrected

/-- CORRECTED_ECC_ERROR (R448). -/
def execCorrectedEccError (target : Option Nat) (s : State) : Answer := s.effect (correctedEccError target)

end Sys2Proof.Machine
end

