-- ==== Sys2Proof/Machine/Restore.lean ====
section
/-! DEFINITION. The ledger restore and the calibration record that it chooses (R164, R225, R226, R434). -/

namespace Sys2Proof.Machine

/-- The counter of a calibration record in the ledger store, and the CRC that it holds (R158). -/
def Chip.recordCounter (c : Chip) (r : CalRecord) : Nat := ofLe (c.stored r.counter 4)
def Chip.recordCrc (c : Chip) (r : CalRecord) : Nat := ofLe (c.stored r.crc 4)

/-- The record's CRC verifies over its image (R153, R164). -/
def Chip.recordSound (c : Chip) (r : CalRecord) : Bool := crc32 (c.stored r.image.1 r.image.2) == c.recordCrc r

/-- The record's CRC and its signature verify: ECDSA P-256 over SHA-256 with the key of the record slot (R164, R434). -/
def Chip.recordVerified (c : Chip) (r : CalRecord) : Bool :=
  let k := (c.vaultSlot c.recordSlot).key
  c.recordSound r &&
    (match r.signature with
    | none => false
    | some a => k.type == 3 && hasUsage k 3 &&
      ecdsaVerify 0 (publicKey 0 k.key) (sha256 (c.stored r.signed.1 r.signed.2)) (c.stored a 64))

/-- The calibration record of R164 is chosen. -/
def Chip.selectRecord (c : Chip) (records : List CalRecord) : Chip :=
  let restored := max (c.rd SFE_CAL_COUNT_count) c.led.auditCount
  let top := records.foldl (fun (b : Option CalRecord) r =>
    match b with
    | none => some r
    | some x => if c.recordCounter x < c.recordCounter r then some r else some x) none
  let chosen : Option (Nat × Bool) := match top with
    | none => none
    | some r =>
      let n := c.recordCounter r
      if c.recordVerified r then some (n, false)
      else if c.recordSound r && r.signature.isNone && c.led.auditAfter == some (c.recordCrc r) then some (n, true)
      else (records.find? fun x => decide (c.recordCounter x < n) && c.recordVerified x && c.recordCounter x == restored).map fun x =>
        (c.recordCounter x, false)
  match chosen with
  | some (n, unsigned) => (c.put SFE_CAL_COUNT_count (max n c.led.auditCount)).setFlag SFE_CAL_SEAL_rec_unsigned unsigned
  | none =>
    ((c.put SFE_CAL_COUNT_count restored).setFlag SFE_CAL_SEAL_unverified true).setFault 5 0x1003 0

/-- The ledger is restored (R225), and the calibration record of R164 chosen from those found, once the vault is ready (R446). Billing
instants have been looked for up to the commit, after which steps 2 and 3 were suspended, or else up to the save (R201, R205); the save,
the commit and the replayed closes tell which targets calendar time has reached, so that none is carried out again. -/
def ledgerRestore (records : List CalRecord) (c : Chip) : Chip :=
  if c.flag LDG_STATUS_restored ∨ ¬ c.flag VLT_STATUS_ready then c
  else
    let own := c
    let (c, looked) : Chip × Nat := match newest (images c.led.saves) with
      | none => (({ c with lc := 0 } : Chip).restoreNothing, 0)
      | some s =>
        let c := c.adoptSave s
        let c := c.put LDG_RESTORE_ST_fallbacks (satN 8 (c.led.rejected.filter fun q => decide (s.seq < q)).length)
        let c := (c.put LDG_SAVE_SEQ_seq s.seq).put64 LDG_SAVE_STRIDE_LO_stride LDG_SAVE_STRIDE_HI_stride s.stride
        let r := c.replayFrom (c.led.journal.length + 1) s.journalNext none
        let c := r.1
        let (c, looked) : Chip × Nat := match newest (images c.led.commits) with
          | some k => if s.seq ≤ k.saveSeq ∧ k.journalNext = r.2 then (c.adoptCommit k, k.lc) else (c.restoreGap s, s.lc)
          | none => (c.restoreGap s, s.lc)
        (c.eachMeter fun m x => x.addOwn (own.meter m), looked)
    let c := c.put64 LDG_RESTORE_LC_LO_lc LDG_RESTORE_LC_HI_lc c.lc
    let c := c.put64 TIM_LEDGER_LO_lc TIM_LEDGER_HI_lc c.lc
    let c := c.eachMeter fun m x => { x with restored := true, c := c.meterConst m, cr := c.meterCr m }
    let c := forN c.variant.meters (fun m c => c.noteRegisters m (own.meter m)) c
    let c := c.setTrf fun x =>
      { x with
        billedTo := some ((looked + 1 : Nat) + 8000 * c.tsOffset)
        reached := some (max (x.reached.getD (c.scaledStamp (looked + 1))) (c.scaledStamp (looked + 1))) }
    let c := (c.loadDemand.setDmd fun d => { d with restart := true }).setFlag LDG_STATUS_restored true
    let c := forN 5 (fun n c => c.showLog n) c
    (c.selectRecord records).showDemand

/-- LEDGER_RESTORE (R225). -/
def execLedgerRestore (records : List CalRecord) (s : State) : Answer := s.effect (ledgerRestore records)

end Sys2Proof.Machine
end

