-- ==== Sys2Proof/Machine/Stage.lean ====
section
/-! DEFINITION. The staged-change controller (R54–R58) and what an application does in the metering chain: calibration switches and the
hand-over (R101, R130, R136, R154–R156, R165, R166, R173, R206, R240). -/

namespace Sys2Proof.Machine

/-- The base of the STG page. -/
def stgPage : Nat := 0x40030000

/-! ### Shadow writes (R54, R58) -/

/-- A write of a staged register, or of its shadow, lands in the shadow (R54); a mirrored one lands on Off without a check of ownership
or of its seal (R58, R152). -/
def shadowWrite (acc : Access) (a v : Nat) (mirrored : Bool) (c : Chip) : Chip :=
  match locate c.variant a with
  | none => c
  | some (b, n) =>
    if stagedMask b (activeOfs ((a - b.base) % b.pitch)) = 0 then c
    else if mirrored then
      (if c.isOff ∧ b.pairScope then c.stageWrite (c.rd (ownerFld (pageOf b n))) a v else c)
    else c.write acc a v fun c => c.stageWrite (initiatorPlane acc.by_) a v

/-- SHADOW_WRITE (R54). -/
def execShadowWrite (acc : Access) (a v : Nat) (mirrored : Bool) (s : State) : Answer := s.effect (shadowWrite acc a v mirrored)

/-! ### Arms (R55, R56, R58, R155, R156, R165) -/

/-- The staged registers of a page: offset and staged bits. -/
def stagedRegs (b : Blk) : List (Nat × Nat) :=
  (b.rows.filter fun r => r.st != 0).flatMap fun r =>
    if r.count ≤ 1 then [(r.ofs, r.st)] else (List.range r.count).map fun k => (r.ofs + k * r.step, r.st)

/-- The sealed bits of a register. -/
def sealedMask (b : Blk) (ofs : Nat) : Nat :=
  match rowAt b ofs with
  | some (r, _) => r.sl
  | none => 0

/-- A page holds a sealed shadow that differs from its active value while its seal is closed (R56); the item table counts for the DSP page
(R240). -/
def Chip.sealBlocks (c : Chip) (page : Nat) : Bool :=
  match locate c.variant page with
  | none => false
  | some (b, _) =>
    !c.sealOpen b.seal &&
      ((stagedRegs b).any (fun r =>
        (c.word (page + r.1) ^^^ c.word (page + shadowOfs r.1)) &&& BitVec.ofNat 32 (sealedMask b r.1) != 0) ||
        (b == .dsp && (List.range 2048).any fun e =>
          c.legalEntry e && decide ((Sparse.get (fun _ => (0 : Word)) c.dsp.items e) ≠ Sparse.get (fun _ => (0 : Word)) c.dsp.shadow e)))

/-- The session ID in the shadows of SFE_CAL_SESS is zero (R156). -/
def Chip.noSession (c : Chip) : Bool := (List.range 4).all fun k => c.rd (SFE_CAL_SESS_sess k).shadow == 0

/-- The state that an arm of slot p gives (R56): 4 busy, 3 late, 7 empty, 6 sealed, 1 armed. `ho` is the hand-over arm of R165. -/
def Chip.armState (c : Chip) (p : Nat) (ho : Bool) : Nat :=
  let pages := c.dirtyPages p
  let image := pages.any (imagePage c.variant)
  if c.armed p then 4
  else if c.rd64 (STG_TGT_LO_target p) (STG_TGT_HI_target p) < c.stride + 2 then 3
  else if pages.isEmpty then 7
  else if ho then (if c.rd SFE_CAL_CRC_STG_crc = c.rd SFE_CAL_HO_CRC_crc then 1 else 6)
  else if pages.any c.sealBlocks then 6
  else if image ∧ (c.rd SFE_CAL_COUNT_count = 0xFFFFFFFF ∨ c.noSession ∨ ¬ c.flag SFE_CAL_SEAL_handed_over) then 6
  else 1

/-- Slot p is armed for a target with its dirty pages frozen (R56). -/
def Chip.armSlot (c : Chip) (p target : Nat) (ho received : Bool) : Chip :=
  let c := c.setSlot p { target := some target, frozen := c.dirtyPages p, handover := ho, confirmed := received }
  (c.put (STG_SLOT_ST_state p) 1).setFlag (STG_SLOT_ST_wrote_armed p) false

/-- A write of STG_CMD with arm set and cancel clear (R56); the hand-over window closes at the arm of the data-plane slot (R165). -/
def stgArm (acc : Access) (p v : Nat) (c : Chip) : Chip :=
  if 4 ≤ p then c
  else c.write acc (STG_CMD p).addr v fun c =>
    if v % 4 ≠ 1 then c
    else
      let ho := p == 1 && c.flag SFE_CAL_SEAL_ho_open
      let s := c.armState p ho
      let target := c.rd64 (STG_TGT_LO_target p) (STG_TGT_HI_target p)
      let c := if p = 1 then c.setFlag SFE_CAL_SEAL_ho_open false else c
      if s = 1 then
        let c := c.armSlot p target ho false
        if c.pairPages p then c.mirror (.arm p target ho) else c
      else (c.put (STG_SLOT_ST_state p) s).raiseEv stgPage (4 + p)

/-- STG_ARM (R56). -/
def execStgArm (acc : Access) (p v : Nat) (s : State) : Answer := s.effect (stgArm acc p v)

/-- A write of STG_CMD with cancel set and arm clear (R56). -/
def stgCancel (acc : Access) (p v : Nat) (c : Chip) : Chip :=
  if 4 ≤ p then c
  else c.write acc (STG_CMD p).addr v fun c =>
    if v % 4 = 2 ∧ c.armed p then
      let c := if c.pairPages p then c.mirror (.cancel p) else c
      (c.put (STG_SLOT_ST_state p) 5).setSlot p {}
    else c

/-- STG_CANCEL (R56). -/
def execStgCancel (acc : Access) (p v : Nat) (s : State) : Answer := s.effect (stgCancel acc p v)

/-- Off receives the record of an arm of Near's slot p for a target, or of its cancel; the next Stride frame confirms an arm (R58).
DESIGN CHOICE (log 38): a record for a slot that is armed replaces its target and its frozen set; one whose target has passed is dropped. -/
def armRecordReceive (p target : Nat) (cancel ho : Bool) (c : Chip) : Chip :=
  if 4 ≤ p ∨ ¬ c.isOff then c
  else if cancel then (if c.armed p then (c.put (STG_SLOT_ST_state p) 5).setSlot p {} else c)
  else if target ≤ c.stride then c
  else c.armSlot p target ho true

/-- ARM_RECORD_RECEIVE (R58). -/
def execArmRecordReceive (p target : Nat) (cancel handover : Bool) (s : State) : Answer :=
  s.effect (armRecordReceive p target cancel handover)

/-! ### The application (R39, R56) -/

/-- Every active staged register of a page takes its shadow value (R56), the item table with the DSP page (R240). -/
def Chip.applyPage (c : Chip) (page : Nat) : Chip :=
  match locate c.variant page with
  | none => c
  | some (b, _) =>
    let c := (stagedRegs b).foldl (fun (c : Chip) r =>
      let m := BitVec.ofNat 32 r.2
      c.setWord (page + r.1) ((c.word (page + r.1) &&& ~~~m) ||| (c.word (page + shadowOfs r.1) &&& m))) c
    if b = .dsp then c.setDsp fun d => { d with items := d.shadow } else c

/-- The current items that an applied table has changed are sent (R231). -/
def Chip.sendItems (c : Chip) : Chip :=
  forN c.variant.ports (fun d c => c.sendChanged d) (c.setDsp fun r => { r with sent := [] })

/-- Before the values change: the open power-quality events of every element that the application touches close at Stride s, and its
windows restart (R173, R184). `joined` are the meters whose membership changes. -/
def Chip.closeQuality (c : Chip) (pages joined : List Nat) (s : Nat) : Chip :=
  let direct := pagesOf c.variant .pqm pages ++ pagesOf c.variant .met pages
  let changed (c : Chip) (n : Nat) : Bool :=
    let moved := match c.meterOf n with
      | some m => joined.contains m
      | none => false
    direct.contains n || moved || decide ((pagesOf c.variant .sfe pages).contains n ∧
      c.word (SFE_ASSIGN n).addr ≠ c.word ((SFE_ASSIGN n).addr + 0x700))
  let c := forN c.variant.elements (fun n c => if changed c n then c.qualityChange n s else c) c
  if (List.range c.variant.elements).any (changed c) then c.aggregateAll 8 else c

/-- The meters that the shadows of the given SFE pages take an element from or give one to (R130). -/
def Chip.movedMeters (c : Chip) (pages : List Nat) : List Nat :=
  (pagesOf c.variant .sfe pages).flatMap fun n =>
    let old := if c.flag (SFE_ASSIGN_assigned n) then [c.rd (SFE_ASSIGN_meter n)] else []
    let new := if c.flag (SFE_ASSIGN_assigned n).shadow then [c.rd (SFE_ASSIGN_meter n).shadow] else []
    if old = new then [] else old ++ new

/-- What follows for the meters: the checks of R105 and R132, cleared rings (R130), and the bases of a changed C or Cr (R136, R163). -/
def Chip.appliedMeters (c : Chip) (pages joined : List Nat) : Chip × Sparse Meter :=
  let changed := (pagesOf c.variant .mtr pages).filter fun m =>
    (c.meter m).c != c.meterConst m || (c.meter m).cr != c.meterCr m
  let c := changed.foldl (fun (c : Chip) m => c.constantChange m) c
  let c := if (pagesOf c.variant .sfe pages).isEmpty && (pagesOf c.variant .mtr pages).isEmpty then c else c.checkMeters
  let c := joined.foldl (fun (c : Chip) m => if m < c.variant.meters then c.membershipChanged m else c) c
  (c, changed.foldl (fun (l : Sparse Meter) m => Sparse.insert l m (c.meter m)) [])

/-- What follows for tariffs, demand and displays (R197, R200, R206, R234). -/
def Chip.appliedLedger (c before : Chip) (pages : List Nat) : Chip :=
  let differs (f : Fld) : Bool := c.word f.addr != before.word f.addr
  let c := if differs TRF_TAI_UTC ∨ differs TRF_STD_OFS then c.setDmd fun d => { d with rescale := true } else c
  let c := if differs DMD_CFG ∨ differs DMD_EN_LO ∨ differs DMD_EN_HI then c.setDmd fun d => { d with cfgChange := true } else c
  let c := if c.rd TRF_BCLOSE_CMD_seq ≠ before.rd TRF_BCLOSE_CMD_seq then c.setTrf fun x => { x with closeCmd := true } else c
  if pages.contains dspPage then c.sendItems.showDisplayFaults else c

/-- A record of step 4 is noted (R202). -/
def Chip.noteStep (c : Chip) (l : List StepFour) : Chip := { c with stg := { c.stg with stepFour := c.stg.stepFour ++ l } }

/-- A calibration switch of the applied pages at the edge of Stride s (R154, R155): the count, the Stride, and the kind 1 record. -/
def Chip.calibrationSwitch (c : Chip) (before : Nat) (pages : List Nat) (s : Nat) : Chip :=
  let c := (c.incSat SFE_CAL_COUNT_count).put64 SFE_CAL_LAST_LO_stride SFE_CAL_LAST_HI_stride s
  let session := (List.range 4).map fun k => c.rd (SFE_CAL_SESS_sess k)
  c.noteStep [.audit 1 before (c.imageCrc false) (imageElements c.variant pages) (imageMeters c.variant pages) session]

/-- The hand-over at the edge of s_h (R166): provisional metering ends; the provisional energy of every meter goes into its bases once the
ledger window knows the tariff in force at the start of the Stride (R206). The record of a transfer holds unsigned numbers: a negative one
is written as 0 (DESIGN CHOICE, log 117: the spec gives it no form). -/
def Chip.handOver (c : Chip) (before : Nat) (pages : List Nat) : Chip :=
  let meters := (List.range c.variant.meters).filter fun m => (List.range 8).any fun q => (c.meter m).provOf q != 0
  let energy := meters.map fun m => (m, (List.range 8).map fun q => (c.meter m).provOf q * (c.meterConst m : Int))
  let c := forN c.variant.meters (fun m c => c.modMeter m fun x => { x with prov := [], provisional := false }) c
  let c := c.setFlag SFE_CAL_SEAL_handed_over true
  let c : Chip := { c with stg := { c.stg with handover := true } }
  let bits := meters.foldl (fun (x : Nat) m => x ||| 2 ^ m) 0
  c.noteStep (.audit 2 before (c.imageCrc false) (imageElements c.variant pages) bits [] ::
    energy.map (fun x => .transfer (x.2.map fun e => (e / 2 ^ 72).toNat)) ++ [.journal (.handover c.trf.next energy)])

/-- Words that the copy of a join brings beside the active set: the calibration count and its Stride (R155, R359), and the state of the
passive calendar. -/
def joinWords : List Nat :=
  [SFE_CAL_COUNT_count, SFE_CAL_LAST_LO_stride, SFE_CAL_LAST_HI_stride, TRF_PSTATE, TRF_PACT_LO_lc, TRF_PACT_HI_lc, TRF_PCAL_CRC_crc,
    TRF_ACAL_CRC_crc].map Fld.addr

/-- A word of Near's active set (R57, R58). -/
def Chip.inActiveSet (c : Chip) (a : Nat) : Bool :=
  match locate c.variant a with
  | some (b, _) =>
    let ofs := (a - b.base) % b.pitch
    b.pairScope && decide (activeOfs ofs = ofs) && stagedMask b ofs != 0
  | none => false

/-- Off loads Near's active set, and its Fold runs on it (R57, R359): the shadows take the same values, and what follows from new values
follows. -/
def Chip.loadActive (c : Chip) (near : TwinImage) : Chip :=
  let before := c
  let set := near.words.filter fun w => c.inActiveSet w.1
  let pages := (set.map fun w => pageBase w.1).foldl insertSorted []
  let c := set.foldl (fun (c : Chip) w => c.setWord (pageBase w.1 + shadowOfs (w.1 % 0x1000)) w.2) c
  let joined := c.movedMeters pages
  let c := set.foldl (fun (c : Chip) w => c.setWord w.1 w.2) c
  let c := { c with dsp := { c.dsp with items := near.items, shadow := near.items } }
  let c := c.appliedElements before pages
  let c := forN c.variant.meters (fun m c => c.modMeter m fun x => { x with c := c.meterConst m, cr := c.meterCr m }) c
  let c := joined.foldl (fun (c : Chip) m => if m < c.variant.meters then c.membershipChanged m else c) c.checkMeters
  let c := c.appliedLedger before pages
  { c with fold := { c.fold with crcDue := true, crcStgDue := true } }

/-- Near's copy is complete: Off has its store, its configuration and its active set, and step 3 begins (R359, R360). A resync copies
nothing, and Off loads the active set alone (R361). -/
def storeCopyDone (near : TwinImage) (c : Chip) : Chip :=
  if c.pair.joinStep = 2 ∧ c.pair.loadDue then (c.loadActive near).setPair fun p => { p with loadDue := false }
  else if c.pair.joinStep ≠ 1 then c
  else
    let c := c.put HRN_COPY_kib 64448
    let c := if ¬ c.isOff then c
      else
        let c := near.store.foldl (fun (c : Chip) b =>
          if 0x10000 ≤ b.1 ∧ b.1 < 0x3F00000 then c.store b.1 [b.2] else c) c
        let c := { c with led := { near.led with everSaved := c.led.everSaved, asserted := c.led.asserted, pfwAge := c.led.pfwAge } }
        let c := (near.words.filter fun w => joinWords.contains w.1).foldl (fun (c : Chip) w => c.setWord w.1 w.2) c
        let c := c.setTrf fun t =>
          { t with
            active := near.trf.active, passive := near.trf.passive, activateAt := near.trf.activateAt, reached := near.trf.reached }
        (forN 5 (fun n c => c.showLog n) c).loadActive near
    c.beginRebuild

/-- STORE_COPY_DONE (R359). -/
def execStoreCopyDone (near : TwinImage) (s : State) : Answer := s.effect (storeCopyDone near)

/-- The edge of its target applies slot p (R56). -/
def Chip.applySlot (c : Chip) (p s : Nat) : Chip :=
  let slot := c.slot p
  let pages := slot.frozen
  let image := pages.any (imagePage c.variant)
  let crc := c.imageCrc false
  let joined := c.movedMeters pages
  let before := c
  let c := c.closeQuality pages joined s
  let c := pages.foldl (fun (c : Chip) g => c.applyPage g) c
  let c := c.appliedElements before pages
  let (c, bases) := c.appliedMeters pages joined
  let c := c.endAggregates before s
  let c := c.appliedLedger before pages
  let values := pages.flatMap fun g =>
    match locate c.variant g with
    | some (b, _) => (stagedRegs b).map fun r => (g + r.1, c.word (g + r.1))
    | none => []
  let c := if image then { c with fold := { c.fold with crcDue := true } } else c
  let c := if slot.handover then c.handOver crc pages
    else if image then c.calibrationSwitch crc pages s
    else c
  let items := if pages.contains dspPage then some c.dsp.items else none
  let c := c.noteStep [.journal (.staged p s pages values items bases (c.led.config.getD 0))]
  let c : Chip := { c with stg := { c.stg with dirty := pages.foldl (fun (d : Sparse Nat) g => Sparse.erase d g) c.stg.dirty } }
  let c := ((c.countDirty).setSlot p {}).put (STG_SLOT_ST_state p) 2
  (c.put64 (STG_DONE_LO_stride p) (STG_DONE_HI_stride p) s).raiseEv stgPage p

/-- pair_mismatch sets (R58). -/
def Chip.pairMismatch (c : Chip) : Chip :=
  if c.flag STG_STATUS_pair_mismatch then c else (c.setFlag STG_STATUS_pair_mismatch true).raiseEv stgPage 8

/-- The edge of the next Stride for the armed slots (R56, R58, R221). Bit p of `near`: on Off, Near applies its slot p with mirrored pages
at this edge. -/
def stgApply (near : Nat) (c : Chip) : Chip :=
  let s := c.nextStride
  let due := (List.range 4).filter fun p => c.armed p && (c.slot p).target == some s
  let missed := c.isOff && (List.range 4).any fun p => bit near p && !due.contains p
  let c := if missed then c.pairMismatch else c
  if due.isEmpty then c
  else if c.flag LDG_STATUS_committed then
    due.foldl (fun (c : Chip) p => ((c.put (STG_SLOT_ST_state p) 5).setSlot p {}).raiseEv stgPage (4 + p)) c
  else
    let alone := c.flag HRN_CTRL_pair_en && c.rd HRN_STATUS_role == 1 &&
      due.any fun p => c.pairPages p && !(c.slot p).confirmed
    let c := if alone then c.pairMismatch else c
    (due.foldl (fun (c : Chip) p => c.applySlot p s) c).inc STG_APPLY_COUNT_count

/-- STG_APPLY (R56). -/
def execStgApply (near : Nat) (s : State) : Answer := s.effect (stgApply near)

end Sys2Proof.Machine
end

