-- ==== Sys2Proof/Machine/Stride.lean ====
section
/-! DEFINITION. The Stride edge with the Fold's schedule, the ticks and what every unit does at an edge (R37–R42), and the publication of
a snapshot (R24, R25). -/

namespace Sys2Proof.Machine

/-- A module in the Off role that takes its ledger clock from Near's frames (R79, R353). -/
def Chip.waitsForNear (c : Chip) : Bool := c.inOffRole && !c.flag HRN_STATUS_detached

/-- Ledger work that still waits for Near's frame runs with the ledger clock advanced by one (R353). -/
def Chip.settleAwait (c : Chip) : Chip := c.loneWindow

/-- The Stride number advances, or takes the value of a pending load, and the local clock has run through the Stride (R37, R62, R72). -/
def Chip.newStride (c : Chip) : Chip :=
  let c := forN 4 (fun n c => c.canStrideEnd n) (c.advanceTo strideCycles)
  { c with stride := c.nextStride, strideNext := none, cycle := 0 }

/-- At a Stride number divisible by 8000 the regression windows and the one-second sums open again (R97, R140). -/
def Chip.openSecond (c : Chip) : Chip :=
  if c.stride % 8000 = 0 then { c with fold := { c.fold with regressed := false, published1s := false } } else c

/-- The control tick, unless a comparator gives it, and the safety tick (R40–R42). -/
def Chip.ticks (c : Chip) : Chip :=
  let c := if c.stride % 8 = 0 ∧ ¬ c.comparatorTicks then c.controlTick else c
  if c.stride % 8 = 4 then c.firePrivate 7 12 else c

/-- The Fold's fixed schedule: elements, meters, and the ledger window, which a module in the Off role leaves until Near's frame arrives
(R38, R353). -/
def Chip.foldSchedule (c : Chip) (inp : StrideInputs) : Chip :=
  let c : Chip := { c with fold := { c.fold with edgeClock := c.tim.clock } }
  let c := forN c.variant.elements (fun n c => c.frontEndEdge inp n) c
  let c := c.measure
  if c.waitsForNear then { c with fold := { c.fold with awaiting := true } } else c.ownWindow

/-- What the units outside the Fold do at an edge. -/
def Chip.unitsEdge (c : Chip) (inp : StrideInputs) : Chip :=
  let c := c.portsEdge.loadEdge inp
  let c := (c.pairEdge inp.heartbeat).netEdge inp
  let c := ((c.mainsEdge.tagEdge).vaultEdge).bootEdge
  c.displayTick.stallTick

/-- The age of the accepted level of PFW_N, in Strides (R224). -/
def Chip.powerFailAge (c : Chip) : Chip :=
  if c.flag LDG_STATUS_pfw then c.setLed fun x => { x with pfwAge := min 8000 (x.pfwAge + 1) } else c

/-- The edge of the next Stride, with what reached the pins during the Stride that ends; the controller die does nothing before its
bring-up and while it is held in reset, while the safety logic die and the switch dies, once supplied, work on (R20, R288, R467, R473). -/
def strideEdge (inp : StrideInputs) (c : Chip) : Chip :=
  if ¬ c.fold.running then (if c.boot.powered then c else (c.crookAlone inp).switchesEdge inp)
  else
    let c := (((c.settleAwait.newStride.portsSample inp).timeEdge).openSecond).sealEdge inp.sealMet
    let c := c.powerFailAge.safetyEdge inp
    ((c.foldSchedule inp).ticks).unitsEdge inp

/-- STRIDE_EDGE (R37). -/
def execStrideEdge (inp : StrideInputs) (s : State) : Answer := s.effect (strideEdge inp)

/-- The bank of this Stride has been published. -/
def Chip.publishedNow (c : Chip) : Bool := c.frontBank.written && c.frontBank.stride == c.stride

/-- The Fold work of the Stride has ended: the records of the boundary sequence are written, the next bank takes the Fold's values and
the write-progress word the Stride number, and the bank becomes the front bank (R24, R25); a reading that waits is signed from it
(R235). It is 100 µs after the edge. -/
def snapshotPublication (c : Chip) : Chip :=
  if ¬ c.fold.running ∨ c.publishedNow then c
  else
    let c := (pqWindowEval (c.advanceTo 10000).settleAwait).pfwReleased.flushStepFour.showSummary
    let b := c.foldBank
    let k := c.fold.next
    let c : Chip := { c with
      fold := { c.fold with
        progress := c.stride, front := k, next := (k + 1) % 3, banks := Sparse.set (fun _ => {}) c.fold.banks k b } }
    c.signPublished b

/-- SNAPSHOT_PUBLICATION (R24). -/
def execSnapshotPublication (s : State) : Answer := s.effect snapshotPublication

end Sys2Proof.Machine
end

