-- ==== Sys2Proof/Machine/Dispatch.lean ====
section
/-! DEFINITION. One arm per command: its meaning, called directly. -/

namespace Sys2Proof.Machine

/-- What a command does: everything but the queue. -/
def exec (i : Instr) (s : State) : Host.Outcome State Fault Refusal :=
  match i with
  | .strideEdge inp => Sys2Proof.Machine.execStrideEdge inp s
  | .snapshotPublication => Sys2Proof.Machine.execSnapshotPublication s
  | .switchLinkLoss d => Sys2Proof.Machine.execSwitchLinkLoss d s
  | .crookLinkLoss => Sys2Proof.Machine.execCrookLinkLoss s
  | .eccUncorrectable place => Sys2Proof.Machine.execEccUncorrectable place s
  | .fabricCapHit k => Sys2Proof.Machine.execFabricCapHit k s
  | .mbxPayloadWrite acc p k w v => Sys2Proof.Machine.execMbxPayloadWrite acc p k w v s
  | .mbxPost acc p v => Sys2Proof.Machine.execMbxPost acc p v s
  | .mbxTake acc p v => Sys2Proof.Machine.execMbxTake acc p v s
  | .registerWrite acc a v cyc => Sys2Proof.Machine.execRegisterWrite acc a v cyc s
  | .evPendClear acc page v arriving => Sys2Proof.Machine.execEvPendClear acc page v arriving s
  | .evTypeWrite acc page v => Sys2Proof.Machine.execEvTypeWrite acc page v s
  | .ownerWrite acc page v => Sys2Proof.Machine.execOwnerWrite acc page v s
  | .violationClear acc v => Sys2Proof.Machine.execViolationClear acc v s
  | .claim acc k => Sys2Proof.Machine.execClaim acc k s
  | .release acc k => Sys2Proof.Machine.execRelease acc k s
  | .claimForce acc v => Sys2Proof.Machine.execClaimForce acc v s
  | .shadowWrite acc a v mirrored => Sys2Proof.Machine.execShadowWrite acc a v mirrored s
  | .stgArm acc p v => Sys2Proof.Machine.execStgArm acc p v s
  | .stgCancel acc p v => Sys2Proof.Machine.execStgCancel acc p v s
  | .stgApply near => Sys2Proof.Machine.execStgApply near s
  | .armRecordReceive p target cancel handover => Sys2Proof.Machine.execArmRecordReceive p target cancel handover s
  | .pageStoreEccError page => Sys2Proof.Machine.execPageStoreEccError page s
  | .latchedWordRead acc a => Sys2Proof.Machine.execLatchedWordRead acc a s
  | .timSecLoRead acc cyc => Sys2Proof.Machine.execTimSecLoRead acc cyc s
  | .timStepCmd acc cyc => Sys2Proof.Machine.execTimStepCmd acc cyc s
  | .stepApply => Sys2Proof.Machine.execStepApply s
  | .loadStrideCmd acc => Sys2Proof.Machine.execLoadStrideCmd acc s
  | .clearIntegCmd acc => Sys2Proof.Machine.execClearIntegCmd acc s
  | .strideLoad => Sys2Proof.Machine.execStrideLoad s
  | .offsetSample acc v cyc => Sys2Proof.Machine.execOffsetSample acc v cyc s
  | .ppsInEdge rising cyc => Sys2Proof.Machine.execPpsInEdge rising cyc s
  | .holdoverEnter => Sys2Proof.Machine.execHoldoverEnter s
  | .holdoverExpire => Sys2Proof.Machine.execHoldoverExpire s
  | .ppsMissing => Sys2Proof.Machine.execPpsMissing s
  | .vcxoLoopUpdate => Sys2Proof.Machine.execVcxoLoopUpdate s
  | .comparatorArm acc t v cyc => Sys2Proof.Machine.execComparatorArm acc t v cyc s
  | .comparatorFire t cyc => Sys2Proof.Machine.execComparatorFire t cyc s
  | .ppsOutPulseEnd cyc => Sys2Proof.Machine.execPpsOutPulseEnd cyc s
  | .captureEdge k rising cyc => Sys2Proof.Machine.execCaptureEdge k rising cyc s
  | .capturePop acc k => Sys2Proof.Machine.execCapturePop acc k s
  | .timeLimitFault => Sys2Proof.Machine.execTimeLimitFault s
  | .settlingEnd n k => Sys2Proof.Machine.execSettlingEnd n k s
  | .selectorSwitchHigh n => Sys2Proof.Machine.execSelectorSwitchHigh n s
  | .regressionWindowEnd => Sys2Proof.Machine.execRegressionWindowEnd s
  | .ratioApply n => Sys2Proof.Machine.execRatioApply n s
  | .healthFaultSet n b => Sys2Proof.Machine.execHealthFaultSet n b s
  | .healthFaultClear n b => Sys2Proof.Machine.execHealthFaultClear n b s
  | .freqTimeout n => Sys2Proof.Machine.execFreqTimeout n s
  | .oneSecondPublish => Sys2Proof.Machine.execOneSecondPublish s
  | .inputFaultClear m => Sys2Proof.Machine.execInputFaultClear m s
  | .metSealChange => Sys2Proof.Machine.execMetSealChange s
  | .dieTempRead t => Sys2Proof.Machine.execDieTempRead t s
  | .tauTrimStep => Sys2Proof.Machine.execTauTrimStep s
  | .handoverWindowOpen acc v => Sys2Proof.Machine.execHandoverWindowOpen acc v s
  | .pqWindowEval => Sys2Proof.Machine.execPqWindowEval s
  | .calendarDataAccess acc write v mirror => Sys2Proof.Machine.execCalendarDataAccess acc write v mirror s
  | .calendarArm acc v mirror => Sys2Proof.Machine.execCalendarArm acc v mirror s
  | .calendarCancel acc v mirror => Sys2Proof.Machine.execCalendarCancel acc v mirror s
  | .calendarActivate => Sys2Proof.Machine.execCalendarActivate s
  | .demandClose => Sys2Proof.Machine.execDemandClose s
  | .billingClose => Sys2Proof.Machine.execBillingClose s
  | .periodicSave => Sys2Proof.Machine.execPeriodicSave s
  | .forceSaveCmd acc v => Sys2Proof.Machine.execForceSaveCmd acc v s
  | .saveComplete => Sys2Proof.Machine.execSaveComplete s
  | .pfwNAssert => Sys2Proof.Machine.execPfwNAssert s
  | .pfwAccept => Sys2Proof.Machine.execPfwAccept s
  | .commitWritten => Sys2Proof.Machine.execCommitWritten s
  | .tailRecord => Sys2Proof.Machine.execTailRecord s
  | .brownout => Sys2Proof.Machine.execBrownout s
  | .pfwNRelease => Sys2Proof.Machine.execPfwNRelease s
  | .resetCommit => Sys2Proof.Machine.execResetCommit s
  | .ledgerRestore records => Sys2Proof.Machine.execLedgerRestore records s
  | .mramEccError a => Sys2Proof.Machine.execMramEccError a s
  | .ledgerWriteWord acc v => Sys2Proof.Machine.execLedgerWriteWord acc v s
  | .ledgerReadWord acc => Sys2Proof.Machine.execLedgerReadWord acc s
  | .faultRecordAppend acc v => Sys2Proof.Machine.execFaultRecordAppend acc v s
  | .signReading acc v => Sys2Proof.Machine.execSignReading acc v s
  | .signReadingDone => Sys2Proof.Machine.execSignReadingDone s
  | .displayPoll => Sys2Proof.Machine.execDisplayPoll s
  | .displayReply d bytes => Sys2Proof.Machine.execDisplayReply d bytes s
  | .displayReplyTimeout d => Sys2Proof.Machine.execDisplayReplyTimeout d s
  | .displayItemStep d => Sys2Proof.Machine.execDisplayItemStep d s
  | .displayItemAccess acc shadow write v mirror => Sys2Proof.Machine.execDisplayItemAccess acc shadow write v mirror s
  | .pwmWrite acc n v => Sys2Proof.Machine.execPwmWrite acc n v s
  | .pwmPeriodStart n => Sys2Proof.Machine.execPwmPeriodStart n s
  | .pilotStateAccept n => Sys2Proof.Machine.execPilotStateAccept n s
  | .portDropCmd acc n => Sys2Proof.Machine.execPortDropCmd acc n s
  | .portRearm acc n => Sys2Proof.Machine.execPortRearm acc n s
  | .portAutoRearm n => Sys2Proof.Machine.execPortAutoRearm n s
  | .proximityAccept n => Sys2Proof.Machine.execProximityAccept n s
  | .cableTempConvert n r => Sys2Proof.Machine.execCableTempConvert n r s
  | .lockDebounce n => Sys2Proof.Machine.execLockDebounce n s
  | .portFrameReceive n bytes att cyc => Sys2Proof.Machine.execPortFrameReceive n bytes att cyc s
  | .portTxTailWrite acc n v => Sys2Proof.Machine.execPortTxTailWrite acc n v s
  | .portFrameSent n error cyc => Sys2Proof.Machine.execPortFrameSent n error cyc s
  | .canTxRequest acc n v => Sys2Proof.Machine.execCanTxRequest acc n v s
  | .canTxCancel acc n v => Sys2Proof.Machine.execCanTxCancel acc n v s
  | .canBufferWrite acc n b w v => Sys2Proof.Machine.execCanBufferWrite acc n b w v s
  | .canFrameSent n => Sys2Proof.Machine.execCanFrameSent n s
  | .canFrameReceive n w0 w1 data cyc => Sys2Proof.Machine.execCanFrameReceive n w0 w1 data cyc s
  | .canRxPop acc n v => Sys2Proof.Machine.execCanRxPop acc n v s
  | .canBusOff n => Sys2Proof.Machine.execCanBusOff n s
  | .canBusOffRecovery n => Sys2Proof.Machine.execCanBusOffRecovery n s
  | .driveInEdge k level => Sys2Proof.Machine.execDriveInEdge k level s
  | .overcurrentTrip n => Sys2Proof.Machine.execOvercurrentTrip n s
  | .shortCircuitCut n ma => Sys2Proof.Machine.execShortCircuitCut n ma s
  | .thermalLatchSet n => Sys2Proof.Machine.execThermalLatchSet n s
  | .thermalLatchRelease n => Sys2Proof.Machine.execThermalLatchRelease n s
  | .clampUnlock acc n => Sys2Proof.Machine.execClampUnlock acc n s
  | .retryDelayExpire n => Sys2Proof.Machine.execRetryDelayExpire n s
  | .retryReload n => Sys2Proof.Machine.execRetryReload n s
  | .channelClear acc n => Sys2Proof.Machine.execChannelClear acc n s
  | .bankUndervoltage b => Sys2Proof.Machine.execBankUndervoltage b s
  | .bankRecover b => Sys2Proof.Machine.execBankRecover b s
  | .bankReversed b => Sys2Proof.Machine.execBankReversed b s
  | .openLoadOn n => Sys2Proof.Machine.execOpenLoadOn n s
  | .offStateDiag acc n => Sys2Proof.Machine.execOffStateDiag acc n s
  | .diagComplete n => Sys2Proof.Machine.execDiagComplete n s
  | .globalModeWrite acc v => Sys2Proof.Machine.execGlobalModeWrite acc v s
  | .bankOverload b => Sys2Proof.Machine.execBankOverload b s
  | .vslotRoute acc n v => Sys2Proof.Machine.execVslotRoute acc n v s
  | .bridleRequest => Sys2Proof.Machine.execBridleRequest s
  | .bridleInEdge k level => Sys2Proof.Machine.execBridleInEdge k level s
  | .take acc v => Sys2Proof.Machine.execTake acc v s
  | .takeApply => Sys2Proof.Machine.execTakeApply s
  | .bridleMapCommit acc v => Sys2Proof.Machine.execBridleMapCommit acc v s
  | .bridleMapCommitDone ok0 ok1 => Sys2Proof.Machine.execBridleMapCommitDone ok0 ok1 s
  | .switchDiePowerUp d mapOk => Sys2Proof.Machine.execSwitchDiePowerUp d mapOk s
  | .darkTest a f fell => Sys2Proof.Machine.execDarkTest a f fell s
  | .cutOutputStuck a f => Sys2Proof.Machine.execCutOutputStuck a f s
  | .rcmSensorFault n bad => Sys2Proof.Machine.execRcmSensorFault n bad s
  | .rcmBandTrip a n band => Sys2Proof.Machine.execRcmBandTrip a n band s
  | .rcmBandDisagree n band => Sys2Proof.Machine.execRcmBandDisagree n band s
  | .rcmTest acc n v => Sys2Proof.Machine.execRcmTest acc n v s
  | .rcmTestDone n => Sys2Proof.Machine.execRcmTestDone n s
  | .imdHalfPeriodEnd k uv ms settled => Sys2Proof.Machine.execImdHalfPeriodEnd k uv ms settled s
  | .weldCheckTimeout n => Sys2Proof.Machine.execWeldCheckTimeout n s
  | .estopContactChange k b closed => Sys2Proof.Machine.execEstopContactChange k b closed s
  | .estopTestPulse k b stayed => Sys2Proof.Machine.execEstopTestPulse k b stayed s
  | .estopDiscrepancy k => Sys2Proof.Machine.execEstopDiscrepancy k s
  | .flockPowerExceed f => Sys2Proof.Machine.execFlockPowerExceed f s
  | .safetyFrameReceive net bytes cyc => Sys2Proof.Machine.execSafetyFrameReceive net bytes cyc s
  | .safetyFrameWindowEnd => Sys2Proof.Machine.execSafetyFrameWindowEnd s
  | .safetyFrameSend acc v cyc => Sys2Proof.Machine.execSafetyFrameSend acc v cyc s
  | .heartbeatSend cyc => Sys2Proof.Machine.execHeartbeatSend cyc s
  | .peerTimeout peer => Sys2Proof.Machine.execPeerTimeout peer s
  | .singleNetworkEnd => Sys2Proof.Machine.execSingleNetworkEnd s
  | .networkRecovery => Sys2Proof.Machine.execNetworkRecovery s
  | .degradedSupervisionStart f => Sys2Proof.Machine.execDegradedSupervisionStart f s
  | .degradedWarning f => Sys2Proof.Machine.execDegradedWarning f s
  | .degradedDeadline f => Sys2Proof.Machine.execDegradedDeadline f s
  | .degradedRecovery f => Sys2Proof.Machine.execDegradedRecovery f s
  | .safetyWatchdogService acc v => Sys2Proof.Machine.execSafetyWatchdogService acc v s
  | .safetyWatchdogExpire => Sys2Proof.Machine.execSafetyWatchdogExpire s
  | .recoveryWindowExpire => Sys2Proof.Machine.execRecoveryWindowExpire s
  | .recoveryFinish => Sys2Proof.Machine.execRecoveryFinish s
  | .flockRelease acc mask => Sys2Proof.Machine.execFlockRelease acc mask s
  | .flockStop acc mask => Sys2Proof.Machine.execFlockStop acc mask s
  | .lockoutRelease acc mask => Sys2Proof.Machine.execLockoutRelease acc mask s
  | .estopReset acc mask => Sys2Proof.Machine.execEstopReset acc mask s
  | .safCmdInvalid acc op => Sys2Proof.Machine.execSafCmdInvalid acc op s
  | .strapRead words crook => Sys2Proof.Machine.execStrapRead words crook s
  | .strapReread words crook => Sys2Proof.Machine.execStrapReread words crook s
  | .spbDataAccess acc write v => Sys2Proof.Machine.execSpbDataAccess acc write v s
  | .spbCommit acc => Sys2Proof.Machine.execSpbCommit acc s
  | .spbConfirm acc => Sys2Proof.Machine.execSpbConfirm acc s
  | .spbRecheck => Sys2Proof.Machine.execSpbRecheck s
  | .safeOkRelease n => Sys2Proof.Machine.execSafeOkRelease n s
  | .startupRelease f => Sys2Proof.Machine.execStartupRelease f s
  | .safetyRxPop acc v => Sys2Proof.Machine.execSafetyRxPop acc v s
  | .pairSelChange level => Sys2Proof.Machine.execPairSelChange level s
  | .roleDecision twin => Sys2Proof.Machine.execRoleDecision twin s
  | .strideFrameReceive valid errored frame => Sys2Proof.Machine.execStrideFrameReceive valid errored frame s
  | .strideFrameDeadline errored => Sys2Proof.Machine.execStrideFrameDeadline errored s
  | .join stride delays => Sys2Proof.Machine.execJoin stride delays s
  | .storeCopyDone near => Sys2Proof.Machine.execStoreCopyDone near s
  | .joinMarkCapture => Sys2Proof.Machine.execJoinMarkCapture s
  | .joinApply near frame => Sys2Proof.Machine.execJoinApply near frame s
  | .takeover => Sys2Proof.Machine.execTakeover s
  | .assumeCmd acc => Sys2Proof.Machine.execAssumeCmd acc s
  | .swapCmd acc => Sys2Proof.Machine.execSwapCmd acc s
  | .swapHandover => Sys2Proof.Machine.execSwapHandover s
  | .swapComplete => Sys2Proof.Machine.execSwapComplete s
  | .rejoinCmd acc => Sys2Proof.Machine.execRejoinCmd acc s
  | .harnessLinkDown => Sys2Proof.Machine.execHarnessLinkDown s
  | .harnessLinkUp => Sys2Proof.Machine.execHarnessLinkUp s
  | .harnessLaneDown l => Sys2Proof.Machine.execHarnessLaneDown l s
  | .harnessMsgSend acc v => Sys2Proof.Machine.execHarnessMsgSend acc v s
  | .harnessMsgReceive bytes => Sys2Proof.Machine.execHarnessMsgReceive bytes s
  | .harnessMsgPop acc v => Sys2Proof.Machine.execHarnessMsgPop acc v s
  | .netLinkUp n tenG => Sys2Proof.Machine.execNetLinkUp n tenG s
  | .netLinkDown n los => Sys2Proof.Machine.execNetLinkDown n los s
  | .netSpeedTry n => Sys2Proof.Machine.execNetSpeedTry n s
  | .netFrameReceive n frame cyc => Sys2Proof.Machine.execNetFrameReceive n frame cyc s
  | .netRingDeliver t => Sys2Proof.Machine.execNetRingDeliver t s
  | .netTxTailWrite acc r v cyc => Sys2Proof.Machine.execNetTxTailWrite acc r v cyc s
  | .netFrameSent n cyc => Sys2Proof.Machine.execNetFrameSent n cyc s
  | .streamEnable acc k v => Sys2Proof.Machine.execStreamEnable acc k v s
  | .streamFrameSend k => Sys2Proof.Machine.execStreamFrameSend k s
  | .ringPlaneWrite acc t p => Sys2Proof.Machine.execRingPlaneWrite acc t p s
  | .mainsZcEdge x cyc => Sys2Proof.Machine.execMainsZcEdge x cyc s
  | .zcPredictedCrossing cyc => Sys2Proof.Machine.execZcPredictedCrossing cyc s
  | .mainsFrameReceive rx cyc => Sys2Proof.Machine.execMainsFrameReceive rx cyc s
  | .mainsSend acc v => Sys2Proof.Machine.execMainsSend acc v s
  | .mainsAbort acc v => Sys2Proof.Machine.execMainsAbort acc v s
  | .mainsTxStart bandBusy => Sys2Proof.Machine.execMainsTxStart bandBusy s
  | .mainsTxDone => Sys2Proof.Machine.execMainsTxDone s
  | .mainsRxPop acc v => Sys2Proof.Machine.execMainsRxPop acc v s
  | .tagPing gammas => Sys2Proof.Machine.execTagPing gammas s
  | .tagRoundStart acc re im => Sys2Proof.Machine.execTagRoundStart acc re im s
  | .tagStop acc => Sys2Proof.Machine.execTagStop acc s
  | .tagWrite acc re im replies => Sys2Proof.Machine.execTagWrite acc re im replies s
  | .tagRecordWrite acc re im copies replies verify => Sys2Proof.Machine.execTagRecordWrite acc re im copies replies verify s
  | .tagSlot reply rssi phase cyc => Sys2Proof.Machine.execTagSlot reply rssi phase cyc s
  | .halterResolveAnswer => Sys2Proof.Machine.execHalterResolveAnswer s
  | .tagReplyTimeout rssi phase cyc => Sys2Proof.Machine.execTagReplyTimeout rssi phase cyc s
  | .tagRoundEnd => Sys2Proof.Machine.execTagRoundEnd s
  | .antennaFault a sent => Sys2Proof.Machine.execAntennaFault a sent s
  | .tagChannelHop => Sys2Proof.Machine.execTagChannelHop s
  | .tagRepPop acc v => Sys2Proof.Machine.execTagRepPop acc v s
  | .keyWrite acc => Sys2Proof.Machine.execKeyWrite acc s
  | .keyErase acc => Sys2Proof.Machine.execKeyErase acc s
  | .keyGenerate acc => Sys2Proof.Machine.execKeyGenerate acc s
  | .keyAttr acc => Sys2Proof.Machine.execKeyAttr acc s
  | .vaultCfgCommit acc => Sys2Proof.Machine.execVaultCfgCommit acc s
  | .halterSet acc => Sys2Proof.Machine.execHalterSet acc s
  | .keyCommandDone => Sys2Proof.Machine.execKeyCommandDone s
  | .vaultRandom acc n => Sys2Proof.Machine.execVaultRandom acc n s
  | .vaultSha384 acc n => Sys2Proof.Machine.execVaultSha384 acc n s
  | .vaultHmac acc n => Sys2Proof.Machine.execVaultHmac acc n s
  | .vaultCmac acc n => Sys2Proof.Machine.execVaultCmac acc n s
  | .vaultGcmEncrypt acc n => Sys2Proof.Machine.execVaultGcmEncrypt acc n s
  | .vaultGcmDecrypt acc n => Sys2Proof.Machine.execVaultGcmDecrypt acc n s
  | .vaultEcdsaSign acc n => Sys2Proof.Machine.execVaultEcdsaSign acc n s
  | .vaultEcdsaVerify acc n => Sys2Proof.Machine.execVaultEcdsaVerify acc n s
  | .vaultEcdh acc n => Sys2Proof.Machine.execVaultEcdh acc n s
  | .vaultPublicKey acc n => Sys2Proof.Machine.execVaultPublicKey acc n s
  | .vaultCoseSign1 acc n => Sys2Proof.Machine.execVaultCoseSign1 acc n s
  | .vaultAttest acc n => Sys2Proof.Machine.execVaultAttest acc n s
  | .vaultSlotInfo acc n => Sys2Proof.Machine.execVaultSlotInfo acc n s
  | .vaultRequestAbort acc n => Sys2Proof.Machine.execVaultRequestAbort acc n s
  | .vaultRequestStart engine => Sys2Proof.Machine.execVaultRequestStart engine s
  | .vaultRequestDone engine => Sys2Proof.Machine.execVaultRequestDone engine s
  | .trngHealthFail => Sys2Proof.Machine.execTrngHealthFail s
  | .drbgReseed => Sys2Proof.Machine.execDrbgReseed s
  | .vaultRestoreDone => Sys2Proof.Machine.execVaultRestoreDone s
  | .evcClaimRead acc t => Sys2Proof.Machine.execEvcClaimRead acc t s
  | .evcComplete acc t v => Sys2Proof.Machine.execEvcComplete acc t v s
  | .evcRaiseSelf acc t => Sys2Proof.Machine.execEvcRaiseSelf acc t s
  | .evcRaiseSoftware acc t id_ => Sys2Proof.Machine.execEvcRaiseSoftware acc t id_ s
  | .evcRaiseIpi acc t dest => Sys2Proof.Machine.execEvcRaiseIpi acc t dest s
  | .evcTargetWrite acc id_ t => Sys2Proof.Machine.execEvcTargetWrite acc id_ t s
  | .compatModeWrite acc v => Sys2Proof.Machine.execCompatModeWrite acc v s
  | .corePowerGate acc v => Sys2Proof.Machine.execCorePowerGate acc v s
  | .coreWfi t => Sys2Proof.Machine.execCoreWfi t s
  | .sharedSourceStall id => Sys2Proof.Machine.execSharedSourceStall id s
  | .powerGood copies => Sys2Proof.Machine.execPowerGood copies s
  | .planeStartCmd acc p v => Sys2Proof.Machine.execPlaneStartCmd acc p v s
  | .imageLoadDone => Sys2Proof.Machine.execImageLoadDone s
  | .watchdogService t v => Sys2Proof.Machine.execWatchdogService t v s
  | .watchdogHalf p => Sys2Proof.Machine.execWatchdogHalf p s
  | .watchdogExpire p => Sys2Proof.Machine.execWatchdogExpire p s
  | .planeResetCmd acc v => Sys2Proof.Machine.execPlaneResetCmd acc v s
  | .dieResetCmd acc v => Sys2Proof.Machine.execDieResetCmd acc v s
  | .controllerDieReset => Sys2Proof.Machine.execControllerDieReset s
  | .moduleResetCmd acc v => Sys2Proof.Machine.execModuleResetCmd acc v s
  | .resetNPin => Sys2Proof.Machine.execResetNPin s
  | .vinCollapse => Sys2Proof.Machine.execVinCollapse s
  | .vinOvervoltage mv => Sys2Proof.Machine.execVinOvervoltage mv s
  | .refclkFault => Sys2Proof.Machine.execRefclkFault s
  | .dieOvertemp => Sys2Proof.Machine.execDieOvertemp s
  | .planeSwitchCmd acc p v => Sys2Proof.Machine.execPlaneSwitchCmd acc p v s
  | .planeConfirmCmd acc p v => Sys2Proof.Machine.execPlaneConfirmCmd acc p v s
  | .svnCommitCmd acc p v => Sys2Proof.Machine.execSvnCommitCmd acc p v s
  | .planeRevertCmd acc p v => Sys2Proof.Machine.execPlaneRevertCmd acc p v s
  | .trialWindowExpire p => Sys2Proof.Machine.execTrialWindowExpire p s
  | .norEraseCmd acc => Sys2Proof.Machine.execNorEraseCmd acc s
  | .norProgramCmd acc => Sys2Proof.Machine.execNorProgramCmd acc s
  | .norVerifyCmd acc => Sys2Proof.Machine.execNorVerifyCmd acc s
  | .norInvalidateCmd acc => Sys2Proof.Machine.execNorInvalidateCmd acc s
  | .norCommandDone => Sys2Proof.Machine.execNorCommandDone s
  | .keyHashEnrol acc => Sys2Proof.Machine.execKeyHashEnrol acc s
  | .keyHashRevoke acc => Sys2Proof.Machine.execKeyHashRevoke acc s
  | .lockstepError => Sys2Proof.Machine.execLockstepError s
  | .correctedEccError target => Sys2Proof.Machine.execCorrectedEccError target s
  | .coreTimerCompare t level => Sys2Proof.Machine.execCoreTimerCompare t level s
  | .harnessLaneUp l => Sys2Proof.Machine.execHarnessLaneUp l s
  | .modAbsChange n high => Sys2Proof.Machine.execModAbsChange n high s
  | .portPhyLinkChange n up => Sys2Proof.Machine.execPortPhyLinkChange n up s
  | .canErrorPassive n tec rec_ => Sys2Proof.Machine.execCanErrorPassive n tec rec_ s
  | .couplerDriverFault x bad => Sys2Proof.Machine.execCouplerDriverFault x bad s
  | .zcSenseLoss x => Sys2Proof.Machine.execZcSenseLoss x s
  | .radioLinkLoss lost => Sys2Proof.Machine.execRadioLinkLoss lost s
  | .pairedCrookLossCut => Sys2Proof.Machine.execPairedCrookLossCut s
  | .resetRelease copies => Sys2Proof.Machine.execResetRelease copies s
  | .calCrcUpdate => Sys2Proof.Machine.execCalCrcUpdate s
  | .passiveCrcUpdate => Sys2Proof.Machine.execPassiveCrcUpdate s

end Sys2Proof.Machine
end

