-- ==== Sys2Proof/Safety.lean ====
section
/-! DEFINITION. What counts as a sound state of the block, and the words in which claims are stated: the state after a command, an access
that passes its checks, and what a command leaves as it was. -/

namespace Sys2Proof.Machine

/-- The register map and both byte memories are in canonical form. -/
structure Chip.Sound (c : Chip) : Prop where
  regs : Sparse.wf (resetWord c.variant) c.regs = true
  mem : Memory.wf c.mem
  mram : Memory.wf c.mram

/-- A sound state. -/
def State.Sound (s : State) : Prop := s.chip.Sound

/-- A command answers a next state from a state, neither a fault nor a refusal. -/
def Completes (i : Instr) (s : State) : Prop := ∃ t, exec i s = .next t

/-- The state with its block replaced and its queue as it was. -/
def State.after (s : State) (d : Chip) : State := { s with chip := d }

/-- A write of v to address a passes every check of R48 and hits a register of a fitted unit. -/
structure Chip.Accepts (c : Chip) (acc : Access) (a v : Nat) : Prop where
  clean : c.writeViolation acc a v = none
  fitted : isFitted c.variant a = true

/-- A read of address a passes every check of R48 and hits a register of a fitted unit. -/
structure Chip.Readable (c : Chip) (acc : Access) (a : Nat) : Prop where
  clean : c.readViolation acc a = none
  fitted : isFitted c.variant a = true

/-- A command that may write the memories of the planes: a mailbox payload, a bus write of memory, and the DMA of a port, of CAN and of the
network; and a reset of the dies, which clears it. -/
def writesMemory (i : Instr) : Bool :=
  match i with
  | .mbxPayloadWrite .. | .registerWrite .. | .portFrameReceive .. | .portFrameSent .. | .canBufferWrite .. | .canFrameReceive ..
  | .netLinkDown .. | .netRingDeliver .. | .netTxTailWrite .. | .netFrameSent .. | .ringPlaneWrite .. | .controllerDieReset ..
  | .resetNPin .. | .vinCollapse .. => true
  | _ => false

/-- A command that may write the byte regions of the ledger store: the logs, the records and the network's safety frames that are logged,
and the commands of the store itself. -/
def writesStore (i : Instr) : Bool :=
  match i with
  | .strideEdge .. | .snapshotPublication .. | .crookLinkLoss .. | .eccUncorrectable .. | .stgApply .. | .healthFaultSet ..
  | .healthFaultClear .. | .metSealChange .. | .pqWindowEval .. | .calendarActivate .. | .billingClose .. | .periodicSave ..
  | .pfwAccept .. | .resetCommit .. | .ledgerRestore .. | .mramEccError .. | .ledgerWriteWord .. | .faultRecordAppend .. | .darkTest ..
  | .cutOutputStuck .. | .rcmSensorFault .. | .rcmBandTrip .. | .rcmBandDisagree .. | .rcmTestDone .. | .imdHalfPeriodEnd ..
  | .weldCheckTimeout .. | .estopContactChange .. | .estopTestPulse .. | .flockPowerExceed .. | .safetyFrameReceive ..
  | .safetyFrameWindowEnd ..
  | .peerTimeout .. | .singleNetworkEnd .. | .networkRecovery .. | .degradedDeadline .. | .degradedRecovery .. | .safetyWatchdogExpire ..
  | .recoveryWindowExpire .. | .recoveryFinish .. | .flockRelease .. | .flockStop .. | .lockoutRelease .. | .estopReset ..
  | .safCmdInvalid .. | .strapRead .. | .strapReread .. | .spbCommit .. | .spbConfirm .. | .spbRecheck .. | .startupRelease ..
  | .strideFrameReceive .. | .strideFrameDeadline .. | .storeCopyDone .. | .netRingDeliver .. | .watchdogExpire .. | .planeResetCmd ..
  | .dieResetCmd .. | .controllerDieReset .. | .moduleResetCmd .. | .resetNPin .. | .vinCollapse .. | .planeSwitchCmd ..
  | .planeRevertCmd .. | .trialWindowExpire .. | .lockstepError .. => true
  | _ => false

/-- A command that may change a stored key or its commit entry: the start and the end of a key command on a slot (R430), and a memory
error in the vault region (R211). -/
def writesKeys (i : Instr) : Bool :=
  match i with
  | .mramEccError .. | .keyWrite .. | .keyErase .. | .keyGenerate .. | .keyAttr .. | .keyCommandDone .. => true
  | _ => false

/-- A command that may change the image store: the end of a command of the update page (R485), and a reset of the dies during one (R482). -/
def writesImages (i : Instr) : Bool :=
  match i with
  | .controllerDieReset .. | .resetNPin .. | .vinCollapse .. | .norCommandDone .. => true
  | _ => false

/-- The block after a command. -/
def Chip.afterCommand (c : Chip) (i : Instr) : Chip :=
  match exec i { chip := c, pending := [] } with
  | .next t => t.chip
  | _ => c

end Sys2Proof.Machine
end

