-- ==== Sys2Proof/Certificates/Slice0/Obligations.lean ====
section
/-! DEFINITION. The statements for the provers: what reset leaves, what every command does and where it completes, what it leaves alone, and
the invariants of the block. -/

open Sys2Proof Sys2Proof.Machine

/-! ### The queue, the invariants and the frames of every command -/

/-- A step takes the command at the front of the queue and answers what its meaning answers on the block with the queue's rest; with no
command waiting the block idles, which is the model's choice (log 9). Rests on the model's choices in logs 9 and 99. -/
def Obligations.StepRunsFrontCommand : Prop :=
  (∀ (s : State) (c : Instr) (rest : List Instr), s.pending = c :: rest → step s = exec c { s with pending := rest }) ∧
  (∀ s : State, s.pending = [] → step s = .next s)

/-- Every command of the table answers a next state from every state, with the block as the command leaves it and the queue as it was: none
ends in a fault or a refusal, and what a command does depends on the block alone. Rests on the model's choices in logs 12 and 18. -/
def Obligations.EveryCommandCompletes : Prop :=
  ∀ (i : Instr) (s : State), exec i s = .next (s.after (s.chip.afterCommand i))

/-- The queue is served first in, first out: after as many steps as a first part of the queue has commands, each of them has run once and in
its order on the block, and the rest of the queue still waits in its order. Rests on the model's choices in log 9. -/
def Obligations.QueueIsServedInOrder : Prop :=
  ∀ (c : Chip) (front rest : List Instr),
    Sys2Proof.core.run front.length { chip := c, pending := front ++ rest } =
      .next { chip := front.foldl Chip.afterCommand c, pending := rest }

/-- The canonical forms are an invariant: from every state whose register map and byte memories are in canonical form, a step leaves them in
canonical form, and no step changes the variant. Rests on the model's choices in log 8. -/
def Obligations.SoundIsKept : Prop :=
  ∀ s t : State, s.Sound → step s = .next t → t.Sound ∧ t.chip.variant = s.chip.variant

/-- What a command leaves as it was: every byte of the planes' memories unless it is a mailbox payload, a bus write, a command of a unit's DMA
or a reset of the dies; every byte of the ledger store unless it is one that logs or stores; the stored keys and their commit entries
unless it starts or ends a key command on a slot or is an error of the memory that holds them; and the image store unless it ends a
command of the update page or is a reset of the dies. Rests on the model's choices in logs 8 and 29. -/
def Obligations.MemoryFrames : Prop :=
  ∀ (i : Instr) (s t : State), s.Sound → exec i s = .next t →
    (writesMemory i = false → ∀ a : Nat, Memory.byte t.chip.mem a = Memory.byte s.chip.mem a) ∧
    (writesStore i = false → ∀ a : Nat, Memory.byte t.chip.mram a = Memory.byte s.chip.mram a) ∧
    (writesKeys i = false → t.chip.vlt.banks = s.chip.vlt.banks ∧ t.chip.vlt.entries = s.chip.vlt.entries) ∧
    (writesImages i = false → t.chip.boot.nor = s.chip.boot.nor)

/-- What a read of a register, a window or the ledger store returns does not depend on the key material: two states that differ only in the
keys of the vault, with the same generations, read the same value at every address. (From R426.) Rests on the model's choices in log 21. -/
def Obligations.KeysAreNeverRead : Prop :=
  ∀ (s : State) (acc : Access) (a : Nat) (keys : Sparse VaultSlot) (banks : Sparse (Option VaultBank)),
    (∀ k : Nat, (Sparse.get (fun _ => ({} : VaultSlot)) keys k).key.generation =
      (Sparse.get (fun _ => ({} : VaultSlot)) s.chip.vlt.slots k).key.generation) →
    let d : Chip := { s.chip with vlt := { s.chip.vlt with slots := keys, banks := banks } }
    (s.chip.afterCommand (.latchedWordRead acc a)).rdata = (d.afterCommand (.latchedWordRead acc a)).rdata ∧
    (s.chip.afterCommand (.ledgerReadWord acc)).rdata = (d.afterCommand (.ledgerReadWord acc)).rdata

/-- What reset leaves: no command waits; every register of every page reads its reset word, among them FAB_CAP, the watchdogs of R483, the
reader's and the vault's registers of R421 and R444; the Fold does not run, no Flock is released, no plane runs, nothing is enabled, the
network transmitters are off; the memories list nothing, and the state is sound. Rests on the model's choices in logs 7, 8, 10 and 11. -/
def Obligations.ResetState : Prop :=
  State.reset.pending = [] ∧ State.reset.Sound ∧
  (∀ a : Nat, State.reset.chip.word a = resetWord .mh6432 a) ∧
  (let c := State.reset.chip
  c.rd FAB_CAP_variant = 32 ∧ c.rd (FAB_WDT_CFG_timeout 0) = 200 ∧ c.rd (FAB_WDT_CFG_timeout 1) = 200 ∧
    c.rd (FAB_WDT_CFG_timeout 2) = 500 ∧ c.flag (FAB_WDT_CFG_action 0) = false ∧ c.flag (FAB_WDT_CFG_action 2) = true ∧
    c.rd TAG_PING_CFG_thr = 0x333 ∧ c.rd TAG_ROUND_q = 4 ∧ c.rd VLT_CAP_n_slots = 256 ∧ c.flag VLT_STATUS_ready = false ∧
    c.fold.running = false ∧ c.boot.powered = true ∧
    (∀ f : Nat, f < 8 → c.flockState f = 2) ∧ (∀ p : Nat, p < 4 → c.rd (UPD_PL_ST_state p) = 0) ∧
    (∀ n : Nat, n < 32 → c.flag (OPT_CTRL_en n) = false) ∧ (∀ n : Nat, n < 4 → c.txDisable n = true) ∧
    (∀ a : Nat, Memory.byte c.mem a = 0 ∧ Memory.byte c.mram a = 0))

/-! ### Mailboxes, pages, staged change and events (chapters 01, 02, 18) -/

/-- A payload write and a post by the sending plane at a free slot, a take by the receiving plane at a full one; at a full slot a payload
write and a post only set the refused bit; a take of a free slot does nothing, and the receiving plane reads a free slot as zero. A plane
that writes a slot of the wrong direction, its words, MBX_POST or MBX_TAKE, commits a direction violation (kind 3), and the slot, its
words and the doorbells stay as they are: only the violation registers change. The sender of a slot is the wrong plane for its take, every
plane but the sender for its words and its post. A plane that is not one of the pair. Its read of any word of the pair's block is a scope
violation (kind 2) and returns zero; its write of a payload word, of MBX_POST or of MBX_TAKE is an ownership violation (kind 0) and is
ignored. Only the violation registers change. (From R29.) -/
def Obligations.Mailboxes : Prop :=
  (∀ (s : State) (acc : Access) (p k : Nat), p < 6 → k < 16 →
    (∀ w v : Nat, w < 16 → s.chip.Accepts acc (mailboxWord p k w) 0 → initiatorPlane acc.by_ = mailboxSender p k →
      exec (.mbxPayloadWrite acc p k w v) s = .next (s.after
        (if s.chip.flag ((MBX_STATE_full p).bitOf k) then s.chip.mailboxRefuse p k
        else s.chip.setBytes (mailboxWord p k w) (leBytes 4 v)))) ∧
    (s.chip.Accepts acc (MBX_POST p).addr 0 → initiatorPlane acc.by_ = mailboxSender p k →
      exec (.mbxPost acc p k) s = .next (s.after
        (if s.chip.flag ((MBX_STATE_full p).bitOf k) then s.chip.mailboxRefuse p k
        else (s.chip.setFlag ((MBX_STATE_full p).bitOf k) true).fireShared (doorbell p (if k < 8 then 0 else 2))))) ∧
    (s.chip.Accepts acc (MBX_TAKE p).addr 0 →
      initiatorPlane acc.by_ = (if k < 8 then (pairPlanes p).2 else (pairPlanes p).1) →
      exec (.mbxTake acc p k) s = .next (s.after
        (if s.chip.flag ((MBX_STATE_full p).bitOf k) then
          (s.chip.setFlag ((MBX_STATE_full p).bitOf k) false).fireShared (doorbell p (if k < 8 then 1 else 3))
        else s.chip))) ∧
    (∀ w : Nat, w < 16 → s.chip.Readable acc (mailboxWord p k w) →
      initiatorPlane acc.by_ = (if k < 8 then (pairPlanes p).2 else (pairPlanes p).1) →
      s.chip.flag ((MBX_STATE_full p).bitOf k) = false →
      exec (.latchedWordRead acc (mailboxWord p k w)) s = .next (s.after { s.chip with rdata := 0 }))) ∧
  (∀ (s : State) (acc : Access) (p k w v : Nat), p < 6 → k < 16 → w < 16 →
    (s.chip.Accepts acc (mailboxWord p k w) 0 → initiatorPlane acc.by_ ≠ mailboxSender p k →
      exec (.mbxPayloadWrite acc p k w v) s = .next (s.after (s.chip.violate acc (mailboxWord p k w) 3 true))) ∧
    (s.chip.Accepts acc (MBX_POST p).addr 0 → initiatorPlane acc.by_ ≠ mailboxSender p k →
      exec (.mbxPost acc p k) s = .next (s.after (s.chip.violate acc (MBX_POST p).addr 3 true))) ∧
    (s.chip.Accepts acc (MBX_TAKE p).addr 0 → initiatorPlane acc.by_ = mailboxSender p k →
      exec (.mbxTake acc p k) s = .next (s.after (s.chip.violate acc (MBX_TAKE p).addr 3 true)))) ∧
  (∀ (s : State) (acc : Access) (p k : Nat), p < 6 → k < 16 → acc.size = 4 → acc.skew = 0 → inPair p (initiatorPlane acc.by_) = false →
    (∀ a : Nat, mailboxWord p 0 0 ≤ a → a < mailboxWord (p + 1) 0 0 →
      exec (.latchedWordRead acc a) s = .next (s.after { s.chip.violate acc a 2 false with rdata := 0 })) ∧
    (∀ w v : Nat, w < 16 →
      exec (.mbxPayloadWrite acc p k w v) s = .next (s.after (s.chip.violate acc (mailboxWord p k w) 0 true))) ∧
    exec (.mbxPost acc p k) s = .next (s.after (s.chip.violate acc (MBX_POST p).addr 0 true)) ∧
    exec (.mbxTake acc p k) s = .next (s.after (s.chip.violate acc (MBX_TAKE p).addr 0 true)))

/-- What the page rows of the table do when their access passes: EV_PEND loses the edge bits written as 1 unless an edge arrives in the same
cycle; a changed EV_TYPE bit clears its pending bit; the violation registers clear; a staged write lands in its shadow. A write of OWNER
that passes stores the read scope; it stores the owner when the page is reassignable, the owner differs and is one that R23 names for the
page, and no armed slot has the page frozen; a dirty page's shadows are discarded with it; a frozen page's owner change is recorded as a
violation of kind 0 instead. (From R46, R49, R50, R54.) Rests on the model's choices in logs 19 and 101. -/
def Obligations.PageRegisters : Prop :=
  (∀ (s : State) (acc : Access) (page v arriving : Nat), s.chip.isPage page = true →
    (s.chip.Accepts acc (page + 0x018) v →
      exec (.evPendClear acc page v arriving) s = .next (s.after (s.chip.setWord (page + 0x018)
        ((s.chip.word (page + 0x018) &&& ~~~(BitVec.ofNat 32 v &&& s.chip.word (page + 0x01C))) |||
          (BitVec.ofNat 32 arriving &&& s.chip.word (page + 0x01C)))).settleEvents)) ∧
    (s.chip.Accepts acc (page + 0x01C) v →
      exec (.evTypeWrite acc page v) s = .next (s.after
        ((s.chip.setWord (page + 0x018) (s.chip.word (page + 0x018) &&& ~~~(s.chip.word (page + 0x01C) ^^^ BitVec.ofNat 32 v))).setWord
          (page + 0x01C) (BitVec.ofNat 32 v)).settleEvents)) ∧
    (s.chip.Accepts acc FAB_VIOL_CLR.addr v → v % 2 = 1 →
      exec (.violationClear acc v) s = .next (s.after (((s.chip.put FAB_VIOL_COUNT 0).put FAB_VIOL_ADDR 0).put FAB_VIOL_INFO 0))) ∧
    (∀ a : Nat, s.chip.Accepts acc a v → stagedMask (((locate s.chip.variant a).getD (.fab, 0)).1)
        (activeOfs ((a - (((locate s.chip.variant a).getD (.fab, 0)).1).base) % (((locate s.chip.variant a).getD (.fab, 0)).1).pitch)) ≠ 0 →
      exec (.shadowWrite acc a v false) s = .next (s.after (s.chip.stageWrite (initiatorPlane acc.by_) a v)))) ∧
  (∀ (s : State) (acc : Access) (page v : Nat), s.chip.isPage page = true → s.chip.Accepts acc (page + 0x030) v →
    let c := s.chip.put (scopeFld page) (v / 16)
    (c.flag ⟨page + 0x030, 8, 1⟩ = false ∨ v % 4 = c.rd (ownerFld page) ∨ c.ownerAllowed page (v % 4) = false →
      exec (.ownerWrite acc page v) s = .next (s.after c.tagSettle)) ∧
    (c.flag ⟨page + 0x030, 8, 1⟩ = true → v % 4 ≠ c.rd (ownerFld page) → c.ownerAllowed page (v % 4) = true → c.frozen page = true →
      exec (.ownerWrite acc page v) s = .next (s.after (c.violate acc (page + 0x030) 0 true).tagSettle)) ∧
    (c.flag ⟨page + 0x030, 8, 1⟩ = true → v % 4 ≠ c.rd (ownerFld page) → c.ownerAllowed page (v % 4) = true → c.frozen page = false →
      exec (.ownerWrite acc page v) s = .next (s.after
        (if c.stg.dirty.any (fun d => d.1 == page) then ((c.put (ownerFld page) (v % 4)).discardShadows page).tagSettle
        else (c.put (ownerFld page) (v % 4)).tagSettle))))

/-- A claim of a free resource sets held and the owner and clears refused; the holder's own claim changes nothing; another plane's is refused;
the holder's release frees it; a release by anyone else is a claim-release violation (kind 5), of kind 4 when the access is no aligned
word; a forced release by the management plane frees it and stops what it did. Resource 63 is sense slot 15, whose owner is fixed. (From
R52.) Rests on the model's choices in logs 20 and 40. -/
def Obligations.Claims : Prop :=
  ∀ (s : State) (acc : Access) (k : Nat), k < 76 →
    (s.chip.flag (FAB_CLAIM_held k) = false →
      exec (.claim acc k) s = .next (s.after
        (((s.chip.setFlag (FAB_CLAIM_held k) true).put (FAB_CLAIM_owner k) (initiatorPlane acc.by_)).setFlag (FAB_CLAIM_refused k) false))) ∧
    (s.chip.flag (FAB_CLAIM_held k) = true →
      exec (.claim acc k) s = .next (s.after
        (if s.chip.rd (FAB_CLAIM_owner k) = initiatorPlane acc.by_ then s.chip else s.chip.setFlag (FAB_CLAIM_refused k) true))) ∧
    (s.chip.holds (initiatorPlane acc.by_) k = true →
      exec (.release acc k) s = .next (s.after
        (if k = 63 then s.chip else (s.chip.setFlag (FAB_CLAIM_held k) false).put (FAB_CLAIM_owner k) 0).tagSettle)) ∧
    (s.chip.holds (initiatorPlane acc.by_) k = false →
      exec (.release acc k) s = .next (s.after
        (s.chip.violate acc (FAB_CLAIM k).addr (if acc.size ≠ 4 ∨ acc.skew ≠ 0 then 4 else 5) true).tagSettle)) ∧
    (s.chip.Accepts acc FAB_CLAIM_FORCE.addr k → k ≠ 63 → s.chip.flag (FAB_CLAIM_held k) = true →
      exec (.claimForce acc k) s = .next (s.after
        (((s.chip.setFlag (FAB_CLAIM_held k) false).put (FAB_CLAIM_owner k) 0).stopResource k).tagSettle))

/-- A write that a row of R48 refuses is ignored and recorded with that row's kind: the writes of EV_PEND, EV_TYPE, the violation clear and
the two commands of a slot answer the state of the record alone. A record changes only the violation registers: every other register, both
memories, the staged changes and the last read stay as they are, and the count moves by one up to its ceiling. (From R48, R49.) -/
def Obligations.ViolatingWriteIgnored : Prop :=
  ∀ (s : State) (acc : Access) (a v kind : Nat), s.chip.writeViolation acc a v = some kind →
    (∀ page arriving : Nat, s.chip.isPage page = true → a = page + 0x018 →
      exec (.evPendClear acc page v arriving) s = .next (s.after (s.chip.violate acc a kind true))) ∧
    (∀ page : Nat, s.chip.isPage page = true → a = page + 0x01C →
      exec (.evTypeWrite acc page v) s = .next (s.after (s.chip.violate acc a kind true))) ∧
    (a = FAB_VIOL_CLR.addr → exec (.violationClear acc v) s = .next (s.after (s.chip.violate acc a kind true))) ∧
    (∀ p : Nat, p < 4 → a = (STG_CMD p).addr →
      exec (.stgArm acc p v) s = .next (s.after (s.chip.violate acc a kind true)) ∧
      exec (.stgCancel acc p v) s = .next (s.after (s.chip.violate acc a kind true))) ∧
    (∀ x : Nat, x ≠ FAB_VIOL_COUNT.addr → x ≠ FAB_VIOL_ADDR.addr → x ≠ FAB_VIOL_INFO.addr →
      (s.chip.violate acc a kind true).word x = s.chip.word x) ∧
    (s.chip.violate acc a kind true).rd FAB_VIOL_COUNT = min (s.chip.rd FAB_VIOL_COUNT + 1) 0xFFFFFFFF ∧
    (s.chip.violate acc a kind true).mem = s.chip.mem ∧ (s.chip.violate acc a kind true).mram = s.chip.mram ∧
    (s.chip.violate acc a kind true).stg = s.chip.stg ∧ (s.chip.violate acc a kind true).rdata = s.chip.rdata

/-- R47: in the peripheral window, an address that belongs to no page of the block map (an absent unit's among them) and a shadow location
whose active register is not staged read zero and ignore writes; no violation is recorded, and nothing is counted. DSP_ITEM_DATA, staged
through the item table (R239), is none of these. -/
def Obligations.AccessesOutsideTheBlockMap : Prop :=
  ∀ (s : State) (acc : Access) (a v cyc : Nat) (mirrored : Bool), 0x40000000 ≤ a → a < 0x40600000 →
    (locate s.chip.variant a = none ∨
      ∃ (b : Blk) (n : Nat), locate s.chip.variant a = some (b, n) ∧ isShadow b ((a - b.base) % b.pitch) = true ∧
        stagedMask b (activeOfs ((a - b.base) % b.pitch)) = 0 ∧ ¬ (b = .dsp ∧ (a - b.base) % b.pitch = 0x904)) →
    exec (.latchedWordRead acc a) s = .next (s.after { s.chip with rdata := 0 }) ∧
    exec (.registerWrite acc a v cyc) s = .next (s.after (s.chip.advanceTo cyc)) ∧
    exec (.shadowWrite acc a v mirrored) s = .next s

/-- What a write of STG_CMD that passes does to slot p. Refused arms give the state of their row and raise event 4 + p; an accepted arm
freezes the dirty pages and captures the target; a cancel of an armed slot makes it cancelled; both are mirrored where a frozen page is; a
write of both, and a cancel of a slot that is not armed, does nothing. Any arm of slot 1 ends the hand-over window; the hand-over arm
needs SFE_CAL_CRC_STG to equal the CRC of the adopted record, and any other arm of image pages a session, the hand-over done and a counter
that is not saturated (R155, R156, R165). A mirrored shadow write lands on a module in the Off role as its owner's; on Off an arm record
freezes the pages for Near's target unless that has passed, and a cancel record cancels an armed slot; a module that is not Off ignores
both. The edge of a target applies every slot armed for it and counts one; after the commit of a power failure it cancels them instead;
what the two modules do not apply together sets pair_mismatch. An uncorrectable error in the page store faults the page's block at its
level and cancels the armed slots that hold the page. (From R54, R56, R58, R61, R221.) Rests on the model's choices in logs 13, 31, 38, 39
and 113. -/
def Obligations.StagedChange : Prop :=
  (∀ (s : State) (acc : Access) (p v : Nat), p < 4 → s.chip.Accepts acc (STG_CMD p).addr v →
    let c := s.chip
    let d := if p = 1 then c.setFlag SFE_CAL_SEAL_ho_open false else c
    let ho : Bool := p == 1 && c.flag SFE_CAL_SEAL_ho_open
    let target := c.rd64 (STG_TGT_LO_target p) (STG_TGT_HI_target p)
    let accepted (h : Bool) : Prop := exec (.stgArm acc p v) s = .next (s.after
      (let e := d.armSlot p target h false; if e.pairPages p then e.mirror (.arm p target h) else e))
    let refused (r : Nat) : Prop := exec (.stgArm acc p v) s = .next (s.after ((d.put (STG_SLOT_ST_state p) r).raiseEv stgPage (4 + p)))
    (v % 4 = 3 → exec (.stgArm acc p v) s = .next s ∧ exec (.stgCancel acc p v) s = .next s) ∧
    (v % 4 = 1 →
      (c.armed p = true → refused 4) ∧
      (c.armed p = false → target < c.stride + 2 → refused 3) ∧
      (c.armed p = false → c.stride + 2 ≤ target → c.dirtyPages p = [] → refused 7) ∧
      (c.armed p = false → c.stride + 2 ≤ target → c.dirtyPages p ≠ [] → ho = true →
        (c.rd SFE_CAL_CRC_STG_crc = c.rd SFE_CAL_HO_CRC_crc → accepted true) ∧
        (c.rd SFE_CAL_CRC_STG_crc ≠ c.rd SFE_CAL_HO_CRC_crc → refused 6)) ∧
      (c.armed p = false → c.stride + 2 ≤ target → c.dirtyPages p ≠ [] → ho = false →
        ((c.dirtyPages p).any c.sealBlocks = true → refused 6) ∧
        ((c.dirtyPages p).any c.sealBlocks = false → (c.dirtyPages p).any (imagePage c.variant) = true →
          (c.rd SFE_CAL_COUNT_count = 0xFFFFFFFF ∨ c.noSession = true ∨ c.flag SFE_CAL_SEAL_handed_over = false) → refused 6) ∧
        ((c.dirtyPages p).any c.sealBlocks = false →
          ((c.dirtyPages p).any (imagePage c.variant) = true →
            c.rd SFE_CAL_COUNT_count ≠ 0xFFFFFFFF ∧ c.noSession = false ∧ c.flag SFE_CAL_SEAL_handed_over = true) →
          accepted false))) ∧
    (v % 4 = 2 → exec (.stgCancel acc p v) s = .next
      (if c.armed p then s.after (((if c.pairPages p then c.mirror (.cancel p) else c).put (STG_SLOT_ST_state p) 5).setSlot p {}) else s))) ∧
  (∀ (s : State),
    (∀ (acc : Access) (a v : Nat) (b : Blk) (n : Nat), locate s.chip.variant a = some (b, n) → s.chip.isOff = true → b.pairScope = true →
      stagedMask b (activeOfs ((a - b.base) % b.pitch)) ≠ 0 →
      exec (.shadowWrite acc a v true) s = .next (s.after (s.chip.stageWrite (s.chip.rd (ownerFld (pageOf b n))) a v))) ∧
    (∀ (p target : Nat) (ho : Bool), p < 4 → s.chip.isOff = true →
      exec (.armRecordReceive p target false ho) s =
        .next (s.after (if target ≤ s.chip.stride then s.chip else s.chip.armSlot p target ho true)) ∧
      exec (.armRecordReceive p target true ho) s =
        .next (s.after (if s.chip.armed p then (s.chip.put (STG_SLOT_ST_state p) 5).setSlot p {} else s.chip))) ∧
    (∀ (p target : Nat) (cancel ho : Bool), s.chip.isOff = false → exec (.armRecordReceive p target cancel ho) s = .next s) ∧
    (∀ near : Nat,
      let due := (List.range 4).filter fun p => s.chip.armed p && (s.chip.slot p).target == some s.chip.nextStride
      let missed := s.chip.isOff && (List.range 4).any fun p => bit near p && !due.contains p
      let c := if missed then s.chip.pairMismatch else s.chip
      let alone := c.flag HRN_CTRL_pair_en && c.rd HRN_STATUS_role == 1 && due.any fun p => c.pairPages p && !(c.slot p).confirmed
      (due = [] → exec (.stgApply near) s = .next (s.after c)) ∧
      (due ≠ [] → c.flag LDG_STATUS_committed = true → exec (.stgApply near) s = .next (s.after
        (due.foldl (fun (c : Chip) p => ((c.put (STG_SLOT_ST_state p) 5).setSlot p {}).raiseEv stgPage (4 + p)) c))) ∧
      (due ≠ [] → c.flag LDG_STATUS_committed = false → exec (.stgApply near) s = .next (s.after
        ((due.foldl (fun (c : Chip) p => c.applySlot p s.chip.nextStride) (if alone then c.pairMismatch else c)).inc
          STG_APPLY_COUNT_count)))) ∧
    (∀ (page : Nat) (b : Blk) (n : Nat), locate s.chip.variant page = some (b, n) →
      exec (.pageStoreEccError page) s = .next (s.after (forN 4 (fun p c =>
        if c.armed p && (c.slot p).frozen.contains (pageBase page) then
          ((c.put (STG_SLOT_ST_state p) 5).setSlot p {}).raiseEv stgPage (4 + p)
        else c) (s.chip.setFault (s.chip.pageLevel b n).1 (b.code * 256 + 32) (s.chip.pageLevel b n).2)))))

/-- A write of a register without a row of its own, at cycle `cyc`, lands when it passes and is otherwise ignored with a violation, as is a
local write of TRF_CAL_ADDR on Off; a plane writes and reads the memory that it may reach, and an access to memory that it may not reach
is a violation. A read of a register answers the computed, latched or stored word, zero for a free mailbox slot of the receiver, and zero
with a violation; a read of a snapshot window and of a CAN controller's memory answers its word. (From R22, R44, R48, R49, R191.) Rests on
the model's choices in logs 16, 17, 26 and 29. -/
def Obligations.RegisterAccess : Prop :=
  ∀ (s : State) (acc : Access) (a v cyc : Nat),
    let c := s.chip
    let d := c.advanceTo cyc
    let plane := initiatorPlane acc.by_
    (∀ (b : Blk) (n : Nat), isMemory a = false → locate d.variant a = some (b, n) → hasOwnRow b ((a - b.base) % b.pitch) = false →
      isShadow b ((a - b.base) % b.pitch) = false →
      (d.Accepts acc a v →
        exec (.registerWrite acc a v cyc) s = .next (s.after
          (if b = .trf ∧ (a - b.base) % b.pitch = 0x130 ∧ d.isOff then d.violate acc a 0 true
          else d.storeRegister plane b n a ((a - b.base) % b.pitch) v))) ∧
      (∀ kind : Nat, d.writeViolation acc a v = some kind →
        exec (.registerWrite acc a v cyc) s = .next (s.after (d.violate acc a kind true)))) ∧
    (isMemory a = true →
      exec (.registerWrite acc a v cyc) s = .next (s.after
        (if d.mayReach plane (a + acc.skew) acc.size then d.setBytes (a + acc.skew) (leBytes (min 8 acc.size) v)
        else d.violate acc a 0 true)) ∧
      exec (.latchedWordRead acc a) s = .next (s.after
        (if c.mayReach plane (a + acc.skew) acc.size then { c with rdata := Memory.le c.mem (a + acc.skew) (min 8 acc.size) }
        else { c.violate acc a 2 false with rdata := 0 }))) ∧
    (∀ k : Nat, k < 3 → ∀ ofs : Nat, ofs < 0x100000 → a = 0x3F000000 + 0x100000 * k + ofs → acc.size = 4 → acc.skew = 0 →
      exec (.latchedWordRead acc a) s = .next (s.after
        (if ofs = 12 then { c with rdata := (Sparse.get (resetWord c.variant) c.latch a).toNat }
        else if ofs = 8 then
          { c with
            latch := Sparse.set (resetWord c.variant) c.latch (a + 4) (BitVec.ofNat 32 (wordOf c.progress 1))
            rdata := wordOf c.progress 0 }
        else { c with rdata := c.windowWord k ofs }))) ∧
    (∀ n ofs : Nat, n < Blk.can.count c.variant → ofs < 0x4000 → a = 0x3FE00000 + 0x4000 * n + ofs → acc.size = 4 → acc.skew = 0 →
      bit (c.rd (scopeFld (canPage n))) plane = true →
      exec (.latchedWordRead acc a) s = .next (s.after { c with rdata := Memory.le c.mem a 4 })) ∧
    (∀ (b : Blk) (n : Nat), isMemory a = false → ¬ (0x3F000000 ≤ a ∧ a < 0x3F300000) → ¬ (0x3FE00000 ≤ a ∧ a < 0x3FE10000) →
      locate c.variant a = some (b, n) → readHasOwnRow b ((a - b.base) % b.pitch) = false →
      (isShadow b ((a - b.base) % b.pitch) = true → stagedMask b (activeOfs ((a - b.base) % b.pitch)) ≠ 0) →
      (c.Readable acc a →
        exec (.latchedWordRead acc a) s = .next (s.after
          (if b = .mbx ∧ c.freeSlotRead plane n ((a - b.base) % b.pitch) then { c with rdata := 0 }
          else c.readWord b a ((a - b.base) % b.pitch)))) ∧
      (∀ kind : Nat, c.readViolation acc a = some kind →
        exec (.latchedWordRead acc a) s = .next (s.after { c.violate acc a kind false with rdata := 0 })))

/-- The publication of a Stride that has not been published evaluates the power-quality windows that have ended and writes the records of the
boundary sequence, gives the next bank the Fold's values, makes it the front bank, sets the write-progress word to the Stride and moves on
to the bank after it; a second one in the same Stride, and one while the Fold does not run, does nothing. (From R24, R25, R111.) Rests on
the model's choices in logs 14 and 15. -/
def Obligations.SnapshotPublication : Prop :=
  ∀ s : State,
    (s.chip.fold.running = false ∨ s.chip.publishedNow = true → exec .snapshotPublication s = .next s) ∧
    (s.chip.fold.running = true → s.chip.publishedNow = false →
      let c := (pqWindowEval (s.chip.advanceTo 10000).settleAwait).pfwReleased.flushStepFour.showSummary
      exec .snapshotPublication s = .next (s.after (({ c with
        fold := { c.fold with
          progress := c.stride, front := c.fold.next, next := (c.fold.next + 1) % 3
          banks := Sparse.set (fun _ => {}) c.fold.banks c.fold.next c.foldBank } } : Chip).signPublished c.foldBank)))

/-- What the commands of the event controller do. A claim by its own core with nothing held takes the lowest deliverable source, or answers
0xFFFF; any other claim reads what is held. A complete of the held source frees the claim and counts it as spurious when bit 31 says so;
any other complete counts a mismatch. A raise fires the self source, a shared source that compatibility mode allows, or the destination's
inter-processor source. A target write lands unless the source is enabled in compatibility mode. A wait for interrupt sleeps unless
something is requested or its core has woken; a timer level is stored and wakes; a source stalled for a second is a fault. (From
R451–R466.) Rests on the model's choices in logs 33 and 34. -/
def Obligations.EventController : Prop :=
  ∀ (s : State) (acc : Access) (t : Nat), t < 8 →
    let c := s.chip
    let held := c.rd (EVC_TSTAT_held t)
    (c.Readable acc (EVC_CLAIM t).addr →
      (initiatorNo acc.by_ ≠ t ∨ held ≠ 0xFFFF → exec (.evcClaimRead acc t) s = .next (s.after { c with rdata := held })) ∧
      (initiatorNo acc.by_ = t → held = 0xFFFF → c.lowestDeliverable t = none →
        exec (.evcClaimRead acc t) s = .next (s.after { c with rdata := 0xFFFF })) ∧
      (∀ id : Nat, initiatorNo acc.by_ = t → held = 0xFFFF → c.lowestDeliverable t = some id →
        exec (.evcClaimRead acc t) s = .next (s.after { ((c.consume t id).put (EVC_TSTAT_held t) id).inc (EVC_CLAIMS t) with rdata := id }))) ∧
    (∀ v : Nat, c.Accepts acc (EVC_COMPLETE t).addr v →
      (held ≠ 0xFFFF → v % 2048 = held → bit v 31 = false →
        exec (.evcComplete acc t v) s = .next (s.after (c.put (EVC_TSTAT_held t) 0xFFFF).settleEvents)) ∧
      (held ≠ 0xFFFF → v % 2048 = held → bit v 31 = true →
        exec (.evcComplete acc t v) s = .next (s.after ((c.put (EVC_TSTAT_held t) 0xFFFF).incSat (EVC_TCNT_spurious t)).settleEvents)) ∧
      (held = 0xFFFF ∨ v % 2048 ≠ held →
        exec (.evcComplete acc t v) s = .next (s.after ((c.incSat (EVC_TCNT_mismatch t)).raiseEv 0x40010000 0)))) ∧
    (c.Accepts acc (EVC_RAISE t).addr 0 → exec (.evcRaiseSelf acc t) s = .next (s.after (c.firePrivate t 0))) ∧
    (∀ id : Nat, 496 ≤ id → id < 1056 → c.Accepts acc (EVC_RAISE t).addr id →
      exec (.evcRaiseSoftware acc t id) s = .next
        (if c.flag EVC_CTRL_compat = true ∧ id < 752 then s else s.after (c.fireShared id))) ∧
    (∀ dest : Nat, dest < 8 → c.Accepts acc (EVC_RAISE t).addr (4096 + 8192 * dest) →
      exec (.evcRaiseIpi acc t dest) s = .next (s.after (c.firePrivate dest (1 + t)))) ∧
    (∀ id x : Nat, 32 ≤ id → id < 1056 → c.Accepts acc (srcTarget id).addr 0 →
      exec (.evcTargetWrite acc id x) s = .next
        (if c.flag EVC_CTRL_compat && c.sourceEnabled id then s else s.after (c.put (srcTarget id) x).settleSources)) ∧
    (∀ v : Nat, c.Accepts acc EVC_CTRL.addr v →
      exec (.compatModeWrite acc v) s = .next (s.after
        (if (List.range 8).any (fun t => c.rd (EVC_TSTAT_held t) != 0xFFFF) then
          (c.setFlag EVC_STATUS_compat_refused true).raiseEv 0x40010000 3
        else (((c.setFlag EVC_STATUS_compat_refused false).put EVC_CTRL_compat v).put EVC_STATUS_compat_active v).settleSources))) ∧
    (∀ woken : Bool, exec (.coreWfi ⟨t, woken⟩) s = .next (s.after (c.setFlag (EVC_TSTAT_wfi t) (!woken && !c.requesting t)))) ∧
    (∀ level : Bool, exec (.coreTimerCompare t level) s = .next (s.after
      ({ c with evc := { c.evc with timer := putBit c.evc.timer t level } } : Chip).wakeCores)) ∧
    (∀ id : Nat, 8000 ≤ Sparse.get (fun _ => 0) c.evc.stalled id → c.hasFault 5 0x0126 id = false →
      exec (.sharedSourceStall id) s = .next (s.after ((c.setFault 5 0x0126 id).raiseEv 0x40010000 2)))

/-- R462: a write of EVC_CTRL.compat lands exactly when no target holds a claimed source. Otherwise the mode stays and compat_refused sets,
and a write that lands clears it. A mode change clears no pending state. -/
def Obligations.CompatibilityModeWrite : Prop :=
  ∀ (s : State) (acc : Access) (v : Nat), s.chip.Accepts acc EVC_CTRL.addr v →
    let c := s.chip
    let held : Prop := ∃ k : Nat, k < 8 ∧ c.rd (EVC_TSTAT_held k) ≠ 0xFFFF
    ∃ t : State, exec (.compatModeWrite acc v) s = .next t ∧
      (held → t.chip.rd EVC_CTRL_compat = c.rd EVC_CTRL_compat ∧ t.chip.rd EVC_STATUS_compat_active = c.rd EVC_STATUS_compat_active ∧
        t.chip.flag EVC_STATUS_compat_refused = true) ∧
      (¬ held → t.chip.rd EVC_CTRL_compat = v % 2 ∧ t.chip.rd EVC_STATUS_compat_active = v % 2 ∧
        t.chip.flag EVC_STATUS_compat_refused = false) ∧
      (∀ id : Nat, 32 ≤ id → id < 1056 → c.flag (srcPend id) = true → t.chip.flag (srcPend id) = true) ∧
      (∀ k j : Nat, k < 8 → j < 32 → c.flag ((EVC_PRIV_PEND k).bitOf j) = true → t.chip.flag ((EVC_PRIV_PEND k).bitOf j) = true)

/-! ### The time unit (chapter 03) -/

/-- What the commands of the clock, the servo and the VCXO loop do. d is the block at the cycle of the command, e the block at the edge that
ends the Stride. A step is taken when none is pending; at its edge it is refused when the clock would fall below zero, and otherwise moves
the clock, ends the lock and passes comparators; a sample counts for lock, and with the servo on and below the step threshold it moves I
and the rate by R67. A sample that R66 does not select, one that finds a step pending, an inactive edge and an edge with nothing due leave
the time unit as it is. What the time limits do when they have run out: holdover begins 4 s after the last sample and ends with its limit;
a missing PPS_IN edge is reported after 1.5 s and a limit that has held for 10 s is a time fault. (From R64–R68, R70, R72, R83.) Rests on
the model's choices in logs 42, 45, 103 and 117. -/
def Obligations.TimeUnit : Prop :=
  (∀ (s : State) (acc : Access) (cyc v : Nat),
    let c := s.chip
    let d := c.advanceTo cyc
    let e := c.advanceTo strideCycles
    (d.Readable acc TIM_SEC_LO.addr → exec (.timSecLoRead acc cyc) s = .next (s.after
      { (((d.put TIM_SEC_LO_sec (clockSec d.tim.clock)).put TIM_SEC_HI_sec (clockSec d.tim.clock / 2 ^ 32)).put TIM_NS_ns
          (clockNs d.tim.clock)).put TIM_FRAC_frac (clockFrac d.tim.clock) with rdata := clockSec d.tim.clock % 2 ^ 32 })) ∧
    (d.Accepts acc TIM_CMD.addr 1 → exec (.timStepCmd acc cyc) s = .next (s.after
      (if d.tim.step.isSome then d else d.requestStep (signed 64 (d.rd64 TIM_STEP_LO_step TIM_STEP_HI_step))))) ∧
    (∀ n : Int, c.tim.step = some n → c.tim.stepCycle + 100 ≤ strideCycles →
      let x := (e.setTim fun t => { t with step := none }).setFlag (tst 5) false
      let new : Int := e.tim.clock + n * 2 ^ 32
      exec .stepApply s = .next (s.after
        (if new < 0 then ((x.setFlag (tst 6) true).setFault 5 0x0306 0).raiseEv timPage 3
        else ((((x.setTim fun t => { t with clock := new.toNat }).setFlag (tst 6) false).clearFault 5 0x0306 0).raiseEv timPage 3).lockLost.markPassed
          e.tim.clock new.toNat))) ∧
    ((c.tim.step = none ∨ strideCycles < c.tim.stepCycle + 100) → exec .stepApply s = .next (s.after c)) ∧
    (c.Accepts acc TIM_CMD.addr 2 → exec (.loadStrideCmd acc) s = .next (s.after
      ((c.setFlag (tst 4) false).setTim fun t => { t with loadRequest := true }))) ∧
    (let x := e.setTim fun t => { t with loadRequest := false }
     exec .strideLoad s = .next (s.after
        (if c.tim.loadRequest = false then c
        else if x.rd HRN_STATUS_role = 2 ∨ computedStride x.tim.clock = x.stride + 1 then x
        else x.loadNext (computedStride x.tim.clock)))) ∧
    (c.Accepts acc TIM_CMD.addr 4 →
      exec (.clearIntegCmd acc) s = .next (s.after (c.setTim fun t => { t with integ := 0, vcxoInteg := 0 }).showInteg)) ∧
    (d.Accepts acc TIM_OFS.addr v → (d.rd TIM_CTRL_ref_src ≠ 1 ∨ d.tim.step.isSome = true) → exec (.offsetSample acc v cyc) s = .next (s.after d)) ∧
    (d.Accepts acc TIM_OFS.addr v → d.rd TIM_CTRL_ref_src = 1 → d.tim.step = none →
      let o := signed 32 v
      let x := d.countSample o
      (x.flag TIM_CTRL_servo_en = false → exec (.offsetSample acc v cyc) s = .next (s.after (x.putS TIM_LAST_OFS_ofs o))) ∧
      (x.flag TIM_CTRL_servo_en = true → o.natAbs < x.rd TIM_STEP_THR_thr * 256 →
        exec (.offsetSample acc v cyc) s = .next (s.after (x.servo o))) ∧
      (x.flag TIM_CTRL_servo_en = true → x.rd TIM_STEP_THR_thr * 256 ≤ o.natAbs →
        exec (.offsetSample acc v cyc) s = .next (s.after
          (if x.flag TIM_CTRL_auto_step then x.requestStep (rhe (-o) 8) else x.raiseEv timPage 4)))) ∧
    (∀ rising : Bool, rising ≠ d.flag TIM_CTRL_pps_edge →
      let x := (d.setTim fun t => { t with sincePps := 0 }).setFlag (tst 9) false
      exec (.ppsInEdge rising cyc) s = .next (s.after
        (if x.rd TIM_CTRL_ref_src = 2 then x.offsetSample (ppsSample x.tim.clock (x.rdS TIM_PPS_DELAY_delay)) else x))) ∧
    (∀ rising : Bool, rising = d.flag TIM_CTRL_pps_edge → exec (.ppsInEdge rising cyc) s = .next (s.after d)) ∧
    (let x := e.putS TIM_PHASE_MEAN_phi_mean e.phaseMean
     exec .vcxoLoopUpdate s = .next (s.after
        (if c.flag TIM_CTRL_flock = true ∧ c.nextStride % 8000 = 0 then (if x.isOff then x else x.vcxoStep e.phaseMean).alignBy e.phaseMean
        else c)))) ∧
  (∀ s : State,
    let c := s.chip
    (c.flag (tst 0) = true → 32000 ≤ c.tim.sinceSample →
      let x := (c.setFlag (tst 1) true).setTim fun t => { t with holdover := 0 }
      exec .holdoverEnter s = .next (s.after
        (if x.lockLost.flag TIM_CTRL_servo_en then x.lockLost.setRate (trunc0 x.lockLost.tim.integ 24) else x.lockLost))) ∧
    ((c.flag (tst 0) = false ∨ c.tim.sinceSample < 32000) → exec .holdoverEnter s = .next (s.after c)) ∧
    (c.flag (tst 1) = true → c.holdoverLimit * 8000 ≤ c.tim.holdover →
      exec .holdoverExpire s = .next (s.after ((((c.setFlag (tst 1) false).settleTime).setFault 5 0x0301 0).raiseEv timPage 2))) ∧
    ((c.flag (tst 1) = false ∨ c.tim.holdover < c.holdoverLimit * 8000) → exec .holdoverExpire s = .next (s.after c)) ∧
    exec .ppsMissing s = .next (s.after
      (if c.rd TIM_CTRL_ref_src = 2 ∧ 12000 ≤ c.tim.sincePps ∧ c.flag (tst 9) = false then (c.setFlag (tst 9) true).raiseEv timPage 27 else c)) ∧
    (let x := if 80000 ≤ c.tim.rateLimited then c.setFault 5 0x0307 0 else c
     exec .timeLimitFault s = .next (s.after (if 80000 ≤ x.tim.vcxoLimited then x.setFault 5 0x0308 0 else x))))

/-- R64: a read of TIM_SEC_LO at a cycle returns the low seconds of the clock at that cycle and latches the high seconds, the nanoseconds and
the fraction of the same cycle: reads of the other three registers then return them. -/
def Obligations.SecondsReadLatchesTheClock : Prop :=
  ∀ (s : State) (acc : Access) (cyc : Nat),
    let d := s.chip.advanceTo cyc
    d.Readable acc TIM_SEC_LO.addr →
    ∃ t : State, exec (.timSecLoRead acc cyc) s = .next t ∧ t.chip.rdata = clockSec d.tim.clock % 2 ^ 32 ∧
      (∀ r : Access, t.chip.Readable r TIM_SEC_HI.addr → ∃ u : State,
        exec (.latchedWordRead r TIM_SEC_HI.addr) t = .next u ∧ u.chip.rdata % 2 ^ 16 = clockSec d.tim.clock / 2 ^ 32 % 2 ^ 16) ∧
      (∀ r : Access, t.chip.Readable r TIM_NS.addr → ∃ u : State,
        exec (.latchedWordRead r TIM_NS.addr) t = .next u ∧ u.chip.rdata % 2 ^ 30 = clockNs d.tim.clock) ∧
      (∀ r : Access, t.chip.Readable r TIM_FRAC.addr → ∃ u : State,
        exec (.latchedWordRead r TIM_FRAC.addr) t = .next u ∧ u.chip.rdata = clockFrac d.tim.clock)

/-- The arithmetic of the servo. I takes I − Ki · o, clamped, exactly with 24 fraction bits; the rate takes −trunc0(Kp · o) + trunc0(I),
clamped; the last sample used is recorded; nothing outside TIM is written. (From R67.) Rests on the model's choices in log 42. -/
def Obligations.ServoArithmetic : Prop :=
  ∀ (s : State) (v : Nat),
    let c := s.chip
    let o := signed 32 v
    let i := clampI (-(42949672 * 2 ^ 24)) (42949672 * 2 ^ 24) (c.tim.integ - c.rd TIM_KI_ki * o)
    (c.servo o).tim.integ = i ∧
    (c.servo o).rdS TIM_RATE_adj = clampI (-42949672) 42949672 (-(trunc0 (c.rd TIM_KP_kp * o) 24) + trunc0 i 24) ∧
    (c.servo o).rdS TIM_LAST_OFS_ofs = o ∧
    (∀ a : Nat, a < 0x40020000 ∨ 0x40021000 ≤ a → (c.servo o).word a = c.word a) ∧
    (c.servo o).stride = c.stride ∧ (c.servo o).mem = c.mem ∧ (c.servo o).tim.clock = c.tim.clock

/-- An arm takes the target, and a past one fires at once and late; an armed comparator fires when the clock has reached its target and moves
on by R75; PPS_OUT falls once its width has passed; a capture edge that is selected enters its FIFO or is lost when it holds 16; a read
pops the oldest entry and an empty FIFO reads zero. (From R75, R76.) Rests on the model's choices in log 43. -/
def Obligations.ComparatorsAndCaptures : Prop :=
  ∀ (s : State) (acc : Access) (t v cyc : Nat), t < 8 →
    let d := s.chip.advanceTo cyc
    (d.Accepts acc (TIM_TC_CFG t).addr v →
      let x := (d.put (TIM_TC_CFG t) (v &&& 0xFFFF0037)).setPassed t false
      let target := (x.rd64 (TIM_TC_SEC_LO_sec t) (TIM_TC_SEC_HI_sec t) * 1000000000 + x.rd (TIM_TC_NS_ns t)) * 2 ^ 32
      exec (.comparatorArm acc t v cyc) s = .next (s.after
        (if v % 2 = 1 ∧ target < x.tim.clock then (x.comparatorAct t true).comparatorNext t true else x))) ∧
    (let target := (d.rd64 (TIM_TC_SEC_LO_sec t) (TIM_TC_SEC_HI_sec t) * 1000000000 + d.rd (TIM_TC_NS_ns t)) * 2 ^ 32
     exec (.comparatorFire t cyc) s = .next (s.after
        (if d.flag (TIM_TC_CFG_arm t) = true ∧ target ≤ d.tim.clock then
          (d.comparatorAct t (bit d.tim.passed t && d.comparatorPeriod t != 0)).comparatorNext t (bit d.tim.passed t)
        else d))) ∧
    exec (.ppsOutPulseEnd cyc) s = .next (s.after (if d.tim.ppsOut = some 0 then d.setTim fun u => { u with ppsOut := none } else d)) ∧
    (∀ rising : Bool,
      exec (.captureEdge t rising cyc) s = .next (s.after
        (if bit (d.rd (TIM_CAP_CFG_edge t)) (if rising then 0 else 1) = false then d
        else if 16 ≤ (d.captures t).length then (d.setFlag (TIM_CAP_STAT_overflow t) true).raiseEv timPage 26
        else d.setCaptures t (d.captures t ++ [⟨clockSec d.tim.clock, clockNs d.tim.clock, rising⟩])))) ∧
    (s.chip.Readable acc (TIM_CAP_NS t).addr →
      (s.chip.captures t = [] → exec (.capturePop acc t) s = .next (s.after { s.chip with rdata := 0 })) ∧
      (∀ (x : Capture) (l : List Capture), s.chip.captures t = x :: l →
        let y := ((s.chip.setCaptures t l).put (TIM_CAP_SEC_LO_sec t) x.sec).put (TIM_CAP_SEC_HI_sec t) (x.sec / 2 ^ 32)
        exec (.capturePop acc t) s = .next (s.after
          { (y.put (TIM_CAP_NS_ns t) x.ns).setFlag (TIM_CAP_NS_rising t) x.rising with rdata := x.ns + 2 ^ 31 * x.rising.toNat })))

/-! ### Metering, calibration and power quality (chapters 04 to 07) -/

/-- What the front end's own events do. A path stops settling after its 33 Strides; the selector goes high after 16 samples; the windows of
Stride 8000w + 7999 are decided once; an accepted result applies with its K from its Stride on, or is discarded where a bank switch
applies; a health fault whose run is complete sets its bit, latch, events, faults and record and discards the open window, and clears
again with its own run. Where an event's condition does not hold, nothing changes. (From R93, R94, R99, R100, R106, R107.) Rests on the
model's choices in logs 13, 47 and 104. -/
def Obligations.FrontEndEvents : Prop :=
  ∀ (s : State) (n k b : Nat),
    let c := s.chip
    exec (.settlingEnd n k) s = .next (s.after
      (if k < 3 ∧ ((c.elem n).path k).settling = true ∧ 33 ≤ ((c.elem n).path k).settled then
        (c.modElem n fun e => e.setPath k { e.path k with settling := false, settled := 0 }).showSettling n
      else c)) ∧
    exec (.selectorSwitchHigh n) s = .next (s.after
      (if (c.elem n).low = true ∧ 16 ≤ (c.elem n).count then
        (c.setElem n { c.elem n with low := false, count := 0 }).setFlag (SFE_ESTATUS_on_low n) false
      else c)) ∧
    ((c.elem n).pending = none → exec (.ratioApply n) s = .next (s.after c)) ∧
    (∀ r : PendingRatio, (c.elem n).pending = some r →
      let x := c.modElem n fun e => { e with pending := none }
      let y := ((x.put (SFE_RATIO_APPLIED_ratio n) r.ratio).putS (SFE_OFFS_APPLIED_offs n) r.offs).modElem n fun e =>
        { e with k := reciprocal r.ratio }
      exec (.ratioApply n) s = .next (s.after
        (if c.nextStride < r.due then c
        else if c.switchDue n c.nextStride then x
        else (y.put64 (SFE_REG_STRIDE_LO_stride n) (SFE_REG_STRIDE_HI_stride n) y.nextStride).raiseEv (sfePage n) 4))) ∧
    (let x := forN c.variant.elements (fun n c => if c.flag (SFE_ECTRL_en n) then c.windowEnd n else c) c
     exec .regressionWindowEnd s = .next (s.after
      (if c.stride % 8000 = 7999 ∧ c.fold.regressed = false then { x with fold := { x.fold with regressed := true } } else c))) ∧
    (n < c.variant.elements → b ≤ 14 → c.flag (healthBit n b) = false → c.healthFails n b = true →
      let x := (c.setFlag (healthBit n b) true).setFlag ((SFE_HEALTH_LATCH_latch n).bitOf b) true
      let x := ((((x.showHealth n).raiseEv (sfePage n) 0).raiseEv sfgPage 0).healthReport n b true).logFault 2 (0x1100 + b) n true
      let x := if (4 ≤ b ∧ b < 12) ∨ b = 14 then x.modElem n fun e => { e with window := none } else x
      let x := if b < 4 ∨ b = 14 then (x.freqInvalid n).suspend n x.stride else x
      (x.meterOf n = none → exec (.healthFaultSet n b) s = .next (s.after x)) ∧
      (∀ m : Nat, x.meterOf n = some m → exec (.healthFaultSet n b) s = .next (s.after (x.noteInput m)))) ∧
    (n < c.variant.elements → b ≤ 14 → c.flag (healthBit n b) = true → c.healthPasses n b = true →
      let x := ((c.setFlag (healthBit n b) false).showHealth n).raiseEv (sfePage n) 1
      let x := ((x.raiseEv sfgPage 1).healthReport n b false).logFault 2 (0x1100 + b) n false
      (12 ≤ b ∨ x.pathFault n (healthPath b) = true → exec (.healthFaultClear n b) s = .next (s.after x)) ∧
      (b < 12 → x.pathFault n (healthPath b) = false → exec (.healthFaultClear n b) s = .next (s.after
        (((x.settlePath n (healthPath b)).modElem n fun e =>
          e.setPath (healthPath b) { e.path (healthPath b) with afterFault := true }).showSettling n)))) ∧
    ((c.variant.elements ≤ n ∨ 14 < b ∨ c.flag (healthBit n b) = true ∨ c.healthFails n b = false) →
      exec (.healthFaultSet n b) s = .next (s.after c)) ∧
    ((c.variant.elements ≤ n ∨ 14 < b ∨ c.flag (healthBit n b) = false ∨ c.healthPasses n b = false) →
      exec (.healthFaultClear n b) s = .next (s.after c))

/-- The selector's table and the combined sample, for every element of a Stride edge. h and l are the delivered samples; the path used, the
state and the counter follow the first matching row, L is used as it is and H through the applied ratio's K, clamped; the sample is 0
while the voltage path is faulted or settles after a fault; other elements keep their state. (From R94–R96.) -/
def Obligations.CurrentSelector : Prop :=
  ∀ (s : State) (n : Nat),
    let c := s.chip
    let e := c.elem n
    let x := c.elementSamples n
    let t := x.elem n
    let h := c.delivered n 1
    let l := c.delivered n 2
    let live : Int → Int := fun v => if c.pathFault n 0 || (e.v.settling && e.v.afterFault) then 0 else sat24 v
    let high := combineHigh h (c.rdS (SFE_OFFS_APPLIED_offs n)) e.k
    (∀ m : Nat, m ≠ n → x.elem m = c.elem m) ∧
    (c.pathUsable n 1 = false → t.low = true ∧ t.count = 0 ∧ t.usedHigh = some false ∧ t.i = live l) ∧
    (c.pathUsable n 1 = true → c.pathUsable n 2 = false → t.low = e.low ∧ t.count = e.count ∧ t.usedHigh = some true ∧ t.i = live high) ∧
    (c.pathUsable n 1 = true → c.pathUsable n 2 = true → e.low = false → 7340032 < h.natAbs →
      t.low = true ∧ t.count = 0 ∧ t.usedHigh = some false ∧ t.i = live l) ∧
    (c.pathUsable n 1 = true → c.pathUsable n 2 = true → e.low = false → h.natAbs ≤ 7340032 →
      t.low = false ∧ t.count = e.count ∧ t.usedHigh = some true ∧ t.i = live high) ∧
    (c.pathUsable n 1 = true → c.pathUsable n 2 = true → e.low = true → h.natAbs < 6291456 →
      t.low = true ∧ t.count = min 16 (e.count + 1) ∧ t.usedHigh = some false ∧ t.i = live l) ∧
    (c.pathUsable n 1 = true → c.pathUsable n 2 = true → e.low = true → 6291456 ≤ h.natAbs →
      t.low = true ∧ t.count = 0 ∧ t.usedHigh = some false ∧ t.i = live l)

/-- What the events of the energy arithmetic do. An estimate without a crossing for 256 Strides ends, with its event when it was valid; once
at the last Stride of a second every enabled element publishes its one-second values, and all elements start new sums; an input fault
whose causes have passed clears. Otherwise nothing changes. What the events and commands of calibration do. A level of SEAL_MET_N held for
80 Strides is accepted with its audit record, and a closing seal cancels armed slots with image fields, except on Off; a die temperature
sets the register and the groups' targets; each trim moves one unit towards its target at the edge of Stride 8000(w + 1) + 2, as Near's
frame has said, or follows Near; the hand-over window opens only before the hand-over with the data plane's slot not armed; the CRC
registers take the CRCs of the images after a change. (From R123, R131, R140, R150–R153, R165.) Rests on the model's choices in logs 3,
50, 54 and 104. -/
def Obligations.MeteringAndCalibration : Prop :=
  (∀ (s : State) (n : Nat),
    let c := s.chip
    (let x := c.modElem n fun e => { e with freqValid := false, goodPeriods := 0 }
     exec (.freqTimeout n) s = .next (s.after
      (if (c.elem n).sinceCross < 256 then c else if (c.elem n).freqValid then x.raiseEv (metPage n) 1 else x))) ∧
    (let f : Nat → Chip → Chip := fun n c =>
        if c.flag (SFE_ECTRL_en n) = true then
          (c.modElem n fun e =>
            { e with
              vRms1s := isqrt (e.v2Sum.toNat / 8000), iRms1s := isqrt (e.i2Sum.toNat / 8000)
              vDc1s := rheDiv e.vSum 8000, iDc1s := rheDiv e.iSum 8000
              window1s := c.stride / 8000, incomplete1s := e.forced1s }).raiseEv (metPage n) 3
        else c
     let g : Nat → Chip → Chip := fun n c =>
        c.setElem n { c.elem n with v2Sum := 0, i2Sum := 0, vSum := 0, iSum := 0, forced1s := false }
     let x := forN c.variant.elements f c
     let y := forN x.variant.elements g x
     exec .oneSecondPublish s = .next (s.after
      (if c.stride % 8000 = 7999 ∧ c.fold.published1s = false then { y with fold := { y.fold with published1s := true } } else c))) ∧
    exec (.inputFaultClear n) s = .next (s.after
      (if (c.meter n).inputFault = true ∧ c.inputsBad n = false then
        ((c.modMeter n fun x => { x with inputFault := false }).clearFault 3 0x1403 n).raiseEv (mtrPage n) 2
      else c))) ∧
  (∀ (s : State) (acc : Access) (t : Int) (v : Nat),
    let c := s.chip
    (let now := !c.fold.sealPin
     let x := c.setFlag SFE_CAL_SEAL_met_open now
     let y := x.appendLog 2 (x.auditHead (if now then 3 else 4))
     let z : Chip := { y with led := { y.led with auditCount := y.rd SFE_CAL_COUNT_count } }
     exec .metSealChange s = .next (s.after
      (if c.fold.sealRun < 80 ∨ c.flag SFE_CAL_SEAL_met_open = now then c else if now || z.isOff then z else z.sealCancel))) ∧
    (let x := c.putS SFE_CAL_TEMP_temp t
     let x := if t < 1600 then x.clearFault 5 0x0121 0 else x
     let hot := if 1760 ≤ t then min 10 (c.fold.dieHot + 1) else 0
     let deg := clampI (-40) 125 (rhe t 4)
     let targets := forN 8 (fun g l => Sparse.set (fun _ => 0) l g (clampI (-16) 16 (Config.trimTable g deg))) c.fold.trimTarget
     exec (.dieTempRead t) s = .next (s.after { x with fold := { x.fold with dieHot := hot, trimTarget := targets } })) ∧
    (let x : Chip := { c with fold := { c.fold with trimmed := c.nextStride } }
     exec .tauTrimStep s = .next (s.after
      (if c.nextStride % 8000 = 2 ∧ 8002 ≤ c.nextStride ∧ c.fold.trimmed ≠ c.nextStride then
        forN 8 (fun g d =>
          let now := d.rdS (SFE_CAL_TTRIM_trim g)
          let target := Sparse.get (fun _ => 0) d.fold.trimTarget g
          d.putS (SFE_CAL_TTRIM_trim g)
            (if d.trimRemote then Sparse.get (fun _ => now) d.fold.nearTrim g
              else (d.sentTrim g).getD (if now < target then now + 1 else if target < now then now - 1 else now))) x
      else c))) ∧
    (c.Accepts acc SFE_CAL_HO.addr v → exec (.handoverWindowOpen acc v) s = .next (s.after
      (if v % 2 = 0 ∨ c.flag SFE_CAL_SEAL_handed_over ∨ c.armed 1 then c else c.setFlag SFE_CAL_SEAL_ho_open true))) ∧
    (let x := if c.fold.crcDue then c.put SFE_CAL_CRC_crc (c.imageCrc false) else c
     let y := if x.fold.crcDue || x.fold.crcStgDue then x.put SFE_CAL_CRC_STG_crc (x.imageCrc true) else x
     exec .calCrcUpdate s = .next (s.after { y with fold := { y.fold with crcDue := false, crcStgDue := false } })))

/-- The apparent contribution of an AC meter is exactly the floor of the root of the two squared cycle means, for S_P and S_Q within their 58
bits. (From R126.) -/
def Obligations.ApparentIsFloor : Prop :=
  ∀ (p sp sq : Int) (n : Nat), 0 < n → sp.natAbs < 2 ^ 58 → sq.natAbs < 2 ^ 58 →
    let a := apparent false p sp sq n
    ((a * n : Nat) : Int) ^ 2 ≤ sp ^ 2 + sq ^ 2 ∧ sp ^ 2 + sq ^ 2 < (((a + 1) * n : Nat) : Int) ^ 2

/-- An addition keeps every total equal to the exact sum of its eight tariff registers, as long as no accumulator reaches its limit: the
contribution of a Stride goes to the total and to the one tariff register of the Stride. (From R133.) -/
def Obligations.TotalIsSumOfTariffs : Prop :=
  ∀ (x : Meter) (t q : Nat), 1 ≤ t → t ≤ 8 → q < 8 → x.provisional = false → x.saturated = false →
    (x.accumulate t).saturated = false →
    let gap : Meter → Int := fun y => y.accOf (9 * q) - sumI ((List.range 8).map fun k => y.accOf (9 * q + 1 + k))
    gap (x.accumulate t) = gap x

/-- Where the total's raw value and base are the sums of its tariff registers', and no tariff register is negative, the published total is
never below the sum of the eight published tariff registers and exceeds it by at most 8 mWh. (From R137.) -/
def Obligations.PublishedTotal : Prop :=
  ∀ (x : Meter) (q : Nat),
    x.accOf (9 * q) = sumI ((List.range 8).map fun k => x.accOf (9 * q + 1 + k)) →
    x.baseOf (9 * q) = sumI ((List.range 8).map fun k => x.baseOf (9 * q + 1 + k)) →
    (∀ k : Nat, k < 8 → 0 ≤ x.exact (9 * q + 1 + k)) →
    x.exact (9 * q) < 2 ^ 136 →
    let parts := ((List.range 8).map fun k => x.published (9 * q + 1 + k)).sum
    parts ≤ x.published (9 * q) ∧ x.published (9 * q) ≤ parts + 8

/-- R136: a change of C at an edge takes the new constant and moves every base by A · (C_old − C_new), so that no published value changes at
the edge; the raw accumulators never change, and what is added to them from then on is converted with the new constant. -/
def Obligations.ConstantChange : Prop :=
  ∀ (s : State) (m j : Nat), j < 72 →
    let x := s.chip.meter m
    let y := (s.chip.constantChange m).meter m
    y.c = s.chip.meterConst m ∧ y.accOf j = x.accOf j ∧
    y.baseOf j = x.baseOf j + x.accOf j * ((x.c : Int) - s.chip.meterConst m) ∧ y.published j = x.published j ∧
    (∀ z : Meter, z.c = y.c → z.baseOf j = y.baseOf j →
      z.exact j = y.exact j + (z.accOf j - x.accOf j) * s.chip.meterConst m)

/-- The windows that ended in the Stride are evaluated by rising element; then the aggregates follow their members, and the Stride's records
are written by their rank: elements by rising index and kind, then aggregates by rising meter and kind. An element with a complete window,
detection on and fit publishes the window's U and runs its three detectors on |U|; one with detection off, no declared voltage or
suspended evaluates nothing, and one without a complete window neither. (From R175, R177, R183.) Rests on the model's choices in logs 57
and 106. -/
def Obligations.WindowEvaluation : Prop :=
  (∀ s : State,
    let x := forN s.chip.variant.elements (fun n c => c.evalWindow n) s.chip
    let y := forN x.variant.meters (fun m c =>
      if c.aggregated m then ((c.aggregateStep m 1 0).aggregateStep m 2 0).aggregateStep m 3 0 else c) x
    let z : Chip := { y with fold := { y.fold with dipsClosed := [] } }
    let l := z.fold.dipRecords.foldl (fun (l : List DipRecord) r => placeDip r l) []
    exec .pqWindowEval s = .next (s.after
      (l.foldl (fun (c : Chip) r => c.appendLog 1 r.body) { z with fold := { z.fold with dipRecords := [] } }))) ∧
  (∀ (l : List DipRecord), let o := l.foldl (fun (l : List DipRecord) r => placeDip r l) []
    o.Perm l ∧ o.Pairwise fun a b => a.rank ≤ b.rank) ∧
  (∀ (c : Chip) (n : Nat), (c.elem n).pq.done = none → c.evalWindow n = c) ∧
  (∀ (c : Chip) (n : Nat) (w : DipWindow), (c.elem n).pq.done = some w →
    let x := c.modPq n fun q => { q with done := none }
    let fit := c.flag (PQM_CFG_en n) = true ∧ c.rd (PQM_UDIN_udin n) ≠ 0 ∧ (x.elem n).pq.suspended = false
    (¬ fit → c.evalWindow n = x) ∧
    (fit →
      let u : Int := if c.flag (SFE_ASSIGN_kind n) then rhe w.sum 3 else (isqrt (w.sum.toNat / w.len) : Nat)
      let y := x.modPq n fun q => { q with lastU := u, lastLen := w.len }
      c.evalWindow n = ((y.detect n 1 u.natAbs w).detect n 2 u.natAbs w).detect n 3 u.natAbs w))

/-- One detector over one window. Idle, it opens an event exactly when the window meets its start condition, with the window's start and U;
open, it closes exactly when the window meets its end condition, and otherwise holds the more extreme value and whether the ledger clock
was held or corrected in its Strides. The other detectors and the other elements are untouched. (From R174–R176.) -/
def Obligations.DetectorRules : Prop :=
  ∀ (c : Chip) (n k u : Nat) (w : DipWindow), 1 ≤ k → k ≤ 3 →
    let q := (c.elem n).pq
    let r := ((c.detect n k u w).elem n).pq
    let start := (c.dipLevels n k).1
    let hyst := (c.dipLevels n k).2
    let udin := c.rd (PQM_UDIN_udin n)
    let starts := if k = 2 then start * udin < u * 10000 else u * 10000 < start * udin
    let ends := if k = 2 then start < hyst ∨ u * 10000 ≤ (start - hyst) * udin else (start + hyst) * udin ≤ u * 10000
    (q.event k = none → starts →
      r.event k = some { start := w.start, lc := w.lc, clock := w.clock, extreme := u, invalid := w.invalid }) ∧
    (q.event k = none → ¬ starts → r.event k = none) ∧
    (∀ e : OpenEvent, q.event k = some e →
      (ends → r.event k = none) ∧
      (¬ ends → r.event k = some
        { e with extreme := if k = 2 then max e.extreme u else min e.extreme u, touched := e.touched || c.touchedIn e.start w.start })) ∧
    (∀ j : Nat, 1 ≤ j → j ≤ 3 → j ≠ k → r.event j = q.event j) ∧
    (∀ m : Nat, m ≠ n → (c.detect n k u w).elem m = c.elem m)

/-! ### Tariffs, demand, the ledger and the displays (chapters 08, 09) -/

/-- The commands of the calendars. On a module that is not Off, the owner's write stores a word in the passive calendar only and mirrors it,
its read gives the word of the selected calendar, and each advances the address; arm alone validates and arms or refuses with its error,
cancel alone ends an arm, and both at once do nothing. On Off the local forms are ownership violations and Near's mirrored ones take
effect. A due calendar swaps with its records before the tariff lookup; the CRC follows a write. What an arm of the passive calendar
gives: nothing while one is armed; refused with the error of the first broken rule, with its event; else armed, with the activation time
frozen. (From R191–R193, R207.) Rests on the model's choices in logs 58 and 117. -/
def Obligations.Calendars : Prop :=
  (∀ (s : State) (acc : Access) (v : Nat),
    let c := s.chip
    let k := c.rd TRF_CAL_ADDR_word
    let keep : Nat → Chip := fun j =>
      if c.calArmed then c.setFlag TRF_PSTATE_wrote_armed true
      else if 552 < j then c
      else c.setTrf fun x => { x with passive := Sparse.set (fun _ => 0) x.passive j (BitVec.ofNat 32 v), pcrcDue := true }
    let sent := c.mirror (.calendarCmd v (c.rd64 TRF_PACT_LO_lc TRF_PACT_HI_lc))
    let taken : Nat → Chip := fun at_ => if c.calArmed then c else c.put64 TRF_PACT_LO_lc TRF_PACT_HI_lc at_
    (c.Readable acc TRF_CAL_DATA.addr →
      exec (.calendarDataAccess acc false v none) s = .next (s.after
        { c.advanceCal acc with
          rdata := if 552 < k then 0 else calBits (if c.flag TRF_CAL_ADDR_bank then c.trf.active else c.trf.passive) k 0 32 })) ∧
    (c.isOff = false →
      (c.Accepts acc TRF_CAL_DATA.addr v →
        exec (.calendarDataAccess acc true v none) s = .next (s.after
          ((if c.flag TRF_CAL_ADDR_bank then c else (keep k).mirror (.calendar k v)).advanceCal acc))) ∧
      (c.Accepts acc TRF_PCMD.addr v → exec (.calendarArm acc v none) s = .next (s.after (if v % 4 = 1 then sent.armCalendar else sent))) ∧
      (c.Accepts acc TRF_PCMD.addr v → exec (.calendarCancel acc v none) s = .next (s.after
        (if v % 4 = 2 ∧ sent.calArmed then sent.put TRF_PSTATE_state 4 else sent))) ∧
      (∀ (w : Bool) (j : Nat), exec (.calendarDataAccess acc w v (some j)) s = .next (s.after c) ∧
        exec (.calendarArm acc v (some j)) s = .next (s.after c) ∧ exec (.calendarCancel acc v (some j)) s = .next (s.after c))) ∧
    (c.isOff = true →
      (c.ownsTrf acc = true → c.Accepts acc TRF_CAL_DATA.addr v →
        exec (.calendarDataAccess acc true v none) s = .next (s.after (c.violate acc TRF_CAL_DATA.addr 0 true))) ∧
      (c.ownsTrf acc = true → c.Accepts acc TRF_PCMD.addr v →
        exec (.calendarArm acc v none) s = .next (s.after (c.violate acc TRF_PCMD.addr 0 true)) ∧
        exec (.calendarCancel acc v none) s = .next (s.after (c.violate acc TRF_PCMD.addr 0 true))) ∧
      (∀ (w : Bool) (j : Nat), exec (.calendarDataAccess acc w v (some j)) s = .next (s.after (keep j))) ∧
      (∀ at_ : Nat,
        exec (.calendarArm acc v (some at_)) s = .next (s.after (if v % 4 = 1 then (taken at_).armCalendar else taken at_)) ∧
        exec (.calendarCancel acc v (some at_)) s = .next (s.after
          (if v % 4 = 2 ∧ (taken at_).calArmed then (taken at_).put TRF_PSTATE_state 4 else taken at_)))) ∧
    (let before := calCrc c.trf.active
     let after := calCrc c.trf.passive
     let x := c.setTrf fun x => { x with active := x.passive, passive := x.active, pcrcDue := false }
     let x := ((x.put TRF_PSTATE_state 2).put64 TRF_ACT_LO_lc TRF_ACT_HI_lc (x.lc + 1)).put TRF_ACAL_CRC_crc after
     let x := (x.put TRF_PCAL_CRC_crc before).raiseEv trfPage 2
     let x := x.appendAudit (x.auditHead 6 ++ leBytes 4 before ++ leBytes 4 after ++ fit 16 [] ++
        leBytes 4 (calBits c.trf.passive 552 0 32))
     exec .calendarActivate s = .next (s.after
      (if c.activationDue then (x.journal (.activation (x.lc + 1) after before)).lookupNext else c))) ∧
    exec .passiveCrcUpdate s = .next (s.after
      (if c.trf.pcrcDue then (c.put TRF_PCAL_CRC_crc (calCrc c.trf.passive)).setTrf fun x => { x with pcrcDue := false } else c))) ∧
  (∀ c : Chip,
    let x := c.armCalendar
    let e := calendarError c.trf.passive
    (c.calArmed = true → x = c) ∧
    (c.calArmed = false → e ≠ 0 → x = ((c.put TRF_PSTATE_error e).put TRF_PSTATE_state 3).raiseEv trfPage 3) ∧
    (c.calArmed = false → e = 0 →
      x.calArmed = true ∧ x.rd TRF_PSTATE_error = 0 ∧ x.flag TRF_PSTATE_wrote_armed = false ∧
      x.trf.activateAt = c.rd64 TRF_PACT_LO_lc TRF_PACT_HI_lc ∧
      x.flag TRF_PSTATE_late = decide (c.rd64 TRF_PACT_LO_lc TRF_PACT_HI_lc ≤ c.lc + 1)))

/-- A sub-interval whose end the ledger clock has reached closes and the next opens there; a billing close that is due counts the period,
records its instant and reason, writes its historic set and resets every maximum. Before the restore, while boundary processing is
suspended or with nothing due, neither happens. The open sub-interval ends at the first grid point above its start and the high-water
mark, and at its close the high-water mark takes that end and the next sub-interval starts there. (From R195, R200.) Rests on the model's
choices in logs 59, 60 and 117. -/
def Obligations.DemandAndBilling : Prop :=
  (∀ s : State,
    let c := s.chip
    (∀ e : Nat, c.subEnd = some e → exec .demandClose s = .next (s.after
      (if c.flag LDG_STATUS_restored = true ∧ c.suspended = false ∧ e ≤ c.lc + 1 then
        ((c.closeSub e (if c.dmd.catchUp then flagPowerFail else 0)).openSub e 0).showDemand
      else c))) ∧
    (c.subEnd = none → exec .demandClose s = .next (s.after c)) ∧
    (c.trf.billDue = none ∨ c.suspended = true → exec .billingClose s = .next (s.after c)) ∧
    (∀ (lc reason : Nat) (late : Bool), c.trf.billDue = some (lc, reason, late) → c.suspended = false →
      let x := (c.setTrf fun x => { x with billDue := none }).inc TRF_BPERIOD_count
      let period := x.rd TRF_BPERIOD_count
      let slot := (period + 2 ^ 32 - 1) % 16
      let x := (x.put64 TRF_BLAST_LO_lc TRF_BLAST_HI_lc lc).put TRF_BLAST_ST_reason reason
      let x := (x.setFlag TRF_BLAST_ST_late late).raiseEv trfPage 4
      let x := (x.store (0x3200000 + slot * 0x10000) (x.historicSet period lc reason)).journal (.billing period lc reason slot)
      exec .billingClose s = .next (s.after
        (forN x.variant.meters (fun m c =>
          if (c.meter m).maxima = [] then c else c.modMeter m fun x => { x with maxima := [] }) x)))) ∧
  (∀ (s : State) (e : Nat), 0 < s.chip.dmd.ls → s.chip.flag LDG_STATUS_restored = true → s.chip.suspended = false →
    s.chip.subEnd = some e → e ≤ s.chip.lc + 1 →
    let c := s.chip
    let onGrid : Nat → Prop := fun x => ((x : Int) + 8000 * c.tsOffset) % (c.dmd.ls : Int) = 0
    (max c.dmd.start c.dmd.hw < e ∧ onGrid e ∧ ∀ x : Nat, max c.dmd.start c.dmd.hw < x → x < e → ¬ onGrid x) ∧
    (∃ t, exec .demandClose s = .next t ∧ t.pending = s.pending ∧ t.chip.dmd.hw = e ∧ t.chip.dmd.start = e ∧ t.chip.dmd.isOpen = true ∧
      ∃ flags, t.chip.dmd.closed = ((e - c.dmd.start, flags) :: c.dmd.closed).take 15))

/-- The saves. Once restored and while no commit stands, step 5 first writes the records that wait; a save is captured at the Stride that 8000
divides, once, or is skipped while the previous one is being written, and an asked one at the first edge after the request; one ends with
its sequence and Stride shown; a reset commit abandons the save that is being written. A power failure. The filtered pin asserts and
releases; the sample at 60 µs accepts it with its count and event, and, once restored, a commit is taken, windows are suspended and the
commit stands; its write ends; a tail record follows at each eighth Stride while the accepted level stays; 8000 Strides make a brownout;
the sample that finds the pin released ends it all, with its journal entry. (From R214, R218–R220, R221, R224.) Rests on the model's
choices in logs 22, 23 and 61. -/
def Obligations.SavesAndPowerFailure : Prop :=
  ((∀ (s : State) (acc : Access) (v : Nat),
    let c := s.chip
    let x := c.flushStepFour
    let taken : Bool := (match x.led.saving with
      | some i => i.stride == x.stride
      | none => false) || (x.stride != 0 && x.rd64 LDG_SAVE_STRIDE_LO_stride LDG_SAVE_STRIDE_HI_stride == x.stride)
    let y := if x.stride % 8000 = 0 ∧ taken = false then x.takeSave else x
    ((c.flag LDG_STATUS_restored = false ∨ c.flag LDG_STATUS_committed = true) → exec .periodicSave s = .next (s.after c)) ∧
    (c.flag LDG_STATUS_restored = true → c.flag LDG_STATUS_committed = false → exec .periodicSave s = .next (s.after
      (match y.led.forceSave with
      | some r => if r < y.stride then (y.setLed fun l => { l with forceSave := none }).takeSave else y
      | none => y))) ∧
    (c.Accepts acc LDG_CTRL.addr v → exec (.forceSaveCmd acc v) s = .next (s.after
      (if v % 2 = 1 then c.setLed fun l => { l with forceSave := some c.stride } else c))) ∧
    (c.led.saving = none → exec .saveComplete s = .next (s.after c)) ∧
    (∀ i : LedgerImage, c.led.saving = some i →
      let y := c.setLed fun l =>
        { l with saving := none, everSaved := true, saves := Sparse.insert l.saves (i.seq % 256) (some i) }
      let y := (y.setFlag LDG_STATUS_save_busy false).put LDG_SAVE_SEQ_seq i.seq
      exec .saveComplete s = .next (s.after
        ((y.put64 LDG_SAVE_STRIDE_LO_stride LDG_SAVE_STRIDE_HI_stride i.stride).raiseEv ldgPage 0))) ∧
    (c.led.resetWanted = none → exec .resetCommit s = .next (s.after c)) ∧
    (∀ r : Nat, c.led.resetWanted = some r → exec .resetCommit s = .next (s.after
      (if r < c.stride ∧ c.led.writing = none ∧ c.led.resetDone = false ∧ c.flag LDG_STATUS_restored = true ∧ c.flag LDG_STATUS_pfw = false then
        c.takeCommit.setLed fun l => { l with resetSeq := some c.led.nextCommit }
      else c)))) ∧
  (∀ c : Chip,
    (c.led.saving.isSome = true → c.takeSave = (c.inc LDG_SAVE_SKIP_count).raiseEv ldgPage 1) ∧
    (c.led.saving = none →
      c.takeSave = (c.setLed fun l => { l with saving := some (c.capture l.nextSave), nextSave := (l.nextSave + 1) % 2 ^ 32 }).setFlag
        LDG_STATUS_save_busy true) ∧
    c.takeCommit.led.saving = none ∧ c.takeCommit.led.writing = some (c.flushStepFour.capture c.flushStepFour.led.nextCommit) ∧
    c.takeCommit.led.nextCommit = (c.flushStepFour.led.nextCommit + 1) % 2 ^ 32)) ∧
  (∀ s : State,
    let c := s.chip
    let taken := if c.flag LDG_STATUS_pfw then c else ((c.setFlag LDG_STATUS_pfw true).inc LDG_PFW_CNT_count).raiseEv ldgPage 2
    exec .pfwNAssert s = .next (s.after (c.setLed fun l => { l with asserted := true })) ∧
    exec .pfwNRelease s = .next (s.after (c.setLed fun l => { l with asserted := false })) ∧
    (c.led.asserted = true →
      exec .pfwAccept s = .next (s.after
        (if taken.flag LDG_STATUS_restored ∧ ¬ taken.flag LDG_STATUS_committed then
          let x := taken.takeCommit
          let x := (x.setLed fun l => { l with committed := l.writing }).setFlag LDG_STATUS_committed true
          (x.setFlag DMD_STATUS_suspended true).raiseEv dmdPage 4
        else taken))) ∧
    (c.led.asserted = false →
      let x := (c.setLed fun l => { l with pfwAge := 0 }).setFlag LDG_STATUS_pfw false
      let x := ((x.setFlag LDG_STATUS_brownout false).clearFault 5 0x1A06 0).raiseEv ldgPage 4
      exec .pfwAccept s = .next (s.after
        (if c.flag LDG_STATUS_pfw = false then c
        else if x.flag LDG_STATUS_committed then
          (((x.setFlag LDG_STATUS_committed false).journal (.released x.stride x.lc)).setLed fun l =>
            { l with committed := none }).setDmd fun d => { d with resuming := true }
        else x))) ∧
    (c.led.writing = none → exec .commitWritten s = .next (s.after c)) ∧
    (∀ k : LedgerImage, c.led.writing = some k →
      let x := c.setLed fun l =>
        { l with
          writing := none, commits := Sparse.insert l.commits (k.seq % 2) (some k), resetSeq := none
          resetDone := l.resetDone || l.resetSeq == some k.seq }
      exec .commitWritten s = .next (s.after (x.raiseEv ldgPage 3))) ∧
    (c.led.committed = none → exec .tailRecord s = .next (s.after c)) ∧
    (∀ k : LedgerImage, c.led.committed = some k →
      let n := c.stride - k.stride
      let t : LedgerImage :=
        { seq := n / 8, commit := k.seq, stride := c.stride, lc := c.lc
          meters := (List.range c.variant.meters).foldl (fun (a : Sparse Meter) m =>
            Sparse.set (fun _ => {}) a m (c.savedAggregates ((c.meter m).since (Sparse.get (fun _ => {}) k.meters m)))) []
          events := (c.elements.filter fun p => p.2.pq.anyOpen).map fun p => (p.1, c.savedEvents p.2.pq) }
      exec .tailRecord s = .next (s.after
        (if c.flag LDG_STATUS_pfw = true ∧ n ≠ 0 ∧ n % 8 = 0 then
          (c.setLed fun l => { l with tails := Sparse.insert l.tails (n / 8 % 48) (some t) }).put LDG_TAIL_k (n / 8)
        else c))) ∧
    exec .brownout s = .next (s.after
      (if c.flag LDG_STATUS_pfw = true ∧ 8000 ≤ c.led.pfwAge ∧ c.flag LDG_STATUS_brownout = false then
        ((c.setFlag LDG_STATUS_brownout true).setFault 5 0x1A06 0).raiseEv ldgPage 7
      else c)))

/-- The store. A restore runs once, when the vault is ready: it adopts the newest save with the journal behind it and the commit that
continues it, adds what this run has accrued, or reports that there is no valid save, and starts demand anew; with no save ever written it
sets fresh. An uncorrectable error counts, sets store_fault with its fault and event and spoils what it hit; the owner's word goes to the
owner's region only, and one that ends the record's signature makes it signed; a read gives the stored bytes outside the typed regions, a
value of the address and the slot inside them and 0 in the vault's; only command 4 appends a fault record. (From R211, R213, R225, R226,
R237.) Rests on the model's choices in logs 21, 24, 25, 37, 117 and 118. -/
def Obligations.LedgerStore : Prop :=
  (∀ (s : State) (l : List CalRecord),
    let c := s.chip
    let done : Chip → Nat → Chip := fun c looked =>
      let c := c.put64 LDG_RESTORE_LC_LO_lc LDG_RESTORE_LC_HI_lc c.lc
      let c := c.put64 TIM_LEDGER_LO_lc TIM_LEDGER_HI_lc c.lc
      let c := c.eachMeter fun m x => { x with restored := true, c := c.meterConst m, cr := c.meterCr m }
      let c := forN c.variant.meters (fun m x => x.noteRegisters m (s.chip.meter m)) c
      let c := c.setTrf fun x =>
        { x with
          billedTo := some ((looked + 1 : Nat) + 8000 * c.tsOffset)
          reached := some (max (x.reached.getD (c.scaledStamp (looked + 1))) (c.scaledStamp (looked + 1))) }
      let c := (c.loadDemand.setDmd fun d => { d with restart := true }).setFlag LDG_STATUS_restored true
      ((forN 5 (fun n c => c.showLog n) c).selectRecord l).showDemand
    ((c.flag LDG_STATUS_restored = true ∨ c.flag VLT_STATUS_ready = false) → exec (.ledgerRestore l) s = .next (s.after c)) ∧
    (c.flag LDG_STATUS_restored = false → c.flag VLT_STATUS_ready = true → newest (images c.led.saves) = none →
      exec (.ledgerRestore l) s = .next (s.after (done ({ c with lc := 0 } : Chip).restoreNothing 0))) ∧
    (∀ i : LedgerImage, c.flag LDG_STATUS_restored = false → c.flag VLT_STATUS_ready = true → newest (images c.led.saves) = some i →
      let x := c.adoptSave i
      let x := x.put LDG_RESTORE_ST_fallbacks (satN 8 (x.led.rejected.filter fun q => decide (i.seq < q)).length)
      let x := (x.put LDG_SAVE_SEQ_seq i.seq).put64 LDG_SAVE_STRIDE_LO_stride LDG_SAVE_STRIDE_HI_stride i.stride
      let r := x.replayFrom (x.led.journal.length + 1) i.journalNext none
      let own : Chip → Chip := fun y => y.eachMeter fun m z => z.addOwn (c.meter m)
      (newest (images r.1.led.commits) = none → exec (.ledgerRestore l) s = .next (s.after (done (own (r.1.restoreGap i)) i.lc))) ∧
      (∀ k : LedgerImage, newest (images r.1.led.commits) = some k → exec (.ledgerRestore l) s = .next (s.after
        (if i.seq ≤ k.saveSeq ∧ k.journalNext = r.2 then done (own (r.1.adoptCommit k)) k.lc
        else done (own (r.1.restoreGap i)) i.lc))))) ∧
  (∀ c : Chip, c.led.everSaved = false → c.restoreNothing = c.setFlag LDG_STATUS_fresh true) ∧
  (∀ (s : State) (a : Nat),
    let c := s.chip
    let x := ((c.incSat LDG_ECC_CNT_uncorrected).setFlag LDG_STATUS_store_fault true).setFault 5 0x1A03 0
    exec (.mramEccError a) s = .next (s.after
      ((if c.flag LDG_STATUS_store_fault then x else x.raiseEv ldgPage 5).spoil (a % 0x4000000)))) ∧
  (∀ (s : State) (acc : Access) (v : Nat),
    let c := s.chip
    let dst := 4 * c.rd LDG_WR_ADDR_addr
    let a := 4 * c.rd LDG_RD_ADDR_addr
    (c.Accepts acc LDG_WR_DATA.addr v →
      let x := (c.store dst (leBytes 4 v)).put LDG_WR_ADDR_addr (dst / 4 + 1)
      exec (.ledgerWriteWord acc v) s = .next (s.after
        (if 0x10000 ≤ dst ∧ dst < 0x100000 then if Config.signatureEnd dst then x.setFlag SFE_CAL_SEAL_rec_unsigned false else x
        else c.setFlag LDG_ERR_wr_refused true))) ∧
    (c.Readable acc LDG_RD_DATA.addr →
      let x := c.put LDG_RD_ADDR_addr (a / 4 + 1)
      exec (.ledgerReadWord acc) s = .next (s.after
        { x with
          rdata := if 0x3F00000 ≤ a then 0 else if typedRegion a then Config.storeWord a (c.led.slotKey a) % 2 ^ 32
            else ofLe (x.stored a 4) })) ∧
    (c.Accepts acc LDG_APPEND_CMD.addr v →
      exec (.faultRecordAppend acc v) s = .next (s.after
        (if v % 8 = 4 then c.appendLog 4 ((List.range 13).flatMap fun k => leBytes 4 (c.rd (LDG_APPEND_BUF_rec k)))
        else c.setFlag LDG_ERR_append_refused true))))

/-- The displays. Nothing is polled while the link does not run or less than 100 ms after the last poll; otherwise every enabled display is
polled, its item sent first where the index or the word is not the one last sent. A good reply of a polled display answers the poll and
ends its fault; a corrupt one and a missing one count towards it, and one to no poll is ignored. A full step timer moves the item on. An
access to the item table by the owner advances its index; a write changes the shadow only, mirrored, and is a violation on Off or, closed
the seal, for a legal item. (From R231, R232, R234, R240.) Rests on the model's choices in logs 28 and 117. -/
def Obligations.Displays : Prop :=
  (∀ (c : Chip) (d : Nat), c.linkRuns = true → c.displayOn d = true →
    c.sendChanged d = if (c.display d).lastSent = some (c.shownItem d) then c else c.sendItem d) ∧
  (∀ s : State,
    let x := s.chip.setDsp fun r => { r with sincePoll := 0, sent := [] }
    ((s.chip.linkRuns = false ∨ s.chip.dsp.sincePoll < 800) → exec .displayPoll s = .next (s.after s.chip)) ∧
    (s.chip.linkRuns = true → 800 ≤ s.chip.dsp.sincePoll → exec .displayPoll s = .next (s.after
      (forN x.variant.ports (fun d c =>
        if c.displayOn d = false then c
        else
          let i := c.rd (DSP_DISP_ST_item d)
          let c := if c.itemValid (c.itemWord d i) then c else c.put (DSP_DISP_ST_item d) (c.nextItem d i)
          let c := c.sendChanged d
          let q := (c.display d).seq
          (c.sendFrame d [0xA5, d + 32, q]).modDisplay d fun z => { z with polled := some q }) x)))) ∧
  (∀ (s : State) (d : Nat) (bytes : List Nat),
    let c := s.chip
    let x := c.setDsp fun r => { r with sent := [] }
    let y := (x.modDisplay d fun z => { z with polled := none, bad := 0 }).setFlag (DSP_DISP_ST_responding d) true
    let y := if y.flag (DSP_DISP_ST_fault d) then
        ((y.setFlag (DSP_DISP_ST_fault d) false).raiseEv dspPage 1).showDisplayFaults
      else y
    ((c.variant.ports ≤ d ∨ (c.display d).polled = none) → exec (.displayReply d bytes) s = .next (s.after c)) ∧
    (∀ q : Nat, d < c.variant.ports → (c.display d).polled = some q → exec (.displayReply d bytes) s = .next (s.after
      (if bytes.length = 9 ∧ bytes.drop 5 = leBytes 4 (crc32 (fit 5 bytes)) ∧ nth bytes 0 = 0x5A ∧ nth bytes 1 = d + 64 ∧ nth bytes 2 = q then
        y.pushReply d (nth bytes 3) (bit (nth bytes 4) 0)
      else (x.raiseEv dspPage 3).badReply d))) ∧
    exec (.displayReplyTimeout d) s = .next (s.after
      (if (c.display d).polled = none then c else (c.incSat (DSP_DISP_ST_missed d)).badReply d)) ∧
    (let i := c.rd (DSP_DISP_ST_item d)
     exec (.displayItemStep d) s = .next (s.after
      (if c.displayOn d = true ∧ c.displayStep d ≤ (c.display d).timer then
        x.showItem d (if c.itemCount d ≤ i ∧ c.itemValid (c.itemWord d (c.itemCount d - 1)) = true then c.itemCount d - 1 else c.nextItem d i)
      else c)))) ∧
  (∀ (s : State) (acc : Access) (v : Nat) (shadow : Bool),
    let c := s.chip
    let a := DSP_ITEM_DATA.addr + (if shadow then 0x700 else 0)
    let e := 64 * c.rd DSP_ITEM_ADDR_disp + c.rd DSP_ITEM_ADDR_item
    let w := BitVec.ofNat 32 v
    let y := c.advanceItem acc
    (c.Readable acc a →
      exec (.displayItemAccess acc shadow false v none) s = .next (s.after
        { y with rdata := (Sparse.get (fun _ => (0 : Word)) (if shadow then c.dsp.shadow else c.dsp.items) e).toNat })) ∧
    (c.Accepts acc a v → exec (.displayItemAccess acc shadow true v none) s = .next (s.after
      (if c.isOff then c.violate acc a 0 true
      else if y.legalEntry e = true ∧ y.sealOpen 1 = false ∧ Sparse.get (fun _ => (0 : Word)) y.dsp.shadow e ≠ w &&& itemMask then
        y.violate acc a 1 true
      else if y.armed 1 then y.setFlag (STG_SLOT_ST_wrote_armed 1) true
      else if y.variant.ports ≤ e / 64 then y.mirror (.item e v)
      else (((y.setDsp fun r => { r with shadow := Sparse.set (fun _ => 0) r.shadow e (w &&& itemMask) }).markDirty dspPage 1).mirror
        (.item e v))))) ∧
    (∀ (write : Bool) (j : Nat), exec (.displayItemAccess acc shadow write v (some j)) s = .next (s.after
      (if c.isOff = true ∧ j % 2048 / 64 < c.variant.ports then
        (c.setDsp fun r => { r with shadow := Sparse.set (fun _ => 0) r.shadow (j % 2048) (w &&& itemMask) }).markDirty dspPage 1
      else c))))

/-! ### Ports and CAN (chapter 10) -/

/-- The applied code of a valid code d in 200–1920 under a limit of l units of 0.1 A, where I(c) is 0.03 A per code up to 1700 and c / 8 − 160
A above it: the largest c ≤ d with I(c) ≤ l, and 2000 where no c from 200 on has that. (From R245.) -/
def Obligations.DutyClamp : Prop :=
  ∀ d l : Nat, 200 ≤ d → d ≤ 1920 →
    let fits : Nat → Prop := fun x => 200 ≤ x ∧ x ≤ d ∧ if x ≤ 1700 then 3 * x ≤ 10 * l else 10 * x ≤ 8 * l + 12800
    ((∃ x, fits x) → fits (dutyFit d l) ∧ ∀ x, fits x → x ≤ dutyFit d l) ∧
    ((¬ ∃ x, fits x) → dutyFit d l = 2000)

/-- The commands of a port. A written code waits for its period start, where it is validated, clamped and applied with both flags; an accepted
class acts after a proximity code and a lock level of the same edge; a drop waits for the next edge, a rearm is accepted, refused or
ignored; an automatic rearm, a proximity code, a temperature and a lock level act at their edges. An absent port and a command whose
condition does not hold change nothing. The frames of a port. A frame lands in the buffer of the descriptor at RX_HEAD with its length,
done and time-stamp and moves the head on, or is discarded and counted when no descriptor is free; a SLAC sound adds to the attenuation
profile; software moves TX_TAIL; a sent frame's descriptor is done and TX_HEAD moves on; a link change is shown with its event. Without a
PHY, with an empty ring, under PLCA without transmit opportunities and for a frame beyond 1522 bytes nothing moves. (From R244, R245,
R248–R251, R253–R255, R256, R259, R265.) Rests on the model's choices in logs 27, 63, 107 and 109. -/
def Obligations.PortCommands : Prop :=
  (∀ (s : State) (acc : Access) (n v : Nat),
    let c := s.chip
    let p := c.port n
    let state := c.shownState n p.accepted
    (c.variant.ports ≤ n →
      exec (.pwmWrite acc n v) s = .next (s.after c) ∧ exec (.pwmPeriodStart n) s = .next (s.after c) ∧
      exec (.portDropCmd acc n) s = .next (s.after c) ∧ exec (.portRearm acc n) s = .next (s.after c) ∧
      exec (.portAutoRearm n) s = .next (s.after c) ∧ exec (.proximityAccept n) s = .next (s.after c) ∧
      exec (.cableTempConvert n v) s = .next (s.after c) ∧ exec (.lockDebounce n) s = .next (s.after c)) ∧
    (p.due = none → exec (.pilotStateAccept n) s = .next (s.after c)) ∧
    (∀ k : PilotClass, p.due = some k →
      let x := lockDebounce n (proximityAccept n (c.setPort n fun p => { p with due := none }))
      let y := (x.setPort n fun p => { p with accepted := some k }).setFlag (OPT_STATUS_diode_fault n) false
      exec (.pilotStateAccept n) s = .next (s.after
        (if x.pilotOutput n = none ∧ k ≠ .e ∧ k ≠ .invalid then x
        else if k = .diode then (x.setFlag (OPT_STATUS_diode_fault n) true).checkDrop n
        else (if (x.port n).accepted ≠ some k then y.raiseEv (optPage n) 0 else y).checkDrop n))) ∧
    (n < c.variant.ports →
      (c.Accepts acc (OPT_PWM n).addr v →
        exec (.pwmWrite acc n v) s = .next (s.after ((c.put (OPT_PWM_duty n) v).put (OPT_PWM_phase n) (v / 2 ^ 16)))) ∧
      (let ok := dutyValid (c.rd (OPT_PWM_duty n))
       let d := if ok then c.rd (OPT_PWM_duty n) else 2000
       let a := if d = 100 ∨ d = 2000 then d else dutyFit d (c.currentLimit n)
       let x := if (a != d) && !c.flag (OPT_STATUS_duty_clamped n) then c.raiseEv (optPage n) 10 else c
       let y := ((x.put (OPT_PWM_APPLIED_duty n) a).setFlag (OPT_STATUS_duty_clamped n) (a != d)).setFlag (OPT_STATUS_duty_invalid n) (!ok)
       exec (.pwmPeriodStart n) s = .next (s.after
        (if c.stride % 8 = c.rd (OPT_PWM_phase n) ∧ c.flag (OPT_STATUS_dropped n) = false ∧ c.portCut n = false then y.noteOutput n else c))) ∧
      (c.Accepts acc (OPT_CMD n).addr 1 →
        exec (.portDropCmd acc n) s = .next (s.after (c.setPort n fun p => { p with arisen := p.arisen ||| 1024 }))) ∧
      (c.Accepts acc (OPT_CMD n).addr 2 → exec (.portRearm acc n) s = .next (s.after
        (if c.flag (OPT_STATUS_dropped n) = false then c
        else if c.dropCauses n p.accepted = 0 ∧ state < 2 then c.setPort n fun p => { p with rearm := true }
        else c.setFlag (OPT_STATUS_rearm_refused n) true))) ∧
      exec (.portAutoRearm n) s = .next (s.after
        (if c.flag (OPT_STATUS_dropped n) = true ∧ c.flag (OPT_CTRL_auto_rearm n) = true ∧ 16 ≤ p.aRun ∧ c.dropCauses n p.accepted = 0 then
          c.clearDrop n
        else c)) ∧
      (let x := c.setPort n fun p => { p with pp := some p.ppCode }
       exec (.proximityAccept n) s = .next (s.after
        (if c.rd (OPT_CFG_pp_mode n) = 1 ∧ 16 ≤ p.ppRun then
          ((x.setFlag (OPT_STATUS_pp_fault n) (p.ppCode == 0 || p.ppCode == 5)).setCable n (cableRating p.ppCode)).checkDrop n
        else c))) ∧
      (c.stride % 8 ≠ 0 → exec (.cableTempConvert n v) s = .next (s.after c)) ∧
      (c.stride % 8 = 0 →
        let x := c.setPort n fun p => { p with converted := some c.stride }
        let bad := x.setPort n fun p => { p with hot := 0, good := 0 }
        (x.rd (OPT_CFG_temp_type n) = 0 ∨ x.rd (OPT_CFG_temp_type n) = 3 → exec (.cableTempConvert n v) s = .next (s.after
          ((((x.setPort n fun p => { p with hot := 0, good := 8 }).put (OPT_TEMP_t n) 0).setFlag (OPT_STATUS_temp_fault n) false).notePorts.heldRearm
            n))) ∧
        (x.rd (OPT_CFG_temp_type n) = 1 ∨ x.rd (OPT_CFG_temp_type n) = 2 → sensorTemperature (x.rd (OPT_CFG_temp_type n)) v = none →
          exec (.cableTempConvert n v) s = .next (s.after
            ((((if bad.flag (OPT_STATUS_temp_fault n) then bad else bad.raiseEv (optPage n) 4).setFlag (OPT_STATUS_temp_fault n) true).checkDrop
              n).heldRearm n))) ∧
        (x.rd (OPT_CFG_temp_type n) = 1 ∨ x.rd (OPT_CFG_temp_type n) = 2 → ∀ t : Int,
          sensorTemperature (x.rd (OPT_CFG_temp_type n)) v = some t →
          let y := (x.setPort n fun p =>
            { p with hot := if x.rdS (OPT_TEMP_LIM_trip n) ≤ t then min 8 (p.hot + 1) else 0, good := min 8 (p.good + 1) }).putS (OPT_TEMP_t n) t
          exec (.cableTempConvert n v) s = .next (s.after
            (((if 8 ≤ (y.port n).good then y.setFlag (OPT_STATUS_temp_fault n) false else y).checkDrop n).heldRearm n)))) ∧
      (let x := c.setPort n fun p => { p with lockLevel := some p.lockPin }
       exec (.lockDebounce n) s = .next (s.after
        (if 16 ≤ p.lockRun ∧ p.lockLevel ≠ some p.lockPin then (x.setFlag (OPT_LOCK_locked n) (x.locked n)).checkDrop n else c))))) ∧
  (∀ (s : State) (acc : Access) (n v cyc : Nat) (bytes att : List Nat) (bad up : Bool),
    let c := s.chip
    let x := c.advanceTo cyc
    let stamp := leBytes 4 (clockNs x.tim.clock) ++ leBytes 4 (clockSec x.tim.clock % 2 ^ 16)
    (let y := x.slacSound n att
     let size := ringSize (y.rd (OPT_RING_SIZE_rx n))
     let h := y.rd (OPT_RX_HEAD_idx n) % size
     let d := y.rd (OPT_RX_BASE_addr n) + 16 * h
     let z := (y.setBytes (Memory.le y.mem d 4) bytes).setBytes (d + 4)
        (leBytes 4 (bytes.length + 0x10000) ++ leBytes 4 (clockNs y.tim.clock) ++ leBytes 4 (clockSec y.tim.clock % 2 ^ 16))
     exec (.portFrameReceive n bytes att cyc) s = .next (s.after
      (if c.variant.ports ≤ n ∨ c.portPhy n = false ∨ 1522 < bytes.length then c
      else if (h + 1) % size = y.rd (OPT_RX_TAIL_idx n) % size then (y.incSat (OPT_RX_DROP_count n)).raiseEv (optPage n) 9
      else (z.put (OPT_RX_HEAD_idx n) ((h + 1) % size)).setRaw (optPage n) 6 true))) ∧
    (n < c.variant.ports → c.Accepts acc (OPT_TX_TAIL n).addr v →
      exec (.portTxTailWrite acc n v) s = .next (s.after (c.put (OPT_TX_TAIL_idx n) v))) ∧
    (c.variant.ports ≤ n → exec (.portTxTailWrite acc n v) s = .next (s.after c)) ∧
    (let size := ringSize (c.rd (OPT_RING_SIZE_tx n))
     let h := c.rd (OPT_TX_HEAD_idx n) % size
     let d := x.rd (OPT_TX_BASE_addr n) + 16 * h
     let w := Memory.le x.mem (d + 4) 4 % 0x10000 + 0x10000 + 0x20000 * bad.toNat
     exec (.portFrameSent n bad cyc) s = .next (s.after
      (if c.variant.ports ≤ n ∨ c.mayTransmit n = false ∨ h = c.rd (OPT_TX_TAIL_idx n) % size then c
      else ((x.setBytes (d + 4) (leBytes 4 w ++ stamp)).put (OPT_TX_HEAD_idx n) ((h + 1) % size)).raiseEv (optPage n) 7))) ∧
    exec (.portPhyLinkChange n up) s = .next (s.after
      (if c.variant.ports ≤ n ∨ c.portPhy n = false ∨ c.flag (OPT_STATUS_link_up n) = up then c
      else (c.setFlag (OPT_STATUS_link_up n) up).raiseEv (optPage n) 8)))

/-- A drop. Where causes act at the edge at an enabled port that is not dropped, it is dropped from then on: OPT_STATUS.dropped reads 1 and
OPT_STATUS.permit 0, and OPT_DROP holds at least those causes and the Stride of the edge. (From R249, R252.) Rests on the model's choices
in log 73. -/
def Obligations.DropWithdrawsPermit : Prop :=
  ∀ (c : Chip) (n causes : Nat), n < c.variant.ports → n < 32 → 0 < causes → causes < 2048 →
    c.flag (OPT_CTRL_en n) = true → c.flag (OPT_STATUS_dropped n) = false →
    let d := c.dropPort n causes
    d.flag (OPT_STATUS_dropped n) = true ∧ d.flag (OPT_STATUS_permit n) = false ∧ d.permitted n = false ∧
    (∀ b : Nat, causes.testBit b = true → (d.rd (OPT_DROP_cause n)).testBit b = true) ∧
    d.rd64 (OPT_DROP_STRIDE_LO_stride n) (OPT_DROP_STRIDE_HI_stride n) = c.stride % 2 ^ 64

/-- The commands of a CAN controller. Requests and cancellations move the pending mask; pending buffers contend from the instant at which they
meet the idle bus, and the winner is decided after it; a pending buffer cannot be written; a sent frame is done, raises its events and
lets the others contend; another node's frame puts the contention off to the bus idle behind it, and one that the controller takes in and
a filter matches enters the FIFO, or is lost when it is full; a pop frees the oldest; bus-off stops sending but keeps what is pending;
recovery resumes it. (From R260–R262, R266–R268.) Rests on the model's choices in logs 27, 64, 108 and 119. -/
def Obligations.CanCommands : Prop :=
  ∀ (s : State) (acc : Access) (n v : Nat), n < Blk.can.count s.chip.variant →
    let c := s.chip
    let r := c.canSettle n
    (c.Accepts acc (CAN_TX_REQ n).addr v →
      exec (.canTxRequest acc n v) s = .next (s.after
        ((r.put (CAN_TX_PEND_pend n) (r.rd (CAN_TX_PEND_pend n) ||| v % 2 ^ 32)).canContend n))) ∧
    (c.Accepts acc (CAN_TX_CANCEL n).addr v →
      let pend := r.rd (CAN_TX_PEND_pend n)
      let keep := match (r.canState n).sending with
        | some b => 2 ^ b
        | none => 0
      let x := r.put (CAN_TX_PEND_pend n) ((pend ^^^ (pend &&& v)) ||| (pend &&& keep))
      exec (.canTxCancel acc n v) s = .next (s.after
        (if x.rd (CAN_TX_PEND_pend n) = 0 then x.setCan n { x.canState n with contend := none } else x))) ∧
    (∀ b w : Nat, b < 32 → w < 18 →
      let a := canBuffer n b + 4 * w
      exec (.canBufferWrite acc n b w v) s = .next (s.after
        (if acc.size ≠ 4 ∨ acc.skew ≠ 0 then c.violate acc a 4 true
        else if initiatorPlane acc.by_ ≠ c.rd (ownerFld (canPage n)) then c.violate acc a 0 true
        else if bit (c.rd (CAN_TX_PEND_pend n)) b then c.setFlag (CAN_STATUS_wr_pending n) true
        else c.setBytes a (leBytes 4 v)))) ∧
    (let going := if (c.canState n).sending.isSome then (c.canState n).sending
        else if (c.canState n).contend.isSome then c.canWinner n else none
     (going = none → exec (.canFrameSent n) s = .next (s.after c)) ∧
     (∀ b : Nat, going = some b →
      let x := c.put (CAN_TX_PEND_pend n) (putBit (c.rd (CAN_TX_PEND_pend n)) b false)
      let x := (x.put (CAN_TX_DONE_done n) (x.rd (CAN_TX_DONE_done n) ||| 2 ^ b)).raiseEv (canPage n) 1
      let x := if x.flag (CAN_STOP_CFG_en n) && x.rd (CAN_STOP_CFG_buf n) == b then x.raiseEv (canPage n) 7 else x
      exec (.canFrameSent n) s = .next (s.after
        ((x.setCan n { x.canState n with sending := none, contend := none, idleAt := 0, sent := c.canBytes n b }).canContend n)))) ∧
    (∀ (w0 w1 cyc : Nat) (data : List Nat),
      let x := (c.advanceTo cyc).canYield n (Config.canFrameCycles w0 w1 data (c.rd (CAN_NBT n)) (c.rd (CAN_DBT n)))
      let k := x.rd (CAN_RX_COUNT_count n)
      let entry : Nat → List Nat := fun f => leBytes 4 (w0 % 2 ^ 30) ++ leBytes 4 (w1 % 64 + 256 * f) ++ leBytes 4 (clockNs x.tim.clock) ++
        leBytes 4 (clockSec x.tim.clock % 2 ^ 16) ++ fit 64 data
      exec (.canFrameReceive n w0 w1 data cyc) s = .next (s.after
        (if c.canOnBus n = false then c
        else if x.canTakes n w1 = false then x
        else match x.canMatch n w0 with
          | none => x
          | some f =>
            if 64 ≤ k then (x.incSat (CAN_RX_LOST_count n)).raiseEv (canPage n) 6
            else ((x.setBytes (canSlot n (((x.canState n).head + k) % 64)) (entry f)).put (CAN_RX_COUNT_count n) (k + 1)).setRaw (canPage n) 0
              true))) ∧
    (c.Accepts acc (CAN_RX_POP n).addr v →
      let k := c.rd (CAN_RX_COUNT_count n)
      let freed : CanState := { c.canState n with head := ((c.canState n).head + 1) % 64 }
      exec (.canRxPop acc n v) s = .next (s.after
        (if v % 2 = 0 ∨ k = 0 then c else ((c.setCan n freed).put (CAN_RX_COUNT_count n) (k - 1)).setRaw (canPage n) 0 (k != 1)))) ∧
    (let x := ((c.put (CAN_STATUS_state n) 2).put (CAN_STATUS_tec n) 255).raiseEv (canPage n) 5
     let off : CanState := { x.canState n with sending := none, contend := none }
     exec (.canBusOff n) s = .next (s.after (if c.canOnBus n then (x.setCan n off).setFault 5 0x2400 n else c))) ∧
    exec (.canBusOffRecovery n) s = .next (s.after
      (if c.rd (CAN_STATUS_state n) = 2 ∧ c.flag (CAN_CTRL_auto_recover n) = true then
        ((((c.put (CAN_STATUS_state n) 0).put (CAN_STATUS_tec n) 0).put (CAN_STATUS_rec n) 0).clearFault 5 0x2400 n).canContend n
      else c)) ∧
    (∀ tec rec_ : Nat,
      let passive := 128 ≤ tec ∨ 128 ≤ rec_
      let x := (c.put (CAN_STATUS_tec n) (satN 8 tec)).put (CAN_STATUS_rec n) (satN 8 rec_)
      let x := x.put (CAN_STATUS_state n) (if passive then 1 else 0)
      exec (.canErrorPassive n tec rec_) s = .next (s.after
        (if c.canOnBus n = false then c else if passive ∧ c.rd (CAN_STATUS_state n) = 0 then x.raiseEv (canPage n) 4 else x)))

/-! ### Load channels (chapter 11) -/

/-- The protection of a channel. A trip of a channel that is on, after t_lim in current limit, sets oc_fault and oc_wait, counts, starts the
delay and turns it off; a current above the lower of twice ilim and 12 A is one at once; the thermal latch sets and releases, its release
starting the delay again; an unlock clears the lock strictly above half the budget and is refused otherwise; the delay runs out; clean
time loads the restarts again; clear clears all but the two latches, a trip of the same Stride staying. Otherwise, and on an absent
channel, nothing changes. Pins, banks, diagnosis, mode and routing. A DRIVE_IN edge is stored and settles the channels; a bank under
voltage switches its channels off and its recovery allows them again, a reversed bank is reported, and an overload of 800 Strides sheds
the bank's channels, or the module's. An open load is reported after its time. A diagnosis runs only on a channel that is off and ends
with the result of its two comparisons; a mode of 2 or more is refused while a permit stands; a route moves a channel to its slot.
Otherwise, and for an absent pin, bank or channel, nothing changes. (From R271–R273, R276–R280, R283–R286.) Rests on the model's choices
in logs 65 and 66. -/
def Obligations.LoadChannels : Prop :=
  (∀ (s : State) (acc : Access) (n ma : Nat),
    let c := s.chip
    let x := c.channel n
    let trip :=
      let t := ((c.setFlag (LSW_STATUS_oc_fault n) true).setFlag (LSW_STATUS_oc_wait n) true).incSat (LSW_OC_CNT_trips n)
      let t := t.setChannel n fun x =>
        { x with waitLeft := x.retryStrides, delayDone := false, thermInWait := false, tripped := true, clean := 0 }
      (((t.raiseEv (lswPage n) 0).setOutput n false).noteChannel n).settleChannel n
    (c.variant.channels ≤ n →
      exec (.overcurrentTrip ⟨n, ma⟩) s = .next (s.after c) ∧ exec (.shortCircuitCut n ma) s = .next (s.after c) ∧
      exec (.thermalLatchSet n) s = .next (s.after c) ∧ exec (.thermalLatchRelease n) s = .next (s.after c) ∧
      exec (.clampUnlock acc n) s = .next (s.after c) ∧ exec (.retryDelayExpire n) s = .next (s.after c) ∧
      exec (.retryReload n) s = .next (s.after c) ∧ exec (.channelClear acc n) s = .next (s.after c)) ∧
    (n < c.variant.channels →
      exec (.overcurrentTrip ⟨n, ma⟩) s = .next (s.after
        (if c.flag (LSW_STATUS_on n) = true ∧ max 1 (x.lim / 256 % 256) * 100 ≤ ma then trip else c)) ∧
      exec (.shortCircuitCut n ma) s = .next (s.after
        (if c.flag (LSW_STATUS_on n) = true ∧ min (2 * x.ilim * 100) 12000 < ma then trip else c)) ∧
      (let t := (c.setFlag (LSW_STATUS_therm n) true).incSat (LSW_OC_CNT_therm n)
       let t := t.setChannel n fun x => { x with thermInWait := x.thermInWait || c.flag (LSW_STATUS_oc_wait n), clean := 0 }
       exec (.thermalLatchSet n) s = .next (s.after
        (if c.flag (LSW_STATUS_therm n) then c else ((t.raiseEv (lswPage n) 1).noteChannel n).settleChannel n))) ∧
      (let t := c.setFlag (LSW_STATUS_therm n) false
       let t := if t.flag (LSW_STATUS_oc_wait n) && (t.channel n).thermInWait then
          t.setChannel n fun x => { x with waitLeft := x.retryStrides, delayDone := false, thermInWait := false }
        else t
       exec (.thermalLatchRelease n) s = .next (s.after (if c.flag (LSW_STATUS_therm n) then (t.noteChannel n).settleChannel n else c))) ∧
      (c.Accepts acc (LSW_CMD n).addr 2 →
        let t := (c.setFlag (LSW_STATUS_clamp_lock n) false).setFlag (LSW_STATUS_unlock_refused n) false
        exec (.clampUnlock acc n) s = .next (s.after
          (if x.budget < 2 * c.rd (LSW_BUCKET_level n) then (t.noteChannel n).settleChannel n
          else c.setFlag (LSW_STATUS_unlock_refused n) true))) ∧
      exec (.retryDelayExpire n) s = .next (s.after
        (if c.flag (LSW_STATUS_oc_wait n) = true ∧ x.waitLeft = 0 ∧ x.thermInWait = false then
          (c.setChannel n fun x => { x with delayDone := true }).settleChannel n
        else c)) ∧
      exec (.retryReload n) s = .next (s.after
        (if x.clean < 8000 then c else (c.put (LSW_STATUS_remaining n) (x.retry % 16)).setChannel n fun x => { x with clean := 0 })) ∧
      (c.Accepts acc (LSW_CMD n).addr 1 →
        let t := ((c.setFlag (LSW_STATUS_oc_fault n) x.tripped).setFlag (LSW_STATUS_oc_wait n) x.tripped).setFlag
          (LSW_STATUS_exhausted n) false
        let t := ((t.setFlag (LSW_STATUS_e_over n) false).setFlag (LSW_STATUS_shed_off n) false).put (LSW_STATUS_remaining n)
          (x.retry % 16)
        let t := if c.flag (LSW_STATUS_shed_off n) && t.channelSource n then t.setFlag (LSW_STATUS_interlock n) true else t
        exec (.channelClear acc n) s = .next (s.after ((t.noteChannel n).settleChannel n))))) ∧
  (∀ (s : State) (acc : Access) (n v : Nat) (level : Bool),
    let c := s.chip
    let x := c.channel n
    let uv : Bool → Chip → Nat → Chip := fun on d m => (d.setFlag (LSW_STATUS_uv_off m) on).settleChannel m
    (∀ k : Nat, exec (.driveInEdge k level) s = .next (s.after
      (if k < 16 then (c.setLoad fun l => { l with pins := putBit l.pins k level }).settleLoad else c))) ∧
    (∀ b : Nat,
      let down := ((c.setFlag (LSW_BANK_uv b) true).raiseEv lsgPage 5).setFault 5 0x3011 b
      let up := (((c.setFlag (LSW_BANK_uv b) false).clearFault 5 0x3011 b).setFlag (LSW_BANK_rev b) false).clearFault 5 0x3010 b
      let rev := ((c.setFlag (LSW_BANK_rev b) true).raiseEv lsgPage 5).setFault 5 0x3010 b
      let hot := ((c.setFlag (LSW_BANK_over b) true).raiseEv lsgPage 4).setFault 5 0x3012 b
      let all := ((c.setFlag LSW_GSTATUS_module_over true).raiseEv lsgPage 4).setFault 5 0x3007 0
      exec (.bankUndervoltage b) s = .next (s.after (if b < c.variant.flocks then (down.bankChannels b).foldl (uv true) down else c)) ∧
      exec (.bankRecover b) s = .next (s.after (if b < c.variant.flocks then (up.bankChannels b).foldl (uv false) up else c)) ∧
      exec (.bankReversed b) s = .next (s.after
        (if b < c.variant.flocks then (rev.bankChannels b).foldl (fun d m => d.settleChannel m) rev else c)) ∧
      exec (.bankOverload b) s = .next (s.after
        (if Sparse.get (fun _ => 0) c.load.overRun b < 800 then c
        else if b = 8 then all.shed (List.range c.variant.channels)
        else if b < c.variant.flocks then hot.shed (c.bankChannels b) else c))) ∧
    (c.variant.channels ≤ n →
      exec (.openLoadOn n) s = .next (s.after c) ∧ exec (.offStateDiag acc n) s = .next (s.after c) ∧
      exec (.diagComplete n) s = .next (s.after c) ∧ exec (.vslotRoute acc n v) s = .next (s.after c)) ∧
    (n < c.variant.channels →
      exec (.openLoadOn n) s = .next (s.after
        (if x.openRun < max 1 (x.ol / 256 % 256) * 8 then c
        else ((c.setFlag (LSW_STATUS_open_on n) true).raiseEv (lswPage n) 4).noteChannel n)) ∧
      (c.Accepts acc (LSW_CMD n).addr 4 →
        exec (.offStateDiag acc n) s = .next (s.after
          (if c.rd LSW_GCTRL_mode = 1 ∨ c.flag (LSW_STATUS_diag_busy n) ∨ c.flag (LSW_STATUS_on n) ∨ c.flag (LSW_STATUS_demand n) then
            c.setFlag (LSW_STATUS_diag_refused n) true
          else
            (c.setFlag (LSW_STATUS_diag_busy n) true).setChannel n fun x => { x with diag := 1, high1 := true, high2 := true }))) ∧
      exec (.diagComplete n) s = .next (s.after
        (if x.diag ≠ 17 then c
        else if x.high1 then ((c.setFlag (LSW_STATUS_stb n) true).endDiag n 3).noteChannel n
        else if x.high2 then ((c.setFlag (LSW_STATUS_open_off n) true).endDiag n 2).noteChannel n
        else (((c.setFlag (LSW_STATUS_open_off n) false).setFlag (LSW_STATUS_stb n) false).endDiag n 1).noteChannel n)) ∧
      (c.Accepts acc (LSW_VSLOT n).addr v →
        let old := c.rd (LSW_VSLOT_slot n)
        let d := if c.slotOf old = some n then c.setSlotOf old none else c
        let d := (d.put (LSW_VSLOT_slot n) v).setFlag (LSW_VSLOT_en n) (bit v 8)
        exec (.vslotRoute acc n v) s = .next (s.after
          (if v % 16 = 15 then c else if bit v 8 then d.setSlotOf (v % 16) (some n) else d)))) ∧
    (c.Accepts acc LSW_GCTRL.addr v →
      exec (.globalModeWrite acc v) s = .next (s.after
        (if 2 ≤ v % 4 ∧ (List.range c.variant.ports).any (fun p => c.flag (OPT_STATUS_permit p)) then
          c.setFlag LSW_GSTATUS_mode_refused true
        else c.put LSW_GCTRL_mode v))))

/-- What the evaluation of a channel leaves. Its output is on exactly when its demand is 1, no protection holds it off and the twin does not;
its demand is the bridle map's in bridle mode, Near's output of the Stride frame while it is paralleled in the Off role, and the source
without forcing and interlock otherwise. (From R275, R351.) -/
def Obligations.ChannelOutput : Prop :=
  ∀ (c : Chip) (n : Nat), n < c.variant.channels → n < 64 →
    let d := c.settleChannel n
    (d.flag (LSW_STATUS_on n) = true ↔
      d.flag (LSW_STATUS_demand n) = true ∧ d.protectedOff n = false ∧ c.twinHeld n = false) ∧
    (c.inBridle n = false → c.twinHeld n = false →
      (d.flag (LSW_STATUS_demand n) = true ↔
        c.forced n = false ∧ c.channelSource n = true ∧ d.flag (LSW_STATUS_interlock n) = false)) ∧
    (c.inBridle n = true → (d.flag (LSW_STATUS_demand n) = true ↔ c.mapDemand n = true)) ∧
    (c.twinHeld n = true → (d.flag (LSW_STATUS_demand n) = true ↔ bit c.pair.nearOutputs n = true)) ∧
    d.flag (LSW_STATUS_forced n) = c.forced n

/-- Bridle mode and its map. A request puts both dies in bridle mode; a BRIDLE_IN edge is stored and settles the channels; a link lost for 2
frames puts its die in bridle mode and is a fault. A take in bridle mode is refused for the first reason that holds and otherwise waits
for the next edge, where it is judged again and gives the channels back, with the outputs that changed. A commit of the map needs an open
seal, no bridle mode but for a faulty map, and entries that are allowed; its end stores the halves that are good, counts it and clears the
fault or reports an error. A die that powers up starts its channels anew in bridle mode, all OFF where its half fails its check. (From
R19, R287–R293.) Rests on the model's choices in logs 41, 66 and 120. -/
def Obligations.BridleCommands : Prop :=
  ∀ (s : State) (acc : Access) (v : Nat),
    let c := s.chip
    (exec .bridleRequest s = .next (s.after
      ((((c.setFlag LSW_GSTATUS_req true).setFlag LSW_BRIDLE_IN_req_low true).setLoad fun l => { l with reqHigh := 0 }).bothBridle 0))) ∧
    (∀ (k : Nat) (level : Bool), exec (.bridleInEdge k level) s = .next (s.after
      (if k < 8 then (c.setFlag (LSW_BRIDLE_IN_in.bitOf k) level).settleLoad else c))) ∧
    (∀ d : Nat, exec (.switchLinkLoss d) s = .next (s.after
      (if d < 2 ∧ c.dieFitted d = true ∧ 2 ≤ Sparse.get (fun _ => 0) c.load.linkBad d then ((c.raiseEv lsgPage 6).setFault 5 (0x3005 + d) 0).enterBridle d 3
      else c))) ∧
    (c.Accepts acc LSW_TAKE.addr v →
      (v % 2 = 0 ∨ c.load.bridle = 0 → exec (.take acc v) s = .next (s.after c)) ∧
      (v % 2 = 1 → c.load.bridle ≠ 0 →
        (∀ r : Nat, c.takeRefusal = some r → exec (.take acc v) s = .next (s.after (c.refuseTake r))) ∧
        (c.takeRefusal = none → exec (.take acc v) s = .next (s.after (c.setLoad fun l => { l with take := true }))))) ∧
    (c.load.take = false → exec .takeApply s = .next (s.after c)) ∧
    (c.load.take = true →
      (∀ r : Nat, c.takeRefusal = some r → exec .takeApply s = .next (s.after (c.refuseTake r))) ∧
      (c.takeRefusal = none →
        let x := c.setLoad fun l => { l with take := false, bridle := 0 }
        let x := forN x.variant.channels (fun n d => ((d.setFlag (LSW_STATUS_bridle n) false).frameCopy n).settleChannel n) x
        let x := (x.put LSW_TAKE_DIFF_LO_diff (x.rd LSW_BSTATE_LO_on ^^^ c.rd LSW_BSTATE_LO_on)).put LSW_TAKE_DIFF_HI_diff
          (x.rd LSW_BSTATE_HI_on ^^^ c.rd LSW_BSTATE_HI_on)
        let x := ((x.put LSW_BRIDLE_CAUSE 0).put LSW_TAKE_ST_state 1).put LSW_TAKE_ST_reason 0
        exec .takeApply s = .next (s.after (x.raiseEv lsgPage 1).showBridle))) ∧
    (c.Accepts acc LSW_BMAP_CMD.addr v →
      let bytes := (c.mapBytes LSW_BMAP_STG_entries).mapIdx fun n b => if n < c.variant.channels then b else 0
      exec (.bridleMapCommit acc v) s = .next (s.after
        (if v % 2 = 0 ∨ c.rd LSW_BMAP_ST_state = 1 then c
        else if c.sealOpen 2 = false then c.refuseCommit 4
        else if c.load.bridle ≠ 0 ∧ c.flag LSW_GSTATUS_map_fault = false then c.refuseCommit 1
        else if bytes.any (fun b => b % 4 == 3) then c.refuseCommit 2
        else if bytes.any (fun b => bit b 5 && b % 4 != 0) then c.refuseCommit 3
        else ((c.put LSW_BMAP_ST_state 1).put LSW_BMAP_ST_error 0).setLoad fun l => { l with commit := some bytes }))) ∧
    (∀ ok0 ok1 : Bool, c.load.commit = none → exec (.bridleMapCommitDone ok0 ok1) s = .next (s.after c)) ∧
    (∀ (ok0 ok1 : Bool) (bytes : List Nat), c.load.commit = some bytes →
      let ok : Nat → Bool := fun d => if d = 0 then ok0 else ok1
      let x := forN 16 (fun k d =>
        if ok (k / 8) then d.put (LSW_BMAP_ACT_entries k) (ofLe ((bytes.drop (4 * k)).take 4)) else d) c
      let x := x.setLoad fun l =>
        { l with commit := none, mapFault := putBit (putBit l.mapFault 0 (bit l.mapFault 0 && !ok0)) 1 (bit l.mapFault 1 && !ok1) }
      let x := (x.incSat LSW_BMAP_WR_count).put LSW_BMAP_CRC_crc (crc32 (x.mapBytes LSW_BMAP_ACT_entries))
      let good := (((x.put LSW_BMAP_ST_state 2).put LSW_BMAP_ST_error 0).setFlag LSW_GSTATUS_map_fault false).clearFault 5 0x3003 0
      exec (.bridleMapCommitDone ok0 ok1) s = .next (s.after
        (if ok0 && ok1 then good.raiseEv lsgPage 3 else x.refuseCommit 5).checkCoilMap)) ∧
    (∀ (d : Nat) (mapOk : Bool),
      let x := c.setLoad fun l => { l with bridle := putBit l.bridle d false }
      let x := (x.dieChannels d).foldl (fun (y : Chip) n =>
        let y := ((y.setChannel n fun _ => {}).setOutput n false).put (LSW_STATUS n) 0
        let y := y.put (LSW_STATUS_remaining n) ((y.channel n).retry % 16)
        y.put (LSW_BUCKET_level n) (y.channel n).budget) x
      let off := forN 8 (fun k y => y.put (LSW_BMAP_ACT_entries (8 * d + k)) 0) x
      let x := if mapOk then x
        else ((off.setFlag LSW_GSTATUS_map_fault true).setFault 5 0x3003 0).setLoad fun l => { l with mapFault := putBit l.mapFault d true }
      let shown : Chip := { x with faults := x.faults.filter (fun f : ActiveFault => f.code / 32 != 0x188) ++ x.loadFaults }
      exec (.switchDiePowerUp d mapOk) s = .next (s.after
        (if 2 ≤ d ∨ c.dieFitted d = false then c else shown.enterBridle d 2)))

/-! ### Safety (chapter 12) -/

/-- The outputs and the residual-current functions. A dark test that sees no fall, or an output against its command for two Strides, is a
fault of its Flock; a sensor fault needs 2 Strides outside, a trip its band's whole hold in its channel, and both put the port's Flock in
the state of R325, a band disagreement too; channel A trips also while the die is in reset (R20). A test starts only without safe_ok and
ends by the flags that were seen; a coil on after 20 ms, or an element not low after t_act, puts the Flock in Lockout. Otherwise, and for
an absent Flock or port, nothing changes. (From R302, R306, R308–R311, R314.) Rests on the model's choices in logs 69, 70 and 110. -/
def Obligations.CutsAndResidualCurrent : Prop :=
  ∀ (s : State) (acc : Access) (f n band v : Nat) (a bad fell : Bool),
    let c := s.chip
    let r := c.residual n
    let mask := 2 ^ c.flockOf n
    let o := if a then 8 + f else f
    (let x := c.setSaf fun s => { s with dark := Sparse.set (fun _ => 0) s.dark o 2 }
     exec (.darkTest a f fell) s = .next (s.after
      (if f < c.variant.flocks ∧ c.cutCommand o = false ∧ (a = true ∨ c.stride % 8000 = 0) then
        (if fell then x else (x.faultFlocks (2 ^ (o % 8)) causeOutput 3 (unitStuckOn o)).settleSafety)
      else c))) ∧
    exec (.cutOutputStuck a f) s = .next (s.after
      (if c.variant.flocks ≤ f then c
      else if 2 ≤ Sparse.get (fun _ => 0) c.saf.against o then
        (c.faultFlocks (2 ^ (o % 8)) causeOutput 3 (unitStuckOn o)).settleSafety
      else if 2 ≤ Sparse.get (fun _ => 0) c.saf.against (16 + o) then
        (c.faultFlocks (2 ^ f) causeOutput 2 (unitStuckOff o)).settleSafety
      else c)) ∧
    (let set := ((c.setFlag (RCM_STATUS_sensor_fault n) true).raiseEv (rcmPage n) 1).faultFlocks mask causeRcm 2 (unitSensor n)
     let clear := (c.setFlag (RCM_STATUS_sensor_fault n) (c.rd (RCM_STATUS_test n) == 3)).clearCause mask (unitSensor n) true
     exec (.rcmSensorFault n bad) s = .next (s.after
      (if n < c.variant.ports ∧ c.rcmType n ≠ 0 ∧ bad = r.astray then (if bad then set else clear).settleSafety else c))) ∧
    (let has := n < c.variant.ports ∧ bit (bandsOf (c.rcmType n)) band = true
     let x := c.setResidual n fun r => { r with tripA := putBit r.tripA band true, latchedA := true }
     let y := ((c.setFlag ((RCM_STATUS_trip n).bitOf band) true).incSat (RCM_TRIPS_count n)).raiseEv (rcmPage n) 0
     exec (.rcmBandTrip true n band) s = .next (s.after
      (if has ∧ 8 * holdA band ≤ r.holdsA.getD band 0 ∧ bit r.tripA band = false then
        (if c.fold.running then
          ((x.logTrip n band true).demandFlocks (2 ^ x.flockOf n) causeRcm 2 (unitRcmA n)).settleSafety
        else (x.latchCause (x.flockOf n) ⟨causeRcm, 2, unitRcmA n, true⟩).crookActs)
      else c)) ∧
     exec (.rcmBandTrip false n band) s = .next (s.after
      (if has ∧ 8 * holdB band < r.holds.getD band 0 ∧ c.flag ((RCM_STATUS_trip n).bitOf band) = false then
        ((y.logTrip n band false).demandFlocks (2 ^ y.flockOf n) causeRcm 2 (unitRcmB n)).settleSafety
      else c))) ∧
    exec (.rcmBandDisagree n band) s = .next (s.after
      (if n < c.variant.ports ∧ c.saf.crookBad = 0 ∧ c.disagrees n band = true then
        ((c.setFlag (CRK_DISAGREE_ports.bitOf n) true).faultFlocks mask causeFault 1 (unitBands n)).settleSafety
      else c)) ∧
    (c.variant.ports ≤ n → exec (.rcmTest acc n v) s = .next (s.after c)) ∧
    (n < c.variant.ports → c.Accepts acc (RCM_TEST n).addr v →
      exec (.rcmTest acc n v) s = .next (s.after
        (if v % 2 = 1 ∧ c.flag (OPT_STATUS_safe_ok n) = false ∧ r.test = 0 then
          c.setResidual n fun r => { r with test := 321, testSeen := 0 }
        else c))) ∧
    (let x := (c.setResidual n fun r => { r with test := 0, testSeen := 0, passed := r.testSeen == 3 }).raiseEv (rcmPage n) 2
     let x := x.put (RCM_STATUS_test n) (if r.testSeen = 3 then 1 else if r.testSeen = 0 then 3 else 2)
     let y :=
      if r.testSeen = 3 then (x.clearCause mask (unitTest n) true).clearCause mask (unitSilent n) true
      else if r.testSeen = 0 then
        ((x.clearCause mask (unitTest n) true).raiseEv (rcmPage n) 1).faultFlocks mask causeRcm 2 (unitSilent n)
      else (x.faultFlocks mask causeFault 1 (unitTest n)).clearCause mask (unitSilent n) true
     let faulty := y.causePresent (c.flockOf n) (unitSensor n) || y.causePresent (c.flockOf n) (unitSilent n)
     exec (.rcmTestDone n) s = .next (s.after
      (if r.test = 1 then (y.setFlag (RCM_STATUS_sensor_fault n) faulty).settleSafety else c))) ∧
    (c.saf.welds.find? (fun w => w.port == n) = none → exec (.weldCheckTimeout n) s = .next (s.after c)) ∧
    (∀ w : Weld, c.saf.welds.find? (fun w => w.port == n) = some w →
      let coil := !w.coilOff && !w.coilFailed && decide (160 ≤ w.age)
      let weld := !w.low && !w.weldFailed && decide (c.spb 14 2 * 8 ≤ w.age)
      let x := if coil then c.faultFlocks mask causeWeld 3 (unitCoil n) else c
      let x := if weld then x.faultFlocks mask causeWeld 3 (unitWeld n) else x
      let x := x.setSaf fun s =>
        { s with
          welds := s.welds.map fun y =>
            if y.port = n then { y with coilFailed := y.coilFailed || coil, weldFailed := y.weldFailed || weld } else y }
      exec (.weldCheckTimeout n) s = .next (s.after (if coil || weld then x.settleSafety else x)))

/-- The emergency stops, the power demand and SAF_CMD. An opening contact puts the e-stop's Flocks in Cut, a cross-short in Lockout until its
pulse is seen again, a discrepancy of more than 50 ms keeps it actuated; a power exceedance is a demand; every SAF_CMD is decided by the
first matching row of its op, and its result, record with the word as written, and event follow. Otherwise, and for an absent e-stop or
Flock, nothing changes. (From R315, R316, R318, R327.) Rests on the model's choices in logs 67, 68, 110 and 116. -/
def Obligations.EstopsAndSafetyCommands : Prop :=
  ∀ (s : State) (acc : Access) (k f mask op : Nat) (b closed stayed : Bool),
    let c := s.chip
    let flocks := c.spbByte (672 + 4 * k)
    let answer : Chip → Nat → Nat → State := fun x word r => s.after (x.commandResult word r).settleSafety
    (let x := c.setEstop k fun e => e.contact b closed
     exec (.estopContactChange k b closed) s = .next (s.after
      (if k < 4 then (if (x.estop k).closedA ∧ (x.estop k).closedB then x else x.actuate k).settleSafety else c))) ∧
    (((c.estop k).contact b false).closedA = false ∨ ((c.estop k).contact b false).closedB = false) ∧
    ((c.estop k).actuated = false →
      c.actuate k = (c.setEstop k fun e => { e with actuated := true }).demandFlocks flocks causeEstop 2 (unitEstop k)) ∧
    (let x := c.setEstop k fun e => { e with short := putBit e.short b.toNat stayed }
     exec (.estopTestPulse k b stayed) s = .next (s.after
      (if 4 ≤ k then c
      else if (x.estop k).short = 0 then (x.clearCause flocks (unitShort k) true).settleSafety
      else if x.fold.running then ((x.actuate k).faultFlocks flocks causeEstop 3 (unitShort k)).settleSafety
      else (x.actuate k).crookActs))) ∧
    exec (.estopDiscrepancy k) s = .next (s.after
      (if k < 4 ∧ 400 < (c.estop k).differ then (c.setEstop k fun e => { e with discrepancy := true }).settleSafety else c)) ∧
    exec (.flockPowerExceed f) s = .next (s.after
      (if f < c.variant.flocks ∧
          (c.flockState f = 0 ∧ 16000 < (c.flock f).exceed ∨ c.flockState f = 1 ∧ 8000 < (c.flock f).exceed) then
        (c.demandFlocks (2 ^ f) causePower 2 unitPower).settleSafety
      else c)) ∧
    (c.Accepts acc SAF_CMD.addr (mask % 4096 + 0x1000) →
      let fs := c.flocksIn (mask % 256)
      let w := mask % 4096 + 0x1000
      let held := fs.any fun f => c.anyPresent f || c.stillTrips f || (c.flock f).demand == some c.stride
      let cut := fs.filter fun f => c.flockState f == 2
      let x := c.setSaf fun s => { s with released := some (c.stride, mask % 4096) }
      exec (.flockRelease acc mask) s = .next
        (if held then answer c w 1
        else if c.saf.running.isSome then answer c w 2
        else if ¬ c.flag SAF_STATUS_spb_confirmed then answer c w 3
        else if fs.any fun f => c.flockState f == 3 then answer c w 4
        else answer (if cut.isEmpty then x else x.recoverFlocks cut) w 0)) ∧
    (c.Accepts acc SAF_CMD.addr (mask % 4096 + 0x2000) →
      exec (.flockStop acc mask) s = .next (answer (c.demandFlocks (mask % 256) causeStop 2 0) (mask % 4096 + 0x2000) 0)) ∧
    (c.Accepts acc SAF_CMD.addr (mask % 4096 + 0x3000) →
      let fs := c.flocksIn (mask % 256)
      let w := mask % 4096 + 0x3000
      let locked := fs.filter fun f => c.flockState f == 3
      exec (.lockoutRelease acc mask) s = .next
        (if ¬ c.sealOpen 2 then answer c w 4
        else if fs.any c.anyPresent then answer c w 1
        else answer (if locked.isEmpty then c else locked.foldl (fun (c : Chip) f => c.setFlockState f 2 0 2) (c.beginRecovery locked)) w 0)) ∧
    (c.Accepts acc SAF_CMD.addr (mask % 4096 + 0x4000) →
      let w := mask % 4096 + 0x4000
      let ks := bitsSet 4 (mask / 256)
      let x := ks.foldl (fun (c : Chip) k => c.setEstop k fun e => { e with actuated := false }) c
      let named := x.flocksIn (ks.foldl (fun m k => m ||| x.spbByte (672 + 4 * k)) 0)
      let mine : Cause → Bool := fun q => ks.any fun j => q.unit == unitEstop j || q.unit == unitShort j
      let x := named.foldl (fun (c : Chip) f => c.setFlock f fun y => { y with causes := y.causes.filter fun q => !mine q }) x
      let cut := named.filter fun f => x.flockState f == 2 && (x.flock f).causes.isEmpty
      exec (.estopReset acc mask) s = .next
        (if ks.any fun k => !c.estopReady k then answer c w 5
        else if c.saf.running.isSome then answer c w 2
        else answer (if cut.isEmpty then x else x.recoverFlocks cut) w 0)) ∧
    ((op / 4096 % 8 = 0 ∨ 4 < op / 4096 % 8) → c.Accepts acc SAF_CMD.addr (op % 2 ^ 15) →
      exec (.safCmdInvalid acc op) s = .next (answer c (op % 2 ^ 15) 6))

/-- Safety frames, peers, the network and Degraded operation. Each copy without its twin for 80 Strides begins single-network operation, and a
safe-stop in it acts. A send and a heartbeat go out on both networks. A peer silent on both networks makes its demand, on one network it
begins single-network operation, and the end of that time ends the operation and demands the stop of every Flock. Degraded operation is
halved, warned of and ended by its times, also while its recovery runs; recoveries run one at a time and wait for each other. Otherwise,
and for an absent peer or Flock, nothing changes. A copy of a safety frame. One with a wrong CRC, to another module, from no listed peer
or too old is not accepted, the first and the last of these being counted. An accepted copy whose sequence is not above the last one acted
on is discarded and counted; the first of its sequence opens a 10 ms window, or is acted on at once in single-network operation; a second
copy that is equal is acted on; one that differs begins single-network operation, and a safe-stop in either is acted on. A frame acted on
has its sequence recorded and counted, its safe-stop demanded, and a safe-stop or a release request queues for S0 where there is room.
(From R320, R321, R322–R324, R326, R328.) Rests on the model's choices in logs 68, 71, 74 and 110. -/
def Obligations.SafetyNetworkAndDegraded : Prop :=
  (∀ (s : State) (acc : Access) (f i v cyc : Nat),
    let c := s.chip
    let d := c.advanceTo cyc
    (let due := c.saf.windows.filter fun w => 80 ≤ w.age
     let x := c.setSaf fun s => { s with windows := s.windows.filter fun w => w.age < 80 }
     let close : Chip → SafetyWindow → Chip := fun y w =>
      let y := (y.incSat (SAF_RX_CNT_count 1)).beginSingle
      if nth w.bytes 1 = 2 then y.actFrame w.bytes else y
     exec .safetyFrameWindowEnd s = .next (s.after (if due = [] then c else (due.foldl close x).settleSafety))) ∧
    (d.Accepts acc SAF_TX_CMD.addr v →
      exec (.safetyFrameSend acc v cyc) s = .next (s.after
        (if v % 2 = 1 ∧ d.flag SAF_CTRL_net_en = true then
          d.sendSafety (d.rd SAF_TX_BUF_word % 256) (d.rd SAF_TX_DEST_addr) (d.rd SAF_TX_BUF_word / 256 % 256)
        else d))) ∧
    (let mask := (List.range c.variant.flocks).foldl (fun x f => if 2 ≤ c.flockState f then x + 2 ^ f else x) 0
     exec (.heartbeatSend cyc) s = .next (s.after
      (if c.flag SAF_CTRL_net_en = true ∧ c.spb 26 2 * 8 ≤ c.saf.heartbeat then
        (d.sendSafety 1 0xFFFFFFFF mask).setSaf fun s => { s with heartbeat := 0 }
      else c))) ∧
    (let x := if c.peerSilent i 0 then c.setFlag (SAF_PEER_OK_heard.bitOf i) false else c
     let x := if c.peerSilent i 1 then x.setFlag (SAF_PEER_OK_heard.bitOf (16 + i)) false else x
     exec (.peerTimeout i) s = .next (s.after
      (if i < 16 ∧ c.spb (816 + 12 * i) 4 ≠ 0 ∧ c.flag SAF_CTRL_net_en = true then
        (if c.peerSilent i 0 && c.peerSilent i 1 then
          (x.demandFlocks (x.spbByte (820 + 12 * i)) causePeer 2 (unitPeer i)).settleSafety
        else if c.peerSilent i 0 || c.peerSilent i 1 then x.beginSingle
        else c)
      else c))) ∧
    exec .singleNetworkEnd s = .next (s.after
      (if c.flag SAF_STATUS_net_single = true ∧ c.saf.singleLeft = 0 then
        ((c.showSingle false).demandFlocks c.allFlocks causeSingle 2 unitSingleEnd).settleSafety
      else c)) ∧
    exec .networkRecovery s = .next (s.after
      (if c.mayRecoverNetwork = false then c
      else if c.saf.running.isSome then c.setSaf fun s => { s with waiting := putBit s.waiting 8 true }
      else c.recoverNetwork.settleSafety)) ∧
    (let has := f < c.variant.flocks ∧ c.flockState f = 1
     exec (.degradedSupervisionStart f) s = .next (s.after
      (if has ∧ 40000 ≤ c.degradedFor f ∧ (c.flock f).halved = false then
        c.setFlock f fun k => { k with halved := true, exceed := 0 }
      else c)) ∧
     exec (.degradedWarning f) s = .next (s.after
      (if has ∧ c.flag (SAF_FLOCK_ST_warn f) = false ∧ c.degradedTime - 480000 ≤ c.degradedFor f then
        (c.setFlag (SAF_FLOCK_ST_warn f) true).raiseEv safPage 2
      else c))) ∧
    (let recovering : Bool := match c.saf.running with
      | some r => r.before.any fun b => b.1 == f && b.2.1 == 1
      | none => false
     let x := if recovering then c.abandonRecovery else c
     exec (.degradedDeadline f) s = .next (s.after
      (if f < c.variant.flocks ∧ (c.flock f).degraded ≠ 0 ∧ c.degradedTime ≤ c.degradedFor f ∧
          (c.flockState f = 1 ∨ recovering = true) then
        (x.setFlockState f 2 causeFault 2).settleSafety
      else c))) ∧
    exec (.degradedRecovery f) s = .next (s.after
      (if c.variant.flocks ≤ f ∨ c.mayRecover f = false then c
      else if c.saf.running.isSome then c.setSaf fun s => { s with waiting := putBit s.waiting f true }
      else (c.recoverFlocks [f]).settleSafety)) ∧
    (let due := c.saf.faultWindows.filter fun w => 160 ≤ w.age
     let x := c.setSaf fun s => { s with faultWindows := s.faultWindows.filter fun w => w.age < 160 }
     let lock : Chip → FaultWindow → Chip := fun y w =>
      (y.flocksIn w.flocks).foldl (fun (y : Chip) f => (y.latchCause f ⟨causeOutput, 3, 0, false⟩).raiseFlock f 3 causeOutput (unitChannels w.unit)) y
     exec .recoveryWindowExpire s = .next (s.after (if due = [] then c else (due.foldl lock x).settleSafety))) ∧
    (c.saf.running = none → exec .recoveryFinish s = .next (s.after c)) ∧
    (∀ r : Recovery, c.saf.running = some r →
      let x := (c.setSaf fun s => { s with running := none }).setFlag SAF_STATUS_recov_busy false
      let x := r.before.foldl (fun (y : Chip) (b : Nat × Nat × List Cause) =>
        if y.flockState b.1 = 1 then y else y.setFlock b.1 fun k => { k with degraded := 0 }) x
      exec .recoveryFinish s = .next (s.after (if r.age < 8000 then c else x.startWaiting.settleSafety)))) ∧
  (∀ (s : State) (net cyc : Nat) (bytes : List Nat),
    let d := s.chip.advanceTo cyc
    let src := frameLe bytes 4 4
    let seq := frameLe bytes 12 4
    let last : Chip → Nat → Nat := fun c k => Sparse.get (fun _ => 0) c.saf.sequences k
    let good := frameLe bytes 44 4 = crc32c (leBytes 4 (d.spb 8 4) ++ bytes.take 44)
    let mine := (frameLe bytes 8 4 = d.spb 4 4 ∨ frameLe bytes 8 4 = 0xFFFFFFFF) ∧ (d.peerOf src).isSome = true
    let late := d.timeValid = true ∧
      frameLe bytes 16 6 * 1000000000 + frameLe bytes 22 4 + d.spb 22 2 * 1000000 < clockSec d.tim.clock * 1000000000 + clockNs d.tim.clock
    let answers : Chip → Prop := fun x => exec (.safetyFrameReceive net bytes cyc) s = .next (s.after x)
    let same : SafetyWindow → Bool := fun w => w.source == src && frameLe w.bytes 12 4 == seq
    let h := d.hearPeer bytes net
    let twin := h.saf.windows.find? same
    let taken := h.setSaf fun s => { s with windows := s.windows.filter fun w => !same w }
    (d.flag SAF_CTRL_net_en = false ∨ 2 ≤ net ∨ bytes.length ≠ 48 → answers d) ∧
    (d.flag SAF_CTRL_net_en = true → net < 2 → bytes.length = 48 →
      (¬ good → answers (d.incSat (SAF_RX_CNT_count 3))) ∧
      (good → ¬ mine → answers d) ∧
      (good → mine → late → answers (d.incSat (SAF_RX_CNT_count 4))) ∧
      (good → mine → ¬ late →
        (seq < last h src → answers (h.incSat (SAF_RX_CNT_count 5)).settleSafety) ∧
        (last h src ≤ seq → twin = none → h.flag SAF_STATUS_net_single = false →
          answers (h.setSaf fun s => { s with windows := s.windows ++ [⟨src, bytes, net, 0⟩] }).settleSafety) ∧
        (last h src ≤ seq → twin = none → h.flag SAF_STATUS_net_single = true → answers (h.actFrame bytes).settleSafety) ∧
        (∀ w : SafetyWindow, last h src ≤ seq → twin = some w →
          (w.net = net ∧ 24 ≤ h.variant.ports → answers (h.incSat (SAF_RX_CNT_count 5)).settleSafety) ∧
          (w.net ≠ net ∨ h.variant.ports < 24 → w.bytes = bytes → answers (taken.actFrame bytes).settleSafety) ∧
          (w.net ≠ net ∨ h.variant.ports < 24 → w.bytes ≠ bytes →
            let x := (taken.incSat (SAF_RX_CNT_count 2)).beginSingle
            let x := if nth w.bytes 1 = 2 then x.actFrame w.bytes else x
            answers (if nth bytes 1 = 2 then x.actFrame bytes else x).settleSafety)))) ∧
    (∀ (c : Chip) (bs : List Nat),
      let from_ := frameLe bs 4 4
      let x := c.setSaf fun s =>
        { s with
          sequences := Sparse.set (fun _ => 0) s.sequences from_ (max (last c from_) (frameLe bs 12 4 + 1))
          rx := if (nth bs 1 = 2 ∨ nth bs 1 = 3) ∧ s.rx.length < 8 then s.rx ++ [bs] else s.rx }
      let y := (x.incSat (SAF_RX_CNT_count 0)).showSafetyRx
      c.actFrame bs = if nth bs 1 = 2 then y.demandFlocks (nth bs 28) causeNet 2 0 else y))

/-- Straps, the site parameter block and releases. A strap read judges its words. The block's data port reads and writes one word, moving on
at each access of the owner, a violating one too, a write of the staged copy only with the seal open; a commit without an error stores the
copy and shows its CRCs, a confirm with the right values stores them, and a recheck faults every Flock when they do not agree. A port's
SAFE_OK and the start of a Flock are released only when their conditions hold; a crook lost for 2 Strides faults every Flock; a service
restarts the watchdog. Otherwise, and for an absent port or Flock, nothing changes. The worked words. 0xC096 is a valid port word of class
6 with RCM type 1 for a tethered AC cable; 0x8001 and 0x4002 are the module words of an open and a closed seal; a word of all zeros or all
ones fails; an AC word without RCM and a DC word without IMD are invalid. (From R331–R337, R341, R344.) Rests on the model's choices in
logs 67, 72 and 110. -/
def Obligations.StrapsBlockAndRelease : Prop :=
  (∀ (s : State) (acc : Access) (n f v : Nat) (words crook : List Nat),
    let c := s.chip
    let k := c.rd SAF_SPB_ADDR_word
    let refusedBlock : Nat → Chip := fun e => (c.put SAF_SPB_ST_state 3).put SAF_SPB_ST_error e
    exec (.strapRead words crook) s = .next (s.after (strapRead words crook c)) ∧
    exec (.strapReread words crook) s = .next (s.after (if c.saf.invalidReads = 0 then c else strapRead words crook c)) ∧
    (let step : Chip → Chip := fun x => if initiatorPlane acc.by_ = c.rd (ownerFld safPage) then x.advanceBlock else x
     let word := Sparse.get (fun _ => (0 : Word)) (if c.flag SAF_SPB_ADDR_bank then c.saf.stored else c.saf.staged) k
     let stage := c.setSaf fun s => { s with staged := Sparse.set (fun _ => (0 : Word)) s.staged k (BitVec.ofNat 32 v) }
     let broken : Nat → Bool → Chip := fun kind write => c.violate acc SAF_SPB_DATA.addr kind write
     (c.Accepts acc SAF_SPB_DATA.addr v →
      (c.flag SAF_SPB_ADDR_bank = true → exec (.spbDataAccess acc true v) s = .next (s.after (step c))) ∧
      (c.flag SAF_SPB_ADDR_bank = false → exec (.spbDataAccess acc true v) s = .next (s.after
        (step (if c.sealOpen 2 = true ∨ Sparse.get (fun _ => (0 : Word)) c.saf.staged k = BitVec.ofNat 32 v then stage
          else broken 1 true))))) ∧
     (c.Readable acc SAF_SPB_DATA.addr →
      exec (.spbDataAccess acc false v) s = .next (s.after (step { c with rdata := word.toNat }))) ∧
     (acc.size ≠ 4 ∨ acc.skew ≠ 0 →
      exec (.spbDataAccess acc true v) s = .next (s.after (step (broken 4 true))) ∧
      exec (.spbDataAccess acc false v) s = .next (s.after (step { broken 4 false with rdata := 0 })))) ∧
    (c.Accepts acc SAF_SPB_CMD.addr 1 →
      let x := (c.setSaf fun s => { s with stored := s.staged }).computeBlock.showBlock
      let x := (x.put SAF_SPB_ST_state 1).put SAF_SPB_ST_error 0
      let x := x.logSafety 6 5 0 0 1 3 0 (leBytes 4 (x.rd SAF_SPB_CRC_B_crc) ++ leBytes 4 (x.rd SAF_SPB_CRC_A_crc))
      exec (.spbCommit acc) s = .next (s.after
        (match c.blockError with
        | some e => refusedBlock e
        | none => ((x.raiseEv safPage 6).showConfirmed).settleSafety))) ∧
    (c.Accepts acc SAF_SPB_CMD.addr 2 →
      let x := (c.put SAF_SPB_CONF_crc (c.rd SAF_SPB_CONF_VAL_crc)).put SAF_SPB_CONF_MAP_crc (c.rd SAF_SPB_MAP_VAL_crc)
      let x := (x.put SAF_SPB_ST_state 2).put SAF_SPB_ST_error 0
      let x := x.logSafety 6 5 0 1 2 3 0 (leBytes 4 (c.rd SAF_SPB_CONF_VAL_crc) ++ leBytes 4 (c.rd SAF_SPB_MAP_VAL_crc))
      exec (.spbConfirm acc) s = .next (s.after
        (if c.sealOpen 2 = false then refusedBlock 4
        else if c.rd SAF_SPB_CONF_VAL_crc = c.rd SAF_SPB_CRC_A_crc ∧ c.rd SAF_SPB_MAP_VAL_crc = c.rd LSW_BMAP_CRC_crc then
          ((x.raiseEv safPage 6).showConfirmed).settleSafety
        else refusedBlock 0))) ∧
    (let x := c.computeBlock.showConfirmed
     let same := x.rd SAF_SPB_CRC_B_crc = x.rd SAF_SPB_CONF_crc ∧ x.rd SAF_SPB_CRC_A_crc = x.rd SAF_SPB_CONF_crc
     exec .spbRecheck s = .next (s.after
      (if same then (x.clearCause x.allFlocks unitBlock true).settleSafety
      else (x.faultFlocks x.allFlocks causeFault 2 unitBlock).settleSafety))) ∧
    exec (.safeOkRelease n) s = .next (s.after
      (if n < c.variant.ports ∧ c.flag (OPT_STATUS_safe_ok n) = false ∧ c.isOff = false ∧ c.okHolds n 0 = true then
        (c.setSafeOk n true).settlePort n
      else c)) ∧
    (let x := c.setFlock f fun k => { k with causes := k.causes.filter fun j => j.bit != causeStart }
     let state := (x.flock f).causes.foldl (fun y k => max y k.state) 0
     exec (.startupRelease f) s = .next (s.after
      (if f < c.variant.flocks ∧ c.mayStart f = true ∧ (c.flock f).causes.any (fun k => k.bit == causeStart) = true then
        (if x.flockState f = 3 ∧ state < 3 then x else x.setFlockState f state causeStart 2).settleSafety
      else c))) ∧
    (c.Accepts acc safRxPop.addr v →
      exec (.safetyRxPop acc v) s = .next (s.after
        (if v % 2 = 1 then (c.setSaf fun s => { s with rx := s.rx.drop 1 }).showSafetyRx else c))) ∧
    (let x := (c.setFlag SAF_STATUS_crook_ok false).setFlag CRK_STATUS_link_ok false
     exec .crookLinkLoss s = .next (s.after
      (if 2 ≤ c.saf.crookBad then (x.faultFlocks x.allFlocks causeFault 1 unitCrook).settleSafety else c))) ∧
    exec .pairedCrookLossCut s = .next (s.after
      (if c.saf.crookPaired = true ∧ 160 ≤ c.saf.crookBad then
        (c.setSaf fun s => { s with cutA := c.allFlocks }).settleSafety
      else c)) ∧
    (c.Accepts acc SAF_WDT.addr v →
      let x := (c.setSaf fun s => { s with watchdog := 0, expired := false }).setFlag (FAB_WDT_ST.bitOf 3) false
      exec (.safetyWatchdogService acc v) s = .next (s.after
        (if v % 2 ^ 32 = 0x5AFE then
          ((x.setLoad fun l => { l with wdSafety := false }).watchdogsChanged).settleSafety
        else c)))) ∧
  (portWordValid 0xC096 = true ∧ 0xC096 % 16 = 6 ∧ 0xC096 / 16 % 4 = 1 ∧ 0xC096 / 128 % 8 = 1 ∧ classLimit 6 = 320 ∧
  moduleWordValid 0x8001 = true ∧ moduleWordValid 0x4002 = true ∧
  portWordValid 0 = false ∧ portWordValid 0xFFFF = false ∧ moduleWordValid 0 = false ∧ moduleWordValid 0xFFFF = false ∧
  (∀ w : Nat, w / 128 % 8 ≤ 1 → w / 16 % 4 = 0 → portWordValid w = false) ∧
  (∀ w : Nat, w / 128 % 8 = 2 → w.testBit 6 = false → portWordValid w = false))

/-- A demand never makes a Flock less conservative, and leaves every Flock of its mask at least in the demanded state. A Flock outside the
mask keeps its state, unless the demand refuses a release command of the same Stride that names a Flock of the mask (R330). The states
that a recovery keeps are states (0 to 3). (From R304, R330.) Rests on the model's choices in logs 67 and 110. -/
def Obligations.DemandIsConservative : Prop :=
  ∀ (c : Chip) (mask cause state unit : Nat), state < 4 →
    let d := c.demandFlocks mask cause state unit
    ((∀ r : Recovery, c.saf.running = some r → ∀ b ∈ r.before, b.2.1 < 4) →
      (∀ f : Nat, f < 8 → c.flockState f ≤ d.flockState f) ∧
      (∀ f : Nat, f < c.variant.flocks → mask.testBit f = true → state ≤ d.flockState f)) ∧
    ((∀ t m : Nat, c.saf.released = some (t, m) → t ≠ c.stride ∨ m &&& mask % 2 ^ c.variant.flocks = 0) →
      ∀ f : Nat, f < 8 → mask.testBit f = false → d.flockState f = c.flockState f)

/-! ### The twin pair (chapter 13) -/

/-- The role. Without pairing it is Near; before the decision, and for a module with a position clash that claims nothing, it is None; one
that does not claim Near is Off once it is aligned to Near's edge, and None till then; one that does is Near while it is selected and
Blocked otherwise. STG_STATUS.near follows the Near role. The decision: alone it claims Near; a twin that differs is refused, and one at
the same position clashes; with a Near twin, or as the right module, it joins; else it claims. A module that already decided only finds
out, as Near, what a later twin is. A takeover at its edge, one that no digest verified flagged, assume, swap and rejoin with their
refusals, and the two edges of a swap on either module; after a yield both rebuild. Otherwise nothing changes. (From R347, R348, R354,
R358, R362–R364.) Rests on the model's choices in logs 76 and 113. -/
def Obligations.RolesTakeoverAndSwap : Prop :=
  ((∀ c : Chip,
    (c.paired = false → c.roleOf = 1) ∧
    (c.paired = true → c.pair.decided = false → c.roleOf = 0) ∧
    (c.paired = true → c.pair.decided = true → c.flag HRN_STATUS_pos_clash = true → c.pair.claims = false → c.roleOf = 0) ∧
    (c.paired = true → c.pair.decided = true → c.flag HRN_STATUS_pos_clash = false → c.pair.claims = false →
      c.roleOf = if c.pair.aligned then 2 else 0) ∧
    (c.paired = true → c.pair.decided = true → c.pair.claims = true →
      c.roleOf = if c.pair.select = c.flag HRN_STATUS_pos then 1 else 3)) ∧
  (∀ (s : State) (level : Bool),
    exec (.pairSelChange level) s = .next (s.after (s.chip.setPair fun p => { p with select := level }).settleRole)) ∧
  (∀ (s : State) (twin : Option TwinReport),
    let c := s.chip
    let refuse : Chip → TwinReport → Chip := fun y t =>
      if t.variant ≠ y.variant.ports ∨ t.sealDiff ≠ 0 then (y.setFlag HRN_STATUS_refused true).pairFault 11 true
      else (y.setFlag HRN_STATUS_pos_clash true).pairFault 13 true
    let unfit : Chip → TwinReport → Prop := fun y t =>
      t.variant ≠ y.variant.ports ∨ t.sealDiff ≠ 0 ∨ t.onLink = true ∧ t.position = y.flag HRN_STATUS_pos
    (c.pair.decided = true → ∀ t : TwinReport,
      exec (.roleDecision none) s = .next (s.after c) ∧
      (c.paired = false ∨ c.rd HRN_STATUS_role ≠ 1 → exec (.roleDecision (some t)) s = .next (s.after c)) ∧
      (c.paired = true → c.rd HRN_STATUS_role = 1 →
        (unfit c t → exec (.roleDecision (some t)) s = .next (s.after (refuse (c.showTwin t) t))) ∧
        (¬ unfit c t → exec (.roleDecision (some t)) s = .next (s.after (c.showTwin t))))) ∧
    (c.pair.decided = false → c.paired = false →
      exec (.roleDecision twin) s = .next (s.after (c.setFlag HRN_CTRL_pair_en false).settleRole)) ∧
    (c.pair.decided = false → c.paired = true → ∀ t : TwinReport,
      let x := c.setPair fun p => { p with decided := true }
      let y := x.showTwin t
      let claim : Chip → Chip := fun z => z.setPair fun p => { p with claims := true, aligned := true }
      let alone := ((claim x).setFlag HRN_STATUS_twin_absent true).pairFault 10 true
      exec (.roleDecision none) s = .next (s.after alone.settleRole) ∧
      (t.variant ≠ y.variant.ports ∨ t.sealDiff ≠ 0 →
        exec (.roleDecision (some t)) s = .next (s.after (refuse (claim y) t).settleRole)) ∧
      (t.variant = y.variant.ports → t.sealDiff = 0 →
        (unfit y t → exec (.roleDecision (some t)) s = .next (s.after (refuse y t).settleRole)) ∧
        (¬ unfit y t → exec (.roleDecision (some t)) s = .next (s.after
          (if t.isNear = true ∨ y.flag HRN_STATUS_pos = true then y.setPair fun p => { p with joinWanted := true } else claim y).settleRole)))))) ∧
  (∀ (s : State) (acc : Access),
    let c := s.chip
    let busy := (c.put HRN_CMD_ST_state 1).put HRN_CMD_ST_reason 0
    (c.pair.takeoverAt = none → exec .takeover s = .next (s.after c)) ∧
    (∀ (t : Nat) (unverified : Bool), c.pair.takeoverAt = some (t, unverified) →
      let x := (c.becomeNear c.nextStride).incSat HRN_COUNTS_takeovers
      let x := if unverified then ((x.setFlag HRN_STATUS_unverified true).pairFault 12 true).flagMeters 0x520C true else x
      let x := x.endJoin
      let x := if x.rd HRN_CMD_ST_state = 1 then x.put HRN_CMD_ST_state 2 else x
      exec .takeover s = .next (s.after
        (if t ≤ c.nextStride ∧ c.inOffRole = true then (x.setFault 6 0x5221 0).raiseEv hrnPage 1 else c))) ∧
    (c.Accepts acc HRN_CMD.addr 4 →
      exec (.assumeCmd acc) s = .next (s.after
        (if c.inOffRole then busy.decideTakeover !(busy.flag HRN_STATUS_joined && !busy.flag HRN_STATUS_divergent)
        else c.refusePair 5))) ∧
    (c.Accepts acc HRN_CMD.addr 1 →
      (∀ r : Nat, c.swapRefusal = some r → exec (.swapCmd acc) s = .next (s.after (c.refusePair r))) ∧
      (c.swapRefusal = none → exec (.swapCmd acc) s = .next (s.after busy.nameSwap))) ∧
    (c.Accepts acc HRN_CMD.addr 2 →
      exec (.rejoinCmd acc) s = .next (s.after
        (if ¬ c.inOffRole then c.refusePair 5
        else if c.flag HRN_STATUS_joining then c.refusePair 1
        else if ¬ c.flag HRN_STATUS_link_up then c.refusePair 3
        else busy.setPair fun p => { p with joinWanted := true, joinClears := true }))) ∧
    (let t := c.nextStride
     let old := c.setPair fun p =>
      { p with
        claims := false, swapAt := none, keepUntil := some (t + 8)
        nearPilots := (List.range c.variant.ports).map fun n => c.pilotOutput n
        nearOutputs := c.rd LSW_BSTATE_LO_on + 2 ^ 32 * c.rd LSW_BSTATE_HI_on, nearOk := c.rd SAF_SAFE_OK_ports }
     let old := ((old.put HRN_STATUS_role 2).setFlag STG_STATUS_near false).raiseEv hrnPage 0
     let new := ((c.becomeNear t).incSat HRN_COUNTS_swaps).raiseEv hrnPage 2
     exec .swapHandover s = .next (s.after
      (if c.paired = false then c
      else if c.rd HRN_STATUS_role = 1 then (if c.pair.swapAt = some t then old.roleOutputs else c)
      else if c.inOffRole = true ∧ c.flag HRN_STATUS_joined = true ∧ c.flag HRN_STATUS_divergent = false ∧ t % 8 = 0 then
        (if c.pair.resyncAfterSwap then new.beginRebuild else new)
      else c))) ∧
    (c.pair.keepUntil = none → exec .swapComplete s = .next (s.after c)) ∧
    (∀ t : Nat, c.pair.keepUntil = some t →
      let x := (c.setPair fun p => { p with keepUntil := none }).roleOutputs
      let x := (x.incSat HRN_COUNTS_swaps).raiseEv hrnPage 2
      let x := if x.rd HRN_CMD_ST_state = 1 then x.put HRN_CMD_ST_state 2 else x
      exec .swapComplete s = .next (s.after
        (if c.nextStride < t then c
        else if x.pair.resyncAfterSwap then x.beginResync
        else x))))

/-- A join begins with its copy, on the module that joins as Off after it has measured the lanes, aligned and taken the role; step 3 names J
on Near, and Off takes the J of Near's frame; the copy's end, the mark and the join frame follow, each at its step, and at J every meter
of Off is own − mark + Near's; a Stride frame's digest is compared before its fields are taken up, and a missing one makes Off use L + 1.
Otherwise nothing changes. The link, its lanes and the messages of the twins' management planes. A link down detaches Off while PAIR_HB_IN
toggles, also where it begins to toggle later, and ends Near's join. Otherwise, and for an absent lane, nothing changes. (From R352,
R353–R361, R365, R367–R369.) Rests on the model's choices in logs 75, 77 and 113. -/
def Obligations.JoinAndHarnessLink : Prop :=
  (∀ (s : State) (near frame : TwinImage) (f : StrideFrame) (stride valid errored : Nat) (delays : List Nat),
    let c := s.chip
    (exec (.join stride delays) s = .next (s.after (if c.isOff = true ∧ c.pair.joinWanted = false then c else join stride delays c))) ∧
    (c.paired = false ∨ c.flag HRN_STATUS_link_up = false ∨ c.flag HRN_STATUS_joining = true → join stride delays c = c) ∧
    (c.paired = true → c.flag HRN_STATUS_link_up = true → c.flag HRN_STATUS_joining = false →
      let x := ((c.setFlag HRN_STATUS_joining true).setFlag HRN_STATUS_joined false).put HRN_COPY_kib 0
      let x := x.setPair fun p => { p with joinStep := 1, joinWanted := false }
      let y := forN 2 (fun l d =>
        match delays[l]? with
        | some ps => (d.put (HRN_LANE_DELAY_ps l) ps).setFlag (HRN_LANE_ST_aligned l) true
        | none => d) x
      let y := (((y.setFlag HRN_STATUS_detached false).loadNext stride).setPair fun p => { p with aligned := true }).settleRole
      (c.rd HRN_STATUS_role = 1 → join stride delays c = x) ∧
      (c.rd HRN_STATUS_role ≠ 1 → join stride delays c =
        forN y.variant.elements (fun n d => if d.flag (SFE_ECTRL_en n) then d.settleElement n else d) y)) ∧
    (c.pair.joinStep = 2 → c.pair.loadDue = true →
      exec (.storeCopyDone near) s = .next (s.after ((c.loadActive near).setPair fun p => { p with loadDue := false }))) ∧
    (c.pair.joinStep ≠ 1 → c.pair.joinStep = 2 ∧ c.pair.loadDue = true ∨ exec (.storeCopyDone near) s = .next (s.after c)) ∧
    (c.pair.joinStep = 1 →
      let x := c.put HRN_COPY_kib 64448
      let y := near.store.foldl (fun (c : Chip) b => if 0x10000 ≤ b.1 ∧ b.1 < 0x3F00000 then c.store b.1 [b.2] else c) x
      let y := { y with led := { near.led with everSaved := y.led.everSaved, asserted := y.led.asserted, pfwAge := y.led.pfwAge } }
      let y := (near.words.filter fun w => joinWords.contains w.1).foldl (fun (c : Chip) w => c.setWord w.1 w.2) y
      let y := y.setTrf fun t =>
        { t with
          active := near.trf.active, passive := near.trf.passive, activateAt := near.trf.activateAt, reached := near.trf.reached }
      exec (.storeCopyDone near) s = .next (s.after
        (if x.isOff then (forN 5 (fun n c => c.showLog n) y).loadActive near else x).beginRebuild)) ∧
    exec .joinMarkCapture s = .next (s.after
      (if c.pair.joinStep = 2 ∧ c.pair.joinAt = some (c.stride + 16) then c.setPair fun p => { p with mark := some c.markOf } else c)) ∧
    (c.pair.joinStep ≠ 2 ∨ c.pair.joinAt ≠ some c.nextStride → exec (.joinApply near frame) s = .next (s.after c)) ∧
    (c.pair.joinStep = 2 → c.pair.joinAt = some c.nextStride →
      (c.isOff = false ∨ c.pair.mark = none →
        exec (.joinApply near frame) s = .next (s.after (c.setPair fun p => { p with joinStep := 3 }))) ∧
      (∀ mark : TwinImage, c.isOff = true → c.pair.mark = some mark → ∃ d : Chip,
        exec (.joinApply near frame) s = .next (s.after d) ∧ d.pair = { c.pair with joinStep := 3 } ∧
        (∀ m : Nat, m < c.variant.meters →
          let x := (c.meter m).joined (Sparse.get (fun _ => {}) mark.meters m) (Sparse.get (fun _ => {}) near.meters m)
            (Sparse.get (fun _ => {}) frame.meters m)
          d.meter m =
            { x with
              neg := (List.range 72).any fun j => decide (x.exact j < 0)
              saturated := x.saturated || (List.range 72).any fun j => decide (2 ^ 64 ≤ (x.exact j).toNat / 2 ^ 72) }) ∧
        d.dmd = { near.dmd with flags := near.dmd.flags ||| c.dmd.flags } ∧
        d.trf.now = near.trf.now ∧ d.trf.next = near.trf.next ∧ d.trf.billedTo = near.trf.billedTo ∧
        d.led.logNext = near.led.logNext ∧ d.led.nextSave = near.led.nextSave)) ∧
    (let d := c.setPair fun p => { p with joinStep := 2, joinAt := none, mark := none, loadDue := false, resyncAfterSwap := false }
     let d := (d.setFlag HRN_STATUS_joining true).setFlag HRN_STATUS_joined false
     (c.isOff = true → c.beginRebuild = d) ∧ (c.isOff = false → c.beginRebuild = d.agreeOn c.joinStride)) ∧
    (∀ j : Nat, c.pair.joinStep = 2 → c.pair.joinAt ≠ some j → c.hearJoin (some j) = c.agreeOn j) ∧
    (∀ j : Nat, c.pair.joinStep = 0 → c.flag HRN_STATUS_joined = true → c.hearJoin (some j) = c.beginResync.agreeOn j) ∧
    (∀ j : Nat, (c.agreeOn j).pair.joinAt = some j) ∧
    (let x := (c.laneEdge valid errored).setPair fun p => { p with received := true }
     let x := ((x.put HRN_HB_MISS_frames 0).setFlag HRN_STATUS_twin_absent false).pairFault 10 false
     let x := x.compareDigest f
     exec (.strideFrameReceive valid errored f) s = .next (s.after
      (if c.paired = true ∧ c.pair.received = false ∧ valid % 4 ≠ 0 then
        (if x.isOff ∧ ¬ x.flag HRN_STATUS_detached ∧ f.role = 1 then x.followNear f
        else if x.rd HRN_STATUS_role = 1 ∧ f.role ≠ 1 then x.hearOff f
        else x)
      else c))) ∧
    (let x := (c.laneEdge 0 errored).setPair fun p => { p with received := true, missed := some c.stride }
     let x := x.incSat HRN_HB_MISS_frames
     let y := x.loneWindow
     exec (.strideFrameDeadline errored) s = .next (s.after
      (if c.paired = true ∧ c.pair.received = false then
        (if ¬ x.inOffRole then x
        else if 2 ≤ y.rd HRN_HB_MISS_frames ∧ y.pair.takeoverAt.isNone then y.takeoverDecision
        else y)
      else c)))) ∧
  (∀ (s : State) (acc : Access) (l v : Nat) (bytes : List Nat),
    let c := s.chip
    (let x := (((c.setFlag HRN_STATUS_link_up false).setFlag STG_STATUS_harness_up false).pairFault 4 true).raiseEv hrnPage 6
     exec .harnessLinkDown s = .next (s.after
      (if c.flag HRN_STATUS_link_up = true ∧ 2 ≤ c.rd HRN_HB_MISS_frames then
        (if x.isOff = false then x.endJoin.pairFault 10 (decide (2 ≤ x.rd HRN_HB_MISS_pins)) else x.detach)
      else c.detach))) ∧
    ((c.inOffRole = true → c.flag HRN_STATUS_detached = false → c.flag HRN_STATUS_link_up = false → 2 ≤ c.rd HRN_HB_MISS_frames →
        c.rd HRN_HB_MISS_pins < 2 → c.pair.takeoverAt = none → c.detach = (c.setFlag HRN_STATUS_detached true).endJoin) ∧
      ((c.inOffRole = false ∨ c.flag HRN_STATUS_detached = true ∨ c.flag HRN_STATUS_link_up = true ∨ 2 ≤ c.rd HRN_HB_MISS_pins) →
        c.detach = c)) ∧
    (let x := (((c.setFlag HRN_STATUS_link_up true).setFlag STG_STATUS_harness_up true).pairFault 4 false).raiseEv hrnPage 7
     exec .harnessLinkUp s = .next (s.after
      (if c.paired = true ∧ c.flag HRN_STATUS_link_up = false ∧ c.rd HRN_HB_MISS_frames = 0 then
        (if x.isOff ∧ x.flag HRN_STATUS_detached ∧ x.flag HRN_CTRL_auto_rejoin then x.setPair fun p => { p with joinWanted := true } else x)
      else c))) ∧
    exec (.harnessLaneDown l) s = .next (s.after
      (if l < 2 ∧ c.flag (HRN_LANE_ST_up l) = true ∧ 8 ≤ Sparse.get (fun _ => 0) c.pair.laneErrors l then
        ((c.setFlag (HRN_LANE_ST_up l) false).setFault 6 0x5300 l).raiseEv (hrlPage l) 1
      else c)) ∧
    (let x := c.setPair fun p => { p with laneErrors := Sparse.set (fun _ => 0) p.laneErrors l 0 }
     exec (.harnessLaneUp l) s = .next (s.after
      (if l < Blk.count c.variant .hrl ∧ c.flag (HRN_LANE_ST_up l) = false then
        ((x.setFlag (HRN_LANE_ST_up l) true).clearFault 6 0x5300 l).raiseEv (hrlPage l) 0
      else c))) ∧
    (c.Accepts acc HRN_MSG_CMD.addr v →
      let out := (List.range 16).flatMap fun k => leBytes 4 (Sparse.get (fun _ => (0 : Word)) c.pair.txWords k).toNat
      exec (.harnessMsgSend acc v) s = .next (s.after
        (if v % 2 = 1 ∧ c.flag HRN_MSG_ST_tx_busy = false then
          (c.setFlag HRN_MSG_ST_tx_busy true).setPair fun p => { p with inFlight := some out }
        else c))) ∧
    exec (.harnessMsgReceive bytes) s = .next (s.after
      (if c.paired = false ∨ bytes.length ≠ 64 then c
      else if 16 ≤ c.pair.messages.length then c.incSat HRN_MSG_ST_lost
      else (c.setPair fun p => { p with messages := p.messages ++ [bytes] }).showMessages)) ∧
    (c.Accepts acc HRN_MSG_POP.addr v →
      exec (.harnessMsgPop acc v) s = .next (s.after
        (if v % 2 = 1 then (c.setPair fun p => { p with messages := p.messages.drop 1 }).showMessages else c))))

/-- An additive item at the edge of J is its own value − its own mark + Near's mark, in every key; so where both modules added the same since
their marks, the joined value is Near's. (From R360.) Rests on the model's choices in log 75. -/
def Obligations.JoinIsExact : Prop :=
  (∀ (own mark near : Sparse Int) (k : Nat),
    Sparse.get (fun _ => 0) (addMarks own mark near) k =
      Sparse.get (fun _ => 0) own k - Sparse.get (fun _ => 0) mark k + Sparse.get (fun _ => 0) near k) ∧
  (∀ mark near d : Nat, addMark (mark + d) mark near = near + d)

/-! ### Network, mains link and tag reader (chapters 14 to 16) -/

/-- Links, received frames, rings, transmission and streams. A received frame is decided by the first matching row of R372: a wrong length or
FCS is counted, a PAUSE frame holds the port's transmission where it is honoured, a safety frame and a frame for a ring enter the FIFO, a
foreign VLAN is counted and a foreign address ignored. A frame sent completes its descriptor and the next one starts. Otherwise, and for
an absent port, ring or stream, nothing changes. Streams. A write that enables a stream starts it or refuses it, one to a running stream
stops it or is only flagged. A send takes the next ready frame: with the queue full the frame is lost, else it goes out with its headers
and the next sequence, and shows a frame lost before it. Without a ready frame, and for an absent stream, nothing changes. (From
R371–R381.) Rests on the model's choices in logs 6, 26, 78 and 79. -/
def Obligations.NetworkCommands : Prop :=
  (∀ (s : State) (acc : Access) (n r v cyc : Nat) (frame : List Nat) (b : Bool),
    let c := s.chip
    let x := c.advanceTo cyc
    let bs := frame.take (frame.length - 4)
    let speed := c.rd (NET_PCTRL_speed n)
    (c.variant.nets ≤ n →
      exec (.netLinkUp n b) s = .next (s.after c) ∧ exec (.netLinkDown n b) s = .next (s.after c) ∧
      exec (.netSpeedTry n) s = .next (s.after c) ∧ exec (.modAbsChange n b) s = .next (s.after c)) ∧
    (n < c.variant.nets →
      let allowed := if speed = 1 then b else if speed = 2 then !b else b == (c.netPort n).tries10g
      let y := ((c.setLink n true b).setFlag (NET_PSTATUS_los n) false).raiseEv (ntpPage n) 0
      let y := y.setNetPort n fun p => { p with trying := 0 }
      exec (.netLinkUp n b) s = .next (s.after
        (if c.flag (NET_PCTRL_en n) = true ∧ c.flag (NET_PSTATUS_link_up n) = false ∧ allowed = true then
          (((y.showLinkFault n).recheckStream n 0).recheckStream n 1).startTx n
        else c)) ∧
      exec (.netLinkDown n b) s = .next (s.after ((c.setFlag (NET_PSTATUS_los n) b).linkDown n)) ∧
      exec (.netSpeedTry n) s = .next (s.after
        (if c.flag (NET_PCTRL_en n) = true ∧ c.flag (NET_PSTATUS_link_up n) = false ∧ speed ≠ 1 ∧ speed ≠ 2 ∧ 4000 ≤ (c.netPort n).trying then
          c.setNetPort n fun p => { p with trying := 0, tries10g := !p.tries10g }
        else c)) ∧
      exec (.modAbsChange n b) s = .next (s.after
        (if c.flag (NET_PSTATUS_mod_abs n) = b then c else (c.setFlag (NET_PSTATUS_mod_abs n) b).raiseEv (ntpPage n) 3))) ∧
    (x.netRuns n = false →
      exec (.netFrameReceive n frame cyc) s = .next (s.after x) ∧ exec (.netFrameSent n cyc) s = .next (s.after x)) ∧
    (x.netRuns n = true →
      let stamp := x.rxStamp n x.tim.clock
      let pcp := if tagged bs then frameBe bs 14 2 / 8192 else 0
      let pause := x.isPause n bs = true ∧ x.flag (NET_PCTRL_pause_rx n) = true
      let q := frameBe bs 16 2 * (if x.flag (NET_PSTATUS_is_10g n) then 512 else 5120)
      let counted := x.incSat (NET_RX_FRAMES_count n)
      (frame.length < 64 ∨ x.maxLen n < frame.length ∨ ofLe (frame.drop (frame.length - 4)) ≠ crc32 bs →
        exec (.netFrameReceive n frame cyc) s = .next (s.after (x.rxDrop n (NET_RX_CRC_ERR_count n)))) ∧
      (x.steer n frame ≠ .crcError → pause →
        exec (.netFrameReceive n frame cyc) s = .next (s.after
          ((x.setNetPort n fun p => { p with pausedTo := x.netNow + (q + 99) / 100 }).startTx n))) ∧
      (x.steer n frame = .saf → ¬ pause →
        exec (.netFrameReceive n frame cyc) s = .next (s.after ((counted.enterFifo n ⟨bs, 8, none, stamp⟩ 4096).noteStall n))) ∧
      (∀ k : Nat, x.steer n frame = .ring k → ¬ pause →
        exec (.netFrameReceive n frame cyc) s = .next (s.after
          (((counted.notePdelay n stamp bs).enterFifo n ⟨bs, pcp, some k, stamp⟩ 4096).noteStall n))) ∧
      (x.steer n frame = .vlan → ¬ pause →
        exec (.netFrameReceive n frame cyc) s = .next (s.after (x.rxDrop n (NET_RX_DROP_VLAN_count n)))) ∧
      (x.steer n frame = .foreign → ¬ pause → exec (.netFrameReceive n frame cyc) s = .next (s.after x)) ∧
      ((x.netPort n).sending = none → exec (.netFrameSent n cyc) s = .next (s.after (x.startTx n))) ∧
      (∀ f : TxFrame, (x.netPort n).sending = some f →
        let y := (x.incSat (NET_TX_FRAMES_count n)).setNetPort n fun p => { p with sending := none, last := some f }
        let y := match f.descriptor with
          | some (r, i) => y.txDone r i f.stamp false
          | none => y
        exec (.netFrameSent n cyc) s = .next (s.after (y.startTx n)))) ∧
    (x.variant.nets ≤ n ∨ x.flag NET_CTRL_en = false ∨ (x.netPort n).fifo = [] → exec (.netRingDeliver ⟨n, cyc⟩) s = .next (s.after x)) ∧
    (∀ (f : RxFrame) (rest : List RxFrame), n < x.variant.nets → x.flag NET_CTRL_en = true → (x.netPort n).fifo = f :: rest →
      let y := (x.setNetPort n fun p => { p with fifo := rest }).noteStall n
      (∀ k : Nat, f.ring = some k → exec (.netRingDeliver ⟨n, cyc⟩) s = .next (s.after (y.intoRing n k f))) ∧
      (f.ring = none →
        exec (.netRingDeliver ⟨n, cyc⟩) s = .next (s.after (y.safetyCopy n ((f.bytes.drop (typeAt f.bytes + 2)).take 48))))) ∧
    (8 ≤ r → exec (.netTxTailWrite acc r v cyc) s = .next (s.after c) ∧ exec (.ringPlaneWrite acc ⟨r, cyc⟩ v) s = .next (s.after c)) ∧
    (r < 8 → x.Accepts acc (NET_TX_TAIL r).addr v →
      exec (.netTxTailWrite acc r v cyc) s = .next (s.after ((x.put (NET_TX_TAIL_idx r) v).pumpRing r 1024))) ∧
    (r < 8 → x.Accepts acc (NET_RING_CFG r).addr (v % 4) →
      exec (.ringPlaneWrite acc ⟨r, cyc⟩ v) s = .next (s.after (if initiatorPlane acc.by_ = 2 then x.setRingPlane r v else x)))) ∧
  (∀ (s : State) (acc : Access) (r v : Nat),
    let c := s.chip
    let x := c.stream r
    (2 ≤ r → exec (.streamEnable acc r v) s = .next (s.after c) ∧ exec (.streamFrameSend r) s = .next (s.after c)) ∧
    (r < 2 → c.Accepts acc (NET_STR_CFG r).addr v →
      let y := (c.put (NET_STR_CFG r) (v % 2 ^ 26)).setFlag (NET_STR_CFG_en r) false
      exec (.streamEnable acc r v) s = .next (s.after
        (if x.active then (if v % 2 = 1 then c.setFlag (NET_STR_ST_wrote_running r) true else c.stopStream r)
        else if v % 2 = 0 then y
        else if y.streamRefused r then (y.setFlag (NET_STR_ST_refused r) true).raiseEv netPage 3
        else ((y.setFlag (NET_STR_ST_refused r) false).setFlag (NET_STR_CFG_en r) true).setStream r fun z =>
          { z.cleared with active := true, starting := true, ready := [], lost := false }))) ∧
    (x.ready = [] → exec (.streamFrameSend r) s = .next (s.after c)) ∧
    (∀ (flags : Nat) (h payload : List Nat) (rest : List (Nat × List Nat × List Nat)), r < 2 → x.ready = (flags, h, payload) :: rest →
      let n := c.streamPort r
      let q := min 6 (c.rd (NET_STR_CFG_queue r))
      let tag := if c.flag (NET_STR_CFG_tagged r) then
          [0x81, 0x00] ++ beBytes 2 (c.rd (NET_STR_CFG_pcp r) * 8192 + c.rd (NET_STR_CFG_vid r))
        else []
      let bytes := beBytes 6 (c.rd64 (NET_STR_DST_LO_mac r) (NET_STR_DST_HI_mac r)) ++ beBytes 6 (c.ownMac n) ++ tag ++ [0x88, 0xB6] ++
        [1, 1 + r, r, c.streamK r] ++ leBytes 4 (c.rd (NET_STR_SEQ_seq r)) ++ (h.take 10 ++ leBytes 2 (flags ||| x.lost.toNat) ++ h.drop 12) ++ payload
      exec (.streamFrameSend r) s = .next (s.after
        (if Config.txQueueFrames ≤ (c.txQueue n q).length then
          ((c.setStream r fun z => { z with ready := rest, lost := true }).incSat (NET_STR_DROP_count r)).raiseEv netPage 4
        else
          ((c.setStream r fun z => { z with ready := rest, lost := false }).inc (NET_STR_SEQ_seq r)).enqueue n q
            { bytes := padded bytes }))))

/-- The mains link. Edges and misses drive the tracker; a reception begins on an accepted sync and ends with its frame; a send is ignored,
refused for the first reason, or waits with a free backoff; a crossing starts it when its conditions hold and its last half-cycle ends it.
Otherwise, without a mains link and for an absent coupler, nothing changes. (From R390, R391, R396, R400–R403.) Rests on the model's
choices in logs 1, 80, 81, 95 and 121. -/
def Obligations.MainsCommands : Prop :=
  ∀ (s : State) (acc : Access) (p v cyc : Nat) (rx : List MainsCoupler) (busy : Bool),
    let c := s.chip
    let x := c.advanceTo cyc
    let st := c.rd MLK_TX_ST_state
    let has := c.hasMains = true ∧ p < 3
    (let t := x.netNow
     let spacing := (Sparse.get (fun _ => none) x.mlk.edges p).map (t - ·)
     let y := x.setMlk fun m => { m with edges := Sparse.set (fun _ => none) m.edges p (some t) }
     let rate := ∃ d : Nat, spacing = some d ∧ 769000 ≤ d ∧ d ≤ 1111000
     let good := (y.setFlag (MLK_CSTATUS_sense_ok p) true).clearFault 5 0x5500 p
     (x.hasMains = false ∨ 3 ≤ p → exec (.mainsZcEdge p cyc) s = .next (s.after x)) ∧
     (x.hasMains = true → p < 3 → rate →
      exec (.mainsZcEdge p cyc) s = .next (s.after (if p = good.refPhase ∧ good.flag MLK_CTRL_en = true then good.trackEdge t spacing else good))) ∧
     (x.hasMains = true → p < 3 → ¬ rate →
      exec (.mainsZcEdge p cyc) s = .next (s.after (if p = y.refPhase ∧ y.flag MLK_CTRL_en = true then y.trackEdge t spacing else y)))) ∧
    (let y := (x.inc MLK_ZC_ST_run).incSat MLK_ZC_ST_misses
     let y := y.startHalf (y.netNow - y.mlk.next)
     let y := (y.setMlk fun m => { m with crossing := none, next := m.next + y.halfPeriod }).halfCycle
     exec (.zcPredictedCrossing cyc) s = .next (s.after
      (if x.hasMains = true ∧ x.flag MLK_STATUS_locked = true ∧ x.mlk.next + 20000 < x.netNow then
        (if 8 ≤ y.rd MLK_ZC_ST_run then y.loseLock else y)
      else x))) ∧
    (let y := (c.setFlag (MLK_CSTATUS_sense_ok p) false).raiseEv (mlcPage p) 1
     exec (.zcSenseLoss p) s = .next (s.after
      (if has ∧ c.flag (MLK_CSTATUS_sense_ok p) = true then (if p = y.refPhase then y.setFault 5 0x5500 p else y) else c))) ∧
    (let y := (c.setFlag (MLK_CSTATUS_drv_fault p) busy).faultIs 5 0x5501 p busy
     exec (.couplerDriverFault p busy) s = .next (s.after
      (if has ∧ c.flag (MLK_CSTATUS_drv_fault p) ≠ busy then (if busy then y.raiseEv (mlcPage p) 0 else y) else c))) ∧
    (let runs := x.mainsRuns = true ∧ x.flag MLK_STATUS_locked = true ∧ x.rd MLK_TX_ST_state ≠ 2
     let y := forN 3 (fun k d => d.put (MLK_CNOISE_floor k) (satN 16 (rx.getD k {}).noise)) x
     (¬ runs → exec (.mainsFrameReceive rx cyc) s = .next (s.after x)) ∧
     (∀ stamp : Nat, runs → x.mlk.receiving = some stamp →
      exec (.mainsFrameReceive rx cyc) s = .next (s.after (x.mainsEnd rx stamp))) ∧
     (runs → x.mlk.receiving = none →
      exec (.mainsFrameReceive rx cyc) s = .next (s.after
        (if x.syncAccepted rx then
          (y.setMlk fun m => { m with receiving := some y.mlk.start }).setFlag MLK_STATUS_rx_busy true
        else x)))) ∧
    (c.Accepts acc MLK_RX_POP.addr v →
      exec (.mainsRxPop acc v) s = .next (s.after
        (if v % 2 = 1 then (c.setMlk fun m => { m with fifo := m.fifo.drop 1 }).showMainsRx else c))) ∧
    (c.Accepts acc MLK_TX_CMD.addr v →
      let l := c.rd (MLK_TX_BUF_frame 1) / 65536 % 256
      let bytes := ((List.range 66).flatMap fun k => leBytes 4 (c.rd (MLK_TX_BUF_frame k))).take (8 + l)
      exec (.mainsSend acc v) s = .next (s.after
        (if v % 2 = 0 ∨ st = 1 ∨ st = 2 then c
        else match c.sendRefusal with
          | some k => ((c.setTx 4).put MLK_TX_ST_reason k).raiseEv mlkPage 2
          | none => (((c.setTx 1).put MLK_TX_ST_reason 0).setMlk fun m => { m with frame := bytes }).newBackoff)) ∧
      exec (.mainsAbort acc v) s = .next (s.after (if v.testBit 1 = true then c.abortSend else c))) ∧
    (let y := c.setFlag MLK_STATUS_band_busy busy
     let line := lineFrame y.hz60 (y.flag MLK_CFG_mode) c.mlk.frame
     let quiet := ∀ t : Nat, c.mlk.ended = some t → t + 12500000 ≤ y.netNow
     let may := y.mainsRuns = true ∧ y.isOff = false ∧ y.rd MLK_TX_ST_state = 1 ∧ c.mlk.crossed = true ∧ c.mlk.receiving = none ∧
      4 ≤ c.mlk.gap ∧ c.mlk.backoff = 0 ∧ (y.bandC = true → busy = false ∧ quiet)
     (c.hasMains = false → exec (.mainsTxStart busy) s = .next (s.after c)) ∧
     (c.hasMains = true → may →
      exec (.mainsTxStart busy) s = .next (s.after
        (((y.setTx 2).put MLK_TX_ST_h (line.length - 1)).setMlk fun m =>
          { m with crossed := false, line := line, left := line.length }))) ∧
     (c.hasMains = true → ¬ may →
      exec (.mainsTxStart busy) s = .next (s.after (y.setMlk fun m => { m with crossed := false })))) ∧
    (let z := match c.mlk.aborting with
        | some t => if t ≤ c.netNow then c.abortTx.setMlk fun m => { m with ended := some t } else c
        | none => c
     let y := ((z.setTx 3).incSat MLK_TX_FRAMES_count).raiseEv mlkPage 1
     exec .mainsTxDone s = .next (s.after
      (if z.rd MLK_TX_ST_state = 2 ∧ z.mlk.left = 0 then
        y.setMlk fun m => { m with frame := [], gap := 0, aborting := none, ended := some y.netNow }
      else z)))

/-- What a ping of an antenna decides. A second ping beyond the threshold adopts the reflection as the reference, counts a wake and raises its
event; a first one changes no reference; otherwise the reference moves by a sixteenth toward the reflection, rounded toward zero; with a
port fault set there is no wake and the reference stays. (From R410.) Rests on the model's choices in logs 82, 83 and 114. -/
def Obligations.PingDecision : Prop :=
  ∀ (c : Chip) (a : Nat) (re im : Int),
    let y := c.measureGamma a re im
    let far := (y.rd TAG_PING_CFG_thr : Int) ^ 2 * 2 ^ 4 <
      (re - y.rdS (TAG_GAMMA_REF_re a)) ^ 2 + (im - y.rdS (TAG_GAMMA_REF_im a)) ^ 2
    let x := y.setTag fun t => { t with exceeded := putBit t.exceeded a (decide far) }
    (y.flag (TAG_ANT_ST_fault a) = true → c.pingAntenna a re im = (false, x)) ∧
    (y.flag (TAG_ANT_ST_fault a) = false →
      (far → c.tag.exceeded.testBit a = true →
        c.pingAntenna a re im =
          (true, (((x.putS (TAG_GAMMA_REF_re a) re).putS (TAG_GAMMA_REF_im a) im).incSat (TAG_ANT_CNT_wakes a)).raiseEv (antPage a) 0)) ∧
      (far → c.tag.exceeded.testBit a = false → c.pingAntenna a re im = (false, x)) ∧
      (¬ far →
        c.pingAntenna a re im =
          (false,
            let z := x.putS (TAG_GAMMA_REF_re a)
              (x.rdS (TAG_GAMMA_REF_re a) + (re - y.rdS (TAG_GAMMA_REF_re a)).tdiv 16)
            z.putS (TAG_GAMMA_REF_im a) (z.rdS (TAG_GAMMA_REF_im a) + (im - y.rdS (TAG_GAMMA_REF_im a)).tdiv 16))))

/-- The radio link, a ping of the antennas that take part, the start of a round and its refusals, the end of a round, the answer to a Halter
resolve, an antenna fault and a channel change. A start whose channel was left less than 100 ms ago waits for it. Otherwise nothing
changes. A slot of a round, by the first matching row of R412: Q moves and the next slot opens with QueryAdjust or QueryRep; an EPC whose
CRC-16 passes is acknowledged and reported, or starts a Halter exchange; one that fails is reported as a collision and split, or is
negatively acknowledged and counted. An Authenticate reply that passes its CRC-16 is resolved, one that fails is reported without HID, and
either ends the exchange. While the carrier pauses nothing comes. A write and a record write at the port of TAG_ROUND, refused, waiting
for its channel, or with the words and the copy they write; stop, which lets the current command end; a step or an Authenticate without a
reply within 20 ms; and the release of the oldest report. (From R406, R407, R409, R411–R413, R415, R416–R421.) Rests on the model's
choices in logs 82, 83, 84, 85, 114 and 122. -/
def Obligations.TagReader : Prop :=
  (∀ (s : State) (acc : Access) (re im : Int) (gammas : List (Nat × (Int × Int))) (a : Nat) (lost sent : Bool),
    let c := s.chip
    (let x := (c.setFlag TAG_STATUS_radio_fault true).setFault 5 0x5604 0
     exec (.radioLinkLoss lost) s = .next (s.after
      (if Blk.count c.variant .tag = 0 then c
      else if lost then (if c.flag TAG_STATUS_radio_fault then x else x.raiseEv tagPage 4).tagSettle
      else (c.setFlag TAG_STATUS_radio_fault false).clearFault 5 0x5604 0))) ∧
    (let x := forN 4 (pingStep gammas) ([], (c.setTag fun t => { t with sincePing := 0 }).tunePing)
     exec (.tagPing gammas) s = .next (s.after
      (if c.flag TAG_CTRL_en = true ∧ c.tagBusy = false ∧ 8 * max 20 (c.rd TAG_PING_CFG_period) ≤ c.tag.sincePing then
        (match x.1 with
        | k :: _ =>
          if x.2.flag TAG_CFG_auto_inv then x.2.beginJob ⟨k, x.2.rdS (TAG_GAMMA_re k), x.2.rdS (TAG_GAMMA_im k), none⟩ else x.2
        | [] => x.2)
      else c))) ∧
    (c.Accepts acc TAG_CMD.addr 1 →
      let k := c.rd TAG_ROUND_ant
      let y := c.tagChannel
      let x := (y.setTag fun t => { t with deferred := none }).measureGamma k re im
      (c.tagBusy = true → exec (.tagRoundStart acc re im) s = .next (s.after c)) ∧
      (c.tagBusy = false → c.tagMay k = false →
        exec (.tagRoundStart acc re im) s = .next (s.after (c.setFlag TAG_STATUS_refused true))) ∧
      (c.tagBusy = false → c.tagMay k = true → y.carrierPaused = true →
        exec (.tagRoundStart acc re im) s = .next (s.after (y.setTag fun t => { t with deferred := some ⟨k, re, im, none⟩ }).tagShow)) ∧
      (c.tagBusy = false → c.tagMay k = true → y.carrierPaused = false →
        exec (.tagRoundStart acc re im) s = .next (s.after
          (if x.flag (TAG_ANT_ST_fault k) then (x.setFlag TAG_STATUS_refused true).tagShow else x.startRound k)))) ∧
    (c.tag.round = none → exec .tagRoundEnd s = .next (s.after c)) ∧
    (∀ r : TagRound, c.tag.round = some r →
      let quiet := ∃ f : TagFrame, r.frames = [f] ∧ 2 ≤ f.empties
      (r.exchange = false ∧ (quiet ∨ 8 * max 1 (c.rd TAG_ROUND_max_ms) ≤ r.age) → exec .tagRoundEnd s = .next (s.after c.endRound)) ∧
      (r.exchange = true ∨ ¬ quiet ∧ r.age < 8 * max 1 (c.rd TAG_ROUND_max_ms) → exec .tagRoundEnd s = .next (s.after c))) ∧
    (let answer : TagResolve → Option VaultAnswer := fun x => Sparse.get (fun _ => none) c.vlt.answers x.id
     let due := c.tag.resolves.find? fun x => (answer x).isSome || c.resolveLate x
     (due = none → exec .halterResolveAnswer s = .next (s.after c)) ∧
     (∀ x : TagResolve, due = some x →
      (answer x = none ∨ c.resolveLate x = true → exec .halterResolveAnswer s = .next (s.after (c.endResolve x 3 3 0))) ∧
      (∀ y : VaultAnswer, answer x = some y → c.resolveLate x = false →
        (y.error ≠ 0 → exec .halterResolveAnswer s = .next (s.after (c.endResolve x 3 3 0))) ∧
        (y.error = 0 → y.found = [] → exec .halterResolveAnswer s = .next (s.after (c.endResolve x 3 1 0))) ∧
        (∀ i ctr : Nat, y.error = 0 → y.found = [(i, ctr)] →
          exec .halterResolveAnswer s = .next (s.after (c.endResolve x 2 0 i))) ∧
        (y.error = 0 → 2 ≤ y.found.length → exec .halterResolveAnswer s = .next (s.after (c.endResolve x 3 2 0)))))) ∧
    (let x := ((c.setFlag (TAG_ANT_ST_fault a) true).incSat (TAG_ANT_CNT_faults a)).raiseEv (antPage a) 1
     exec (.antennaFault a sent) s = .next (s.after
      (if c.activeAntenna = some a ∧ c.carrierPaused = false ∧ c.flag (TAG_ANT_ST_fault a) = false then x.tagAbort sent else c))) ∧
    (let due := c.tagBusy = true ∧ c.dwellLimit ≤ c.tag.dwell ∧ c.awaitsReply = false
     (¬ due → exec .tagChannelHop s = .next (s.after c)) ∧
     (due → c.flag TAG_CFG_region = false → exec .tagChannelHop s = .next (s.after (c.tuneTo c.nextChannel))) ∧
     (due → c.flag TAG_CFG_region = true →
      let x := (c.draw).2.hopChannel (c.draw).1
      exec .tagChannelHop s = .next (s.after (x.2.tuneTo x.1))))) ∧
  (∀ (s : State) (rssi phase : Int) (reply : TagReply) (cyc : Nat) (r : TagRound),
    let c := s.chip
    let x := c.advanceTo cyc
    let tail := x.reportTail rssi phase
    (c.tag.round = none → exec (.tagSlot reply rssi phase cyc) s = .next (s.after c)) ∧
    (c.tag.round = some r → c.carrierPaused = true → exec (.tagSlot reply rssi phase cyc) s = .next (s.after c)) ∧
    (c.tag.round = some r → c.carrierPaused = false → r.exchange = false →
      (∀ (f : TagFrame) (fs : List TagFrame), r.frames = f :: fs →
        let e := { f with empties := if f.q = 0 then f.empties + 1 else 0 }
        let low := nextSlot e (e.q2 - 1)
        let high := nextSlot { f with empties := 0 } (min 30 (f.q2 + 1))
        exec (.tagSlot .empty rssi phase cyc) s = .next (s.after
          (if e.empties < 2 then (x.setFrames r (low.2 :: fs)).onAir r.ant [low.1]
          else if fs.isEmpty then x.setFrames r [e]
          else x.enterFrame r [] fs)) ∧
        exec (.tagSlot .collided rssi phase cyc) s = .next (s.after ((x.setFrames r (high.2 :: fs)).onAir r.ant [high.1]))) ∧
      (∀ (pc crc : Nat) (bytes : List Nat) (conflict : Option Nat), crc16 (beBytes 2 pc ++ bytes) = crc →
        exec (.tagSlot (.epc pc bytes crc conflict) rssi phase cyc) s = .next (s.after
          (if pc / 2048 % 32 = 0 ∧ x.flag TAG_CFG_halter_en = true then
            (x.setTag fun t => { t with round := some { r with exchange := true } }).onAir r.ant
              [.ack, .reqRn, .authenticate (x.rd TAG_HALT_CFG_csi) r.nonce]
          else (x.repliedSlot r [.ack]).tagReport (reportBytes 1 r.ant 0 pc bytes tail 0)))) ∧
      (∀ (pc crc : Nat) (bytes : List Nat), crc16 (beBytes 2 pc ++ bytes) ≠ crc →
        (∀ b : Nat, exec (.tagSlot (.epc pc bytes crc (some b)) rssi phase cyc) s = .next (s.after
          ((x.tagReport (reportBytes 4 r.ant 0 b [] tail 0)).bitSplit r b))) ∧
        exec (.tagSlot (.epc pc bytes crc none) rssi phase cyc) s = .next (s.after
          ((x.repliedSlot r [.ack, .nak]).incSat TAG_ERR_CNT_count))) ∧
      (∀ (bytes : List Nat) (crc : Nat), exec (.tagSlot (.authenticate bytes crc) rssi phase cyc) s = .next (s.after x))) ∧
    (c.tag.round = some r → c.carrierPaused = false → r.exchange = true →
      (∀ (bytes : List Nat) (crc : Nat),
        let y := if crc16 bytes = crc then x.resolveHalter r (bytes.take 8) tail
          else x.tagReport (reportBytes 3 r.ant 4 0 [] tail (x.rd TAG_HALT_CFG_slot))
        let z := y.setTag fun t => { t with round := some { r with exchange := false } }
        exec (.tagSlot (.authenticate bytes crc) rssi phase cyc) s = .next (s.after
          (if r.ending then z.endRound else z.repliedSlot { r with exchange := false } []))) ∧
      ((∀ (bytes : List Nat) (crc : Nat), reply ≠ .authenticate bytes crc) →
        exec (.tagSlot reply rssi phase cyc) s = .next (s.after x)))) ∧
  (∀ (s : State) (acc : Access) (re im rssi phase : Int) (replies : List TagWriteReply) (copies verify : Option (TagReadReply × TagReadReply))
    (v cyc : Nat),
    let c := s.chip
    let a := c.rd TAG_ROUND_ant
    let y := c.tagChannel
    let x := (y.setTag fun t => { t with deferred := none }).measureGamma a re im
    let words := (List.range (clampN 1 32 (c.rd TAG_WR_CFG_count))).map fun k => (c.rd TAG_WR_CFG_bank, c.rd TAG_WR_CFG_ptr + k, c.writeData k)
    let write : TagWork := { words := words, replies := replies }
    let record := c.recordWork (readPair copies) replies (readPair verify)
    let starts : Instr → TagWork → Prop := fun i w =>
      (c.tagBusy = true → exec i s = .next (s.after c)) ∧
      (c.tagBusy = false → c.tagMay a = false → exec i s = .next (s.after (c.setFlag TAG_STATUS_refused true))) ∧
      (c.tagBusy = false → c.tagMay a = true → y.carrierPaused = true →
        exec i s = .next (s.after (y.setTag fun t => { t with deferred := some ⟨a, re, im, some w⟩ }).tagShow)) ∧
      (c.tagBusy = false → c.tagMay a = true → y.carrierPaused = false → x.flag (TAG_ANT_ST_fault a) = true →
        exec i s = .next (s.after (x.setFlag TAG_STATUS_refused true).tagShow)) ∧
      (c.tagBusy = false → c.tagMay a = true → y.carrierPaused = false → x.flag (TAG_ANT_ST_fault a) = false →
        exec i s = .next (s.after (x.runWork a w)))
    (c.Accepts acc TAG_CMD.addr 4 → starts (.tagWrite acc re im replies) write) ∧
    (c.Accepts acc TAG_CMD.addr 8 → starts (.tagRecordWrite acc re im copies replies verify) record) ∧
    (readPair copies = none → record.unread = true ∧
      ∀ b : Chip, b.runWork a record = (b.onAir a (b.singulation ++ record.reads)).endWrite 2 0 0 0) ∧
    (∀ (read : List Nat × List Nat) (n base crc g target : Nat) (data : List Nat), readPair copies = some read →
      n = clampN 1 30 (c.rd TAG_REC_CFG_n) → data = (List.range n).map c.writeData →
      crc = copyCrc g data → base = c.rd TAG_REC_CFG_ptr + target * (n + 2) →
      (newerCopy n read = none ∧ target = 0 ∧ g = 1 ∨
        newerCopy n read = some 0 ∧ target = 1 ∧ g = nextGeneration (nth read.1 0) ∨
        newerCopy n read = some 1 ∧ target = 0 ∧ g = nextGeneration (nth read.2 0)) →
      record.words = [(3, base, 0)] ++ (data.zipIdx).map (fun d => (3, base + 1 + d.2, d.1)) ++ [(3, base + n + 1, crc), (3, base, g)] ∧
      record.verified = recordResult n target (g :: data ++ [crc]) (readPair verify)) ∧
    (c.Accepts acc TAG_CMD.addr 2 →
      (∀ r : TagRound, c.tag.round = some r → r.exchange = true →
        exec (.tagStop acc) s = .next (s.after (c.setTag fun t => { t with round := some { r with ending := true } }))) ∧
      (∀ r : TagRound, c.tag.round = some r → r.exchange = false → exec (.tagStop acc) s = .next (s.after (c.tagAbort false))) ∧
      (c.tag.round = none → exec (.tagStop acc) s = .next (s.after (c.tagAbort (!c.tag.midCommand))))) ∧
    (∀ p step : Nat, c.tag.writing = some (p, step) →
      exec (.tagReplyTimeout rssi phase cyc) s = .next (s.after (c.endWrite 2 step 0 0))) ∧
    (∀ r : TagRound, c.tag.writing = none → c.tag.round = some r →
      let z := c.advanceTo cyc
      let w := (z.tagReport (reportBytes 3 r.ant 4 0 [] (z.reportTail rssi phase) (z.rd TAG_HALT_CFG_slot))).setTag fun t =>
        { t with round := some { r with exchange := false } }
      exec (.tagReplyTimeout rssi phase cyc) s = .next (s.after
        (if r.exchange then (if r.ending then w.endRound else w.repliedSlot { r with exchange := false } []) else c))) ∧
    (c.tag.writing = none → c.tag.round = none → exec (.tagReplyTimeout rssi phase cyc) s = .next (s.after c)) ∧
    (c.Accepts acc TAG_REP_POP.addr v →
      exec (.tagRepPop acc v) s = .next (s.after
        (if v % 2 = 1 then (c.setTag fun t => { t with fifo := t.fifo.drop 1 }).tagFifo else c))))

/-! ### The vault (chapter 17) -/

/-- Each of the six key commands starts where no reason of R428 holds, a new bank being written at once, and is refused with its first reason
otherwise; slot 0 is never changed; and what a command leaves when it ends. (From R425, R427, R428, R430, R445.) Rests on the model's
choices in log 86. -/
def Obligations.KeyCommands : Prop :=
  ∀ (s : State) (acc : Access),
    let c := s.chip
    let rows : List (KeyOp × Instr) :=
      [(.write, .keyWrite acc), (.erase, .keyErase acc), (.generate, .keyGenerate acc), (.attr, .keyAttr acc), (.cfg, .vaultCfgCommit acc),
        (.halter, .halterSet acc)]
    (∀ p ∈ rows, c.Accepts acc VLT_KW_CMD.addr p.1.word →
      (c.keyRefusal p.1 = none → exec p.2 s = .next (s.after
        (((((c.keyStart p.1).2.stageBank (c.keyStart p.1).1).setVlt fun v => { v with command := some (c.keyStart p.1).1 }).put
          VLT_KW_ST_reason 0).put VLT_KW_ST_state 1))) ∧
      (c.keyRefusal p.1 = some 1 → exec p.2 s = .next (s.after ((c.put VLT_KW_ST_reason 1).raiseEv vlpPage 1))) ∧
      (∀ r : Nat, r ≠ 1 → c.keyRefusal p.1 = some r → exec p.2 s = .next (s.after
        ((((c.put VLT_KW_ST_reason r).raiseEv vlpPage 1).put VLT_KW_ST_state 3).wipeKeyData)))) ∧
    (∀ op : KeyOp, op.onSlot = true → c.rd VLT_KW_SLOT_slot = 0 → c.keyRefusal op = some 1 ∨ c.keyRefusal op = some 2) ∧
    (let x := c.setVlt fun v => { v with command := none }
     let ended : Chip → State := fun y => s.after (((y.put VLT_KW_ST_state 2).wipeKeyData).raiseEv vlpPage 0)
     (c.vlt.command = none → exec .keyCommandDone s = .next (s.after c)) ∧
     (∀ (k : Nat) (b : VaultKey), c.vlt.command = some (.slot k b) →
      exec .keyCommandDone s = .next (ended ((x.commitSlot k b).raiseEv vltPage 1))) ∧
     (∀ words : List Nat, c.vlt.command = some (.config words) →
      (newestCopy c.vlt.stored = none →
        exec .keyCommandDone s = .next (ended
          (((x.setVlt fun v => { v with stored := Sparse.set (fun _ => none) v.stored 0 (some ⟨1, words, copyCheck 1 words⟩) }).adoptConfig words).raiseEv vltPage 1))) ∧
      (∀ (g e : Nat) (old : List Nat), newestCopy c.vlt.stored = some ((g, old), e) →
        exec .keyCommandDone s = .next (ended
          (((x.setVlt fun v => { v with stored := Sparse.set (fun _ => none) v.stored (1 - e) (some ⟨g + 1, words, copyCheck (g + 1) words⟩) }).adoptConfig words).raiseEv
            vltPage 1)))) ∧
     (∀ g i last : Nat, c.vlt.command = some (.halter g i last) → exec .keyCommandDone s = .next (ended (x.setHalter g i last))))

/-- A key update first writes the bank that is not in force, with the next generation, which changes no key in force; the commit entry then
puts it in force. It leaves the bank and the entry in force before as they were, a bank holds the key wrapped with a CRC that holds, and
the key-change counter goes up by one. (From R430.) Rests on the model's choices in log 86. -/
def Obligations.KeyUpdateIsDoubleBanked : Prop :=
  ∀ (c : Chip) (k : Nat) (b : VaultKey), 0 < k →
    let old := c.vaultSlot k
    let x := c.stageBank (.slot k b)
    let d := x.commitSlot k b
    (∀ (type usage planes : Nat) (key : List Nat),
      (c.newKey k type usage planes key).generation = (old.key.generation + 1) % 2 ^ 32) ∧
    (∀ j : Nat, x.vaultSlot j = c.vaultSlot j) ∧ x.vlt.entries = c.vlt.entries ∧
    d.vaultSlot k = { key := b, bank := 1 - old.bank, entry := 1 - old.entry } ∧
    Sparse.get (fun _ => none) d.vlt.banks (2 * k + old.bank) = Sparse.get (fun _ => none) c.vlt.banks (2 * k + old.bank) ∧
    Sparse.get (fun _ => none) d.vlt.entries (2 * k + old.entry) = Sparse.get (fun _ => none) c.vlt.entries (2 * k + old.entry) ∧
    Sparse.get (fun _ => none) d.vlt.banks (2 * k + (1 - old.bank)) = some b.bank ∧ b.bank.valid = true ∧
    (∀ j : Nat, j ≠ k → d.vaultSlot j = c.vaultSlot j) ∧
    d.vlt.header.changes = satN 32 (c.vlt.header.changes + 1)

/-- Every operation is submitted by a go of its window slot and decided by R438; an abort withdraws a queued request; an engine takes the next
request of its order, runs it, and ends it; the random source, its reseeding and the restore. Otherwise, and for an absent slot or engine,
nothing changes. A signed reading begins for an active meter, fails at once with error 1 for another one, and is ignored while one runs;
the vault's answer ends it done or with error 2, 3 or 4, the object standing in its registers. Otherwise nothing changes. (From R235,
R236, R435–R439, R441, R446.) Rests on the model's choices in logs 62, 87 and 88. -/
def Obligations.VaultRequests : Prop :=
  (∀ (s : State) (acc : Access) (n e : Nat),
    let c := s.chip
    let r := c.windowRequest n
    let rows : List (Nat × Instr) :=
      [(0x01, .vaultRandom acc n), (0x02, .vaultSha384 acc n), (0x03, .vaultHmac acc n), (0x04, .vaultCmac acc n),
        (0x05, .vaultGcmEncrypt acc n), (0x06, .vaultGcmDecrypt acc n), (0x07, .vaultEcdsaSign acc n), (0x08, .vaultEcdsaVerify acc n),
        (0x09, .vaultEcdh acc n), (0x0A, .vaultPublicKey acc n), (0x0B, .vaultCoseSign1 acc n), (0x0C, .vaultAttest acc n),
        (0x0D, .vaultSlotInfo acc n)]
    (∀ p ∈ rows,
      (Blk.vrq.count c.variant ≤ n → exec p.2 s = .next (s.after c)) ∧
      (n < Blk.vrq.count c.variant → c.Accepts acc (VREQ_CMD n).addr 1 → exec p.2 s = .next (s.after
        (if c.rd (VREQ_OP_op n) ≠ p.1 then c
        else if c.windowBusy n then c.setFlag (VREQ_ST_wrote_busy n) true
        else if c.goError r = 0 then c.queueRequest r
        else c.endRequest r { error := c.goError r })))) ∧
    (Blk.vrq.count c.variant ≤ n → exec (.vaultRequestAbort acc n) s = .next (s.after c)) ∧
    (n < Blk.vrq.count c.variant → c.Accepts acc (VREQ_CMD n).addr 2 →
      let x := c.setVlt fun v => { v with queue := v.queue.filter fun r => !(decide (r.source = .window n)) }
      exec (.vaultRequestAbort acc n) s = .next (s.after
        (if c.rd (VREQ_ST_state n) = 1 then (x.put (VREQ_ST_state n) 5).vaultDone (n / 4)
        else if c.rd (VREQ_ST_state n) = 2 then c.setFlag (VREQ_ST_wrote_busy n) true
        else c))) ∧
    (3 ≤ e ∨ c.engine e ≠ none ∨ c.nextRequest e = none → exec (.vaultRequestStart e) s = .next (s.after c)) ∧
    (∀ r : VaultRequest, e < 3 → c.engine e = none → c.nextRequest e = some r →
      let x := c.setVlt fun v => { v with queue := v.queue.filter fun y => !(decide (y.source = r.source)) }
      (x.keyError r ≠ 0 → exec (.vaultRequestStart e) s = .next (s.after (x.endRequest r { error := x.keyError r }))) ∧
      (∀ m : Nat, r.source = .window m → x.keyError r = 0 → exec (.vaultRequestStart e) s = .next (s.after
        (((x.vaultRun r).2.put (VREQ_ST_state m) 2).setEngine e (some (r, (x.vaultRun r).1))))) ∧
      ((∀ m : Nat, r.source ≠ .window m) → x.keyError r = 0 → exec (.vaultRequestStart e) s = .next (s.after
        ((x.vaultRun r).2.setEngine e (some (r, (x.vaultRun r).1)))))) ∧
    (c.engine e = none → exec (.vaultRequestDone e) s = .next (s.after c)) ∧
    (∀ (r : VaultRequest) (a : VaultAnswer), c.engine e = some (r, a) →
      exec (.vaultRequestDone e) s = .next (s.after ((c.setEngine e none).endRequest r a))) ∧
    (let x := ((c.setFlag VLT_STATUS_trng_fault true).setFault 5 0x5801 0).incSat VLT_TRNG_CNT_count
     let x := if x.flag VLT_STATUS_ready then x else x.setVlt fun v => { v with testsFailed := true }
     exec .trngHealthFail s = .next (s.after (if c.flag VLT_STATUS_trng_fault then x else x.raiseEv vltPage 2))) ∧
    exec .drbgReseed s = .next (s.after (c.setVlt fun v => { v with drawn := 0, sinceSeed := 0 })) ∧
    (c.flag VLT_STATUS_ready = true → exec .vaultRestoreDone s = .next (s.after c)) ∧
    (c.flag VLT_STATUS_ready = false → ∃ d : Chip, exec .vaultRestoreDone s = .next (s.after d) ∧
      (∀ k : Nat, 0 < k → k < 256 → d.vaultSlot k = (c.restoreSlot k).1) ∧ d.vlt.drawn = 0 ∧
      (∀ (g e : Nat) (words : List Nat), newestCopy c.vlt.stored = some ((g, words), e) → d.vlt.config = words))) ∧
  (∀ (s : State) (acc : Access) (v : Nat),
    let c := s.chip
    let m := c.rd LDG_SIGN_MTR_meter
    (c.Accepts acc LDG_SIGN_CMD.addr v →
      let x : Chip :=
        { c with
          dsp :=
            { c.dsp with
              signing := some (m, c.rd LDG_SIGN_SEL, c.regBytes LDG_SIGN_NONCE_nonce (min 32 (c.rd LDG_SIGN_NLEN_len))), payload := none } }
      exec (.signReading acc v) s = .next (s.after
        (if v % 2 = 0 ∨ c.rd LDG_SIGN_ST_state = 1 then c
        else if m < c.variant.meters ∧ (c.meter m).active = true then
          ((x.put LDG_SIGN_ST_state 1).put LDG_SIGN_ST_error 0).put LDG_SIGN_ST_length 0
        else c.signError 1))) ∧
    (Sparse.get (fun _ => none) c.vlt.answers 256 = none → exec .signReadingDone s = .next (s.after c)) ∧
    (∀ a : VaultAnswer, Sparse.get (fun _ => none) c.vlt.answers 256 = some a →
      let x := c.setVlt fun v => { v with answers := Sparse.set (fun _ => none) v.answers 256 none }
      let y := { x with dsp := { x.dsp with signing := none, payload := none } }
      let y := forN ((a.output.length + 3) / 4) (fun k d => d.put (LDG_SIGN_OUT_obj k) (ofLe ((a.output.drop (4 * k)).take 4))) y
      exec .signReadingDone s = .next (s.after
        (if c.rd LDG_SIGN_ST_state ≠ 1 then x
        else if a.error = 3 ∨ a.error = 4 then x.signError 3
        else if a.error = 8 ∨ 1024 < a.output.length then x.signError 4
        else if a.error ≠ 0 then x.signError 2
        else ((y.put LDG_SIGN_ST_state 2).put LDG_SIGN_ST_length a.output.length).raiseEv 0x40103000 6))))

/-! ### Start-up, updates and resets (chapters 19, 20) -/

/-- A plane start and its refusal, the loader's verdict on an image, switch, confirm, security commit and revert, the end of a trial window,
the four commands of the update page with their refusal, what each leaves when it ends, and the enrolment and revocation of a signing key.
Otherwise nothing changes: without the key or the command's bit, for an absent plane, with no image or command at work, and for a key
already enrolled or not enrolled at all. (From R468, R469, R477–R482, R484, R485.) Rests on the model's choices in logs 89, 90 and 91. -/
def Obligations.ImagesAndUpdates : Prop :=
  ∀ (s : State) (acc : Access) (p v : Nat),
    let c := s.chip
    (p < 4 → c.Accepts acc (UPD_PL_CMD p).addr v →
      let keyed (k : Nat) (x : Chip) : Chip := if v / 65536 % 65536 = 0xC1A5 ∧ v.testBit k = true then x else c
      ∀ bank, bank = c.rd (UPD_PL_ST_bank p) → ∀ x, x = c.bootPlane p →
      exec (.planeStartCmd acc p v) s = .next (s.after (keyed 0
        (if c.rd (UPD_PL_ST_state p) = 2 then c.endPlaneCommand p 3 2
        else if Sparse.get (fun _ => 0) c.boot.hold p ≠ 0 then c.endPlaneCommand p 1 0
        else (c.endPlaneCommand p 1 0).queueStart p))) ∧
      (∀ r : Nat, c.switchRefusal p = some r → exec (.planeSwitchCmd acc p v) s = .next (s.after (keyed 1 (c.endPlaneCommand p 3 r)))) ∧
      (c.switchRefusal p = none →
        exec (.planeSwitchCmd acc p v) s = .next (s.after (keyed 1
          (((c.setBootPlane p { x with previous := bank, trialBank := 1 - bank, trial := true, tries := 0 }).endPlaneCommand
            p 2 0).planeReset p)))) ∧
      exec (.planeConfirmCmd acc p v) s = .next (s.after (keyed 2
        (if c.rd (UPD_PL_ST_state p) = 2 then
          ((c.setBootPlane p { x with preferred := bank, previous := 1 - bank, trial := false, tries := 0 }).setBoot
            fun b => { b with trials := Sparse.erase b.trials p }).endPlaneCommand p 2 0
        else c))) ∧
      exec (.svnCommitCmd acc p v) s = .next (s.after (keyed 3
        (if c.rd (UPD_PL_ST_state p) = 2 then
          (c.put (UPD_PL_ST_svn_min p) (max (c.rd (UPD_PL_ST_svn_min p)) (c.rd (UPD_PL_ST_svn p)))).endPlaneCommand p 2 0
        else c))) ∧
      exec (.planeRevertCmd acc p v) s = .next (s.after (keyed 4
        (((c.setBootPlane p { x with preferred := x.previous, previous := 1 - x.previous, trial := false, tries := 0 }).endPlaneCommand
          p 2 0).planeReset p)))) ∧
    (4 ≤ p →
      exec (.planeStartCmd acc p v) s = .next (s.after c) ∧ exec (.planeSwitchCmd acc p v) s = .next (s.after c) ∧
      exec (.planeConfirmCmd acc p v) s = .next (s.after c) ∧ exec (.svnCommitCmd acc p v) s = .next (s.after c) ∧
      exec (.planeRevertCmd acc p v) s = .next (s.after c)) ∧
    (c.boot.loading = none → exec .imageLoadDone s = .next (s.after c)) ∧
    (∀ bank : Nat, c.boot.loading = some (p, bank) →
      ∀ x, x = (c.setBoot fun b => { b with loading := none }) →
      ∀ y, y = (if (x.bootPlane p).trial then x.revertPlane p
        else ((x.setFlag (UPD_PL_ST_failover p) true).planeFault p 6 true).raiseEv updPage 2) →
      exec .imageLoadDone s = .next (s.after
        (if x.imageValid p bank then x.startPlane p bank
        else if y.imageValid p (1 - bank) then y.startPlane p (1 - bank) else y.failPlane p).loaderNext)) ∧
    (Sparse.find c.boot.trials p = none → exec (.trialWindowExpire p) s = .next (s.after c)) ∧
    (∀ age : Nat, Sparse.find c.boot.trials p = some age →
      exec (.trialWindowExpire p) s = .next (s.after
        (if (c.bootPlane p).trial = true ∧ 8000 * max 1 (c.rd (UPD_PL_CFG_window p)) ≤ age then c.planeReset p else c))) ∧
    (∀ (k ofs align : Nat) (cmd : NorCommand) (i : Instr),
      ∀ tp, tp = c.rd UPD_U_TGT_plane → ∀ tb, tb = c.rd UPD_U_TGT_bank →
      (k = 0 ∧ ofs = c.rd UPD_U_OFS_ofs ∧ align = 0x10000 ∧ cmd = .erase tp tb ofs ∧ i = .norEraseCmd acc ∨
        k = 1 ∧ ofs = c.rd UPD_U_OFS_ofs ∧ align = 256 ∧ cmd = .program tp tb ofs (c.regBytes UPD_U_BUF_data 256) ∧ i = .norProgramCmd acc ∨
        k = 2 ∧ ofs = 0 ∧ align = 1 ∧ cmd = .verify tp tb ∧ i = .norVerifyCmd acc ∨
        k = 3 ∧ ofs = 0 ∧ align = 1 ∧ cmd = .erase tp tb 0 ∧ i = .norInvalidateCmd acc) →
      c.Accepts acc UPD_U_CMD.addr (2 ^ k) →
      (c.boot.restarting.testBit 2 = true → exec i s = .next (s.after c)) ∧
      (c.boot.restarting.testBit 2 = false →
        (∀ r : Nat, c.updateRefusal ofs align = some r →
          exec i s = .next (s.after (((c.put UPD_U_ST_state 3).put UPD_U_ST_reason r).raiseEv upuPage 1))) ∧
        (c.updateRefusal ofs align = none →
          exec i s = .next (s.after
            ((((c.setBoot fun b => { b with
              command := some cmd, verified := if k = 1 then putBit b.verified (2 * tp + tb) false else b.verified }).put
              UPD_U_ST_state 1).put UPD_U_ST_reason 0).showUpdate))))) ∧
    (c.boot.command = none → exec .norCommandDone s = .next (s.after c)) ∧
    (∀ (tp tb ofs : Nat) (data : List Nat),
      ∀ x, x = (c.setBoot fun b => { b with command := none }) →
      (c.boot.command = some (.erase tp tb ofs) →
        exec .norCommandDone s = .next (s.after ((x.setImage tp tb ofs (List.replicate 0x10000 0xFF)).endUpdate 2 0))) ∧
      (c.boot.command = some (.program tp tb ofs data) →
        exec .norCommandDone s = .next (s.after
          (((x.setImage tp tb ofs data).setBoot fun b => { b with spoilt := putBit b.spoilt (2 * tp + tb) false }).endUpdate 2 0))) ∧
      (c.boot.command = some (.verify tp tb) →
        exec .norCommandDone s = .next (s.after
          (if x.imageValid tp tb then (x.setBoot fun b => { b with verified := putBit b.verified (2 * tp + tb) true }).endUpdate 2 0
          else x.endUpdate 4 4)))) ∧
    (∀ k : Nat, k = c.rd UPD_KH_SEL_index →
      (c.Accepts acc UPD_KH_CMD.addr 1 →
        exec (.keyHashEnrol acc) s = .next (s.after
          (if c.flag (UPD_KH_ST_enrolled.bitOf k) = true then c
          else (c.setFlag (UPD_KH_ST_enrolled.bitOf k) true).setBoot fun b =>
            { b with hashes := Sparse.set (fun _ => []) b.hashes k (c.regBytes UPD_KH_DATA_hash 48) }))) ∧
      (c.Accepts acc UPD_KH_CMD.addr 2 →
        exec (.keyHashRevoke acc) s = .next (s.after
          (if c.flag (UPD_KH_ST_enrolled.bitOf k) = true then c.setFlag (UPD_KH_ST_revoked.bitOf k) true else c))))

/-- Power good and the release of a held reset, the Stride edge with the controller die at work and without it, the keyed write of FAB_RST
with the widest kind it names, a reset that waits for its commit, RESET_N, the collapse of VIN, and the gating of cores. Otherwise nothing
changes. (From R20, R37, R467, R471–R475, R482, R483, R492, R496.) Rests on the model's choices in logs 15, 92, 93, 111 and 118. -/
def Obligations.ResetsAndBringUp : Prop :=
  ∀ (s : State) (acc : Access) (v : Nat) (start : StartInputs) (inp : StrideInputs),
    let c := s.chip
    (∀ x, x = ((c.put FAB_RST_CAUSE_cause 1).put FAB_RST_CAUSE_plane 0).checkStoredBlock →
      ∀ y, y = (x.setBoot fun b => { b with powered := false, held := b.refclkBad }) →
      exec (.powerGood start) s = .next (s.after
        (if c.boot.powered = true then (if y.boot.held then y else y.bringUp start) else c))) ∧
    exec (.resetRelease start) s = .next (s.after
      (if c.boot.held = true ∧ c.boot.powered = false then (c.setBoot fun b => { b with held := false, refclkBad := false }).bringUp start
      else c)) ∧
    (c.fold.running = true → ∀ x, x = (((c.settleAwait.newStride.portsSample inp).timeEdge).openSecond).sealEdge inp.sealMet →
      exec (.strideEdge inp) s = .next (s.after (((x.powerFailAge.safetyEdge inp).foldSchedule inp).ticks.unitsEdge inp))) ∧
    (c.fold.running = false →
      exec (.strideEdge inp) s = .next (s.after (if c.boot.powered = true then c else (c.crookAlone inp).switchesEdge inp))) ∧
    (let x := forN 4 (fun n d => d.canStrideEnd n) (c.settleAwait.advanceTo strideCycles)
     c.settleAwait.newStride.stride = x.strideNext.getD (x.stride + 1) ∧ c.settleAwait.newStride.strideNext = none ∧
      c.settleAwait.newStride.cycle = 0) ∧
    (∀ i : Instr, i = .planeResetCmd acc v ∨ i = .dieResetCmd acc v ∨ i = .moduleResetCmd acc v →
      c.Accepts acc FAB_RST.addr v →
      (v / 65536 % 65536 ≠ 0xC1A5 → exec i s = .next (s.after c)) ∧
      (v / 65536 % 65536 = 0xC1A5 →
        (v.testBit 9 = true → exec i s = .next (s.after (c.requestReset true 3 0))) ∧
        (v.testBit 9 = false → v.testBit 8 = true → exec i s = .next (s.after (c.requestReset false 4 0))) ∧
        (v.testBit 9 = false → v.testBit 8 = false →
          exec i s = .next (s.after
            (forN 4 (fun p c => if v.testBit p then c.planeReset p else c) c))))) ∧
    (c.boot.wanted.isSome = true → c.led.writing.isSome = true → ∀ p : Nat, c.planeReset p = c) ∧
    (c.boot.wanted = none → exec .controllerDieReset s = .next (s.after c)) ∧
    (∀ (module : Bool) (cause plane : Nat), c.boot.wanted = some (module, cause, plane) →
      exec .controllerDieReset s = .next (s.after
        (if c.led.resetDone = true ∨ c.flag LDG_STATUS_pfw = true ∨ c.flag LDG_STATUS_restored = false then
          (if module then c.resetDies else c.dieReset).resetCause cause plane
        else c))) ∧
    exec .resetNPin s = .next (s.after (c.resetDies.resetCause 2 0)) ∧
    exec .vinCollapse s = .next (s.after ((c.resetDies.clearFault 5 0x0120 0).setBoot fun b => { b with powered := true })) ∧
    (c.Accepts acc FAB_PWR.addr v →
      exec (.corePowerGate acc v) s = .next (s.after
        (let changed := (List.range 4).filter fun k => v.testBit k != (c.rd FAB_PWR_gate).testBit k
         let d := ((c.put FAB_PWR_gate v).put FAB_PWR_gated v).parkTargets ((changed.filter fun k => v.testBit k).map gatedTarget)
         d.onlineTargets (((changed.filter fun k => !v.testBit k).map gatedTarget).filter fun t =>
           d.rd (UPD_PL_ST_state (targetPlane t)) == 2))))

/-- The watchdogs of the planes and of S0, a lockstep error, memory errors, cap hits, supply overvoltage, loss of the reference clock,
overtemperature, and an insulation half-period that ends as its samples show: its settled value and fault, and after the second the
resistance, where both halves settled, with alarm, trip and release. Otherwise nothing changes. (From R35, R43, R312, R313, R325, R448,
R470, R492, R496, R498.) Rests on the model's choices in logs 70, 94, 112 and 115. -/
def Obligations.WatchdogsAndFaults : Prop :=
  ∀ (s : State) (t v p k mv : Nat),
    let c := s.chip
    (∀ x, x = ((c.setBoot fun b => { b with
        watchdogs := Sparse.set (fun _ => none) b.watchdogs (targetPlane t) (some 0)
        halves := putBit b.halves (targetPlane t) false }).setFlag (FAB_WDT_ST.bitOf (targetPlane t)) false) →
      exec (.watchdogService t v) s = .next (s.after
        (if t < 7 ∧ v = 0x5AFE ∧ (c.watchdog (targetPlane t)).isSome = true then
          (if targetPlane t = 2 then x.managementExpired false else x)
        else c))) ∧
    (c.watchdog p = none → exec (.watchdogHalf p) s = .next (s.after c) ∧ exec (.watchdogExpire p) s = .next (s.after c)) ∧
    (∀ age : Nat, c.watchdog p = some age →
      exec (.watchdogHalf p) s = .next (s.after
        (if c.watchdogTime p ≤ 2 * age ∧ c.boot.halves.testBit p = false then
          (planeTargets p).foldl (fun (c : Chip) t => c.firePrivate t 10) (c.setBoot fun b => { b with halves := putBit b.halves p true })
        else c)) ∧
      (∀ x, x = ((c.setBoot fun b => { b with watchdogs := Sparse.set (fun _ => none) b.watchdogs p none }).setFlag
          (FAB_WDT_ST.bitOf p) true).raiseEv fabPage 4 →
        ∀ y, y = (if p = 2 then x.managementExpired true else x) →
        exec (.watchdogExpire p) s = .next (s.after
          (if age < c.watchdogTime p then c
          else if y.flag (FAB_WDT_CFG_action p) then y.requestReset false 5 p else y.planeReset p)))) ∧
    exec .safetyWatchdogExpire s = .next (s.after
      (if c.saf.running0 = true ∧ c.saf.expired = false ∧ 80 ≤ c.saf.watchdog then
        (((((c.setSaf fun s => { s with expired := true }).setFlag (FAB_WDT_ST.bitOf 3) true).raiseEv fabPage 4).setLoad fun l =>
          { l with wdSafety := true }).watchdogsChanged.safetyPlaneFault unitWatchdog)
      else c)) ∧
    exec .lockstepError s = .next (s.after (c.safetyPlaneFault unitLockstep)) ∧
    (∀ meters : List Nat, ∀ x, x = c.setFault 5 0x0123 0 →
      exec (.eccUncorrectable .management) s = .next (s.after (x.requestReset false 6 0)) ∧
      exec (.eccUncorrectable .safety) s = .next (s.after (x.safetyPlaneFault unitEcc)) ∧
      exec (.eccUncorrectable (.fold meters)) s = .next (s.after
        (meters.foldl (fun (c : Chip) m => if m < c.variant.meters then c.setFault 3 0x0123 m else c) x)) ∧
      exec (.eccUncorrectable .other) s = .next (s.after x)) ∧
    exec (.correctedEccError (some t)) s = .next (s.after (if t < 8 then c.firePrivate t 11 else c)) ∧
    exec (.correctedEccError none) s = .next (s.after (c.incSat LDG_ECC_CNT_corrected)) ∧
    exec (.fabricCapHit k) s = .next (s.after
      (if k < 4 then ((c.incSat (FAB_CAPHIT_count k)).raiseEv fabPage 0).setFault 5 0x0124 k
      else if k < 6 then (c.incSat (FAB_CAPHIT_count k)).raiseEv fabPage 1 else c)) ∧
    exec (.vinOvervoltage mv) s = .next (s.after
      (if c.boot.powered = true then c else if 33000 < mv then c.setFault 5 0x0120 0 else if mv < 32000 then c.clearFault 5 0x0120 0 else c)) ∧
    (c.boot.powered = true ∨ c.boot.held = true →
      exec .refclkFault s = .next (s.after (c.setBoot fun b => { b with refclkBad := true }))) ∧
    (c.boot.powered = false → c.boot.held = false →
      ∃ u : State, exec .refclkFault s = .next u ∧ u.pending = s.pending ∧ u.chip.boot.refclkBad = true ∧
        (c.boot.wanted = none → u.chip.led.resetWanted = some c.stride) ∧
        (c.boot.wanted ≠ none → u.chip.boot.wanted = c.boot.wanted)) ∧
    exec .dieOvertemp s = .next (s.after (if 10 ≤ c.fold.dieHot then c.setFault 5 0x0121 0 else c)) ∧
    (∀ (i : Insulation) (uv ms : Nat) (settled : Bool), i = c.insulation k →
      (c.variant.ports / 4 ≤ k ∨ c.flag (IMD_STATUS_enabled k) = false ∨ c.saf.running0 = false ∨ i.ends uv ms settled = false →
        exec (.imdHalfPeriodEnd k uv ms settled) s = .next (s.after c)) ∧
      (k < c.variant.ports / 4 → c.flag (IMD_STATUS_enabled k) = true → c.saf.running0 = true → i.ends uv ms settled = true → ∀ x0, x0 = c.put (IMD_HALF_ms k) ms →
        ∀ x, x = ((if (imdOutside uv || !settled) = true then x0.imdFault k else x0).setInsulation k fun i =>
          { i with noValue := i.noValue || !settled }) →
        ∀ z, z = (x.setInsulation k fun i => { i with age := 0, negative := !i.negative }) →
        ((x.insulation k).negative = false → exec (.imdHalfPeriodEnd k uv ms settled) s = .next (s.after ((z.put (IMD_UM_POS_uv k) uv).settleSafety))) ∧
        ((x.insulation k).negative = true → ∀ y, y = z.put (IMD_UM_NEG_uv k) uv →
          ∀ r, r = y.insulationOf k (z.rd (IMD_UM_POS_uv k)) uv → ∀ fault, fault = (x.insulation k).unsettled →
          ∀ none, none = (x.insulation k).noValue →
          ∀ q, q = (if none = true then y else (y.put (IMD_RISO_kohm k) r.1).setFlag (IMD_STATUS_over k) r.2) →
          ∀ trip, trip = (if none = true then q.flag (IMD_STATUS_trip k) else decide (r.1 < q.spb (690 + 16 * k) 2)) →
          ∀ low, low = decide (r.1 < q.spb (688 + 16 * k) 2) →
          ∀ good, good = (if (trip || fault) = true then 0 else min 2 ((x.insulation k).good + 1)) →
          ∀ w, w = (q.setInsulation k fun i =>
            { i with
              unsettled := false, noValue := false
              alarms := if i.noValue = true then i.alarms else if low = true then min 2 (i.alarms + 1) else 0, good := good
              stopping := trip || fault || (i.stopping && good != 2) }) →
          ∀ alarm, alarm = ((w.insulation k).alarms == 2) →
          ∀ w1, w1 = (if (alarm && !w.flag (IMD_STATUS_alarm k)) = true then w.raiseEv (imdPage k) 0 else w) →
          ∀ w2, w2 = (if (trip && !w1.flag (IMD_STATUS_trip k)) = true then
              (w1.imdFlocks k).foldl (fun (c : Chip) f =>
                c.logSafety 7 4 f (c.flockState f) (c.flockState f) 2 0 (leBytes 4 r.1)) (w1.raiseEv (imdPage k) 1)
            else w1) →
          exec (.imdHalfPeriodEnd k uv ms settled) s = .next (s.after (((w2.showImd k alarm trip fault).raiseEv (imdPage k) 3).settleSafety)))))
end

