-- ==== Sys2Proof/Laws/State.lean ====
section
/-! SUPPORT. One lemma per field of the block and per update: what each named update leaves as it was, and what it writes. -/

namespace Sys2Proof.Machine

variable (c : Chip)

/-! ### setWord -/

@[simp] theorem Chip.setWord_variant (a : Nat) (w : Word) : (c.setWord a w).variant = c.variant := rfl
@[simp] theorem Chip.setWord_latch (a : Nat) (w : Word) : (c.setWord a w).latch = c.latch := rfl
@[simp] theorem Chip.setWord_rdata (a : Nat) (w : Word) : (c.setWord a w).rdata = c.rdata := rfl
@[simp] theorem Chip.setWord_mem (a : Nat) (w : Word) : (c.setWord a w).mem = c.mem := rfl
@[simp] theorem Chip.setWord_mram (a : Nat) (w : Word) : (c.setWord a w).mram = c.mram := rfl
@[simp] theorem Chip.setWord_stride (a : Nat) (w : Word) : (c.setWord a w).stride = c.stride := rfl
@[simp] theorem Chip.setWord_strideNext (a : Nat) (w : Word) : (c.setWord a w).strideNext = c.strideNext := rfl
@[simp] theorem Chip.setWord_cycle (a : Nat) (w : Word) : (c.setWord a w).cycle = c.cycle := rfl
@[simp] theorem Chip.setWord_lc (a : Nat) (w : Word) : (c.setWord a w).lc = c.lc := rfl
@[simp] theorem Chip.setWord_drawn (a : Nat) (w : Word) : (c.setWord a w).drawn = c.drawn := rfl
@[simp] theorem Chip.setWord_faults (a : Nat) (w : Word) : (c.setWord a w).faults = c.faults := rfl
@[simp] theorem Chip.setWord_stg (a : Nat) (w : Word) : (c.setWord a w).stg = c.stg := rfl
@[simp] theorem Chip.setWord_evc (a : Nat) (w : Word) : (c.setWord a w).evc = c.evc := rfl
@[simp] theorem Chip.setWord_tim (a : Nat) (w : Word) : (c.setWord a w).tim = c.tim := rfl
@[simp] theorem Chip.setWord_elements (a : Nat) (w : Word) : (c.setWord a w).elements = c.elements := rfl
@[simp] theorem Chip.setWord_meters (a : Nat) (w : Word) : (c.setWord a w).meters = c.meters := rfl
@[simp] theorem Chip.setWord_fold (a : Nat) (w : Word) : (c.setWord a w).fold = c.fold := rfl
@[simp] theorem Chip.setWord_trf (a : Nat) (w : Word) : (c.setWord a w).trf = c.trf := rfl
@[simp] theorem Chip.setWord_dmd (a : Nat) (w : Word) : (c.setWord a w).dmd = c.dmd := rfl
@[simp] theorem Chip.setWord_led (a : Nat) (w : Word) : (c.setWord a w).led = c.led := rfl
@[simp] theorem Chip.setWord_dsp (a : Nat) (w : Word) : (c.setWord a w).dsp = c.dsp := rfl
@[simp] theorem Chip.setWord_ports (a : Nat) (w : Word) : (c.setWord a w).ports = c.ports := rfl
@[simp] theorem Chip.setWord_can (a : Nat) (w : Word) : (c.setWord a w).can = c.can := rfl
@[simp] theorem Chip.setWord_load (a : Nat) (w : Word) : (c.setWord a w).load = c.load := rfl
@[simp] theorem Chip.setWord_saf (a : Nat) (w : Word) : (c.setWord a w).saf = c.saf := rfl
@[simp] theorem Chip.setWord_pair (a : Nat) (w : Word) : (c.setWord a w).pair = c.pair := rfl
@[simp] theorem Chip.setWord_net (a : Nat) (w : Word) : (c.setWord a w).net = c.net := rfl
@[simp] theorem Chip.setWord_mlk (a : Nat) (w : Word) : (c.setWord a w).mlk = c.mlk := rfl
@[simp] theorem Chip.setWord_tag (a : Nat) (w : Word) : (c.setWord a w).tag = c.tag := rfl
@[simp] theorem Chip.setWord_vlt (a : Nat) (w : Word) : (c.setWord a w).vlt = c.vlt := rfl
@[simp] theorem Chip.setWord_boot (a : Nat) (w : Word) : (c.setWord a w).boot = c.boot := rfl

/-! ### put -/

@[simp] theorem Chip.put_variant (f : Fld) (v : Nat) : (c.put f v).variant = c.variant := rfl
@[simp] theorem Chip.put_latch (f : Fld) (v : Nat) : (c.put f v).latch = c.latch := rfl
@[simp] theorem Chip.put_rdata (f : Fld) (v : Nat) : (c.put f v).rdata = c.rdata := rfl
@[simp] theorem Chip.put_mem (f : Fld) (v : Nat) : (c.put f v).mem = c.mem := rfl
@[simp] theorem Chip.put_mram (f : Fld) (v : Nat) : (c.put f v).mram = c.mram := rfl
@[simp] theorem Chip.put_stride (f : Fld) (v : Nat) : (c.put f v).stride = c.stride := rfl
@[simp] theorem Chip.put_strideNext (f : Fld) (v : Nat) : (c.put f v).strideNext = c.strideNext := rfl
@[simp] theorem Chip.put_cycle (f : Fld) (v : Nat) : (c.put f v).cycle = c.cycle := rfl
@[simp] theorem Chip.put_lc (f : Fld) (v : Nat) : (c.put f v).lc = c.lc := rfl
@[simp] theorem Chip.put_drawn (f : Fld) (v : Nat) : (c.put f v).drawn = c.drawn := rfl
@[simp] theorem Chip.put_faults (f : Fld) (v : Nat) : (c.put f v).faults = c.faults := rfl
@[simp] theorem Chip.put_stg (f : Fld) (v : Nat) : (c.put f v).stg = c.stg := rfl
@[simp] theorem Chip.put_evc (f : Fld) (v : Nat) : (c.put f v).evc = c.evc := rfl
@[simp] theorem Chip.put_tim (f : Fld) (v : Nat) : (c.put f v).tim = c.tim := rfl
@[simp] theorem Chip.put_elements (f : Fld) (v : Nat) : (c.put f v).elements = c.elements := rfl
@[simp] theorem Chip.put_meters (f : Fld) (v : Nat) : (c.put f v).meters = c.meters := rfl
@[simp] theorem Chip.put_fold (f : Fld) (v : Nat) : (c.put f v).fold = c.fold := rfl
@[simp] theorem Chip.put_trf (f : Fld) (v : Nat) : (c.put f v).trf = c.trf := rfl
@[simp] theorem Chip.put_dmd (f : Fld) (v : Nat) : (c.put f v).dmd = c.dmd := rfl
@[simp] theorem Chip.put_led (f : Fld) (v : Nat) : (c.put f v).led = c.led := rfl
@[simp] theorem Chip.put_dsp (f : Fld) (v : Nat) : (c.put f v).dsp = c.dsp := rfl
@[simp] theorem Chip.put_ports (f : Fld) (v : Nat) : (c.put f v).ports = c.ports := rfl
@[simp] theorem Chip.put_can (f : Fld) (v : Nat) : (c.put f v).can = c.can := rfl
@[simp] theorem Chip.put_load (f : Fld) (v : Nat) : (c.put f v).load = c.load := rfl
@[simp] theorem Chip.put_saf (f : Fld) (v : Nat) : (c.put f v).saf = c.saf := rfl
@[simp] theorem Chip.put_pair (f : Fld) (v : Nat) : (c.put f v).pair = c.pair := rfl
@[simp] theorem Chip.put_net (f : Fld) (v : Nat) : (c.put f v).net = c.net := rfl
@[simp] theorem Chip.put_mlk (f : Fld) (v : Nat) : (c.put f v).mlk = c.mlk := rfl
@[simp] theorem Chip.put_tag (f : Fld) (v : Nat) : (c.put f v).tag = c.tag := rfl
@[simp] theorem Chip.put_vlt (f : Fld) (v : Nat) : (c.put f v).vlt = c.vlt := rfl
@[simp] theorem Chip.put_boot (f : Fld) (v : Nat) : (c.put f v).boot = c.boot := rfl

/-! ### putS -/

@[simp] theorem Chip.putS_variant (f : Fld) (v : Int) : (c.putS f v).variant = c.variant := rfl
@[simp] theorem Chip.putS_latch (f : Fld) (v : Int) : (c.putS f v).latch = c.latch := rfl
@[simp] theorem Chip.putS_rdata (f : Fld) (v : Int) : (c.putS f v).rdata = c.rdata := rfl
@[simp] theorem Chip.putS_mem (f : Fld) (v : Int) : (c.putS f v).mem = c.mem := rfl
@[simp] theorem Chip.putS_mram (f : Fld) (v : Int) : (c.putS f v).mram = c.mram := rfl
@[simp] theorem Chip.putS_stride (f : Fld) (v : Int) : (c.putS f v).stride = c.stride := rfl
@[simp] theorem Chip.putS_strideNext (f : Fld) (v : Int) : (c.putS f v).strideNext = c.strideNext := rfl
@[simp] theorem Chip.putS_cycle (f : Fld) (v : Int) : (c.putS f v).cycle = c.cycle := rfl
@[simp] theorem Chip.putS_lc (f : Fld) (v : Int) : (c.putS f v).lc = c.lc := rfl
@[simp] theorem Chip.putS_drawn (f : Fld) (v : Int) : (c.putS f v).drawn = c.drawn := rfl
@[simp] theorem Chip.putS_faults (f : Fld) (v : Int) : (c.putS f v).faults = c.faults := rfl
@[simp] theorem Chip.putS_stg (f : Fld) (v : Int) : (c.putS f v).stg = c.stg := rfl
@[simp] theorem Chip.putS_evc (f : Fld) (v : Int) : (c.putS f v).evc = c.evc := rfl
@[simp] theorem Chip.putS_tim (f : Fld) (v : Int) : (c.putS f v).tim = c.tim := rfl
@[simp] theorem Chip.putS_elements (f : Fld) (v : Int) : (c.putS f v).elements = c.elements := rfl
@[simp] theorem Chip.putS_meters (f : Fld) (v : Int) : (c.putS f v).meters = c.meters := rfl
@[simp] theorem Chip.putS_fold (f : Fld) (v : Int) : (c.putS f v).fold = c.fold := rfl
@[simp] theorem Chip.putS_trf (f : Fld) (v : Int) : (c.putS f v).trf = c.trf := rfl
@[simp] theorem Chip.putS_dmd (f : Fld) (v : Int) : (c.putS f v).dmd = c.dmd := rfl
@[simp] theorem Chip.putS_led (f : Fld) (v : Int) : (c.putS f v).led = c.led := rfl
@[simp] theorem Chip.putS_dsp (f : Fld) (v : Int) : (c.putS f v).dsp = c.dsp := rfl
@[simp] theorem Chip.putS_ports (f : Fld) (v : Int) : (c.putS f v).ports = c.ports := rfl
@[simp] theorem Chip.putS_can (f : Fld) (v : Int) : (c.putS f v).can = c.can := rfl
@[simp] theorem Chip.putS_load (f : Fld) (v : Int) : (c.putS f v).load = c.load := rfl
@[simp] theorem Chip.putS_saf (f : Fld) (v : Int) : (c.putS f v).saf = c.saf := rfl
@[simp] theorem Chip.putS_pair (f : Fld) (v : Int) : (c.putS f v).pair = c.pair := rfl
@[simp] theorem Chip.putS_net (f : Fld) (v : Int) : (c.putS f v).net = c.net := rfl
@[simp] theorem Chip.putS_mlk (f : Fld) (v : Int) : (c.putS f v).mlk = c.mlk := rfl
@[simp] theorem Chip.putS_tag (f : Fld) (v : Int) : (c.putS f v).tag = c.tag := rfl
@[simp] theorem Chip.putS_vlt (f : Fld) (v : Int) : (c.putS f v).vlt = c.vlt := rfl
@[simp] theorem Chip.putS_boot (f : Fld) (v : Int) : (c.putS f v).boot = c.boot := rfl

/-! ### setFlag -/

@[simp] theorem Chip.setFlag_variant (f : Fld) (b : Bool) : (c.setFlag f b).variant = c.variant := rfl
@[simp] theorem Chip.setFlag_latch (f : Fld) (b : Bool) : (c.setFlag f b).latch = c.latch := rfl
@[simp] theorem Chip.setFlag_rdata (f : Fld) (b : Bool) : (c.setFlag f b).rdata = c.rdata := rfl
@[simp] theorem Chip.setFlag_mem (f : Fld) (b : Bool) : (c.setFlag f b).mem = c.mem := rfl
@[simp] theorem Chip.setFlag_mram (f : Fld) (b : Bool) : (c.setFlag f b).mram = c.mram := rfl
@[simp] theorem Chip.setFlag_stride (f : Fld) (b : Bool) : (c.setFlag f b).stride = c.stride := rfl
@[simp] theorem Chip.setFlag_strideNext (f : Fld) (b : Bool) : (c.setFlag f b).strideNext = c.strideNext := rfl
@[simp] theorem Chip.setFlag_cycle (f : Fld) (b : Bool) : (c.setFlag f b).cycle = c.cycle := rfl
@[simp] theorem Chip.setFlag_lc (f : Fld) (b : Bool) : (c.setFlag f b).lc = c.lc := rfl
@[simp] theorem Chip.setFlag_drawn (f : Fld) (b : Bool) : (c.setFlag f b).drawn = c.drawn := rfl
@[simp] theorem Chip.setFlag_faults (f : Fld) (b : Bool) : (c.setFlag f b).faults = c.faults := rfl
@[simp] theorem Chip.setFlag_stg (f : Fld) (b : Bool) : (c.setFlag f b).stg = c.stg := rfl
@[simp] theorem Chip.setFlag_evc (f : Fld) (b : Bool) : (c.setFlag f b).evc = c.evc := rfl
@[simp] theorem Chip.setFlag_tim (f : Fld) (b : Bool) : (c.setFlag f b).tim = c.tim := rfl
@[simp] theorem Chip.setFlag_elements (f : Fld) (b : Bool) : (c.setFlag f b).elements = c.elements := rfl
@[simp] theorem Chip.setFlag_meters (f : Fld) (b : Bool) : (c.setFlag f b).meters = c.meters := rfl
@[simp] theorem Chip.setFlag_fold (f : Fld) (b : Bool) : (c.setFlag f b).fold = c.fold := rfl
@[simp] theorem Chip.setFlag_trf (f : Fld) (b : Bool) : (c.setFlag f b).trf = c.trf := rfl
@[simp] theorem Chip.setFlag_dmd (f : Fld) (b : Bool) : (c.setFlag f b).dmd = c.dmd := rfl
@[simp] theorem Chip.setFlag_led (f : Fld) (b : Bool) : (c.setFlag f b).led = c.led := rfl
@[simp] theorem Chip.setFlag_dsp (f : Fld) (b : Bool) : (c.setFlag f b).dsp = c.dsp := rfl
@[simp] theorem Chip.setFlag_ports (f : Fld) (b : Bool) : (c.setFlag f b).ports = c.ports := rfl
@[simp] theorem Chip.setFlag_can (f : Fld) (b : Bool) : (c.setFlag f b).can = c.can := rfl
@[simp] theorem Chip.setFlag_load (f : Fld) (b : Bool) : (c.setFlag f b).load = c.load := rfl
@[simp] theorem Chip.setFlag_saf (f : Fld) (b : Bool) : (c.setFlag f b).saf = c.saf := rfl
@[simp] theorem Chip.setFlag_pair (f : Fld) (b : Bool) : (c.setFlag f b).pair = c.pair := rfl
@[simp] theorem Chip.setFlag_net (f : Fld) (b : Bool) : (c.setFlag f b).net = c.net := rfl
@[simp] theorem Chip.setFlag_mlk (f : Fld) (b : Bool) : (c.setFlag f b).mlk = c.mlk := rfl
@[simp] theorem Chip.setFlag_tag (f : Fld) (b : Bool) : (c.setFlag f b).tag = c.tag := rfl
@[simp] theorem Chip.setFlag_vlt (f : Fld) (b : Bool) : (c.setFlag f b).vlt = c.vlt := rfl
@[simp] theorem Chip.setFlag_boot (f : Fld) (b : Bool) : (c.setFlag f b).boot = c.boot := rfl

/-! ### put64 -/

@[simp] theorem Chip.put64_variant (lo hi : Fld) (v : Nat) : (c.put64 lo hi v).variant = c.variant := rfl
@[simp] theorem Chip.put64_latch (lo hi : Fld) (v : Nat) : (c.put64 lo hi v).latch = c.latch := rfl
@[simp] theorem Chip.put64_rdata (lo hi : Fld) (v : Nat) : (c.put64 lo hi v).rdata = c.rdata := rfl
@[simp] theorem Chip.put64_mem (lo hi : Fld) (v : Nat) : (c.put64 lo hi v).mem = c.mem := rfl
@[simp] theorem Chip.put64_mram (lo hi : Fld) (v : Nat) : (c.put64 lo hi v).mram = c.mram := rfl
@[simp] theorem Chip.put64_stride (lo hi : Fld) (v : Nat) : (c.put64 lo hi v).stride = c.stride := rfl
@[simp] theorem Chip.put64_strideNext (lo hi : Fld) (v : Nat) : (c.put64 lo hi v).strideNext = c.strideNext := rfl
@[simp] theorem Chip.put64_cycle (lo hi : Fld) (v : Nat) : (c.put64 lo hi v).cycle = c.cycle := rfl
@[simp] theorem Chip.put64_lc (lo hi : Fld) (v : Nat) : (c.put64 lo hi v).lc = c.lc := rfl
@[simp] theorem Chip.put64_drawn (lo hi : Fld) (v : Nat) : (c.put64 lo hi v).drawn = c.drawn := rfl
@[simp] theorem Chip.put64_faults (lo hi : Fld) (v : Nat) : (c.put64 lo hi v).faults = c.faults := rfl
@[simp] theorem Chip.put64_stg (lo hi : Fld) (v : Nat) : (c.put64 lo hi v).stg = c.stg := rfl
@[simp] theorem Chip.put64_evc (lo hi : Fld) (v : Nat) : (c.put64 lo hi v).evc = c.evc := rfl
@[simp] theorem Chip.put64_tim (lo hi : Fld) (v : Nat) : (c.put64 lo hi v).tim = c.tim := rfl
@[simp] theorem Chip.put64_elements (lo hi : Fld) (v : Nat) : (c.put64 lo hi v).elements = c.elements := rfl
@[simp] theorem Chip.put64_meters (lo hi : Fld) (v : Nat) : (c.put64 lo hi v).meters = c.meters := rfl
@[simp] theorem Chip.put64_fold (lo hi : Fld) (v : Nat) : (c.put64 lo hi v).fold = c.fold := rfl
@[simp] theorem Chip.put64_trf (lo hi : Fld) (v : Nat) : (c.put64 lo hi v).trf = c.trf := rfl
@[simp] theorem Chip.put64_dmd (lo hi : Fld) (v : Nat) : (c.put64 lo hi v).dmd = c.dmd := rfl
@[simp] theorem Chip.put64_led (lo hi : Fld) (v : Nat) : (c.put64 lo hi v).led = c.led := rfl
@[simp] theorem Chip.put64_dsp (lo hi : Fld) (v : Nat) : (c.put64 lo hi v).dsp = c.dsp := rfl
@[simp] theorem Chip.put64_ports (lo hi : Fld) (v : Nat) : (c.put64 lo hi v).ports = c.ports := rfl
@[simp] theorem Chip.put64_can (lo hi : Fld) (v : Nat) : (c.put64 lo hi v).can = c.can := rfl
@[simp] theorem Chip.put64_load (lo hi : Fld) (v : Nat) : (c.put64 lo hi v).load = c.load := rfl
@[simp] theorem Chip.put64_saf (lo hi : Fld) (v : Nat) : (c.put64 lo hi v).saf = c.saf := rfl
@[simp] theorem Chip.put64_pair (lo hi : Fld) (v : Nat) : (c.put64 lo hi v).pair = c.pair := rfl
@[simp] theorem Chip.put64_net (lo hi : Fld) (v : Nat) : (c.put64 lo hi v).net = c.net := rfl
@[simp] theorem Chip.put64_mlk (lo hi : Fld) (v : Nat) : (c.put64 lo hi v).mlk = c.mlk := rfl
@[simp] theorem Chip.put64_tag (lo hi : Fld) (v : Nat) : (c.put64 lo hi v).tag = c.tag := rfl
@[simp] theorem Chip.put64_vlt (lo hi : Fld) (v : Nat) : (c.put64 lo hi v).vlt = c.vlt := rfl
@[simp] theorem Chip.put64_boot (lo hi : Fld) (v : Nat) : (c.put64 lo hi v).boot = c.boot := rfl

/-! ### inc -/

@[simp] theorem Chip.inc_variant (f : Fld) : (c.inc f).variant = c.variant := rfl
@[simp] theorem Chip.inc_latch (f : Fld) : (c.inc f).latch = c.latch := rfl
@[simp] theorem Chip.inc_rdata (f : Fld) : (c.inc f).rdata = c.rdata := rfl
@[simp] theorem Chip.inc_mem (f : Fld) : (c.inc f).mem = c.mem := rfl
@[simp] theorem Chip.inc_mram (f : Fld) : (c.inc f).mram = c.mram := rfl
@[simp] theorem Chip.inc_stride (f : Fld) : (c.inc f).stride = c.stride := rfl
@[simp] theorem Chip.inc_strideNext (f : Fld) : (c.inc f).strideNext = c.strideNext := rfl
@[simp] theorem Chip.inc_cycle (f : Fld) : (c.inc f).cycle = c.cycle := rfl
@[simp] theorem Chip.inc_lc (f : Fld) : (c.inc f).lc = c.lc := rfl
@[simp] theorem Chip.inc_drawn (f : Fld) : (c.inc f).drawn = c.drawn := rfl
@[simp] theorem Chip.inc_faults (f : Fld) : (c.inc f).faults = c.faults := rfl
@[simp] theorem Chip.inc_stg (f : Fld) : (c.inc f).stg = c.stg := rfl
@[simp] theorem Chip.inc_evc (f : Fld) : (c.inc f).evc = c.evc := rfl
@[simp] theorem Chip.inc_tim (f : Fld) : (c.inc f).tim = c.tim := rfl
@[simp] theorem Chip.inc_elements (f : Fld) : (c.inc f).elements = c.elements := rfl
@[simp] theorem Chip.inc_meters (f : Fld) : (c.inc f).meters = c.meters := rfl
@[simp] theorem Chip.inc_fold (f : Fld) : (c.inc f).fold = c.fold := rfl
@[simp] theorem Chip.inc_trf (f : Fld) : (c.inc f).trf = c.trf := rfl
@[simp] theorem Chip.inc_dmd (f : Fld) : (c.inc f).dmd = c.dmd := rfl
@[simp] theorem Chip.inc_led (f : Fld) : (c.inc f).led = c.led := rfl
@[simp] theorem Chip.inc_dsp (f : Fld) : (c.inc f).dsp = c.dsp := rfl
@[simp] theorem Chip.inc_ports (f : Fld) : (c.inc f).ports = c.ports := rfl
@[simp] theorem Chip.inc_can (f : Fld) : (c.inc f).can = c.can := rfl
@[simp] theorem Chip.inc_load (f : Fld) : (c.inc f).load = c.load := rfl
@[simp] theorem Chip.inc_saf (f : Fld) : (c.inc f).saf = c.saf := rfl
@[simp] theorem Chip.inc_pair (f : Fld) : (c.inc f).pair = c.pair := rfl
@[simp] theorem Chip.inc_net (f : Fld) : (c.inc f).net = c.net := rfl
@[simp] theorem Chip.inc_mlk (f : Fld) : (c.inc f).mlk = c.mlk := rfl
@[simp] theorem Chip.inc_tag (f : Fld) : (c.inc f).tag = c.tag := rfl
@[simp] theorem Chip.inc_vlt (f : Fld) : (c.inc f).vlt = c.vlt := rfl
@[simp] theorem Chip.inc_boot (f : Fld) : (c.inc f).boot = c.boot := rfl

/-! ### incSat -/

@[simp] theorem Chip.incSat_variant (f : Fld) : (c.incSat f).variant = c.variant := rfl
@[simp] theorem Chip.incSat_latch (f : Fld) : (c.incSat f).latch = c.latch := rfl
@[simp] theorem Chip.incSat_rdata (f : Fld) : (c.incSat f).rdata = c.rdata := rfl
@[simp] theorem Chip.incSat_mem (f : Fld) : (c.incSat f).mem = c.mem := rfl
@[simp] theorem Chip.incSat_mram (f : Fld) : (c.incSat f).mram = c.mram := rfl
@[simp] theorem Chip.incSat_stride (f : Fld) : (c.incSat f).stride = c.stride := rfl
@[simp] theorem Chip.incSat_strideNext (f : Fld) : (c.incSat f).strideNext = c.strideNext := rfl
@[simp] theorem Chip.incSat_cycle (f : Fld) : (c.incSat f).cycle = c.cycle := rfl
@[simp] theorem Chip.incSat_lc (f : Fld) : (c.incSat f).lc = c.lc := rfl
@[simp] theorem Chip.incSat_drawn (f : Fld) : (c.incSat f).drawn = c.drawn := rfl
@[simp] theorem Chip.incSat_faults (f : Fld) : (c.incSat f).faults = c.faults := rfl
@[simp] theorem Chip.incSat_stg (f : Fld) : (c.incSat f).stg = c.stg := rfl
@[simp] theorem Chip.incSat_evc (f : Fld) : (c.incSat f).evc = c.evc := rfl
@[simp] theorem Chip.incSat_tim (f : Fld) : (c.incSat f).tim = c.tim := rfl
@[simp] theorem Chip.incSat_elements (f : Fld) : (c.incSat f).elements = c.elements := rfl
@[simp] theorem Chip.incSat_meters (f : Fld) : (c.incSat f).meters = c.meters := rfl
@[simp] theorem Chip.incSat_fold (f : Fld) : (c.incSat f).fold = c.fold := rfl
@[simp] theorem Chip.incSat_trf (f : Fld) : (c.incSat f).trf = c.trf := rfl
@[simp] theorem Chip.incSat_dmd (f : Fld) : (c.incSat f).dmd = c.dmd := rfl
@[simp] theorem Chip.incSat_led (f : Fld) : (c.incSat f).led = c.led := rfl
@[simp] theorem Chip.incSat_dsp (f : Fld) : (c.incSat f).dsp = c.dsp := rfl
@[simp] theorem Chip.incSat_ports (f : Fld) : (c.incSat f).ports = c.ports := rfl
@[simp] theorem Chip.incSat_can (f : Fld) : (c.incSat f).can = c.can := rfl
@[simp] theorem Chip.incSat_load (f : Fld) : (c.incSat f).load = c.load := rfl
@[simp] theorem Chip.incSat_saf (f : Fld) : (c.incSat f).saf = c.saf := rfl
@[simp] theorem Chip.incSat_pair (f : Fld) : (c.incSat f).pair = c.pair := rfl
@[simp] theorem Chip.incSat_net (f : Fld) : (c.incSat f).net = c.net := rfl
@[simp] theorem Chip.incSat_mlk (f : Fld) : (c.incSat f).mlk = c.mlk := rfl
@[simp] theorem Chip.incSat_tag (f : Fld) : (c.incSat f).tag = c.tag := rfl
@[simp] theorem Chip.incSat_vlt (f : Fld) : (c.incSat f).vlt = c.vlt := rfl
@[simp] theorem Chip.incSat_boot (f : Fld) : (c.incSat f).boot = c.boot := rfl

/-! ### setElem -/

@[simp] theorem Chip.setElem_variant (n : Nat) (e : Element) : (c.setElem n e).variant = c.variant := rfl
@[simp] theorem Chip.setElem_regs (n : Nat) (e : Element) : (c.setElem n e).regs = c.regs := rfl
@[simp] theorem Chip.setElem_latch (n : Nat) (e : Element) : (c.setElem n e).latch = c.latch := rfl
@[simp] theorem Chip.setElem_rdata (n : Nat) (e : Element) : (c.setElem n e).rdata = c.rdata := rfl
@[simp] theorem Chip.setElem_mem (n : Nat) (e : Element) : (c.setElem n e).mem = c.mem := rfl
@[simp] theorem Chip.setElem_mram (n : Nat) (e : Element) : (c.setElem n e).mram = c.mram := rfl
@[simp] theorem Chip.setElem_stride (n : Nat) (e : Element) : (c.setElem n e).stride = c.stride := rfl
@[simp] theorem Chip.setElem_strideNext (n : Nat) (e : Element) : (c.setElem n e).strideNext = c.strideNext := rfl
@[simp] theorem Chip.setElem_cycle (n : Nat) (e : Element) : (c.setElem n e).cycle = c.cycle := rfl
@[simp] theorem Chip.setElem_lc (n : Nat) (e : Element) : (c.setElem n e).lc = c.lc := rfl
@[simp] theorem Chip.setElem_drawn (n : Nat) (e : Element) : (c.setElem n e).drawn = c.drawn := rfl
@[simp] theorem Chip.setElem_faults (n : Nat) (e : Element) : (c.setElem n e).faults = c.faults := rfl
@[simp] theorem Chip.setElem_stg (n : Nat) (e : Element) : (c.setElem n e).stg = c.stg := rfl
@[simp] theorem Chip.setElem_evc (n : Nat) (e : Element) : (c.setElem n e).evc = c.evc := rfl
@[simp] theorem Chip.setElem_tim (n : Nat) (e : Element) : (c.setElem n e).tim = c.tim := rfl
@[simp] theorem Chip.setElem_elements (n : Nat) (e : Element) : (c.setElem n e).elements = Sparse.set (fun _ => {}) c.elements n e := rfl
@[simp] theorem Chip.setElem_meters (n : Nat) (e : Element) : (c.setElem n e).meters = c.meters := rfl
@[simp] theorem Chip.setElem_fold (n : Nat) (e : Element) : (c.setElem n e).fold = c.fold := rfl
@[simp] theorem Chip.setElem_trf (n : Nat) (e : Element) : (c.setElem n e).trf = c.trf := rfl
@[simp] theorem Chip.setElem_dmd (n : Nat) (e : Element) : (c.setElem n e).dmd = c.dmd := rfl
@[simp] theorem Chip.setElem_led (n : Nat) (e : Element) : (c.setElem n e).led = c.led := rfl
@[simp] theorem Chip.setElem_dsp (n : Nat) (e : Element) : (c.setElem n e).dsp = c.dsp := rfl
@[simp] theorem Chip.setElem_ports (n : Nat) (e : Element) : (c.setElem n e).ports = c.ports := rfl
@[simp] theorem Chip.setElem_can (n : Nat) (e : Element) : (c.setElem n e).can = c.can := rfl
@[simp] theorem Chip.setElem_load (n : Nat) (e : Element) : (c.setElem n e).load = c.load := rfl
@[simp] theorem Chip.setElem_saf (n : Nat) (e : Element) : (c.setElem n e).saf = c.saf := rfl
@[simp] theorem Chip.setElem_pair (n : Nat) (e : Element) : (c.setElem n e).pair = c.pair := rfl
@[simp] theorem Chip.setElem_net (n : Nat) (e : Element) : (c.setElem n e).net = c.net := rfl
@[simp] theorem Chip.setElem_mlk (n : Nat) (e : Element) : (c.setElem n e).mlk = c.mlk := rfl
@[simp] theorem Chip.setElem_tag (n : Nat) (e : Element) : (c.setElem n e).tag = c.tag := rfl
@[simp] theorem Chip.setElem_vlt (n : Nat) (e : Element) : (c.setElem n e).vlt = c.vlt := rfl
@[simp] theorem Chip.setElem_boot (n : Nat) (e : Element) : (c.setElem n e).boot = c.boot := rfl

/-! ### setMeter -/

@[simp] theorem Chip.setMeter_variant (m : Nat) (x : Meter) : (c.setMeter m x).variant = c.variant := rfl
@[simp] theorem Chip.setMeter_regs (m : Nat) (x : Meter) : (c.setMeter m x).regs = c.regs := rfl
@[simp] theorem Chip.setMeter_latch (m : Nat) (x : Meter) : (c.setMeter m x).latch = c.latch := rfl
@[simp] theorem Chip.setMeter_rdata (m : Nat) (x : Meter) : (c.setMeter m x).rdata = c.rdata := rfl
@[simp] theorem Chip.setMeter_mem (m : Nat) (x : Meter) : (c.setMeter m x).mem = c.mem := rfl
@[simp] theorem Chip.setMeter_mram (m : Nat) (x : Meter) : (c.setMeter m x).mram = c.mram := rfl
@[simp] theorem Chip.setMeter_stride (m : Nat) (x : Meter) : (c.setMeter m x).stride = c.stride := rfl
@[simp] theorem Chip.setMeter_strideNext (m : Nat) (x : Meter) : (c.setMeter m x).strideNext = c.strideNext := rfl
@[simp] theorem Chip.setMeter_cycle (m : Nat) (x : Meter) : (c.setMeter m x).cycle = c.cycle := rfl
@[simp] theorem Chip.setMeter_lc (m : Nat) (x : Meter) : (c.setMeter m x).lc = c.lc := rfl
@[simp] theorem Chip.setMeter_drawn (m : Nat) (x : Meter) : (c.setMeter m x).drawn = c.drawn := rfl
@[simp] theorem Chip.setMeter_faults (m : Nat) (x : Meter) : (c.setMeter m x).faults = c.faults := rfl
@[simp] theorem Chip.setMeter_stg (m : Nat) (x : Meter) : (c.setMeter m x).stg = c.stg := rfl
@[simp] theorem Chip.setMeter_evc (m : Nat) (x : Meter) : (c.setMeter m x).evc = c.evc := rfl
@[simp] theorem Chip.setMeter_tim (m : Nat) (x : Meter) : (c.setMeter m x).tim = c.tim := rfl
@[simp] theorem Chip.setMeter_elements (m : Nat) (x : Meter) : (c.setMeter m x).elements = c.elements := rfl
@[simp] theorem Chip.setMeter_meters (m : Nat) (x : Meter) : (c.setMeter m x).meters = Sparse.set (fun _ => {}) c.meters m x := rfl
@[simp] theorem Chip.setMeter_fold (m : Nat) (x : Meter) : (c.setMeter m x).fold = c.fold := rfl
@[simp] theorem Chip.setMeter_trf (m : Nat) (x : Meter) : (c.setMeter m x).trf = c.trf := rfl
@[simp] theorem Chip.setMeter_dmd (m : Nat) (x : Meter) : (c.setMeter m x).dmd = c.dmd := rfl
@[simp] theorem Chip.setMeter_led (m : Nat) (x : Meter) : (c.setMeter m x).led = c.led := rfl
@[simp] theorem Chip.setMeter_dsp (m : Nat) (x : Meter) : (c.setMeter m x).dsp = c.dsp := rfl
@[simp] theorem Chip.setMeter_ports (m : Nat) (x : Meter) : (c.setMeter m x).ports = c.ports := rfl
@[simp] theorem Chip.setMeter_can (m : Nat) (x : Meter) : (c.setMeter m x).can = c.can := rfl
@[simp] theorem Chip.setMeter_load (m : Nat) (x : Meter) : (c.setMeter m x).load = c.load := rfl
@[simp] theorem Chip.setMeter_saf (m : Nat) (x : Meter) : (c.setMeter m x).saf = c.saf := rfl
@[simp] theorem Chip.setMeter_pair (m : Nat) (x : Meter) : (c.setMeter m x).pair = c.pair := rfl
@[simp] theorem Chip.setMeter_net (m : Nat) (x : Meter) : (c.setMeter m x).net = c.net := rfl
@[simp] theorem Chip.setMeter_mlk (m : Nat) (x : Meter) : (c.setMeter m x).mlk = c.mlk := rfl
@[simp] theorem Chip.setMeter_tag (m : Nat) (x : Meter) : (c.setMeter m x).tag = c.tag := rfl
@[simp] theorem Chip.setMeter_vlt (m : Nat) (x : Meter) : (c.setMeter m x).vlt = c.vlt := rfl
@[simp] theorem Chip.setMeter_boot (m : Nat) (x : Meter) : (c.setMeter m x).boot = c.boot := rfl

/-! ### setBytes -/

@[simp] theorem Chip.setBytes_variant (a : Nat) (bs : List Nat) : (c.setBytes a bs).variant = c.variant := rfl
@[simp] theorem Chip.setBytes_regs (a : Nat) (bs : List Nat) : (c.setBytes a bs).regs = c.regs := rfl
@[simp] theorem Chip.setBytes_latch (a : Nat) (bs : List Nat) : (c.setBytes a bs).latch = c.latch := rfl
@[simp] theorem Chip.setBytes_rdata (a : Nat) (bs : List Nat) : (c.setBytes a bs).rdata = c.rdata := rfl
@[simp] theorem Chip.setBytes_mem (a : Nat) (bs : List Nat) : (c.setBytes a bs).mem = Memory.write c.mem a bs := rfl
@[simp] theorem Chip.setBytes_mram (a : Nat) (bs : List Nat) : (c.setBytes a bs).mram = c.mram := rfl
@[simp] theorem Chip.setBytes_stride (a : Nat) (bs : List Nat) : (c.setBytes a bs).stride = c.stride := rfl
@[simp] theorem Chip.setBytes_strideNext (a : Nat) (bs : List Nat) : (c.setBytes a bs).strideNext = c.strideNext := rfl
@[simp] theorem Chip.setBytes_cycle (a : Nat) (bs : List Nat) : (c.setBytes a bs).cycle = c.cycle := rfl
@[simp] theorem Chip.setBytes_lc (a : Nat) (bs : List Nat) : (c.setBytes a bs).lc = c.lc := rfl
@[simp] theorem Chip.setBytes_drawn (a : Nat) (bs : List Nat) : (c.setBytes a bs).drawn = c.drawn := rfl
@[simp] theorem Chip.setBytes_faults (a : Nat) (bs : List Nat) : (c.setBytes a bs).faults = c.faults := rfl
@[simp] theorem Chip.setBytes_stg (a : Nat) (bs : List Nat) : (c.setBytes a bs).stg = c.stg := rfl
@[simp] theorem Chip.setBytes_evc (a : Nat) (bs : List Nat) : (c.setBytes a bs).evc = c.evc := rfl
@[simp] theorem Chip.setBytes_tim (a : Nat) (bs : List Nat) : (c.setBytes a bs).tim = c.tim := rfl
@[simp] theorem Chip.setBytes_elements (a : Nat) (bs : List Nat) : (c.setBytes a bs).elements = c.elements := rfl
@[simp] theorem Chip.setBytes_meters (a : Nat) (bs : List Nat) : (c.setBytes a bs).meters = c.meters := rfl
@[simp] theorem Chip.setBytes_fold (a : Nat) (bs : List Nat) : (c.setBytes a bs).fold = c.fold := rfl
@[simp] theorem Chip.setBytes_trf (a : Nat) (bs : List Nat) : (c.setBytes a bs).trf = c.trf := rfl
@[simp] theorem Chip.setBytes_dmd (a : Nat) (bs : List Nat) : (c.setBytes a bs).dmd = c.dmd := rfl
@[simp] theorem Chip.setBytes_led (a : Nat) (bs : List Nat) : (c.setBytes a bs).led = c.led := rfl
@[simp] theorem Chip.setBytes_dsp (a : Nat) (bs : List Nat) : (c.setBytes a bs).dsp = c.dsp := rfl
@[simp] theorem Chip.setBytes_ports (a : Nat) (bs : List Nat) : (c.setBytes a bs).ports = c.ports := rfl
@[simp] theorem Chip.setBytes_can (a : Nat) (bs : List Nat) : (c.setBytes a bs).can = c.can := rfl
@[simp] theorem Chip.setBytes_load (a : Nat) (bs : List Nat) : (c.setBytes a bs).load = c.load := rfl
@[simp] theorem Chip.setBytes_saf (a : Nat) (bs : List Nat) : (c.setBytes a bs).saf = c.saf := rfl
@[simp] theorem Chip.setBytes_pair (a : Nat) (bs : List Nat) : (c.setBytes a bs).pair = c.pair := rfl
@[simp] theorem Chip.setBytes_net (a : Nat) (bs : List Nat) : (c.setBytes a bs).net = c.net := rfl
@[simp] theorem Chip.setBytes_mlk (a : Nat) (bs : List Nat) : (c.setBytes a bs).mlk = c.mlk := rfl
@[simp] theorem Chip.setBytes_tag (a : Nat) (bs : List Nat) : (c.setBytes a bs).tag = c.tag := rfl
@[simp] theorem Chip.setBytes_vlt (a : Nat) (bs : List Nat) : (c.setBytes a bs).vlt = c.vlt := rfl
@[simp] theorem Chip.setBytes_boot (a : Nat) (bs : List Nat) : (c.setBytes a bs).boot = c.boot := rfl

/-! ### store -/

@[simp] theorem Chip.store_variant (a : Nat) (bs : List Nat) : (c.store a bs).variant = c.variant := rfl
@[simp] theorem Chip.store_regs (a : Nat) (bs : List Nat) : (c.store a bs).regs = c.regs := rfl
@[simp] theorem Chip.store_latch (a : Nat) (bs : List Nat) : (c.store a bs).latch = c.latch := rfl
@[simp] theorem Chip.store_rdata (a : Nat) (bs : List Nat) : (c.store a bs).rdata = c.rdata := rfl
@[simp] theorem Chip.store_mem (a : Nat) (bs : List Nat) : (c.store a bs).mem = c.mem := rfl
@[simp] theorem Chip.store_mram (a : Nat) (bs : List Nat) : (c.store a bs).mram = Memory.write c.mram a bs := rfl
@[simp] theorem Chip.store_stride (a : Nat) (bs : List Nat) : (c.store a bs).stride = c.stride := rfl
@[simp] theorem Chip.store_strideNext (a : Nat) (bs : List Nat) : (c.store a bs).strideNext = c.strideNext := rfl
@[simp] theorem Chip.store_cycle (a : Nat) (bs : List Nat) : (c.store a bs).cycle = c.cycle := rfl
@[simp] theorem Chip.store_lc (a : Nat) (bs : List Nat) : (c.store a bs).lc = c.lc := rfl
@[simp] theorem Chip.store_drawn (a : Nat) (bs : List Nat) : (c.store a bs).drawn = c.drawn := rfl
@[simp] theorem Chip.store_faults (a : Nat) (bs : List Nat) : (c.store a bs).faults = c.faults := rfl
@[simp] theorem Chip.store_stg (a : Nat) (bs : List Nat) : (c.store a bs).stg = c.stg := rfl
@[simp] theorem Chip.store_evc (a : Nat) (bs : List Nat) : (c.store a bs).evc = c.evc := rfl
@[simp] theorem Chip.store_tim (a : Nat) (bs : List Nat) : (c.store a bs).tim = c.tim := rfl
@[simp] theorem Chip.store_elements (a : Nat) (bs : List Nat) : (c.store a bs).elements = c.elements := rfl
@[simp] theorem Chip.store_meters (a : Nat) (bs : List Nat) : (c.store a bs).meters = c.meters := rfl
@[simp] theorem Chip.store_fold (a : Nat) (bs : List Nat) : (c.store a bs).fold = c.fold := rfl
@[simp] theorem Chip.store_trf (a : Nat) (bs : List Nat) : (c.store a bs).trf = c.trf := rfl
@[simp] theorem Chip.store_dmd (a : Nat) (bs : List Nat) : (c.store a bs).dmd = c.dmd := rfl
@[simp] theorem Chip.store_spoilt (a : Nat) (bs : List Nat) : (c.store a bs).led.spoilt =
    c.led.spoilt.filter fun w => !(decide (a < w + 8) && decide (w < a + bs.length)) := rfl
@[simp] theorem Chip.store_dsp (a : Nat) (bs : List Nat) : (c.store a bs).dsp = c.dsp := rfl
@[simp] theorem Chip.store_ports (a : Nat) (bs : List Nat) : (c.store a bs).ports = c.ports := rfl
@[simp] theorem Chip.store_can (a : Nat) (bs : List Nat) : (c.store a bs).can = c.can := rfl
@[simp] theorem Chip.store_load (a : Nat) (bs : List Nat) : (c.store a bs).load = c.load := rfl
@[simp] theorem Chip.store_saf (a : Nat) (bs : List Nat) : (c.store a bs).saf = c.saf := rfl
@[simp] theorem Chip.store_pair (a : Nat) (bs : List Nat) : (c.store a bs).pair = c.pair := rfl
@[simp] theorem Chip.store_net (a : Nat) (bs : List Nat) : (c.store a bs).net = c.net := rfl
@[simp] theorem Chip.store_mlk (a : Nat) (bs : List Nat) : (c.store a bs).mlk = c.mlk := rfl
@[simp] theorem Chip.store_tag (a : Nat) (bs : List Nat) : (c.store a bs).tag = c.tag := rfl
@[simp] theorem Chip.store_vlt (a : Nat) (bs : List Nat) : (c.store a bs).vlt = c.vlt := rfl
@[simp] theorem Chip.store_boot (a : Nat) (bs : List Nat) : (c.store a bs).boot = c.boot := rfl

/-! ### setSlot -/

@[simp] theorem Chip.setSlot_variant (p : Nat) (x : StageSlot) : (c.setSlot p x).variant = c.variant := rfl
@[simp] theorem Chip.setSlot_regs (p : Nat) (x : StageSlot) : (c.setSlot p x).regs = c.regs := rfl
@[simp] theorem Chip.setSlot_latch (p : Nat) (x : StageSlot) : (c.setSlot p x).latch = c.latch := rfl
@[simp] theorem Chip.setSlot_rdata (p : Nat) (x : StageSlot) : (c.setSlot p x).rdata = c.rdata := rfl
@[simp] theorem Chip.setSlot_mem (p : Nat) (x : StageSlot) : (c.setSlot p x).mem = c.mem := rfl
@[simp] theorem Chip.setSlot_mram (p : Nat) (x : StageSlot) : (c.setSlot p x).mram = c.mram := rfl
@[simp] theorem Chip.setSlot_stride (p : Nat) (x : StageSlot) : (c.setSlot p x).stride = c.stride := rfl
@[simp] theorem Chip.setSlot_strideNext (p : Nat) (x : StageSlot) : (c.setSlot p x).strideNext = c.strideNext := rfl
@[simp] theorem Chip.setSlot_cycle (p : Nat) (x : StageSlot) : (c.setSlot p x).cycle = c.cycle := rfl
@[simp] theorem Chip.setSlot_lc (p : Nat) (x : StageSlot) : (c.setSlot p x).lc = c.lc := rfl
@[simp] theorem Chip.setSlot_drawn (p : Nat) (x : StageSlot) : (c.setSlot p x).drawn = c.drawn := rfl
@[simp] theorem Chip.setSlot_faults (p : Nat) (x : StageSlot) : (c.setSlot p x).faults = c.faults := rfl
@[simp] theorem Chip.setSlot_evc (p : Nat) (x : StageSlot) : (c.setSlot p x).evc = c.evc := rfl
@[simp] theorem Chip.setSlot_tim (p : Nat) (x : StageSlot) : (c.setSlot p x).tim = c.tim := rfl
@[simp] theorem Chip.setSlot_elements (p : Nat) (x : StageSlot) : (c.setSlot p x).elements = c.elements := rfl
@[simp] theorem Chip.setSlot_meters (p : Nat) (x : StageSlot) : (c.setSlot p x).meters = c.meters := rfl
@[simp] theorem Chip.setSlot_fold (p : Nat) (x : StageSlot) : (c.setSlot p x).fold = c.fold := rfl
@[simp] theorem Chip.setSlot_trf (p : Nat) (x : StageSlot) : (c.setSlot p x).trf = c.trf := rfl
@[simp] theorem Chip.setSlot_dmd (p : Nat) (x : StageSlot) : (c.setSlot p x).dmd = c.dmd := rfl
@[simp] theorem Chip.setSlot_led (p : Nat) (x : StageSlot) : (c.setSlot p x).led = c.led := rfl
@[simp] theorem Chip.setSlot_dsp (p : Nat) (x : StageSlot) : (c.setSlot p x).dsp = c.dsp := rfl
@[simp] theorem Chip.setSlot_ports (p : Nat) (x : StageSlot) : (c.setSlot p x).ports = c.ports := rfl
@[simp] theorem Chip.setSlot_can (p : Nat) (x : StageSlot) : (c.setSlot p x).can = c.can := rfl
@[simp] theorem Chip.setSlot_load (p : Nat) (x : StageSlot) : (c.setSlot p x).load = c.load := rfl
@[simp] theorem Chip.setSlot_saf (p : Nat) (x : StageSlot) : (c.setSlot p x).saf = c.saf := rfl
@[simp] theorem Chip.setSlot_pair (p : Nat) (x : StageSlot) : (c.setSlot p x).pair = c.pair := rfl
@[simp] theorem Chip.setSlot_net (p : Nat) (x : StageSlot) : (c.setSlot p x).net = c.net := rfl
@[simp] theorem Chip.setSlot_mlk (p : Nat) (x : StageSlot) : (c.setSlot p x).mlk = c.mlk := rfl
@[simp] theorem Chip.setSlot_tag (p : Nat) (x : StageSlot) : (c.setSlot p x).tag = c.tag := rfl
@[simp] theorem Chip.setSlot_vlt (p : Nat) (x : StageSlot) : (c.setSlot p x).vlt = c.vlt := rfl
@[simp] theorem Chip.setSlot_boot (p : Nat) (x : StageSlot) : (c.setSlot p x).boot = c.boot := rfl

/-! ### setTim -/

@[simp] theorem Chip.setTim_variant (g : TimeUnit → TimeUnit) : (c.setTim g).variant = c.variant := rfl
@[simp] theorem Chip.setTim_regs (g : TimeUnit → TimeUnit) : (c.setTim g).regs = c.regs := rfl
@[simp] theorem Chip.setTim_latch (g : TimeUnit → TimeUnit) : (c.setTim g).latch = c.latch := rfl
@[simp] theorem Chip.setTim_rdata (g : TimeUnit → TimeUnit) : (c.setTim g).rdata = c.rdata := rfl
@[simp] theorem Chip.setTim_mem (g : TimeUnit → TimeUnit) : (c.setTim g).mem = c.mem := rfl
@[simp] theorem Chip.setTim_mram (g : TimeUnit → TimeUnit) : (c.setTim g).mram = c.mram := rfl
@[simp] theorem Chip.setTim_stride (g : TimeUnit → TimeUnit) : (c.setTim g).stride = c.stride := rfl
@[simp] theorem Chip.setTim_strideNext (g : TimeUnit → TimeUnit) : (c.setTim g).strideNext = c.strideNext := rfl
@[simp] theorem Chip.setTim_cycle (g : TimeUnit → TimeUnit) : (c.setTim g).cycle = c.cycle := rfl
@[simp] theorem Chip.setTim_lc (g : TimeUnit → TimeUnit) : (c.setTim g).lc = c.lc := rfl
@[simp] theorem Chip.setTim_drawn (g : TimeUnit → TimeUnit) : (c.setTim g).drawn = c.drawn := rfl
@[simp] theorem Chip.setTim_faults (g : TimeUnit → TimeUnit) : (c.setTim g).faults = c.faults := rfl
@[simp] theorem Chip.setTim_stg (g : TimeUnit → TimeUnit) : (c.setTim g).stg = c.stg := rfl
@[simp] theorem Chip.setTim_evc (g : TimeUnit → TimeUnit) : (c.setTim g).evc = c.evc := rfl
@[simp] theorem Chip.setTim_tim (g : TimeUnit → TimeUnit) : (c.setTim g).tim = g c.tim := rfl
@[simp] theorem Chip.setTim_elements (g : TimeUnit → TimeUnit) : (c.setTim g).elements = c.elements := rfl
@[simp] theorem Chip.setTim_meters (g : TimeUnit → TimeUnit) : (c.setTim g).meters = c.meters := rfl
@[simp] theorem Chip.setTim_fold (g : TimeUnit → TimeUnit) : (c.setTim g).fold = c.fold := rfl
@[simp] theorem Chip.setTim_trf (g : TimeUnit → TimeUnit) : (c.setTim g).trf = c.trf := rfl
@[simp] theorem Chip.setTim_dmd (g : TimeUnit → TimeUnit) : (c.setTim g).dmd = c.dmd := rfl
@[simp] theorem Chip.setTim_led (g : TimeUnit → TimeUnit) : (c.setTim g).led = c.led := rfl
@[simp] theorem Chip.setTim_dsp (g : TimeUnit → TimeUnit) : (c.setTim g).dsp = c.dsp := rfl
@[simp] theorem Chip.setTim_ports (g : TimeUnit → TimeUnit) : (c.setTim g).ports = c.ports := rfl
@[simp] theorem Chip.setTim_can (g : TimeUnit → TimeUnit) : (c.setTim g).can = c.can := rfl
@[simp] theorem Chip.setTim_load (g : TimeUnit → TimeUnit) : (c.setTim g).load = c.load := rfl
@[simp] theorem Chip.setTim_saf (g : TimeUnit → TimeUnit) : (c.setTim g).saf = c.saf := rfl
@[simp] theorem Chip.setTim_pair (g : TimeUnit → TimeUnit) : (c.setTim g).pair = c.pair := rfl
@[simp] theorem Chip.setTim_net (g : TimeUnit → TimeUnit) : (c.setTim g).net = c.net := rfl
@[simp] theorem Chip.setTim_mlk (g : TimeUnit → TimeUnit) : (c.setTim g).mlk = c.mlk := rfl
@[simp] theorem Chip.setTim_tag (g : TimeUnit → TimeUnit) : (c.setTim g).tag = c.tag := rfl
@[simp] theorem Chip.setTim_vlt (g : TimeUnit → TimeUnit) : (c.setTim g).vlt = c.vlt := rfl
@[simp] theorem Chip.setTim_boot (g : TimeUnit → TimeUnit) : (c.setTim g).boot = c.boot := rfl

/-! ### setTrf -/

@[simp] theorem Chip.setTrf_variant (g : Tariff → Tariff) : (c.setTrf g).variant = c.variant := rfl
@[simp] theorem Chip.setTrf_regs (g : Tariff → Tariff) : (c.setTrf g).regs = c.regs := rfl
@[simp] theorem Chip.setTrf_latch (g : Tariff → Tariff) : (c.setTrf g).latch = c.latch := rfl
@[simp] theorem Chip.setTrf_rdata (g : Tariff → Tariff) : (c.setTrf g).rdata = c.rdata := rfl
@[simp] theorem Chip.setTrf_mem (g : Tariff → Tariff) : (c.setTrf g).mem = c.mem := rfl
@[simp] theorem Chip.setTrf_mram (g : Tariff → Tariff) : (c.setTrf g).mram = c.mram := rfl
@[simp] theorem Chip.setTrf_stride (g : Tariff → Tariff) : (c.setTrf g).stride = c.stride := rfl
@[simp] theorem Chip.setTrf_strideNext (g : Tariff → Tariff) : (c.setTrf g).strideNext = c.strideNext := rfl
@[simp] theorem Chip.setTrf_cycle (g : Tariff → Tariff) : (c.setTrf g).cycle = c.cycle := rfl
@[simp] theorem Chip.setTrf_lc (g : Tariff → Tariff) : (c.setTrf g).lc = c.lc := rfl
@[simp] theorem Chip.setTrf_drawn (g : Tariff → Tariff) : (c.setTrf g).drawn = c.drawn := rfl
@[simp] theorem Chip.setTrf_faults (g : Tariff → Tariff) : (c.setTrf g).faults = c.faults := rfl
@[simp] theorem Chip.setTrf_stg (g : Tariff → Tariff) : (c.setTrf g).stg = c.stg := rfl
@[simp] theorem Chip.setTrf_evc (g : Tariff → Tariff) : (c.setTrf g).evc = c.evc := rfl
@[simp] theorem Chip.setTrf_tim (g : Tariff → Tariff) : (c.setTrf g).tim = c.tim := rfl
@[simp] theorem Chip.setTrf_elements (g : Tariff → Tariff) : (c.setTrf g).elements = c.elements := rfl
@[simp] theorem Chip.setTrf_meters (g : Tariff → Tariff) : (c.setTrf g).meters = c.meters := rfl
@[simp] theorem Chip.setTrf_fold (g : Tariff → Tariff) : (c.setTrf g).fold = c.fold := rfl
@[simp] theorem Chip.setTrf_trf (g : Tariff → Tariff) : (c.setTrf g).trf = g c.trf := rfl
@[simp] theorem Chip.setTrf_dmd (g : Tariff → Tariff) : (c.setTrf g).dmd = c.dmd := rfl
@[simp] theorem Chip.setTrf_led (g : Tariff → Tariff) : (c.setTrf g).led = c.led := rfl
@[simp] theorem Chip.setTrf_dsp (g : Tariff → Tariff) : (c.setTrf g).dsp = c.dsp := rfl
@[simp] theorem Chip.setTrf_ports (g : Tariff → Tariff) : (c.setTrf g).ports = c.ports := rfl
@[simp] theorem Chip.setTrf_can (g : Tariff → Tariff) : (c.setTrf g).can = c.can := rfl
@[simp] theorem Chip.setTrf_load (g : Tariff → Tariff) : (c.setTrf g).load = c.load := rfl
@[simp] theorem Chip.setTrf_saf (g : Tariff → Tariff) : (c.setTrf g).saf = c.saf := rfl
@[simp] theorem Chip.setTrf_pair (g : Tariff → Tariff) : (c.setTrf g).pair = c.pair := rfl
@[simp] theorem Chip.setTrf_net (g : Tariff → Tariff) : (c.setTrf g).net = c.net := rfl
@[simp] theorem Chip.setTrf_mlk (g : Tariff → Tariff) : (c.setTrf g).mlk = c.mlk := rfl
@[simp] theorem Chip.setTrf_tag (g : Tariff → Tariff) : (c.setTrf g).tag = c.tag := rfl
@[simp] theorem Chip.setTrf_vlt (g : Tariff → Tariff) : (c.setTrf g).vlt = c.vlt := rfl
@[simp] theorem Chip.setTrf_boot (g : Tariff → Tariff) : (c.setTrf g).boot = c.boot := rfl

/-! ### setDmd -/

@[simp] theorem Chip.setDmd_variant (g : Demand → Demand) : (c.setDmd g).variant = c.variant := rfl
@[simp] theorem Chip.setDmd_regs (g : Demand → Demand) : (c.setDmd g).regs = c.regs := rfl
@[simp] theorem Chip.setDmd_latch (g : Demand → Demand) : (c.setDmd g).latch = c.latch := rfl
@[simp] theorem Chip.setDmd_rdata (g : Demand → Demand) : (c.setDmd g).rdata = c.rdata := rfl
@[simp] theorem Chip.setDmd_mem (g : Demand → Demand) : (c.setDmd g).mem = c.mem := rfl
@[simp] theorem Chip.setDmd_mram (g : Demand → Demand) : (c.setDmd g).mram = c.mram := rfl
@[simp] theorem Chip.setDmd_stride (g : Demand → Demand) : (c.setDmd g).stride = c.stride := rfl
@[simp] theorem Chip.setDmd_strideNext (g : Demand → Demand) : (c.setDmd g).strideNext = c.strideNext := rfl
@[simp] theorem Chip.setDmd_cycle (g : Demand → Demand) : (c.setDmd g).cycle = c.cycle := rfl
@[simp] theorem Chip.setDmd_lc (g : Demand → Demand) : (c.setDmd g).lc = c.lc := rfl
@[simp] theorem Chip.setDmd_drawn (g : Demand → Demand) : (c.setDmd g).drawn = c.drawn := rfl
@[simp] theorem Chip.setDmd_faults (g : Demand → Demand) : (c.setDmd g).faults = c.faults := rfl
@[simp] theorem Chip.setDmd_stg (g : Demand → Demand) : (c.setDmd g).stg = c.stg := rfl
@[simp] theorem Chip.setDmd_evc (g : Demand → Demand) : (c.setDmd g).evc = c.evc := rfl
@[simp] theorem Chip.setDmd_tim (g : Demand → Demand) : (c.setDmd g).tim = c.tim := rfl
@[simp] theorem Chip.setDmd_elements (g : Demand → Demand) : (c.setDmd g).elements = c.elements := rfl
@[simp] theorem Chip.setDmd_meters (g : Demand → Demand) : (c.setDmd g).meters = c.meters := rfl
@[simp] theorem Chip.setDmd_fold (g : Demand → Demand) : (c.setDmd g).fold = c.fold := rfl
@[simp] theorem Chip.setDmd_trf (g : Demand → Demand) : (c.setDmd g).trf = c.trf := rfl
@[simp] theorem Chip.setDmd_dmd (g : Demand → Demand) : (c.setDmd g).dmd = g c.dmd := rfl
@[simp] theorem Chip.setDmd_led (g : Demand → Demand) : (c.setDmd g).led = c.led := rfl
@[simp] theorem Chip.setDmd_dsp (g : Demand → Demand) : (c.setDmd g).dsp = c.dsp := rfl
@[simp] theorem Chip.setDmd_ports (g : Demand → Demand) : (c.setDmd g).ports = c.ports := rfl
@[simp] theorem Chip.setDmd_can (g : Demand → Demand) : (c.setDmd g).can = c.can := rfl
@[simp] theorem Chip.setDmd_load (g : Demand → Demand) : (c.setDmd g).load = c.load := rfl
@[simp] theorem Chip.setDmd_saf (g : Demand → Demand) : (c.setDmd g).saf = c.saf := rfl
@[simp] theorem Chip.setDmd_pair (g : Demand → Demand) : (c.setDmd g).pair = c.pair := rfl
@[simp] theorem Chip.setDmd_net (g : Demand → Demand) : (c.setDmd g).net = c.net := rfl
@[simp] theorem Chip.setDmd_mlk (g : Demand → Demand) : (c.setDmd g).mlk = c.mlk := rfl
@[simp] theorem Chip.setDmd_tag (g : Demand → Demand) : (c.setDmd g).tag = c.tag := rfl
@[simp] theorem Chip.setDmd_vlt (g : Demand → Demand) : (c.setDmd g).vlt = c.vlt := rfl
@[simp] theorem Chip.setDmd_boot (g : Demand → Demand) : (c.setDmd g).boot = c.boot := rfl

/-! ### setLed -/

@[simp] theorem Chip.setLed_variant (g : Ledger → Ledger) : (c.setLed g).variant = c.variant := rfl
@[simp] theorem Chip.setLed_regs (g : Ledger → Ledger) : (c.setLed g).regs = c.regs := rfl
@[simp] theorem Chip.setLed_latch (g : Ledger → Ledger) : (c.setLed g).latch = c.latch := rfl
@[simp] theorem Chip.setLed_rdata (g : Ledger → Ledger) : (c.setLed g).rdata = c.rdata := rfl
@[simp] theorem Chip.setLed_mem (g : Ledger → Ledger) : (c.setLed g).mem = c.mem := rfl
@[simp] theorem Chip.setLed_mram (g : Ledger → Ledger) : (c.setLed g).mram = c.mram := rfl
@[simp] theorem Chip.setLed_stride (g : Ledger → Ledger) : (c.setLed g).stride = c.stride := rfl
@[simp] theorem Chip.setLed_strideNext (g : Ledger → Ledger) : (c.setLed g).strideNext = c.strideNext := rfl
@[simp] theorem Chip.setLed_cycle (g : Ledger → Ledger) : (c.setLed g).cycle = c.cycle := rfl
@[simp] theorem Chip.setLed_lc (g : Ledger → Ledger) : (c.setLed g).lc = c.lc := rfl
@[simp] theorem Chip.setLed_drawn (g : Ledger → Ledger) : (c.setLed g).drawn = c.drawn := rfl
@[simp] theorem Chip.setLed_faults (g : Ledger → Ledger) : (c.setLed g).faults = c.faults := rfl
@[simp] theorem Chip.setLed_stg (g : Ledger → Ledger) : (c.setLed g).stg = c.stg := rfl
@[simp] theorem Chip.setLed_evc (g : Ledger → Ledger) : (c.setLed g).evc = c.evc := rfl
@[simp] theorem Chip.setLed_tim (g : Ledger → Ledger) : (c.setLed g).tim = c.tim := rfl
@[simp] theorem Chip.setLed_elements (g : Ledger → Ledger) : (c.setLed g).elements = c.elements := rfl
@[simp] theorem Chip.setLed_meters (g : Ledger → Ledger) : (c.setLed g).meters = c.meters := rfl
@[simp] theorem Chip.setLed_fold (g : Ledger → Ledger) : (c.setLed g).fold = c.fold := rfl
@[simp] theorem Chip.setLed_trf (g : Ledger → Ledger) : (c.setLed g).trf = c.trf := rfl
@[simp] theorem Chip.setLed_dmd (g : Ledger → Ledger) : (c.setLed g).dmd = c.dmd := rfl
@[simp] theorem Chip.setLed_led (g : Ledger → Ledger) : (c.setLed g).led = g c.led := rfl
@[simp] theorem Chip.setLed_dsp (g : Ledger → Ledger) : (c.setLed g).dsp = c.dsp := rfl
@[simp] theorem Chip.setLed_ports (g : Ledger → Ledger) : (c.setLed g).ports = c.ports := rfl
@[simp] theorem Chip.setLed_can (g : Ledger → Ledger) : (c.setLed g).can = c.can := rfl
@[simp] theorem Chip.setLed_load (g : Ledger → Ledger) : (c.setLed g).load = c.load := rfl
@[simp] theorem Chip.setLed_saf (g : Ledger → Ledger) : (c.setLed g).saf = c.saf := rfl
@[simp] theorem Chip.setLed_pair (g : Ledger → Ledger) : (c.setLed g).pair = c.pair := rfl
@[simp] theorem Chip.setLed_net (g : Ledger → Ledger) : (c.setLed g).net = c.net := rfl
@[simp] theorem Chip.setLed_mlk (g : Ledger → Ledger) : (c.setLed g).mlk = c.mlk := rfl
@[simp] theorem Chip.setLed_tag (g : Ledger → Ledger) : (c.setLed g).tag = c.tag := rfl
@[simp] theorem Chip.setLed_vlt (g : Ledger → Ledger) : (c.setLed g).vlt = c.vlt := rfl
@[simp] theorem Chip.setLed_boot (g : Ledger → Ledger) : (c.setLed g).boot = c.boot := rfl

/-! ### setDsp -/

@[simp] theorem Chip.setDsp_variant (g : Readout → Readout) : (c.setDsp g).variant = c.variant := rfl
@[simp] theorem Chip.setDsp_regs (g : Readout → Readout) : (c.setDsp g).regs = c.regs := rfl
@[simp] theorem Chip.setDsp_latch (g : Readout → Readout) : (c.setDsp g).latch = c.latch := rfl
@[simp] theorem Chip.setDsp_rdata (g : Readout → Readout) : (c.setDsp g).rdata = c.rdata := rfl
@[simp] theorem Chip.setDsp_mem (g : Readout → Readout) : (c.setDsp g).mem = c.mem := rfl
@[simp] theorem Chip.setDsp_mram (g : Readout → Readout) : (c.setDsp g).mram = c.mram := rfl
@[simp] theorem Chip.setDsp_stride (g : Readout → Readout) : (c.setDsp g).stride = c.stride := rfl
@[simp] theorem Chip.setDsp_strideNext (g : Readout → Readout) : (c.setDsp g).strideNext = c.strideNext := rfl
@[simp] theorem Chip.setDsp_cycle (g : Readout → Readout) : (c.setDsp g).cycle = c.cycle := rfl
@[simp] theorem Chip.setDsp_lc (g : Readout → Readout) : (c.setDsp g).lc = c.lc := rfl
@[simp] theorem Chip.setDsp_drawn (g : Readout → Readout) : (c.setDsp g).drawn = c.drawn := rfl
@[simp] theorem Chip.setDsp_faults (g : Readout → Readout) : (c.setDsp g).faults = c.faults := rfl
@[simp] theorem Chip.setDsp_stg (g : Readout → Readout) : (c.setDsp g).stg = c.stg := rfl
@[simp] theorem Chip.setDsp_evc (g : Readout → Readout) : (c.setDsp g).evc = c.evc := rfl
@[simp] theorem Chip.setDsp_tim (g : Readout → Readout) : (c.setDsp g).tim = c.tim := rfl
@[simp] theorem Chip.setDsp_elements (g : Readout → Readout) : (c.setDsp g).elements = c.elements := rfl
@[simp] theorem Chip.setDsp_meters (g : Readout → Readout) : (c.setDsp g).meters = c.meters := rfl
@[simp] theorem Chip.setDsp_fold (g : Readout → Readout) : (c.setDsp g).fold = c.fold := rfl
@[simp] theorem Chip.setDsp_trf (g : Readout → Readout) : (c.setDsp g).trf = c.trf := rfl
@[simp] theorem Chip.setDsp_dmd (g : Readout → Readout) : (c.setDsp g).dmd = c.dmd := rfl
@[simp] theorem Chip.setDsp_led (g : Readout → Readout) : (c.setDsp g).led = c.led := rfl
@[simp] theorem Chip.setDsp_dsp (g : Readout → Readout) : (c.setDsp g).dsp = g c.dsp := rfl
@[simp] theorem Chip.setDsp_ports (g : Readout → Readout) : (c.setDsp g).ports = c.ports := rfl
@[simp] theorem Chip.setDsp_can (g : Readout → Readout) : (c.setDsp g).can = c.can := rfl
@[simp] theorem Chip.setDsp_load (g : Readout → Readout) : (c.setDsp g).load = c.load := rfl
@[simp] theorem Chip.setDsp_saf (g : Readout → Readout) : (c.setDsp g).saf = c.saf := rfl
@[simp] theorem Chip.setDsp_pair (g : Readout → Readout) : (c.setDsp g).pair = c.pair := rfl
@[simp] theorem Chip.setDsp_net (g : Readout → Readout) : (c.setDsp g).net = c.net := rfl
@[simp] theorem Chip.setDsp_mlk (g : Readout → Readout) : (c.setDsp g).mlk = c.mlk := rfl
@[simp] theorem Chip.setDsp_tag (g : Readout → Readout) : (c.setDsp g).tag = c.tag := rfl
@[simp] theorem Chip.setDsp_vlt (g : Readout → Readout) : (c.setDsp g).vlt = c.vlt := rfl
@[simp] theorem Chip.setDsp_boot (g : Readout → Readout) : (c.setDsp g).boot = c.boot := rfl

/-! ### setLoad -/

@[simp] theorem Chip.setLoad_variant (g : Load → Load) : (c.setLoad g).variant = c.variant := rfl
@[simp] theorem Chip.setLoad_regs (g : Load → Load) : (c.setLoad g).regs = c.regs := rfl
@[simp] theorem Chip.setLoad_latch (g : Load → Load) : (c.setLoad g).latch = c.latch := rfl
@[simp] theorem Chip.setLoad_rdata (g : Load → Load) : (c.setLoad g).rdata = c.rdata := rfl
@[simp] theorem Chip.setLoad_mem (g : Load → Load) : (c.setLoad g).mem = c.mem := rfl
@[simp] theorem Chip.setLoad_mram (g : Load → Load) : (c.setLoad g).mram = c.mram := rfl
@[simp] theorem Chip.setLoad_stride (g : Load → Load) : (c.setLoad g).stride = c.stride := rfl
@[simp] theorem Chip.setLoad_strideNext (g : Load → Load) : (c.setLoad g).strideNext = c.strideNext := rfl
@[simp] theorem Chip.setLoad_cycle (g : Load → Load) : (c.setLoad g).cycle = c.cycle := rfl
@[simp] theorem Chip.setLoad_lc (g : Load → Load) : (c.setLoad g).lc = c.lc := rfl
@[simp] theorem Chip.setLoad_drawn (g : Load → Load) : (c.setLoad g).drawn = c.drawn := rfl
@[simp] theorem Chip.setLoad_faults (g : Load → Load) : (c.setLoad g).faults = c.faults := rfl
@[simp] theorem Chip.setLoad_stg (g : Load → Load) : (c.setLoad g).stg = c.stg := rfl
@[simp] theorem Chip.setLoad_evc (g : Load → Load) : (c.setLoad g).evc = c.evc := rfl
@[simp] theorem Chip.setLoad_tim (g : Load → Load) : (c.setLoad g).tim = c.tim := rfl
@[simp] theorem Chip.setLoad_elements (g : Load → Load) : (c.setLoad g).elements = c.elements := rfl
@[simp] theorem Chip.setLoad_meters (g : Load → Load) : (c.setLoad g).meters = c.meters := rfl
@[simp] theorem Chip.setLoad_fold (g : Load → Load) : (c.setLoad g).fold = c.fold := rfl
@[simp] theorem Chip.setLoad_trf (g : Load → Load) : (c.setLoad g).trf = c.trf := rfl
@[simp] theorem Chip.setLoad_dmd (g : Load → Load) : (c.setLoad g).dmd = c.dmd := rfl
@[simp] theorem Chip.setLoad_led (g : Load → Load) : (c.setLoad g).led = c.led := rfl
@[simp] theorem Chip.setLoad_dsp (g : Load → Load) : (c.setLoad g).dsp = c.dsp := rfl
@[simp] theorem Chip.setLoad_ports (g : Load → Load) : (c.setLoad g).ports = c.ports := rfl
@[simp] theorem Chip.setLoad_can (g : Load → Load) : (c.setLoad g).can = c.can := rfl
@[simp] theorem Chip.setLoad_load (g : Load → Load) : (c.setLoad g).load = g c.load := rfl
@[simp] theorem Chip.setLoad_saf (g : Load → Load) : (c.setLoad g).saf = c.saf := rfl
@[simp] theorem Chip.setLoad_pair (g : Load → Load) : (c.setLoad g).pair = c.pair := rfl
@[simp] theorem Chip.setLoad_net (g : Load → Load) : (c.setLoad g).net = c.net := rfl
@[simp] theorem Chip.setLoad_mlk (g : Load → Load) : (c.setLoad g).mlk = c.mlk := rfl
@[simp] theorem Chip.setLoad_tag (g : Load → Load) : (c.setLoad g).tag = c.tag := rfl
@[simp] theorem Chip.setLoad_vlt (g : Load → Load) : (c.setLoad g).vlt = c.vlt := rfl
@[simp] theorem Chip.setLoad_boot (g : Load → Load) : (c.setLoad g).boot = c.boot := rfl

/-! ### setSaf -/

@[simp] theorem Chip.setSaf_variant (g : Safety → Safety) : (c.setSaf g).variant = c.variant := rfl
@[simp] theorem Chip.setSaf_regs (g : Safety → Safety) : (c.setSaf g).regs = c.regs := rfl
@[simp] theorem Chip.setSaf_latch (g : Safety → Safety) : (c.setSaf g).latch = c.latch := rfl
@[simp] theorem Chip.setSaf_rdata (g : Safety → Safety) : (c.setSaf g).rdata = c.rdata := rfl
@[simp] theorem Chip.setSaf_mem (g : Safety → Safety) : (c.setSaf g).mem = c.mem := rfl
@[simp] theorem Chip.setSaf_mram (g : Safety → Safety) : (c.setSaf g).mram = c.mram := rfl
@[simp] theorem Chip.setSaf_stride (g : Safety → Safety) : (c.setSaf g).stride = c.stride := rfl
@[simp] theorem Chip.setSaf_strideNext (g : Safety → Safety) : (c.setSaf g).strideNext = c.strideNext := rfl
@[simp] theorem Chip.setSaf_cycle (g : Safety → Safety) : (c.setSaf g).cycle = c.cycle := rfl
@[simp] theorem Chip.setSaf_lc (g : Safety → Safety) : (c.setSaf g).lc = c.lc := rfl
@[simp] theorem Chip.setSaf_drawn (g : Safety → Safety) : (c.setSaf g).drawn = c.drawn := rfl
@[simp] theorem Chip.setSaf_faults (g : Safety → Safety) : (c.setSaf g).faults = c.faults := rfl
@[simp] theorem Chip.setSaf_stg (g : Safety → Safety) : (c.setSaf g).stg = c.stg := rfl
@[simp] theorem Chip.setSaf_evc (g : Safety → Safety) : (c.setSaf g).evc = c.evc := rfl
@[simp] theorem Chip.setSaf_tim (g : Safety → Safety) : (c.setSaf g).tim = c.tim := rfl
@[simp] theorem Chip.setSaf_elements (g : Safety → Safety) : (c.setSaf g).elements = c.elements := rfl
@[simp] theorem Chip.setSaf_meters (g : Safety → Safety) : (c.setSaf g).meters = c.meters := rfl
@[simp] theorem Chip.setSaf_fold (g : Safety → Safety) : (c.setSaf g).fold = c.fold := rfl
@[simp] theorem Chip.setSaf_trf (g : Safety → Safety) : (c.setSaf g).trf = c.trf := rfl
@[simp] theorem Chip.setSaf_dmd (g : Safety → Safety) : (c.setSaf g).dmd = c.dmd := rfl
@[simp] theorem Chip.setSaf_led (g : Safety → Safety) : (c.setSaf g).led = c.led := rfl
@[simp] theorem Chip.setSaf_dsp (g : Safety → Safety) : (c.setSaf g).dsp = c.dsp := rfl
@[simp] theorem Chip.setSaf_ports (g : Safety → Safety) : (c.setSaf g).ports = c.ports := rfl
@[simp] theorem Chip.setSaf_can (g : Safety → Safety) : (c.setSaf g).can = c.can := rfl
@[simp] theorem Chip.setSaf_load (g : Safety → Safety) : (c.setSaf g).load = c.load := rfl
@[simp] theorem Chip.setSaf_saf (g : Safety → Safety) : (c.setSaf g).saf = g c.saf := rfl
@[simp] theorem Chip.setSaf_pair (g : Safety → Safety) : (c.setSaf g).pair = c.pair := rfl
@[simp] theorem Chip.setSaf_net (g : Safety → Safety) : (c.setSaf g).net = c.net := rfl
@[simp] theorem Chip.setSaf_mlk (g : Safety → Safety) : (c.setSaf g).mlk = c.mlk := rfl
@[simp] theorem Chip.setSaf_tag (g : Safety → Safety) : (c.setSaf g).tag = c.tag := rfl
@[simp] theorem Chip.setSaf_vlt (g : Safety → Safety) : (c.setSaf g).vlt = c.vlt := rfl
@[simp] theorem Chip.setSaf_boot (g : Safety → Safety) : (c.setSaf g).boot = c.boot := rfl

/-! ### setPair -/

@[simp] theorem Chip.setPair_variant (g : Pair → Pair) : (c.setPair g).variant = c.variant := rfl
@[simp] theorem Chip.setPair_regs (g : Pair → Pair) : (c.setPair g).regs = c.regs := rfl
@[simp] theorem Chip.setPair_latch (g : Pair → Pair) : (c.setPair g).latch = c.latch := rfl
@[simp] theorem Chip.setPair_rdata (g : Pair → Pair) : (c.setPair g).rdata = c.rdata := rfl
@[simp] theorem Chip.setPair_mem (g : Pair → Pair) : (c.setPair g).mem = c.mem := rfl
@[simp] theorem Chip.setPair_mram (g : Pair → Pair) : (c.setPair g).mram = c.mram := rfl
@[simp] theorem Chip.setPair_stride (g : Pair → Pair) : (c.setPair g).stride = c.stride := rfl
@[simp] theorem Chip.setPair_strideNext (g : Pair → Pair) : (c.setPair g).strideNext = c.strideNext := rfl
@[simp] theorem Chip.setPair_cycle (g : Pair → Pair) : (c.setPair g).cycle = c.cycle := rfl
@[simp] theorem Chip.setPair_lc (g : Pair → Pair) : (c.setPair g).lc = c.lc := rfl
@[simp] theorem Chip.setPair_drawn (g : Pair → Pair) : (c.setPair g).drawn = c.drawn := rfl
@[simp] theorem Chip.setPair_faults (g : Pair → Pair) : (c.setPair g).faults = c.faults := rfl
@[simp] theorem Chip.setPair_stg (g : Pair → Pair) : (c.setPair g).stg = c.stg := rfl
@[simp] theorem Chip.setPair_evc (g : Pair → Pair) : (c.setPair g).evc = c.evc := rfl
@[simp] theorem Chip.setPair_tim (g : Pair → Pair) : (c.setPair g).tim = c.tim := rfl
@[simp] theorem Chip.setPair_elements (g : Pair → Pair) : (c.setPair g).elements = c.elements := rfl
@[simp] theorem Chip.setPair_meters (g : Pair → Pair) : (c.setPair g).meters = c.meters := rfl
@[simp] theorem Chip.setPair_fold (g : Pair → Pair) : (c.setPair g).fold = c.fold := rfl
@[simp] theorem Chip.setPair_trf (g : Pair → Pair) : (c.setPair g).trf = c.trf := rfl
@[simp] theorem Chip.setPair_dmd (g : Pair → Pair) : (c.setPair g).dmd = c.dmd := rfl
@[simp] theorem Chip.setPair_led (g : Pair → Pair) : (c.setPair g).led = c.led := rfl
@[simp] theorem Chip.setPair_dsp (g : Pair → Pair) : (c.setPair g).dsp = c.dsp := rfl
@[simp] theorem Chip.setPair_ports (g : Pair → Pair) : (c.setPair g).ports = c.ports := rfl
@[simp] theorem Chip.setPair_can (g : Pair → Pair) : (c.setPair g).can = c.can := rfl
@[simp] theorem Chip.setPair_load (g : Pair → Pair) : (c.setPair g).load = c.load := rfl
@[simp] theorem Chip.setPair_saf (g : Pair → Pair) : (c.setPair g).saf = c.saf := rfl
@[simp] theorem Chip.setPair_pair (g : Pair → Pair) : (c.setPair g).pair = g c.pair := rfl
@[simp] theorem Chip.setPair_net (g : Pair → Pair) : (c.setPair g).net = c.net := rfl
@[simp] theorem Chip.setPair_mlk (g : Pair → Pair) : (c.setPair g).mlk = c.mlk := rfl
@[simp] theorem Chip.setPair_tag (g : Pair → Pair) : (c.setPair g).tag = c.tag := rfl
@[simp] theorem Chip.setPair_vlt (g : Pair → Pair) : (c.setPair g).vlt = c.vlt := rfl
@[simp] theorem Chip.setPair_boot (g : Pair → Pair) : (c.setPair g).boot = c.boot := rfl

/-! ### setNet -/

@[simp] theorem Chip.setNet_variant (g : Net → Net) : (c.setNet g).variant = c.variant := rfl
@[simp] theorem Chip.setNet_regs (g : Net → Net) : (c.setNet g).regs = c.regs := rfl
@[simp] theorem Chip.setNet_latch (g : Net → Net) : (c.setNet g).latch = c.latch := rfl
@[simp] theorem Chip.setNet_rdata (g : Net → Net) : (c.setNet g).rdata = c.rdata := rfl
@[simp] theorem Chip.setNet_mem (g : Net → Net) : (c.setNet g).mem = c.mem := rfl
@[simp] theorem Chip.setNet_mram (g : Net → Net) : (c.setNet g).mram = c.mram := rfl
@[simp] theorem Chip.setNet_stride (g : Net → Net) : (c.setNet g).stride = c.stride := rfl
@[simp] theorem Chip.setNet_strideNext (g : Net → Net) : (c.setNet g).strideNext = c.strideNext := rfl
@[simp] theorem Chip.setNet_cycle (g : Net → Net) : (c.setNet g).cycle = c.cycle := rfl
@[simp] theorem Chip.setNet_lc (g : Net → Net) : (c.setNet g).lc = c.lc := rfl
@[simp] theorem Chip.setNet_drawn (g : Net → Net) : (c.setNet g).drawn = c.drawn := rfl
@[simp] theorem Chip.setNet_faults (g : Net → Net) : (c.setNet g).faults = c.faults := rfl
@[simp] theorem Chip.setNet_stg (g : Net → Net) : (c.setNet g).stg = c.stg := rfl
@[simp] theorem Chip.setNet_evc (g : Net → Net) : (c.setNet g).evc = c.evc := rfl
@[simp] theorem Chip.setNet_tim (g : Net → Net) : (c.setNet g).tim = c.tim := rfl
@[simp] theorem Chip.setNet_elements (g : Net → Net) : (c.setNet g).elements = c.elements := rfl
@[simp] theorem Chip.setNet_meters (g : Net → Net) : (c.setNet g).meters = c.meters := rfl
@[simp] theorem Chip.setNet_fold (g : Net → Net) : (c.setNet g).fold = c.fold := rfl
@[simp] theorem Chip.setNet_trf (g : Net → Net) : (c.setNet g).trf = c.trf := rfl
@[simp] theorem Chip.setNet_dmd (g : Net → Net) : (c.setNet g).dmd = c.dmd := rfl
@[simp] theorem Chip.setNet_led (g : Net → Net) : (c.setNet g).led = c.led := rfl
@[simp] theorem Chip.setNet_dsp (g : Net → Net) : (c.setNet g).dsp = c.dsp := rfl
@[simp] theorem Chip.setNet_ports (g : Net → Net) : (c.setNet g).ports = c.ports := rfl
@[simp] theorem Chip.setNet_can (g : Net → Net) : (c.setNet g).can = c.can := rfl
@[simp] theorem Chip.setNet_load (g : Net → Net) : (c.setNet g).load = c.load := rfl
@[simp] theorem Chip.setNet_saf (g : Net → Net) : (c.setNet g).saf = c.saf := rfl
@[simp] theorem Chip.setNet_pair (g : Net → Net) : (c.setNet g).pair = c.pair := rfl
@[simp] theorem Chip.setNet_net (g : Net → Net) : (c.setNet g).net = g c.net := rfl
@[simp] theorem Chip.setNet_mlk (g : Net → Net) : (c.setNet g).mlk = c.mlk := rfl
@[simp] theorem Chip.setNet_tag (g : Net → Net) : (c.setNet g).tag = c.tag := rfl
@[simp] theorem Chip.setNet_vlt (g : Net → Net) : (c.setNet g).vlt = c.vlt := rfl
@[simp] theorem Chip.setNet_boot (g : Net → Net) : (c.setNet g).boot = c.boot := rfl

/-! ### setMlk -/

@[simp] theorem Chip.setMlk_variant (g : Mains → Mains) : (c.setMlk g).variant = c.variant := rfl
@[simp] theorem Chip.setMlk_regs (g : Mains → Mains) : (c.setMlk g).regs = c.regs := rfl
@[simp] theorem Chip.setMlk_latch (g : Mains → Mains) : (c.setMlk g).latch = c.latch := rfl
@[simp] theorem Chip.setMlk_rdata (g : Mains → Mains) : (c.setMlk g).rdata = c.rdata := rfl
@[simp] theorem Chip.setMlk_mem (g : Mains → Mains) : (c.setMlk g).mem = c.mem := rfl
@[simp] theorem Chip.setMlk_mram (g : Mains → Mains) : (c.setMlk g).mram = c.mram := rfl
@[simp] theorem Chip.setMlk_stride (g : Mains → Mains) : (c.setMlk g).stride = c.stride := rfl
@[simp] theorem Chip.setMlk_strideNext (g : Mains → Mains) : (c.setMlk g).strideNext = c.strideNext := rfl
@[simp] theorem Chip.setMlk_cycle (g : Mains → Mains) : (c.setMlk g).cycle = c.cycle := rfl
@[simp] theorem Chip.setMlk_lc (g : Mains → Mains) : (c.setMlk g).lc = c.lc := rfl
@[simp] theorem Chip.setMlk_drawn (g : Mains → Mains) : (c.setMlk g).drawn = c.drawn := rfl
@[simp] theorem Chip.setMlk_faults (g : Mains → Mains) : (c.setMlk g).faults = c.faults := rfl
@[simp] theorem Chip.setMlk_stg (g : Mains → Mains) : (c.setMlk g).stg = c.stg := rfl
@[simp] theorem Chip.setMlk_evc (g : Mains → Mains) : (c.setMlk g).evc = c.evc := rfl
@[simp] theorem Chip.setMlk_tim (g : Mains → Mains) : (c.setMlk g).tim = c.tim := rfl
@[simp] theorem Chip.setMlk_elements (g : Mains → Mains) : (c.setMlk g).elements = c.elements := rfl
@[simp] theorem Chip.setMlk_meters (g : Mains → Mains) : (c.setMlk g).meters = c.meters := rfl
@[simp] theorem Chip.setMlk_fold (g : Mains → Mains) : (c.setMlk g).fold = c.fold := rfl
@[simp] theorem Chip.setMlk_trf (g : Mains → Mains) : (c.setMlk g).trf = c.trf := rfl
@[simp] theorem Chip.setMlk_dmd (g : Mains → Mains) : (c.setMlk g).dmd = c.dmd := rfl
@[simp] theorem Chip.setMlk_led (g : Mains → Mains) : (c.setMlk g).led = c.led := rfl
@[simp] theorem Chip.setMlk_dsp (g : Mains → Mains) : (c.setMlk g).dsp = c.dsp := rfl
@[simp] theorem Chip.setMlk_ports (g : Mains → Mains) : (c.setMlk g).ports = c.ports := rfl
@[simp] theorem Chip.setMlk_can (g : Mains → Mains) : (c.setMlk g).can = c.can := rfl
@[simp] theorem Chip.setMlk_load (g : Mains → Mains) : (c.setMlk g).load = c.load := rfl
@[simp] theorem Chip.setMlk_saf (g : Mains → Mains) : (c.setMlk g).saf = c.saf := rfl
@[simp] theorem Chip.setMlk_pair (g : Mains → Mains) : (c.setMlk g).pair = c.pair := rfl
@[simp] theorem Chip.setMlk_net (g : Mains → Mains) : (c.setMlk g).net = c.net := rfl
@[simp] theorem Chip.setMlk_mlk (g : Mains → Mains) : (c.setMlk g).mlk = g c.mlk := rfl
@[simp] theorem Chip.setMlk_tag (g : Mains → Mains) : (c.setMlk g).tag = c.tag := rfl
@[simp] theorem Chip.setMlk_vlt (g : Mains → Mains) : (c.setMlk g).vlt = c.vlt := rfl
@[simp] theorem Chip.setMlk_boot (g : Mains → Mains) : (c.setMlk g).boot = c.boot := rfl

/-! ### setTag -/

@[simp] theorem Chip.setTag_variant (g : TagReader → TagReader) : (c.setTag g).variant = c.variant := rfl
@[simp] theorem Chip.setTag_regs (g : TagReader → TagReader) : (c.setTag g).regs = c.regs := rfl
@[simp] theorem Chip.setTag_latch (g : TagReader → TagReader) : (c.setTag g).latch = c.latch := rfl
@[simp] theorem Chip.setTag_rdata (g : TagReader → TagReader) : (c.setTag g).rdata = c.rdata := rfl
@[simp] theorem Chip.setTag_mem (g : TagReader → TagReader) : (c.setTag g).mem = c.mem := rfl
@[simp] theorem Chip.setTag_mram (g : TagReader → TagReader) : (c.setTag g).mram = c.mram := rfl
@[simp] theorem Chip.setTag_stride (g : TagReader → TagReader) : (c.setTag g).stride = c.stride := rfl
@[simp] theorem Chip.setTag_strideNext (g : TagReader → TagReader) : (c.setTag g).strideNext = c.strideNext := rfl
@[simp] theorem Chip.setTag_cycle (g : TagReader → TagReader) : (c.setTag g).cycle = c.cycle := rfl
@[simp] theorem Chip.setTag_lc (g : TagReader → TagReader) : (c.setTag g).lc = c.lc := rfl
@[simp] theorem Chip.setTag_drawn (g : TagReader → TagReader) : (c.setTag g).drawn = c.drawn := rfl
@[simp] theorem Chip.setTag_faults (g : TagReader → TagReader) : (c.setTag g).faults = c.faults := rfl
@[simp] theorem Chip.setTag_stg (g : TagReader → TagReader) : (c.setTag g).stg = c.stg := rfl
@[simp] theorem Chip.setTag_evc (g : TagReader → TagReader) : (c.setTag g).evc = c.evc := rfl
@[simp] theorem Chip.setTag_tim (g : TagReader → TagReader) : (c.setTag g).tim = c.tim := rfl
@[simp] theorem Chip.setTag_elements (g : TagReader → TagReader) : (c.setTag g).elements = c.elements := rfl
@[simp] theorem Chip.setTag_meters (g : TagReader → TagReader) : (c.setTag g).meters = c.meters := rfl
@[simp] theorem Chip.setTag_fold (g : TagReader → TagReader) : (c.setTag g).fold = c.fold := rfl
@[simp] theorem Chip.setTag_trf (g : TagReader → TagReader) : (c.setTag g).trf = c.trf := rfl
@[simp] theorem Chip.setTag_dmd (g : TagReader → TagReader) : (c.setTag g).dmd = c.dmd := rfl
@[simp] theorem Chip.setTag_led (g : TagReader → TagReader) : (c.setTag g).led = c.led := rfl
@[simp] theorem Chip.setTag_dsp (g : TagReader → TagReader) : (c.setTag g).dsp = c.dsp := rfl
@[simp] theorem Chip.setTag_ports (g : TagReader → TagReader) : (c.setTag g).ports = c.ports := rfl
@[simp] theorem Chip.setTag_can (g : TagReader → TagReader) : (c.setTag g).can = c.can := rfl
@[simp] theorem Chip.setTag_load (g : TagReader → TagReader) : (c.setTag g).load = c.load := rfl
@[simp] theorem Chip.setTag_saf (g : TagReader → TagReader) : (c.setTag g).saf = c.saf := rfl
@[simp] theorem Chip.setTag_pair (g : TagReader → TagReader) : (c.setTag g).pair = c.pair := rfl
@[simp] theorem Chip.setTag_net (g : TagReader → TagReader) : (c.setTag g).net = c.net := rfl
@[simp] theorem Chip.setTag_mlk (g : TagReader → TagReader) : (c.setTag g).mlk = c.mlk := rfl
@[simp] theorem Chip.setTag_tag (g : TagReader → TagReader) : (c.setTag g).tag = g c.tag := rfl
@[simp] theorem Chip.setTag_vlt (g : TagReader → TagReader) : (c.setTag g).vlt = c.vlt := rfl
@[simp] theorem Chip.setTag_boot (g : TagReader → TagReader) : (c.setTag g).boot = c.boot := rfl

/-! ### setVlt -/

@[simp] theorem Chip.setVlt_variant (g : Vault → Vault) : (c.setVlt g).variant = c.variant := rfl
@[simp] theorem Chip.setVlt_regs (g : Vault → Vault) : (c.setVlt g).regs = c.regs := rfl
@[simp] theorem Chip.setVlt_latch (g : Vault → Vault) : (c.setVlt g).latch = c.latch := rfl
@[simp] theorem Chip.setVlt_rdata (g : Vault → Vault) : (c.setVlt g).rdata = c.rdata := rfl
@[simp] theorem Chip.setVlt_mem (g : Vault → Vault) : (c.setVlt g).mem = c.mem := rfl
@[simp] theorem Chip.setVlt_mram (g : Vault → Vault) : (c.setVlt g).mram = c.mram := rfl
@[simp] theorem Chip.setVlt_stride (g : Vault → Vault) : (c.setVlt g).stride = c.stride := rfl
@[simp] theorem Chip.setVlt_strideNext (g : Vault → Vault) : (c.setVlt g).strideNext = c.strideNext := rfl
@[simp] theorem Chip.setVlt_cycle (g : Vault → Vault) : (c.setVlt g).cycle = c.cycle := rfl
@[simp] theorem Chip.setVlt_lc (g : Vault → Vault) : (c.setVlt g).lc = c.lc := rfl
@[simp] theorem Chip.setVlt_drawn (g : Vault → Vault) : (c.setVlt g).drawn = c.drawn := rfl
@[simp] theorem Chip.setVlt_faults (g : Vault → Vault) : (c.setVlt g).faults = c.faults := rfl
@[simp] theorem Chip.setVlt_stg (g : Vault → Vault) : (c.setVlt g).stg = c.stg := rfl
@[simp] theorem Chip.setVlt_evc (g : Vault → Vault) : (c.setVlt g).evc = c.evc := rfl
@[simp] theorem Chip.setVlt_tim (g : Vault → Vault) : (c.setVlt g).tim = c.tim := rfl
@[simp] theorem Chip.setVlt_elements (g : Vault → Vault) : (c.setVlt g).elements = c.elements := rfl
@[simp] theorem Chip.setVlt_meters (g : Vault → Vault) : (c.setVlt g).meters = c.meters := rfl
@[simp] theorem Chip.setVlt_fold (g : Vault → Vault) : (c.setVlt g).fold = c.fold := rfl
@[simp] theorem Chip.setVlt_trf (g : Vault → Vault) : (c.setVlt g).trf = c.trf := rfl
@[simp] theorem Chip.setVlt_dmd (g : Vault → Vault) : (c.setVlt g).dmd = c.dmd := rfl
@[simp] theorem Chip.setVlt_led (g : Vault → Vault) : (c.setVlt g).led = c.led := rfl
@[simp] theorem Chip.setVlt_dsp (g : Vault → Vault) : (c.setVlt g).dsp = c.dsp := rfl
@[simp] theorem Chip.setVlt_ports (g : Vault → Vault) : (c.setVlt g).ports = c.ports := rfl
@[simp] theorem Chip.setVlt_can (g : Vault → Vault) : (c.setVlt g).can = c.can := rfl
@[simp] theorem Chip.setVlt_load (g : Vault → Vault) : (c.setVlt g).load = c.load := rfl
@[simp] theorem Chip.setVlt_saf (g : Vault → Vault) : (c.setVlt g).saf = c.saf := rfl
@[simp] theorem Chip.setVlt_pair (g : Vault → Vault) : (c.setVlt g).pair = c.pair := rfl
@[simp] theorem Chip.setVlt_net (g : Vault → Vault) : (c.setVlt g).net = c.net := rfl
@[simp] theorem Chip.setVlt_mlk (g : Vault → Vault) : (c.setVlt g).mlk = c.mlk := rfl
@[simp] theorem Chip.setVlt_tag (g : Vault → Vault) : (c.setVlt g).tag = c.tag := rfl
@[simp] theorem Chip.setVlt_vlt (g : Vault → Vault) : (c.setVlt g).vlt = g c.vlt := rfl
@[simp] theorem Chip.setVlt_boot (g : Vault → Vault) : (c.setVlt g).boot = c.boot := rfl

/-! ### setBoot -/

@[simp] theorem Chip.setBoot_variant (g : Boot → Boot) : (c.setBoot g).variant = c.variant := rfl
@[simp] theorem Chip.setBoot_regs (g : Boot → Boot) : (c.setBoot g).regs = c.regs := rfl
@[simp] theorem Chip.setBoot_latch (g : Boot → Boot) : (c.setBoot g).latch = c.latch := rfl
@[simp] theorem Chip.setBoot_rdata (g : Boot → Boot) : (c.setBoot g).rdata = c.rdata := rfl
@[simp] theorem Chip.setBoot_mem (g : Boot → Boot) : (c.setBoot g).mem = c.mem := rfl
@[simp] theorem Chip.setBoot_mram (g : Boot → Boot) : (c.setBoot g).mram = c.mram := rfl
@[simp] theorem Chip.setBoot_stride (g : Boot → Boot) : (c.setBoot g).stride = c.stride := rfl
@[simp] theorem Chip.setBoot_strideNext (g : Boot → Boot) : (c.setBoot g).strideNext = c.strideNext := rfl
@[simp] theorem Chip.setBoot_cycle (g : Boot → Boot) : (c.setBoot g).cycle = c.cycle := rfl
@[simp] theorem Chip.setBoot_lc (g : Boot → Boot) : (c.setBoot g).lc = c.lc := rfl
@[simp] theorem Chip.setBoot_drawn (g : Boot → Boot) : (c.setBoot g).drawn = c.drawn := rfl
@[simp] theorem Chip.setBoot_faults (g : Boot → Boot) : (c.setBoot g).faults = c.faults := rfl
@[simp] theorem Chip.setBoot_stg (g : Boot → Boot) : (c.setBoot g).stg = c.stg := rfl
@[simp] theorem Chip.setBoot_evc (g : Boot → Boot) : (c.setBoot g).evc = c.evc := rfl
@[simp] theorem Chip.setBoot_tim (g : Boot → Boot) : (c.setBoot g).tim = c.tim := rfl
@[simp] theorem Chip.setBoot_elements (g : Boot → Boot) : (c.setBoot g).elements = c.elements := rfl
@[simp] theorem Chip.setBoot_meters (g : Boot → Boot) : (c.setBoot g).meters = c.meters := rfl
@[simp] theorem Chip.setBoot_fold (g : Boot → Boot) : (c.setBoot g).fold = c.fold := rfl
@[simp] theorem Chip.setBoot_trf (g : Boot → Boot) : (c.setBoot g).trf = c.trf := rfl
@[simp] theorem Chip.setBoot_dmd (g : Boot → Boot) : (c.setBoot g).dmd = c.dmd := rfl
@[simp] theorem Chip.setBoot_led (g : Boot → Boot) : (c.setBoot g).led = c.led := rfl
@[simp] theorem Chip.setBoot_dsp (g : Boot → Boot) : (c.setBoot g).dsp = c.dsp := rfl
@[simp] theorem Chip.setBoot_ports (g : Boot → Boot) : (c.setBoot g).ports = c.ports := rfl
@[simp] theorem Chip.setBoot_can (g : Boot → Boot) : (c.setBoot g).can = c.can := rfl
@[simp] theorem Chip.setBoot_load (g : Boot → Boot) : (c.setBoot g).load = c.load := rfl
@[simp] theorem Chip.setBoot_saf (g : Boot → Boot) : (c.setBoot g).saf = c.saf := rfl
@[simp] theorem Chip.setBoot_pair (g : Boot → Boot) : (c.setBoot g).pair = c.pair := rfl
@[simp] theorem Chip.setBoot_net (g : Boot → Boot) : (c.setBoot g).net = c.net := rfl
@[simp] theorem Chip.setBoot_mlk (g : Boot → Boot) : (c.setBoot g).mlk = c.mlk := rfl
@[simp] theorem Chip.setBoot_tag (g : Boot → Boot) : (c.setBoot g).tag = c.tag := rfl
@[simp] theorem Chip.setBoot_vlt (g : Boot → Boot) : (c.setBoot g).vlt = c.vlt := rfl
@[simp] theorem Chip.setBoot_boot (g : Boot → Boot) : (c.setBoot g).boot = g c.boot := rfl

/-! ### State.after -/

@[simp] theorem State.after_chip (s : State) (d : Chip) : (s.after d).chip = d := rfl
@[simp] theorem State.after_pending (s : State) (d : Chip) : (s.after d).pending = s.pending := rfl
@[simp] theorem State.effect_eq (s : State) (f : Chip → Chip) : s.effect f = .next (s.after (f s.chip)) := rfl

end Sys2Proof.Machine
end

