-- ==== Sys2Proof/Laws/Events.lean ====
section
/-! SUPPORT. What raising an event and reporting a fault can do: an event writes registers and the redirections
held by the event controller only, a fault the list of faults only. -/

namespace Sys2Proof.Machine

/-- d differs from c in its registers and in what the event controller holds, at most. -/
def Chip.RegsOnly (c d : Chip) : Prop := d = { c with regs := d.regs, evc := d.evc }

theorem Chip.RegsOnly.variant {c d : Chip} (h : c.RegsOnly d) : d.variant = c.variant := by unfold Chip.RegsOnly at h; rw [h]
theorem Chip.RegsOnly.latch {c d : Chip} (h : c.RegsOnly d) : d.latch = c.latch := by unfold Chip.RegsOnly at h; rw [h]
theorem Chip.RegsOnly.rdata {c d : Chip} (h : c.RegsOnly d) : d.rdata = c.rdata := by unfold Chip.RegsOnly at h; rw [h]
theorem Chip.RegsOnly.mem {c d : Chip} (h : c.RegsOnly d) : d.mem = c.mem := by unfold Chip.RegsOnly at h; rw [h]
theorem Chip.RegsOnly.mram {c d : Chip} (h : c.RegsOnly d) : d.mram = c.mram := by unfold Chip.RegsOnly at h; rw [h]
theorem Chip.RegsOnly.stride {c d : Chip} (h : c.RegsOnly d) : d.stride = c.stride := by unfold Chip.RegsOnly at h; rw [h]
theorem Chip.RegsOnly.strideNext {c d : Chip} (h : c.RegsOnly d) : d.strideNext = c.strideNext := by unfold Chip.RegsOnly at h; rw [h]
theorem Chip.RegsOnly.cycle {c d : Chip} (h : c.RegsOnly d) : d.cycle = c.cycle := by unfold Chip.RegsOnly at h; rw [h]
theorem Chip.RegsOnly.lc {c d : Chip} (h : c.RegsOnly d) : d.lc = c.lc := by unfold Chip.RegsOnly at h; rw [h]
theorem Chip.RegsOnly.drawn {c d : Chip} (h : c.RegsOnly d) : d.drawn = c.drawn := by unfold Chip.RegsOnly at h; rw [h]
theorem Chip.RegsOnly.faults {c d : Chip} (h : c.RegsOnly d) : d.faults = c.faults := by unfold Chip.RegsOnly at h; rw [h]
theorem Chip.RegsOnly.stg {c d : Chip} (h : c.RegsOnly d) : d.stg = c.stg := by unfold Chip.RegsOnly at h; rw [h]
theorem Chip.RegsOnly.tim {c d : Chip} (h : c.RegsOnly d) : d.tim = c.tim := by unfold Chip.RegsOnly at h; rw [h]
theorem Chip.RegsOnly.elements {c d : Chip} (h : c.RegsOnly d) : d.elements = c.elements := by unfold Chip.RegsOnly at h; rw [h]
theorem Chip.RegsOnly.meters {c d : Chip} (h : c.RegsOnly d) : d.meters = c.meters := by unfold Chip.RegsOnly at h; rw [h]
theorem Chip.RegsOnly.fold {c d : Chip} (h : c.RegsOnly d) : d.fold = c.fold := by unfold Chip.RegsOnly at h; rw [h]
theorem Chip.RegsOnly.trf {c d : Chip} (h : c.RegsOnly d) : d.trf = c.trf := by unfold Chip.RegsOnly at h; rw [h]
theorem Chip.RegsOnly.dmd {c d : Chip} (h : c.RegsOnly d) : d.dmd = c.dmd := by unfold Chip.RegsOnly at h; rw [h]
theorem Chip.RegsOnly.led {c d : Chip} (h : c.RegsOnly d) : d.led = c.led := by unfold Chip.RegsOnly at h; rw [h]
theorem Chip.RegsOnly.dsp {c d : Chip} (h : c.RegsOnly d) : d.dsp = c.dsp := by unfold Chip.RegsOnly at h; rw [h]
theorem Chip.RegsOnly.ports {c d : Chip} (h : c.RegsOnly d) : d.ports = c.ports := by unfold Chip.RegsOnly at h; rw [h]
theorem Chip.RegsOnly.can {c d : Chip} (h : c.RegsOnly d) : d.can = c.can := by unfold Chip.RegsOnly at h; rw [h]
theorem Chip.RegsOnly.load {c d : Chip} (h : c.RegsOnly d) : d.load = c.load := by unfold Chip.RegsOnly at h; rw [h]
theorem Chip.RegsOnly.saf {c d : Chip} (h : c.RegsOnly d) : d.saf = c.saf := by unfold Chip.RegsOnly at h; rw [h]
theorem Chip.RegsOnly.pair {c d : Chip} (h : c.RegsOnly d) : d.pair = c.pair := by unfold Chip.RegsOnly at h; rw [h]
theorem Chip.RegsOnly.net {c d : Chip} (h : c.RegsOnly d) : d.net = c.net := by unfold Chip.RegsOnly at h; rw [h]
theorem Chip.RegsOnly.mlk {c d : Chip} (h : c.RegsOnly d) : d.mlk = c.mlk := by unfold Chip.RegsOnly at h; rw [h]
theorem Chip.RegsOnly.tag {c d : Chip} (h : c.RegsOnly d) : d.tag = c.tag := by unfold Chip.RegsOnly at h; rw [h]
theorem Chip.RegsOnly.vlt {c d : Chip} (h : c.RegsOnly d) : d.vlt = c.vlt := by unfold Chip.RegsOnly at h; rw [h]
theorem Chip.RegsOnly.boot {c d : Chip} (h : c.RegsOnly d) : d.boot = c.boot := by unfold Chip.RegsOnly at h; rw [h]

theorem Chip.RegsOnly.refl (c : Chip) : c.RegsOnly c := rfl

theorem Chip.RegsOnly.trans {c d e : Chip} (h : c.RegsOnly d) (g : d.RegsOnly e) : c.RegsOnly e := by
  unfold Chip.RegsOnly at *
  rw [g, h]

theorem Chip.RegsOnly.setFlag {c d : Chip} (h : c.RegsOnly d) (f : Fld) (b : Bool) : c.RegsOnly (d.setFlag f b) := h.trans rfl

theorem Chip.RegsOnly.setEvc {c d : Chip} (h : c.RegsOnly d) (e : Events) : c.RegsOnly { d with evc := e } := h.trans rfl

/-- A choice between two blocks, and a fold, keep the relation. -/
theorem Chip.RegsOnly.ite {c d e : Chip} {p : Prop} [Decidable p] (h : c.RegsOnly d) (g : c.RegsOnly e) : c.RegsOnly (if p then d else e) := by
  split
  · exact h
  · exact g

theorem Chip.RegsOnly.foldl {α : Type} {f : Chip → α → Chip} (hf : ∀ (d : Chip) (a : α), d.RegsOnly (f d a)) :
    ∀ (l : List α) {c d : Chip}, c.RegsOnly d → c.RegsOnly (l.foldl f d)
  | [], _, _, h => h
  | a :: l, _, d, h => Chip.RegsOnly.foldl hf l (h.trans (hf d a))

theorem Chip.RegsOnly.forN {f : Nat → Chip → Chip} (hf : ∀ (k : Nat) (d : Chip), d.RegsOnly (f k d)) (n : Nat) {c d : Chip} (h : c.RegsOnly d) :
    c.RegsOnly (forN n f d) := Chip.RegsOnly.foldl (fun d k => hf k d) _ h

theorem Chip.edgeEv_regs (c : Chip) (page k : Nat) : c.RegsOnly (c.edgeEv page k) := by
  unfold Chip.edgeEv
  exact .ite (.setFlag (.refl c) _ _) (.refl c)

theorem Chip.wakeCores_regs (c : Chip) : c.RegsOnly c.wakeCores :=
  .forN (fun _ d => .ite (.setFlag (.refl d) _ _) (.refl d)) 8 (.refl c)

theorem Chip.firePrivate_regs (c : Chip) (t k : Nat) : c.RegsOnly (c.firePrivate t k) :=
  (Chip.RegsOnly.setFlag (.refl c) _ _).trans (Chip.wakeCores_regs _)

theorem Chip.settleRedirection_regs (c : Chip) : c.RegsOnly c.settleRedirection := by
  unfold Chip.settleRedirection
  refine .ite (.refl c) (Chip.RegsOnly.setEvc (.forN (fun _ d => .setFlag (.refl d) _ _) 8 (.foldl (fun d r => ?_) _ (.refl c))) _)
  have h : d.RegsOnly ((d.setFlag (srcRedir r.1) true).edgeEv 0x40010000 1) := (Chip.RegsOnly.setFlag (.refl d) _ _).trans (Chip.edgeEv_regs _ _ _)
  exact .ite h (.setFlag (h.trans (Chip.firePrivate_regs _ _ _)) _ _)

theorem Chip.settleEvents_regs (c : Chip) : c.RegsOnly c.settleEvents := (Chip.settleRedirection_regs c).trans (Chip.wakeCores_regs _)

theorem Chip.raiseEv_regs (c : Chip) (page k : Nat) : c.RegsOnly (c.raiseEv page k) :=
  (Chip.edgeEv_regs c page k).trans (Chip.settleEvents_regs _)

theorem Chip.setRaw_regs (c : Chip) (page k : Nat) (b : Bool) : c.RegsOnly (c.setRaw page k b) := by
  have h : c.RegsOnly (c.setFlag (evRaw page k) b) := .setFlag (.refl c) _ _
  exact .ite (h.trans (Chip.raiseEv_regs _ _ _)) (.ite h (h.trans (Chip.settleEvents_regs _)))

theorem Chip.fireShared_regs (c : Chip) (id : Nat) : c.RegsOnly (c.fireShared id) :=
  (Chip.RegsOnly.setFlag (.refl c) _ _).trans (Chip.settleEvents_regs _)

variable (c : Chip)

/-! ### edgeEv -/

@[simp] theorem Chip.edgeEv_variant (page k : Nat) : (c.edgeEv page k).variant = c.variant :=
  (Chip.edgeEv_regs c page k).variant
@[simp] theorem Chip.edgeEv_latch (page k : Nat) : (c.edgeEv page k).latch = c.latch :=
  (Chip.edgeEv_regs c page k).latch
@[simp] theorem Chip.edgeEv_rdata (page k : Nat) : (c.edgeEv page k).rdata = c.rdata :=
  (Chip.edgeEv_regs c page k).rdata
@[simp] theorem Chip.edgeEv_mem (page k : Nat) : (c.edgeEv page k).mem = c.mem :=
  (Chip.edgeEv_regs c page k).mem
@[simp] theorem Chip.edgeEv_mram (page k : Nat) : (c.edgeEv page k).mram = c.mram :=
  (Chip.edgeEv_regs c page k).mram
@[simp] theorem Chip.edgeEv_stride (page k : Nat) : (c.edgeEv page k).stride = c.stride :=
  (Chip.edgeEv_regs c page k).stride
@[simp] theorem Chip.edgeEv_strideNext (page k : Nat) : (c.edgeEv page k).strideNext = c.strideNext :=
  (Chip.edgeEv_regs c page k).strideNext
@[simp] theorem Chip.edgeEv_cycle (page k : Nat) : (c.edgeEv page k).cycle = c.cycle :=
  (Chip.edgeEv_regs c page k).cycle
@[simp] theorem Chip.edgeEv_lc (page k : Nat) : (c.edgeEv page k).lc = c.lc :=
  (Chip.edgeEv_regs c page k).lc
@[simp] theorem Chip.edgeEv_drawn (page k : Nat) : (c.edgeEv page k).drawn = c.drawn :=
  (Chip.edgeEv_regs c page k).drawn
@[simp] theorem Chip.edgeEv_faults (page k : Nat) : (c.edgeEv page k).faults = c.faults :=
  (Chip.edgeEv_regs c page k).faults
@[simp] theorem Chip.edgeEv_stg (page k : Nat) : (c.edgeEv page k).stg = c.stg :=
  (Chip.edgeEv_regs c page k).stg
@[simp] theorem Chip.edgeEv_tim (page k : Nat) : (c.edgeEv page k).tim = c.tim :=
  (Chip.edgeEv_regs c page k).tim
@[simp] theorem Chip.edgeEv_elements (page k : Nat) : (c.edgeEv page k).elements = c.elements :=
  (Chip.edgeEv_regs c page k).elements
@[simp] theorem Chip.edgeEv_meters (page k : Nat) : (c.edgeEv page k).meters = c.meters :=
  (Chip.edgeEv_regs c page k).meters
@[simp] theorem Chip.edgeEv_fold (page k : Nat) : (c.edgeEv page k).fold = c.fold :=
  (Chip.edgeEv_regs c page k).fold
@[simp] theorem Chip.edgeEv_trf (page k : Nat) : (c.edgeEv page k).trf = c.trf :=
  (Chip.edgeEv_regs c page k).trf
@[simp] theorem Chip.edgeEv_dmd (page k : Nat) : (c.edgeEv page k).dmd = c.dmd :=
  (Chip.edgeEv_regs c page k).dmd
@[simp] theorem Chip.edgeEv_led (page k : Nat) : (c.edgeEv page k).led = c.led :=
  (Chip.edgeEv_regs c page k).led
@[simp] theorem Chip.edgeEv_dsp (page k : Nat) : (c.edgeEv page k).dsp = c.dsp :=
  (Chip.edgeEv_regs c page k).dsp
@[simp] theorem Chip.edgeEv_ports (page k : Nat) : (c.edgeEv page k).ports = c.ports :=
  (Chip.edgeEv_regs c page k).ports
@[simp] theorem Chip.edgeEv_can (page k : Nat) : (c.edgeEv page k).can = c.can :=
  (Chip.edgeEv_regs c page k).can
@[simp] theorem Chip.edgeEv_load (page k : Nat) : (c.edgeEv page k).load = c.load :=
  (Chip.edgeEv_regs c page k).load
@[simp] theorem Chip.edgeEv_saf (page k : Nat) : (c.edgeEv page k).saf = c.saf :=
  (Chip.edgeEv_regs c page k).saf
@[simp] theorem Chip.edgeEv_pair (page k : Nat) : (c.edgeEv page k).pair = c.pair :=
  (Chip.edgeEv_regs c page k).pair
@[simp] theorem Chip.edgeEv_net (page k : Nat) : (c.edgeEv page k).net = c.net :=
  (Chip.edgeEv_regs c page k).net
@[simp] theorem Chip.edgeEv_mlk (page k : Nat) : (c.edgeEv page k).mlk = c.mlk :=
  (Chip.edgeEv_regs c page k).mlk
@[simp] theorem Chip.edgeEv_tag (page k : Nat) : (c.edgeEv page k).tag = c.tag :=
  (Chip.edgeEv_regs c page k).tag
@[simp] theorem Chip.edgeEv_vlt (page k : Nat) : (c.edgeEv page k).vlt = c.vlt :=
  (Chip.edgeEv_regs c page k).vlt
@[simp] theorem Chip.edgeEv_boot (page k : Nat) : (c.edgeEv page k).boot = c.boot :=
  (Chip.edgeEv_regs c page k).boot

/-! ### wakeCores -/

@[simp] theorem Chip.wakeCores_variant : (c.wakeCores).variant = c.variant :=
  (Chip.wakeCores_regs c).variant
@[simp] theorem Chip.wakeCores_latch : (c.wakeCores).latch = c.latch :=
  (Chip.wakeCores_regs c).latch
@[simp] theorem Chip.wakeCores_rdata : (c.wakeCores).rdata = c.rdata :=
  (Chip.wakeCores_regs c).rdata
@[simp] theorem Chip.wakeCores_mem : (c.wakeCores).mem = c.mem :=
  (Chip.wakeCores_regs c).mem
@[simp] theorem Chip.wakeCores_mram : (c.wakeCores).mram = c.mram :=
  (Chip.wakeCores_regs c).mram
@[simp] theorem Chip.wakeCores_stride : (c.wakeCores).stride = c.stride :=
  (Chip.wakeCores_regs c).stride
@[simp] theorem Chip.wakeCores_strideNext : (c.wakeCores).strideNext = c.strideNext :=
  (Chip.wakeCores_regs c).strideNext
@[simp] theorem Chip.wakeCores_cycle : (c.wakeCores).cycle = c.cycle :=
  (Chip.wakeCores_regs c).cycle
@[simp] theorem Chip.wakeCores_lc : (c.wakeCores).lc = c.lc :=
  (Chip.wakeCores_regs c).lc
@[simp] theorem Chip.wakeCores_drawn : (c.wakeCores).drawn = c.drawn :=
  (Chip.wakeCores_regs c).drawn
@[simp] theorem Chip.wakeCores_faults : (c.wakeCores).faults = c.faults :=
  (Chip.wakeCores_regs c).faults
@[simp] theorem Chip.wakeCores_stg : (c.wakeCores).stg = c.stg :=
  (Chip.wakeCores_regs c).stg
@[simp] theorem Chip.wakeCores_tim : (c.wakeCores).tim = c.tim :=
  (Chip.wakeCores_regs c).tim
@[simp] theorem Chip.wakeCores_elements : (c.wakeCores).elements = c.elements :=
  (Chip.wakeCores_regs c).elements
@[simp] theorem Chip.wakeCores_meters : (c.wakeCores).meters = c.meters :=
  (Chip.wakeCores_regs c).meters
@[simp] theorem Chip.wakeCores_fold : (c.wakeCores).fold = c.fold :=
  (Chip.wakeCores_regs c).fold
@[simp] theorem Chip.wakeCores_trf : (c.wakeCores).trf = c.trf :=
  (Chip.wakeCores_regs c).trf
@[simp] theorem Chip.wakeCores_dmd : (c.wakeCores).dmd = c.dmd :=
  (Chip.wakeCores_regs c).dmd
@[simp] theorem Chip.wakeCores_led : (c.wakeCores).led = c.led :=
  (Chip.wakeCores_regs c).led
@[simp] theorem Chip.wakeCores_dsp : (c.wakeCores).dsp = c.dsp :=
  (Chip.wakeCores_regs c).dsp
@[simp] theorem Chip.wakeCores_ports : (c.wakeCores).ports = c.ports :=
  (Chip.wakeCores_regs c).ports
@[simp] theorem Chip.wakeCores_can : (c.wakeCores).can = c.can :=
  (Chip.wakeCores_regs c).can
@[simp] theorem Chip.wakeCores_load : (c.wakeCores).load = c.load :=
  (Chip.wakeCores_regs c).load
@[simp] theorem Chip.wakeCores_saf : (c.wakeCores).saf = c.saf :=
  (Chip.wakeCores_regs c).saf
@[simp] theorem Chip.wakeCores_pair : (c.wakeCores).pair = c.pair :=
  (Chip.wakeCores_regs c).pair
@[simp] theorem Chip.wakeCores_net : (c.wakeCores).net = c.net :=
  (Chip.wakeCores_regs c).net
@[simp] theorem Chip.wakeCores_mlk : (c.wakeCores).mlk = c.mlk :=
  (Chip.wakeCores_regs c).mlk
@[simp] theorem Chip.wakeCores_tag : (c.wakeCores).tag = c.tag :=
  (Chip.wakeCores_regs c).tag
@[simp] theorem Chip.wakeCores_vlt : (c.wakeCores).vlt = c.vlt :=
  (Chip.wakeCores_regs c).vlt
@[simp] theorem Chip.wakeCores_boot : (c.wakeCores).boot = c.boot :=
  (Chip.wakeCores_regs c).boot

/-! ### firePrivate -/

@[simp] theorem Chip.firePrivate_variant (t k : Nat) : (c.firePrivate t k).variant = c.variant :=
  (Chip.firePrivate_regs c t k).variant
@[simp] theorem Chip.firePrivate_latch (t k : Nat) : (c.firePrivate t k).latch = c.latch :=
  (Chip.firePrivate_regs c t k).latch
@[simp] theorem Chip.firePrivate_rdata (t k : Nat) : (c.firePrivate t k).rdata = c.rdata :=
  (Chip.firePrivate_regs c t k).rdata
@[simp] theorem Chip.firePrivate_mem (t k : Nat) : (c.firePrivate t k).mem = c.mem :=
  (Chip.firePrivate_regs c t k).mem
@[simp] theorem Chip.firePrivate_mram (t k : Nat) : (c.firePrivate t k).mram = c.mram :=
  (Chip.firePrivate_regs c t k).mram
@[simp] theorem Chip.firePrivate_stride (t k : Nat) : (c.firePrivate t k).stride = c.stride :=
  (Chip.firePrivate_regs c t k).stride
@[simp] theorem Chip.firePrivate_strideNext (t k : Nat) : (c.firePrivate t k).strideNext = c.strideNext :=
  (Chip.firePrivate_regs c t k).strideNext
@[simp] theorem Chip.firePrivate_cycle (t k : Nat) : (c.firePrivate t k).cycle = c.cycle :=
  (Chip.firePrivate_regs c t k).cycle
@[simp] theorem Chip.firePrivate_lc (t k : Nat) : (c.firePrivate t k).lc = c.lc :=
  (Chip.firePrivate_regs c t k).lc
@[simp] theorem Chip.firePrivate_drawn (t k : Nat) : (c.firePrivate t k).drawn = c.drawn :=
  (Chip.firePrivate_regs c t k).drawn
@[simp] theorem Chip.firePrivate_faults (t k : Nat) : (c.firePrivate t k).faults = c.faults :=
  (Chip.firePrivate_regs c t k).faults
@[simp] theorem Chip.firePrivate_stg (t k : Nat) : (c.firePrivate t k).stg = c.stg :=
  (Chip.firePrivate_regs c t k).stg
@[simp] theorem Chip.firePrivate_tim (t k : Nat) : (c.firePrivate t k).tim = c.tim :=
  (Chip.firePrivate_regs c t k).tim
@[simp] theorem Chip.firePrivate_elements (t k : Nat) : (c.firePrivate t k).elements = c.elements :=
  (Chip.firePrivate_regs c t k).elements
@[simp] theorem Chip.firePrivate_meters (t k : Nat) : (c.firePrivate t k).meters = c.meters :=
  (Chip.firePrivate_regs c t k).meters
@[simp] theorem Chip.firePrivate_fold (t k : Nat) : (c.firePrivate t k).fold = c.fold :=
  (Chip.firePrivate_regs c t k).fold
@[simp] theorem Chip.firePrivate_trf (t k : Nat) : (c.firePrivate t k).trf = c.trf :=
  (Chip.firePrivate_regs c t k).trf
@[simp] theorem Chip.firePrivate_dmd (t k : Nat) : (c.firePrivate t k).dmd = c.dmd :=
  (Chip.firePrivate_regs c t k).dmd
@[simp] theorem Chip.firePrivate_led (t k : Nat) : (c.firePrivate t k).led = c.led :=
  (Chip.firePrivate_regs c t k).led
@[simp] theorem Chip.firePrivate_dsp (t k : Nat) : (c.firePrivate t k).dsp = c.dsp :=
  (Chip.firePrivate_regs c t k).dsp
@[simp] theorem Chip.firePrivate_ports (t k : Nat) : (c.firePrivate t k).ports = c.ports :=
  (Chip.firePrivate_regs c t k).ports
@[simp] theorem Chip.firePrivate_can (t k : Nat) : (c.firePrivate t k).can = c.can :=
  (Chip.firePrivate_regs c t k).can
@[simp] theorem Chip.firePrivate_load (t k : Nat) : (c.firePrivate t k).load = c.load :=
  (Chip.firePrivate_regs c t k).load
@[simp] theorem Chip.firePrivate_saf (t k : Nat) : (c.firePrivate t k).saf = c.saf :=
  (Chip.firePrivate_regs c t k).saf
@[simp] theorem Chip.firePrivate_pair (t k : Nat) : (c.firePrivate t k).pair = c.pair :=
  (Chip.firePrivate_regs c t k).pair
@[simp] theorem Chip.firePrivate_net (t k : Nat) : (c.firePrivate t k).net = c.net :=
  (Chip.firePrivate_regs c t k).net
@[simp] theorem Chip.firePrivate_mlk (t k : Nat) : (c.firePrivate t k).mlk = c.mlk :=
  (Chip.firePrivate_regs c t k).mlk
@[simp] theorem Chip.firePrivate_tag (t k : Nat) : (c.firePrivate t k).tag = c.tag :=
  (Chip.firePrivate_regs c t k).tag
@[simp] theorem Chip.firePrivate_vlt (t k : Nat) : (c.firePrivate t k).vlt = c.vlt :=
  (Chip.firePrivate_regs c t k).vlt
@[simp] theorem Chip.firePrivate_boot (t k : Nat) : (c.firePrivate t k).boot = c.boot :=
  (Chip.firePrivate_regs c t k).boot

/-! ### settleRedirection -/

@[simp] theorem Chip.settleRedirection_variant : (c.settleRedirection).variant = c.variant :=
  (Chip.settleRedirection_regs c).variant
@[simp] theorem Chip.settleRedirection_latch : (c.settleRedirection).latch = c.latch :=
  (Chip.settleRedirection_regs c).latch
@[simp] theorem Chip.settleRedirection_rdata : (c.settleRedirection).rdata = c.rdata :=
  (Chip.settleRedirection_regs c).rdata
@[simp] theorem Chip.settleRedirection_mem : (c.settleRedirection).mem = c.mem :=
  (Chip.settleRedirection_regs c).mem
@[simp] theorem Chip.settleRedirection_mram : (c.settleRedirection).mram = c.mram :=
  (Chip.settleRedirection_regs c).mram
@[simp] theorem Chip.settleRedirection_stride : (c.settleRedirection).stride = c.stride :=
  (Chip.settleRedirection_regs c).stride
@[simp] theorem Chip.settleRedirection_strideNext : (c.settleRedirection).strideNext = c.strideNext :=
  (Chip.settleRedirection_regs c).strideNext
@[simp] theorem Chip.settleRedirection_cycle : (c.settleRedirection).cycle = c.cycle :=
  (Chip.settleRedirection_regs c).cycle
@[simp] theorem Chip.settleRedirection_lc : (c.settleRedirection).lc = c.lc :=
  (Chip.settleRedirection_regs c).lc
@[simp] theorem Chip.settleRedirection_drawn : (c.settleRedirection).drawn = c.drawn :=
  (Chip.settleRedirection_regs c).drawn
@[simp] theorem Chip.settleRedirection_faults : (c.settleRedirection).faults = c.faults :=
  (Chip.settleRedirection_regs c).faults
@[simp] theorem Chip.settleRedirection_stg : (c.settleRedirection).stg = c.stg :=
  (Chip.settleRedirection_regs c).stg
@[simp] theorem Chip.settleRedirection_tim : (c.settleRedirection).tim = c.tim :=
  (Chip.settleRedirection_regs c).tim
@[simp] theorem Chip.settleRedirection_elements : (c.settleRedirection).elements = c.elements :=
  (Chip.settleRedirection_regs c).elements
@[simp] theorem Chip.settleRedirection_meters : (c.settleRedirection).meters = c.meters :=
  (Chip.settleRedirection_regs c).meters
@[simp] theorem Chip.settleRedirection_fold : (c.settleRedirection).fold = c.fold :=
  (Chip.settleRedirection_regs c).fold
@[simp] theorem Chip.settleRedirection_trf : (c.settleRedirection).trf = c.trf :=
  (Chip.settleRedirection_regs c).trf
@[simp] theorem Chip.settleRedirection_dmd : (c.settleRedirection).dmd = c.dmd :=
  (Chip.settleRedirection_regs c).dmd
@[simp] theorem Chip.settleRedirection_led : (c.settleRedirection).led = c.led :=
  (Chip.settleRedirection_regs c).led
@[simp] theorem Chip.settleRedirection_dsp : (c.settleRedirection).dsp = c.dsp :=
  (Chip.settleRedirection_regs c).dsp
@[simp] theorem Chip.settleRedirection_ports : (c.settleRedirection).ports = c.ports :=
  (Chip.settleRedirection_regs c).ports
@[simp] theorem Chip.settleRedirection_can : (c.settleRedirection).can = c.can :=
  (Chip.settleRedirection_regs c).can
@[simp] theorem Chip.settleRedirection_load : (c.settleRedirection).load = c.load :=
  (Chip.settleRedirection_regs c).load
@[simp] theorem Chip.settleRedirection_saf : (c.settleRedirection).saf = c.saf :=
  (Chip.settleRedirection_regs c).saf
@[simp] theorem Chip.settleRedirection_pair : (c.settleRedirection).pair = c.pair :=
  (Chip.settleRedirection_regs c).pair
@[simp] theorem Chip.settleRedirection_net : (c.settleRedirection).net = c.net :=
  (Chip.settleRedirection_regs c).net
@[simp] theorem Chip.settleRedirection_mlk : (c.settleRedirection).mlk = c.mlk :=
  (Chip.settleRedirection_regs c).mlk
@[simp] theorem Chip.settleRedirection_tag : (c.settleRedirection).tag = c.tag :=
  (Chip.settleRedirection_regs c).tag
@[simp] theorem Chip.settleRedirection_vlt : (c.settleRedirection).vlt = c.vlt :=
  (Chip.settleRedirection_regs c).vlt
@[simp] theorem Chip.settleRedirection_boot : (c.settleRedirection).boot = c.boot :=
  (Chip.settleRedirection_regs c).boot

/-! ### settleEvents -/

@[simp] theorem Chip.settleEvents_variant : (c.settleEvents).variant = c.variant :=
  (Chip.settleEvents_regs c).variant
@[simp] theorem Chip.settleEvents_latch : (c.settleEvents).latch = c.latch :=
  (Chip.settleEvents_regs c).latch
@[simp] theorem Chip.settleEvents_rdata : (c.settleEvents).rdata = c.rdata :=
  (Chip.settleEvents_regs c).rdata
@[simp] theorem Chip.settleEvents_mem : (c.settleEvents).mem = c.mem :=
  (Chip.settleEvents_regs c).mem
@[simp] theorem Chip.settleEvents_mram : (c.settleEvents).mram = c.mram :=
  (Chip.settleEvents_regs c).mram
@[simp] theorem Chip.settleEvents_stride : (c.settleEvents).stride = c.stride :=
  (Chip.settleEvents_regs c).stride
@[simp] theorem Chip.settleEvents_strideNext : (c.settleEvents).strideNext = c.strideNext :=
  (Chip.settleEvents_regs c).strideNext
@[simp] theorem Chip.settleEvents_cycle : (c.settleEvents).cycle = c.cycle :=
  (Chip.settleEvents_regs c).cycle
@[simp] theorem Chip.settleEvents_lc : (c.settleEvents).lc = c.lc :=
  (Chip.settleEvents_regs c).lc
@[simp] theorem Chip.settleEvents_drawn : (c.settleEvents).drawn = c.drawn :=
  (Chip.settleEvents_regs c).drawn
@[simp] theorem Chip.settleEvents_faults : (c.settleEvents).faults = c.faults :=
  (Chip.settleEvents_regs c).faults
@[simp] theorem Chip.settleEvents_stg : (c.settleEvents).stg = c.stg :=
  (Chip.settleEvents_regs c).stg
@[simp] theorem Chip.settleEvents_tim : (c.settleEvents).tim = c.tim :=
  (Chip.settleEvents_regs c).tim
@[simp] theorem Chip.settleEvents_elements : (c.settleEvents).elements = c.elements :=
  (Chip.settleEvents_regs c).elements
@[simp] theorem Chip.settleEvents_meters : (c.settleEvents).meters = c.meters :=
  (Chip.settleEvents_regs c).meters
@[simp] theorem Chip.settleEvents_fold : (c.settleEvents).fold = c.fold :=
  (Chip.settleEvents_regs c).fold
@[simp] theorem Chip.settleEvents_trf : (c.settleEvents).trf = c.trf :=
  (Chip.settleEvents_regs c).trf
@[simp] theorem Chip.settleEvents_dmd : (c.settleEvents).dmd = c.dmd :=
  (Chip.settleEvents_regs c).dmd
@[simp] theorem Chip.settleEvents_led : (c.settleEvents).led = c.led :=
  (Chip.settleEvents_regs c).led
@[simp] theorem Chip.settleEvents_dsp : (c.settleEvents).dsp = c.dsp :=
  (Chip.settleEvents_regs c).dsp
@[simp] theorem Chip.settleEvents_ports : (c.settleEvents).ports = c.ports :=
  (Chip.settleEvents_regs c).ports
@[simp] theorem Chip.settleEvents_can : (c.settleEvents).can = c.can :=
  (Chip.settleEvents_regs c).can
@[simp] theorem Chip.settleEvents_load : (c.settleEvents).load = c.load :=
  (Chip.settleEvents_regs c).load
@[simp] theorem Chip.settleEvents_saf : (c.settleEvents).saf = c.saf :=
  (Chip.settleEvents_regs c).saf
@[simp] theorem Chip.settleEvents_pair : (c.settleEvents).pair = c.pair :=
  (Chip.settleEvents_regs c).pair
@[simp] theorem Chip.settleEvents_net : (c.settleEvents).net = c.net :=
  (Chip.settleEvents_regs c).net
@[simp] theorem Chip.settleEvents_mlk : (c.settleEvents).mlk = c.mlk :=
  (Chip.settleEvents_regs c).mlk
@[simp] theorem Chip.settleEvents_tag : (c.settleEvents).tag = c.tag :=
  (Chip.settleEvents_regs c).tag
@[simp] theorem Chip.settleEvents_vlt : (c.settleEvents).vlt = c.vlt :=
  (Chip.settleEvents_regs c).vlt
@[simp] theorem Chip.settleEvents_boot : (c.settleEvents).boot = c.boot :=
  (Chip.settleEvents_regs c).boot

/-! ### raiseEv -/

@[simp] theorem Chip.raiseEv_variant (page k : Nat) : (c.raiseEv page k).variant = c.variant :=
  (Chip.raiseEv_regs c page k).variant
@[simp] theorem Chip.raiseEv_latch (page k : Nat) : (c.raiseEv page k).latch = c.latch :=
  (Chip.raiseEv_regs c page k).latch
@[simp] theorem Chip.raiseEv_rdata (page k : Nat) : (c.raiseEv page k).rdata = c.rdata :=
  (Chip.raiseEv_regs c page k).rdata
@[simp] theorem Chip.raiseEv_mem (page k : Nat) : (c.raiseEv page k).mem = c.mem :=
  (Chip.raiseEv_regs c page k).mem
@[simp] theorem Chip.raiseEv_mram (page k : Nat) : (c.raiseEv page k).mram = c.mram :=
  (Chip.raiseEv_regs c page k).mram
@[simp] theorem Chip.raiseEv_stride (page k : Nat) : (c.raiseEv page k).stride = c.stride :=
  (Chip.raiseEv_regs c page k).stride
@[simp] theorem Chip.raiseEv_strideNext (page k : Nat) : (c.raiseEv page k).strideNext = c.strideNext :=
  (Chip.raiseEv_regs c page k).strideNext
@[simp] theorem Chip.raiseEv_cycle (page k : Nat) : (c.raiseEv page k).cycle = c.cycle :=
  (Chip.raiseEv_regs c page k).cycle
@[simp] theorem Chip.raiseEv_lc (page k : Nat) : (c.raiseEv page k).lc = c.lc :=
  (Chip.raiseEv_regs c page k).lc
@[simp] theorem Chip.raiseEv_drawn (page k : Nat) : (c.raiseEv page k).drawn = c.drawn :=
  (Chip.raiseEv_regs c page k).drawn
@[simp] theorem Chip.raiseEv_faults (page k : Nat) : (c.raiseEv page k).faults = c.faults :=
  (Chip.raiseEv_regs c page k).faults
@[simp] theorem Chip.raiseEv_stg (page k : Nat) : (c.raiseEv page k).stg = c.stg :=
  (Chip.raiseEv_regs c page k).stg
@[simp] theorem Chip.raiseEv_tim (page k : Nat) : (c.raiseEv page k).tim = c.tim :=
  (Chip.raiseEv_regs c page k).tim
@[simp] theorem Chip.raiseEv_elements (page k : Nat) : (c.raiseEv page k).elements = c.elements :=
  (Chip.raiseEv_regs c page k).elements
@[simp] theorem Chip.raiseEv_meters (page k : Nat) : (c.raiseEv page k).meters = c.meters :=
  (Chip.raiseEv_regs c page k).meters
@[simp] theorem Chip.raiseEv_fold (page k : Nat) : (c.raiseEv page k).fold = c.fold :=
  (Chip.raiseEv_regs c page k).fold
@[simp] theorem Chip.raiseEv_trf (page k : Nat) : (c.raiseEv page k).trf = c.trf :=
  (Chip.raiseEv_regs c page k).trf
@[simp] theorem Chip.raiseEv_dmd (page k : Nat) : (c.raiseEv page k).dmd = c.dmd :=
  (Chip.raiseEv_regs c page k).dmd
@[simp] theorem Chip.raiseEv_led (page k : Nat) : (c.raiseEv page k).led = c.led :=
  (Chip.raiseEv_regs c page k).led
@[simp] theorem Chip.raiseEv_dsp (page k : Nat) : (c.raiseEv page k).dsp = c.dsp :=
  (Chip.raiseEv_regs c page k).dsp
@[simp] theorem Chip.raiseEv_ports (page k : Nat) : (c.raiseEv page k).ports = c.ports :=
  (Chip.raiseEv_regs c page k).ports
@[simp] theorem Chip.raiseEv_can (page k : Nat) : (c.raiseEv page k).can = c.can :=
  (Chip.raiseEv_regs c page k).can
@[simp] theorem Chip.raiseEv_load (page k : Nat) : (c.raiseEv page k).load = c.load :=
  (Chip.raiseEv_regs c page k).load
@[simp] theorem Chip.raiseEv_saf (page k : Nat) : (c.raiseEv page k).saf = c.saf :=
  (Chip.raiseEv_regs c page k).saf
@[simp] theorem Chip.raiseEv_pair (page k : Nat) : (c.raiseEv page k).pair = c.pair :=
  (Chip.raiseEv_regs c page k).pair
@[simp] theorem Chip.raiseEv_net (page k : Nat) : (c.raiseEv page k).net = c.net :=
  (Chip.raiseEv_regs c page k).net
@[simp] theorem Chip.raiseEv_mlk (page k : Nat) : (c.raiseEv page k).mlk = c.mlk :=
  (Chip.raiseEv_regs c page k).mlk
@[simp] theorem Chip.raiseEv_tag (page k : Nat) : (c.raiseEv page k).tag = c.tag :=
  (Chip.raiseEv_regs c page k).tag
@[simp] theorem Chip.raiseEv_vlt (page k : Nat) : (c.raiseEv page k).vlt = c.vlt :=
  (Chip.raiseEv_regs c page k).vlt
@[simp] theorem Chip.raiseEv_boot (page k : Nat) : (c.raiseEv page k).boot = c.boot :=
  (Chip.raiseEv_regs c page k).boot

/-! ### setRaw -/

@[simp] theorem Chip.setRaw_variant (page k : Nat) (b : Bool) : (c.setRaw page k b).variant = c.variant :=
  (Chip.setRaw_regs c page k b).variant
@[simp] theorem Chip.setRaw_latch (page k : Nat) (b : Bool) : (c.setRaw page k b).latch = c.latch :=
  (Chip.setRaw_regs c page k b).latch
@[simp] theorem Chip.setRaw_rdata (page k : Nat) (b : Bool) : (c.setRaw page k b).rdata = c.rdata :=
  (Chip.setRaw_regs c page k b).rdata
@[simp] theorem Chip.setRaw_mem (page k : Nat) (b : Bool) : (c.setRaw page k b).mem = c.mem :=
  (Chip.setRaw_regs c page k b).mem
@[simp] theorem Chip.setRaw_mram (page k : Nat) (b : Bool) : (c.setRaw page k b).mram = c.mram :=
  (Chip.setRaw_regs c page k b).mram
@[simp] theorem Chip.setRaw_stride (page k : Nat) (b : Bool) : (c.setRaw page k b).stride = c.stride :=
  (Chip.setRaw_regs c page k b).stride
@[simp] theorem Chip.setRaw_strideNext (page k : Nat) (b : Bool) : (c.setRaw page k b).strideNext = c.strideNext :=
  (Chip.setRaw_regs c page k b).strideNext
@[simp] theorem Chip.setRaw_cycle (page k : Nat) (b : Bool) : (c.setRaw page k b).cycle = c.cycle :=
  (Chip.setRaw_regs c page k b).cycle
@[simp] theorem Chip.setRaw_lc (page k : Nat) (b : Bool) : (c.setRaw page k b).lc = c.lc :=
  (Chip.setRaw_regs c page k b).lc
@[simp] theorem Chip.setRaw_drawn (page k : Nat) (b : Bool) : (c.setRaw page k b).drawn = c.drawn :=
  (Chip.setRaw_regs c page k b).drawn
@[simp] theorem Chip.setRaw_faults (page k : Nat) (b : Bool) : (c.setRaw page k b).faults = c.faults :=
  (Chip.setRaw_regs c page k b).faults
@[simp] theorem Chip.setRaw_stg (page k : Nat) (b : Bool) : (c.setRaw page k b).stg = c.stg :=
  (Chip.setRaw_regs c page k b).stg
@[simp] theorem Chip.setRaw_tim (page k : Nat) (b : Bool) : (c.setRaw page k b).tim = c.tim :=
  (Chip.setRaw_regs c page k b).tim
@[simp] theorem Chip.setRaw_elements (page k : Nat) (b : Bool) : (c.setRaw page k b).elements = c.elements :=
  (Chip.setRaw_regs c page k b).elements
@[simp] theorem Chip.setRaw_meters (page k : Nat) (b : Bool) : (c.setRaw page k b).meters = c.meters :=
  (Chip.setRaw_regs c page k b).meters
@[simp] theorem Chip.setRaw_fold (page k : Nat) (b : Bool) : (c.setRaw page k b).fold = c.fold :=
  (Chip.setRaw_regs c page k b).fold
@[simp] theorem Chip.setRaw_trf (page k : Nat) (b : Bool) : (c.setRaw page k b).trf = c.trf :=
  (Chip.setRaw_regs c page k b).trf
@[simp] theorem Chip.setRaw_dmd (page k : Nat) (b : Bool) : (c.setRaw page k b).dmd = c.dmd :=
  (Chip.setRaw_regs c page k b).dmd
@[simp] theorem Chip.setRaw_led (page k : Nat) (b : Bool) : (c.setRaw page k b).led = c.led :=
  (Chip.setRaw_regs c page k b).led
@[simp] theorem Chip.setRaw_dsp (page k : Nat) (b : Bool) : (c.setRaw page k b).dsp = c.dsp :=
  (Chip.setRaw_regs c page k b).dsp
@[simp] theorem Chip.setRaw_ports (page k : Nat) (b : Bool) : (c.setRaw page k b).ports = c.ports :=
  (Chip.setRaw_regs c page k b).ports
@[simp] theorem Chip.setRaw_can (page k : Nat) (b : Bool) : (c.setRaw page k b).can = c.can :=
  (Chip.setRaw_regs c page k b).can
@[simp] theorem Chip.setRaw_load (page k : Nat) (b : Bool) : (c.setRaw page k b).load = c.load :=
  (Chip.setRaw_regs c page k b).load
@[simp] theorem Chip.setRaw_saf (page k : Nat) (b : Bool) : (c.setRaw page k b).saf = c.saf :=
  (Chip.setRaw_regs c page k b).saf
@[simp] theorem Chip.setRaw_pair (page k : Nat) (b : Bool) : (c.setRaw page k b).pair = c.pair :=
  (Chip.setRaw_regs c page k b).pair
@[simp] theorem Chip.setRaw_net (page k : Nat) (b : Bool) : (c.setRaw page k b).net = c.net :=
  (Chip.setRaw_regs c page k b).net
@[simp] theorem Chip.setRaw_mlk (page k : Nat) (b : Bool) : (c.setRaw page k b).mlk = c.mlk :=
  (Chip.setRaw_regs c page k b).mlk
@[simp] theorem Chip.setRaw_tag (page k : Nat) (b : Bool) : (c.setRaw page k b).tag = c.tag :=
  (Chip.setRaw_regs c page k b).tag
@[simp] theorem Chip.setRaw_vlt (page k : Nat) (b : Bool) : (c.setRaw page k b).vlt = c.vlt :=
  (Chip.setRaw_regs c page k b).vlt
@[simp] theorem Chip.setRaw_boot (page k : Nat) (b : Bool) : (c.setRaw page k b).boot = c.boot :=
  (Chip.setRaw_regs c page k b).boot

/-! ### fireShared -/

@[simp] theorem Chip.fireShared_variant (id : Nat) : (c.fireShared id).variant = c.variant :=
  (Chip.fireShared_regs c id).variant
@[simp] theorem Chip.fireShared_latch (id : Nat) : (c.fireShared id).latch = c.latch :=
  (Chip.fireShared_regs c id).latch
@[simp] theorem Chip.fireShared_rdata (id : Nat) : (c.fireShared id).rdata = c.rdata :=
  (Chip.fireShared_regs c id).rdata
@[simp] theorem Chip.fireShared_mem (id : Nat) : (c.fireShared id).mem = c.mem :=
  (Chip.fireShared_regs c id).mem
@[simp] theorem Chip.fireShared_mram (id : Nat) : (c.fireShared id).mram = c.mram :=
  (Chip.fireShared_regs c id).mram
@[simp] theorem Chip.fireShared_stride (id : Nat) : (c.fireShared id).stride = c.stride :=
  (Chip.fireShared_regs c id).stride
@[simp] theorem Chip.fireShared_strideNext (id : Nat) : (c.fireShared id).strideNext = c.strideNext :=
  (Chip.fireShared_regs c id).strideNext
@[simp] theorem Chip.fireShared_cycle (id : Nat) : (c.fireShared id).cycle = c.cycle :=
  (Chip.fireShared_regs c id).cycle
@[simp] theorem Chip.fireShared_lc (id : Nat) : (c.fireShared id).lc = c.lc :=
  (Chip.fireShared_regs c id).lc
@[simp] theorem Chip.fireShared_drawn (id : Nat) : (c.fireShared id).drawn = c.drawn :=
  (Chip.fireShared_regs c id).drawn
@[simp] theorem Chip.fireShared_faults (id : Nat) : (c.fireShared id).faults = c.faults :=
  (Chip.fireShared_regs c id).faults
@[simp] theorem Chip.fireShared_stg (id : Nat) : (c.fireShared id).stg = c.stg :=
  (Chip.fireShared_regs c id).stg
@[simp] theorem Chip.fireShared_tim (id : Nat) : (c.fireShared id).tim = c.tim :=
  (Chip.fireShared_regs c id).tim
@[simp] theorem Chip.fireShared_elements (id : Nat) : (c.fireShared id).elements = c.elements :=
  (Chip.fireShared_regs c id).elements
@[simp] theorem Chip.fireShared_meters (id : Nat) : (c.fireShared id).meters = c.meters :=
  (Chip.fireShared_regs c id).meters
@[simp] theorem Chip.fireShared_fold (id : Nat) : (c.fireShared id).fold = c.fold :=
  (Chip.fireShared_regs c id).fold
@[simp] theorem Chip.fireShared_trf (id : Nat) : (c.fireShared id).trf = c.trf :=
  (Chip.fireShared_regs c id).trf
@[simp] theorem Chip.fireShared_dmd (id : Nat) : (c.fireShared id).dmd = c.dmd :=
  (Chip.fireShared_regs c id).dmd
@[simp] theorem Chip.fireShared_led (id : Nat) : (c.fireShared id).led = c.led :=
  (Chip.fireShared_regs c id).led
@[simp] theorem Chip.fireShared_dsp (id : Nat) : (c.fireShared id).dsp = c.dsp :=
  (Chip.fireShared_regs c id).dsp
@[simp] theorem Chip.fireShared_ports (id : Nat) : (c.fireShared id).ports = c.ports :=
  (Chip.fireShared_regs c id).ports
@[simp] theorem Chip.fireShared_can (id : Nat) : (c.fireShared id).can = c.can :=
  (Chip.fireShared_regs c id).can
@[simp] theorem Chip.fireShared_load (id : Nat) : (c.fireShared id).load = c.load :=
  (Chip.fireShared_regs c id).load
@[simp] theorem Chip.fireShared_saf (id : Nat) : (c.fireShared id).saf = c.saf :=
  (Chip.fireShared_regs c id).saf
@[simp] theorem Chip.fireShared_pair (id : Nat) : (c.fireShared id).pair = c.pair :=
  (Chip.fireShared_regs c id).pair
@[simp] theorem Chip.fireShared_net (id : Nat) : (c.fireShared id).net = c.net :=
  (Chip.fireShared_regs c id).net
@[simp] theorem Chip.fireShared_mlk (id : Nat) : (c.fireShared id).mlk = c.mlk :=
  (Chip.fireShared_regs c id).mlk
@[simp] theorem Chip.fireShared_tag (id : Nat) : (c.fireShared id).tag = c.tag :=
  (Chip.fireShared_regs c id).tag
@[simp] theorem Chip.fireShared_vlt (id : Nat) : (c.fireShared id).vlt = c.vlt :=
  (Chip.fireShared_regs c id).vlt
@[simp] theorem Chip.fireShared_boot (id : Nat) : (c.fireShared id).boot = c.boot :=
  (Chip.fireShared_regs c id).boot

/-! ### setFault -/

@[simp] theorem Chip.setFault_variant (level code unit : Nat) : (c.setFault level code unit).variant = c.variant := by
  unfold Chip.setFault
  split <;> rfl
@[simp] theorem Chip.setFault_regs (level code unit : Nat) : (c.setFault level code unit).regs = c.regs := by
  unfold Chip.setFault
  split <;> rfl
@[simp] theorem Chip.setFault_latch (level code unit : Nat) : (c.setFault level code unit).latch = c.latch := by
  unfold Chip.setFault
  split <;> rfl
@[simp] theorem Chip.setFault_rdata (level code unit : Nat) : (c.setFault level code unit).rdata = c.rdata := by
  unfold Chip.setFault
  split <;> rfl
@[simp] theorem Chip.setFault_mem (level code unit : Nat) : (c.setFault level code unit).mem = c.mem := by
  unfold Chip.setFault
  split <;> rfl
@[simp] theorem Chip.setFault_mram (level code unit : Nat) : (c.setFault level code unit).mram = c.mram := by
  unfold Chip.setFault
  split <;> rfl
@[simp] theorem Chip.setFault_stride (level code unit : Nat) : (c.setFault level code unit).stride = c.stride := by
  unfold Chip.setFault
  split <;> rfl
@[simp] theorem Chip.setFault_strideNext (level code unit : Nat) : (c.setFault level code unit).strideNext = c.strideNext := by
  unfold Chip.setFault
  split <;> rfl
@[simp] theorem Chip.setFault_cycle (level code unit : Nat) : (c.setFault level code unit).cycle = c.cycle := by
  unfold Chip.setFault
  split <;> rfl
@[simp] theorem Chip.setFault_lc (level code unit : Nat) : (c.setFault level code unit).lc = c.lc := by
  unfold Chip.setFault
  split <;> rfl
@[simp] theorem Chip.setFault_drawn (level code unit : Nat) : (c.setFault level code unit).drawn = c.drawn := by
  unfold Chip.setFault
  split <;> rfl
@[simp] theorem Chip.setFault_stg (level code unit : Nat) : (c.setFault level code unit).stg = c.stg := by
  unfold Chip.setFault
  split <;> rfl
@[simp] theorem Chip.setFault_evc (level code unit : Nat) : (c.setFault level code unit).evc = c.evc := by
  unfold Chip.setFault
  split <;> rfl
@[simp] theorem Chip.setFault_tim (level code unit : Nat) : (c.setFault level code unit).tim = c.tim := by
  unfold Chip.setFault
  split <;> rfl
@[simp] theorem Chip.setFault_elements (level code unit : Nat) : (c.setFault level code unit).elements = c.elements := by
  unfold Chip.setFault
  split <;> rfl
@[simp] theorem Chip.setFault_meters (level code unit : Nat) : (c.setFault level code unit).meters = c.meters := by
  unfold Chip.setFault
  split <;> rfl
@[simp] theorem Chip.setFault_fold (level code unit : Nat) : (c.setFault level code unit).fold = c.fold := by
  unfold Chip.setFault
  split <;> rfl
@[simp] theorem Chip.setFault_trf (level code unit : Nat) : (c.setFault level code unit).trf = c.trf := by
  unfold Chip.setFault
  split <;> rfl
@[simp] theorem Chip.setFault_dmd (level code unit : Nat) : (c.setFault level code unit).dmd = c.dmd := by
  unfold Chip.setFault
  split <;> rfl
@[simp] theorem Chip.setFault_led (level code unit : Nat) : (c.setFault level code unit).led = c.led := by
  unfold Chip.setFault
  split <;> rfl
@[simp] theorem Chip.setFault_dsp (level code unit : Nat) : (c.setFault level code unit).dsp = c.dsp := by
  unfold Chip.setFault
  split <;> rfl
@[simp] theorem Chip.setFault_ports (level code unit : Nat) : (c.setFault level code unit).ports = c.ports := by
  unfold Chip.setFault
  split <;> rfl
@[simp] theorem Chip.setFault_can (level code unit : Nat) : (c.setFault level code unit).can = c.can := by
  unfold Chip.setFault
  split <;> rfl
@[simp] theorem Chip.setFault_load (level code unit : Nat) : (c.setFault level code unit).load = c.load := by
  unfold Chip.setFault
  split <;> rfl
@[simp] theorem Chip.setFault_saf (level code unit : Nat) : (c.setFault level code unit).saf = c.saf := by
  unfold Chip.setFault
  split <;> rfl
@[simp] theorem Chip.setFault_pair (level code unit : Nat) : (c.setFault level code unit).pair = c.pair := by
  unfold Chip.setFault
  split <;> rfl
@[simp] theorem Chip.setFault_net (level code unit : Nat) : (c.setFault level code unit).net = c.net := by
  unfold Chip.setFault
  split <;> rfl
@[simp] theorem Chip.setFault_mlk (level code unit : Nat) : (c.setFault level code unit).mlk = c.mlk := by
  unfold Chip.setFault
  split <;> rfl
@[simp] theorem Chip.setFault_tag (level code unit : Nat) : (c.setFault level code unit).tag = c.tag := by
  unfold Chip.setFault
  split <;> rfl
@[simp] theorem Chip.setFault_vlt (level code unit : Nat) : (c.setFault level code unit).vlt = c.vlt := by
  unfold Chip.setFault
  split <;> rfl
@[simp] theorem Chip.setFault_boot (level code unit : Nat) : (c.setFault level code unit).boot = c.boot := by
  unfold Chip.setFault
  split <;> rfl

/-! ### clearFault -/

@[simp] theorem Chip.clearFault_variant (level code unit : Nat) : (c.clearFault level code unit).variant = c.variant := by
  rfl
@[simp] theorem Chip.clearFault_regs (level code unit : Nat) : (c.clearFault level code unit).regs = c.regs := by
  rfl
@[simp] theorem Chip.clearFault_latch (level code unit : Nat) : (c.clearFault level code unit).latch = c.latch := by
  rfl
@[simp] theorem Chip.clearFault_rdata (level code unit : Nat) : (c.clearFault level code unit).rdata = c.rdata := by
  rfl
@[simp] theorem Chip.clearFault_mem (level code unit : Nat) : (c.clearFault level code unit).mem = c.mem := by
  rfl
@[simp] theorem Chip.clearFault_mram (level code unit : Nat) : (c.clearFault level code unit).mram = c.mram := by
  rfl
@[simp] theorem Chip.clearFault_stride (level code unit : Nat) : (c.clearFault level code unit).stride = c.stride := by
  rfl
@[simp] theorem Chip.clearFault_strideNext (level code unit : Nat) : (c.clearFault level code unit).strideNext = c.strideNext := by
  rfl
@[simp] theorem Chip.clearFault_cycle (level code unit : Nat) : (c.clearFault level code unit).cycle = c.cycle := by
  rfl
@[simp] theorem Chip.clearFault_lc (level code unit : Nat) : (c.clearFault level code unit).lc = c.lc := by
  rfl
@[simp] theorem Chip.clearFault_drawn (level code unit : Nat) : (c.clearFault level code unit).drawn = c.drawn := by
  rfl
@[simp] theorem Chip.clearFault_stg (level code unit : Nat) : (c.clearFault level code unit).stg = c.stg := by
  rfl
@[simp] theorem Chip.clearFault_evc (level code unit : Nat) : (c.clearFault level code unit).evc = c.evc := by
  rfl
@[simp] theorem Chip.clearFault_tim (level code unit : Nat) : (c.clearFault level code unit).tim = c.tim := by
  rfl
@[simp] theorem Chip.clearFault_elements (level code unit : Nat) : (c.clearFault level code unit).elements = c.elements := by
  rfl
@[simp] theorem Chip.clearFault_meters (level code unit : Nat) : (c.clearFault level code unit).meters = c.meters := by
  rfl
@[simp] theorem Chip.clearFault_fold (level code unit : Nat) : (c.clearFault level code unit).fold = c.fold := by
  rfl
@[simp] theorem Chip.clearFault_trf (level code unit : Nat) : (c.clearFault level code unit).trf = c.trf := by
  rfl
@[simp] theorem Chip.clearFault_dmd (level code unit : Nat) : (c.clearFault level code unit).dmd = c.dmd := by
  rfl
@[simp] theorem Chip.clearFault_led (level code unit : Nat) : (c.clearFault level code unit).led = c.led := by
  rfl
@[simp] theorem Chip.clearFault_dsp (level code unit : Nat) : (c.clearFault level code unit).dsp = c.dsp := by
  rfl
@[simp] theorem Chip.clearFault_ports (level code unit : Nat) : (c.clearFault level code unit).ports = c.ports := by
  rfl
@[simp] theorem Chip.clearFault_can (level code unit : Nat) : (c.clearFault level code unit).can = c.can := by
  rfl
@[simp] theorem Chip.clearFault_load (level code unit : Nat) : (c.clearFault level code unit).load = c.load := by
  rfl
@[simp] theorem Chip.clearFault_saf (level code unit : Nat) : (c.clearFault level code unit).saf = c.saf := by
  rfl
@[simp] theorem Chip.clearFault_pair (level code unit : Nat) : (c.clearFault level code unit).pair = c.pair := by
  rfl
@[simp] theorem Chip.clearFault_net (level code unit : Nat) : (c.clearFault level code unit).net = c.net := by
  rfl
@[simp] theorem Chip.clearFault_mlk (level code unit : Nat) : (c.clearFault level code unit).mlk = c.mlk := by
  rfl
@[simp] theorem Chip.clearFault_tag (level code unit : Nat) : (c.clearFault level code unit).tag = c.tag := by
  rfl
@[simp] theorem Chip.clearFault_vlt (level code unit : Nat) : (c.clearFault level code unit).vlt = c.vlt := by
  rfl
@[simp] theorem Chip.clearFault_boot (level code unit : Nat) : (c.clearFault level code unit).boot = c.boot := by
  rfl

/-! ### Logs -/

theorem Chip.showLog_regs (n : Nat) : c.RegsOnly (c.showLog n) := .ite rfl rfl
@[simp] theorem Chip.showLog_variant (n : Nat) : (c.showLog n).variant = c.variant := (Chip.showLog_regs c n).variant
@[simp] theorem Chip.showLog_latch (n : Nat) : (c.showLog n).latch = c.latch := (Chip.showLog_regs c n).latch
@[simp] theorem Chip.showLog_rdata (n : Nat) : (c.showLog n).rdata = c.rdata := (Chip.showLog_regs c n).rdata
@[simp] theorem Chip.showLog_mem (n : Nat) : (c.showLog n).mem = c.mem := (Chip.showLog_regs c n).mem
@[simp] theorem Chip.showLog_mram (n : Nat) : (c.showLog n).mram = c.mram := (Chip.showLog_regs c n).mram
@[simp] theorem Chip.showLog_stride (n : Nat) : (c.showLog n).stride = c.stride := (Chip.showLog_regs c n).stride
@[simp] theorem Chip.showLog_strideNext (n : Nat) : (c.showLog n).strideNext = c.strideNext := (Chip.showLog_regs c n).strideNext
@[simp] theorem Chip.showLog_cycle (n : Nat) : (c.showLog n).cycle = c.cycle := (Chip.showLog_regs c n).cycle
@[simp] theorem Chip.showLog_lc (n : Nat) : (c.showLog n).lc = c.lc := (Chip.showLog_regs c n).lc
@[simp] theorem Chip.showLog_drawn (n : Nat) : (c.showLog n).drawn = c.drawn := (Chip.showLog_regs c n).drawn
@[simp] theorem Chip.showLog_faults (n : Nat) : (c.showLog n).faults = c.faults := (Chip.showLog_regs c n).faults
@[simp] theorem Chip.showLog_stg (n : Nat) : (c.showLog n).stg = c.stg := (Chip.showLog_regs c n).stg
@[simp] theorem Chip.showLog_tim (n : Nat) : (c.showLog n).tim = c.tim := (Chip.showLog_regs c n).tim
@[simp] theorem Chip.showLog_elements (n : Nat) : (c.showLog n).elements = c.elements := (Chip.showLog_regs c n).elements
@[simp] theorem Chip.showLog_meters (n : Nat) : (c.showLog n).meters = c.meters := (Chip.showLog_regs c n).meters
@[simp] theorem Chip.showLog_fold (n : Nat) : (c.showLog n).fold = c.fold := (Chip.showLog_regs c n).fold
@[simp] theorem Chip.showLog_trf (n : Nat) : (c.showLog n).trf = c.trf := (Chip.showLog_regs c n).trf
@[simp] theorem Chip.showLog_dmd (n : Nat) : (c.showLog n).dmd = c.dmd := (Chip.showLog_regs c n).dmd
@[simp] theorem Chip.showLog_led (n : Nat) : (c.showLog n).led = c.led := (Chip.showLog_regs c n).led
@[simp] theorem Chip.showLog_dsp (n : Nat) : (c.showLog n).dsp = c.dsp := (Chip.showLog_regs c n).dsp
@[simp] theorem Chip.showLog_ports (n : Nat) : (c.showLog n).ports = c.ports := (Chip.showLog_regs c n).ports
@[simp] theorem Chip.showLog_can (n : Nat) : (c.showLog n).can = c.can := (Chip.showLog_regs c n).can
@[simp] theorem Chip.showLog_load (n : Nat) : (c.showLog n).load = c.load := (Chip.showLog_regs c n).load
@[simp] theorem Chip.showLog_saf (n : Nat) : (c.showLog n).saf = c.saf := (Chip.showLog_regs c n).saf
@[simp] theorem Chip.showLog_pair (n : Nat) : (c.showLog n).pair = c.pair := (Chip.showLog_regs c n).pair
@[simp] theorem Chip.showLog_net (n : Nat) : (c.showLog n).net = c.net := (Chip.showLog_regs c n).net
@[simp] theorem Chip.showLog_mlk (n : Nat) : (c.showLog n).mlk = c.mlk := (Chip.showLog_regs c n).mlk
@[simp] theorem Chip.showLog_tag (n : Nat) : (c.showLog n).tag = c.tag := (Chip.showLog_regs c n).tag
@[simp] theorem Chip.showLog_vlt (n : Nat) : (c.showLog n).vlt = c.vlt := (Chip.showLog_regs c n).vlt
@[simp] theorem Chip.showLog_boot (n : Nat) : (c.showLog n).boot = c.boot := (Chip.showLog_regs c n).boot

@[simp] theorem Chip.advanceLog_variant (n k : Nat) : (c.advanceLog n k).variant = c.variant := by
  unfold Chip.advanceLog
  dsimp only
  rw [Chip.showLog_variant]
@[simp] theorem Chip.advanceLog_latch (n k : Nat) : (c.advanceLog n k).latch = c.latch := by
  unfold Chip.advanceLog
  dsimp only
  rw [Chip.showLog_latch]
@[simp] theorem Chip.advanceLog_rdata (n k : Nat) : (c.advanceLog n k).rdata = c.rdata := by
  unfold Chip.advanceLog
  dsimp only
  rw [Chip.showLog_rdata]
@[simp] theorem Chip.advanceLog_mem (n k : Nat) : (c.advanceLog n k).mem = c.mem := by
  unfold Chip.advanceLog
  dsimp only
  rw [Chip.showLog_mem]
@[simp] theorem Chip.advanceLog_mram (n k : Nat) : (c.advanceLog n k).mram = c.mram := by
  unfold Chip.advanceLog
  dsimp only
  rw [Chip.showLog_mram]
@[simp] theorem Chip.advanceLog_stride (n k : Nat) : (c.advanceLog n k).stride = c.stride := by
  unfold Chip.advanceLog
  dsimp only
  rw [Chip.showLog_stride]
@[simp] theorem Chip.advanceLog_strideNext (n k : Nat) : (c.advanceLog n k).strideNext = c.strideNext := by
  unfold Chip.advanceLog
  dsimp only
  rw [Chip.showLog_strideNext]
@[simp] theorem Chip.advanceLog_cycle (n k : Nat) : (c.advanceLog n k).cycle = c.cycle := by
  unfold Chip.advanceLog
  dsimp only
  rw [Chip.showLog_cycle]
@[simp] theorem Chip.advanceLog_lc (n k : Nat) : (c.advanceLog n k).lc = c.lc := by
  unfold Chip.advanceLog
  dsimp only
  rw [Chip.showLog_lc]
@[simp] theorem Chip.advanceLog_drawn (n k : Nat) : (c.advanceLog n k).drawn = c.drawn := by
  unfold Chip.advanceLog
  dsimp only
  rw [Chip.showLog_drawn]
@[simp] theorem Chip.advanceLog_faults (n k : Nat) : (c.advanceLog n k).faults = c.faults := by
  unfold Chip.advanceLog
  dsimp only
  rw [Chip.showLog_faults]
@[simp] theorem Chip.advanceLog_stg (n k : Nat) : (c.advanceLog n k).stg = c.stg := by
  unfold Chip.advanceLog
  dsimp only
  rw [Chip.showLog_stg]
@[simp] theorem Chip.advanceLog_tim (n k : Nat) : (c.advanceLog n k).tim = c.tim := by
  unfold Chip.advanceLog
  dsimp only
  rw [Chip.showLog_tim]
@[simp] theorem Chip.advanceLog_elements (n k : Nat) : (c.advanceLog n k).elements = c.elements := by
  unfold Chip.advanceLog
  dsimp only
  rw [Chip.showLog_elements]
@[simp] theorem Chip.advanceLog_meters (n k : Nat) : (c.advanceLog n k).meters = c.meters := by
  unfold Chip.advanceLog
  dsimp only
  rw [Chip.showLog_meters]
@[simp] theorem Chip.advanceLog_fold (n k : Nat) : (c.advanceLog n k).fold = c.fold := by
  unfold Chip.advanceLog
  dsimp only
  rw [Chip.showLog_fold]
@[simp] theorem Chip.advanceLog_trf (n k : Nat) : (c.advanceLog n k).trf = c.trf := by
  unfold Chip.advanceLog
  dsimp only
  rw [Chip.showLog_trf]
@[simp] theorem Chip.advanceLog_dmd (n k : Nat) : (c.advanceLog n k).dmd = c.dmd := by
  unfold Chip.advanceLog
  dsimp only
  rw [Chip.showLog_dmd]
@[simp] theorem Chip.advanceLog_dsp (n k : Nat) : (c.advanceLog n k).dsp = c.dsp := by
  unfold Chip.advanceLog
  dsimp only
  rw [Chip.showLog_dsp]
@[simp] theorem Chip.advanceLog_ports (n k : Nat) : (c.advanceLog n k).ports = c.ports := by
  unfold Chip.advanceLog
  dsimp only
  rw [Chip.showLog_ports]
@[simp] theorem Chip.advanceLog_can (n k : Nat) : (c.advanceLog n k).can = c.can := by
  unfold Chip.advanceLog
  dsimp only
  rw [Chip.showLog_can]
@[simp] theorem Chip.advanceLog_load (n k : Nat) : (c.advanceLog n k).load = c.load := by
  unfold Chip.advanceLog
  dsimp only
  rw [Chip.showLog_load]
@[simp] theorem Chip.advanceLog_saf (n k : Nat) : (c.advanceLog n k).saf = c.saf := by
  unfold Chip.advanceLog
  dsimp only
  rw [Chip.showLog_saf]
@[simp] theorem Chip.advanceLog_pair (n k : Nat) : (c.advanceLog n k).pair = c.pair := by
  unfold Chip.advanceLog
  dsimp only
  rw [Chip.showLog_pair]
@[simp] theorem Chip.advanceLog_net (n k : Nat) : (c.advanceLog n k).net = c.net := by
  unfold Chip.advanceLog
  dsimp only
  rw [Chip.showLog_net]
@[simp] theorem Chip.advanceLog_mlk (n k : Nat) : (c.advanceLog n k).mlk = c.mlk := by
  unfold Chip.advanceLog
  dsimp only
  rw [Chip.showLog_mlk]
@[simp] theorem Chip.advanceLog_tag (n k : Nat) : (c.advanceLog n k).tag = c.tag := by
  unfold Chip.advanceLog
  dsimp only
  rw [Chip.showLog_tag]
@[simp] theorem Chip.advanceLog_vlt (n k : Nat) : (c.advanceLog n k).vlt = c.vlt := by
  unfold Chip.advanceLog
  dsimp only
  rw [Chip.showLog_vlt]
@[simp] theorem Chip.advanceLog_boot (n k : Nat) : (c.advanceLog n k).boot = c.boot := by
  unfold Chip.advanceLog
  dsimp only
  rw [Chip.showLog_boot]

@[simp] theorem Chip.appendLog_variant (n : Nat) (r : List Nat) : (c.appendLog n r).variant = c.variant := by
  unfold Chip.appendLog
  dsimp only
  rw [Chip.advanceLog_variant, Chip.store_variant]
@[simp] theorem Chip.appendLog_latch (n : Nat) (r : List Nat) : (c.appendLog n r).latch = c.latch := by
  unfold Chip.appendLog
  dsimp only
  rw [Chip.advanceLog_latch, Chip.store_latch]
@[simp] theorem Chip.appendLog_rdata (n : Nat) (r : List Nat) : (c.appendLog n r).rdata = c.rdata := by
  unfold Chip.appendLog
  dsimp only
  rw [Chip.advanceLog_rdata, Chip.store_rdata]
@[simp] theorem Chip.appendLog_mem (n : Nat) (r : List Nat) : (c.appendLog n r).mem = c.mem := by
  unfold Chip.appendLog
  dsimp only
  rw [Chip.advanceLog_mem, Chip.store_mem]
@[simp] theorem Chip.appendLog_stride (n : Nat) (r : List Nat) : (c.appendLog n r).stride = c.stride := by
  unfold Chip.appendLog
  dsimp only
  rw [Chip.advanceLog_stride, Chip.store_stride]
@[simp] theorem Chip.appendLog_strideNext (n : Nat) (r : List Nat) : (c.appendLog n r).strideNext = c.strideNext := by
  unfold Chip.appendLog
  dsimp only
  rw [Chip.advanceLog_strideNext, Chip.store_strideNext]
@[simp] theorem Chip.appendLog_cycle (n : Nat) (r : List Nat) : (c.appendLog n r).cycle = c.cycle := by
  unfold Chip.appendLog
  dsimp only
  rw [Chip.advanceLog_cycle, Chip.store_cycle]
@[simp] theorem Chip.appendLog_lc (n : Nat) (r : List Nat) : (c.appendLog n r).lc = c.lc := by
  unfold Chip.appendLog
  dsimp only
  rw [Chip.advanceLog_lc, Chip.store_lc]
@[simp] theorem Chip.appendLog_drawn (n : Nat) (r : List Nat) : (c.appendLog n r).drawn = c.drawn := by
  unfold Chip.appendLog
  dsimp only
  rw [Chip.advanceLog_drawn, Chip.store_drawn]
@[simp] theorem Chip.appendLog_faults (n : Nat) (r : List Nat) : (c.appendLog n r).faults = c.faults := by
  unfold Chip.appendLog
  dsimp only
  rw [Chip.advanceLog_faults, Chip.store_faults]
@[simp] theorem Chip.appendLog_stg (n : Nat) (r : List Nat) : (c.appendLog n r).stg = c.stg := by
  unfold Chip.appendLog
  dsimp only
  rw [Chip.advanceLog_stg, Chip.store_stg]
@[simp] theorem Chip.appendLog_tim (n : Nat) (r : List Nat) : (c.appendLog n r).tim = c.tim := by
  unfold Chip.appendLog
  dsimp only
  rw [Chip.advanceLog_tim, Chip.store_tim]
@[simp] theorem Chip.appendLog_elements (n : Nat) (r : List Nat) : (c.appendLog n r).elements = c.elements := by
  unfold Chip.appendLog
  dsimp only
  rw [Chip.advanceLog_elements, Chip.store_elements]
@[simp] theorem Chip.appendLog_meters (n : Nat) (r : List Nat) : (c.appendLog n r).meters = c.meters := by
  unfold Chip.appendLog
  dsimp only
  rw [Chip.advanceLog_meters, Chip.store_meters]
@[simp] theorem Chip.appendLog_fold (n : Nat) (r : List Nat) : (c.appendLog n r).fold = c.fold := by
  unfold Chip.appendLog
  dsimp only
  rw [Chip.advanceLog_fold, Chip.store_fold]
@[simp] theorem Chip.appendLog_trf (n : Nat) (r : List Nat) : (c.appendLog n r).trf = c.trf := by
  unfold Chip.appendLog
  dsimp only
  rw [Chip.advanceLog_trf, Chip.store_trf]
@[simp] theorem Chip.appendLog_dmd (n : Nat) (r : List Nat) : (c.appendLog n r).dmd = c.dmd := by
  unfold Chip.appendLog
  dsimp only
  rw [Chip.advanceLog_dmd, Chip.store_dmd]
@[simp] theorem Chip.appendLog_dsp (n : Nat) (r : List Nat) : (c.appendLog n r).dsp = c.dsp := by
  unfold Chip.appendLog
  dsimp only
  rw [Chip.advanceLog_dsp, Chip.store_dsp]
@[simp] theorem Chip.appendLog_ports (n : Nat) (r : List Nat) : (c.appendLog n r).ports = c.ports := by
  unfold Chip.appendLog
  dsimp only
  rw [Chip.advanceLog_ports, Chip.store_ports]
@[simp] theorem Chip.appendLog_can (n : Nat) (r : List Nat) : (c.appendLog n r).can = c.can := by
  unfold Chip.appendLog
  dsimp only
  rw [Chip.advanceLog_can, Chip.store_can]
@[simp] theorem Chip.appendLog_load (n : Nat) (r : List Nat) : (c.appendLog n r).load = c.load := by
  unfold Chip.appendLog
  dsimp only
  rw [Chip.advanceLog_load, Chip.store_load]
@[simp] theorem Chip.appendLog_saf (n : Nat) (r : List Nat) : (c.appendLog n r).saf = c.saf := by
  unfold Chip.appendLog
  dsimp only
  rw [Chip.advanceLog_saf, Chip.store_saf]
@[simp] theorem Chip.appendLog_pair (n : Nat) (r : List Nat) : (c.appendLog n r).pair = c.pair := by
  unfold Chip.appendLog
  dsimp only
  rw [Chip.advanceLog_pair, Chip.store_pair]
@[simp] theorem Chip.appendLog_net (n : Nat) (r : List Nat) : (c.appendLog n r).net = c.net := by
  unfold Chip.appendLog
  dsimp only
  rw [Chip.advanceLog_net, Chip.store_net]
@[simp] theorem Chip.appendLog_mlk (n : Nat) (r : List Nat) : (c.appendLog n r).mlk = c.mlk := by
  unfold Chip.appendLog
  dsimp only
  rw [Chip.advanceLog_mlk, Chip.store_mlk]
@[simp] theorem Chip.appendLog_tag (n : Nat) (r : List Nat) : (c.appendLog n r).tag = c.tag := by
  unfold Chip.appendLog
  dsimp only
  rw [Chip.advanceLog_tag, Chip.store_tag]
@[simp] theorem Chip.appendLog_vlt (n : Nat) (r : List Nat) : (c.appendLog n r).vlt = c.vlt := by
  unfold Chip.appendLog
  dsimp only
  rw [Chip.advanceLog_vlt, Chip.store_vlt]
@[simp] theorem Chip.appendLog_boot (n : Nat) (r : List Nat) : (c.appendLog n r).boot = c.boot := by
  unfold Chip.appendLog
  dsimp only
  rw [Chip.advanceLog_boot, Chip.store_boot]

end Sys2Proof.Machine
end

