-- ==== Sys2Proof/Laws/Sparse.lean ====
section
/-! SUPPORT. The laws of finite maps: a read after a write, and that every operation keeps the canonical form. -/

namespace Sys2Proof.Machine

variable {α : Type}

/-! ### Sorted keys -/

theorem Sparse.sortedFrom_mono {b d : Nat} {m : Sparse α} (h : Sparse.sortedFrom d m = true) (hb : b ≤ d) :
    Sparse.sortedFrom b m = true := by
  cases m with
  | nil => rfl
  | cons p m =>
    simp only [Sparse.sortedFrom, Bool.and_eq_true, decide_eq_true_eq] at h ⊢
    exact ⟨by omega, h.2⟩

theorem Sparse.sortedFrom_filter {P : Nat × α → Bool} {b : Nat} {m : Sparse α} (h : Sparse.sortedFrom b m = true) :
    Sparse.sortedFrom b (m.filter P) = true := by
  induction m generalizing b with
  | nil => rfl
  | cons p m ih =>
    simp only [Sparse.sortedFrom, Bool.and_eq_true, decide_eq_true_eq] at h
    rw [List.filter_cons]
    split
    · simp [Sparse.sortedFrom, h.1, ih h.2]
    · exact Sparse.sortedFrom_mono (ih h.2) (by omega)

theorem Sparse.sortedFrom_insert {b k : Nat} {v : α} {m : Sparse α} (h : Sparse.sortedFrom b m = true) (hk : b ≤ k) :
    Sparse.sortedFrom b (Sparse.insert m k v) = true := by
  induction m generalizing b with
  | nil => simp [Sparse.insert, Sparse.sortedFrom, hk]
  | cons p m ih =>
    simp only [Sparse.sortedFrom, Bool.and_eq_true, decide_eq_true_eq] at h
    unfold Sparse.insert
    split
    · rename_i hlt
      have : k + 1 ≤ p.1 := hlt
      simp [Sparse.sortedFrom, h.2, hk, this]
    · split
      · rename_i heq
        subst heq
        simp [Sparse.sortedFrom, h.1, h.2]
      · simp [Sparse.sortedFrom, h.1, ih h.2 (by omega)]

/-! ### A read after a write -/

theorem Sparse.find_insert_same {k : Nat} {v : α} {m : Sparse α} : Sparse.find (Sparse.insert m k v) k = some v := by
  induction m with
  | nil => simp [Sparse.insert, Sparse.find]
  | cons p m ih =>
    unfold Sparse.insert
    split
    · simp [Sparse.find]
    · split
      · simp [Sparse.find]
      · rename_i h2
        simp [Sparse.find, h2, ih]

theorem Sparse.find_insert_other {k x : Nat} {v : α} {m : Sparse α} (hx : x ≠ k) :
    Sparse.find (Sparse.insert m k v) x = Sparse.find m x := by
  induction m with
  | nil => simp [Sparse.insert, Sparse.find, hx]
  | cons p m ih =>
    obtain ⟨j, w⟩ := p
    unfold Sparse.insert
    split
    · simp [Sparse.find, hx]
    · split
      · rename_i heq
        subst heq
        simp [Sparse.find, hx]
      · simp [Sparse.find, ih]

theorem Sparse.find_erase_same {k : Nat} {m : Sparse α} : Sparse.find (Sparse.erase m k) k = none := by
  induction m with
  | nil => rfl
  | cons p m ih =>
    unfold Sparse.erase at ih ⊢
    rw [List.filter_cons]
    split
    · rename_i h
      have h' : ¬ k = p.1 := fun e => by simp [e] at h
      simp only [Sparse.find, h', if_false]
      exact ih
    · exact ih

theorem Sparse.find_erase_other {k x : Nat} {m : Sparse α} (hx : x ≠ k) :
    Sparse.find (Sparse.erase m k) x = Sparse.find m x := by
  induction m with
  | nil => rfl
  | cons p m ih =>
    obtain ⟨j, w⟩ := p
    unfold Sparse.erase at ih ⊢
    rw [List.filter_cons]
    split
    · simp only [Sparse.find, ih]
    · rename_i h
      have h' : j = k := by simpa using h
      subst h'
      simp only [Sparse.find, hx, if_false]
      exact ih

variable [DecidableEq α] {dflt : Nat → α}

theorem Sparse.wf_sorted {m : Sparse α} (h : Sparse.wf dflt m = true) : Sparse.sortedFrom 0 m = true := by
  simp only [Sparse.wf, Bool.and_eq_true] at h
  exact h.1

/-- A key reads as what was last written to it. -/
theorem Sparse.get_set_same {k : Nat} {v : α} {m : Sparse α} : Sparse.get dflt (Sparse.set dflt m k v) k = v := by
  unfold Sparse.get Sparse.set
  split
  · rename_i hv
    rw [Sparse.find_erase_same, hv]
    rfl
  · rw [Sparse.find_insert_same]
    rfl

/-- A write leaves every other key as it was. -/
theorem Sparse.get_set_other {k x : Nat} {v : α} {m : Sparse α} (hx : x ≠ k) :
    Sparse.get dflt (Sparse.set dflt m k v) x = Sparse.get dflt m x := by
  unfold Sparse.get Sparse.set
  split
  · rw [Sparse.find_erase_other hx]
  · rw [Sparse.find_insert_other hx]

/-! ### The canonical form -/

omit [DecidableEq α] in
theorem Sparse.all_erase {P : Nat × α → Bool} {k : Nat} {m : Sparse α} (h : m.all P = true) : (Sparse.erase m k).all P = true := by
  simp only [List.all_eq_true, Sparse.erase, List.mem_filter] at h ⊢
  exact fun x hx => h x hx.1

omit [DecidableEq α] in
theorem Sparse.all_insert {P : Nat × α → Bool} {k : Nat} {v : α} {m : Sparse α} (h : m.all P = true) (hv : P (k, v) = true) :
    (Sparse.insert m k v).all P = true := by
  induction m with
  | nil => simp [Sparse.insert, hv]
  | cons p m ih =>
    simp only [List.all_cons, Bool.and_eq_true] at h
    unfold Sparse.insert
    split
    · simp [h.1, h.2, hv]
    · split
      · simp [hv, h.2]
      · simp [h.1, ih h.2]

/-- A write keeps the canonical form. -/
theorem Sparse.wf_set {k : Nat} {v : α} {m : Sparse α} (h : Sparse.wf dflt m = true) : Sparse.wf dflt (Sparse.set dflt m k v) = true := by
  have hs := Sparse.wf_sorted h
  simp only [Sparse.wf, Bool.and_eq_true] at h ⊢
  unfold Sparse.set
  split
  · exact ⟨Sparse.sortedFrom_filter hs, Sparse.all_erase h.2⟩
  · rename_i hv
    exact ⟨Sparse.sortedFrom_insert hs (Nat.zero_le k), Sparse.all_insert h.2 (by simpa using hv)⟩

/-- Dropping entries keeps the canonical form. -/
theorem Sparse.wf_filter {P : Nat × α → Bool} {m : Sparse α} (h : Sparse.wf dflt m = true) : Sparse.wf dflt (m.filter P) = true := by
  simp only [Sparse.wf, Bool.and_eq_true, List.all_eq_true, List.mem_filter] at h ⊢
  exact ⟨Sparse.sortedFrom_filter h.1, fun x hx => h.2 x hx.1⟩

/-- The empty map is in canonical form. -/
theorem Sparse.wf_nil : Sparse.wf dflt ([] : Sparse α) = true := rfl

end Sys2Proof.Machine
end

