-- ==== Sys2Proof/Laws/Registers.lean ====
section
/-! SUPPORT. The laws of registers, fields and byte memories: what a read gives after a write, and that every write keeps the canonical
form. -/

namespace Sys2Proof.Machine

/-! ### Words -/

/-- A register reads as what was last written to it. -/
theorem Chip.word_setWord_same {c : Chip} (a : Nat) (w : Word) : (c.setWord a w).word a = w :=
  Sparse.get_set_same

/-- A register write leaves every other register as it was. -/
theorem Chip.word_setWord_other {c : Chip} {a x : Nat} (w : Word) (hx : x ≠ a) : (c.setWord a w).word x = c.word x :=
  Sparse.get_set_other hx

theorem Chip.Sound.setWord {c : Chip} (h : c.Sound) {a : Nat} {w : Word} : (c.setWord a w).Sound :=
  ⟨Sparse.wf_set h.regs, h.mem, h.mram⟩

/-! ### Fields -/

theorem Fld.getLsbD_into (f : Fld) (v : Nat) (w : Word) (i : Nat) (hi : i < 32) :
    (f.into v w).getLsbD i = if f.lo ≤ i ∧ i < f.lo + f.w then v.testBit (i - f.lo) else w.getLsbD i := by
  unfold Fld.into
  simp only [BitVec.getLsbD_or, BitVec.getLsbD_and, BitVec.getLsbD_not, BitVec.getLsbD_ofNat, hi, decide_true, Bool.true_and,
    Nat.testBit_shiftLeft, Nat.testBit_two_pow_sub_one]
  by_cases h1 : f.lo ≤ i
  · by_cases h2 : i < f.lo + f.w
    · have : i - f.lo < f.w := by omega
      simp [h1, h2, this]
    · have : ¬ i - f.lo < f.w := by omega
      simp [h1, h2, this]
  · simp [h1]

/-- The word after a write of a field. -/
theorem Chip.word_put_same {c : Chip} (f : Fld) (v : Nat) : (c.put f v).word f.addr = f.into v (c.word f.addr) :=
  Chip.word_setWord_same _ _

/-- A write of a field leaves every other register as it was. -/
theorem Chip.word_put_other {c : Chip} (f : Fld) (v : Nat) {x : Nat} (hx : x ≠ f.addr) : (c.put f v).word x = c.word x :=
  Chip.word_setWord_other _ hx

/-- A field reads as what was last written to it, as far as it holds it. -/
theorem Chip.rd_put_same {c : Chip} (f : Fld) (v : Nat) (hf : f.lo + f.w ≤ 32) : (c.put f v).rd f = v % 2 ^ f.w := by
  unfold Chip.rd
  rw [Chip.word_put_same]
  apply Nat.eq_of_testBit_eq
  intro i
  rw [BitVec.testBit_toNat, BitVec.getLsbD_extractLsb', Nat.testBit_mod_two_pow]
  by_cases hi : i < f.w
  · have h1 : f.lo + i < 32 := by omega
    have h2 : f.lo ≤ f.lo + i ∧ f.lo + i < f.lo + f.w := by omega
    simp [hi, Fld.getLsbD_into f v _ _ h1]
  · simp [hi]

/-- Two fields share no bit. -/
def Fld.disjoint (f g : Fld) : Prop := f.addr ≠ g.addr ∨ f.lo + f.w ≤ g.lo ∨ g.lo + g.w ≤ f.lo

/-- A write of a field leaves every field that shares no bit with it as it was. -/
theorem Chip.rd_put_other {c : Chip} (f g : Fld) (v : Nat) (hg : g.lo + g.w ≤ 32) (hd : f.disjoint g) :
    (c.put f v).rd g = c.rd g := by
  unfold Chip.rd
  by_cases ha : g.addr = f.addr
  · rw [ha, Chip.word_put_same]
    apply congrArg
    apply BitVec.eq_of_getLsbD_eq
    intro i hi
    simp only [BitVec.getLsbD_extractLsb', hi, decide_true, Bool.true_and]
    have h1 : g.lo + i < 32 := by omega
    rw [Fld.getLsbD_into f v _ _ h1]
    have : ¬ (f.lo ≤ g.lo + i ∧ g.lo + i < f.lo + f.w) := by
      rcases hd with h2 | h2 | h2
      · exact absurd ha.symm h2
      · omega
      · omega
    simp [this]
  · rw [Chip.word_put_other _ _ ha]

/-- A signed number that w bits hold is read back from its bits. -/
theorem signed_bitsOf {w : Nat} {v : Int} (hw : 0 < w) (h1 : -(2 ^ (w - 1)) ≤ v) (h2 : v < 2 ^ (w - 1)) : signed w (bitsOf w v % 2 ^ w) = v := by
  obtain ⟨n, rfl⟩ : ∃ n, w = n + 1 := ⟨w - 1, by omega⟩
  simp only [Nat.add_sub_cancel] at h1 h2
  unfold signed bitsOf
  simp only [Nat.succ_ne_zero, if_false, Nat.mod_mod, Nat.add_sub_cancel]
  have e1 : ((2 ^ (n + 1) : Nat) : Int) = 2 * 2 ^ n := by push_cast; ring
  have e2 : (2 ^ (n + 1) : Nat) = 2 * 2 ^ n := by ring
  have e3 : ((2 ^ n : Nat) : Int) = 2 ^ n := by push_cast; ring
  have hp : (0 : Int) < 2 ^ n := by positivity
  rw [e1]
  by_cases hv : 0 ≤ v
  · have hm : v % (2 * 2 ^ n) = v := Int.emod_eq_of_lt hv (by linarith)
    have hl : v.toNat < 2 ^ n := by zify; rw [Int.toNat_of_nonneg hv]; exact h2
    rw [hm, Nat.mod_eq_of_lt (by rw [e2]; omega)]
    simp [hl, Int.toNat_of_nonneg hv]
  · have hm : v % (2 * 2 ^ n) = v + 2 * 2 ^ n := by
      rw [← Int.add_emod_right]
      exact Int.emod_eq_of_lt (by linarith) (by linarith)
    have hn : 0 ≤ v + 2 * 2 ^ n := by linarith
    have hl : ¬ (v + 2 * 2 ^ n).toNat < 2 ^ n := by zify; rw [Int.toNat_of_nonneg hn]; linarith
    have hu : (v + 2 * 2 ^ n).toNat < 2 ^ (n + 1) := by zify; rw [Int.toNat_of_nonneg hn]; rw [pow_succ]; linarith
    rw [hm, Nat.mod_eq_of_lt hu]
    simp only [hl, if_false, Int.toNat_of_nonneg hn]
    ring

/-- A signed field reads as what was last written to it. -/
theorem Chip.rdS_putS_same {c : Chip} (f : Fld) {v : Int} (hf : f.lo + f.w ≤ 32) (hw : 0 < f.w)
    (h1 : -(2 ^ (f.w - 1)) ≤ v) (h2 : v < 2 ^ (f.w - 1)) : (c.putS f v).rdS f = v := by
  unfold Chip.rdS Chip.putS
  rw [Chip.rd_put_same f _ hf]
  exact signed_bitsOf hw h1 h2

/-- A write of one field leaves a signed field that shares no bit with it as it was. -/
theorem Chip.rdS_put_other {c : Chip} (f g : Fld) (v : Nat) (hg : g.lo + g.w ≤ 32) (hd : f.disjoint g) :
    (c.put f v).rdS g = c.rdS g := by
  unfold Chip.rdS
  rw [Chip.rd_put_other f g v hg hd]

/-- A one-bit field reads as what was last written to it. -/
theorem Chip.flag_setFlag_same {c : Chip} (f : Fld) (b : Bool) (hw : f.w = 1) (hf : f.lo < 32) :
    (c.setFlag f b).flag f = b := by
  unfold Chip.flag Chip.setFlag
  rw [Chip.rd_put_same f _ (by omega), hw]
  cases b <;> rfl

theorem Chip.Sound.put {c : Chip} (h : c.Sound) {f : Fld} {v : Nat} : (c.put f v).Sound := h.setWord
theorem Chip.Sound.setFlag {c : Chip} (h : c.Sound) {f : Fld} {b : Bool} : (c.setFlag f b).Sound := h.put

theorem Chip.Sound.putS {c : Chip} (h : c.Sound) {f : Fld} {v : Int} : (c.putS f v).Sound := h.put

/-! ### Byte memories -/

/-- A byte reads as what was last written to it. -/
theorem Memory.byte_setByte_same {m : List Host.Cell} (a v : Nat) : Memory.byte (Memory.setByte m a v) a = v % 256 := by
  unfold Memory.byte Memory.setByte
  rw [Sparse.get_set_same]
  simp [BitVec.toNat_ofNat]

/-- A byte write leaves every other byte as it was. -/
theorem Memory.byte_setByte_other {m : List Host.Cell} {a x : Nat} (v : Nat) (hx : x ≠ a) :
    Memory.byte (Memory.setByte m a v) x = Memory.byte m x := by
  unfold Memory.byte Memory.setByte
  rw [Sparse.get_set_other hx]

/-- Every memory operation keeps the canonical form: a byte. -/
theorem Memory.wf_setByte {m : List Host.Cell} (h : Memory.wf m) (a v : Nat) : Memory.wf (Memory.setByte m a v) := Sparse.wf_set h

/-- Every memory operation keeps the canonical form: a run of bytes. -/
theorem Memory.wf_write {m : List Host.Cell} (h : Memory.wf m) (a : Nat) (bs : List Nat) : Memory.wf (Memory.write m a bs) := by
  induction bs generalizing m a with
  | nil => exact h
  | cons b bs ih => exact ih (Memory.wf_setByte h a b) (a + 1)

/-- A write of a run of bytes leaves every byte outside the run as it was. -/
theorem Memory.byte_write_other {m : List Host.Cell} (a : Nat) (bs : List Nat) {x : Nat}
    (hx : x < a ∨ a + bs.length ≤ x) : Memory.byte (Memory.write m a bs) x = Memory.byte m x := by
  induction bs generalizing m a with
  | nil => rfl
  | cons b bs ih =>
    rw [Memory.write, ih (a + 1) (by simp at hx; omega)]
    exact Memory.byte_setByte_other b (by simp at hx; omega)

/-- A write of a run of bytes is read back byte by byte. -/
theorem Memory.byte_write_same {m : List Host.Cell} (a : Nat) (bs : List Nat) (i : Nat) (hi : i < bs.length) :
    Memory.byte (Memory.write m a bs) (a + i) = bs[i] % 256 := by
  induction bs generalizing m a i with
  | nil => simp at hi
  | cons b bs ih =>
    rw [Memory.write]
    cases i with
    | zero =>
      rw [Memory.byte_write_other (a + 1) bs (by omega)]
      exact Memory.byte_setByte_same a b
    | succ i =>
      have := ih (m := Memory.setByte m a b) (a + 1) i (by simpa using hi)
      rw [show a + (i + 1) = a + 1 + i by omega]
      simpa using this

theorem Chip.Sound.setBytes {c : Chip} (h : c.Sound) {a : Nat} {bs : List Nat} : (c.setBytes a bs).Sound :=
  ⟨h.regs, Memory.wf_write h.mem a bs, h.mram⟩
theorem Chip.Sound.store {c : Chip} (h : c.Sound) {a : Nat} {bs : List Nat} : (c.store a bs).Sound :=
  ⟨h.regs, h.mem, Memory.wf_write h.mram a bs⟩

end Sys2Proof.Machine
end

