-- ==== Sys2Proof/Laws/Kept.lean ====
section
/-! SUPPORT. Every operation of the block keeps the variant and the canonical forms, and leaves the control plane's memory, the ledger store,
the stored keys and the image store as they were unless it is one that writes them: the predicate, and how it passes through the ways in which
operations are put together. -/

namespace Sys2Proof.Machine

/-- What operations are shown to leave as it was: the variant, and where named the control plane's memory, the bytes of the ledger store,
the stored keys with their commit entries, and the image store. -/
structure Held where
  variant : Variant
  mem : Option (List Host.Cell) := none
  mram : Option (List Host.Cell) := none
  keys : Option (Sparse (Option VaultBank) × Sparse (Option VaultEntry)) := none
  nor : Option (Sparse Byte) := none

/-- A block whose register map and byte memories are in canonical form, and which holds what v names. -/
structure Kept (v : Held) (c : Chip) : Prop where
  variant : c.variant = v.variant
  sound : c.Sound
  mem : ∀ x, v.mem = some x → c.mem = x
  mram : ∀ x, v.mram = some x → c.mram = x
  keys : ∀ x, v.keys = some x → (c.vlt.banks, c.vlt.entries) = x
  nor : ∀ x, v.nor = some x → c.boot.nor = x

/-- A record update of the other fields. -/
theorem Kept.upd_iff {v} {a1 a2 a3 a4 a5 a6 a7 a8 a9 a10 a11 a12 a13 a14 a15 a16 a17 a18 a19 a20 a21 a22 a23 a24 a25 a26} {c : Chip} :
    Kept v ⟨c.variant, c.regs, a1, a2, c.mem, c.mram, a3, a4, a5, a6, a7, a8, a9, a10, a11, a12, a13, a14, a15, a16, a17, a18, a19, a20, a21,
      a22, a23, a24, a25, a26, c.vlt, c.boot⟩ ↔ Kept v c :=
  ⟨fun h => ⟨h.variant, ⟨h.sound.regs, h.sound.mem, h.sound.mram⟩, h.mem, h.mram, h.keys, h.nor⟩,
    fun h => ⟨h.variant, ⟨h.sound.regs, h.sound.mem, h.sound.mram⟩, h.mem, h.mram, h.keys, h.nor⟩⟩

/-- A named intermediate block. -/
theorem Kept.have_ {v} {x : Chip} {P : Prop} (h : Kept v x) (k : Kept v x → P) : P := k h

theorem Kept.foldl {α} {v} {l : List α} {f : Chip → α → Chip} {c : Chip} (h : Kept v c) (hf : ∀ a c, Kept v c → Kept v (f c a)) :
    Kept v (l.foldl f c) := by
  induction l generalizing c with
  | nil => exact h
  | cons a l ih => exact ih (hf a c h)

theorem Kept.foldl_pair {α β} {v} {l : List α} {f : β × Chip → α → β × Chip} {x : β × Chip} (h : Kept v x.2)
    (hf : ∀ a x, Kept v x.2 → Kept v (f x a).2) : Kept v (l.foldl f x).2 := by
  induction l generalizing x with
  | nil => exact h
  | cons a l ih => exact ih (hf a x h)

theorem Kept.forN {v} {n : Nat} {f : Nat → Chip → Chip} {c : Chip} (h : Kept v c) (hf : ∀ i c, Kept v c → Kept v (f i c)) :
    Kept v (forN n f c) := Kept.foldl h hf

theorem Kept.forN_pair {β : Type} {v} {n : Nat} {f : Nat → β × Chip → β × Chip} {x : β × Chip} (h : Kept v x.2)
    (hf : ∀ i x, Kept v x.2 → Kept v (f i x).2) : Kept v (Machine.forN n f x).2 := Kept.foldl_pair h hf

theorem Kept.setWord {v} {c : Chip} {a w} (h : Kept v c) : Kept v (c.setWord a w) :=
  ⟨h.variant, h.sound.setWord, h.mem, h.mram, h.keys, h.nor⟩

theorem Kept.setBytes {v : Held} {c : Chip} {a bs} (h : Kept v c) (hm : v.mem = none) : Kept v (c.setBytes a bs) :=
  ⟨h.variant, h.sound.setBytes, fun x hx => (by rw [hm] at hx; cases hx), h.mram, h.keys, h.nor⟩

theorem Kept.store {v : Held} {c : Chip} {a bs} (h : Kept v c) (hr : v.mram = none) : Kept v (c.store a bs) :=
  ⟨h.variant, h.sound.store, h.mem, fun x hx => (by rw [hr] at hx; cases hx), h.keys, h.nor⟩

theorem Kept.setVlt {v : Held} {c : Chip} {f : Vault → Vault} (h : Kept v c)
    (hf : ∀ x, (f x).banks = x.banks ∧ (f x).entries = x.entries) : Kept v (c.setVlt f) :=
  ⟨h.variant, ⟨h.sound.regs, h.sound.mem, h.sound.mram⟩, h.mem, h.mram,
    fun x hx => by rw [← h.keys x hx]; exact Prod.ext (hf _).1 (hf _).2, h.nor⟩

theorem Kept.setBoot {v : Held} {c : Chip} {f : Boot → Boot} (h : Kept v c) (hf : ∀ x, (f x).nor = x.nor) : Kept v (c.setBoot f) :=
  ⟨h.variant, ⟨h.sound.regs, h.sound.mem, h.sound.mram⟩, h.mem, h.mram, h.keys, fun x hx => (hf _).trans (h.nor x hx)⟩

theorem Kept.setImage {v : Held} {c : Chip} {p bank ofs bs} (h : Kept v c) (hn : v.nor = none) : Kept v (c.setImage p bank ofs bs) :=
  ⟨h.variant, ⟨h.sound.regs, h.sound.mem, h.sound.mram⟩, h.mem, h.mram, h.keys, fun x hx => by rw [hn] at hx; cases hx⟩

/-- Where no stored key is held, the vault may change. -/
theorem Kept.vltAny {v : Held} {c : Chip} {x : Vault} (h : Kept v c) (hk : v.keys = none) : Kept v { c with vlt := x } :=
  ⟨h.variant, ⟨h.sound.regs, h.sound.mem, h.sound.mram⟩, h.mem, h.mram, fun x hx => (by rw [hk] at hx; cases hx), h.nor⟩

/-- The other parts of the vault may change. -/
theorem Kept.vltSame {v : Held} {c : Chip} {x : Vault} (h : Kept v c) (hb : x.banks = c.vlt.banks) (he : x.entries = c.vlt.entries) :
    Kept v { c with vlt := x } :=
  ⟨h.variant, ⟨h.sound.regs, h.sound.mem, h.sound.mram⟩, h.mem, h.mram, fun y hy => (by rw [← h.keys y hy]; exact Prod.ext hb he), h.nor⟩

/-- A request to the DRBG leaves the stored keys (R441). -/
theorem Vault.drbgUse_keys (x : Vault) : x.drbgUse.banks = x.banks ∧ x.drbgUse.entries = x.entries := by
  unfold Vault.drbgUse
  split
  · exact ⟨rfl, rfl⟩
  · exact ⟨rfl, rfl⟩

/-- A choice between two blocks. -/
theorem Kept.ite {v : Held} {p : Prop} [Decidable p] {c d : Chip} (h : Kept v c) (g : Kept v d) : Kept v (if p then c else d) := by
  split
  · exact h
  · exact g

end Sys2Proof.Machine
end

