-- ==== Sys2Proof/Laws/Kept1.lean ====
section
/-! SUPPORT. What the operations of Ops, Flags, Operands, Pages, Events, Logs, Clock, Can keep. -/

set_option linter.unusedTactic false
set_option linter.unreachableTactic false
set_option linter.unusedSimpArgs false
set_option linter.unusedVariables false

namespace Sys2Proof.Machine

theorem Kept.put {v : Held} {c : Chip} {f : Fld} {x2 : ℕ} (hc : Kept v c) :
    Kept v (Chip.put c f x2) := by
  unfold Machine.Chip.put
  with_reducible repeat' first
    | assumption
    | (extract_lets +onlyGivenNames y; first | (refine Kept.have_ (v := v) (x := y) ?_ ?_; (on_goal 1 => subst y); (on_goal 2 => (intro hy; clear_value y))) | clear_value y)
    | apply Kept.setWord
    | apply Kept.forN
    | simp only [Kept.upd_iff]
    | (intro _ _ _)
    | (intro _ _)
    | (split; rename_i heq; have hk := congrArg Prod.snd heq; subst hk)
    | split

theorem Kept.putS {v : Held} {c : Chip} {f : Fld} {x2 : ℤ} (hc : Kept v c) :
    Kept v (Chip.putS c f x2) := by
  unfold Machine.Chip.putS
  with_reducible repeat' first
    | assumption
    | (extract_lets +onlyGivenNames y; first | (refine Kept.have_ (v := v) (x := y) ?_ ?_; (on_goal 1 => subst y); (on_goal 2 => (intro hy; clear_value y))) | clear_value y)
    | apply Kept.put
    | apply Kept.forN
    | simp only [Kept.upd_iff]
    | (intro _ _ _)
    | (intro _ _)
    | (split; rename_i heq; have hk := congrArg Prod.snd heq; subst hk)
    | split

theorem Kept.setFlag {v : Held} {c : Chip} {f : Fld} {b : Bool} (hc : Kept v c) :
    Kept v (Chip.setFlag c f b) := by
  unfold Machine.Chip.setFlag
  with_reducible repeat' first
    | assumption
    | (extract_lets +onlyGivenNames y; first | (refine Kept.have_ (v := v) (x := y) ?_ ?_; (on_goal 1 => subst y); (on_goal 2 => (intro hy; clear_value y))) | clear_value y)
    | apply Kept.put
    | apply Kept.forN
    | simp only [Kept.upd_iff]
    | (intro _ _ _)
    | (intro _ _)
    | (split; rename_i heq; have hk := congrArg Prod.snd heq; subst hk)
    | split

theorem Kept.put64 {v : Held} {c : Chip} {lo : Fld} {hi : Fld} {x3 : ℕ} (hc : Kept v c) :
    Kept v (Chip.put64 c lo hi x3) := by
  unfold Machine.Chip.put64
  with_reducible repeat' first
    | assumption
    | (extract_lets +onlyGivenNames y; first | (refine Kept.have_ (v := v) (x := y) ?_ ?_; (on_goal 1 => subst y); (on_goal 2 => (intro hy; clear_value y))) | clear_value y)
    | apply Kept.put
    | apply Kept.forN
    | simp only [Kept.upd_iff]
    | (intro _ _ _)
    | (intro _ _)
    | (split; rename_i heq; have hk := congrArg Prod.snd heq; subst hk)
    | split

theorem Kept.inc {v : Held} {c : Chip} {f : Fld} (hc : Kept v c) :
    Kept v (Chip.inc c f) := by
  unfold Machine.Chip.inc
  with_reducible repeat' first
    | assumption
    | (extract_lets +onlyGivenNames y; first | (refine Kept.have_ (v := v) (x := y) ?_ ?_; (on_goal 1 => subst y); (on_goal 2 => (intro hy; clear_value y))) | clear_value y)
    | apply Kept.put
    | apply Kept.forN
    | simp only [Kept.upd_iff]
    | (intro _ _ _)
    | (intro _ _)
    | (split; rename_i heq; have hk := congrArg Prod.snd heq; subst hk)
    | split

theorem Kept.incSat {v : Held} {c : Chip} {f : Fld} (hc : Kept v c) :
    Kept v (Chip.incSat c f) := by
  unfold Machine.Chip.incSat
  with_reducible repeat' first
    | assumption
    | (extract_lets +onlyGivenNames y; first | (refine Kept.have_ (v := v) (x := y) ?_ ?_; (on_goal 1 => subst y); (on_goal 2 => (intro hy; clear_value y))) | clear_value y)
    | apply Kept.put
    | apply Kept.forN
    | simp only [Kept.upd_iff]
    | (intro _ _ _)
    | (intro _ _)
    | (split; rename_i heq; have hk := congrArg Prod.snd heq; subst hk)
    | split

theorem Kept.setElem {v : Held} {c : Chip} {n : ℕ} {e : Element} (hc : Kept v c) :
    Kept v (Chip.setElem c n e) := by
  unfold Machine.Chip.setElem
  with_reducible repeat' first
    | assumption
    | (extract_lets +onlyGivenNames y; first | (refine Kept.have_ (v := v) (x := y) ?_ ?_; (on_goal 1 => subst y); (on_goal 2 => (intro hy; clear_value y))) | clear_value y)
    | apply Kept.forN
    | simp only [Kept.upd_iff]
    | (intro _ _ _)
    | (intro _ _)
    | (split; rename_i heq; have hk := congrArg Prod.snd heq; subst hk)
    | split

theorem Kept.setMeter {v : Held} {c : Chip} {m : ℕ} {x : Meter} (hc : Kept v c) :
    Kept v (Chip.setMeter c m x) := by
  unfold Machine.Chip.setMeter
  with_reducible repeat' first
    | assumption
    | (extract_lets +onlyGivenNames y; first | (refine Kept.have_ (v := v) (x := y) ?_ ?_; (on_goal 1 => subst y); (on_goal 2 => (intro hy; clear_value y))) | clear_value y)
    | apply Kept.forN
    | simp only [Kept.upd_iff]
    | (intro _ _ _)
    | (intro _ _)
    | (split; rename_i heq; have hk := congrArg Prod.snd heq; subst hk)
    | split

theorem Kept.draw {v : Held} {c : Chip} (hc : Kept v c) :
    Kept v ((Chip.draw c)).2 := by
  unfold Machine.Chip.draw
  with_reducible repeat' first
    | assumption
    | (extract_lets +onlyGivenNames y; first | (refine Kept.have_ (v := v) (x := y) ?_ ?_; (on_goal 1 => subst y); (on_goal 2 => (intro hy; clear_value y))) | clear_value y)
    | apply Kept.forN
    | simp only [Kept.upd_iff]
    | (intro _ _ _)
    | (intro _ _)
    | (split; rename_i heq; have hk := congrArg Prod.snd heq; subst hk)
    | split

theorem Kept.edgeEv {v : Held} {c : Chip} {page : ℕ} {k : ℕ} (hc : Kept v c) :
    Kept v (Chip.edgeEv c page k) := by
  unfold Machine.Chip.edgeEv
  with_reducible repeat' first
    | assumption
    | (extract_lets +onlyGivenNames y; first | (refine Kept.have_ (v := v) (x := y) ?_ ?_; (on_goal 1 => subst y); (on_goal 2 => (intro hy; clear_value y))) | clear_value y)
    | apply Kept.setFlag
    | apply Kept.forN
    | simp only [Kept.upd_iff]
    | (intro _ _ _)
    | (intro _ _)
    | (split; rename_i heq; have hk := congrArg Prod.snd heq; subst hk)
    | split

theorem Kept.wakeCores {v : Held} {c : Chip} (hc : Kept v c) :
    Kept v (Chip.wakeCores c) := by
  unfold Machine.Chip.wakeCores
  with_reducible repeat' first
    | assumption
    | (extract_lets +onlyGivenNames y; first | (refine Kept.have_ (v := v) (x := y) ?_ ?_; (on_goal 1 => subst y); (on_goal 2 => (intro hy; clear_value y))) | clear_value y)
    | apply Kept.setFlag
    | apply Kept.forN
    | simp only [Kept.upd_iff]
    | (intro _ _ _)
    | (intro _ _)
    | (split; rename_i heq; have hk := congrArg Prod.snd heq; subst hk)
    | split

theorem Kept.firePrivate {v : Held} {c : Chip} {t : ℕ} {k : ℕ} (hc : Kept v c) :
    Kept v (Chip.firePrivate c t k) := by
  unfold Machine.Chip.firePrivate
  with_reducible repeat' first
    | assumption
    | (extract_lets +onlyGivenNames y; first | (refine Kept.have_ (v := v) (x := y) ?_ ?_; (on_goal 1 => subst y); (on_goal 2 => (intro hy; clear_value y))) | clear_value y)
    | apply Kept.wakeCores
    | apply Kept.setFlag
    | apply Kept.forN
    | simp only [Kept.upd_iff]
    | (intro _ _ _)
    | (intro _ _)
    | (split; rename_i heq; have hk := congrArg Prod.snd heq; subst hk)
    | split

theorem Kept.settleRedirection {v : Held} {c : Chip} (hc : Kept v c) :
    Kept v (Chip.settleRedirection c) := by
  unfold Machine.Chip.settleRedirection
  with_reducible repeat' first
    | assumption
    | (extract_lets +onlyGivenNames y; first | (refine Kept.have_ (v := v) (x := y) ?_ ?_; (on_goal 1 => subst y); (on_goal 2 => (intro hy; clear_value y))) | clear_value y)
    | apply Kept.edgeEv
    | apply Kept.setFlag
    | apply Kept.firePrivate
    | apply Kept.forN
    | simp only [Kept.upd_iff]
    | apply Kept.foldl
    | apply Kept.foldl_pair
    | (intro _ _ _)
    | (intro _ _)
    | (split; rename_i heq; have hk := congrArg Prod.snd heq; subst hk)
    | split

theorem Kept.settleEvents {v : Held} {c : Chip} (hc : Kept v c) :
    Kept v (Chip.settleEvents c) := by
  unfold Machine.Chip.settleEvents
  with_reducible repeat' first
    | assumption
    | (extract_lets +onlyGivenNames y; first | (refine Kept.have_ (v := v) (x := y) ?_ ?_; (on_goal 1 => subst y); (on_goal 2 => (intro hy; clear_value y))) | clear_value y)
    | apply Kept.wakeCores
    | apply Kept.settleRedirection
    | apply Kept.forN
    | simp only [Kept.upd_iff]
    | (intro _ _ _)
    | (intro _ _)
    | (split; rename_i heq; have hk := congrArg Prod.snd heq; subst hk)
    | split

theorem Kept.raiseEv {v : Held} {c : Chip} {page : ℕ} {k : ℕ} (hc : Kept v c) :
    Kept v (Chip.raiseEv c page k) := by
  unfold Machine.Chip.raiseEv
  with_reducible repeat' first
    | assumption
    | (extract_lets +onlyGivenNames y; first | (refine Kept.have_ (v := v) (x := y) ?_ ?_; (on_goal 1 => subst y); (on_goal 2 => (intro hy; clear_value y))) | clear_value y)
    | apply Kept.settleEvents
    | apply Kept.edgeEv
    | apply Kept.forN
    | simp only [Kept.upd_iff]
    | (intro _ _ _)
    | (intro _ _)
    | (split; rename_i heq; have hk := congrArg Prod.snd heq; subst hk)
    | split

theorem Kept.setRaw {v : Held} {c : Chip} {page : ℕ} {k : ℕ} {b : Bool} (hc : Kept v c) :
    Kept v (Chip.setRaw c page k b) := by
  unfold Machine.Chip.setRaw
  with_reducible repeat' first
    | assumption
    | (extract_lets +onlyGivenNames y; first | (refine Kept.have_ (v := v) (x := y) ?_ ?_; (on_goal 1 => subst y); (on_goal 2 => (intro hy; clear_value y))) | clear_value y)
    | apply Kept.setFlag
    | apply Kept.raiseEv
    | apply Kept.settleEvents
    | apply Kept.forN
    | simp only [Kept.upd_iff]
    | (intro _ _ _)
    | (intro _ _)
    | (split; rename_i heq; have hk := congrArg Prod.snd heq; subst hk)
    | split

theorem Kept.fireShared {v : Held} {c : Chip} {id : ℕ} (hc : Kept v c) :
    Kept v (Chip.fireShared c id) := by
  unfold Machine.Chip.fireShared
  with_reducible repeat' first
    | assumption
    | (extract_lets +onlyGivenNames y; first | (refine Kept.have_ (v := v) (x := y) ?_ ?_; (on_goal 1 => subst y); (on_goal 2 => (intro hy; clear_value y))) | clear_value y)
    | apply Kept.settleEvents
    | apply Kept.setFlag
    | apply Kept.forN
    | simp only [Kept.upd_iff]
    | (intro _ _ _)
    | (intro _ _)
    | (split; rename_i heq; have hk := congrArg Prod.snd heq; subst hk)
    | split

theorem Kept.controlTick {v : Held} {c : Chip} (hc : Kept v c) :
    Kept v (Chip.controlTick c) := by
  unfold Machine.Chip.controlTick
  with_reducible repeat' first
    | assumption
    | (extract_lets +onlyGivenNames y; first | (refine Kept.have_ (v := v) (x := y) ?_ ?_; (on_goal 1 => subst y); (on_goal 2 => (intro hy; clear_value y))) | clear_value y)
    | apply Kept.fireShared
    | apply Kept.forN
    | simp only [Kept.upd_iff]
    | (intro _ _ _)
    | (intro _ _)
    | (split; rename_i heq; have hk := congrArg Prod.snd heq; subst hk)
    | split

theorem Kept.setFault {v : Held} {c : Chip} {level : ℕ} {code : ℕ} {unit : ℕ} (hc : Kept v c) :
    Kept v (Chip.setFault c level code unit) := by
  unfold Machine.Chip.setFault
  with_reducible repeat' first
    | assumption
    | (extract_lets +onlyGivenNames y; first | (refine Kept.have_ (v := v) (x := y) ?_ ?_; (on_goal 1 => subst y); (on_goal 2 => (intro hy; clear_value y))) | clear_value y)
    | apply Kept.forN
    | simp only [Kept.upd_iff]
    | (intro _ _ _)
    | (intro _ _)
    | (split; rename_i heq; have hk := congrArg Prod.snd heq; subst hk)
    | split

theorem Kept.clearFault {v : Held} {c : Chip} {level : ℕ} {code : ℕ} {unit : ℕ} (hc : Kept v c) :
    Kept v (Chip.clearFault c level code unit) := by
  unfold Machine.Chip.clearFault
  with_reducible repeat' first
    | assumption
    | (extract_lets +onlyGivenNames y; first | (refine Kept.have_ (v := v) (x := y) ?_ ?_; (on_goal 1 => subst y); (on_goal 2 => (intro hy; clear_value y))) | clear_value y)
    | apply Kept.forN
    | simp only [Kept.upd_iff]
    | (intro _ _ _)
    | (intro _ _)
    | (split; rename_i heq; have hk := congrArg Prod.snd heq; subst hk)
    | split

theorem Kept.faultIs {v : Held} {c : Chip} {level : ℕ} {code : ℕ} {unit : ℕ} {b : Bool} (hc : Kept v c) :
    Kept v (Chip.faultIs c level code unit b) := by
  unfold Machine.Chip.faultIs
  with_reducible repeat' first
    | assumption
    | (extract_lets +onlyGivenNames y; first | (refine Kept.have_ (v := v) (x := y) ?_ ?_; (on_goal 1 => subst y); (on_goal 2 => (intro hy; clear_value y))) | clear_value y)
    | apply Kept.setFault
    | apply Kept.clearFault
    | apply Kept.forN
    | simp only [Kept.upd_iff]
    | (intro _ _ _)
    | (intro _ _)
    | (split; rename_i heq; have hk := congrArg Prod.snd heq; subst hk)
    | split

theorem Kept.mirror {v : Held} {c : Chip} {m : Mirror} (hc : Kept v c) :
    Kept v (Chip.mirror c m) := by
  unfold Machine.Chip.mirror
  with_reducible repeat' first
    | assumption
    | (extract_lets +onlyGivenNames y; first | (refine Kept.have_ (v := v) (x := y) ?_ ?_; (on_goal 1 => subst y); (on_goal 2 => (intro hy; clear_value y))) | clear_value y)
    | apply Kept.forN
    | simp only [Kept.upd_iff]
    | (intro _ _ _)
    | (intro _ _)
    | (split; rename_i heq; have hk := congrArg Prod.snd heq; subst hk)
    | split

theorem Kept.violate {v : Held} {c : Chip} {acc : Access} {a : ℕ} {kind : ℕ} {write : Bool} (hc : Kept v c) :
    Kept v (Chip.violate c acc a kind write) := by
  unfold Machine.Chip.violate
  with_reducible repeat' first
    | assumption
    | (extract_lets +onlyGivenNames y; first | (refine Kept.have_ (v := v) (x := y) ?_ ?_; (on_goal 1 => subst y); (on_goal 2 => (intro hy; clear_value y))) | clear_value y)
    | apply Kept.incSat
    | apply Kept.put
    | apply Kept.forN
    | simp only [Kept.upd_iff]
    | (intro _ _ _)
    | (intro _ _)
    | (split; rename_i heq; have hk := congrArg Prod.snd heq; subst hk)
    | split

theorem Kept.write {v : Held} {c : Chip} {acc : Access} {a : ℕ} {x3 : ℕ} {f : Chip → Chip} (hc : Kept v c) (hf : ∀ c, Kept v c → Kept v (f c)) :
    Kept v (Chip.write c acc a x3 f) := by
  unfold Machine.Chip.write
  with_reducible repeat' first
    | assumption
    | (extract_lets +onlyGivenNames y; first | (refine Kept.have_ (v := v) (x := y) ?_ ?_; (on_goal 1 => subst y); (on_goal 2 => (intro hy; clear_value y))) | clear_value y)
    | apply hf
    | apply Kept.violate
    | apply Kept.forN
    | simp only [Kept.upd_iff]
    | (intro _ _ _)
    | (intro _ _)
    | (split; rename_i heq; have hk := congrArg Prod.snd heq; subst hk)
    | split

theorem Kept.writeUnit {v : Held} {c : Chip} {b : Blk} {n : ℕ} {acc : Access} {a : ℕ} {x5 : ℕ} {f : Chip → Chip} (hc : Kept v c) (hf : ∀ c, Kept v c → Kept v (f c)) :
    Kept v (Chip.writeUnit c b n acc a x5 f) := by
  unfold Machine.Chip.writeUnit
  with_reducible repeat' first
    | assumption
    | (extract_lets +onlyGivenNames y; first | (refine Kept.have_ (v := v) (x := y) ?_ ?_; (on_goal 1 => subst y); (on_goal 2 => (intro hy; clear_value y))) | clear_value y)
    | apply hf
    | apply Kept.write
    | apply Kept.forN
    | simp only [Kept.upd_iff]
    | (intro _ _ _)
    | (intro _ _)
    | (split; rename_i heq; have hk := congrArg Prod.snd heq; subst hk)
    | split

theorem Kept.read {v : Held} {c : Chip} {acc : Access} {a : ℕ} {f : Chip → Chip} (hc : Kept v c) (hf : ∀ c, Kept v c → Kept v (f c)) :
    Kept v (Chip.read c acc a f) := by
  unfold Machine.Chip.read
  with_reducible repeat' first
    | assumption
    | (extract_lets +onlyGivenNames y; first | (refine Kept.have_ (v := v) (x := y) ?_ ?_; (on_goal 1 => subst y); (on_goal 2 => (intro hy; clear_value y))) | clear_value y)
    | apply hf
    | apply Kept.violate
    | apply Kept.forN
    | simp only [Kept.upd_iff]
    | (intro _ _ _)
    | (intro _ _)
    | (split; rename_i heq; have hk := congrArg Prod.snd heq; subst hk)
    | split

theorem Kept.readUnit {v : Held} {c : Chip} {b : Blk} {n : ℕ} {acc : Access} {a : ℕ} {f : Chip → Chip} (hc : Kept v c) (hf : ∀ c, Kept v c → Kept v (f c)) :
    Kept v (Chip.readUnit c b n acc a f) := by
  unfold Machine.Chip.readUnit
  with_reducible repeat' first
    | assumption
    | (extract_lets +onlyGivenNames y; first | (refine Kept.have_ (v := v) (x := y) ?_ ?_; (on_goal 1 => subst y); (on_goal 2 => (intro hy; clear_value y))) | clear_value y)
    | apply hf
    | apply Kept.read
    | apply Kept.forN
    | simp only [Kept.upd_iff]
    | (intro _ _ _)
    | (intro _ _)
    | (split; rename_i heq; have hk := congrArg Prod.snd heq; subst hk)
    | split

theorem Kept.setSlot {v : Held} {c : Chip} {p : ℕ} {x : StageSlot} (hc : Kept v c) :
    Kept v (Chip.setSlot c p x) := by
  unfold Machine.Chip.setSlot
  with_reducible repeat' first
    | assumption
    | (extract_lets +onlyGivenNames y; first | (refine Kept.have_ (v := v) (x := y) ?_ ?_; (on_goal 1 => subst y); (on_goal 2 => (intro hy; clear_value y))) | clear_value y)
    | apply Kept.forN
    | simp only [Kept.upd_iff]
    | (intro _ _ _)
    | (intro _ _)
    | (split; rename_i heq; have hk := congrArg Prod.snd heq; subst hk)
    | split

theorem Kept.countDirty {v : Held} {c : Chip} (hc : Kept v c) :
    Kept v (Chip.countDirty c) := by
  unfold Machine.Chip.countDirty
  with_reducible repeat' first
    | assumption
    | (extract_lets +onlyGivenNames y; first | (refine Kept.have_ (v := v) (x := y) ?_ ?_; (on_goal 1 => subst y); (on_goal 2 => (intro hy; clear_value y))) | clear_value y)
    | apply Kept.put
    | apply Kept.forN
    | simp only [Kept.upd_iff]
    | (intro _ _ _)
    | (intro _ _)
    | (split; rename_i heq; have hk := congrArg Prod.snd heq; subst hk)
    | split

theorem Kept.markDirty {v : Held} {c : Chip} {page : ℕ} {p : ℕ} (hc : Kept v c) :
    Kept v (Chip.markDirty c page p) := by
  unfold Machine.Chip.markDirty
  with_reducible repeat' first
    | assumption
    | (extract_lets +onlyGivenNames y; first | (refine Kept.have_ (v := v) (x := y) ?_ ?_; (on_goal 1 => subst y); (on_goal 2 => (intro hy; clear_value y))) | clear_value y)
    | apply Kept.countDirty
    | apply Kept.forN
    | simp only [Kept.upd_iff]
    | (intro _ _ _)
    | (intro _ _)
    | (split; rename_i heq; have hk := congrArg Prod.snd heq; subst hk)
    | split

theorem Kept.noteImage {v : Held} {c : Chip} {a : ℕ} (hc : Kept v c) :
    Kept v (Chip.noteImage c a) := by
  unfold Machine.Chip.noteImage
  with_reducible repeat' first
    | assumption
    | (extract_lets +onlyGivenNames y; first | (refine Kept.have_ (v := v) (x := y) ?_ ?_; (on_goal 1 => subst y); (on_goal 2 => (intro hy; clear_value y))) | clear_value y)
    | apply Kept.forN
    | simp only [Kept.upd_iff]
    | (intro _ _ _)
    | (intro _ _)
    | (split; rename_i heq; have hk := congrArg Prod.snd heq; subst hk)
    | split

theorem Kept.stageWrite {v : Held} {c : Chip} {plane : ℕ} {a : ℕ} {x3 : ℕ} (hc : Kept v c) :
    Kept v (Chip.stageWrite c plane a x3) := by
  unfold Machine.Chip.stageWrite
  with_reducible repeat' first
    | assumption
    | (extract_lets +onlyGivenNames y; first | (refine Kept.have_ (v := v) (x := y) ?_ ?_; (on_goal 1 => subst y); (on_goal 2 => (intro hy; clear_value y))) | clear_value y)
    | apply Kept.setFlag
    | apply Kept.setWord
    | apply Kept.noteImage
    | apply Kept.markDirty
    | apply Kept.mirror
    | apply Kept.forN
    | simp only [Kept.upd_iff]
    | (intro _ _ _)
    | (intro _ _)
    | (split; rename_i heq; have hk := congrArg Prod.snd heq; subst hk)
    | split

theorem Kept.mailboxRefuse {v : Held} {c : Chip} {p : ℕ} {k : ℕ} (hc : Kept v c) :
    Kept v (Chip.mailboxRefuse c p k) := by
  unfold Machine.Chip.mailboxRefuse
  with_reducible repeat' first
    | assumption
    | (extract_lets +onlyGivenNames y; first | (refine Kept.have_ (v := v) (x := y) ?_ ?_; (on_goal 1 => subst y); (on_goal 2 => (intro hy; clear_value y))) | clear_value y)
    | apply Kept.setFlag
    | apply Kept.forN
    | simp only [Kept.upd_iff]
    | (intro _ _ _)
    | (intro _ _)
    | (split; rename_i heq; have hk := congrArg Prod.snd heq; subst hk)
    | split

theorem Kept.mailboxWrite {v : Held} {c : Chip} {acc : Access} {a : ℕ} {p : ℕ} {plane : ℕ} {f : Chip → Chip} (hc : Kept v c) (hf : ∀ c, Kept v c → Kept v (f c)) :
    Kept v (Chip.mailboxWrite c acc a p plane f) := by
  unfold Machine.Chip.mailboxWrite
  with_reducible repeat' first
    | assumption
    | (extract_lets +onlyGivenNames y; first | (refine Kept.have_ (v := v) (x := y) ?_ ?_; (on_goal 1 => subst y); (on_goal 2 => (intro hy; clear_value y))) | clear_value y)
    | apply hf
    | apply Kept.writeUnit
    | apply Kept.violate
    | apply Kept.forN
    | simp only [Kept.upd_iff]
    | (intro _ _ _)
    | (intro _ _)
    | (split; rename_i heq; have hk := congrArg Prod.snd heq; subst hk)
    | split

theorem Kept.mbxPayloadWrite {v : Held} {acc : Access} {p : ℕ} {k : ℕ} {w : ℕ} {x4 : ℕ} {c : Chip} (hc : Kept v c) (hm : v.mem = none) :
    Kept v (mbxPayloadWrite acc p k w x4 c) := by
  unfold Machine.mbxPayloadWrite
  with_reducible repeat' first
    | assumption
    | (extract_lets +onlyGivenNames y; first | (refine Kept.have_ (v := v) (x := y) ?_ ?_; (on_goal 1 => subst y); (on_goal 2 => (intro hy; clear_value y))) | clear_value y)
    | apply Kept.mailboxWrite
    | apply Kept.mailboxRefuse
    | apply Kept.setBytes
    | apply Kept.forN
    | simp only [Kept.upd_iff]
    | (intro _ _ _)
    | (intro _ _)
    | (split; rename_i heq; have hk := congrArg Prod.snd heq; subst hk)
    | split

theorem Kept.mbxPost {v : Held} {acc : Access} {p : ℕ} {x2 : ℕ} {c : Chip} (hc : Kept v c) :
    Kept v (mbxPost acc p x2 c) := by
  unfold Machine.mbxPost
  with_reducible repeat' first
    | assumption
    | (extract_lets +onlyGivenNames y; first | (refine Kept.have_ (v := v) (x := y) ?_ ?_; (on_goal 1 => subst y); (on_goal 2 => (intro hy; clear_value y))) | clear_value y)
    | apply Kept.mailboxWrite
    | apply Kept.mailboxRefuse
    | apply Kept.fireShared
    | apply Kept.setFlag
    | apply Kept.forN
    | simp only [Kept.upd_iff]
    | (intro _ _ _)
    | (intro _ _)
    | (split; rename_i heq; have hk := congrArg Prod.snd heq; subst hk)
    | split

theorem Kept.mbxTake {v : Held} {acc : Access} {p : ℕ} {x2 : ℕ} {c : Chip} (hc : Kept v c) :
    Kept v (mbxTake acc p x2 c) := by
  unfold Machine.mbxTake
  with_reducible repeat' first
    | assumption
    | (extract_lets +onlyGivenNames y; first | (refine Kept.have_ (v := v) (x := y) ?_ ?_; (on_goal 1 => subst y); (on_goal 2 => (intro hy; clear_value y))) | clear_value y)
    | apply Kept.mailboxWrite
    | apply Kept.fireShared
    | apply Kept.setFlag
    | apply Kept.forN
    | simp only [Kept.upd_iff]
    | (intro _ _ _)
    | (intro _ _)
    | (split; rename_i heq; have hk := congrArg Prod.snd heq; subst hk)
    | split

theorem Kept.mailboxPlaneReset {v : Held} {c : Chip} {plane : ℕ} (hc : Kept v c) :
    Kept v (Chip.mailboxPlaneReset c plane) := by
  unfold Machine.Chip.mailboxPlaneReset
  with_reducible repeat' first
    | assumption
    | (extract_lets +onlyGivenNames y; first | (refine Kept.have_ (v := v) (x := y) ?_ ?_; (on_goal 1 => subst y); (on_goal 2 => (intro hy; clear_value y))) | clear_value y)
    | apply Kept.fireShared
    | apply Kept.put
    | apply Kept.forN
    | simp only [Kept.upd_iff]
    | (intro _ _ _)
    | (intro _ _)
    | (split; rename_i heq; have hk := congrArg Prod.snd heq; subst hk)
    | split

theorem Kept.evPendClear {v : Held} {acc : Access} {page : ℕ} {x2 : ℕ} {arriving : ℕ} {c : Chip} (hc : Kept v c) :
    Kept v (evPendClear acc page x2 arriving c) := by
  unfold Machine.evPendClear
  with_reducible repeat' first
    | assumption
    | (extract_lets +onlyGivenNames y; first | (refine Kept.have_ (v := v) (x := y) ?_ ?_; (on_goal 1 => subst y); (on_goal 2 => (intro hy; clear_value y))) | clear_value y)
    | apply Kept.write
    | apply Kept.settleEvents
    | apply Kept.setWord
    | apply Kept.forN
    | simp only [Kept.upd_iff]
    | (intro _ _ _)
    | (intro _ _)
    | (split; rename_i heq; have hk := congrArg Prod.snd heq; subst hk)
    | split

theorem Kept.evTypeWrite {v : Held} {acc : Access} {page : ℕ} {x2 : ℕ} {c : Chip} (hc : Kept v c) :
    Kept v (evTypeWrite acc page x2 c) := by
  unfold Machine.evTypeWrite
  with_reducible repeat' first
    | assumption
    | (extract_lets +onlyGivenNames y; first | (refine Kept.have_ (v := v) (x := y) ?_ ?_; (on_goal 1 => subst y); (on_goal 2 => (intro hy; clear_value y))) | clear_value y)
    | apply Kept.write
    | apply Kept.setWord
    | apply Kept.settleEvents
    | apply Kept.forN
    | simp only [Kept.upd_iff]
    | (intro _ _ _)
    | (intro _ _)
    | (split; rename_i heq; have hk := congrArg Prod.snd heq; subst hk)
    | split

theorem Kept.discardShadows {v : Held} {c : Chip} {page : ℕ} (hc : Kept v c) :
    Kept v (Chip.discardShadows c page) := by
  unfold Machine.Chip.discardShadows
  refine Kept.countDirty (Kept.foldl ?_ ?_)
  · exact ⟨hc.variant, ⟨Sparse.wf_filter hc.sound.regs, hc.sound.mem, hc.sound.mram⟩, hc.mem, hc.mram, hc.keys, hc.nor⟩
  · intro p d hd
    split
    · dsimp only
      split
      · exact Kept.setWord hd
      · exact hd
    · exact hd

theorem Kept.ownerWrite {v : Held} {acc : Access} {page : ℕ} {x2 : ℕ} {c : Chip} (hc : Kept v c) :
    Kept v (ownerWrite acc page x2 c) := by
  unfold Machine.ownerWrite
  with_reducible repeat' first
    | assumption
    | (extract_lets +onlyGivenNames y; first | (refine Kept.have_ (v := v) (x := y) ?_ ?_; (on_goal 1 => subst y); (on_goal 2 => (intro hy; clear_value y))) | clear_value y)
    | apply Kept.write
    | apply Kept.put
    | apply Kept.violate
    | apply Kept.discardShadows
    | apply Kept.forN
    | simp only [Kept.upd_iff]
    | (intro _ _ _)
    | (intro _ _)
    | (split; rename_i heq; have hk := congrArg Prod.snd heq; subst hk)
    | split

theorem Kept.violationClear {v : Held} {acc : Access} {x1 : ℕ} {c : Chip} (hc : Kept v c) :
    Kept v (violationClear acc x1 c) := by
  unfold Machine.violationClear
  with_reducible repeat' first
    | assumption
    | (extract_lets +onlyGivenNames y; first | (refine Kept.have_ (v := v) (x := y) ?_ ?_; (on_goal 1 => subst y); (on_goal 2 => (intro hy; clear_value y))) | clear_value y)
    | apply Kept.write
    | apply Kept.put
    | apply Kept.forN
    | simp only [Kept.upd_iff]
    | (intro _ _ _)
    | (intro _ _)
    | (split; rename_i heq; have hk := congrArg Prod.snd heq; subst hk)
    | split

theorem Kept.claim {v : Held} {acc : Access} {k : ℕ} {c : Chip} (hc : Kept v c) :
    Kept v (claim acc k c) := by
  unfold Machine.claim
  with_reducible repeat' first
    | assumption
    | (extract_lets +onlyGivenNames y; first | (refine Kept.have_ (v := v) (x := y) ?_ ?_; (on_goal 1 => subst y); (on_goal 2 => (intro hy; clear_value y))) | clear_value y)
    | apply Kept.setFlag
    | apply Kept.put
    | apply Kept.forN
    | simp only [Kept.upd_iff]
    | (intro _ _ _)
    | (intro _ _)
    | (split; rename_i heq; have hk := congrArg Prod.snd heq; subst hk)
    | split

theorem Kept.releaseWord {v : Held} {c : Chip} {acc : Access} {k : ℕ} (hc : Kept v c) :
    Kept v (Chip.releaseWord c acc k) := by
  unfold Machine.Chip.releaseWord
  with_reducible repeat' first
    | assumption
    | (extract_lets +onlyGivenNames y; first | (refine Kept.have_ (v := v) (x := y) ?_ ?_; (on_goal 1 => subst y); (on_goal 2 => (intro hy; clear_value y))) | clear_value y)
    | apply Kept.put
    | apply Kept.setFlag
    | apply Kept.violate
    | apply Kept.forN
    | simp only [Kept.upd_iff]
    | (intro _ _ _)
    | (intro _ _)
    | (split; rename_i heq; have hk := congrArg Prod.snd heq; subst hk)
    | split

theorem Kept.pageStoreEccError {v : Held} {page : ℕ} {c : Chip} (hc : Kept v c) :
    Kept v (pageStoreEccError page c) := by
  unfold Machine.pageStoreEccError
  with_reducible repeat' first
    | assumption
    | (extract_lets +onlyGivenNames y; first | (refine Kept.have_ (v := v) (x := y) ?_ ?_; (on_goal 1 => subst y); (on_goal 2 => (intro hy; clear_value y))) | clear_value y)
    | apply Kept.setFault
    | apply Kept.raiseEv
    | apply Kept.setSlot
    | apply Kept.put
    | apply Kept.forN
    | simp only [Kept.upd_iff]
    | (intro _ _ _)
    | (intro _ _)
    | (split; rename_i heq; have hk := congrArg Prod.snd heq; subst hk)
    | split

theorem Kept.consume {v : Held} {c : Chip} {t : ℕ} {id : ℕ} (hc : Kept v c) :
    Kept v (Chip.consume c t id) := by
  unfold Machine.Chip.consume
  with_reducible repeat' first
    | assumption
    | (extract_lets +onlyGivenNames y; first | (refine Kept.have_ (v := v) (x := y) ?_ ?_; (on_goal 1 => subst y); (on_goal 2 => (intro hy; clear_value y))) | clear_value y)
    | apply Kept.setFlag
    | apply Kept.forN
    | simp only [Kept.upd_iff]
    | (intro _ _ _)
    | (intro _ _)
    | (split; rename_i heq; have hk := congrArg Prod.snd heq; subst hk)
    | split

theorem Kept.evcClaimRead {v : Held} {acc : Access} {t : ℕ} {c : Chip} (hc : Kept v c) :
    Kept v (evcClaimRead acc t c) := by
  unfold Machine.evcClaimRead
  with_reducible repeat' first
    | assumption
    | (extract_lets +onlyGivenNames y; first | (refine Kept.have_ (v := v) (x := y) ?_ ?_; (on_goal 1 => subst y); (on_goal 2 => (intro hy; clear_value y))) | clear_value y)
    | apply Kept.read
    | apply Kept.put
    | apply Kept.consume
    | apply Kept.inc
    | apply Kept.forN
    | simp only [Kept.upd_iff]
    | (intro _ _ _)
    | (intro _ _)
    | (split; rename_i heq; have hk := congrArg Prod.snd heq; subst hk)
    | split

theorem Kept.evcComplete {v : Held} {acc : Access} {t : ℕ} {x2 : ℕ} {c : Chip} (hc : Kept v c) :
    Kept v (evcComplete acc t x2 c) := by
  unfold Machine.evcComplete
  with_reducible repeat' first
    | assumption
    | (extract_lets +onlyGivenNames y; first | (refine Kept.have_ (v := v) (x := y) ?_ ?_; (on_goal 1 => subst y); (on_goal 2 => (intro hy; clear_value y))) | clear_value y)
    | apply Kept.write
    | apply Kept.put
    | apply Kept.incSat
    | apply Kept.settleEvents
    | apply Kept.raiseEv
    | apply Kept.forN
    | simp only [Kept.upd_iff]
    | (intro _ _ _)
    | (intro _ _)
    | (split; rename_i heq; have hk := congrArg Prod.snd heq; subst hk)
    | split

theorem Kept.evcRaise {v : Held} {acc : Access} {t : ℕ} {x2 : ℕ} {c : Chip} (hc : Kept v c) :
    Kept v (evcRaise acc t x2 c) := by
  unfold Machine.evcRaise
  with_reducible repeat' first
    | assumption
    | (extract_lets +onlyGivenNames y; first | (refine Kept.have_ (v := v) (x := y) ?_ ?_; (on_goal 1 => subst y); (on_goal 2 => (intro hy; clear_value y))) | clear_value y)
    | apply Kept.write
    | apply Kept.firePrivate
    | apply Kept.fireShared
    | apply Kept.forN
    | simp only [Kept.upd_iff]
    | (intro _ _ _)
    | (intro _ _)
    | (split; rename_i heq; have hk := congrArg Prod.snd heq; subst hk)
    | split

theorem Kept.settleStalls {v : Held} {c : Chip} (hc : Kept v c) :
    Kept v (Chip.settleStalls c) := by
  unfold Machine.Chip.settleStalls
  with_reducible repeat' first
    | assumption
    | (extract_lets +onlyGivenNames y; first | (refine Kept.have_ (v := v) (x := y) ?_ ?_; (on_goal 1 => subst y); (on_goal 2 => (intro hy; clear_value y))) | clear_value y)
    | apply Kept.clearFault
    | apply Kept.forN
    | simp only [Kept.upd_iff]
    | apply Kept.foldl
    | apply Kept.foldl_pair
    | (intro _ _ _)
    | (intro _ _)
    | (split; rename_i heq; have hk := congrArg Prod.snd heq; subst hk)
    | split

theorem Kept.settleSources {v : Held} {c : Chip} (hc : Kept v c) :
    Kept v (Chip.settleSources c) := by
  unfold Machine.Chip.settleSources
  with_reducible repeat' first
    | assumption
    | (extract_lets +onlyGivenNames y; first | (refine Kept.have_ (v := v) (x := y) ?_ ?_; (on_goal 1 => subst y); (on_goal 2 => (intro hy; clear_value y))) | clear_value y)
    | apply Kept.settleEvents
    | apply Kept.settleStalls
    | apply Kept.forN
    | simp only [Kept.upd_iff]
    | (intro _ _ _)
    | (intro _ _)
    | (split; rename_i heq; have hk := congrArg Prod.snd heq; subst hk)
    | split

theorem Kept.evcTargetWrite {v : Held} {acc : Access} {id : Nat} {t : Nat} {c : Chip} (hc : Kept v c) :
    Kept v (evcTargetWrite acc id t c) := by
  unfold Machine.evcTargetWrite
  with_reducible repeat' first
    | assumption
    | (extract_lets +onlyGivenNames y; first | (refine Kept.have_ (v := v) (x := y) ?_ ?_; (on_goal 1 => subst y); (on_goal 2 => (intro hy; clear_value y))) | clear_value y)
    | apply Kept.put
    | apply Kept.write
    | apply Kept.settleSources
    | apply Kept.forN
    | simp only [Kept.upd_iff]
    | (intro _ _ _)
    | (intro _ _)
    | (split; rename_i heq; have hk := congrArg Prod.snd heq; subst hk)
    | split

theorem Kept.compatModeWrite {v : Held} {acc : Access} {w_ : Nat} {c : Chip} (hc : Kept v c) :
    Kept v (compatModeWrite acc w_ c) := by
  unfold Machine.compatModeWrite
  with_reducible repeat' first
    | assumption
    | (extract_lets +onlyGivenNames y; first | (refine Kept.have_ (v := v) (x := y) ?_ ?_; (on_goal 1 => subst y); (on_goal 2 => (intro hy; clear_value y))) | clear_value y)
    | apply Kept.put
    | apply Kept.setFlag
    | apply Kept.raiseEv
    | apply Kept.write
    | apply Kept.settleSources
    | apply Kept.forN
    | simp only [Kept.upd_iff]
    | (intro _ _ _)
    | (intro _ _)
    | (split; rename_i heq; have hk := congrArg Prod.snd heq; subst hk)
    | split

theorem Kept.coreWfi {v : Held} {t : Nat} {woken : Bool} {c : Chip} (hc : Kept v c) :
    Kept v (coreWfi t woken c) := by
  unfold Machine.coreWfi
  with_reducible repeat' first
    | assumption
    | (extract_lets +onlyGivenNames y; first | (refine Kept.have_ (v := v) (x := y) ?_ ?_; (on_goal 1 => subst y); (on_goal 2 => (intro hy; clear_value y))) | clear_value y)
    | apply Kept.setFlag
    | apply Kept.forN
    | simp only [Kept.upd_iff]
    | (intro _ _ _)
    | (intro _ _)
    | (split; rename_i heq; have hk := congrArg Prod.snd heq; subst hk)
    | split

theorem Kept.parkOne {v : Held} {c : Chip} {t : Nat} (hc : Kept v c) :
    Kept v (Chip.parkOne c t) := by
  unfold Machine.Chip.parkOne
  with_reducible repeat' first
    | assumption
    | (extract_lets +onlyGivenNames y; first | (refine Kept.have_ (v := v) (x := y) ?_ ?_; (on_goal 1 => subst y); (on_goal 2 => (intro hy; clear_value y))) | clear_value y)
    | apply Kept.put
    | apply Kept.setFlag
    | apply Kept.firePrivate
    | apply Kept.forN
    | simp only [Kept.upd_iff]
    | (intro _ _ _)
    | (intro _ _)
    | (split; rename_i heq; have hk := congrArg Prod.snd heq; subst hk)
    | split

theorem Kept.parkTargets {v : Held} {c : Chip} {ts : List Nat} (hc : Kept v c) :
    Kept v (Chip.parkTargets c ts) := by
  unfold Machine.Chip.parkTargets
  with_reducible repeat' first
    | assumption
    | (extract_lets +onlyGivenNames y; first | (refine Kept.have_ (v := v) (x := y) ?_ ?_; (on_goal 1 => subst y); (on_goal 2 => (intro hy; clear_value y))) | clear_value y)
    | apply Kept.settleEvents
    | apply Kept.parkOne
    | apply Kept.forN
    | simp only [Kept.upd_iff]
    | apply Kept.foldl
    | apply Kept.foldl_pair
    | (intro _ _ _)
    | (intro _ _)
    | (split; rename_i heq; have hk := congrArg Prod.snd heq; subst hk)
    | split

theorem Kept.onlineOne {v : Held} {c : Chip} {t : Nat} (hc : Kept v c) :
    Kept v (Chip.onlineOne c t) := by
  unfold Machine.Chip.onlineOne
  with_reducible repeat' first
    | assumption
    | (extract_lets +onlyGivenNames y; first | (refine Kept.have_ (v := v) (x := y) ?_ ?_; (on_goal 1 => subst y); (on_goal 2 => (intro hy; clear_value y))) | clear_value y)
    | apply Kept.setFlag
    | apply Kept.forN
    | simp only [Kept.upd_iff]
    | (intro _ _ _)
    | (intro _ _)
    | (split; rename_i heq; have hk := congrArg Prod.snd heq; subst hk)
    | split

theorem Kept.onlineTargets {v : Held} {c : Chip} {ts : List Nat} (hc : Kept v c) :
    Kept v (Chip.onlineTargets c ts) := by
  unfold Machine.Chip.onlineTargets
  with_reducible repeat' first
    | assumption
    | (extract_lets +onlyGivenNames y; first | (refine Kept.have_ (v := v) (x := y) ?_ ?_; (on_goal 1 => subst y); (on_goal 2 => (intro hy; clear_value y))) | clear_value y)
    | apply Kept.settleSources
    | apply Kept.onlineOne
    | apply Kept.forN
    | simp only [Kept.upd_iff]
    | apply Kept.foldl
    | apply Kept.foldl_pair
    | (intro _ _ _)
    | (intro _ _)
    | (split; rename_i heq; have hk := congrArg Prod.snd heq; subst hk)
    | split

theorem Kept.resetPrivate {v : Held} {c : Chip} {t : ℕ} (hc : Kept v c) :
    Kept v (Chip.resetPrivate c t) := by
  unfold Machine.Chip.resetPrivate
  with_reducible repeat' first
    | assumption
    | (extract_lets +onlyGivenNames y; first | (refine Kept.have_ (v := v) (x := y) ?_ ?_; (on_goal 1 => subst y); (on_goal 2 => (intro hy; clear_value y))) | clear_value y)
    | apply Kept.put
    | apply Kept.forN
    | simp only [Kept.upd_iff]
    | (intro _ _ _)
    | (intro _ _)
    | (split; rename_i heq; have hk := congrArg Prod.snd heq; subst hk)
    | split

theorem Kept.sharedSourceStall {v : Held} {id : ℕ} {c : Chip} (hc : Kept v c) :
    Kept v (sharedSourceStall id c) := by
  unfold Machine.sharedSourceStall
  with_reducible repeat' first
    | assumption
    | (extract_lets +onlyGivenNames y; first | (refine Kept.have_ (v := v) (x := y) ?_ ?_; (on_goal 1 => subst y); (on_goal 2 => (intro hy; clear_value y))) | clear_value y)
    | apply Kept.raiseEv
    | apply Kept.setFault
    | apply Kept.forN
    | simp only [Kept.upd_iff]
    | (intro _ _ _)
    | (intro _ _)
    | (split; rename_i heq; have hk := congrArg Prod.snd heq; subst hk)
    | split

theorem Kept.stallTick {v : Held} {c : Chip} (hc : Kept v c) :
    Kept v (Chip.stallTick c) := by
  unfold Machine.Chip.stallTick
  with_reducible repeat' first
    | assumption
    | (extract_lets +onlyGivenNames y; first | (refine Kept.have_ (v := v) (x := y) ?_ ?_; (on_goal 1 => subst y); (on_goal 2 => (intro hy; clear_value y))) | clear_value y)
    | apply Kept.settleStalls
    | apply Kept.forN
    | simp only [Kept.upd_iff]
    | apply Kept.foldl
    | apply Kept.foldl_pair
    | (intro _ _ _)
    | (intro _ _)
    | (split; rename_i heq; have hk := congrArg Prod.snd heq; subst hk)
    | split

theorem Kept.coreTimerCompare {v : Held} {t : ℕ} {level : Bool} {c : Chip} (hc : Kept v c) :
    Kept v (coreTimerCompare t level c) := by
  unfold Machine.coreTimerCompare
  with_reducible repeat' first
    | assumption
    | (extract_lets +onlyGivenNames y; first | (refine Kept.have_ (v := v) (x := y) ?_ ?_; (on_goal 1 => subst y); (on_goal 2 => (intro hy; clear_value y))) | clear_value y)
    | apply Kept.wakeCores
    | apply Kept.forN
    | simp only [Kept.upd_iff]
    | (intro _ _ _)
    | (intro _ _)
    | (split; rename_i heq; have hk := congrArg Prod.snd heq; subst hk)
    | split

theorem Kept.showLog {v : Held} {c : Chip} {n : ℕ} (hc : Kept v c) :
    Kept v (Chip.showLog c n) := by
  unfold Machine.Chip.showLog
  with_reducible repeat' first
    | assumption
    | (extract_lets +onlyGivenNames y; first | (refine Kept.have_ (v := v) (x := y) ?_ ?_; (on_goal 1 => subst y); (on_goal 2 => (intro hy; clear_value y))) | clear_value y)
    | apply Kept.put
    | apply Kept.forN
    | simp only [Kept.upd_iff]
    | (intro _ _ _)
    | (intro _ _)
    | (split; rename_i heq; have hk := congrArg Prod.snd heq; subst hk)
    | split

theorem Kept.advanceLog {v : Held} {c : Chip} {n : ℕ} {k : ℕ} (hc : Kept v c) :
    Kept v (Chip.advanceLog c n k) := by
  unfold Machine.Chip.advanceLog
  with_reducible repeat' first
    | assumption
    | (extract_lets +onlyGivenNames y; first | (refine Kept.have_ (v := v) (x := y) ?_ ?_; (on_goal 1 => subst y); (on_goal 2 => (intro hy; clear_value y))) | clear_value y)
    | apply Kept.showLog
    | apply Kept.forN
    | simp only [Kept.upd_iff]
    | (intro _ _ _)
    | (intro _ _)
    | (split; rename_i heq; have hk := congrArg Prod.snd heq; subst hk)
    | split

theorem Kept.appendLog {v : Held} {c : Chip} {n : ℕ} {rec_ : List ℕ} (hc : Kept v c) (hr : v.mram = none) :
    Kept v (Chip.appendLog c n rec_) := by
  unfold Machine.Chip.appendLog
  with_reducible repeat' first
    | assumption
    | (extract_lets +onlyGivenNames y; first | (refine Kept.have_ (v := v) (x := y) ?_ ?_; (on_goal 1 => subst y); (on_goal 2 => (intro hy; clear_value y))) | clear_value y)
    | apply Kept.advanceLog
    | apply Kept.store
    | apply Kept.forN
    | simp only [Kept.upd_iff]
    | (intro _ _ _)
    | (intro _ _)
    | (split; rename_i heq; have hk := congrArg Prod.snd heq; subst hk)
    | split

theorem Kept.logFault {v : Held} {c : Chip} {level : ℕ} {code : ℕ} {unit : ℕ} {set : Bool} (hc : Kept v c) (hr : v.mram = none) :
    Kept v (Chip.logFault c level code unit set) := by
  unfold Machine.Chip.logFault
  with_reducible repeat' first
    | assumption
    | (extract_lets +onlyGivenNames y; first | (refine Kept.have_ (v := v) (x := y) ?_ ?_; (on_goal 1 => subst y); (on_goal 2 => (intro hy; clear_value y))) | clear_value y)
    | apply Kept.appendLog
    | apply Kept.forN
    | simp only [Kept.upd_iff]
    | (intro _ _ _)
    | (intro _ _)
    | (split; rename_i heq; have hk := congrArg Prod.snd heq; subst hk)
    | split

theorem Kept.journal {v : Held} {c : Chip} {e : JournalEntry} (hc : Kept v c) :
    Kept v (Chip.journal c e) := by
  unfold Machine.Chip.journal
  with_reducible repeat' first
    | assumption
    | (extract_lets +onlyGivenNames y; first | (refine Kept.have_ (v := v) (x := y) ?_ ?_; (on_goal 1 => subst y); (on_goal 2 => (intro hy; clear_value y))) | clear_value y)
    | apply Kept.advanceLog
    | apply Kept.forN
    | simp only [Kept.upd_iff]
    | (intro _ _ _)
    | (intro _ _)
    | (split; rename_i heq; have hk := congrArg Prod.snd heq; subst hk)
    | split

theorem Kept.advanceTo {v : Held} {c : Chip} {cyc : ℕ} (hc : Kept v c) :
    Kept v (Chip.advanceTo c cyc) := by
  unfold Machine.Chip.advanceTo
  with_reducible repeat' first
    | assumption
    | (extract_lets +onlyGivenNames y; first | (refine Kept.have_ (v := v) (x := y) ?_ ?_; (on_goal 1 => subst y); (on_goal 2 => (intro hy; clear_value y))) | clear_value y)
    | apply Kept.forN
    | simp only [Kept.upd_iff]
    | (intro _ _ _)
    | (intro _ _)
    | (split; rename_i heq; have hk := congrArg Prod.snd heq; subst hk)
    | split

theorem Kept.setCan {v : Held} {c : Chip} {n : ℕ} {x : CanState} (hc : Kept v c) :
    Kept v (Chip.setCan c n x) := by
  unfold Machine.Chip.setCan
  with_reducible repeat' first
    | assumption
    | (extract_lets +onlyGivenNames y; first | (refine Kept.have_ (v := v) (x := y) ?_ ?_; (on_goal 1 => subst y); (on_goal 2 => (intro hy; clear_value y))) | clear_value y)
    | apply Kept.forN
    | simp only [Kept.upd_iff]
    | (intro _ _ _)
    | (intro _ _)
    | (split; rename_i heq; have hk := congrArg Prod.snd heq; subst hk)
    | split

theorem Kept.canContend {v : Held} {c : Chip} {n : ℕ} (hc : Kept v c) :
    Kept v (Chip.canContend c n) := by
  unfold Machine.Chip.canContend
  with_reducible repeat' first
    | assumption
    | (extract_lets +onlyGivenNames y; first | (refine Kept.have_ (v := v) (x := y) ?_ ?_; (on_goal 1 => subst y); (on_goal 2 => (intro hy; clear_value y))) | clear_value y)
    | apply Kept.setCan
    | apply Kept.forN
    | simp only [Kept.upd_iff]
    | (intro _ _ _)
    | (intro _ _)
    | (split; rename_i heq; have hk := congrArg Prod.snd heq; subst hk)
    | split

theorem Kept.canSettle {v : Held} {c : Chip} {n : ℕ} (hc : Kept v c) :
    Kept v (Chip.canSettle c n) := by
  unfold Machine.Chip.canSettle
  with_reducible repeat' first
    | assumption
    | (extract_lets +onlyGivenNames y; first | (refine Kept.have_ (v := v) (x := y) ?_ ?_; (on_goal 1 => subst y); (on_goal 2 => (intro hy; clear_value y))) | clear_value y)
    | apply Kept.setCan
    | apply Kept.forN
    | simp only [Kept.upd_iff]
    | (intro _ _ _)
    | (intro _ _)
    | (split; rename_i heq; have hk := congrArg Prod.snd heq; subst hk)
    | split

theorem Kept.canStrideEnd {v : Held} {c : Chip} {n : Nat} (hc : Kept v c) :
    Kept v (Chip.canStrideEnd c n) := by
  unfold Machine.Chip.canStrideEnd
  with_reducible repeat' first
    | assumption
    | (extract_lets +onlyGivenNames y; first | (refine Kept.have_ (v := v) (x := y) ?_ ?_; (on_goal 1 => subst y); (on_goal 2 => (intro hy; clear_value y))) | clear_value y)
    | apply Kept.setCan
    | apply Kept.canSettle
    | apply Kept.forN
    | simp only [Kept.upd_iff]
    | (intro _ _ _)
    | (intro _ _)
    | (split; rename_i heq; have hk := congrArg Prod.snd heq; subst hk)
    | split

theorem Kept.canRequest {v : Held} {c : Chip} {n : ℕ} {mask : ℕ} (hc : Kept v c) :
    Kept v (Chip.canRequest c n mask) := by
  unfold Machine.Chip.canRequest
  with_reducible repeat' first
    | assumption
    | (extract_lets +onlyGivenNames y; first | (refine Kept.have_ (v := v) (x := y) ?_ ?_; (on_goal 1 => subst y); (on_goal 2 => (intro hy; clear_value y))) | clear_value y)
    | apply Kept.canSettle
    | apply Kept.canContend
    | apply Kept.put
    | apply Kept.forN
    | simp only [Kept.upd_iff]
    | (intro _ _ _)
    | (intro _ _)
    | (split; rename_i heq; have hk := congrArg Prod.snd heq; subst hk)
    | split

theorem Kept.canTrigger {v : Held} {c : Chip} {n : ℕ} {t : ℕ} (hc : Kept v c) :
    Kept v (Chip.canTrigger c n t) := by
  unfold Machine.Chip.canTrigger
  with_reducible repeat' first
    | assumption
    | (extract_lets +onlyGivenNames y; first | (refine Kept.have_ (v := v) (x := y) ?_ ?_; (on_goal 1 => subst y); (on_goal 2 => (intro hy; clear_value y))) | clear_value y)
    | apply Kept.put
    | apply Kept.canRequest
    | apply Kept.raiseEv
    | apply Kept.forN
    | simp only [Kept.upd_iff]
    | (intro _ _ _)
    | (intro _ _)
    | (split; rename_i heq; have hk := congrArg Prod.snd heq; subst hk)
    | split

theorem Kept.canStop {v : Held} {c : Chip} {port : ℕ} (hc : Kept v c) :
    Kept v (Chip.canStop c port) := by
  unfold Machine.Chip.canStop
  with_reducible repeat' first
    | assumption
    | (extract_lets +onlyGivenNames y; first | (refine Kept.have_ (v := v) (x := y) ?_ ?_; (on_goal 1 => subst y); (on_goal 2 => (intro hy; clear_value y))) | clear_value y)
    | apply Kept.canRequest
    | apply Kept.forN
    | simp only [Kept.upd_iff]
    | (intro _ _ _)
    | (intro _ _)
    | (split; rename_i heq; have hk := congrArg Prod.snd heq; subst hk)
    | split

theorem Kept.canTxRequest {v : Held} {acc : Access} {n : ℕ} {x2 : ℕ} {c : Chip} (hc : Kept v c) :
    Kept v (canTxRequest acc n x2 c) := by
  unfold Machine.canTxRequest
  with_reducible repeat' first
    | assumption
    | (extract_lets +onlyGivenNames y; first | (refine Kept.have_ (v := v) (x := y) ?_ ?_; (on_goal 1 => subst y); (on_goal 2 => (intro hy; clear_value y))) | clear_value y)
    | apply Kept.writeUnit
    | apply Kept.canRequest
    | apply Kept.forN
    | simp only [Kept.upd_iff]
    | (intro _ _ _)
    | (intro _ _)
    | (split; rename_i heq; have hk := congrArg Prod.snd heq; subst hk)
    | split

theorem Kept.canTxCancel {v : Held} {acc : Access} {n : ℕ} {x2 : ℕ} {c : Chip} (hc : Kept v c) :
    Kept v (canTxCancel acc n x2 c) := by
  unfold Machine.canTxCancel
  with_reducible repeat' first
    | assumption
    | (extract_lets +onlyGivenNames y; first | (refine Kept.have_ (v := v) (x := y) ?_ ?_; (on_goal 1 => subst y); (on_goal 2 => (intro hy; clear_value y))) | clear_value y)
    | apply Kept.writeUnit
    | apply Kept.canSettle
    | apply Kept.put
    | apply Kept.setCan
    | apply Kept.forN
    | simp only [Kept.upd_iff]
    | (intro _ _ _)
    | (intro _ _)
    | (split; rename_i heq; have hk := congrArg Prod.snd heq; subst hk)
    | split

theorem Kept.canBufferWrite {v : Held} {acc : Access} {n : ℕ} {b : ℕ} {w : ℕ} {x4 : ℕ} {c : Chip} (hc : Kept v c) (hm : v.mem = none) :
    Kept v (canBufferWrite acc n b w x4 c) := by
  unfold Machine.canBufferWrite
  with_reducible repeat' first
    | assumption
    | (extract_lets +onlyGivenNames y; first | (refine Kept.have_ (v := v) (x := y) ?_ ?_; (on_goal 1 => subst y); (on_goal 2 => (intro hy; clear_value y))) | clear_value y)
    | apply Kept.violate
    | apply Kept.setFlag
    | apply Kept.setBytes
    | apply Kept.forN
    | simp only [Kept.upd_iff]
    | (intro _ _ _)
    | (intro _ _)
    | (split; rename_i heq; have hk := congrArg Prod.snd heq; subst hk)
    | split

theorem Kept.canFrameSent {v : Held} {n : ℕ} {c : Chip} (hc : Kept v c) :
    Kept v (canFrameSent n c) := by
  unfold Machine.canFrameSent
  with_reducible repeat' first
    | assumption
    | (extract_lets +onlyGivenNames y; first | (refine Kept.have_ (v := v) (x := y) ?_ ?_; (on_goal 1 => subst y); (on_goal 2 => (intro hy; clear_value y))) | clear_value y)
    | apply Kept.put
    | apply Kept.raiseEv
    | apply Kept.canContend
    | apply Kept.setCan
    | apply Kept.forN
    | simp only [Kept.upd_iff]
    | (intro _ _ _)
    | (intro _ _)
    | (split; rename_i heq; have hk := congrArg Prod.snd heq; subst hk)
    | split

theorem Kept.canYield {v : Held} {c : Chip} {n : Nat} {cycles : Nat} (hc : Kept v c) :
    Kept v (Chip.canYield c n cycles) := by
  unfold Machine.Chip.canYield
  with_reducible repeat' first
    | assumption
    | (extract_lets +onlyGivenNames y; first | (refine Kept.have_ (v := v) (x := y) ?_ ?_; (on_goal 1 => subst y); (on_goal 2 => (intro hy; clear_value y))) | clear_value y)
    | apply Kept.setCan
    | apply Kept.canContend
    | apply Kept.forN
    | simp only [Kept.upd_iff]
    | (intro _ _ _)
    | (intro _ _)
    | (split; rename_i heq; have hk := congrArg Prod.snd heq; subst hk)
    | split

theorem Kept.canFrameReceive {v : Held} {n : ℕ} {w0 : ℕ} {w1 : ℕ} {data : List ℕ} {cyc : ℕ} {c : Chip} (hc : Kept v c) (hm : v.mem = none) :
    Kept v (canFrameReceive n w0 w1 data cyc c) := by
  unfold Machine.canFrameReceive
  with_reducible repeat' first
    | assumption
    | (extract_lets +onlyGivenNames y; first | (refine Kept.have_ (v := v) (x := y) ?_ ?_; (on_goal 1 => subst y); (on_goal 2 => (intro hy; clear_value y))) | clear_value y)
    | apply Kept.canYield
    | apply Kept.advanceTo
    | apply Kept.raiseEv
    | apply Kept.incSat
    | apply Kept.setBytes
    | apply Kept.setRaw
    | apply Kept.put
    | apply Kept.forN
    | simp only [Kept.upd_iff]
    | (intro _ _ _)
    | (intro _ _)
    | (split; rename_i heq; have hk := congrArg Prod.snd heq; subst hk)
    | split

theorem Kept.canRxPop {v : Held} {acc : Access} {n : ℕ} {x2 : ℕ} {c : Chip} (hc : Kept v c) :
    Kept v (canRxPop acc n x2 c) := by
  unfold Machine.canRxPop
  with_reducible repeat' first
    | assumption
    | (extract_lets +onlyGivenNames y; first | (refine Kept.have_ (v := v) (x := y) ?_ ?_; (on_goal 1 => subst y); (on_goal 2 => (intro hy; clear_value y))) | clear_value y)
    | apply Kept.writeUnit
    | apply Kept.setRaw
    | apply Kept.put
    | apply Kept.setCan
    | apply Kept.forN
    | simp only [Kept.upd_iff]
    | (intro _ _ _)
    | (intro _ _)
    | (split; rename_i heq; have hk := congrArg Prod.snd heq; subst hk)
    | split

theorem Kept.canBusOff {v : Held} {n : ℕ} {c : Chip} (hc : Kept v c) :
    Kept v (canBusOff n c) := by
  unfold Machine.canBusOff
  with_reducible repeat' first
    | assumption
    | (extract_lets +onlyGivenNames y; first | (refine Kept.have_ (v := v) (x := y) ?_ ?_; (on_goal 1 => subst y); (on_goal 2 => (intro hy; clear_value y))) | clear_value y)
    | apply Kept.raiseEv
    | apply Kept.put
    | apply Kept.setFault
    | apply Kept.setCan
    | apply Kept.forN
    | simp only [Kept.upd_iff]
    | (intro _ _ _)
    | (intro _ _)
    | (split; rename_i heq; have hk := congrArg Prod.snd heq; subst hk)
    | split

theorem Kept.canBusOffRecovery {v : Held} {n : ℕ} {c : Chip} (hc : Kept v c) :
    Kept v (canBusOffRecovery n c) := by
  unfold Machine.canBusOffRecovery
  with_reducible repeat' first
    | assumption
    | (extract_lets +onlyGivenNames y; first | (refine Kept.have_ (v := v) (x := y) ?_ ?_; (on_goal 1 => subst y); (on_goal 2 => (intro hy; clear_value y))) | clear_value y)
    | apply Kept.put
    | apply Kept.canContend
    | apply Kept.clearFault
    | apply Kept.forN
    | simp only [Kept.upd_iff]
    | (intro _ _ _)
    | (intro _ _)
    | (split; rename_i heq; have hk := congrArg Prod.snd heq; subst hk)
    | split

theorem Kept.canErrorPassive {v : Held} {n : ℕ} {tec : ℕ} {rec_ : ℕ} {c : Chip} (hc : Kept v c) :
    Kept v (canErrorPassive n tec rec_ c) := by
  unfold Machine.canErrorPassive
  with_reducible repeat' first
    | assumption
    | (extract_lets +onlyGivenNames y; first | (refine Kept.have_ (v := v) (x := y) ?_ ?_; (on_goal 1 => subst y); (on_goal 2 => (intro hy; clear_value y))) | clear_value y)
    | apply Kept.put
    | apply Kept.raiseEv
    | apply Kept.forN
    | simp only [Kept.upd_iff]
    | (intro _ _ _)
    | (intro _ _)
    | (split; rename_i heq; have hk := congrArg Prod.snd heq; subst hk)
    | split

theorem Kept.canEnable {v : Held} {c : Chip} {n : ℕ} (hc : Kept v c) :
    Kept v (Chip.canEnable c n) := by
  unfold Machine.Chip.canEnable
  with_reducible repeat' first
    | assumption
    | (extract_lets +onlyGivenNames y; first | (refine Kept.have_ (v := v) (x := y) ?_ ?_; (on_goal 1 => subst y); (on_goal 2 => (intro hy; clear_value y))) | clear_value y)
    | apply Kept.put
    | apply Kept.canContend
    | apply Kept.clearFault
    | apply Kept.setCan
    | apply Kept.forN
    | simp only [Kept.upd_iff]
    | (intro _ _ _)
    | (intro _ _)
    | (split; rename_i heq; have hk := congrArg Prod.snd heq; subst hk)
    | split

theorem Kept.canRole {v : Held} {c : Chip} (hc : Kept v c) :
    Kept v (Chip.canRole c) := by
  unfold Machine.Chip.canRole
  with_reducible repeat' first
    | assumption
    | (extract_lets +onlyGivenNames y; first | (refine Kept.have_ (v := v) (x := y) ?_ ?_; (on_goal 1 => subst y); (on_goal 2 => (intro hy; clear_value y))) | clear_value y)
    | apply Kept.setCan
    | apply Kept.canContend
    | apply Kept.forN
    | simp only [Kept.upd_iff]
    | (intro _ _ _)
    | (intro _ _)
    | (split; rename_i heq; have hk := congrArg Prod.snd heq; subst hk)
    | split

end Sys2Proof.Machine
end

