-- ==== Sys2Proof/Laws/Kept2.lean ====
section
/-! SUPPORT. What the operations of TimeUnit keep. -/

set_option linter.unusedTactic false
set_option linter.unreachableTactic false
set_option linter.unusedSimpArgs false
set_option linter.unusedVariables false

namespace Sys2Proof.Machine

theorem Kept.setTim {v : Held} {c : Chip} {f : TimeUnit → TimeUnit} (hc : Kept v c) :
    Kept v (Chip.setTim c f) := by
  unfold Machine.Chip.setTim
  with_reducible repeat' first
    | assumption
    | (extract_lets +onlyGivenNames y; first | (refine Kept.have_ (v := v) (x := y) ?_ ?_; (on_goal 1 => subst y); (on_goal 2 => (intro hy; clear_value y))) | clear_value y)
    | apply Kept.forN
    | simp only [Kept.upd_iff]
    | (intro _ _ _)
    | (intro _ _)
    | (split; rename_i heq; have hk := congrArg Prod.snd heq; subst hk)
    | split

theorem Kept.timSecLoRead {v : Held} {acc : Access} {cyc : ℕ} {c : Chip} (hc : Kept v c) :
    Kept v (timSecLoRead acc cyc c) := by
  unfold Machine.timSecLoRead
  with_reducible repeat' first
    | assumption
    | (extract_lets +onlyGivenNames y; first | (refine Kept.have_ (v := v) (x := y) ?_ ?_; (on_goal 1 => subst y); (on_goal 2 => (intro hy; clear_value y))) | clear_value y)
    | apply Kept.read
    | apply Kept.advanceTo
    | apply Kept.put
    | apply Kept.forN
    | simp only [Kept.upd_iff]
    | (intro _ _ _)
    | (intro _ _)
    | (split; rename_i heq; have hk := congrArg Prod.snd heq; subst hk)
    | split

theorem Kept.alignLost {v : Held} {c : Chip} (hc : Kept v c) :
    Kept v (Chip.alignLost c) := by
  unfold Machine.Chip.alignLost
  with_reducible repeat' first
    | assumption
    | (extract_lets +onlyGivenNames y; first | (refine Kept.have_ (v := v) (x := y) ?_ ?_; (on_goal 1 => subst y); (on_goal 2 => (intro hy; clear_value y))) | clear_value y)
    | apply Kept.setTim
    | apply Kept.raiseEv
    | apply Kept.setFlag
    | apply Kept.forN
    | simp only [Kept.upd_iff]
    | (intro _ _ _)
    | (intro _ _)
    | (split; rename_i heq; have hk := congrArg Prod.snd heq; subst hk)
    | split

theorem Kept.settleTime {v : Held} {c : Chip} (hc : Kept v c) :
    Kept v (Chip.settleTime c) := by
  unfold Machine.Chip.settleTime
  with_reducible repeat' first
    | assumption
    | (extract_lets +onlyGivenNames y; first | (refine Kept.have_ (v := v) (x := y) ?_ ?_; (on_goal 1 => subst y); (on_goal 2 => (intro hy; clear_value y))) | clear_value y)
    | apply Kept.setFlag
    | apply Kept.alignLost
    | apply Kept.forN
    | simp only [Kept.upd_iff]
    | (intro _ _ _)
    | (intro _ _)
    | (split; rename_i heq; have hk := congrArg Prod.snd heq; subst hk)
    | split

theorem Kept.lockLost {v : Held} {c : Chip} (hc : Kept v c) :
    Kept v (Chip.lockLost c) := by
  unfold Machine.Chip.lockLost
  with_reducible repeat' first
    | assumption
    | (extract_lets +onlyGivenNames y; first | (refine Kept.have_ (v := v) (x := y) ?_ ?_; (on_goal 1 => subst y); (on_goal 2 => (intro hy; clear_value y))) | clear_value y)
    | apply Kept.setTim
    | apply Kept.settleTime
    | apply Kept.raiseEv
    | apply Kept.setFlag
    | apply Kept.forN
    | simp only [Kept.upd_iff]
    | (intro _ _ _)
    | (intro _ _)
    | (split; rename_i heq; have hk := congrArg Prod.snd heq; subst hk)
    | split

theorem Kept.countSample {v : Held} {c : Chip} {o : ℤ} (hc : Kept v c) :
    Kept v (Chip.countSample c o) := by
  unfold Machine.Chip.countSample
  with_reducible repeat' first
    | assumption
    | (extract_lets +onlyGivenNames y; first | (refine Kept.have_ (v := v) (x := y) ?_ ?_; (on_goal 1 => subst y); (on_goal 2 => (intro hy; clear_value y))) | clear_value y)
    | apply Kept.setTim
    | apply Kept.lockLost
    | apply Kept.settleTime
    | apply Kept.raiseEv
    | apply Kept.clearFault
    | apply Kept.setFlag
    | apply Kept.forN
    | simp only [Kept.upd_iff]
    | (intro _ _ _)
    | (intro _ _)
    | (split; rename_i heq; have hk := congrArg Prod.snd heq; subst hk)
    | split

theorem Kept.setRate {v : Held} {c : Chip} {adj : ℤ} (hc : Kept v c) :
    Kept v (Chip.setRate c adj) := by
  unfold Machine.Chip.setRate
  with_reducible repeat' first
    | assumption
    | (extract_lets +onlyGivenNames y; first | (refine Kept.have_ (v := v) (x := y) ?_ ?_; (on_goal 1 => subst y); (on_goal 2 => (intro hy; clear_value y))) | clear_value y)
    | apply Kept.setFlag
    | apply Kept.putS
    | apply Kept.forN
    | simp only [Kept.upd_iff]
    | (intro _ _ _)
    | (intro _ _)
    | (split; rename_i heq; have hk := congrArg Prod.snd heq; subst hk)
    | split

theorem Kept.showInteg {v : Held} {c : Chip} (hc : Kept v c) :
    Kept v (Chip.showInteg c) := by
  unfold Machine.Chip.showInteg
  with_reducible repeat' first
    | assumption
    | (extract_lets +onlyGivenNames y; first | (refine Kept.have_ (v := v) (x := y) ?_ ?_; (on_goal 1 => subst y); (on_goal 2 => (intro hy; clear_value y))) | clear_value y)
    | apply Kept.putS
    | apply Kept.forN
    | simp only [Kept.upd_iff]
    | (intro _ _ _)
    | (intro _ _)
    | (split; rename_i heq; have hk := congrArg Prod.snd heq; subst hk)
    | split

theorem Kept.requestStep {v : Held} {c : Chip} {n : ℤ} (hc : Kept v c) :
    Kept v (Chip.requestStep c n) := by
  unfold Machine.Chip.requestStep
  with_reducible repeat' first
    | assumption
    | (extract_lets +onlyGivenNames y; first | (refine Kept.have_ (v := v) (x := y) ?_ ?_; (on_goal 1 => subst y); (on_goal 2 => (intro hy; clear_value y))) | clear_value y)
    | apply Kept.setFlag
    | apply Kept.setTim
    | apply Kept.forN
    | simp only [Kept.upd_iff]
    | (intro _ _ _)
    | (intro _ _)
    | (split; rename_i heq; have hk := congrArg Prod.snd heq; subst hk)
    | split

theorem Kept.servo {v : Held} {c : Chip} {o : ℤ} (hc : Kept v c) :
    Kept v (Chip.servo c o) := by
  unfold Machine.Chip.servo
  with_reducible repeat' first
    | assumption
    | (extract_lets +onlyGivenNames y; first | (refine Kept.have_ (v := v) (x := y) ?_ ?_; (on_goal 1 => subst y); (on_goal 2 => (intro hy; clear_value y))) | clear_value y)
    | apply Kept.putS
    | apply Kept.showInteg
    | apply Kept.setTim
    | apply Kept.setRate
    | apply Kept.forN
    | simp only [Kept.upd_iff]
    | (intro _ _ _)
    | (intro _ _)
    | (split; rename_i heq; have hk := congrArg Prod.snd heq; subst hk)
    | split

theorem Kept.offsetSample {v : Held} {c : Chip} {o : ℤ} (hc : Kept v c) :
    Kept v (Chip.offsetSample c o) := by
  unfold Machine.Chip.offsetSample
  with_reducible repeat' first
    | assumption
    | (extract_lets +onlyGivenNames y; first | (refine Kept.have_ (v := v) (x := y) ?_ ?_; (on_goal 1 => subst y); (on_goal 2 => (intro hy; clear_value y))) | clear_value y)
    | apply Kept.countSample
    | apply Kept.putS
    | apply Kept.requestStep
    | apply Kept.raiseEv
    | apply Kept.servo
    | apply Kept.forN
    | simp only [Kept.upd_iff]
    | (intro _ _ _)
    | (intro _ _)
    | (split; rename_i heq; have hk := congrArg Prod.snd heq; subst hk)
    | split

theorem Kept.offsetSampleWrite {v : Held} {acc : Access} {x1 : ℕ} {cyc : ℕ} {c : Chip} (hc : Kept v c) :
    Kept v (offsetSampleWrite acc x1 cyc c) := by
  unfold Machine.offsetSampleWrite
  with_reducible repeat' first
    | assumption
    | (extract_lets +onlyGivenNames y; first | (refine Kept.have_ (v := v) (x := y) ?_ ?_; (on_goal 1 => subst y); (on_goal 2 => (intro hy; clear_value y))) | clear_value y)
    | apply Kept.write
    | apply Kept.advanceTo
    | apply Kept.offsetSample
    | apply Kept.forN
    | simp only [Kept.upd_iff]
    | (intro _ _ _)
    | (intro _ _)
    | (split; rename_i heq; have hk := congrArg Prod.snd heq; subst hk)
    | split

theorem Kept.ppsInEdge {v : Held} {rising : Bool} {cyc : ℕ} {c : Chip} (hc : Kept v c) :
    Kept v (ppsInEdge rising cyc c) := by
  unfold Machine.ppsInEdge
  with_reducible repeat' first
    | assumption
    | (extract_lets +onlyGivenNames y; first | (refine Kept.have_ (v := v) (x := y) ?_ ?_; (on_goal 1 => subst y); (on_goal 2 => (intro hy; clear_value y))) | clear_value y)
    | apply Kept.advanceTo
    | apply Kept.setFlag
    | apply Kept.setTim
    | apply Kept.offsetSample
    | apply Kept.forN
    | simp only [Kept.upd_iff]
    | (intro _ _ _)
    | (intro _ _)
    | (split; rename_i heq; have hk := congrArg Prod.snd heq; subst hk)
    | split

theorem Kept.holdoverEnter {v : Held} {c : Chip} (hc : Kept v c) :
    Kept v (holdoverEnter c) := by
  unfold Machine.holdoverEnter
  with_reducible repeat' first
    | assumption
    | (extract_lets +onlyGivenNames y; first | (refine Kept.have_ (v := v) (x := y) ?_ ?_; (on_goal 1 => subst y); (on_goal 2 => (intro hy; clear_value y))) | clear_value y)
    | apply Kept.setTim
    | apply Kept.setFlag
    | apply Kept.lockLost
    | apply Kept.setRate
    | apply Kept.forN
    | simp only [Kept.upd_iff]
    | (intro _ _ _)
    | (intro _ _)
    | (split; rename_i heq; have hk := congrArg Prod.snd heq; subst hk)
    | split

theorem Kept.holdoverExpire {v : Held} {c : Chip} (hc : Kept v c) :
    Kept v (holdoverExpire c) := by
  unfold Machine.holdoverExpire
  with_reducible repeat' first
    | assumption
    | (extract_lets +onlyGivenNames y; first | (refine Kept.have_ (v := v) (x := y) ?_ ?_; (on_goal 1 => subst y); (on_goal 2 => (intro hy; clear_value y))) | clear_value y)
    | apply Kept.raiseEv
    | apply Kept.setFault
    | apply Kept.settleTime
    | apply Kept.setFlag
    | apply Kept.forN
    | simp only [Kept.upd_iff]
    | (intro _ _ _)
    | (intro _ _)
    | (split; rename_i heq; have hk := congrArg Prod.snd heq; subst hk)
    | split

theorem Kept.ppsMissing {v : Held} {c : Chip} (hc : Kept v c) :
    Kept v (ppsMissing c) := by
  unfold Machine.ppsMissing
  with_reducible repeat' first
    | assumption
    | (extract_lets +onlyGivenNames y; first | (refine Kept.have_ (v := v) (x := y) ?_ ?_; (on_goal 1 => subst y); (on_goal 2 => (intro hy; clear_value y))) | clear_value y)
    | apply Kept.raiseEv
    | apply Kept.setFlag
    | apply Kept.forN
    | simp only [Kept.upd_iff]
    | (intro _ _ _)
    | (intro _ _)
    | (split; rename_i heq; have hk := congrArg Prod.snd heq; subst hk)
    | split

theorem Kept.timeLimitFault {v : Held} {c : Chip} (hc : Kept v c) :
    Kept v (timeLimitFault c) := by
  unfold Machine.timeLimitFault
  with_reducible repeat' first
    | assumption
    | (extract_lets +onlyGivenNames y; first | (refine Kept.have_ (v := v) (x := y) ?_ ?_; (on_goal 1 => subst y); (on_goal 2 => (intro hy; clear_value y))) | clear_value y)
    | apply Kept.setFault
    | apply Kept.forN
    | simp only [Kept.upd_iff]
    | (intro _ _ _)
    | (intro _ _)
    | (split; rename_i heq; have hk := congrArg Prod.snd heq; subst hk)
    | split

theorem Kept.timStepCmd {v : Held} {acc : Access} {cyc : ℕ} {c : Chip} (hc : Kept v c) :
    Kept v (timStepCmd acc cyc c) := by
  unfold Machine.timStepCmd
  with_reducible repeat' first
    | assumption
    | (extract_lets +onlyGivenNames y; first | (refine Kept.have_ (v := v) (x := y) ?_ ?_; (on_goal 1 => subst y); (on_goal 2 => (intro hy; clear_value y))) | clear_value y)
    | apply Kept.write
    | apply Kept.advanceTo
    | apply Kept.requestStep
    | apply Kept.forN
    | simp only [Kept.upd_iff]
    | (intro _ _ _)
    | (intro _ _)
    | (split; rename_i heq; have hk := congrArg Prod.snd heq; subst hk)
    | split

theorem Kept.loadStrideCmd {v : Held} {acc : Access} {c : Chip} (hc : Kept v c) :
    Kept v (loadStrideCmd acc c) := by
  unfold Machine.loadStrideCmd
  with_reducible repeat' first
    | assumption
    | (extract_lets +onlyGivenNames y; first | (refine Kept.have_ (v := v) (x := y) ?_ ?_; (on_goal 1 => subst y); (on_goal 2 => (intro hy; clear_value y))) | clear_value y)
    | apply Kept.write
    | apply Kept.setTim
    | apply Kept.setFlag
    | apply Kept.forN
    | simp only [Kept.upd_iff]
    | (intro _ _ _)
    | (intro _ _)
    | (split; rename_i heq; have hk := congrArg Prod.snd heq; subst hk)
    | split

theorem Kept.clearIntegCmd {v : Held} {acc : Access} {c : Chip} (hc : Kept v c) :
    Kept v (clearIntegCmd acc c) := by
  unfold Machine.clearIntegCmd
  with_reducible repeat' first
    | assumption
    | (extract_lets +onlyGivenNames y; first | (refine Kept.have_ (v := v) (x := y) ?_ ?_; (on_goal 1 => subst y); (on_goal 2 => (intro hy; clear_value y))) | clear_value y)
    | apply Kept.write
    | apply Kept.showInteg
    | apply Kept.setTim
    | apply Kept.forN
    | simp only [Kept.upd_iff]
    | (intro _ _ _)
    | (intro _ _)
    | (split; rename_i heq; have hk := congrArg Prod.snd heq; subst hk)
    | split

theorem Kept.setTarget {v : Held} {c : Chip} {t : ℕ} {ns : ℕ} (hc : Kept v c) :
    Kept v (Chip.setTarget c t ns) := by
  unfold Machine.Chip.setTarget
  with_reducible repeat' first
    | assumption
    | (extract_lets +onlyGivenNames y; first | (refine Kept.have_ (v := v) (x := y) ?_ ?_; (on_goal 1 => subst y); (on_goal 2 => (intro hy; clear_value y))) | clear_value y)
    | apply Kept.put
    | apply Kept.forN
    | simp only [Kept.upd_iff]
    | (intro _ _ _)
    | (intro _ _)
    | (split; rename_i heq; have hk := congrArg Prod.snd heq; subst hk)
    | split

theorem Kept.setPassed {v : Held} {c : Chip} {t : ℕ} {b : Bool} (hc : Kept v c) :
    Kept v (Chip.setPassed c t b) := by
  unfold Machine.Chip.setPassed
  with_reducible repeat' first
    | assumption
    | (extract_lets +onlyGivenNames y; first | (refine Kept.have_ (v := v) (x := y) ?_ ?_; (on_goal 1 => subst y); (on_goal 2 => (intro hy; clear_value y))) | clear_value y)
    | apply Kept.setTim
    | apply Kept.forN
    | simp only [Kept.upd_iff]
    | (intro _ _ _)
    | (intro _ _)
    | (split; rename_i heq; have hk := congrArg Prod.snd heq; subst hk)
    | split

theorem Kept.markPassed {v : Held} {c : Chip} {old : ℕ} {new : ℕ} (hc : Kept v c) :
    Kept v (Chip.markPassed c old new) := by
  unfold Machine.Chip.markPassed
  with_reducible repeat' first
    | assumption
    | (extract_lets +onlyGivenNames y; first | (refine Kept.have_ (v := v) (x := y) ?_ ?_; (on_goal 1 => subst y); (on_goal 2 => (intro hy; clear_value y))) | clear_value y)
    | apply Kept.setPassed
    | apply Kept.forN
    | simp only [Kept.upd_iff]
    | (intro _ _ _)
    | (intro _ _)
    | (split; rename_i heq; have hk := congrArg Prod.snd heq; subst hk)
    | split

theorem Kept.stepApply {v : Held} {c : Chip} (hc : Kept v c) :
    Kept v (stepApply c) := by
  unfold Machine.stepApply
  with_reducible repeat' first
    | assumption
    | (extract_lets +onlyGivenNames y; first | (refine Kept.have_ (v := v) (x := y) ?_ ?_; (on_goal 1 => subst y); (on_goal 2 => (intro hy; clear_value y))) | clear_value y)
    | apply Kept.advanceTo
    | apply Kept.setFlag
    | apply Kept.setTim
    | apply Kept.raiseEv
    | apply Kept.setFault
    | apply Kept.clearFault
    | apply Kept.markPassed
    | apply Kept.lockLost
    | apply Kept.forN
    | simp only [Kept.upd_iff]
    | (intro _ _ _)
    | (intro _ _)
    | (split; rename_i heq; have hk := congrArg Prod.snd heq; subst hk)
    | split

theorem Kept.rebaseSlots {v : Held} {c : Chip} (hc : Kept v c) :
    Kept v (Chip.rebaseSlots c) := by
  unfold Machine.Chip.rebaseSlots
  with_reducible repeat' first
    | assumption
    | (extract_lets +onlyGivenNames y; first | (refine Kept.have_ (v := v) (x := y) ?_ ?_; (on_goal 1 => subst y); (on_goal 2 => (intro hy; clear_value y))) | clear_value y)
    | apply Kept.raiseEv
    | apply Kept.setSlot
    | apply Kept.put
    | apply Kept.forN
    | simp only [Kept.upd_iff]
    | (intro _ _ _)
    | (intro _ _)
    | (split; rename_i heq; have hk := congrArg Prod.snd heq; subst hk)
    | split

theorem Kept.discardWindows {v : Held} {c : Chip} (hc : Kept v c) :
    Kept v (Chip.discardWindows c) := by
  unfold Machine.Chip.discardWindows
  with_reducible repeat' first
    | assumption
    | (extract_lets +onlyGivenNames y; first | (refine Kept.have_ (v := v) (x := y) ?_ ?_; (on_goal 1 => subst y); (on_goal 2 => (intro hy; clear_value y))) | clear_value y)
    | apply Kept.setElem
    | apply Kept.forN
    | simp only [Kept.upd_iff]
    | (intro _ _ _)
    | (intro _ _)
    | (split; rename_i heq; have hk := congrArg Prod.snd heq; subst hk)
    | split

theorem Kept.openSums {v : Held} {c : Chip} (hc : Kept v c) :
    Kept v (Chip.openSums c) := by
  unfold Machine.Chip.openSums
  with_reducible repeat' first
    | assumption
    | (extract_lets +onlyGivenNames y; first | (refine Kept.have_ (v := v) (x := y) ?_ ?_; (on_goal 1 => subst y); (on_goal 2 => (intro hy; clear_value y))) | clear_value y)
    | apply Kept.setElem
    | apply Kept.forN
    | simp only [Kept.upd_iff]
    | (intro _ _ _)
    | (intro _ _)
    | (split; rename_i heq; have hk := congrArg Prod.snd heq; subst hk)
    | split

theorem Kept.loadNext {v : Held} {c : Chip} {n : ℕ} (hc : Kept v c) :
    Kept v (Chip.loadNext c n) := by
  unfold Machine.Chip.loadNext
  with_reducible repeat' first
    | assumption
    | (extract_lets +onlyGivenNames y; first | (refine Kept.have_ (v := v) (x := y) ?_ ?_; (on_goal 1 => subst y); (on_goal 2 => (intro hy; clear_value y))) | clear_value y)
    | apply Kept.discardWindows
    | apply Kept.rebaseSlots
    | apply Kept.openSums
    | apply Kept.forN
    | simp only [Kept.upd_iff]
    | (intro _ _ _)
    | (intro _ _)
    | (split; rename_i heq; have hk := congrArg Prod.snd heq; subst hk)
    | split

theorem Kept.strideLoad {v : Held} {c : Chip} (hc : Kept v c) :
    Kept v (strideLoad c) := by
  unfold Machine.strideLoad
  with_reducible repeat' first
    | assumption
    | (extract_lets +onlyGivenNames y; first | (refine Kept.have_ (v := v) (x := y) ?_ ?_; (on_goal 1 => subst y); (on_goal 2 => (intro hy; clear_value y))) | clear_value y)
    | apply Kept.setTim
    | apply Kept.advanceTo
    | apply Kept.loadNext
    | apply Kept.forN
    | simp only [Kept.upd_iff]
    | (intro _ _ _)
    | (intro _ _)
    | (split; rename_i heq; have hk := congrArg Prod.snd heq; subst hk)
    | split

theorem Kept.alignGained {v : Held} {c : Chip} (hc : Kept v c) :
    Kept v (Chip.alignGained c) := by
  unfold Machine.Chip.alignGained
  with_reducible repeat' first
    | assumption
    | (extract_lets +onlyGivenNames y; first | (refine Kept.have_ (v := v) (x := y) ?_ ?_; (on_goal 1 => subst y); (on_goal 2 => (intro hy; clear_value y))) | clear_value y)
    | apply Kept.raiseEv
    | apply Kept.setFlag
    | apply Kept.setTim
    | apply Kept.loadNext
    | apply Kept.forN
    | simp only [Kept.upd_iff]
    | (intro _ _ _)
    | (intro _ _)
    | (split; rename_i heq; have hk := congrArg Prod.snd heq; subst hk)
    | split

theorem Kept.showVcxo {v : Held} {c : Chip} (hc : Kept v c) :
    Kept v (Chip.showVcxo c) := by
  unfold Machine.Chip.showVcxo
  with_reducible repeat' first
    | assumption
    | (extract_lets +onlyGivenNames y; first | (refine Kept.have_ (v := v) (x := y) ?_ ?_; (on_goal 1 => subst y); (on_goal 2 => (intro hy; clear_value y))) | clear_value y)
    | apply Kept.setFlag
    | apply Kept.forN
    | simp only [Kept.upd_iff]
    | (intro _ _ _)
    | (intro _ _)
    | (split; rename_i heq; have hk := congrArg Prod.snd heq; subst hk)
    | split

theorem Kept.vcxoStep {v : Held} {c : Chip} {mean : ℤ} (hc : Kept v c) :
    Kept v (Chip.vcxoStep c mean) := by
  unfold Machine.Chip.vcxoStep
  with_reducible repeat' first
    | assumption
    | (extract_lets +onlyGivenNames y; first | (refine Kept.have_ (v := v) (x := y) ?_ ?_; (on_goal 1 => subst y); (on_goal 2 => (intro hy; clear_value y))) | clear_value y)
    | apply Kept.showVcxo
    | apply Kept.putS
    | apply Kept.setTim
    | apply Kept.forN
    | simp only [Kept.upd_iff]
    | (intro _ _ _)
    | (intro _ _)
    | (split; rename_i heq; have hk := congrArg Prod.snd heq; subst hk)
    | split

theorem Kept.alignBy {v : Held} {c : Chip} {mean : ℤ} (hc : Kept v c) :
    Kept v (Chip.alignBy c mean) := by
  unfold Machine.Chip.alignBy
  with_reducible repeat' first
    | assumption
    | (extract_lets +onlyGivenNames y; first | (refine Kept.have_ (v := v) (x := y) ?_ ?_; (on_goal 1 => subst y); (on_goal 2 => (intro hy; clear_value y))) | clear_value y)
    | apply Kept.setTim
    | apply Kept.alignLost
    | apply Kept.alignGained
    | apply Kept.forN
    | simp only [Kept.upd_iff]
    | (intro _ _ _)
    | (intro _ _)
    | (split; rename_i heq; have hk := congrArg Prod.snd heq; subst hk)
    | split

theorem Kept.vcxoLoopUpdate {v : Held} {c : Chip} (hc : Kept v c) :
    Kept v (vcxoLoopUpdate c) := by
  unfold Machine.vcxoLoopUpdate
  with_reducible repeat' first
    | assumption
    | (extract_lets +onlyGivenNames y; first | (refine Kept.have_ (v := v) (x := y) ?_ ?_; (on_goal 1 => subst y); (on_goal 2 => (intro hy; clear_value y))) | clear_value y)
    | apply Kept.advanceTo
    | apply Kept.putS
    | apply Kept.alignBy
    | apply Kept.vcxoStep
    | apply Kept.forN
    | simp only [Kept.upd_iff]
    | (intro _ _ _)
    | (intro _ _)
    | (split; rename_i heq; have hk := congrArg Prod.snd heq; subst hk)
    | split

theorem Kept.comparatorAct {v : Held} {c : Chip} {t : ℕ} {late : Bool} (hc : Kept v c) :
    Kept v (Chip.comparatorAct c t late) := by
  unfold Machine.Chip.comparatorAct
  with_reducible repeat' first
    | assumption
    | (extract_lets +onlyGivenNames y; first | (refine Kept.have_ (v := v) (x := y) ?_ ?_; (on_goal 1 => subst y); (on_goal 2 => (intro hy; clear_value y))) | clear_value y)
    | apply Kept.raiseEv
    | apply Kept.setFlag
    | apply Kept.setTim
    | apply Kept.controlTick
    | apply Kept.canTrigger
    | apply Kept.forN
    | simp only [Kept.upd_iff]
    | (intro _ _ _)
    | (intro _ _)
    | (split; rename_i heq; have hk := congrArg Prod.snd heq; subst hk)
    | split

theorem Kept.comparatorNext {v : Held} {c : Chip} {t : ℕ} {skip : Bool} (hc : Kept v c) :
    Kept v (Chip.comparatorNext c t skip) := by
  unfold Machine.Chip.comparatorNext
  with_reducible repeat' first
    | assumption
    | (extract_lets +onlyGivenNames y; first | (refine Kept.have_ (v := v) (x := y) ?_ ?_; (on_goal 1 => subst y); (on_goal 2 => (intro hy; clear_value y))) | clear_value y)
    | apply Kept.setPassed
    | apply Kept.setFlag
    | apply Kept.setTarget
    | apply Kept.forN
    | simp only [Kept.upd_iff]
    | (intro _ _ _)
    | (intro _ _)
    | (split; rename_i heq; have hk := congrArg Prod.snd heq; subst hk)
    | split

theorem Kept.comparatorArm {v : Held} {acc : Access} {t : ℕ} {x2 : ℕ} {cyc : ℕ} {c : Chip} (hc : Kept v c) :
    Kept v (comparatorArm acc t x2 cyc c) := by
  unfold Machine.comparatorArm
  with_reducible repeat' first
    | assumption
    | (extract_lets +onlyGivenNames y; first | (refine Kept.have_ (v := v) (x := y) ?_ ?_; (on_goal 1 => subst y); (on_goal 2 => (intro hy; clear_value y))) | clear_value y)
    | apply Kept.write
    | apply Kept.advanceTo
    | apply Kept.setPassed
    | apply Kept.put
    | apply Kept.comparatorNext
    | apply Kept.comparatorAct
    | apply Kept.forN
    | simp only [Kept.upd_iff]
    | (intro _ _ _)
    | (intro _ _)
    | (split; rename_i heq; have hk := congrArg Prod.snd heq; subst hk)
    | split

theorem Kept.comparatorFire {v : Held} {t : ℕ} {cyc : ℕ} {c : Chip} (hc : Kept v c) :
    Kept v (comparatorFire t cyc c) := by
  unfold Machine.comparatorFire
  with_reducible repeat' first
    | assumption
    | (extract_lets +onlyGivenNames y; first | (refine Kept.have_ (v := v) (x := y) ?_ ?_; (on_goal 1 => subst y); (on_goal 2 => (intro hy; clear_value y))) | clear_value y)
    | apply Kept.advanceTo
    | apply Kept.comparatorNext
    | apply Kept.comparatorAct
    | apply Kept.forN
    | simp only [Kept.upd_iff]
    | (intro _ _ _)
    | (intro _ _)
    | (split; rename_i heq; have hk := congrArg Prod.snd heq; subst hk)
    | split

theorem Kept.ppsOutPulseEnd {v : Held} {cyc : ℕ} {c : Chip} (hc : Kept v c) :
    Kept v (ppsOutPulseEnd cyc c) := by
  unfold Machine.ppsOutPulseEnd
  with_reducible repeat' first
    | assumption
    | (extract_lets +onlyGivenNames y; first | (refine Kept.have_ (v := v) (x := y) ?_ ?_; (on_goal 1 => subst y); (on_goal 2 => (intro hy; clear_value y))) | clear_value y)
    | apply Kept.advanceTo
    | apply Kept.setTim
    | apply Kept.forN
    | simp only [Kept.upd_iff]
    | (intro _ _ _)
    | (intro _ _)
    | (split; rename_i heq; have hk := congrArg Prod.snd heq; subst hk)
    | split

theorem Kept.setCaptures {v : Held} {c : Chip} {k : ℕ} {l : List Capture} (hc : Kept v c) :
    Kept v (Chip.setCaptures c k l) := by
  unfold Machine.Chip.setCaptures
  with_reducible repeat' first
    | assumption
    | (extract_lets +onlyGivenNames y; first | (refine Kept.have_ (v := v) (x := y) ?_ ?_; (on_goal 1 => subst y); (on_goal 2 => (intro hy; clear_value y))) | clear_value y)
    | apply Kept.setTim
    | apply Kept.setRaw
    | apply Kept.put
    | apply Kept.forN
    | simp only [Kept.upd_iff]
    | (intro _ _ _)
    | (intro _ _)
    | (split; rename_i heq; have hk := congrArg Prod.snd heq; subst hk)
    | split

theorem Kept.captureEdge {v : Held} {k : ℕ} {rising : Bool} {cyc : ℕ} {c : Chip} (hc : Kept v c) :
    Kept v (captureEdge k rising cyc c) := by
  unfold Machine.captureEdge
  with_reducible repeat' first
    | assumption
    | (extract_lets +onlyGivenNames y; first | (refine Kept.have_ (v := v) (x := y) ?_ ?_; (on_goal 1 => subst y); (on_goal 2 => (intro hy; clear_value y))) | clear_value y)
    | apply Kept.advanceTo
    | apply Kept.raiseEv
    | apply Kept.setFlag
    | apply Kept.setCaptures
    | apply Kept.forN
    | simp only [Kept.upd_iff]
    | (intro _ _ _)
    | (intro _ _)
    | (split; rename_i heq; have hk := congrArg Prod.snd heq; subst hk)
    | split

theorem Kept.capturePop {v : Held} {acc : Access} {k : ℕ} {c : Chip} (hc : Kept v c) :
    Kept v (capturePop acc k c) := by
  unfold Machine.capturePop
  with_reducible repeat' first
    | assumption
    | (extract_lets +onlyGivenNames y; first | (refine Kept.have_ (v := v) (x := y) ?_ ?_; (on_goal 1 => subst y); (on_goal 2 => (intro hy; clear_value y))) | clear_value y)
    | apply Kept.read
    | apply Kept.setCaptures
    | apply Kept.put
    | apply Kept.setFlag
    | apply Kept.forN
    | simp only [Kept.upd_iff]
    | (intro _ _ _)
    | (intro _ _)
    | (split; rename_i heq; have hk := congrArg Prod.snd heq; subst hk)
    | split

theorem Kept.timeEdge {v : Held} {c : Chip} (hc : Kept v c) :
    Kept v (Chip.timeEdge c) := by
  unfold Machine.Chip.timeEdge
  with_reducible repeat' first
    | assumption
    | (extract_lets +onlyGivenNames y; first | (refine Kept.have_ (v := v) (x := y) ?_ ?_; (on_goal 1 => subst y); (on_goal 2 => (intro hy; clear_value y))) | clear_value y)
    | apply Kept.put64
    | apply Kept.putS
    | apply Kept.setTim
    | apply Kept.clearFault
    | apply Kept.forN
    | simp only [Kept.upd_iff]
    | (intro _ _ _)
    | (intro _ _)
    | (split; rename_i heq; have hk := congrArg Prod.snd heq; subst hk)
    | split

theorem Kept.timCtrlWritten {v : Held} {c : Chip} (hc : Kept v c) :
    Kept v (Chip.timCtrlWritten c) := by
  unfold Machine.Chip.timCtrlWritten
  with_reducible repeat' first
    | assumption
    | (extract_lets +onlyGivenNames y; first | (refine Kept.have_ (v := v) (x := y) ?_ ?_; (on_goal 1 => subst y); (on_goal 2 => (intro hy; clear_value y))) | clear_value y)
    | apply Kept.alignLost
    | apply Kept.forN
    | simp only [Kept.upd_iff]
    | (intro _ _ _)
    | (intro _ _)
    | (split; rename_i heq; have hk := congrArg Prod.snd heq; subst hk)
    | split

theorem Kept.setLedger {v : Held} {c : Chip} {row : LedgerRow} {x2 : ℕ} (hc : Kept v c) :
    Kept v (Chip.setLedger c row x2) := by
  unfold Machine.Chip.setLedger
  with_reducible repeat' first
    | assumption
    | (extract_lets +onlyGivenNames y; first | (refine Kept.have_ (v := v) (x := y) ?_ ?_; (on_goal 1 => subst y); (on_goal 2 => (intro hy; clear_value y))) | clear_value y)
    | apply Kept.put64
    | apply Kept.setFlag
    | apply Kept.raiseEv
    | apply Kept.forN
    | simp only [Kept.upd_iff]
    | (intro _ _ _)
    | (intro _ _)
    | (split; rename_i heq; have hk := congrArg Prod.snd heq; subst hk)
    | split

end Sys2Proof.Machine
end

