-- ==== Sys2Proof/Laws/Kept3.lean ====
section
/-! SUPPORT. What the operations of Load, FrontEnd keep. -/

set_option linter.unusedTactic false
set_option linter.unreachableTactic false
set_option linter.unusedSimpArgs false
set_option linter.unusedVariables false

namespace Sys2Proof.Machine

theorem Kept.setLoad {v : Held} {c : Chip} {f : Load → Load} (hc : Kept v c) :
    Kept v (Chip.setLoad c f) := by
  unfold Machine.Chip.setLoad
  with_reducible repeat' first
    | assumption
    | (extract_lets +onlyGivenNames y; first | (refine Kept.have_ (v := v) (x := y) ?_ ?_; (on_goal 1 => subst y); (on_goal 2 => (intro hy; clear_value y))) | clear_value y)
    | apply Kept.forN
    | simp only [Kept.upd_iff]
    | (intro _ _ _)
    | (intro _ _)
    | (split; rename_i heq; have hk := congrArg Prod.snd heq; subst hk)
    | split

theorem Kept.setChannel {v : Held} {c : Chip} {n : ℕ} {f : Channel → Channel} (hc : Kept v c) :
    Kept v (Chip.setChannel c n f) := by
  unfold Machine.Chip.setChannel
  with_reducible repeat' first
    | assumption
    | (extract_lets +onlyGivenNames y; first | (refine Kept.have_ (v := v) (x := y) ?_ ?_; (on_goal 1 => subst y); (on_goal 2 => (intro hy; clear_value y))) | clear_value y)
    | apply Kept.setLoad
    | apply Kept.forN
    | simp only [Kept.upd_iff]
    | (intro _ _ _)
    | (intro _ _)
    | (split; rename_i heq; have hk := congrArg Prod.snd heq; subst hk)
    | split

theorem Kept.noteChannel {v : Held} {c : Chip} {n : ℕ} (hc : Kept v c) :
    Kept v (Chip.noteChannel c n) := by
  unfold Machine.Chip.noteChannel
  with_reducible repeat' first
    | assumption
    | (extract_lets +onlyGivenNames y; first | (refine Kept.have_ (v := v) (x := y) ?_ ?_; (on_goal 1 => subst y); (on_goal 2 => (intro hy; clear_value y))) | clear_value y)
    | apply Kept.setRaw
    | apply Kept.forN
    | simp only [Kept.upd_iff]
    | (intro _ _ _)
    | (intro _ _)
    | (split; rename_i heq; have hk := congrArg Prod.snd heq; subst hk)
    | split

theorem Kept.endDiag {v : Held} {c : Chip} {n : ℕ} {r : ℕ} (hc : Kept v c) :
    Kept v (Chip.endDiag c n r) := by
  unfold Machine.Chip.endDiag
  with_reducible repeat' first
    | assumption
    | (extract_lets +onlyGivenNames y; first | (refine Kept.have_ (v := v) (x := y) ?_ ?_; (on_goal 1 => subst y); (on_goal 2 => (intro hy; clear_value y))) | clear_value y)
    | apply Kept.setFlag
    | apply Kept.setChannel
    | apply Kept.raiseEv
    | apply Kept.put
    | apply Kept.forN
    | simp only [Kept.upd_iff]
    | (intro _ _ _)
    | (intro _ _)
    | (split; rename_i heq; have hk := congrArg Prod.snd heq; subst hk)
    | split

theorem Kept.retryDecide {v : Held} {c : Chip} {n : ℕ} (hc : Kept v c) :
    Kept v (Chip.retryDecide c n) := by
  unfold Machine.Chip.retryDecide
  with_reducible repeat' first
    | assumption
    | (extract_lets +onlyGivenNames y; first | (refine Kept.have_ (v := v) (x := y) ?_ ?_; (on_goal 1 => subst y); (on_goal 2 => (intro hy; clear_value y))) | clear_value y)
    | apply Kept.noteChannel
    | apply Kept.raiseEv
    | apply Kept.setFlag
    | apply Kept.put
    | apply Kept.forN
    | simp only [Kept.upd_iff]
    | (intro _ _ _)
    | (intro _ _)
    | (split; rename_i heq; have hk := congrArg Prod.snd heq; subst hk)
    | split

theorem Kept.setOutput {v : Held} {c : Chip} {n : ℕ} {on : Bool} (hc : Kept v c) :
    Kept v (Chip.setOutput c n on) := by
  unfold Machine.Chip.setOutput
  with_reducible repeat' first
    | assumption
    | (extract_lets +onlyGivenNames y; first | (refine Kept.have_ (v := v) (x := y) ?_ ?_; (on_goal 1 => subst y); (on_goal 2 => (intro hy; clear_value y))) | clear_value y)
    | apply Kept.setFlag
    | apply Kept.incSat
    | apply Kept.setChannel
    | apply Kept.forN
    | simp only [Kept.upd_iff]
    | (intro _ _ _)
    | (intro _ _)
    | (split; rename_i heq; have hk := congrArg Prod.snd heq; subst hk)
    | split

theorem Kept.settleChannel {v : Held} {c : Chip} {n : ℕ} (hc : Kept v c) :
    Kept v (Chip.settleChannel c n) := by
  unfold Machine.Chip.settleChannel
  with_reducible repeat' first
    | assumption
    | (extract_lets +onlyGivenNames y; first | (refine Kept.have_ (v := v) (x := y) ?_ ?_; (on_goal 1 => subst y); (on_goal 2 => (intro hy; clear_value y))) | clear_value y)
    | apply Kept.setFlag
    | apply Kept.setChannel
    | apply Kept.endDiag
    | apply Kept.retryDecide
    | apply Kept.setOutput
    | apply Kept.forN
    | simp only [Kept.upd_iff]
    | (intro _ _ _)
    | (intro _ _)
    | (split; rename_i heq; have hk := congrArg Prod.snd heq; subst hk)
    | split

theorem Kept.settleLoad {v : Held} {c : Chip} (hc : Kept v c) :
    Kept v (Chip.settleLoad c) := by
  unfold Machine.Chip.settleLoad
  with_reducible repeat' first
    | assumption
    | (extract_lets +onlyGivenNames y; first | (refine Kept.have_ (v := v) (x := y) ?_ ?_; (on_goal 1 => subst y); (on_goal 2 => (intro hy; clear_value y))) | clear_value y)
    | apply Kept.settleChannel
    | apply Kept.forN
    | simp only [Kept.upd_iff]
    | (intro _ _ _)
    | (intro _ _)
    | (split; rename_i heq; have hk := congrArg Prod.snd heq; subst hk)
    | split

theorem Kept.driveInEdge {v : Held} {k : ℕ} {level : Bool} {c : Chip} (hc : Kept v c) :
    Kept v (driveInEdge k level c) := by
  unfold Machine.driveInEdge
  with_reducible repeat' first
    | assumption
    | (extract_lets +onlyGivenNames y; first | (refine Kept.have_ (v := v) (x := y) ?_ ?_; (on_goal 1 => subst y); (on_goal 2 => (intro hy; clear_value y))) | clear_value y)
    | apply Kept.settleLoad
    | apply Kept.setLoad
    | apply Kept.forN
    | simp only [Kept.upd_iff]
    | (intro _ _ _)
    | (intro _ _)
    | (split; rename_i heq; have hk := congrArg Prod.snd heq; subst hk)
    | split

theorem Kept.trip {v : Held} {c : Chip} {n : ℕ} (hc : Kept v c) :
    Kept v (Chip.trip c n) := by
  unfold Machine.Chip.trip
  with_reducible repeat' first
    | assumption
    | (extract_lets +onlyGivenNames y; first | (refine Kept.have_ (v := v) (x := y) ?_ ?_; (on_goal 1 => subst y); (on_goal 2 => (intro hy; clear_value y))) | clear_value y)
    | apply Kept.incSat
    | apply Kept.setFlag
    | apply Kept.setChannel
    | apply Kept.settleChannel
    | apply Kept.noteChannel
    | apply Kept.setOutput
    | apply Kept.raiseEv
    | apply Kept.forN
    | simp only [Kept.upd_iff]
    | (intro _ _ _)
    | (intro _ _)
    | (split; rename_i heq; have hk := congrArg Prod.snd heq; subst hk)
    | split

theorem Kept.overcurrentTrip {v : Held} {n : ℕ} {us : ℕ} {c : Chip} (hc : Kept v c) :
    Kept v (overcurrentTrip n us c) := by
  unfold Machine.overcurrentTrip
  with_reducible repeat' first
    | assumption
    | (extract_lets +onlyGivenNames y; first | (refine Kept.have_ (v := v) (x := y) ?_ ?_; (on_goal 1 => subst y); (on_goal 2 => (intro hy; clear_value y))) | clear_value y)
    | apply Kept.trip
    | apply Kept.forN
    | simp only [Kept.upd_iff]
    | (intro _ _ _)
    | (intro _ _)
    | (split; rename_i heq; have hk := congrArg Prod.snd heq; subst hk)
    | split

theorem Kept.shortCircuitCut {v : Held} {n : ℕ} {ma : ℕ} {c : Chip} (hc : Kept v c) :
    Kept v (shortCircuitCut n ma c) := by
  unfold Machine.shortCircuitCut
  with_reducible repeat' first
    | assumption
    | (extract_lets +onlyGivenNames y; first | (refine Kept.have_ (v := v) (x := y) ?_ ?_; (on_goal 1 => subst y); (on_goal 2 => (intro hy; clear_value y))) | clear_value y)
    | apply Kept.trip
    | apply Kept.forN
    | simp only [Kept.upd_iff]
    | (intro _ _ _)
    | (intro _ _)
    | (split; rename_i heq; have hk := congrArg Prod.snd heq; subst hk)
    | split

theorem Kept.thermalLatchSet {v : Held} {n : ℕ} {c : Chip} (hc : Kept v c) :
    Kept v (thermalLatchSet n c) := by
  unfold Machine.thermalLatchSet
  with_reducible repeat' first
    | assumption
    | (extract_lets +onlyGivenNames y; first | (refine Kept.have_ (v := v) (x := y) ?_ ?_; (on_goal 1 => subst y); (on_goal 2 => (intro hy; clear_value y))) | clear_value y)
    | apply Kept.incSat
    | apply Kept.setFlag
    | apply Kept.setChannel
    | apply Kept.settleChannel
    | apply Kept.noteChannel
    | apply Kept.raiseEv
    | apply Kept.forN
    | simp only [Kept.upd_iff]
    | (intro _ _ _)
    | (intro _ _)
    | (split; rename_i heq; have hk := congrArg Prod.snd heq; subst hk)
    | split

theorem Kept.thermalLatchRelease {v : Held} {n : ℕ} {c : Chip} (hc : Kept v c) :
    Kept v (thermalLatchRelease n c) := by
  unfold Machine.thermalLatchRelease
  with_reducible repeat' first
    | assumption
    | (extract_lets +onlyGivenNames y; first | (refine Kept.have_ (v := v) (x := y) ?_ ?_; (on_goal 1 => subst y); (on_goal 2 => (intro hy; clear_value y))) | clear_value y)
    | apply Kept.setFlag
    | apply Kept.setChannel
    | apply Kept.settleChannel
    | apply Kept.noteChannel
    | apply Kept.forN
    | simp only [Kept.upd_iff]
    | (intro _ _ _)
    | (intro _ _)
    | (split; rename_i heq; have hk := congrArg Prod.snd heq; subst hk)
    | split

theorem Kept.clampUnlock {v : Held} {acc : Access} {n : ℕ} {c : Chip} (hc : Kept v c) :
    Kept v (clampUnlock acc n c) := by
  unfold Machine.clampUnlock
  with_reducible repeat' first
    | assumption
    | (extract_lets +onlyGivenNames y; first | (refine Kept.have_ (v := v) (x := y) ?_ ?_; (on_goal 1 => subst y); (on_goal 2 => (intro hy; clear_value y))) | clear_value y)
    | apply Kept.writeUnit
    | apply Kept.settleChannel
    | apply Kept.noteChannel
    | apply Kept.setFlag
    | apply Kept.forN
    | simp only [Kept.upd_iff]
    | (intro _ _ _)
    | (intro _ _)
    | (split; rename_i heq; have hk := congrArg Prod.snd heq; subst hk)
    | split

theorem Kept.retryDelayExpire {v : Held} {n : ℕ} {c : Chip} (hc : Kept v c) :
    Kept v (retryDelayExpire n c) := by
  unfold Machine.retryDelayExpire
  with_reducible repeat' first
    | assumption
    | (extract_lets +onlyGivenNames y; first | (refine Kept.have_ (v := v) (x := y) ?_ ?_; (on_goal 1 => subst y); (on_goal 2 => (intro hy; clear_value y))) | clear_value y)
    | apply Kept.settleChannel
    | apply Kept.setChannel
    | apply Kept.forN
    | simp only [Kept.upd_iff]
    | (intro _ _ _)
    | (intro _ _)
    | (split; rename_i heq; have hk := congrArg Prod.snd heq; subst hk)
    | split

theorem Kept.retryReload {v : Held} {n : ℕ} {c : Chip} (hc : Kept v c) :
    Kept v (retryReload n c) := by
  unfold Machine.retryReload
  with_reducible repeat' first
    | assumption
    | (extract_lets +onlyGivenNames y; first | (refine Kept.have_ (v := v) (x := y) ?_ ?_; (on_goal 1 => subst y); (on_goal 2 => (intro hy; clear_value y))) | clear_value y)
    | apply Kept.setChannel
    | apply Kept.put
    | apply Kept.forN
    | simp only [Kept.upd_iff]
    | (intro _ _ _)
    | (intro _ _)
    | (split; rename_i heq; have hk := congrArg Prod.snd heq; subst hk)
    | split

theorem Kept.channelClear {v : Held} {acc : Access} {n : ℕ} {c : Chip} (hc : Kept v c) :
    Kept v (channelClear acc n c) := by
  unfold Machine.channelClear
  with_reducible repeat' first
    | assumption
    | (extract_lets +onlyGivenNames y; first | (refine Kept.have_ (v := v) (x := y) ?_ ?_; (on_goal 1 => subst y); (on_goal 2 => (intro hy; clear_value y))) | clear_value y)
    | apply Kept.writeUnit
    | apply Kept.setFlag
    | apply Kept.put
    | apply Kept.settleChannel
    | apply Kept.noteChannel
    | apply Kept.forN
    | simp only [Kept.upd_iff]
    | (intro _ _ _)
    | (intro _ _)
    | (split; rename_i heq; have hk := congrArg Prod.snd heq; subst hk)
    | split

theorem Kept.bankUndervoltage {v : Held} {b : ℕ} {c : Chip} (hc : Kept v c) :
    Kept v (bankUndervoltage b c) := by
  unfold Machine.bankUndervoltage
  with_reducible repeat' first
    | assumption
    | (extract_lets +onlyGivenNames y; first | (refine Kept.have_ (v := v) (x := y) ?_ ?_; (on_goal 1 => subst y); (on_goal 2 => (intro hy; clear_value y))) | clear_value y)
    | apply Kept.setFault
    | apply Kept.raiseEv
    | apply Kept.setFlag
    | apply Kept.settleChannel
    | apply Kept.forN
    | simp only [Kept.upd_iff]
    | apply Kept.foldl
    | apply Kept.foldl_pair
    | (intro _ _ _)
    | (intro _ _)
    | (split; rename_i heq; have hk := congrArg Prod.snd heq; subst hk)
    | split

theorem Kept.bankRecover {v : Held} {b : ℕ} {c : Chip} (hc : Kept v c) :
    Kept v (bankRecover b c) := by
  unfold Machine.bankRecover
  with_reducible repeat' first
    | assumption
    | (extract_lets +onlyGivenNames y; first | (refine Kept.have_ (v := v) (x := y) ?_ ?_; (on_goal 1 => subst y); (on_goal 2 => (intro hy; clear_value y))) | clear_value y)
    | apply Kept.setFlag
    | apply Kept.clearFault
    | apply Kept.settleChannel
    | apply Kept.forN
    | simp only [Kept.upd_iff]
    | apply Kept.foldl
    | apply Kept.foldl_pair
    | (intro _ _ _)
    | (intro _ _)
    | (split; rename_i heq; have hk := congrArg Prod.snd heq; subst hk)
    | split

theorem Kept.bankReversed {v : Held} {b : ℕ} {c : Chip} (hc : Kept v c) :
    Kept v (bankReversed b c) := by
  unfold Machine.bankReversed
  with_reducible repeat' first
    | assumption
    | (extract_lets +onlyGivenNames y; first | (refine Kept.have_ (v := v) (x := y) ?_ ?_; (on_goal 1 => subst y); (on_goal 2 => (intro hy; clear_value y))) | clear_value y)
    | apply Kept.setFault
    | apply Kept.raiseEv
    | apply Kept.setFlag
    | apply Kept.settleChannel
    | apply Kept.forN
    | simp only [Kept.upd_iff]
    | apply Kept.foldl
    | apply Kept.foldl_pair
    | (intro _ _ _)
    | (intro _ _)
    | (split; rename_i heq; have hk := congrArg Prod.snd heq; subst hk)
    | split

theorem Kept.shed {v : Held} {c : Chip} {l : List ℕ} (hc : Kept v c) :
    Kept v (Chip.shed c l) := by
  unfold Machine.Chip.shed
  with_reducible repeat' first
    | assumption
    | (extract_lets +onlyGivenNames y; first | (refine Kept.have_ (v := v) (x := y) ?_ ?_; (on_goal 1 => subst y); (on_goal 2 => (intro hy; clear_value y))) | clear_value y)
    | apply Kept.settleChannel
    | apply Kept.noteChannel
    | apply Kept.raiseEv
    | apply Kept.setFlag
    | apply Kept.forN
    | simp only [Kept.upd_iff]
    | apply Kept.foldl
    | apply Kept.foldl_pair
    | (intro _ _ _)
    | (intro _ _)
    | (split; rename_i heq; have hk := congrArg Prod.snd heq; subst hk)
    | split

theorem Kept.bankOverload {v : Held} {b : ℕ} {c : Chip} (hc : Kept v c) :
    Kept v (bankOverload b c) := by
  unfold Machine.bankOverload
  with_reducible repeat' first
    | assumption
    | (extract_lets +onlyGivenNames y; first | (refine Kept.have_ (v := v) (x := y) ?_ ?_; (on_goal 1 => subst y); (on_goal 2 => (intro hy; clear_value y))) | clear_value y)
    | apply Kept.shed
    | apply Kept.setFault
    | apply Kept.raiseEv
    | apply Kept.setFlag
    | apply Kept.forN
    | simp only [Kept.upd_iff]
    | (intro _ _ _)
    | (intro _ _)
    | (split; rename_i heq; have hk := congrArg Prod.snd heq; subst hk)
    | split

theorem Kept.openLoadOn {v : Held} {n : ℕ} {c : Chip} (hc : Kept v c) :
    Kept v (openLoadOn n c) := by
  unfold Machine.openLoadOn
  with_reducible repeat' first
    | assumption
    | (extract_lets +onlyGivenNames y; first | (refine Kept.have_ (v := v) (x := y) ?_ ?_; (on_goal 1 => subst y); (on_goal 2 => (intro hy; clear_value y))) | clear_value y)
    | apply Kept.noteChannel
    | apply Kept.raiseEv
    | apply Kept.setFlag
    | apply Kept.forN
    | simp only [Kept.upd_iff]
    | (intro _ _ _)
    | (intro _ _)
    | (split; rename_i heq; have hk := congrArg Prod.snd heq; subst hk)
    | split

theorem Kept.offStateDiag {v : Held} {acc : Access} {n : ℕ} {c : Chip} (hc : Kept v c) :
    Kept v (offStateDiag acc n c) := by
  unfold Machine.offStateDiag
  with_reducible repeat' first
    | assumption
    | (extract_lets +onlyGivenNames y; first | (refine Kept.have_ (v := v) (x := y) ?_ ?_; (on_goal 1 => subst y); (on_goal 2 => (intro hy; clear_value y))) | clear_value y)
    | apply Kept.writeUnit
    | apply Kept.setFlag
    | apply Kept.setChannel
    | apply Kept.forN
    | simp only [Kept.upd_iff]
    | (intro _ _ _)
    | (intro _ _)
    | (split; rename_i heq; have hk := congrArg Prod.snd heq; subst hk)
    | split

theorem Kept.diagComplete {v : Held} {n : ℕ} {c : Chip} (hc : Kept v c) :
    Kept v (diagComplete n c) := by
  unfold Machine.diagComplete
  with_reducible repeat' first
    | assumption
    | (extract_lets +onlyGivenNames y; first | (refine Kept.have_ (v := v) (x := y) ?_ ?_; (on_goal 1 => subst y); (on_goal 2 => (intro hy; clear_value y))) | clear_value y)
    | apply Kept.noteChannel
    | apply Kept.endDiag
    | apply Kept.setFlag
    | apply Kept.forN
    | simp only [Kept.upd_iff]
    | (intro _ _ _)
    | (intro _ _)
    | (split; rename_i heq; have hk := congrArg Prod.snd heq; subst hk)
    | split

theorem Kept.globalModeWrite {v : Held} {acc : Access} {x1 : ℕ} {c : Chip} (hc : Kept v c) :
    Kept v (globalModeWrite acc x1 c) := by
  unfold Machine.globalModeWrite
  with_reducible repeat' first
    | assumption
    | (extract_lets +onlyGivenNames y; first | (refine Kept.have_ (v := v) (x := y) ?_ ?_; (on_goal 1 => subst y); (on_goal 2 => (intro hy; clear_value y))) | clear_value y)
    | apply Kept.write
    | apply Kept.setFlag
    | apply Kept.put
    | apply Kept.forN
    | simp only [Kept.upd_iff]
    | (intro _ _ _)
    | (intro _ _)
    | (split; rename_i heq; have hk := congrArg Prod.snd heq; subst hk)
    | split

theorem Kept.setSlotOf {v : Held} {c : Chip} {k : ℕ} {x : Option ℕ} (hc : Kept v c) :
    Kept v (Chip.setSlotOf c k x) := by
  unfold Machine.Chip.setSlotOf
  with_reducible repeat' first
    | assumption
    | (extract_lets +onlyGivenNames y; first | (refine Kept.have_ (v := v) (x := y) ?_ ?_; (on_goal 1 => subst y); (on_goal 2 => (intro hy; clear_value y))) | clear_value y)
    | apply Kept.setLoad
    | apply Kept.forN
    | simp only [Kept.upd_iff]
    | (intro _ _ _)
    | (intro _ _)
    | (split; rename_i heq; have hk := congrArg Prod.snd heq; subst hk)
    | split

theorem Kept.vslotRoute {v : Held} {acc : Access} {n : ℕ} {x2 : ℕ} {c : Chip} (hc : Kept v c) :
    Kept v (vslotRoute acc n x2 c) := by
  unfold Machine.vslotRoute
  with_reducible repeat' first
    | assumption
    | (extract_lets +onlyGivenNames y; first | (refine Kept.have_ (v := v) (x := y) ?_ ?_; (on_goal 1 => subst y); (on_goal 2 => (intro hy; clear_value y))) | clear_value y)
    | apply Kept.writeUnit
    | apply Kept.setSlotOf
    | apply Kept.setFlag
    | apply Kept.put
    | apply Kept.forN
    | simp only [Kept.upd_iff]
    | (intro _ _ _)
    | (intro _ _)
    | (split; rename_i heq; have hk := congrArg Prod.snd heq; subst hk)
    | split

theorem Kept.showBridle {v : Held} {c : Chip} (hc : Kept v c) :
    Kept v (Chip.showBridle c) := by
  unfold Machine.Chip.showBridle
  with_reducible repeat' first
    | assumption
    | (extract_lets +onlyGivenNames y; first | (refine Kept.have_ (v := v) (x := y) ?_ ?_; (on_goal 1 => subst y); (on_goal 2 => (intro hy; clear_value y))) | clear_value y)
    | apply Kept.setRaw
    | apply Kept.setFlag
    | apply Kept.faultIs
    | apply Kept.put
    | apply Kept.forN
    | simp only [Kept.upd_iff]
    | (intro _ _ _)
    | (intro _ _)
    | (split; rename_i heq; have hk := congrArg Prod.snd heq; subst hk)
    | split

theorem Kept.enterBridle {v : Held} {c : Chip} {d : ℕ} {cause : ℕ} (hc : Kept v c) :
    Kept v (Chip.enterBridle c d cause) := by
  unfold Machine.Chip.enterBridle
  with_reducible repeat' first
    | assumption
    | (extract_lets +onlyGivenNames y; first | (refine Kept.have_ (v := v) (x := y) ?_ ?_; (on_goal 1 => subst y); (on_goal 2 => (intro hy; clear_value y))) | clear_value y)
    | apply Kept.setFlag
    | apply Kept.raiseEv
    | apply Kept.setLoad
    | apply Kept.setChannel
    | apply Kept.endDiag
    | apply Kept.settleChannel
    | apply Kept.showBridle
    | apply Kept.forN
    | simp only [Kept.upd_iff]
    | apply Kept.foldl
    | apply Kept.foldl_pair
    | (intro _ _ _)
    | (intro _ _)
    | (split; rename_i heq; have hk := congrArg Prod.snd heq; subst hk)
    | split

theorem Kept.bothBridle {v : Held} {c : Chip} {cause : ℕ} (hc : Kept v c) :
    Kept v (Chip.bothBridle c cause) := by
  unfold Machine.Chip.bothBridle
  with_reducible repeat' first
    | assumption
    | (extract_lets +onlyGivenNames y; first | (refine Kept.have_ (v := v) (x := y) ?_ ?_; (on_goal 1 => subst y); (on_goal 2 => (intro hy; clear_value y))) | clear_value y)
    | apply Kept.enterBridle
    | apply Kept.forN
    | simp only [Kept.upd_iff]
    | (intro _ _ _)
    | (intro _ _)
    | (split; rename_i heq; have hk := congrArg Prod.snd heq; subst hk)
    | split

theorem Kept.bridleRequest {v : Held} {c : Chip} (hc : Kept v c) :
    Kept v (bridleRequest c) := by
  unfold Machine.bridleRequest
  with_reducible repeat' first
    | assumption
    | (extract_lets +onlyGivenNames y; first | (refine Kept.have_ (v := v) (x := y) ?_ ?_; (on_goal 1 => subst y); (on_goal 2 => (intro hy; clear_value y))) | clear_value y)
    | apply Kept.setFlag
    | apply Kept.bothBridle
    | apply Kept.setLoad
    | apply Kept.forN
    | simp only [Kept.upd_iff]
    | (intro _ _ _)
    | (intro _ _)
    | (split; rename_i heq; have hk := congrArg Prod.snd heq; subst hk)
    | split

theorem Kept.watchdogsChanged {v : Held} {c : Chip} (hc : Kept v c) :
    Kept v (Chip.watchdogsChanged c) := by
  unfold Machine.Chip.watchdogsChanged
  with_reducible repeat' first
    | assumption
    | (extract_lets +onlyGivenNames y; first | (refine Kept.have_ (v := v) (x := y) ?_ ?_; (on_goal 1 => subst y); (on_goal 2 => (intro hy; clear_value y))) | clear_value y)
    | apply Kept.setFlag
    | apply Kept.forN
    | simp only [Kept.upd_iff]
    | (intro _ _ _)
    | (intro _ _)
    | (split; rename_i heq; have hk := congrArg Prod.snd heq; subst hk)
    | split

theorem Kept.bridleInEdge {v : Held} {k : ℕ} {level : Bool} {c : Chip} (hc : Kept v c) :
    Kept v (bridleInEdge k level c) := by
  unfold Machine.bridleInEdge
  with_reducible repeat' first
    | assumption
    | (extract_lets +onlyGivenNames y; first | (refine Kept.have_ (v := v) (x := y) ?_ ?_; (on_goal 1 => subst y); (on_goal 2 => (intro hy; clear_value y))) | clear_value y)
    | apply Kept.settleLoad
    | apply Kept.setFlag
    | apply Kept.forN
    | simp only [Kept.upd_iff]
    | (intro _ _ _)
    | (intro _ _)
    | (split; rename_i heq; have hk := congrArg Prod.snd heq; subst hk)
    | split

theorem Kept.switchLinkLoss {v : Held} {d : ℕ} {c : Chip} (hc : Kept v c) :
    Kept v (switchLinkLoss d c) := by
  unfold Machine.switchLinkLoss
  with_reducible repeat' first
    | assumption
    | (extract_lets +onlyGivenNames y; first | (refine Kept.have_ (v := v) (x := y) ?_ ?_; (on_goal 1 => subst y); (on_goal 2 => (intro hy; clear_value y))) | clear_value y)
    | apply Kept.enterBridle
    | apply Kept.setFault
    | apply Kept.raiseEv
    | apply Kept.forN
    | simp only [Kept.upd_iff]
    | (intro _ _ _)
    | (intro _ _)
    | (split; rename_i heq; have hk := congrArg Prod.snd heq; subst hk)
    | split

theorem Kept.refuseTake {v : Held} {c : Chip} {r : ℕ} (hc : Kept v c) :
    Kept v (Chip.refuseTake c r) := by
  unfold Machine.Chip.refuseTake
  with_reducible repeat' first
    | assumption
    | (extract_lets +onlyGivenNames y; first | (refine Kept.have_ (v := v) (x := y) ?_ ?_; (on_goal 1 => subst y); (on_goal 2 => (intro hy; clear_value y))) | clear_value y)
    | apply Kept.raiseEv
    | apply Kept.setLoad
    | apply Kept.put
    | apply Kept.forN
    | simp only [Kept.upd_iff]
    | (intro _ _ _)
    | (intro _ _)
    | (split; rename_i heq; have hk := congrArg Prod.snd heq; subst hk)
    | split

theorem Kept.take {v : Held} {acc : Access} {x1 : ℕ} {c : Chip} (hc : Kept v c) :
    Kept v (take acc x1 c) := by
  unfold Machine.take
  with_reducible repeat' first
    | assumption
    | (extract_lets +onlyGivenNames y; first | (refine Kept.have_ (v := v) (x := y) ?_ ?_; (on_goal 1 => subst y); (on_goal 2 => (intro hy; clear_value y))) | clear_value y)
    | apply Kept.write
    | apply Kept.refuseTake
    | apply Kept.setLoad
    | apply Kept.forN
    | simp only [Kept.upd_iff]
    | (intro _ _ _)
    | (intro _ _)
    | (split; rename_i heq; have hk := congrArg Prod.snd heq; subst hk)
    | split

theorem Kept.frameCopy {v : Held} {c : Chip} {n : ℕ} (hc : Kept v c) :
    Kept v (Chip.frameCopy c n) := by
  unfold Machine.Chip.frameCopy
  with_reducible repeat' first
    | assumption
    | (extract_lets +onlyGivenNames y; first | (refine Kept.have_ (v := v) (x := y) ?_ ?_; (on_goal 1 => subst y); (on_goal 2 => (intro hy; clear_value y))) | clear_value y)
    | apply Kept.setChannel
    | apply Kept.put
    | apply Kept.forN
    | simp only [Kept.upd_iff]
    | (intro _ _ _)
    | (intro _ _)
    | (split; rename_i heq; have hk := congrArg Prod.snd heq; subst hk)
    | split

theorem Kept.takeApply {v : Held} {c : Chip} (hc : Kept v c) :
    Kept v (takeApply c) := by
  unfold Machine.takeApply
  with_reducible repeat' first
    | assumption
    | (extract_lets +onlyGivenNames y; first | (refine Kept.have_ (v := v) (x := y) ?_ ?_; (on_goal 1 => subst y); (on_goal 2 => (intro hy; clear_value y))) | clear_value y)
    | apply Kept.put
    | apply Kept.setFlag
    | apply Kept.raiseEv
    | apply Kept.setLoad
    | apply Kept.settleChannel
    | apply Kept.showBridle
    | apply Kept.refuseTake
    | apply Kept.take
    | apply Kept.frameCopy
    | apply Kept.forN
    | simp only [Kept.upd_iff]
    | (intro _ _ _)
    | (intro _ _)
    | (split; rename_i heq; have hk := congrArg Prod.snd heq; subst hk)
    | split

theorem Kept.checkCoilMap {v : Held} {c : Chip} (hc : Kept v c) :
    Kept v (Chip.checkCoilMap c) := by
  unfold Machine.Chip.checkCoilMap
  with_reducible repeat' first
    | assumption
    | (extract_lets +onlyGivenNames y; first | (refine Kept.have_ (v := v) (x := y) ?_ ?_; (on_goal 1 => subst y); (on_goal 2 => (intro hy; clear_value y))) | clear_value y)
    | apply Kept.faultIs
    | apply Kept.setFlag
    | apply Kept.forN
    | simp only [Kept.upd_iff]
    | (intro _ _ _)
    | (intro _ _)
    | (split; rename_i heq; have hk := congrArg Prod.snd heq; subst hk)
    | split

theorem Kept.refuseCommit {v : Held} {c : Chip} {e : ℕ} (hc : Kept v c) :
    Kept v (Chip.refuseCommit c e) := by
  unfold Machine.Chip.refuseCommit
  with_reducible repeat' first
    | assumption
    | (extract_lets +onlyGivenNames y; first | (refine Kept.have_ (v := v) (x := y) ?_ ?_; (on_goal 1 => subst y); (on_goal 2 => (intro hy; clear_value y))) | clear_value y)
    | apply Kept.raiseEv
    | apply Kept.put
    | apply Kept.forN
    | simp only [Kept.upd_iff]
    | (intro _ _ _)
    | (intro _ _)
    | (split; rename_i heq; have hk := congrArg Prod.snd heq; subst hk)
    | split

theorem Kept.bridleMapCommit {v : Held} {acc : Access} {x1 : ℕ} {c : Chip} (hc : Kept v c) :
    Kept v (bridleMapCommit acc x1 c) := by
  unfold Machine.bridleMapCommit
  refine Kept.write hc ?_
  intro d hd
  split
  · exact hd
  · extract_lets bytes
    repeat (with_reducible first | exact Kept.refuseCommit hd | exact Kept.setLoad (Kept.put (Kept.put hd)) | split)

theorem Kept.bridleMapCommitDone {v : Held} {ok0 : Bool} {ok1 : Bool} {c : Chip} (hc : Kept v c) :
    Kept v (bridleMapCommitDone ok0 ok1 c) := by
  unfold Machine.bridleMapCommitDone
  with_reducible repeat' first
    | assumption
    | (extract_lets +onlyGivenNames y; first | (refine Kept.have_ (v := v) (x := y) ?_ ?_; (on_goal 1 => subst y); (on_goal 2 => (intro hy; clear_value y))) | clear_value y)
    | apply Kept.put
    | apply Kept.setFlag
    | apply Kept.incSat
    | apply Kept.raiseEv
    | apply Kept.clearFault
    | apply Kept.setLoad
    | apply Kept.take
    | apply Kept.checkCoilMap
    | apply Kept.refuseCommit
    | apply Kept.forN
    | simp only [Kept.upd_iff]
    | (intro _ _ _)
    | (intro _ _)
    | (split; rename_i heq; have hk := congrArg Prod.snd heq; subst hk)
    | split

theorem Kept.switchDiePowerUp {v : Held} {d : ℕ} {mapOk : Bool} {c : Chip} (hc : Kept v c) :
    Kept v (switchDiePowerUp d mapOk c) := by
  unfold Machine.switchDiePowerUp
  with_reducible repeat' first
    | assumption
    | (extract_lets +onlyGivenNames y; first | (refine Kept.have_ (v := v) (x := y) ?_ ?_; (on_goal 1 => subst y); (on_goal 2 => (intro hy; clear_value y))) | clear_value y)
    | apply Kept.setLoad
    | apply Kept.setOutput
    | apply Kept.setChannel
    | apply Kept.put
    | apply Kept.setFault
    | apply Kept.setFlag
    | apply Kept.enterBridle
    | apply Kept.forN
    | simp only [Kept.upd_iff]
    | apply Kept.foldl
    | apply Kept.foldl_pair
    | (intro _ _ _)
    | (intro _ _)
    | (split; rename_i heq; have hk := congrArg Prod.snd heq; subst hk)
    | split

theorem Kept.bucketStep {v : Held} {c : Chip} {n : ℕ} {events : List ℕ} (hc : Kept v c) :
    Kept v (Chip.bucketStep c n events) := by
  unfold Machine.Chip.bucketStep
  with_reducible repeat' first
    | assumption
    | (extract_lets +onlyGivenNames y; first | (refine Kept.have_ (v := v) (x := y) ?_ ?_; (on_goal 1 => subst y); (on_goal 2 => (intro hy; clear_value y))) | clear_value y)
    | apply Kept.put
    | apply Kept.setFlag
    | apply Kept.noteChannel
    | apply Kept.raiseEv
    | apply Kept.forN
    | simp only [Kept.upd_iff]
    | apply Kept.foldl
    | apply Kept.foldl_pair
    | (intro _ _ _)
    | (intro _ _)
    | (split; rename_i heq; have hk := congrArg Prod.snd heq; subst hk)
    | split

theorem Kept.channelTimers {v : Held} {c : Chip} {n : ℕ} {amps : ℕ} {volts : ℕ} (hc : Kept v c) :
    Kept v (Chip.channelTimers c n amps volts) := by
  unfold Machine.Chip.channelTimers
  with_reducible repeat' first
    | assumption
    | (extract_lets +onlyGivenNames y; first | (refine Kept.have_ (v := v) (x := y) ?_ ?_; (on_goal 1 => subst y); (on_goal 2 => (intro hy; clear_value y))) | clear_value y)
    | apply Kept.noteChannel
    | apply Kept.setFlag
    | apply Kept.setChannel
    | apply Kept.forN
    | simp only [Kept.upd_iff]
    | (intro _ _ _)
    | (intro _ _)
    | (split; rename_i heq; have hk := congrArg Prod.snd heq; subst hk)
    | split

theorem Kept.channelEdge {v : Held} {c : Chip} {inp : StrideInputs} {n : ℕ} (hc : Kept v c) :
    Kept v (Chip.channelEdge c inp n) := by
  unfold Machine.Chip.channelEdge
  with_reducible repeat' first
    | assumption
    | (extract_lets +onlyGivenNames y; first | (refine Kept.have_ (v := v) (x := y) ?_ ?_; (on_goal 1 => subst y); (on_goal 2 => (intro hy; clear_value y))) | clear_value y)
    | apply Kept.put
    | apply Kept.bucketStep
    | apply Kept.channelTimers
    | apply Kept.frameCopy
    | apply Kept.settleChannel
    | apply Kept.forN
    | simp only [Kept.upd_iff]
    | (intro _ _ _)
    | (intro _ _)
    | (split; rename_i heq; have hk := congrArg Prod.snd heq; subst hk)
    | split

theorem Kept.overRun {v : Held} {c : Chip} {k : ℕ} {i : ℕ} {lim : ℕ} (hc : Kept v c) :
    Kept v (Chip.overRun c k i lim) := by
  unfold Machine.Chip.overRun
  with_reducible repeat' first
    | assumption
    | (extract_lets +onlyGivenNames y; first | (refine Kept.have_ (v := v) (x := y) ?_ ?_; (on_goal 1 => subst y); (on_goal 2 => (intro hy; clear_value y))) | clear_value y)
    | apply Kept.setLoad
    | apply Kept.forN
    | simp only [Kept.upd_iff]
    | (intro _ _ _)
    | (intro _ _)
    | (split; rename_i heq; have hk := congrArg Prod.snd heq; subst hk)
    | split

theorem Kept.bankEdge {v : Held} {c : Chip} {inp : StrideInputs} (hc : Kept v c) :
    Kept v (Chip.bankEdge c inp) := by
  unfold Machine.Chip.bankEdge
  with_reducible repeat' first
    | assumption
    | (extract_lets +onlyGivenNames y; first | (refine Kept.have_ (v := v) (x := y) ?_ ?_; (on_goal 1 => subst y); (on_goal 2 => (intro hy; clear_value y))) | clear_value y)
    | apply Kept.put
    | apply Kept.overRun
    | apply Kept.shed
    | apply Kept.clearFault
    | apply Kept.setFlag
    | apply Kept.forN
    | simp only [Kept.upd_iff]
    | apply Kept.foldl
    | apply Kept.foldl_pair
    | (intro _ _ _)
    | (intro _ _)
    | (split; rename_i heq; have hk := congrArg Prod.snd heq; subst hk)
    | split

theorem Kept.slotEdge {v : Held} {c : Chip} {inp : StrideInputs} (hc : Kept v c) :
    Kept v (Chip.slotEdge c inp) := by
  unfold Machine.Chip.slotEdge
  with_reducible repeat' first
    | assumption
    | (extract_lets +onlyGivenNames y; first | (refine Kept.have_ (v := v) (x := y) ?_ ?_; (on_goal 1 => subst y); (on_goal 2 => (intro hy; clear_value y))) | clear_value y)
    | apply Kept.setSlotOf
    | apply Kept.setFlag
    | apply Kept.put
    | apply Kept.setLoad
    | apply Kept.forN
    | simp only [Kept.upd_iff]
    | (intro _ _ _)
    | (intro _ _)
    | (split; rename_i heq; have hk := congrArg Prod.snd heq; subst hk)
    | split

theorem Kept.linkEdge {v : Held} {c : Chip} {inp : StrideInputs} {d : ℕ} {f : Fld} (hc : Kept v c) :
    Kept v (Chip.linkEdge c inp d f) := by
  unfold Machine.Chip.linkEdge
  with_reducible repeat' first
    | assumption
    | (extract_lets +onlyGivenNames y; first | (refine Kept.have_ (v := v) (x := y) ?_ ?_; (on_goal 1 => subst y); (on_goal 2 => (intro hy; clear_value y))) | clear_value y)
    | apply Kept.setLoad
    | apply Kept.setFlag
    | apply Kept.clearFault
    | apply Kept.enterBridle
    | apply Kept.forN
    | simp only [Kept.upd_iff]
    | (intro _ _ _)
    | (intro _ _)
    | (split; rename_i heq; have hk := congrArg Prod.snd heq; subst hk)
    | split

theorem Kept.switchesEdge {v : Held} {c : Chip} {inp : StrideInputs} (hc : Kept v c) :
    Kept v (Chip.switchesEdge c inp) := by
  unfold Machine.Chip.switchesEdge
  with_reducible repeat' first
    | assumption
    | (extract_lets +onlyGivenNames y; first | (refine Kept.have_ (v := v) (x := y) ?_ ?_; (on_goal 1 => subst y); (on_goal 2 => (intro hy; clear_value y))) | clear_value y)
    | apply Kept.setLoad
    | apply Kept.channelEdge
    | apply Kept.bankEdge
    | apply Kept.forN
    | simp only [Kept.upd_iff]
    | (intro _ _ _)
    | (intro _ _)
    | (split; rename_i heq; have hk := congrArg Prod.snd heq; subst hk)
    | split

theorem Kept.limitsCopy {v : Held} {c : Chip} (hc : Kept v c) :
    Kept v (Chip.limitsCopy c) := by
  unfold Machine.Chip.limitsCopy
  with_reducible repeat' first
    | assumption
    | (extract_lets +onlyGivenNames y; first | (refine Kept.have_ (v := v) (x := y) ?_ ?_; (on_goal 1 => subst y); (on_goal 2 => (intro hy; clear_value y))) | clear_value y)
    | apply Kept.setLoad
    | apply Kept.forN
    | simp only [Kept.upd_iff]
    | (intro _ _ _)
    | (intro _ _)
    | (split; rename_i heq; have hk := congrArg Prod.snd heq; subst hk)
    | split

theorem Kept.loadEdge {v : Held} {c : Chip} {inp : StrideInputs} (hc : Kept v c) :
    Kept v (Chip.loadEdge c inp) := by
  unfold Machine.Chip.loadEdge
  with_reducible repeat' first
    | assumption
    | (extract_lets +onlyGivenNames y; first | (refine Kept.have_ (v := v) (x := y) ?_ ?_; (on_goal 1 => subst y); (on_goal 2 => (intro hy; clear_value y))) | clear_value y)
    | apply Kept.put
    | apply Kept.setFlag
    | apply Kept.slotEdge
    | apply Kept.linkEdge
    | apply Kept.switchesEdge
    | apply Kept.limitsCopy
    | apply Kept.forN
    | simp only [Kept.upd_iff]
    | (intro _ _ _)
    | (intro _ _)
    | (split; rename_i heq; have hk := congrArg Prod.snd heq; subst hk)
    | split

theorem Kept.modElem {v : Held} {c : Chip} {n : ℕ} {f : Element → Element} (hc : Kept v c) :
    Kept v (Chip.modElem c n f) := by
  unfold Machine.Chip.modElem
  with_reducible repeat' first
    | assumption
    | (extract_lets +onlyGivenNames y; first | (refine Kept.have_ (v := v) (x := y) ?_ ?_; (on_goal 1 => subst y); (on_goal 2 => (intro hy; clear_value y))) | clear_value y)
    | apply Kept.setElem
    | apply Kept.forN
    | simp only [Kept.upd_iff]
    | (intro _ _ _)
    | (intro _ _)
    | (split; rename_i heq; have hk := congrArg Prod.snd heq; subst hk)
    | split

theorem Kept.settlePath {v : Held} {c : Chip} {n : ℕ} {k : ℕ} (hc : Kept v c) :
    Kept v (Chip.settlePath c n k) := by
  unfold Machine.Chip.settlePath
  with_reducible repeat' first
    | assumption
    | (extract_lets +onlyGivenNames y; first | (refine Kept.have_ (v := v) (x := y) ?_ ?_; (on_goal 1 => subst y); (on_goal 2 => (intro hy; clear_value y))) | clear_value y)
    | apply Kept.modElem
    | apply Kept.forN
    | simp only [Kept.upd_iff]
    | (intro _ _ _)
    | (intro _ _)
    | (split; rename_i heq; have hk := congrArg Prod.snd heq; subst hk)
    | split

theorem Kept.showSettling {v : Held} {c : Chip} {n : ℕ} (hc : Kept v c) :
    Kept v (Chip.showSettling c n) := by
  unfold Machine.Chip.showSettling
  with_reducible repeat' first
    | assumption
    | (extract_lets +onlyGivenNames y; first | (refine Kept.have_ (v := v) (x := y) ?_ ?_; (on_goal 1 => subst y); (on_goal 2 => (intro hy; clear_value y))) | clear_value y)
    | apply Kept.setFlag
    | apply Kept.forN
    | simp only [Kept.upd_iff]
    | (intro _ _ _)
    | (intro _ _)
    | (split; rename_i heq; have hk := congrArg Prod.snd heq; subst hk)
    | split

theorem Kept.settleElement {v : Held} {c : Chip} {n : ℕ} (hc : Kept v c) :
    Kept v (Chip.settleElement c n) := by
  unfold Machine.Chip.settleElement
  with_reducible repeat' first
    | assumption
    | (extract_lets +onlyGivenNames y; first | (refine Kept.have_ (v := v) (x := y) ?_ ?_; (on_goal 1 => subst y); (on_goal 2 => (intro hy; clear_value y))) | clear_value y)
    | apply Kept.showSettling
    | apply Kept.settlePath
    | apply Kept.forN
    | simp only [Kept.upd_iff]
    | (intro _ _ _)
    | (intro _ _)
    | (split; rename_i heq; have hk := congrArg Prod.snd heq; subst hk)
    | split

theorem Kept.settlingEnd {v : Held} {n : ℕ} {k : ℕ} {c : Chip} (hc : Kept v c) :
    Kept v (settlingEnd n k c) := by
  unfold Machine.settlingEnd
  with_reducible repeat' first
    | assumption
    | (extract_lets +onlyGivenNames y; first | (refine Kept.have_ (v := v) (x := y) ?_ ?_; (on_goal 1 => subst y); (on_goal 2 => (intro hy; clear_value y))) | clear_value y)
    | apply Kept.showSettling
    | apply Kept.modElem
    | apply Kept.forN
    | simp only [Kept.upd_iff]
    | (intro _ _ _)
    | (intro _ _)
    | (split; rename_i heq; have hk := congrArg Prod.snd heq; subst hk)
    | split

theorem Kept.selectorSwitchHigh {v : Held} {n : ℕ} {c : Chip} (hc : Kept v c) :
    Kept v (selectorSwitchHigh n c) := by
  unfold Machine.selectorSwitchHigh
  with_reducible repeat' first
    | assumption
    | (extract_lets +onlyGivenNames y; first | (refine Kept.have_ (v := v) (x := y) ?_ ?_; (on_goal 1 => subst y); (on_goal 2 => (intro hy; clear_value y))) | clear_value y)
    | apply Kept.setFlag
    | apply Kept.setElem
    | apply Kept.forN
    | simp only [Kept.upd_iff]
    | (intro _ _ _)
    | (intro _ _)
    | (split; rename_i heq; have hk := congrArg Prod.snd heq; subst hk)
    | split

theorem Kept.applyRatio {v : Held} {c : Chip} {n : ℕ} {ratio : ℕ} {offs : ℤ} (hc : Kept v c) :
    Kept v (Chip.applyRatio c n ratio offs) := by
  unfold Machine.Chip.applyRatio
  with_reducible repeat' first
    | assumption
    | (extract_lets +onlyGivenNames y; first | (refine Kept.have_ (v := v) (x := y) ?_ ?_; (on_goal 1 => subst y); (on_goal 2 => (intro hy; clear_value y))) | clear_value y)
    | apply Kept.putS
    | apply Kept.put
    | apply Kept.modElem
    | apply Kept.forN
    | simp only [Kept.upd_iff]
    | (intro _ _ _)
    | (intro _ _)
    | (split; rename_i heq; have hk := congrArg Prod.snd heq; subst hk)
    | split

theorem Kept.ratioApply {v : Held} {n : ℕ} {c : Chip} (hc : Kept v c) :
    Kept v (ratioApply n c) := by
  unfold Machine.ratioApply
  with_reducible repeat' first
    | assumption
    | (extract_lets +onlyGivenNames y; first | (refine Kept.have_ (v := v) (x := y) ?_ ?_; (on_goal 1 => subst y); (on_goal 2 => (intro hy; clear_value y))) | clear_value y)
    | apply Kept.modElem
    | apply Kept.applyRatio
    | apply Kept.raiseEv
    | apply Kept.put64
    | apply Kept.forN
    | simp only [Kept.upd_iff]
    | (intro _ _ _)
    | (intro _ _)
    | (split; rename_i heq; have hk := congrArg Prod.snd heq; subst hk)
    | split

theorem Kept.reversalCheck {v : Held} {c : Chip} {n : ℕ} {r : RegressionSums} (hc : Kept v c) :
    Kept v (Chip.reversalCheck c n r) := by
  unfold Machine.Chip.reversalCheck
  with_reducible repeat' first
    | assumption
    | (extract_lets +onlyGivenNames y; first | (refine Kept.have_ (v := v) (x := y) ?_ ?_; (on_goal 1 => subst y); (on_goal 2 => (intro hy; clear_value y))) | clear_value y)
    | apply Kept.modElem
    | apply Kept.forN
    | simp only [Kept.upd_iff]
    | (intro _ _ _)
    | (intro _ _)
    | (split; rename_i heq; have hk := congrArg Prod.snd heq; subst hk)
    | split

theorem Kept.showStale {v : Held} {c : Chip} {n : Nat} {on : Bool} (hc : Kept v c) :
    Kept v (Chip.showStale c n on) := by
  unfold Machine.Chip.showStale
  with_reducible repeat' first
    | assumption
    | (extract_lets +onlyGivenNames y; first | (refine Kept.have_ (v := v) (x := y) ?_ ?_; (on_goal 1 => subst y); (on_goal 2 => (intro hy; clear_value y))) | clear_value y)
    | apply Kept.setFlag
    | apply Kept.faultIs
    | apply Kept.forN
    | simp only [Kept.upd_iff]
    | (intro _ _ _)
    | (intro _ _)
    | (split; rename_i heq; have hk := congrArg Prod.snd heq; subst hk)
    | split

theorem Kept.showOverrange {v : Held} {c : Chip} {n : Nat} {on : Bool} (hc : Kept v c) :
    Kept v (Chip.showOverrange c n on) := by
  unfold Machine.Chip.showOverrange
  with_reducible repeat' first
    | assumption
    | (extract_lets +onlyGivenNames y; first | (refine Kept.have_ (v := v) (x := y) ?_ ?_; (on_goal 1 => subst y); (on_goal 2 => (intro hy; clear_value y))) | clear_value y)
    | apply Kept.setFlag
    | apply Kept.faultIs
    | apply Kept.forN
    | simp only [Kept.upd_iff]
    | (intro _ _ _)
    | (intro _ _)
    | (split; rename_i heq; have hk := congrArg Prod.snd heq; subst hk)
    | split

theorem Kept.showRatioLimit {v : Held} {c : Chip} {n : Nat} {on : Bool} (hc : Kept v c) :
    Kept v (Chip.showRatioLimit c n on) := by
  unfold Machine.Chip.showRatioLimit
  with_reducible repeat' first
    | assumption
    | (extract_lets +onlyGivenNames y; first | (refine Kept.have_ (v := v) (x := y) ?_ ?_; (on_goal 1 => subst y); (on_goal 2 => (intro hy; clear_value y))) | clear_value y)
    | apply Kept.setFlag
    | apply Kept.faultIs
    | apply Kept.forN
    | simp only [Kept.upd_iff]
    | (intro _ _ _)
    | (intro _ _)
    | (split; rename_i heq; have hk := congrArg Prod.snd heq; subst hk)
    | split

theorem Kept.windowStale {v : Held} {c : Chip} {n : Nat} (hc : Kept v c) :
    Kept v (Chip.windowStale c n) := by
  unfold Machine.Chip.windowStale
  with_reducible repeat' first
    | assumption
    | (extract_lets +onlyGivenNames y; first | (refine Kept.have_ (v := v) (x := y) ?_ ?_; (on_goal 1 => subst y); (on_goal 2 => (intro hy; clear_value y))) | clear_value y)
    | apply Kept.raiseEv
    | apply Kept.modElem
    | apply Kept.showStale
    | apply Kept.forN
    | simp only [Kept.upd_iff]
    | (intro _ _ _)
    | (intro _ _)
    | (split; rename_i heq; have hk := congrArg Prod.snd heq; subst hk)
    | split

theorem Kept.rejectWindow {v : Held} {c : Chip} {n : Nat} {reason : Nat} (hc : Kept v c) :
    Kept v (Chip.rejectWindow c n reason) := by
  unfold Machine.Chip.rejectWindow
  with_reducible repeat' first
    | assumption
    | (extract_lets +onlyGivenNames y; first | (refine Kept.have_ (v := v) (x := y) ?_ ?_; (on_goal 1 => subst y); (on_goal 2 => (intro hy; clear_value y))) | clear_value y)
    | apply Kept.put
    | apply Kept.setFlag
    | apply Kept.raiseEv
    | apply Kept.showRatioLimit
    | apply Kept.windowStale
    | apply Kept.forN
    | simp only [Kept.upd_iff]
    | (intro _ _ _)
    | (intro _ _)
    | (split; rename_i heq; have hk := congrArg Prod.snd heq; subst hk)
    | split

theorem Kept.windowEnd {v : Held} {c : Chip} {n : Nat} (hc : Kept v c) :
    Kept v (Chip.windowEnd c n) := by
  unfold Machine.Chip.windowEnd
  with_reducible repeat' first
    | assumption
    | (extract_lets +onlyGivenNames y; first | (refine Kept.have_ (v := v) (x := y) ?_ ?_; (on_goal 1 => subst y); (on_goal 2 => (intro hy; clear_value y))) | clear_value y)
    | apply Kept.put
    | apply Kept.putS
    | apply Kept.setFlag
    | apply Kept.modElem
    | apply Kept.reversalCheck
    | apply Kept.showStale
    | apply Kept.showRatioLimit
    | apply Kept.rejectWindow
    | apply Kept.forN
    | simp only [Kept.upd_iff]
    | (intro _ _ _)
    | (intro _ _)
    | (split; rename_i heq; have hk := congrArg Prod.snd heq; subst hk)
    | split

theorem Kept.regressionWindowEnd {v : Held} {c : Chip} (hc : Kept v c) :
    Kept v (regressionWindowEnd c) := by
  unfold Machine.regressionWindowEnd
  with_reducible repeat' first
    | assumption
    | (extract_lets +onlyGivenNames y; first | (refine Kept.have_ (v := v) (x := y) ?_ ?_; (on_goal 1 => subst y); (on_goal 2 => (intro hy; clear_value y))) | clear_value y)
    | apply Kept.windowEnd
    | apply Kept.forN
    | simp only [Kept.upd_iff]
    | (intro _ _ _)
    | (intro _ _)
    | (split; rename_i heq; have hk := congrArg Prod.snd heq; subst hk)
    | split

theorem Kept.pathsEdge {v : Held} {c : Chip} {inp : StrideInputs} {n : ℕ} (hc : Kept v c) :
    Kept v (Chip.pathsEdge c inp n) := by
  unfold Machine.Chip.pathsEdge
  with_reducible repeat' first
    | assumption
    | (extract_lets +onlyGivenNames y; first | (refine Kept.have_ (v := v) (x := y) ?_ ?_; (on_goal 1 => subst y); (on_goal 2 => (intro hy; clear_value y))) | clear_value y)
    | apply Kept.modElem
    | apply Kept.forN
    | simp only [Kept.upd_iff]
    | (intro _ _ _)
    | (intro _ _)
    | (split; rename_i heq; have hk := congrArg Prod.snd heq; subst hk)
    | split

theorem Kept.crossCheck {v : Held} {c : Chip} {n : ℕ} {h : ℤ} {l : ℤ} (hc : Kept v c) :
    Kept v (Chip.crossCheck c n h l) := by
  unfold Machine.Chip.crossCheck
  with_reducible repeat' first
    | assumption
    | (extract_lets +onlyGivenNames y; first | (refine Kept.have_ (v := v) (x := y) ?_ ?_; (on_goal 1 => subst y); (on_goal 2 => (intro hy; clear_value y))) | clear_value y)
    | apply Kept.modElem
    | apply Kept.forN
    | simp only [Kept.upd_iff]
    | (intro _ _ _)
    | (intro _ _)
    | (split; rename_i heq; have hk := congrArg Prod.snd heq; subst hk)
    | split

theorem Kept.elementSamples {v : Held} {c : Chip} {n : ℕ} (hc : Kept v c) :
    Kept v (Chip.elementSamples c n) := by
  unfold Machine.Chip.elementSamples
  extract_lets
  split
  extract_lets raw i beyond c1 c2 c3 q c4 window noCurrent
  have h1 : Kept v c1 := by
    dsimp only [c1]
    split
    · split
      · exact Kept.raiseEv (Kept.inc hc)
      · exact hc
    · exact hc
  have h2 : Kept v c2 := by
    dsimp only [c2]
    split
    · exact h1
    · exact Kept.inc h1
  have h3 : Kept v c3 := by
    dsimp only [c3]
    exact Kept.showOverrange (Kept.setFlag h2)
  have h4 : Kept v c4 := by
    dsimp only [c4]
    split
    · exact Kept.crossCheck h3
    · exact h3
  exact Kept.modElem (Kept.faultIs (Kept.faultIs h4))

theorem Kept.elementIdle {v : Held} {c : Chip} {n : Nat} (hc : Kept v c) :
    Kept v (Chip.elementIdle c n) := by
  unfold Machine.Chip.elementIdle
  with_reducible repeat' first
    | assumption
    | (extract_lets +onlyGivenNames y; first | (refine Kept.have_ (v := v) (x := y) ?_ ?_; (on_goal 1 => subst y); (on_goal 2 => (intro hy; clear_value y))) | clear_value y)
    | apply Kept.setElem
    | apply Kept.clearFault
    | apply Kept.showOverrange
    | apply Kept.forN
    | simp only [Kept.upd_iff]
    | apply Kept.foldl
    | apply Kept.foldl_pair
    | (intro _ _ _)
    | (intro _ _)
    | (split; rename_i heq; have hk := congrArg Prod.snd heq; subst hk)
    | split

theorem Kept.showHealth {v : Held} {c : Chip} {n : ℕ} (hc : Kept v c) :
    Kept v (Chip.showHealth c n) := by
  unfold Machine.Chip.showHealth
  with_reducible repeat' first
    | assumption
    | (extract_lets +onlyGivenNames y; first | (refine Kept.have_ (v := v) (x := y) ?_ ?_; (on_goal 1 => subst y); (on_goal 2 => (intro hy; clear_value y))) | clear_value y)
    | apply Kept.setRaw
    | apply Kept.setFlag
    | apply Kept.forN
    | simp only [Kept.upd_iff]
    | (intro _ _ _)
    | (intro _ _)
    | (split; rename_i heq; have hk := congrArg Prod.snd heq; subst hk)
    | split

theorem Kept.clockHealth {v : Held} {c : Chip} {n : Nat} {bad : Bool} (hc : Kept v c) (hr : v.mram = none) :
    Kept v (Chip.clockHealth c n bad) := by
  unfold Machine.Chip.clockHealth
  with_reducible repeat' first
    | assumption
    | (extract_lets +onlyGivenNames y; first | (refine Kept.have_ (v := v) (x := y) ?_ ?_; (on_goal 1 => subst y); (on_goal 2 => (intro hy; clear_value y))) | clear_value y)
    | apply Kept.raiseEv
    | apply Kept.faultIs
    | apply Kept.logFault
    | apply Kept.showHealth
    | apply Kept.forN
    | simp only [Kept.upd_iff]
    | (intro _ _ _)
    | (intro _ _)
    | (split; rename_i heq; have hk := congrArg Prod.snd heq; subst hk)
    | split

theorem Kept.frontEndEdge {v : Held} {c : Chip} {inp : StrideInputs} {n : Nat} (hc : Kept v c) (hr : v.mram = none) :
    Kept v (Chip.frontEndEdge c inp n) := by
  unfold Machine.Chip.frontEndEdge
  with_reducible repeat' first
    | assumption
    | (extract_lets +onlyGivenNames y; first | (refine Kept.have_ (v := v) (x := y) ?_ ?_; (on_goal 1 => subst y); (on_goal 2 => (intro hy; clear_value y))) | clear_value y)
    | apply Kept.pathsEdge
    | apply Kept.elementSamples
    | apply Kept.elementIdle
    | apply Kept.clockHealth
    | apply Kept.forN
    | simp only [Kept.upd_iff]
    | (intro _ _ _)
    | (intro _ _)
    | (split; rename_i heq; have hk := congrArg Prod.snd heq; subst hk)
    | split

theorem Kept.elementEnabled {v : Held} {c : Chip} {n : ℕ} (hc : Kept v c) :
    Kept v (Chip.elementEnabled c n) := by
  unfold Machine.Chip.elementEnabled
  with_reducible repeat' first
    | assumption
    | (extract_lets +onlyGivenNames y; first | (refine Kept.have_ (v := v) (x := y) ?_ ?_; (on_goal 1 => subst y); (on_goal 2 => (intro hy; clear_value y))) | clear_value y)
    | apply Kept.modElem
    | apply Kept.settleElement
    | apply Kept.setFlag
    | apply Kept.forN
    | simp only [Kept.upd_iff]
    | (intro _ _ _)
    | (intro _ _)
    | (split; rename_i heq; have hk := congrArg Prod.snd heq; subst hk)
    | split

theorem Kept.clockGroups {v : Held} {c : Chip} {running : Bool} (hc : Kept v c) :
    Kept v (Chip.clockGroups c running) := by
  unfold Machine.Chip.clockGroups
  with_reducible repeat' first
    | assumption
    | (extract_lets +onlyGivenNames y; first | (refine Kept.have_ (v := v) (x := y) ?_ ?_; (on_goal 1 => subst y); (on_goal 2 => (intro hy; clear_value y))) | clear_value y)
    | apply Kept.setFlag
    | apply Kept.settleElement
    | apply Kept.raiseEv
    | apply Kept.forN
    | simp only [Kept.upd_iff]
    | (intro _ _ _)
    | (intro _ _)
    | (split; rename_i heq; have hk := congrArg Prod.snd heq; subst hk)
    | split

end Sys2Proof.Machine
end

