-- ==== Sys2Proof/Laws/Kept4.lean ====
section
/-! SUPPORT. What the operations of Port, Metrology, Quality keep. -/

set_option linter.unusedTactic false
set_option linter.unreachableTactic false
set_option linter.unusedSimpArgs false
set_option linter.unusedVariables false

namespace Sys2Proof.Machine

theorem Kept.setPort {v : Held} {c : Chip} {n : ℕ} {f : Port → Port} (hc : Kept v c) :
    Kept v (Chip.setPort c n f) := by
  unfold Machine.Chip.setPort
  with_reducible repeat' first
    | assumption
    | (extract_lets +onlyGivenNames y; first | (refine Kept.have_ (v := v) (x := y) ?_ ?_; (on_goal 1 => subst y); (on_goal 2 => (intro hy; clear_value y))) | clear_value y)
    | apply Kept.forN
    | simp only [Kept.upd_iff]
    | (intro _ _ _)
    | (intro _ _)
    | (split; rename_i heq; have hk := congrArg Prod.snd heq; subst hk)
    | split

theorem Kept.noteOutput {v : Held} {c : Chip} {n : ℕ} (hc : Kept v c) :
    Kept v (Chip.noteOutput c n) := by
  unfold Machine.Chip.noteOutput
  with_reducible repeat' first
    | assumption
    | (extract_lets +onlyGivenNames y; first | (refine Kept.have_ (v := v) (x := y) ?_ ?_; (on_goal 1 => subst y); (on_goal 2 => (intro hy; clear_value y))) | clear_value y)
    | apply Kept.setPort
    | apply Kept.forN
    | simp only [Kept.upd_iff]
    | (intro _ _ _)
    | (intro _ _)
    | (split; rename_i heq; have hk := congrArg Prod.snd heq; subst hk)
    | split

theorem Kept.showLimit {v : Held} {c : Chip} {n : ℕ} (hc : Kept v c) :
    Kept v (Chip.showLimit c n) := by
  unfold Machine.Chip.showLimit
  with_reducible repeat' first
    | assumption
    | (extract_lets +onlyGivenNames y; first | (refine Kept.have_ (v := v) (x := y) ?_ ?_; (on_goal 1 => subst y); (on_goal 2 => (intro hy; clear_value y))) | clear_value y)
    | apply Kept.put
    | apply Kept.forN
    | simp only [Kept.upd_iff]
    | (intro _ _ _)
    | (intro _ _)
    | (split; rename_i heq; have hk := congrArg Prod.snd heq; subst hk)
    | split

theorem Kept.pwmWrite {v : Held} {acc : Access} {n : ℕ} {x2 : ℕ} {c : Chip} (hc : Kept v c) :
    Kept v (pwmWrite acc n x2 c) := by
  unfold Machine.pwmWrite
  with_reducible repeat' first
    | assumption
    | (extract_lets +onlyGivenNames y; first | (refine Kept.have_ (v := v) (x := y) ?_ ?_; (on_goal 1 => subst y); (on_goal 2 => (intro hy; clear_value y))) | clear_value y)
    | apply Kept.writeUnit
    | apply Kept.put
    | apply Kept.forN
    | simp only [Kept.upd_iff]
    | (intro _ _ _)
    | (intro _ _)
    | (split; rename_i heq; have hk := congrArg Prod.snd heq; subst hk)
    | split

theorem Kept.pwmPeriodStart {v : Held} {n : ℕ} {c : Chip} (hc : Kept v c) :
    Kept v (pwmPeriodStart n c) := by
  unfold Machine.pwmPeriodStart
  with_reducible repeat' first
    | assumption
    | (extract_lets +onlyGivenNames y; first | (refine Kept.have_ (v := v) (x := y) ?_ ?_; (on_goal 1 => subst y); (on_goal 2 => (intro hy; clear_value y))) | clear_value y)
    | apply Kept.raiseEv
    | apply Kept.noteOutput
    | apply Kept.setFlag
    | apply Kept.put
    | apply Kept.forN
    | simp only [Kept.upd_iff]
    | (intro _ _ _)
    | (intro _ _)
    | (split; rename_i heq; have hk := congrArg Prod.snd heq; subst hk)
    | split

theorem Kept.notePorts {v : Held} {c : Chip} (hc : Kept v c) :
    Kept v (Chip.notePorts c) := by
  unfold Machine.Chip.notePorts
  with_reducible repeat' first
    | assumption
    | (extract_lets +onlyGivenNames y; first | (refine Kept.have_ (v := v) (x := y) ?_ ?_; (on_goal 1 => subst y); (on_goal 2 => (intro hy; clear_value y))) | clear_value y)
    | apply Kept.forN
    | simp only [Kept.upd_iff]
    | (intro _ _ _)
    | (intro _ _)
    | (split; rename_i heq; have hk := congrArg Prod.snd heq; subst hk)
    | split

theorem Kept.startWeld {v : Held} {c : Chip} {n : ℕ} (hc : Kept v c) :
    Kept v (Chip.startWeld c n) := by
  unfold Machine.Chip.startWeld
  with_reducible repeat' first
    | assumption
    | (extract_lets +onlyGivenNames y; first | (refine Kept.have_ (v := v) (x := y) ?_ ?_; (on_goal 1 => subst y); (on_goal 2 => (intro hy; clear_value y))) | clear_value y)
    | apply Kept.forN
    | simp only [Kept.upd_iff]
    | (intro _ _ _)
    | (intro _ _)
    | (split; rename_i heq; have hk := congrArg Prod.snd heq; subst hk)
    | split

theorem Kept.settleContactor {v : Held} {c : Chip} {x1 : Fld} {ch : Fld} (hc : Kept v c) :
    Kept v (Chip.settleContactor c x1 ch) := by
  unfold Machine.Chip.settleContactor
  with_reducible repeat' first
    | assumption
    | (extract_lets +onlyGivenNames y; first | (refine Kept.have_ (v := v) (x := y) ?_ ?_; (on_goal 1 => subst y); (on_goal 2 => (intro hy; clear_value y))) | clear_value y)
    | apply Kept.settleChannel
    | apply Kept.forN
    | simp only [Kept.upd_iff]
    | (intro _ _ _)
    | (intro _ _)
    | (split; rename_i heq; have hk := congrArg Prod.snd heq; subst hk)
    | split

theorem Kept.settleContactors {v : Held} {c : Chip} {n : ℕ} (hc : Kept v c) :
    Kept v (Chip.settleContactors c n) := by
  unfold Machine.Chip.settleContactors
  with_reducible repeat' first
    | assumption
    | (extract_lets +onlyGivenNames y; first | (refine Kept.have_ (v := v) (x := y) ?_ ?_; (on_goal 1 => subst y); (on_goal 2 => (intro hy; clear_value y))) | clear_value y)
    | apply Kept.settleContactor
    | apply Kept.forN
    | simp only [Kept.upd_iff]
    | (intro _ _ _)
    | (intro _ _)
    | (split; rename_i heq; have hk := congrArg Prod.snd heq; subst hk)
    | split

theorem Kept.settlePort {v : Held} {c : Chip} {n : ℕ} (hc : Kept v c) :
    Kept v (Chip.settlePort c n) := by
  unfold Machine.Chip.settlePort
  with_reducible repeat' first
    | assumption
    | (extract_lets +onlyGivenNames y; first | (refine Kept.have_ (v := v) (x := y) ?_ ?_; (on_goal 1 => subst y); (on_goal 2 => (intro hy; clear_value y))) | clear_value y)
    | apply Kept.put
    | apply Kept.setFlag
    | apply Kept.raiseEv
    | apply Kept.showLimit
    | apply Kept.startWeld
    | apply Kept.settleContactors
    | apply Kept.notePorts
    | apply Kept.noteOutput
    | apply Kept.forN
    | simp only [Kept.upd_iff]
    | (intro _ _ _)
    | (intro _ _)
    | (split; rename_i heq; have hk := congrArg Prod.snd heq; subst hk)
    | split

theorem Kept.noteCauses {v : Held} {c : Chip} {n : ℕ} {causes : ℕ} (hc : Kept v c) :
    Kept v (Chip.noteCauses c n causes) := by
  unfold Machine.Chip.noteCauses
  with_reducible repeat' first
    | assumption
    | (extract_lets +onlyGivenNames y; first | (refine Kept.have_ (v := v) (x := y) ?_ ?_; (on_goal 1 => subst y); (on_goal 2 => (intro hy; clear_value y))) | clear_value y)
    | apply Kept.setPort
    | apply Kept.forN
    | simp only [Kept.upd_iff]
    | (intro _ _ _)
    | (intro _ _)
    | (split; rename_i heq; have hk := congrArg Prod.snd heq; subst hk)
    | split

theorem Kept.noteStop {v : Held} {c : Chip} {n : Nat} {causes : Nat} (hc : Kept v c) :
    Kept v (Chip.noteStop c n causes) := by
  unfold Machine.Chip.noteStop
  with_reducible repeat' first
    | assumption
    | (extract_lets +onlyGivenNames y; first | (refine Kept.have_ (v := v) (x := y) ?_ ?_; (on_goal 1 => subst y); (on_goal 2 => (intro hy; clear_value y))) | clear_value y)
    | apply Kept.forN
    | simp only [Kept.upd_iff]
    | (intro _ _ _)
    | (intro _ _)
    | (split; rename_i heq; have hk := congrArg Prod.snd heq; subst hk)
    | split

theorem Kept.dropPort {v : Held} {c : Chip} {n : ℕ} {causes : ℕ} (hc : Kept v c) :
    Kept v (Chip.dropPort c n causes) := by
  unfold Machine.Chip.dropPort
  with_reducible repeat' first
    | assumption
    | (extract_lets +onlyGivenNames y; first | (refine Kept.have_ (v := v) (x := y) ?_ ?_; (on_goal 1 => subst y); (on_goal 2 => (intro hy; clear_value y))) | clear_value y)
    | apply Kept.settlePort
    | apply Kept.put
    | apply Kept.setFlag
    | apply Kept.put64
    | apply Kept.setPort
    | apply Kept.canStop
    | apply Kept.raiseEv
    | apply Kept.forN
    | simp only [Kept.upd_iff]
    | (intro _ _ _)
    | (intro _ _)
    | (split; rename_i heq; have hk := congrArg Prod.snd heq; subst hk)
    | split

theorem Kept.checkDrop {v : Held} {c : Chip} {n : Nat} (hc : Kept v c) :
    Kept v (Chip.checkDrop c n) := by
  unfold Machine.Chip.checkDrop
  with_reducible repeat' first
    | assumption
    | (extract_lets +onlyGivenNames y; first | (refine Kept.have_ (v := v) (x := y) ?_ ?_; (on_goal 1 => subst y); (on_goal 2 => (intro hy; clear_value y))) | clear_value y)
    | apply Kept.settlePort
    | apply Kept.noteStop
    | apply Kept.dropPort
    | apply Kept.forN
    | simp only [Kept.upd_iff]
    | (intro _ _ _)
    | (intro _ _)
    | (split; rename_i heq; have hk := congrArg Prod.snd heq; subst hk)
    | split

theorem Kept.clearDrop {v : Held} {c : Chip} {n : ℕ} (hc : Kept v c) :
    Kept v (Chip.clearDrop c n) := by
  unfold Machine.Chip.clearDrop
  with_reducible repeat' first
    | assumption
    | (extract_lets +onlyGivenNames y; first | (refine Kept.have_ (v := v) (x := y) ?_ ?_; (on_goal 1 => subst y); (on_goal 2 => (intro hy; clear_value y))) | clear_value y)
    | apply Kept.put
    | apply Kept.setFlag
    | apply Kept.settlePort
    | apply Kept.raiseEv
    | apply Kept.forN
    | simp only [Kept.upd_iff]
    | (intro _ _ _)
    | (intro _ _)
    | (split; rename_i heq; have hk := congrArg Prod.snd heq; subst hk)
    | split

theorem Kept.portDropCmd {v : Held} {acc : Access} {n : ℕ} {c : Chip} (hc : Kept v c) :
    Kept v (portDropCmd acc n c) := by
  unfold Machine.portDropCmd
  with_reducible repeat' first
    | assumption
    | (extract_lets +onlyGivenNames y; first | (refine Kept.have_ (v := v) (x := y) ?_ ?_; (on_goal 1 => subst y); (on_goal 2 => (intro hy; clear_value y))) | clear_value y)
    | apply Kept.writeUnit
    | apply Kept.noteCauses
    | apply Kept.forN
    | simp only [Kept.upd_iff]
    | (intro _ _ _)
    | (intro _ _)
    | (split; rename_i heq; have hk := congrArg Prod.snd heq; subst hk)
    | split

theorem Kept.portRearm {v : Held} {acc : Access} {n : ℕ} {c : Chip} (hc : Kept v c) :
    Kept v (portRearm acc n c) := by
  unfold Machine.portRearm
  with_reducible repeat' first
    | assumption
    | (extract_lets +onlyGivenNames y; first | (refine Kept.have_ (v := v) (x := y) ?_ ?_; (on_goal 1 => subst y); (on_goal 2 => (intro hy; clear_value y))) | clear_value y)
    | apply Kept.writeUnit
    | apply Kept.setPort
    | apply Kept.setFlag
    | apply Kept.forN
    | simp only [Kept.upd_iff]
    | (intro _ _ _)
    | (intro _ _)
    | (split; rename_i heq; have hk := congrArg Prod.snd heq; subst hk)
    | split

theorem Kept.portAutoRearm {v : Held} {n : ℕ} {c : Chip} (hc : Kept v c) :
    Kept v (portAutoRearm n c) := by
  unfold Machine.portAutoRearm
  with_reducible repeat' first
    | assumption
    | (extract_lets +onlyGivenNames y; first | (refine Kept.have_ (v := v) (x := y) ?_ ?_; (on_goal 1 => subst y); (on_goal 2 => (intro hy; clear_value y))) | clear_value y)
    | apply Kept.clearDrop
    | apply Kept.forN
    | simp only [Kept.upd_iff]
    | (intro _ _ _)
    | (intro _ _)
    | (split; rename_i heq; have hk := congrArg Prod.snd heq; subst hk)
    | split

theorem Kept.setCable {v : Held} {c : Chip} {n : ℕ} {x2 : ℕ} (hc : Kept v c) :
    Kept v (Chip.setCable c n x2) := by
  unfold Machine.Chip.setCable
  with_reducible repeat' first
    | assumption
    | (extract_lets +onlyGivenNames y; first | (refine Kept.have_ (v := v) (x := y) ?_ ?_; (on_goal 1 => subst y); (on_goal 2 => (intro hy; clear_value y))) | clear_value y)
    | apply Kept.showLimit
    | apply Kept.raiseEv
    | apply Kept.put
    | apply Kept.forN
    | simp only [Kept.upd_iff]
    | (intro _ _ _)
    | (intro _ _)
    | (split; rename_i heq; have hk := congrArg Prod.snd heq; subst hk)
    | split

theorem Kept.proximityAccept {v : Held} {n : ℕ} {c : Chip} (hc : Kept v c) :
    Kept v (proximityAccept n c) := by
  unfold Machine.proximityAccept
  with_reducible repeat' first
    | assumption
    | (extract_lets +onlyGivenNames y; first | (refine Kept.have_ (v := v) (x := y) ?_ ?_; (on_goal 1 => subst y); (on_goal 2 => (intro hy; clear_value y))) | clear_value y)
    | apply Kept.setPort
    | apply Kept.setCable
    | apply Kept.setFlag
    | apply Kept.checkDrop
    | apply Kept.forN
    | simp only [Kept.upd_iff]
    | (intro _ _ _)
    | (intro _ _)
    | (split; rename_i heq; have hk := congrArg Prod.snd heq; subst hk)
    | split

theorem Kept.lockDebounce {v : Held} {n : ℕ} {c : Chip} (hc : Kept v c) :
    Kept v (lockDebounce n c) := by
  unfold Machine.lockDebounce
  with_reducible repeat' first
    | assumption
    | (extract_lets +onlyGivenNames y; first | (refine Kept.have_ (v := v) (x := y) ?_ ?_; (on_goal 1 => subst y); (on_goal 2 => (intro hy; clear_value y))) | clear_value y)
    | apply Kept.setPort
    | apply Kept.setFlag
    | apply Kept.checkDrop
    | apply Kept.forN
    | simp only [Kept.upd_iff]
    | (intro _ _ _)
    | (intro _ _)
    | (split; rename_i heq; have hk := congrArg Prod.snd heq; subst hk)
    | split

theorem Kept.rearmEdge {v : Held} {c : Chip} {n : Nat} (hc : Kept v c) :
    Kept v (Chip.rearmEdge c n) := by
  unfold Machine.Chip.rearmEdge
  with_reducible repeat' first
    | assumption
    | (extract_lets +onlyGivenNames y; first | (refine Kept.have_ (v := v) (x := y) ?_ ?_; (on_goal 1 => subst y); (on_goal 2 => (intro hy; clear_value y))) | clear_value y)
    | apply Kept.setFlag
    | apply Kept.setPort
    | apply Kept.clearDrop
    | apply Kept.proximityAccept
    | apply Kept.lockDebounce
    | apply Kept.forN
    | simp only [Kept.upd_iff]
    | (intro _ _ _)
    | (intro _ _)
    | (split; rename_i heq; have hk := congrArg Prod.snd heq; subst hk)
    | split

theorem Kept.heldRearm {v : Held} {c : Chip} {n : Nat} (hc : Kept v c) :
    Kept v (Chip.heldRearm c n) := by
  unfold Machine.Chip.heldRearm
  with_reducible repeat' first
    | assumption
    | (extract_lets +onlyGivenNames y; first | (refine Kept.have_ (v := v) (x := y) ?_ ?_; (on_goal 1 => subst y); (on_goal 2 => (intro hy; clear_value y))) | clear_value y)
    | apply Kept.setFlag
    | apply Kept.setPort
    | apply Kept.clearDrop
    | apply Kept.forN
    | simp only [Kept.upd_iff]
    | (intro _ _ _)
    | (intro _ _)
    | (split; rename_i heq; have hk := congrArg Prod.snd heq; subst hk)
    | split

theorem Kept.convertTemp {v : Held} {c : Chip} {n : Nat} {r : Nat} (hc : Kept v c) :
    Kept v (Chip.convertTemp c n r) := by
  unfold Machine.Chip.convertTemp
  with_reducible repeat' first
    | assumption
    | (extract_lets +onlyGivenNames y; first | (refine Kept.have_ (v := v) (x := y) ?_ ?_; (on_goal 1 => subst y); (on_goal 2 => (intro hy; clear_value y))) | clear_value y)
    | apply Kept.put
    | apply Kept.putS
    | apply Kept.setFlag
    | apply Kept.raiseEv
    | apply Kept.setPort
    | apply Kept.notePorts
    | apply Kept.checkDrop
    | apply Kept.forN
    | simp only [Kept.upd_iff]
    | (intro _ _ _)
    | (intro _ _)
    | (split; rename_i heq; have hk := congrArg Prod.snd heq; subst hk)
    | split

theorem Kept.cableTempConvert {v : Held} {n : Nat} {r : Nat} {c : Chip} (hc : Kept v c) :
    Kept v (cableTempConvert n r c) := by
  unfold Machine.cableTempConvert
  with_reducible repeat' first
    | assumption
    | (extract_lets +onlyGivenNames y; first | (refine Kept.have_ (v := v) (x := y) ?_ ?_; (on_goal 1 => subst y); (on_goal 2 => (intro hy; clear_value y))) | clear_value y)
    | apply Kept.heldRearm
    | apply Kept.convertTemp
    | apply Kept.forN
    | simp only [Kept.upd_iff]
    | (intro _ _ _)
    | (intro _ _)
    | (split; rename_i heq; have hk := congrArg Prod.snd heq; subst hk)
    | split

theorem Kept.pilotStateAccept {v : Held} {n : ℕ} {c : Chip} (hc : Kept v c) :
    Kept v (pilotStateAccept n c) := by
  unfold Machine.pilotStateAccept
  with_reducible repeat' first
    | assumption
    | (extract_lets +onlyGivenNames y; first | (refine Kept.have_ (v := v) (x := y) ?_ ?_; (on_goal 1 => subst y); (on_goal 2 => (intro hy; clear_value y))) | clear_value y)
    | apply Kept.lockDebounce
    | apply Kept.proximityAccept
    | apply Kept.setPort
    | apply Kept.checkDrop
    | apply Kept.setFlag
    | apply Kept.raiseEv
    | apply Kept.forN
    | simp only [Kept.upd_iff]
    | (intro _ _ _)
    | (intro _ _)
    | (split; rename_i heq; have hk := congrArg Prod.snd heq; subst hk)
    | split

theorem Kept.slacSound {v : Held} {c : Chip} {n : Nat} {att : List Nat} (hc : Kept v c) :
    Kept v (Chip.slacSound c n att) := by
  unfold Machine.Chip.slacSound
  with_reducible repeat' first
    | assumption
    | (extract_lets +onlyGivenNames y; first | (refine Kept.have_ (v := v) (x := y) ?_ ?_; (on_goal 1 => subst y); (on_goal 2 => (intro hy; clear_value y))) | clear_value y)
    | apply Kept.put
    | apply Kept.take
    | apply Kept.setPort
    | apply Kept.forN
    | simp only [Kept.upd_iff]
    | (intro _ _ _)
    | (intro _ _)
    | (split; rename_i heq; have hk := congrArg Prod.snd heq; subst hk)
    | split

theorem Kept.portFrameReceive {v : Held} {n : ℕ} {bytes : List ℕ} {att : List ℕ} {cyc : ℕ} {c : Chip} (hc : Kept v c) (hm : v.mem = none) :
    Kept v (portFrameReceive n bytes att cyc c) := by
  unfold Machine.portFrameReceive
  with_reducible repeat' first
    | assumption
    | (extract_lets +onlyGivenNames y; first | (refine Kept.have_ (v := v) (x := y) ?_ ?_; (on_goal 1 => subst y); (on_goal 2 => (intro hy; clear_value y))) | clear_value y)
    | apply Kept.slacSound
    | apply Kept.advanceTo
    | apply Kept.raiseEv
    | apply Kept.incSat
    | apply Kept.setBytes
    | apply Kept.setRaw
    | apply Kept.put
    | apply Kept.forN
    | simp only [Kept.upd_iff]
    | (intro _ _ _)
    | (intro _ _)
    | (split; rename_i heq; have hk := congrArg Prod.snd heq; subst hk)
    | split

theorem Kept.portTxTailWrite {v : Held} {acc : Access} {n : ℕ} {x2 : ℕ} {c : Chip} (hc : Kept v c) :
    Kept v (portTxTailWrite acc n x2 c) := by
  unfold Machine.portTxTailWrite
  with_reducible repeat' first
    | assumption
    | (extract_lets +onlyGivenNames y; first | (refine Kept.have_ (v := v) (x := y) ?_ ?_; (on_goal 1 => subst y); (on_goal 2 => (intro hy; clear_value y))) | clear_value y)
    | apply Kept.writeUnit
    | apply Kept.put
    | apply Kept.forN
    | simp only [Kept.upd_iff]
    | (intro _ _ _)
    | (intro _ _)
    | (split; rename_i heq; have hk := congrArg Prod.snd heq; subst hk)
    | split

theorem Kept.portFrameSent {v : Held} {n : ℕ} {error : Bool} {cyc : ℕ} {c : Chip} (hc : Kept v c) (hm : v.mem = none) :
    Kept v (portFrameSent n error cyc c) := by
  unfold Machine.portFrameSent
  with_reducible repeat' first
    | assumption
    | (extract_lets +onlyGivenNames y; first | (refine Kept.have_ (v := v) (x := y) ?_ ?_; (on_goal 1 => subst y); (on_goal 2 => (intro hy; clear_value y))) | clear_value y)
    | apply Kept.advanceTo
    | apply Kept.setBytes
    | apply Kept.raiseEv
    | apply Kept.put
    | apply Kept.forN
    | simp only [Kept.upd_iff]
    | (intro _ _ _)
    | (intro _ _)
    | (split; rename_i heq; have hk := congrArg Prod.snd heq; subst hk)
    | split

theorem Kept.portPhyLinkChange {v : Held} {n : ℕ} {up : Bool} {c : Chip} (hc : Kept v c) :
    Kept v (portPhyLinkChange n up c) := by
  unfold Machine.portPhyLinkChange
  with_reducible repeat' first
    | assumption
    | (extract_lets +onlyGivenNames y; first | (refine Kept.have_ (v := v) (x := y) ?_ ?_; (on_goal 1 => subst y); (on_goal 2 => (intro hy; clear_value y))) | clear_value y)
    | apply Kept.raiseEv
    | apply Kept.setFlag
    | apply Kept.forN
    | simp only [Kept.upd_iff]
    | (intro _ _ _)
    | (intro _ _)
    | (split; rename_i heq; have hk := congrArg Prod.snd heq; subst hk)
    | split

theorem Kept.optCtrlWritten {v : Held} {c : Chip} {n : ℕ} {wasEn : Bool} (hc : Kept v c) :
    Kept v (Chip.optCtrlWritten c n wasEn) := by
  unfold Machine.Chip.optCtrlWritten
  with_reducible repeat' first
    | assumption
    | (extract_lets +onlyGivenNames y; first | (refine Kept.have_ (v := v) (x := y) ?_ ?_; (on_goal 1 => subst y); (on_goal 2 => (intro hy; clear_value y))) | clear_value y)
    | apply Kept.setFlag
    | apply Kept.setPort
    | apply Kept.settlePort
    | apply Kept.forN
    | simp only [Kept.upd_iff]
    | (intro _ _ _)
    | (intro _ _)
    | (split; rename_i heq; have hk := congrArg Prod.snd heq; subst hk)
    | split

theorem Kept.optCfgWritten {v : Held} {c : Chip} {n : ℕ} {x2 : ℕ} {oldComm : ℕ} (hc : Kept v c) :
    Kept v (Chip.optCfgWritten c n x2 oldComm) := by
  unfold Machine.Chip.optCfgWritten
  with_reducible repeat' first
    | assumption
    | (extract_lets +onlyGivenNames y; first | (refine Kept.have_ (v := v) (x := y) ?_ ?_; (on_goal 1 => subst y); (on_goal 2 => (intro hy; clear_value y))) | clear_value y)
    | apply Kept.setFlag
    | apply Kept.setPort
    | apply Kept.raiseEv
    | apply Kept.setCable
    | apply Kept.checkCoilMap
    | apply Kept.settleLoad
    | apply Kept.settlePort
    | apply Kept.forN
    | simp only [Kept.upd_iff]
    | (intro _ _ _)
    | (intro _ _)
    | (split; rename_i heq; have hk := congrArg Prod.snd heq; subst hk)
    | split

theorem Kept.optRxTailWritten {v : Held} {c : Chip} {n : ℕ} (hc : Kept v c) :
    Kept v (Chip.optRxTailWritten c n) := by
  unfold Machine.Chip.optRxTailWritten
  with_reducible repeat' first
    | assumption
    | (extract_lets +onlyGivenNames y; first | (refine Kept.have_ (v := v) (x := y) ?_ ?_; (on_goal 1 => subst y); (on_goal 2 => (intro hy; clear_value y))) | clear_value y)
    | apply Kept.setRaw
    | apply Kept.forN
    | simp only [Kept.upd_iff]
    | (intro _ _ _)
    | (intro _ _)
    | (split; rename_i heq; have hk := congrArg Prod.snd heq; subst hk)
    | split

theorem Kept.pilotSample {v : Held} {c : Chip} {inp : StrideInputs} {n : ℕ} (hc : Kept v c) :
    Kept v (Chip.pilotSample c inp n) := by
  unfold Machine.Chip.pilotSample
  with_reducible repeat' first
    | assumption
    | (extract_lets +onlyGivenNames y; first | (refine Kept.have_ (v := v) (x := y) ?_ ?_; (on_goal 1 => subst y); (on_goal 2 => (intro hy; clear_value y))) | clear_value y)
    | apply Kept.putS
    | apply Kept.setPort
    | apply Kept.forN
    | simp only [Kept.upd_iff]
    | (intro _ _ _)
    | (intro _ _)
    | (split; rename_i heq; have hk := congrArg Prod.snd heq; subst hk)
    | split

theorem Kept.inputSample {v : Held} {c : Chip} {inp : StrideInputs} {n : ℕ} (hc : Kept v c) :
    Kept v (Chip.inputSample c inp n) := by
  unfold Machine.Chip.inputSample
  with_reducible repeat' first
    | assumption
    | (extract_lets +onlyGivenNames y; first | (refine Kept.have_ (v := v) (x := y) ?_ ?_; (on_goal 1 => subst y); (on_goal 2 => (intro hy; clear_value y))) | clear_value y)
    | apply Kept.put
    | apply Kept.setPort
    | apply Kept.forN
    | simp only [Kept.upd_iff]
    | (intro _ _ _)
    | (intro _ _)
    | (split; rename_i heq; have hk := congrArg Prod.snd heq; subst hk)
    | split

theorem Kept.portSample {v : Held} {c : Chip} {inp : StrideInputs} {n : Nat} (hc : Kept v c) :
    Kept v (Chip.portSample c inp n) := by
  unfold Machine.Chip.portSample
  with_reducible repeat' first
    | assumption
    | (extract_lets +onlyGivenNames y; first | (refine Kept.have_ (v := v) (x := y) ?_ ?_; (on_goal 1 => subst y); (on_goal 2 => (intro hy; clear_value y))) | clear_value y)
    | apply Kept.setPort
    | apply Kept.pilotSample
    | apply Kept.inputSample
    | apply Kept.forN
    | simp only [Kept.upd_iff]
    | (intro _ _ _)
    | (intro _ _)
    | (split; rename_i heq; have hk := congrArg Prod.snd heq; subst hk)
    | split

theorem Kept.portsSample {v : Held} {c : Chip} {inp : StrideInputs} (hc : Kept v c) :
    Kept v (Chip.portsSample c inp) := by
  unfold Machine.Chip.portsSample
  with_reducible repeat' first
    | assumption
    | (extract_lets +onlyGivenNames y; first | (refine Kept.have_ (v := v) (x := y) ?_ ?_; (on_goal 1 => subst y); (on_goal 2 => (intro hy; clear_value y))) | clear_value y)
    | apply Kept.portSample
    | apply Kept.forN
    | simp only [Kept.upd_iff]
    | (intro _ _ _)
    | (intro _ _)
    | (split; rename_i heq; have hk := congrArg Prod.snd heq; subst hk)
    | split

theorem Kept.portEdge {v : Held} {c : Chip} {n : Nat} (hc : Kept v c) :
    Kept v (Chip.portEdge c n) := by
  unfold Machine.Chip.portEdge
  with_reducible repeat' first
    | assumption
    | (extract_lets +onlyGivenNames y; first | (refine Kept.have_ (v := v) (x := y) ?_ ?_; (on_goal 1 => subst y); (on_goal 2 => (intro hy; clear_value y))) | clear_value y)
    | apply Kept.setPort
    | apply Kept.settlePort
    | apply Kept.noteStop
    | apply Kept.dropPort
    | apply Kept.rearmEdge
    | apply Kept.forN
    | simp only [Kept.upd_iff]
    | (intro _ _ _)
    | (intro _ _)
    | (split; rename_i heq; have hk := congrArg Prod.snd heq; subst hk)
    | split

theorem Kept.portsEdge {v : Held} {c : Chip} (hc : Kept v c) :
    Kept v (Chip.portsEdge c) := by
  unfold Machine.Chip.portsEdge
  with_reducible repeat' first
    | assumption
    | (extract_lets +onlyGivenNames y; first | (refine Kept.have_ (v := v) (x := y) ?_ ?_; (on_goal 1 => subst y); (on_goal 2 => (intro hy; clear_value y))) | clear_value y)
    | apply Kept.portEdge
    | apply Kept.forN
    | simp only [Kept.upd_iff]
    | (intro _ _ _)
    | (intro _ _)
    | (split; rename_i heq; have hk := congrArg Prod.snd heq; subst hk)
    | split

theorem Kept.modMeter {v : Held} {c : Chip} {m : ℕ} {f : Meter → Meter} (hc : Kept v c) :
    Kept v (Chip.modMeter c m f) := by
  unfold Machine.Chip.modMeter
  with_reducible repeat' first
    | assumption
    | (extract_lets +onlyGivenNames y; first | (refine Kept.have_ (v := v) (x := y) ?_ ?_; (on_goal 1 => subst y); (on_goal 2 => (intro hy; clear_value y))) | clear_value y)
    | apply Kept.setMeter
    | apply Kept.forN
    | simp only [Kept.upd_iff]
    | (intro _ _ _)
    | (intro _ _)
    | (split; rename_i heq; have hk := congrArg Prod.snd heq; subst hk)
    | split

theorem Kept.freqInvalid {v : Held} {c : Chip} {n : ℕ} (hc : Kept v c) :
    Kept v (Chip.freqInvalid c n) := by
  unfold Machine.Chip.freqInvalid
  with_reducible repeat' first
    | assumption
    | (extract_lets +onlyGivenNames y; first | (refine Kept.have_ (v := v) (x := y) ?_ ?_; (on_goal 1 => subst y); (on_goal 2 => (intro hy; clear_value y))) | clear_value y)
    | apply Kept.modElem
    | apply Kept.raiseEv
    | apply Kept.forN
    | simp only [Kept.upd_iff]
    | (intro _ _ _)
    | (intro _ _)
    | (split; rename_i heq; have hk := congrArg Prod.snd heq; subst hk)
    | split

theorem Kept.trackFrequency {v : Held} {c : Chip} {n : ℕ} (hc : Kept v c) :
    Kept v (Chip.trackFrequency c n) := by
  unfold Machine.Chip.trackFrequency
  with_reducible repeat' first
    | assumption
    | (extract_lets +onlyGivenNames y; first | (refine Kept.have_ (v := v) (x := y) ?_ ?_; (on_goal 1 => subst y); (on_goal 2 => (intro hy; clear_value y))) | clear_value y)
    | apply Kept.setElem
    | apply Kept.modElem
    | apply Kept.raiseEv
    | apply Kept.forN
    | simp only [Kept.upd_iff]
    | (intro _ _ _)
    | (intro _ _)
    | (split; rename_i heq; have hk := congrArg Prod.snd heq; subst hk)
    | split

theorem Kept.freqTimeout {v : Held} {n : ℕ} {c : Chip} (hc : Kept v c) :
    Kept v (freqTimeout n c) := by
  unfold Machine.freqTimeout
  with_reducible repeat' first
    | assumption
    | (extract_lets +onlyGivenNames y; first | (refine Kept.have_ (v := v) (x := y) ?_ ?_; (on_goal 1 => subst y); (on_goal 2 => (intro hy; clear_value y))) | clear_value y)
    | apply Kept.freqInvalid
    | apply Kept.forN
    | simp only [Kept.upd_iff]
    | (intro _ _ _)
    | (intro _ _)
    | (split; rename_i heq; have hk := congrArg Prod.snd heq; subst hk)
    | split

theorem Kept.meterFrequency {v : Held} {c : Chip} {m : ℕ} (hc : Kept v c) :
    Kept v (Chip.meterFrequency c m) := by
  unfold Machine.Chip.meterFrequency
  with_reducible repeat' first
    | assumption
    | (extract_lets +onlyGivenNames y; first | (refine Kept.have_ (v := v) (x := y) ?_ ?_; (on_goal 1 => subst y); (on_goal 2 => (intro hy; clear_value y))) | clear_value y)
    | apply Kept.setMeter
    | apply Kept.raiseEv
    | apply Kept.forN
    | simp only [Kept.upd_iff]
    | (intro _ _ _)
    | (intro _ _)
    | (split; rename_i heq; have hk := congrArg Prod.snd heq; subst hk)
    | split

theorem Kept.elementFrequency {v : Held} {c : Chip} {n : ℕ} (hc : Kept v c) :
    Kept v (Chip.elementFrequency c n) := by
  unfold Machine.Chip.elementFrequency
  with_reducible repeat' first
    | assumption
    | (extract_lets +onlyGivenNames y; first | (refine Kept.have_ (v := v) (x := y) ?_ ?_; (on_goal 1 => subst y); (on_goal 2 => (intro hy; clear_value y))) | clear_value y)
    | apply Kept.setElem
    | apply Kept.forN
    | simp only [Kept.upd_iff]
    | (intro _ _ _)
    | (intro _ _)
    | (split; rename_i heq; have hk := congrArg Prod.snd heq; subst hk)
    | split

theorem Kept.datapath {v : Held} {c : Chip} {n : Nat} (hc : Kept v c) :
    Kept v (Chip.datapath c n) := by
  unfold Machine.Chip.datapath
  with_reducible repeat' first
    | assumption
    | (extract_lets +onlyGivenNames y; first | (refine Kept.have_ (v := v) (x := y) ?_ ?_; (on_goal 1 => subst y); (on_goal 2 => (intro hy; clear_value y))) | clear_value y)
    | apply Kept.putS
    | apply Kept.setElem
    | apply Kept.raiseEv
    | apply Kept.faultIs
    | apply Kept.take
    | apply Kept.forN
    | simp only [Kept.upd_iff]
    | (intro _ _ _)
    | (intro _ _)
    | (split; rename_i heq; have hk := congrArg Prod.snd heq; subst hk)
    | split

theorem Kept.oneSecondPublish {v : Held} {c : Chip} (hc : Kept v c) :
    Kept v (oneSecondPublish c) := by
  unfold Machine.oneSecondPublish
  with_reducible repeat' first
    | assumption
    | (extract_lets +onlyGivenNames y; first | (refine Kept.have_ (v := v) (x := y) ?_ ?_; (on_goal 1 => subst y); (on_goal 2 => (intro hy; clear_value y))) | clear_value y)
    | apply Kept.modElem
    | apply Kept.raiseEv
    | apply Kept.openSums
    | apply Kept.forN
    | simp only [Kept.upd_iff]
    | (intro _ _ _)
    | (intro _ _)
    | (split; rename_i heq; have hk := congrArg Prod.snd heq; subst hk)
    | split

theorem Kept.noteInput {v : Held} {c : Chip} {m : ℕ} (hc : Kept v c) :
    Kept v (Chip.noteInput c m) := by
  unfold Machine.Chip.noteInput
  with_reducible repeat' first
    | assumption
    | (extract_lets +onlyGivenNames y; first | (refine Kept.have_ (v := v) (x := y) ?_ ?_; (on_goal 1 => subst y); (on_goal 2 => (intro hy; clear_value y))) | clear_value y)
    | apply Kept.raiseEv
    | apply Kept.setFault
    | apply Kept.modMeter
    | apply Kept.forN
    | simp only [Kept.upd_iff]
    | (intro _ _ _)
    | (intro _ _)
    | (split; rename_i heq; have hk := congrArg Prod.snd heq; subst hk)
    | split

theorem Kept.inputFaultClear {v : Held} {m : ℕ} {c : Chip} (hc : Kept v c) :
    Kept v (inputFaultClear m c) := by
  unfold Machine.inputFaultClear
  with_reducible repeat' first
    | assumption
    | (extract_lets +onlyGivenNames y; first | (refine Kept.have_ (v := v) (x := y) ?_ ?_; (on_goal 1 => subst y); (on_goal 2 => (intro hy; clear_value y))) | clear_value y)
    | apply Kept.raiseEv
    | apply Kept.clearFault
    | apply Kept.modMeter
    | apply Kept.forN
    | simp only [Kept.upd_iff]
    | (intro _ _ _)
    | (intro _ _)
    | (split; rename_i heq; have hk := congrArg Prod.snd heq; subst hk)
    | split

theorem Kept.meterUnused {v : Held} {c : Chip} {m : ℕ} (hc : Kept v c) :
    Kept v (Chip.meterUnused c m) := by
  unfold Machine.Chip.meterUnused
  with_reducible repeat' first
    | assumption
    | (extract_lets +onlyGivenNames y; first | (refine Kept.have_ (v := v) (x := y) ?_ ?_; (on_goal 1 => subst y); (on_goal 2 => (intro hy; clear_value y))) | clear_value y)
    | apply Kept.clearFault
    | apply Kept.modMeter
    | apply Kept.raiseEv
    | apply Kept.forN
    | simp only [Kept.upd_iff]
    | apply Kept.foldl
    | apply Kept.foldl_pair
    | (intro _ _ _)
    | (intro _ _)
    | (split; rename_i heq; have hk := congrArg Prod.snd heq; subst hk)
    | split

theorem Kept.checkMeter {v : Held} {c : Chip} {m : ℕ} (hc : Kept v c) :
    Kept v (Chip.checkMeter c m) := by
  unfold Machine.Chip.checkMeter
  with_reducible repeat' first
    | assumption
    | (extract_lets +onlyGivenNames y; first | (refine Kept.have_ (v := v) (x := y) ?_ ?_; (on_goal 1 => subst y); (on_goal 2 => (intro hy; clear_value y))) | clear_value y)
    | apply Kept.faultIs
    | apply Kept.modMeter
    | apply Kept.meterUnused
    | apply Kept.raiseEv
    | apply Kept.forN
    | simp only [Kept.upd_iff]
    | (intro _ _ _)
    | (intro _ _)
    | (split; rename_i heq; have hk := congrArg Prod.snd heq; subst hk)
    | split

theorem Kept.checkMeters {v : Held} {c : Chip} (hc : Kept v c) :
    Kept v (Chip.checkMeters c) := by
  unfold Machine.Chip.checkMeters
  with_reducible repeat' first
    | assumption
    | (extract_lets +onlyGivenNames y; first | (refine Kept.have_ (v := v) (x := y) ?_ ?_; (on_goal 1 => subst y); (on_goal 2 => (intro hy; clear_value y))) | clear_value y)
    | apply Kept.faultIs
    | apply Kept.setFlag
    | apply Kept.modElem
    | apply Kept.checkMeter
    | apply Kept.forN
    | simp only [Kept.upd_iff]
    | (intro _ _ _)
    | (intro _ _)
    | (split; rename_i heq; have hk := congrArg Prod.snd heq; subst hk)
    | split

theorem Kept.membershipChanged {v : Held} {c : Chip} {m : ℕ} (hc : Kept v c) :
    Kept v (Chip.membershipChanged c m) := by
  unfold Machine.Chip.membershipChanged
  with_reducible repeat' first
    | assumption
    | (extract_lets +onlyGivenNames y; first | (refine Kept.have_ (v := v) (x := y) ?_ ?_; (on_goal 1 => subst y); (on_goal 2 => (intro hy; clear_value y))) | clear_value y)
    | apply Kept.meterFrequency
    | apply Kept.modMeter
    | apply Kept.forN
    | simp only [Kept.upd_iff]
    | (intro _ _ _)
    | (intro _ _)
    | (split; rename_i heq; have hk := congrArg Prod.snd heq; subst hk)
    | split

theorem Kept.aggregate {v : Held} {c : Chip} {m : Nat} (hc : Kept v c) :
    Kept v (Chip.aggregate c m) := by
  unfold Machine.Chip.aggregate
  with_reducible repeat' first
    | assumption
    | (extract_lets +onlyGivenNames y; first | (refine Kept.have_ (v := v) (x := y) ?_ ?_; (on_goal 1 => subst y); (on_goal 2 => (intro hy; clear_value y))) | clear_value y)
    | apply Kept.setMeter
    | apply Kept.faultIs
    | apply Kept.take
    | apply Kept.noteInput
    | apply Kept.forN
    | simp only [Kept.upd_iff]
    | (intro _ _ _)
    | (intro _ _)
    | (split; rename_i heq; have hk := congrArg Prod.snd heq; subst hk)
    | split

theorem Kept.creditEnergy {v : Held} {c : Chip} {t : ℕ} {m : ℕ} {energy : List ℤ} (hc : Kept v c) :
    Kept v (Chip.creditEnergy c t m energy) := by
  unfold Machine.Chip.creditEnergy
  with_reducible repeat' first
    | assumption
    | (extract_lets +onlyGivenNames y; first | (refine Kept.have_ (v := v) (x := y) ?_ ?_; (on_goal 1 => subst y); (on_goal 2 => (intro hy; clear_value y))) | clear_value y)
    | apply Kept.modMeter
    | apply Kept.forN
    | simp only [Kept.upd_iff]
    | (intro _ _ _)
    | (intro _ _)
    | (split; rename_i heq; have hk := congrArg Prod.snd heq; subst hk)
    | split

theorem Kept.noteRegisters {v : Held} {c : Chip} {m : ℕ} {before : Meter} (hc : Kept v c) :
    Kept v (Chip.noteRegisters c m before) := by
  unfold Machine.Chip.noteRegisters
  with_reducible repeat' first
    | assumption
    | (extract_lets +onlyGivenNames y; first | (refine Kept.have_ (v := v) (x := y) ?_ ?_; (on_goal 1 => subst y); (on_goal 2 => (intro hy; clear_value y))) | clear_value y)
    | apply Kept.setMeter
    | apply Kept.faultIs
    | apply Kept.raiseEv
    | apply Kept.forN
    | simp only [Kept.upd_iff]
    | (intro _ _ _)
    | (intro _ _)
    | (split; rename_i heq; have hk := congrArg Prod.snd heq; subst hk)
    | split

theorem Kept.setCableTemp {v : Held} {c : Chip} {m : ℕ} (hc : Kept v c) :
    Kept v (Chip.setCableTemp c m) := by
  unfold Machine.Chip.setCableTemp
  with_reducible repeat' first
    | assumption
    | (extract_lets +onlyGivenNames y; first | (refine Kept.have_ (v := v) (x := y) ?_ ?_; (on_goal 1 => subst y); (on_goal 2 => (intro hy; clear_value y))) | clear_value y)
    | apply Kept.faultIs
    | apply Kept.modMeter
    | apply Kept.forN
    | simp only [Kept.upd_iff]
    | (intro _ _ _)
    | (intro _ _)
    | (split; rename_i heq; have hk := congrArg Prod.snd heq; subst hk)
    | split

theorem Kept.compensate {v : Held} {c : Chip} {m : ℕ} (hc : Kept v c) :
    Kept v (Chip.compensate c m) := by
  unfold Machine.Chip.compensate
  dsimp only
  split
  · exact Kept.clearFault (Kept.modMeter hc)
  · split
    · exact Kept.modMeter hc
    · refine Kept.faultIs (Kept.modMeter ?_)
      split
      · exact Kept.setCableTemp (Kept.modMeter hc)
      · exact Kept.modMeter hc

theorem Kept.constantChange {v : Held} {c : Chip} {m : ℕ} (hc : Kept v c) :
    Kept v (Chip.constantChange c m) := by
  unfold Machine.Chip.constantChange
  with_reducible repeat' first
    | assumption
    | (extract_lets +onlyGivenNames y; first | (refine Kept.have_ (v := v) (x := y) ?_ ?_; (on_goal 1 => subst y); (on_goal 2 => (intro hy; clear_value y))) | clear_value y)
    | apply Kept.setMeter
    | apply Kept.raiseEv
    | apply Kept.forN
    | simp only [Kept.upd_iff]
    | apply Kept.foldl
    | apply Kept.foldl_pair
    | (intro _ _ _)
    | (intro _ _)
    | (split; rename_i heq; have hk := congrArg Prod.snd heq; subst hk)
    | split

theorem Kept.meterLedger {v : Held} {c : Chip} {m : ℕ} (hc : Kept v c) :
    Kept v (Chip.meterLedger c m) := by
  unfold Machine.Chip.meterLedger
  with_reducible repeat' first
    | assumption
    | (extract_lets +onlyGivenNames y; first | (refine Kept.have_ (v := v) (x := y) ?_ ?_; (on_goal 1 => subst y); (on_goal 2 => (intro hy; clear_value y))) | clear_value y)
    | apply Kept.modMeter
    | apply Kept.noteRegisters
    | apply Kept.compensate
    | apply Kept.raiseEv
    | apply Kept.forN
    | simp only [Kept.upd_iff]
    | (intro _ _ _)
    | (intro _ _)
    | (split; rename_i heq; have hk := congrArg Prod.snd heq; subst hk)
    | split

theorem Kept.settleRegisters {v : Held} {c : Chip} {old : Chip} {m : Nat} (hc : Kept v c) :
    Kept v (Chip.settleRegisters c old m) := by
  unfold Machine.Chip.settleRegisters
  with_reducible repeat' first
    | assumption
    | (extract_lets +onlyGivenNames y; first | (refine Kept.have_ (v := v) (x := y) ?_ ?_; (on_goal 1 => subst y); (on_goal 2 => (intro hy; clear_value y))) | clear_value y)
    | apply Kept.raiseEv
    | apply Kept.noteRegisters
    | apply Kept.forN
    | simp only [Kept.upd_iff]
    | (intro _ _ _)
    | (intro _ _)
    | (split; rename_i heq; have hk := congrArg Prod.snd heq; subst hk)
    | split

theorem Kept.measure {v : Held} {c : Chip} (hc : Kept v c) :
    Kept v (Chip.measure c) := by
  unfold Machine.Chip.measure
  with_reducible repeat' first
    | assumption
    | (extract_lets +onlyGivenNames y; first | (refine Kept.have_ (v := v) (x := y) ?_ ?_; (on_goal 1 => subst y); (on_goal 2 => (intro hy; clear_value y))) | clear_value y)
    | apply Kept.meterFrequency
    | apply Kept.trackFrequency
    | apply Kept.datapath
    | apply Kept.elementFrequency
    | apply Kept.aggregate
    | apply Kept.forN
    | simp only [Kept.upd_iff]
    | (intro _ _ _)
    | (intro _ _)
    | (split; rename_i heq; have hk := congrArg Prod.snd heq; subst hk)
    | split

theorem Kept.modPq {v : Held} {c : Chip} {n : ℕ} {f : Quality → Quality} (hc : Kept v c) :
    Kept v (Chip.modPq c n f) := by
  unfold Machine.Chip.modPq
  with_reducible repeat' first
    | assumption
    | (extract_lets +onlyGivenNames y; first | (refine Kept.have_ (v := v) (x := y) ?_ ?_; (on_goal 1 => subst y); (on_goal 2 => (intro hy; clear_value y))) | clear_value y)
    | apply Kept.modElem
    | apply Kept.forN
    | simp only [Kept.upd_iff]
    | (intro _ _ _)
    | (intro _ _)
    | (split; rename_i heq; have hk := congrArg Prod.snd heq; subst hk)
    | split

theorem Kept.noteDip {v : Held} {c : Chip} {r : DipRecord} (hc : Kept v c) :
    Kept v (Chip.noteDip c r) := by
  unfold Machine.Chip.noteDip
  with_reducible repeat' first
    | assumption
    | (extract_lets +onlyGivenNames y; first | (refine Kept.have_ (v := v) (x := y) ?_ ?_; (on_goal 1 => subst y); (on_goal 2 => (intro hy; clear_value y))) | clear_value y)
    | apply Kept.forN
    | simp only [Kept.upd_iff]
    | (intro _ _ _)
    | (intro _ _)
    | (split; rename_i heq; have hk := congrArg Prod.snd heq; subst hk)
    | split

theorem Kept.closeDip {v : Held} {c : Chip} {n : Nat} {k : Nat} {flags : Nat} {stop : Nat} (hc : Kept v c) :
    Kept v (Chip.closeDip c n k flags stop) := by
  unfold Machine.Chip.closeDip
  with_reducible repeat' first
    | assumption
    | (extract_lets +onlyGivenNames y; first | (refine Kept.have_ (v := v) (x := y) ?_ ?_; (on_goal 1 => subst y); (on_goal 2 => (intro hy; clear_value y))) | clear_value y)
    | apply Kept.raiseEv
    | apply Kept.setRaw
    | apply Kept.aggregate
    | apply Kept.modPq
    | apply Kept.noteDip
    | apply Kept.forN
    | simp only [Kept.upd_iff]
    | (intro _ _ _)
    | (intro _ _)
    | (split; rename_i heq; have hk := congrArg Prod.snd heq; subst hk)
    | split

theorem Kept.closeDips {v : Held} {c : Chip} {n : ℕ} {flags : ℕ} {end_ : ℕ} (hc : Kept v c) :
    Kept v (Chip.closeDips c n flags end_) := by
  unfold Machine.Chip.closeDips
  with_reducible repeat' first
    | assumption
    | (extract_lets +onlyGivenNames y; first | (refine Kept.have_ (v := v) (x := y) ?_ ?_; (on_goal 1 => subst y); (on_goal 2 => (intro hy; clear_value y))) | clear_value y)
    | apply Kept.closeDip
    | apply Kept.forN
    | simp only [Kept.upd_iff]
    | (intro _ _ _)
    | (intro _ _)
    | (split; rename_i heq; have hk := congrArg Prod.snd heq; subst hk)
    | split

theorem Kept.detect {v : Held} {c : Chip} {n : ℕ} {k : ℕ} {u : ℕ} {w : DipWindow} (hc : Kept v c) :
    Kept v (Chip.detect c n k u w) := by
  unfold Machine.Chip.detect
  with_reducible repeat' first
    | assumption
    | (extract_lets +onlyGivenNames y; first | (refine Kept.have_ (v := v) (x := y) ?_ ?_; (on_goal 1 => subst y); (on_goal 2 => (intro hy; clear_value y))) | clear_value y)
    | apply Kept.modPq
    | apply Kept.setRaw
    | apply Kept.raiseEv
    | apply Kept.closeDip
    | apply Kept.forN
    | simp only [Kept.upd_iff]
    | (intro _ _ _)
    | (intro _ _)
    | (split; rename_i heq; have hk := congrArg Prod.snd heq; subst hk)
    | split

theorem Kept.evalWindow {v : Held} {c : Chip} {n : ℕ} (hc : Kept v c) :
    Kept v (Chip.evalWindow c n) := by
  unfold Machine.Chip.evalWindow
  with_reducible repeat' first
    | assumption
    | (extract_lets +onlyGivenNames y; first | (refine Kept.have_ (v := v) (x := y) ?_ ?_; (on_goal 1 => subst y); (on_goal 2 => (intro hy; clear_value y))) | clear_value y)
    | apply Kept.modPq
    | apply Kept.detect
    | apply Kept.forN
    | simp only [Kept.upd_iff]
    | (intro _ _ _)
    | (intro _ _)
    | (split; rename_i heq; have hk := congrArg Prod.snd heq; subst hk)
    | split

theorem Kept.aggregateStep {v : Held} {c : Chip} {m : Nat} {k : Nat} {flags : Nat} (hc : Kept v c) :
    Kept v (Chip.aggregateStep c m k flags) := by
  unfold Machine.Chip.aggregateStep
  with_reducible repeat' first
    | assumption
    | (extract_lets +onlyGivenNames y; first | (refine Kept.have_ (v := v) (x := y) ?_ ?_; (on_goal 1 => subst y); (on_goal 2 => (intro hy; clear_value y))) | clear_value y)
    | apply Kept.modMeter
    | apply Kept.aggregate
    | apply Kept.noteDip
    | apply Kept.forN
    | simp only [Kept.upd_iff]
    | apply Kept.foldl
    | apply Kept.foldl_pair
    | (intro _ _ _)
    | (intro _ _)
    | (split; rename_i heq; have hk := congrArg Prod.snd heq; subst hk)
    | split

theorem Kept.aggregateAll {v : Held} {c : Chip} {flags : ℕ} (hc : Kept v c) :
    Kept v (Chip.aggregateAll c flags) := by
  unfold Machine.Chip.aggregateAll
  with_reducible repeat' first
    | assumption
    | (extract_lets +onlyGivenNames y; first | (refine Kept.have_ (v := v) (x := y) ?_ ?_; (on_goal 1 => subst y); (on_goal 2 => (intro hy; clear_value y))) | clear_value y)
    | apply Kept.aggregateStep
    | apply Kept.forN
    | simp only [Kept.upd_iff]
    | (intro _ _ _)
    | (intro _ _)
    | (split; rename_i heq; have hk := congrArg Prod.snd heq; subst hk)
    | split

theorem Kept.endAggregates {v : Held} {c : Chip} {before : Chip} {s : Nat} (hc : Kept v c) :
    Kept v (Chip.endAggregates c before s) := by
  unfold Machine.Chip.endAggregates
  with_reducible repeat' first
    | assumption
    | (extract_lets +onlyGivenNames y; first | (refine Kept.have_ (v := v) (x := y) ?_ ?_; (on_goal 1 => subst y); (on_goal 2 => (intro hy; clear_value y))) | clear_value y)
    | apply Kept.modMeter
    | apply Kept.aggregate
    | apply Kept.noteDip
    | apply Kept.forN
    | simp only [Kept.upd_iff]
    | (intro _ _ _)
    | (intro _ _)
    | (split; rename_i heq; have hk := congrArg Prod.snd heq; subst hk)
    | split

theorem Kept.writeDips {v : Held} {c : Chip} (hc : Kept v c) (hr : v.mram = none) :
    Kept v (Chip.writeDips c) := by
  unfold Machine.Chip.writeDips
  with_reducible repeat' first
    | assumption
    | (extract_lets +onlyGivenNames y; first | (refine Kept.have_ (v := v) (x := y) ?_ ?_; (on_goal 1 => subst y); (on_goal 2 => (intro hy; clear_value y))) | clear_value y)
    | apply Kept.appendLog
    | apply Kept.forN
    | simp only [Kept.upd_iff]
    | apply Kept.foldl
    | apply Kept.foldl_pair
    | (intro _ _ _)
    | (intro _ _)
    | (split; rename_i heq; have hk := congrArg Prod.snd heq; subst hk)
    | split

theorem Kept.pqWindowEval {v : Held} {c : Chip} (hc : Kept v c) (hr : v.mram = none) :
    Kept v (pqWindowEval c) := by
  unfold Machine.pqWindowEval
  with_reducible repeat' first
    | assumption
    | (extract_lets +onlyGivenNames y; first | (refine Kept.have_ (v := v) (x := y) ?_ ?_; (on_goal 1 => subst y); (on_goal 2 => (intro hy; clear_value y))) | clear_value y)
    | apply Kept.writeDips
    | apply Kept.aggregateAll
    | apply Kept.evalWindow
    | apply Kept.forN
    | simp only [Kept.upd_iff]
    | (intro _ _ _)
    | (intro _ _)
    | (split; rename_i heq; have hk := congrArg Prod.snd heq; subst hk)
    | split

theorem Kept.restartWindows {v : Held} {c : Chip} {n : ℕ} (hc : Kept v c) :
    Kept v (Chip.restartWindows c n) := by
  unfold Machine.Chip.restartWindows
  with_reducible repeat' first
    | assumption
    | (extract_lets +onlyGivenNames y; first | (refine Kept.have_ (v := v) (x := y) ?_ ?_; (on_goal 1 => subst y); (on_goal 2 => (intro hy; clear_value y))) | clear_value y)
    | apply Kept.modPq
    | apply Kept.forN
    | simp only [Kept.upd_iff]
    | (intro _ _ _)
    | (intro _ _)
    | (split; rename_i heq; have hk := congrArg Prod.snd heq; subst hk)
    | split

theorem Kept.suspend {v : Held} {c : Chip} {n : ℕ} {s : ℕ} (hc : Kept v c) :
    Kept v (Chip.suspend c n s) := by
  unfold Machine.Chip.suspend
  with_reducible repeat' first
    | assumption
    | (extract_lets +onlyGivenNames y; first | (refine Kept.have_ (v := v) (x := y) ?_ ?_; (on_goal 1 => subst y); (on_goal 2 => (intro hy; clear_value y))) | clear_value y)
    | apply Kept.closeDips
    | apply Kept.raiseEv
    | apply Kept.restartWindows
    | apply Kept.modPq
    | apply Kept.forN
    | simp only [Kept.upd_iff]
    | (intro _ _ _)
    | (intro _ _)
    | (split; rename_i heq; have hk := congrArg Prod.snd heq; subst hk)
    | split

theorem Kept.qualityChange {v : Held} {c : Chip} {n : ℕ} {s : ℕ} (hc : Kept v c) :
    Kept v (Chip.qualityChange c n s) := by
  unfold Machine.Chip.qualityChange
  with_reducible repeat' first
    | assumption
    | (extract_lets +onlyGivenNames y; first | (refine Kept.have_ (v := v) (x := y) ?_ ?_; (on_goal 1 => subst y); (on_goal 2 => (intro hy; clear_value y))) | clear_value y)
    | apply Kept.restartWindows
    | apply Kept.closeDips
    | apply Kept.forN
    | simp only [Kept.upd_iff]
    | (intro _ _ _)
    | (intro _ _)
    | (split; rename_i heq; have hk := congrArg Prod.snd heq; subst hk)
    | split

theorem Kept.windowStride {v : Held} {c : Chip} {n : ℕ} (hc : Kept v c) :
    Kept v (Chip.windowStride c n) := by
  unfold Machine.Chip.windowStride
  with_reducible repeat' first
    | assumption
    | (extract_lets +onlyGivenNames y; first | (refine Kept.have_ (v := v) (x := y) ?_ ?_; (on_goal 1 => subst y); (on_goal 2 => (intro hy; clear_value y))) | clear_value y)
    | apply Kept.modPq
    | apply Kept.forN
    | simp only [Kept.upd_iff]
    | (intro _ _ _)
    | (intro _ _)
    | (split; rename_i heq; have hk := congrArg Prod.snd heq; subst hk)
    | split

theorem Kept.qualityStride {v : Held} {c : Chip} {n : ℕ} (hc : Kept v c) :
    Kept v (Chip.qualityStride c n) := by
  unfold Machine.Chip.qualityStride
  with_reducible repeat' first
    | assumption
    | (extract_lets +onlyGivenNames y; first | (refine Kept.have_ (v := v) (x := y) ?_ ?_; (on_goal 1 => subst y); (on_goal 2 => (intro hy; clear_value y))) | clear_value y)
    | apply Kept.suspend
    | apply Kept.restartWindows
    | apply Kept.modPq
    | apply Kept.windowStride
    | apply Kept.forN
    | simp only [Kept.upd_iff]
    | (intro _ _ _)
    | (intro _ _)
    | (split; rename_i heq; have hk := congrArg Prod.snd heq; subst hk)
    | split

theorem Kept.noteTouch {v : Held} {c : Chip} (hc : Kept v c) :
    Kept v (Chip.noteTouch c) := by
  unfold Machine.Chip.noteTouch
  with_reducible repeat' first
    | assumption
    | (extract_lets +onlyGivenNames y; first | (refine Kept.have_ (v := v) (x := y) ?_ ?_; (on_goal 1 => subst y); (on_goal 2 => (intro hy; clear_value y))) | clear_value y)
    | apply Kept.forN
    | simp only [Kept.upd_iff]
    | (intro _ _ _)
    | (intro _ _)
    | (split; rename_i heq; have hk := congrArg Prod.snd heq; subst hk)
    | split

theorem Kept.appliedElements {v : Held} {c : Chip} {before : Chip} {pages : List ℕ} (hc : Kept v c) :
    Kept v (Chip.appliedElements c before pages) := by
  unfold Machine.Chip.appliedElements
  with_reducible repeat' first
    | assumption
    | (extract_lets +onlyGivenNames y; first | (refine Kept.have_ (v := v) (x := y) ?_ ?_; (on_goal 1 => subst y); (on_goal 2 => (intro hy; clear_value y))) | clear_value y)
    | apply Kept.modElem
    | apply Kept.restartWindows
    | apply Kept.elementEnabled
    | apply Kept.showSettling
    | apply Kept.settlePath
    | apply Kept.applyRatio
    | apply Kept.clockGroups
    | apply Kept.forN
    | simp only [Kept.upd_iff]
    | apply Kept.foldl
    | apply Kept.foldl_pair
    | (intro _ _ _)
    | (intro _ _)
    | (split; rename_i heq; have hk := congrArg Prod.snd heq; subst hk)
    | split

theorem Kept.appliedReplay {v : Held} {c : Chip} {before : Chip} {pages : List Nat} (hc : Kept v c) :
    Kept v (Chip.appliedReplay c before pages) := by
  unfold Machine.Chip.appliedReplay
  with_reducible repeat' first
    | assumption
    | (extract_lets +onlyGivenNames y; first | (refine Kept.have_ (v := v) (x := y) ?_ ?_; (on_goal 1 => subst y); (on_goal 2 => (intro hy; clear_value y))) | clear_value y)
    | apply Kept.checkMeters
    | apply Kept.membershipChanged
    | apply Kept.appliedElements
    | apply Kept.forN
    | simp only [Kept.upd_iff]
    | (intro _ _ _)
    | (intro _ _)
    | (split; rename_i heq; have hk := congrArg Prod.snd heq; subst hk)
    | split

end Sys2Proof.Machine
end

