-- ==== Sys2Proof/Laws/Kept5.lean ====
section
/-! SUPPORT. What the operations of SafetyCore, Calib, Tariff, Demand, Ledger keep. -/

set_option linter.unusedTactic false
set_option linter.unreachableTactic false
set_option linter.unusedSimpArgs false
set_option linter.unusedVariables false

namespace Sys2Proof.Machine

theorem Kept.setSaf {v : Held} {c : Chip} {f : Safety → Safety} (hc : Kept v c) :
    Kept v (Chip.setSaf c f) := by
  unfold Machine.Chip.setSaf
  with_reducible repeat' first
    | assumption
    | (extract_lets +onlyGivenNames y; first | (refine Kept.have_ (v := v) (x := y) ?_ ?_; (on_goal 1 => subst y); (on_goal 2 => (intro hy; clear_value y))) | clear_value y)
    | apply Kept.forN
    | simp only [Kept.upd_iff]
    | (intro _ _ _)
    | (intro _ _)
    | (split; rename_i heq; have hk := congrArg Prod.snd heq; subst hk)
    | split

theorem Kept.setFlock {v : Held} {c : Chip} {f : ℕ} {g : Flock → Flock} (hc : Kept v c) :
    Kept v (Chip.setFlock c f g) := by
  unfold Machine.Chip.setFlock
  with_reducible repeat' first
    | assumption
    | (extract_lets +onlyGivenNames y; first | (refine Kept.have_ (v := v) (x := y) ?_ ?_; (on_goal 1 => subst y); (on_goal 2 => (intro hy; clear_value y))) | clear_value y)
    | apply Kept.setSaf
    | apply Kept.forN
    | simp only [Kept.upd_iff]
    | (intro _ _ _)
    | (intro _ _)
    | (split; rename_i heq; have hk := congrArg Prod.snd heq; subst hk)
    | split

theorem Kept.setResidual {v : Held} {c : Chip} {n : ℕ} {g : Residual → Residual} (hc : Kept v c) :
    Kept v (Chip.setResidual c n g) := by
  unfold Machine.Chip.setResidual
  with_reducible repeat' first
    | assumption
    | (extract_lets +onlyGivenNames y; first | (refine Kept.have_ (v := v) (x := y) ?_ ?_; (on_goal 1 => subst y); (on_goal 2 => (intro hy; clear_value y))) | clear_value y)
    | apply Kept.setSaf
    | apply Kept.forN
    | simp only [Kept.upd_iff]
    | (intro _ _ _)
    | (intro _ _)
    | (split; rename_i heq; have hk := congrArg Prod.snd heq; subst hk)
    | split

theorem Kept.setInsulation {v : Held} {c : Chip} {k : ℕ} {g : Insulation → Insulation} (hc : Kept v c) :
    Kept v (Chip.setInsulation c k g) := by
  unfold Machine.Chip.setInsulation
  with_reducible repeat' first
    | assumption
    | (extract_lets +onlyGivenNames y; first | (refine Kept.have_ (v := v) (x := y) ?_ ?_; (on_goal 1 => subst y); (on_goal 2 => (intro hy; clear_value y))) | clear_value y)
    | apply Kept.setSaf
    | apply Kept.forN
    | simp only [Kept.upd_iff]
    | (intro _ _ _)
    | (intro _ _)
    | (split; rename_i heq; have hk := congrArg Prod.snd heq; subst hk)
    | split

theorem Kept.setEstop {v : Held} {c : Chip} {k : ℕ} {g : Estop → Estop} (hc : Kept v c) :
    Kept v (Chip.setEstop c k g) := by
  unfold Machine.Chip.setEstop
  with_reducible repeat' first
    | assumption
    | (extract_lets +onlyGivenNames y; first | (refine Kept.have_ (v := v) (x := y) ?_ ?_; (on_goal 1 => subst y); (on_goal 2 => (intro hy; clear_value y))) | clear_value y)
    | apply Kept.setSaf
    | apply Kept.forN
    | simp only [Kept.upd_iff]
    | (intro _ _ _)
    | (intro _ _)
    | (split; rename_i heq; have hk := congrArg Prod.snd heq; subst hk)
    | split

theorem Kept.logSafety {v : Held} {c : Chip} {kind : ℕ} {level : ℕ} {unit : ℕ} {old : ℕ} {new : ℕ} {channels : ℕ} {cause : ℕ} {detail : List ℕ} (hc : Kept v c) (hr : v.mram = none) :
    Kept v (Chip.logSafety c kind level unit old new channels cause detail) := by
  unfold Machine.Chip.logSafety
  with_reducible repeat' first
    | assumption
    | (extract_lets +onlyGivenNames y; first | (refine Kept.have_ (v := v) (x := y) ?_ ?_; (on_goal 1 => subst y); (on_goal 2 => (intro hy; clear_value y))) | clear_value y)
    | apply Kept.appendLog
    | apply Kept.forN
    | simp only [Kept.upd_iff]
    | (intro _ _ _)
    | (intro _ _)
    | (split; rename_i heq; have hk := congrArg Prod.snd heq; subst hk)
    | split

theorem Kept.showCauses {v : Held} {c : Chip} (hc : Kept v c) :
    Kept v (Chip.showCauses c) := by
  unfold Machine.Chip.showCauses
  with_reducible repeat' first
    | assumption
    | (extract_lets +onlyGivenNames y; first | (refine Kept.have_ (v := v) (x := y) ?_ ?_; (on_goal 1 => subst y); (on_goal 2 => (intro hy; clear_value y))) | clear_value y)
    | apply Kept.put
    | apply Kept.setFlag
    | apply Kept.forN
    | simp only [Kept.upd_iff]
    | apply Kept.foldl
    | apply Kept.foldl_pair
    | (intro _ _ _)
    | (intro _ _)
    | (split; rename_i heq; have hk := congrArg Prod.snd heq; subst hk)
    | split

theorem Kept.showSeals {v : Held} {c : Chip} (hc : Kept v c) :
    Kept v (Chip.showSeals c) := by
  unfold Machine.Chip.showSeals
  with_reducible repeat' first
    | assumption
    | (extract_lets +onlyGivenNames y; first | (refine Kept.have_ (v := v) (x := y) ?_ ?_; (on_goal 1 => subst y); (on_goal 2 => (intro hy; clear_value y))) | clear_value y)
    | apply Kept.showLimit
    | apply Kept.put
    | apply Kept.forN
    | simp only [Kept.upd_iff]
    | (intro _ _ _)
    | (intro _ _)
    | (split; rename_i heq; have hk := congrArg Prod.snd heq; subst hk)
    | split

theorem Kept.commandCuts {v : Held} {c : Chip} (hc : Kept v c) :
    Kept v (Chip.commandCuts c) := by
  unfold Machine.Chip.commandCuts
  with_reducible repeat' first
    | assumption
    | (extract_lets +onlyGivenNames y; first | (refine Kept.have_ (v := v) (x := y) ?_ ?_; (on_goal 1 => subst y); (on_goal 2 => (intro hy; clear_value y))) | clear_value y)
    | apply Kept.setFlag
    | apply Kept.forN
    | simp only [Kept.upd_iff]
    | (intro _ _ _)
    | (intro _ _)
    | (split; rename_i heq; have hk := congrArg Prod.snd heq; subst hk)
    | split

theorem Kept.showCrook {v : Held} {c : Chip} (hc : Kept v c) :
    Kept v (Chip.showCrook c) := by
  unfold Machine.Chip.showCrook
  with_reducible repeat' first
    | assumption
    | (extract_lets +onlyGivenNames y; first | (refine Kept.have_ (v := v) (x := y) ?_ ?_; (on_goal 1 => subst y); (on_goal 2 => (intro hy; clear_value y))) | clear_value y)
    | apply Kept.put
    | apply Kept.setFlag
    | apply Kept.forN
    | simp only [Kept.upd_iff]
    | (intro _ _ _)
    | (intro _ _)
    | (split; rename_i heq; have hk := congrArg Prod.snd heq; subst hk)
    | split

theorem Kept.crookActs {v : Held} {c : Chip} (hc : Kept v c) :
    Kept v (Chip.crookActs c) := by
  unfold Machine.Chip.crookActs
  with_reducible repeat' first
    | assumption
    | (extract_lets +onlyGivenNames y; first | (refine Kept.have_ (v := v) (x := y) ?_ ?_; (on_goal 1 => subst y); (on_goal 2 => (intro hy; clear_value y))) | clear_value y)
    | apply Kept.showCrook
    | apply Kept.setSaf
    | apply Kept.forN
    | simp only [Kept.upd_iff]
    | (intro _ _ _)
    | (intro _ _)
    | (split; rename_i heq; have hk := congrArg Prod.snd heq; subst hk)
    | split

theorem Kept.setSafeOk {v : Held} {c : Chip} {n : ℕ} {b : Bool} (hc : Kept v c) :
    Kept v (Chip.setSafeOk c n b) := by
  unfold Machine.Chip.setSafeOk
  with_reducible repeat' first
    | assumption
    | (extract_lets +onlyGivenNames y; first | (refine Kept.have_ (v := v) (x := y) ?_ ?_; (on_goal 1 => subst y); (on_goal 2 => (intro hy; clear_value y))) | clear_value y)
    | apply Kept.setFlag
    | apply Kept.forN
    | simp only [Kept.upd_iff]
    | (intro _ _ _)
    | (intro _ _)
    | (split; rename_i heq; have hk := congrArg Prod.snd heq; subst hk)
    | split

theorem Kept.safetyDrops {v : Held} {c : Chip} (hc : Kept v c) :
    Kept v (Chip.safetyDrops c) := by
  unfold Machine.Chip.safetyDrops
  with_reducible repeat' first
    | assumption
    | (extract_lets +onlyGivenNames y; first | (refine Kept.have_ (v := v) (x := y) ?_ ?_; (on_goal 1 => subst y); (on_goal 2 => (intro hy; clear_value y))) | clear_value y)
    | apply Kept.setSafeOk
    | apply Kept.setResidual
    | apply Kept.noteCauses
    | apply Kept.settlePort
    | apply Kept.forN
    | simp only [Kept.upd_iff]
    | (intro _ _ _)
    | (intro _ _)
    | (split; rename_i heq; have hk := congrArg Prod.snd heq; subst hk)
    | split

theorem Kept.settleSafety {v : Held} {c : Chip} (hc : Kept v c) :
    Kept v (Chip.settleSafety c) := by
  unfold Machine.Chip.settleSafety
  with_reducible repeat' first
    | assumption
    | (extract_lets +onlyGivenNames y; first | (refine Kept.have_ (v := v) (x := y) ?_ ?_; (on_goal 1 => subst y); (on_goal 2 => (intro hy; clear_value y))) | clear_value y)
    | apply Kept.safetyDrops
    | apply Kept.crookActs
    | apply Kept.showSeals
    | apply Kept.showCauses
    | apply Kept.commandCuts
    | apply Kept.forN
    | simp only [Kept.upd_iff]
    | (intro _ _ _)
    | (intro _ _)
    | (split; rename_i heq; have hk := congrArg Prod.snd heq; subst hk)
    | split

theorem Kept.setFlockState {v : Held} {c : Chip} {f : Nat} {new : Nat} {cause : Nat} {channels : Nat} (hc : Kept v c) (hr : v.mram = none) :
    Kept v (Chip.setFlockState c f new cause channels) := by
  unfold Machine.Chip.setFlockState
  with_reducible repeat' first
    | assumption
    | (extract_lets +onlyGivenNames y; first | (refine Kept.have_ (v := v) (x := y) ?_ ?_; (on_goal 1 => subst y); (on_goal 2 => (intro hy; clear_value y))) | clear_value y)
    | apply Kept.put
    | apply Kept.setFlag
    | apply Kept.raiseEv
    | apply Kept.setFlock
    | apply Kept.logSafety
    | apply Kept.forN
    | simp only [Kept.upd_iff]
    | (intro _ _ _)
    | (intro _ _)
    | (split; rename_i heq; have hk := congrArg Prod.snd heq; subst hk)
    | split

theorem Kept.latchCause {v : Held} {c : Chip} {f : ℕ} {k : Cause} (hc : Kept v c) :
    Kept v (Chip.latchCause c f k) := by
  unfold Machine.Chip.latchCause
  with_reducible repeat' first
    | assumption
    | (extract_lets +onlyGivenNames y; first | (refine Kept.have_ (v := v) (x := y) ?_ ?_; (on_goal 1 => subst y); (on_goal 2 => (intro hy; clear_value y))) | clear_value y)
    | apply Kept.setFlock
    | apply Kept.forN
    | simp only [Kept.upd_iff]
    | (intro _ _ _)
    | (intro _ _)
    | (split; rename_i heq; have hk := congrArg Prod.snd heq; subst hk)
    | split

theorem Kept.raiseFlock {v : Held} {c : Chip} {f : Nat} {state : Nat} {cause : Nat} {channels : Nat} (hc : Kept v c) (hr : v.mram = none) :
    Kept v (Chip.raiseFlock c f state cause channels) := by
  unfold Machine.Chip.raiseFlock
  with_reducible repeat' first
    | assumption
    | (extract_lets +onlyGivenNames y; first | (refine Kept.have_ (v := v) (x := y) ?_ ?_; (on_goal 1 => subst y); (on_goal 2 => (intro hy; clear_value y))) | clear_value y)
    | apply Kept.setFlockState
    | apply Kept.forN
    | simp only [Kept.upd_iff]
    | (intro _ _ _)
    | (intro _ _)
    | (split; rename_i heq; have hk := congrArg Prod.snd heq; subst hk)
    | split

theorem Kept.showSingle {v : Held} {c : Chip} {on : Bool} (hc : Kept v c) :
    Kept v (Chip.showSingle c on) := by
  unfold Machine.Chip.showSingle
  with_reducible repeat' first
    | assumption
    | (extract_lets +onlyGivenNames y; first | (refine Kept.have_ (v := v) (x := y) ?_ ?_; (on_goal 1 => subst y); (on_goal 2 => (intro hy; clear_value y))) | clear_value y)
    | apply Kept.put
    | apply Kept.setFlag
    | apply Kept.raiseEv
    | apply Kept.faultIs
    | apply Kept.forN
    | simp only [Kept.upd_iff]
    | (intro _ _ _)
    | (intro _ _)
    | (split; rename_i heq; have hk := congrArg Prod.snd heq; subst hk)
    | split

theorem Kept.endSingle {v : Held} {c : Chip} (hc : Kept v c) (hr : v.mram = none) :
    Kept v (Chip.endSingle c) := by
  unfold Machine.Chip.endSingle
  with_reducible repeat' first
    | assumption
    | (extract_lets +onlyGivenNames y; first | (refine Kept.have_ (v := v) (x := y) ?_ ?_; (on_goal 1 => subst y); (on_goal 2 => (intro hy; clear_value y))) | clear_value y)
    | apply Kept.latchCause
    | apply Kept.raiseFlock
    | apply Kept.showSingle
    | apply Kept.forN
    | simp only [Kept.upd_iff]
    | apply Kept.foldl
    | apply Kept.foldl_pair
    | (intro _ _ _)
    | (intro _ _)
    | (split; rename_i heq; have hk := congrArg Prod.snd heq; subst hk)
    | split

theorem Kept.abandonRecovery {v : Held} {c : Chip} (hc : Kept v c) (hr : v.mram = none) :
    Kept v (Chip.abandonRecovery c) := by
  unfold Machine.Chip.abandonRecovery
  with_reducible repeat' first
    | assumption
    | (extract_lets +onlyGivenNames y; first | (refine Kept.have_ (v := v) (x := y) ?_ ?_; (on_goal 1 => subst y); (on_goal 2 => (intro hy; clear_value y))) | clear_value y)
    | apply Kept.setFlag
    | apply Kept.setSaf
    | apply Kept.setFlock
    | apply Kept.setFlockState
    | apply Kept.showSingle
    | apply Kept.endSingle
    | apply Kept.forN
    | simp only [Kept.upd_iff]
    | apply Kept.foldl
    | apply Kept.foldl_pair
    | (intro _ _ _)
    | (intro _ _)
    | (split; rename_i heq; have hk := congrArg Prod.snd heq; subst hk)
    | split

theorem Kept.leaveRecovery {v : Held} {c : Chip} {f : Nat} (hc : Kept v c) :
    Kept v (Chip.leaveRecovery c f) := by
  unfold Machine.Chip.leaveRecovery
  with_reducible repeat' first
    | assumption
    | (extract_lets +onlyGivenNames y; first | (refine Kept.have_ (v := v) (x := y) ?_ ?_; (on_goal 1 => subst y); (on_goal 2 => (intro hy; clear_value y))) | clear_value y)
    | apply Kept.setFlag
    | apply Kept.setSaf
    | apply Kept.forN
    | simp only [Kept.upd_iff]
    | (intro _ _ _)
    | (intro _ _)
    | (split; rename_i heq; have hk := congrArg Prod.snd heq; subst hk)
    | split

theorem Kept.commandResult {v : Held} {c : Chip} {word : ℕ} {reason : ℕ} (hc : Kept v c) (hr : v.mram = none) :
    Kept v (Chip.commandResult c word reason) := by
  unfold Machine.Chip.commandResult
  with_reducible repeat' first
    | assumption
    | (extract_lets +onlyGivenNames y; first | (refine Kept.have_ (v := v) (x := y) ?_ ?_; (on_goal 1 => subst y); (on_goal 2 => (intro hy; clear_value y))) | clear_value y)
    | apply Kept.put
    | apply Kept.logSafety
    | apply Kept.raiseEv
    | apply Kept.forN
    | simp only [Kept.upd_iff]
    | (intro _ _ _)
    | (intro _ _)
    | (split; rename_i heq; have hk := congrArg Prod.snd heq; subst hk)
    | split

theorem Kept.refuseReleased {v : Held} {c : Chip} {mask : ℕ} (hc : Kept v c) (hr : v.mram = none) :
    Kept v (Chip.refuseReleased c mask) := by
  unfold Machine.Chip.refuseReleased
  with_reducible repeat' first
    | assumption
    | (extract_lets +onlyGivenNames y; first | (refine Kept.have_ (v := v) (x := y) ?_ ?_; (on_goal 1 => subst y); (on_goal 2 => (intro hy; clear_value y))) | clear_value y)
    | apply Kept.commandResult
    | apply Kept.setSaf
    | apply Kept.abandonRecovery
    | apply Kept.forN
    | simp only [Kept.upd_iff]
    | (intro _ _ _)
    | (intro _ _)
    | (split; rename_i heq; have hk := congrArg Prod.snd heq; subst hk)
    | split

theorem Kept.demandFlocks {v : Held} {c : Chip} {mask : Nat} {cause : Nat} {state : Nat} {unit : Nat} (hc : Kept v c) (hr : v.mram = none) :
    Kept v (Chip.demandFlocks c mask cause state unit) := by
  unfold Machine.Chip.demandFlocks
  with_reducible repeat' first
    | assumption
    | (extract_lets +onlyGivenNames y; first | (refine Kept.have_ (v := v) (x := y) ?_ ?_; (on_goal 1 => subst y); (on_goal 2 => (intro hy; clear_value y))) | clear_value y)
    | apply Kept.setFlock
    | apply Kept.latchCause
    | apply Kept.raiseFlock
    | apply Kept.leaveRecovery
    | apply Kept.refuseReleased
    | apply Kept.forN
    | simp only [Kept.upd_iff]
    | apply Kept.foldl
    | apply Kept.foldl_pair
    | (intro _ _ _)
    | (intro _ _)
    | (split; rename_i heq; have hk := congrArg Prod.snd heq; subst hk)
    | split

theorem Kept.faultFlocks {v : Held} {c : Chip} {mask : ℕ} {cause : ℕ} {state : ℕ} {unit : ℕ} (hc : Kept v c) (hr : v.mram = none) :
    Kept v (Chip.faultFlocks c mask cause state unit) := by
  unfold Machine.Chip.faultFlocks
  with_reducible repeat' first
    | assumption
    | (extract_lets +onlyGivenNames y; first | (refine Kept.have_ (v := v) (x := y) ?_ ?_; (on_goal 1 => subst y); (on_goal 2 => (intro hy; clear_value y))) | clear_value y)
    | apply Kept.abandonRecovery
    | apply Kept.latchCause
    | apply Kept.raiseEv
    | apply Kept.logSafety
    | apply Kept.raiseFlock
    | apply Kept.setSaf
    | apply Kept.forN
    | simp only [Kept.upd_iff]
    | apply Kept.foldl
    | apply Kept.foldl_pair
    | (intro _ _ _)
    | (intro _ _)
    | (split; rename_i heq; have hk := congrArg Prod.snd heq; subst hk)
    | split

theorem Kept.clearCause {v : Held} {c : Chip} {mask : ℕ} {unit : ℕ} {fault : Bool} (hc : Kept v c) (hr : v.mram = none) :
    Kept v (Chip.clearCause c mask unit fault) := by
  unfold Machine.Chip.clearCause
  with_reducible repeat' first
    | assumption
    | (extract_lets +onlyGivenNames y; first | (refine Kept.have_ (v := v) (x := y) ?_ ?_; (on_goal 1 => subst y); (on_goal 2 => (intro hy; clear_value y))) | clear_value y)
    | apply Kept.setFlock
    | apply Kept.logSafety
    | apply Kept.forN
    | simp only [Kept.upd_iff]
    | apply Kept.foldl
    | apply Kept.foldl_pair
    | (intro _ _ _)
    | (intro _ _)
    | (split; rename_i heq; have hk := congrArg Prod.snd heq; subst hk)
    | split

theorem Kept.beginRecovery {v : Held} {c : Chip} {flocks : List Nat} (hc : Kept v c) :
    Kept v (Chip.beginRecovery c flocks) := by
  unfold Machine.Chip.beginRecovery
  with_reducible repeat' first
    | assumption
    | (extract_lets +onlyGivenNames y; first | (refine Kept.have_ (v := v) (x := y) ?_ ?_; (on_goal 1 => subst y); (on_goal 2 => (intro hy; clear_value y))) | clear_value y)
    | apply Kept.setFlag
    | apply Kept.setSaf
    | apply Kept.forN
    | simp only [Kept.upd_iff]
    | (intro _ _ _)
    | (intro _ _)
    | (split; rename_i heq; have hk := congrArg Prod.snd heq; subst hk)
    | split

theorem Kept.recoverFlocks {v : Held} {c : Chip} {flocks : List Nat} (hc : Kept v c) (hr : v.mram = none) :
    Kept v (Chip.recoverFlocks c flocks) := by
  unfold Machine.Chip.recoverFlocks
  with_reducible repeat' first
    | assumption
    | (extract_lets +onlyGivenNames y; first | (refine Kept.have_ (v := v) (x := y) ?_ ?_; (on_goal 1 => subst y); (on_goal 2 => (intro hy; clear_value y))) | clear_value y)
    | apply Kept.setFlock
    | apply Kept.setFlockState
    | apply Kept.beginRecovery
    | apply Kept.forN
    | simp only [Kept.upd_iff]
    | apply Kept.foldl
    | apply Kept.foldl_pair
    | (intro _ _ _)
    | (intro _ _)
    | (split; rename_i heq; have hk := congrArg Prod.snd heq; subst hk)
    | split

theorem Kept.beginSingle {v : Held} {c : Chip} (hc : Kept v c) (hr : v.mram = none) :
    Kept v (Chip.beginSingle c) := by
  unfold Machine.Chip.beginSingle
  with_reducible repeat' first
    | assumption
    | (extract_lets +onlyGivenNames y; first | (refine Kept.have_ (v := v) (x := y) ?_ ?_; (on_goal 1 => subst y); (on_goal 2 => (intro hy; clear_value y))) | clear_value y)
    | apply Kept.setSaf
    | apply Kept.showSingle
    | apply Kept.abandonRecovery
    | apply Kept.forN
    | simp only [Kept.upd_iff]
    | (intro _ _ _)
    | (intro _ _)
    | (split; rename_i heq; have hk := congrArg Prod.snd heq; subst hk)
    | split

theorem Kept.recoverNetwork {v : Held} {c : Chip} (hc : Kept v c) (hr : v.mram = none) :
    Kept v (Chip.recoverNetwork c) := by
  unfold Machine.Chip.recoverNetwork
  with_reducible repeat' first
    | assumption
    | (extract_lets +onlyGivenNames y; first | (refine Kept.have_ (v := v) (x := y) ?_ ?_; (on_goal 1 => subst y); (on_goal 2 => (intro hy; clear_value y))) | clear_value y)
    | apply Kept.setFlag
    | apply Kept.setSaf
    | apply Kept.clearCause
    | apply Kept.showSingle
    | apply Kept.forN
    | simp only [Kept.upd_iff]
    | (intro _ _ _)
    | (intro _ _)
    | (split; rename_i heq; have hk := congrArg Prod.snd heq; subst hk)
    | split

theorem Kept.startWaiting {v : Held} {c : Chip} (hc : Kept v c) (hr : v.mram = none) :
    Kept v (Chip.startWaiting c) := by
  unfold Machine.Chip.startWaiting
  with_reducible repeat' first
    | assumption
    | (extract_lets +onlyGivenNames y; first | (refine Kept.have_ (v := v) (x := y) ?_ ?_; (on_goal 1 => subst y); (on_goal 2 => (intro hy; clear_value y))) | clear_value y)
    | apply Kept.recoverNetwork
    | apply Kept.setSaf
    | apply Kept.recoverFlocks
    | apply Kept.forN
    | simp only [Kept.upd_iff]
    | (intro _ _ _)
    | (intro _ _)
    | (split; rename_i heq; have hk := congrArg Prod.snd heq; subst hk)
    | split

theorem Kept.showBlock {v : Held} {c : Chip} (hc : Kept v c) :
    Kept v (Chip.showBlock c) := by
  unfold Machine.Chip.showBlock
  with_reducible repeat' first
    | assumption
    | (extract_lets +onlyGivenNames y; first | (refine Kept.have_ (v := v) (x := y) ?_ ?_; (on_goal 1 => subst y); (on_goal 2 => (intro hy; clear_value y))) | clear_value y)
    | apply Kept.put
    | apply Kept.setFlag
    | apply Kept.forN
    | simp only [Kept.upd_iff]
    | (intro _ _ _)
    | (intro _ _)
    | (split; rename_i heq; have hk := congrArg Prod.snd heq; subst hk)
    | split

theorem Kept.computeBlock {v : Held} {c : Chip} (hc : Kept v c) :
    Kept v (Chip.computeBlock c) := by
  unfold Machine.Chip.computeBlock
  with_reducible repeat' first
    | assumption
    | (extract_lets +onlyGivenNames y; first | (refine Kept.have_ (v := v) (x := y) ?_ ?_; (on_goal 1 => subst y); (on_goal 2 => (intro hy; clear_value y))) | clear_value y)
    | apply Kept.put
    | apply Kept.forN
    | simp only [Kept.upd_iff]
    | (intro _ _ _)
    | (intro _ _)
    | (split; rename_i heq; have hk := congrArg Prod.snd heq; subst hk)
    | split

theorem Kept.showConfirmed {v : Held} {c : Chip} (hc : Kept v c) :
    Kept v (Chip.showConfirmed c) := by
  unfold Machine.Chip.showConfirmed
  with_reducible repeat' first
    | assumption
    | (extract_lets +onlyGivenNames y; first | (refine Kept.have_ (v := v) (x := y) ?_ ?_; (on_goal 1 => subst y); (on_goal 2 => (intro hy; clear_value y))) | clear_value y)
    | apply Kept.setFlag
    | apply Kept.forN
    | simp only [Kept.upd_iff]
    | (intro _ _ _)
    | (intro _ _)
    | (split; rename_i heq; have hk := congrArg Prod.snd heq; subst hk)
    | split

theorem Kept.stopSafety {v : Held} {c : Chip} (hc : Kept v c) (hr : v.mram = none) :
    Kept v (Chip.stopSafety c) := by
  unfold Machine.Chip.stopSafety
  with_reducible repeat' first
    | assumption
    | (extract_lets +onlyGivenNames y; first | (refine Kept.have_ (v := v) (x := y) ?_ ?_; (on_goal 1 => subst y); (on_goal 2 => (intro hy; clear_value y))) | clear_value y)
    | apply Kept.setFlock
    | apply Kept.setFlockState
    | apply Kept.setSaf
    | apply Kept.settleSafety
    | apply Kept.setFlag
    | apply Kept.forN
    | simp only [Kept.upd_iff]
    | (intro _ _ _)
    | (intro _ _)
    | (split; rename_i heq; have hk := congrArg Prod.snd heq; subst hk)
    | split

theorem Kept.startSafety {v : Held} {c : Chip} (hc : Kept v c) :
    Kept v (Chip.startSafety c) := by
  unfold Machine.Chip.startSafety
  with_reducible repeat' first
    | assumption
    | (extract_lets +onlyGivenNames y; first | (refine Kept.have_ (v := v) (x := y) ?_ ?_; (on_goal 1 => subst y); (on_goal 2 => (intro hy; clear_value y))) | clear_value y)
    | apply Kept.settleSafety
    | apply Kept.showConfirmed
    | apply Kept.showBlock
    | apply Kept.computeBlock
    | apply Kept.setSaf
    | apply Kept.forN
    | simp only [Kept.upd_iff]
    | (intro _ _ _)
    | (intro _ _)
    | (split; rename_i heq; have hk := congrArg Prod.snd heq; subst hk)
    | split

theorem Kept.calCrcUpdate {v : Held} {c : Chip} (hc : Kept v c) :
    Kept v (calCrcUpdate c) := by
  unfold Machine.calCrcUpdate
  with_reducible repeat' first
    | assumption
    | (extract_lets +onlyGivenNames y; first | (refine Kept.have_ (v := v) (x := y) ?_ ?_; (on_goal 1 => subst y); (on_goal 2 => (intro hy; clear_value y))) | clear_value y)
    | apply Kept.put
    | apply Kept.forN
    | simp only [Kept.upd_iff]
    | (intro _ _ _)
    | (intro _ _)
    | (split; rename_i heq; have hk := congrArg Prod.snd heq; subst hk)
    | split

theorem Kept.appendAudit {v : Held} {c : Chip} {rec_ : List ℕ} (hc : Kept v c) (hr : v.mram = none) :
    Kept v (Chip.appendAudit c rec_) := by
  unfold Machine.Chip.appendAudit
  with_reducible repeat' first
    | assumption
    | (extract_lets +onlyGivenNames y; first | (refine Kept.have_ (v := v) (x := y) ?_ ?_; (on_goal 1 => subst y); (on_goal 2 => (intro hy; clear_value y))) | clear_value y)
    | apply Kept.appendLog
    | apply Kept.forN
    | simp only [Kept.upd_iff]
    | (intro _ _ _)
    | (intro _ _)
    | (split; rename_i heq; have hk := congrArg Prod.snd heq; subst hk)
    | split

theorem Kept.sealCancel {v : Held} {c : Chip} (hc : Kept v c) (hr : v.mram = none) :
    Kept v (Chip.sealCancel c) := by
  unfold Machine.Chip.sealCancel
  with_reducible repeat' first
    | assumption
    | (extract_lets +onlyGivenNames y; first | (refine Kept.have_ (v := v) (x := y) ?_ ?_; (on_goal 1 => subst y); (on_goal 2 => (intro hy; clear_value y))) | clear_value y)
    | apply Kept.put
    | apply Kept.raiseEv
    | apply Kept.mirror
    | apply Kept.setSlot
    | apply Kept.appendAudit
    | apply Kept.forN
    | simp only [Kept.upd_iff]
    | (intro _ _ _)
    | (intro _ _)
    | (split; rename_i heq; have hk := congrArg Prod.snd heq; subst hk)
    | split

theorem Kept.metSealChange {v : Held} {c : Chip} (hc : Kept v c) (hr : v.mram = none) :
    Kept v (metSealChange c) := by
  unfold Machine.metSealChange
  with_reducible repeat' first
    | assumption
    | (extract_lets +onlyGivenNames y; first | (refine Kept.have_ (v := v) (x := y) ?_ ?_; (on_goal 1 => subst y); (on_goal 2 => (intro hy; clear_value y))) | clear_value y)
    | apply Kept.setFlag
    | apply Kept.appendAudit
    | apply Kept.sealCancel
    | apply Kept.forN
    | simp only [Kept.upd_iff]
    | (intro _ _ _)
    | (intro _ _)
    | (split; rename_i heq; have hk := congrArg Prod.snd heq; subst hk)
    | split

theorem Kept.sealEdge {v : Held} {c : Chip} {pin : Bool} (hc : Kept v c) :
    Kept v (Chip.sealEdge c pin) := by
  unfold Machine.Chip.sealEdge
  with_reducible repeat' first
    | assumption
    | (extract_lets +onlyGivenNames y; first | (refine Kept.have_ (v := v) (x := y) ?_ ?_; (on_goal 1 => subst y); (on_goal 2 => (intro hy; clear_value y))) | clear_value y)
    | apply Kept.forN
    | simp only [Kept.upd_iff]
    | (intro _ _ _)
    | (intro _ _)
    | (split; rename_i heq; have hk := congrArg Prod.snd heq; subst hk)
    | split

theorem Kept.dieTempRead {v : Held} {t : ℤ} {c : Chip} (hc : Kept v c) :
    Kept v (dieTempRead t c) := by
  unfold Machine.dieTempRead
  with_reducible repeat' first
    | assumption
    | (extract_lets +onlyGivenNames y; first | (refine Kept.have_ (v := v) (x := y) ?_ ?_; (on_goal 1 => subst y); (on_goal 2 => (intro hy; clear_value y))) | clear_value y)
    | apply Kept.putS
    | apply Kept.clearFault
    | apply Kept.forN
    | simp only [Kept.upd_iff]
    | (intro _ _ _)
    | (intro _ _)
    | (split; rename_i heq; have hk := congrArg Prod.snd heq; subst hk)
    | split

theorem Kept.tauTrimStep {v : Held} {c : Chip} (hc : Kept v c) :
    Kept v (tauTrimStep c) := by
  unfold Machine.tauTrimStep
  with_reducible repeat' first
    | assumption
    | (extract_lets +onlyGivenNames y; first | (refine Kept.have_ (v := v) (x := y) ?_ ?_; (on_goal 1 => subst y); (on_goal 2 => (intro hy; clear_value y))) | clear_value y)
    | apply Kept.putS
    | apply Kept.forN
    | simp only [Kept.upd_iff]
    | (intro _ _ _)
    | (intro _ _)
    | (split; rename_i heq; have hk := congrArg Prod.snd heq; subst hk)
    | split

theorem Kept.handoverWindowOpen {v : Held} {acc : Access} {x1 : ℕ} {c : Chip} (hc : Kept v c) :
    Kept v (handoverWindowOpen acc x1 c) := by
  unfold Machine.handoverWindowOpen
  with_reducible repeat' first
    | assumption
    | (extract_lets +onlyGivenNames y; first | (refine Kept.have_ (v := v) (x := y) ?_ ?_; (on_goal 1 => subst y); (on_goal 2 => (intro hy; clear_value y))) | clear_value y)
    | apply Kept.write
    | apply Kept.setFlag
    | apply Kept.forN
    | simp only [Kept.upd_iff]
    | (intro _ _ _)
    | (intro _ _)
    | (split; rename_i heq; have hk := congrArg Prod.snd heq; subst hk)
    | split

theorem Kept.setTrf {v : Held} {c : Chip} {f : Tariff → Tariff} (hc : Kept v c) :
    Kept v (Chip.setTrf c f) := by
  unfold Machine.Chip.setTrf
  with_reducible repeat' first
    | assumption
    | (extract_lets +onlyGivenNames y; first | (refine Kept.have_ (v := v) (x := y) ?_ ?_; (on_goal 1 => subst y); (on_goal 2 => (intro hy; clear_value y))) | clear_value y)
    | apply Kept.forN
    | simp only [Kept.upd_iff]
    | (intro _ _ _)
    | (intro _ _)
    | (split; rename_i heq; have hk := congrArg Prod.snd heq; subst hk)
    | split

theorem Kept.lookupNext {v : Held} {c : Chip} (hc : Kept v c) :
    Kept v (Chip.lookupNext c) := by
  unfold Machine.Chip.lookupNext
  with_reducible repeat' first
    | assumption
    | (extract_lets +onlyGivenNames y; first | (refine Kept.have_ (v := v) (x := y) ?_ ?_; (on_goal 1 => subst y); (on_goal 2 => (intro hy; clear_value y))) | clear_value y)
    | apply Kept.setTrf
    | apply Kept.put
    | apply Kept.setFlag
    | apply Kept.raiseEv
    | apply Kept.forN
    | simp only [Kept.upd_iff]
    | (intro _ _ _)
    | (intro _ _)
    | (split; rename_i heq; have hk := congrArg Prod.snd heq; subst hk)
    | split

theorem Kept.storeCal {v : Held} {c : Chip} {k : ℕ} {x2 : ℕ} (hc : Kept v c) :
    Kept v (Chip.storeCal c k x2) := by
  unfold Machine.Chip.storeCal
  with_reducible repeat' first
    | assumption
    | (extract_lets +onlyGivenNames y; first | (refine Kept.have_ (v := v) (x := y) ?_ ?_; (on_goal 1 => subst y); (on_goal 2 => (intro hy; clear_value y))) | clear_value y)
    | apply Kept.setFlag
    | apply Kept.setTrf
    | apply Kept.forN
    | simp only [Kept.upd_iff]
    | (intro _ _ _)
    | (intro _ _)
    | (split; rename_i heq; have hk := congrArg Prod.snd heq; subst hk)
    | split

theorem Kept.advanceCal {v : Held} {c : Chip} {acc : Access} (hc : Kept v c) :
    Kept v (Chip.advanceCal c acc) := by
  unfold Machine.Chip.advanceCal
  with_reducible repeat' first
    | assumption
    | (extract_lets +onlyGivenNames y; first | (refine Kept.have_ (v := v) (x := y) ?_ ?_; (on_goal 1 => subst y); (on_goal 2 => (intro hy; clear_value y))) | clear_value y)
    | apply Kept.put
    | apply Kept.forN
    | simp only [Kept.upd_iff]
    | (intro _ _ _)
    | (intro _ _)
    | (split; rename_i heq; have hk := congrArg Prod.snd heq; subst hk)
    | split

theorem Kept.calendarDataAccess {v : Held} {acc : Access} {write : Bool} {x2 : ℕ} {mirror : Option ℕ} {c : Chip} (hc : Kept v c) :
    Kept v (calendarDataAccess acc write x2 mirror c) := by
  unfold Machine.calendarDataAccess
  with_reducible repeat' first
    | assumption
    | (extract_lets +onlyGivenNames y; first | (refine Kept.have_ (v := v) (x := y) ?_ ?_; (on_goal 1 => subst y); (on_goal 2 => (intro hy; clear_value y))) | clear_value y)
    | apply Kept.storeCal
    | apply Kept.violate
    | apply Kept.write
    | apply Kept.mirror
    | apply Kept.advanceCal
    | apply Kept.read
    | apply Kept.forN
    | simp only [Kept.upd_iff]
    | (intro _ _ _)
    | (intro _ _)
    | (split; rename_i heq; have hk := congrArg Prod.snd heq; subst hk)
    | split

theorem Kept.armCalendar {v : Held} {c : Chip} (hc : Kept v c) :
    Kept v (Chip.armCalendar c) := by
  unfold Machine.Chip.armCalendar
  with_reducible repeat' first
    | assumption
    | (extract_lets +onlyGivenNames y; first | (refine Kept.have_ (v := v) (x := y) ?_ ?_; (on_goal 1 => subst y); (on_goal 2 => (intro hy; clear_value y))) | clear_value y)
    | apply Kept.put
    | apply Kept.raiseEv
    | apply Kept.setFlag
    | apply Kept.setTrf
    | apply Kept.forN
    | simp only [Kept.upd_iff]
    | (intro _ _ _)
    | (intro _ _)
    | (split; rename_i heq; have hk := congrArg Prod.snd heq; subst hk)
    | split

theorem Kept.pcmd {v : Held} {c : Chip} {acc : Access} {x2 : ℕ} {mirror : Option ℕ} {f : Chip → Chip} (hc : Kept v c) (hf : ∀ c, Kept v c → Kept v (f c)) :
    Kept v (Chip.pcmd c acc x2 mirror f) := by
  unfold Machine.Chip.pcmd
  with_reducible repeat' first
    | assumption
    | (extract_lets +onlyGivenNames y; first | (refine Kept.have_ (v := v) (x := y) ?_ ?_; (on_goal 1 => subst y); (on_goal 2 => (intro hy; clear_value y))) | clear_value y)
    | apply hf
    | apply Kept.put64
    | apply Kept.violate
    | apply Kept.write
    | apply Kept.mirror
    | apply Kept.forN
    | simp only [Kept.upd_iff]
    | (intro _ _ _)
    | (intro _ _)
    | (split; rename_i heq; have hk := congrArg Prod.snd heq; subst hk)
    | split

theorem Kept.calendarArm {v : Held} {acc : Access} {w_ : Nat} {mirror : Option Nat} {c : Chip} (hc : Kept v c) :
    Kept v (calendarArm acc w_ mirror c) := by
  unfold Machine.calendarArm
  with_reducible repeat' first
    | assumption
    | (extract_lets +onlyGivenNames y; first | (refine Kept.have_ (v := v) (x := y) ?_ ?_; (on_goal 1 => subst y); (on_goal 2 => (intro hy; clear_value y))) | clear_value y)
    | apply Kept.mirror
    | apply Kept.armCalendar
    | apply Kept.pcmd
    | apply Kept.forN
    | simp only [Kept.upd_iff]
    | (intro _ _ _)
    | (intro _ _)
    | (split; rename_i heq; have hk := congrArg Prod.snd heq; subst hk)
    | split

theorem Kept.calendarCancel {v : Held} {acc : Access} {w_ : Nat} {mirror : Option Nat} {c : Chip} (hc : Kept v c) :
    Kept v (calendarCancel acc w_ mirror c) := by
  unfold Machine.calendarCancel
  with_reducible repeat' first
    | assumption
    | (extract_lets +onlyGivenNames y; first | (refine Kept.have_ (v := v) (x := y) ?_ ?_; (on_goal 1 => subst y); (on_goal 2 => (intro hy; clear_value y))) | clear_value y)
    | apply Kept.put
    | apply Kept.mirror
    | apply Kept.pcmd
    | apply Kept.forN
    | simp only [Kept.upd_iff]
    | (intro _ _ _)
    | (intro _ _)
    | (split; rename_i heq; have hk := congrArg Prod.snd heq; subst hk)
    | split

theorem Kept.calendarActivate {v : Held} {c : Chip} (hc : Kept v c) (hr : v.mram = none) :
    Kept v (calendarActivate c) := by
  unfold Machine.calendarActivate
  with_reducible repeat' first
    | assumption
    | (extract_lets +onlyGivenNames y; first | (refine Kept.have_ (v := v) (x := y) ?_ ?_; (on_goal 1 => subst y); (on_goal 2 => (intro hy; clear_value y))) | clear_value y)
    | apply Kept.setTrf
    | apply Kept.put
    | apply Kept.put64
    | apply Kept.raiseEv
    | apply Kept.appendAudit
    | apply Kept.lookupNext
    | apply Kept.journal
    | apply Kept.forN
    | simp only [Kept.upd_iff]
    | (intro _ _ _)
    | (intro _ _)
    | (split; rename_i heq; have hk := congrArg Prod.snd heq; subst hk)
    | split

theorem Kept.passiveCrcUpdate {v : Held} {c : Chip} (hc : Kept v c) :
    Kept v (passiveCrcUpdate c) := by
  unfold Machine.passiveCrcUpdate
  with_reducible repeat' first
    | assumption
    | (extract_lets +onlyGivenNames y; first | (refine Kept.have_ (v := v) (x := y) ?_ ?_; (on_goal 1 => subst y); (on_goal 2 => (intro hy; clear_value y))) | clear_value y)
    | apply Kept.setTrf
    | apply Kept.put
    | apply Kept.forN
    | simp only [Kept.upd_iff]
    | (intro _ _ _)
    | (intro _ _)
    | (split; rename_i heq; have hk := congrArg Prod.snd heq; subst hk)
    | split

theorem Kept.setDmd {v : Held} {c : Chip} {f : Demand → Demand} (hc : Kept v c) :
    Kept v (Chip.setDmd c f) := by
  unfold Machine.Chip.setDmd
  with_reducible repeat' first
    | assumption
    | (extract_lets +onlyGivenNames y; first | (refine Kept.have_ (v := v) (x := y) ?_ ?_; (on_goal 1 => subst y); (on_goal 2 => (intro hy; clear_value y))) | clear_value y)
    | apply Kept.forN
    | simp only [Kept.upd_iff]
    | (intro _ _ _)
    | (intro _ _)
    | (split; rename_i heq; have hk := congrArg Prod.snd heq; subst hk)
    | split

theorem Kept.loadDemand {v : Held} {c : Chip} (hc : Kept v c) :
    Kept v (Chip.loadDemand c) := by
  unfold Machine.Chip.loadDemand
  with_reducible repeat' first
    | assumption
    | (extract_lets +onlyGivenNames y; first | (refine Kept.have_ (v := v) (x := y) ?_ ?_; (on_goal 1 => subst y); (on_goal 2 => (intro hy; clear_value y))) | clear_value y)
    | apply Kept.setDmd
    | apply Kept.faultIs
    | apply Kept.setFlag
    | apply Kept.raiseEv
    | apply Kept.put
    | apply Kept.forN
    | simp only [Kept.upd_iff]
    | (intro _ _ _)
    | (intro _ _)
    | (split; rename_i heq; have hk := congrArg Prod.snd heq; subst hk)
    | split

theorem Kept.showDemand {v : Held} {c : Chip} (hc : Kept v c) :
    Kept v (Chip.showDemand c) := by
  unfold Machine.Chip.showDemand
  with_reducible repeat' first
    | assumption
    | (extract_lets +onlyGivenNames y; first | (refine Kept.have_ (v := v) (x := y) ?_ ?_; (on_goal 1 => subst y); (on_goal 2 => (intro hy; clear_value y))) | clear_value y)
    | apply Kept.put
    | apply Kept.put64
    | apply Kept.setFlag
    | apply Kept.forN
    | simp only [Kept.upd_iff]
    | (intro _ _ _)
    | (intro _ _)
    | (split; rename_i heq; have hk := congrArg Prod.snd heq; subst hk)
    | split

theorem Kept.setMax {v : Held} {c : Chip} {m : ℕ} {j : ℕ} {x3 : Maximum} (hc : Kept v c) :
    Kept v (Chip.setMax c m j x3) := by
  unfold Machine.Chip.setMax
  with_reducible repeat' first
    | assumption
    | (extract_lets +onlyGivenNames y; first | (refine Kept.have_ (v := v) (x := y) ?_ ?_; (on_goal 1 => subst y); (on_goal 2 => (intro hy; clear_value y))) | clear_value y)
    | apply Kept.modMeter
    | apply Kept.raiseEv
    | apply Kept.journal
    | apply Kept.forN
    | simp only [Kept.upd_iff]
    | (intro _ _ _)
    | (intro _ _)
    | (split; rename_i heq; have hk := congrArg Prod.snd heq; subst hk)
    | split

theorem Kept.raiseMax {v : Held} {c : Chip} {m : ℕ} {j : ℕ} {d : ℕ} {e : ℕ} {flags : ℕ} (hc : Kept v c) :
    Kept v (Chip.raiseMax c m j d e flags) := by
  unfold Machine.Chip.raiseMax
  with_reducible repeat' first
    | assumption
    | (extract_lets +onlyGivenNames y; first | (refine Kept.have_ (v := v) (x := y) ?_ ?_; (on_goal 1 => subst y); (on_goal 2 => (intro hy; clear_value y))) | clear_value y)
    | apply Kept.setMax
    | apply Kept.forN
    | simp only [Kept.upd_iff]
    | (intro _ _ _)
    | (intro _ _)
    | (split; rename_i heq; have hk := congrArg Prod.snd heq; subst hk)
    | split

theorem Kept.windowClose {v : Held} {c : Chip} {m : Nat} {e : Nat} (hc : Kept v c) :
    Kept v (Chip.windowClose c m e) := by
  unfold Machine.Chip.windowClose
  with_reducible repeat' first
    | assumption
    | (extract_lets +onlyGivenNames y; first | (refine Kept.have_ (v := v) (x := y) ?_ ?_; (on_goal 1 => subst y); (on_goal 2 => (intro hy; clear_value y))) | clear_value y)
    | apply Kept.setMeter
    | apply Kept.take
    | apply Kept.raiseMax
    | apply Kept.forN
    | simp only [Kept.upd_iff]
    | apply Kept.foldl
    | apply Kept.foldl_pair
    | (intro _ _ _)
    | (intro _ _)
    | (split; rename_i heq; have hk := congrArg Prod.snd heq; subst hk)
    | split

theorem Kept.closeSub {v : Held} {c : Chip} {e : Nat} {extra : Nat} (hc : Kept v c) :
    Kept v (Chip.closeSub c e extra) := by
  unfold Machine.Chip.closeSub
  with_reducible repeat' first
    | assumption
    | (extract_lets +onlyGivenNames y; first | (refine Kept.have_ (v := v) (x := y) ?_ ?_; (on_goal 1 => subst y); (on_goal 2 => (intro hy; clear_value y))) | clear_value y)
    | apply Kept.setMeter
    | apply Kept.raiseEv
    | apply Kept.journal
    | apply Kept.take
    | apply Kept.setDmd
    | apply Kept.windowClose
    | apply Kept.forN
    | simp only [Kept.upd_iff]
    | (intro _ _ _)
    | (intro _ _)
    | (split; rename_i heq; have hk := congrArg Prod.snd heq; subst hk)
    | split

theorem Kept.openSub {v : Held} {c : Chip} {s : ℕ} {flags : ℕ} (hc : Kept v c) :
    Kept v (Chip.openSub c s flags) := by
  unfold Machine.Chip.openSub
  with_reducible repeat' first
    | assumption
    | (extract_lets +onlyGivenNames y; first | (refine Kept.have_ (v := v) (x := y) ?_ ?_; (on_goal 1 => subst y); (on_goal 2 => (intro hy; clear_value y))) | clear_value y)
    | apply Kept.setDmd
    | apply Kept.setMeter
    | apply Kept.forN
    | simp only [Kept.upd_iff]
    | (intro _ _ _)
    | (intro _ _)
    | (split; rename_i heq; have hk := congrArg Prod.snd heq; subst hk)
    | split

theorem Kept.restartDemand {v : Held} {c : Chip} {reason : ℕ} (hc : Kept v c) :
    Kept v (Chip.restartDemand c reason) := by
  unfold Machine.Chip.restartDemand
  with_reducible repeat' first
    | assumption
    | (extract_lets +onlyGivenNames y; first | (refine Kept.have_ (v := v) (x := y) ?_ ?_; (on_goal 1 => subst y); (on_goal 2 => (intro hy; clear_value y))) | clear_value y)
    | apply Kept.setDmd
    | apply Kept.modMeter
    | apply Kept.journal
    | apply Kept.forN
    | simp only [Kept.upd_iff]
    | (intro _ _ _)
    | (intro _ _)
    | (split; rename_i heq; have hk := congrArg Prod.snd heq; subst hk)
    | split

theorem Kept.demandEdge {v : Held} {c : Chip} {row : LedgerRow} {l : ℕ} (hc : Kept v c) :
    Kept v (Chip.demandEdge c row l) := by
  unfold Machine.Chip.demandEdge
  with_reducible repeat' first
    | assumption
    | (extract_lets +onlyGivenNames y; first | (refine Kept.have_ (v := v) (x := y) ?_ ?_; (on_goal 1 => subst y); (on_goal 2 => (intro hy; clear_value y))) | clear_value y)
    | apply Kept.setDmd
    | apply Kept.raiseEv
    | apply Kept.closeSub
    | apply Kept.loadDemand
    | apply Kept.restartDemand
    | apply Kept.openSub
    | apply Kept.forN
    | simp only [Kept.upd_iff]
    | (intro _ _ _)
    | (intro _ _)
    | (split; rename_i heq; have hk := congrArg Prod.snd heq; subst hk)
    | split

theorem Kept.demandClose {v : Held} {c : Chip} (hc : Kept v c) :
    Kept v (demandClose c) := by
  unfold Machine.demandClose
  with_reducible repeat' first
    | assumption
    | (extract_lets +onlyGivenNames y; first | (refine Kept.have_ (v := v) (x := y) ?_ ?_; (on_goal 1 => subst y); (on_goal 2 => (intro hy; clear_value y))) | clear_value y)
    | apply Kept.showDemand
    | apply Kept.openSub
    | apply Kept.closeSub
    | apply Kept.forN
    | simp only [Kept.upd_iff]
    | (intro _ _ _)
    | (intro _ _)
    | (split; rename_i heq; have hk := congrArg Prod.snd heq; subst hk)
    | split

theorem Kept.billingDues {v : Held} {c : Chip} {moved : Bool} (hc : Kept v c) :
    Kept v (Chip.billingDues c moved) := by
  unfold Machine.Chip.billingDues
  with_reducible repeat' first
    | assumption
    | (extract_lets +onlyGivenNames y; first | (refine Kept.have_ (v := v) (x := y) ?_ ?_; (on_goal 1 => subst y); (on_goal 2 => (intro hy; clear_value y))) | clear_value y)
    | apply Kept.setTrf
    | apply Kept.forN
    | simp only [Kept.upd_iff]
    | (intro _ _ _)
    | (intro _ _)
    | (split; rename_i heq; have hk := congrArg Prod.snd heq; subst hk)
    | split

theorem Kept.billingClose {v : Held} {c : Chip} (hc : Kept v c) (hr : v.mram = none) :
    Kept v (billingClose c) := by
  unfold Machine.billingClose
  with_reducible repeat' first
    | assumption
    | (extract_lets +onlyGivenNames y; first | (refine Kept.have_ (v := v) (x := y) ?_ ?_; (on_goal 1 => subst y); (on_goal 2 => (intro hy; clear_value y))) | clear_value y)
    | apply Kept.inc
    | apply Kept.setTrf
    | apply Kept.put
    | apply Kept.put64
    | apply Kept.raiseEv
    | apply Kept.setFlag
    | apply Kept.store
    | apply Kept.journal
    | apply Kept.modMeter
    | apply Kept.forN
    | simp only [Kept.upd_iff]
    | (intro _ _ _)
    | (intro _ _)
    | (split; rename_i heq; have hk := congrArg Prod.snd heq; subst hk)
    | split

theorem Kept.setLed {v : Held} {c : Chip} {f : Ledger → Ledger} (hc : Kept v c) :
    Kept v (Chip.setLed c f) := by
  unfold Machine.Chip.setLed
  with_reducible repeat' first
    | assumption
    | (extract_lets +onlyGivenNames y; first | (refine Kept.have_ (v := v) (x := y) ?_ ?_; (on_goal 1 => subst y); (on_goal 2 => (intro hy; clear_value y))) | clear_value y)
    | apply Kept.forN
    | simp only [Kept.upd_iff]
    | (intro _ _ _)
    | (intro _ _)
    | (split; rename_i heq; have hk := congrArg Prod.snd heq; subst hk)
    | split

theorem Kept.flushStepFour {v : Held} {c : Chip} (hc : Kept v c) (hr : v.mram = none) :
    Kept v (Chip.flushStepFour c) := by
  unfold Machine.Chip.flushStepFour
  with_reducible repeat' first
    | assumption
    | (extract_lets +onlyGivenNames y; first | (refine Kept.have_ (v := v) (x := y) ?_ ?_; (on_goal 1 => subst y); (on_goal 2 => (intro hy; clear_value y))) | clear_value y)
    | apply Kept.appendAudit
    | apply Kept.setLed
    | apply Kept.appendLog
    | apply Kept.journal
    | apply Kept.forN
    | simp only [Kept.upd_iff]
    | apply Kept.foldl
    | apply Kept.foldl_pair
    | (intro _ _ _)
    | (intro _ _)
    | (split; rename_i heq; have hk := congrArg Prod.snd heq; subst hk)
    | split

theorem Kept.takeSave {v : Held} {c : Chip} (hc : Kept v c) :
    Kept v (Chip.takeSave c) := by
  unfold Machine.Chip.takeSave
  with_reducible repeat' first
    | assumption
    | (extract_lets +onlyGivenNames y; first | (refine Kept.have_ (v := v) (x := y) ?_ ?_; (on_goal 1 => subst y); (on_goal 2 => (intro hy; clear_value y))) | clear_value y)
    | apply Kept.raiseEv
    | apply Kept.inc
    | apply Kept.setLed
    | apply Kept.setFlag
    | apply Kept.forN
    | simp only [Kept.upd_iff]
    | (intro _ _ _)
    | (intro _ _)
    | (split; rename_i heq; have hk := congrArg Prod.snd heq; subst hk)
    | split

theorem Kept.periodicSave {v : Held} {c : Chip} (hc : Kept v c) (hr : v.mram = none) :
    Kept v (periodicSave c) := by
  unfold Machine.periodicSave
  with_reducible repeat' first
    | assumption
    | (extract_lets +onlyGivenNames y; first | (refine Kept.have_ (v := v) (x := y) ?_ ?_; (on_goal 1 => subst y); (on_goal 2 => (intro hy; clear_value y))) | clear_value y)
    | apply Kept.flushStepFour
    | apply Kept.takeSave
    | apply Kept.setLed
    | apply Kept.forN
    | simp only [Kept.upd_iff]
    | (intro _ _ _)
    | (intro _ _)
    | (split; rename_i heq; have hk := congrArg Prod.snd heq; subst hk)
    | split

theorem Kept.forceSaveCmd {v : Held} {acc : Access} {x1 : ℕ} {c : Chip} (hc : Kept v c) :
    Kept v (forceSaveCmd acc x1 c) := by
  unfold Machine.forceSaveCmd
  with_reducible repeat' first
    | assumption
    | (extract_lets +onlyGivenNames y; first | (refine Kept.have_ (v := v) (x := y) ?_ ?_; (on_goal 1 => subst y); (on_goal 2 => (intro hy; clear_value y))) | clear_value y)
    | apply Kept.write
    | apply Kept.setLed
    | apply Kept.forN
    | simp only [Kept.upd_iff]
    | (intro _ _ _)
    | (intro _ _)
    | (split; rename_i heq; have hk := congrArg Prod.snd heq; subst hk)
    | split

theorem Kept.saveComplete {v : Held} {c : Chip} (hc : Kept v c) :
    Kept v (saveComplete c) := by
  unfold Machine.saveComplete
  with_reducible repeat' first
    | assumption
    | (extract_lets +onlyGivenNames y; first | (refine Kept.have_ (v := v) (x := y) ?_ ?_; (on_goal 1 => subst y); (on_goal 2 => (intro hy; clear_value y))) | clear_value y)
    | apply Kept.setLed
    | apply Kept.put
    | apply Kept.setFlag
    | apply Kept.raiseEv
    | apply Kept.put64
    | apply Kept.forN
    | simp only [Kept.upd_iff]
    | (intro _ _ _)
    | (intro _ _)
    | (split; rename_i heq; have hk := congrArg Prod.snd heq; subst hk)
    | split

theorem Kept.pfwNAssert {v : Held} {c : Chip} (hc : Kept v c) :
    Kept v (pfwNAssert c) := by
  unfold Machine.pfwNAssert
  with_reducible repeat' first
    | assumption
    | (extract_lets +onlyGivenNames y; first | (refine Kept.have_ (v := v) (x := y) ?_ ?_; (on_goal 1 => subst y); (on_goal 2 => (intro hy; clear_value y))) | clear_value y)
    | apply Kept.setLed
    | apply Kept.forN
    | simp only [Kept.upd_iff]
    | (intro _ _ _)
    | (intro _ _)
    | (split; rename_i heq; have hk := congrArg Prod.snd heq; subst hk)
    | split

theorem Kept.takeCommit {v : Held} {c : Chip} (hc : Kept v c) (hr : v.mram = none) :
    Kept v (Chip.takeCommit c) := by
  unfold Machine.Chip.takeCommit
  with_reducible repeat' first
    | assumption
    | (extract_lets +onlyGivenNames y; first | (refine Kept.have_ (v := v) (x := y) ?_ ?_; (on_goal 1 => subst y); (on_goal 2 => (intro hy; clear_value y))) | clear_value y)
    | apply Kept.flushStepFour
    | apply Kept.setLed
    | apply Kept.put64
    | apply Kept.setFlag
    | apply Kept.forN
    | simp only [Kept.upd_iff]
    | (intro _ _ _)
    | (intro _ _)
    | (split; rename_i heq; have hk := congrArg Prod.snd heq; subst hk)
    | split

theorem Kept.powerFailCommit {v : Held} {c : Chip} (hc : Kept v c) (hr : v.mram = none) :
    Kept v (Chip.powerFailCommit c) := by
  unfold Machine.Chip.powerFailCommit
  with_reducible repeat' first
    | assumption
    | (extract_lets +onlyGivenNames y; first | (refine Kept.have_ (v := v) (x := y) ?_ ?_; (on_goal 1 => subst y); (on_goal 2 => (intro hy; clear_value y))) | clear_value y)
    | apply Kept.takeCommit
    | apply Kept.setFlag
    | apply Kept.setLed
    | apply Kept.raiseEv
    | apply Kept.forN
    | simp only [Kept.upd_iff]
    | (intro _ _ _)
    | (intro _ _)
    | (split; rename_i heq; have hk := congrArg Prod.snd heq; subst hk)
    | split

theorem Kept.pfwReleased {v : Held} {c : Chip} (hc : Kept v c) :
    Kept v (Chip.pfwReleased c) := by
  unfold Machine.Chip.pfwReleased
  with_reducible repeat' first
    | assumption
    | (extract_lets +onlyGivenNames y; first | (refine Kept.have_ (v := v) (x := y) ?_ ?_; (on_goal 1 => subst y); (on_goal 2 => (intro hy; clear_value y))) | clear_value y)
    | apply Kept.setFlag
    | apply Kept.setLed
    | apply Kept.raiseEv
    | apply Kept.clearFault
    | apply Kept.journal
    | apply Kept.setDmd
    | apply Kept.forN
    | simp only [Kept.upd_iff]
    | (intro _ _ _)
    | (intro _ _)
    | (split; rename_i heq; have hk := congrArg Prod.snd heq; subst hk)
    | split

theorem Kept.pfwAccept {v : Held} {c : Chip} (hc : Kept v c) (hr : v.mram = none) :
    Kept v (pfwAccept c) := by
  unfold Machine.pfwAccept
  with_reducible repeat' first
    | assumption
    | (extract_lets +onlyGivenNames y; first | (refine Kept.have_ (v := v) (x := y) ?_ ?_; (on_goal 1 => subst y); (on_goal 2 => (intro hy; clear_value y))) | clear_value y)
    | apply Kept.pfwReleased
    | apply Kept.raiseEv
    | apply Kept.inc
    | apply Kept.setFlag
    | apply Kept.powerFailCommit
    | apply Kept.forN
    | simp only [Kept.upd_iff]
    | (intro _ _ _)
    | (intro _ _)
    | (split; rename_i heq; have hk := congrArg Prod.snd heq; subst hk)
    | split

theorem Kept.commitWritten {v : Held} {c : Chip} (hc : Kept v c) :
    Kept v (commitWritten c) := by
  unfold Machine.commitWritten
  with_reducible repeat' first
    | assumption
    | (extract_lets +onlyGivenNames y; first | (refine Kept.have_ (v := v) (x := y) ?_ ?_; (on_goal 1 => subst y); (on_goal 2 => (intro hy; clear_value y))) | clear_value y)
    | apply Kept.setLed
    | apply Kept.raiseEv
    | apply Kept.forN
    | simp only [Kept.upd_iff]
    | (intro _ _ _)
    | (intro _ _)
    | (split; rename_i heq; have hk := congrArg Prod.snd heq; subst hk)
    | split

theorem Kept.tailRecord {v : Held} {c : Chip} (hc : Kept v c) :
    Kept v (tailRecord c) := by
  unfold Machine.tailRecord
  with_reducible repeat' first
    | assumption
    | (extract_lets +onlyGivenNames y; first | (refine Kept.have_ (v := v) (x := y) ?_ ?_; (on_goal 1 => subst y); (on_goal 2 => (intro hy; clear_value y))) | clear_value y)
    | apply Kept.put
    | apply Kept.setLed
    | apply Kept.forN
    | simp only [Kept.upd_iff]
    | apply Kept.foldl
    | apply Kept.foldl_pair
    | (intro _ _ _)
    | (intro _ _)
    | (split; rename_i heq; have hk := congrArg Prod.snd heq; subst hk)
    | split

theorem Kept.brownout {v : Held} {c : Chip} (hc : Kept v c) :
    Kept v (brownout c) := by
  unfold Machine.brownout
  with_reducible repeat' first
    | assumption
    | (extract_lets +onlyGivenNames y; first | (refine Kept.have_ (v := v) (x := y) ?_ ?_; (on_goal 1 => subst y); (on_goal 2 => (intro hy; clear_value y))) | clear_value y)
    | apply Kept.raiseEv
    | apply Kept.setFault
    | apply Kept.setFlag
    | apply Kept.forN
    | simp only [Kept.upd_iff]
    | (intro _ _ _)
    | (intro _ _)
    | (split; rename_i heq; have hk := congrArg Prod.snd heq; subst hk)
    | split

theorem Kept.pfwNRelease {v : Held} {c : Chip} (hc : Kept v c) :
    Kept v (pfwNRelease c) := by
  unfold Machine.pfwNRelease
  with_reducible repeat' first
    | assumption
    | (extract_lets +onlyGivenNames y; first | (refine Kept.have_ (v := v) (x := y) ?_ ?_; (on_goal 1 => subst y); (on_goal 2 => (intro hy; clear_value y))) | clear_value y)
    | apply Kept.setLed
    | apply Kept.forN
    | simp only [Kept.upd_iff]
    | (intro _ _ _)
    | (intro _ _)
    | (split; rename_i heq; have hk := congrArg Prod.snd heq; subst hk)
    | split

theorem Kept.resetCommit {v : Held} {c : Chip} (hc : Kept v c) (hr : v.mram = none) :
    Kept v (resetCommit c) := by
  unfold Machine.resetCommit
  with_reducible repeat' first
    | assumption
    | (extract_lets +onlyGivenNames y; first | (refine Kept.have_ (v := v) (x := y) ?_ ?_; (on_goal 1 => subst y); (on_goal 2 => (intro hy; clear_value y))) | clear_value y)
    | apply Kept.setLed
    | apply Kept.takeCommit
    | apply Kept.forN
    | simp only [Kept.upd_iff]
    | (intro _ _ _)
    | (intro _ _)
    | (split; rename_i heq; have hk := congrArg Prod.snd heq; subst hk)
    | split

theorem Kept.eachMeter {v : Held} {c : Chip} {f : ℕ → Meter → Meter} (hc : Kept v c) :
    Kept v (Chip.eachMeter c f) := by
  unfold Machine.Chip.eachMeter
  with_reducible repeat' first
    | assumption
    | (extract_lets +onlyGivenNames y; first | (refine Kept.have_ (v := v) (x := y) ?_ ?_; (on_goal 1 => subst y); (on_goal 2 => (intro hy; clear_value y))) | clear_value y)
    | apply Kept.setMeter
    | apply Kept.forN
    | simp only [Kept.upd_iff]
    | (intro _ _ _)
    | (intro _ _)
    | (split; rename_i heq; have hk := congrArg Prod.snd heq; subst hk)
    | split

theorem Kept.adoptSave {v : Held} {c : Chip} {s : LedgerImage} (hc : Kept v c) :
    Kept v (Chip.adoptSave c s) := by
  unfold Machine.Chip.adoptSave
  with_reducible repeat' first
    | assumption
    | (extract_lets +onlyGivenNames y; first | (refine Kept.have_ (v := v) (x := y) ?_ ?_; (on_goal 1 => subst y); (on_goal 2 => (intro hy; clear_value y))) | clear_value y)
    | apply Kept.eachMeter
    | apply Kept.setDmd
    | apply Kept.setTrf
    | apply Kept.put64
    | apply Kept.put
    | apply Kept.forN
    | simp only [Kept.upd_iff]
    | (intro _ _ _)
    | (intro _ _)
    | (split; rename_i heq; have hk := congrArg Prod.snd heq; subst hk)
    | split

theorem Kept.replay {v : Held} {c : Chip} {e : JournalEntry} {last : Option (ℕ × ℕ)} (hc : Kept v c) :
    Kept v ((Chip.replay c e last)).1 := by
  unfold Machine.Chip.replay
  with_reducible repeat' first
    | assumption
    | apply Kept.appliedReplay
    | (extract_lets +onlyGivenNames y; first | (refine Kept.have_ (v := v) (x := y) ?_ ?_; (on_goal 1 => subst y); (on_goal 2 => (intro hy; clear_value y))) | clear_value y)
    | apply Kept.setDmd
    | apply Kept.eachMeter
    | apply Kept.modMeter
    | apply Kept.put64
    | apply Kept.put
    | apply Kept.setTrf
    | apply Kept.setWord
    | apply Kept.creditEnergy
    | apply Kept.forN
    | simp only [Kept.upd_iff]
    | apply Kept.foldl
    | apply Kept.foldl_pair
    | (intro _ _ _)
    | (intro _ _)
    | (split; rename_i heq; have hk := congrArg Prod.snd heq; subst hk)
    | split

theorem Kept.replayFrom {v : Held} {c : Chip} {x1 : ℕ} {x2 : ℕ} {x3 : Option (ℕ × ℕ)} (hc : Kept v c) :
    Kept v ((Chip.replayFrom c x1 x2 x3)).1 := by
  induction x1 generalizing c x2 x3 with
  | zero => exact hc
  | succ n ih =>
    unfold Machine.Chip.replayFrom
    split
    · split
      · exact ih (Kept.replay hc)
      · exact hc
    · exact hc

theorem Kept.writeCutEvents {v : Held} {c : Chip} {t : LedgerImage} (hc : Kept v c) (hr : v.mram = none) :
    Kept v (Chip.writeCutEvents c t) := by
  unfold Machine.Chip.writeCutEvents
  with_reducible repeat' first
    | assumption
    | (extract_lets +onlyGivenNames y; first | (refine Kept.have_ (v := v) (x := y) ?_ ?_; (on_goal 1 => subst y); (on_goal 2 => (intro hy; clear_value y))) | clear_value y)
    | apply Kept.appendLog
    | apply Kept.forN
    | simp only [Kept.upd_iff]
    | apply Kept.foldl
    | apply Kept.foldl_pair
    | (intro _ _ _)
    | (intro _ _)
    | (split; rename_i heq; have hk := congrArg Prod.snd heq; subst hk)
    | split

theorem Kept.adoptCommit {v : Held} {c : Chip} {k : LedgerImage} (hc : Kept v c) (hr : v.mram = none) :
    Kept v (Chip.adoptCommit c k) := by
  unfold Machine.Chip.adoptCommit
  with_reducible repeat' first
    | assumption
    | (extract_lets +onlyGivenNames y; first | (refine Kept.have_ (v := v) (x := y) ?_ ?_; (on_goal 1 => subst y); (on_goal 2 => (intro hy; clear_value y))) | clear_value y)
    | apply Kept.eachMeter
    | apply Kept.setDmd
    | apply Kept.setTrf
    | apply Kept.put
    | apply Kept.writeCutEvents
    | apply Kept.put64
    | apply Kept.forN
    | simp only [Kept.upd_iff]
    | (intro _ _ _)
    | (intro _ _)
    | (split; rename_i heq; have hk := congrArg Prod.snd heq; subst hk)
    | split

theorem Kept.restoreGap {v : Held} {c : Chip} {s : LedgerImage} (hc : Kept v c) :
    Kept v (Chip.restoreGap c s) := by
  unfold Machine.Chip.restoreGap
  with_reducible repeat' first
    | assumption
    | (extract_lets +onlyGivenNames y; first | (refine Kept.have_ (v := v) (x := y) ?_ ?_; (on_goal 1 => subst y); (on_goal 2 => (intro hy; clear_value y))) | clear_value y)
    | apply Kept.put
    | apply Kept.setFlag
    | apply Kept.put64
    | apply Kept.setDmd
    | apply Kept.forN
    | simp only [Kept.upd_iff]
    | (intro _ _ _)
    | (intro _ _)
    | (split; rename_i heq; have hk := congrArg Prod.snd heq; subst hk)
    | split

theorem Kept.restoreNothing {v : Held} {c : Chip} (hc : Kept v c) :
    Kept v (Chip.restoreNothing c) := by
  unfold Machine.Chip.restoreNothing
  with_reducible repeat' first
    | assumption
    | (extract_lets +onlyGivenNames y; first | (refine Kept.have_ (v := v) (x := y) ?_ ?_; (on_goal 1 => subst y); (on_goal 2 => (intro hy; clear_value y))) | clear_value y)
    | apply Kept.setFlag
    | apply Kept.raiseEv
    | apply Kept.setFault
    | apply Kept.modMeter
    | apply Kept.forN
    | simp only [Kept.upd_iff]
    | (intro _ _ _)
    | (intro _ _)
    | (split; rename_i heq; have hk := congrArg Prod.snd heq; subst hk)
    | split

theorem Kept.drawBytes {v : Held} {c : Chip} {n : ℕ} (hc : Kept v c) :
    Kept v ((Chip.drawBytes c n)).2 := by
  unfold Machine.Chip.drawBytes
  with_reducible repeat' first
    | assumption
    | (extract_lets +onlyGivenNames y; first | (refine Kept.have_ (v := v) (x := y) ?_ ?_; (on_goal 1 => subst y); (on_goal 2 => (intro hy; clear_value y))) | clear_value y)
    | apply Kept.draw
    | apply Kept.forN
    | simp only [Kept.upd_iff]
    | (intro _ _ _)
    | (intro _ _)
    | (split; rename_i heq; have hk := congrArg Prod.snd heq; subst hk)
    | split

theorem Kept.spoil {v : Held} {c : Chip} {a : ℕ} (hc : Kept v c) (hr : v.mram = none) (hk : v.keys = none) :
    Kept v (Chip.spoil c a) := by
  unfold Machine.Chip.spoil
  with_reducible repeat' first
    | exact hc
    | apply Kept.ite
    | exact Kept.setLed hc
    | exact Kept.setLed (Kept.store (Kept.drawBytes hc) hr)
    | exact Kept.vltAny hc hk
    | intro

theorem Kept.mramEccError {v : Held} {a : ℕ} {c : Chip} (hc : Kept v c) (hr : v.mram = none) (hk : v.keys = none) :
    Kept v (mramEccError a c) := by
  unfold Machine.mramEccError
  with_reducible repeat' first
    | assumption
    | (extract_lets +onlyGivenNames y; first | (refine Kept.have_ (v := v) (x := y) ?_ ?_; (on_goal 1 => subst y); (on_goal 2 => (intro hy; clear_value y))) | clear_value y)
    | apply Kept.setFault
    | apply Kept.setFlag
    | apply Kept.incSat
    | apply Kept.raiseEv
    | apply Kept.spoil
    | apply Kept.forN
    | simp only [Kept.upd_iff]
    | (intro _ _ _)
    | (intro _ _)
    | (split; rename_i heq; have hk := congrArg Prod.snd heq; subst hk)
    | split

theorem Kept.ledgerWriteWord {v : Held} {acc : Access} {x1 : ℕ} {c : Chip} (hc : Kept v c) (hr : v.mram = none) :
    Kept v (ledgerWriteWord acc x1 c) := by
  unfold Machine.ledgerWriteWord
  with_reducible repeat' first
    | assumption
    | (extract_lets +onlyGivenNames y; first | (refine Kept.have_ (v := v) (x := y) ?_ ?_; (on_goal 1 => subst y); (on_goal 2 => (intro hy; clear_value y))) | clear_value y)
    | apply Kept.write
    | apply Kept.put
    | apply Kept.store
    | apply Kept.setFlag
    | apply Kept.forN
    | simp only [Kept.upd_iff]
    | (intro _ _ _)
    | (intro _ _)
    | (split; rename_i heq; have hk := congrArg Prod.snd heq; subst hk)
    | split

theorem Kept.ledgerReadWord {v : Held} {acc : Access} {c : Chip} (hc : Kept v c) :
    Kept v (ledgerReadWord acc c) := by
  unfold Machine.ledgerReadWord
  with_reducible repeat' first
    | assumption
    | (extract_lets +onlyGivenNames y; first | (refine Kept.have_ (v := v) (x := y) ?_ ?_; (on_goal 1 => subst y); (on_goal 2 => (intro hy; clear_value y))) | clear_value y)
    | apply Kept.read
    | apply Kept.put
    | apply Kept.forN
    | simp only [Kept.upd_iff]
    | (intro _ _ _)
    | (intro _ _)
    | (split; rename_i heq; have hk := congrArg Prod.snd heq; subst hk)
    | split

theorem Kept.faultRecordAppend {v : Held} {acc : Access} {x1 : ℕ} {c : Chip} (hc : Kept v c) (hr : v.mram = none) :
    Kept v (faultRecordAppend acc x1 c) := by
  unfold Machine.faultRecordAppend
  with_reducible repeat' first
    | assumption
    | (extract_lets +onlyGivenNames y; first | (refine Kept.have_ (v := v) (x := y) ?_ ?_; (on_goal 1 => subst y); (on_goal 2 => (intro hy; clear_value y))) | clear_value y)
    | apply Kept.write
    | apply Kept.appendLog
    | apply Kept.setFlag
    | apply Kept.forN
    | simp only [Kept.upd_iff]
    | (intro _ _ _)
    | (intro _ _)
    | (split; rename_i heq; have hk := congrArg Prod.snd heq; subst hk)
    | split

end Sys2Proof.Machine
end

