-- ==== Sys2Proof/Laws/Kept6.lean ====
section
/-! SUPPORT. What the operations of Display, Vault keep. -/

set_option linter.unusedTactic false
set_option linter.unreachableTactic false
set_option linter.unusedSimpArgs false
set_option linter.unusedVariables false

namespace Sys2Proof.Machine

theorem Kept.setDsp {v : Held} {c : Chip} {f : Readout → Readout} (hc : Kept v c) :
    Kept v (Chip.setDsp c f) := by
  unfold Machine.Chip.setDsp
  with_reducible repeat' first
    | assumption
    | (extract_lets +onlyGivenNames y; first | (refine Kept.have_ (v := v) (x := y) ?_ ?_; (on_goal 1 => subst y); (on_goal 2 => (intro hy; clear_value y))) | clear_value y)
    | apply Kept.forN
    | simp only [Kept.upd_iff]
    | (intro _ _ _)
    | (intro _ _)
    | (split; rename_i heq; have hk := congrArg Prod.snd heq; subst hk)
    | split

theorem Kept.modDisplay {v : Held} {c : Chip} {d : ℕ} {f : Display → Display} (hc : Kept v c) :
    Kept v (Chip.modDisplay c d f) := by
  unfold Machine.Chip.modDisplay
  with_reducible repeat' first
    | assumption
    | (extract_lets +onlyGivenNames y; first | (refine Kept.have_ (v := v) (x := y) ?_ ?_; (on_goal 1 => subst y); (on_goal 2 => (intro hy; clear_value y))) | clear_value y)
    | apply Kept.setDsp
    | apply Kept.forN
    | simp only [Kept.upd_iff]
    | (intro _ _ _)
    | (intro _ _)
    | (split; rename_i heq; have hk := congrArg Prod.snd heq; subst hk)
    | split

theorem Kept.sendFrame {v : Held} {c : Chip} {d : ℕ} {bs : List ℕ} (hc : Kept v c) :
    Kept v (Chip.sendFrame c d bs) := by
  unfold Machine.Chip.sendFrame
  with_reducible repeat' first
    | assumption
    | (extract_lets +onlyGivenNames y; first | (refine Kept.have_ (v := v) (x := y) ?_ ?_; (on_goal 1 => subst y); (on_goal 2 => (intro hy; clear_value y))) | clear_value y)
    | apply Kept.setDsp
    | apply Kept.modDisplay
    | apply Kept.forN
    | simp only [Kept.upd_iff]
    | (intro _ _ _)
    | (intro _ _)
    | (split; rename_i heq; have hk := congrArg Prod.snd heq; subst hk)
    | split

theorem Kept.sendItem {v : Held} {c : Chip} {d : ℕ} (hc : Kept v c) :
    Kept v (Chip.sendItem c d) := by
  unfold Machine.Chip.sendItem
  with_reducible repeat' first
    | assumption
    | (extract_lets +onlyGivenNames y; first | (refine Kept.have_ (v := v) (x := y) ?_ ?_; (on_goal 1 => subst y); (on_goal 2 => (intro hy; clear_value y))) | clear_value y)
    | apply Kept.draw
    | apply Kept.sendFrame
    | apply Kept.modDisplay
    | apply Kept.forN
    | simp only [Kept.upd_iff]
    | (intro _ _ _)
    | (intro _ _)
    | (split; rename_i heq; have hk := congrArg Prod.snd heq; subst hk)
    | split

theorem Kept.sendChanged {v : Held} {c : Chip} {d : Nat} (hc : Kept v c) :
    Kept v (Chip.sendChanged c d) := by
  unfold Machine.Chip.sendChanged
  with_reducible repeat' first
    | assumption
    | (extract_lets +onlyGivenNames y; first | (refine Kept.have_ (v := v) (x := y) ?_ ?_; (on_goal 1 => subst y); (on_goal 2 => (intro hy; clear_value y))) | clear_value y)
    | apply Kept.sendItem
    | apply Kept.forN
    | simp only [Kept.upd_iff]
    | (intro _ _ _)
    | (intro _ _)
    | (split; rename_i heq; have hk := congrArg Prod.snd heq; subst hk)
    | split

theorem Kept.displayPoll {v : Held} {c : Chip} (hc : Kept v c) :
    Kept v (displayPoll c) := by
  unfold Machine.displayPoll
  with_reducible repeat' first
    | assumption
    | (extract_lets +onlyGivenNames y; first | (refine Kept.have_ (v := v) (x := y) ?_ ?_; (on_goal 1 => subst y); (on_goal 2 => (intro hy; clear_value y))) | clear_value y)
    | apply Kept.put
    | apply Kept.setDsp
    | apply Kept.modDisplay
    | apply Kept.sendFrame
    | apply Kept.sendChanged
    | apply Kept.forN
    | simp only [Kept.upd_iff]
    | (intro _ _ _)
    | (intro _ _)
    | (split; rename_i heq; have hk := congrArg Prod.snd heq; subst hk)
    | split

theorem Kept.showDisplayFaults {v : Held} {c : Chip} (hc : Kept v c) :
    Kept v (Chip.showDisplayFaults c) := by
  unfold Machine.Chip.showDisplayFaults
  with_reducible repeat' first
    | assumption
    | (extract_lets +onlyGivenNames y; first | (refine Kept.have_ (v := v) (x := y) ?_ ?_; (on_goal 1 => subst y); (on_goal 2 => (intro hy; clear_value y))) | clear_value y)
    | apply Kept.setFlag
    | apply Kept.faultIs
    | apply Kept.forN
    | simp only [Kept.upd_iff]
    | (intro _ _ _)
    | (intro _ _)
    | (split; rename_i heq; have hk := congrArg Prod.snd heq; subst hk)
    | split

theorem Kept.badReply {v : Held} {c : Chip} {d : ℕ} (hc : Kept v c) :
    Kept v (Chip.badReply c d) := by
  unfold Machine.Chip.badReply
  with_reducible repeat' first
    | assumption
    | (extract_lets +onlyGivenNames y; first | (refine Kept.have_ (v := v) (x := y) ?_ ?_; (on_goal 1 => subst y); (on_goal 2 => (intro hy; clear_value y))) | clear_value y)
    | apply Kept.setFlag
    | apply Kept.modDisplay
    | apply Kept.showDisplayFaults
    | apply Kept.raiseEv
    | apply Kept.forN
    | simp only [Kept.upd_iff]
    | (intro _ _ _)
    | (intro _ _)
    | (split; rename_i heq; have hk := congrArg Prod.snd heq; subst hk)
    | split

theorem Kept.showItem {v : Held} {c : Chip} {d : Nat} {i : Nat} (hc : Kept v c) :
    Kept v (Chip.showItem c d i) := by
  unfold Machine.Chip.showItem
  with_reducible repeat' first
    | assumption
    | (extract_lets +onlyGivenNames y; first | (refine Kept.have_ (v := v) (x := y) ?_ ?_; (on_goal 1 => subst y); (on_goal 2 => (intro hy; clear_value y))) | clear_value y)
    | apply Kept.put
    | apply Kept.modDisplay
    | apply Kept.sendChanged
    | apply Kept.forN
    | simp only [Kept.upd_iff]
    | (intro _ _ _)
    | (intro _ _)
    | (split; rename_i heq; have hk := congrArg Prod.snd heq; subst hk)
    | split

theorem Kept.pushReply {v : Held} {c : Chip} {d : ℕ} {push : ℕ} {long : Bool} (hc : Kept v c) :
    Kept v (Chip.pushReply c d push long) := by
  unfold Machine.Chip.pushReply
  with_reducible repeat' first
    | assumption
    | (extract_lets +onlyGivenNames y; first | (refine Kept.have_ (v := v) (x := y) ?_ ?_; (on_goal 1 => subst y); (on_goal 2 => (intro hy; clear_value y))) | clear_value y)
    | apply Kept.modDisplay
    | apply Kept.put
    | apply Kept.raiseEv
    | apply Kept.showItem
    | apply Kept.forN
    | simp only [Kept.upd_iff]
    | (intro _ _ _)
    | (intro _ _)
    | (split; rename_i heq; have hk := congrArg Prod.snd heq; subst hk)
    | split

theorem Kept.displayReply {v : Held} {d : ℕ} {bytes : List ℕ} {c : Chip} (hc : Kept v c) :
    Kept v (displayReply d bytes c) := by
  unfold Machine.displayReply
  with_reducible repeat' first
    | assumption
    | (extract_lets +onlyGivenNames y; first | (refine Kept.have_ (v := v) (x := y) ?_ ?_; (on_goal 1 => subst y); (on_goal 2 => (intro hy; clear_value y))) | clear_value y)
    | apply Kept.setDsp
    | apply Kept.setFlag
    | apply Kept.modDisplay
    | apply Kept.showDisplayFaults
    | apply Kept.raiseEv
    | apply Kept.pushReply
    | apply Kept.badReply
    | apply Kept.forN
    | simp only [Kept.upd_iff]
    | (intro _ _ _)
    | (intro _ _)
    | (split; rename_i heq; have hk := congrArg Prod.snd heq; subst hk)
    | split

theorem Kept.displayReplyTimeout {v : Held} {d : ℕ} {c : Chip} (hc : Kept v c) :
    Kept v (displayReplyTimeout d c) := by
  unfold Machine.displayReplyTimeout
  with_reducible repeat' first
    | assumption
    | (extract_lets +onlyGivenNames y; first | (refine Kept.have_ (v := v) (x := y) ?_ ?_; (on_goal 1 => subst y); (on_goal 2 => (intro hy; clear_value y))) | clear_value y)
    | apply Kept.badReply
    | apply Kept.incSat
    | apply Kept.forN
    | simp only [Kept.upd_iff]
    | (intro _ _ _)
    | (intro _ _)
    | (split; rename_i heq; have hk := congrArg Prod.snd heq; subst hk)
    | split

theorem Kept.displayItemStep {v : Held} {d : ℕ} {c : Chip} (hc : Kept v c) :
    Kept v (displayItemStep d c) := by
  unfold Machine.displayItemStep
  with_reducible repeat' first
    | assumption
    | (extract_lets +onlyGivenNames y; first | (refine Kept.have_ (v := v) (x := y) ?_ ?_; (on_goal 1 => subst y); (on_goal 2 => (intro hy; clear_value y))) | clear_value y)
    | apply Kept.showItem
    | apply Kept.setDsp
    | apply Kept.forN
    | simp only [Kept.upd_iff]
    | (intro _ _ _)
    | (intro _ _)
    | (split; rename_i heq; have hk := congrArg Prod.snd heq; subst hk)
    | split

theorem Kept.displayTick {v : Held} {c : Chip} (hc : Kept v c) :
    Kept v (Chip.displayTick c) := by
  unfold Machine.Chip.displayTick
  with_reducible repeat' first
    | assumption
    | (extract_lets +onlyGivenNames y; first | (refine Kept.have_ (v := v) (x := y) ?_ ?_; (on_goal 1 => subst y); (on_goal 2 => (intro hy; clear_value y))) | clear_value y)
    | apply Kept.setDsp
    | apply Kept.modDisplay
    | apply Kept.sendItem
    | apply Kept.forN
    | simp only [Kept.upd_iff]
    | (intro _ _ _)
    | (intro _ _)
    | (split; rename_i heq; have hk := congrArg Prod.snd heq; subst hk)
    | split

theorem Kept.storeItem {v : Held} {c : Chip} {e : ℕ} {w : Word} (hc : Kept v c) :
    Kept v (Chip.storeItem c e w) := by
  unfold Machine.Chip.storeItem
  with_reducible repeat' first
    | assumption
    | (extract_lets +onlyGivenNames y; first | (refine Kept.have_ (v := v) (x := y) ?_ ?_; (on_goal 1 => subst y); (on_goal 2 => (intro hy; clear_value y))) | clear_value y)
    | apply Kept.markDirty
    | apply Kept.setDsp
    | apply Kept.forN
    | simp only [Kept.upd_iff]
    | (intro _ _ _)
    | (intro _ _)
    | (split; rename_i heq; have hk := congrArg Prod.snd heq; subst hk)
    | split

theorem Kept.advanceItem {v : Held} {c : Chip} {acc : Access} (hc : Kept v c) :
    Kept v (Chip.advanceItem c acc) := by
  unfold Machine.Chip.advanceItem
  with_reducible repeat' first
    | assumption
    | (extract_lets +onlyGivenNames y; first | (refine Kept.have_ (v := v) (x := y) ?_ ?_; (on_goal 1 => subst y); (on_goal 2 => (intro hy; clear_value y))) | clear_value y)
    | apply Kept.put
    | apply Kept.forN
    | simp only [Kept.upd_iff]
    | (intro _ _ _)
    | (intro _ _)
    | (split; rename_i heq; have hk := congrArg Prod.snd heq; subst hk)
    | split

theorem Kept.displayItemAccess {v : Held} {acc : Access} {shadow : Bool} {write : Bool} {x3 : ℕ} {mirror : Option ℕ} {c : Chip} (hc : Kept v c) :
    Kept v (displayItemAccess acc shadow write x3 mirror c) := by
  unfold Machine.displayItemAccess
  with_reducible repeat' first
    | assumption
    | (extract_lets +onlyGivenNames y; first | (refine Kept.have_ (v := v) (x := y) ?_ ?_; (on_goal 1 => subst y); (on_goal 2 => (intro hy; clear_value y))) | clear_value y)
    | apply Kept.storeItem
    | apply Kept.write
    | apply Kept.violate
    | apply Kept.advanceItem
    | apply Kept.setFlag
    | apply Kept.mirror
    | apply Kept.read
    | apply Kept.forN
    | simp only [Kept.upd_iff]
    | (intro _ _ _)
    | (intro _ _)
    | (split; rename_i heq; have hk := congrArg Prod.snd heq; subst hk)
    | split

theorem Kept.randomBytes {v : Held} {c : Chip} {n : ℕ} (hc : Kept v c) :
    Kept v ((Chip.randomBytes c n)).2 := by
  unfold Machine.Chip.randomBytes
  exact Kept.setVlt (Kept.draw hc) Vault.drbgUse_keys

theorem Kept.randomScalar {v : Held} {c : Chip} {m : ℕ} (hc : Kept v c) :
    Kept v ((Chip.randomScalar c m)).2 := by
  unfold Machine.Chip.randomScalar
  exact Kept.setVlt (Kept.draw hc) Vault.drbgUse_keys

theorem Kept.wipeKeyData {v : Held} {c : Chip} (hc : Kept v c) :
    Kept v (Chip.wipeKeyData c) := by
  unfold Machine.Chip.wipeKeyData
  with_reducible repeat' first
    | assumption
    | (extract_lets +onlyGivenNames y; first | (refine Kept.have_ (v := v) (x := y) ?_ ?_; (on_goal 1 => subst y); (on_goal 2 => (intro hy; clear_value y))) | clear_value y)
    | apply Kept.put
    | apply Kept.forN
    | simp only [Kept.upd_iff]
    | (intro _ _ _)
    | (intro _ _)
    | (split; rename_i heq; have hk := congrArg Prod.snd heq; subst hk)
    | split

theorem Kept.keyStart {v : Held} {c : Chip} {op : KeyOp} (hc : Kept v c) :
    Kept v (Chip.keyStart c op).2 := by
  unfold Machine.Chip.keyStart
  with_reducible repeat' first
    | assumption
    | (extract_lets +onlyGivenNames y; first | (refine Kept.have_ (v := v) (x := y) ?_ ?_; (on_goal 1 => subst y); (on_goal 2 => (intro hy; clear_value y))) | clear_value y)
    | apply Kept.write
    | apply Kept.randomBytes
    | apply Kept.randomScalar
    | apply Kept.forN
    | simp only [Kept.upd_iff]
    | (intro _ _ _)
    | (intro _ _)
    | (split; rename_i heq; have hk := congrArg Prod.snd heq; subst hk)
    | split

theorem Kept.stageBank {v : Held} {c : Chip} {x : VaultCommand} (hc : Kept v c) (hk : v.keys = none) :
    Kept v (Chip.stageBank c x) := by
  unfold Machine.Chip.stageBank
  split
  · exact Kept.vltAny hc hk
  · exact hc
  · exact hc

theorem Kept.keyCommand {v : Held} {c : Chip} {op : KeyOp} (hc : Kept v c) (hk : v.keys = none) :
    Kept v (Chip.keyCommand c op) := by
  unfold Machine.Chip.keyCommand
  with_reducible repeat' first
    | assumption
    | (extract_lets +onlyGivenNames y; first | (refine Kept.have_ (v := v) (x := y) ?_ ?_; (on_goal 1 => subst y); (on_goal 2 => (intro hy; clear_value y))) | clear_value y)
    | apply Kept.raiseEv
    | apply Kept.put
    | apply Kept.wipeKeyData
    | apply Kept.keyStart
    | apply Kept.stageBank
    | apply Kept.setVlt
    | exact fun _ => ⟨rfl, rfl⟩
    | apply Kept.forN
    | simp only [Kept.upd_iff]
    | (intro _ _ _)
    | (intro _ _)
    | (split; rename_i heq; have hk := congrArg Prod.snd heq; subst hk)
    | split

theorem Kept.keyWrite {v : Held} {acc : Access} {op : KeyOp} {c : Chip} (hc : Kept v c) (hk : v.keys = none) :
    Kept v (keyWrite acc op c) := by
  unfold Machine.keyWrite
  with_reducible repeat' first
    | assumption
    | (extract_lets +onlyGivenNames y; first | (refine Kept.have_ (v := v) (x := y) ?_ ?_; (on_goal 1 => subst y); (on_goal 2 => (intro hy; clear_value y))) | clear_value y)
    | apply Kept.write
    | apply Kept.keyCommand
    | apply Kept.forN
    | simp only [Kept.upd_iff]
    | (intro _ _ _)
    | (intro _ _)
    | (split; rename_i heq; have hk := congrArg Prod.snd heq; subst hk)
    | split

theorem Kept.setHalter {v : Held} {c : Chip} {group : ℕ} {i : ℕ} {last : ℕ} (hc : Kept v c) :
    Kept v (Chip.setHalter c group i last) := by
  unfold Machine.Chip.setHalter
  with_reducible repeat' first
    | assumption
    | (extract_lets +onlyGivenNames y; first | (refine Kept.have_ (v := v) (x := y) ?_ ?_; (on_goal 1 => subst y); (on_goal 2 => (intro hy; clear_value y))) | clear_value y)
    | apply Kept.setVlt
    | exact fun _ => ⟨rfl, rfl⟩
    | apply Kept.forN
    | simp only [Kept.upd_iff]
    | (intro _ _ _)
    | (intro _ _)
    | (split; rename_i heq; have hk := congrArg Prod.snd heq; subst hk)
    | split

theorem Kept.adoptConfig {v : Held} {c : Chip} {words : List ℕ} (hc : Kept v c) :
    Kept v (Chip.adoptConfig c words) := by
  unfold Machine.Chip.adoptConfig
  with_reducible repeat' first
    | assumption
    | (extract_lets +onlyGivenNames y; first | (refine Kept.have_ (v := v) (x := y) ?_ ?_; (on_goal 1 => subst y); (on_goal 2 => (intro hy; clear_value y))) | clear_value y)
    | apply Kept.put
    | apply Kept.setVlt
    | exact fun _ => ⟨rfl, rfl⟩
    | apply Kept.forN
    | simp only [Kept.upd_iff]
    | (intro _ _ _)
    | (intro _ _)
    | (split; rename_i heq; have hk := congrArg Prod.snd heq; subst hk)
    | split

theorem Kept.commitSlot {v : Held} {c : Chip} {k : ℕ} {b : VaultKey} (hc : Kept v c) (hk : v.keys = none) :
    Kept v (Chip.commitSlot c k b) := by
  unfold Machine.Chip.commitSlot
  exact Kept.put (Kept.vltAny hc hk)

theorem Kept.keyCommandDone {v : Held} {c : Chip} (hc : Kept v c) (hk : v.keys = none) :
    Kept v (keyCommandDone c) := by
  unfold Machine.keyCommandDone
  with_reducible repeat' first
    | assumption
    | (extract_lets +onlyGivenNames y; first | (refine Kept.have_ (v := v) (x := y) ?_ ?_; (on_goal 1 => subst y); (on_goal 2 => (intro hy; clear_value y))) | clear_value y)
    | apply Kept.setVlt
    | apply Kept.raiseEv
    | apply Kept.commitSlot
    | apply Kept.adoptConfig
    | apply Kept.setHalter
    | apply Kept.wipeKeyData
    | apply Kept.put
    | exact fun _ => ⟨rfl, rfl⟩
    | apply Kept.forN
    | simp only [Kept.upd_iff]
    | (intro _ _ _)
    | (intro _ _)
    | (split; rename_i heq; have hk := congrArg Prod.snd heq; subst hk)
    | split

theorem Kept.ecdsa {v : Held} {c : Chip} {curve : ℕ} {key : List ℕ} {digest : List ℕ} (hc : Kept v c) :
    Kept v ((Chip.ecdsa c curve key digest)).2 := by
  unfold Machine.Chip.ecdsa
  with_reducible repeat' first
    | assumption
    | (extract_lets +onlyGivenNames y; first | (refine Kept.have_ (v := v) (x := y) ?_ ?_; (on_goal 1 => subst y); (on_goal 2 => (intro hy; clear_value y))) | clear_value y)
    | apply Kept.randomScalar
    | apply Kept.forN
    | simp only [Kept.upd_iff]
    | (intro _ _ _)
    | (intro _ _)
    | (split; rename_i heq; have hk := congrArg Prod.snd heq; subst hk)
    | split

theorem Kept.cose {v : Held} {c : Chip} {curve : ℕ} {key : List ℕ} {header : List ℕ} {payload : List ℕ} (hc : Kept v c) :
    Kept v ((Chip.cose c curve key header payload)).2 := by
  unfold Machine.Chip.cose
  with_reducible repeat' first
    | assumption
    | (extract_lets +onlyGivenNames y; first | (refine Kept.have_ (v := v) (x := y) ?_ ?_; (on_goal 1 => subst y); (on_goal 2 => (intro hy; clear_value y))) | clear_value y)
    | apply Kept.ecdsa
    | apply Kept.forN
    | simp only [Kept.upd_iff]
    | (intro _ _ _)
    | (intro _ _)
    | (split; rename_i heq; have hk := congrArg Prod.snd heq; subst hk)
    | split

theorem Kept.attest {v : Held} {c : Chip} {nonce : List ℕ} (hc : Kept v c) :
    Kept v ((Chip.attest c nonce)).2 := by
  unfold Machine.Chip.attest
  with_reducible repeat' first
    | assumption
    | (extract_lets +onlyGivenNames y; first | (refine Kept.have_ (v := v) (x := y) ?_ ?_; (on_goal 1 => subst y); (on_goal 2 => (intro hy; clear_value y))) | clear_value y)
    | apply Kept.cose
    | apply Kept.forN
    | simp only [Kept.upd_iff]
    | (intro _ _ _)
    | (intro _ _)
    | (split; rename_i heq; have hk := congrArg Prod.snd heq; subst hk)
    | split

theorem Kept.vaultRun {v : Held} {c : Chip} {r : VaultRequest} (hc : Kept v c) :
    Kept v (Chip.vaultRun c r).2 := by
  unfold Machine.Chip.vaultRun
  with_reducible repeat' first
    | assumption
    | (extract_lets +onlyGivenNames y; first | (refine Kept.have_ (v := v) (x := y) ?_ ?_; (on_goal 1 => subst y); (on_goal 2 => (intro hy; clear_value y))) | clear_value y)
    | apply Kept.take
    | apply Kept.randomBytes
    | apply Kept.ecdsa
    | apply Kept.cose
    | apply Kept.attest
    | apply Kept.forN
    | simp only [Kept.upd_iff]
    | (intro _ _ _)
    | (intro _ _)
    | (split; rename_i heq; have hk := congrArg Prod.snd heq; subst hk)
    | split

theorem Kept.vaultDone {v : Held} {c : Chip} {plane : ℕ} (hc : Kept v c) :
    Kept v (Chip.vaultDone c plane) := by
  unfold Machine.Chip.vaultDone
  with_reducible repeat' first
    | assumption
    | (extract_lets +onlyGivenNames y; first | (refine Kept.have_ (v := v) (x := y) ?_ ?_; (on_goal 1 => subst y); (on_goal 2 => (intro hy; clear_value y))) | clear_value y)
    | apply Kept.fireShared
    | apply Kept.forN
    | simp only [Kept.upd_iff]
    | (intro _ _ _)
    | (intro _ _)
    | (split; rename_i heq; have hk := congrArg Prod.snd heq; subst hk)
    | split

theorem Kept.endRequest {v : Held} {c : Chip} {r : VaultRequest} {a : VaultAnswer} (hc : Kept v c) :
    Kept v (Chip.endRequest c r a) := by
  unfold Machine.Chip.endRequest
  with_reducible repeat' first
    | assumption
    | (extract_lets +onlyGivenNames y; first | (refine Kept.have_ (v := v) (x := y) ?_ ?_; (on_goal 1 => subst y); (on_goal 2 => (intro hy; clear_value y))) | clear_value y)
    | apply Kept.put
    | apply Kept.incSat
    | apply Kept.take
    | apply Kept.setVlt
    | exact fun _ => ⟨rfl, rfl⟩
    | apply Kept.setHalter
    | apply Kept.vaultDone
    | apply Kept.forN
    | simp only [Kept.upd_iff]
    | (intro _ _ _)
    | (intro _ _)
    | (split; rename_i heq; have hk := congrArg Prod.snd heq; subst hk)
    | split

theorem Kept.queueRequest {v : Held} {c : Chip} {r : VaultRequest} (hc : Kept v c) :
    Kept v (Chip.queueRequest c r) := by
  unfold Machine.Chip.queueRequest
  with_reducible repeat' first
    | assumption
    | (extract_lets +onlyGivenNames y; first | (refine Kept.have_ (v := v) (x := y) ?_ ?_; (on_goal 1 => subst y); (on_goal 2 => (intro hy; clear_value y))) | clear_value y)
    | apply Kept.inc
    | apply Kept.setVlt
    | apply Kept.put
    | exact fun _ => ⟨rfl, rfl⟩
    | apply Kept.forN
    | simp only [Kept.upd_iff]
    | (intro _ _ _)
    | (intro _ _)
    | (split; rename_i heq; have hk := congrArg Prod.snd heq; subst hk)
    | split

theorem Kept.submit {v : Held} {c : Chip} {r : VaultRequest} (hc : Kept v c) :
    Kept v (Chip.submit c r) := by
  unfold Machine.Chip.submit
  with_reducible repeat' first
    | assumption
    | (extract_lets +onlyGivenNames y; first | (refine Kept.have_ (v := v) (x := y) ?_ ?_; (on_goal 1 => subst y); (on_goal 2 => (intro hy; clear_value y))) | clear_value y)
    | apply Kept.queueRequest
    | apply Kept.endRequest
    | apply Kept.forN
    | simp only [Kept.upd_iff]
    | (intro _ _ _)
    | (intro _ _)
    | (split; rename_i heq; have hk := congrArg Prod.snd heq; subst hk)
    | split

theorem Kept.windowGo {v : Held} {c : Chip} {n : ℕ} (hc : Kept v c) :
    Kept v (Chip.windowGo c n) := by
  unfold Machine.Chip.windowGo
  with_reducible repeat' first
    | assumption
    | (extract_lets +onlyGivenNames y; first | (refine Kept.have_ (v := v) (x := y) ?_ ?_; (on_goal 1 => subst y); (on_goal 2 => (intro hy; clear_value y))) | clear_value y)
    | apply Kept.setFlag
    | apply Kept.submit
    | apply Kept.forN
    | simp only [Kept.upd_iff]
    | (intro _ _ _)
    | (intro _ _)
    | (split; rename_i heq; have hk := congrArg Prod.snd heq; subst hk)
    | split

theorem Kept.vaultGo {v : Held} {acc : Access} {n : ℕ} {op : ℕ} {c : Chip} (hc : Kept v c) :
    Kept v (vaultGo acc n op c) := by
  unfold Machine.vaultGo
  with_reducible repeat' first
    | assumption
    | (extract_lets +onlyGivenNames y; first | (refine Kept.have_ (v := v) (x := y) ?_ ?_; (on_goal 1 => subst y); (on_goal 2 => (intro hy; clear_value y))) | clear_value y)
    | apply Kept.writeUnit
    | apply Kept.windowGo
    | apply Kept.forN
    | simp only [Kept.upd_iff]
    | (intro _ _ _)
    | (intro _ _)
    | (split; rename_i heq; have hk := congrArg Prod.snd heq; subst hk)
    | split

theorem Kept.windowAbort {v : Held} {c : Chip} {n : ℕ} (hc : Kept v c) :
    Kept v (Chip.windowAbort c n) := by
  unfold Machine.Chip.windowAbort
  with_reducible repeat' first
    | assumption
    | (extract_lets +onlyGivenNames y; first | (refine Kept.have_ (v := v) (x := y) ?_ ?_; (on_goal 1 => subst y); (on_goal 2 => (intro hy; clear_value y))) | clear_value y)
    | apply Kept.setVlt
    | apply Kept.vaultDone
    | apply Kept.put
    | apply Kept.setFlag
    | exact fun _ => ⟨rfl, rfl⟩
    | apply Kept.forN
    | simp only [Kept.upd_iff]
    | (intro _ _ _)
    | (intro _ _)
    | (split; rename_i heq; have hk := congrArg Prod.snd heq; subst hk)
    | split

theorem Kept.vaultRequestAbort {v : Held} {acc : Access} {n : ℕ} {c : Chip} (hc : Kept v c) :
    Kept v (vaultRequestAbort acc n c) := by
  unfold Machine.vaultRequestAbort
  with_reducible repeat' first
    | assumption
    | (extract_lets +onlyGivenNames y; first | (refine Kept.have_ (v := v) (x := y) ?_ ?_; (on_goal 1 => subst y); (on_goal 2 => (intro hy; clear_value y))) | clear_value y)
    | apply Kept.writeUnit
    | apply Kept.windowAbort
    | apply Kept.forN
    | simp only [Kept.upd_iff]
    | (intro _ _ _)
    | (intro _ _)
    | (split; rename_i heq; have hk := congrArg Prod.snd heq; subst hk)
    | split

theorem Kept.setEngine {v : Held} {c : Chip} {e : ℕ} {x : Option (VaultRequest × VaultAnswer)} (hc : Kept v c) :
    Kept v (Chip.setEngine c e x) := by
  unfold Machine.Chip.setEngine
  with_reducible repeat' first
    | assumption
    | (extract_lets +onlyGivenNames y; first | (refine Kept.have_ (v := v) (x := y) ?_ ?_; (on_goal 1 => subst y); (on_goal 2 => (intro hy; clear_value y))) | clear_value y)
    | apply Kept.setFlag
    | apply Kept.setVlt
    | exact fun _ => ⟨rfl, rfl⟩
    | apply Kept.forN
    | simp only [Kept.upd_iff]
    | (intro _ _ _)
    | (intro _ _)
    | (split; rename_i heq; have hk := congrArg Prod.snd heq; subst hk)
    | split

theorem Kept.vaultRequestStart {v : Held} {e : ℕ} {c : Chip} (hc : Kept v c) :
    Kept v (vaultRequestStart e c) := by
  unfold Machine.vaultRequestStart
  with_reducible repeat' first
    | assumption
    | (extract_lets +onlyGivenNames y; first | (refine Kept.have_ (v := v) (x := y) ?_ ?_; (on_goal 1 => subst y); (on_goal 2 => (intro hy; clear_value y))) | clear_value y)
    | apply Kept.setVlt
    | apply Kept.endRequest
    | apply Kept.vaultRun
    | apply Kept.put
    | apply Kept.setEngine
    | exact fun _ => ⟨rfl, rfl⟩
    | apply Kept.forN
    | simp only [Kept.upd_iff]
    | (intro _ _ _)
    | (intro _ _)
    | (split; rename_i heq; have hk := congrArg Prod.snd heq; subst hk)
    | split

theorem Kept.vaultRequestDone {v : Held} {e : ℕ} {c : Chip} (hc : Kept v c) :
    Kept v (vaultRequestDone e c) := by
  unfold Machine.vaultRequestDone
  with_reducible repeat' first
    | assumption
    | (extract_lets +onlyGivenNames y; first | (refine Kept.have_ (v := v) (x := y) ?_ ?_; (on_goal 1 => subst y); (on_goal 2 => (intro hy; clear_value y))) | clear_value y)
    | apply Kept.endRequest
    | apply Kept.setEngine
    | apply Kept.forN
    | simp only [Kept.upd_iff]
    | (intro _ _ _)
    | (intro _ _)
    | (split; rename_i heq; have hk := congrArg Prod.snd heq; subst hk)
    | split

theorem Kept.vaultPlaneReset {v : Held} {c : Chip} {p : ℕ} (hc : Kept v c) :
    Kept v (Chip.vaultPlaneReset c p) := by
  unfold Machine.Chip.vaultPlaneReset
  with_reducible repeat' first
    | assumption
    | (extract_lets +onlyGivenNames y; first | (refine Kept.have_ (v := v) (x := y) ?_ ?_; (on_goal 1 => subst y); (on_goal 2 => (intro hy; clear_value y))) | clear_value y)
    | apply Kept.setVlt
    | apply Kept.put
    | apply Kept.wipeKeyData
    | exact fun _ => ⟨rfl, rfl⟩
    | apply Kept.forN
    | simp only [Kept.upd_iff]
    | (intro _ _ _)
    | (intro _ _)
    | (split; rename_i heq; have hk := congrArg Prod.snd heq; subst hk)
    | split

theorem Kept.trngHealthFail {v : Held} {c : Chip} (hc : Kept v c) :
    Kept v (trngHealthFail c) := by
  unfold Machine.trngHealthFail
  with_reducible repeat' first
    | assumption
    | (extract_lets +onlyGivenNames y; first | (refine Kept.have_ (v := v) (x := y) ?_ ?_; (on_goal 1 => subst y); (on_goal 2 => (intro hy; clear_value y))) | clear_value y)
    | apply Kept.setFlag
    | apply Kept.incSat
    | apply Kept.raiseEv
    | apply Kept.setFault
    | apply Kept.setVlt
    | exact fun _ => ⟨rfl, rfl⟩
    | apply Kept.forN
    | simp only [Kept.upd_iff]
    | (intro _ _ _)
    | (intro _ _)
    | (split; rename_i heq; have hk := congrArg Prod.snd heq; subst hk)
    | split

theorem Kept.drbgReseed {v : Held} {c : Chip} (hc : Kept v c) :
    Kept v (drbgReseed c) := by
  unfold Machine.drbgReseed
  with_reducible repeat' first
    | assumption
    | (extract_lets +onlyGivenNames y; first | (refine Kept.have_ (v := v) (x := y) ?_ ?_; (on_goal 1 => subst y); (on_goal 2 => (intro hy; clear_value y))) | clear_value y)
    | apply Kept.setVlt
    | exact fun _ => ⟨rfl, rfl⟩
    | apply Kept.forN
    | simp only [Kept.upd_iff]
    | (intro _ _ _)
    | (intro _ _)
    | (split; rename_i heq; have hk := congrArg Prod.snd heq; subst hk)
    | split

theorem Kept.vaultRestoreDone {v : Held} {c : Chip} (hc : Kept v c) :
    Kept v (vaultRestoreDone c) := by
  unfold Machine.vaultRestoreDone
  with_reducible repeat' first
    | assumption
    | (extract_lets +onlyGivenNames y; first | (refine Kept.have_ (v := v) (x := y) ?_ ?_; (on_goal 1 => subst y); (on_goal 2 => (intro hy; clear_value y))) | clear_value y)
    | apply Kept.setVlt
    | apply Kept.put
    | apply Kept.adoptConfig
    | apply Kept.raiseEv
    | apply Kept.setFault
    | apply Kept.setFlag
    | apply Kept.clearFault
    | exact fun _ => ⟨rfl, rfl⟩
    | apply Kept.forN
    | simp only [Kept.upd_iff]
    | apply Kept.foldl
    | apply Kept.foldl_pair
    | (intro _ _ _)
    | (intro _ _)
    | (split; rename_i heq; have hk := congrArg Prod.snd heq; subst hk)
    | split

theorem Kept.vaultEdge {v : Held} {c : Chip} (hc : Kept v c) :
    Kept v (Chip.vaultEdge c) := by
  unfold Machine.Chip.vaultEdge
  refine Kept.setVlt hc fun x => ?_
  split
  · exact ⟨rfl, rfl⟩
  · exact ⟨rfl, rfl⟩

theorem Kept.signError {v : Held} {c : Chip} {e : ℕ} (hc : Kept v c) :
    Kept v (Chip.signError c e) := by
  unfold Machine.Chip.signError
  with_reducible repeat' first
    | assumption
    | (extract_lets +onlyGivenNames y; first | (refine Kept.have_ (v := v) (x := y) ?_ ?_; (on_goal 1 => subst y); (on_goal 2 => (intro hy; clear_value y))) | clear_value y)
    | apply Kept.raiseEv
    | apply Kept.put
    | apply Kept.forN
    | simp only [Kept.upd_iff]
    | (intro _ _ _)
    | (intro _ _)
    | (split; rename_i heq; have hk := congrArg Prod.snd heq; subst hk)
    | split

theorem Kept.signReading {v : Held} {acc : Access} {x1 : ℕ} {c : Chip} (hc : Kept v c) :
    Kept v (signReading acc x1 c) := by
  unfold Machine.signReading
  with_reducible repeat' first
    | assumption
    | (extract_lets +onlyGivenNames y; first | (refine Kept.have_ (v := v) (x := y) ?_ ?_; (on_goal 1 => subst y); (on_goal 2 => (intro hy; clear_value y))) | clear_value y)
    | apply Kept.write
    | apply Kept.signError
    | apply Kept.put
    | apply Kept.forN
    | simp only [Kept.upd_iff]
    | (intro _ _ _)
    | (intro _ _)
    | (split; rename_i heq; have hk := congrArg Prod.snd heq; subst hk)
    | split

theorem Kept.signPublished {v : Held} {c : Chip} {b : Bank} (hc : Kept v c) :
    Kept v (Chip.signPublished c b) := by
  unfold Machine.Chip.signPublished
  with_reducible repeat' first
    | assumption
    | (extract_lets +onlyGivenNames y; first | (refine Kept.have_ (v := v) (x := y) ?_ ?_; (on_goal 1 => subst y); (on_goal 2 => (intro hy; clear_value y))) | clear_value y)
    | apply Kept.submit
    | apply Kept.forN
    | simp only [Kept.upd_iff]
    | (intro _ _ _)
    | (intro _ _)
    | (split; rename_i heq; have hk := congrArg Prod.snd heq; subst hk)
    | split

theorem Kept.signReadingDone {v : Held} {c : Chip} (hc : Kept v c) :
    Kept v (signReadingDone c) := by
  unfold Machine.signReadingDone
  with_reducible repeat' first
    | assumption
    | (extract_lets +onlyGivenNames y; first | (refine Kept.have_ (v := v) (x := y) ?_ ?_; (on_goal 1 => subst y); (on_goal 2 => (intro hy; clear_value y))) | clear_value y)
    | apply Kept.put
    | apply Kept.raiseEv
    | apply Kept.take
    | apply Kept.setVlt
    | exact fun _ => ⟨rfl, rfl⟩
    | apply Kept.signError
    | apply Kept.forN
    | simp only [Kept.upd_iff]
    | (intro _ _ _)
    | (intro _ _)
    | (split; rename_i heq; have hk := congrArg Prod.snd heq; subst hk)
    | split

end Sys2Proof.Machine
end

