-- ==== Sys2Proof/Laws/Kept7.lean ====
section
/-! SUPPORT. What the operations of Boot, Tag keep. -/

set_option linter.unusedTactic false
set_option linter.unreachableTactic false
set_option linter.unusedSimpArgs false
set_option linter.unusedVariables false

namespace Sys2Proof.Machine

theorem Kept.writeRecord {v : Held} {c : Chip} {planes : List BootPlane} (hc : Kept v c) :
    Kept v (Chip.writeRecord c planes) := by
  unfold Machine.Chip.writeRecord
  with_reducible repeat' first
    | assumption
    | (extract_lets +onlyGivenNames y; first | (refine Kept.have_ (v := v) (x := y) ?_ ?_; (on_goal 1 => subst y); (on_goal 2 => (intro hy; clear_value y))) | clear_value y)
    | apply Kept.setBoot
    | exact fun _ => rfl
    | apply Kept.forN
    | simp only [Kept.upd_iff]
    | (intro _ _ _)
    | (intro _ _)
    | (split; rename_i heq; have hk := congrArg Prod.snd heq; subst hk)
    | split

theorem Kept.setBootPlane {v : Held} {c : Chip} {p : ℕ} {x : BootPlane} (hc : Kept v c) :
    Kept v (Chip.setBootPlane c p x) := by
  unfold Machine.Chip.setBootPlane
  with_reducible repeat' first
    | assumption
    | (extract_lets +onlyGivenNames y; first | (refine Kept.have_ (v := v) (x := y) ?_ ?_; (on_goal 1 => subst y); (on_goal 2 => (intro hy; clear_value y))) | clear_value y)
    | apply Kept.writeRecord
    | apply Kept.put
    | apply Kept.setFlag
    | apply Kept.forN
    | simp only [Kept.upd_iff]
    | (intro _ _ _)
    | (intro _ _)
    | (split; rename_i heq; have hk := congrArg Prod.snd heq; subst hk)
    | split

theorem Kept.showLoader {v : Held} {c : Chip} (hc : Kept v c) :
    Kept v (Chip.showLoader c) := by
  unfold Machine.Chip.showLoader
  with_reducible repeat' first
    | assumption
    | (extract_lets +onlyGivenNames y; first | (refine Kept.have_ (v := v) (x := y) ?_ ?_; (on_goal 1 => subst y); (on_goal 2 => (intro hy; clear_value y))) | clear_value y)
    | apply Kept.put
    | apply Kept.setFlag
    | apply Kept.forN
    | simp only [Kept.upd_iff]
    | apply Kept.foldl
    | apply Kept.foldl_pair
    | (intro _ _ _)
    | (intro _ _)
    | (split; rename_i heq; have hk := congrArg Prod.snd heq; subst hk)
    | split

theorem Kept.planeFault {v : Held} {c : Chip} {p : ℕ} {k : ℕ} {b : Bool} (hc : Kept v c) :
    Kept v (Chip.planeFault c p k b) := by
  unfold Machine.Chip.planeFault
  with_reducible repeat' first
    | assumption
    | (extract_lets +onlyGivenNames y; first | (refine Kept.have_ (v := v) (x := y) ?_ ?_; (on_goal 1 => subst y); (on_goal 2 => (intro hy; clear_value y))) | clear_value y)
    | apply Kept.faultIs
    | apply Kept.forN
    | simp only [Kept.upd_iff]
    | (intro _ _ _)
    | (intro _ _)
    | (split; rename_i heq; have hk := congrArg Prod.snd heq; subst hk)
    | split

theorem Kept.revertPlane {v : Held} {c : Chip} {p : Nat} (hc : Kept v c) :
    Kept v (Chip.revertPlane c p) := by
  unfold Machine.Chip.revertPlane
  with_reducible repeat' first
    | assumption
    | (extract_lets +onlyGivenNames y; first | (refine Kept.have_ (v := v) (x := y) ?_ ?_; (on_goal 1 => subst y); (on_goal 2 => (intro hy; clear_value y))) | clear_value y)
    | apply Kept.setFlag
    | apply Kept.setBoot
    | exact fun _ => rfl
    | apply Kept.setBootPlane
    | apply Kept.planeFault
    | apply Kept.forN
    | simp only [Kept.upd_iff]
    | (intro _ _ _)
    | (intro _ _)
    | (split; rename_i heq; have hk := congrArg Prod.snd heq; subst hk)
    | split

theorem Kept.selectBank {v : Held} {c : Chip} {p : ℕ} (hc : Kept v c) :
    Kept v ((Chip.selectBank c p)).2 := by
  unfold Machine.Chip.selectBank
  with_reducible repeat' first
    | assumption
    | (extract_lets +onlyGivenNames y; first | (refine Kept.have_ (v := v) (x := y) ?_ ?_; (on_goal 1 => subst y); (on_goal 2 => (intro hy; clear_value y))) | clear_value y)
    | apply Kept.setBootPlane
    | apply Kept.revertPlane
    | apply Kept.forN
    | simp only [Kept.upd_iff]
    | (intro _ _ _)
    | (intro _ _)
    | (split; rename_i heq; have hk := congrArg Prod.snd heq; subst hk)
    | split

theorem Kept.loaderNext {v : Held} {c : Chip} (hc : Kept v c) :
    Kept v (Chip.loaderNext c) := by
  unfold Machine.Chip.loaderNext
  with_reducible repeat' first
    | assumption
    | (extract_lets +onlyGivenNames y; first | (refine Kept.have_ (v := v) (x := y) ?_ ?_; (on_goal 1 => subst y); (on_goal 2 => (intro hy; clear_value y))) | clear_value y)
    | apply Kept.selectBank
    | apply Kept.showLoader
    | apply Kept.put
    | apply Kept.setBoot
    | exact fun _ => rfl
    | apply Kept.forN
    | simp only [Kept.upd_iff]
    | (intro _ _ _)
    | (intro _ _)
    | (split; rename_i heq; have hk := congrArg Prod.snd heq; subst hk)
    | split

theorem Kept.queueStart {v : Held} {c : Chip} {p : ℕ} (hc : Kept v c) :
    Kept v (Chip.queueStart c p) := by
  unfold Machine.Chip.queueStart
  with_reducible repeat' first
    | assumption
    | (extract_lets +onlyGivenNames y; first | (refine Kept.have_ (v := v) (x := y) ?_ ?_; (on_goal 1 => subst y); (on_goal 2 => (intro hy; clear_value y))) | clear_value y)
    | apply Kept.loaderNext
    | apply Kept.setBoot
    | exact fun _ => rfl
    | apply Kept.forN
    | simp only [Kept.upd_iff]
    | (intro _ _ _)
    | (intro _ _)
    | (split; rename_i heq; have hk := congrArg Prod.snd heq; subst hk)
    | split

theorem Kept.startPlane {v : Held} {c : Chip} {p : Nat} {bank : Nat} (hc : Kept v c) :
    Kept v (Chip.startPlane c p bank) := by
  unfold Machine.Chip.startPlane
  with_reducible repeat' first
    | assumption
    | (extract_lets +onlyGivenNames y; first | (refine Kept.have_ (v := v) (x := y) ?_ ?_; (on_goal 1 => subst y); (on_goal 2 => (intro hy; clear_value y))) | clear_value y)
    | apply Kept.put
    | apply Kept.raiseEv
    | apply Kept.onlineTargets
    | apply Kept.resetPrivate
    | apply Kept.take
    | apply Kept.startSafety
    | apply Kept.setBoot
    | exact fun _ => rfl
    | apply Kept.planeFault
    | apply Kept.forN
    | simp only [Kept.upd_iff]
    | apply Kept.foldl
    | apply Kept.foldl_pair
    | (intro _ _ _)
    | (intro _ _)
    | (split; rename_i heq; have hk := congrArg Prod.snd heq; subst hk)
    | split

theorem Kept.failPlane {v : Held} {c : Chip} {p : ℕ} (hc : Kept v c) :
    Kept v (Chip.failPlane c p) := by
  unfold Machine.Chip.failPlane
  with_reducible repeat' first
    | assumption
    | (extract_lets +onlyGivenNames y; first | (refine Kept.have_ (v := v) (x := y) ?_ ?_; (on_goal 1 => subst y); (on_goal 2 => (intro hy; clear_value y))) | clear_value y)
    | apply Kept.raiseEv
    | apply Kept.planeFault
    | apply Kept.put
    | apply Kept.forN
    | simp only [Kept.upd_iff]
    | (intro _ _ _)
    | (intro _ _)
    | (split; rename_i heq; have hk := congrArg Prod.snd heq; subst hk)
    | split

theorem Kept.imageLoadDone {v : Held} {c : Chip} (hc : Kept v c) :
    Kept v (imageLoadDone c) := by
  unfold Machine.imageLoadDone
  with_reducible repeat' first
    | assumption
    | (extract_lets +onlyGivenNames y; first | (refine Kept.have_ (v := v) (x := y) ?_ ?_; (on_goal 1 => subst y); (on_goal 2 => (intro hy; clear_value y))) | clear_value y)
    | apply Kept.setBoot
    | apply Kept.startPlane
    | apply Kept.revertPlane
    | apply Kept.raiseEv
    | apply Kept.planeFault
    | apply Kept.setFlag
    | apply Kept.failPlane
    | apply Kept.loaderNext
    | exact fun _ => rfl
    | apply Kept.forN
    | simp only [Kept.upd_iff]
    | (intro _ _ _)
    | (intro _ _)
    | (split; rename_i heq; have hk := congrArg Prod.snd heq; subst hk)
    | split

theorem Kept.planeReset {v : Held} {c : Chip} {p : Nat} (hc : Kept v c) (hr : v.mram = none) :
    Kept v (Chip.planeReset c p) := by
  unfold Machine.Chip.planeReset
  with_reducible repeat' first
    | assumption
    | (extract_lets +onlyGivenNames y; first | (refine Kept.have_ (v := v) (x := y) ?_ ?_; (on_goal 1 => subst y); (on_goal 2 => (intro hy; clear_value y))) | clear_value y)
    | apply Kept.put
    | apply Kept.incSat
    | apply Kept.raiseEv
    | apply Kept.mailboxPlaneReset
    | apply Kept.parkTargets
    | apply Kept.stopSafety
    | apply Kept.vaultPlaneReset
    | apply Kept.setBoot
    | exact fun _ => rfl
    | apply Kept.loaderNext
    | apply Kept.forN
    | simp only [Kept.upd_iff]
    | (intro _ _ _)
    | (intro _ _)
    | (split; rename_i heq; have hk := congrArg Prod.snd heq; subst hk)
    | split

theorem Kept.bootEdge {v : Held} {c : Chip} (hc : Kept v c) :
    Kept v (Chip.bootEdge c) := by
  unfold Machine.Chip.bootEdge
  with_reducible repeat' first
    | assumption
    | (extract_lets +onlyGivenNames y; first | (refine Kept.have_ (v := v) (x := y) ?_ ?_; (on_goal 1 => subst y); (on_goal 2 => (intro hy; clear_value y))) | clear_value y)
    | apply Kept.setBoot
    | apply Kept.queueStart
    | exact fun _ => rfl
    | apply Kept.forN
    | simp only [Kept.upd_iff]
    | (intro _ _ _)
    | (intro _ _)
    | (split; rename_i heq; have hk := congrArg Prod.snd heq; subst hk)
    | split

theorem Kept.planeCommand {v : Held} {c : Chip} {acc : Access} {p : ℕ} {x3 : ℕ} {k : ℕ} {f : Chip → Chip} (hc : Kept v c) (hf : ∀ c, Kept v c → Kept v (f c)) :
    Kept v (Chip.planeCommand c acc p x3 k f) := by
  unfold Machine.Chip.planeCommand
  with_reducible repeat' first
    | assumption
    | (extract_lets +onlyGivenNames y; first | (refine Kept.have_ (v := v) (x := y) ?_ ?_; (on_goal 1 => subst y); (on_goal 2 => (intro hy; clear_value y))) | clear_value y)
    | apply hf
    | apply Kept.write
    | apply Kept.forN
    | simp only [Kept.upd_iff]
    | (intro _ _ _)
    | (intro _ _)
    | (split; rename_i heq; have hk := congrArg Prod.snd heq; subst hk)
    | split

theorem Kept.endPlaneCommand {v : Held} {c : Chip} {p : ℕ} {state : ℕ} {reason : ℕ} (hc : Kept v c) :
    Kept v (Chip.endPlaneCommand c p state reason) := by
  unfold Machine.Chip.endPlaneCommand
  with_reducible repeat' first
    | assumption
    | (extract_lets +onlyGivenNames y; first | (refine Kept.have_ (v := v) (x := y) ?_ ?_; (on_goal 1 => subst y); (on_goal 2 => (intro hy; clear_value y))) | clear_value y)
    | apply Kept.put
    | apply Kept.forN
    | simp only [Kept.upd_iff]
    | (intro _ _ _)
    | (intro _ _)
    | (split; rename_i heq; have hk := congrArg Prod.snd heq; subst hk)
    | split

theorem Kept.planeStartCmd {v : Held} {acc : Access} {p : ℕ} {x2 : ℕ} {c : Chip} (hc : Kept v c) :
    Kept v (planeStartCmd acc p x2 c) := by
  unfold Machine.planeStartCmd
  with_reducible repeat' first
    | assumption
    | (extract_lets +onlyGivenNames y; first | (refine Kept.have_ (v := v) (x := y) ?_ ?_; (on_goal 1 => subst y); (on_goal 2 => (intro hy; clear_value y))) | clear_value y)
    | apply Kept.planeCommand
    | apply Kept.endPlaneCommand
    | apply Kept.queueStart
    | apply Kept.forN
    | simp only [Kept.upd_iff]
    | (intro _ _ _)
    | (intro _ _)
    | (split; rename_i heq; have hk := congrArg Prod.snd heq; subst hk)
    | split

theorem Kept.planeSwitchCmd {v : Held} {acc : Access} {p : ℕ} {x2 : ℕ} {c : Chip} (hc : Kept v c) (hr : v.mram = none) :
    Kept v (planeSwitchCmd acc p x2 c) := by
  unfold Machine.planeSwitchCmd
  with_reducible repeat' first
    | assumption
    | (extract_lets +onlyGivenNames y; first | (refine Kept.have_ (v := v) (x := y) ?_ ?_; (on_goal 1 => subst y); (on_goal 2 => (intro hy; clear_value y))) | clear_value y)
    | apply Kept.planeCommand
    | apply Kept.endPlaneCommand
    | apply Kept.setBootPlane
    | apply Kept.planeReset
    | apply Kept.forN
    | simp only [Kept.upd_iff]
    | (intro _ _ _)
    | (intro _ _)
    | (split; rename_i heq; have hk := congrArg Prod.snd heq; subst hk)
    | split

theorem Kept.planeConfirmCmd {v : Held} {acc : Access} {p : ℕ} {x2 : ℕ} {c : Chip} (hc : Kept v c) :
    Kept v (planeConfirmCmd acc p x2 c) := by
  unfold Machine.planeConfirmCmd
  with_reducible repeat' first
    | assumption
    | (extract_lets +onlyGivenNames y; first | (refine Kept.have_ (v := v) (x := y) ?_ ?_; (on_goal 1 => subst y); (on_goal 2 => (intro hy; clear_value y))) | clear_value y)
    | apply Kept.planeCommand
    | apply Kept.setBootPlane
    | apply Kept.endPlaneCommand
    | apply Kept.setBoot
    | exact fun _ => rfl
    | apply Kept.forN
    | simp only [Kept.upd_iff]
    | (intro _ _ _)
    | (intro _ _)
    | (split; rename_i heq; have hk := congrArg Prod.snd heq; subst hk)
    | split

theorem Kept.svnCommitCmd {v : Held} {acc : Access} {p : ℕ} {x2 : ℕ} {c : Chip} (hc : Kept v c) :
    Kept v (svnCommitCmd acc p x2 c) := by
  unfold Machine.svnCommitCmd
  with_reducible repeat' first
    | assumption
    | (extract_lets +onlyGivenNames y; first | (refine Kept.have_ (v := v) (x := y) ?_ ?_; (on_goal 1 => subst y); (on_goal 2 => (intro hy; clear_value y))) | clear_value y)
    | apply Kept.planeCommand
    | apply Kept.endPlaneCommand
    | apply Kept.put
    | apply Kept.forN
    | simp only [Kept.upd_iff]
    | (intro _ _ _)
    | (intro _ _)
    | (split; rename_i heq; have hk := congrArg Prod.snd heq; subst hk)
    | split

theorem Kept.planeRevertCmd {v : Held} {acc : Access} {p : ℕ} {x2 : ℕ} {c : Chip} (hc : Kept v c) (hr : v.mram = none) :
    Kept v (planeRevertCmd acc p x2 c) := by
  unfold Machine.planeRevertCmd
  with_reducible repeat' first
    | assumption
    | (extract_lets +onlyGivenNames y; first | (refine Kept.have_ (v := v) (x := y) ?_ ?_; (on_goal 1 => subst y); (on_goal 2 => (intro hy; clear_value y))) | clear_value y)
    | apply Kept.planeCommand
    | apply Kept.setBootPlane
    | apply Kept.planeReset
    | apply Kept.endPlaneCommand
    | apply Kept.forN
    | simp only [Kept.upd_iff]
    | (intro _ _ _)
    | (intro _ _)
    | (split; rename_i heq; have hk := congrArg Prod.snd heq; subst hk)
    | split

theorem Kept.trialWindowExpire {v : Held} {p : ℕ} {c : Chip} (hc : Kept v c) (hr : v.mram = none) :
    Kept v (trialWindowExpire p c) := by
  unfold Machine.trialWindowExpire
  with_reducible repeat' first
    | assumption
    | (extract_lets +onlyGivenNames y; first | (refine Kept.have_ (v := v) (x := y) ?_ ?_; (on_goal 1 => subst y); (on_goal 2 => (intro hy; clear_value y))) | clear_value y)
    | apply Kept.planeReset
    | apply Kept.forN
    | simp only [Kept.upd_iff]
    | (intro _ _ _)
    | (intro _ _)
    | (split; rename_i heq; have hk := congrArg Prod.snd heq; subst hk)
    | split

theorem Kept.managementExpired {v : Held} {c : Chip} {b : Bool} (hc : Kept v c) :
    Kept v (Chip.managementExpired c b) := by
  unfold Machine.Chip.managementExpired
  with_reducible repeat' first
    | assumption
    | (extract_lets +onlyGivenNames y; first | (refine Kept.have_ (v := v) (x := y) ?_ ?_; (on_goal 1 => subst y); (on_goal 2 => (intro hy; clear_value y))) | clear_value y)
    | apply Kept.watchdogsChanged
    | apply Kept.setLoad
    | apply Kept.forN
    | simp only [Kept.upd_iff]
    | (intro _ _ _)
    | (intro _ _)
    | (split; rename_i heq; have hk := congrArg Prod.snd heq; subst hk)
    | split

theorem Kept.watchdogService {v : Held} {t : ℕ} {x1 : ℕ} {c : Chip} (hc : Kept v c) :
    Kept v (watchdogService t x1 c) := by
  unfold Machine.watchdogService
  with_reducible repeat' first
    | assumption
    | (extract_lets +onlyGivenNames y; first | (refine Kept.have_ (v := v) (x := y) ?_ ?_; (on_goal 1 => subst y); (on_goal 2 => (intro hy; clear_value y))) | clear_value y)
    | apply Kept.setBoot
    | apply Kept.setFlag
    | apply Kept.managementExpired
    | exact fun _ => rfl
    | apply Kept.forN
    | simp only [Kept.upd_iff]
    | (intro _ _ _)
    | (intro _ _)
    | (split; rename_i heq; have hk := congrArg Prod.snd heq; subst hk)
    | split

theorem Kept.watchdogHalf {v : Held} {p : ℕ} {c : Chip} (hc : Kept v c) :
    Kept v (watchdogHalf p c) := by
  unfold Machine.watchdogHalf
  with_reducible repeat' first
    | assumption
    | (extract_lets +onlyGivenNames y; first | (refine Kept.have_ (v := v) (x := y) ?_ ?_; (on_goal 1 => subst y); (on_goal 2 => (intro hy; clear_value y))) | clear_value y)
    | apply Kept.setBoot
    | apply Kept.firePrivate
    | exact fun _ => rfl
    | apply Kept.forN
    | simp only [Kept.upd_iff]
    | apply Kept.foldl
    | apply Kept.foldl_pair
    | (intro _ _ _)
    | (intro _ _)
    | (split; rename_i heq; have hk := congrArg Prod.snd heq; subst hk)
    | split

theorem Kept.requestReset {v : Held} {c : Chip} {module : Bool} {cause : ℕ} {plane : ℕ} (hc : Kept v c) :
    Kept v (Chip.requestReset c module cause plane) := by
  unfold Machine.Chip.requestReset
  with_reducible repeat' first
    | assumption
    | (extract_lets +onlyGivenNames y; first | (refine Kept.have_ (v := v) (x := y) ?_ ?_; (on_goal 1 => subst y); (on_goal 2 => (intro hy; clear_value y))) | clear_value y)
    | apply Kept.setLed
    | apply Kept.setBoot
    | exact fun _ => rfl
    | apply Kept.forN
    | simp only [Kept.upd_iff]
    | (intro _ _ _)
    | (intro _ _)
    | (split; rename_i heq; have hk := congrArg Prod.snd heq; subst hk)
    | split

theorem Kept.watchdogExpire {v : Held} {p : ℕ} {c : Chip} (hc : Kept v c) (hr : v.mram = none) :
    Kept v (watchdogExpire p c) := by
  unfold Machine.watchdogExpire
  with_reducible repeat' first
    | assumption
    | (extract_lets +onlyGivenNames y; first | (refine Kept.have_ (v := v) (x := y) ?_ ?_; (on_goal 1 => subst y); (on_goal 2 => (intro hy; clear_value y))) | clear_value y)
    | apply Kept.setBoot
    | apply Kept.raiseEv
    | apply Kept.setFlag
    | apply Kept.managementExpired
    | apply Kept.requestReset
    | apply Kept.planeReset
    | exact fun _ => rfl
    | apply Kept.forN
    | simp only [Kept.upd_iff]
    | (intro _ _ _)
    | (intro _ _)
    | (split; rename_i heq; have hk := congrArg Prod.snd heq; subst hk)
    | split

theorem Kept.corePowerGate {v : Held} {acc : Access} {w_ : Nat} {c : Chip} (hc : Kept v c) :
    Kept v (corePowerGate acc w_ c) := by
  unfold Machine.corePowerGate
  with_reducible repeat' first
    | assumption
    | (extract_lets +onlyGivenNames y; first | (refine Kept.have_ (v := v) (x := y) ?_ ?_; (on_goal 1 => subst y); (on_goal 2 => (intro hy; clear_value y))) | clear_value y)
    | apply Kept.put
    | apply Kept.write
    | apply Kept.parkTargets
    | apply Kept.onlineTargets
    | apply Kept.forN
    | simp only [Kept.upd_iff]
    | (intro _ _ _)
    | (intro _ _)
    | (split; rename_i heq; have hk := congrArg Prod.snd heq; subst hk)
    | split

theorem Kept.showUpdate {v : Held} {c : Chip} (hc : Kept v c) :
    Kept v (Chip.showUpdate c) := by
  unfold Machine.Chip.showUpdate
  with_reducible repeat' first
    | assumption
    | (extract_lets +onlyGivenNames y; first | (refine Kept.have_ (v := v) (x := y) ?_ ?_; (on_goal 1 => subst y); (on_goal 2 => (intro hy; clear_value y))) | clear_value y)
    | apply Kept.put
    | apply Kept.setFlag
    | apply Kept.forN
    | simp only [Kept.upd_iff]
    | (intro _ _ _)
    | (intro _ _)
    | (split; rename_i heq; have hk := congrArg Prod.snd heq; subst hk)
    | split

theorem Kept.updateCommand {v : Held} {c : Chip} {acc : Access} {k : ℕ} {ofs : ℕ} {align : ℕ} {cmd : NorCommand} (hc : Kept v c) :
    Kept v (Chip.updateCommand c acc k ofs align cmd) := by
  unfold Machine.Chip.updateCommand
  with_reducible repeat' first
    | assumption
    | (extract_lets +onlyGivenNames y; first | (refine Kept.have_ (v := v) (x := y) ?_ ?_; (on_goal 1 => subst y); (on_goal 2 => (intro hy; clear_value y))) | clear_value y)
    | apply Kept.write
    | apply Kept.raiseEv
    | apply Kept.put
    | apply Kept.setBoot
    | apply Kept.showUpdate
    | exact fun _ => rfl
    | apply Kept.forN
    | simp only [Kept.upd_iff]
    | (intro _ _ _)
    | (intro _ _)
    | (split; rename_i heq; have hk := congrArg Prod.snd heq; subst hk)
    | split

theorem Kept.norEraseCmd {v : Held} {acc : Access} {c : Chip} (hc : Kept v c) :
    Kept v (norEraseCmd acc c) := by
  unfold Machine.norEraseCmd
  with_reducible repeat' first
    | assumption
    | (extract_lets +onlyGivenNames y; first | (refine Kept.have_ (v := v) (x := y) ?_ ?_; (on_goal 1 => subst y); (on_goal 2 => (intro hy; clear_value y))) | clear_value y)
    | apply Kept.updateCommand
    | apply Kept.forN
    | simp only [Kept.upd_iff]
    | (intro _ _ _)
    | (intro _ _)
    | (split; rename_i heq; have hk := congrArg Prod.snd heq; subst hk)
    | split

theorem Kept.norProgramCmd {v : Held} {acc : Access} {c : Chip} (hc : Kept v c) :
    Kept v (norProgramCmd acc c) := by
  unfold Machine.norProgramCmd
  with_reducible repeat' first
    | assumption
    | (extract_lets +onlyGivenNames y; first | (refine Kept.have_ (v := v) (x := y) ?_ ?_; (on_goal 1 => subst y); (on_goal 2 => (intro hy; clear_value y))) | clear_value y)
    | apply Kept.updateCommand
    | apply Kept.forN
    | simp only [Kept.upd_iff]
    | (intro _ _ _)
    | (intro _ _)
    | (split; rename_i heq; have hk := congrArg Prod.snd heq; subst hk)
    | split

theorem Kept.norVerifyCmd {v : Held} {acc : Access} {c : Chip} (hc : Kept v c) :
    Kept v (norVerifyCmd acc c) := by
  unfold Machine.norVerifyCmd
  with_reducible repeat' first
    | assumption
    | (extract_lets +onlyGivenNames y; first | (refine Kept.have_ (v := v) (x := y) ?_ ?_; (on_goal 1 => subst y); (on_goal 2 => (intro hy; clear_value y))) | clear_value y)
    | apply Kept.updateCommand
    | apply Kept.forN
    | simp only [Kept.upd_iff]
    | (intro _ _ _)
    | (intro _ _)
    | (split; rename_i heq; have hk := congrArg Prod.snd heq; subst hk)
    | split

theorem Kept.norInvalidateCmd {v : Held} {acc : Access} {c : Chip} (hc : Kept v c) :
    Kept v (norInvalidateCmd acc c) := by
  unfold Machine.norInvalidateCmd
  with_reducible repeat' first
    | assumption
    | (extract_lets +onlyGivenNames y; first | (refine Kept.have_ (v := v) (x := y) ?_ ?_; (on_goal 1 => subst y); (on_goal 2 => (intro hy; clear_value y))) | clear_value y)
    | apply Kept.updateCommand
    | apply Kept.forN
    | simp only [Kept.upd_iff]
    | (intro _ _ _)
    | (intro _ _)
    | (split; rename_i heq; have hk := congrArg Prod.snd heq; subst hk)
    | split

theorem Kept.endUpdate {v : Held} {c : Chip} {state : ℕ} {reason : ℕ} (hc : Kept v c) :
    Kept v (Chip.endUpdate c state reason) := by
  unfold Machine.Chip.endUpdate
  with_reducible repeat' first
    | assumption
    | (extract_lets +onlyGivenNames y; first | (refine Kept.have_ (v := v) (x := y) ?_ ?_; (on_goal 1 => subst y); (on_goal 2 => (intro hy; clear_value y))) | clear_value y)
    | apply Kept.raiseEv
    | apply Kept.showUpdate
    | apply Kept.put
    | apply Kept.forN
    | simp only [Kept.upd_iff]
    | (intro _ _ _)
    | (intro _ _)
    | (split; rename_i heq; have hk := congrArg Prod.snd heq; subst hk)
    | split

theorem Kept.norCommandDone {v : Held} {c : Chip} (hc : Kept v c) (hn : v.nor = none) :
    Kept v (norCommandDone c) := by
  unfold Machine.norCommandDone
  with_reducible repeat' first
    | assumption
    | (extract_lets +onlyGivenNames y; first | (refine Kept.have_ (v := v) (x := y) ?_ ?_; (on_goal 1 => subst y); (on_goal 2 => (intro hy; clear_value y))) | clear_value y)
    | apply Kept.setBoot
    | apply Kept.endUpdate
    | apply Kept.setImage
    | exact fun _ => rfl
    | apply Kept.forN
    | simp only [Kept.upd_iff]
    | (intro _ _ _)
    | (intro _ _)
    | (split; rename_i heq; have hk := congrArg Prod.snd heq; subst hk)
    | split

theorem Kept.spoilRange {v : Held} {c : Chip} {p : ℕ} {bank : ℕ} {ofs : ℕ} {n : ℕ} (hc : Kept v c) (hn : v.nor = none) :
    Kept v (Chip.spoilRange c p bank ofs n) := by
  unfold Machine.Chip.spoilRange
  with_reducible repeat' first
    | assumption
    | (extract_lets +onlyGivenNames y; first | (refine Kept.have_ (v := v) (x := y) ?_ ?_; (on_goal 1 => subst y); (on_goal 2 => (intro hy; clear_value y))) | clear_value y)
    | apply Kept.draw
    | apply Kept.setBoot
    | apply Kept.setImage
    | exact fun _ => rfl
    | apply Kept.forN
    | simp only [Kept.upd_iff]
    | apply Kept.foldl
    | apply Kept.foldl_pair
    | (intro _ _ _)
    | (intro _ _)
    | (split; rename_i heq; have hk := congrArg Prod.snd heq; subst hk)
    | split

theorem Kept.spoilUpdate {v : Held} {c : Chip} (hc : Kept v c) (hn : v.nor = none) :
    Kept v (Chip.spoilUpdate c) := by
  unfold Machine.Chip.spoilUpdate
  with_reducible repeat' first
    | assumption
    | (extract_lets +onlyGivenNames y; first | (refine Kept.have_ (v := v) (x := y) ?_ ?_; (on_goal 1 => subst y); (on_goal 2 => (intro hy; clear_value y))) | clear_value y)
    | apply Kept.spoilRange
    | apply Kept.forN
    | simp only [Kept.upd_iff]
    | (intro _ _ _)
    | (intro _ _)
    | (split; rename_i heq; have hk := congrArg Prod.snd heq; subst hk)
    | split

theorem Kept.keyHashEnrol {v : Held} {acc : Access} {c : Chip} (hc : Kept v c) :
    Kept v (keyHashEnrol acc c) := by
  unfold Machine.keyHashEnrol
  with_reducible repeat' first
    | assumption
    | (extract_lets +onlyGivenNames y; first | (refine Kept.have_ (v := v) (x := y) ?_ ?_; (on_goal 1 => subst y); (on_goal 2 => (intro hy; clear_value y))) | clear_value y)
    | apply Kept.write
    | apply Kept.setBoot
    | apply Kept.setFlag
    | exact fun _ => rfl
    | apply Kept.forN
    | simp only [Kept.upd_iff]
    | (intro _ _ _)
    | (intro _ _)
    | (split; rename_i heq; have hk := congrArg Prod.snd heq; subst hk)
    | split

theorem Kept.keyHashRevoke {v : Held} {acc : Access} {c : Chip} (hc : Kept v c) :
    Kept v (keyHashRevoke acc c) := by
  unfold Machine.keyHashRevoke
  with_reducible repeat' first
    | assumption
    | (extract_lets +onlyGivenNames y; first | (refine Kept.have_ (v := v) (x := y) ?_ ?_; (on_goal 1 => subst y); (on_goal 2 => (intro hy; clear_value y))) | clear_value y)
    | apply Kept.write
    | apply Kept.setFlag
    | apply Kept.forN
    | simp only [Kept.upd_iff]
    | (intro _ _ _)
    | (intro _ _)
    | (split; rename_i heq; have hk := congrArg Prod.snd heq; subst hk)
    | split

theorem Kept.setTag {v : Held} {c : Chip} {f : TagReader → TagReader} (hc : Kept v c) :
    Kept v (Chip.setTag c f) := by
  unfold Machine.Chip.setTag
  with_reducible repeat' first
    | assumption
    | (extract_lets +onlyGivenNames y; first | (refine Kept.have_ (v := v) (x := y) ?_ ?_; (on_goal 1 => subst y); (on_goal 2 => (intro hy; clear_value y))) | clear_value y)
    | apply Kept.forN
    | simp only [Kept.upd_iff]
    | (intro _ _ _)
    | (intro _ _)
    | (split; rename_i heq; have hk := congrArg Prod.snd heq; subst hk)
    | split

theorem Kept.tagShow {v : Held} {c : Chip} (hc : Kept v c) :
    Kept v (Chip.tagShow c) := by
  unfold Machine.Chip.tagShow
  with_reducible repeat' first
    | assumption
    | (extract_lets +onlyGivenNames y; first | (refine Kept.have_ (v := v) (x := y) ?_ ?_; (on_goal 1 => subst y); (on_goal 2 => (intro hy; clear_value y))) | clear_value y)
    | apply Kept.setFlag
    | apply Kept.put
    | apply Kept.forN
    | simp only [Kept.upd_iff]
    | (intro _ _ _)
    | (intro _ _)
    | (split; rename_i heq; have hk := congrArg Prod.snd heq; subst hk)
    | split

theorem Kept.tagFifo {v : Held} {c : Chip} (hc : Kept v c) :
    Kept v (Chip.tagFifo c) := by
  unfold Machine.Chip.tagFifo
  with_reducible repeat' first
    | assumption
    | (extract_lets +onlyGivenNames y; first | (refine Kept.have_ (v := v) (x := y) ?_ ?_; (on_goal 1 => subst y); (on_goal 2 => (intro hy; clear_value y))) | clear_value y)
    | apply Kept.put
    | apply Kept.setRaw
    | apply Kept.take
    | apply Kept.forN
    | simp only [Kept.upd_iff]
    | (intro _ _ _)
    | (intro _ _)
    | (split; rename_i heq; have hk := congrArg Prod.snd heq; subst hk)
    | split

theorem Kept.tagReport {v : Held} {c : Chip} {r : List ℕ} (hc : Kept v c) :
    Kept v (Chip.tagReport c r) := by
  unfold Machine.Chip.tagReport
  with_reducible repeat' first
    | assumption
    | (extract_lets +onlyGivenNames y; first | (refine Kept.have_ (v := v) (x := y) ?_ ?_; (on_goal 1 => subst y); (on_goal 2 => (intro hy; clear_value y))) | clear_value y)
    | apply Kept.raiseEv
    | apply Kept.incSat
    | apply Kept.tagFifo
    | apply Kept.setTag
    | apply Kept.forN
    | simp only [Kept.upd_iff]
    | (intro _ _ _)
    | (intro _ _)
    | (split; rename_i heq; have hk := congrArg Prod.snd heq; subst hk)
    | split

theorem Kept.tagRepPop {v : Held} {acc : Access} {x1 : ℕ} {c : Chip} (hc : Kept v c) :
    Kept v (tagRepPop acc x1 c) := by
  unfold Machine.tagRepPop
  with_reducible repeat' first
    | assumption
    | (extract_lets +onlyGivenNames y; first | (refine Kept.have_ (v := v) (x := y) ?_ ?_; (on_goal 1 => subst y); (on_goal 2 => (intro hy; clear_value y))) | clear_value y)
    | apply Kept.write
    | apply Kept.tagFifo
    | apply Kept.setTag
    | apply Kept.forN
    | simp only [Kept.upd_iff]
    | (intro _ _ _)
    | (intro _ _)
    | (split; rename_i heq; have hk := congrArg Prod.snd heq; subst hk)
    | split

theorem Kept.measureGamma {v : Held} {c : Chip} {a : ℕ} {re : ℤ} {im : ℤ} (hc : Kept v c) :
    Kept v (Chip.measureGamma c a re im) := by
  unfold Machine.Chip.measureGamma
  with_reducible repeat' first
    | assumption
    | (extract_lets +onlyGivenNames y; first | (refine Kept.have_ (v := v) (x := y) ?_ ?_; (on_goal 1 => subst y); (on_goal 2 => (intro hy; clear_value y))) | clear_value y)
    | apply Kept.putS
    | apply Kept.raiseEv
    | apply Kept.incSat
    | apply Kept.setFlag
    | apply Kept.clearFault
    | apply Kept.setTag
    | apply Kept.forN
    | simp only [Kept.upd_iff]
    | (intro _ _ _)
    | (intro _ _)
    | (split; rename_i heq; have hk := congrArg Prod.snd heq; subst hk)
    | split

theorem Kept.tuneTo {v : Held} {c : Chip} {k : ℕ} (hc : Kept v c) :
    Kept v (Chip.tuneTo c k) := by
  unfold Machine.Chip.tuneTo
  with_reducible repeat' first
    | assumption
    | (extract_lets +onlyGivenNames y; first | (refine Kept.have_ (v := v) (x := y) ?_ ?_; (on_goal 1 => subst y); (on_goal 2 => (intro hy; clear_value y))) | clear_value y)
    | apply Kept.setTag
    | apply Kept.forN
    | simp only [Kept.upd_iff]
    | (intro _ _ _)
    | (intro _ _)
    | (split; rename_i heq; have hk := congrArg Prod.snd heq; subst hk)
    | split

theorem Kept.tagChannel {v : Held} {c : Chip} (hc : Kept v c) :
    Kept v (Chip.tagChannel c) := by
  unfold Machine.Chip.tagChannel
  with_reducible repeat' first
    | assumption
    | (extract_lets +onlyGivenNames y; first | (refine Kept.have_ (v := v) (x := y) ?_ ?_; (on_goal 1 => subst y); (on_goal 2 => (intro hy; clear_value y))) | clear_value y)
    | apply Kept.setTag
    | apply Kept.tuneTo
    | apply Kept.forN
    | simp only [Kept.upd_iff]
    | (intro _ _ _)
    | (intro _ _)
    | (split; rename_i heq; have hk := congrArg Prod.snd heq; subst hk)
    | split

theorem Kept.onAir {v : Held} {c : Chip} {a : Nat} {commands : List TagCommand} (hc : Kept v c) :
    Kept v (Chip.onAir c a commands) := by
  unfold Machine.Chip.onAir
  with_reducible repeat' first
    | assumption
    | (extract_lets +onlyGivenNames y; first | (refine Kept.have_ (v := v) (x := y) ?_ ?_; (on_goal 1 => subst y); (on_goal 2 => (intro hy; clear_value y))) | clear_value y)
    | apply Kept.setTag
    | apply Kept.forN
    | simp only [Kept.upd_iff]
    | (intro _ _ _)
    | (intro _ _)
    | (split; rename_i heq; have hk := congrArg Prod.snd heq; subst hk)
    | split

theorem Kept.endWrite {v : Held} {c : Chip} {outcome : ℕ} {step : ℕ} {err : ℕ} {rec_ : ℕ} (hc : Kept v c) :
    Kept v (Chip.endWrite c outcome step err rec_) := by
  unfold Machine.Chip.endWrite
  with_reducible repeat' first
    | assumption
    | (extract_lets +onlyGivenNames y; first | (refine Kept.have_ (v := v) (x := y) ?_ ?_; (on_goal 1 => subst y); (on_goal 2 => (intro hy; clear_value y))) | clear_value y)
    | apply Kept.setTag
    | apply Kept.put
    | apply Kept.tagShow
    | apply Kept.raiseEv
    | apply Kept.forN
    | simp only [Kept.upd_iff]
    | (intro _ _ _)
    | (intro _ _)
    | (split; rename_i heq; have hk := congrArg Prod.snd heq; subst hk)
    | split

theorem Kept.endRound {v : Held} {c : Chip} (hc : Kept v c) :
    Kept v (Chip.endRound c) := by
  unfold Machine.Chip.endRound
  with_reducible repeat' first
    | assumption
    | (extract_lets +onlyGivenNames y; first | (refine Kept.have_ (v := v) (x := y) ?_ ?_; (on_goal 1 => subst y); (on_goal 2 => (intro hy; clear_value y))) | clear_value y)
    | apply Kept.tagShow
    | apply Kept.raiseEv
    | apply Kept.setTag
    | apply Kept.forN
    | simp only [Kept.upd_iff]
    | (intro _ _ _)
    | (intro _ _)
    | (split; rename_i heq; have hk := congrArg Prod.snd heq; subst hk)
    | split

theorem Kept.unanswered {v : Held} {c : Chip} {a : Nat} {rssi : Int} {phase : Int} (hc : Kept v c) :
    Kept v (Chip.unanswered c a rssi phase) := by
  unfold Machine.Chip.unanswered
  with_reducible repeat' first
    | assumption
    | (extract_lets +onlyGivenNames y; first | (refine Kept.have_ (v := v) (x := y) ?_ ?_; (on_goal 1 => subst y); (on_goal 2 => (intro hy; clear_value y))) | clear_value y)
    | apply Kept.tagReport
    | apply Kept.forN
    | simp only [Kept.upd_iff]
    | (intro _ _ _)
    | (intro _ _)
    | (split; rename_i heq; have hk := congrArg Prod.snd heq; subst hk)
    | split

theorem Kept.cutRound {v : Held} {c : Chip} {r : TagRound} (hc : Kept v c) :
    Kept v (Chip.cutRound c r) := by
  unfold Machine.Chip.cutRound
  with_reducible repeat' first
    | assumption
    | (extract_lets +onlyGivenNames y; first | (refine Kept.have_ (v := v) (x := y) ?_ ?_; (on_goal 1 => subst y); (on_goal 2 => (intro hy; clear_value y))) | clear_value y)
    | apply Kept.draw
    | apply Kept.endRound
    | apply Kept.unanswered
    | apply Kept.forN
    | simp only [Kept.upd_iff]
    | (intro _ _ _)
    | (intro _ _)
    | (split; rename_i heq; have hk := congrArg Prod.snd heq; subst hk)
    | split

theorem Kept.dropJob {v : Held} {c : Chip} {j : TagJob} (hc : Kept v c) :
    Kept v (Chip.dropJob c j) := by
  unfold Machine.Chip.dropJob
  with_reducible repeat' first
    | assumption
    | (extract_lets +onlyGivenNames y; first | (refine Kept.have_ (v := v) (x := y) ?_ ?_; (on_goal 1 => subst y); (on_goal 2 => (intro hy; clear_value y))) | clear_value y)
    | apply Kept.endWrite
    | apply Kept.endRound
    | apply Kept.forN
    | simp only [Kept.upd_iff]
    | (intro _ _ _)
    | (intro _ _)
    | (split; rename_i heq; have hk := congrArg Prod.snd heq; subst hk)
    | split

theorem Kept.tagAbort {v : Held} {c : Chip} {sent : Bool} (hc : Kept v c) :
    Kept v (Chip.tagAbort c sent) := by
  unfold Machine.Chip.tagAbort
  with_reducible repeat' first
    | assumption
    | (extract_lets +onlyGivenNames y; first | (refine Kept.have_ (v := v) (x := y) ?_ ?_; (on_goal 1 => subst y); (on_goal 2 => (intro hy; clear_value y))) | clear_value y)
    | apply Kept.endWrite
    | apply Kept.cutRound
    | apply Kept.dropJob
    | apply Kept.forN
    | simp only [Kept.upd_iff]
    | (intro _ _ _)
    | (intro _ _)
    | (split; rename_i heq; have hk := congrArg Prod.snd heq; subst hk)
    | split

theorem Kept.tagHalt {v : Held} {c : Chip} (hc : Kept v c) :
    Kept v (Chip.tagHalt c) := by
  unfold Machine.Chip.tagHalt
  with_reducible repeat' first
    | assumption
    | (extract_lets +onlyGivenNames y; first | (refine Kept.have_ (v := v) (x := y) ?_ ?_; (on_goal 1 => subst y); (on_goal 2 => (intro hy; clear_value y))) | clear_value y)
    | apply Kept.setTag
    | apply Kept.tagAbort
    | apply Kept.forN
    | simp only [Kept.upd_iff]
    | (intro _ _ _)
    | (intro _ _)
    | (split; rename_i heq; have hk := congrArg Prod.snd heq; subst hk)
    | split

theorem Kept.tagSettle {v : Held} {c : Chip} (hc : Kept v c) :
    Kept v (Chip.tagSettle c) := by
  unfold Machine.Chip.tagSettle
  with_reducible repeat' first
    | assumption
    | (extract_lets +onlyGivenNames y; first | (refine Kept.have_ (v := v) (x := y) ?_ ?_; (on_goal 1 => subst y); (on_goal 2 => (intro hy; clear_value y))) | clear_value y)
    | apply Kept.tagAbort
    | apply Kept.tagHalt
    | apply Kept.forN
    | simp only [Kept.upd_iff]
    | (intro _ _ _)
    | (intro _ _)
    | (split; rename_i heq; have hk := congrArg Prod.snd heq; subst hk)
    | split

theorem Kept.tagCtrlWritten {v : Held} {c : Chip} (hc : Kept v c) :
    Kept v (Chip.tagCtrlWritten c) := by
  unfold Machine.Chip.tagCtrlWritten
  with_reducible repeat' first
    | assumption
    | (extract_lets +onlyGivenNames y; first | (refine Kept.have_ (v := v) (x := y) ?_ ?_; (on_goal 1 => subst y); (on_goal 2 => (intro hy; clear_value y))) | clear_value y)
    | apply Kept.tagShow
    | apply Kept.tagSettle
    | apply Kept.forN
    | simp only [Kept.upd_iff]
    | (intro _ _ _)
    | (intro _ _)
    | (split; rename_i heq; have hk := congrArg Prod.snd heq; subst hk)
    | split

theorem Kept.antennaFault {v : Held} {a : ℕ} {sent : Bool} {c : Chip} (hc : Kept v c) :
    Kept v (antennaFault a sent c) := by
  unfold Machine.antennaFault
  with_reducible repeat' first
    | assumption
    | (extract_lets +onlyGivenNames y; first | (refine Kept.have_ (v := v) (x := y) ?_ ?_; (on_goal 1 => subst y); (on_goal 2 => (intro hy; clear_value y))) | clear_value y)
    | apply Kept.raiseEv
    | apply Kept.incSat
    | apply Kept.setFlag
    | apply Kept.tagAbort
    | apply Kept.forN
    | simp only [Kept.upd_iff]
    | (intro _ _ _)
    | (intro _ _)
    | (split; rename_i heq; have hk := congrArg Prod.snd heq; subst hk)
    | split

theorem Kept.hopChannel {v : Held} {c : Chip} {x1 : ℕ} (hc : Kept v c) :
    Kept v ((Chip.hopChannel c x1)).2 := by
  unfold Machine.Chip.hopChannel
  with_reducible repeat' first
    | assumption
    | (extract_lets +onlyGivenNames y; first | (refine Kept.have_ (v := v) (x := y) ?_ ?_; (on_goal 1 => subst y); (on_goal 2 => (intro hy; clear_value y))) | clear_value y)
    | apply Kept.setTag
    | apply Kept.forN
    | simp only [Kept.upd_iff]
    | (intro _ _ _)
    | (intro _ _)
    | (split; rename_i heq; have hk := congrArg Prod.snd heq; subst hk)
    | split

theorem Kept.tagChannelHop {v : Held} {c : Chip} (hc : Kept v c) :
    Kept v (tagChannelHop c) := by
  unfold Machine.tagChannelHop
  with_reducible repeat' first
    | assumption
    | (extract_lets +onlyGivenNames y; first | (refine Kept.have_ (v := v) (x := y) ?_ ?_; (on_goal 1 => subst y); (on_goal 2 => (intro hy; clear_value y))) | clear_value y)
    | apply Kept.draw
    | apply Kept.tuneTo
    | apply Kept.hopChannel
    | apply Kept.forN
    | simp only [Kept.upd_iff]
    | (intro _ _ _)
    | (intro _ _)
    | (split; rename_i heq; have hk := congrArg Prod.snd heq; subst hk)
    | split

theorem Kept.radioLinkLoss {v : Held} {lost : Bool} {c : Chip} (hc : Kept v c) :
    Kept v (radioLinkLoss lost c) := by
  unfold Machine.radioLinkLoss
  with_reducible repeat' first
    | assumption
    | (extract_lets +onlyGivenNames y; first | (refine Kept.have_ (v := v) (x := y) ?_ ?_; (on_goal 1 => subst y); (on_goal 2 => (intro hy; clear_value y))) | clear_value y)
    | apply Kept.setFault
    | apply Kept.setFlag
    | apply Kept.tagSettle
    | apply Kept.raiseEv
    | apply Kept.clearFault
    | apply Kept.forN
    | simp only [Kept.upd_iff]
    | (intro _ _ _)
    | (intro _ _)
    | (split; rename_i heq; have hk := congrArg Prod.snd heq; subst hk)
    | split

theorem Kept.startRound {v : Held} {c : Chip} {a : ℕ} (hc : Kept v c) :
    Kept v (Chip.startRound c a) := by
  unfold Machine.Chip.startRound
  with_reducible repeat' first
    | assumption
    | (extract_lets +onlyGivenNames y; first | (refine Kept.have_ (v := v) (x := y) ?_ ?_; (on_goal 1 => subst y); (on_goal 2 => (intro hy; clear_value y))) | clear_value y)
    | apply Kept.draw
    | apply Kept.tagChannel
    | apply Kept.tagShow
    | apply Kept.setTag
    | apply Kept.onAir
    | apply Kept.forN
    | simp only [Kept.upd_iff]
    | (intro _ _ _)
    | (intro _ _)
    | (split; rename_i heq; have hk := congrArg Prod.snd heq; subst hk)
    | split

theorem Kept.runWork {v : Held} {c : Chip} {a : Nat} {w : TagWork} (hc : Kept v c) :
    Kept v (Chip.runWork c a w) := by
  unfold Machine.Chip.runWork
  with_reducible repeat' first
    | assumption
    | (extract_lets +onlyGivenNames y; first | (refine Kept.have_ (v := v) (x := y) ?_ ?_; (on_goal 1 => subst y); (on_goal 2 => (intro hy; clear_value y))) | clear_value y)
    | apply Kept.put
    | apply Kept.write
    | apply Kept.take
    | apply Kept.setTag
    | apply Kept.tagShow
    | apply Kept.onAir
    | apply Kept.endWrite
    | apply Kept.forN
    | simp only [Kept.upd_iff]
    | (intro _ _ _)
    | (intro _ _)
    | (split; rename_i heq; have hk := congrArg Prod.snd heq; subst hk)
    | split

theorem Kept.runJob {v : Held} {c : Chip} {j : TagJob} (hc : Kept v c) :
    Kept v (Chip.runJob c j) := by
  unfold Machine.Chip.runJob
  with_reducible repeat' first
    | assumption
    | (extract_lets +onlyGivenNames y; first | (refine Kept.have_ (v := v) (x := y) ?_ ?_; (on_goal 1 => subst y); (on_goal 2 => (intro hy; clear_value y))) | clear_value y)
    | apply Kept.setFlag
    | apply Kept.setTag
    | apply Kept.tagShow
    | apply Kept.measureGamma
    | apply Kept.startRound
    | apply Kept.runWork
    | apply Kept.forN
    | simp only [Kept.upd_iff]
    | (intro _ _ _)
    | (intro _ _)
    | (split; rename_i heq; have hk := congrArg Prod.snd heq; subst hk)
    | split

theorem Kept.beginJob {v : Held} {c : Chip} {j : TagJob} (hc : Kept v c) :
    Kept v (Chip.beginJob c j) := by
  unfold Machine.Chip.beginJob
  with_reducible repeat' first
    | assumption
    | (extract_lets +onlyGivenNames y; first | (refine Kept.have_ (v := v) (x := y) ?_ ?_; (on_goal 1 => subst y); (on_goal 2 => (intro hy; clear_value y))) | clear_value y)
    | apply Kept.setTag
    | apply Kept.tagShow
    | apply Kept.tagChannel
    | apply Kept.runJob
    | apply Kept.forN
    | simp only [Kept.upd_iff]
    | (intro _ _ _)
    | (intro _ _)
    | (split; rename_i heq; have hk := congrArg Prod.snd heq; subst hk)
    | split

theorem Kept.tagStart {v : Held} {c : Chip} {a : Nat} {re : Int} {im : Int} {work : Option TagWork} (hc : Kept v c) :
    Kept v (Chip.tagStart c a re im work) := by
  unfold Machine.Chip.tagStart
  with_reducible repeat' first
    | assumption
    | (extract_lets +onlyGivenNames y; first | (refine Kept.have_ (v := v) (x := y) ?_ ?_; (on_goal 1 => subst y); (on_goal 2 => (intro hy; clear_value y))) | clear_value y)
    | apply Kept.setFlag
    | apply Kept.beginJob
    | apply Kept.forN
    | simp only [Kept.upd_iff]
    | (intro _ _ _)
    | (intro _ _)
    | (split; rename_i heq; have hk := congrArg Prod.snd heq; subst hk)
    | split

theorem Kept.tagRoundStart {v : Held} {acc : Access} {re : ℤ} {im : ℤ} {c : Chip} (hc : Kept v c) :
    Kept v (tagRoundStart acc re im c) := by
  unfold Machine.tagRoundStart
  with_reducible repeat' first
    | assumption
    | (extract_lets +onlyGivenNames y; first | (refine Kept.have_ (v := v) (x := y) ?_ ?_; (on_goal 1 => subst y); (on_goal 2 => (intro hy; clear_value y))) | clear_value y)
    | apply Kept.write
    | apply Kept.tagStart
    | apply Kept.startRound
    | apply Kept.forN
    | simp only [Kept.upd_iff]
    | (intro _ _ _)
    | (intro _ _)
    | (split; rename_i heq; have hk := congrArg Prod.snd heq; subst hk)
    | split

theorem Kept.tagStop {v : Held} {acc : Access} {c : Chip} (hc : Kept v c) :
    Kept v (tagStop acc c) := by
  unfold Machine.tagStop
  with_reducible repeat' first
    | assumption
    | (extract_lets +onlyGivenNames y; first | (refine Kept.have_ (v := v) (x := y) ?_ ?_; (on_goal 1 => subst y); (on_goal 2 => (intro hy; clear_value y))) | clear_value y)
    | apply Kept.write
    | apply Kept.tagHalt
    | apply Kept.forN
    | simp only [Kept.upd_iff]
    | (intro _ _ _)
    | (intro _ _)
    | (split; rename_i heq; have hk := congrArg Prod.snd heq; subst hk)
    | split

theorem Kept.setFrames {v : Held} {c : Chip} {r : TagRound} {fs : List TagFrame} (hc : Kept v c) :
    Kept v (Chip.setFrames c r fs) := by
  unfold Machine.Chip.setFrames
  with_reducible repeat' first
    | assumption
    | (extract_lets +onlyGivenNames y; first | (refine Kept.have_ (v := v) (x := y) ?_ ?_; (on_goal 1 => subst y); (on_goal 2 => (intro hy; clear_value y))) | clear_value y)
    | apply Kept.setTag
    | apply Kept.forN
    | simp only [Kept.upd_iff]
    | (intro _ _ _)
    | (intro _ _)
    | (split; rename_i heq; have hk := congrArg Prod.snd heq; subst hk)
    | split

theorem Kept.openSlot {v : Held} {c : Chip} {r : TagRound} {before : List TagCommand} {f : TagFrame} {q2 : Nat} {fs : List TagFrame} (hc : Kept v c) :
    Kept v (Chip.openSlot c r before f q2 fs) := by
  unfold Machine.Chip.openSlot
  with_reducible repeat' first
    | assumption
    | (extract_lets +onlyGivenNames y; first | (refine Kept.have_ (v := v) (x := y) ?_ ?_; (on_goal 1 => subst y); (on_goal 2 => (intro hy; clear_value y))) | clear_value y)
    | apply Kept.onAir
    | apply Kept.setFrames
    | apply Kept.forN
    | simp only [Kept.upd_iff]
    | (intro _ _ _)
    | (intro _ _)
    | (split; rename_i heq; have hk := congrArg Prod.snd heq; subst hk)
    | split

theorem Kept.enterFrame {v : Held} {c : Chip} {r : TagRound} {before : List TagCommand} {fs : List TagFrame} (hc : Kept v c) :
    Kept v (Chip.enterFrame c r before fs) := by
  unfold Machine.Chip.enterFrame
  with_reducible repeat' first
    | assumption
    | (extract_lets +onlyGivenNames y; first | (refine Kept.have_ (v := v) (x := y) ?_ ?_; (on_goal 1 => subst y); (on_goal 2 => (intro hy; clear_value y))) | clear_value y)
    | apply Kept.onAir
    | apply Kept.setFrames
    | apply Kept.forN
    | simp only [Kept.upd_iff]
    | (intro _ _ _)
    | (intro _ _)
    | (split; rename_i heq; have hk := congrArg Prod.snd heq; subst hk)
    | split

theorem Kept.emptySlot {v : Held} {c : Chip} {r : TagRound} (hc : Kept v c) :
    Kept v (Chip.emptySlot c r) := by
  unfold Machine.Chip.emptySlot
  with_reducible repeat' first
    | assumption
    | (extract_lets +onlyGivenNames y; first | (refine Kept.have_ (v := v) (x := y) ?_ ?_; (on_goal 1 => subst y); (on_goal 2 => (intro hy; clear_value y))) | clear_value y)
    | apply Kept.setFrames
    | apply Kept.openSlot
    | apply Kept.enterFrame
    | apply Kept.forN
    | simp only [Kept.upd_iff]
    | (intro _ _ _)
    | (intro _ _)
    | (split; rename_i heq; have hk := congrArg Prod.snd heq; subst hk)
    | split

theorem Kept.collidedSlot {v : Held} {c : Chip} {r : TagRound} (hc : Kept v c) :
    Kept v (Chip.collidedSlot c r) := by
  unfold Machine.Chip.collidedSlot
  with_reducible repeat' first
    | assumption
    | (extract_lets +onlyGivenNames y; first | (refine Kept.have_ (v := v) (x := y) ?_ ?_; (on_goal 1 => subst y); (on_goal 2 => (intro hy; clear_value y))) | clear_value y)
    | apply Kept.openSlot
    | apply Kept.forN
    | simp only [Kept.upd_iff]
    | (intro _ _ _)
    | (intro _ _)
    | (split; rename_i heq; have hk := congrArg Prod.snd heq; subst hk)
    | split

theorem Kept.repliedSlot {v : Held} {c : Chip} {r : TagRound} {before : List TagCommand} (hc : Kept v c) :
    Kept v (Chip.repliedSlot c r before) := by
  unfold Machine.Chip.repliedSlot
  with_reducible repeat' first
    | assumption
    | (extract_lets +onlyGivenNames y; first | (refine Kept.have_ (v := v) (x := y) ?_ ?_; (on_goal 1 => subst y); (on_goal 2 => (intro hy; clear_value y))) | clear_value y)
    | apply Kept.openSlot
    | apply Kept.forN
    | simp only [Kept.upd_iff]
    | (intro _ _ _)
    | (intro _ _)
    | (split; rename_i heq; have hk := congrArg Prod.snd heq; subst hk)
    | split

theorem Kept.bitSplit {v : Held} {c : Chip} {r : TagRound} {b : Nat} (hc : Kept v c) :
    Kept v (Chip.bitSplit c r b) := by
  unfold Machine.Chip.bitSplit
  with_reducible repeat' first
    | assumption
    | (extract_lets +onlyGivenNames y; first | (refine Kept.have_ (v := v) (x := y) ?_ ?_; (on_goal 1 => subst y); (on_goal 2 => (intro hy; clear_value y))) | clear_value y)
    | apply Kept.enterFrame
    | apply Kept.repliedSlot
    | apply Kept.forN
    | simp only [Kept.upd_iff]
    | (intro _ _ _)
    | (intro _ _)
    | (split; rename_i heq; have hk := congrArg Prod.snd heq; subst hk)
    | split

theorem Kept.beginExchange {v : Held} {c : Chip} {r : TagRound} (hc : Kept v c) :
    Kept v (Chip.beginExchange c r) := by
  unfold Machine.Chip.beginExchange
  with_reducible repeat' first
    | assumption
    | (extract_lets +onlyGivenNames y; first | (refine Kept.have_ (v := v) (x := y) ?_ ?_; (on_goal 1 => subst y); (on_goal 2 => (intro hy; clear_value y))) | clear_value y)
    | apply Kept.setTag
    | apply Kept.onAir
    | apply Kept.forN
    | simp only [Kept.upd_iff]
    | (intro _ _ _)
    | (intro _ _)
    | (split; rename_i heq; have hk := congrArg Prod.snd heq; subst hk)
    | split

theorem Kept.endExchange {v : Held} {c : Chip} {r : TagRound} (hc : Kept v c) :
    Kept v (Chip.endExchange c r) := by
  unfold Machine.Chip.endExchange
  with_reducible repeat' first
    | assumption
    | (extract_lets +onlyGivenNames y; first | (refine Kept.have_ (v := v) (x := y) ?_ ?_; (on_goal 1 => subst y); (on_goal 2 => (intro hy; clear_value y))) | clear_value y)
    | apply Kept.setTag
    | apply Kept.endRound
    | apply Kept.repliedSlot
    | apply Kept.forN
    | simp only [Kept.upd_iff]
    | (intro _ _ _)
    | (intro _ _)
    | (split; rename_i heq; have hk := congrArg Prod.snd heq; subst hk)
    | split

theorem Kept.resolveHalter {v : Held} {c : Chip} {r : TagRound} {hid : List ℕ} {tail : List ℕ} (hc : Kept v c) :
    Kept v (Chip.resolveHalter c r hid tail) := by
  unfold Machine.Chip.resolveHalter
  with_reducible repeat' first
    | assumption
    | (extract_lets +onlyGivenNames y; first | (refine Kept.have_ (v := v) (x := y) ?_ ?_; (on_goal 1 => subst y); (on_goal 2 => (intro hy; clear_value y))) | clear_value y)
    | apply Kept.tagReport
    | apply Kept.incSat
    | apply Kept.setTag
    | apply Kept.queueRequest
    | apply Kept.forN
    | simp only [Kept.upd_iff]
    | (intro _ _ _)
    | (intro _ _)
    | (split; rename_i heq; have hk := congrArg Prod.snd heq; subst hk)
    | split

theorem Kept.tagSlot {v : Held} {reply : TagReply} {rssi : Int} {phase : Int} {cyc : Nat} {c : Chip} (hc : Kept v c) :
    Kept v (tagSlot reply rssi phase cyc c) := by
  unfold Machine.tagSlot
  with_reducible repeat' first
    | assumption
    | (extract_lets +onlyGivenNames y; first | (refine Kept.have_ (v := v) (x := y) ?_ ?_; (on_goal 1 => subst y); (on_goal 2 => (intro hy; clear_value y))) | clear_value y)
    | apply Kept.incSat
    | apply Kept.advanceTo
    | apply Kept.take
    | apply Kept.tagReport
    | apply Kept.unanswered
    | apply Kept.emptySlot
    | apply Kept.collidedSlot
    | apply Kept.repliedSlot
    | apply Kept.bitSplit
    | apply Kept.beginExchange
    | apply Kept.endExchange
    | apply Kept.resolveHalter
    | apply Kept.forN
    | simp only [Kept.upd_iff]
    | (intro _ _ _)
    | (intro _ _)
    | (split; rename_i heq; have hk := congrArg Prod.snd heq; subst hk)
    | split

theorem Kept.tagRoundEnd {v : Held} {c : Chip} (hc : Kept v c) :
    Kept v (tagRoundEnd c) := by
  unfold Machine.tagRoundEnd
  with_reducible repeat' first
    | assumption
    | (extract_lets +onlyGivenNames y; first | (refine Kept.have_ (v := v) (x := y) ?_ ?_; (on_goal 1 => subst y); (on_goal 2 => (intro hy; clear_value y))) | clear_value y)
    | apply Kept.endRound
    | apply Kept.forN
    | simp only [Kept.upd_iff]
    | (intro _ _ _)
    | (intro _ _)
    | (split; rename_i heq; have hk := congrArg Prod.snd heq; subst hk)
    | split

theorem Kept.endResolve {v : Held} {c : Chip} {x : TagResolve} {kind : ℕ} {reason : ℕ} {word : ℕ} (hc : Kept v c) :
    Kept v (Chip.endResolve c x kind reason word) := by
  unfold Machine.Chip.endResolve
  with_reducible repeat' first
    | assumption
    | (extract_lets +onlyGivenNames y; first | (refine Kept.have_ (v := v) (x := y) ?_ ?_; (on_goal 1 => subst y); (on_goal 2 => (intro hy; clear_value y))) | clear_value y)
    | apply Kept.setTag
    | apply Kept.setVlt
    | apply Kept.tagReport
    | exact fun _ => ⟨rfl, rfl⟩
    | apply Kept.forN
    | simp only [Kept.upd_iff]
    | (intro _ _ _)
    | (intro _ _)
    | (split; rename_i heq; have hk := congrArg Prod.snd heq; subst hk)
    | split

theorem Kept.halterResolveAnswer {v : Held} {c : Chip} (hc : Kept v c) :
    Kept v (halterResolveAnswer c) := by
  unfold Machine.halterResolveAnswer
  with_reducible repeat' first
    | assumption
    | (extract_lets +onlyGivenNames y; first | (refine Kept.have_ (v := v) (x := y) ?_ ?_; (on_goal 1 => subst y); (on_goal 2 => (intro hy; clear_value y))) | clear_value y)
    | apply Kept.endResolve
    | apply Kept.forN
    | simp only [Kept.upd_iff]
    | (intro _ _ _)
    | (intro _ _)
    | (split; rename_i heq; have hk := congrArg Prod.snd heq; subst hk)
    | split

theorem Kept.tagReplyTimeout {v : Held} {rssi : Int} {phase : Int} {cyc : Nat} {c : Chip} (hc : Kept v c) :
    Kept v (tagReplyTimeout rssi phase cyc c) := by
  unfold Machine.tagReplyTimeout
  with_reducible repeat' first
    | assumption
    | (extract_lets +onlyGivenNames y; first | (refine Kept.have_ (v := v) (x := y) ?_ ?_; (on_goal 1 => subst y); (on_goal 2 => (intro hy; clear_value y))) | clear_value y)
    | apply Kept.advanceTo
    | apply Kept.endWrite
    | apply Kept.unanswered
    | apply Kept.endExchange
    | apply Kept.forN
    | simp only [Kept.upd_iff]
    | (intro _ _ _)
    | (intro _ _)
    | (split; rename_i heq; have hk := congrArg Prod.snd heq; subst hk)
    | split

theorem Kept.tunePing {v : Held} {c : Chip} (hc : Kept v c) :
    Kept v (Chip.tunePing c) := by
  unfold Machine.Chip.tunePing
  with_reducible repeat' first
    | assumption
    | (extract_lets +onlyGivenNames y; first | (refine Kept.have_ (v := v) (x := y) ?_ ?_; (on_goal 1 => subst y); (on_goal 2 => (intro hy; clear_value y))) | clear_value y)
    | apply Kept.tuneTo
    | apply Kept.forN
    | simp only [Kept.upd_iff]
    | (intro _ _ _)
    | (intro _ _)
    | (split; rename_i heq; have hk := congrArg Prod.snd heq; subst hk)
    | split

theorem Kept.pingCarrier {v : Held} {c : Chip} (hc : Kept v c) :
    Kept v (Chip.pingCarrier c) := by
  unfold Machine.Chip.pingCarrier
  with_reducible repeat' first
    | assumption
    | (extract_lets +onlyGivenNames y; first | (refine Kept.have_ (v := v) (x := y) ?_ ?_; (on_goal 1 => subst y); (on_goal 2 => (intro hy; clear_value y))) | clear_value y)
    | apply Kept.setTag
    | apply Kept.tuneTo
    | apply Kept.forN
    | simp only [Kept.upd_iff]
    | (intro _ _ _)
    | (intro _ _)
    | (split; rename_i heq; have hk := congrArg Prod.snd heq; subst hk)
    | split

theorem Kept.pingAntenna {v : Held} {c : Chip} {a : ℕ} {re : ℤ} {im : ℤ} (hc : Kept v c) :
    Kept v ((Chip.pingAntenna c a re im)).2 := by
  unfold Machine.Chip.pingAntenna
  with_reducible repeat' first
    | assumption
    | (extract_lets +onlyGivenNames y; first | (refine Kept.have_ (v := v) (x := y) ?_ ?_; (on_goal 1 => subst y); (on_goal 2 => (intro hy; clear_value y))) | clear_value y)
    | apply Kept.measureGamma
    | apply Kept.setTag
    | apply Kept.putS
    | apply Kept.raiseEv
    | apply Kept.incSat
    | apply Kept.forN
    | simp only [Kept.upd_iff]
    | (intro _ _ _)
    | (intro _ _)
    | (split; rename_i heq; have hk := congrArg Prod.snd heq; subst hk)
    | split

theorem Kept.pingStep {v : Held} {gammas : List (Nat × (Int × Int))} {a : Nat} {x : List Nat × Chip} (hc : Kept v x.2) :
    Kept v (pingStep gammas a x).2 := by
  unfold Machine.pingStep
  split
  · dsimp only
    split
    · exact Kept.pingAntenna (Kept.pingCarrier hc)
    · exact Kept.pingCarrier hc
  · exact hc

theorem Kept.tagPing {v : Held} {gammas : List (ℕ × ℤ × ℤ)} {c : Chip} (hc : Kept v c) :
    Kept v (tagPing gammas c) := by
  unfold Machine.tagPing
  split
  · exact hc
  · have h1 : Kept v (Machine.forN 4 (Machine.pingStep gammas) ([], (c.setTag fun t => { t with sincePing := 0 }).tunePing)).2 :=
      Kept.forN_pair (Kept.tunePing (Kept.setTag hc)) fun _ _ hx => Kept.pingStep hx
    dsimp only
    split
    · split
      · exact Kept.beginJob h1
      · exact h1
    · exact h1

theorem Kept.tagWrite {v : Held} {acc : Access} {re : Int} {im : Int} {replies : List TagWriteReply} {c : Chip} (hc : Kept v c) :
    Kept v (tagWrite acc re im replies c) := by
  unfold Machine.tagWrite
  with_reducible repeat' first
    | assumption
    | (extract_lets +onlyGivenNames y; first | (refine Kept.have_ (v := v) (x := y) ?_ ?_; (on_goal 1 => subst y); (on_goal 2 => (intro hy; clear_value y))) | clear_value y)
    | apply Kept.write
    | apply Kept.tagStart
    | apply Kept.forN
    | simp only [Kept.upd_iff]
    | (intro _ _ _)
    | (intro _ _)
    | (split; rename_i heq; have hk := congrArg Prod.snd heq; subst hk)
    | split

theorem Kept.tagRecordWrite {v : Held} {acc : Access} {re : Int} {im : Int} {copies : Option (TagReadReply × TagReadReply)} {replies : List TagWriteReply} {verify : Option (TagReadReply × TagReadReply)} {c : Chip} (hc : Kept v c) :
    Kept v (tagRecordWrite acc re im copies replies verify c) := by
  unfold Machine.tagRecordWrite
  with_reducible repeat' first
    | assumption
    | (extract_lets +onlyGivenNames y; first | (refine Kept.have_ (v := v) (x := y) ?_ ?_; (on_goal 1 => subst y); (on_goal 2 => (intro hy; clear_value y))) | clear_value y)
    | apply Kept.write
    | apply Kept.tagStart
    | apply Kept.forN
    | simp only [Kept.upd_iff]
    | (intro _ _ _)
    | (intro _ _)
    | (split; rename_i heq; have hk := congrArg Prod.snd heq; subst hk)
    | split

theorem Kept.tagEdge {v : Held} {c : Chip} (hc : Kept v c) :
    Kept v (Chip.tagEdge c) := by
  unfold Machine.Chip.tagEdge
  with_reducible repeat' first
    | assumption
    | (extract_lets +onlyGivenNames y; first | (refine Kept.have_ (v := v) (x := y) ?_ ?_; (on_goal 1 => subst y); (on_goal 2 => (intro hy; clear_value y))) | clear_value y)
    | apply Kept.setFault
    | apply Kept.setTag
    | apply Kept.tagSettle
    | apply Kept.runJob
    | apply Kept.forN
    | simp only [Kept.upd_iff]
    | (intro _ _ _)
    | (intro _ _)
    | (split; rename_i heq; have hk := congrArg Prod.snd heq; subst hk)
    | split

end Sys2Proof.Machine
end

