-- ==== Sys2Proof/Laws/Kept8.lean ====
section
/-! SUPPORT. What the operations of Claims, Health, NetCore, SafetyRows keep. -/

set_option linter.unusedTactic false
set_option linter.unreachableTactic false
set_option linter.unusedSimpArgs false
set_option linter.unusedVariables false

namespace Sys2Proof.Machine

theorem Kept.stopPin {v : Held} {c : Chip} {k : ℕ} (hc : Kept v c) :
    Kept v (Chip.stopPin c k) := by
  unfold Machine.Chip.stopPin
  with_reducible repeat' first
    | assumption
    | (extract_lets +onlyGivenNames y; first | (refine Kept.have_ (v := v) (x := y) ?_ ?_; (on_goal 1 => subst y); (on_goal 2 => (intro hy; clear_value y))) | clear_value y)
    | apply Kept.settleChannel
    | apply Kept.setChannel
    | apply Kept.forN
    | simp only [Kept.upd_iff]
    | (intro _ _ _)
    | (intro _ _)
    | (split; rename_i heq; have hk := congrArg Prod.snd heq; subst hk)
    | split

theorem Kept.stopPilot {v : Held} {c : Chip} {n : Nat} (hc : Kept v c) :
    Kept v (Chip.stopPilot c n) := by
  unfold Machine.Chip.stopPilot
  with_reducible repeat' first
    | assumption
    | (extract_lets +onlyGivenNames y; first | (refine Kept.have_ (v := v) (x := y) ?_ ?_; (on_goal 1 => subst y); (on_goal 2 => (intro hy; clear_value y))) | clear_value y)
    | apply Kept.put
    | apply Kept.setFlag
    | apply Kept.settlePort
    | apply Kept.forN
    | simp only [Kept.upd_iff]
    | (intro _ _ _)
    | (intro _ _)
    | (split; rename_i heq; have hk := congrArg Prod.snd heq; subst hk)
    | split

theorem Kept.stopResource {v : Held} {c : Chip} {k : ℕ} (hc : Kept v c) :
    Kept v (Chip.stopResource c k) := by
  unfold Machine.Chip.stopResource
  with_reducible repeat' first
    | assumption
    | (extract_lets +onlyGivenNames y; first | (refine Kept.have_ (v := v) (x := y) ?_ ?_; (on_goal 1 => subst y); (on_goal 2 => (intro hy; clear_value y))) | clear_value y)
    | apply Kept.stopPin
    | apply Kept.stopPilot
    | apply Kept.setFlag
    | apply Kept.setSlotOf
    | apply Kept.setPassed
    | apply Kept.forN
    | simp only [Kept.upd_iff]
    | (intro _ _ _)
    | (intro _ _)
    | (split; rename_i heq; have hk := congrArg Prod.snd heq; subst hk)
    | split

theorem Kept.claimForce {v : Held} {acc : Access} {x1 : ℕ} {c : Chip} (hc : Kept v c) :
    Kept v (claimForce acc x1 c) := by
  unfold Machine.claimForce
  with_reducible repeat' first
    | assumption
    | (extract_lets +onlyGivenNames y; first | (refine Kept.have_ (v := v) (x := y) ?_ ?_; (on_goal 1 => subst y); (on_goal 2 => (intro hy; clear_value y))) | clear_value y)
    | apply Kept.write
    | apply Kept.tagSettle
    | apply Kept.stopResource
    | apply Kept.put
    | apply Kept.setFlag
    | apply Kept.forN
    | simp only [Kept.upd_iff]
    | (intro _ _ _)
    | (intro _ _)
    | (split; rename_i heq; have hk := congrArg Prod.snd heq; subst hk)
    | split

theorem Kept.healthReport {v : Held} {c : Chip} {n : ℕ} {b : ℕ} {on : Bool} (hc : Kept v c) :
    Kept v (Chip.healthReport c n b on) := by
  unfold Machine.Chip.healthReport
  with_reducible repeat' first
    | assumption
    | (extract_lets +onlyGivenNames y; first | (refine Kept.have_ (v := v) (x := y) ?_ ?_; (on_goal 1 => subst y); (on_goal 2 => (intro hy; clear_value y))) | clear_value y)
    | apply Kept.faultIs
    | apply Kept.forN
    | simp only [Kept.upd_iff]
    | (intro _ _ _)
    | (intro _ _)
    | (split; rename_i heq; have hk := congrArg Prod.snd heq; subst hk)
    | split

theorem Kept.healthFaultSet {v : Held} {n : ℕ} {b : ℕ} {c : Chip} (hc : Kept v c) (hr : v.mram = none) :
    Kept v (healthFaultSet n b c) := by
  unfold Machine.healthFaultSet
  with_reducible repeat' first
    | assumption
    | (extract_lets +onlyGivenNames y; first | (refine Kept.have_ (v := v) (x := y) ?_ ?_; (on_goal 1 => subst y); (on_goal 2 => (intro hy; clear_value y))) | clear_value y)
    | apply Kept.setFlag
    | apply Kept.raiseEv
    | apply Kept.showHealth
    | apply Kept.logFault
    | apply Kept.healthReport
    | apply Kept.modElem
    | apply Kept.suspend
    | apply Kept.freqInvalid
    | apply Kept.noteInput
    | apply Kept.forN
    | simp only [Kept.upd_iff]
    | (intro _ _ _)
    | (intro _ _)
    | (split; rename_i heq; have hk := congrArg Prod.snd heq; subst hk)
    | split

theorem Kept.healthFaultClear {v : Held} {n : ℕ} {b : ℕ} {c : Chip} (hc : Kept v c) (hr : v.mram = none) :
    Kept v (healthFaultClear n b c) := by
  unfold Machine.healthFaultClear
  with_reducible repeat' first
    | assumption
    | (extract_lets +onlyGivenNames y; first | (refine Kept.have_ (v := v) (x := y) ?_ ?_; (on_goal 1 => subst y); (on_goal 2 => (intro hy; clear_value y))) | clear_value y)
    | apply Kept.raiseEv
    | apply Kept.showHealth
    | apply Kept.setFlag
    | apply Kept.logFault
    | apply Kept.healthReport
    | apply Kept.showSettling
    | apply Kept.modElem
    | apply Kept.settlePath
    | apply Kept.forN
    | simp only [Kept.upd_iff]
    | (intro _ _ _)
    | (intro _ _)
    | (split; rename_i heq; have hk := congrArg Prod.snd heq; subst hk)
    | split

theorem Kept.setNet {v : Held} {c : Chip} {f : Net → Net} (hc : Kept v c) :
    Kept v (Chip.setNet c f) := by
  unfold Machine.Chip.setNet
  with_reducible repeat' first
    | assumption
    | (extract_lets +onlyGivenNames y; first | (refine Kept.have_ (v := v) (x := y) ?_ ?_; (on_goal 1 => subst y); (on_goal 2 => (intro hy; clear_value y))) | clear_value y)
    | apply Kept.forN
    | simp only [Kept.upd_iff]
    | (intro _ _ _)
    | (intro _ _)
    | (split; rename_i heq; have hk := congrArg Prod.snd heq; subst hk)
    | split

theorem Kept.setNetPort {v : Held} {c : Chip} {n : ℕ} {f : NetPort → NetPort} (hc : Kept v c) :
    Kept v (Chip.setNetPort c n f) := by
  unfold Machine.Chip.setNetPort
  with_reducible repeat' first
    | assumption
    | (extract_lets +onlyGivenNames y; first | (refine Kept.have_ (v := v) (x := y) ?_ ?_; (on_goal 1 => subst y); (on_goal 2 => (intro hy; clear_value y))) | clear_value y)
    | apply Kept.setNet
    | apply Kept.forN
    | simp only [Kept.upd_iff]
    | (intro _ _ _)
    | (intro _ _)
    | (split; rename_i heq; have hk := congrArg Prod.snd heq; subst hk)
    | split

theorem Kept.closeDescriptor {v : Held} {c : Chip} {r : ℕ} {d : ℕ} {word1 : ℕ} {stamp : ℕ} (hc : Kept v c) (hm : v.mem = none) :
    Kept v (Chip.closeDescriptor c r d word1 stamp) := by
  unfold Machine.Chip.closeDescriptor
  with_reducible repeat' first
    | assumption
    | (extract_lets +onlyGivenNames y; first | (refine Kept.have_ (v := v) (x := y) ?_ ?_; (on_goal 1 => subst y); (on_goal 2 => (intro hy; clear_value y))) | clear_value y)
    | apply Kept.setBytes
    | apply Kept.forN
    | simp only [Kept.upd_iff]
    | (intro _ _ _)
    | (intro _ _)
    | (split; rename_i heq; have hk := congrArg Prod.snd heq; subst hk)
    | split

theorem Kept.txDone {v : Held} {c : Chip} {r : ℕ} {i : ℕ} {stamp : ℕ} {error : Bool} (hc : Kept v c) (hm : v.mem = none) :
    Kept v (Chip.txDone c r i stamp error) := by
  unfold Machine.Chip.txDone
  with_reducible repeat' first
    | assumption
    | (extract_lets +onlyGivenNames y; first | (refine Kept.have_ (v := v) (x := y) ?_ ?_; (on_goal 1 => subst y); (on_goal 2 => (intro hy; clear_value y))) | clear_value y)
    | apply Kept.closeDescriptor
    | apply Kept.setNet
    | apply Kept.put
    | apply Kept.raiseEv
    | apply Kept.forN
    | simp only [Kept.upd_iff]
    | (intro _ _ _)
    | (intro _ _)
    | (split; rename_i heq; have hk := congrArg Prod.snd heq; subst hk)
    | split

theorem Kept.startTx {v : Held} {c : Chip} {n : ℕ} (hc : Kept v c) :
    Kept v (Chip.startTx c n) := by
  unfold Machine.Chip.startTx
  with_reducible repeat' first
    | assumption
    | (extract_lets +onlyGivenNames y; first | (refine Kept.have_ (v := v) (x := y) ?_ ?_; (on_goal 1 => subst y); (on_goal 2 => (intro hy; clear_value y))) | clear_value y)
    | apply Kept.setNetPort
    | apply Kept.forN
    | simp only [Kept.upd_iff]
    | (intro _ _ _)
    | (intro _ _)
    | (split; rename_i heq; have hk := congrArg Prod.snd heq; subst hk)
    | split

theorem Kept.enqueue {v : Held} {c : Chip} {n : ℕ} {q : ℕ} {f : TxFrame} (hc : Kept v c) :
    Kept v (Chip.enqueue c n q f) := by
  unfold Machine.Chip.enqueue
  with_reducible repeat' first
    | assumption
    | (extract_lets +onlyGivenNames y; first | (refine Kept.have_ (v := v) (x := y) ?_ ?_; (on_goal 1 => subst y); (on_goal 2 => (intro hy; clear_value y))) | clear_value y)
    | apply Kept.startTx
    | apply Kept.setNetPort
    | apply Kept.forN
    | simp only [Kept.upd_iff]
    | (intro _ _ _)
    | (intro _ _)
    | (split; rename_i heq; have hk := congrArg Prod.snd heq; subst hk)
    | split

theorem Kept.safetyOut {v : Held} {c : Chip} {n : ℕ} {bs : List ℕ} (hc : Kept v c) :
    Kept v (Chip.safetyOut c n bs) := by
  unfold Machine.Chip.safetyOut
  with_reducible repeat' first
    | assumption
    | (extract_lets +onlyGivenNames y; first | (refine Kept.have_ (v := v) (x := y) ?_ ?_; (on_goal 1 => subst y); (on_goal 2 => (intro hy; clear_value y))) | clear_value y)
    | apply Kept.incSat
    | apply Kept.draw
    | apply Kept.enqueue
    | apply Kept.forN
    | simp only [Kept.upd_iff]
    | (intro _ _ _)
    | (intro _ _)
    | (split; rename_i heq; have hk := congrArg Prod.snd heq; subst hk)
    | split

theorem Kept.safetyCopies {v : Held} {c : Chip} {bs : List ℕ} (hc : Kept v c) :
    Kept v (Chip.safetyCopies c bs) := by
  unfold Machine.Chip.safetyCopies
  with_reducible repeat' first
    | assumption
    | (extract_lets +onlyGivenNames y; first | (refine Kept.have_ (v := v) (x := y) ?_ ?_; (on_goal 1 => subst y); (on_goal 2 => (intro hy; clear_value y))) | clear_value y)
    | apply Kept.safetyOut
    | apply Kept.forN
    | simp only [Kept.upd_iff]
    | (intro _ _ _)
    | (intro _ _)
    | (split; rename_i heq; have hk := congrArg Prod.snd heq; subst hk)
    | split

theorem Kept.stuckOn {v : Held} {c : Chip} {o : ℕ} (hc : Kept v c) (hr : v.mram = none) :
    Kept v (Chip.stuckOn c o) := by
  unfold Machine.Chip.stuckOn
  with_reducible repeat' first
    | assumption
    | (extract_lets +onlyGivenNames y; first | (refine Kept.have_ (v := v) (x := y) ?_ ?_; (on_goal 1 => subst y); (on_goal 2 => (intro hy; clear_value y))) | clear_value y)
    | apply Kept.faultFlocks
    | apply Kept.forN
    | simp only [Kept.upd_iff]
    | (intro _ _ _)
    | (intro _ _)
    | (split; rename_i heq; have hk := congrArg Prod.snd heq; subst hk)
    | split

theorem Kept.darkTest {v : Held} {a : Bool} {f : ℕ} {fell : Bool} {c : Chip} (hc : Kept v c) (hr : v.mram = none) :
    Kept v (darkTest a f fell c) := by
  unfold Machine.darkTest
  with_reducible repeat' first
    | assumption
    | (extract_lets +onlyGivenNames y; first | (refine Kept.have_ (v := v) (x := y) ?_ ?_; (on_goal 1 => subst y); (on_goal 2 => (intro hy; clear_value y))) | clear_value y)
    | apply Kept.setSaf
    | apply Kept.settleSafety
    | apply Kept.stuckOn
    | apply Kept.forN
    | simp only [Kept.upd_iff]
    | (intro _ _ _)
    | (intro _ _)
    | (split; rename_i heq; have hk := congrArg Prod.snd heq; subst hk)
    | split

theorem Kept.cutOutputStuck {v : Held} {a : Bool} {f : ℕ} {c : Chip} (hc : Kept v c) (hr : v.mram = none) :
    Kept v (cutOutputStuck a f c) := by
  unfold Machine.cutOutputStuck
  with_reducible repeat' first
    | assumption
    | (extract_lets +onlyGivenNames y; first | (refine Kept.have_ (v := v) (x := y) ?_ ?_; (on_goal 1 => subst y); (on_goal 2 => (intro hy; clear_value y))) | clear_value y)
    | apply Kept.settleSafety
    | apply Kept.stuckOn
    | apply Kept.faultFlocks
    | apply Kept.forN
    | simp only [Kept.upd_iff]
    | (intro _ _ _)
    | (intro _ _)
    | (split; rename_i heq; have hk := congrArg Prod.snd heq; subst hk)
    | split

theorem Kept.rcmSensorFault {v : Held} {n : ℕ} {bad : Bool} {c : Chip} (hc : Kept v c) (hr : v.mram = none) :
    Kept v (rcmSensorFault n bad c) := by
  unfold Machine.rcmSensorFault
  with_reducible repeat' first
    | assumption
    | (extract_lets +onlyGivenNames y; first | (refine Kept.have_ (v := v) (x := y) ?_ ?_; (on_goal 1 => subst y); (on_goal 2 => (intro hy; clear_value y))) | clear_value y)
    | apply Kept.setFlag
    | apply Kept.settleSafety
    | apply Kept.faultFlocks
    | apply Kept.raiseEv
    | apply Kept.clearCause
    | apply Kept.forN
    | simp only [Kept.upd_iff]
    | (intro _ _ _)
    | (intro _ _)
    | (split; rename_i heq; have hk := congrArg Prod.snd heq; subst hk)
    | split

theorem Kept.logTrip {v : Held} {c : Chip} {n : ℕ} {band : ℕ} {a : Bool} (hc : Kept v c) (hr : v.mram = none) :
    Kept v (Chip.logTrip c n band a) := by
  unfold Machine.Chip.logTrip
  with_reducible repeat' first
    | assumption
    | (extract_lets +onlyGivenNames y; first | (refine Kept.have_ (v := v) (x := y) ?_ ?_; (on_goal 1 => subst y); (on_goal 2 => (intro hy; clear_value y))) | clear_value y)
    | apply Kept.logSafety
    | apply Kept.forN
    | simp only [Kept.upd_iff]
    | (intro _ _ _)
    | (intro _ _)
    | (split; rename_i heq; have hk := congrArg Prod.snd heq; subst hk)
    | split

theorem Kept.rcmBandTrip {v : Held} {a : Bool} {n : ℕ} {band : ℕ} {c : Chip} (hc : Kept v c) (hr : v.mram = none) :
    Kept v (rcmBandTrip a n band c) := by
  unfold Machine.rcmBandTrip
  with_reducible repeat' first
    | assumption
    | (extract_lets +onlyGivenNames y; first | (refine Kept.have_ (v := v) (x := y) ?_ ?_; (on_goal 1 => subst y); (on_goal 2 => (intro hy; clear_value y))) | clear_value y)
    | apply Kept.setResidual
    | apply Kept.crookActs
    | apply Kept.latchCause
    | apply Kept.settleSafety
    | apply Kept.demandFlocks
    | apply Kept.logTrip
    | apply Kept.raiseEv
    | apply Kept.incSat
    | apply Kept.setFlag
    | apply Kept.forN
    | simp only [Kept.upd_iff]
    | (intro _ _ _)
    | (intro _ _)
    | (split; rename_i heq; have hk := congrArg Prod.snd heq; subst hk)
    | split

theorem Kept.rcmBandDisagree {v : Held} {n : ℕ} {band : ℕ} {c : Chip} (hc : Kept v c) (hr : v.mram = none) :
    Kept v (rcmBandDisagree n band c) := by
  unfold Machine.rcmBandDisagree
  with_reducible repeat' first
    | assumption
    | (extract_lets +onlyGivenNames y; first | (refine Kept.have_ (v := v) (x := y) ?_ ?_; (on_goal 1 => subst y); (on_goal 2 => (intro hy; clear_value y))) | clear_value y)
    | apply Kept.settleSafety
    | apply Kept.faultFlocks
    | apply Kept.setFlag
    | apply Kept.forN
    | simp only [Kept.upd_iff]
    | (intro _ _ _)
    | (intro _ _)
    | (split; rename_i heq; have hk := congrArg Prod.snd heq; subst hk)
    | split

theorem Kept.rcmTest {v : Held} {acc : Access} {n : ℕ} {x2 : ℕ} {c : Chip} (hc : Kept v c) :
    Kept v (rcmTest acc n x2 c) := by
  unfold Machine.rcmTest
  with_reducible repeat' first
    | assumption
    | (extract_lets +onlyGivenNames y; first | (refine Kept.have_ (v := v) (x := y) ?_ ?_; (on_goal 1 => subst y); (on_goal 2 => (intro hy; clear_value y))) | clear_value y)
    | apply Kept.writeUnit
    | apply Kept.setResidual
    | apply Kept.forN
    | simp only [Kept.upd_iff]
    | (intro _ _ _)
    | (intro _ _)
    | (split; rename_i heq; have hk := congrArg Prod.snd heq; subst hk)
    | split

theorem Kept.rcmTestDone {v : Held} {n : ℕ} {c : Chip} (hc : Kept v c) (hr : v.mram = none) :
    Kept v (rcmTestDone n c) := by
  unfold Machine.rcmTestDone
  with_reducible repeat' first
    | assumption
    | (extract_lets +onlyGivenNames y; first | (refine Kept.have_ (v := v) (x := y) ?_ ?_; (on_goal 1 => subst y); (on_goal 2 => (intro hy; clear_value y))) | clear_value y)
    | apply Kept.raiseEv
    | apply Kept.setResidual
    | apply Kept.put
    | apply Kept.faultFlocks
    | apply Kept.clearCause
    | apply Kept.settleSafety
    | apply Kept.setFlag
    | apply Kept.forN
    | simp only [Kept.upd_iff]
    | (intro _ _ _)
    | (intro _ _)
    | (split; rename_i heq; have hk := congrArg Prod.snd heq; subst hk)
    | split

theorem Kept.showImd {v : Held} {c : Chip} {k : Nat} {alarm : Bool} {trip : Bool} {fault : Bool} (hc : Kept v c) :
    Kept v (Chip.showImd c k alarm trip fault) := by
  unfold Machine.Chip.showImd
  with_reducible repeat' first
    | assumption
    | (extract_lets +onlyGivenNames y; first | (refine Kept.have_ (v := v) (x := y) ?_ ?_; (on_goal 1 => subst y); (on_goal 2 => (intro hy; clear_value y))) | clear_value y)
    | apply Kept.setFlag
    | apply Kept.faultIs
    | apply Kept.trip
    | apply Kept.forN
    | simp only [Kept.upd_iff]
    | (intro _ _ _)
    | (intro _ _)
    | (split; rename_i heq; have hk := congrArg Prod.snd heq; subst hk)
    | split

theorem Kept.imdFault {v : Held} {c : Chip} {k : ℕ} (hc : Kept v c) :
    Kept v (Chip.imdFault c k) := by
  unfold Machine.Chip.imdFault
  with_reducible repeat' first
    | assumption
    | (extract_lets +onlyGivenNames y; first | (refine Kept.have_ (v := v) (x := y) ?_ ?_; (on_goal 1 => subst y); (on_goal 2 => (intro hy; clear_value y))) | clear_value y)
    | apply Kept.raiseEv
    | apply Kept.setInsulation
    | apply Kept.showImd
    | apply Kept.forN
    | simp only [Kept.upd_iff]
    | (intro _ _ _)
    | (intro _ _)
    | (split; rename_i heq; have hk := congrArg Prod.snd heq; subst hk)
    | split

theorem Kept.imdHalfPeriodEnd {v : Held} {k : Nat} {uv : Nat} {ms : Nat} {settled : Bool} {c : Chip} (hc : Kept v c) (hr : v.mram = none) :
    Kept v (imdHalfPeriodEnd k uv ms settled c) := by
  unfold Machine.imdHalfPeriodEnd
  with_reducible repeat' first
    | assumption
    | (extract_lets +onlyGivenNames y; first | (refine Kept.have_ (v := v) (x := y) ?_ ?_; (on_goal 1 => subst y); (on_goal 2 => (intro hy; clear_value y))) | clear_value y)
    | apply Kept.put
    | apply Kept.setFlag
    | apply Kept.raiseEv
    | apply Kept.trip
    | apply Kept.setInsulation
    | apply Kept.logSafety
    | apply Kept.settleSafety
    | apply Kept.showImd
    | apply Kept.imdFault
    | apply Kept.forN
    | simp only [Kept.upd_iff]
    | apply Kept.foldl
    | apply Kept.foldl_pair
    | (intro _ _ _)
    | (intro _ _)
    | (split; rename_i heq; have hk := congrArg Prod.snd heq; subst hk)
    | split

theorem Kept.weldCheckTimeout {v : Held} {n : ℕ} {c : Chip} (hc : Kept v c) (hr : v.mram = none) :
    Kept v (weldCheckTimeout n c) := by
  unfold Machine.weldCheckTimeout
  with_reducible repeat' first
    | assumption
    | (extract_lets +onlyGivenNames y; first | (refine Kept.have_ (v := v) (x := y) ?_ ?_; (on_goal 1 => subst y); (on_goal 2 => (intro hy; clear_value y))) | clear_value y)
    | apply Kept.faultFlocks
    | apply Kept.setSaf
    | apply Kept.settleSafety
    | apply Kept.forN
    | simp only [Kept.upd_iff]
    | (intro _ _ _)
    | (intro _ _)
    | (split; rename_i heq; have hk := congrArg Prod.snd heq; subst hk)
    | split

theorem Kept.actuate {v : Held} {c : Chip} {k : ℕ} (hc : Kept v c) (hr : v.mram = none) :
    Kept v (Chip.actuate c k) := by
  unfold Machine.Chip.actuate
  with_reducible repeat' first
    | assumption
    | (extract_lets +onlyGivenNames y; first | (refine Kept.have_ (v := v) (x := y) ?_ ?_; (on_goal 1 => subst y); (on_goal 2 => (intro hy; clear_value y))) | clear_value y)
    | apply Kept.demandFlocks
    | apply Kept.setEstop
    | apply Kept.forN
    | simp only [Kept.upd_iff]
    | (intro _ _ _)
    | (intro _ _)
    | (split; rename_i heq; have hk := congrArg Prod.snd heq; subst hk)
    | split

theorem Kept.estopContactChange {v : Held} {k : ℕ} {b : Bool} {closed : Bool} {c : Chip} (hc : Kept v c) (hr : v.mram = none) :
    Kept v (estopContactChange k b closed c) := by
  unfold Machine.estopContactChange
  with_reducible repeat' first
    | assumption
    | (extract_lets +onlyGivenNames y; first | (refine Kept.have_ (v := v) (x := y) ?_ ?_; (on_goal 1 => subst y); (on_goal 2 => (intro hy; clear_value y))) | clear_value y)
    | apply Kept.setEstop
    | apply Kept.settleSafety
    | apply Kept.actuate
    | apply Kept.forN
    | simp only [Kept.upd_iff]
    | (intro _ _ _)
    | (intro _ _)
    | (split; rename_i heq; have hk := congrArg Prod.snd heq; subst hk)
    | split

theorem Kept.estopTestPulse {v : Held} {k : ℕ} {b : Bool} {stayed : Bool} {c : Chip} (hc : Kept v c) (hr : v.mram = none) :
    Kept v (estopTestPulse k b stayed c) := by
  unfold Machine.estopTestPulse
  with_reducible repeat' first
    | assumption
    | (extract_lets +onlyGivenNames y; first | (refine Kept.have_ (v := v) (x := y) ?_ ?_; (on_goal 1 => subst y); (on_goal 2 => (intro hy; clear_value y))) | clear_value y)
    | apply Kept.setEstop
    | apply Kept.settleSafety
    | apply Kept.clearCause
    | apply Kept.crookActs
    | apply Kept.actuate
    | apply Kept.faultFlocks
    | apply Kept.forN
    | simp only [Kept.upd_iff]
    | (intro _ _ _)
    | (intro _ _)
    | (split; rename_i heq; have hk := congrArg Prod.snd heq; subst hk)
    | split

theorem Kept.estopDiscrepancy {v : Held} {k : ℕ} {c : Chip} (hc : Kept v c) :
    Kept v (estopDiscrepancy k c) := by
  unfold Machine.estopDiscrepancy
  with_reducible repeat' first
    | assumption
    | (extract_lets +onlyGivenNames y; first | (refine Kept.have_ (v := v) (x := y) ?_ ?_; (on_goal 1 => subst y); (on_goal 2 => (intro hy; clear_value y))) | clear_value y)
    | apply Kept.settleSafety
    | apply Kept.setEstop
    | apply Kept.forN
    | simp only [Kept.upd_iff]
    | (intro _ _ _)
    | (intro _ _)
    | (split; rename_i heq; have hk := congrArg Prod.snd heq; subst hk)
    | split

theorem Kept.flockPowerExceed {v : Held} {f : ℕ} {c : Chip} (hc : Kept v c) (hr : v.mram = none) :
    Kept v (flockPowerExceed f c) := by
  unfold Machine.flockPowerExceed
  with_reducible repeat' first
    | assumption
    | (extract_lets +onlyGivenNames y; first | (refine Kept.have_ (v := v) (x := y) ?_ ?_; (on_goal 1 => subst y); (on_goal 2 => (intro hy; clear_value y))) | clear_value y)
    | apply Kept.settleSafety
    | apply Kept.demandFlocks
    | apply Kept.forN
    | simp only [Kept.upd_iff]
    | (intro _ _ _)
    | (intro _ _)
    | (split; rename_i heq; have hk := congrArg Prod.snd heq; subst hk)
    | split

theorem Kept.showSafetyRx {v : Held} {c : Chip} (hc : Kept v c) :
    Kept v (Chip.showSafetyRx c) := by
  unfold Machine.Chip.showSafetyRx
  with_reducible repeat' first
    | assumption
    | (extract_lets +onlyGivenNames y; first | (refine Kept.have_ (v := v) (x := y) ?_ ?_; (on_goal 1 => subst y); (on_goal 2 => (intro hy; clear_value y))) | clear_value y)
    | apply Kept.put
    | apply Kept.setRaw
    | apply Kept.take
    | apply Kept.forN
    | simp only [Kept.upd_iff]
    | (intro _ _ _)
    | (intro _ _)
    | (split; rename_i heq; have hk := congrArg Prod.snd heq; subst hk)
    | split

theorem Kept.frameStop {v : Held} {c : Chip} {bs : List ℕ} (hc : Kept v c) (hr : v.mram = none) :
    Kept v (Chip.frameStop c bs) := by
  unfold Machine.Chip.frameStop
  with_reducible repeat' first
    | assumption
    | (extract_lets +onlyGivenNames y; first | (refine Kept.have_ (v := v) (x := y) ?_ ?_; (on_goal 1 => subst y); (on_goal 2 => (intro hy; clear_value y))) | clear_value y)
    | apply Kept.demandFlocks
    | apply Kept.forN
    | simp only [Kept.upd_iff]
    | (intro _ _ _)
    | (intro _ _)
    | (split; rename_i heq; have hk := congrArg Prod.snd heq; subst hk)
    | split

theorem Kept.actFrame {v : Held} {c : Chip} {bs : List ℕ} (hc : Kept v c) (hr : v.mram = none) :
    Kept v (Chip.actFrame c bs) := by
  unfold Machine.Chip.actFrame
  with_reducible repeat' first
    | assumption
    | (extract_lets +onlyGivenNames y; first | (refine Kept.have_ (v := v) (x := y) ?_ ?_; (on_goal 1 => subst y); (on_goal 2 => (intro hy; clear_value y))) | clear_value y)
    | apply Kept.setSaf
    | apply Kept.frameStop
    | apply Kept.showSafetyRx
    | apply Kept.incSat
    | apply Kept.forN
    | simp only [Kept.upd_iff]
    | (intro _ _ _)
    | (intro _ _)
    | (split; rename_i heq; have hk := congrArg Prod.snd heq; subst hk)
    | split

theorem Kept.hearPeer {v : Held} {c : Chip} {bs : List ℕ} {net : ℕ} (hc : Kept v c) (hr : v.mram = none) :
    Kept v (Chip.hearPeer c bs net) := by
  unfold Machine.Chip.hearPeer
  with_reducible repeat' first
    | assumption
    | (extract_lets +onlyGivenNames y; first | (refine Kept.have_ (v := v) (x := y) ?_ ?_; (on_goal 1 => subst y); (on_goal 2 => (intro hy; clear_value y))) | clear_value y)
    | apply Kept.setFlag
    | apply Kept.setSaf
    | apply Kept.clearCause
    | apply Kept.forN
    | simp only [Kept.upd_iff]
    | apply Kept.foldl
    | apply Kept.foldl_pair
    | (intro _ _ _)
    | (intro _ _)
    | (split; rename_i heq; have hk := congrArg Prod.snd heq; subst hk)
    | split

theorem Kept.acceptCopy {v : Held} {c : Chip} {bs : List ℕ} {net : ℕ} (hc : Kept v c) (hr : v.mram = none) :
    Kept v (Chip.acceptCopy c bs net) := by
  unfold Machine.Chip.acceptCopy
  with_reducible repeat' first
    | assumption
    | (extract_lets +onlyGivenNames y; first | (refine Kept.have_ (v := v) (x := y) ?_ ?_; (on_goal 1 => subst y); (on_goal 2 => (intro hy; clear_value y))) | clear_value y)
    | apply Kept.hearPeer
    | apply Kept.incSat
    | apply Kept.setSaf
    | apply Kept.actFrame
    | apply Kept.beginSingle
    | apply Kept.forN
    | simp only [Kept.upd_iff]
    | (intro _ _ _)
    | (intro _ _)
    | (split; rename_i heq; have hk := congrArg Prod.snd heq; subst hk)
    | split

theorem Kept.safetyCopy {v : Held} {c : Chip} {net : Nat} {bs : List Nat} (hc : Kept v c) (hr : v.mram = none) :
    Kept v (Chip.safetyCopy c net bs) := by
  unfold Machine.Chip.safetyCopy
  with_reducible repeat' first
    | assumption
    | (extract_lets +onlyGivenNames y; first | (refine Kept.have_ (v := v) (x := y) ?_ ?_; (on_goal 1 => subst y); (on_goal 2 => (intro hy; clear_value y))) | clear_value y)
    | apply Kept.incSat
    | apply Kept.take
    | apply Kept.settleSafety
    | apply Kept.acceptCopy
    | apply Kept.forN
    | simp only [Kept.upd_iff]
    | (intro _ _ _)
    | (intro _ _)
    | (split; rename_i heq; have hk := congrArg Prod.snd heq; subst hk)
    | split

theorem Kept.safetyFrameWindowEnd {v : Held} {c : Chip} (hc : Kept v c) (hr : v.mram = none) :
    Kept v (safetyFrameWindowEnd c) := by
  unfold Machine.safetyFrameWindowEnd
  with_reducible repeat' first
    | assumption
    | (extract_lets +onlyGivenNames y; first | (refine Kept.have_ (v := v) (x := y) ?_ ?_; (on_goal 1 => subst y); (on_goal 2 => (intro hy; clear_value y))) | clear_value y)
    | apply Kept.setSaf
    | apply Kept.settleSafety
    | apply Kept.beginSingle
    | apply Kept.incSat
    | apply Kept.actFrame
    | apply Kept.forN
    | simp only [Kept.upd_iff]
    | apply Kept.foldl
    | apply Kept.foldl_pair
    | (intro _ _ _)
    | (intro _ _)
    | (split; rename_i heq; have hk := congrArg Prod.snd heq; subst hk)
    | split

theorem Kept.sendSafety {v : Held} {c : Chip} {type : ℕ} {dest : ℕ} {mask : ℕ} (hc : Kept v c) :
    Kept v (Chip.sendSafety c type dest mask) := by
  unfold Machine.Chip.sendSafety
  with_reducible repeat' first
    | assumption
    | (extract_lets +onlyGivenNames y; first | (refine Kept.have_ (v := v) (x := y) ?_ ?_; (on_goal 1 => subst y); (on_goal 2 => (intro hy; clear_value y))) | clear_value y)
    | apply Kept.safetyCopies
    | apply Kept.setSaf
    | apply Kept.forN
    | simp only [Kept.upd_iff]
    | (intro _ _ _)
    | (intro _ _)
    | (split; rename_i heq; have hk := congrArg Prod.snd heq; subst hk)
    | split

theorem Kept.safetyFrameSend {v : Held} {acc : Access} {x1 : ℕ} {cyc : ℕ} {c : Chip} (hc : Kept v c) :
    Kept v (safetyFrameSend acc x1 cyc c) := by
  unfold Machine.safetyFrameSend
  with_reducible repeat' first
    | assumption
    | (extract_lets +onlyGivenNames y; first | (refine Kept.have_ (v := v) (x := y) ?_ ?_; (on_goal 1 => subst y); (on_goal 2 => (intro hy; clear_value y))) | clear_value y)
    | apply Kept.write
    | apply Kept.advanceTo
    | apply Kept.sendSafety
    | apply Kept.forN
    | simp only [Kept.upd_iff]
    | (intro _ _ _)
    | (intro _ _)
    | (split; rename_i heq; have hk := congrArg Prod.snd heq; subst hk)
    | split

theorem Kept.heartbeatSend {v : Held} {cyc : ℕ} {c : Chip} (hc : Kept v c) :
    Kept v (heartbeatSend cyc c) := by
  unfold Machine.heartbeatSend
  with_reducible repeat' first
    | assumption
    | (extract_lets +onlyGivenNames y; first | (refine Kept.have_ (v := v) (x := y) ?_ ?_; (on_goal 1 => subst y); (on_goal 2 => (intro hy; clear_value y))) | clear_value y)
    | apply Kept.setSaf
    | apply Kept.sendSafety
    | apply Kept.advanceTo
    | apply Kept.forN
    | simp only [Kept.upd_iff]
    | apply Kept.foldl
    | apply Kept.foldl_pair
    | (intro _ _ _)
    | (intro _ _)
    | (split; rename_i heq; have hk := congrArg Prod.snd heq; subst hk)
    | split

theorem Kept.peerTimeout {v : Held} {i : ℕ} {c : Chip} (hc : Kept v c) (hr : v.mram = none) :
    Kept v (peerTimeout i c) := by
  unfold Machine.peerTimeout
  with_reducible repeat' first
    | assumption
    | (extract_lets +onlyGivenNames y; first | (refine Kept.have_ (v := v) (x := y) ?_ ?_; (on_goal 1 => subst y); (on_goal 2 => (intro hy; clear_value y))) | clear_value y)
    | apply Kept.setFlag
    | apply Kept.settleSafety
    | apply Kept.demandFlocks
    | apply Kept.beginSingle
    | apply Kept.forN
    | simp only [Kept.upd_iff]
    | (intro _ _ _)
    | (intro _ _)
    | (split; rename_i heq; have hk := congrArg Prod.snd heq; subst hk)
    | split

theorem Kept.singleNetworkEnd {v : Held} {c : Chip} (hc : Kept v c) (hr : v.mram = none) :
    Kept v (singleNetworkEnd c) := by
  unfold Machine.singleNetworkEnd
  with_reducible repeat' first
    | assumption
    | (extract_lets +onlyGivenNames y; first | (refine Kept.have_ (v := v) (x := y) ?_ ?_; (on_goal 1 => subst y); (on_goal 2 => (intro hy; clear_value y))) | clear_value y)
    | apply Kept.settleSafety
    | apply Kept.showSingle
    | apply Kept.demandFlocks
    | apply Kept.forN
    | simp only [Kept.upd_iff]
    | (intro _ _ _)
    | (intro _ _)
    | (split; rename_i heq; have hk := congrArg Prod.snd heq; subst hk)
    | split

theorem Kept.networkRecovery {v : Held} {c : Chip} (hc : Kept v c) (hr : v.mram = none) :
    Kept v (networkRecovery c) := by
  unfold Machine.networkRecovery
  with_reducible repeat' first
    | assumption
    | (extract_lets +onlyGivenNames y; first | (refine Kept.have_ (v := v) (x := y) ?_ ?_; (on_goal 1 => subst y); (on_goal 2 => (intro hy; clear_value y))) | clear_value y)
    | apply Kept.setSaf
    | apply Kept.settleSafety
    | apply Kept.recoverNetwork
    | apply Kept.forN
    | simp only [Kept.upd_iff]
    | (intro _ _ _)
    | (intro _ _)
    | (split; rename_i heq; have hk := congrArg Prod.snd heq; subst hk)
    | split

theorem Kept.degradedSupervisionStart {v : Held} {f : ℕ} {c : Chip} (hc : Kept v c) :
    Kept v (degradedSupervisionStart f c) := by
  unfold Machine.degradedSupervisionStart
  with_reducible repeat' first
    | assumption
    | (extract_lets +onlyGivenNames y; first | (refine Kept.have_ (v := v) (x := y) ?_ ?_; (on_goal 1 => subst y); (on_goal 2 => (intro hy; clear_value y))) | clear_value y)
    | apply Kept.setFlock
    | apply Kept.forN
    | simp only [Kept.upd_iff]
    | (intro _ _ _)
    | (intro _ _)
    | (split; rename_i heq; have hk := congrArg Prod.snd heq; subst hk)
    | split

theorem Kept.degradedWarning {v : Held} {f : ℕ} {c : Chip} (hc : Kept v c) :
    Kept v (degradedWarning f c) := by
  unfold Machine.degradedWarning
  with_reducible repeat' first
    | assumption
    | (extract_lets +onlyGivenNames y; first | (refine Kept.have_ (v := v) (x := y) ?_ ?_; (on_goal 1 => subst y); (on_goal 2 => (intro hy; clear_value y))) | clear_value y)
    | apply Kept.raiseEv
    | apply Kept.setFlag
    | apply Kept.forN
    | simp only [Kept.upd_iff]
    | (intro _ _ _)
    | (intro _ _)
    | (split; rename_i heq; have hk := congrArg Prod.snd heq; subst hk)
    | split

theorem Kept.degradedDeadline {v : Held} {f : ℕ} {c : Chip} (hc : Kept v c) (hr : v.mram = none) :
    Kept v (degradedDeadline f c) := by
  unfold Machine.degradedDeadline
  with_reducible repeat' first
    | assumption
    | (extract_lets +onlyGivenNames y; first | (refine Kept.have_ (v := v) (x := y) ?_ ?_; (on_goal 1 => subst y); (on_goal 2 => (intro hy; clear_value y))) | clear_value y)
    | apply Kept.abandonRecovery
    | apply Kept.settleSafety
    | apply Kept.setFlockState
    | apply Kept.forN
    | simp only [Kept.upd_iff]
    | (intro _ _ _)
    | (intro _ _)
    | (split; rename_i heq; have hk := congrArg Prod.snd heq; subst hk)
    | split

theorem Kept.degradedRecovery {v : Held} {f : ℕ} {c : Chip} (hc : Kept v c) (hr : v.mram = none) :
    Kept v (degradedRecovery f c) := by
  unfold Machine.degradedRecovery
  with_reducible repeat' first
    | assumption
    | (extract_lets +onlyGivenNames y; first | (refine Kept.have_ (v := v) (x := y) ?_ ?_; (on_goal 1 => subst y); (on_goal 2 => (intro hy; clear_value y))) | clear_value y)
    | apply Kept.setSaf
    | apply Kept.settleSafety
    | apply Kept.recoverFlocks
    | apply Kept.forN
    | simp only [Kept.upd_iff]
    | (intro _ _ _)
    | (intro _ _)
    | (split; rename_i heq; have hk := congrArg Prod.snd heq; subst hk)
    | split

theorem Kept.safetyWatchdogService {v : Held} {acc : Access} {x1 : ℕ} {c : Chip} (hc : Kept v c) :
    Kept v (safetyWatchdogService acc x1 c) := by
  unfold Machine.safetyWatchdogService
  with_reducible repeat' first
    | assumption
    | (extract_lets +onlyGivenNames y; first | (refine Kept.have_ (v := v) (x := y) ?_ ?_; (on_goal 1 => subst y); (on_goal 2 => (intro hy; clear_value y))) | clear_value y)
    | apply Kept.write
    | apply Kept.setSaf
    | apply Kept.setFlag
    | apply Kept.settleSafety
    | apply Kept.watchdogsChanged
    | apply Kept.setLoad
    | apply Kept.forN
    | simp only [Kept.upd_iff]
    | (intro _ _ _)
    | (intro _ _)
    | (split; rename_i heq; have hk := congrArg Prod.snd heq; subst hk)
    | split

theorem Kept.recoveryWindowExpire {v : Held} {c : Chip} (hc : Kept v c) (hr : v.mram = none) :
    Kept v (recoveryWindowExpire c) := by
  unfold Machine.recoveryWindowExpire
  with_reducible repeat' first
    | assumption
    | (extract_lets +onlyGivenNames y; first | (refine Kept.have_ (v := v) (x := y) ?_ ?_; (on_goal 1 => subst y); (on_goal 2 => (intro hy; clear_value y))) | clear_value y)
    | apply Kept.setSaf
    | apply Kept.settleSafety
    | apply Kept.raiseFlock
    | apply Kept.latchCause
    | apply Kept.forN
    | simp only [Kept.upd_iff]
    | apply Kept.foldl
    | apply Kept.foldl_pair
    | (intro _ _ _)
    | (intro _ _)
    | (split; rename_i heq; have hk := congrArg Prod.snd heq; subst hk)
    | split

theorem Kept.recoveryFinish {v : Held} {c : Chip} (hc : Kept v c) (hr : v.mram = none) :
    Kept v (recoveryFinish c) := by
  unfold Machine.recoveryFinish
  with_reducible repeat' first
    | assumption
    | (extract_lets +onlyGivenNames y; first | (refine Kept.have_ (v := v) (x := y) ?_ ?_; (on_goal 1 => subst y); (on_goal 2 => (intro hy; clear_value y))) | clear_value y)
    | apply Kept.setFlag
    | apply Kept.setSaf
    | apply Kept.setFlock
    | apply Kept.settleSafety
    | apply Kept.startWaiting
    | apply Kept.forN
    | simp only [Kept.upd_iff]
    | apply Kept.foldl
    | apply Kept.foldl_pair
    | (intro _ _ _)
    | (intro _ _)
    | (split; rename_i heq; have hk := congrArg Prod.snd heq; subst hk)
    | split

theorem Kept.safCmd {v : Held} {c : Chip} {acc : Access} {word : ℕ} {f : Chip → Chip × ℕ} (hc : Kept v c) (hf : ∀ c, Kept v c → Kept v ((f c)).1) (hr : v.mram = none) :
    Kept v (Chip.safCmd c acc word f) := by
  unfold Machine.Chip.safCmd
  with_reducible repeat' first
    | assumption
    | (extract_lets +onlyGivenNames y; first | (refine Kept.have_ (v := v) (x := y) ?_ ?_; (on_goal 1 => subst y); (on_goal 2 => (intro hy; clear_value y))) | clear_value y)
    | apply hf
    | apply Kept.write
    | apply Kept.settleSafety
    | apply Kept.commandResult
    | apply Kept.forN
    | simp only [Kept.upd_iff]
    | (intro _ _ _)
    | (intro _ _)
    | (split; rename_i heq; have hk := congrArg Prod.snd heq; subst hk)
    | split

theorem Kept.flockRelease {v : Held} {acc : Access} {mask : ℕ} {c : Chip} (hc : Kept v c) (hr : v.mram = none) :
    Kept v (flockRelease acc mask c) := by
  unfold Machine.flockRelease
  with_reducible repeat' first
    | assumption
    | (extract_lets +onlyGivenNames y; first | (refine Kept.have_ (v := v) (x := y) ?_ ?_; (on_goal 1 => subst y); (on_goal 2 => (intro hy; clear_value y))) | clear_value y)
    | apply Kept.safCmd
    | apply Kept.setSaf
    | apply Kept.recoverFlocks
    | apply Kept.forN
    | simp only [Kept.upd_iff]
    | (intro _ _ _)
    | (intro _ _)
    | (split; rename_i heq; have hk := congrArg Prod.snd heq; subst hk)
    | split

theorem Kept.flockStop {v : Held} {acc : Access} {mask : ℕ} {c : Chip} (hc : Kept v c) (hr : v.mram = none) :
    Kept v (flockStop acc mask c) := by
  unfold Machine.flockStop
  with_reducible repeat' first
    | assumption
    | (extract_lets +onlyGivenNames y; first | (refine Kept.have_ (v := v) (x := y) ?_ ?_; (on_goal 1 => subst y); (on_goal 2 => (intro hy; clear_value y))) | clear_value y)
    | apply Kept.safCmd
    | apply Kept.demandFlocks
    | apply Kept.forN
    | simp only [Kept.upd_iff]
    | (intro _ _ _)
    | (intro _ _)
    | (split; rename_i heq; have hk := congrArg Prod.snd heq; subst hk)
    | split

theorem Kept.lockoutRelease {v : Held} {acc : Access} {mask : Nat} {c : Chip} (hc : Kept v c) (hr : v.mram = none) :
    Kept v (lockoutRelease acc mask c) := by
  unfold Machine.lockoutRelease
  with_reducible repeat' first
    | assumption
    | (extract_lets +onlyGivenNames y; first | (refine Kept.have_ (v := v) (x := y) ?_ ?_; (on_goal 1 => subst y); (on_goal 2 => (intro hy; clear_value y))) | clear_value y)
    | apply Kept.setFlockState
    | apply Kept.beginRecovery
    | apply Kept.safCmd
    | apply Kept.forN
    | simp only [Kept.upd_iff]
    | apply Kept.foldl
    | apply Kept.foldl_pair
    | (intro _ _ _)
    | (intro _ _)
    | (split; rename_i heq; have hk := congrArg Prod.snd heq; subst hk)
    | split

theorem Kept.estopReset {v : Held} {acc : Access} {mask : ℕ} {c : Chip} (hc : Kept v c) (hr : v.mram = none) :
    Kept v (estopReset acc mask c) := by
  unfold Machine.estopReset
  with_reducible repeat' first
    | assumption
    | (extract_lets +onlyGivenNames y; first | (refine Kept.have_ (v := v) (x := y) ?_ ?_; (on_goal 1 => subst y); (on_goal 2 => (intro hy; clear_value y))) | clear_value y)
    | apply Kept.safCmd
    | apply Kept.setEstop
    | apply Kept.setFlock
    | apply Kept.recoverFlocks
    | apply Kept.forN
    | simp only [Kept.upd_iff]
    | apply Kept.foldl
    | apply Kept.foldl_pair
    | (intro _ _ _)
    | (intro _ _)
    | (split; rename_i heq; have hk := congrArg Prod.snd heq; subst hk)
    | split

theorem Kept.safCmdInvalid {v : Held} {acc : Access} {op : ℕ} {c : Chip} (hc : Kept v c) (hr : v.mram = none) :
    Kept v (safCmdInvalid acc op c) := by
  unfold Machine.safCmdInvalid
  with_reducible repeat' first
    | assumption
    | (extract_lets +onlyGivenNames y; first | (refine Kept.have_ (v := v) (x := y) ?_ ?_; (on_goal 1 => subst y); (on_goal 2 => (intro hy; clear_value y))) | clear_value y)
    | apply Kept.safCmd
    | apply Kept.forN
    | simp only [Kept.upd_iff]
    | (intro _ _ _)
    | (intro _ _)
    | (split; rename_i heq; have hk := congrArg Prod.snd heq; subst hk)
    | split

theorem Kept.strapEvent {v : Held} {c : Chip} {level : ℕ} {unit : ℕ} {new : ℕ} {channels : ℕ} (hc : Kept v c) (hr : v.mram = none) :
    Kept v (Chip.strapEvent c level unit new channels) := by
  unfold Machine.Chip.strapEvent
  with_reducible repeat' first
    | assumption
    | (extract_lets +onlyGivenNames y; first | (refine Kept.have_ (v := v) (x := y) ?_ ?_; (on_goal 1 => subst y); (on_goal 2 => (intro hy; clear_value y))) | clear_value y)
    | apply Kept.raiseEv
    | apply Kept.logSafety
    | apply Kept.forN
    | simp only [Kept.upd_iff]
    | (intro _ _ _)
    | (intro _ _)
    | (split; rename_i heq; have hk := congrArg Prod.snd heq; subst hk)
    | split

theorem Kept.sealDifference {v : Held} {c : Chip} {n : ℕ} {state : ℕ} {unit : ℕ} {channels : ℕ} {differs : Bool} (hc : Kept v c) (hr : v.mram = none) :
    Kept v (Chip.sealDifference c n state unit channels differs) := by
  unfold Machine.Chip.sealDifference
  with_reducible repeat' first
    | assumption
    | (extract_lets +onlyGivenNames y; first | (refine Kept.have_ (v := v) (x := y) ?_ ?_; (on_goal 1 => subst y); (on_goal 2 => (intro hy; clear_value y))) | clear_value y)
    | apply Kept.strapEvent
    | apply Kept.faultFlocks
    | apply Kept.clearCause
    | apply Kept.forN
    | simp only [Kept.upd_iff]
    | (intro _ _ _)
    | (intro _ _)
    | (split; rename_i heq; have hk := congrArg Prod.snd heq; subst hk)
    | split

theorem Kept.strapRead {v : Held} {words : List ℕ} {crook : List ℕ} {c : Chip} (hc : Kept v c) (hr : v.mram = none) :
    Kept v (strapRead words crook c) := by
  unfold Machine.strapRead
  with_reducible repeat' first
    | assumption
    | (extract_lets +onlyGivenNames y; first | (refine Kept.have_ (v := v) (x := y) ?_ ?_; (on_goal 1 => subst y); (on_goal 2 => (intro hy; clear_value y))) | clear_value y)
    | apply Kept.setFlag
    | apply Kept.setSaf
    | apply Kept.strapEvent
    | apply Kept.faultFlocks
    | apply Kept.clearCause
    | apply Kept.settleSafety
    | apply Kept.put
    | apply Kept.sealDifference
    | apply Kept.forN
    | simp only [Kept.upd_iff]
    | apply Kept.foldl
    | apply Kept.foldl_pair
    | (intro _ _ _)
    | (intro _ _)
    | (split; rename_i heq; have hk := congrArg Prod.snd heq; subst hk)
    | split

theorem Kept.strapReread {v : Held} {words : List ℕ} {crook : List ℕ} {c : Chip} (hc : Kept v c) (hr : v.mram = none) :
    Kept v (strapReread words crook c) := by
  unfold Machine.strapReread
  with_reducible repeat' first
    | assumption
    | (extract_lets +onlyGivenNames y; first | (refine Kept.have_ (v := v) (x := y) ?_ ?_; (on_goal 1 => subst y); (on_goal 2 => (intro hy; clear_value y))) | clear_value y)
    | apply Kept.strapRead
    | apply Kept.forN
    | simp only [Kept.upd_iff]
    | (intro _ _ _)
    | (intro _ _)
    | (split; rename_i heq; have hk := congrArg Prod.snd heq; subst hk)
    | split

theorem Kept.advanceBlock {v : Held} {c : Chip} (hc : Kept v c) :
    Kept v (Chip.advanceBlock c) := by
  unfold Machine.Chip.advanceBlock
  with_reducible repeat' first
    | assumption
    | (extract_lets +onlyGivenNames y; first | (refine Kept.have_ (v := v) (x := y) ?_ ?_; (on_goal 1 => subst y); (on_goal 2 => (intro hy; clear_value y))) | clear_value y)
    | apply Kept.put
    | apply Kept.forN
    | simp only [Kept.upd_iff]
    | (intro _ _ _)
    | (intro _ _)
    | (split; rename_i heq; have hk := congrArg Prod.snd heq; subst hk)
    | split

theorem Kept.spbDataAccess {v : Held} {acc : Access} {write : Bool} {w_ : Nat} {c : Chip} (hc : Kept v c) :
    Kept v (spbDataAccess acc write w_ c) := by
  unfold Machine.spbDataAccess
  with_reducible repeat' first
    | assumption
    | (extract_lets +onlyGivenNames y; first | (refine Kept.have_ (v := v) (x := y) ?_ ?_; (on_goal 1 => subst y); (on_goal 2 => (intro hy; clear_value y))) | clear_value y)
    | apply Kept.violate
    | apply Kept.write
    | apply Kept.read
    | apply Kept.setSaf
    | apply Kept.advanceBlock
    | apply Kept.forN
    | simp only [Kept.upd_iff]
    | (intro _ _ _)
    | (intro _ _)
    | (split; rename_i heq; have hk := congrArg Prod.snd heq; subst hk)
    | split

theorem Kept.spbCommit {v : Held} {acc : Access} {c : Chip} (hc : Kept v c) (hr : v.mram = none) :
    Kept v (spbCommit acc c) := by
  unfold Machine.spbCommit
  with_reducible repeat' first
    | assumption
    | (extract_lets +onlyGivenNames y; first | (refine Kept.have_ (v := v) (x := y) ?_ ?_; (on_goal 1 => subst y); (on_goal 2 => (intro hy; clear_value y))) | clear_value y)
    | apply Kept.write
    | apply Kept.put
    | apply Kept.showBlock
    | apply Kept.computeBlock
    | apply Kept.setSaf
    | apply Kept.logSafety
    | apply Kept.settleSafety
    | apply Kept.showConfirmed
    | apply Kept.raiseEv
    | apply Kept.forN
    | simp only [Kept.upd_iff]
    | (intro _ _ _)
    | (intro _ _)
    | (split; rename_i heq; have hk := congrArg Prod.snd heq; subst hk)
    | split

theorem Kept.spbConfirm {v : Held} {acc : Access} {c : Chip} (hc : Kept v c) (hr : v.mram = none) :
    Kept v (spbConfirm acc c) := by
  unfold Machine.spbConfirm
  with_reducible repeat' first
    | assumption
    | (extract_lets +onlyGivenNames y; first | (refine Kept.have_ (v := v) (x := y) ?_ ?_; (on_goal 1 => subst y); (on_goal 2 => (intro hy; clear_value y))) | clear_value y)
    | apply Kept.write
    | apply Kept.put
    | apply Kept.logSafety
    | apply Kept.settleSafety
    | apply Kept.showConfirmed
    | apply Kept.raiseEv
    | apply Kept.forN
    | simp only [Kept.upd_iff]
    | (intro _ _ _)
    | (intro _ _)
    | (split; rename_i heq; have hk := congrArg Prod.snd heq; subst hk)
    | split

theorem Kept.spbRecheck {v : Held} {c : Chip} (hc : Kept v c) (hr : v.mram = none) :
    Kept v (spbRecheck c) := by
  unfold Machine.spbRecheck
  with_reducible repeat' first
    | assumption
    | (extract_lets +onlyGivenNames y; first | (refine Kept.have_ (v := v) (x := y) ?_ ?_; (on_goal 1 => subst y); (on_goal 2 => (intro hy; clear_value y))) | clear_value y)
    | apply Kept.showConfirmed
    | apply Kept.computeBlock
    | apply Kept.settleSafety
    | apply Kept.clearCause
    | apply Kept.faultFlocks
    | apply Kept.forN
    | simp only [Kept.upd_iff]
    | (intro _ _ _)
    | (intro _ _)
    | (split; rename_i heq; have hk := congrArg Prod.snd heq; subst hk)
    | split

theorem Kept.safeOkRelease {v : Held} {n : ℕ} {c : Chip} (hc : Kept v c) :
    Kept v (safeOkRelease n c) := by
  unfold Machine.safeOkRelease
  with_reducible repeat' first
    | assumption
    | (extract_lets +onlyGivenNames y; first | (refine Kept.have_ (v := v) (x := y) ?_ ?_; (on_goal 1 => subst y); (on_goal 2 => (intro hy; clear_value y))) | clear_value y)
    | apply Kept.settlePort
    | apply Kept.setSafeOk
    | apply Kept.forN
    | simp only [Kept.upd_iff]
    | (intro _ _ _)
    | (intro _ _)
    | (split; rename_i heq; have hk := congrArg Prod.snd heq; subst hk)
    | split

theorem Kept.startupRelease {v : Held} {f : ℕ} {c : Chip} (hc : Kept v c) (hr : v.mram = none) :
    Kept v (startupRelease f c) := by
  unfold Machine.startupRelease
  with_reducible repeat' first
    | assumption
    | (extract_lets +onlyGivenNames y; first | (refine Kept.have_ (v := v) (x := y) ?_ ?_; (on_goal 1 => subst y); (on_goal 2 => (intro hy; clear_value y))) | clear_value y)
    | apply Kept.setFlock
    | apply Kept.settleSafety
    | apply Kept.setFlockState
    | apply Kept.forN
    | simp only [Kept.upd_iff]
    | apply Kept.foldl
    | apply Kept.foldl_pair
    | (intro _ _ _)
    | (intro _ _)
    | (split; rename_i heq; have hk := congrArg Prod.snd heq; subst hk)
    | split

theorem Kept.safetyRxPop {v : Held} {acc : Access} {x1 : ℕ} {c : Chip} (hc : Kept v c) :
    Kept v (safetyRxPop acc x1 c) := by
  unfold Machine.safetyRxPop
  with_reducible repeat' first
    | assumption
    | (extract_lets +onlyGivenNames y; first | (refine Kept.have_ (v := v) (x := y) ?_ ?_; (on_goal 1 => subst y); (on_goal 2 => (intro hy; clear_value y))) | clear_value y)
    | apply Kept.write
    | apply Kept.showSafetyRx
    | apply Kept.setSaf
    | apply Kept.forN
    | simp only [Kept.upd_iff]
    | (intro _ _ _)
    | (intro _ _)
    | (split; rename_i heq; have hk := congrArg Prod.snd heq; subst hk)
    | split

theorem Kept.crookLinkLoss {v : Held} {c : Chip} (hc : Kept v c) (hr : v.mram = none) :
    Kept v (crookLinkLoss c) := by
  unfold Machine.crookLinkLoss
  with_reducible repeat' first
    | assumption
    | (extract_lets +onlyGivenNames y; first | (refine Kept.have_ (v := v) (x := y) ?_ ?_; (on_goal 1 => subst y); (on_goal 2 => (intro hy; clear_value y))) | clear_value y)
    | apply Kept.setFlag
    | apply Kept.settleSafety
    | apply Kept.faultFlocks
    | apply Kept.forN
    | simp only [Kept.upd_iff]
    | (intro _ _ _)
    | (intro _ _)
    | (split; rename_i heq; have hk := congrArg Prod.snd heq; subst hk)
    | split

theorem Kept.pairedCrookLossCut {v : Held} {c : Chip} (hc : Kept v c) :
    Kept v (pairedCrookLossCut c) := by
  unfold Machine.pairedCrookLossCut
  with_reducible repeat' first
    | assumption
    | (extract_lets +onlyGivenNames y; first | (refine Kept.have_ (v := v) (x := y) ?_ ?_; (on_goal 1 => subst y); (on_goal 2 => (intro hy; clear_value y))) | clear_value y)
    | apply Kept.settleSafety
    | apply Kept.setSaf
    | apply Kept.forN
    | simp only [Kept.upd_iff]
    | (intro _ _ _)
    | (intro _ _)
    | (split; rename_i heq; have hk := congrArg Prod.snd heq; subst hk)
    | split

theorem Kept.crookEdge {v : Held} {c : Chip} {inp : StrideInputs} (hc : Kept v c) (hr : v.mram = none) :
    Kept v (Chip.crookEdge c inp) := by
  unfold Machine.Chip.crookEdge
  with_reducible repeat' first
    | assumption
    | (extract_lets +onlyGivenNames y; first | (refine Kept.have_ (v := v) (x := y) ?_ ?_; (on_goal 1 => subst y); (on_goal 2 => (intro hy; clear_value y))) | clear_value y)
    | apply Kept.setSaf
    | apply Kept.incSat
    | apply Kept.clearCause
    | apply Kept.setFlag
    | apply Kept.showCrook
    | apply Kept.setResidual
    | apply Kept.forN
    | simp only [Kept.upd_iff]
    | apply Kept.foldl
    | apply Kept.foldl_pair
    | (intro _ _ _)
    | (intro _ _)
    | (split; rename_i heq; have hk := congrArg Prod.snd heq; subst hk)
    | split

theorem Kept.readbackCut {v : Held} {c : Chip} {o : ℕ} {pin : Bool} (hc : Kept v c) (hr : v.mram = none) :
    Kept v (Chip.readbackCut c o pin) := by
  unfold Machine.Chip.readbackCut
  with_reducible repeat' first
    | assumption
    | (extract_lets +onlyGivenNames y; first | (refine Kept.have_ (v := v) (x := y) ?_ ?_; (on_goal 1 => subst y); (on_goal 2 => (intro hy; clear_value y))) | clear_value y)
    | apply Kept.setSaf
    | apply Kept.clearCause
    | apply Kept.forN
    | simp only [Kept.upd_iff]
    | (intro _ _ _)
    | (intro _ _)
    | (split; rename_i heq; have hk := congrArg Prod.snd heq; subst hk)
    | split

theorem Kept.cutReadback {v : Held} {c : Chip} {inp : StrideInputs} (hc : Kept v c) (hr : v.mram = none) :
    Kept v (Chip.cutReadback c inp) := by
  unfold Machine.Chip.cutReadback
  with_reducible repeat' first
    | assumption
    | (extract_lets +onlyGivenNames y; first | (refine Kept.have_ (v := v) (x := y) ?_ ?_; (on_goal 1 => subst y); (on_goal 2 => (intro hy; clear_value y))) | clear_value y)
    | apply Kept.readbackCut
    | apply Kept.put
    | apply Kept.setSaf
    | apply Kept.forN
    | simp only [Kept.upd_iff]
    | (intro _ _ _)
    | (intro _ _)
    | (split; rename_i heq; have hk := congrArg Prod.snd heq; subst hk)
    | split

theorem Kept.residualTick {v : Held} {c : Chip} {n : Nat} (hc : Kept v c) (hr : v.mram = none) :
    Kept v (Chip.residualTick c n) := by
  unfold Machine.Chip.residualTick
  with_reducible repeat' first
    | assumption
    | (extract_lets +onlyGivenNames y; first | (refine Kept.have_ (v := v) (x := y) ?_ ?_; (on_goal 1 => subst y); (on_goal 2 => (intro hy; clear_value y))) | clear_value y)
    | apply Kept.put
    | apply Kept.putS
    | apply Kept.trip
    | apply Kept.setResidual
    | apply Kept.clearCause
    | apply Kept.forN
    | simp only [Kept.upd_iff]
    | (intro _ _ _)
    | (intro _ _)
    | (split; rename_i heq; have hk := congrArg Prod.snd heq; subst hk)
    | split

theorem Kept.crookResidual {v : Held} {c : Chip} {inp : StrideInputs} {n : ℕ} (hc : Kept v c) (hr : v.mram = none) :
    Kept v (Chip.crookResidual c inp n) := by
  unfold Machine.Chip.crookResidual
  with_reducible repeat' first
    | assumption
    | (extract_lets +onlyGivenNames y; first | (refine Kept.have_ (v := v) (x := y) ?_ ?_; (on_goal 1 => subst y); (on_goal 2 => (intro hy; clear_value y))) | clear_value y)
    | apply Kept.setResidual
    | apply Kept.clearCause
    | apply Kept.forN
    | simp only [Kept.upd_iff]
    | (intro _ _ _)
    | (intro _ _)
    | (split; rename_i heq; have hk := congrArg Prod.snd heq; subst hk)
    | split

theorem Kept.residualEdge {v : Held} {c : Chip} {inp : StrideInputs} {tick : Bool} {n : Nat} (hc : Kept v c) (hr : v.mram = none) :
    Kept v (Chip.residualEdge c inp tick n) := by
  unfold Machine.Chip.residualEdge
  with_reducible repeat' first
    | assumption
    | (extract_lets +onlyGivenNames y; first | (refine Kept.have_ (v := v) (x := y) ?_ ?_; (on_goal 1 => subst y); (on_goal 2 => (intro hy; clear_value y))) | clear_value y)
    | apply Kept.putS
    | apply Kept.setFlag
    | apply Kept.take
    | apply Kept.setResidual
    | apply Kept.clearCause
    | apply Kept.residualTick
    | apply Kept.crookResidual
    | apply Kept.forN
    | simp only [Kept.upd_iff]
    | (intro _ _ _)
    | (intro _ _)
    | (split; rename_i heq; have hk := congrArg Prod.snd heq; subst hk)
    | split

theorem Kept.insulationEdge {v : Held} {c : Chip} {inp : StrideInputs} {tick : Bool} {k : Nat} (hc : Kept v c) :
    Kept v (Chip.insulationEdge c inp tick k) := by
  unfold Machine.Chip.insulationEdge
  with_reducible repeat' first
    | assumption
    | (extract_lets +onlyGivenNames y; first | (refine Kept.have_ (v := v) (x := y) ?_ ?_; (on_goal 1 => subst y); (on_goal 2 => (intro hy; clear_value y))) | clear_value y)
    | apply Kept.take
    | apply Kept.setInsulation
    | apply Kept.showImd
    | apply Kept.imdFault
    | apply Kept.forN
    | simp only [Kept.upd_iff]
    | (intro _ _ _)
    | (intro _ _)
    | (split; rename_i heq; have hk := congrArg Prod.snd heq; subst hk)
    | split

theorem Kept.powerTick {v : Held} {c : Chip} {f : ℕ} (hc : Kept v c) (hr : v.mram = none) :
    Kept v (Chip.powerTick c f) := by
  unfold Machine.Chip.powerTick
  with_reducible repeat' first
    | assumption
    | (extract_lets +onlyGivenNames y; first | (refine Kept.have_ (v := v) (x := y) ?_ ?_; (on_goal 1 => subst y); (on_goal 2 => (intro hy; clear_value y))) | clear_value y)
    | apply Kept.setFlock
    | apply Kept.clearCause
    | apply Kept.forN
    | simp only [Kept.upd_iff]
    | apply Kept.foldl
    | apply Kept.foldl_pair
    | (intro _ _ _)
    | (intro _ _)
    | (split; rename_i heq; have hk := congrArg Prod.snd heq; subst hk)
    | split

theorem Kept.weldEdge {v : Held} {c : Chip} {tick : Bool} (hc : Kept v c) (hr : v.mram = none) :
    Kept v (Chip.weldEdge c tick) := by
  unfold Machine.Chip.weldEdge
  with_reducible repeat' first
    | assumption
    | (extract_lets +onlyGivenNames y; first | (refine Kept.have_ (v := v) (x := y) ?_ ?_; (on_goal 1 => subst y); (on_goal 2 => (intro hy; clear_value y))) | clear_value y)
    | apply Kept.put
    | apply Kept.setFlag
    | apply Kept.read
    | apply Kept.setSaf
    | apply Kept.clearCause
    | apply Kept.forN
    | simp only [Kept.upd_iff]
    | apply Kept.foldl
    | apply Kept.foldl_pair
    | (intro _ _ _)
    | (intro _ _)
    | (split; rename_i heq; have hk := congrArg Prod.snd heq; subst hk)
    | split

theorem Kept.estopEdge {v : Held} {c : Chip} (hc : Kept v c) :
    Kept v (Chip.estopEdge c) := by
  unfold Machine.Chip.estopEdge
  with_reducible repeat' first
    | assumption
    | (extract_lets +onlyGivenNames y; first | (refine Kept.have_ (v := v) (x := y) ?_ ?_; (on_goal 1 => subst y); (on_goal 2 => (intro hy; clear_value y))) | clear_value y)
    | apply Kept.setEstop
    | apply Kept.forN
    | simp only [Kept.upd_iff]
    | (intro _ _ _)
    | (intro _ _)
    | (split; rename_i heq; have hk := congrArg Prod.snd heq; subst hk)
    | split

theorem Kept.safetyNetEdge {v : Held} {c : Chip} (hc : Kept v c) :
    Kept v (Chip.safetyNetEdge c) := by
  unfold Machine.Chip.safetyNetEdge
  with_reducible repeat' first
    | assumption
    | (extract_lets +onlyGivenNames y; first | (refine Kept.have_ (v := v) (x := y) ?_ ?_; (on_goal 1 => subst y); (on_goal 2 => (intro hy; clear_value y))) | clear_value y)
    | apply Kept.setSaf
    | apply Kept.put
    | apply Kept.forN
    | simp only [Kept.upd_iff]
    | apply Kept.foldl
    | apply Kept.foldl_pair
    | (intro _ _ _)
    | (intro _ _)
    | (split; rename_i heq; have hk := congrArg Prod.snd heq; subst hk)
    | split

theorem Kept.flockEdge {v : Held} {c : Chip} (hc : Kept v c) (hr : v.mram = none) :
    Kept v (Chip.flockEdge c) := by
  unfold Machine.Chip.flockEdge
  with_reducible repeat' first
    | assumption
    | (extract_lets +onlyGivenNames y; first | (refine Kept.have_ (v := v) (x := y) ?_ ?_; (on_goal 1 => subst y); (on_goal 2 => (intro hy; clear_value y))) | clear_value y)
    | apply Kept.put
    | apply Kept.setSaf
    | apply Kept.setFlock
    | apply Kept.startWaiting
    | apply Kept.forN
    | simp only [Kept.upd_iff]
    | (intro _ _ _)
    | (intro _ _)
    | (split; rename_i heq; have hk := congrArg Prod.snd heq; subst hk)
    | split

theorem Kept.pilotStops {v : Held} {c : Chip} (hc : Kept v c) :
    Kept v (Chip.pilotStops c) := by
  unfold Machine.Chip.pilotStops
  with_reducible repeat' first
    | assumption
    | (extract_lets +onlyGivenNames y; first | (refine Kept.have_ (v := v) (x := y) ?_ ?_; (on_goal 1 => subst y); (on_goal 2 => (intro hy; clear_value y))) | clear_value y)
    | apply Kept.setSaf
    | apply Kept.forN
    | simp only [Kept.upd_iff]
    | (intro _ _ _)
    | (intro _ _)
    | (split; rename_i heq; have hk := congrArg Prod.snd heq; subst hk)
    | split

theorem Kept.showStops {v : Held} {c : Chip} (hc : Kept v c) :
    Kept v (Chip.showStops c) := by
  unfold Machine.Chip.showStops
  with_reducible repeat' first
    | assumption
    | (extract_lets +onlyGivenNames y; first | (refine Kept.have_ (v := v) (x := y) ?_ ?_; (on_goal 1 => subst y); (on_goal 2 => (intro hy; clear_value y))) | clear_value y)
    | apply Kept.faultIs
    | apply Kept.forN
    | simp only [Kept.upd_iff]
    | (intro _ _ _)
    | (intro _ _)
    | (split; rename_i heq; have hk := congrArg Prod.snd heq; subst hk)
    | split

theorem Kept.safetyOverrun {v : Held} {c : Chip} {late : Bool} (hc : Kept v c) (hr : v.mram = none) :
    Kept v (Chip.safetyOverrun c late) := by
  unfold Machine.Chip.safetyOverrun
  with_reducible repeat' first
    | assumption
    | (extract_lets +onlyGivenNames y; first | (refine Kept.have_ (v := v) (x := y) ?_ ?_; (on_goal 1 => subst y); (on_goal 2 => (intro hy; clear_value y))) | clear_value y)
    | apply Kept.faultIs
    | apply Kept.faultFlocks
    | apply Kept.clearCause
    | apply Kept.forN
    | simp only [Kept.upd_iff]
    | (intro _ _ _)
    | (intro _ _)
    | (split; rename_i heq; have hk := congrArg Prod.snd heq; subst hk)
    | split

theorem Kept.safetyEdge {v : Held} {c : Chip} {inp : StrideInputs} (hc : Kept v c) (hr : v.mram = none) :
    Kept v (Chip.safetyEdge c inp) := by
  unfold Machine.Chip.safetyEdge
  with_reducible repeat' first
    | assumption
    | (extract_lets +onlyGivenNames y; first | (refine Kept.have_ (v := v) (x := y) ?_ ?_; (on_goal 1 => subst y); (on_goal 2 => (intro hy; clear_value y))) | clear_value y)
    | apply Kept.setSaf
    | apply Kept.settleSafety
    | apply Kept.showConfirmed
    | apply Kept.crookEdge
    | apply Kept.cutReadback
    | apply Kept.residualEdge
    | apply Kept.insulationEdge
    | apply Kept.powerTick
    | apply Kept.weldEdge
    | apply Kept.estopEdge
    | apply Kept.safetyNetEdge
    | apply Kept.flockEdge
    | apply Kept.pilotStops
    | apply Kept.showStops
    | apply Kept.safetyOverrun
    | apply Kept.forN
    | simp only [Kept.upd_iff]
    | apply Kept.foldl
    | apply Kept.foldl_pair
    | (intro _ _ _)
    | (intro _ _)
    | (split; rename_i heq; have hk := congrArg Prod.snd heq; subst hk)
    | split

theorem Kept.crookAlone {v : Held} {c : Chip} {inp : StrideInputs} (hc : Kept v c) (hr : v.mram = none) :
    Kept v (Chip.crookAlone c inp) := by
  unfold Machine.Chip.crookAlone
  with_reducible repeat' first
    | assumption
    | (extract_lets +onlyGivenNames y; first | (refine Kept.have_ (v := v) (x := y) ?_ ?_; (on_goal 1 => subst y); (on_goal 2 => (intro hy; clear_value y))) | clear_value y)
    | apply Kept.estopEdge
    | apply Kept.crookResidual
    | apply Kept.crookActs
    | apply Kept.setSaf
    | apply Kept.forN
    | simp only [Kept.upd_iff]
    | (intro _ _ _)
    | (intro _ _)
    | (split; rename_i heq; have hk := congrArg Prod.snd heq; subst hk)
    | split

end Sys2Proof.Machine
end

