-- ==== Sys2Proof/Laws/Kept9.lean ====
section
/-! SUPPORT. What the operations of Net keep. -/

set_option linter.unusedTactic false
set_option linter.unreachableTactic false
set_option linter.unusedSimpArgs false
set_option linter.unusedVariables false

namespace Sys2Proof.Machine

theorem Kept.setStream {v : Held} {c : Chip} {s : ℕ} {f : NetStream → NetStream} (hc : Kept v c) :
    Kept v (Chip.setStream c s f) := by
  unfold Machine.Chip.setStream
  with_reducible repeat' first
    | assumption
    | (extract_lets +onlyGivenNames y; first | (refine Kept.have_ (v := v) (x := y) ?_ ?_; (on_goal 1 => subst y); (on_goal 2 => (intro hy; clear_value y))) | clear_value y)
    | apply Kept.setNet
    | apply Kept.forN
    | simp only [Kept.upd_iff]
    | (intro _ _ _)
    | (intro _ _)
    | (split; rename_i heq; have hk := congrArg Prod.snd heq; subst hk)
    | split

theorem Kept.showStream {v : Held} {c : Chip} {s : ℕ} {running : Bool} {susp : Bool} (hc : Kept v c) :
    Kept v (Chip.showStream c s running susp) := by
  unfold Machine.Chip.showStream
  with_reducible repeat' first
    | assumption
    | (extract_lets +onlyGivenNames y; first | (refine Kept.have_ (v := v) (x := y) ?_ ?_; (on_goal 1 => subst y); (on_goal 2 => (intro hy; clear_value y))) | clear_value y)
    | apply Kept.setFlag
    | apply Kept.forN
    | simp only [Kept.upd_iff]
    | (intro _ _ _)
    | (intro _ _)
    | (split; rename_i heq; have hk := congrArg Prod.snd heq; subst hk)
    | split

theorem Kept.stopStream {v : Held} {c : Chip} {s : ℕ} (hc : Kept v c) :
    Kept v (Chip.stopStream c s) := by
  unfold Machine.Chip.stopStream
  with_reducible repeat' first
    | assumption
    | (extract_lets +onlyGivenNames y; first | (refine Kept.have_ (v := v) (x := y) ?_ ?_; (on_goal 1 => subst y); (on_goal 2 => (intro hy; clear_value y))) | clear_value y)
    | apply Kept.showStream
    | apply Kept.setFlag
    | apply Kept.setStream
    | apply Kept.forN
    | simp only [Kept.upd_iff]
    | (intro _ _ _)
    | (intro _ _)
    | (split; rename_i heq; have hk := congrArg Prod.snd heq; subst hk)
    | split

theorem Kept.recheckStream {v : Held} {c : Chip} {n : ℕ} {s : ℕ} (hc : Kept v c) :
    Kept v (Chip.recheckStream c n s) := by
  unfold Machine.Chip.recheckStream
  with_reducible repeat' first
    | assumption
    | (extract_lets +onlyGivenNames y; first | (refine Kept.have_ (v := v) (x := y) ?_ ?_; (on_goal 1 => subst y); (on_goal 2 => (intro hy; clear_value y))) | clear_value y)
    | apply Kept.setStream
    | apply Kept.raiseEv
    | apply Kept.showStream
    | apply Kept.forN
    | simp only [Kept.upd_iff]
    | (intro _ _ _)
    | (intro _ _)
    | (split; rename_i heq; have hk := congrArg Prod.snd heq; subst hk)
    | split

theorem Kept.streamEnable {v : Held} {acc : Access} {s : ℕ} {x2 : ℕ} {c : Chip} (hc : Kept v c) :
    Kept v (streamEnable acc s x2 c) := by
  unfold Machine.streamEnable
  with_reducible repeat' first
    | assumption
    | (extract_lets +onlyGivenNames y; first | (refine Kept.have_ (v := v) (x := y) ?_ ?_; (on_goal 1 => subst y); (on_goal 2 => (intro hy; clear_value y))) | clear_value y)
    | apply Kept.write
    | apply Kept.setFlag
    | apply Kept.stopStream
    | apply Kept.put
    | apply Kept.raiseEv
    | apply Kept.setStream
    | apply Kept.forN
    | simp only [Kept.upd_iff]
    | (intro _ _ _)
    | (intro _ _)
    | (split; rename_i heq; have hk := congrArg Prod.snd heq; subst hk)
    | split

theorem Kept.waveformEdge {v : Held} {c : Chip} (hc : Kept v c) :
    Kept v (Chip.waveformEdge c) := by
  unfold Machine.Chip.waveformEdge
  with_reducible repeat' first
    | assumption
    | (extract_lets +onlyGivenNames y; first | (refine Kept.have_ (v := v) (x := y) ?_ ?_; (on_goal 1 => subst y); (on_goal 2 => (intro hy; clear_value y))) | clear_value y)
    | apply Kept.setStream
    | apply Kept.forN
    | simp only [Kept.upd_iff]
    | (intro _ _ _)
    | (intro _ _)
    | (split; rename_i heq; have hk := congrArg Prod.snd heq; subst hk)
    | split

theorem Kept.rawEdge {v : Held} {c : Chip} {inp : StrideInputs} (hc : Kept v c) :
    Kept v (Chip.rawEdge c inp) := by
  unfold Machine.Chip.rawEdge
  with_reducible repeat' first
    | assumption
    | (extract_lets +onlyGivenNames y; first | (refine Kept.have_ (v := v) (x := y) ?_ ?_; (on_goal 1 => subst y); (on_goal 2 => (intro hy; clear_value y))) | clear_value y)
    | apply Kept.setStream
    | apply Kept.forN
    | simp only [Kept.upd_iff]
    | apply Kept.foldl
    | apply Kept.foldl_pair
    | (intro _ _ _)
    | (intro _ _)
    | (split; rename_i heq; have hk := congrArg Prod.snd heq; subst hk)
    | split

theorem Kept.streamEdge {v : Held} {c : Chip} {inp : StrideInputs} {s : ℕ} (hc : Kept v c) :
    Kept v (Chip.streamEdge c inp s) := by
  unfold Machine.Chip.streamEdge
  with_reducible repeat' first
    | assumption
    | (extract_lets +onlyGivenNames y; first | (refine Kept.have_ (v := v) (x := y) ?_ ?_; (on_goal 1 => subst y); (on_goal 2 => (intro hy; clear_value y))) | clear_value y)
    | apply Kept.raiseEv
    | apply Kept.showStream
    | apply Kept.setStream
    | apply Kept.waveformEdge
    | apply Kept.rawEdge
    | apply Kept.forN
    | simp only [Kept.upd_iff]
    | (intro _ _ _)
    | (intro _ _)
    | (split; rename_i heq; have hk := congrArg Prod.snd heq; subst hk)
    | split

theorem Kept.streamFrameSend {v : Held} {s : Nat} {c : Chip} (hc : Kept v c) :
    Kept v (streamFrameSend s c) := by
  unfold Machine.streamFrameSend
  with_reducible repeat' first
    | assumption
    | (extract_lets +onlyGivenNames y; first | (refine Kept.have_ (v := v) (x := y) ?_ ?_; (on_goal 1 => subst y); (on_goal 2 => (intro hy; clear_value y))) | clear_value y)
    | apply Kept.inc
    | apply Kept.incSat
    | apply Kept.raiseEv
    | apply Kept.take
    | apply Kept.enqueue
    | apply Kept.setStream
    | apply Kept.forN
    | simp only [Kept.upd_iff]
    | (intro _ _ _)
    | (intro _ _)
    | (split; rename_i heq; have hk := congrArg Prod.snd heq; subst hk)
    | split

theorem Kept.showLinkFault {v : Held} {c : Chip} {n : ℕ} (hc : Kept v c) :
    Kept v (Chip.showLinkFault c n) := by
  unfold Machine.Chip.showLinkFault
  with_reducible repeat' first
    | assumption
    | (extract_lets +onlyGivenNames y; first | (refine Kept.have_ (v := v) (x := y) ?_ ?_; (on_goal 1 => subst y); (on_goal 2 => (intro hy; clear_value y))) | clear_value y)
    | apply Kept.faultIs
    | apply Kept.forN
    | simp only [Kept.upd_iff]
    | (intro _ _ _)
    | (intro _ _)
    | (split; rename_i heq; have hk := congrArg Prod.snd heq; subst hk)
    | split

theorem Kept.setLink {v : Held} {c : Chip} {n : ℕ} {up : Bool} {tenG : Bool} (hc : Kept v c) :
    Kept v (Chip.setLink c n up tenG) := by
  unfold Machine.Chip.setLink
  with_reducible repeat' first
    | assumption
    | (extract_lets +onlyGivenNames y; first | (refine Kept.have_ (v := v) (x := y) ?_ ?_; (on_goal 1 => subst y); (on_goal 2 => (intro hy; clear_value y))) | clear_value y)
    | apply Kept.setFlag
    | apply Kept.forN
    | simp only [Kept.upd_iff]
    | (intro _ _ _)
    | (intro _ _)
    | (split; rename_i heq; have hk := congrArg Prod.snd heq; subst hk)
    | split

theorem Kept.netLinkUp {v : Held} {n : ℕ} {tenG : Bool} {c : Chip} (hc : Kept v c) :
    Kept v (netLinkUp n tenG c) := by
  unfold Machine.netLinkUp
  with_reducible repeat' first
    | assumption
    | (extract_lets +onlyGivenNames y; first | (refine Kept.have_ (v := v) (x := y) ?_ ?_; (on_goal 1 => subst y); (on_goal 2 => (intro hy; clear_value y))) | clear_value y)
    | apply Kept.raiseEv
    | apply Kept.setFlag
    | apply Kept.setLink
    | apply Kept.setNetPort
    | apply Kept.startTx
    | apply Kept.recheckStream
    | apply Kept.showLinkFault
    | apply Kept.forN
    | simp only [Kept.upd_iff]
    | (intro _ _ _)
    | (intro _ _)
    | (split; rename_i heq; have hk := congrArg Prod.snd heq; subst hk)
    | split

theorem Kept.linkDown {v : Held} {c : Chip} {n : ℕ} (hc : Kept v c) (hm : v.mem = none) :
    Kept v (Chip.linkDown c n) := by
  unfold Machine.Chip.linkDown
  with_reducible repeat' first
    | assumption
    | (extract_lets +onlyGivenNames y; first | (refine Kept.have_ (v := v) (x := y) ?_ ?_; (on_goal 1 => subst y); (on_goal 2 => (intro hy; clear_value y))) | clear_value y)
    | apply Kept.showLinkFault
    | apply Kept.raiseEv
    | apply Kept.setLink
    | apply Kept.setNetPort
    | apply Kept.incSat
    | apply Kept.txDone
    | apply Kept.forN
    | simp only [Kept.upd_iff]
    | (intro _ _ _)
    | (intro _ _)
    | (split; rename_i heq; have hk := congrArg Prod.snd heq; subst hk)
    | split

theorem Kept.netLinkDown {v : Held} {n : ℕ} {los : Bool} {c : Chip} (hc : Kept v c) (hm : v.mem = none) :
    Kept v (netLinkDown n los c) := by
  unfold Machine.netLinkDown
  with_reducible repeat' first
    | assumption
    | (extract_lets +onlyGivenNames y; first | (refine Kept.have_ (v := v) (x := y) ?_ ?_; (on_goal 1 => subst y); (on_goal 2 => (intro hy; clear_value y))) | clear_value y)
    | apply Kept.linkDown
    | apply Kept.setFlag
    | apply Kept.forN
    | simp only [Kept.upd_iff]
    | (intro _ _ _)
    | (intro _ _)
    | (split; rename_i heq; have hk := congrArg Prod.snd heq; subst hk)
    | split

theorem Kept.netSpeedTry {v : Held} {n : ℕ} {c : Chip} (hc : Kept v c) :
    Kept v (netSpeedTry n c) := by
  unfold Machine.netSpeedTry
  with_reducible repeat' first
    | assumption
    | (extract_lets +onlyGivenNames y; first | (refine Kept.have_ (v := v) (x := y) ?_ ?_; (on_goal 1 => subst y); (on_goal 2 => (intro hy; clear_value y))) | clear_value y)
    | apply Kept.setNetPort
    | apply Kept.forN
    | simp only [Kept.upd_iff]
    | (intro _ _ _)
    | (intro _ _)
    | (split; rename_i heq; have hk := congrArg Prod.snd heq; subst hk)
    | split

theorem Kept.modAbsChange {v : Held} {n : ℕ} {high : Bool} {c : Chip} (hc : Kept v c) :
    Kept v (modAbsChange n high c) := by
  unfold Machine.modAbsChange
  with_reducible repeat' first
    | assumption
    | (extract_lets +onlyGivenNames y; first | (refine Kept.have_ (v := v) (x := y) ?_ ?_; (on_goal 1 => subst y); (on_goal 2 => (intro hy; clear_value y))) | clear_value y)
    | apply Kept.raiseEv
    | apply Kept.setFlag
    | apply Kept.forN
    | simp only [Kept.upd_iff]
    | (intro _ _ _)
    | (intro _ _)
    | (split; rename_i heq; have hk := congrArg Prod.snd heq; subst hk)
    | split

theorem Kept.rxDrop {v : Held} {c : Chip} {n : ℕ} {f : Fld} (hc : Kept v c) :
    Kept v (Chip.rxDrop c n f) := by
  unfold Machine.Chip.rxDrop
  with_reducible repeat' first
    | assumption
    | (extract_lets +onlyGivenNames y; first | (refine Kept.have_ (v := v) (x := y) ?_ ?_; (on_goal 1 => subst y); (on_goal 2 => (intro hy; clear_value y))) | clear_value y)
    | apply Kept.raiseEv
    | apply Kept.incSat
    | apply Kept.forN
    | simp only [Kept.upd_iff]
    | (intro _ _ _)
    | (intro _ _)
    | (split; rename_i heq; have hk := congrArg Prod.snd heq; subst hk)
    | split

theorem Kept.noteStall {v : Held} {c : Chip} {n : ℕ} (hc : Kept v c) :
    Kept v (Chip.noteStall c n) := by
  unfold Machine.Chip.noteStall
  with_reducible repeat' first
    | assumption
    | (extract_lets +onlyGivenNames y; first | (refine Kept.have_ (v := v) (x := y) ?_ ?_; (on_goal 1 => subst y); (on_goal 2 => (intro hy; clear_value y))) | clear_value y)
    | apply Kept.put
    | apply Kept.setNetPort
    | apply Kept.forN
    | simp only [Kept.upd_iff]
    | (intro _ _ _)
    | (intro _ _)
    | (split; rename_i heq; have hk := congrArg Prod.snd heq; subst hk)
    | split

theorem Kept.enterFifo {v : Held} {c : Chip} {n : ℕ} {f : RxFrame} {x3 : ℕ} (hc : Kept v c) :
    Kept v (Chip.enterFifo c n f x3) := by
  induction x3 generalizing c with
  | zero => exact Kept.rxDrop hc
  | succ m ih =>
    unfold Machine.Chip.enterFifo
    dsimp only
    split
    · exact Kept.setNetPort hc
    · split
      · exact Kept.rxDrop hc
      · split
        · exact ih (Kept.rxDrop (Kept.setNetPort hc))
        · exact Kept.rxDrop hc

theorem Kept.notePdelay {v : Held} {c : Chip} {n : ℕ} {stamp : ℕ} {bs : List ℕ} (hc : Kept v c) :
    Kept v (Chip.notePdelay c n stamp bs) := by
  unfold Machine.Chip.notePdelay
  with_reducible repeat' first
    | assumption
    | (extract_lets +onlyGivenNames y; first | (refine Kept.have_ (v := v) (x := y) ?_ ?_; (on_goal 1 => subst y); (on_goal 2 => (intro hy; clear_value y))) | clear_value y)
    | apply Kept.setNetPort
    | apply Kept.forN
    | simp only [Kept.upd_iff]
    | (intro _ _ _)
    | (intro _ _)
    | (split; rename_i heq; have hk := congrArg Prod.snd heq; subst hk)
    | split

theorem Kept.netFrameReceive {v : Held} {n : Nat} {frame : List Nat} {cyc : Nat} {c : Chip} (hc : Kept v c) :
    Kept v (netFrameReceive n frame cyc c) := by
  unfold Machine.netFrameReceive
  with_reducible repeat' first
    | assumption
    | (extract_lets +onlyGivenNames y; first | (refine Kept.have_ (v := v) (x := y) ?_ ?_; (on_goal 1 => subst y); (on_goal 2 => (intro hy; clear_value y))) | clear_value y)
    | apply Kept.incSat
    | apply Kept.advanceTo
    | apply Kept.take
    | apply Kept.setNetPort
    | apply Kept.startTx
    | apply Kept.rxDrop
    | apply Kept.noteStall
    | apply Kept.enterFifo
    | apply Kept.notePdelay
    | apply Kept.forN
    | simp only [Kept.upd_iff]
    | (intro _ _ _)
    | (intro _ _)
    | (split; rename_i heq; have hk := congrArg Prod.snd heq; subst hk)
    | split

theorem Kept.intoRing {v : Held} {c : Chip} {n : ℕ} {r : ℕ} {f : RxFrame} (hc : Kept v c) (hm : v.mem = none) :
    Kept v (Chip.intoRing c n r f) := by
  unfold Machine.Chip.intoRing
  with_reducible repeat' first
    | assumption
    | (extract_lets +onlyGivenNames y; first | (refine Kept.have_ (v := v) (x := y) ?_ ?_; (on_goal 1 => subst y); (on_goal 2 => (intro hy; clear_value y))) | clear_value y)
    | apply Kept.rxDrop
    | apply Kept.setBytes
    | apply Kept.raiseEv
    | apply Kept.closeDescriptor
    | apply Kept.put
    | apply Kept.forN
    | simp only [Kept.upd_iff]
    | (intro _ _ _)
    | (intro _ _)
    | (split; rename_i heq; have hk := congrArg Prod.snd heq; subst hk)
    | split

theorem Kept.netRingDeliver {v : Held} {n : Nat} {cyc : Nat} {c : Chip} (hc : Kept v c) (hr : v.mram = none) (hm : v.mem = none) :
    Kept v (netRingDeliver n cyc c) := by
  unfold Machine.netRingDeliver
  with_reducible repeat' first
    | assumption
    | (extract_lets +onlyGivenNames y; first | (refine Kept.have_ (v := v) (x := y) ?_ ?_; (on_goal 1 => subst y); (on_goal 2 => (intro hy; clear_value y))) | clear_value y)
    | apply Kept.advanceTo
    | apply Kept.take
    | apply Kept.setNetPort
    | apply Kept.safetyCopy
    | apply Kept.noteStall
    | apply Kept.intoRing
    | apply Kept.forN
    | simp only [Kept.upd_iff]
    | (intro _ _ _)
    | (intro _ _)
    | (split; rename_i heq; have hk := congrArg Prod.snd heq; subst hk)
    | split

theorem Kept.queueDescriptor {v : Held} {c : Chip} {r : ℕ} {i : ℕ} (hc : Kept v c) (hm : v.mem = none) :
    Kept v (Chip.queueDescriptor c r i) := by
  unfold Machine.Chip.queueDescriptor
  with_reducible repeat' first
    | assumption
    | (extract_lets +onlyGivenNames y; first | (refine Kept.have_ (v := v) (x := y) ?_ ?_; (on_goal 1 => subst y); (on_goal 2 => (intro hy; clear_value y))) | clear_value y)
    | apply Kept.setNet
    | apply Kept.txDone
    | apply Kept.enqueue
    | apply Kept.forN
    | simp only [Kept.upd_iff]
    | (intro _ _ _)
    | (intro _ _)
    | (split; rename_i heq; have hk := congrArg Prod.snd heq; subst hk)
    | split

theorem Kept.pumpRing {v : Held} {c : Chip} {r : ℕ} {x2 : ℕ} (hc : Kept v c) (hm : v.mem = none) :
    Kept v (Chip.pumpRing c r x2) := by
  induction x2 generalizing c with
  | zero => exact hc
  | succ n ih =>
    unfold Machine.Chip.pumpRing
    dsimp only
    split
    · exact hc
    · exact ih (Kept.queueDescriptor hc hm)

theorem Kept.netTxTailWrite {v : Held} {acc : Access} {r : ℕ} {x2 : ℕ} {cyc : ℕ} {c : Chip} (hc : Kept v c) (hm : v.mem = none) :
    Kept v (netTxTailWrite acc r x2 cyc c) := by
  unfold Machine.netTxTailWrite
  with_reducible repeat' first
    | assumption
    | (extract_lets +onlyGivenNames y; first | (refine Kept.have_ (v := v) (x := y) ?_ ?_; (on_goal 1 => subst y); (on_goal 2 => (intro hy; clear_value y))) | clear_value y)
    | apply Kept.write
    | apply Kept.advanceTo
    | apply Kept.pumpRing
    | apply Kept.put
    | apply Kept.forN
    | simp only [Kept.upd_iff]
    | (intro _ _ _)
    | (intro _ _)
    | (split; rename_i heq; have hk := congrArg Prod.snd heq; subst hk)
    | split

theorem Kept.netFrameSent {v : Held} {n : ℕ} {cyc : ℕ} {c : Chip} (hc : Kept v c) (hm : v.mem = none) :
    Kept v (netFrameSent n cyc c) := by
  unfold Machine.netFrameSent
  with_reducible repeat' first
    | assumption
    | (extract_lets +onlyGivenNames y; first | (refine Kept.have_ (v := v) (x := y) ?_ ?_; (on_goal 1 => subst y); (on_goal 2 => (intro hy; clear_value y))) | clear_value y)
    | apply Kept.advanceTo
    | apply Kept.startTx
    | apply Kept.setNetPort
    | apply Kept.incSat
    | apply Kept.txDone
    | apply Kept.forN
    | simp only [Kept.upd_iff]
    | (intro _ _ _)
    | (intro _ _)
    | (split; rename_i heq; have hk := congrArg Prod.snd heq; subst hk)
    | split

theorem Kept.failTx {v : Held} {c : Chip} {r : Nat} (hc : Kept v c) (hm : v.mem = none) :
    Kept v (Chip.failTx c r) := by
  unfold Machine.Chip.failTx
  with_reducible repeat' first
    | assumption
    | (extract_lets +onlyGivenNames y; first | (refine Kept.have_ (v := v) (x := y) ?_ ?_; (on_goal 1 => subst y); (on_goal 2 => (intro hy; clear_value y))) | clear_value y)
    | apply Kept.setNet
    | apply Kept.txDone
    | apply Kept.forN
    | simp only [Kept.upd_iff]
    | apply Kept.foldl
    | apply Kept.foldl_pair
    | (intro _ _ _)
    | (intro _ _)
    | (split; rename_i heq; have hk := congrArg Prod.snd heq; subst hk)
    | split

theorem Kept.setRingPlane {v : Held} {c : Chip} {r : Nat} {p : Nat} (hc : Kept v c) (hm : v.mem = none) :
    Kept v (Chip.setRingPlane c r p) := by
  unfold Machine.Chip.setRingPlane
  with_reducible repeat' first
    | assumption
    | (extract_lets +onlyGivenNames y; first | (refine Kept.have_ (v := v) (x := y) ?_ ?_; (on_goal 1 => subst y); (on_goal 2 => (intro hy; clear_value y))) | clear_value y)
    | apply Kept.put
    | apply Kept.setNetPort
    | apply Kept.noteStall
    | apply Kept.failTx
    | apply Kept.forN
    | simp only [Kept.upd_iff]
    | (intro _ _ _)
    | (intro _ _)
    | (split; rename_i heq; have hk := congrArg Prod.snd heq; subst hk)
    | split

theorem Kept.ringPlaneWrite {v : Held} {acc : Access} {r : Nat} {p : Nat} {cyc : Nat} {c : Chip} (hc : Kept v c) (hm : v.mem = none) :
    Kept v (ringPlaneWrite acc r p cyc c) := by
  unfold Machine.ringPlaneWrite
  with_reducible repeat' first
    | assumption
    | (extract_lets +onlyGivenNames y; first | (refine Kept.have_ (v := v) (x := y) ?_ ?_; (on_goal 1 => subst y); (on_goal 2 => (intro hy; clear_value y))) | clear_value y)
    | apply Kept.write
    | apply Kept.advanceTo
    | apply Kept.setRingPlane
    | apply Kept.forN
    | simp only [Kept.upd_iff]
    | (intro _ _ _)
    | (intro _ _)
    | (split; rename_i heq; have hk := congrArg Prod.snd heq; subst hk)
    | split

theorem Kept.netPctrlWritten {v : Held} {c : Chip} {n : Nat} (hc : Kept v c) (hm : v.mem = none) :
    Kept v (Chip.netPctrlWritten c n) := by
  unfold Machine.Chip.netPctrlWritten
  with_reducible repeat' first
    | assumption
    | (extract_lets +onlyGivenNames y; first | (refine Kept.have_ (v := v) (x := y) ?_ ?_; (on_goal 1 => subst y); (on_goal 2 => (intro hy; clear_value y))) | clear_value y)
    | apply Kept.setNetPort
    | apply Kept.showLinkFault
    | apply Kept.linkDown
    | apply Kept.forN
    | simp only [Kept.upd_iff]
    | (intro _ _ _)
    | (intro _ _)
    | (split; rename_i heq; have hk := congrArg Prod.snd heq; subst hk)
    | split

theorem Kept.netCtrlWritten {v : Held} {c : Chip} (hc : Kept v c) (hm : v.mem = none) :
    Kept v (Chip.netCtrlWritten c) := by
  unfold Machine.Chip.netCtrlWritten
  with_reducible repeat' first
    | assumption
    | (extract_lets +onlyGivenNames y; first | (refine Kept.have_ (v := v) (x := y) ?_ ?_; (on_goal 1 => subst y); (on_goal 2 => (intro hy; clear_value y))) | clear_value y)
    | apply Kept.pumpRing
    | apply Kept.startTx
    | apply Kept.forN
    | simp only [Kept.upd_iff]
    | (intro _ _ _)
    | (intro _ _)
    | (split; rename_i heq; have hk := congrArg Prod.snd heq; subst hk)
    | split

theorem Kept.netEdge {v : Held} {c : Chip} {inp : StrideInputs} (hc : Kept v c) :
    Kept v (Chip.netEdge c inp) := by
  unfold Machine.Chip.netEdge
  with_reducible repeat' first
    | assumption
    | (extract_lets +onlyGivenNames y; first | (refine Kept.have_ (v := v) (x := y) ?_ ?_; (on_goal 1 => subst y); (on_goal 2 => (intro hy; clear_value y))) | clear_value y)
    | apply Kept.setNet
    | apply Kept.setNetPort
    | apply Kept.startTx
    | apply Kept.noteStall
    | apply Kept.streamEdge
    | apply Kept.forN
    | simp only [Kept.upd_iff]
    | (intro _ _ _)
    | (intro _ _)
    | (split; rename_i heq; have hk := congrArg Prod.snd heq; subst hk)
    | split

end Sys2Proof.Machine
end

