-- ==== Sys2Proof/Laws/Kept10.lean ====
section
/-! SUPPORT. What the operations of MainsLink, Window, Pair, Views keep. -/

set_option linter.unusedTactic false
set_option linter.unreachableTactic false
set_option linter.unusedSimpArgs false
set_option linter.unusedVariables false

namespace Sys2Proof.Machine

theorem Kept.setMlk {v : Held} {c : Chip} {f : Mains → Mains} (hc : Kept v c) :
    Kept v (Chip.setMlk c f) := by
  unfold Machine.Chip.setMlk
  with_reducible repeat' first
    | assumption
    | (extract_lets +onlyGivenNames y; first | (refine Kept.have_ (v := v) (x := y) ?_ ?_; (on_goal 1 => subst y); (on_goal 2 => (intro hy; clear_value y))) | clear_value y)
    | apply Kept.forN
    | simp only [Kept.upd_iff]
    | (intro _ _ _)
    | (intro _ _)
    | (split; rename_i heq; have hk := congrArg Prod.snd heq; subst hk)
    | split

theorem Kept.checkMains {v : Held} {c : Chip} (hc : Kept v c) :
    Kept v (Chip.checkMains c) := by
  unfold Machine.Chip.checkMains
  with_reducible repeat' first
    | assumption
    | (extract_lets +onlyGivenNames y; first | (refine Kept.have_ (v := v) (x := y) ?_ ?_; (on_goal 1 => subst y); (on_goal 2 => (intro hy; clear_value y))) | clear_value y)
    | apply Kept.put
    | apply Kept.setFlag
    | apply Kept.forN
    | simp only [Kept.upd_iff]
    | (intro _ _ _)
    | (intro _ _)
    | (split; rename_i heq; have hk := congrArg Prod.snd heq; subst hk)
    | split

theorem Kept.setTx {v : Held} {c : Chip} {state : ℕ} (hc : Kept v c) :
    Kept v (Chip.setTx c state) := by
  unfold Machine.Chip.setTx
  with_reducible repeat' first
    | assumption
    | (extract_lets +onlyGivenNames y; first | (refine Kept.have_ (v := v) (x := y) ?_ ?_; (on_goal 1 => subst y); (on_goal 2 => (intro hy; clear_value y))) | clear_value y)
    | apply Kept.setFlag
    | apply Kept.put
    | apply Kept.forN
    | simp only [Kept.upd_iff]
    | (intro _ _ _)
    | (intro _ _)
    | (split; rename_i heq; have hk := congrArg Prod.snd heq; subst hk)
    | split

theorem Kept.newBackoff {v : Held} {c : Chip} (hc : Kept v c) :
    Kept v (Chip.newBackoff c) := by
  unfold Machine.Chip.newBackoff
  with_reducible repeat' first
    | assumption
    | (extract_lets +onlyGivenNames y; first | (refine Kept.have_ (v := v) (x := y) ?_ ?_; (on_goal 1 => subst y); (on_goal 2 => (intro hy; clear_value y))) | clear_value y)
    | apply Kept.draw
    | apply Kept.setMlk
    | apply Kept.forN
    | simp only [Kept.upd_iff]
    | (intro _ _ _)
    | (intro _ _)
    | (split; rename_i heq; have hk := congrArg Prod.snd heq; subst hk)
    | split

theorem Kept.abortTx {v : Held} {c : Chip} (hc : Kept v c) :
    Kept v (Chip.abortTx c) := by
  unfold Machine.Chip.abortTx
  with_reducible repeat' first
    | assumption
    | (extract_lets +onlyGivenNames y; first | (refine Kept.have_ (v := v) (x := y) ?_ ?_; (on_goal 1 => subst y); (on_goal 2 => (intro hy; clear_value y))) | clear_value y)
    | apply Kept.setMlk
    | apply Kept.raiseEv
    | apply Kept.incSat
    | apply Kept.setTx
    | apply Kept.forN
    | simp only [Kept.upd_iff]
    | (intro _ _ _)
    | (intro _ _)
    | (split; rename_i heq; have hk := congrArg Prod.snd heq; subst hk)
    | split

theorem Kept.abortRx {v : Held} {c : Chip} (hc : Kept v c) :
    Kept v (Chip.abortRx c) := by
  unfold Machine.Chip.abortRx
  with_reducible repeat' first
    | assumption
    | (extract_lets +onlyGivenNames y; first | (refine Kept.have_ (v := v) (x := y) ?_ ?_; (on_goal 1 => subst y); (on_goal 2 => (intro hy; clear_value y))) | clear_value y)
    | apply Kept.incSat
    | apply Kept.setFlag
    | apply Kept.setMlk
    | apply Kept.newBackoff
    | apply Kept.forN
    | simp only [Kept.upd_iff]
    | (intro _ _ _)
    | (intro _ _)
    | (split; rename_i heq; have hk := congrArg Prod.snd heq; subst hk)
    | split

theorem Kept.showHalfPeriod {v : Held} {c : Chip} (hc : Kept v c) :
    Kept v (Chip.showHalfPeriod c) := by
  unfold Machine.Chip.showHalfPeriod
  with_reducible repeat' first
    | assumption
    | (extract_lets +onlyGivenNames y; first | (refine Kept.have_ (v := v) (x := y) ?_ ?_; (on_goal 1 => subst y); (on_goal 2 => (intro hy; clear_value y))) | clear_value y)
    | apply Kept.put
    | apply Kept.forN
    | simp only [Kept.upd_iff]
    | apply Kept.foldl
    | apply Kept.foldl_pair
    | (intro _ _ _)
    | (intro _ _)
    | (split; rename_i heq; have hk := congrArg Prod.snd heq; subst hk)
    | split

theorem Kept.startHalf {v : Held} {c : Chip} {ago : ℕ} (hc : Kept v c) :
    Kept v (Chip.startHalf c ago) := by
  unfold Machine.Chip.startHalf
  with_reducible repeat' first
    | assumption
    | (extract_lets +onlyGivenNames y; first | (refine Kept.have_ (v := v) (x := y) ?_ ?_; (on_goal 1 => subst y); (on_goal 2 => (intro hy; clear_value y))) | clear_value y)
    | apply Kept.setMlk
    | apply Kept.forN
    | simp only [Kept.upd_iff]
    | (intro _ _ _)
    | (intro _ _)
    | (split; rename_i heq; have hk := congrArg Prod.snd heq; subst hk)
    | split

theorem Kept.halfCycle {v : Held} {c : Chip} (hc : Kept v c) :
    Kept v (Chip.halfCycle c) := by
  unfold Machine.Chip.halfCycle
  with_reducible repeat' first
    | assumption
    | (extract_lets +onlyGivenNames y; first | (refine Kept.have_ (v := v) (x := y) ?_ ?_; (on_goal 1 => subst y); (on_goal 2 => (intro hy; clear_value y))) | clear_value y)
    | apply Kept.setMlk
    | apply Kept.forN
    | simp only [Kept.upd_iff]
    | (intro _ _ _)
    | (intro _ _)
    | (split; rename_i heq; have hk := congrArg Prod.snd heq; subst hk)
    | split

theorem Kept.gainLock {v : Held} {c : Chip} {t : ℕ} (hc : Kept v c) :
    Kept v (Chip.gainLock c t) := by
  unfold Machine.Chip.gainLock
  with_reducible repeat' first
    | assumption
    | (extract_lets +onlyGivenNames y; first | (refine Kept.have_ (v := v) (x := y) ?_ ?_; (on_goal 1 => subst y); (on_goal 2 => (intro hy; clear_value y))) | clear_value y)
    | apply Kept.put
    | apply Kept.setFlag
    | apply Kept.raiseEv
    | apply Kept.showHalfPeriod
    | apply Kept.startHalf
    | apply Kept.setMlk
    | apply Kept.forN
    | simp only [Kept.upd_iff]
    | apply Kept.foldl
    | apply Kept.foldl_pair
    | (intro _ _ _)
    | (intro _ _)
    | (split; rename_i heq; have hk := congrArg Prod.snd heq; subst hk)
    | split

theorem Kept.loseLock {v : Held} {c : Chip} (hc : Kept v c) :
    Kept v (Chip.loseLock c) := by
  unfold Machine.Chip.loseLock
  with_reducible repeat' first
    | assumption
    | (extract_lets +onlyGivenNames y; first | (refine Kept.have_ (v := v) (x := y) ?_ ?_; (on_goal 1 => subst y); (on_goal 2 => (intro hy; clear_value y))) | clear_value y)
    | apply Kept.abortRx
    | apply Kept.raiseEv
    | apply Kept.setFlag
    | apply Kept.abortTx
    | apply Kept.setMlk
    | apply Kept.forN
    | simp only [Kept.upd_iff]
    | (intro _ _ _)
    | (intro _ _)
    | (split; rename_i heq; have hk := congrArg Prod.snd heq; subst hk)
    | split

theorem Kept.trackEdge {v : Held} {c : Chip} {t : Nat} {spacing : Option Nat} (hc : Kept v c) :
    Kept v (Chip.trackEdge c t spacing) := by
  unfold Machine.Chip.trackEdge
  with_reducible repeat' first
    | assumption
    | (extract_lets +onlyGivenNames y; first | (refine Kept.have_ (v := v) (x := y) ?_ ?_; (on_goal 1 => subst y); (on_goal 2 => (intro hy; clear_value y))) | clear_value y)
    | apply Kept.put
    | apply Kept.take
    | apply Kept.setMlk
    | apply Kept.showHalfPeriod
    | apply Kept.startHalf
    | apply Kept.halfCycle
    | apply Kept.gainLock
    | apply Kept.forN
    | simp only [Kept.upd_iff]
    | (intro _ _ _)
    | (intro _ _)
    | (split; rename_i heq; have hk := congrArg Prod.snd heq; subst hk)
    | split

theorem Kept.mainsZcEdge {v : Held} {x : ℕ} {cyc : ℕ} {c : Chip} (hc : Kept v c) :
    Kept v (mainsZcEdge x cyc c) :=
  Kept.ite (Kept.advanceTo hc) <| Kept.ite (Kept.trackEdge (Kept.ite (Kept.clearFault (Kept.setFlag (Kept.setMlk (Kept.advanceTo hc))))
    (Kept.setMlk (Kept.advanceTo hc)))) (Kept.ite (Kept.clearFault (Kept.setFlag (Kept.setMlk (Kept.advanceTo hc))))
    (Kept.setMlk (Kept.advanceTo hc)))

theorem Kept.zcPredictedCrossing {v : Held} {cyc : ℕ} {c : Chip} (hc : Kept v c) :
    Kept v (zcPredictedCrossing cyc c) := by
  unfold Machine.zcPredictedCrossing
  with_reducible repeat' first
    | assumption
    | (extract_lets +onlyGivenNames y; first | (refine Kept.have_ (v := v) (x := y) ?_ ?_; (on_goal 1 => subst y); (on_goal 2 => (intro hy; clear_value y))) | clear_value y)
    | apply Kept.advanceTo
    | apply Kept.incSat
    | apply Kept.inc
    | apply Kept.startHalf
    | apply Kept.halfCycle
    | apply Kept.setMlk
    | apply Kept.loseLock
    | apply Kept.forN
    | simp only [Kept.upd_iff]
    | (intro _ _ _)
    | (intro _ _)
    | (split; rename_i heq; have hk := congrArg Prod.snd heq; subst hk)
    | split

theorem Kept.zcSenseLoss {v : Held} {x : ℕ} {c : Chip} (hc : Kept v c) :
    Kept v (zcSenseLoss x c) := by
  unfold Machine.zcSenseLoss
  with_reducible repeat' first
    | assumption
    | (extract_lets +onlyGivenNames y; first | (refine Kept.have_ (v := v) (x := y) ?_ ?_; (on_goal 1 => subst y); (on_goal 2 => (intro hy; clear_value y))) | clear_value y)
    | apply Kept.raiseEv
    | apply Kept.setFlag
    | apply Kept.setFault
    | apply Kept.forN
    | simp only [Kept.upd_iff]
    | (intro _ _ _)
    | (intro _ _)
    | (split; rename_i heq; have hk := congrArg Prod.snd heq; subst hk)
    | split

theorem Kept.couplerDriverFault {v : Held} {x : ℕ} {bad : Bool} {c : Chip} (hc : Kept v c) :
    Kept v (couplerDriverFault x bad c) := by
  unfold Machine.couplerDriverFault
  with_reducible repeat' first
    | assumption
    | (extract_lets +onlyGivenNames y; first | (refine Kept.have_ (v := v) (x := y) ?_ ?_; (on_goal 1 => subst y); (on_goal 2 => (intro hy; clear_value y))) | clear_value y)
    | apply Kept.faultIs
    | apply Kept.setFlag
    | apply Kept.raiseEv
    | apply Kept.forN
    | simp only [Kept.upd_iff]
    | (intro _ _ _)
    | (intro _ _)
    | (split; rename_i heq; have hk := congrArg Prod.snd heq; subst hk)
    | split

theorem Kept.showMainsRx {v : Held} {c : Chip} (hc : Kept v c) :
    Kept v (Chip.showMainsRx c) := by
  unfold Machine.Chip.showMainsRx
  with_reducible repeat' first
    | assumption
    | (extract_lets +onlyGivenNames y; first | (refine Kept.have_ (v := v) (x := y) ?_ ?_; (on_goal 1 => subst y); (on_goal 2 => (intro hy; clear_value y))) | clear_value y)
    | apply Kept.put
    | apply Kept.setFlag
    | apply Kept.setRaw
    | apply Kept.take
    | apply Kept.forN
    | simp only [Kept.upd_iff]
    | (intro _ _ _)
    | (intro _ _)
    | (split; rename_i heq; have hk := congrArg Prod.snd heq; subst hk)
    | split

theorem Kept.mainsFrame {v : Held} {c : Chip} {x : ℕ} {d : ℕ} {erased : ℕ} {couplers : ℕ} {stamp : ℕ} {double : Bool} (hc : Kept v c) :
    Kept v (Chip.mainsFrame c x d erased couplers stamp double) := by
  unfold Machine.Chip.mainsFrame
  with_reducible repeat' first
    | assumption
    | (extract_lets +onlyGivenNames y; first | (refine Kept.have_ (v := v) (x := y) ?_ ?_; (on_goal 1 => subst y); (on_goal 2 => (intro hy; clear_value y))) | clear_value y)
    | apply Kept.raiseEv
    | apply Kept.incSat
    | apply Kept.showMainsRx
    | apply Kept.setMlk
    | apply Kept.forN
    | simp only [Kept.upd_iff]
    | (intro _ _ _)
    | (intro _ _)
    | (split; rename_i heq; have hk := congrArg Prod.snd heq; subst hk)
    | split

theorem Kept.couplerCounts {v : Held} {c : Chip} {rx : List MainsCoupler} (hc : Kept v c) :
    Kept v (Chip.couplerCounts c rx) := by
  unfold Machine.Chip.couplerCounts
  with_reducible repeat' first
    | assumption
    | (extract_lets +onlyGivenNames y; first | (refine Kept.have_ (v := v) (x := y) ?_ ?_; (on_goal 1 => subst y); (on_goal 2 => (intro hy; clear_value y))) | clear_value y)
    | apply Kept.putS
    | apply Kept.put
    | apply Kept.forN
    | simp only [Kept.upd_iff]
    | (intro _ _ _)
    | (intro _ _)
    | (split; rename_i heq; have hk := congrArg Prod.snd heq; subst hk)
    | split

theorem Kept.mainsEnd {v : Held} {c : Chip} {rx : List MainsCoupler} {stamp : ℕ} (hc : Kept v c) :
    Kept v (Chip.mainsEnd c rx stamp) := by
  unfold Machine.Chip.mainsEnd
  with_reducible repeat' first
    | assumption
    | (extract_lets +onlyGivenNames y; first | (refine Kept.have_ (v := v) (x := y) ?_ ?_; (on_goal 1 => subst y); (on_goal 2 => (intro hy; clear_value y))) | clear_value y)
    | apply Kept.couplerCounts
    | apply Kept.setFlag
    | apply Kept.setMlk
    | apply Kept.newBackoff
    | apply Kept.mainsFrame
    | apply Kept.forN
    | simp only [Kept.upd_iff]
    | apply Kept.foldl
    | apply Kept.foldl_pair
    | (intro _ _ _)
    | (intro _ _)
    | (split; rename_i heq; have hk := congrArg Prod.snd heq; subst hk)
    | split

theorem Kept.mainsFrameReceive {v : Held} {rx : List MainsCoupler} {cyc : ℕ} {c : Chip} (hc : Kept v c) :
    Kept v (mainsFrameReceive rx cyc c) := by
  unfold Machine.mainsFrameReceive
  with_reducible repeat' first
    | assumption
    | (extract_lets +onlyGivenNames y; first | (refine Kept.have_ (v := v) (x := y) ?_ ?_; (on_goal 1 => subst y); (on_goal 2 => (intro hy; clear_value y))) | clear_value y)
    | apply Kept.advanceTo
    | apply Kept.put
    | apply Kept.setFlag
    | apply Kept.setMlk
    | apply Kept.mainsEnd
    | apply Kept.forN
    | simp only [Kept.upd_iff]
    | (intro _ _ _)
    | (intro _ _)
    | (split; rename_i heq; have hk := congrArg Prod.snd heq; subst hk)
    | split

theorem Kept.mainsRxPop {v : Held} {acc : Access} {x1 : ℕ} {c : Chip} (hc : Kept v c) :
    Kept v (mainsRxPop acc x1 c) := by
  unfold Machine.mainsRxPop
  with_reducible repeat' first
    | assumption
    | (extract_lets +onlyGivenNames y; first | (refine Kept.have_ (v := v) (x := y) ?_ ?_; (on_goal 1 => subst y); (on_goal 2 => (intro hy; clear_value y))) | clear_value y)
    | apply Kept.write
    | apply Kept.showMainsRx
    | apply Kept.setMlk
    | apply Kept.forN
    | simp only [Kept.upd_iff]
    | (intro _ _ _)
    | (intro _ _)
    | (split; rename_i heq; have hk := congrArg Prod.snd heq; subst hk)
    | split

theorem Kept.mainsSend {v : Held} {acc : Access} {w_ : Nat} {c : Chip} (hc : Kept v c) :
    Kept v (mainsSend acc w_ c) := by
  unfold Machine.mainsSend
  with_reducible repeat' first
    | assumption
    | (extract_lets +onlyGivenNames y; first | (refine Kept.have_ (v := v) (x := y) ?_ ?_; (on_goal 1 => subst y); (on_goal 2 => (intro hy; clear_value y))) | clear_value y)
    | apply Kept.put
    | apply Kept.raiseEv
    | apply Kept.write
    | apply Kept.take
    | apply Kept.setMlk
    | apply Kept.setTx
    | apply Kept.newBackoff
    | apply Kept.forN
    | simp only [Kept.upd_iff]
    | (intro _ _ _)
    | (intro _ _)
    | (split; rename_i heq; have hk := congrArg Prod.snd heq; subst hk)
    | split

theorem Kept.abortSend {v : Held} {c : Chip} (hc : Kept v c) :
    Kept v (Chip.abortSend c) := by
  unfold Machine.Chip.abortSend
  with_reducible repeat' first
    | assumption
    | (extract_lets +onlyGivenNames y; first | (refine Kept.have_ (v := v) (x := y) ?_ ?_; (on_goal 1 => subst y); (on_goal 2 => (intro hy; clear_value y))) | clear_value y)
    | apply Kept.setMlk
    | apply Kept.abortTx
    | apply Kept.forN
    | simp only [Kept.upd_iff]
    | (intro _ _ _)
    | (intro _ _)
    | (split; rename_i heq; have hk := congrArg Prod.snd heq; subst hk)
    | split

theorem Kept.abortDue {v : Held} {c : Chip} (hc : Kept v c) :
    Kept v (Chip.abortDue c) := by
  unfold Machine.Chip.abortDue
  with_reducible repeat' first
    | assumption
    | (extract_lets +onlyGivenNames y; first | (refine Kept.have_ (v := v) (x := y) ?_ ?_; (on_goal 1 => subst y); (on_goal 2 => (intro hy; clear_value y))) | clear_value y)
    | apply Kept.setMlk
    | apply Kept.abortTx
    | apply Kept.forN
    | simp only [Kept.upd_iff]
    | (intro _ _ _)
    | (intro _ _)
    | (split; rename_i heq; have hk := congrArg Prod.snd heq; subst hk)
    | split

theorem Kept.mainsAbort {v : Held} {acc : Access} {w_ : Nat} {c : Chip} (hc : Kept v c) :
    Kept v (mainsAbort acc w_ c) := by
  unfold Machine.mainsAbort
  with_reducible repeat' first
    | assumption
    | (extract_lets +onlyGivenNames y; first | (refine Kept.have_ (v := v) (x := y) ?_ ?_; (on_goal 1 => subst y); (on_goal 2 => (intro hy; clear_value y))) | clear_value y)
    | apply Kept.write
    | apply Kept.abortSend
    | apply Kept.forN
    | simp only [Kept.upd_iff]
    | (intro _ _ _)
    | (intro _ _)
    | (split; rename_i heq; have hk := congrArg Prod.snd heq; subst hk)
    | split

theorem Kept.mainsTxStart {v : Held} {bandBusy : Bool} {c : Chip} (hc : Kept v c) :
    Kept v (mainsTxStart bandBusy c) := by
  unfold Machine.mainsTxStart
  with_reducible repeat' first
    | assumption
    | (extract_lets +onlyGivenNames y; first | (refine Kept.have_ (v := v) (x := y) ?_ ?_; (on_goal 1 => subst y); (on_goal 2 => (intro hy; clear_value y))) | clear_value y)
    | apply Kept.setFlag
    | apply Kept.setMlk
    | apply Kept.put
    | apply Kept.setTx
    | apply Kept.forN
    | simp only [Kept.upd_iff]
    | (intro _ _ _)
    | (intro _ _)
    | (split; rename_i heq; have hk := congrArg Prod.snd heq; subst hk)
    | split

theorem Kept.mainsTxDone {v : Held} {c : Chip} (hc : Kept v c) :
    Kept v (mainsTxDone c) := by
  unfold Machine.mainsTxDone
  with_reducible repeat' first
    | assumption
    | (extract_lets +onlyGivenNames y; first | (refine Kept.have_ (v := v) (x := y) ?_ ?_; (on_goal 1 => subst y); (on_goal 2 => (intro hy; clear_value y))) | clear_value y)
    | apply Kept.incSat
    | apply Kept.raiseEv
    | apply Kept.setMlk
    | apply Kept.setTx
    | apply Kept.abortDue
    | apply Kept.forN
    | simp only [Kept.upd_iff]
    | (intro _ _ _)
    | (intro _ _)
    | (split; rename_i heq; have hk := congrArg Prod.snd heq; subst hk)
    | split

theorem Kept.fixMains {v : Held} {c : Chip} (hc : Kept v c) :
    Kept v (Chip.fixMains c) := by
  unfold Machine.Chip.fixMains
  with_reducible repeat' first
    | assumption
    | (extract_lets +onlyGivenNames y; first | (refine Kept.have_ (v := v) (x := y) ?_ ?_; (on_goal 1 => subst y); (on_goal 2 => (intro hy; clear_value y))) | clear_value y)
    | apply Kept.setFlag
    | apply Kept.forN
    | simp only [Kept.upd_iff]
    | (intro _ _ _)
    | (intro _ _)
    | (split; rename_i heq; have hk := congrArg Prod.snd heq; subst hk)
    | split

theorem Kept.restTracker {v : Held} {c : Chip} (hc : Kept v c) :
    Kept v (Chip.restTracker c) := by
  unfold Machine.Chip.restTracker
  with_reducible repeat' first
    | assumption
    | (extract_lets +onlyGivenNames y; first | (refine Kept.have_ (v := v) (x := y) ?_ ?_; (on_goal 1 => subst y); (on_goal 2 => (intro hy; clear_value y))) | clear_value y)
    | apply Kept.setMlk
    | apply Kept.loseLock
    | apply Kept.forN
    | simp only [Kept.upd_iff]
    | (intro _ _ _)
    | (intro _ _)
    | (split; rename_i heq; have hk := congrArg Prod.snd heq; subst hk)
    | split

theorem Kept.mainsWritten {v : Held} {c : Chip} (hc : Kept v c) :
    Kept v (Chip.mainsWritten c) := by
  unfold Machine.Chip.mainsWritten
  with_reducible repeat' first
    | assumption
    | (extract_lets +onlyGivenNames y; first | (refine Kept.have_ (v := v) (x := y) ?_ ?_; (on_goal 1 => subst y); (on_goal 2 => (intro hy; clear_value y))) | clear_value y)
    | apply Kept.clearFault
    | apply Kept.checkMains
    | apply Kept.abortTx
    | apply Kept.abortRx
    | apply Kept.fixMains
    | apply Kept.restTracker
    | apply Kept.forN
    | simp only [Kept.upd_iff]
    | (intro _ _ _)
    | (intro _ _)
    | (split; rename_i heq; have hk := congrArg Prod.snd heq; subst hk)
    | split

theorem Kept.mainsEdge {v : Held} {c : Chip} (hc : Kept v c) :
    Kept v (Chip.mainsEdge c) := by
  unfold Machine.Chip.mainsEdge
  with_reducible repeat' first
    | assumption
    | (extract_lets +onlyGivenNames y; first | (refine Kept.have_ (v := v) (x := y) ?_ ?_; (on_goal 1 => subst y); (on_goal 2 => (intro hy; clear_value y))) | clear_value y)
    | apply Kept.faultIs
    | apply Kept.setMlk
    | apply Kept.abortTx
    | apply Kept.abortDue
    | apply Kept.forN
    | simp only [Kept.upd_iff]
    | (intro _ _ _)
    | (intro _ _)
    | (split; rename_i heq; have hk := congrArg Prod.snd heq; subst hk)
    | split

theorem Kept.formDigest {v : Held} {c : Chip} (hc : Kept v c) :
    Kept v (Chip.formDigest c) := by
  unfold Machine.Chip.formDigest
  with_reducible repeat' first
    | assumption
    | (extract_lets +onlyGivenNames y; first | (refine Kept.have_ (v := v) (x := y) ?_ ?_; (on_goal 1 => subst y); (on_goal 2 => (intro hy; clear_value y))) | clear_value y)
    | apply Kept.put64
    | apply Kept.take
    | apply Kept.forN
    | simp only [Kept.upd_iff]
    | (intro _ _ _)
    | (intro _ _)
    | (split; rename_i heq; have hk := congrArg Prod.snd heq; subst hk)
    | split

theorem Kept.creditHandover {v : Held} {c : Chip} (hc : Kept v c) :
    Kept v (Chip.creditHandover c) := by
  unfold Machine.Chip.creditHandover
  with_reducible repeat' first
    | assumption
    | (extract_lets +onlyGivenNames y; first | (refine Kept.have_ (v := v) (x := y) ?_ ?_; (on_goal 1 => subst y); (on_goal 2 => (intro hy; clear_value y))) | clear_value y)
    | apply Kept.journal
    | apply Kept.creditEnergy
    | apply Kept.forN
    | simp only [Kept.upd_iff]
    | apply Kept.foldl
    | apply Kept.foldl_pair
    | (intro _ _ _)
    | (intro _ _)
    | (split; rename_i heq; have hk := congrArg Prod.snd heq; subst hk)
    | split

theorem Kept.ledgerWindow {v : Held} {c : Chip} {row : LedgerRow} {l : Nat} (hc : Kept v c) :
    Kept v (Chip.ledgerWindow c row l) := by
  unfold Machine.Chip.ledgerWindow
  with_reducible repeat' first
    | assumption
    | (extract_lets +onlyGivenNames y; first | (refine Kept.have_ (v := v) (x := y) ?_ ?_; (on_goal 1 => subst y); (on_goal 2 => (intro hy; clear_value y))) | clear_value y)
    | apply Kept.setFlag
    | apply Kept.meterLedger
    | apply Kept.settleRegisters
    | apply Kept.qualityStride
    | apply Kept.noteTouch
    | apply Kept.setTrf
    | apply Kept.lookupNext
    | apply Kept.setDmd
    | apply Kept.showDemand
    | apply Kept.demandEdge
    | apply Kept.billingDues
    | apply Kept.formDigest
    | apply Kept.creditHandover
    | apply Kept.forN
    | simp only [Kept.upd_iff]
    | (intro _ _ _)
    | (intro _ _)
    | (split; rename_i heq; have hk := congrArg Prod.snd heq; subst hk)
    | split

theorem Kept.ownWindow {v : Held} {c : Chip} (hc : Kept v c) :
    Kept v (Chip.ownWindow c) := by
  unfold Machine.Chip.ownWindow
  with_reducible repeat' first
    | assumption
    | (extract_lets +onlyGivenNames y; first | (refine Kept.have_ (v := v) (x := y) ?_ ?_; (on_goal 1 => subst y); (on_goal 2 => (intro hy; clear_value y))) | clear_value y)
    | apply Kept.ledgerWindow
    | apply Kept.setLedger
    | apply Kept.forN
    | simp only [Kept.upd_iff]
    | (intro _ _ _)
    | (intro _ _)
    | (split; rename_i heq; have hk := congrArg Prod.snd heq; subst hk)
    | split

theorem Kept.nearWindow {v : Held} {c : Chip} {x1 : ℕ} {invalid : Bool} (hc : Kept v c) :
    Kept v (Chip.nearWindow c x1 invalid) := by
  unfold Machine.Chip.nearWindow
  with_reducible repeat' first
    | assumption
    | (extract_lets +onlyGivenNames y; first | (refine Kept.have_ (v := v) (x := y) ?_ ?_; (on_goal 1 => subst y); (on_goal 2 => (intro hy; clear_value y))) | clear_value y)
    | apply Kept.ledgerWindow
    | apply Kept.setLedger
    | apply Kept.forN
    | simp only [Kept.upd_iff]
    | (intro _ _ _)
    | (intro _ _)
    | (split; rename_i heq; have hk := congrArg Prod.snd heq; subst hk)
    | split

theorem Kept.loneWindow {v : Held} {c : Chip} (hc : Kept v c) :
    Kept v (Chip.loneWindow c) := by
  unfold Machine.Chip.loneWindow
  with_reducible repeat' first
    | assumption
    | (extract_lets +onlyGivenNames y; first | (refine Kept.have_ (v := v) (x := y) ?_ ?_; (on_goal 1 => subst y); (on_goal 2 => (intro hy; clear_value y))) | clear_value y)
    | apply Kept.nearWindow
    | apply Kept.forN
    | simp only [Kept.upd_iff]
    | (intro _ _ _)
    | (intro _ _)
    | (split; rename_i heq; have hk := congrArg Prod.snd heq; subst hk)
    | split

theorem Kept.setPair {v : Held} {c : Chip} {f : Pair → Pair} (hc : Kept v c) :
    Kept v (Chip.setPair c f) := by
  unfold Machine.Chip.setPair
  with_reducible repeat' first
    | assumption
    | (extract_lets +onlyGivenNames y; first | (refine Kept.have_ (v := v) (x := y) ?_ ?_; (on_goal 1 => subst y); (on_goal 2 => (intro hy; clear_value y))) | clear_value y)
    | apply Kept.forN
    | simp only [Kept.upd_iff]
    | (intro _ _ _)
    | (intro _ _)
    | (split; rename_i heq; have hk := congrArg Prod.snd heq; subst hk)
    | split

theorem Kept.pairFault {v : Held} {c : Chip} {bit_ : ℕ} {b : Bool} (hc : Kept v c) :
    Kept v (Chip.pairFault c bit_ b) := by
  unfold Machine.Chip.pairFault
  with_reducible repeat' first
    | assumption
    | (extract_lets +onlyGivenNames y; first | (refine Kept.have_ (v := v) (x := y) ?_ ?_; (on_goal 1 => subst y); (on_goal 2 => (intro hy; clear_value y))) | clear_value y)
    | apply Kept.faultIs
    | apply Kept.forN
    | simp only [Kept.upd_iff]
    | (intro _ _ _)
    | (intro _ _)
    | (split; rename_i heq; have hk := congrArg Prod.snd heq; subst hk)
    | split

theorem Kept.endJoin {v : Held} {c : Chip} (hc : Kept v c) :
    Kept v (Chip.endJoin c) := by
  unfold Machine.Chip.endJoin
  with_reducible repeat' first
    | assumption
    | (extract_lets +onlyGivenNames y; first | (refine Kept.have_ (v := v) (x := y) ?_ ?_; (on_goal 1 => subst y); (on_goal 2 => (intro hy; clear_value y))) | clear_value y)
    | apply Kept.setPair
    | apply Kept.setFlag
    | apply Kept.forN
    | simp only [Kept.upd_iff]
    | (intro _ _ _)
    | (intro _ _)
    | (split; rename_i heq; have hk := congrArg Prod.snd heq; subst hk)
    | split

theorem Kept.roleOutputs {v : Held} {c : Chip} (hc : Kept v c) :
    Kept v (Chip.roleOutputs c) := by
  unfold Machine.Chip.roleOutputs
  with_reducible repeat' first
    | assumption
    | (extract_lets +onlyGivenNames y; first | (refine Kept.have_ (v := v) (x := y) ?_ ?_; (on_goal 1 => subst y); (on_goal 2 => (intro hy; clear_value y))) | clear_value y)
    | apply Kept.canRole
    | apply Kept.settleLoad
    | apply Kept.settlePort
    | apply Kept.settleSafety
    | apply Kept.forN
    | simp only [Kept.upd_iff]
    | (intro _ _ _)
    | (intro _ _)
    | (split; rename_i heq; have hk := congrArg Prod.snd heq; subst hk)
    | split

theorem Kept.settleRole {v : Held} {c : Chip} (hc : Kept v c) :
    Kept v (Chip.settleRole c) := by
  unfold Machine.Chip.settleRole
  with_reducible repeat' first
    | assumption
    | (extract_lets +onlyGivenNames y; first | (refine Kept.have_ (v := v) (x := y) ?_ ?_; (on_goal 1 => subst y); (on_goal 2 => (intro hy; clear_value y))) | clear_value y)
    | apply Kept.put
    | apply Kept.setFlag
    | apply Kept.raiseEv
    | apply Kept.pairFault
    | apply Kept.endJoin
    | apply Kept.roleOutputs
    | apply Kept.forN
    | simp only [Kept.upd_iff]
    | (intro _ _ _)
    | (intro _ _)
    | (split; rename_i heq; have hk := congrArg Prod.snd heq; subst hk)
    | split

theorem Kept.pairSelChange {v : Held} {level : Bool} {c : Chip} (hc : Kept v c) :
    Kept v (pairSelChange level c) := by
  unfold Machine.pairSelChange
  with_reducible repeat' first
    | assumption
    | (extract_lets +onlyGivenNames y; first | (refine Kept.have_ (v := v) (x := y) ?_ ?_; (on_goal 1 => subst y); (on_goal 2 => (intro hy; clear_value y))) | clear_value y)
    | apply Kept.settleRole
    | apply Kept.setPair
    | apply Kept.forN
    | simp only [Kept.upd_iff]
    | (intro _ _ _)
    | (intro _ _)
    | (split; rename_i heq; have hk := congrArg Prod.snd heq; subst hk)
    | split

theorem Kept.showTwin {v : Held} {c : Chip} {t : TwinReport} (hc : Kept v c) :
    Kept v (Chip.showTwin c t) := by
  unfold Machine.Chip.showTwin
  with_reducible repeat' first
    | assumption
    | (extract_lets +onlyGivenNames y; first | (refine Kept.have_ (v := v) (x := y) ?_ ?_; (on_goal 1 => subst y); (on_goal 2 => (intro hy; clear_value y))) | clear_value y)
    | apply Kept.put
    | apply Kept.take
    | apply Kept.forN
    | simp only [Kept.upd_iff]
    | (intro _ _ _)
    | (intro _ _)
    | (split; rename_i heq; have hk := congrArg Prod.snd heq; subst hk)
    | split

theorem Kept.refuseTwin {v : Held} {c : Chip} {t : TwinReport} (hc : Kept v c) :
    Kept v (Chip.refuseTwin c t) := by
  unfold Machine.Chip.refuseTwin
  with_reducible repeat' first
    | assumption
    | (extract_lets +onlyGivenNames y; first | (refine Kept.have_ (v := v) (x := y) ?_ ?_; (on_goal 1 => subst y); (on_goal 2 => (intro hy; clear_value y))) | clear_value y)
    | apply Kept.pairFault
    | apply Kept.setFlag
    | apply Kept.forN
    | simp only [Kept.upd_iff]
    | (intro _ _ _)
    | (intro _ _)
    | (split; rename_i heq; have hk := congrArg Prod.snd heq; subst hk)
    | split

theorem Kept.claimNear {v : Held} {c : Chip} (hc : Kept v c) :
    Kept v (Chip.claimNear c) := by
  unfold Machine.Chip.claimNear
  with_reducible repeat' first
    | assumption
    | (extract_lets +onlyGivenNames y; first | (refine Kept.have_ (v := v) (x := y) ?_ ?_; (on_goal 1 => subst y); (on_goal 2 => (intro hy; clear_value y))) | clear_value y)
    | apply Kept.setPair
    | apply Kept.forN
    | simp only [Kept.upd_iff]
    | (intro _ _ _)
    | (intro _ _)
    | (split; rename_i heq; have hk := congrArg Prod.snd heq; subst hk)
    | split

theorem Kept.roleDecision {v : Held} {twin : Option TwinReport} {c : Chip} (hc : Kept v c) :
    Kept v (roleDecision twin c) := by
  unfold Machine.roleDecision
  with_reducible repeat' first
    | assumption
    | (extract_lets +onlyGivenNames y; first | (refine Kept.have_ (v := v) (x := y) ?_ ?_; (on_goal 1 => subst y); (on_goal 2 => (intro hy; clear_value y))) | clear_value y)
    | apply Kept.setFlag
    | apply Kept.setPair
    | apply Kept.pairFault
    | apply Kept.settleRole
    | apply Kept.showTwin
    | apply Kept.refuseTwin
    | apply Kept.claimNear
    | apply Kept.forN
    | simp only [Kept.upd_iff]
    | (intro _ _ _)
    | (intro _ _)
    | (split; rename_i heq; have hk := congrArg Prod.snd heq; subst hk)
    | split

theorem Kept.agreeOn {v : Held} {c : Chip} {j : Nat} (hc : Kept v c) :
    Kept v (Chip.agreeOn c j) := by
  unfold Machine.Chip.agreeOn
  with_reducible repeat' first
    | assumption
    | (extract_lets +onlyGivenNames y; first | (refine Kept.have_ (v := v) (x := y) ?_ ?_; (on_goal 1 => subst y); (on_goal 2 => (intro hy; clear_value y))) | clear_value y)
    | apply Kept.put64
    | apply Kept.setPair
    | apply Kept.forN
    | simp only [Kept.upd_iff]
    | (intro _ _ _)
    | (intro _ _)
    | (split; rename_i heq; have hk := congrArg Prod.snd heq; subst hk)
    | split

theorem Kept.beginRebuild {v : Held} {c : Chip} (hc : Kept v c) :
    Kept v (Chip.beginRebuild c) := by
  unfold Machine.Chip.beginRebuild
  with_reducible repeat' first
    | assumption
    | (extract_lets +onlyGivenNames y; first | (refine Kept.have_ (v := v) (x := y) ?_ ?_; (on_goal 1 => subst y); (on_goal 2 => (intro hy; clear_value y))) | clear_value y)
    | apply Kept.setFlag
    | apply Kept.setPair
    | apply Kept.agreeOn
    | apply Kept.forN
    | simp only [Kept.upd_iff]
    | (intro _ _ _)
    | (intro _ _)
    | (split; rename_i heq; have hk := congrArg Prod.snd heq; subst hk)
    | split

theorem Kept.beginResync {v : Held} {c : Chip} (hc : Kept v c) :
    Kept v (Chip.beginResync c) := by
  unfold Machine.Chip.beginResync
  with_reducible repeat' first
    | assumption
    | (extract_lets +onlyGivenNames y; first | (refine Kept.have_ (v := v) (x := y) ?_ ?_; (on_goal 1 => subst y); (on_goal 2 => (intro hy; clear_value y))) | clear_value y)
    | apply Kept.setPair
    | apply Kept.beginRebuild
    | apply Kept.forN
    | simp only [Kept.upd_iff]
    | (intro _ _ _)
    | (intro _ _)
    | (split; rename_i heq; have hk := congrArg Prod.snd heq; subst hk)
    | split

theorem Kept.join {v : Held} {stride : Nat} {delays : List Nat} {c : Chip} (hc : Kept v c) :
    Kept v (join stride delays c) := by
  unfold Machine.join
  with_reducible repeat' first
    | assumption
    | (extract_lets +onlyGivenNames y; first | (refine Kept.have_ (v := v) (x := y) ?_ ?_; (on_goal 1 => subst y); (on_goal 2 => (intro hy; clear_value y))) | clear_value y)
    | apply Kept.put
    | apply Kept.setFlag
    | apply Kept.loadNext
    | apply Kept.settleElement
    | apply Kept.setPair
    | apply Kept.settleRole
    | apply Kept.forN
    | simp only [Kept.upd_iff]
    | (intro _ _ _)
    | (intro _ _)
    | (split; rename_i heq; have hk := congrArg Prod.snd heq; subst hk)
    | split

theorem Kept.joinMarkCapture {v : Held} {c : Chip} (hc : Kept v c) :
    Kept v (joinMarkCapture c) := by
  unfold Machine.joinMarkCapture
  with_reducible repeat' first
    | assumption
    | (extract_lets +onlyGivenNames y; first | (refine Kept.have_ (v := v) (x := y) ?_ ?_; (on_goal 1 => subst y); (on_goal 2 => (intro hy; clear_value y))) | clear_value y)
    | apply Kept.setPair
    | apply Kept.forN
    | simp only [Kept.upd_iff]
    | (intro _ _ _)
    | (intro _ _)
    | (split; rename_i heq; have hk := congrArg Prod.snd heq; subst hk)
    | split

theorem Kept.joinApply {v : Held} {near : TwinImage} {frame : TwinImage} {c : Chip} (hc : Kept v c) :
    Kept v (joinApply near frame c) := by
  unfold Machine.joinApply
  with_reducible repeat' first
    | assumption
    | (extract_lets +onlyGivenNames y; first | (refine Kept.have_ (v := v) (x := y) ?_ ?_; (on_goal 1 => subst y); (on_goal 2 => (intro hy; clear_value y))) | clear_value y)
    | apply Kept.put
    | apply Kept.putS
    | apply Kept.setMeter
    | apply Kept.showLog
    | apply Kept.modElem
    | apply Kept.noteRegisters
    | apply Kept.setTrf
    | apply Kept.setDmd
    | apply Kept.setPair
    | apply Kept.forN
    | simp only [Kept.upd_iff]
    | apply Kept.foldl
    | apply Kept.foldl_pair
    | (intro _ _ _)
    | (intro _ _)
    | (split; rename_i heq; have hk := congrArg Prod.snd heq; subst hk)
    | split

theorem Kept.flagMeters {v : Held} {c : Chip} {code : ℕ} {b : Bool} (hc : Kept v c) :
    Kept v (Chip.flagMeters c code b) := by
  unfold Machine.Chip.flagMeters
  with_reducible repeat' first
    | assumption
    | (extract_lets +onlyGivenNames y; first | (refine Kept.have_ (v := v) (x := y) ?_ ?_; (on_goal 1 => subst y); (on_goal 2 => (intro hy; clear_value y))) | clear_value y)
    | apply Kept.faultIs
    | apply Kept.forN
    | simp only [Kept.upd_iff]
    | (intro _ _ _)
    | (intro _ _)
    | (split; rename_i heq; have hk := congrArg Prod.snd heq; subst hk)
    | split

theorem Kept.joinComplete {v : Held} {c : Chip} (hc : Kept v c) :
    Kept v (Chip.joinComplete c) := by
  unfold Machine.Chip.joinComplete
  with_reducible repeat' first
    | assumption
    | (extract_lets +onlyGivenNames y; first | (refine Kept.have_ (v := v) (x := y) ?_ ?_; (on_goal 1 => subst y); (on_goal 2 => (intro hy; clear_value y))) | clear_value y)
    | apply Kept.put
    | apply Kept.setFlag
    | apply Kept.raiseEv
    | apply Kept.clearFault
    | apply Kept.eachMeter
    | apply Kept.setPair
    | apply Kept.pairFault
    | apply Kept.flagMeters
    | apply Kept.forN
    | simp only [Kept.upd_iff]
    | (intro _ _ _)
    | (intro _ _)
    | (split; rename_i heq; have hk := congrArg Prod.snd heq; subst hk)
    | split

theorem Kept.becomeNear {v : Held} {c : Chip} {t : Nat} (hc : Kept v c) :
    Kept v (Chip.becomeNear c t) := by
  unfold Machine.Chip.becomeNear
  with_reducible repeat' first
    | assumption
    | (extract_lets +onlyGivenNames y; first | (refine Kept.have_ (v := v) (x := y) ?_ ?_; (on_goal 1 => subst y); (on_goal 2 => (intro hy; clear_value y))) | clear_value y)
    | apply Kept.put
    | apply Kept.setFlag
    | apply Kept.put64
    | apply Kept.raiseEv
    | apply Kept.modDisplay
    | apply Kept.setPair
    | apply Kept.roleOutputs
    | apply Kept.forN
    | simp only [Kept.upd_iff]
    | apply Kept.foldl
    | apply Kept.foldl_pair
    | (intro _ _ _)
    | (intro _ _)
    | (split; rename_i heq; have hk := congrArg Prod.snd heq; subst hk)
    | split

theorem Kept.takeover {v : Held} {c : Chip} (hc : Kept v c) :
    Kept v (takeover c) := by
  unfold Machine.takeover
  split
  · exact hc
  · split
    · exact hc
    · have h1 : Kept v (c.becomeNear c.nextStride) := Kept.becomeNear hc
      refine Kept.raiseEv (Kept.setFault ?_)
      have step : ∀ d : Chip, Kept v d → Kept v (if d.rd HRN_CMD_ST_state = 1 then d.put HRN_CMD_ST_state 2 else d) := by
        intro d hd; split
        · exact Kept.put hd
        · exact hd
      refine step _ (Kept.setPair (Kept.setFlag (Kept.setFlag ?_)))
      split
      · exact Kept.flagMeters (Kept.pairFault (Kept.setFlag (Kept.incSat h1)))
      · exact Kept.incSat h1

theorem Kept.decideTakeover {v : Held} {c : Chip} {unverified : Bool} (hc : Kept v c) :
    Kept v (Chip.decideTakeover c unverified) := by
  unfold Machine.Chip.decideTakeover
  with_reducible repeat' first
    | assumption
    | (extract_lets +onlyGivenNames y; first | (refine Kept.have_ (v := v) (x := y) ?_ ?_; (on_goal 1 => subst y); (on_goal 2 => (intro hy; clear_value y))) | clear_value y)
    | apply Kept.raiseEv
    | apply Kept.setPair
    | apply Kept.forN
    | simp only [Kept.upd_iff]
    | (intro _ _ _)
    | (intro _ _)
    | (split; rename_i heq; have hk := congrArg Prod.snd heq; subst hk)
    | split

theorem Kept.takeoverDecision {v : Held} {c : Chip} (hc : Kept v c) :
    Kept v (Chip.takeoverDecision c) := by
  unfold Machine.Chip.takeoverDecision
  with_reducible repeat' first
    | assumption
    | (extract_lets +onlyGivenNames y; first | (refine Kept.have_ (v := v) (x := y) ?_ ?_; (on_goal 1 => subst y); (on_goal 2 => (intro hy; clear_value y))) | clear_value y)
    | apply Kept.decideTakeover
    | apply Kept.setFault
    | apply Kept.raiseEv
    | apply Kept.forN
    | simp only [Kept.upd_iff]
    | (intro _ _ _)
    | (intro _ _)
    | (split; rename_i heq; have hk := congrArg Prod.snd heq; subst hk)
    | split

theorem Kept.refusePair {v : Held} {c : Chip} {reason : ℕ} (hc : Kept v c) :
    Kept v (Chip.refusePair c reason) := by
  unfold Machine.Chip.refusePair
  with_reducible repeat' first
    | assumption
    | (extract_lets +onlyGivenNames y; first | (refine Kept.have_ (v := v) (x := y) ?_ ?_; (on_goal 1 => subst y); (on_goal 2 => (intro hy; clear_value y))) | clear_value y)
    | apply Kept.raiseEv
    | apply Kept.put
    | apply Kept.forN
    | simp only [Kept.upd_iff]
    | (intro _ _ _)
    | (intro _ _)
    | (split; rename_i heq; have hk := congrArg Prod.snd heq; subst hk)
    | split

theorem Kept.assumeCmd {v : Held} {acc : Access} {c : Chip} (hc : Kept v c) :
    Kept v (assumeCmd acc c) := by
  unfold Machine.assumeCmd
  with_reducible repeat' first
    | assumption
    | (extract_lets +onlyGivenNames y; first | (refine Kept.have_ (v := v) (x := y) ?_ ?_; (on_goal 1 => subst y); (on_goal 2 => (intro hy; clear_value y))) | clear_value y)
    | apply Kept.write
    | apply Kept.refusePair
    | apply Kept.put
    | apply Kept.decideTakeover
    | apply Kept.forN
    | simp only [Kept.upd_iff]
    | (intro _ _ _)
    | (intro _ _)
    | (split; rename_i heq; have hk := congrArg Prod.snd heq; subst hk)
    | split

theorem Kept.nameSwap {v : Held} {c : Chip} (hc : Kept v c) :
    Kept v (Chip.nameSwap c) := by
  unfold Machine.Chip.nameSwap
  with_reducible repeat' first
    | assumption
    | (extract_lets +onlyGivenNames y; first | (refine Kept.have_ (v := v) (x := y) ?_ ?_; (on_goal 1 => subst y); (on_goal 2 => (intro hy; clear_value y))) | clear_value y)
    | apply Kept.put64
    | apply Kept.setPair
    | apply Kept.forN
    | simp only [Kept.upd_iff]
    | (intro _ _ _)
    | (intro _ _)
    | (split; rename_i heq; have hk := congrArg Prod.snd heq; subst hk)
    | split

theorem Kept.swapCmd {v : Held} {acc : Access} {c : Chip} (hc : Kept v c) :
    Kept v (swapCmd acc c) := by
  unfold Machine.swapCmd
  with_reducible repeat' first
    | assumption
    | (extract_lets +onlyGivenNames y; first | (refine Kept.have_ (v := v) (x := y) ?_ ?_; (on_goal 1 => subst y); (on_goal 2 => (intro hy; clear_value y))) | clear_value y)
    | apply Kept.write
    | apply Kept.refusePair
    | apply Kept.nameSwap
    | apply Kept.put
    | apply Kept.forN
    | simp only [Kept.upd_iff]
    | (intro _ _ _)
    | (intro _ _)
    | (split; rename_i heq; have hk := congrArg Prod.snd heq; subst hk)
    | split

theorem Kept.swapHandover {v : Held} {c : Chip} (hc : Kept v c) :
    Kept v (swapHandover c) := by
  unfold Machine.swapHandover
  with_reducible repeat' first
    | assumption
    | (extract_lets +onlyGivenNames y; first | (refine Kept.have_ (v := v) (x := y) ?_ ?_; (on_goal 1 => subst y); (on_goal 2 => (intro hy; clear_value y))) | clear_value y)
    | apply Kept.put
    | apply Kept.setFlag
    | apply Kept.incSat
    | apply Kept.raiseEv
    | apply Kept.setPair
    | apply Kept.roleOutputs
    | apply Kept.beginRebuild
    | apply Kept.becomeNear
    | apply Kept.forN
    | simp only [Kept.upd_iff]
    | (intro _ _ _)
    | (intro _ _)
    | (split; rename_i heq; have hk := congrArg Prod.snd heq; subst hk)
    | split

theorem Kept.swapComplete {v : Held} {c : Chip} (hc : Kept v c) :
    Kept v (swapComplete c) := by
  unfold Machine.swapComplete
  with_reducible repeat' first
    | assumption
    | (extract_lets +onlyGivenNames y; first | (refine Kept.have_ (v := v) (x := y) ?_ ?_; (on_goal 1 => subst y); (on_goal 2 => (intro hy; clear_value y))) | clear_value y)
    | apply Kept.roleOutputs
    | apply Kept.setPair
    | apply Kept.raiseEv
    | apply Kept.incSat
    | apply Kept.put
    | apply Kept.beginResync
    | apply Kept.forN
    | simp only [Kept.upd_iff]
    | (intro _ _ _)
    | (intro _ _)
    | (split; rename_i heq; have hk := congrArg Prod.snd heq; subst hk)
    | split

theorem Kept.rejoinCmd {v : Held} {acc : Access} {c : Chip} (hc : Kept v c) :
    Kept v (rejoinCmd acc c) := by
  unfold Machine.rejoinCmd
  with_reducible repeat' first
    | assumption
    | (extract_lets +onlyGivenNames y; first | (refine Kept.have_ (v := v) (x := y) ?_ ?_; (on_goal 1 => subst y); (on_goal 2 => (intro hy; clear_value y))) | clear_value y)
    | apply Kept.write
    | apply Kept.refusePair
    | apply Kept.setPair
    | apply Kept.put
    | apply Kept.forN
    | simp only [Kept.upd_iff]
    | (intro _ _ _)
    | (intro _ _)
    | (split; rename_i heq; have hk := congrArg Prod.snd heq; subst hk)
    | split

theorem Kept.resync {v : Held} {c : Chip} (hc : Kept v c) :
    Kept v (Chip.resync c) := by
  unfold Machine.Chip.resync
  with_reducible repeat' first
    | assumption
    | (extract_lets +onlyGivenNames y; first | (refine Kept.have_ (v := v) (x := y) ?_ ?_; (on_goal 1 => subst y); (on_goal 2 => (intro hy; clear_value y))) | clear_value y)
    | apply Kept.beginResync
    | apply Kept.forN
    | simp only [Kept.upd_iff]
    | (intro _ _ _)
    | (intro _ _)
    | (split; rename_i heq; have hk := congrArg Prod.snd heq; subst hk)
    | split

theorem Kept.mismatch {v : Held} {c : Chip} {s : ℕ} {own : Bool} {twin : Bool} (hc : Kept v c) :
    Kept v (Chip.mismatch c s own twin) := by
  unfold Machine.Chip.mismatch
  with_reducible repeat' first
    | assumption
    | (extract_lets +onlyGivenNames y; first | (refine Kept.have_ (v := v) (x := y) ?_ ?_; (on_goal 1 => subst y); (on_goal 2 => (intro hy; clear_value y))) | clear_value y)
    | apply Kept.setPair
    | apply Kept.raiseEv
    | apply Kept.put
    | apply Kept.incSat
    | apply Kept.setFault
    | apply Kept.flagMeters
    | apply Kept.pairFault
    | apply Kept.setFlag
    | apply Kept.resync
    | apply Kept.beginResync
    | apply Kept.nameSwap
    | apply Kept.forN
    | simp only [Kept.upd_iff]
    | (intro _ _ _)
    | (intro _ _)
    | (split; rename_i heq; have hk := congrArg Prod.snd heq; subst hk)
    | split

theorem Kept.compareDigest {v : Held} {c : Chip} {f : StrideFrame} (hc : Kept v c) :
    Kept v (Chip.compareDigest c f) := by
  unfold Machine.Chip.compareDigest
  with_reducible repeat' first
    | assumption
    | (extract_lets +onlyGivenNames y; first | (refine Kept.have_ (v := v) (x := y) ?_ ?_; (on_goal 1 => subst y); (on_goal 2 => (intro hy; clear_value y))) | clear_value y)
    | apply Kept.put64
    | apply Kept.joinComplete
    | apply Kept.mismatch
    | apply Kept.forN
    | simp only [Kept.upd_iff]
    | (intro _ _ _)
    | (intro _ _)
    | (split; rename_i heq; have hk := congrArg Prod.snd heq; subst hk)
    | split

theorem Kept.laneEdge {v : Held} {c : Chip} {valid : ℕ} {errored : ℕ} (hc : Kept v c) :
    Kept v (Chip.laneEdge c valid errored) := by
  unfold Machine.Chip.laneEdge
  with_reducible repeat' first
    | assumption
    | (extract_lets +onlyGivenNames y; first | (refine Kept.have_ (v := v) (x := y) ?_ ?_; (on_goal 1 => subst y); (on_goal 2 => (intro hy; clear_value y))) | clear_value y)
    | apply Kept.incSat
    | apply Kept.setPair
    | apply Kept.forN
    | simp only [Kept.upd_iff]
    | (intro _ _ _)
    | (intro _ _)
    | (split; rename_i heq; have hk := congrArg Prod.snd heq; subst hk)
    | split

theorem Kept.hearJoin {v : Held} {c : Chip} {at_ : Option Nat} (hc : Kept v c) :
    Kept v (Chip.hearJoin c at_) := by
  unfold Machine.Chip.hearJoin
  with_reducible repeat' first
    | assumption
    | (extract_lets +onlyGivenNames y; first | (refine Kept.have_ (v := v) (x := y) ?_ ?_; (on_goal 1 => subst y); (on_goal 2 => (intro hy; clear_value y))) | clear_value y)
    | apply Kept.agreeOn
    | apply Kept.beginResync
    | apply Kept.forN
    | simp only [Kept.upd_iff]
    | (intro _ _ _)
    | (intro _ _)
    | (split; rename_i heq; have hk := congrArg Prod.snd heq; subst hk)
    | split

theorem Kept.followNear {v : Held} {c : Chip} {f : StrideFrame} (hc : Kept v c) :
    Kept v (Chip.followNear c f) := by
  unfold Machine.Chip.followNear
  with_reducible repeat' first
    | assumption
    | (extract_lets +onlyGivenNames y; first | (refine Kept.have_ (v := v) (x := y) ?_ ?_; (on_goal 1 => subst y); (on_goal 2 => (intro hy; clear_value y))) | clear_value y)
    | apply Kept.put
    | apply Kept.setTim
    | apply Kept.showVcxo
    | apply Kept.settleSafety
    | apply Kept.nearWindow
    | apply Kept.setPair
    | apply Kept.hearJoin
    | apply Kept.forN
    | simp only [Kept.upd_iff]
    | apply Kept.foldl
    | apply Kept.foldl_pair
    | (intro _ _ _)
    | (intro _ _)
    | (split; rename_i heq; have hk := congrArg Prod.snd heq; subst hk)
    | split

theorem Kept.hearOff {v : Held} {c : Chip} {f : StrideFrame} (hc : Kept v c) (hr : v.mram = none) :
    Kept v (Chip.hearOff c f) := by
  unfold Machine.Chip.hearOff
  with_reducible repeat' first
    | assumption
    | (extract_lets +onlyGivenNames y; first | (refine Kept.have_ (v := v) (x := y) ?_ ?_; (on_goal 1 => subst y); (on_goal 2 => (intro hy; clear_value y))) | clear_value y)
    | apply Kept.put
    | apply Kept.setSlot
    | apply Kept.settleSafety
    | apply Kept.faultFlocks
    | apply Kept.clearCause
    | apply Kept.stuckOn
    | apply Kept.setPair
    | apply Kept.forN
    | simp only [Kept.upd_iff]
    | (intro _ _ _)
    | (intro _ _)
    | (split; rename_i heq; have hk := congrArg Prod.snd heq; subst hk)
    | split

theorem Kept.strideFrameReceive {v : Held} {valid : ℕ} {errored : ℕ} {f : StrideFrame} {c : Chip} (hc : Kept v c) (hr : v.mram = none) :
    Kept v (strideFrameReceive valid errored f c) := by
  unfold Machine.strideFrameReceive
  with_reducible repeat' first
    | assumption
    | (extract_lets +onlyGivenNames y; first | (refine Kept.have_ (v := v) (x := y) ?_ ?_; (on_goal 1 => subst y); (on_goal 2 => (intro hy; clear_value y))) | clear_value y)
    | apply Kept.setPair
    | apply Kept.laneEdge
    | apply Kept.pairFault
    | apply Kept.setFlag
    | apply Kept.put
    | apply Kept.compareDigest
    | apply Kept.followNear
    | apply Kept.hearOff
    | apply Kept.forN
    | simp only [Kept.upd_iff]
    | (intro _ _ _)
    | (intro _ _)
    | (split; rename_i heq; have hk := congrArg Prod.snd heq; subst hk)
    | split

theorem Kept.strideFrameDeadline {v : Held} {errored : ℕ} {c : Chip} (hc : Kept v c) :
    Kept v (strideFrameDeadline errored c) := by
  unfold Machine.strideFrameDeadline
  with_reducible repeat' first
    | assumption
    | (extract_lets +onlyGivenNames y; first | (refine Kept.have_ (v := v) (x := y) ?_ ?_; (on_goal 1 => subst y); (on_goal 2 => (intro hy; clear_value y))) | clear_value y)
    | apply Kept.setPair
    | apply Kept.laneEdge
    | apply Kept.incSat
    | apply Kept.loneWindow
    | apply Kept.takeoverDecision
    | apply Kept.forN
    | simp only [Kept.upd_iff]
    | (intro _ _ _)
    | (intro _ _)
    | (split; rename_i heq; have hk := congrArg Prod.snd heq; subst hk)
    | split

theorem Kept.detach {v : Held} {c : Chip} (hc : Kept v c) :
    Kept v (Chip.detach c) := by
  unfold Machine.Chip.detach
  with_reducible repeat' first
    | assumption
    | (extract_lets +onlyGivenNames y; first | (refine Kept.have_ (v := v) (x := y) ?_ ?_; (on_goal 1 => subst y); (on_goal 2 => (intro hy; clear_value y))) | clear_value y)
    | apply Kept.setFlag
    | apply Kept.endJoin
    | apply Kept.forN
    | simp only [Kept.upd_iff]
    | (intro _ _ _)
    | (intro _ _)
    | (split; rename_i heq; have hk := congrArg Prod.snd heq; subst hk)
    | split

theorem Kept.harnessLinkDown {v : Held} {c : Chip} (hc : Kept v c) :
    Kept v (harnessLinkDown c) := by
  unfold Machine.harnessLinkDown
  with_reducible repeat' first
    | assumption
    | (extract_lets +onlyGivenNames y; first | (refine Kept.have_ (v := v) (x := y) ?_ ?_; (on_goal 1 => subst y); (on_goal 2 => (intro hy; clear_value y))) | clear_value y)
    | apply Kept.setFlag
    | apply Kept.raiseEv
    | apply Kept.pairFault
    | apply Kept.endJoin
    | apply Kept.detach
    | apply Kept.forN
    | simp only [Kept.upd_iff]
    | (intro _ _ _)
    | (intro _ _)
    | (split; rename_i heq; have hk := congrArg Prod.snd heq; subst hk)
    | split

theorem Kept.harnessLinkUp {v : Held} {c : Chip} (hc : Kept v c) :
    Kept v (harnessLinkUp c) := by
  unfold Machine.harnessLinkUp
  with_reducible repeat' first
    | assumption
    | (extract_lets +onlyGivenNames y; first | (refine Kept.have_ (v := v) (x := y) ?_ ?_; (on_goal 1 => subst y); (on_goal 2 => (intro hy; clear_value y))) | clear_value y)
    | apply Kept.raiseEv
    | apply Kept.pairFault
    | apply Kept.setFlag
    | apply Kept.setPair
    | apply Kept.forN
    | simp only [Kept.upd_iff]
    | (intro _ _ _)
    | (intro _ _)
    | (split; rename_i heq; have hk := congrArg Prod.snd heq; subst hk)
    | split

theorem Kept.harnessLaneDown {v : Held} {l : ℕ} {c : Chip} (hc : Kept v c) :
    Kept v (harnessLaneDown l c) := by
  unfold Machine.harnessLaneDown
  with_reducible repeat' first
    | assumption
    | (extract_lets +onlyGivenNames y; first | (refine Kept.have_ (v := v) (x := y) ?_ ?_; (on_goal 1 => subst y); (on_goal 2 => (intro hy; clear_value y))) | clear_value y)
    | apply Kept.raiseEv
    | apply Kept.setFault
    | apply Kept.setFlag
    | apply Kept.forN
    | simp only [Kept.upd_iff]
    | (intro _ _ _)
    | (intro _ _)
    | (split; rename_i heq; have hk := congrArg Prod.snd heq; subst hk)
    | split

theorem Kept.harnessLaneUp {v : Held} {l : ℕ} {c : Chip} (hc : Kept v c) :
    Kept v (harnessLaneUp l c) := by
  unfold Machine.harnessLaneUp
  with_reducible repeat' first
    | assumption
    | (extract_lets +onlyGivenNames y; first | (refine Kept.have_ (v := v) (x := y) ?_ ?_; (on_goal 1 => subst y); (on_goal 2 => (intro hy; clear_value y))) | clear_value y)
    | apply Kept.setPair
    | apply Kept.raiseEv
    | apply Kept.clearFault
    | apply Kept.setFlag
    | apply Kept.forN
    | simp only [Kept.upd_iff]
    | (intro _ _ _)
    | (intro _ _)
    | (split; rename_i heq; have hk := congrArg Prod.snd heq; subst hk)
    | split

theorem Kept.showMessages {v : Held} {c : Chip} (hc : Kept v c) :
    Kept v (Chip.showMessages c) := by
  unfold Machine.Chip.showMessages
  with_reducible repeat' first
    | assumption
    | (extract_lets +onlyGivenNames y; first | (refine Kept.have_ (v := v) (x := y) ?_ ?_; (on_goal 1 => subst y); (on_goal 2 => (intro hy; clear_value y))) | clear_value y)
    | apply Kept.put
    | apply Kept.setRaw
    | apply Kept.take
    | apply Kept.forN
    | simp only [Kept.upd_iff]
    | (intro _ _ _)
    | (intro _ _)
    | (split; rename_i heq; have hk := congrArg Prod.snd heq; subst hk)
    | split

theorem Kept.harnessMsgSend {v : Held} {acc : Access} {x1 : ℕ} {c : Chip} (hc : Kept v c) :
    Kept v (harnessMsgSend acc x1 c) := by
  unfold Machine.harnessMsgSend
  with_reducible repeat' first
    | assumption
    | (extract_lets +onlyGivenNames y; first | (refine Kept.have_ (v := v) (x := y) ?_ ?_; (on_goal 1 => subst y); (on_goal 2 => (intro hy; clear_value y))) | clear_value y)
    | apply Kept.write
    | apply Kept.setPair
    | apply Kept.setFlag
    | apply Kept.forN
    | simp only [Kept.upd_iff]
    | (intro _ _ _)
    | (intro _ _)
    | (split; rename_i heq; have hk := congrArg Prod.snd heq; subst hk)
    | split

theorem Kept.harnessMsgReceive {v : Held} {bytes : List ℕ} {c : Chip} (hc : Kept v c) :
    Kept v (harnessMsgReceive bytes c) := by
  unfold Machine.harnessMsgReceive
  with_reducible repeat' first
    | assumption
    | (extract_lets +onlyGivenNames y; first | (refine Kept.have_ (v := v) (x := y) ?_ ?_; (on_goal 1 => subst y); (on_goal 2 => (intro hy; clear_value y))) | clear_value y)
    | apply Kept.incSat
    | apply Kept.showMessages
    | apply Kept.setPair
    | apply Kept.forN
    | simp only [Kept.upd_iff]
    | (intro _ _ _)
    | (intro _ _)
    | (split; rename_i heq; have hk := congrArg Prod.snd heq; subst hk)
    | split

theorem Kept.harnessMsgPop {v : Held} {acc : Access} {x1 : ℕ} {c : Chip} (hc : Kept v c) :
    Kept v (harnessMsgPop acc x1 c) := by
  unfold Machine.harnessMsgPop
  with_reducible repeat' first
    | assumption
    | (extract_lets +onlyGivenNames y; first | (refine Kept.have_ (v := v) (x := y) ?_ ?_; (on_goal 1 => subst y); (on_goal 2 => (intro hy; clear_value y))) | clear_value y)
    | apply Kept.write
    | apply Kept.showMessages
    | apply Kept.setPair
    | apply Kept.forN
    | simp only [Kept.upd_iff]
    | (intro _ _ _)
    | (intro _ _)
    | (split; rename_i heq; have hk := congrArg Prod.snd heq; subst hk)
    | split

theorem Kept.pairEdge {v : Held} {c : Chip} {toggled : Bool} (hc : Kept v c) :
    Kept v (Chip.pairEdge c toggled) := by
  unfold Machine.Chip.pairEdge
  with_reducible repeat' first
    | assumption
    | (extract_lets +onlyGivenNames y; first | (refine Kept.have_ (v := v) (x := y) ?_ ?_; (on_goal 1 => subst y); (on_goal 2 => (intro hy; clear_value y))) | clear_value y)
    | apply Kept.put
    | apply Kept.setFlag
    | apply Kept.incSat
    | apply Kept.raiseEv
    | apply Kept.setPair
    | apply Kept.pairFault
    | apply Kept.settleRole
    | apply Kept.detach
    | apply Kept.forN
    | simp only [Kept.upd_iff]
    | (intro _ _ _)
    | (intro _ _)
    | (split; rename_i heq; have hk := congrArg Prod.snd heq; subst hk)
    | split

theorem Kept.showSummary {v : Held} {c : Chip} (hc : Kept v c) :
    Kept v (Chip.showSummary c) := by
  unfold Machine.Chip.showSummary
  with_reducible repeat' first
    | assumption
    | (extract_lets +onlyGivenNames y; first | (refine Kept.have_ (v := v) (x := y) ?_ ?_; (on_goal 1 => subst y); (on_goal 2 => (intro hy; clear_value y))) | clear_value y)
    | apply Kept.put
    | apply Kept.forN
    | simp only [Kept.upd_iff]
    | (intro _ _ _)
    | (intro _ _)
    | (split; rename_i heq; have hk := congrArg Prod.snd heq; subst hk)
    | split

end Sys2Proof.Machine
end

