-- ==== Sys2Proof/Laws/Kept11.lean ====
section
/-! SUPPORT. What the operations of RegAccess, Reset, Restore, Stage, Stride keep. -/

set_option linter.unusedTactic false
set_option linter.unreachableTactic false
set_option linter.unusedSimpArgs false
set_option linter.unusedVariables false

namespace Sys2Proof.Machine

theorem Kept.store32 {v : Held} {c : Chip} {b : Blk} {a : ℕ} {ofs : ℕ} {x4 : ℕ} (hc : Kept v c) :
    Kept v (Chip.store32 c b a ofs x4) := by
  unfold Machine.Chip.store32
  with_reducible repeat' first
    | assumption
    | (extract_lets +onlyGivenNames y; first | (refine Kept.have_ (v := v) (x := y) ?_ ?_; (on_goal 1 => subst y); (on_goal 2 => (intro hy; clear_value y))) | clear_value y)
    | apply Kept.setWord
    | apply Kept.forN
    | simp only [Kept.upd_iff]
    | (intro _ _ _)
    | (intro _ _)
    | (split; rename_i heq; have hk := congrArg Prod.snd heq; subst hk)
    | split

theorem Kept.storeTim {v : Held} {c : Chip} {a : ℕ} {ofs : ℕ} {x3 : ℕ} (hc : Kept v c) :
    Kept v (Chip.storeTim c a ofs x3) := by
  unfold Machine.Chip.storeTim
  with_reducible repeat' first
    | assumption
    | (extract_lets +onlyGivenNames y; first | (refine Kept.have_ (v := v) (x := y) ?_ ?_; (on_goal 1 => subst y); (on_goal 2 => (intro hy; clear_value y))) | clear_value y)
    | apply Kept.timCtrlWritten
    | apply Kept.store32
    | apply Kept.setRate
    | apply Kept.showVcxo
    | apply Kept.forN
    | simp only [Kept.upd_iff]
    | (intro _ _ _)
    | (intro _ _)
    | (split; rename_i heq; have hk := congrArg Prod.snd heq; subst hk)
    | split

theorem Kept.storeOpt {v : Held} {c : Chip} {n : ℕ} {a : ℕ} {ofs : ℕ} {x4 : ℕ} (hc : Kept v c) :
    Kept v (Chip.storeOpt c n a ofs x4) := by
  unfold Machine.Chip.storeOpt
  with_reducible repeat' first
    | assumption
    | (extract_lets +onlyGivenNames y; first | (refine Kept.have_ (v := v) (x := y) ?_ ?_; (on_goal 1 => subst y); (on_goal 2 => (intro hy; clear_value y))) | clear_value y)
    | apply Kept.optCtrlWritten
    | apply Kept.store32
    | apply Kept.optCfgWritten
    | apply Kept.showLimit
    | apply Kept.optRxTailWritten
    | apply Kept.setPort
    | apply Kept.forN
    | simp only [Kept.upd_iff]
    | (intro _ _ _)
    | (intro _ _)
    | (split; rename_i heq; have hk := congrArg Prod.snd heq; subst hk)
    | split

theorem Kept.storeLsw {v : Held} {c : Chip} {n : ℕ} {a : ℕ} {ofs : ℕ} {x4 : ℕ} (hc : Kept v c) :
    Kept v (Chip.storeLsw c n a ofs x4) := by
  unfold Machine.Chip.storeLsw
  with_reducible repeat' first
    | assumption
    | (extract_lets +onlyGivenNames y; first | (refine Kept.have_ (v := v) (x := y) ?_ ?_; (on_goal 1 => subst y); (on_goal 2 => (intro hy; clear_value y))) | clear_value y)
    | apply Kept.store32
    | apply Kept.setPair
    | apply Kept.noteChannel
    | apply Kept.forN
    | simp only [Kept.upd_iff]
    | (intro _ _ _)
    | (intro _ _)
    | (split; rename_i heq; have hk := congrArg Prod.snd heq; subst hk)
    | split

theorem Kept.storeNet {v : Held} {c : Chip} {plane : ℕ} {a : ℕ} {ofs : ℕ} {x4 : ℕ} (hc : Kept v c) (hm : v.mem = none) :
    Kept v (Chip.storeNet c plane a ofs x4) := by
  unfold Machine.Chip.storeNet
  with_reducible repeat' first
    | assumption
    | (extract_lets +onlyGivenNames y; first | (refine Kept.have_ (v := v) (x := y) ?_ ?_; (on_goal 1 => subst y); (on_goal 2 => (intro hy; clear_value y))) | clear_value y)
    | apply Kept.netCtrlWritten
    | apply Kept.store32
    | apply Kept.setWord
    | apply Kept.setRingPlane
    | apply Kept.setFlag
    | apply Kept.forN
    | simp only [Kept.upd_iff]
    | (intro _ _ _)
    | (intro _ _)
    | (split; rename_i heq; have hk := congrArg Prod.snd heq; subst hk)
    | split

theorem Kept.storeNtp {v : Held} {c : Chip} {n : ℕ} {a : ℕ} {ofs : ℕ} {x4 : ℕ} (hc : Kept v c) (hm : v.mem = none) :
    Kept v (Chip.storeNtp c n a ofs x4) := by
  unfold Machine.Chip.storeNtp
  with_reducible repeat' first
    | assumption
    | (extract_lets +onlyGivenNames y; first | (refine Kept.have_ (v := v) (x := y) ?_ ?_; (on_goal 1 => subst y); (on_goal 2 => (intro hy; clear_value y))) | clear_value y)
    | apply Kept.store32
    | apply Kept.netPctrlWritten
    | apply Kept.forN
    | simp only [Kept.upd_iff]
    | (intro _ _ _)
    | (intro _ _)
    | (split; rename_i heq; have hk := congrArg Prod.snd heq; subst hk)
    | split

theorem Kept.storeMlk {v : Held} {c : Chip} {a : ℕ} {ofs : ℕ} {x3 : ℕ} (hc : Kept v c) :
    Kept v (Chip.storeMlk c a ofs x3) := by
  unfold Machine.Chip.storeMlk
  with_reducible repeat' first
    | assumption
    | (extract_lets +onlyGivenNames y; first | (refine Kept.have_ (v := v) (x := y) ?_ ?_; (on_goal 1 => subst y); (on_goal 2 => (intro hy; clear_value y))) | clear_value y)
    | apply Kept.mainsWritten
    | apply Kept.store32
    | apply Kept.forN
    | simp only [Kept.upd_iff]
    | (intro _ _ _)
    | (intro _ _)
    | (split; rename_i heq; have hk := congrArg Prod.snd heq; subst hk)
    | split

theorem Kept.storeTag {v : Held} {c : Chip} {a : ℕ} {ofs : ℕ} {x3 : ℕ} (hc : Kept v c) :
    Kept v (Chip.storeTag c a ofs x3) := by
  unfold Machine.Chip.storeTag
  with_reducible repeat' first
    | assumption
    | (extract_lets +onlyGivenNames y; first | (refine Kept.have_ (v := v) (x := y) ?_ ?_; (on_goal 1 => subst y); (on_goal 2 => (intro hy; clear_value y))) | clear_value y)
    | apply Kept.store32
    | apply Kept.tagCtrlWritten
    | apply Kept.forN
    | simp only [Kept.upd_iff]
    | (intro _ _ _)
    | (intro _ _)
    | (split; rename_i heq; have hk := congrArg Prod.snd heq; subst hk)
    | split

theorem Kept.storeVreq {v : Held} {c : Chip} {n : ℕ} {a : ℕ} {ofs : ℕ} {x4 : ℕ} (hc : Kept v c) :
    Kept v (Chip.storeVreq c n a ofs x4) := by
  unfold Machine.Chip.storeVreq
  with_reducible repeat' first
    | assumption
    | (extract_lets +onlyGivenNames y; first | (refine Kept.have_ (v := v) (x := y) ?_ ?_; (on_goal 1 => subst y); (on_goal 2 => (intro hy; clear_value y))) | clear_value y)
    | apply Kept.windowGo
    | apply Kept.windowAbort
    | apply Kept.setFlag
    | apply Kept.store32
    | apply Kept.forN
    | simp only [Kept.upd_iff]
    | (intro _ _ _)
    | (intro _ _)
    | (split; rename_i heq; have hk := congrArg Prod.snd heq; subst hk)
    | split

theorem Kept.storeUpd {v : Held} {c : Chip} {a : ℕ} {ofs : ℕ} {x3 : ℕ} (hc : Kept v c) :
    Kept v (Chip.storeUpd c a ofs x3) := by
  unfold Machine.Chip.storeUpd
  with_reducible repeat' first
    | assumption
    | (extract_lets +onlyGivenNames y; first | (refine Kept.have_ (v := v) (x := y) ?_ ?_; (on_goal 1 => subst y); (on_goal 2 => (intro hy; clear_value y))) | clear_value y)
    | apply Kept.store32
    | apply Kept.planeFault
    | apply Kept.forN
    | simp only [Kept.upd_iff]
    | (intro _ _ _)
    | (intro _ _)
    | (split; rename_i heq; have hk := congrArg Prod.snd heq; subst hk)
    | split

theorem Kept.storeBlock {v : Held} {c : Chip} {plane : Nat} {b : Blk} {n : Nat} {a : Nat} {ofs : Nat} {w_ : Nat} (hc : Kept v c) (hm : v.mem = none) :
    Kept v (Chip.storeBlock c plane b n a ofs w_) := by
  unfold Machine.Chip.storeBlock
  with_reducible repeat' first
    | assumption
    | (extract_lets +onlyGivenNames y; first | (refine Kept.have_ (v := v) (x := y) ?_ ?_; (on_goal 1 => subst y); (on_goal 2 => (intro hy; clear_value y))) | clear_value y)
    | apply Kept.settleSources
    | apply Kept.canEnable
    | apply Kept.showUpdate
    | apply Kept.setPair
    | apply Kept.settleRole
    | apply Kept.store32
    | apply Kept.storeTim
    | apply Kept.storeOpt
    | apply Kept.storeLsw
    | apply Kept.storeNet
    | apply Kept.storeNtp
    | apply Kept.storeMlk
    | apply Kept.storeTag
    | apply Kept.storeVreq
    | apply Kept.storeUpd
    | apply Kept.forN
    | simp only [Kept.upd_iff]
    | (intro _ _ _)
    | (intro _ _)
    | (split; rename_i heq; have hk := congrArg Prod.snd heq; subst hk)
    | split

theorem Kept.storeRegister {v : Held} {c : Chip} {plane : Nat} {b : Blk} {n : Nat} {a : Nat} {ofs : Nat} {w_ : Nat} (hc : Kept v c) (hm : v.mem = none) :
    Kept v (Chip.storeRegister c plane b n a ofs w_) := by
  unfold Machine.Chip.storeRegister
  with_reducible repeat' first
    | assumption
    | (extract_lets +onlyGivenNames y; first | (refine Kept.have_ (v := v) (x := y) ?_ ?_; (on_goal 1 => subst y); (on_goal 2 => (intro hy; clear_value y))) | clear_value y)
    | apply Kept.settleSources
    | apply Kept.storeBlock
    | apply Kept.forN
    | simp only [Kept.upd_iff]
    | (intro _ _ _)
    | (intro _ _)
    | (split; rename_i heq; have hk := congrArg Prod.snd heq; subst hk)
    | split

theorem Kept.registerWrite {v : Held} {acc : Access} {a : ℕ} {x2 : ℕ} {cyc : ℕ} {c : Chip} (hc : Kept v c) (hm : v.mem = none) :
    Kept v (registerWrite acc a x2 cyc c) := by
  unfold Machine.registerWrite
  have h1 : Kept v (c.advanceTo cyc) := Kept.advanceTo hc
  dsimp only
  split
  · split
    · exact Kept.setBytes h1 hm
    · exact Kept.violate h1
  · split
    · exact Kept.write h1 fun d hd => hd
    · split
      · exact h1
      · split
        · exact Kept.write h1 fun d hd => hd
        · refine Kept.write h1 fun d hd => ?_
          split
          · exact Kept.violate hd
          · exact Kept.storeRegister hd hm

theorem Kept.readWord {v : Held} {c : Chip} {b : Blk} {a : ℕ} {ofs : ℕ} (hc : Kept v c) :
    Kept v (Chip.readWord c b a ofs) := by
  unfold Machine.Chip.readWord
  with_reducible repeat' first
    | assumption
    | (extract_lets +onlyGivenNames y; first | (refine Kept.have_ (v := v) (x := y) ?_ ?_; (on_goal 1 => subst y); (on_goal 2 => (intro hy; clear_value y))) | clear_value y)
    | apply Kept.forN
    | simp only [Kept.upd_iff]
    | apply Kept.foldl
    | apply Kept.foldl_pair
    | (intro _ _ _)
    | (intro _ _)
    | (split; rename_i heq; have hk := congrArg Prod.snd heq; subst hk)
    | split

theorem Kept.readWindow {v : Held} {c : Chip} {acc : Access} {a : ℕ} (hc : Kept v c) :
    Kept v (Chip.readWindow c acc a) := by
  unfold Machine.Chip.readWindow
  with_reducible repeat' first
    | assumption
    | (extract_lets +onlyGivenNames y; first | (refine Kept.have_ (v := v) (x := y) ?_ ?_; (on_goal 1 => subst y); (on_goal 2 => (intro hy; clear_value y))) | clear_value y)
    | apply Kept.violate
    | apply Kept.forN
    | simp only [Kept.upd_iff]
    | (intro _ _ _)
    | (intro _ _)
    | (split; rename_i heq; have hk := congrArg Prod.snd heq; subst hk)
    | split

theorem Kept.readCan {v : Held} {c : Chip} {acc : Access} {a : ℕ} (hc : Kept v c) :
    Kept v (Chip.readCan c acc a) := by
  unfold Machine.Chip.readCan
  with_reducible repeat' first
    | assumption
    | (extract_lets +onlyGivenNames y; first | (refine Kept.have_ (v := v) (x := y) ?_ ?_; (on_goal 1 => subst y); (on_goal 2 => (intro hy; clear_value y))) | clear_value y)
    | apply Kept.violate
    | apply Kept.forN
    | simp only [Kept.upd_iff]
    | (intro _ _ _)
    | (intro _ _)
    | (split; rename_i heq; have hk := congrArg Prod.snd heq; subst hk)
    | split

theorem Kept.latchedWordRead {v : Held} {acc : Access} {a : ℕ} {c : Chip} (hc : Kept v c) :
    Kept v (latchedWordRead acc a c) := by
  unfold Machine.latchedWordRead
  with_reducible repeat' first
    | assumption
    | (extract_lets +onlyGivenNames y; first | (refine Kept.have_ (v := v) (x := y) ?_ ?_; (on_goal 1 => subst y); (on_goal 2 => (intro hy; clear_value y))) | clear_value y)
    | apply Kept.violate
    | apply Kept.readWindow
    | apply Kept.readCan
    | apply Kept.read
    | apply Kept.readWord
    | apply Kept.forN
    | simp only [Kept.upd_iff]
    | (intro _ _ _)
    | (intro _ _)
    | (split; rename_i heq; have hk := congrArg Prod.snd heq; subst hk)
    | split

theorem Kept.loadWord {v : Held} {c : Chip} {a : ℕ} {x2 : ℕ} (hc : Kept v c) :
    Kept v (Chip.loadWord c a x2) := by
  unfold Machine.Chip.loadWord
  with_reducible repeat' first
    | assumption
    | (extract_lets +onlyGivenNames y; first | (refine Kept.have_ (v := v) (x := y) ?_ ?_; (on_goal 1 => subst y); (on_goal 2 => (intro hy; clear_value y))) | clear_value y)
    | apply Kept.setWord
    | apply Kept.forN
    | simp only [Kept.upd_iff]
    | (intro _ _ _)
    | (intro _ _)
    | (split; rename_i heq; have hk := congrArg Prod.snd heq; subst hk)
    | split

theorem Kept.loadConfig {v : Held} {c : Chip} {config : Option ConfigRecord} (hc : Kept v c) :
    Kept v (Chip.loadConfig c config) := by
  unfold Machine.Chip.loadConfig
  with_reducible repeat' first
    | assumption
    | (extract_lets +onlyGivenNames y; first | (refine Kept.have_ (v := v) (x := y) ?_ ?_; (on_goal 1 => subst y); (on_goal 2 => (intro hy; clear_value y))) | clear_value y)
    | apply Kept.setFault
    | apply Kept.loadWord
    | apply Kept.setTrf
    | apply Kept.put
    | apply Kept.faultIs
    | apply Kept.setFlag
    | apply Kept.setDsp
    | apply Kept.setBoot
    | apply Kept.setLed
    | apply Kept.elementEnabled
    | apply Kept.modMeter
    | apply Kept.loadDemand
    | apply Kept.checkMeters
    | exact fun _ => rfl
    | apply Kept.forN
    | simp only [Kept.upd_iff]
    | apply Kept.foldl
    | apply Kept.foldl_pair
    | (intro _ _ _)
    | (intro _ _)
    | (split; rename_i heq; have hk := congrArg Prod.snd heq; subst hk)
    | split

theorem Kept.samplePosition {v : Held} {c : Chip} {level : Bool} (hc : Kept v c) :
    Kept v (Chip.samplePosition c level) := by
  unfold Machine.Chip.samplePosition
  with_reducible repeat' first
    | assumption
    | (extract_lets +onlyGivenNames y; first | (refine Kept.have_ (v := v) (x := y) ?_ ?_; (on_goal 1 => subst y); (on_goal 2 => (intro hy; clear_value y))) | clear_value y)
    | apply Kept.setFlag
    | apply Kept.setBoot
    | exact fun _ => rfl
    | apply Kept.forN
    | simp only [Kept.upd_iff]
    | (intro _ _ _)
    | (intro _ _)
    | (split; rename_i heq; have hk := congrArg Prod.snd heq; subst hk)
    | split

theorem Kept.bringUp {v : Held} {c : Chip} {inp : StartInputs} (hc : Kept v c) :
    Kept v (Chip.bringUp c inp) := by
  unfold Machine.Chip.bringUp
  with_reducible repeat' first
    | assumption
    | (extract_lets +onlyGivenNames y; first | (refine Kept.have_ (v := v) (x := y) ?_ ?_; (on_goal 1 => subst y); (on_goal 2 => (intro hy; clear_value y))) | clear_value y)
    | apply Kept.clockGroups
    | apply Kept.queueStart
    | apply Kept.settleRole
    | apply Kept.loadConfig
    | apply Kept.samplePosition
    | apply Kept.forN
    | simp only [Kept.upd_iff]
    | (intro _ _ _)
    | (intro _ _)
    | (split; rename_i heq; have hk := congrArg Prod.snd heq; subst hk)
    | split

theorem Kept.checkStoredBlock {v : Held} {c : Chip} (hc : Kept v c) :
    Kept v (Chip.checkStoredBlock c) := by
  unfold Machine.Chip.checkStoredBlock
  with_reducible repeat' first
    | assumption
    | (extract_lets +onlyGivenNames y; first | (refine Kept.have_ (v := v) (x := y) ?_ ?_; (on_goal 1 => subst y); (on_goal 2 => (intro hy; clear_value y))) | clear_value y)
    | apply Kept.settleSafety
    | apply Kept.showConfirmed
    | apply Kept.showBlock
    | apply Kept.computeBlock
    | apply Kept.forN
    | simp only [Kept.upd_iff]
    | (intro _ _ _)
    | (intro _ _)
    | (split; rename_i heq; have hk := congrArg Prod.snd heq; subst hk)
    | split

theorem Kept.powerGood {v : Held} {inp : StartInputs} {c : Chip} (hc : Kept v c) :
    Kept v (powerGood inp c) := by
  unfold Machine.powerGood
  with_reducible repeat' first
    | assumption
    | (extract_lets +onlyGivenNames y; first | (refine Kept.have_ (v := v) (x := y) ?_ ?_; (on_goal 1 => subst y); (on_goal 2 => (intro hy; clear_value y))) | clear_value y)
    | apply Kept.put
    | apply Kept.setBoot
    | exact fun _ => rfl
    | apply Kept.bringUp
    | apply Kept.checkStoredBlock
    | apply Kept.forN
    | simp only [Kept.upd_iff]
    | (intro _ _ _)
    | (intro _ _)
    | (split; rename_i heq; have hk := congrArg Prod.snd heq; subst hk)
    | split

theorem Kept.resetRelease {v : Held} {inp : StartInputs} {c : Chip} (hc : Kept v c) :
    Kept v (resetRelease inp c) := by
  unfold Machine.resetRelease
  with_reducible repeat' first
    | assumption
    | (extract_lets +onlyGivenNames y; first | (refine Kept.have_ (v := v) (x := y) ?_ ?_; (on_goal 1 => subst y); (on_goal 2 => (intro hy; clear_value y))) | clear_value y)
    | apply Kept.setBoot
    | exact fun _ => rfl
    | apply Kept.bringUp
    | apply Kept.forN
    | simp only [Kept.upd_iff]
    | (intro _ _ _)
    | (intro _ _)
    | (split; rename_i heq; have hk := congrArg Prod.snd heq; subst hk)
    | split

theorem Kept.resetDies {v : Held} {c : Chip} (hc : Kept v c) (hm : v.mem = none) (hr : v.mram = none) (hn : v.nor = none) :
    Kept v (Chip.resetDies c) := by
  unfold Machine.Chip.resetDies
  have h1 : Kept v c.spoilUpdate := Kept.spoilUpdate hc hn
  dsimp only
  refine Kept.forN ?_ fun k d hd => ?_
  · refine Kept.checkStoredBlock (Kept.forN ?_ fun p d hd => ?_)
    · refine Kept.setFlag (Kept.put (Kept.setFlag ?_))
      exact ⟨h1.variant, ⟨Sparse.wf_filter h1.sound.regs, rfl, h1.sound.mram⟩, fun x hx => (by rw [hm] at hx; cases hx), h1.mram, h1.keys,
        h1.nor⟩
    · exact Kept.put hd
  · split
    · exact hd
    · exact Kept.settleSafety (Kept.actuate hd hr)

theorem Kept.resetCause {v : Held} {c : Chip} {cause : ℕ} {plane : ℕ} (hc : Kept v c) :
    Kept v (Chip.resetCause c cause plane) := by
  unfold Machine.Chip.resetCause
  with_reducible repeat' first
    | assumption
    | (extract_lets +onlyGivenNames y; first | (refine Kept.have_ (v := v) (x := y) ?_ ?_; (on_goal 1 => subst y); (on_goal 2 => (intro hy; clear_value y))) | clear_value y)
    | apply Kept.put
    | apply Kept.forN
    | simp only [Kept.upd_iff]
    | (intro _ _ _)
    | (intro _ _)
    | (split; rename_i heq; have hk := congrArg Prod.snd heq; subst hk)
    | split

theorem Kept.dieReset {v : Held} {c : Chip} (hc : Kept v c) (hm : v.mem = none) (hr : v.mram = none) (hn : v.nor = none) :
    Kept v (Chip.dieReset c) := by
  unfold Machine.Chip.dieReset
  with_reducible repeat' first
    | assumption
    | (extract_lets +onlyGivenNames y; first | (refine Kept.have_ (v := v) (x := y) ?_ ?_; (on_goal 1 => subst y); (on_goal 2 => (intro hy; clear_value y))) | clear_value y)
    | apply Kept.setWord
    | apply Kept.put
    | apply Kept.setFlag
    | apply Kept.setRaw
    | apply Kept.faultIs
    | apply Kept.showBridle
    | apply Kept.bothBridle
    | apply Kept.take
    | apply Kept.setSaf
    | apply Kept.showCrook
    | apply Kept.settleSafety
    | apply Kept.setBoot
    | exact fun _ => rfl
    | apply Kept.resetDies
    | apply Kept.forN
    | simp only [Kept.upd_iff]
    | apply Kept.foldl
    | apply Kept.foldl_pair
    | (intro _ _ _)
    | (intro _ _)
    | (split; rename_i heq; have hk := congrArg Prod.snd heq; subst hk)
    | split

theorem Kept.controllerDieReset {v : Held} {c : Chip} (hc : Kept v c) (hm : v.mem = none) (hr : v.mram = none) (hn : v.nor = none) :
    Kept v (controllerDieReset c) := by
  unfold Machine.controllerDieReset
  with_reducible repeat' first
    | assumption
    | (extract_lets +onlyGivenNames y; first | (refine Kept.have_ (v := v) (x := y) ?_ ?_; (on_goal 1 => subst y); (on_goal 2 => (intro hy; clear_value y))) | clear_value y)
    | apply Kept.resetCause
    | apply Kept.resetDies
    | apply Kept.dieReset
    | apply Kept.forN
    | simp only [Kept.upd_iff]
    | (intro _ _ _)
    | (intro _ _)
    | (split; rename_i heq; have hk := congrArg Prod.snd heq; subst hk)
    | split

theorem Kept.resetWrite {v : Held} {acc : Access} {x1 : ℕ} {c : Chip} (hc : Kept v c) (hr : v.mram = none) :
    Kept v (resetWrite acc x1 c) := by
  unfold Machine.resetWrite
  with_reducible repeat' first
    | assumption
    | (extract_lets +onlyGivenNames y; first | (refine Kept.have_ (v := v) (x := y) ?_ ?_; (on_goal 1 => subst y); (on_goal 2 => (intro hy; clear_value y))) | clear_value y)
    | apply Kept.write
    | apply Kept.requestReset
    | apply Kept.planeReset
    | apply Kept.forN
    | simp only [Kept.upd_iff]
    | (intro _ _ _)
    | (intro _ _)
    | (split; rename_i heq; have hk := congrArg Prod.snd heq; subst hk)
    | split

theorem Kept.resetNPin {v : Held} {c : Chip} (hc : Kept v c) (hm : v.mem = none) (hr : v.mram = none) (hn : v.nor = none) :
    Kept v (resetNPin c) := by
  unfold Machine.resetNPin
  with_reducible repeat' first
    | assumption
    | (extract_lets +onlyGivenNames y; first | (refine Kept.have_ (v := v) (x := y) ?_ ?_; (on_goal 1 => subst y); (on_goal 2 => (intro hy; clear_value y))) | clear_value y)
    | apply Kept.resetCause
    | apply Kept.resetDies
    | apply Kept.forN
    | simp only [Kept.upd_iff]
    | (intro _ _ _)
    | (intro _ _)
    | (split; rename_i heq; have hk := congrArg Prod.snd heq; subst hk)
    | split

theorem Kept.vinCollapse {v : Held} {c : Chip} (hc : Kept v c) (hm : v.mem = none) (hr : v.mram = none) (hn : v.nor = none) :
    Kept v (vinCollapse c) := by
  unfold Machine.vinCollapse
  with_reducible repeat' first
    | assumption
    | (extract_lets +onlyGivenNames y; first | (refine Kept.have_ (v := v) (x := y) ?_ ?_; (on_goal 1 => subst y); (on_goal 2 => (intro hy; clear_value y))) | clear_value y)
    | apply Kept.clearFault
    | apply Kept.setBoot
    | exact fun _ => rfl
    | apply Kept.resetDies
    | apply Kept.forN
    | simp only [Kept.upd_iff]
    | (intro _ _ _)
    | (intro _ _)
    | (split; rename_i heq; have hk := congrArg Prod.snd heq; subst hk)
    | split

theorem Kept.vinOvervoltage {v : Held} {mv : ℕ} {c : Chip} (hc : Kept v c) :
    Kept v (vinOvervoltage mv c) := by
  unfold Machine.vinOvervoltage
  with_reducible repeat' first
    | assumption
    | (extract_lets +onlyGivenNames y; first | (refine Kept.have_ (v := v) (x := y) ?_ ?_; (on_goal 1 => subst y); (on_goal 2 => (intro hy; clear_value y))) | clear_value y)
    | apply Kept.setFault
    | apply Kept.clearFault
    | apply Kept.forN
    | simp only [Kept.upd_iff]
    | (intro _ _ _)
    | (intro _ _)
    | (split; rename_i heq; have hk := congrArg Prod.snd heq; subst hk)
    | split

theorem Kept.refclkFault {v : Held} {c : Chip} (hc : Kept v c) :
    Kept v (refclkFault c) := by
  unfold Machine.refclkFault
  with_reducible repeat' first
    | assumption
    | (extract_lets +onlyGivenNames y; first | (refine Kept.have_ (v := v) (x := y) ?_ ?_; (on_goal 1 => subst y); (on_goal 2 => (intro hy; clear_value y))) | clear_value y)
    | apply Kept.setBoot
    | apply Kept.draw
    | apply Kept.requestReset
    | exact fun _ => rfl
    | apply Kept.forN
    | simp only [Kept.upd_iff]
    | (intro _ _ _)
    | (intro _ _)
    | (split; rename_i heq; have hk := congrArg Prod.snd heq; subst hk)
    | split

theorem Kept.dieOvertemp {v : Held} {c : Chip} (hc : Kept v c) :
    Kept v (dieOvertemp c) := by
  unfold Machine.dieOvertemp
  with_reducible repeat' first
    | assumption
    | (extract_lets +onlyGivenNames y; first | (refine Kept.have_ (v := v) (x := y) ?_ ?_; (on_goal 1 => subst y); (on_goal 2 => (intro hy; clear_value y))) | clear_value y)
    | apply Kept.setFault
    | apply Kept.forN
    | simp only [Kept.upd_iff]
    | (intro _ _ _)
    | (intro _ _)
    | (split; rename_i heq; have hk := congrArg Prod.snd heq; subst hk)
    | split

theorem Kept.safetyPlaneFault {v : Held} {c : Chip} {unit : ℕ} (hc : Kept v c) (hr : v.mram = none) :
    Kept v (Chip.safetyPlaneFault c unit) := by
  unfold Machine.Chip.safetyPlaneFault
  with_reducible repeat' first
    | assumption
    | (extract_lets +onlyGivenNames y; first | (refine Kept.have_ (v := v) (x := y) ?_ ?_; (on_goal 1 => subst y); (on_goal 2 => (intro hy; clear_value y))) | clear_value y)
    | apply Kept.planeReset
    | apply Kept.settleSafety
    | apply Kept.faultFlocks
    | apply Kept.forN
    | simp only [Kept.upd_iff]
    | (intro _ _ _)
    | (intro _ _)
    | (split; rename_i heq; have hk := congrArg Prod.snd heq; subst hk)
    | split

theorem Kept.eccUncorrectable {v : Held} {place : EccPlace} {c : Chip} (hc : Kept v c) (hr : v.mram = none) :
    Kept v (eccUncorrectable place c) := by
  unfold Machine.eccUncorrectable
  with_reducible repeat' first
    | assumption
    | (extract_lets +onlyGivenNames y; first | (refine Kept.have_ (v := v) (x := y) ?_ ?_; (on_goal 1 => subst y); (on_goal 2 => (intro hy; clear_value y))) | clear_value y)
    | apply Kept.setFault
    | apply Kept.requestReset
    | apply Kept.safetyPlaneFault
    | apply Kept.forN
    | simp only [Kept.upd_iff]
    | apply Kept.foldl
    | apply Kept.foldl_pair
    | (intro _ _ _)
    | (intro _ _)
    | (split; rename_i heq; have hk := congrArg Prod.snd heq; subst hk)
    | split

theorem Kept.fabricCapHit {v : Held} {k : ℕ} {c : Chip} (hc : Kept v c) :
    Kept v (fabricCapHit k c) := by
  unfold Machine.fabricCapHit
  with_reducible repeat' first
    | assumption
    | (extract_lets +onlyGivenNames y; first | (refine Kept.have_ (v := v) (x := y) ?_ ?_; (on_goal 1 => subst y); (on_goal 2 => (intro hy; clear_value y))) | clear_value y)
    | apply Kept.incSat
    | apply Kept.setFault
    | apply Kept.raiseEv
    | apply Kept.forN
    | simp only [Kept.upd_iff]
    | (intro _ _ _)
    | (intro _ _)
    | (split; rename_i heq; have hk := congrArg Prod.snd heq; subst hk)
    | split

theorem Kept.safetyWatchdogExpire {v : Held} {c : Chip} (hc : Kept v c) (hr : v.mram = none) :
    Kept v (safetyWatchdogExpire c) := by
  unfold Machine.safetyWatchdogExpire
  with_reducible repeat' first
    | assumption
    | (extract_lets +onlyGivenNames y; first | (refine Kept.have_ (v := v) (x := y) ?_ ?_; (on_goal 1 => subst y); (on_goal 2 => (intro hy; clear_value y))) | clear_value y)
    | apply Kept.setSaf
    | apply Kept.raiseEv
    | apply Kept.setFlag
    | apply Kept.watchdogsChanged
    | apply Kept.setLoad
    | apply Kept.safetyPlaneFault
    | apply Kept.forN
    | simp only [Kept.upd_iff]
    | (intro _ _ _)
    | (intro _ _)
    | (split; rename_i heq; have hk := congrArg Prod.snd heq; subst hk)
    | split

theorem Kept.lockstepError {v : Held} {c : Chip} (hc : Kept v c) (hr : v.mram = none) :
    Kept v (lockstepError c) := by
  unfold Machine.lockstepError
  with_reducible repeat' first
    | assumption
    | (extract_lets +onlyGivenNames y; first | (refine Kept.have_ (v := v) (x := y) ?_ ?_; (on_goal 1 => subst y); (on_goal 2 => (intro hy; clear_value y))) | clear_value y)
    | apply Kept.safetyPlaneFault
    | apply Kept.forN
    | simp only [Kept.upd_iff]
    | (intro _ _ _)
    | (intro _ _)
    | (split; rename_i heq; have hk := congrArg Prod.snd heq; subst hk)
    | split

theorem Kept.correctedEccError {v : Held} {target : Option ℕ} {c : Chip} (hc : Kept v c) :
    Kept v (correctedEccError target c) := by
  unfold Machine.correctedEccError
  with_reducible repeat' first
    | assumption
    | (extract_lets +onlyGivenNames y; first | (refine Kept.have_ (v := v) (x := y) ?_ ?_; (on_goal 1 => subst y); (on_goal 2 => (intro hy; clear_value y))) | clear_value y)
    | apply Kept.firePrivate
    | apply Kept.incSat
    | apply Kept.forN
    | simp only [Kept.upd_iff]
    | (intro _ _ _)
    | (intro _ _)
    | (split; rename_i heq; have hk := congrArg Prod.snd heq; subst hk)
    | split

theorem Kept.selectRecord {v : Held} {c : Chip} {records : List CalRecord} (hc : Kept v c) :
    Kept v (Chip.selectRecord c records) := by
  unfold Machine.Chip.selectRecord
  with_reducible repeat' first
    | assumption
    | (extract_lets +onlyGivenNames y; first | (refine Kept.have_ (v := v) (x := y) ?_ ?_; (on_goal 1 => subst y); (on_goal 2 => (intro hy; clear_value y))) | clear_value y)
    | apply Kept.setFlag
    | apply Kept.put
    | apply Kept.setFault
    | apply Kept.forN
    | simp only [Kept.upd_iff]
    | apply Kept.foldl
    | apply Kept.foldl_pair
    | (intro _ _ _)
    | (intro _ _)
    | (split; rename_i heq; have hk := congrArg Prod.snd heq; subst hk)
    | split

theorem Kept.ledgerRestore {v : Held} {records : List CalRecord} {c : Chip} (hc : Kept v c) (hr : v.mram = none) :
    Kept v (ledgerRestore records c) := by
  unfold Machine.ledgerRestore
  with_reducible repeat' first
    | assumption
    | (extract_lets +onlyGivenNames y; first | (refine Kept.have_ (v := v) (x := y) ?_ ?_; (on_goal 1 => subst y); (on_goal 2 => (intro hy; clear_value y))) | clear_value y)
    | apply Kept.put
    | apply Kept.setFlag
    | apply Kept.put64
    | apply Kept.showLog
    | apply Kept.journal
    | apply Kept.noteRegisters
    | apply Kept.setTrf
    | apply Kept.setDmd
    | apply Kept.loadDemand
    | apply Kept.showDemand
    | apply Kept.eachMeter
    | apply Kept.adoptSave
    | apply Kept.replayFrom
    | apply Kept.adoptCommit
    | apply Kept.restoreGap
    | apply Kept.restoreNothing
    | apply Kept.selectRecord
    | apply Kept.forN
    | simp only [Kept.upd_iff]
    | (intro _ _ _)
    | (intro _ _)
    | (split; rename_i heq; have hk := congrArg Prod.snd heq; subst hk)
    | split

theorem Kept.shadowWrite {v : Held} {acc : Access} {a : ℕ} {x2 : ℕ} {mirrored : Bool} {c : Chip} (hc : Kept v c) :
    Kept v (shadowWrite acc a x2 mirrored c) := by
  unfold Machine.shadowWrite
  with_reducible repeat' first
    | assumption
    | (extract_lets +onlyGivenNames y; first | (refine Kept.have_ (v := v) (x := y) ?_ ?_; (on_goal 1 => subst y); (on_goal 2 => (intro hy; clear_value y))) | clear_value y)
    | apply Kept.stageWrite
    | apply Kept.write
    | apply Kept.forN
    | simp only [Kept.upd_iff]
    | (intro _ _ _)
    | (intro _ _)
    | (split; rename_i heq; have hk := congrArg Prod.snd heq; subst hk)
    | split

theorem Kept.armSlot {v : Held} {c : Chip} {p : ℕ} {target : ℕ} {ho : Bool} {received : Bool} (hc : Kept v c) :
    Kept v (Chip.armSlot c p target ho received) := by
  unfold Machine.Chip.armSlot
  with_reducible repeat' first
    | assumption
    | (extract_lets +onlyGivenNames y; first | (refine Kept.have_ (v := v) (x := y) ?_ ?_; (on_goal 1 => subst y); (on_goal 2 => (intro hy; clear_value y))) | clear_value y)
    | apply Kept.setSlot
    | apply Kept.setFlag
    | apply Kept.put
    | apply Kept.forN
    | simp only [Kept.upd_iff]
    | (intro _ _ _)
    | (intro _ _)
    | (split; rename_i heq; have hk := congrArg Prod.snd heq; subst hk)
    | split

theorem Kept.stgArm {v : Held} {acc : Access} {p : ℕ} {x2 : ℕ} {c : Chip} (hc : Kept v c) :
    Kept v (stgArm acc p x2 c) := by
  unfold Machine.stgArm
  with_reducible repeat' first
    | assumption
    | (extract_lets +onlyGivenNames y; first | (refine Kept.have_ (v := v) (x := y) ?_ ?_; (on_goal 1 => subst y); (on_goal 2 => (intro hy; clear_value y))) | clear_value y)
    | apply Kept.write
    | apply Kept.setFlag
    | apply Kept.armSlot
    | apply Kept.mirror
    | apply Kept.raiseEv
    | apply Kept.put
    | apply Kept.forN
    | simp only [Kept.upd_iff]
    | (intro _ _ _)
    | (intro _ _)
    | (split; rename_i heq; have hk := congrArg Prod.snd heq; subst hk)
    | split

theorem Kept.stgCancel {v : Held} {acc : Access} {p : ℕ} {x2 : ℕ} {c : Chip} (hc : Kept v c) :
    Kept v (stgCancel acc p x2 c) := by
  unfold Machine.stgCancel
  with_reducible repeat' first
    | assumption
    | (extract_lets +onlyGivenNames y; first | (refine Kept.have_ (v := v) (x := y) ?_ ?_; (on_goal 1 => subst y); (on_goal 2 => (intro hy; clear_value y))) | clear_value y)
    | apply Kept.write
    | apply Kept.mirror
    | apply Kept.setSlot
    | apply Kept.put
    | apply Kept.forN
    | simp only [Kept.upd_iff]
    | (intro _ _ _)
    | (intro _ _)
    | (split; rename_i heq; have hk := congrArg Prod.snd heq; subst hk)
    | split

theorem Kept.armRecordReceive {v : Held} {p : ℕ} {target : ℕ} {cancel : Bool} {ho : Bool} {c : Chip} (hc : Kept v c) :
    Kept v (armRecordReceive p target cancel ho c) := by
  unfold Machine.armRecordReceive
  with_reducible repeat' first
    | assumption
    | (extract_lets +onlyGivenNames y; first | (refine Kept.have_ (v := v) (x := y) ?_ ?_; (on_goal 1 => subst y); (on_goal 2 => (intro hy; clear_value y))) | clear_value y)
    | apply Kept.setSlot
    | apply Kept.put
    | apply Kept.armSlot
    | apply Kept.forN
    | simp only [Kept.upd_iff]
    | (intro _ _ _)
    | (intro _ _)
    | (split; rename_i heq; have hk := congrArg Prod.snd heq; subst hk)
    | split

theorem Kept.applyPage {v : Held} {c : Chip} {page : ℕ} (hc : Kept v c) :
    Kept v (Chip.applyPage c page) := by
  unfold Machine.Chip.applyPage
  with_reducible repeat' first
    | assumption
    | (extract_lets +onlyGivenNames y; first | (refine Kept.have_ (v := v) (x := y) ?_ ?_; (on_goal 1 => subst y); (on_goal 2 => (intro hy; clear_value y))) | clear_value y)
    | apply Kept.setWord
    | apply Kept.setDsp
    | apply Kept.forN
    | simp only [Kept.upd_iff]
    | apply Kept.foldl
    | apply Kept.foldl_pair
    | (intro _ _ _)
    | (intro _ _)
    | (split; rename_i heq; have hk := congrArg Prod.snd heq; subst hk)
    | split

theorem Kept.sendItems {v : Held} {c : Chip} (hc : Kept v c) :
    Kept v (Chip.sendItems c) := by
  unfold Machine.Chip.sendItems
  with_reducible repeat' first
    | assumption
    | (extract_lets +onlyGivenNames y; first | (refine Kept.have_ (v := v) (x := y) ?_ ?_; (on_goal 1 => subst y); (on_goal 2 => (intro hy; clear_value y))) | clear_value y)
    | apply Kept.setDsp
    | apply Kept.sendChanged
    | apply Kept.forN
    | simp only [Kept.upd_iff]
    | (intro _ _ _)
    | (intro _ _)
    | (split; rename_i heq; have hk := congrArg Prod.snd heq; subst hk)
    | split

theorem Kept.closeQuality {v : Held} {c : Chip} {pages : List ℕ} {joined : List ℕ} {s : ℕ} (hc : Kept v c) :
    Kept v (Chip.closeQuality c pages joined s) := by
  unfold Machine.Chip.closeQuality
  with_reducible repeat' first
    | assumption
    | (extract_lets +onlyGivenNames y; first | (refine Kept.have_ (v := v) (x := y) ?_ ?_; (on_goal 1 => subst y); (on_goal 2 => (intro hy; clear_value y))) | clear_value y)
    | apply Kept.qualityChange
    | apply Kept.aggregateAll
    | apply Kept.forN
    | simp only [Kept.upd_iff]
    | (intro _ _ _)
    | (intro _ _)
    | (split; rename_i heq; have hk := congrArg Prod.snd heq; subst hk)
    | split

theorem Kept.appliedMeters {v : Held} {c : Chip} {pages : List ℕ} {joined : List ℕ} (hc : Kept v c) :
    Kept v ((Chip.appliedMeters c pages joined)).1 := by
  unfold Machine.Chip.appliedMeters
  with_reducible repeat' first
    | assumption
    | (extract_lets +onlyGivenNames y; first | (refine Kept.have_ (v := v) (x := y) ?_ ?_; (on_goal 1 => subst y); (on_goal 2 => (intro hy; clear_value y))) | clear_value y)
    | apply Kept.constantChange
    | apply Kept.checkMeters
    | apply Kept.membershipChanged
    | apply Kept.forN
    | simp only [Kept.upd_iff]
    | apply Kept.foldl
    | apply Kept.foldl_pair
    | (intro _ _ _)
    | (intro _ _)
    | (split; rename_i heq; have hk := congrArg Prod.snd heq; subst hk)
    | split

theorem Kept.appliedLedger {v : Held} {c : Chip} {before : Chip} {pages : List Nat} (hc : Kept v c) :
    Kept v (Chip.appliedLedger c before pages) := by
  unfold Machine.Chip.appliedLedger
  with_reducible repeat' first
    | assumption
    | (extract_lets +onlyGivenNames y; first | (refine Kept.have_ (v := v) (x := y) ?_ ?_; (on_goal 1 => subst y); (on_goal 2 => (intro hy; clear_value y))) | clear_value y)
    | apply Kept.setTrf
    | apply Kept.setDmd
    | apply Kept.showDisplayFaults
    | apply Kept.sendItems
    | apply Kept.forN
    | simp only [Kept.upd_iff]
    | (intro _ _ _)
    | (intro _ _)
    | (split; rename_i heq; have hk := congrArg Prod.snd heq; subst hk)
    | split

theorem Kept.noteStep {v : Held} {c : Chip} {l : List StepFour} (hc : Kept v c) :
    Kept v (Chip.noteStep c l) := by
  unfold Machine.Chip.noteStep
  with_reducible repeat' first
    | assumption
    | (extract_lets +onlyGivenNames y; first | (refine Kept.have_ (v := v) (x := y) ?_ ?_; (on_goal 1 => subst y); (on_goal 2 => (intro hy; clear_value y))) | clear_value y)
    | apply Kept.forN
    | simp only [Kept.upd_iff]
    | (intro _ _ _)
    | (intro _ _)
    | (split; rename_i heq; have hk := congrArg Prod.snd heq; subst hk)
    | split

theorem Kept.calibrationSwitch {v : Held} {c : Chip} {before : ℕ} {pages : List ℕ} {s : ℕ} (hc : Kept v c) :
    Kept v (Chip.calibrationSwitch c before pages s) := by
  unfold Machine.Chip.calibrationSwitch
  with_reducible repeat' first
    | assumption
    | (extract_lets +onlyGivenNames y; first | (refine Kept.have_ (v := v) (x := y) ?_ ?_; (on_goal 1 => subst y); (on_goal 2 => (intro hy; clear_value y))) | clear_value y)
    | apply Kept.put64
    | apply Kept.incSat
    | apply Kept.noteStep
    | apply Kept.forN
    | simp only [Kept.upd_iff]
    | (intro _ _ _)
    | (intro _ _)
    | (split; rename_i heq; have hk := congrArg Prod.snd heq; subst hk)
    | split

theorem Kept.handOver {v : Held} {c : Chip} {before : Nat} {pages : List Nat} (hc : Kept v c) :
    Kept v (Chip.handOver c before pages) := by
  unfold Machine.Chip.handOver
  with_reducible repeat' first
    | assumption
    | (extract_lets +onlyGivenNames y; first | (refine Kept.have_ (v := v) (x := y) ?_ ?_; (on_goal 1 => subst y); (on_goal 2 => (intro hy; clear_value y))) | clear_value y)
    | apply Kept.setFlag
    | apply Kept.journal
    | apply Kept.modMeter
    | apply Kept.noteStep
    | apply Kept.forN
    | simp only [Kept.upd_iff]
    | apply Kept.foldl
    | apply Kept.foldl_pair
    | (intro _ _ _)
    | (intro _ _)
    | (split; rename_i heq; have hk := congrArg Prod.snd heq; subst hk)
    | split

theorem Kept.loadActive {v : Held} {c : Chip} {near : TwinImage} (hc : Kept v c) :
    Kept v (Chip.loadActive c near) := by
  unfold Machine.Chip.loadActive
  with_reducible repeat' first
    | assumption
    | (extract_lets +onlyGivenNames y; first | (refine Kept.have_ (v := v) (x := y) ?_ ?_; (on_goal 1 => subst y); (on_goal 2 => (intro hy; clear_value y))) | clear_value y)
    | apply Kept.setWord
    | apply Kept.appliedElements
    | apply Kept.modMeter
    | apply Kept.membershipChanged
    | apply Kept.checkMeters
    | apply Kept.appliedLedger
    | apply Kept.forN
    | simp only [Kept.upd_iff]
    | apply Kept.foldl
    | apply Kept.foldl_pair
    | (intro _ _ _)
    | (intro _ _)
    | (split; rename_i heq; have hk := congrArg Prod.snd heq; subst hk)
    | split

theorem Kept.storeCopyDone {v : Held} {near : TwinImage} {c : Chip} (hc : Kept v c) (hr : v.mram = none) :
    Kept v (storeCopyDone near c) := by
  unfold Machine.storeCopyDone
  with_reducible repeat' first
    | assumption
    | (extract_lets +onlyGivenNames y; first | (refine Kept.have_ (v := v) (x := y) ?_ ?_; (on_goal 1 => subst y); (on_goal 2 => (intro hy; clear_value y))) | clear_value y)
    | apply Kept.setPair
    | apply Kept.loadActive
    | apply Kept.put
    | apply Kept.store
    | apply Kept.setWord
    | apply Kept.setTrf
    | apply Kept.showLog
    | apply Kept.beginRebuild
    | apply Kept.forN
    | simp only [Kept.upd_iff]
    | apply Kept.foldl
    | apply Kept.foldl_pair
    | (intro _ _ _)
    | (intro _ _)
    | (split; rename_i heq; have hk := congrArg Prod.snd heq; subst hk)
    | split

theorem Kept.applySlot {v : Held} {c : Chip} {p : Nat} {s : Nat} (hc : Kept v c) :
    Kept v (Chip.applySlot c p s) := by
  unfold Machine.Chip.applySlot
  with_reducible repeat' first
    | assumption
    | (extract_lets +onlyGivenNames y; first | (refine Kept.have_ (v := v) (x := y) ?_ ?_; (on_goal 1 => subst y); (on_goal 2 => (intro hy; clear_value y))) | clear_value y)
    | apply Kept.put
    | apply Kept.put64
    | apply Kept.raiseEv
    | apply Kept.setSlot
    | apply Kept.countDirty
    | apply Kept.journal
    | apply Kept.endAggregates
    | apply Kept.appliedElements
    | apply Kept.applyPage
    | apply Kept.closeQuality
    | apply Kept.appliedMeters
    | apply Kept.appliedLedger
    | apply Kept.noteStep
    | apply Kept.calibrationSwitch
    | apply Kept.handOver
    | apply Kept.forN
    | simp only [Kept.upd_iff]
    | apply Kept.foldl
    | apply Kept.foldl_pair
    | (intro _ _ _)
    | (intro _ _)
    | (split; rename_i heq; have hk := congrArg Prod.snd heq; subst hk)
    | split

theorem Kept.pairMismatch {v : Held} {c : Chip} (hc : Kept v c) :
    Kept v (Chip.pairMismatch c) := by
  unfold Machine.Chip.pairMismatch
  with_reducible repeat' first
    | assumption
    | (extract_lets +onlyGivenNames y; first | (refine Kept.have_ (v := v) (x := y) ?_ ?_; (on_goal 1 => subst y); (on_goal 2 => (intro hy; clear_value y))) | clear_value y)
    | apply Kept.raiseEv
    | apply Kept.setFlag
    | apply Kept.forN
    | simp only [Kept.upd_iff]
    | (intro _ _ _)
    | (intro _ _)
    | (split; rename_i heq; have hk := congrArg Prod.snd heq; subst hk)
    | split

theorem Kept.stgApply {v : Held} {near : ℕ} {c : Chip} (hc : Kept v c) :
    Kept v (stgApply near c) := by
  unfold Machine.stgApply
  with_reducible repeat' first
    | assumption
    | (extract_lets +onlyGivenNames y; first | (refine Kept.have_ (v := v) (x := y) ?_ ?_; (on_goal 1 => subst y); (on_goal 2 => (intro hy; clear_value y))) | clear_value y)
    | apply Kept.pairMismatch
    | apply Kept.raiseEv
    | apply Kept.setSlot
    | apply Kept.put
    | apply Kept.inc
    | apply Kept.applySlot
    | apply Kept.forN
    | simp only [Kept.upd_iff]
    | apply Kept.foldl
    | apply Kept.foldl_pair
    | (intro _ _ _)
    | (intro _ _)
    | (split; rename_i heq; have hk := congrArg Prod.snd heq; subst hk)
    | split

theorem Kept.settleAwait {v : Held} {c : Chip} (hc : Kept v c) :
    Kept v (Chip.settleAwait c) := by
  unfold Machine.Chip.settleAwait
  with_reducible repeat' first
    | assumption
    | (extract_lets +onlyGivenNames y; first | (refine Kept.have_ (v := v) (x := y) ?_ ?_; (on_goal 1 => subst y); (on_goal 2 => (intro hy; clear_value y))) | clear_value y)
    | apply Kept.loneWindow
    | apply Kept.forN
    | simp only [Kept.upd_iff]
    | (intro _ _ _)
    | (intro _ _)
    | (split; rename_i heq; have hk := congrArg Prod.snd heq; subst hk)
    | split

theorem Kept.newStride {v : Held} {c : Chip} (hc : Kept v c) :
    Kept v (Chip.newStride c) := by
  unfold Machine.Chip.newStride
  with_reducible repeat' first
    | assumption
    | (extract_lets +onlyGivenNames y; first | (refine Kept.have_ (v := v) (x := y) ?_ ?_; (on_goal 1 => subst y); (on_goal 2 => (intro hy; clear_value y))) | clear_value y)
    | apply Kept.advanceTo
    | apply Kept.canStrideEnd
    | apply Kept.forN
    | simp only [Kept.upd_iff]
    | (intro _ _ _)
    | (intro _ _)
    | (split; rename_i heq; have hk := congrArg Prod.snd heq; subst hk)
    | split

theorem Kept.openSecond {v : Held} {c : Chip} (hc : Kept v c) :
    Kept v (Chip.openSecond c) := by
  unfold Machine.Chip.openSecond
  with_reducible repeat' first
    | assumption
    | (extract_lets +onlyGivenNames y; first | (refine Kept.have_ (v := v) (x := y) ?_ ?_; (on_goal 1 => subst y); (on_goal 2 => (intro hy; clear_value y))) | clear_value y)
    | apply Kept.forN
    | simp only [Kept.upd_iff]
    | (intro _ _ _)
    | (intro _ _)
    | (split; rename_i heq; have hk := congrArg Prod.snd heq; subst hk)
    | split

theorem Kept.ticks {v : Held} {c : Chip} (hc : Kept v c) :
    Kept v (Chip.ticks c) := by
  unfold Machine.Chip.ticks
  with_reducible repeat' first
    | assumption
    | (extract_lets +onlyGivenNames y; first | (refine Kept.have_ (v := v) (x := y) ?_ ?_; (on_goal 1 => subst y); (on_goal 2 => (intro hy; clear_value y))) | clear_value y)
    | apply Kept.controlTick
    | apply Kept.firePrivate
    | apply Kept.forN
    | simp only [Kept.upd_iff]
    | (intro _ _ _)
    | (intro _ _)
    | (split; rename_i heq; have hk := congrArg Prod.snd heq; subst hk)
    | split

theorem Kept.foldSchedule {v : Held} {c : Chip} {inp : StrideInputs} (hc : Kept v c) (hr : v.mram = none) :
    Kept v (Chip.foldSchedule c inp) := by
  unfold Machine.Chip.foldSchedule
  with_reducible repeat' first
    | assumption
    | (extract_lets +onlyGivenNames y; first | (refine Kept.have_ (v := v) (x := y) ?_ ?_; (on_goal 1 => subst y); (on_goal 2 => (intro hy; clear_value y))) | clear_value y)
    | apply Kept.frontEndEdge
    | apply Kept.measure
    | apply Kept.ownWindow
    | apply Kept.forN
    | simp only [Kept.upd_iff]
    | (intro _ _ _)
    | (intro _ _)
    | (split; rename_i heq; have hk := congrArg Prod.snd heq; subst hk)
    | split

theorem Kept.unitsEdge {v : Held} {c : Chip} {inp : StrideInputs} (hc : Kept v c) :
    Kept v (Chip.unitsEdge c inp) := by
  unfold Machine.Chip.unitsEdge
  with_reducible repeat' first
    | assumption
    | (extract_lets +onlyGivenNames y; first | (refine Kept.have_ (v := v) (x := y) ?_ ?_; (on_goal 1 => subst y); (on_goal 2 => (intro hy; clear_value y))) | clear_value y)
    | apply Kept.loadEdge
    | apply Kept.portsEdge
    | apply Kept.netEdge
    | apply Kept.pairEdge
    | apply Kept.bootEdge
    | apply Kept.vaultEdge
    | apply Kept.tagEdge
    | apply Kept.mainsEdge
    | apply Kept.stallTick
    | apply Kept.displayTick
    | apply Kept.forN
    | simp only [Kept.upd_iff]
    | (intro _ _ _)
    | (intro _ _)
    | (split; rename_i heq; have hk := congrArg Prod.snd heq; subst hk)
    | split

theorem Kept.powerFailAge {v : Held} {c : Chip} (hc : Kept v c) :
    Kept v (Chip.powerFailAge c) := by
  unfold Machine.Chip.powerFailAge
  with_reducible repeat' first
    | assumption
    | (extract_lets +onlyGivenNames y; first | (refine Kept.have_ (v := v) (x := y) ?_ ?_; (on_goal 1 => subst y); (on_goal 2 => (intro hy; clear_value y))) | clear_value y)
    | apply Kept.setLed
    | apply Kept.forN
    | simp only [Kept.upd_iff]
    | (intro _ _ _)
    | (intro _ _)
    | (split; rename_i heq; have hk := congrArg Prod.snd heq; subst hk)
    | split

theorem Kept.strideEdge {v : Held} {inp : StrideInputs} {c : Chip} (hc : Kept v c) (hr : v.mram = none) :
    Kept v (strideEdge inp c) := by
  unfold Machine.strideEdge
  with_reducible repeat' first
    | assumption
    | (extract_lets +onlyGivenNames y; first | (refine Kept.have_ (v := v) (x := y) ?_ ?_; (on_goal 1 => subst y); (on_goal 2 => (intro hy; clear_value y))) | clear_value y)
    | apply Kept.timeEdge
    | apply Kept.switchesEdge
    | apply Kept.portsSample
    | apply Kept.sealEdge
    | apply Kept.safetyEdge
    | apply Kept.crookAlone
    | apply Kept.settleAwait
    | apply Kept.newStride
    | apply Kept.openSecond
    | apply Kept.ticks
    | apply Kept.foldSchedule
    | apply Kept.unitsEdge
    | apply Kept.powerFailAge
    | apply Kept.forN
    | simp only [Kept.upd_iff]
    | (intro _ _ _)
    | (intro _ _)
    | (split; rename_i heq; have hk := congrArg Prod.snd heq; subst hk)
    | split

theorem Kept.snapshotPublication {v : Held} {c : Chip} (hc : Kept v c) (hr : v.mram = none) :
    Kept v (snapshotPublication c) := by
  unfold Machine.snapshotPublication
  with_reducible repeat' first
    | assumption
    | (extract_lets +onlyGivenNames y; first | (refine Kept.have_ (v := v) (x := y) ?_ ?_; (on_goal 1 => subst y); (on_goal 2 => (intro hy; clear_value y))) | clear_value y)
    | apply Kept.showSummary
    | apply Kept.flushStepFour
    | apply Kept.pfwReleased
    | apply Kept.pqWindowEval
    | apply Kept.settleAwait
    | apply Kept.advanceTo
    | apply Kept.signPublished
    | apply Kept.forN
    | simp only [Kept.upd_iff]
    | (intro _ _ _)
    | (intro _ _)
    | (split; rename_i heq; have hk := congrArg Prod.snd heq; subst hk)
    | split

end Sys2Proof.Machine
end

