-- ==== Sys2Proof/Laws/PerInstr.lean ====
section
/-! SUPPORT. Per command: a well-formed command's bus access is well-formed, and no word of the opcode table spells the command, since the
table gives no row any bits. -/

namespace Sys2Proof.Laws.Shape

/-- The bus access of a command that is one. -/
def access (i : Instr) : Option Access :=
  match i with
  | .strideEdge _ => none
  | .snapshotPublication => none
  | .switchLinkLoss _ => none
  | .crookLinkLoss => none
  | .eccUncorrectable _ => none
  | .fabricCapHit _ => none
  | .mbxPayloadWrite acc _ _ _ _ => some acc
  | .mbxPost acc _ _ => some acc
  | .mbxTake acc _ _ => some acc
  | .registerWrite acc _ _ _ => some acc
  | .evPendClear acc _ _ _ => some acc
  | .evTypeWrite acc _ _ => some acc
  | .ownerWrite acc _ _ => some acc
  | .violationClear acc _ => some acc
  | .claim acc _ => some acc
  | .release acc _ => some acc
  | .claimForce acc _ => some acc
  | .shadowWrite acc _ _ _ => some acc
  | .stgArm acc _ _ => some acc
  | .stgCancel acc _ _ => some acc
  | .stgApply _ => none
  | .armRecordReceive _ _ _ _ => none
  | .pageStoreEccError _ => none
  | .latchedWordRead acc _ => some acc
  | .timSecLoRead acc _ => some acc
  | .timStepCmd acc _ => some acc
  | .stepApply => none
  | .loadStrideCmd acc => some acc
  | .clearIntegCmd acc => some acc
  | .strideLoad => none
  | .offsetSample acc _ _ => some acc
  | .ppsInEdge _ _ => none
  | .holdoverEnter => none
  | .holdoverExpire => none
  | .ppsMissing => none
  | .vcxoLoopUpdate => none
  | .comparatorArm acc _ _ _ => some acc
  | .comparatorFire _ _ => none
  | .ppsOutPulseEnd _ => none
  | .captureEdge _ _ _ => none
  | .capturePop acc _ => some acc
  | .timeLimitFault => none
  | .settlingEnd _ _ => none
  | .selectorSwitchHigh _ => none
  | .regressionWindowEnd => none
  | .ratioApply _ => none
  | .healthFaultSet _ _ => none
  | .healthFaultClear _ _ => none
  | .freqTimeout _ => none
  | .oneSecondPublish => none
  | .inputFaultClear _ => none
  | .metSealChange => none
  | .dieTempRead _ => none
  | .tauTrimStep => none
  | .handoverWindowOpen acc _ => some acc
  | .pqWindowEval => none
  | .calendarDataAccess acc _ _ _ => some acc
  | .calendarArm acc _ _ => some acc
  | .calendarCancel acc _ _ => some acc
  | .calendarActivate => none
  | .demandClose => none
  | .billingClose => none
  | .periodicSave => none
  | .forceSaveCmd acc _ => some acc
  | .saveComplete => none
  | .pfwNAssert => none
  | .pfwAccept => none
  | .commitWritten => none
  | .tailRecord => none
  | .brownout => none
  | .pfwNRelease => none
  | .resetCommit => none
  | .ledgerRestore _ => none
  | .mramEccError _ => none
  | .ledgerWriteWord acc _ => some acc
  | .ledgerReadWord acc => some acc
  | .faultRecordAppend acc _ => some acc
  | .signReading acc _ => some acc
  | .signReadingDone => none
  | .displayPoll => none
  | .displayReply _ _ => none
  | .displayReplyTimeout _ => none
  | .displayItemStep _ => none
  | .displayItemAccess acc _ _ _ _ => some acc
  | .pwmWrite acc _ _ => some acc
  | .pwmPeriodStart _ => none
  | .pilotStateAccept _ => none
  | .portDropCmd acc _ => some acc
  | .portRearm acc _ => some acc
  | .portAutoRearm _ => none
  | .proximityAccept _ => none
  | .cableTempConvert _ _ => none
  | .lockDebounce _ => none
  | .portFrameReceive _ _ _ _ => none
  | .portTxTailWrite acc _ _ => some acc
  | .portFrameSent _ _ _ => none
  | .canTxRequest acc _ _ => some acc
  | .canTxCancel acc _ _ => some acc
  | .canBufferWrite acc _ _ _ _ => some acc
  | .canFrameSent _ => none
  | .canFrameReceive _ _ _ _ _ => none
  | .canRxPop acc _ _ => some acc
  | .canBusOff _ => none
  | .canBusOffRecovery _ => none
  | .driveInEdge _ _ => none
  | .overcurrentTrip _ => none
  | .shortCircuitCut _ _ => none
  | .thermalLatchSet _ => none
  | .thermalLatchRelease _ => none
  | .clampUnlock acc _ => some acc
  | .retryDelayExpire _ => none
  | .retryReload _ => none
  | .channelClear acc _ => some acc
  | .bankUndervoltage _ => none
  | .bankRecover _ => none
  | .bankReversed _ => none
  | .openLoadOn _ => none
  | .offStateDiag acc _ => some acc
  | .diagComplete _ => none
  | .globalModeWrite acc _ => some acc
  | .bankOverload _ => none
  | .vslotRoute acc _ _ => some acc
  | .bridleRequest => none
  | .bridleInEdge _ _ => none
  | .take acc _ => some acc
  | .takeApply => none
  | .bridleMapCommit acc _ => some acc
  | .bridleMapCommitDone _ _ => none
  | .switchDiePowerUp _ _ => none
  | .darkTest _ _ _ => none
  | .cutOutputStuck _ _ => none
  | .rcmSensorFault _ _ => none
  | .rcmBandTrip _ _ _ => none
  | .rcmBandDisagree _ _ => none
  | .rcmTest acc _ _ => some acc
  | .rcmTestDone _ => none
  | .imdHalfPeriodEnd _ _ _ _ => none
  | .weldCheckTimeout _ => none
  | .estopContactChange _ _ _ => none
  | .estopTestPulse _ _ _ => none
  | .estopDiscrepancy _ => none
  | .flockPowerExceed _ => none
  | .safetyFrameReceive _ _ _ => none
  | .safetyFrameWindowEnd => none
  | .safetyFrameSend acc _ _ => some acc
  | .heartbeatSend _ => none
  | .peerTimeout _ => none
  | .singleNetworkEnd => none
  | .networkRecovery => none
  | .degradedSupervisionStart _ => none
  | .degradedWarning _ => none
  | .degradedDeadline _ => none
  | .degradedRecovery _ => none
  | .safetyWatchdogService acc _ => some acc
  | .safetyWatchdogExpire => none
  | .recoveryWindowExpire => none
  | .recoveryFinish => none
  | .flockRelease acc _ => some acc
  | .flockStop acc _ => some acc
  | .lockoutRelease acc _ => some acc
  | .estopReset acc _ => some acc
  | .safCmdInvalid acc _ => some acc
  | .strapRead _ _ => none
  | .strapReread _ _ => none
  | .spbDataAccess acc _ _ => some acc
  | .spbCommit acc => some acc
  | .spbConfirm acc => some acc
  | .spbRecheck => none
  | .safeOkRelease _ => none
  | .startupRelease _ => none
  | .safetyRxPop acc _ => some acc
  | .pairSelChange _ => none
  | .roleDecision _ => none
  | .strideFrameReceive _ _ _ => none
  | .strideFrameDeadline _ => none
  | .join _ _ => none
  | .storeCopyDone _ => none
  | .joinMarkCapture => none
  | .joinApply _ _ => none
  | .takeover => none
  | .assumeCmd acc => some acc
  | .swapCmd acc => some acc
  | .swapHandover => none
  | .swapComplete => none
  | .rejoinCmd acc => some acc
  | .harnessLinkDown => none
  | .harnessLinkUp => none
  | .harnessLaneDown _ => none
  | .harnessMsgSend acc _ => some acc
  | .harnessMsgReceive _ => none
  | .harnessMsgPop acc _ => some acc
  | .netLinkUp _ _ => none
  | .netLinkDown _ _ => none
  | .netSpeedTry _ => none
  | .netFrameReceive _ _ _ => none
  | .netRingDeliver _ => none
  | .netTxTailWrite acc _ _ _ => some acc
  | .netFrameSent _ _ => none
  | .streamEnable acc _ _ => some acc
  | .streamFrameSend _ => none
  | .ringPlaneWrite acc _ _ => some acc
  | .mainsZcEdge _ _ => none
  | .zcPredictedCrossing _ => none
  | .mainsFrameReceive _ _ => none
  | .mainsSend acc _ => some acc
  | .mainsAbort acc _ => some acc
  | .mainsTxStart _ => none
  | .mainsTxDone => none
  | .mainsRxPop acc _ => some acc
  | .tagPing _ => none
  | .tagRoundStart acc _ _ => some acc
  | .tagStop acc => some acc
  | .tagWrite acc _ _ _ => some acc
  | .tagRecordWrite acc _ _ _ _ _ => some acc
  | .tagSlot _ _ _ _ => none
  | .halterResolveAnswer => none
  | .tagReplyTimeout _ _ _ => none
  | .tagRoundEnd => none
  | .antennaFault _ _ => none
  | .tagChannelHop => none
  | .tagRepPop acc _ => some acc
  | .keyWrite acc => some acc
  | .keyErase acc => some acc
  | .keyGenerate acc => some acc
  | .keyAttr acc => some acc
  | .vaultCfgCommit acc => some acc
  | .halterSet acc => some acc
  | .keyCommandDone => none
  | .vaultRandom acc _ => some acc
  | .vaultSha384 acc _ => some acc
  | .vaultHmac acc _ => some acc
  | .vaultCmac acc _ => some acc
  | .vaultGcmEncrypt acc _ => some acc
  | .vaultGcmDecrypt acc _ => some acc
  | .vaultEcdsaSign acc _ => some acc
  | .vaultEcdsaVerify acc _ => some acc
  | .vaultEcdh acc _ => some acc
  | .vaultPublicKey acc _ => some acc
  | .vaultCoseSign1 acc _ => some acc
  | .vaultAttest acc _ => some acc
  | .vaultSlotInfo acc _ => some acc
  | .vaultRequestAbort acc _ => some acc
  | .vaultRequestStart _ => none
  | .vaultRequestDone _ => none
  | .trngHealthFail => none
  | .drbgReseed => none
  | .vaultRestoreDone => none
  | .evcClaimRead acc _ => some acc
  | .evcComplete acc _ _ => some acc
  | .evcRaiseSelf acc _ => some acc
  | .evcRaiseSoftware acc _ _ => some acc
  | .evcRaiseIpi acc _ _ => some acc
  | .evcTargetWrite acc _ _ => some acc
  | .compatModeWrite acc _ => some acc
  | .corePowerGate acc _ => some acc
  | .coreWfi _ => none
  | .sharedSourceStall _ => none
  | .powerGood _ => none
  | .planeStartCmd acc _ _ => some acc
  | .imageLoadDone => none
  | .watchdogService _ _ => none
  | .watchdogHalf _ => none
  | .watchdogExpire _ => none
  | .planeResetCmd acc _ => some acc
  | .dieResetCmd acc _ => some acc
  | .controllerDieReset => none
  | .moduleResetCmd acc _ => some acc
  | .resetNPin => none
  | .vinCollapse => none
  | .vinOvervoltage _ => none
  | .refclkFault => none
  | .dieOvertemp => none
  | .planeSwitchCmd acc _ _ => some acc
  | .planeConfirmCmd acc _ _ => some acc
  | .svnCommitCmd acc _ _ => some acc
  | .planeRevertCmd acc _ _ => some acc
  | .trialWindowExpire _ => none
  | .norEraseCmd acc => some acc
  | .norProgramCmd acc => some acc
  | .norVerifyCmd acc => some acc
  | .norInvalidateCmd acc => some acc
  | .norCommandDone => none
  | .keyHashEnrol acc => some acc
  | .keyHashRevoke acc => some acc
  | .lockstepError => none
  | .correctedEccError _ => none
  | .coreTimerCompare _ _ => none
  | .harnessLaneUp _ => none
  | .modAbsChange _ _ => none
  | .portPhyLinkChange _ _ => none
  | .canErrorPassive _ _ _ => none
  | .couplerDriverFault _ _ => none
  | .zcSenseLoss _ => none
  | .radioLinkLoss _ => none
  | .pairedCrookLossCut => none
  | .resetRelease _ => none
  | .calCrcUpdate => none
  | .passiveCrcUpdate => none

/-- What the family says of a command. -/
def Statement (i : Instr) : Prop :=
  (∀ acc : Access, access i = some acc → i.wellFormed = true → acc.wellFormed = true) ∧
  (∀ nbits w : Nat, decodeTableWord nbits w ≠ some i)

/-- Every command, by its own check of operands. -/
theorem every (i : Instr) : Statement i := by
  refine ⟨fun acc h w => ?_, fun _ _ => by simp [decodeTableWord]⟩
  cases i <;> first | (cases h; done) | (cases h; simp only [Instr.wellFormed, Bool.and_eq_true] at w; simp_all)

theorem strideEdge (inp : StrideInputs) : Statement (.strideEdge inp) := every _

theorem snapshotPublication : Statement .snapshotPublication := every _

theorem switchLinkLoss (d : Nat) : Statement (.switchLinkLoss d) := every _

theorem crookLinkLoss : Statement .crookLinkLoss := every _

theorem eccUncorrectable (place : EccPlace) : Statement (.eccUncorrectable place) := every _

theorem fabricCapHit (k : Nat) : Statement (.fabricCapHit k) := every _

theorem mbxPayloadWrite (acc : Access) (p k w v : Nat) : Statement (.mbxPayloadWrite acc p k w v) := every _

theorem mbxPost (acc : Access) (p v : Nat) : Statement (.mbxPost acc p v) := every _

theorem mbxTake (acc : Access) (p v : Nat) : Statement (.mbxTake acc p v) := every _

theorem registerWrite (acc : Access) (a v cyc : Nat) : Statement (.registerWrite acc a v cyc) := every _

theorem evPendClear (acc : Access) (page v arriving : Nat) : Statement (.evPendClear acc page v arriving) := every _

theorem evTypeWrite (acc : Access) (page v : Nat) : Statement (.evTypeWrite acc page v) := every _

theorem ownerWrite (acc : Access) (page v : Nat) : Statement (.ownerWrite acc page v) := every _

theorem violationClear (acc : Access) (v : Nat) : Statement (.violationClear acc v) := every _

theorem claim (acc : Access) (k : Nat) : Statement (.claim acc k) := every _

theorem release (acc : Access) (k : Nat) : Statement (.release acc k) := every _

theorem claimForce (acc : Access) (v : Nat) : Statement (.claimForce acc v) := every _

theorem shadowWrite (acc : Access) (a v : Nat) (mirrored : Bool) : Statement (.shadowWrite acc a v mirrored) := every _

theorem stgArm (acc : Access) (p v : Nat) : Statement (.stgArm acc p v) := every _

theorem stgCancel (acc : Access) (p v : Nat) : Statement (.stgCancel acc p v) := every _

theorem stgApply (near : Nat) : Statement (.stgApply near) := every _

theorem armRecordReceive (p target : Nat) (cancel handover : Bool) : Statement (.armRecordReceive p target cancel handover) := every _

theorem pageStoreEccError (page : Nat) : Statement (.pageStoreEccError page) := every _

theorem latchedWordRead (acc : Access) (a : Nat) : Statement (.latchedWordRead acc a) := every _

theorem timSecLoRead (acc : Access) (cyc : Nat) : Statement (.timSecLoRead acc cyc) := every _

theorem timStepCmd (acc : Access) (cyc : Nat) : Statement (.timStepCmd acc cyc) := every _

theorem stepApply : Statement .stepApply := every _

theorem loadStrideCmd (acc : Access) : Statement (.loadStrideCmd acc) := every _

theorem clearIntegCmd (acc : Access) : Statement (.clearIntegCmd acc) := every _

theorem strideLoad : Statement .strideLoad := every _

theorem offsetSample (acc : Access) (v cyc : Nat) : Statement (.offsetSample acc v cyc) := every _

theorem ppsInEdge (rising : Bool) (cyc : Nat) : Statement (.ppsInEdge rising cyc) := every _

theorem holdoverEnter : Statement .holdoverEnter := every _

theorem holdoverExpire : Statement .holdoverExpire := every _

theorem ppsMissing : Statement .ppsMissing := every _

theorem vcxoLoopUpdate : Statement .vcxoLoopUpdate := every _

theorem comparatorArm (acc : Access) (t v cyc : Nat) : Statement (.comparatorArm acc t v cyc) := every _

theorem comparatorFire (t cyc : Nat) : Statement (.comparatorFire t cyc) := every _

theorem ppsOutPulseEnd (cyc : Nat) : Statement (.ppsOutPulseEnd cyc) := every _

theorem captureEdge (k : Nat) (rising : Bool) (cyc : Nat) : Statement (.captureEdge k rising cyc) := every _

theorem capturePop (acc : Access) (k : Nat) : Statement (.capturePop acc k) := every _

theorem timeLimitFault : Statement .timeLimitFault := every _

theorem settlingEnd (n k : Nat) : Statement (.settlingEnd n k) := every _

theorem selectorSwitchHigh (n : Nat) : Statement (.selectorSwitchHigh n) := every _

theorem regressionWindowEnd : Statement .regressionWindowEnd := every _

theorem ratioApply (n : Nat) : Statement (.ratioApply n) := every _

theorem healthFaultSet (n b : Nat) : Statement (.healthFaultSet n b) := every _

theorem healthFaultClear (n b : Nat) : Statement (.healthFaultClear n b) := every _

theorem freqTimeout (n : Nat) : Statement (.freqTimeout n) := every _

theorem oneSecondPublish : Statement .oneSecondPublish := every _

theorem inputFaultClear (m : Nat) : Statement (.inputFaultClear m) := every _

theorem metSealChange : Statement .metSealChange := every _

theorem dieTempRead (t : Int) : Statement (.dieTempRead t) := every _

theorem tauTrimStep : Statement .tauTrimStep := every _

theorem handoverWindowOpen (acc : Access) (v : Nat) : Statement (.handoverWindowOpen acc v) := every _

theorem pqWindowEval : Statement .pqWindowEval := every _

theorem calendarDataAccess (acc : Access) (write : Bool) (v : Nat) (mirror : Option Nat) : Statement (.calendarDataAccess acc write v mirror) :=
  every _

theorem calendarArm (acc : Access) (v : Nat) (mirror : Option Nat) : Statement (.calendarArm acc v mirror) := every _

theorem calendarCancel (acc : Access) (v : Nat) (mirror : Option Nat) : Statement (.calendarCancel acc v mirror) := every _

theorem calendarActivate : Statement .calendarActivate := every _

theorem demandClose : Statement .demandClose := every _

theorem billingClose : Statement .billingClose := every _

theorem periodicSave : Statement .periodicSave := every _

theorem forceSaveCmd (acc : Access) (v : Nat) : Statement (.forceSaveCmd acc v) := every _

theorem saveComplete : Statement .saveComplete := every _

theorem pfwNAssert : Statement .pfwNAssert := every _

theorem pfwAccept : Statement .pfwAccept := every _

theorem commitWritten : Statement .commitWritten := every _

theorem tailRecord : Statement .tailRecord := every _

theorem brownout : Statement .brownout := every _

theorem pfwNRelease : Statement .pfwNRelease := every _

theorem resetCommit : Statement .resetCommit := every _

theorem ledgerRestore (records : List CalRecord) : Statement (.ledgerRestore records) := every _

theorem mramEccError (a : Nat) : Statement (.mramEccError a) := every _

theorem ledgerWriteWord (acc : Access) (v : Nat) : Statement (.ledgerWriteWord acc v) := every _

theorem ledgerReadWord (acc : Access) : Statement (.ledgerReadWord acc) := every _

theorem faultRecordAppend (acc : Access) (v : Nat) : Statement (.faultRecordAppend acc v) := every _

theorem signReading (acc : Access) (v : Nat) : Statement (.signReading acc v) := every _

theorem signReadingDone : Statement .signReadingDone := every _

theorem displayPoll : Statement .displayPoll := every _

theorem displayReply (d : Nat) (bytes : List Nat) : Statement (.displayReply d bytes) := every _

theorem displayReplyTimeout (d : Nat) : Statement (.displayReplyTimeout d) := every _

theorem displayItemStep (d : Nat) : Statement (.displayItemStep d) := every _

theorem displayItemAccess (acc : Access) (shadow write : Bool) (v : Nat) (mirror : Option Nat) : Statement (.displayItemAccess acc shadow write v mirror) :=
  every _

theorem pwmWrite (acc : Access) (n v : Nat) : Statement (.pwmWrite acc n v) := every _

theorem pwmPeriodStart (n : Nat) : Statement (.pwmPeriodStart n) := every _

theorem pilotStateAccept (n : Nat) : Statement (.pilotStateAccept n) := every _

theorem portDropCmd (acc : Access) (n : Nat) : Statement (.portDropCmd acc n) := every _

theorem portRearm (acc : Access) (n : Nat) : Statement (.portRearm acc n) := every _

theorem portAutoRearm (n : Nat) : Statement (.portAutoRearm n) := every _

theorem proximityAccept (n : Nat) : Statement (.proximityAccept n) := every _

theorem cableTempConvert (n r : Nat) : Statement (.cableTempConvert n r) := every _

theorem lockDebounce (n : Nat) : Statement (.lockDebounce n) := every _

theorem portFrameReceive (n : Nat) (bytes att : List Nat) (cyc : Nat) : Statement (.portFrameReceive n bytes att cyc) := every _

theorem portTxTailWrite (acc : Access) (n v : Nat) : Statement (.portTxTailWrite acc n v) := every _

theorem portFrameSent (n : Nat) (error : Bool) (cyc : Nat) : Statement (.portFrameSent n error cyc) := every _

theorem canTxRequest (acc : Access) (n v : Nat) : Statement (.canTxRequest acc n v) := every _

theorem canTxCancel (acc : Access) (n v : Nat) : Statement (.canTxCancel acc n v) := every _

theorem canBufferWrite (acc : Access) (n b w v : Nat) : Statement (.canBufferWrite acc n b w v) := every _

theorem canFrameSent (n : Nat) : Statement (.canFrameSent n) := every _

theorem canFrameReceive (n w0 w1 : Nat) (data : List Nat) (cyc : Nat) : Statement (.canFrameReceive n w0 w1 data cyc) := every _

theorem canRxPop (acc : Access) (n v : Nat) : Statement (.canRxPop acc n v) := every _

theorem canBusOff (n : Nat) : Statement (.canBusOff n) := every _

theorem canBusOffRecovery (n : Nat) : Statement (.canBusOffRecovery n) := every _

theorem driveInEdge (k : Nat) (level : Bool) : Statement (.driveInEdge k level) := every _

theorem overcurrentTrip (n : Overcurrent) : Statement (.overcurrentTrip n) := every _

theorem shortCircuitCut (n ma : Nat) : Statement (.shortCircuitCut n ma) := every _

theorem thermalLatchSet (n : Nat) : Statement (.thermalLatchSet n) := every _

theorem thermalLatchRelease (n : Nat) : Statement (.thermalLatchRelease n) := every _

theorem clampUnlock (acc : Access) (n : Nat) : Statement (.clampUnlock acc n) := every _

theorem retryDelayExpire (n : Nat) : Statement (.retryDelayExpire n) := every _

theorem retryReload (n : Nat) : Statement (.retryReload n) := every _

theorem channelClear (acc : Access) (n : Nat) : Statement (.channelClear acc n) := every _

theorem bankUndervoltage (b : Nat) : Statement (.bankUndervoltage b) := every _

theorem bankRecover (b : Nat) : Statement (.bankRecover b) := every _

theorem bankReversed (b : Nat) : Statement (.bankReversed b) := every _

theorem openLoadOn (n : Nat) : Statement (.openLoadOn n) := every _

theorem offStateDiag (acc : Access) (n : Nat) : Statement (.offStateDiag acc n) := every _

theorem diagComplete (n : Nat) : Statement (.diagComplete n) := every _

theorem globalModeWrite (acc : Access) (v : Nat) : Statement (.globalModeWrite acc v) := every _

theorem bankOverload (b : Nat) : Statement (.bankOverload b) := every _

theorem vslotRoute (acc : Access) (n v : Nat) : Statement (.vslotRoute acc n v) := every _

theorem bridleRequest : Statement .bridleRequest := every _

theorem bridleInEdge (k : Nat) (level : Bool) : Statement (.bridleInEdge k level) := every _

theorem take (acc : Access) (v : Nat) : Statement (.take acc v) := every _

theorem takeApply : Statement .takeApply := every _

theorem bridleMapCommit (acc : Access) (v : Nat) : Statement (.bridleMapCommit acc v) := every _

theorem bridleMapCommitDone (ok0 ok1 : Bool) : Statement (.bridleMapCommitDone ok0 ok1) := every _

theorem switchDiePowerUp (d : Nat) (mapOk : Bool) : Statement (.switchDiePowerUp d mapOk) := every _

theorem darkTest (a : Bool) (f : Nat) (fell : Bool) : Statement (.darkTest a f fell) := every _

theorem cutOutputStuck (a : Bool) (f : Nat) : Statement (.cutOutputStuck a f) := every _

theorem rcmSensorFault (n : Nat) (bad : Bool) : Statement (.rcmSensorFault n bad) := every _

theorem rcmBandTrip (a : Bool) (n band : Nat) : Statement (.rcmBandTrip a n band) := every _

theorem rcmBandDisagree (n band : Nat) : Statement (.rcmBandDisagree n band) := every _

theorem rcmTest (acc : Access) (n v : Nat) : Statement (.rcmTest acc n v) := every _

theorem rcmTestDone (n : Nat) : Statement (.rcmTestDone n) := every _

theorem imdHalfPeriodEnd (k uv ms : Nat) (settled : Bool) : Statement (.imdHalfPeriodEnd k uv ms settled) := every _

theorem weldCheckTimeout (n : Nat) : Statement (.weldCheckTimeout n) := every _

theorem estopContactChange (k : Nat) (b closed : Bool) : Statement (.estopContactChange k b closed) := every _

theorem estopTestPulse (k : Nat) (b stayed : Bool) : Statement (.estopTestPulse k b stayed) := every _

theorem estopDiscrepancy (k : Nat) : Statement (.estopDiscrepancy k) := every _

theorem flockPowerExceed (f : Nat) : Statement (.flockPowerExceed f) := every _

theorem safetyFrameReceive (net : Nat) (bytes : List Nat) (cyc : Nat) : Statement (.safetyFrameReceive net bytes cyc) := every _

theorem safetyFrameWindowEnd : Statement .safetyFrameWindowEnd := every _

theorem safetyFrameSend (acc : Access) (v cyc : Nat) : Statement (.safetyFrameSend acc v cyc) := every _

theorem heartbeatSend (cyc : Nat) : Statement (.heartbeatSend cyc) := every _

theorem peerTimeout (peer : Nat) : Statement (.peerTimeout peer) := every _

theorem singleNetworkEnd : Statement .singleNetworkEnd := every _

theorem networkRecovery : Statement .networkRecovery := every _

theorem degradedSupervisionStart (f : Nat) : Statement (.degradedSupervisionStart f) := every _

theorem degradedWarning (f : Nat) : Statement (.degradedWarning f) := every _

theorem degradedDeadline (f : Nat) : Statement (.degradedDeadline f) := every _

theorem degradedRecovery (f : Nat) : Statement (.degradedRecovery f) := every _

theorem safetyWatchdogService (acc : Access) (v : Nat) : Statement (.safetyWatchdogService acc v) := every _

theorem safetyWatchdogExpire : Statement .safetyWatchdogExpire := every _

theorem recoveryWindowExpire : Statement .recoveryWindowExpire := every _

theorem recoveryFinish : Statement .recoveryFinish := every _

theorem flockRelease (acc : Access) (mask : Nat) : Statement (.flockRelease acc mask) := every _

theorem flockStop (acc : Access) (mask : Nat) : Statement (.flockStop acc mask) := every _

theorem lockoutRelease (acc : Access) (mask : Nat) : Statement (.lockoutRelease acc mask) := every _

theorem estopReset (acc : Access) (mask : Nat) : Statement (.estopReset acc mask) := every _

theorem safCmdInvalid (acc : Access) (v : Nat) : Statement (.safCmdInvalid acc v) := every _

theorem strapRead (words crook : List Nat) : Statement (.strapRead words crook) := every _

theorem strapReread (words crook : List Nat) : Statement (.strapReread words crook) := every _

theorem spbDataAccess (acc : Access) (write : Bool) (v : Nat) : Statement (.spbDataAccess acc write v) := every _

theorem spbCommit (acc : Access) : Statement (.spbCommit acc) := every _

theorem spbConfirm (acc : Access) : Statement (.spbConfirm acc) := every _

theorem spbRecheck : Statement .spbRecheck := every _

theorem safeOkRelease (n : Nat) : Statement (.safeOkRelease n) := every _

theorem startupRelease (f : Nat) : Statement (.startupRelease f) := every _

theorem safetyRxPop (acc : Access) (v : Nat) : Statement (.safetyRxPop acc v) := every _

theorem pairSelChange (level : Bool) : Statement (.pairSelChange level) := every _

theorem roleDecision (twin : Option TwinReport) : Statement (.roleDecision twin) := every _

theorem strideFrameReceive (valid errored : Nat) (frame : StrideFrame) : Statement (.strideFrameReceive valid errored frame) := every _

theorem strideFrameDeadline (errored : Nat) : Statement (.strideFrameDeadline errored) := every _

theorem join (stride : Nat) (delays : List Nat) : Statement (.join stride delays) := every _

theorem storeCopyDone (near : Machine.TwinImage) : Statement (.storeCopyDone near) := every _

theorem joinMarkCapture : Statement .joinMarkCapture := every _

theorem joinApply (near frame : Machine.TwinImage) : Statement (.joinApply near frame) := every _

theorem takeover : Statement .takeover := every _

theorem assumeCmd (acc : Access) : Statement (.assumeCmd acc) := every _

theorem swapCmd (acc : Access) : Statement (.swapCmd acc) := every _

theorem swapHandover : Statement .swapHandover := every _

theorem swapComplete : Statement .swapComplete := every _

theorem rejoinCmd (acc : Access) : Statement (.rejoinCmd acc) := every _

theorem harnessLinkDown : Statement .harnessLinkDown := every _

theorem harnessLinkUp : Statement .harnessLinkUp := every _

theorem harnessLaneDown (l : Nat) : Statement (.harnessLaneDown l) := every _

theorem harnessMsgSend (acc : Access) (v : Nat) : Statement (.harnessMsgSend acc v) := every _

theorem harnessMsgReceive (bytes : List Nat) : Statement (.harnessMsgReceive bytes) := every _

theorem harnessMsgPop (acc : Access) (v : Nat) : Statement (.harnessMsgPop acc v) := every _

theorem netLinkUp (n : Nat) (tenG : Bool) : Statement (.netLinkUp n tenG) := every _

theorem netLinkDown (n : Nat) (los : Bool) : Statement (.netLinkDown n los) := every _

theorem netSpeedTry (n : Nat) : Statement (.netSpeedTry n) := every _

theorem netFrameReceive (n : Nat) (frame : List Nat) (cyc : Nat) : Statement (.netFrameReceive n frame cyc) := every _

theorem netRingDeliver (t : Timed) : Statement (.netRingDeliver t) := every _

theorem netTxTailWrite (acc : Access) (r v cyc : Nat) : Statement (.netTxTailWrite acc r v cyc) := every _

theorem netFrameSent (n cyc : Nat) : Statement (.netFrameSent n cyc) := every _

theorem streamEnable (acc : Access) (k v : Nat) : Statement (.streamEnable acc k v) := every _

theorem streamFrameSend (k : Nat) : Statement (.streamFrameSend k) := every _

theorem ringPlaneWrite (acc : Access) (t : Timed) (p : Nat) : Statement (.ringPlaneWrite acc t p) := every _

theorem mainsZcEdge (x cyc : Nat) : Statement (.mainsZcEdge x cyc) := every _

theorem zcPredictedCrossing (cyc : Nat) : Statement (.zcPredictedCrossing cyc) := every _

theorem mainsFrameReceive (rx : List MainsCoupler) (cyc : Nat) : Statement (.mainsFrameReceive rx cyc) := every _

theorem mainsSend (acc : Access) (v : Nat) : Statement (.mainsSend acc v) := every _

theorem mainsAbort (acc : Access) (v : Nat) : Statement (.mainsAbort acc v) := every _

theorem mainsTxStart (bandBusy : Bool) : Statement (.mainsTxStart bandBusy) := every _

theorem mainsTxDone : Statement .mainsTxDone := every _

theorem mainsRxPop (acc : Access) (v : Nat) : Statement (.mainsRxPop acc v) := every _

theorem tagPing (gammas : List (Nat × (Int × Int))) : Statement (.tagPing gammas) := every _

theorem tagRoundStart (acc : Access) (re im : Int) : Statement (.tagRoundStart acc re im) := every _

theorem tagStop (acc : Access) : Statement (.tagStop acc) := every _

theorem tagWrite (acc : Access) (re im : Int) (replies : List TagWriteReply) : Statement (.tagWrite acc re im replies) := every _

theorem tagRecordWrite (acc : Access) (re im : Int) (copies : Option (TagReadReply × TagReadReply)) (replies : List TagWriteReply) (verify : Option (TagReadReply × TagReadReply)) : Statement (.tagRecordWrite acc re im copies replies verify) :=
  every _

theorem tagSlot (reply : TagReply) (rssi phase : Int) (cyc : Nat) : Statement (.tagSlot reply rssi phase cyc) := every _

theorem halterResolveAnswer : Statement .halterResolveAnswer := every _

theorem tagReplyTimeout (rssi phase : Int) (cyc : Nat) : Statement (.tagReplyTimeout rssi phase cyc) := every _

theorem tagRoundEnd : Statement .tagRoundEnd := every _

theorem antennaFault (a : Nat) (sent : Bool) : Statement (.antennaFault a sent) := every _

theorem tagChannelHop : Statement .tagChannelHop := every _

theorem tagRepPop (acc : Access) (v : Nat) : Statement (.tagRepPop acc v) := every _

theorem keyWrite (acc : Access) : Statement (.keyWrite acc) := every _

theorem keyErase (acc : Access) : Statement (.keyErase acc) := every _

theorem keyGenerate (acc : Access) : Statement (.keyGenerate acc) := every _

theorem keyAttr (acc : Access) : Statement (.keyAttr acc) := every _

theorem vaultCfgCommit (acc : Access) : Statement (.vaultCfgCommit acc) := every _

theorem halterSet (acc : Access) : Statement (.halterSet acc) := every _

theorem keyCommandDone : Statement .keyCommandDone := every _

theorem vaultRandom (acc : Access) (n : Nat) : Statement (.vaultRandom acc n) := every _

theorem vaultSha384 (acc : Access) (n : Nat) : Statement (.vaultSha384 acc n) := every _

theorem vaultHmac (acc : Access) (n : Nat) : Statement (.vaultHmac acc n) := every _

theorem vaultCmac (acc : Access) (n : Nat) : Statement (.vaultCmac acc n) := every _

theorem vaultGcmEncrypt (acc : Access) (n : Nat) : Statement (.vaultGcmEncrypt acc n) := every _

theorem vaultGcmDecrypt (acc : Access) (n : Nat) : Statement (.vaultGcmDecrypt acc n) := every _

theorem vaultEcdsaSign (acc : Access) (n : Nat) : Statement (.vaultEcdsaSign acc n) := every _

theorem vaultEcdsaVerify (acc : Access) (n : Nat) : Statement (.vaultEcdsaVerify acc n) := every _

theorem vaultEcdh (acc : Access) (n : Nat) : Statement (.vaultEcdh acc n) := every _

theorem vaultPublicKey (acc : Access) (n : Nat) : Statement (.vaultPublicKey acc n) := every _

theorem vaultCoseSign1 (acc : Access) (n : Nat) : Statement (.vaultCoseSign1 acc n) := every _

theorem vaultAttest (acc : Access) (n : Nat) : Statement (.vaultAttest acc n) := every _

theorem vaultSlotInfo (acc : Access) (n : Nat) : Statement (.vaultSlotInfo acc n) := every _

theorem vaultRequestAbort (acc : Access) (n : Nat) : Statement (.vaultRequestAbort acc n) := every _

theorem vaultRequestStart (engine : Nat) : Statement (.vaultRequestStart engine) := every _

theorem vaultRequestDone (engine : Nat) : Statement (.vaultRequestDone engine) := every _

theorem trngHealthFail : Statement .trngHealthFail := every _

theorem drbgReseed : Statement .drbgReseed := every _

theorem vaultRestoreDone : Statement .vaultRestoreDone := every _

theorem evcClaimRead (acc : Access) (t : Nat) : Statement (.evcClaimRead acc t) := every _

theorem evcComplete (acc : Access) (t v : Nat) : Statement (.evcComplete acc t v) := every _

theorem evcRaiseSelf (acc : Access) (t : Nat) : Statement (.evcRaiseSelf acc t) := every _

theorem evcRaiseSoftware (acc : Access) (t id_ : Nat) : Statement (.evcRaiseSoftware acc t id_) := every _

theorem evcRaiseIpi (acc : Access) (t dest : Nat) : Statement (.evcRaiseIpi acc t dest) := every _

theorem evcTargetWrite (acc : Access) (id_ t : Nat) : Statement (.evcTargetWrite acc id_ t) := every _

theorem compatModeWrite (acc : Access) (v : Nat) : Statement (.compatModeWrite acc v) := every _

theorem corePowerGate (acc : Access) (v : Nat) : Statement (.corePowerGate acc v) := every _

theorem coreWfi (t : CoreSleep) : Statement (.coreWfi t) := every _

theorem sharedSourceStall (id : Nat) : Statement (.sharedSourceStall id) := every _

theorem powerGood (inp : StartInputs) : Statement (.powerGood inp) := every _

theorem planeStartCmd (acc : Access) (p v : Nat) : Statement (.planeStartCmd acc p v) := every _

theorem imageLoadDone : Statement .imageLoadDone := every _

theorem watchdogService (t v : Nat) : Statement (.watchdogService t v) := every _

theorem watchdogHalf (p : Nat) : Statement (.watchdogHalf p) := every _

theorem watchdogExpire (p : Nat) : Statement (.watchdogExpire p) := every _

theorem planeResetCmd (acc : Access) (v : Nat) : Statement (.planeResetCmd acc v) := every _

theorem dieResetCmd (acc : Access) (v : Nat) : Statement (.dieResetCmd acc v) := every _

theorem controllerDieReset : Statement .controllerDieReset := every _

theorem moduleResetCmd (acc : Access) (v : Nat) : Statement (.moduleResetCmd acc v) := every _

theorem resetNPin : Statement .resetNPin := every _

theorem vinCollapse : Statement .vinCollapse := every _

theorem vinOvervoltage (mv : Nat) : Statement (.vinOvervoltage mv) := every _

theorem refclkFault : Statement .refclkFault := every _

theorem dieOvertemp : Statement .dieOvertemp := every _

theorem planeSwitchCmd (acc : Access) (p v : Nat) : Statement (.planeSwitchCmd acc p v) := every _

theorem planeConfirmCmd (acc : Access) (p v : Nat) : Statement (.planeConfirmCmd acc p v) := every _

theorem svnCommitCmd (acc : Access) (p v : Nat) : Statement (.svnCommitCmd acc p v) := every _

theorem planeRevertCmd (acc : Access) (p v : Nat) : Statement (.planeRevertCmd acc p v) := every _

theorem trialWindowExpire (p : Nat) : Statement (.trialWindowExpire p) := every _

theorem norEraseCmd (acc : Access) : Statement (.norEraseCmd acc) := every _

theorem norProgramCmd (acc : Access) : Statement (.norProgramCmd acc) := every _

theorem norVerifyCmd (acc : Access) : Statement (.norVerifyCmd acc) := every _

theorem norInvalidateCmd (acc : Access) : Statement (.norInvalidateCmd acc) := every _

theorem norCommandDone : Statement .norCommandDone := every _

theorem keyHashEnrol (acc : Access) : Statement (.keyHashEnrol acc) := every _

theorem keyHashRevoke (acc : Access) : Statement (.keyHashRevoke acc) := every _

theorem lockstepError : Statement .lockstepError := every _

theorem correctedEccError (target : Option Nat) : Statement (.correctedEccError target) := every _

theorem coreTimerCompare (t : Nat) (level : Bool) : Statement (.coreTimerCompare t level) := every _

theorem harnessLaneUp (l : Nat) : Statement (.harnessLaneUp l) := every _

theorem modAbsChange (n : Nat) (high : Bool) : Statement (.modAbsChange n high) := every _

theorem portPhyLinkChange (n : Nat) (up : Bool) : Statement (.portPhyLinkChange n up) := every _

theorem canErrorPassive (n tec rec_ : Nat) : Statement (.canErrorPassive n tec rec_) := every _

theorem couplerDriverFault (x : Nat) (bad : Bool) : Statement (.couplerDriverFault x bad) := every _

theorem zcSenseLoss (x : Nat) : Statement (.zcSenseLoss x) := every _

theorem radioLinkLoss (lost : Bool) : Statement (.radioLinkLoss lost) := every _

theorem pairedCrookLossCut : Statement .pairedCrookLossCut := every _

theorem resetRelease (inp : StartInputs) : Statement (.resetRelease inp) := every _

theorem calCrcUpdate : Statement .calCrcUpdate := every _

theorem passiveCrcUpdate : Statement .passiveCrcUpdate := every _

end Sys2Proof.Laws.Shape
end

