-- ==== Sys2Proof/Tests/Slice0.lean ====
section
/-! SUPPORT. The tests: a concrete state that meets the hypotheses of each statement and of each of its clauses, the words and numbers that
the spec works out, and an ill-formed term for each check of WellFormed. -/

namespace Sys2Proof.Tests

set_option Elab.async false

open Sys2Proof Sys2Proof.Machine

/-- A word access by a core of each plane. -/
def ctl : Access := { by_ := .a0 }
def dat : Access := { by_ := .b0 }
def mgt : Access := { by_ := .m0 }
def saf : Access := { by_ := .s0 }

/-- The block after reset, with a running Fold, as Off, and with a claim. -/
def c0 : Chip := {}
def run0 : Chip := { c0 with fold := { c0.fold with running := true } }
def off0 : Chip := (c0.put HRN_STATUS_role 2).setFlag HRN_CTRL_pair_en true
def claim0 (c : Chip) (k plane : Nat) : Chip := (c.setFlag (FAB_CLAIM_held k) true).put (FAB_CLAIM_owner k) plane

/-! ### Hypotheses that some state meets -/

theorem witness_StepRunsFrontCommand :
    ({ chip := c0, pending := [.stepApply] } : State).pending = .stepApply :: [] ∧ State.reset.pending = [] := ⟨rfl, rfl⟩

theorem witness_SoundIsKept : State.reset.Sound ∧ step State.reset = .next State.reset := ⟨⟨by decide, by decide, by decide⟩, rfl⟩

theorem witness_MemoryFrames :
    exec .brownout State.reset = .next State.reset ∧ writesMemory .brownout = false ∧ writesStore .brownout = false ∧
      writesKeys .brownout = false ∧ writesImages .brownout = false := ⟨by rfl, rfl, rfl, rfl, rfl⟩

theorem witness_KeysAreNeverRead (k : Nat) :
    (Sparse.get (fun _ => ({} : VaultSlot)) [(3, { key := { key := [1] } })] k).key.generation =
      (Sparse.get (fun _ => ({} : VaultSlot)) c0.vlt.slots k).key.generation := by
  by_cases h : k = 3
  · subst h; rfl
  · simp [Sparse.get, Sparse.find, c0, h]

theorem witness_Mailboxes :
    c0.Accepts ctl (mailboxWord 0 0 15) 0 ∧ c0.Accepts ctl (MBX_POST 0).addr 0 ∧ initiatorPlane ctl.by_ = mailboxSender 0 0 ∧
      c0.Accepts dat (MBX_TAKE 0).addr 0 ∧ initiatorPlane dat.by_ = (pairPlanes 0).2 ∧
      c0.Accepts saf (mailboxWord 5 15 0) 0 ∧ c0.Accepts saf (MBX_POST 5).addr 0 ∧ initiatorPlane saf.by_ = mailboxSender 5 15 ∧
      initiatorPlane dat.by_ ≠ mailboxSender 0 0 ∧ c0.Accepts dat (mailboxWord 0 0 0) 0 ∧ c0.Accepts dat (MBX_POST 0).addr 0 ∧
      c0.Accepts ctl (MBX_TAKE 0).addr 0 ∧ c0.Readable dat (mailboxWord 0 0 15) ∧ c0.flag ((MBX_STATE_full 0).bitOf 0) = false ∧
      mgt.size = 4 ∧ mgt.skew = 0 ∧ inPair 0 (initiatorPlane mgt.by_) = false := by
  and_intros <;> first | decide | exact ⟨by decide, by decide⟩

/-- A slot of the management plane that is armed with the page of OPT 0 frozen, for Stride 9. -/
def frozen0 : Chip := (c0.put (STG_SLOT_ST_state 2) 1).setSlot 2 { target := some 9, frozen := [0x40200000] }

theorem witness_PageRegisters :
    c0.isPage 0x40200000 = true ∧
    c0.Accepts ctl 0x40200018 1 ∧
    c0.Accepts ctl 0x4020001C 1 ∧
    c0.Accepts mgt FAB_VIOL_CLR.addr 1 ∧
    c0.Accepts dat (PQM_CFG 0).addr 1 ∧
    stagedMask (((locate c0.variant (PQM_CFG 0).addr).getD (.fab, 0)).1) (activeOfs (((PQM_CFG 0).addr - (((locate c0.variant (PQM_CFG 0).addr).getD (.fab, 0)).1).base) % (((locate c0.variant (PQM_CFG 0).addr).getD (.fab, 0)).1).pitch)) ≠ 0 ∧
    c0.Accepts mgt 0x40200030 2 ∧
    c0.isPage 0x40020000 = true ∧
    c0.Accepts mgt 0x40020030 2 ∧
    (c0.put (scopeFld 0x40200000) 0).flag ⟨0x40200030, 8, 1⟩ = true ∧
    2 % 4 ≠ (c0.put (scopeFld 0x40200000) 0).rd (ownerFld 0x40200000) ∧
    (c0.put (scopeFld 0x40200000) 0).frozen 0x40200000 = false ∧
    (c0.put (scopeFld 0x40020000) 0).flag ⟨0x40020030, 8, 1⟩ = false ∧
    c0.isPage 0x40020000 = true ∧
    c0.Accepts mgt 0x40020030 2 ∧
    frozen0.Accepts mgt 0x40200030 2 ∧
    (frozen0.put (scopeFld 0x40200000) 0).flag ⟨0x40200030, 8, 1⟩ = true ∧
    2 % 4 ≠ (frozen0.put (scopeFld 0x40200000) 0).rd (ownerFld 0x40200000) ∧
    (frozen0.put (scopeFld 0x40200000) 0).frozen 0x40200000 = true ∧
    (c0.put (scopeFld 0x40200000) 0).ownerAllowed 0x40200000 3 = false ∧
    (c0.put (scopeFld 0x40200000) 0).ownerAllowed 0x40200000 2 = true ∧
    (frozen0.put (scopeFld 0x40200000) 0).ownerAllowed 0x40200000 2 = true :=
  by and_intros <;> first | decide +kernel | exact ⟨by decide +kernel, by decide +kernel⟩

theorem witness_Claims :
    c0.flag (FAB_CLAIM_held 0) = false ∧
    c0.flag (FAB_CLAIM_held 75) = false ∧
    c0.holds (initiatorPlane mgt.by_) 0 = false ∧
    (claim0 c0 75 1).flag (FAB_CLAIM_held 75) = true ∧
    (claim0 c0 75 1).holds (initiatorPlane dat.by_) 75 = true ∧
    (claim0 c0 75 1).holds (initiatorPlane mgt.by_) 75 = false ∧
    (claim0 c0 75 1).Accepts mgt FAB_CLAIM_FORCE.addr 75 ∧
    (claim0 c0 62 0).Accepts mgt FAB_CLAIM_FORCE.addr 62 ∧
    c0.flag (FAB_CLAIM_held 63) = true ∧
    c0.holds (initiatorPlane saf.by_) 63 = true ∧
    (claim0 c0 62 0).flag (FAB_CLAIM_held 62) = true :=
  by and_intros <;> first | decide +kernel | exact ⟨by decide +kernel, by decide +kernel⟩

theorem witness_ViolatingWriteIgnored :
    c0.writeViolation dat 0x40200018 1 = some 0 ∧
    c0.isPage 0x40200000 = true ∧
    c0.writeViolation { dat with size := 2 } 0x4020001C 1 = some 4 ∧
    c0.writeViolation dat FAB_VIOL_CLR.addr 1 = some 0 ∧
    c0.writeViolation ctl (STG_CMD 3).addr 1 = some 0 :=
  by and_intros <;> decide +kernel

theorem witness_AccessesOutsideTheBlockMap :
    0x40500000 < 0x40600000 ∧
    locate c0.variant 0x405F0000 = none ∧
    locate c0.variant (0x40020000 + 0x900) = some (.tim, 0) ∧
    isShadow .tim (((0x40020000 + 0x900) - Blk.tim.base) % Blk.tim.pitch) = true ∧
    stagedMask .tim (activeOfs (((0x40020000 + 0x900) - Blk.tim.base) % Blk.tim.pitch)) = 0 ∧
    Blk.tim ≠ .dsp :=
  by and_intros <;> decide +kernel

/-- A slot p that is armed; page `page` dirty for it; a target; a session and the hand-over, which image pages need. -/
def armed0 (p : Nat) : Chip := (c0.put (STG_SLOT_ST_state p) 1).setSlot p { target := some 1, frozen := [0x40200000] }
def dirty0 (p page target : Nat) : Chip :=
  ({ c0 with stg := { c0.stg with dirty := [(page, p)] } } : Chip).put (STG_TGT_LO_target p) target
def openSeals0 (c : Chip) : Chip := (c.setFlag SFE_CAL_SEAL_met_open true).setFlag SFE_CAL_SEAL_handed_over true

theorem witness_StagedChange :
    c0.Accepts ctl (STG_CMD 0).addr 3 ∧
    c0.Accepts saf (STG_CMD 3).addr 1 ∧
    (armed0 2).Accepts mgt (STG_CMD 2).addr 1 ∧
    (armed0 2).armed 2 = true ∧
    c0.armed 0 = false ∧
    c0.rd64 (STG_TGT_LO_target 0) (STG_TGT_HI_target 0) < c0.stride + 2 ∧
    (dirty0 0 0x40200000 2).stride + 2 ≤ (dirty0 0 0x40200000 2).rd64 (STG_TGT_LO_target 0) (STG_TGT_HI_target 0) ∧
    (c0.put (STG_TGT_LO_target 0) 2).stride + 2 ≤ (c0.put (STG_TGT_LO_target 0) 2).rd64 (STG_TGT_LO_target 0) (STG_TGT_HI_target 0) ∧
    (c0.put (STG_TGT_LO_target 0) 2).dirtyPages 0 = [] ∧
    (dirty0 0 0x40200000 2).Accepts ctl (STG_CMD 0).addr 1 ∧
    (dirty0 0 0x40200000 2).dirtyPages 0 ≠ [] ∧
    ((dirty0 0 0x40200000 2).dirtyPages 0).any (dirty0 0 0x40200000 2).sealBlocks = false ∧
    ((dirty0 0 0x40200000 2).dirtyPages 0).any (imagePage (dirty0 0 0x40200000 2).variant) = false :=
  by and_intros <;> first | decide +kernel | exact ⟨by decide +kernel, by decide +kernel⟩

/-- The data plane's slot with MET 0 dirty: the hand-over window is open or closed, a session is set or not. -/
def met0 (ho session : Bool) : Chip :=
  let c := (dirty0 1 0x40180000 2).setFlag SFE_CAL_SEAL_ho_open ho
  if session then c.setWord (SFE_CAL_SESS_sess 0).shadow.addr 5 else c
/-- A calibration word of MET 0 staged under the closed seal. -/
def sealed0 : Chip := (met0 false false).setWord (0x40180000 + shadowOfs 0x180) 1

theorem witness_StagedChangeImages :
    (met0 true false).dirtyPages 1 ≠ [] ∧
    ((met0 true false).dirtyPages 1).any (imagePage .mh6432) = true ∧
    (met0 true false).flag SFE_CAL_SEAL_ho_open = true ∧
    (met0 true false).armed 1 = false ∧
    (met0 false false).flag SFE_CAL_SEAL_ho_open = false ∧
    (met0 false false).noSession = true ∧
    ((met0 false false).dirtyPages 1).any (met0 false false).sealBlocks = false ∧
    (openSeals0 (met0 false true)).noSession = false ∧
    (openSeals0 (met0 false true)).rd SFE_CAL_COUNT_count ≠ 0xFFFFFFFF ∧
    (openSeals0 (met0 false true)).flag SFE_CAL_SEAL_handed_over = true ∧
    ((openSeals0 (met0 false true)).dirtyPages 1).any (openSeals0 (met0 false true)).sealBlocks = false ∧
    ((openSeals0 (met0 false true)).dirtyPages 1).any (imagePage (openSeals0 (met0 false true)).variant) = true ∧
    (sealed0).dirtyPages 1 ≠ [] ∧
    (sealed0.dirtyPages 1).any sealed0.sealBlocks = true ∧
    (met0 true false).Accepts dat (STG_CMD 1).addr 1 ∧
    (met0 true false).stride + 2 ≤ (met0 true false).rd64 (STG_TGT_LO_target 1) (STG_TGT_HI_target 1) ∧
    (met0 true false).rd SFE_CAL_CRC_STG_crc = (met0 true false).rd SFE_CAL_HO_CRC_crc ∧
    ((met0 true false).put SFE_CAL_HO_CRC_crc 1).rd SFE_CAL_CRC_STG_crc ≠ ((met0 true false).put SFE_CAL_HO_CRC_crc 1).rd SFE_CAL_HO_CRC_crc :=
  by and_intros <;> first | decide +kernel | exact ⟨by decide +kernel, by decide +kernel⟩

theorem witness_StagedChangePair :
    locate off0.variant (SFE_ASSIGN 0).addr = some (.sfe, 0) ∧
    off0.isOff = true ∧
    Blk.sfe.pairScope = true ∧
    stagedMask .sfe (activeOfs (((SFE_ASSIGN 0).addr - Blk.sfe.base) % Blk.sfe.pitch)) ≠ 0 ∧
    off0.stride < 1 ∧
    ((off0.put (STG_SLOT_ST_state 3) 1).setSlot 3 { target := some 1 }).armed 3 = true ∧
    ((off0.put (STG_SLOT_ST_state 3) 1).setSlot 3 { target := some 1 }).isOff = true ∧
    c0.isOff = false ∧
    c0.flag LDG_STATUS_committed = false ∧
    c0.flag HRN_CTRL_pair_en = false ∧
    (((List.range 4).filter fun p => (armed0 2).armed p && ((armed0 2).slot p).target == some (armed0 2).nextStride).isEmpty) = false ∧
    locate c0.variant 0x40200000 = some (.opt, 0) ∧
    (((List.range 4).filter fun p => c0.armed p && (c0.slot p).target == some c0.nextStride).isEmpty) = true ∧
    ((armed0 2).setFlag LDG_STATUS_committed true).flag LDG_STATUS_committed = true :=
  by and_intros <;> decide +kernel

theorem witness_RegisterAccess :
    isMemory (PQM_CFG 0).addr = false ∧
    locate c0.variant TIM_CTRL_ref_src.addr = some (.tim, 0) ∧
    hasOwnRow .tim ((TIM_CTRL_ref_src.addr - Blk.tim.base) % Blk.tim.pitch) = false ∧
    isShadow .tim ((TIM_CTRL_ref_src.addr - Blk.tim.base) % Blk.tim.pitch) = false ∧
    (c0.advanceTo 12500).writeViolation mgt TIM_CTRL_ref_src.addr 1 = none ∧
    (c0.advanceTo 0).writeViolation dat TIM_CTRL_ref_src.addr 1 = some 0 ∧
    isMemory 0x1000 = true ∧
    c0.mayReach 0 0x1000 4 = true ∧
    c0.mayReach 1 0x1000 4 = false ∧
    isMemory TIM_CTRL_ref_src.addr = false ∧
    readHasOwnRow .tim ((TIM_CTRL_ref_src.addr - Blk.tim.base) % Blk.tim.pitch) = false ∧
    c0.readViolation saf TIM_CTRL_ref_src.addr = none ∧
    c0.readViolation { saf with size := 8 } TIM_CTRL_ref_src.addr = some 4 ∧
    (2 < 3 ∧ 12 < 0x100000 ∧ ctl.size = 4 ∧ ctl.skew = 0) ∧
    3 < Blk.can.count c0.variant ∧
    bit (c0.rd (scopeFld (canPage 3))) (initiatorPlane ctl.by_) = true ∧
    c0.readViolation { ctl with size := 8 } TIM_CTRL_ref_src.addr = some 4 :=
  by and_intros <;> decide +kernel

theorem witness_SnapshotPublication :
    run0.fold.running = true ∧
    run0.publishedNow = false ∧
    ({ run0 with fold := { run0.fold with banks := Sparse.set (fun _ => {}) run0.fold.banks 0 { written := true } } } : Chip).publishedNow = true :=
  by and_intros <;> decide +kernel

/-- The block with source 32 enabled, and with source 31 of target 0 pending and enabled; target 7 holds source 496. -/
def pend0 : Chip := ((c0.setFlag ((EVC_PRIV_PEND 0).bitOf 0) true).setFlag ((EVC_PRIV_EN 0).bitOf 0) true)
def held0 : Chip := c0.put (EVC_TSTAT_held 7) 496

theorem witness_EventController :
    c0.Readable ctl (EVC_CLAIM 0).addr ∧
    initiatorNo ctl.by_ = 0 ∧
    c0.rd (EVC_TSTAT_held 0) = 0xFFFF ∧
    c0.lowestDeliverable 0 = none ∧
    pend0.Readable ctl (EVC_CLAIM 0).addr ∧
    pend0.rd (EVC_TSTAT_held 0) = 0xFFFF ∧
    pend0.lowestDeliverable 0 = some 0 ∧
    held0.Readable saf (EVC_CLAIM 7).addr ∧
    held0.rd (EVC_TSTAT_held 7) ≠ 0xFFFF ∧
    held0.Accepts saf (EVC_COMPLETE 7).addr 496 ∧
    496 % 2048 = held0.rd (EVC_TSTAT_held 7) ∧
    bit 496 31 = false ∧
    held0.Accepts saf (EVC_COMPLETE 7).addr (496 + 2 ^ 31) ∧
    bit (496 + 2 ^ 31) 31 = true ∧
    (496 + 2 ^ 31) % 2048 = held0.rd (EVC_TSTAT_held 7) ∧
    held0.Accepts saf (EVC_COMPLETE 7).addr 5 ∧
    5 % 2048 ≠ held0.rd (EVC_TSTAT_held 7) ∧
    c0.Accepts saf (EVC_RAISE 7).addr 0 ∧
    c0.Accepts ctl (EVC_RAISE 0).addr 1055 ∧
    c0.Accepts ctl (EVC_RAISE 0).addr (4096 + 8192 * 7) ∧
    c0.Accepts mgt (srcTarget 32).addr 0 ∧
    c0.Accepts mgt (srcTarget 1055).addr 0 ∧
    c0.Accepts mgt EVC_CTRL.addr 1 ∧
    8000 ≤ Sparse.get (fun _ => 0) (Sparse.set (fun _ => 0) c0.evc.stalled 1055 8000) 1055 ∧
    c0.hasFault 5 0x0126 1055 = false :=
  by and_intros <;> first
    | decide +kernel
    | exact ⟨by decide +kernel, by decide +kernel⟩

theorem witness_CompatibilityModeWrite :
    c0.Accepts mgt EVC_CTRL.addr 1 ∧
    held0.Accepts mgt EVC_CTRL.addr 0 ∧
    held0.rd (EVC_TSTAT_held 7) ≠ 0xFFFF ∧
    ((∀ k : Nat, k < 8 → c0.rd (EVC_TSTAT_held k) = 0xFFFF)) ∧
    (c0.setFlag (srcPend 1055) true).flag (srcPend 1055) = true ∧
    pend0.flag ((EVC_PRIV_PEND 0).bitOf 0) = true :=
  by and_intros <;> first | decide +kernel | exact ⟨by decide +kernel, by decide +kernel⟩

/-- The time unit with a field changed, and with a register field written. -/
def tim0 (f : TimeUnit → TimeUnit) : Chip := c0.setTim f
def sent0 : Chip := c0.put TIM_CTRL_ref_src 1

theorem witness_TimeUnit :
    (c0.advanceTo 12500).Readable saf TIM_SEC_LO.addr ∧
    c0.Accepts mgt TIM_CMD.addr 1 ∧
    (tim0 fun t => { t with step := some (-1) }).tim.step = some (-1) ∧
    (tim0 fun t => { t with step := some (-1) }).tim.stepCycle + 100 ≤ strideCycles ∧
    strideCycles < (tim0 fun t => { t with step := some (-1), stepCycle := 12401 }).tim.stepCycle + 100 ∧
    c0.Accepts mgt TIM_CMD.addr 2 ∧
    c0.isOff = false ∧
    (tim0 fun t => { t with loadRequest := true }).tim.loadRequest = true ∧
    c0.Accepts mgt TIM_CMD.addr 4 ∧
    sent0.Accepts mgt TIM_OFS.addr 0x80000000 ∧
    sent0.rd TIM_CTRL_ref_src = 1 ∧
    sent0.tim.step = none ∧
    (sent0.countSample (signed 32 0x80000000)).flag TIM_CTRL_servo_en = false ∧
    ((sent0.setFlag TIM_CTRL_servo_en true).countSample (signed 32 0)).flag TIM_CTRL_servo_en = true ∧
    (signed 32 0).natAbs < ((sent0.setFlag TIM_CTRL_servo_en true).countSample (signed 32 0)).rd TIM_STEP_THR_thr * 256 ∧
    ((sent0.setFlag TIM_CTRL_servo_en true).put TIM_STEP_THR_thr 0).rd TIM_STEP_THR_thr * 256 ≤ (signed 32 0).natAbs ∧
    true ≠ c0.flag TIM_CTRL_pps_edge ∧
    ((tim0 fun t => { t with sinceSample := 32000 }).setFlag (tst 0) true).flag (tst 0) = true ∧
    ((tim0 fun t => { t with holdover := 8000 * 3600 }).setFlag (tst 1) true).flag (tst 1) = true ∧
    ((tim0 fun t => { t with holdover := 8000 * 3600 }).setFlag (tst 1) true).holdoverLimit * 8000 ≤ 8000 * 3600 ∧
    (c0.put TIM_CTRL_ref_src 2).rd TIM_CTRL_ref_src = 2 ∧
    12000 ≤ (tim0 fun t => { t with sincePps := 12000 }).tim.sincePps ∧
    c0.flag (tst 9) = false ∧
    80000 ≤ (tim0 fun t => { t with rateLimited := 80000 }).tim.rateLimited ∧
    (tim0 fun t => { t with rateLimited := 80000 }).tim.vcxoLimited < 80000 ∧
    c0.tim.step = none ∧
    c0.Accepts mgt TIM_OFS.addr 1 ∧
    c0.rd TIM_CTRL_ref_src ≠ 1 ∧
    false = c0.flag TIM_CTRL_pps_edge ∧
    c0.flag (tst 0) = false ∧
    c0.flag (tst 1) = false ∧
    32000 ≤ (tim0 fun t => { t with sinceSample := 32000 }).tim.sinceSample ∧
    (tim0 fun t => { t with holdover := 8000 * 3600 }).tim.holdover = 8000 * 3600 :=
  by and_intros <;> first | decide +kernel | exact ⟨by decide +kernel, by decide +kernel⟩

theorem witness_SecondsReadLatchesTheClock :
    (c0.advanceTo 12500).Readable ctl TIM_SEC_LO.addr ∧
    c0.Readable dat TIM_SEC_HI.addr ∧
    c0.Readable saf TIM_NS.addr ∧
    c0.Readable mgt TIM_FRAC.addr :=
  by and_intros <;> first | decide +kernel | exact ⟨by decide +kernel, by decide +kernel⟩

theorem witness_ComparatorsAndCaptures :
    (claim0 c0 75 2).Accepts mgt (TIM_TC_CFG 7).addr 1 ∧
    1 % 2 = 1 ∧
    (c0.setFlag (TIM_TC_CFG_arm 7) true).flag (TIM_TC_CFG_arm 7) = true ∧
    (tim0 fun t => { t with ppsOut := some 0 }).tim.ppsOut = some 0 ∧
    bit ((c0.put (TIM_CAP_CFG_edge 7) 2).rd (TIM_CAP_CFG_edge 7)) 1 = true ∧
    bit ((c0.put (TIM_CAP_CFG_edge 0) 1).rd (TIM_CAP_CFG_edge 0)) 0 = true ∧
    c0.Readable mgt (TIM_CAP_NS 7).addr ∧
    c0.captures 7 = [] ∧
    (c0.setCaptures 0 [⟨1, 2, true⟩]).captures 0 = ⟨1, 2, true⟩ :: [] :=
  by and_intros <;> first | decide +kernel | exact ⟨by decide +kernel, by decide +kernel⟩

/-- An element with a change; the last Stride of a second. -/
def elem0 (n : Nat) (f : Element → Element) : Chip := c0.modElem n f
def last0 : Chip := { c0 with stride := 7999 }

theorem witness_FrontEndEvents :
    (((elem0 63 fun e => { e with il := { settling := true, settled := 33 } }).elem 63).path 2).settling = true ∧
    33 ≤ (((elem0 63 fun e => { e with il := { settling := true, settled := 33 } }).elem 63).path 2).settled ∧
    ((elem0 0 fun e => { e with count := 16 }).elem 0).low = true ∧
    16 ≤ ((elem0 0 fun e => { e with count := 16 }).elem 0).count ∧
    ((elem0 0 fun e => { e with pending := some ⟨1, 0, 1⟩ }).elem 0).pending = some ⟨1, 0, 1⟩ ∧
    (⟨1, 0, 1⟩ : PendingRatio).due ≤ (elem0 0 fun e => { e with pending := some ⟨1, 0, 1⟩ }).nextStride ∧
    last0.stride % 8000 = 7999 ∧
    last0.fold.regressed = false ∧
    c0.flag (healthBit 0 12) = false ∧
    (elem0 0 fun e => { e with xpath := { fail := 64 } }).healthFails 0 12 = true ∧
    (elem0 63 fun e => { e with reversed := { fail := 3 } }).healthFails 63 13 = true ∧
    c0.meterOf 0 = none ∧
    ((c0.setFlag (SFE_ASSIGN_assigned 0) true).put (SFE_ASSIGN_meter 0) 47).meterOf 0 = some 47 ∧
    ((elem0 0 fun e => { e with xpath := { pass := 64 } }).setFlag (healthBit 0 12) true).flag (healthBit 0 12) = true ∧
    ((elem0 0 fun e => { e with xpath := { pass := 64 } }).setFlag (healthBit 0 12) true).healthPasses 0 12 = true ∧
    ((elem0 0 fun e => { e with v := { stuck0 := { pass := 64 } } }).setFlag (healthBit 0 0) true).healthPasses 0 0 = true ∧
    c0.pathFault 0 (healthPath 0) = false ∧
    (c0.elem 0).pending = none ∧
    (63 < c0.variant.elements ∧ 14 ≤ 14) ∧
    c0.healthFails 0 0 = false ∧
    c0.variant.elements ≤ 64 ∧
    (12 ≤ 12 ∧ 0 < 12) :=
  by and_intros <;> decide +kernel

/-- An element whose current paths settle or not, in selector state high or low, with a sample of the high path. -/
def select0 (low high0 low0 : Bool) (h : Int) : Chip :=
  ((elem0 0 fun e => { e with low := low, ih := { settling := !high0, sample := h }, il := { settling := !low0 } }).put
    (Fld.mk (SFE_ECTRL_en 0).addr 0 8) 0xFF).put SFE_STATUS_mclk_run 0xFF

theorem witness_CurrentSelector :
    (select0 true false true 0).pathUsable 0 1 = false ∧
    (select0 true true false 0).pathUsable 0 1 = true ∧
    (select0 true true false 0).pathUsable 0 2 = false ∧
    (select0 false true true 7340033).pathUsable 0 2 = true ∧
    ((select0 false true true 7340033).elem 0).low = false ∧
    7340032 < ((select0 false true true 7340033).delivered 0 1).natAbs ∧
    ((select0 false true true (-7340032)).delivered 0 1).natAbs ≤ 7340032 ∧
    ((select0 true true true 6291455).elem 0).low = true ∧
    ((select0 true true true 6291455).delivered 0 1).natAbs < 6291456 ∧
    6291456 ≤ ((select0 true true true 6291456).delivered 0 1).natAbs :=
  by and_intros <;> decide +kernel

theorem witness_MeteringAndCalibration :
    256 ≤ ((elem0 63 fun e => { e with sinceCross := 256 }).elem 63).sinceCross ∧
    last0.stride % 8000 = 7999 ∧
    last0.fold.published1s = false ∧
    ((c0.modMeter 47 fun x => { x with inputFault := true }).meter 47).inputFault = true ∧
    c0.inputsBad 47 = false ∧
    80 ≤ ({ c0.fold with sealRun := 80, sealPin := false } : Fold).sealRun ∧
    c0.flag SFE_CAL_SEAL_met_open = ({ c0.fold with sealRun := 80, sealPin := false } : Fold).sealPin ∧
    ({ c0 with stride := 8001 } : Chip).nextStride % 8000 = 2 ∧
    8002 ≤ ({ c0 with stride := 8001 } : Chip).nextStride ∧
    ({ c0 with stride := 8001 } : Chip).fold.trimmed ≠ ({ c0 with stride := 8001 } : Chip).nextStride ∧
    c0.Accepts dat SFE_CAL_HO.addr 1 ∧
    ({ c0 with fold := { c0.fold with crcDue := true } } : Chip).fold.crcDue = true ∧
    ({ c0 with fold := { c0.fold with crcStgDue := true } } : Chip).fold.crcDue = false ∧
    ({ c0 with fold := { c0.fold with crcStgDue := true } } : Chip).fold.crcStgDue = true :=
  by and_intros <;> first | decide +kernel | exact ⟨by decide +kernel, by decide +kernel⟩

theorem witness_ApparentIsFloor :
    0 < 200 ∧
    (2 ^ 58 - 1 : Int).natAbs < 2 ^ 58 ∧
    (-(2 ^ 58 - 1) : Int).natAbs < 2 ^ 58 :=
  by and_intros <;> decide +kernel

/-- A metering meter with accumulators at one below 2^95, and one at rest. -/
def meter0 : Meter := { provisional := false, p := 5, c := 1 }

theorem witness_TotalIsSumOfTariffs :
    1 ≤ 8 ∧
    meter0.provisional = false ∧
    meter0.saturated = false ∧
    (meter0.accumulate 1).saturated = false ∧
    (meter0.accumulate 8).saturated = false :=
  by and_intros <;> decide +kernel

theorem witness_PublishedTotal :
    meter0.accOf (9 * 7) = sumI ((List.range 8).map fun k => meter0.accOf (9 * 7 + 1 + k)) ∧
    meter0.baseOf (9 * 0) = sumI ((List.range 8).map fun k => meter0.baseOf (9 * 0 + 1 + k)) ∧
    (∀ k : Nat, k < 8 → 0 ≤ meter0.exact (9 * 7 + 1 + k)) ∧
    meter0.exact (9 * 7) < 2 ^ 136 :=
  by and_intros <;> first
    | decide +kernel
    | exact (fun _ _ => by decide +revert)

theorem witness_ConstantChange :
    71 < 72 ∧
    (c0.meter 0).c = 0 ∧
    (c0.constantChange 0).meter 0 = (c0.constantChange 0).meter 0 :=
  by and_intros <;> decide +kernel

theorem witness_WindowEvaluation :
    ((elem0 63 fun e => { e with pq := { done := some { sum := 100, len := 160 } } }).elem 63).pq.done = some { sum := 100, len := 160 } ∧
    ((elem0 63 fun e => { e with pq := { done := some { sum := 100, len := 160 } } }).setFlag (PQM_CFG_en 63) true).flag (PQM_CFG_en 63) = true ∧
    ((elem0 63 fun e => { e with pq := { done := some { sum := 100, len := 160 } } }).put (PQM_UDIN_udin 63) 1).rd (PQM_UDIN_udin 63) ≠ 0 ∧
    ((elem0 63 fun e => { e with pq := { done := some { sum := 100, len := 160 } } }).elem 63).pq.suspended = false ∧
    (c0.flag (PQM_CFG_en 63) = true → c0.rd (PQM_UDIN_udin 63) = 0) ∧
    (c0.elem 0).pq.done = none :=
  by and_intros <;> decide +kernel

/-- The block with a declared voltage of 1000 at element 0, and an open sag there. -/
def volt0 : Chip := c0.put (PQM_UDIN_udin 0) 1000
def sag0 : Chip := volt0.modElem 0 fun e => { e with pq := { sag := some { start := 1, lc := 1, clock := 1, extreme := 5 } } }

theorem witness_DetectorRules :
    (volt0.elem 0).pq.event 3 = none ∧
    0 * 10000 < (volt0.dipLevels 0 1).1 * 1000 ∧
    (volt0.dipLevels 0 2).1 * 1000 < 2000 * 10000 ∧
    (¬ 2000 * 10000 < (volt0.dipLevels 0 1).1 * 1000) ∧
    (sag0.elem 0).pq.event 1 = some { start := 1, lc := 1, clock := 1, extreme := 5 } ∧
    ((sag0.dipLevels 0 1).1 + (sag0.dipLevels 0 1).2) * 1000 ≤ 1000 * 10000 ∧
    (¬ ((sag0.dipLevels 0 1).1 + (sag0.dipLevels 0 1).2) * 1000 ≤ 0 * 10000) :=
  by and_intros <;> decide +kernel

theorem witness_Calendars :
    c0.isOff = false ∧
    c0.Accepts dat TRF_CAL_DATA.addr 1 ∧
    c0.Readable dat TRF_CAL_DATA.addr ∧
    c0.Accepts dat TRF_PCMD.addr 1 ∧
    c0.Accepts dat TRF_PCMD.addr 2 ∧
    (c0.put TRF_PSTATE_state 1).calArmed = true ∧
    (c0.put TRF_PSTATE_state 1).Accepts dat TRF_PCMD.addr 2 ∧
    off0.isOff = true ∧
    off0.calArmed = false ∧
    552 ≤ 552 ∧
    ({ (c0.put TRF_PSTATE_state 1) with stride := 1 } : Chip).activationDue = true ∧
    (c0.setTrf fun x => { x with pcrcDue := true }).trf.pcrcDue = true ∧
    c0.calArmed = false ∧
    calendarError c0.trf.passive ≠ 0 ∧
    calendarError [(0, 0x21)] = 0 ∧
    off0.ownsTrf dat = true ∧
    off0.Accepts dat TRF_CAL_DATA.addr 1 ∧
    off0.Accepts dat TRF_PCMD.addr 1 :=
  by and_intros <;> first | decide +kernel | exact ⟨by decide +kernel, by decide +kernel⟩

/-- The module restored, with an open sub-interval that has reached its end. -/
def open0 : Chip := { (c0.setDmd fun d => { d with isOpen := true }).setFlag LDG_STATUS_restored true with lc := 7199999 }

theorem witness_DemandAndBilling :
    open0.flag LDG_STATUS_restored = true ∧
    open0.suspended = false ∧
    (open0.subEnd.isSome) ∧
    ((∀ e : Nat, open0.subEnd = some e → e ≤ open0.lc + 1)) ∧
    0 < open0.dmd.ls ∧
    (c0.setTrf fun x => { x with billDue := some (5, 1, false) }).trf.billDue = some (5, 1, false) ∧
    (c0.setTrf fun x => { x with billDue := some (5, 1, false) }).suspended = false ∧
    c0.subEnd = none ∧
    c0.trf.billDue = none ∧
    open0.suspended = false :=
  by and_intros <;> decide +kernel

/-- The module restored, in a Stride that a save is due in; with a change of the ledger. -/
def rest0 : Chip := { c0.setFlag LDG_STATUS_restored true with stride := 8000 }
def led0 (f : Ledger → Ledger) : Chip := rest0.setLed f

theorem witness_SavesAndPowerFailure :
    rest0.flag LDG_STATUS_restored = true ∧
    rest0.flag LDG_STATUS_committed = false ∧
    rest0.stride % 8000 = 0 ∧
    rest0.flushStepFour.stride ≠ rest0.flushStepFour.rd64 LDG_SAVE_STRIDE_LO_stride LDG_SAVE_STRIDE_HI_stride ∧
    rest0.flushStepFour.led.saving = none ∧
    rest0.flushStepFour.led.forceSave = none ∧
    rest0.flushStepFour.stride = rest0.stride ∧
    c0.Accepts dat LDG_CTRL.addr 1 ∧
    (led0 fun l => { l with saving := some {} }).led.saving = some {} ∧
    (led0 fun l => { l with resetWanted := some 7999 }).led.resetWanted = some 7999 ∧
    7999 < (led0 fun l => { l with resetWanted := some 7999 }).stride ∧
    rest0.led.writing = none ∧
    rest0.led.resetDone = false ∧
    rest0.flag LDG_STATUS_pfw = false ∧
    (led0 fun l => { l with asserted := true }).led.asserted = true ∧
    (led0 fun l => { l with writing := some {} }).led.writing = some {} ∧
    (led0 fun l => { l with asserted := true, committed := some { stride := 7992 } }).led.committed = some { stride := 7992 } ∧
    rest0.stride - 7992 ≠ 0 ∧
    (rest0.stride - 7992) % 8 = 0 ∧
    8000 ≤ (led0 fun l => { l with asserted := true, pfwAge := 8000 }).led.pfwAge ∧
    rest0.flag LDG_STATUS_brownout = false ∧
    c0.flag LDG_STATUS_restored = false ∧
    c0.led.saving = none ∧
    c0.led.resetWanted = none ∧
    c0.led.asserted = false ∧
    c0.led.writing = none ∧
    c0.led.committed = none :=
  by and_intros <;> first | decide +kernel | exact ⟨by decide +kernel, by decide +kernel⟩
/-- The vault ready and the ledger changed; and what a restore has read before it looks at the commits. -/
def unread0 (f : Ledger → Ledger) : Chip := (c0.setFlag VLT_STATUS_ready true).setLed f
def save0 : LedgerImage := { seq := 1 }
def replayed0 (commits : Sparse (Option LedgerImage)) : Chip × Nat :=
  let c := unread0 fun l => { l with everSaved := true, saves := [(1, some save0)], commits := commits }
  let x := c.adoptSave save0
  let x := x.put LDG_RESTORE_ST_fallbacks (satN 8 (x.led.rejected.filter fun q => decide (save0.seq < q)).length)
  let x := (x.put LDG_SAVE_SEQ_seq save0.seq).put64 LDG_SAVE_STRIDE_LO_stride LDG_SAVE_STRIDE_HI_stride save0.stride
  x.replayFrom (x.led.journal.length + 1) save0.journalNext none

theorem witness_LedgerStore :
    rest0.flag LDG_STATUS_restored = true ∧
    c0.led.everSaved = false ∧
    c0.Accepts dat LDG_WR_DATA.addr 0xFFFFFFFF ∧
    c0.Readable dat LDG_RD_DATA.addr ∧
    0x3F00000 ≤ 4 * (c0.put LDG_RD_ADDR_addr 0xFC0000).rd LDG_RD_ADDR_addr ∧
    4 * (c0.put LDG_RD_ADDR_addr 0x4000).rd LDG_RD_ADDR_addr < 0x3F00000 ∧
    typedRegion (4 * (c0.put LDG_RD_ADDR_addr 0x4000).rd LDG_RD_ADDR_addr) = false ∧
    c0.Accepts dat LDG_APPEND_CMD.addr 4 ∧
    c0.flag VLT_STATUS_ready = false ∧
    (unread0 id).flag LDG_STATUS_restored = false ∧
    (unread0 id).flag VLT_STATUS_ready = true ∧
    newest (images (unread0 id).led.saves) = none ∧
    newest (images (unread0 fun l => { l with saves := [(1, some save0)] }).led.saves) = some save0 ∧
    newest (images (replayed0 []).1.led.commits) = none ∧
    newest (images (replayed0 [(0, some { seq := 2, saveSeq := 1 })]).1.led.commits) = some { seq := 2, saveSeq := 1 } :=
  by and_intros <;> first | decide +kernel | exact ⟨by decide +kernel, by decide +kernel⟩

/-- Display 31, enabled, polled with sequence 255, its step timer full. -/
def disp0 : Chip := (c0.modDisplay 31 fun y => { y with polled := some 255, timer := 240000 }).setFlag (DSP_DISP_CFG_en 31) true
/-- The display link runs, its last poll 100 ms ago. -/
def link0 : Chip := ((c0.setFlag DSP_CTRL_link_en true).setFlag LDG_STATUS_restored true).setDsp fun r => { r with sincePoll := 800 }

theorem witness_Displays :
    c0.linkRuns = false ∧
    disp0.variant.ports > 31 ∧
    (disp0.display 31).polled = some 255 ∧
    ([] : List Nat).length ≠ 9 ∧
    disp0.displayOn 31 = true ∧
    disp0.displayStep 31 ≤ (disp0.display 31).timer ∧
    c0.Readable dat DSP_ITEM_DATA.addr ∧
    c0.Readable dat (DSP_ITEM_DATA.addr + 0x700) ∧
    c0.Accepts dat (DSP_ITEM_DATA.addr + 0x700) 1 ∧
    c0.isOff = false ∧
    (c0.advanceItem dat).armed 1 = false ∧
    (c0.advanceItem dat).legalEntry 63 = false ∧
    link0.linkRuns = true ∧
    (link0.setFlag (DSP_DISP_CFG_en 0) true).displayOn 0 = true ∧
    800 ≤ link0.dsp.sincePoll ∧
    (c0.setDsp fun r => { r with sincePoll := 799 }).dsp.sincePoll < 800 ∧
    (c0.display 0).polled = none ∧
    c0.variant.ports ≤ 32 ∧
    31 < c0.variant.ports :=
  by and_intros <;> first | decide +kernel | exact ⟨by decide +kernel, by decide +kernel⟩

theorem witness_DutyClamp :
    200 ≤ 200 ∧
    1920 ≤ 1920 ∧
    (200 ≤ 200 ∧ 200 ≤ 1920 ∧ 3 * 200 ≤ 10 * 60) ∧
    (¬ ∃ x, 200 ≤ x ∧ x ≤ 200 ∧ (if x ≤ 1700 then 3 * x ≤ 10 * 0 else 10 * x ≤ 8 * 0 + 12800)) :=
  by and_intros <;> first
    | decide +kernel
    | (rintro ⟨x, h1, h2, h3⟩; rw [if_pos (by omega)] at h3; omega)

/-- Port 31 with its record changed; with a PHY; port 0 dropped. -/
def port0 (f : Port → Port) : Chip := c0.setPort 31 f
def uncut0 : Chip :=
  { (c0.setFlag (OPT_CTRL_en 31) true).put SAF_CUT_cmd_b 0 with saf := { c0.saf with cutA := 0, running0 := true } }
def phy0 : Chip := c0.put (OPT_CFG_comm 31) 1
def drop0 (f : Port → Port) : Chip := (port0 f).setFlag (OPT_STATUS_dropped 31) true

theorem witness_PortCommands :
    31 < c0.variant.ports ∧
    (claim0 c0 47 0).Accepts ctl (OPT_PWM 31).addr 0xFFFFFFFF ∧
    c0.stride % 8 = c0.rd (OPT_PWM_phase 31) ∧
    c0.flag (OPT_STATUS_dropped 31) = false ∧
    uncut0.portCut 31 = false ∧
    ((port0 fun p => { p with due := some .b }).port 31).due = some .b ∧
    PilotClass.b ≠ .diode ∧
    ((port0 fun p => { p with due := some .b }).port 31).accepted ≠ some .b ∧
    c0.Accepts ctl (OPT_CMD 31).addr 1 ∧
    c0.Accepts ctl (OPT_CMD 31).addr 2 ∧
    (drop0 fun p => p).flag (OPT_STATUS_dropped 31) = true ∧
    ((drop0 fun p => p).dropCauses 31 (c0.port 31).accepted ≠ 0 ∨ 2 ≤ (drop0 fun p => p).shownState 31 (c0.port 31).accepted) ∧
    ((drop0 fun p => { p with aRun := 16 }).setFlag (OPT_CTRL_auto_rearm 31) true).flag (OPT_CTRL_auto_rearm 31) = true ∧
    16 ≤ ((drop0 fun p => { p with aRun := 16 }).port 31).aRun ∧
    (c0.put (OPT_CFG_pp_mode 31) 1).rd (OPT_CFG_pp_mode 31) = 1 ∧
    16 ≤ ((port0 fun p => { p with ppRun := 16 }).port 31).ppRun ∧
    (c0.put (OPT_CFG_temp_type 31) 2).rd (OPT_CFG_temp_type 31) = 2 ∧
    16 ≤ ((port0 fun p => { p with lockRun := 16 }).port 31).lockRun ∧
    ((port0 fun p => { p with lockRun := 16 }).port 31).lockLevel ≠ some ((port0 fun p => { p with lockRun := 16 }).port 31).lockPin ∧
    phy0.portPhy 31 = true ∧
    (List.replicate 1522 0).length ≤ 1522 ∧
    (phy0.rd (OPT_RX_HEAD_idx 31) % ringSize (phy0.rd (OPT_RING_SIZE_rx 31)) + 1) % ringSize (phy0.rd (OPT_RING_SIZE_rx 31)) ≠ phy0.rd (OPT_RX_TAIL_idx 31) % ringSize (phy0.rd (OPT_RING_SIZE_rx 31)) ∧
    ((phy0.put (OPT_RX_TAIL_idx 31) 1).rd (OPT_RX_HEAD_idx 31) % ringSize (phy0.rd (OPT_RING_SIZE_rx 31)) + 1) % ringSize (phy0.rd (OPT_RING_SIZE_rx 31)) = (phy0.put (OPT_RX_TAIL_idx 31) 1).rd (OPT_RX_TAIL_idx 31) % ringSize (phy0.rd (OPT_RING_SIZE_rx 31)) ∧
    phy0.Accepts ctl (OPT_TX_TAIL 31).addr 1 ∧
    phy0.rd (OPT_TX_HEAD_idx 31) % ringSize (phy0.rd (OPT_RING_SIZE_tx 31)) ≠ (phy0.put (OPT_TX_TAIL_idx 31) 1).rd (OPT_TX_TAIL_idx 31) % ringSize (phy0.rd (OPT_RING_SIZE_tx 31)) ∧
    phy0.flag (OPT_STATUS_link_up 31) ≠ true ∧
    c0.variant.ports ≤ 32 ∧
    (c0.port 31).due = none ∧
    c0.stride % 8 = 0 ∧
    ({ c0 with stride := 7 } : Chip).stride % 8 ≠ 0 ∧
    (c0.setPort 31 fun p => { p with converted := some c0.stride }).rd (OPT_CFG_temp_type 31) = 0 ∧
    ((c0.put (OPT_CFG_temp_type 31) 2).setPort 31 fun p => { p with converted := some c0.stride }).rd (OPT_CFG_temp_type 31) = 2 ∧
    sensorTemperature 2 0 = none ∧
    (c0.Accepts ctl (OPT_PWM 31).addr 0 ∨ (claim0 c0 47 0).Accepts ctl (OPT_PWM 31).addr 0) ∧
    (∃ t : Int, sensorTemperature 2 1000000 = some t) :=
  by and_intros <;> first
    | decide +kernel
    | exact ⟨by decide +kernel, by decide +kernel⟩
    | exact (.inr ⟨by decide +kernel, by decide +kernel⟩)
    | (unfold sensorTemperature; rw [if_neg (by decide), if_pos (by decide +kernel)]; exact ⟨_, rfl⟩)

theorem witness_DropWithdrawsPermit :
    31 < c0.variant.ports ∧
    0 < 2047 ∧
    2047 < 2048 ∧
    (c0.setFlag (OPT_CTRL_en 31) true).flag (OPT_CTRL_en 31) = true ∧
    (c0.setFlag (OPT_CTRL_en 31) true).flag (OPT_STATUS_dropped 31) = false :=
  by and_intros <;> decide +kernel

/-- CAN 3 with a frame on the bus, and with a filter that takes every frame. -/
def can0 : Chip := ((c0.put (CAN_STATUS_state 3) 0).setCan 3 { sending := some 31 }).setFlag (CAN_FILT_ID_en 3 0) true

theorem witness_CanCommands :
    3 < Blk.can.count c0.variant ∧
    c0.Accepts ctl (CAN_TX_REQ 3).addr 0xFFFFFFFF ∧
    c0.Accepts ctl (CAN_TX_CANCEL 3).addr 1 ∧
    initiatorPlane ctl.by_ = c0.rd (ownerFld (canPage 3)) ∧
    (can0.canState 3).sending = some 31 ∧
    can0.canOnBus 3 = true ∧
    (can0.advanceTo 12500).canMatch 3 0 = some 0 ∧
    (can0.put (CAN_RX_COUNT_count 3) 64).Accepts ctl (CAN_RX_POP 3).addr 1 ∧
    0 < (can0.put (CAN_RX_COUNT_count 3) 64).rd (CAN_RX_COUNT_count 3) ∧
    ((can0.put (CAN_STATUS_state 3) 2).setFlag (CAN_CTRL_auto_recover 3) true).rd (CAN_STATUS_state 3) = 2 ∧
    ((can0.put (CAN_STATUS_state 3) 2).setFlag (CAN_CTRL_auto_recover 3) true).flag (CAN_CTRL_auto_recover 3) = true ∧
    (if (c0.canState 3).sending.isSome then (c0.canState 3).sending else if (c0.canState 3).contend.isSome then c0.canWinner 3 else none) = none ∧
    (if (can0.canState 3).sending.isSome then (can0.canState 3).sending else if (can0.canState 3).contend.isSome then can0.canWinner 3 else none) = some 31 ∧
    (31 < 32 ∧ 17 < 18) :=
  by and_intros <;> first | decide +kernel | exact ⟨by decide +kernel, by decide +kernel⟩

/-- Channel 63 with its record changed; the load interface changed. -/
def chan0 (f : Channel → Channel) : Chip := c0.setChannel 63 f
def load0 (f : Load → Load) : Chip := c0.setLoad f

theorem witness_LoadChannels :
    63 < c0.variant.channels ∧
    63 < Blk.lsw.count c0.variant ∧
    (c0.setFlag (LSW_STATUS_on 63) true).flag (LSW_STATUS_on 63) = true ∧
    c0.flag (LSW_STATUS_therm 63) = false ∧
    (c0.setFlag (LSW_STATUS_therm 63) true).flag (LSW_STATUS_therm 63) = true ∧
    (c0.Accepts saf (LSW_CMD 63).addr 2 ∨ c0.Accepts ctl (LSW_CMD 63).addr 2) ∧
    (c0.channel 63).budget < 2 * c0.rd (LSW_BUCKET_level 63) ∧
    2 * (c0.put (LSW_BUCKET_level 63) 0).rd (LSW_BUCKET_level 63) ≤ (c0.channel 63).budget ∧
    (c0.setFlag (LSW_STATUS_oc_wait 63) true).flag (LSW_STATUS_oc_wait 63) = true ∧
    (c0.channel 63).waitLeft = 0 ∧
    (c0.channel 63).thermInWait = false ∧
    8000 ≤ ((chan0 fun x => { x with clean := 8000 }).channel 63).clean ∧
    7 < c0.variant.flocks ∧
    800 ≤ Sparse.get (fun _ => 0) (load0 fun l => { l with overRun := Sparse.set (fun _ => 0) l.overRun 7 800 }).load.overRun 7 ∧
    800 ≤ Sparse.get (fun _ => 0) (load0 fun l => { l with overRun := Sparse.set (fun _ => 0) l.overRun 8 800 }).load.overRun 8 ∧
    max 1 (((chan0 fun x => { x with openRun := 2040 }).channel 63).ol / 256 % 256) * 8 ≤ ((chan0 fun x => { x with openRun := 2040 }).channel 63).openRun ∧
    ((chan0 fun x => { x with diag := 17 }).channel 63).diag = 17 ∧
    (c0.put LSW_GCTRL_mode 0).Accepts mgt LSW_GCTRL.addr 1 ∧
    (claim0 c0 48 0).Accepts ctl (LSW_VSLOT 63).addr 256 ∧
    c0.Accepts ctl (LSW_VSLOT 63).addr 15 ∧
    c0.variant.channels ≤ 64 ∧
    (c0.Accepts saf (LSW_CMD 63).addr 1 ∨ c0.Accepts ctl (LSW_CMD 63).addr 1) ∧
    (c0.Accepts saf (LSW_CMD 63).addr 4 ∨ c0.Accepts ctl (LSW_CMD 63).addr 4) :=
  by and_intros <;> first
    | decide +kernel
    | exact ⟨by decide +kernel, by decide +kernel⟩
    | exact (.inr ⟨by decide +kernel, by decide +kernel⟩)

theorem witness_ChannelOutput :
    63 < 64 ∧
    63 < c0.variant.channels ∧
    (load0 fun l => { l with bridle := 0 }).inBridle 63 = false ∧
    (load0 fun l => { l with bridle := 0 }).twinHeld 63 = false ∧
    c0.inBridle 63 = true ∧
    c0.mapDemand 63 = false ∧
    (load0 fun l => l).twinHeld 63 = false ∧
    ((off0.setLoad fun l => { l with bridle := 0 }).setChannel 63 fun x => { x with ctrl := 128 }).twinHeld 63 = true :=
  by and_intros <;> decide +kernel

theorem witness_BridleCommands :
    2 ≤ Sparse.get (fun _ => 0) (load0 fun l => { l with linkBad := Sparse.set (fun _ => 0) l.linkBad 1 2 }).load.linkBad 1 ∧
    c0.Accepts mgt LSW_TAKE.addr 1 ∧
    c0.load.bridle ≠ 0 ∧
    (load0 fun l => { l with reqHigh := 0 }).takeRefusal = some 1 ∧
    ((c0.setFlag LSW_GSTATUS_link0_ok true).setFlag LSW_GSTATUS_link1_ok true).takeRefusal = none ∧
    (load0 fun l => { l with take := true }).load.take = true ∧
    c0.Accepts mgt LSW_BMAP_CMD.addr 1 ∧
    c0.rd LSW_BMAP_ST_state ≠ 1 ∧
    c0.sealOpen 2 = false ∧
    ((load0 fun l => { l with bridle := 0 }).setFlag SAF_STATUS_seal_open true).sealOpen 2 = true ∧
    ((load0 fun l => { l with bridle := 0 }).setFlag SAF_STATUS_seal_open true).load.bridle = 0 ∧
    ((c0.mapBytes LSW_BMAP_STG_entries).any fun b => b % 4 == 3) = false ∧
    ((c0.mapBytes LSW_BMAP_STG_entries).any fun b => bit b 5 && b % 4 != 0) = false ∧
    (load0 fun l => { l with commit := some [] }).load.commit = some [] ∧
    c0.dieFitted 1 = true ∧
    ((2 % 2 = 0 ∨ c0.load.bridle = 0)) ∧
    c0.load.take = false ∧
    c0.load.commit = none ∧
    (load0 fun l => { l with take := true, reqHigh := 0 }).load.take = true ∧
    (load0 fun l => { l with take := true, reqHigh := 0 }).takeRefusal = some 1 ∧
    (((load0 fun l => { l with take := true }).setFlag LSW_GSTATUS_link0_ok true).setFlag LSW_GSTATUS_link1_ok true).takeRefusal = none :=
  by and_intros <;> first | decide +kernel | exact ⟨by decide +kernel, by decide +kernel⟩

/-- The safety state changed; port 0 with an adopted word, a passed test, a confirmed block and its Flock in Run. -/
def saf0 (f : Safety → Safety) : Chip := c0.setSaf f
def rcm0 (f : Residual → Residual) : Chip :=
  (saf0 fun s => { s with adoptedYet := true, adopted := [(0, 0xC096)] }).setResidual 0 f
def ok0 : Chip :=
  (((rcm0 fun r => { r with passed := true }).put (SAF_FLOCK_ST_state 0) 0).setFlag SAF_STATUS_spb_confirmed true).setSaf fun s =>
    { s with running0 := true }
def block0 : Chip :=
  (saf0 fun s => { s with staged := [(0, 0x04000001), (3, 4), (4, 60), (5, 0x1000A), (6, 0xA0032)] }).setFlag SAF_STATUS_seal_open true

theorem witness_CutsAndResidualCurrent :
    7 < c0.variant.flocks ∧
    (c0.put SAF_CUT_cmd_b 0).cutCommand 7 = false ∧
    c0.stride % 8000 = 0 ∧
    (saf0 fun s => { s with cutA := 0 }).cutCommand 15 = false ∧
    2 ≤ Sparse.get (fun _ => 0) (saf0 fun s => { s with against := Sparse.set (fun _ => 0) s.against 15 2 }).saf.against 15 ∧
    Sparse.get (fun _ => 0) (saf0 fun s => { s with against := Sparse.set (fun _ => 0) s.against 31 2 }).saf.against 15 < 2 ∧
    2 ≤ Sparse.get (fun _ => 0) (saf0 fun s => { s with against := Sparse.set (fun _ => 0) s.against 31 2 }).saf.against (16 + 15) ∧
    (rcm0 fun r => r).rcmType 0 ≠ 0 ∧
    bit (bandsOf ((rcm0 fun r => r).rcmType 0)) 5 = true ∧
    bit ((rcm0 fun r => { r with levelA := 32 }).residual 0).levelA 5 = true ∧
    bit ((rcm0 fun r => { r with levelA := 32 }).residual 0).tripA 5 = false ∧
    8 * holdB 0 < ((rcm0 fun r => { r with holds := [64001, 0, 0, 0, 0, 0] }).residual 0).holds.getD 0 0 ∧
    (rcm0 fun r => r).flag ((RCM_STATUS_trip 0).bitOf 0) = false ∧
    (rcm0 fun r => { r with tripA := 1, disagree := [76000, 0, 0, 0, 0, 0] }).disagrees 0 0 = true ∧
    0 < Blk.rcm.count c0.variant ∧
    c0.Accepts saf (RCM_TEST 0).addr 1 ∧
    ((rcm0 fun r => r).residual 0).test = 0 ∧
    ((rcm0 fun r => { r with test := 1, testSeen := 3 }).residual 0).test = 1 ∧
    (saf0 fun s => { s with welds := [{ port := 0, coilOff := true }] }).saf.welds.find? (fun w => w.port == 0) = some { port := 0, coilOff := true } ∧
    (saf0 fun s => { s with welds := [{ port := 0, coilOff := true }] }).spb 14 2 * 8 ≤ 0 ∧
    c0.variant.ports ≤ 32 ∧
    c0.saf.welds.find? (fun w => w.port == 0) = none :=
  by and_intros <;> first | decide +kernel | exact ⟨by decide +kernel, by decide +kernel⟩

theorem witness_EstopsAndSafetyCommands :
    3 < 4 ∧
    (c0.estop 3).actuated = false ∧
    400 < ((c0.setEstop 3 fun e => { e with differ := 401 }).estop 3).differ ∧
    ((c0.put (SAF_FLOCK_ST_state 7) 0).setFlock 7 fun k => { k with exceed := 16001 }).flockState 7 = 0 ∧
    16000 < (((c0.put (SAF_FLOCK_ST_state 7) 0).setFlock 7 fun k => { k with exceed := 16001 }).flock 7).exceed ∧
    ((c0.put (SAF_FLOCK_ST_state 7) 1).setFlock 7 fun k => { k with exceed := 8001 }).flockState 7 = 1 ∧
    c0.Accepts saf SAF_CMD.addr (255 % 256 + 0x1000) ∧
    c0.Accepts saf SAF_CMD.addr (0 % 256 + 0x2000) ∧
    c0.Accepts saf SAF_CMD.addr (255 % 256 + 0x3000) ∧
    c0.Accepts saf SAF_CMD.addr (15 % 16 * 256 + 0x4000) ∧
    (bitsSet 4 15).any (fun k => !c0.estopReady k) = false ∧
    (bitsSet 4 15).any (fun k => !(c0.setEstop 3 fun e => { e with closedA := false }).estopReady k) = true ∧
    (saf0 fun s => { s with running := some { before := [] } }).saf.running.isSome = true ∧
    (5 % 8 = 0 ∨ 4 < 5 % 8) ∧
    c0.Accepts saf SAF_CMD.addr (5 % 8 * 0x1000) :=
  by and_intros <;> first | decide +kernel | exact ⟨by decide +kernel, by decide +kernel⟩
/-- A safe-stop of sequence 3 from the peer with address 5 to every module, the module that lists it, the same long after, and with a copy of
the other network waiting. -/
def safe0 : List Nat :=
  let bs := [0, 2, 0, 0] ++ leBytes 4 5 ++ leBytes 4 0xFFFFFFFF ++ leBytes 4 3 ++ List.replicate 28 0
  bs ++ leBytes 4 (crc32c (leBytes 4 0 ++ bs))
def safeNet0 : Chip :=
  (saf0 fun s => { s with stored := Sparse.set (fun _ => (0 : Word)) s.stored 204 5 }).setFlag SAF_CTRL_net_en true
def lateNet0 : Chip := (safeNet0.setFlag (tst 2) true).setTim fun t => { t with clock := 10 ^ 21 }
def waitNet0 : Chip := safeNet0.setSaf fun s => { s with windows := [⟨5, safe0, 1, 0⟩] }

theorem witness_SafetyNetworkAndDegraded :
    (c0.setFlag SAF_CTRL_net_en true).flag SAF_CTRL_net_en = true ∧
    (List.replicate 48 0).length = 48 ∧
    frameLe (List.replicate 48 0) 44 4 ≠ crc32c (leBytes 4 (c0.spb 8 4) ++ (List.replicate 48 0).take 44) ∧
    (safeNet0.flag SAF_CTRL_net_en = true ∧ safe0.length = 48) ∧
    frameLe safe0 44 4 = crc32c (leBytes 4 (safeNet0.spb 8 4) ++ safe0.take 44) ∧
    (frameLe safe0 8 4 = 0xFFFFFFFF ∧ (safeNet0.peerOf (frameLe safe0 4 4)).isSome = true) ∧
    (c0.peerOf (frameLe safe0 4 4)).isSome = false ∧
    safeNet0.timeValid = false ∧
    ((lateNet0.timeValid = true ∧ frameLe safe0 16 6 * 1000000000 + frameLe safe0 22 4 + lateNet0.spb 22 2 * 1000000 <
      clockSec lateNet0.tim.clock * 1000000000 + clockNs lateNet0.tim.clock)) ∧
    (frameLe safe0 12 4 = 3 ∧ nth safe0 1 = 2) ∧
    Sparse.get (fun _ => 0) (safeNet0.hearPeer safe0 0).saf.sequences 5 ≤ 3 ∧
    3 < Sparse.get (fun _ => 0) ((safeNet0.setSaf fun s => { s with sequences := [(5, 4)] }).hearPeer safe0 0).saf.sequences 5 ∧
    ((safeNet0.hearPeer safe0 0).saf.windows.find? fun w => w.source == 5 && frameLe w.bytes 12 4 == 3) = none ∧
    (safeNet0.hearPeer safe0 0).flag SAF_STATUS_net_single = false ∧
    ((safeNet0.setFlag SAF_STATUS_net_single true).hearPeer safe0 0).flag SAF_STATUS_net_single = true ∧
    ((waitNet0.hearPeer safe0 0).saf.windows.find? fun w => w.source == 5 && frameLe w.bytes 12 4 == 3) = some ⟨5, safe0, 1, 0⟩ ∧
    24 ≤ (waitNet0.hearPeer safe0 0).variant.ports ∧
    (1 ≠ 0 ∧ safe0.set 30 1 ≠ safe0) ∧
    (c0.saf.windows.filter fun w => 80 ≤ w.age) = [] ∧
    (saf0 fun s => { s with windows := [{ source := 1, bytes := [], net := 0, age := 80 }] }).saf.windows = [{ source := 1, bytes := [], net := 0, age := 80 }] ∧
    c0.Accepts saf SAF_TX_CMD.addr 1 ∧
    c0.spb 26 2 * 8 ≤ c0.saf.heartbeat ∧
    (saf0 fun s => { s with stored := Sparse.set (fun _ => (0 : Word)) s.stored 249 5 }).spb (816 + 12 * 15) 4 ≠ 0 ∧
    c0.peerSilent 15 0 = true ∧
    c0.peerSilent 15 1 = true ∧
    (saf0 fun s => { s with stored := [(6, 1)], heard := [(0, 8)] }).peerSilent 0 0 = true ∧
    (saf0 fun s => { s with stored := [(6, 1)], heard := [(0, 8)] }).peerSilent 0 1 = false ∧
    (c0.setFlag SAF_STATUS_net_single true).flag SAF_STATUS_net_single = true ∧
    c0.saf.singleLeft = 0 ∧
    ((saf0 fun s => { s with matching := 480000 }).setFlag SAF_STATUS_net_single true).mayRecoverNetwork = true ∧
    ((c0.put (SAF_FLOCK_ST_state 7) 1).setFlock 7 fun k => { k with degraded := 40001 }).flockState 7 = 1 ∧
    40000 ≤ ((c0.put (SAF_FLOCK_ST_state 7) 1).setFlock 7 fun k => { k with degraded := 40001 }).degradedFor 7 ∧
    (c0.flock 7).halved = false ∧
    c0.flag (SAF_FLOCK_ST_warn 7) = false ∧
    c0.degradedTime - 480000 ≤ c0.degradedFor 7 ∧
    ((c0.setFlock 7 fun k => { k with degraded := 1 }).flock 7).degraded ≠ 0 ∧
    c0.degradedTime ≤ c0.degradedFor 7 ∧
    c0.saf.running = none ∧
    ((c0.put (SAF_FLOCK_ST_state 7) 1).setFlock 7 fun k => { k with causes := [], cleared := 80000 }).mayRecover 7 = true ∧
    (saf0 fun s => { s with faultWindows := [{ cause := 1, unit := 0, flocks := 1, state := 2, age := 160 }] }).saf.faultWindows = [{ cause := 1, unit := 0, flocks := 1, state := 2, age := 160 }] ∧
    (saf0 fun s => { s with running := some { before := [], age := 8000 } }).saf.running = some { before := [], age := 8000 } ∧
    1 < 2 :=
  by and_intros <;> first | decide +kernel | exact ⟨by decide +kernel, by decide +kernel⟩

theorem witness_StrapsBlockAndRelease :
    c0.Accepts saf SAF_SPB_DATA.addr 1 ∧
    initiatorPlane saf.by_ = c0.rd (ownerFld safPage) ∧
    (c0.setFlag SAF_SPB_ADDR_bank true).flag SAF_SPB_ADDR_bank = true ∧
    c0.flag SAF_SPB_ADDR_bank = false ∧
    block0.sealOpen 2 = true ∧
    c0.Readable saf SAF_SPB_DATA.addr ∧
    c0.Accepts saf SAF_SPB_CMD.addr 1 ∧
    c0.Accepts saf SAF_SPB_CMD.addr 2 ∧
    c0.blockError = some 4 ∧
    block0.blockError = none ∧
    c0.sealOpen 2 = false ∧
    block0.rd SAF_SPB_CONF_VAL_crc = block0.rd SAF_SPB_CRC_A_crc ∧
    (block0.put SAF_SPB_MAP_VAL_crc 0x758D6336).rd SAF_SPB_MAP_VAL_crc = (block0.put SAF_SPB_MAP_VAL_crc 0x758D6336).rd LSW_BMAP_CRC_crc ∧
    0 < ok0.variant.ports ∧
    ok0.flag (OPT_STATUS_safe_ok 0) = false ∧
    ok0.isOff = false ∧
    ok0.okHolds 0 0 = true ∧
    c0.okHolds 0 0 = false ∧
    ((ok0.setSaf fun s => { s with crookBad := 0 }).setFlag SAF_STATUS_crook_ok true).mayStart 7 = true ∧
    (c0.flock 7).causes.any (fun k => k.bit == causeStart) = true ∧
    c0.Accepts saf safRxPop.addr 1 ∧
    2 ≤ (saf0 fun s => { s with crookBad := 2 }).saf.crookBad ∧
    off0.flag HRN_CTRL_pair_en = true ∧
    c0.Accepts saf SAF_WDT.addr 0x5AFE ∧
    0x5AFE % 2 ^ 32 = 0x5AFE :=
  by and_intros <;> first | decide +kernel | exact ⟨by decide +kernel, by decide +kernel⟩

theorem witness_DemandIsConservative :
    3 < 4 ∧
    (0x80).testBit 7 = true ∧
    (0x7F).testBit 7 = false ∧
    (saf0 fun s => { s with running := some { before := [(0, 1, [])] } }).saf.running = some { before := [(0, 1, [])] } ∧
    (∀ b ∈ ({ before := [(0, 1, [])] } : Recovery).before, b.2.1 < 4) ∧
    (saf0 fun s => { s with released := some (0, 1) }).saf.released = some (0, 1) ∧
    ((0 ≠ c0.stride ∨ 1 &&& 2 % 2 ^ c0.variant.flocks = 0)) :=
  by and_intros <;> decide +kernel

/-- A module of a pair, with its pair logic changed. -/
def pair0 (f : Pair → Pair) : Chip := (c0.setFlag HRN_CTRL_pair_en true).setPair f
def twin0 (variant : Nat) (position isNear : Bool) : TwinReport := ⟨true, variant, 0, position, isNear, []⟩
def near0 : Chip := ((((pair0 fun p => p).put HRN_STATUS_role 1).setFlag HRN_STATUS_joined true).setFlag HRN_STATUS_link_up true)

theorem witness_RolesTakeoverAndSwap :
    c0.paired = false ∧
    (pair0 fun p => p).paired = true ∧
    (pair0 fun p => p).pair.decided = false ∧
    (pair0 fun p => { p with decided := true }).pair.decided = true ∧
    (pair0 fun p => { p with decided := true }).pair.claims = false ∧
    ((pair0 fun p => p).setFlag HRN_STATUS_pos_clash true).flag HRN_STATUS_pos_clash = true ∧
    (pair0 fun p => p).flag HRN_STATUS_pos_clash = false ∧
    (pair0 fun p => { p with claims := true }).pair.claims = true ∧
    (twin0 24 true true).variant ≠ c0.variant.ports ∧
    (twin0 32 false true).variant = c0.variant.ports ∧
    (twin0 32 false true).sealDiff = 0 ∧
    (twin0 32 false true).onLink = true ∧
    (twin0 32 false true).position = c0.flag HRN_STATUS_pos ∧
    (twin0 32 true true).position ≠ c0.flag HRN_STATUS_pos ∧
    (twin0 32 true true).isNear = true ∧
    (twin0 32 true false).isNear = false ∧
    c0.flag HRN_STATUS_pos = false ∧
    (pair0 fun p => { p with takeoverAt := some (1, false) }).pair.takeoverAt = some (1, false) ∧
    1 ≤ (pair0 fun p => { p with takeoverAt := some (1, false) }).nextStride ∧
    (off0.setPair fun p => { p with takeoverAt := some (1, false) }).inOffRole = true ∧
    (off0.inOffRole = true ∧ off0.flag HRN_STATUS_joining = false) ∧
    (pair0 fun p => { p with claims := false, decided := true, aligned := true }).pair.aligned = true ∧
    c0.Accepts mgt HRN_CMD.addr 4 ∧
    c0.Accepts mgt HRN_CMD.addr 1 ∧
    c0.Accepts mgt HRN_CMD.addr 2 ∧
    c0.swapRefusal = some 5 ∧
    near0.swapRefusal = none ∧
    near0.Accepts mgt HRN_CMD.addr 1 ∧
    ((pair0 fun p => p).setFlag HRN_STATUS_joined true).flag HRN_STATUS_joined = true ∧
    (pair0 fun p => p).rd HRN_STATUS_role ≠ 1 ∧
    (pair0 fun p => p).flag HRN_STATUS_divergent = false ∧
    ({ pair0 (fun p => p) with stride := 7 } : Chip).nextStride % 8 = 0 ∧
    (pair0 fun p => { p with keepUntil := some 1 }).pair.keepUntil = some 1 ∧
    (near0.setPair fun p => { p with decided := true }).pair.decided = true ∧
    near0.paired = true ∧
    near0.rd HRN_STATUS_role = 1 ∧
    ((c0.paired = false ∨ c0.rd HRN_STATUS_role ≠ 1)) ∧
    c0.pair.takeoverAt = none ∧
    c0.pair.keepUntil = none :=
  by and_intros <;> first | decide +kernel | exact ⟨by decide +kernel, by decide +kernel⟩
/-- Off in Stride J − 1, with its mark. -/
def marked0 : Chip := { off0.setPair (fun p => { p with joinStep := 2, joinAt := some 16, mark := some {} }) with stride := 15 }

theorem witness_JoinAndHarnessLink :
    c0.isOff = false ∧
    (pair0 fun p => { p with joinStep := 1 }).pair.joinStep = 1 ∧
    (pair0 fun p => { p with joinStep := 2, joinAt := some 16 }).pair.joinStep = 2 ∧
    (pair0 fun p => { p with joinStep := 2, joinAt := some 16 }).pair.joinAt = some (c0.stride + 16) ∧
    (pair0 fun p => { p with joinStep := 2, joinAt := some 16 }).pair.joinAt ≠ some 17 ∧
    (pair0 fun p => p).paired = true ∧
    (pair0 fun p => p).pair.received = false ∧
    3 % 4 ≠ 0 ∧
    (near0.put HRN_HB_MISS_frames 2).flag HRN_STATUS_link_up = true ∧
    2 ≤ (near0.put HRN_HB_MISS_frames 2).rd HRN_HB_MISS_frames ∧
    (near0.put HRN_HB_MISS_frames 2).rd HRN_HB_MISS_pins < 2 ∧
    (pair0 fun p => p).flag HRN_STATUS_link_up = false ∧
    (pair0 fun p => p).rd HRN_HB_MISS_frames = 0 ∧
    (c0.setFlag (HRN_LANE_ST_up 1) true).flag (HRN_LANE_ST_up 1) = true ∧
    8 ≤ Sparse.get (fun _ => 0) (pair0 fun p => { p with laneErrors := Sparse.set (fun _ => 0) p.laneErrors 1 8 }).pair.laneErrors 1 ∧
    1 < Blk.count c0.variant .hrl ∧
    c0.flag (HRN_LANE_ST_up 1) = false ∧
    c0.Accepts mgt HRN_MSG_CMD.addr 1 ∧
    c0.Accepts mgt HRN_MSG_POP.addr 1 ∧
    (List.replicate 64 0).length = 64 ∧
    ((c0.paired = false ∨ c0.flag HRN_STATUS_link_up = false ∨ c0.flag HRN_STATUS_joining = true)) ∧
    near0.paired = true ∧
    near0.flag HRN_STATUS_link_up = true ∧
    near0.flag HRN_STATUS_joining = false ∧
    near0.rd HRN_STATUS_role = 1 ∧
    (pair0 fun p => { p with joinStep := 2, loadDue := true }).pair.joinStep = 2 ∧
    (pair0 fun p => { p with joinStep := 2, loadDue := true }).pair.loadDue = true ∧
    c0.pair.joinStep ≠ 1 ∧
    ((c0.pair.joinStep ≠ 2 ∨ c0.pair.joinAt ≠ some c0.nextStride)) ∧
    (marked0.pair.joinStep = 2 ∧ marked0.pair.joinAt = some marked0.nextStride) ∧
    marked0.isOff = true ∧
    marked0.pair.mark = some {} ∧
    (near0.pair.joinStep = 0 ∧ near0.flag HRN_STATUS_joined = true) ∧
    (off0.inOffRole = true ∧ off0.flag HRN_STATUS_detached = false ∧ off0.flag HRN_STATUS_link_up = false) ∧
    2 ≤ (off0.put HRN_HB_MISS_frames 2).rd HRN_HB_MISS_frames ∧
    (off0.put HRN_HB_MISS_frames 2).rd HRN_HB_MISS_pins < 2 ∧
    (off0.pair.takeoverAt = none ∧ near0.inOffRole = false) :=
  by and_intros <;> first | decide +kernel | exact ⟨by decide +kernel, by decide +kernel⟩

/-- Network port 1 that runs, and a safety frame to everyone with its FCS; the transmit queue of stream 0 full. -/
def net0 : Chip := ((c0.setFlag NET_CTRL_en true).setFlag (NET_PCTRL_en 1) true).setFlag (NET_PSTATUS_link_up 1) true
def wire0 (type : List Nat) : List Nat :=
  let bs := List.replicate 6 0xFF ++ List.replicate 6 2 ++ type ++ List.replicate 46 0
  bs ++ leBytes 4 (crc32 bs)
def full0 : Chip :=
  (c0.setNetPort 0 fun p => { p with queues := [(0, List.replicate Config.txQueueFrames { bytes := [] })] }).setStream 0 fun z =>
    { z with ready := [(0, [], [])] }
/-- A PAUSE frame, and a frame to another station, with their FCS. -/
def frame0 (dest type : List Nat) : List Nat :=
  let bs := dest ++ List.replicate 6 2 ++ type ++ List.replicate 46 0
  bs ++ leBytes 4 (crc32 bs)
def pause0 : List Nat :=
  let bs := [1, 0x80, 0xC2, 0, 0, 1] ++ List.replicate 6 2 ++ [0x88, 0x08, 0, 1] ++ List.replicate 44 0
  bs ++ leBytes 4 (crc32 bs)

theorem witness_NetworkCommands :
    1 < c0.variant.nets ∧
    (c0.setFlag (NET_PCTRL_en 1) true).flag (NET_PCTRL_en 1) = true ∧
    c0.flag (NET_PSTATUS_link_up 1) = false ∧
    (c0.put (NET_PCTRL_speed 1) 1).rd (NET_PCTRL_speed 1) = 1 ∧
    (c0.put (NET_PCTRL_speed 1) 2).rd (NET_PCTRL_speed 1) = 2 ∧
    (c0.put (NET_PCTRL_speed 1) 0).rd (NET_PCTRL_speed 1) ≠ 1 ∧
    (c0.put (NET_PCTRL_speed 1) 0).rd (NET_PCTRL_speed 1) ≠ 2 ∧
    true = (c0.netPort 1).tries10g ∧
    4000 ≤ ((c0.setNetPort 1 fun p => { p with trying := 4000 }).netPort 1).trying ∧
    c0.flag (NET_PSTATUS_mod_abs 1) ≠ !c0.flag (NET_PSTATUS_mod_abs 1) ∧
    (net0.advanceTo 12500).netRuns 1 = true ∧
    (List.replicate 63 0).length < 64 ∧
    net0.maxLen 1 < (List.replicate 20000 0).length ∧
    (net0.steer 1 (wire0 [0x88, 0xB5]) = .saf ∨ (net0.setFlag NET_VLAN_CFG_untagged true).steer 1 (wire0 [0x88, 0xB5]) = .saf) ∧
    (net0.setFlag NET_VLAN_CFG_untagged true).steer 1 (wire0 [0x08, 0x00]) = .ring (net0.rd NET_DEF_RING_ring) ∧
    net0.isPause 1 ((wire0 [0x88, 0xB5]).take ((wire0 [0x88, 0xB5]).length - 4)) = false ∧
    net0.flag NET_CTRL_en = true ∧
    ((net0.setNetPort 1 fun p => { p with fifo := [⟨[], 8, none, 0⟩] }).netPort 1).fifo = ⟨[], 8, none, 0⟩ :: [] ∧
    ((net0.setNetPort 1 fun p => { p with fifo := [⟨[], 0, some 7, 0⟩] }).netPort 1).fifo = ⟨[], 0, some 7, 0⟩ :: [] ∧
    (⟨[], 0, some 7, 0⟩ : RxFrame).ring = some 7 ∧
    (c0.advanceTo 12500).Accepts ctl (NET_TX_TAIL 7).addr 1 ∧
    ((net0.setNetPort 1 fun p => { p with sending := some { bytes := [1] } }).netPort 1).sending = some { bytes := [1] } ∧
    c0.Accepts ctl (NET_STR_CFG 1).addr 1 ∧
    ((c0.setStream 1 fun z => { z with active := true }).stream 1).active = true ∧
    (c0.stream 1).active = false ∧
    (c0.stream 1).ready = [] ∧
    (full0.stream 0).ready = [(0, [], [])] ∧
    (c0.advanceTo 12500).Accepts mgt (NET_RING_CFG 7).addr (2 % 4) ∧
    c0.variant.nets ≤ 2 ∧
    (c0.advanceTo 12500).netRuns 1 = false ∧
    (net0.setFlag (NET_PCTRL_pause_rx 1) true).steer 1 pause0 ≠ .crcError ∧
    (net0.isPause 1 (pause0.take (pause0.length - 4)) = true ∧ (net0.setFlag (NET_PCTRL_pause_rx 1) true).flag (NET_PCTRL_pause_rx 1) = true) ∧
    ((net0.setFlag NET_VLAN_CFG_untagged false).steer 1 (wire0 [0x08, 0x00])) = .vlan ∧
    ((net0.setFlag NET_VLAN_CFG_untagged true).steer 1 (frame0 [2, 9, 9, 9, 9, 9] [0x08, 0x00])) = .foreign ∧
    ((net0.advanceTo 12500).netPort 1).sending = none ∧
    ((c0.variant.nets ≤ 1 ∨ c0.flag NET_CTRL_en = false ∨ (c0.netPort 1).fifo = [])) ∧
    7 < 8 ∧
    1 < 2 :=
  by and_intros <;> first
    | decide +kernel
    | exact ⟨by decide +kernel, by decide +kernel⟩
    | (rw [List.length_replicate]; decide +kernel)
    | exact (.inr (by decide +kernel))

theorem witness_FullQueue : Config.txQueueFrames ≤ (full0.txQueue (full0.streamPort 0) (min 6 (full0.rd (NET_STR_CFG_queue 0)))).length := by
  have h : full0.streamPort 0 = 0 := by decide +kernel
  have g : full0.rd (NET_STR_CFG_queue 0) = 0 := by decide +kernel
  rw [h, g]
  exact Nat.le_of_eq (by rw [show full0.txQueue 0 (min 6 0) = List.replicate Config.txQueueFrames { bytes := [] } from rfl]; simp)

/-- The mains link enabled and locked, with its hidden part changed. -/
def mains0 (f : Mains → Mains) : Chip :=
  ((c0.setFlag MLK_CTRL_en true).setFlag MLK_STATUS_locked true).setMlk f
def waits0 : Chip := (mains0 fun m => { m with crossed := true }).put MLK_TX_ST_state 1
/-- A crossing of phase 2 at the first cycle, and the cycle one million. -/
def edge0 : Chip :=
  { c0.setMlk (fun m => { m with edges := [(2, some 0)] }) with net := { c0.net with cycles := 1000000 } }

theorem witness_MainsCommands :
    c0.hasMains = true ∧
    2 < 3 ∧
    (mains0 fun m => m).flag MLK_STATUS_locked = true ∧
    ((mains0 fun m => m).advanceTo 12500).mlk.next + 20000 < ({ mains0 (fun m => m) with net := { c0.net with cycles := 20001 } } : Chip).netNow ∧
    (c0.setFlag (MLK_CSTATUS_sense_ok 2) true).flag (MLK_CSTATUS_sense_ok 2) = true ∧
    c0.flag (MLK_CSTATUS_drv_fault 2) ≠ true ∧
    ((mains0 fun m => m).advanceTo 12500).mainsRuns = true ∧
    (mains0 fun m => m).rd MLK_TX_ST_state ≠ 2 ∧
    (mains0 fun m => { m with receiving := some 5 }).mlk.receiving = some 5 ∧
    (mains0 fun m => m).mlk.receiving = none ∧
    (mains0 fun m => m).syncAccepted [] = false ∧
    c0.Accepts ctl MLK_RX_POP.addr 1 ∧
    c0.Accepts ctl MLK_TX_CMD.addr 1 ∧
    c0.Accepts ctl MLK_TX_CMD.addr 2 ∧
    (2).testBit 1 = true ∧
    c0.rd MLK_TX_ST_state ≠ 1 ∧
    (c0.put MLK_TX_ST_state 1).rd MLK_TX_ST_state = 1 ∧
    (c0.put MLK_TX_ST_state 2).rd MLK_TX_ST_state = 2 ∧
    c0.sendRefusal = some 5 ∧
    ((mains0 fun m => m).put (MLK_TX_BUF_frame 0) 1).sendRefusal = none ∧
    (waits0.setFlag MLK_STATUS_band_busy true).mainsRuns = true ∧
    (waits0.setFlag MLK_STATUS_band_busy true).isOff = false ∧
    (waits0.setFlag MLK_STATUS_band_busy true).rd MLK_TX_ST_state = 1 ∧
    waits0.mlk.crossed = true ∧
    waits0.mlk.receiving = none ∧
    4 ≤ waits0.mlk.gap ∧
    waits0.mlk.backoff = 0 ∧
    (waits0.setFlag MLK_STATUS_band_busy true).bandC = false ∧
    c0.mlk.left = 0 ∧
    (edge0.setFlag MLK_CTRL_en true).flag MLK_CTRL_en = true ∧
    (mains0 fun m => { m with aborting := some 0 }).mlk.aborting = some 0 ∧
    0 ≤ (mains0 fun m => { m with aborting := some 0 }).netNow ∧
    c0.mlk.aborting = none ∧
    c0.variant = .mh6432 ∧
    ({ c0 with variant := .mh6408 } : Chip).hasMains = false ∧
    (∃ d : Nat, (Sparse.get (fun _ => none) (edge0.advanceTo 0).mlk.edges 2).map ((edge0.advanceTo 0).netNow - ·) = some d ∧ 769000 ≤ d ∧ d ≤ 1111000) ∧
    (Sparse.get (fun _ => none) (c0.advanceTo 0).mlk.edges 2) = none ∧
    c0.mainsRuns = false :=
  by and_intros <;> first
    | decide +kernel
    | exact ⟨by decide +kernel, by decide +kernel⟩
    | exact ⟨1000000, by decide +kernel, by omega, by omega⟩

/-- The reader enabled with antenna 0 claimed, enabled and pinging; a round and a write that run. -/
def tag0 (f : TagReader → TagReader) : Chip :=
  ((claim0 ((c0.setFlag TAG_CTRL_en true).setFlag (TAG_ANT_CFG_en 0) true) 64 (c0.rd (ownerFld tagPage))).setFlag
    (TAG_ANT_CFG_ping_en 0) true).setTag f
def round0 (exchange : Bool) : Chip := tag0 fun t => { t with round := some { ant := 0, exchange := exchange, frames := [{ q2 := 0, empties := 2 }] } }

theorem witness_PingDecision :
    c0.rd TAG_PING_CFG_thr = 0x333 ∧
    ((4000 - 0 : Int) ^ 2 + (0 - 0) ^ 2 > (0x333 : Int) ^ 2 * 2 ^ 4) ∧
    ((c0.measureGamma 3 4000 0).rdS (TAG_GAMMA_REF_re 3) = 0 ∧ (c0.measureGamma 3 4000 0).rdS (TAG_GAMMA_REF_im 3) = 0) ∧
    (c0.measureGamma 3 4000 0).flag (TAG_ANT_ST_fault 3) = false ∧
    (c0.measureGamma 3 8193 0).flag (TAG_ANT_ST_fault 3) = true ∧
    (c0.setTag fun t => { t with exceeded := 8 }).tag.exceeded.testBit 3 = true ∧
    c0.tag.exceeded.testBit 3 = false ∧
    (¬ ((0x333 : Int) ^ 2 * 2 ^ 4 < (3000 - 0 : Int) ^ 2 + (0 - 0) ^ 2)) :=
  by and_intros <;> decide +kernel

theorem witness_TagReader :
    0 < Blk.count c0.variant .tag ∧
    c0.flag TAG_STATUS_radio_fault = false ∧
    (tag0 fun t => t).flag TAG_CTRL_en = true ∧
    (tag0 fun t => t).tagBusy = false ∧
    8 * max 20 ((tag0 fun t => { t with sincePing := 800 }).rd TAG_PING_CFG_period) ≤ 800 ∧
    (tag0 fun t => t).tagMay 0 = true ∧
    (tag0 fun t => t).flag (TAG_ANT_CFG_ping_en 0) = true ∧
    (∀ k : Nat, 0 < k → k < 4 → ((tag0 fun t => { t with sincePing := 0 }).pingAntenna 0 5 7).2.tagMay k = false) ∧
    (∀ k : Nat, k < 4 → c0.tagMay k = false) ∧
    c0.Accepts ctl TAG_CMD.addr 1 ∧
    c0.Accepts ctl TAG_CMD.addr 2 ∧
    c0.Accepts ctl TAG_CMD.addr 4 ∧
    c0.Accepts ctl TAG_CMD.addr 8 ∧
    (round0 false).tagBusy = true ∧
    (round0 true).tag.round = some { ant := 0, exchange := true, frames := [{ q2 := 0, empties := 2 }] } ∧
    (round0 false).tag.round = some { ant := 0, exchange := false, frames := [{ q2 := 0, empties := 2 }] } ∧
    0x0800 / 2048 % 32 ≠ 0 ∧
    0x0200 / 2048 % 32 = 0 ∧
    ((round0 false).setFlag TAG_CFG_halter_en true).flag TAG_CFG_halter_en = true ∧
    crc16 (beBytes 2 0x0800 ++ [1, 2]) = 60815 ∧
    crc16 (beBytes 2 0x0800 ++ [1, 2]) ≠ 41 ∧
    crc16 [1] = 3630 ∧
    ((round0 true).tag.round.map TagRound.frames) = some [{ q2 := 0, empties := 2 }] ∧
    ({ q2 := 0, empties := 2 } : TagFrame).q = 0 ∧
    ((round0 true).awaitsReply = true ∧ (round0 false).awaitsReply = false) ∧
    (tag0 fun t => t).tagChannel.carrierPaused = false ∧
    (tag0 fun t => { t with left := [(t.channel, 0)] }).tagChannel.carrierPaused = true ∧
    (((tag0 fun t => t).tagChannel.setTag fun t => { t with deferred := none }).measureGamma 0 9000 0).flag (TAG_ANT_ST_fault 0) = true ∧
    readPair none = none ∧
    readPair (some ({ words := [7], handle := 1, crc := 29679 }, { words := [8], handle := 2, crc := 28605 })) = some ([7], [8]) ∧
    c0.resolveLate ⟨4, 0, [], 0, 0, [], 0⟩ = false ∧
    8 * max 1 (c0.rd TAG_ROUND_max_ms) ≤ 8 * 65535 ∧
    2 ≤ ({ q2 := 0, empties := 2 } : TagFrame).empties ∧
    (tag0 fun t => { t with resolves := [⟨4, 0, [], 0, 0, [], 0⟩] }).tag.resolves = ⟨4, 0, [], 0, 0, [], 0⟩ :: [] ∧
    Sparse.get (fun _ => none) (c0.setVlt fun v => { v with answers := [(4, some { error := 0, found := [(1, 2)] })] }).vlt.answers 4 = some { error := 0, found := [(1, 2)] } ∧
    Sparse.get (fun _ => none) (c0.setVlt fun v => { v with answers := [(4, some { error := 0, found := [] })] }).vlt.answers 4 = some { error := 0, found := [] } ∧
    Sparse.get (fun _ => none) c0.vlt.answers 4 = none ∧
    c0.resolveLate ⟨4, 0, [], 0, 0, [], 81⟩ = true ∧
    (round0 false).activeAntenna = some 0 ∧
    (round0 false).flag (TAG_ANT_ST_fault 0) = false ∧
    c0.flag TAG_CFG_region = false ∧
    32000 ≤ (tag0 fun t => { t with dwell := 32000 }).tag.dwell ∧
    ((round0 false).put TAG_CFG_ch_mask 0).nextChannel = 1 ∧
    (((tag0 fun t => t).tagChannel.setTag fun t => { t with deferred := none }).measureGamma 0 0 0).flag (TAG_ANT_ST_fault 0) = false ∧
    (tag0 fun t => t).rd TAG_ROUND_ant = 0 ∧
    newerCopy 1 ([], []) = none ∧
    (newerCopy 1 ([1, 2, copyCrc 1 [2]], []) = some 0 ∨ newerCopy 1 ([1, 2, copyCrc 1 [2]], [2, 3, copyCrc 2 [3]]) = some 1) ∧
    newerCopy 1 ([2, 2, copyCrc 2 [2]], [1, 3, copyCrc 1 [3]]) = some 0 ∧
    (tag0 fun t => { t with writing := some (0, 3) }).tag.writing = some (0, 3) ∧
    c0.Accepts ctl TAG_REP_POP.addr 1 ∧
    c0.tag.round = none ∧
    (round0 false).carrierPaused = false ∧
    ((round0 false).setTag fun t => { t with left := [(t.channel, 0)] }).carrierPaused = true ∧
    c0.tagBusy = false ∧
    c0.tag.resolves.find? (fun _ => true) = none ∧
    ((round0 false).setFlag TAG_CFG_region true).flag TAG_CFG_region = true ∧
    (round0 false).dwellLimit ≤ ((round0 false).setTag fun t => { t with dwell := 32000 }).tag.dwell ∧
    c0.tag.writing = none ∧
    c0.tagMay 0 = false :=
  by and_intros <;> first
    | decide +kernel
    | exact ⟨by decide +kernel, by decide +kernel⟩
    | exact (fun k _ h => by interval_cases k <;> first | omega | decide +kernel)
    | exact (.inr (by decide +kernel))

/-- The vault ready, a slot named, with keys in slots 5 (reader and records) and 6 (derivation). -/
def ready0 : Chip := ((c0.setFlag VLT_STATUS_ready true).put VLT_KW_SLOT_slot 5).put VLT_KW_ATTR_type 1
def vault0 (f : Vault → Vault) : Chip := ready0.setVlt f
def config0 : Chip :=
  (vault0 fun v =>
    { v with
      slots := [(5, { key := { type := 3, usage := 0xFF, planes := 15, generation := 1, key := [1] } }),
        (6, { key := { type := 2, usage := 0xFF, planes := 15, generation := 1, key := [1] } })] }).setWord VLT_CFG.addr 0x0605

theorem witness_KeyCommands :
    ready0.Accepts mgt VLT_KW_CMD.addr KeyOp.write.word ∧
    ready0.Accepts mgt VLT_KW_CMD.addr KeyOp.erase.word ∧
    ready0.Accepts mgt VLT_KW_CMD.addr KeyOp.generate.word ∧
    ready0.Accepts mgt VLT_KW_CMD.addr KeyOp.attr.word ∧
    config0.Accepts mgt VLT_KW_CMD.addr KeyOp.cfg.word ∧
    ready0.Accepts mgt VLT_KW_CMD.addr KeyOp.halter.word ∧
    ready0.keyRefusal .write = none ∧
    ready0.keyRefusal .erase = none ∧
    ready0.keyRefusal .generate = none ∧
    ready0.keyRefusal .attr = none ∧
    config0.keyRefusal .cfg = none ∧
    ready0.keyRefusal .halter = none ∧
    (vault0 fun v => { v with command := some (.halter 7 4095 9) }).keyRefusal .cfg = some 1 ∧
    (ready0.put VLT_KW_SLOT_slot 0).keyRefusal .attr = some 2 ∧
    (ready0.put VLT_KW_ATTR_type 0).keyRefusal .generate = some 3 ∧
    ready0.keyRefusal .cfg = some 6 ∧
    (ready0.setFlag VLT_STATUS_ready false).keyRefusal .halter = some 7 ∧
    KeyOp.write.onSlot = true ∧
    (ready0.put VLT_KW_SLOT_slot 0).rd VLT_KW_SLOT_slot = 0 ∧
    (vault0 fun v => { v with command := some (.slot 255 {}) }).vlt.command = some (.slot 255 {}) ∧
    (vault0 fun v => { v with command := some (.halter 7 4095 9) }).vlt.command = some (.halter 7 4095 9) ∧
    c0.vlt.command = none ∧
    (vault0 fun v => { v with command := some (.config [1]) }).vlt.command = some (.config [1]) ∧
    newestCopy ready0.vlt.stored = none :=
  by and_intros <;> first | decide +kernel | exact ⟨by decide +kernel, by decide +kernel⟩
/-- A stored copy with its CRC is the copy in force. -/
theorem witness_KeyCommands_stored (x : VaultCopy) (h : x.crc = copyCheck x.generation x.words) :
    newestCopy [(0, some x)] = some ((x.generation, x.words), 0) := by
  simp [newestCopy, Sparse.get, Sparse.find, h]

theorem witness_KeyCommands_copy : (⟨1, [2], copyCheck 1 [2]⟩ : VaultCopy).crc = copyCheck 1 [2] := rfl


theorem witness_KeyUpdateIsDoubleBanked :
    0 < 255 ∧
    254 ≠ 255 :=
  by and_intros <;> decide +kernel

theorem witness_VaultRequests :
    15 < Blk.vrq.count c0.variant ∧
    ready0.Accepts saf (VREQ_CMD 15).addr 1 ∧
    ready0.Accepts saf (VREQ_CMD 15).addr 2 ∧
    (ready0.put (VREQ_OP_op 15) 1).rd (VREQ_OP_op 15) = 1 ∧
    (ready0.put (VREQ_OP_op 15) 0x0D).rd (VREQ_OP_op 15) = 0x0D ∧
    (ready0.put (VREQ_ST_state 15) 2).windowBusy 15 = true ∧
    ready0.windowBusy 15 = false ∧
    ((((ready0.put (VREQ_OP_op 15) 1).put (VREQ_LEN_len 15) 4).put (VREQ_LEN_param 15) 32).goError ((((ready0.put (VREQ_OP_op 15) 1).put (VREQ_LEN_len 15) 4).put (VREQ_LEN_param 15) 32).windowRequest 15) = 0 ∨ ((ready0.put (VREQ_OP_op 15) 2).put (VREQ_LEN_param 15) 0).goError (((ready0.put (VREQ_OP_op 15) 2).put (VREQ_LEN_param 15) 0).windowRequest 15) = 0) ∧
    c0.goError (c0.windowRequest 15) ≠ 0 ∧
    (c0.put (VREQ_ST_state 15) 1).rd (VREQ_ST_state 15) = 1 ∧
    c0.engine 2 = none ∧
    (vault0 fun v => { v with queue := [{ source := .window 15, plane := 3, op := 1 }] }).nextRequest 0 = some { source := .window 15, plane := 3, op := 1 } ∧
    ready0.keyError { source := .window 15, plane := 3, op := 1 } = 0 ∧
    ready0.keyError { source := .window 15, plane := 3, op := 7, slot := 255 } ≠ 0 ∧
    (vault0 fun v => { v with engines := [(2, some ({ source := .readout, plane := 1, op := 11 }, {}))] }).engine 2 = some ({ source := .readout, plane := 1, op := 11 }, {}) ∧
    c0.flag VLT_STATUS_trng_fault = false ∧
    c0.flag VLT_STATUS_ready = false ∧
    c0.Accepts dat LDG_SIGN_CMD.addr 1 ∧
    c0.rd LDG_SIGN_ST_state ≠ 1 ∧
    (c0.rd LDG_SIGN_MTR_meter < c0.variant.meters ∧ ((c0.modMeter 0 fun x => { x with active := true }).meter (c0.rd LDG_SIGN_MTR_meter)).active = true) ∧
    (¬ (c0.rd LDG_SIGN_MTR_meter < c0.variant.meters ∧ (c0.meter (c0.rd LDG_SIGN_MTR_meter)).active = true)) ∧
    Sparse.get (fun _ => none) (vault0 fun v => { v with answers := [(256, some { error := 3 })] }).vlt.answers 256 = some { error := 3 } ∧
    (c0.put LDG_SIGN_ST_state 1).rd LDG_SIGN_ST_state = 1 ∧
    1024 < (List.replicate 1025 0).length ∧
    ({ error := 2 } : VaultAnswer).output.length ≤ 1024 ∧
    Blk.vrq.count c0.variant ≤ 16 ∧
    ((3 ≤ 3 ∨ c0.engine 0 ≠ none ∨ c0.nextRequest 0 = none)) ∧
    ready0.keyError { source := .readout, plane := 1, op := 1 } = 0 ∧
    c0.engine 0 = none ∧
    ready0.flag VLT_STATUS_ready = true ∧
    Sparse.get (fun _ => none) c0.vlt.answers 256 = none :=
  by and_intros <;> first
    | decide +kernel
    | exact ⟨by decide +kernel, by decide +kernel⟩
    | (rw [List.length_replicate]; decide)

/-- The planes started, with the boot logic changed; plane 3 on trial. -/
def boot0 (f : Boot → Boot) : Chip := (c0.put (UPD_PL_ST_state 3) 2).setBoot f
def trial0 : Boot → Boot := fun b =>
  { b with records := [some { generation := 1, planes := [{}, {}, {}, { trial := true }] }, none, none, none], trials := [(3, 8000 * 65535)] }

theorem witness_ImagesAndUpdates :
    (boot0 id).Accepts mgt (UPD_PL_CMD 3).addr (0xC1A5 * 65536 + 31) ∧
    (0xC1A5 * 65536 + 31) / 65536 % 65536 = 0xC1A5 ∧
    (0xC1A5 * 65536 + 31).testBit 0 = true ∧
    (0xC1A5 * 65536 + 31).testBit 4 = true ∧
    (boot0 id).rd (UPD_PL_ST_state 3) = 2 ∧
    c0.rd (UPD_PL_ST_state 0) ≠ 2 ∧
    Sparse.get (fun _ => 0) c0.boot.hold 0 = 0 ∧
    c0.switchRefusal 0 = some 1 ∧
    (boot0 fun b => { b with verified := 2 }).switchRefusal 0 = none ∧
    (boot0 fun b => { b with loading := some (1, 0) }).boot.loading = some (1, 0) ∧
    (boot0 fun b => { b with spoilt := 4 }).imageValid 1 0 = false ∧
    ((boot0 fun b => { b with spoilt := 4 }).bootPlane 1).trial = false ∧
    ((boot0 trial0).bootPlane 3).trial = true ∧
    ((boot0 fun b => { trial0 b with spoilt := 64 }).bootPlane 3).trial = true ∧
    (boot0 fun b => { trial0 b with spoilt := 64 }).imageValid 3 0 = false ∧
    Sparse.find (boot0 trial0).boot.trials 3 = some (8000 * 65535) ∧
    8000 * max 1 ((boot0 trial0).rd (UPD_PL_CFG_window 3)) ≤ 8000 * 65535 ∧
    c0.Accepts mgt UPD_U_CMD.addr 1 ∧
    c0.Accepts mgt UPD_U_CMD.addr 2 ∧
    c0.Accepts mgt UPD_U_CMD.addr 4 ∧
    c0.Accepts mgt UPD_U_CMD.addr 8 ∧
    c0.boot.restarting.testBit 2 = false ∧
    c0.updateRefusal 0 0x10000 = none ∧
    c0.updateRefusal 1 256 = some 2 ∧
    (boot0 fun b => { b with command := some (.verify 0 0) }).updateRefusal 0 1 = some 3 ∧
    (boot0 fun b => { b with command := some (.erase 3 1 0) }).boot.command = some (.erase 3 1 0) ∧
    (boot0 fun b => { b with command := some (.program 3 1 256 [7]) }).boot.command = some (.program 3 1 256 [7]) ∧
    (boot0 fun b => { b with command := some (.verify 0 0) }).boot.command = some (.verify 0 0) ∧
    (c0.setFlag SAF_STATUS_seal_open true).Accepts mgt UPD_KH_CMD.addr 1 ∧
    (c0.setFlag SAF_STATUS_seal_open true).Accepts mgt UPD_KH_CMD.addr 2 ∧
    c0.flag (UPD_KH_ST_enrolled.bitOf (c0.rd UPD_KH_SEL_index)) = false ∧
    (c0.put UPD_KH_ST_enrolled 15).flag (UPD_KH_ST_enrolled.bitOf ((c0.put UPD_KH_ST_enrolled 15).rd UPD_KH_SEL_index)) = true ∧
    c0.boot.loading = none ∧
    Sparse.find c0.boot.trials 3 = none ∧
    (boot0 fun b => { b with restarting := 4 }).boot.restarting.testBit 2 = true ∧
    c0.boot.command = none :=
  by and_intros <;> first | decide +kernel | exact ⟨by decide +kernel, by decide +kernel⟩

theorem witness_ResetsAndBringUp :
    c0.boot.powered = true ∧
    (boot0 fun b => { b with held := true, powered := false }).boot.held = true ∧
    (boot0 fun b => { b with held := true, powered := false }).boot.powered = false ∧
    run0.fold.running = true ∧
    c0.Accepts mgt FAB_RST.addr (0xC1A5 * 65536 + 0x30F) ∧
    (0xC1A5 * 65536 + 0x30F) / 65536 % 65536 = 0xC1A5 ∧
    (0xC1A5 * 65536 + 0x30F).testBit 9 = true ∧
    (0xC1A5 * 65536 + 0x10F).testBit 9 = false ∧
    (0xC1A5 * 65536 + 0x10F).testBit 8 = true ∧
    (0xC1A5 * 65536 + 0x00F).testBit 8 = false ∧
    c0.boot.wanted = none ∧
    (boot0 fun b => { b with wanted := some (true, 3, 0) }).boot.wanted = some (true, 3, 0) ∧
    c0.flag LDG_STATUS_restored = false ∧
    (led0 fun l => { l with resetDone := true }).led.resetDone = true ∧
    c0.Accepts mgt FAB_PWR.addr 15 ∧
    (boot0 fun b => { b with wanted := some (true, 3, 0) }).boot.wanted.isSome = true ∧
    ({ c0.led with writing := some {} } : Ledger).writing.isSome = true ∧
    c0.fold.running = false ∧
    0 / 65536 % 65536 ≠ 0xC1A5 :=
  by and_intros <;> first | decide +kernel | exact ⟨by decide +kernel, by decide +kernel⟩
/-- IMD channel 7 at work, its half-period of one sign 10 s old and settled at 1 V. -/
def imd0 (negative : Bool) : Chip :=
  ((saf0 fun s => { s with running0 := true }).setFlag (IMD_STATUS_enabled 7) true).setInsulation 7 fun i =>
    { i with age := 80000, samples := List.replicate 401 1000000, negative := negative }

theorem witness_WatchdogsAndFaults :
    6 < 7 ∧
    ((boot0 fun b => { b with watchdogs := [(0, some 0)] }).watchdog (targetPlane 0)).isSome = true ∧
    targetPlane 5 ≠ 2 ∧
    (boot0 fun b => { b with watchdogs := [(2, some 4000)] }).watchdog 2 = some 4000 ∧
    (boot0 fun b => { b with watchdogs := [(2, some 4000)] }).watchdogTime 2 ≤ 2 * 4000 ∧
    c0.boot.halves.testBit 2 = false ∧
    (boot0 fun b => { b with watchdogs := [(2, some 4000)] }).watchdogTime 2 ≤ 4000 ∧
    (saf0 fun s => { s with running0 := true, watchdog := 80 }).saf.running0 = true ∧
    (saf0 fun s => { s with running0 := true, watchdog := 80 }).saf.expired = false ∧
    80 ≤ (saf0 fun s => { s with running0 := true, watchdog := 80 }).saf.watchdog ∧
    (4 ≤ 5 ∧ 5 < 6) ∧
    33000 < 33001 ∧
    31999 < 32000 ∧
    c0.boot.held = false ∧
    10 ≤ ({ c0.fold with dieHot := 10 } : Fold).dieHot ∧
    7 < c0.variant.ports / 4 ∧
    c0.watchdog 0 = none ∧
    c0.boot.powered = true ∧
    (boot0 fun b => { b with powered := false, held := false }).boot.powered = false ∧
    (boot0 fun b => { b with wanted := some (true, 3, 0) }).boot.wanted ≠ none ∧
    (imd0 true).flag (IMD_STATUS_enabled 7) = true ∧
    (imd0 true).saf.running0 = true ∧
    ((imd0 true).insulation 7).ends 1000000 10000 true = true ∧
    ((imd0 false).insulation 7).ends 1000000 10000 true = true ∧
    ((imd0 true).insulation 7).ends 1000001 10000 true = false ∧
    (c0.insulation 7).ends 0 0 true = false ∧
    ((imd0 false).insulation 7).negative = false ∧
    ((imd0 true).insulation 7).negative = true ∧
    ((imd0 true).insulation 7).noValue = false ∧
    (imdOutside 1000000 || !true) = false :=
  by and_intros <;> decide +kernel

/-- Bytes at consecutive places of the image store, from place k on, but for those that read so unlisted. -/
def norBytes (k : Nat) (bs : List Nat) : Sparse Byte :=
  (((List.range bs.length).zip bs).filter fun p => p.2 != 255).map fun p => (k + p.1, BitVec.ofNat 8 p.2)

/-- The parts of an empty image's header: its first 24 bytes, the hash of no bytes and the key, and the signature. The key is the pair
(1, 0), whose double is the point at infinity, and s is the number of the digest, so u1 = 1 and u2 is even: few sums are left to do. -/
def head0 : List Nat := [0x51, 0x58, 0x49, 0x4D, 1, 0] ++ List.replicate 6 255 ++ [0, 255, 255, 255, 0, 0, 0, 0] ++ List.replicate 4 255
def key0 : List Nat := List.replicate 47 0 ++ [1] ++ List.replicate 48 0
def top0 : List Nat := head0 ++ beBytes 48
  0x38b060a751ac96384cd9327eb1b1e36a21fdb71114be07434c0cc7bf63f6e1da274edebfe76f65fbd51ad2f14898b95b ++ key0
def sig0 : List Nat := beBytes 48
  0xaa87ca22be8b05378eb1c71ef320ad746e1d3b628ba79b9859f741e082542a385502f25dbf55296c3a545e3872760ab7 ++ beBytes 48
  0x3dd935f51979cbe8f6e06acbcf1ac354b2a1316f484f9fdd15cb5e413013e8cb9d38d7dc18f0b27892136a83aed54b0c

/-- The block with that image in bank 0 of the data plane, its key's hash enrolled as index 0. -/
def image0 : Chip :=
  (c0.put UPD_KH_ST_enrolled 1).setBoot fun b => { b with
    hashes := [(0, sha384 key0)], nor := norBytes 0x1900000 top0 ++ norBytes (0x1900000 + 4000) sig0 }

/-- A range of the image store in which nothing is listed reads as erased. -/
theorem erased_range (m : Sparse Byte) (b n : Nat) (h : (m.all fun p => decide (p.1 < b) || decide (b + n ≤ p.1)) = true) :
    (List.range n).map (fun k => (Sparse.get (fun _ => (0xFF : Byte)) m (b + k)).toNat) = List.replicate n 255 := by
  induction m with
  | nil => simp [Sparse.get, Sparse.find, List.map_const']
  | cons p m ih =>
    simp only [List.all_cons, Bool.and_eq_true, Bool.or_eq_true, decide_eq_true_eq] at h
    rw [← ih (by simpa using h.2)]
    refine List.map_congr_left fun k hk => ?_
    have := List.mem_range.1 hk
    have hne : b + k ≠ p.1 := by omega
    simp [Sparse.get, Sparse.find, hne]

/-- A range of the image store in two parts. -/
theorem image_split (c : Chip) (p bank a n m : Nat) : c.image p bank a (n + m) = c.image p bank a n ++ c.image p bank (a + n) m := by
  simp [Chip.image, List.range_add, Function.comp_def, Nat.add_assoc]

/-- The image's header. -/
theorem header0 : image0.header 1 0 = top0 ++ List.replicate 3832 255 ++ sig0 := by
  have h1 : image0.image 1 0 0 168 = top0 := by decide +kernel
  have h2 : image0.image 1 0 168 3832 = List.replicate 3832 255 := by
    exact erased_range image0.boot.nor (0x1900000 + 168) 3832 (by decide +kernel)
  have h3 : image0.image 1 0 4000 96 = sig0 := by decide +kernel
  have e1 : image0.header 1 0 = image0.image 1 0 0 168 ++ image0.image 1 0 168 3928 := image_split image0 1 0 0 168 3928
  have e2 : image0.image 1 0 168 3928 = image0.image 1 0 168 3832 ++ image0.image 1 0 4000 96 := image_split image0 1 0 168 3832 96
  rw [e1, e2, h1, h2, h3, List.append_assoc]

/-- The loader accepts the image (R477): the clause of ImagesAndUpdates that needs one. -/
theorem image0_valid : image0.imageValid 1 0 = true := by
  unfold Chip.imageValid
  rw [header0]
  decide +kernel

/-- Starting and ending a load leaves a block that loads nothing as it was. -/
theorem load_twice (c : Chip) (l : Option (Nat × Nat)) (h : c.boot.loading = none) :
    (c.setBoot fun b => { b with loading := l }).setBoot (fun b => { b with loading := none }) = c := by
  simp only [Chip.setBoot, ← h]

/-- The loader is loading it. -/
theorem witness_ImageAccepted :
    (image0.setBoot fun b => { b with loading := some (1, 0) }).boot.loading = some (1, 0) ∧
    ((image0.setBoot fun b => { b with loading := some (1, 0) }).setBoot fun b => { b with loading := none }).imageValid 1 0 = true := by
  rw [load_twice image0 (some (1, 0)) (by decide +kernel)]
  exact ⟨by decide +kernel, image0_valid⟩

/-! ### Terms that WellFormed refuses, one for each check, each beside a term at its bound that it accepts -/

theorem test_wellFormed_numbers :
    upTo 9 9 = false ∧ upTo 9 8 = true ∧ word (2 ^ 32) = false ∧ word (2 ^ 32 - 1) = true ∧ number64 (2 ^ 64) = false ∧
    number64 (2 ^ 64 - 1) = true ∧ cycle 12501 = false ∧ cycle 12500 = true := by decide

theorem test_wellFormed_addresses :
    busAddress 0x40000002 = false ∧ busAddress 0x101700000 = false ∧ busAddress 0x1016FFFFC = true ∧ busAddress 0x40000004 = true ∧ pageAddress 0x40000004 = false ∧
    pageAddress 0x40600000 = false ∧ pageAddress 0x3FFFF000 = false ∧ pageAddress 0x405FF000 = true := by decide

theorem test_wellFormed_bytes :
    octets [0, 256] = false ∧ octets [0, 255] = true ∧ copyPair (some ({ words := [1] }, { words := [65536] })) = false ∧ copyPair (some ({ words := [], crc := 65536 }, { words := [] })) = false ∧
    copyPair none = true := by decide

theorem test_wellFormed_access :
    Access.wellFormed { by_ := .a0, size := 3 } = false ∧ Access.wellFormed { by_ := .a0, skew := 4 } = false ∧
    Access.wellFormed { by_ := .a0, size := 8, skew := 3 } = true := by decide

theorem test_wellFormed_layout :
    ConfigLayout.wellFormed { header := (0x77FFF, 2) } = false ∧ ConfigLayout.wellFormed { headerCrc := 0x77FFD } = false ∧
    ConfigLayout.wellFormed { body := (0, 0x78001) } = false ∧ ConfigLayout.wellFormed { bodyCrc := 0x77FFD } = false ∧
    ConfigLayout.wellFormed { sequence := 0x77FFD } = false ∧ ConfigLayout.wellFormed { words := [(2, 0)] } = false ∧
    ConfigLayout.wellFormed { words := [(4, 0x77FFD)] } = false ∧ ConfigLayout.wellFormed { active := (0, 554) } = false ∧
    ConfigLayout.wellFormed { passive := (0, 554) } = false ∧ ConfigLayout.wellFormed { active := (0x77FFD, 1) } = false ∧
    ConfigLayout.wellFormed { passive := (0x77FFD, 1) } = false ∧ ConfigLayout.wellFormed { activeCrc := 0x77FFD } = false ∧
    ConfigLayout.wellFormed { items := [(2048, 0)] } = false ∧ ConfigLayout.wellFormed { items := [(0, 0x77FFD)] } = false ∧
    ConfigLayout.wellFormed { active := (0, 553), words := [(4, 0x77FFC)] } = true := by decide +kernel

theorem test_wellFormed_stride_inputs :
    StrideInputs.wellFormed { bits := [(192, 0)] } = false ∧ StrideInputs.wellFormed { pilot := [(32, [])] } = false ∧
    StrideInputs.wellFormed { pilot := [(0, List.replicate 126 0)] } = false ∧
    StrideInputs.wellFormed { proximity := [(32, 0)] } = false ∧ StrideInputs.wellFormed { channel := [(64, 0, 0)] } = false ∧
    StrideInputs.wellFormed { channel := [(0, 4096, 0)] } = false ∧ StrideInputs.wellFormed { channel := [(0, 0, 4096)] } = false ∧
    StrideInputs.wellFormed { clamp := [(64, [])] } = false ∧ StrideInputs.wellFormed { bank := [(8, 0)] } = false ∧
    StrideInputs.wellFormed { lock := [(32, true)] } = false ∧ StrideInputs.wellFormed { rcm := [(32, 0)] } = false ∧
    StrideInputs.wellFormed { crookLevel := [(32, 0)] } = false ∧ StrideInputs.wellFormed { crookLevel := [(0, 64)] } = false ∧
    StrideInputs.wellFormed { badFrames := 16 } = false ∧ StrideInputs.wellFormed { cutPins := 65536 } = false ∧
    StrideInputs.wellFormed { bank := [(7, 0)], cutPins := 65535 } = true := by decide +kernel

theorem test_wellFormed_replies :
    TagReply.wellFormed (.epc 65536 [] 0 none) = false ∧ TagReply.wellFormed (.epc 0 [256] 0 none) = false ∧
    TagReply.wellFormed (.epc 0 [] 65536 none) = false ∧ TagReply.wellFormed (.epc 0 [] 0 (some 512)) = false ∧
    TagReply.wellFormed (.authenticate [256] 0) = false ∧ TagReply.wellFormed (.authenticate [] 65536) = false ∧
    TagReply.wellFormed (.epc 0 [] 0 none) = true ∧ writeReply (.reply (some 256) 0 0) = false ∧
    writeReply (.reply none 65536 0) = false ∧ writeReply (.reply none 0 65536) = false ∧ writeReply .unsent = true := by decide

theorem test_wellFormed_stride_frame :
    StrideFrame.wellFormed { role := 4 } = false ∧ StrideFrame.wellFormed { watchdogs := 16 } = false ∧
    StrideFrame.wellFormed { confirmed := 16 } = false ∧ StrideFrame.wellFormed { stride := 2 ^ 64 } = false ∧
    StrideFrame.wellFormed { lc := 2 ^ 64 } = false ∧ StrideFrame.wellFormed { digest := 2 ^ 64 } = false ∧
    StrideFrame.wellFormed { outputs := 2 ^ 64 } = false ∧ StrideFrame.wellFormed { safeOk := 2 ^ 32 } = false ∧
    StrideFrame.wellFormed { trims := List.replicate 9 0 } = false ∧
    StrideFrame.wellFormed { temps := List.replicate 33 none } = false ∧
    StrideFrame.wellFormed { pilots := List.replicate 33 none } = false ∧ StrideFrame.wellFormed { flocks := List.replicate 9 0 } = false ∧ StrideFrame.wellFormed {} = true := by decide

theorem test_wellFormed_commands :
    Instr.wellFormed (.netRingDeliver ⟨0, 12501⟩) = false ∧ Instr.wellFormed (.coreWfi ⟨8, false⟩) = false ∧
    Instr.wellFormed (.claim ctl 128) = false ∧ Instr.wellFormed (.claim ctl 127) = true ∧
    Instr.wellFormed (.bankOverload 9) = false ∧ Instr.wellFormed (.bankOverload 8) = true ∧
    Instr.wellFormed (.registerWrite ctl 0x40000000 (2 ^ 32) 0) = false ∧
    Instr.wellFormed (.registerWrite { by_ := .a0, size := 5 } 0x40000000 0 0) = false ∧
    Instr.wellFormed (.registerWrite ctl 0x40000000 0 12500) = true ∧
    Instr.wellFormed (.powerGood { a := { sequence := 0x78000 } }) = false ∧
    Instr.wellFormed (.resetRelease { b := { sequence := 0x78000 } }) = false ∧ Instr.wellFormed (.powerGood {}) = true ∧ Instr.wellFormed (.strideEdge { badFrames := 16 }) = false := by
  decide +kernel

/-! ### Numbers that the spec works out -/

/-- The local clock with I of 429,497.0 and the reset gains, and PTP as its source (the example after R68). -/
def servo0 : Chip :=
  { (c0.put TIM_CTRL_ref_src 1).setFlag TIM_CTRL_servo_en true with tim := { c0.tim with integ := 429497 * 2 ^ 24 } }

/-- 2000.000 ns ahead: I becomes 428,997 and adj 418,997 = 0x000664B5 (the example after R68). -/
theorem test_servo_sample :
    (offsetSampleWrite mgt 0x0007D000 0 servo0).tim.integ = 428997 * 2 ^ 24 ∧
    (offsetSampleWrite mgt 0x0007D000 0 servo0).rd TIM_RATE_adj = 0x000664B5 := by decide +kernel

/-- E18: K = 2^32 − 2^18 + 2^4, and H = 5,000,000 gives i = 312,478 (the example after R96). -/
theorem test_combined_sample :
    reciprocal 0x10004000 = 2 ^ 32 - 2 ^ 18 + 2 ^ 4 ∧ combineHigh 5000000 10368 (reciprocal 0x10004000) = 312478 := by decide +kernel

/-- Strides s, s + 1, s + 2, s + 4, s + 10 and s + 29 of the selector's example (after R96). -/
theorem test_selector :
    selectPath false 0 true true 7100000 = (true, false, 0) ∧ selectPath false 0 true true 7400000 = (false, true, 0) ∧
    selectPath true 0 true true (-8388608) = (false, true, 0) ∧ selectPath true 0 true true 6200000 = (false, true, 1) ∧
    selectPath true 6 true true 6291456 = (false, true, 0) ∧ selectPath false 0 true true 7340032 = (true, false, 0) ∧
    selectPath false 0 true true 7340033 = (false, true, 0) := by decide

/-- A step of −20 s holds the ledger clock, one of −75 s corrects it (the example after R79). -/
theorem test_ledger_clock :
    ledgerRow true 14000000000000 13999999840001 = .hold ∧
    ledgerRow true 14000000000000 13999999400001 = .backward ∧
    ledgerRow true 14000000000000 14000000000001 = .next := by decide +kernel

/-- M4: a = 5,000,000,000,000, in quadrant 4 (the example after R129). -/
theorem test_apparent :
    apparent false 2950000000000 480000000000000 (-640000000000160) 160 = 5000000000000 ∧
    quadrantOf 480000000000000 (-640000000000160) = 3 := by decide +kernel

/-- M9 after one hour, and one Stride after its constant changes (the examples after R137). -/
theorem test_published :
    Meter.published { c := 10485760000, acc := [(0, 900719818099920000000)] } 0 = 1999999761 ∧
    Meter.published
      { c := 10485970000, acc := [(0, 900719849374913684025)], base := [(0, -189151161800983200000000000)] } 0 = 1999999831 := by
  decide +kernel

/-- P5 offers at most 20.0 A: duty 1066 becomes 666 (the example after R252). -/
theorem test_duty : dutyFit 1066 200 = 666 := by decide

/-- 40 bytes in diversity mode at 50 Hz: 36 data half-cycles and F = 0x214 (the example after R399). -/
theorem test_frame_control : dataHalves false false 40 = 36 ∧ frameControl 36 false = 0x214 := by decide +kernel

/-- The delivered bridle map is all OFF, and its CRC is that of 64 zero bytes (R153, R293). -/
theorem test_delivered_map : crc32 (List.replicate 64 0) = 0x758D6336 ∧ c0.rd LSW_BMAP_CRC_crc = 0x758D6336 := by decide +kernel

end Sys2Proof.Tests
end

section
/-! PROOFS. Accesses to the peripheral window where no register answers: addresses outside the block map and shadow locations whose
active register is not staged (R47). -/

namespace Sys2Proof.Machine

/-- No register answers at address a (R47): it lies in no page of the block map, or it is a shadow location whose active register is
not staged. DSP_ITEM_DATA, staged through the item table (R239), is none of these. -/
def NoRegisterAt (v : Variant) (a : Nat) : Prop :=
  locate v a = none ∨
    ∃ (b : Blk) (n : Nat), locate v a = some (b, n) ∧ isShadow b ((a - b.base) % b.pitch) = true ∧
      stagedMask b (activeOfs ((a - b.base) % b.pitch)) = 0 ∧ ¬ (b = .dsp ∧ (a - b.base) % b.pitch = 0x904)

/-! ### The address -/

/-- The peripheral window holds no memory of a plane. -/
theorem isMemory_eq_false {a : Nat} (lo : 0x40000000 ≤ a) (hi : a < 0x40600000) : isMemory a = false := by
  have below : ¬ a < 0x3F000000 := by omega
  have above : ¬ trafficBase ≤ a := by unfold trafficBase; omega
  simp [isMemory, below, above]

/-- Shadow locations stand in the upper half of a page. -/
theorem le_of_isShadow {b : Blk} {ofs : Nat} (h : isShadow b ofs = true) : 0x800 ≤ ofs := by
  simp only [isShadow, Bool.and_eq_true, Bool.or_eq_true, decide_eq_true_eq, beq_iff_eq] at h
  omega

/-- The only shadow location whose read has a row of its own is that of DSP_ITEM_DATA. -/
theorem readHasOwnRow_of_isShadow {b : Blk} {ofs : Nat} (h : isShadow b ofs = true) (hd : ¬ (b = .dsp ∧ ofs = 0x904)) :
    readHasOwnRow b ofs = false := by
  have lo := le_of_isShadow h
  cases b with
  | tim | evc | trf | ldg | saf => simp [readHasOwnRow, TRF_CAL_DATA, LDG_RD_DATA]; omega
  | dsp =>
    have hne : ofs ≠ 0x904 := fun he => hd ⟨rfl, he⟩
    simp [readHasOwnRow, hne]; omega
  | _ => rfl

/-! ### The write access and the clock -/

@[simp] theorem Chip.advanceTo_variant (c : Chip) (cyc : Nat) : (c.advanceTo cyc).variant = c.variant := by
  unfold Chip.advanceTo
  dsimp only
  split <;> rfl

/-- A write in the peripheral window outside the block map is no violation and changes nothing (R47). -/
theorem Chip.write_of_locate_none {c : Chip} {a : Nat} (lo : 0x40000000 ≤ a) (h : locate c.variant a = none) (acc : Access) (v : Nat)
    (f : Chip → Chip) : c.write acc a v f = c := by
  have hw : ¬ (0x3F000000 ≤ a ∧ a < 0x3F300000) := by omega
  simp [Chip.write, Chip.writeViolation, isFitted, hw, h]

/-! ### The three rows -/

/-- A read where no register answers reads zero. -/
theorem latchedWordRead_of_noRegisterAt {c : Chip} {a : Nat} (lo : 0x40000000 ≤ a) (hi : a < 0x40600000)
    (h : NoRegisterAt c.variant a) (acc : Access) : latchedWordRead acc a c = { c with rdata := 0 } := by
  have hw : ¬ (0x3F000000 ≤ a ∧ a < 0x3F300000) := by omega
  have hc : ¬ (0x3FE00000 ≤ a ∧ a < 0x3FE10000) := by omega
  obtain hn | ⟨b, n, hl, hs, hm, hd⟩ := h
  · simp [latchedWordRead, isMemory_eq_false lo hi, hw, hc, hn]
  · simp [latchedWordRead, isMemory_eq_false lo hi, hw, hc, hl, readHasOwnRow_of_isShadow hs hd, hs, hm]

/-- A register write where no register answers lets time pass to its cycle (log 16) and does nothing else. -/
theorem registerWrite_of_noRegisterAt {c : Chip} {a : Nat} (lo : 0x40000000 ≤ a) (hi : a < 0x40600000)
    (h : NoRegisterAt c.variant a) (acc : Access) (v cyc : Nat) : registerWrite acc a v cyc c = c.advanceTo cyc := by
  obtain hn | ⟨b, n, hl, hs, hm, hd⟩ := h
  · simp [registerWrite, isMemory_eq_false lo hi, hn, Chip.write_of_locate_none lo]
  · simp [registerWrite, isMemory_eq_false lo hi, hl, hs, hm, hd]

/-- A shadow write where no register answers does nothing. -/
theorem shadowWrite_of_noRegisterAt {c : Chip} {a : Nat} (h : NoRegisterAt c.variant a) (acc : Access) (v : Nat) (mirrored : Bool) :
    shadowWrite acc a v mirrored c = c := by
  obtain hn | ⟨b, n, hl, -, hm, -⟩ := h
  · simp [shadowWrite, hn]
  · simp [shadowWrite, hl, hm]

/-! ### The statement -/

/-- Settles O12: in each of the three rows the address takes the branch of R47, and the queue stays as it was. -/
theorem accessesOutsideTheBlockMap : Obligations.AccessesOutsideTheBlockMap := by
  intro s acc a v cyc mirrored lo hi h
  have hr : exec (.latchedWordRead acc a) s = .next (s.after (latchedWordRead acc a s.chip)) := rfl
  have hw : exec (.registerWrite acc a v cyc) s = .next (s.after (registerWrite acc a v cyc s.chip)) := rfl
  have hs : exec (.shadowWrite acc a v mirrored) s = .next (s.after (shadowWrite acc a v mirrored s.chip)) := rfl
  rw [hr, hw, hs, latchedWordRead_of_noRegisterAt lo hi h, registerWrite_of_noRegisterAt lo hi h, shadowWrite_of_noRegisterAt h]
  exact ⟨rfl, rfl, rfl⟩

end Sys2Proof.Machine
end

section
/-! PROOFS. Reads of the clock: what a read returns of a register that holds its own value, and the words that a read of TIM_SEC_LO leaves
for the reads of TIM_SEC_HI, TIM_NS and TIM_FRAC (R64). -/

namespace Sys2Proof.Machine

/-! ### A read that passes its checks -/

theorem Chip.read_of_readable {c : Chip} {acc : Access} {a : Nat} (h : c.Readable acc a) (f : Chip → Chip) : c.read acc a f = f c := by
  simp [Chip.read, h.clean, h.fitted]

/-- A read that passes, of a register that is no shadow and whose read is no other row, is the read of the register's word
(R48, R143). -/
theorem latchedWordRead_of_readable {c : Chip} {acc : Access} {a : Nat} {b : Blk} {n : Nat} (h : c.Readable acc a)
    (lo : 0x40000000 ≤ a) (hi : a < 0x40600000) (hl : locate c.variant a = some (b, n)) (hb : b ≠ .mbx)
    (hrow : readHasOwnRow b ((a - b.base) % b.pitch) = false) (hs : isShadow b ((a - b.base) % b.pitch) = false) :
    latchedWordRead acc a c = c.readWord b a ((a - b.base) % b.pitch) := by
  have hw : ¬ (0x3F000000 ≤ a ∧ a < 0x3F300000) := by omega
  have hc : ¬ (0x3FE00000 ≤ a ∧ a < 0x3FE10000) := by omega
  simp [latchedWordRead, isMemory_eq_false lo hi, hw, hc, hl, hb, hrow, hs, Chip.read_of_readable h]

/-- A word that no other word of its register latches reads as it stands. -/
theorem Chip.readWord_rdata_of_not_latched {b : Blk} {ofs : Nat} (h : isLatched b ofs = false) (c : Chip) (a : Nat) :
    (c.readWord b a ofs).rdata = c.wordAt a := by
  simp [Chip.readWord, h]

/-- A register that is neither computed nor a shadow and has no write-only bits reads as the word it holds. -/
theorem Chip.wordAt_of_plain {c : Chip} {a n : Nat} {b : Blk} (hl : locate c.variant a = some (b, n)) (hb : b ≠ .mbx)
    (hofs : (a - b.base) % b.pitch < 0x800) (habs : absentEntry c.variant b ((a - b.base) % b.pitch) = false)
    (hlive : c.liveWord b n ((a - b.base) % b.pitch) = none) (hwo : commandMask b ((a - b.base) % b.pitch) = 0) :
    c.wordAt a = (c.word a).toNat := by
  have hlow : ¬ 0x800 ≤ (a - b.base) % b.pitch := by omega
  have hkeep : c.word a &&& ~~~BitVec.ofNat 32 0 = c.word a := BitVec.and_allOnes
  unfold commandMask at hwo
  simp only [Chip.wordAt, hl, hb, habs, hlive, hlow]
  cases hr : rowAt b ((a - b.base) % b.pitch) with
  | none => simp
  | some p =>
    have hp : p.1.wo = 0 := by simpa only [hr] using hwo
    simp only [hp, hkeep, Bool.false_eq_true, and_false, if_false]

/-- TIM computes no word but that of EV_PEND. -/
theorem Chip.liveWord_tim (c : Chip) (n : Nat) {ofs : Nat} (h : ofs ≠ 0x018) : c.liveWord .tim n ofs = none := by
  simp [Chip.liveWord, h]

/-! ### The words that a read of TIM_SEC_LO latches -/

/-- The fields that a read of TIM_SEC_LO latches: the high seconds, the nanoseconds and the fraction (R64). -/
def latchedClock : List Fld := [TIM_SEC_HI_sec, TIM_NS_ns, TIM_FRAC_frac]

/-- Every variant has the page of TIM. -/
theorem locate_latchedClock (v : Variant) : ∀ f ∈ latchedClock, locate v f.addr = some (.tim, 0) := by
  cases v <;> decide

theorem latchedClock_addr : ∀ f ∈ latchedClock, 0x40020104 ≤ f.addr ∧ f.addr < 0x40020110 ∧ f.lo = 0 := by decide

/-- The registers of the latched fields are plain: LATCHED_WORD_READ's own, of one word and without write-only bits. -/
theorem latchedClock_plain :
    ∀ f ∈ latchedClock,
      readHasOwnRow .tim ((f.addr - Blk.tim.base) % Blk.tim.pitch) = false ∧
      isLatched .tim ((f.addr - Blk.tim.base) % Blk.tim.pitch) = false ∧
      commandMask .tim ((f.addr - Blk.tim.base) % Blk.tim.pitch) = 0 := by
  decide

/-- A field at bit 0 holds the low bits of its register. -/
theorem Chip.rd_of_lo_eq_zero {f : Fld} (h : f.lo = 0) (c : Chip) : c.rd f = (c.word f.addr).toNat % 2 ^ f.w := by
  simp [Chip.rd, h, BitVec.extractLsb'_toNat]

/-- A field of 32 bits is its register's word. -/
theorem Chip.rd_of_whole {f : Fld} (hlo : f.lo = 0) (hw : f.w = 32) (c : Chip) : c.rd f = (c.word f.addr).toNat := by
  rw [Chip.rd_of_lo_eq_zero hlo, hw, Nat.mod_eq_of_lt (BitVec.isLt _)]

/-- A read of such a register that passes its checks returns the word it holds. -/
theorem latchedWordRead_rdata_of_latchedClock {c : Chip} {r : Access} {f : Fld} (hf : f ∈ latchedClock) (h : c.Readable r f.addr) :
    (latchedWordRead r f.addr c).rdata = (c.word f.addr).toNat := by
  obtain ⟨lo, hi, -⟩ := latchedClock_addr f hf
  obtain ⟨hrow, hlatch, hwo⟩ := latchedClock_plain f hf
  have hl := locate_latchedClock c.variant f hf
  have hofs : (f.addr - Blk.tim.base) % Blk.tim.pitch = f.addr - 0x40020000 := by simp only [Blk.base, Blk.pitch]; omega
  have hs : isShadow .tim ((f.addr - Blk.tim.base) % Blk.tim.pitch) = false :=
    Bool.eq_false_iff.2 fun hs => by have := le_of_isShadow hs; omega
  rw [latchedWordRead_of_readable h (by omega) (by omega) hl (by decide) hrow hs, Chip.readWord_rdata_of_not_latched hlatch]
  exact Chip.wordAt_of_plain hl (by decide) (by omega) rfl (c.liveWord_tim 0 (by omega)) hwo

/-- It returns the field in the field's bits. -/
theorem latchedWordRead_field_of_latchedClock {c : Chip} {r : Access} {f : Fld} (hf : f ∈ latchedClock) (h : c.Readable r f.addr) :
    (latchedWordRead r f.addr c).rdata % 2 ^ f.w = c.rd f := by
  obtain ⟨-, -, hlo⟩ := latchedClock_addr f hf
  rw [latchedWordRead_rdata_of_latchedClock hf h, Chip.rd_of_lo_eq_zero hlo]

/-! ### The read of TIM_SEC_LO -/

/-- The block after a read of TIM_SEC_LO that passes its checks, from the clock it then shows (R64). -/
def Chip.latchClock (c : Chip) : Chip :=
  { (((c.put TIM_SEC_LO_sec (clockSec c.tim.clock)).put TIM_SEC_HI_sec (clockSec c.tim.clock / 2 ^ 32)).put
      TIM_NS_ns (clockNs c.tim.clock)).put TIM_FRAC_frac (clockFrac c.tim.clock) with rdata := clockSec c.tim.clock % 2 ^ 32 }

theorem timSecLoRead_of_readable {c : Chip} {acc : Access} {cyc : Nat} (h : (c.advanceTo cyc).Readable acc TIM_SEC_LO.addr) :
    timSecLoRead acc cyc c = (c.advanceTo cyc).latchClock :=
  Chip.read_of_readable h _

/-- The bus value is no register. -/
theorem Chip.rd_with_rdata (c : Chip) (x : Nat) (f : Fld) : Chip.rd { c with rdata := x } f = c.rd f := rfl

theorem Chip.latchClock_rd_sec_hi (c : Chip) : c.latchClock.rd TIM_SEC_HI_sec = clockSec c.tim.clock / 2 ^ 32 % 2 ^ 16 := by
  rw [Chip.latchClock, Chip.rd_with_rdata, Chip.rd_put_other _ _ _ (by decide) (.inl (by decide)),
    Chip.rd_put_other _ _ _ (by decide) (.inl (by decide)), Chip.rd_put_same _ _ (by decide)]
  rfl

theorem Chip.latchClock_rd_ns (c : Chip) : c.latchClock.rd TIM_NS_ns = clockNs c.tim.clock := by
  have hlt : clockNs c.tim.clock < 2 ^ 30 := by unfold clockNs; omega
  rw [Chip.latchClock, Chip.rd_with_rdata, Chip.rd_put_other _ _ _ (by decide) (.inl (by decide)), Chip.rd_put_same _ _ (by decide)]
  exact Nat.mod_eq_of_lt hlt

theorem Chip.latchClock_rd_frac (c : Chip) : c.latchClock.rd TIM_FRAC_frac = clockFrac c.tim.clock := by
  rw [Chip.latchClock, Chip.rd_with_rdata, Chip.rd_put_same _ _ (by decide)]
  exact Nat.mod_mod _ _

/-! ### The statement -/

/-- Settles O19: the read puts the clock's words into their fields, and a later read of a latched register returns its field. -/
theorem secondsReadLatchesTheClock : Obligations.SecondsReadLatchesTheClock := by
  intro s acc cyc d hd
  have hstep : exec (.timSecLoRead acc cyc) s = .next (s.after d.latchClock) := by
    rw [← timSecLoRead_of_readable hd]; rfl
  refine ⟨_, hstep, rfl, fun r hr => ⟨_, rfl, ?_⟩, fun r hr => ⟨_, rfl, ?_⟩, fun r hr => ⟨_, rfl, ?_⟩⟩
  · exact (latchedWordRead_field_of_latchedClock (f := TIM_SEC_HI_sec) (by decide) hr).trans d.latchClock_rd_sec_hi
  · exact (latchedWordRead_field_of_latchedClock (f := TIM_NS_ns) (by decide) hr).trans d.latchClock_rd_ns
  · calc (latchedWordRead r TIM_FRAC.addr d.latchClock).rdata
        = (d.latchClock.word TIM_FRAC_frac.addr).toNat := latchedWordRead_rdata_of_latchedClock (f := TIM_FRAC_frac) (by decide) hr
      _ = d.latchClock.rd TIM_FRAC_frac := (d.latchClock.rd_of_whole rfl rfl).symm
      _ = clockFrac d.tim.clock := d.latchClock_rd_frac

end Sys2Proof.Machine
end

section
/-! PROOFS. A change of the meter constant: what the move of the 72 bases leaves of every register of a meter, and that no published value
changes (R136). -/

namespace Sys2Proof.Machine

/-! ### The base of one register -/

/-- A raw value is one of the accumulators alone. -/
theorem Meter.accOf_of_acc_eq {x y : Meter} (h : y.acc = x.acc) (j : Nat) : y.accOf j = x.accOf j := by
  unfold Meter.accOf
  rw [h]

/-- A base is one of the list of bases alone. -/
theorem Meter.baseOf_of_base_eq {x y : Meter} (h : y.base = x.base) (j : Nat) : y.baseOf j = x.baseOf j := by
  unfold Meter.baseOf
  rw [h]

@[simp] theorem Meter.addBase_accOf (x : Meter) (i : Nat) (v : Int) (j : Nat) : (x.addBase i v).accOf j = x.accOf j := rfl

theorem Meter.addBase_baseOf_same (x : Meter) (j : Nat) (v : Int) : (x.addBase j v).baseOf j = x.baseOf j + v :=
  Sparse.get_set_same

theorem Meter.addBase_baseOf_other {i j : Nat} (h : j ≠ i) (x : Meter) (v : Int) : (x.addBase i v).baseOf j = x.baseOf j :=
  Sparse.get_set_other h

/-- Base j moves by A_j · d; a register whose raw value is 0 is not written. -/
def Meter.moveBase (d : Int) (x : Meter) (j : Nat) : Meter := if x.accOf j = 0 then x else x.addBase j (x.accOf j * d)

@[simp] theorem Meter.moveBase_accOf (d : Int) (x : Meter) (i j : Nat) : (x.moveBase d i).accOf j = x.accOf j := by
  unfold Meter.moveBase
  split
  · rfl
  · exact x.addBase_accOf i _ j

theorem Meter.moveBase_baseOf_same (d : Int) (x : Meter) (j : Nat) : (x.moveBase d j).baseOf j = x.baseOf j + x.accOf j * d := by
  unfold Meter.moveBase
  split
  case isTrue h => simp [h]
  case isFalse => exact x.addBase_baseOf_same j _

theorem Meter.moveBase_baseOf_other {i j : Nat} (h : j ≠ i) (d : Int) (x : Meter) : (x.moveBase d i).baseOf j = x.baseOf j := by
  unfold Meter.moveBase
  split
  · rfl
  · exact x.addBase_baseOf_other h _

/-! ### The bases of a list of registers -/

/-- The bases of the listed registers move, one after the other. -/
def Meter.moveBases (d : Int) (x : Meter) (l : List Nat) : Meter := l.foldl (Meter.moveBase d) x

@[simp] theorem Meter.moveBases_accOf (d : Int) (l : List Nat) (x : Meter) (j : Nat) : (x.moveBases d l).accOf j = x.accOf j := by
  induction l generalizing x with
  | nil => rfl
  | cons i l ih => exact (ih (x.moveBase d i)).trans (x.moveBase_accOf d i j)

theorem Meter.moveBases_baseOf_of_notMem {l : List Nat} {j : Nat} (h : j ∉ l) (d : Int) (x : Meter) :
    (x.moveBases d l).baseOf j = x.baseOf j := by
  induction l generalizing x with
  | nil => rfl
  | cons i l ih =>
    obtain ⟨hi, hl⟩ := not_or.1 (mt List.mem_cons.2 h)
    exact (ih hl (x.moveBase d i)).trans (x.moveBase_baseOf_other hi d)

/-- Each register that is listed once takes its own A_j · d: the raw values do not move under the fold. -/
theorem Meter.moveBases_baseOf {l : List Nat} {j : Nat} (hn : l.Nodup) (h : j ∈ l) (d : Int) (x : Meter) :
    (x.moveBases d l).baseOf j = x.baseOf j + x.accOf j * d := by
  induction l generalizing x with
  | nil => cases h
  | cons i l ih =>
    obtain ⟨hi, hn⟩ := List.nodup_cons.1 hn
    rcases List.mem_cons.1 h with rfl | hl
    · exact ((x.moveBase d j).moveBases_baseOf_of_notMem hi d).trans (x.moveBase_baseOf_same d j)
    · have hne : j ≠ i := fun e => hi (e ▸ hl)
      calc ((x.moveBase d i).moveBases d l).baseOf j
          = (x.moveBase d i).baseOf j + (x.moveBase d i).accOf j * d := ih hn hl _
        _ = x.baseOf j + x.accOf j * d := by rw [x.moveBase_baseOf_other hne, x.moveBase_accOf]

/-! ### The meter after the change -/

@[simp] theorem Chip.setMeter_meter_same (c : Chip) (m : Nat) (x : Meter) : (c.setMeter m x).meter m = x := Sparse.get_set_same

@[simp] theorem Chip.raiseEv_meter (c : Chip) (page k m : Nat) : (c.raiseEv page k).meter m = c.meter m := by
  unfold Chip.meter
  rw [Chip.raiseEv_meters]

/-- The meter takes the new C and Cr, its 72 bases move by the difference of C, and its loss bases by that of Cr. -/
theorem Chip.constantChange_meter (c : Chip) (m : Nat) :
    let x := c.meter m
    (c.constantChange m).meter m =
      { x.moveBases ((x.c : Int) - c.meterConst m) (List.range 72) with
        c := c.meterConst m
        cr := c.meterCr m
        baseLossImp := x.baseLossImp + x.lossImp * ((c.meterCr m : Int) - x.cr)
        baseLossExp := x.baseLossExp + x.lossExp * ((c.meterCr m : Int) - x.cr) } := by
  unfold Chip.constantChange
  dsimp only
  split
  · exact (Chip.raiseEv_meter _ _ _ m).trans (c.setMeter_meter_same m _)
  · exact c.setMeter_meter_same m _

theorem Chip.constantChange_c (c : Chip) (m : Nat) : ((c.constantChange m).meter m).c = c.meterConst m := by
  rw [c.constantChange_meter m]

theorem Chip.constantChange_acc (c : Chip) (m : Nat) :
    ((c.constantChange m).meter m).acc =
      ((c.meter m).moveBases (((c.meter m).c : Int) - c.meterConst m) (List.range 72)).acc := by
  rw [c.constantChange_meter m]

theorem Chip.constantChange_base (c : Chip) (m : Nat) :
    ((c.constantChange m).meter m).base =
      ((c.meter m).moveBases (((c.meter m).c : Int) - c.meterConst m) (List.range 72)).base := by
  rw [c.constantChange_meter m]

theorem Chip.constantChange_accOf (c : Chip) (m j : Nat) : ((c.constantChange m).meter m).accOf j = (c.meter m).accOf j :=
  (Meter.accOf_of_acc_eq (c.constantChange_acc m) j).trans ((c.meter m).moveBases_accOf _ _ j)

theorem Chip.constantChange_baseOf (c : Chip) (m : Nat) {j : Nat} (hj : j < 72) :
    ((c.constantChange m).meter m).baseOf j =
      (c.meter m).baseOf j + (c.meter m).accOf j * (((c.meter m).c : Int) - c.meterConst m) :=
  (Meter.baseOf_of_base_eq (c.constantChange_base m) j).trans ((c.meter m).moveBases_baseOf List.nodup_range (List.mem_range.2 hj) _)

/-- The exact value X_j of R134 stands: A · C_new + (B + A · (C_old − C_new)) = A · C_old + B. -/
theorem Chip.constantChange_exact (c : Chip) (m : Nat) {j : Nat} (hj : j < 72) :
    ((c.constantChange m).meter m).exact j = (c.meter m).exact j := by
  unfold Meter.exact
  rw [c.constantChange_c, c.constantChange_accOf, c.constantChange_baseOf m hj]
  ring

/-- The published value is one of the exact value alone (R134). -/
theorem Meter.published_eq_of_exact_eq {x y : Meter} {j : Nat} (h : y.exact j = x.exact j) : y.published j = x.published j := by
  unfold Meter.published
  rw [h]

/-- Two meters of one constant and one base differ in X_j by the difference of their raw values, converted with the constant. -/
theorem Meter.exact_of_same_base {y z : Meter} {j : Nat} (hc : z.c = y.c) (hb : z.baseOf j = y.baseOf j) :
    z.exact j = y.exact j + (z.accOf j - y.accOf j) * y.c := by
  unfold Meter.exact
  rw [hc, hb]
  ring

/-! ### The statement -/

/-- Settles O28: the change keeps the exact value of every register, of which the published value is the floor; what is added later meets
the new constant. -/
theorem constantChange : Obligations.ConstantChange := by
  intro s m j hj
  refine ⟨s.chip.constantChange_c m, s.chip.constantChange_accOf m j, s.chip.constantChange_baseOf m hj,
    Meter.published_eq_of_exact_eq (s.chip.constantChange_exact m hj), fun z hc hb => ?_⟩
  rw [Meter.exact_of_same_base hc hb, s.chip.constantChange_accOf, s.chip.constantChange_c]

end Sys2Proof.Machine
end

section
/-! PROOFS. The write of EVC_CTRL.compat (R462): what follows from a change in the event controller leaves the mode and its status as they
were and clears no pending source, so the mode is what the write itself makes it. -/

namespace Sys2Proof.Machine

/-! ### The pending state of a source -/

/-- The fields that hold the pending state of a source: EVC_PEND of a shared one, EVC_PRIV_PEND of one of a target (R463). -/
inductive PendingFld : Fld → Prop
  | shared (id : Nat) (lo : 32 ≤ id) (hi : id < 1056) : PendingFld (srcPend id)
  | ofTarget (k j : Nat) (hk : k < 8) (hj : j < 32) : PendingFld ((EVC_PRIV_PEND k).bitOf j)

theorem PendingFld.w_eq {f : Fld} (h : PendingFld f) : f.w = 1 := by
  cases h with
  | shared => rfl
  | ofTarget => rfl

theorem PendingFld.lo_lt {f : Fld} (h : PendingFld f) : f.lo < 32 := by
  cases h with
  | shared id => exact Nat.mod_lt _ (by decide)
  | ofTarget k j hk hj => simpa [Fld.bitOf, EVC_PRIV_PEND] using hj

/-- Pending state stands above the words of the mode and its status. -/
theorem PendingFld.status_lt_addr {f : Fld} (h : PendingFld f) : EVC_STATUS.addr < f.addr := by
  cases h with
  | shared id => simp only [srcPend, EVC_STATUS]; omega
  | ofTarget k j => simp only [Fld.bitOf, EVC_PRIV_PEND, EVC_STATUS]; omega

theorem PendingFld.addr_ne_tstat {f : Fld} (h : PendingFld f) {t : Nat} (ht : t < 8) : (EVC_TSTAT t).addr ≠ f.addr := by
  cases h with
  | shared id => simp only [srcPend, EVC_TSTAT]; omega
  | ofTarget k j => simp only [Fld.bitOf, EVC_PRIV_PEND, EVC_TSTAT]; omega

/-- Every source that is pending in c is pending in d. -/
def Chip.PendingKept (c d : Chip) : Prop := ∀ f : Fld, PendingFld f → c.flag f = true → d.flag f = true

theorem Chip.PendingKept.trans {c d e : Chip} (h : c.PendingKept d) (g : d.PendingKept e) : c.PendingKept e :=
  fun f hf hc => g f hf (h f hf hc)

theorem Chip.pendingKept_put {g : Fld} (hg : ∀ f, PendingFld f → g.addr ≠ f.addr) (c : Chip) (v : Nat) : c.PendingKept (c.put g v) := by
  intro f hf hc
  have hw := hf.w_eq
  have hlo := hf.lo_lt
  unfold Chip.flag at hc ⊢
  rwa [Chip.rd_put_other g f v (by omega) (.inl (hg f hf))]

/-- A bit that is set clears no pending state: it is the source's own bit or another one. -/
theorem Chip.pendingKept_setFlag_true {g : Fld} (hg : g.w = 1) (c : Chip) : c.PendingKept (c.setFlag g true) := by
  intro f hf hc
  have hw := hf.w_eq
  have hlo := hf.lo_lt
  by_cases he : f = g
  · subst he
    exact Chip.flag_setFlag_same f true hw hlo
  · have hd : g.disjoint f := by
      unfold Fld.disjoint
      by_contra hn
      exact he (by cases f; cases g; simp only [Fld.mk.injEq] at *; omega)
    unfold Chip.flag Chip.setFlag at *
    rwa [Chip.rd_put_other g f _ (by omega) hd]

/-! ### What follows from a change in the event controller -/

/-- From c to d EVC_CTRL and EVC_STATUS stay as they are, and no source stops being pending. -/
structure Chip.ModeKept (c d : Chip) : Prop where
  ctrl : d.word EVC_CTRL.addr = c.word EVC_CTRL.addr
  status : d.word EVC_STATUS.addr = c.word EVC_STATUS.addr
  pending : c.PendingKept d

theorem Chip.ModeKept.refl (c : Chip) : c.ModeKept c := ⟨rfl, rfl, fun _ _ h => h⟩

theorem Chip.ModeKept.trans {c d e : Chip} (h : c.ModeKept d) (g : d.ModeKept e) : c.ModeKept e :=
  ⟨g.ctrl.trans h.ctrl, g.status.trans h.status, h.pending.trans g.pending⟩

theorem Chip.ModeKept.ite {c d e : Chip} {p : Prop} [Decidable p] (h : c.ModeKept d) (g : c.ModeKept e) :
    c.ModeKept (if p then d else e) := by
  split
  · exact h
  · exact g

theorem Chip.ModeKept.foldl {α : Type} {f : Chip → α → Chip} {l : List α} (hf : ∀ a ∈ l, ∀ d : Chip, d.ModeKept (f d a)) (c : Chip) :
    c.ModeKept (l.foldl f c) := by
  induction l generalizing c with
  | nil => exact .refl c
  | cons a l ih => exact (hf a List.mem_cons_self c).trans (ih (fun b hb => hf b (List.mem_cons_of_mem a hb)) (f c a))

theorem Chip.ModeKept.forN {n : Nat} {f : Nat → Chip → Chip} (hf : ∀ k < n, ∀ d : Chip, d.ModeKept (f k d)) (c : Chip) :
    c.ModeKept (forN n f c) := .foldl (fun k hk => hf k (List.mem_range.1 hk)) c

theorem Chip.ModeKept.rd_ctrl {c d : Chip} (h : c.ModeKept d) : d.rd EVC_CTRL_compat = c.rd EVC_CTRL_compat :=
  congrArg (fun w : Word => (w.extractLsb' 0 1).toNat) h.ctrl

theorem Chip.ModeKept.rd_status {c d : Chip} (h : c.ModeKept d) {f : Fld} (hf : f.addr = EVC_STATUS.addr) : d.rd f = c.rd f := by
  unfold Chip.rd
  rw [hf, h.status]

theorem Chip.modeKept_setFlag_true {g : Fld} (hg : g.w = 1) (ha : EVC_STATUS.addr < g.addr) (c : Chip) : c.ModeKept (c.setFlag g true) :=
  have hc : EVC_CTRL.addr < EVC_STATUS.addr := by decide
  ⟨Chip.word_put_other g _ (hc.trans ha).ne, Chip.word_put_other g _ ha.ne, c.pendingKept_setFlag_true hg⟩

/-- A field of a target's EVC_TSTAT holds no pending state. -/
theorem Chip.modeKept_setFlag_tstat {g : Fld} {t : Nat} (ht : t < 8) (hg : g.addr = (EVC_TSTAT t).addr) (c : Chip) (b : Bool) :
    c.ModeKept (c.setFlag g b) := by
  have ha : EVC_STATUS.addr < g.addr ∧ EVC_CTRL.addr < g.addr := by
    simp only [hg, EVC_STATUS, EVC_CTRL, EVC_TSTAT]; omega
  exact ⟨Chip.word_put_other g _ ha.2.ne, Chip.word_put_other g _ ha.1.ne,
    Chip.pendingKept_put (fun f hf => hg ▸ hf.addr_ne_tstat ht) c _⟩

theorem Chip.modeKept_setEvc (c : Chip) (e : Events) : c.ModeKept { c with evc := e } := ⟨rfl, rfl, fun _ _ h => h⟩

theorem Chip.modeKept_clearFault (c : Chip) (level code unit : Nat) : c.ModeKept (c.clearFault level code unit) :=
  ⟨rfl, rfl, fun _ _ h => h⟩

theorem Chip.edgeEv_modeKept (c : Chip) (k : Nat) : c.ModeKept (c.edgeEv 0x40010000 k) :=
  .ite (Chip.modeKept_setFlag_true rfl (show EVC_STATUS.addr < 0x40010018 by decide) c) (.refl c)

theorem Chip.wakeCores_modeKept (c : Chip) : c.ModeKept c.wakeCores :=
  .forN (fun t ht d => .ite (Chip.modeKept_setFlag_tstat (g := EVC_TSTAT_wfi t) ht rfl d false) (.refl d)) c

theorem Chip.firePrivate_modeKept (c : Chip) (t k : Nat) : c.ModeKept (c.firePrivate t k) := by
  have ha : EVC_STATUS.addr < ((EVC_PRIV_PEND t).bitOf k).addr := by simp only [Fld.bitOf, EVC_PRIV_PEND, EVC_STATUS]; omega
  exact (Chip.modeKept_setFlag_true rfl ha c).trans (Chip.wakeCores_modeKept _)

/-- A redirection that begins sets EVC_REDIR, event 1, the source 14 of the fallback and redir_in, and redir_in then follows (R458). -/
theorem Chip.settleRedirection_modeKept (c : Chip) : c.ModeKept c.settleRedirection := by
  unfold Chip.settleRedirection
  refine .ite (.refl c) (((Chip.ModeKept.foldl (fun r _ d => ?_) c).trans
    (.forN (fun t ht d => Chip.modeKept_setFlag_tstat (g := EVC_TSTAT_redir_in t) ht rfl d _) _)).trans (Chip.modeKept_setEvc _ _))
  have hr : EVC_STATUS.addr < (srcRedir r.1).addr := by simp only [srcRedir, EVC_STATUS]; omega
  have ht : EVC_STATUS.addr < (EVC_TSTAT_redir_in r.2).addr := by simp only [EVC_TSTAT_redir_in, EVC_STATUS]; omega
  have hd := (Chip.modeKept_setFlag_true (g := srcRedir r.1) rfl hr d).trans (Chip.edgeEv_modeKept _ 1)
  exact .ite hd ((hd.trans (Chip.firePrivate_modeKept _ _ _)).trans (Chip.modeKept_setFlag_true rfl ht _))

theorem Chip.settleEvents_modeKept (c : Chip) : c.ModeKept c.settleEvents :=
  c.settleRedirection_modeKept.trans (Chip.wakeCores_modeKept _)

theorem Chip.raiseEv_modeKept (c : Chip) (k : Nat) : c.ModeKept (c.raiseEv 0x40010000 k) :=
  (c.edgeEv_modeKept k).trans (Chip.settleEvents_modeKept _)

theorem Chip.settleStalls_modeKept (c : Chip) : c.ModeKept c.settleStalls :=
  .foldl (fun e _ d => .ite (.refl d) ((d.modeKept_setEvc _).trans (Chip.modeKept_clearFault _ 5 0x0126 e.1))) c

theorem Chip.settleSources_modeKept (c : Chip) : c.ModeKept c.settleSources :=
  c.settleEvents_modeKept.trans (Chip.settleStalls_modeKept _)

/-! ### The write -/

theorem Chip.write_of_accepts {c : Chip} {acc : Access} {a v : Nat} (h : c.Accepts acc a v) (f : Chip → Chip) : c.write acc a v f = f c := by
  simp [Chip.write, h.clean, h.fitted]

/-- Some target holds a claimed source. -/
def Chip.SomeHeld (c : Chip) : Prop := ∃ k : Nat, k < 8 ∧ c.rd (EVC_TSTAT_held k) ≠ 0xFFFF

theorem Chip.any_held_iff (c : Chip) : (List.range 8).any (fun t => c.rd (EVC_TSTAT_held t) != 0xFFFF) = true ↔ c.SomeHeld := by
  simp only [List.any_eq_true, List.mem_range, bne_iff_ne, Chip.SomeHeld]

/-- The block with the mode written and compat_refused clear. -/
def Chip.landMode (c : Chip) (v : Nat) : Chip :=
  ((c.setFlag EVC_STATUS_compat_refused false).put EVC_CTRL_compat v).put EVC_STATUS_compat_active v

theorem compatModeWrite_of_held {c : Chip} {acc : Access} {v : Nat} (h : c.Accepts acc EVC_CTRL.addr v) (hh : c.SomeHeld) :
    compatModeWrite acc v c = (c.setFlag EVC_STATUS_compat_refused true).raiseEv 0x40010000 3 := by
  unfold compatModeWrite
  rw [Chip.write_of_accepts h]
  exact if_pos (c.any_held_iff.2 hh)

theorem compatModeWrite_of_not_held {c : Chip} {acc : Access} {v : Nat} (h : c.Accepts acc EVC_CTRL.addr v) (hn : ¬ c.SomeHeld) :
    compatModeWrite acc v c = (c.landMode v).settleSources := by
  unfold compatModeWrite
  rw [Chip.write_of_accepts h]
  exact if_neg fun ha => hn (c.any_held_iff.1 ha)

theorem Chip.landMode_compat (c : Chip) (v : Nat) : (c.landMode v).rd EVC_CTRL_compat = v % 2 := by
  unfold Chip.landMode
  rw [Chip.rd_put_other EVC_STATUS_compat_active EVC_CTRL_compat v (by decide) (.inl (by decide))]
  exact Chip.rd_put_same EVC_CTRL_compat v (by decide)

theorem Chip.landMode_active (c : Chip) (v : Nat) : (c.landMode v).rd EVC_STATUS_compat_active = v % 2 :=
  Chip.rd_put_same EVC_STATUS_compat_active v (by decide)

theorem Chip.landMode_refused (c : Chip) (v : Nat) : (c.landMode v).flag EVC_STATUS_compat_refused = false := by
  have hlo : EVC_STATUS_compat_refused.lo + EVC_STATUS_compat_refused.w ≤ 32 := by decide
  unfold Chip.landMode Chip.flag
  rw [Chip.rd_put_other EVC_STATUS_compat_active _ v hlo (.inr (.inl (by decide))),
    Chip.rd_put_other EVC_CTRL_compat _ v hlo (.inl (by decide))]
  exact Chip.flag_setFlag_same EVC_STATUS_compat_refused false rfl (by decide)

theorem Chip.landMode_pendingKept (c : Chip) (v : Nat) : c.PendingKept (c.landMode v) := by
  have status : ∀ f, PendingFld f → EVC_STATUS.addr ≠ f.addr := fun f hf => hf.status_lt_addr.ne
  have ctrl : ∀ f, PendingFld f → EVC_CTRL.addr ≠ f.addr := fun f hf =>
    (Nat.lt_trans (by decide : EVC_CTRL.addr < EVC_STATUS.addr) hf.status_lt_addr).ne
  exact ((Chip.pendingKept_put (g := EVC_STATUS_compat_refused) status c _).trans
    (Chip.pendingKept_put (g := EVC_CTRL_compat) ctrl _ v)).trans (Chip.pendingKept_put (g := EVC_STATUS_compat_active) status _ v)

/-- A write of the mode that passes its checks clears no pending state, whether it lands or is refused. -/
theorem compatModeWrite_pendingKept {c : Chip} {acc : Access} {v : Nat} (h : c.Accepts acc EVC_CTRL.addr v) :
    c.PendingKept (compatModeWrite acc v c) := by
  by_cases hh : c.SomeHeld
  · rw [compatModeWrite_of_held h hh]
    exact (c.pendingKept_setFlag_true rfl).trans (Chip.raiseEv_modeKept _ 3).pending
  · rw [compatModeWrite_of_not_held h hh]
    exact (c.landMode_pendingKept v).trans (Chip.settleSources_modeKept _).pending

/-- A refused write leaves the mode and sets compat_refused. -/
theorem compatModeWrite_refused {c : Chip} {acc : Access} {v : Nat} (h : c.Accepts acc EVC_CTRL.addr v) (hh : c.SomeHeld) :
    (compatModeWrite acc v c).rd EVC_CTRL_compat = c.rd EVC_CTRL_compat ∧
      (compatModeWrite acc v c).rd EVC_STATUS_compat_active = c.rd EVC_STATUS_compat_active ∧
      (compatModeWrite acc v c).flag EVC_STATUS_compat_refused = true := by
  have hk := (c.setFlag EVC_STATUS_compat_refused true).raiseEv_modeKept 3
  rw [compatModeWrite_of_held h hh, hk.rd_ctrl, hk.rd_status (f := EVC_STATUS_compat_active) rfl, Chip.flag,
    hk.rd_status (f := EVC_STATUS_compat_refused) rfl]
  exact ⟨Chip.rd_put_other EVC_STATUS_compat_refused _ _ (by decide) (.inl (by decide)),
    Chip.rd_put_other EVC_STATUS_compat_refused _ _ (by decide) (.inr (.inr (by decide))),
    Chip.flag_setFlag_same EVC_STATUS_compat_refused true rfl (by decide)⟩

/-- A write that lands gives the mode its bit 0 and clears compat_refused. -/
theorem compatModeWrite_lands {c : Chip} {acc : Access} {v : Nat} (h : c.Accepts acc EVC_CTRL.addr v) (hn : ¬ c.SomeHeld) :
    (compatModeWrite acc v c).rd EVC_CTRL_compat = v % 2 ∧ (compatModeWrite acc v c).rd EVC_STATUS_compat_active = v % 2 ∧
      (compatModeWrite acc v c).flag EVC_STATUS_compat_refused = false := by
  have hk := (c.landMode v).settleSources_modeKept
  rw [compatModeWrite_of_not_held h hn, hk.rd_ctrl, hk.rd_status (f := EVC_STATUS_compat_active) rfl, Chip.flag,
    hk.rd_status (f := EVC_STATUS_compat_refused) rfl]
  exact ⟨c.landMode_compat v, c.landMode_active v, c.landMode_refused v⟩

/-! ### The statement -/

/-- Settles O17: the write itself sets the mode and its status, and what follows from it keeps both and every pending source. -/
theorem compatibilityModeWrite : Obligations.CompatibilityModeWrite := by
  intro s acc v h
  have hp := compatModeWrite_pendingKept h
  have he : exec (.compatModeWrite acc v) s = .next (s.after (compatModeWrite acc v s.chip)) := rfl
  refine ⟨s.after (compatModeWrite acc v s.chip), he, ?_⟩
  rw [State.after_chip]
  exact ⟨compatModeWrite_refused h, compatModeWrite_lands h, fun id lo hi => hp _ (.shared id lo hi),
    fun k j hk hj => hp _ (.ofTarget k j hk hj)⟩

end Sys2Proof.Machine
end

section
/-! PROOFS. The queue and the meaning of a command: every command is a function of the block alone, so it completes and leaves the queue,
and the queue is served in order. What every command keeps: the canonical forms, the variant, and the memories it does not write. -/

namespace Sys2Proof.Machine

/-! ### Every command is a function of the block -/

/-- A command whose meaning is f answers the block that f gives. -/
theorem answers {i : Instr} {s : State} {f : Chip → Chip} {d : Chip} (he : exec i s = s.effect f) (hf : f s.chip = d) :
    exec i s = .next (s.after d) := by
  rw [he, ← hf]
  rfl

/-- A command that is checked for its unit first is one function of the block too. -/
theorem State.effect_ite (s : State) (p : Prop) [Decidable p] (f g : Chip → Chip) :
    (if p then s.effect f else s.effect g) = s.effect (if p then f else g) := by
  split <;> rfl

/-- Every command is a function of the block alone. -/
theorem exec_isEffect (i : Instr) : ∃ f : Chip → Chip, ∀ s : State, exec i s = s.effect f := by
  cases i with
  | evcClaimRead | evcComplete | evcRaiseSelf | evcRaiseSoftware | evcRaiseIpi | evcTargetWrite =>
    exact ⟨_, fun s => s.effect_ite _ _ _⟩
  | ownerWrite acc page v => exact ⟨fun c => (ownerWrite acc page v c).tagSettle, fun _ => rfl⟩
  | release acc k => exact ⟨fun c => (c.releaseWord acc k).tagSettle, fun _ => rfl⟩
  | safetyFrameReceive net bytes cyc => exact ⟨fun c => (c.advanceTo cyc).safetyCopy net bytes, fun _ => rfl⟩
  | join stride delays => exact ⟨fun c => if c.isOff ∧ ¬ c.pair.joinWanted then c else join stride delays c, fun _ => rfl⟩
  | _ => exact ⟨_, fun _ => rfl⟩

/-- The block after a command is what the command's function gives. -/
theorem Chip.afterCommand_of_effect {i : Instr} {f : Chip → Chip} {c : Chip}
    (h : exec i { chip := c, pending := [] } = State.effect f { chip := c, pending := [] }) : c.afterCommand i = f c := by
  unfold Chip.afterCommand
  rw [h]
  rfl

theorem exec_eq_after (i : Instr) (s : State) : exec i s = .next (s.after (s.chip.afterCommand i)) := by
  obtain ⟨f, hf⟩ := exec_isEffect i
  exact answers (hf s) (Chip.afterCommand_of_effect (hf _)).symm

theorem step_cons (c : Chip) (i : Instr) (l : List Instr) :
    step { chip := c, pending := i :: l } = .next { chip := c.afterCommand i, pending := l } :=
  exec_eq_after i _

/-- Settles O1: the two branches of a step. -/
theorem stepRunsFrontCommand : Obligations.StepRunsFrontCommand := by
  refine ⟨fun s c rest h => ?_, fun s h => ?_⟩
  · unfold step; rw [h]
  · unfold step; rw [h]

/-- Settles O2: the meaning of every command is a function of the block. -/
theorem everyCommandCompletes : Obligations.EveryCommandCompletes := exec_eq_after

/-- Settles O3, by induction on the first part of the queue: one step runs its first command. -/
theorem queueIsServedInOrder : Obligations.QueueIsServedInOrder := by
  intro c front rest
  induction front generalizing c with
  | nil => rfl
  | cons i front ih =>
    have h : Sys2Proof.core.step { chip := c, pending := i :: (front ++ rest) } =
        .next { chip := c.afterCommand i, pending := front ++ rest } := step_cons c i _
    simp only [List.length_cons, List.cons_append, Host.Core.run, h]
    exact ih _

/-! ### What every command keeps -/

/-- A key command that writes no bank keeps the stored keys too: the configuration and the Halter entry are stored at its end (R425,
R445). -/
theorem Kept.keyWrite_of_no_bank {v : Held} {acc : Access} {op : KeyOp} {c : Chip} (hc : Kept v c)
    (hb : ∀ d : Chip, (d.keyStart op).2.stageBank (d.keyStart op).1 = d) : Kept v (Machine.keyWrite acc op c) := by
  refine Kept.write hc fun d hd => ?_
  unfold Chip.keyCommand
  split
  · dsimp only
    split
    · exact Kept.raiseEv (Kept.put hd)
    · exact Kept.wipeKeyData (Kept.put (Kept.raiseEv (Kept.put hd)))
  · dsimp only
    rw [hb]
    exact Kept.put (Kept.put (Kept.setVlt hd fun _ => ⟨rfl, rfl⟩))

/-- One of two functions of a block, chosen by the command's operands. -/
theorem Kept.select {v : Held} {c : Chip} {f : Chip → Chip} {p : Prop} [Decidable p] (h : Kept v c) (hf : Kept v (f c)) :
    Kept v ((if p then id else f) c) := by
  split
  · exact h
  · exact hf

/-- Every command is a function of the block that keeps the variant, the canonical forms, and of the memories that v names those that the
command does not write. -/
theorem exec_keeps {v : Held} (i : Instr) (hm : writesMemory i = true → v.mem = none) (hr : writesStore i = true → v.mram = none)
    (hk : writesKeys i = true → v.keys = none) (hn : writesImages i = true → v.nor = none) :
    ∃ f : Chip → Chip, (∀ s : State, exec i s = s.effect f) ∧ ∀ c : Chip, Kept v c → Kept v (f c) := by
  cases i with
  | evcClaimRead => exact ⟨_, fun s => s.effect_ite _ _ _, fun _ hc => hc.select (Kept.evcClaimRead hc)⟩
  | evcComplete => exact ⟨_, fun s => s.effect_ite _ _ _, fun _ hc => hc.select (Kept.evcComplete hc)⟩
  | evcRaiseSelf | evcRaiseSoftware | evcRaiseIpi => exact ⟨_, fun s => s.effect_ite _ _ _, fun _ hc => hc.select (Kept.evcRaise hc)⟩
  | evcTargetWrite => exact ⟨_, fun s => s.effect_ite _ _ _, fun _ hc => hc.select (Kept.evcTargetWrite hc)⟩
  | ownerWrite acc page w =>
    exact ⟨fun c => (ownerWrite acc page w c).tagSettle, fun _ => rfl, fun _ hc => Kept.tagSettle (Kept.ownerWrite hc)⟩
  | release acc k => exact ⟨fun c => (c.releaseWord acc k).tagSettle, fun _ => rfl, fun _ hc => Kept.tagSettle (Kept.releaseWord hc)⟩
  | safetyFrameReceive net bytes cyc =>
    exact ⟨fun c => (c.advanceTo cyc).safetyCopy net bytes, fun _ => rfl, fun _ hc => Kept.safetyCopy (Kept.advanceTo hc) (hr rfl)⟩
  | join stride delays =>
    exact ⟨fun c => if c.isOff ∧ ¬ c.pair.joinWanted then c else join stride delays c, fun _ => rfl, fun _ hc => .ite hc (Kept.join hc)⟩
  | strideEdge => exact ⟨_, fun _ => rfl, fun _ hc => Kept.strideEdge hc (hr rfl)⟩
  | snapshotPublication => exact ⟨_, fun _ => rfl, fun _ hc => Kept.snapshotPublication hc (hr rfl)⟩
  | switchLinkLoss => exact ⟨_, fun _ => rfl, fun _ hc => Kept.switchLinkLoss hc⟩
  | crookLinkLoss => exact ⟨_, fun _ => rfl, fun _ hc => Kept.crookLinkLoss hc (hr rfl)⟩
  | eccUncorrectable => exact ⟨_, fun _ => rfl, fun _ hc => Kept.eccUncorrectable hc (hr rfl)⟩
  | fabricCapHit => exact ⟨_, fun _ => rfl, fun _ hc => Kept.fabricCapHit hc⟩
  | mbxPayloadWrite => exact ⟨_, fun _ => rfl, fun _ hc => Kept.mbxPayloadWrite hc (hm rfl)⟩
  | mbxPost => exact ⟨_, fun _ => rfl, fun _ hc => Kept.mbxPost hc⟩
  | mbxTake => exact ⟨_, fun _ => rfl, fun _ hc => Kept.mbxTake hc⟩
  | registerWrite => exact ⟨_, fun _ => rfl, fun _ hc => Kept.registerWrite hc (hm rfl)⟩
  | evPendClear => exact ⟨_, fun _ => rfl, fun _ hc => Kept.evPendClear hc⟩
  | evTypeWrite => exact ⟨_, fun _ => rfl, fun _ hc => Kept.evTypeWrite hc⟩
  | violationClear => exact ⟨_, fun _ => rfl, fun _ hc => Kept.violationClear hc⟩
  | claim => exact ⟨_, fun _ => rfl, fun _ hc => Kept.claim hc⟩
  | claimForce => exact ⟨_, fun _ => rfl, fun _ hc => Kept.claimForce hc⟩
  | shadowWrite => exact ⟨_, fun _ => rfl, fun _ hc => Kept.shadowWrite hc⟩
  | stgArm => exact ⟨_, fun _ => rfl, fun _ hc => Kept.stgArm hc⟩
  | stgCancel => exact ⟨_, fun _ => rfl, fun _ hc => Kept.stgCancel hc⟩
  | stgApply => exact ⟨_, fun _ => rfl, fun _ hc => Kept.stgApply hc⟩
  | armRecordReceive => exact ⟨_, fun _ => rfl, fun _ hc => Kept.armRecordReceive hc⟩
  | pageStoreEccError => exact ⟨_, fun _ => rfl, fun _ hc => Kept.pageStoreEccError hc⟩
  | latchedWordRead => exact ⟨_, fun _ => rfl, fun _ hc => Kept.latchedWordRead hc⟩
  | timSecLoRead => exact ⟨_, fun _ => rfl, fun _ hc => Kept.timSecLoRead hc⟩
  | timStepCmd => exact ⟨_, fun _ => rfl, fun _ hc => Kept.timStepCmd hc⟩
  | stepApply => exact ⟨_, fun _ => rfl, fun _ hc => Kept.stepApply hc⟩
  | loadStrideCmd => exact ⟨_, fun _ => rfl, fun _ hc => Kept.loadStrideCmd hc⟩
  | clearIntegCmd => exact ⟨_, fun _ => rfl, fun _ hc => Kept.clearIntegCmd hc⟩
  | strideLoad => exact ⟨_, fun _ => rfl, fun _ hc => Kept.strideLoad hc⟩
  | offsetSample => exact ⟨_, fun _ => rfl, fun _ hc => Kept.offsetSampleWrite hc⟩
  | ppsInEdge => exact ⟨_, fun _ => rfl, fun _ hc => Kept.ppsInEdge hc⟩
  | holdoverEnter => exact ⟨_, fun _ => rfl, fun _ hc => Kept.holdoverEnter hc⟩
  | holdoverExpire => exact ⟨_, fun _ => rfl, fun _ hc => Kept.holdoverExpire hc⟩
  | ppsMissing => exact ⟨_, fun _ => rfl, fun _ hc => Kept.ppsMissing hc⟩
  | vcxoLoopUpdate => exact ⟨_, fun _ => rfl, fun _ hc => Kept.vcxoLoopUpdate hc⟩
  | comparatorArm => exact ⟨_, fun _ => rfl, fun _ hc => Kept.comparatorArm hc⟩
  | comparatorFire => exact ⟨_, fun _ => rfl, fun _ hc => Kept.comparatorFire hc⟩
  | ppsOutPulseEnd => exact ⟨_, fun _ => rfl, fun _ hc => Kept.ppsOutPulseEnd hc⟩
  | captureEdge => exact ⟨_, fun _ => rfl, fun _ hc => Kept.captureEdge hc⟩
  | capturePop => exact ⟨_, fun _ => rfl, fun _ hc => Kept.capturePop hc⟩
  | timeLimitFault => exact ⟨_, fun _ => rfl, fun _ hc => Kept.timeLimitFault hc⟩
  | settlingEnd => exact ⟨_, fun _ => rfl, fun _ hc => Kept.settlingEnd hc⟩
  | selectorSwitchHigh => exact ⟨_, fun _ => rfl, fun _ hc => Kept.selectorSwitchHigh hc⟩
  | regressionWindowEnd => exact ⟨_, fun _ => rfl, fun _ hc => Kept.regressionWindowEnd hc⟩
  | ratioApply => exact ⟨_, fun _ => rfl, fun _ hc => Kept.ratioApply hc⟩
  | healthFaultSet => exact ⟨_, fun _ => rfl, fun _ hc => Kept.healthFaultSet hc (hr rfl)⟩
  | healthFaultClear => exact ⟨_, fun _ => rfl, fun _ hc => Kept.healthFaultClear hc (hr rfl)⟩
  | freqTimeout => exact ⟨_, fun _ => rfl, fun _ hc => Kept.freqTimeout hc⟩
  | oneSecondPublish => exact ⟨_, fun _ => rfl, fun _ hc => Kept.oneSecondPublish hc⟩
  | inputFaultClear => exact ⟨_, fun _ => rfl, fun _ hc => Kept.inputFaultClear hc⟩
  | metSealChange => exact ⟨_, fun _ => rfl, fun _ hc => Kept.metSealChange hc (hr rfl)⟩
  | dieTempRead => exact ⟨_, fun _ => rfl, fun _ hc => Kept.dieTempRead hc⟩
  | tauTrimStep => exact ⟨_, fun _ => rfl, fun _ hc => Kept.tauTrimStep hc⟩
  | handoverWindowOpen => exact ⟨_, fun _ => rfl, fun _ hc => Kept.handoverWindowOpen hc⟩
  | pqWindowEval => exact ⟨_, fun _ => rfl, fun _ hc => Kept.pqWindowEval hc (hr rfl)⟩
  | calendarDataAccess => exact ⟨_, fun _ => rfl, fun _ hc => Kept.calendarDataAccess hc⟩
  | calendarArm => exact ⟨_, fun _ => rfl, fun _ hc => Kept.calendarArm hc⟩
  | calendarCancel => exact ⟨_, fun _ => rfl, fun _ hc => Kept.calendarCancel hc⟩
  | calendarActivate => exact ⟨_, fun _ => rfl, fun _ hc => Kept.calendarActivate hc (hr rfl)⟩
  | demandClose => exact ⟨_, fun _ => rfl, fun _ hc => Kept.demandClose hc⟩
  | billingClose => exact ⟨_, fun _ => rfl, fun _ hc => Kept.billingClose hc (hr rfl)⟩
  | periodicSave => exact ⟨_, fun _ => rfl, fun _ hc => Kept.periodicSave hc (hr rfl)⟩
  | forceSaveCmd => exact ⟨_, fun _ => rfl, fun _ hc => Kept.forceSaveCmd hc⟩
  | saveComplete => exact ⟨_, fun _ => rfl, fun _ hc => Kept.saveComplete hc⟩
  | pfwNAssert => exact ⟨_, fun _ => rfl, fun _ hc => Kept.pfwNAssert hc⟩
  | pfwAccept => exact ⟨_, fun _ => rfl, fun _ hc => Kept.pfwAccept hc (hr rfl)⟩
  | commitWritten => exact ⟨_, fun _ => rfl, fun _ hc => Kept.commitWritten hc⟩
  | tailRecord => exact ⟨_, fun _ => rfl, fun _ hc => Kept.tailRecord hc⟩
  | brownout => exact ⟨_, fun _ => rfl, fun _ hc => Kept.brownout hc⟩
  | pfwNRelease => exact ⟨_, fun _ => rfl, fun _ hc => Kept.pfwNRelease hc⟩
  | resetCommit => exact ⟨_, fun _ => rfl, fun _ hc => Kept.resetCommit hc (hr rfl)⟩
  | ledgerRestore => exact ⟨_, fun _ => rfl, fun _ hc => Kept.ledgerRestore hc (hr rfl)⟩
  | mramEccError => exact ⟨_, fun _ => rfl, fun _ hc => Kept.mramEccError hc (hr rfl) (hk rfl)⟩
  | ledgerWriteWord => exact ⟨_, fun _ => rfl, fun _ hc => Kept.ledgerWriteWord hc (hr rfl)⟩
  | ledgerReadWord => exact ⟨_, fun _ => rfl, fun _ hc => Kept.ledgerReadWord hc⟩
  | faultRecordAppend => exact ⟨_, fun _ => rfl, fun _ hc => Kept.faultRecordAppend hc (hr rfl)⟩
  | signReading => exact ⟨_, fun _ => rfl, fun _ hc => Kept.signReading hc⟩
  | signReadingDone => exact ⟨_, fun _ => rfl, fun _ hc => Kept.signReadingDone hc⟩
  | displayPoll => exact ⟨_, fun _ => rfl, fun _ hc => Kept.displayPoll hc⟩
  | displayReply => exact ⟨_, fun _ => rfl, fun _ hc => Kept.displayReply hc⟩
  | displayReplyTimeout => exact ⟨_, fun _ => rfl, fun _ hc => Kept.displayReplyTimeout hc⟩
  | displayItemStep => exact ⟨_, fun _ => rfl, fun _ hc => Kept.displayItemStep hc⟩
  | displayItemAccess => exact ⟨_, fun _ => rfl, fun _ hc => Kept.displayItemAccess hc⟩
  | pwmWrite => exact ⟨_, fun _ => rfl, fun _ hc => Kept.pwmWrite hc⟩
  | pwmPeriodStart => exact ⟨_, fun _ => rfl, fun _ hc => Kept.pwmPeriodStart hc⟩
  | pilotStateAccept => exact ⟨_, fun _ => rfl, fun _ hc => Kept.pilotStateAccept hc⟩
  | portDropCmd => exact ⟨_, fun _ => rfl, fun _ hc => Kept.portDropCmd hc⟩
  | portRearm => exact ⟨_, fun _ => rfl, fun _ hc => Kept.portRearm hc⟩
  | portAutoRearm => exact ⟨_, fun _ => rfl, fun _ hc => Kept.portAutoRearm hc⟩
  | proximityAccept => exact ⟨_, fun _ => rfl, fun _ hc => Kept.proximityAccept hc⟩
  | cableTempConvert => exact ⟨_, fun _ => rfl, fun _ hc => Kept.cableTempConvert hc⟩
  | lockDebounce => exact ⟨_, fun _ => rfl, fun _ hc => Kept.lockDebounce hc⟩
  | portFrameReceive => exact ⟨_, fun _ => rfl, fun _ hc => Kept.portFrameReceive hc (hm rfl)⟩
  | portTxTailWrite => exact ⟨_, fun _ => rfl, fun _ hc => Kept.portTxTailWrite hc⟩
  | portFrameSent => exact ⟨_, fun _ => rfl, fun _ hc => Kept.portFrameSent hc (hm rfl)⟩
  | canTxRequest => exact ⟨_, fun _ => rfl, fun _ hc => Kept.canTxRequest hc⟩
  | canTxCancel => exact ⟨_, fun _ => rfl, fun _ hc => Kept.canTxCancel hc⟩
  | canBufferWrite => exact ⟨_, fun _ => rfl, fun _ hc => Kept.canBufferWrite hc (hm rfl)⟩
  | canFrameSent => exact ⟨_, fun _ => rfl, fun _ hc => Kept.canFrameSent hc⟩
  | canFrameReceive => exact ⟨_, fun _ => rfl, fun _ hc => Kept.canFrameReceive hc (hm rfl)⟩
  | canRxPop => exact ⟨_, fun _ => rfl, fun _ hc => Kept.canRxPop hc⟩
  | canBusOff => exact ⟨_, fun _ => rfl, fun _ hc => Kept.canBusOff hc⟩
  | canBusOffRecovery => exact ⟨_, fun _ => rfl, fun _ hc => Kept.canBusOffRecovery hc⟩
  | driveInEdge => exact ⟨_, fun _ => rfl, fun _ hc => Kept.driveInEdge hc⟩
  | overcurrentTrip => exact ⟨_, fun _ => rfl, fun _ hc => Kept.overcurrentTrip hc⟩
  | shortCircuitCut => exact ⟨_, fun _ => rfl, fun _ hc => Kept.shortCircuitCut hc⟩
  | thermalLatchSet => exact ⟨_, fun _ => rfl, fun _ hc => Kept.thermalLatchSet hc⟩
  | thermalLatchRelease => exact ⟨_, fun _ => rfl, fun _ hc => Kept.thermalLatchRelease hc⟩
  | clampUnlock => exact ⟨_, fun _ => rfl, fun _ hc => Kept.clampUnlock hc⟩
  | retryDelayExpire => exact ⟨_, fun _ => rfl, fun _ hc => Kept.retryDelayExpire hc⟩
  | retryReload => exact ⟨_, fun _ => rfl, fun _ hc => Kept.retryReload hc⟩
  | channelClear => exact ⟨_, fun _ => rfl, fun _ hc => Kept.channelClear hc⟩
  | bankUndervoltage => exact ⟨_, fun _ => rfl, fun _ hc => Kept.bankUndervoltage hc⟩
  | bankRecover => exact ⟨_, fun _ => rfl, fun _ hc => Kept.bankRecover hc⟩
  | bankReversed => exact ⟨_, fun _ => rfl, fun _ hc => Kept.bankReversed hc⟩
  | openLoadOn => exact ⟨_, fun _ => rfl, fun _ hc => Kept.openLoadOn hc⟩
  | offStateDiag => exact ⟨_, fun _ => rfl, fun _ hc => Kept.offStateDiag hc⟩
  | diagComplete => exact ⟨_, fun _ => rfl, fun _ hc => Kept.diagComplete hc⟩
  | globalModeWrite => exact ⟨_, fun _ => rfl, fun _ hc => Kept.globalModeWrite hc⟩
  | bankOverload => exact ⟨_, fun _ => rfl, fun _ hc => Kept.bankOverload hc⟩
  | vslotRoute => exact ⟨_, fun _ => rfl, fun _ hc => Kept.vslotRoute hc⟩
  | bridleRequest => exact ⟨_, fun _ => rfl, fun _ hc => Kept.bridleRequest hc⟩
  | bridleInEdge => exact ⟨_, fun _ => rfl, fun _ hc => Kept.bridleInEdge hc⟩
  | take => exact ⟨_, fun _ => rfl, fun _ hc => Kept.take hc⟩
  | takeApply => exact ⟨_, fun _ => rfl, fun _ hc => Kept.takeApply hc⟩
  | bridleMapCommit => exact ⟨_, fun _ => rfl, fun _ hc => Kept.bridleMapCommit hc⟩
  | bridleMapCommitDone => exact ⟨_, fun _ => rfl, fun _ hc => Kept.bridleMapCommitDone hc⟩
  | switchDiePowerUp => exact ⟨_, fun _ => rfl, fun _ hc => Kept.switchDiePowerUp hc⟩
  | darkTest => exact ⟨_, fun _ => rfl, fun _ hc => Kept.darkTest hc (hr rfl)⟩
  | cutOutputStuck => exact ⟨_, fun _ => rfl, fun _ hc => Kept.cutOutputStuck hc (hr rfl)⟩
  | rcmSensorFault => exact ⟨_, fun _ => rfl, fun _ hc => Kept.rcmSensorFault hc (hr rfl)⟩
  | rcmBandTrip => exact ⟨_, fun _ => rfl, fun _ hc => Kept.rcmBandTrip hc (hr rfl)⟩
  | rcmBandDisagree => exact ⟨_, fun _ => rfl, fun _ hc => Kept.rcmBandDisagree hc (hr rfl)⟩
  | rcmTest => exact ⟨_, fun _ => rfl, fun _ hc => Kept.rcmTest hc⟩
  | rcmTestDone => exact ⟨_, fun _ => rfl, fun _ hc => Kept.rcmTestDone hc (hr rfl)⟩
  | imdHalfPeriodEnd => exact ⟨_, fun _ => rfl, fun _ hc => Kept.imdHalfPeriodEnd hc (hr rfl)⟩
  | weldCheckTimeout => exact ⟨_, fun _ => rfl, fun _ hc => Kept.weldCheckTimeout hc (hr rfl)⟩
  | estopContactChange => exact ⟨_, fun _ => rfl, fun _ hc => Kept.estopContactChange hc (hr rfl)⟩
  | estopTestPulse => exact ⟨_, fun _ => rfl, fun _ hc => Kept.estopTestPulse hc (hr rfl)⟩
  | estopDiscrepancy => exact ⟨_, fun _ => rfl, fun _ hc => Kept.estopDiscrepancy hc⟩
  | flockPowerExceed => exact ⟨_, fun _ => rfl, fun _ hc => Kept.flockPowerExceed hc (hr rfl)⟩
  | safetyFrameWindowEnd => exact ⟨_, fun _ => rfl, fun _ hc => Kept.safetyFrameWindowEnd hc (hr rfl)⟩
  | safetyFrameSend => exact ⟨_, fun _ => rfl, fun _ hc => Kept.safetyFrameSend hc⟩
  | heartbeatSend => exact ⟨_, fun _ => rfl, fun _ hc => Kept.heartbeatSend hc⟩
  | peerTimeout => exact ⟨_, fun _ => rfl, fun _ hc => Kept.peerTimeout hc (hr rfl)⟩
  | singleNetworkEnd => exact ⟨_, fun _ => rfl, fun _ hc => Kept.singleNetworkEnd hc (hr rfl)⟩
  | networkRecovery => exact ⟨_, fun _ => rfl, fun _ hc => Kept.networkRecovery hc (hr rfl)⟩
  | degradedSupervisionStart => exact ⟨_, fun _ => rfl, fun _ hc => Kept.degradedSupervisionStart hc⟩
  | degradedWarning => exact ⟨_, fun _ => rfl, fun _ hc => Kept.degradedWarning hc⟩
  | degradedDeadline => exact ⟨_, fun _ => rfl, fun _ hc => Kept.degradedDeadline hc (hr rfl)⟩
  | degradedRecovery => exact ⟨_, fun _ => rfl, fun _ hc => Kept.degradedRecovery hc (hr rfl)⟩
  | safetyWatchdogService => exact ⟨_, fun _ => rfl, fun _ hc => Kept.safetyWatchdogService hc⟩
  | safetyWatchdogExpire => exact ⟨_, fun _ => rfl, fun _ hc => Kept.safetyWatchdogExpire hc (hr rfl)⟩
  | recoveryWindowExpire => exact ⟨_, fun _ => rfl, fun _ hc => Kept.recoveryWindowExpire hc (hr rfl)⟩
  | recoveryFinish => exact ⟨_, fun _ => rfl, fun _ hc => Kept.recoveryFinish hc (hr rfl)⟩
  | flockRelease => exact ⟨_, fun _ => rfl, fun _ hc => Kept.flockRelease hc (hr rfl)⟩
  | flockStop => exact ⟨_, fun _ => rfl, fun _ hc => Kept.flockStop hc (hr rfl)⟩
  | lockoutRelease => exact ⟨_, fun _ => rfl, fun _ hc => Kept.lockoutRelease hc (hr rfl)⟩
  | estopReset => exact ⟨_, fun _ => rfl, fun _ hc => Kept.estopReset hc (hr rfl)⟩
  | safCmdInvalid => exact ⟨_, fun _ => rfl, fun _ hc => Kept.safCmdInvalid hc (hr rfl)⟩
  | strapRead => exact ⟨_, fun _ => rfl, fun _ hc => Kept.strapRead hc (hr rfl)⟩
  | strapReread => exact ⟨_, fun _ => rfl, fun _ hc => Kept.strapReread hc (hr rfl)⟩
  | spbDataAccess => exact ⟨_, fun _ => rfl, fun _ hc => Kept.spbDataAccess hc⟩
  | spbCommit => exact ⟨_, fun _ => rfl, fun _ hc => Kept.spbCommit hc (hr rfl)⟩
  | spbConfirm => exact ⟨_, fun _ => rfl, fun _ hc => Kept.spbConfirm hc (hr rfl)⟩
  | spbRecheck => exact ⟨_, fun _ => rfl, fun _ hc => Kept.spbRecheck hc (hr rfl)⟩
  | safeOkRelease => exact ⟨_, fun _ => rfl, fun _ hc => Kept.safeOkRelease hc⟩
  | startupRelease => exact ⟨_, fun _ => rfl, fun _ hc => Kept.startupRelease hc (hr rfl)⟩
  | safetyRxPop => exact ⟨_, fun _ => rfl, fun _ hc => Kept.safetyRxPop hc⟩
  | pairSelChange => exact ⟨_, fun _ => rfl, fun _ hc => Kept.pairSelChange hc⟩
  | roleDecision => exact ⟨_, fun _ => rfl, fun _ hc => Kept.roleDecision hc⟩
  | strideFrameReceive => exact ⟨_, fun _ => rfl, fun _ hc => Kept.strideFrameReceive hc (hr rfl)⟩
  | strideFrameDeadline => exact ⟨_, fun _ => rfl, fun _ hc => Kept.strideFrameDeadline hc⟩
  | storeCopyDone => exact ⟨_, fun _ => rfl, fun _ hc => Kept.storeCopyDone hc (hr rfl)⟩
  | joinMarkCapture => exact ⟨_, fun _ => rfl, fun _ hc => Kept.joinMarkCapture hc⟩
  | joinApply => exact ⟨_, fun _ => rfl, fun _ hc => Kept.joinApply hc⟩
  | takeover => exact ⟨_, fun _ => rfl, fun _ hc => Kept.takeover hc⟩
  | assumeCmd => exact ⟨_, fun _ => rfl, fun _ hc => Kept.assumeCmd hc⟩
  | swapCmd => exact ⟨_, fun _ => rfl, fun _ hc => Kept.swapCmd hc⟩
  | swapHandover => exact ⟨_, fun _ => rfl, fun _ hc => Kept.swapHandover hc⟩
  | swapComplete => exact ⟨_, fun _ => rfl, fun _ hc => Kept.swapComplete hc⟩
  | rejoinCmd => exact ⟨_, fun _ => rfl, fun _ hc => Kept.rejoinCmd hc⟩
  | harnessLinkDown => exact ⟨_, fun _ => rfl, fun _ hc => Kept.harnessLinkDown hc⟩
  | harnessLinkUp => exact ⟨_, fun _ => rfl, fun _ hc => Kept.harnessLinkUp hc⟩
  | harnessLaneDown => exact ⟨_, fun _ => rfl, fun _ hc => Kept.harnessLaneDown hc⟩
  | harnessMsgSend => exact ⟨_, fun _ => rfl, fun _ hc => Kept.harnessMsgSend hc⟩
  | harnessMsgReceive => exact ⟨_, fun _ => rfl, fun _ hc => Kept.harnessMsgReceive hc⟩
  | harnessMsgPop => exact ⟨_, fun _ => rfl, fun _ hc => Kept.harnessMsgPop hc⟩
  | netLinkUp => exact ⟨_, fun _ => rfl, fun _ hc => Kept.netLinkUp hc⟩
  | netLinkDown => exact ⟨_, fun _ => rfl, fun _ hc => Kept.netLinkDown hc (hm rfl)⟩
  | netSpeedTry => exact ⟨_, fun _ => rfl, fun _ hc => Kept.netSpeedTry hc⟩
  | netFrameReceive => exact ⟨_, fun _ => rfl, fun _ hc => Kept.netFrameReceive hc⟩
  | netRingDeliver => exact ⟨_, fun _ => rfl, fun _ hc => Kept.netRingDeliver hc (hr rfl) (hm rfl)⟩
  | netTxTailWrite => exact ⟨_, fun _ => rfl, fun _ hc => Kept.netTxTailWrite hc (hm rfl)⟩
  | netFrameSent => exact ⟨_, fun _ => rfl, fun _ hc => Kept.netFrameSent hc (hm rfl)⟩
  | streamEnable => exact ⟨_, fun _ => rfl, fun _ hc => Kept.streamEnable hc⟩
  | streamFrameSend => exact ⟨_, fun _ => rfl, fun _ hc => Kept.streamFrameSend hc⟩
  | ringPlaneWrite => exact ⟨_, fun _ => rfl, fun _ hc => Kept.ringPlaneWrite hc (hm rfl)⟩
  | mainsZcEdge => exact ⟨_, fun _ => rfl, fun _ hc => Kept.mainsZcEdge hc⟩
  | zcPredictedCrossing => exact ⟨_, fun _ => rfl, fun _ hc => Kept.zcPredictedCrossing hc⟩
  | mainsFrameReceive => exact ⟨_, fun _ => rfl, fun _ hc => Kept.mainsFrameReceive hc⟩
  | mainsSend => exact ⟨_, fun _ => rfl, fun _ hc => Kept.mainsSend hc⟩
  | mainsAbort => exact ⟨_, fun _ => rfl, fun _ hc => Kept.mainsAbort hc⟩
  | mainsTxStart => exact ⟨_, fun _ => rfl, fun _ hc => Kept.mainsTxStart hc⟩
  | mainsTxDone => exact ⟨_, fun _ => rfl, fun _ hc => Kept.mainsTxDone hc⟩
  | mainsRxPop => exact ⟨_, fun _ => rfl, fun _ hc => Kept.mainsRxPop hc⟩
  | tagPing => exact ⟨_, fun _ => rfl, fun _ hc => Kept.tagPing hc⟩
  | tagRoundStart => exact ⟨_, fun _ => rfl, fun _ hc => Kept.tagRoundStart hc⟩
  | tagStop => exact ⟨_, fun _ => rfl, fun _ hc => Kept.tagStop hc⟩
  | tagWrite => exact ⟨_, fun _ => rfl, fun _ hc => Kept.tagWrite hc⟩
  | tagRecordWrite => exact ⟨_, fun _ => rfl, fun _ hc => Kept.tagRecordWrite hc⟩
  | tagSlot => exact ⟨_, fun _ => rfl, fun _ hc => Kept.tagSlot hc⟩
  | halterResolveAnswer => exact ⟨_, fun _ => rfl, fun _ hc => Kept.halterResolveAnswer hc⟩
  | tagReplyTimeout => exact ⟨_, fun _ => rfl, fun _ hc => Kept.tagReplyTimeout hc⟩
  | tagRoundEnd => exact ⟨_, fun _ => rfl, fun _ hc => Kept.tagRoundEnd hc⟩
  | antennaFault => exact ⟨_, fun _ => rfl, fun _ hc => Kept.antennaFault hc⟩
  | tagChannelHop => exact ⟨_, fun _ => rfl, fun _ hc => Kept.tagChannelHop hc⟩
  | tagRepPop => exact ⟨_, fun _ => rfl, fun _ hc => Kept.tagRepPop hc⟩
  | keyWrite | keyErase | keyGenerate | keyAttr => exact ⟨_, fun _ => rfl, fun _ hc => Kept.keyWrite hc (hk rfl)⟩
  | vaultCfgCommit acc => exact ⟨keyWrite acc .cfg, fun _ => rfl, fun _ hc => Kept.keyWrite_of_no_bank hc fun _ => rfl⟩
  | halterSet acc => exact ⟨keyWrite acc .halter, fun _ => rfl, fun _ hc => Kept.keyWrite_of_no_bank hc fun _ => rfl⟩
  | keyCommandDone => exact ⟨_, fun _ => rfl, fun _ hc => Kept.keyCommandDone hc (hk rfl)⟩
  | vaultRandom | vaultSha384 | vaultHmac | vaultCmac | vaultGcmEncrypt | vaultGcmDecrypt | vaultEcdsaSign | vaultEcdsaVerify | vaultEcdh
  | vaultPublicKey | vaultCoseSign1 | vaultAttest | vaultSlotInfo => exact ⟨_, fun _ => rfl, fun _ hc => Kept.vaultGo hc⟩
  | vaultRequestAbort => exact ⟨_, fun _ => rfl, fun _ hc => Kept.vaultRequestAbort hc⟩
  | vaultRequestStart => exact ⟨_, fun _ => rfl, fun _ hc => Kept.vaultRequestStart hc⟩
  | vaultRequestDone => exact ⟨_, fun _ => rfl, fun _ hc => Kept.vaultRequestDone hc⟩
  | trngHealthFail => exact ⟨_, fun _ => rfl, fun _ hc => Kept.trngHealthFail hc⟩
  | drbgReseed => exact ⟨_, fun _ => rfl, fun _ hc => Kept.drbgReseed hc⟩
  | vaultRestoreDone => exact ⟨_, fun _ => rfl, fun _ hc => Kept.vaultRestoreDone hc⟩
  | compatModeWrite => exact ⟨_, fun _ => rfl, fun _ hc => Kept.compatModeWrite hc⟩
  | corePowerGate => exact ⟨_, fun _ => rfl, fun _ hc => Kept.corePowerGate hc⟩
  | coreWfi => exact ⟨_, fun _ => rfl, fun _ hc => Kept.coreWfi hc⟩
  | sharedSourceStall => exact ⟨_, fun _ => rfl, fun _ hc => Kept.sharedSourceStall hc⟩
  | powerGood => exact ⟨_, fun _ => rfl, fun _ hc => Kept.powerGood hc⟩
  | planeStartCmd => exact ⟨_, fun _ => rfl, fun _ hc => Kept.planeStartCmd hc⟩
  | imageLoadDone => exact ⟨_, fun _ => rfl, fun _ hc => Kept.imageLoadDone hc⟩
  | watchdogService => exact ⟨_, fun _ => rfl, fun _ hc => Kept.watchdogService hc⟩
  | watchdogHalf => exact ⟨_, fun _ => rfl, fun _ hc => Kept.watchdogHalf hc⟩
  | watchdogExpire => exact ⟨_, fun _ => rfl, fun _ hc => Kept.watchdogExpire hc (hr rfl)⟩
  | planeResetCmd | dieResetCmd | moduleResetCmd => exact ⟨_, fun _ => rfl, fun _ hc => Kept.resetWrite hc (hr rfl)⟩
  | controllerDieReset => exact ⟨_, fun _ => rfl, fun _ hc => Kept.controllerDieReset hc (hm rfl) (hr rfl) (hn rfl)⟩
  | resetNPin => exact ⟨_, fun _ => rfl, fun _ hc => Kept.resetNPin hc (hm rfl) (hr rfl) (hn rfl)⟩
  | vinCollapse => exact ⟨_, fun _ => rfl, fun _ hc => Kept.vinCollapse hc (hm rfl) (hr rfl) (hn rfl)⟩
  | vinOvervoltage => exact ⟨_, fun _ => rfl, fun _ hc => Kept.vinOvervoltage hc⟩
  | refclkFault => exact ⟨_, fun _ => rfl, fun _ hc => Kept.refclkFault hc⟩
  | dieOvertemp => exact ⟨_, fun _ => rfl, fun _ hc => Kept.dieOvertemp hc⟩
  | planeSwitchCmd => exact ⟨_, fun _ => rfl, fun _ hc => Kept.planeSwitchCmd hc (hr rfl)⟩
  | planeConfirmCmd => exact ⟨_, fun _ => rfl, fun _ hc => Kept.planeConfirmCmd hc⟩
  | svnCommitCmd => exact ⟨_, fun _ => rfl, fun _ hc => Kept.svnCommitCmd hc⟩
  | planeRevertCmd => exact ⟨_, fun _ => rfl, fun _ hc => Kept.planeRevertCmd hc (hr rfl)⟩
  | trialWindowExpire => exact ⟨_, fun _ => rfl, fun _ hc => Kept.trialWindowExpire hc (hr rfl)⟩
  | norEraseCmd => exact ⟨_, fun _ => rfl, fun _ hc => Kept.norEraseCmd hc⟩
  | norProgramCmd => exact ⟨_, fun _ => rfl, fun _ hc => Kept.norProgramCmd hc⟩
  | norVerifyCmd => exact ⟨_, fun _ => rfl, fun _ hc => Kept.norVerifyCmd hc⟩
  | norInvalidateCmd => exact ⟨_, fun _ => rfl, fun _ hc => Kept.norInvalidateCmd hc⟩
  | norCommandDone => exact ⟨_, fun _ => rfl, fun _ hc => Kept.norCommandDone hc (hn rfl)⟩
  | keyHashEnrol => exact ⟨_, fun _ => rfl, fun _ hc => Kept.keyHashEnrol hc⟩
  | keyHashRevoke => exact ⟨_, fun _ => rfl, fun _ hc => Kept.keyHashRevoke hc⟩
  | lockstepError => exact ⟨_, fun _ => rfl, fun _ hc => Kept.lockstepError hc (hr rfl)⟩
  | correctedEccError => exact ⟨_, fun _ => rfl, fun _ hc => Kept.correctedEccError hc⟩
  | coreTimerCompare => exact ⟨_, fun _ => rfl, fun _ hc => Kept.coreTimerCompare hc⟩
  | harnessLaneUp => exact ⟨_, fun _ => rfl, fun _ hc => Kept.harnessLaneUp hc⟩
  | modAbsChange => exact ⟨_, fun _ => rfl, fun _ hc => Kept.modAbsChange hc⟩
  | portPhyLinkChange => exact ⟨_, fun _ => rfl, fun _ hc => Kept.portPhyLinkChange hc⟩
  | canErrorPassive => exact ⟨_, fun _ => rfl, fun _ hc => Kept.canErrorPassive hc⟩
  | couplerDriverFault => exact ⟨_, fun _ => rfl, fun _ hc => Kept.couplerDriverFault hc⟩
  | zcSenseLoss => exact ⟨_, fun _ => rfl, fun _ hc => Kept.zcSenseLoss hc⟩
  | radioLinkLoss => exact ⟨_, fun _ => rfl, fun _ hc => Kept.radioLinkLoss hc⟩
  | pairedCrookLossCut => exact ⟨_, fun _ => rfl, fun _ hc => Kept.pairedCrookLossCut hc⟩
  | resetRelease => exact ⟨_, fun _ => rfl, fun _ hc => Kept.resetRelease hc⟩
  | calCrcUpdate => exact ⟨_, fun _ => rfl, fun _ hc => Kept.calCrcUpdate hc⟩
  | passiveCrcUpdate => exact ⟨_, fun _ => rfl, fun _ hc => Kept.passiveCrcUpdate hc⟩

/-- All that a block may hold: its memories, stored keys and images, but for what the command writes. -/
def Chip.heldBut (c : Chip) (i : Instr) : Held where
  variant := c.variant
  mem := if writesMemory i then none else some c.mem
  mram := if writesStore i then none else some c.mram
  keys := if writesKeys i then none else some (c.vlt.banks, c.vlt.entries)
  nor := if writesImages i then none else some c.boot.nor

theorem Chip.kept_heldBut {c : Chip} (h : c.Sound) (i : Instr) : Kept (c.heldBut i) c := by
  refine ⟨rfl, h, ?_, ?_, ?_, ?_⟩ <;> intro x hx <;> simp only [Chip.heldBut] at hx <;> split at hx <;> simp_all

theorem Chip.kept_afterCommand {c : Chip} (h : c.Sound) (i : Instr) : Kept (c.heldBut i) (c.afterCommand i) :=
  by
  obtain ⟨f, hf, keeps⟩ := exec_keeps (v := c.heldBut i) i (fun w => if_pos w) (fun w => if_pos w) (fun w => if_pos w) (fun w => if_pos w)
  rw [Chip.afterCommand_of_effect (hf _)]
  exact keeps c (Chip.kept_heldBut h i)

/-- Settles O4: the empty queue idles, and every command keeps the canonical forms and the variant. -/
theorem soundIsKept : Obligations.SoundIsKept := by
  intro s t hs ht
  unfold step at ht
  split at ht
  · cases ht
    exact ⟨hs, rfl⟩
  · next i rest hp =>
    rw [exec_eq_after] at ht
    cases ht
    have h := Chip.kept_afterCommand hs i
    exact ⟨h.sound, h.variant⟩

/-- Settles O5: what the command does not write is held. -/
theorem memoryFrames : Obligations.MemoryFrames := by
  intro i s t hs ht
  rw [exec_eq_after] at ht
  cases ht
  have h := Chip.kept_afterCommand hs i
  refine ⟨fun w a => ?_, fun w a => ?_, fun w => ?_, fun w => ?_⟩
  · exact congrArg (Memory.byte · a) (h.mem _ (if_neg (by simp [w])))
  · exact congrArg (Memory.byte · a) (h.mram _ (if_neg (by simp [w])))
  · exact Prod.mk.inj (h.keys _ (if_neg (by simp [w])))
  · exact h.nor _ (if_neg (by simp [w]))

end Sys2Proof.Machine
end

section
/-! PROOFS. Key material and reads (R426): a block with other keys of the same generations reads alike. -/

namespace Sys2Proof.Machine

/-- The block with other keys: the slots in force and the banks that hold them. -/
def Chip.withKeys (c : Chip) (keys : Sparse VaultSlot) (banks : Sparse (Option VaultBank)) : Chip :=
  { c with vlt := { c.vlt with slots := keys, banks := banks } }

/-- The slots hold keys of the generations that the block's slots hold. -/
def Chip.SameGenerations (c : Chip) (keys : Sparse VaultSlot) : Prop :=
  ∀ k : Nat, (Sparse.get (fun _ => ({} : VaultSlot)) keys k).key.generation =
    (Sparse.get (fun _ => ({} : VaultSlot)) c.vlt.slots k).key.generation

section
variable {c : Chip} {keys : Sparse VaultSlot} {banks : Sparse (Option VaultBank)}

theorem Chip.keyGeneration_withKeys (h : c.SameGenerations keys) : (c.withKeys keys banks).keyGeneration = c.keyGeneration := by
  have hs : (c.withKeys keys banks).rd VLT_KW_SLOT_slot = c.rd VLT_KW_SLOT_slot := rfl
  unfold Chip.keyGeneration Chip.vaultSlot
  rw [hs]
  split
  · rfl
  · exact h _

/-- The one computed word that looks at a key is its generation (R444). -/
theorem Chip.liveWord_withKeys (h : c.SameGenerations keys) (b : Blk) (n ofs : Nat) :
    (c.withKeys keys banks).liveWord b n ofs = c.liveWord b n ofs := by
  cases b with
  | vlt | vlp => simp only [Chip.liveWord, Chip.keyGeneration_withKeys h]; rfl
  | _ => rfl

theorem Chip.wordAt_withKeys (h : c.SameGenerations keys) (a : Nat) : (c.withKeys keys banks).wordAt a = c.wordAt a := by
  simp only [Chip.wordAt, Chip.liveWord_withKeys h]
  rfl

theorem Chip.readWord_withKeys (h : c.SameGenerations keys) (b : Blk) (a ofs : Nat) :
    ((c.withKeys keys banks).readWord b a ofs).rdata = (c.readWord b a ofs).rdata := by
  simp only [Chip.readWord, Chip.wordAt_withKeys h]
  rfl

/-! The checks of an access, the memories and the banks of the windows are no part of the vault. -/

@[simp] theorem Chip.withKeys_variant : (c.withKeys keys banks).variant = c.variant := rfl
@[simp] theorem Chip.withKeys_mem : (c.withKeys keys banks).mem = c.mem := rfl
@[simp] theorem Chip.withKeys_latch : (c.withKeys keys banks).latch = c.latch := rfl
@[simp] theorem Chip.withKeys_rdata : (c.withKeys keys banks).rdata = c.rdata := rfl
@[simp] theorem Chip.withKeys_rd (f : Fld) : (c.withKeys keys banks).rd f = c.rd f := rfl
@[simp] theorem Chip.withKeys_mayReach (p a n : Nat) : (c.withKeys keys banks).mayReach p a n = c.mayReach p a n := rfl
@[simp] theorem Chip.withKeys_windowWord (w ofs : Nat) : (c.withKeys keys banks).windowWord w ofs = c.windowWord w ofs := rfl
@[simp] theorem Chip.withKeys_freeSlotRead (p n ofs : Nat) : (c.withKeys keys banks).freeSlotRead p n ofs = c.freeSlotRead p n ofs := rfl
@[simp] theorem Chip.withKeys_readViolation (acc : Access) (a : Nat) :
    (c.withKeys keys banks).readViolation acc a = c.readViolation acc a := rfl

/-- What a read returns depends on the keys only as far as what it does when its checks pass. -/
theorem Chip.read_withKeys {f g : Chip → Chip} (hf : (f (c.withKeys keys banks)).rdata = (g c).rdata) (acc : Access) (a : Nat) :
    ((c.withKeys keys banks).read acc a f).rdata = (c.read acc a g).rdata := by
  unfold Chip.read
  rw [Chip.withKeys_readViolation, Chip.withKeys_variant]
  split
  · rfl
  · split
    · exact hf
    · rfl

theorem Chip.readWindow_withKeys (acc : Access) (a : Nat) : ((c.withKeys keys banks).readWindow acc a).rdata = (c.readWindow acc a).rdata := by
  unfold Chip.readWindow
  split
  · rfl
  · dsimp only
    split
    · rfl
    · split <;> rfl

theorem Chip.readCan_withKeys (acc : Access) (a : Nat) : ((c.withKeys keys banks).readCan acc a).rdata = (c.readCan acc a).rdata := by
  unfold Chip.readCan
  extract_lets n
  rw [Chip.withKeys_variant, Chip.withKeys_rd, Chip.withKeys_mem]
  split
  · rfl
  · split
    · rfl
    · split <;> rfl

/-- No read of an address depends on key material. -/
theorem latchedWordRead_withKeys (h : c.SameGenerations keys) (acc : Access) (a : Nat) :
    (latchedWordRead acc a (c.withKeys keys banks)).rdata = (latchedWordRead acc a c).rdata := by
  unfold latchedWordRead
  rw [Chip.withKeys_mayReach, Chip.withKeys_mem, Chip.withKeys_variant]
  split
  · split <;> rfl
  · split
    · exact Chip.readWindow_withKeys acc a
    · split
      · exact Chip.readCan_withKeys acc a
      · cases locate c.variant a with
        | none => rfl
        | some u =>
          dsimp only
          split
          · rfl
          · split
            · rfl
            · refine Chip.read_withKeys ?_ acc a
              rw [Chip.withKeys_freeSlotRead]
              split
              · rfl
              · exact Chip.readWord_withKeys h _ _ _

/-- A read of the store returns bytes of the store or a value of its typed regions, and 0 in the vault's region (R426). -/
theorem ledgerReadWord_withKeys (acc : Access) : (ledgerReadWord acc (c.withKeys keys banks)).rdata = (ledgerReadWord acc c).rdata := by
  refine Chip.read_withKeys ?_ acc _
  dsimp only
  rw [Chip.withKeys_rd]
  split
  · rfl
  · split <;> rfl

end

/-- Settles O6: neither read depends on the keys, the one word about a key being its generation. -/
theorem keysAreNeverRead : Obligations.KeysAreNeverRead := by
  intro s acc a keys banks h
  have hr : ∀ d : Chip, d.afterCommand (.latchedWordRead acc a) = latchedWordRead acc a d := fun _ => Chip.afterCommand_of_effect rfl
  have hl : ∀ d : Chip, d.afterCommand (.ledgerReadWord acc) = ledgerReadWord acc d := fun _ => Chip.afterCommand_of_effect rfl
  dsimp only
  rw [hr, hr, hl, hl]
  exact ⟨(latchedWordRead_withKeys h acc a).symm, (ledgerReadWord_withKeys acc).symm⟩

end Sys2Proof.Machine
end

section
/-! PROOFS. Accesses that a check of R48 refuses: what a record of a violation writes, and that the writes of the rows change nothing else
(R48, R49). -/

namespace Sys2Proof.Machine

/-! ### An access by the outcome of its checks -/

theorem Chip.write_of_violation {c : Chip} {acc : Access} {a v kind : Nat} (h : c.writeViolation acc a v = some kind) (f : Chip → Chip) :
    c.write acc a v f = c.violate acc a kind true := by
  simp [Chip.write, h]

theorem Chip.read_of_violation {c : Chip} {acc : Access} {a kind : Nat} (h : c.readViolation acc a = some kind) (f : Chip → Chip) :
    c.read acc a f = { c.violate acc a kind false with rdata := 0 } := by
  simp [Chip.read, h]

/-! ### The record of a violation -/

/-- A record writes the words of FAB_VIOL_COUNT, FAB_VIOL_ADDR and FAB_VIOL_INFO alone. -/
theorem Chip.violate_word_other {x : Nat} (hc : x ≠ FAB_VIOL_COUNT.addr) (ha : x ≠ FAB_VIOL_ADDR.addr) (hi : x ≠ FAB_VIOL_INFO.addr) (c : Chip)
    (acc : Access) (a kind : Nat) (write : Bool) : (c.violate acc a kind write).word x = c.word x := by
  unfold Chip.violate Chip.incSat
  rw [Chip.word_put_other _ _ hi, Chip.word_put_other _ _ ha, Chip.word_put_other _ _ hc]

theorem Chip.violate_regs (c : Chip) (acc : Access) (a kind : Nat) (write : Bool) : c.RegsOnly (c.violate acc a kind write) := by
  have hp : ∀ (d : Chip) (f : Fld) (v : Nat), d.RegsOnly (d.put f v) := fun _ _ _ => rfl
  exact ((hp _ _ _).trans (hp _ _ _)).trans (hp _ _ _)

theorem satN_eq_min (w x : Nat) : satN w x = min x (2 ^ w - 1) := by
  have : 0 < 2 ^ w := Nat.two_pow_pos w
  unfold satN
  split <;> omega

theorem Chip.violate_count (c : Chip) (acc : Access) (a kind : Nat) (write : Bool) :
    (c.violate acc a kind write).rd FAB_VIOL_COUNT = min (c.rd FAB_VIOL_COUNT + 1) 0xFFFFFFFF := by
  unfold Chip.violate Chip.incSat
  rw [Chip.rd_put_other FAB_VIOL_INFO _ _ (by decide) (.inl (by decide)), Chip.rd_put_other FAB_VIOL_ADDR _ _ (by decide) (.inl (by decide)),
    Chip.rd_put_same FAB_VIOL_COUNT _ (by decide), satN_eq_min]
  exact Nat.mod_eq_of_lt (by simp only [FAB_VIOL_COUNT]; omega)

/-! ### The rows that answer the record alone -/

theorem evPendClear_of_violation {c : Chip} {acc : Access} {page v kind : Nat} (h : c.writeViolation acc (page + 0x018) v = some kind)
    (hp : c.isPage page = true) (arriving : Nat) : evPendClear acc page v arriving c = c.violate acc (page + 0x018) kind true := by
  simp [evPendClear, hp, Chip.write_of_violation h]

theorem evTypeWrite_of_violation {c : Chip} {acc : Access} {page v kind : Nat} (h : c.writeViolation acc (page + 0x01C) v = some kind)
    (hp : c.isPage page = true) : evTypeWrite acc page v c = c.violate acc (page + 0x01C) kind true := by
  simp [evTypeWrite, hp, Chip.write_of_violation h]

theorem stgArm_of_violation {c : Chip} {acc : Access} {p v kind : Nat} (h : c.writeViolation acc (STG_CMD p).addr v = some kind) (hp : p < 4) :
    stgArm acc p v c = c.violate acc (STG_CMD p).addr kind true := by
  unfold stgArm
  rw [if_neg (Nat.not_le.2 hp), Chip.write_of_violation h]

theorem stgCancel_of_violation {c : Chip} {acc : Access} {p v kind : Nat} (h : c.writeViolation acc (STG_CMD p).addr v = some kind)
    (hp : p < 4) : stgCancel acc p v c = c.violate acc (STG_CMD p).addr kind true := by
  unfold stgCancel
  rw [if_neg (Nat.not_le.2 hp), Chip.write_of_violation h]

/-- Settles O11: each row is a write behind the checks of R48, and a record writes the three violation registers. -/
theorem violatingWriteIgnored : Obligations.ViolatingWriteIgnored := by
  intro s acc a v kind h
  have hr := s.chip.violate_regs acc a kind true
  refine ⟨fun page arriving hp ha => ?_, fun page hp ha => ?_, fun ha => ?_, fun p hp ha => ?_, fun x hc ha hi => ?_, ?_, hr.mem, hr.mram,
    hr.stg, hr.rdata⟩
  · subst ha
    exact answers rfl (evPendClear_of_violation h hp arriving)
  · subst ha
    exact answers rfl (evTypeWrite_of_violation h hp)
  · subst ha
    exact answers rfl (Chip.write_of_violation h _)
  · subst ha
    exact ⟨answers rfl (stgArm_of_violation h hp), answers rfl (stgCancel_of_violation h hp)⟩
  · exact s.chip.violate_word_other hc ha hi acc a kind true
  · exact s.chip.violate_count acc a kind true

end Sys2Proof.Machine
end

section
/-! PROOFS. The servo (R67): its registers read as it writes them, and it writes nothing outside the page of TIM. -/

namespace Sys2Proof.Machine

/-! ### Clamped values -/

theorem clampI_bounds {lo hi : Int} (h : lo ≤ hi) (x : Int) : lo ≤ clampI lo hi x ∧ clampI lo hi x ≤ hi := by
  unfold clampI
  split
  · exact ⟨le_rfl, h⟩
  · split <;> omega

/-- A signed field holds what its bits give. -/
theorem signed_bounds {w : Nat} (hw : 0 < w) (x : Nat) : -(2 ^ (w - 1)) ≤ signed w x ∧ signed w x < 2 ^ (w - 1) := by
  obtain ⟨n, rfl⟩ : ∃ n, w = n + 1 := ⟨w - 1, by omega⟩
  have hlt : x % 2 ^ (n + 1) < 2 ^ (n + 1) := Nat.mod_lt _ (Nat.two_pow_pos _)
  have hp : (2 ^ (n + 1) : Nat) = 2 * 2 ^ n := by ring
  rw [hp] at hlt
  generalize hy : x % 2 ^ (n + 1) = y at hlt
  rw [hp] at hy
  have hz : (2 : Int) ^ n = ((2 ^ n : Nat) : Int) := by push_cast; rfl
  simp only [signed, Nat.succ_ne_zero, if_false, Nat.add_sub_cancel, hp, hz, hy]
  have hpos : 0 < 2 ^ n := Nat.two_pow_pos n
  generalize 2 ^ n = m at *
  split <;> push_cast <;> omega

/-! ### The registers of the servo -/

theorem Chip.rd_putS_other {c : Chip} (f g : Fld) (v : Int) (hg : g.lo + g.w ≤ 32) (hd : f.disjoint g) : (c.putS f v).rd g = c.rd g :=
  Chip.rd_put_other f g _ hg hd

theorem Chip.rdS_putS_other {c : Chip} (f g : Fld) (v : Int) (hg : g.lo + g.w ≤ 32) (hd : f.disjoint g) : (c.putS f v).rdS g = c.rdS g :=
  Chip.rdS_put_other f g _ hg hd

theorem Chip.rdS_setFlag_other {c : Chip} (f g : Fld) (b : Bool) (hg : g.lo + g.w ≤ 32) (hd : f.disjoint g) :
    (c.setFlag f b).rdS g = c.rdS g :=
  Chip.rdS_put_other f g _ hg hd

@[simp] theorem Chip.setTim_word (c : Chip) (f : TimeUnit → TimeUnit) (a : Nat) : (c.setTim f).word a = c.word a := rfl
@[simp] theorem Chip.setTim_rdS (c : Chip) (f : TimeUnit → TimeUnit) (g : Fld) : (c.setTim f).rdS g = c.rdS g := rfl

/-- The integrator after a sample o. -/
def Chip.servoInteg (c : Chip) (o : Int) : Int :=
  clampI (-(42949672 * 2 ^ 24)) (42949672 * 2 ^ 24) (c.tim.integ - c.rd TIM_KI_ki * o)

/-- The rate that a sample o asks for. -/
def Chip.servoRate (c : Chip) (o : Int) : Int := -(trunc0 (c.rd TIM_KP_kp * o) 24) + trunc0 (c.servoInteg o) 24

/-- The gains are read behind the write of TIM_LAST_OFS, which holds neither. -/
theorem Chip.servo_eq (c : Chip) (o : Int) :
    c.servo o = (((c.putS TIM_LAST_OFS_ofs o).setTim fun t => { t with integ := c.servoInteg o }).showInteg).setRate (c.servoRate o) := by
  have hp : (c.putS TIM_LAST_OFS_ofs o).rd TIM_KP_kp = c.rd TIM_KP_kp := Chip.rd_putS_other _ _ _ (by decide) (.inl (by decide))
  have hi : (c.putS TIM_LAST_OFS_ofs o).rd TIM_KI_ki = c.rd TIM_KI_ki := Chip.rd_putS_other _ _ _ (by decide) (.inl (by decide))
  unfold Chip.servo Chip.servoRate Chip.servoInteg
  rw [← hp, ← hi]
  rfl

theorem Chip.setRate_rdS_adj (c : Chip) (x : Int) : (c.setRate x).rdS TIM_RATE_adj = clampI (-42949672) 42949672 x := by
  obtain ⟨lo, hi⟩ := clampI_bounds (lo := -42949672) (hi := 42949672) (by decide) x
  have hlo : -(2 ^ (TIM_RATE_adj.w - 1)) ≤ clampI (-42949672) 42949672 x := le_trans (by decide) lo
  have hhi : clampI (-42949672) 42949672 x < 2 ^ (TIM_RATE_adj.w - 1) := lt_of_le_of_lt hi (by decide)
  unfold Chip.setRate
  rw [Chip.rdS_setFlag_other _ _ _ (by decide) (.inl (by decide))]
  exact Chip.rdS_putS_same TIM_RATE_adj (by decide) (by decide) hlo hhi

theorem Chip.servo_rdS_last (c : Chip) {o : Int} (lo : -(2 ^ 31) ≤ o) (hi : o < 2 ^ 31) : (c.servo o).rdS TIM_LAST_OFS_ofs = o := by
  rw [Chip.servo_eq, Chip.setRate, Chip.rdS_setFlag_other _ _ _ (by decide) (.inl (by decide)),
    Chip.rdS_putS_other _ _ _ (by decide) (.inl (by decide)), Chip.showInteg, Chip.rdS_putS_other _ _ _ (by decide) (.inl (by decide)),
    Chip.setTim_rdS]
  exact Chip.rdS_putS_same TIM_LAST_OFS_ofs (by decide) (by decide) lo hi

/-- The servo writes four words, all in the page of TIM. -/
theorem Chip.servo_word_other (c : Chip) (o : Int) {a : Nat} (h : a < 0x40020000 ∨ 0x40021000 ≤ a) : (c.servo o).word a = c.word a := by
  have other : ∀ f : Fld, 0x40020000 ≤ f.addr → f.addr < 0x40021000 → a ≠ f.addr := by omega
  have last := other TIM_LAST_OFS_ofs (by decide) (by decide)
  have integ := other TIM_INTEG_i (by decide) (by decide)
  have rate := other TIM_RATE_adj (by decide) (by decide)
  have status := other (tst 7) (by decide) (by decide)
  rw [Chip.servo_eq, Chip.setRate, Chip.setFlag, Chip.word_put_other _ _ status, Chip.putS, Chip.word_put_other _ _ rate, Chip.showInteg,
    Chip.putS, Chip.word_put_other _ _ integ, Chip.setTim_word, Chip.putS, Chip.word_put_other _ _ last]

theorem Chip.servo_tim (c : Chip) (o : Int) : (c.servo o).tim = { c.tim with integ := c.servoInteg o } := by
  simp [Chip.servo_eq, Chip.setRate, Chip.showInteg, Chip.setTim]

theorem Chip.servo_stride (c : Chip) (o : Int) : (c.servo o).stride = c.stride := by
  simp [Chip.servo_eq, Chip.setRate, Chip.showInteg, Chip.setTim]

theorem Chip.servo_mem (c : Chip) (o : Int) : (c.servo o).mem = c.mem := by
  simp [Chip.servo_eq, Chip.setRate, Chip.showInteg, Chip.setTim]

/-- Settles O20: the integrator and the rate as the servo forms them, and the four registers that it writes. -/
theorem servoArithmetic : Obligations.ServoArithmetic := by
  intro s v
  obtain ⟨lo, hi⟩ := signed_bounds (w := 32) (by decide) v
  refine ⟨?_, ?_, s.chip.servo_rdS_last lo hi, fun a h => s.chip.servo_word_other _ h, Chip.servo_stride _ _, Chip.servo_mem _ _, ?_⟩
  · rw [Chip.servo_tim]
    rfl
  · rw [Chip.servo_eq, Chip.setRate_rdS_adj]
    rfl
  · rw [Chip.servo_tim]

end Sys2Proof.Machine
end

section
/-! PROOFS. The selector and the combined sample (R94–R96): what a Stride leaves of the element's selection, and that it touches no other
element. -/

namespace Sys2Proof.Machine

/-! ### The state of an element -/

/-- An element's state is one of the element states alone. -/
theorem Chip.elem_of_elements_eq {c d : Chip} (h : d.elements = c.elements) (m : Nat) : d.elem m = c.elem m := by
  unfold Chip.elem
  rw [h]

theorem Chip.modElem_elem_same (c : Chip) (n : Nat) (f : Element → Element) : (c.modElem n f).elem n = f (c.elem n) := Sparse.get_set_same

theorem Chip.modElem_elem_other {m n : Nat} (h : m ≠ n) (c : Chip) (f : Element → Element) : (c.modElem n f).elem m = c.elem m :=
  Sparse.get_set_other h

@[simp] theorem Chip.faultIs_elements (c : Chip) (level code unit : Nat) (b : Bool) : (c.faultIs level code unit b).elements = c.elements := by
  cases b <;> simp [Chip.faultIs]

/-! ### A Stride of an element -/

/-- The path used (high), the low state and the counter that the table of R94 gives element n. -/
def Chip.selection (c : Chip) (n : Nat) : Bool × Bool × Nat :=
  selectPath (c.elem n).low (c.elem n).count (c.pathUsable n 1) (c.pathUsable n 2) (c.delivered n 1)

/-- The combined sample of the path used (R95, R96). -/
def Chip.combinedSample (c : Chip) (n : Nat) : Int :=
  let raw := if (c.selection n).1 then combineHigh (c.delivered n 1) (c.rdS (SFE_OFFS_APPLIED_offs n)) (c.elem n).k else c.delivered n 2
  if c.pathFault n 0 || ((c.elem n).v.settling && (c.elem n).v.afterFault) then 0 else sat24 raw

theorem Chip.elementSamples_selection (c : Chip) (n : Nat) :
    let t := (c.elementSamples n).elem n
    t.low = (c.selection n).2.1 ∧ t.count = (c.selection n).2.2 ∧ t.usedHigh = some (c.selection n).1 ∧ t.i = c.combinedSample n := by
  unfold Chip.elementSamples
  dsimp only
  rw [Chip.modElem_elem_same]
  exact ⟨rfl, rfl, rfl, rfl⟩

@[simp] theorem Chip.showOverrange_elements (c : Chip) (n : Nat) (on : Bool) : (c.showOverrange n on).elements = c.elements := by
  simp [Chip.showOverrange]

theorem Chip.crossCheck_elem_other {m n : Nat} (h : m ≠ n) (c : Chip) (x l : Int) : (c.crossCheck n x l).elem m = c.elem m :=
  Chip.modElem_elem_other h c _

/-- The events, counters and faults of the element touch no element's state, and the cross-path check its own. -/
theorem Chip.elementSamples_elem_other {m n : Nat} (h : m ≠ n) (c : Chip) : (c.elementSamples n).elem m = c.elem m := by
  have cross : ∀ (p : Prop) [Decidable p] (d : Chip) (x l : Int), Chip.elem (if p then d.crossCheck n x l else d) m = d.elem m := by
    intro p _ d x l
    split
    · exact Chip.crossCheck_elem_other h d x l
    · rfl
  have seam : ∀ (p : Prop) [Decidable p] (k : Nat),
      Chip.elements (if p then (c.inc (SFE_SEAM_CNT_count n)).raiseEv (sfePage n) k else c) = c.elements := by
    intro p _ k
    split <;> simp
  have low : ∀ (p : Prop) [Decidable p] (d : Chip), Chip.elements (if p then d else d.inc (SFE_LOW_CNT_count n)) = d.elements := by
    intro p _ d
    split <;> simp
  unfold Chip.elementSamples
  dsimp only
  rw [Chip.modElem_elem_other h, Chip.elem_of_elements_eq (Chip.faultIs_elements ..), Chip.elem_of_elements_eq (Chip.faultIs_elements ..),
    cross]
  cases (c.elem n).usedHigh with
  | none => exact Chip.elem_of_elements_eq (by rw [Chip.showOverrange_elements, Chip.setFlag_elements, low]) m
  | some u => exact Chip.elem_of_elements_eq (by rw [Chip.showOverrange_elements, Chip.setFlag_elements, low, seam]) m

/-- Settles O23: the selection is that of the table, whose rows the clauses are. -/
theorem currentSelector : Obligations.CurrentSelector := by
  intro s n
  obtain ⟨hl, hc, hu, hi⟩ := s.chip.elementSamples_selection n
  dsimp only
  rw [hl, hc, hu, hi]
  unfold Chip.combinedSample Chip.selection selectPath
  refine ⟨fun m h => Chip.elementSamples_elem_other h _, fun ih => ?_, fun ih il => ?_, fun ih il low big => ?_, fun ih il low small => ?_,
    fun ih il low small => ?_, fun ih il low big => ?_⟩
  · simp [ih]
  · simp [ih, il]
  · simp [ih, il, low, big]
  · simp [ih, il, low, Nat.not_lt.2 small]
  · simp [ih, il, low, small]
  · simp [ih, il, low, Nat.not_lt.2 big]

end Sys2Proof.Machine
end

section
/-! PROOFS. The integer root and the apparent contribution (R126), the accumulators and their published values (R133, R134, R137), the duty
that a current limit admits (R245), and the sums of a join (R360). -/

namespace Sys2Proof.Machine

/-! ### The integer root -/

/-- The root search keeps r² ≤ x < (r + 2^k)², k being the bits still to try. -/
theorem isqrtGo_spec (x k r : Nat) (hlo : r * r ≤ x) (hhi : x < (r + 2 ^ k) * (r + 2 ^ k)) :
    isqrtGo x k r * isqrtGo x k r ≤ x ∧ x < (isqrtGo x k r + 1) * (isqrtGo x k r + 1) := by
  induction k generalizing r with
  | zero => exact ⟨hlo, hhi⟩
  | succ k ih =>
    have hk : r + 2 ^ (k + 1) = r + 2 ^ k + 2 ^ k := by omega
    unfold isqrtGo
    dsimp only
    split
    case isTrue h => exact ih _ h (hk ▸ hhi)
    case isFalse h => exact ih r hlo (Nat.lt_of_not_le h)

theorem isqrt_spec {x : Nat} (h : x < 2 ^ 256) : isqrt x * isqrt x ≤ x ∧ x < (isqrt x + 1) * (isqrt x + 1) :=
  isqrtGo_spec x 128 0 (Nat.zero_le x) (by omega)

/-- The quotient of the root is the floor: (r / n) · n ≤ r and r + 1 ≤ (r / n + 1) · n. -/
theorem isqrt_div_spec {x n : Nat} (h : x < 2 ^ 256) (hn : 0 < n) :
    (isqrt x / n * n) ^ 2 ≤ x ∧ x < ((isqrt x / n + 1) * n) ^ 2 := by
  obtain ⟨hlo, hhi⟩ := isqrt_spec h
  have hdown : isqrt x / n * n ≤ isqrt x := Nat.div_mul_le_self _ n
  have hup : isqrt x + 1 ≤ (isqrt x / n + 1) * n := Nat.lt_mul_of_div_lt (Nat.lt_succ_self _) hn
  rw [Nat.pow_two, Nat.pow_two]
  exact ⟨(Nat.mul_le_mul hdown hdown).trans hlo, hhi.trans_le (Nat.mul_le_mul hup hup)⟩

theorem squares_lt {a b : Nat} (ha : a < 2 ^ 58) (hb : b < 2 ^ 58) : a ^ 2 + b ^ 2 < 2 ^ 256 := by
  have ha2 : a ^ 2 ≤ (2 ^ 58) ^ 2 := Nat.pow_le_pow_left ha.le 2
  have hb2 : b ^ 2 ≤ (2 ^ 58) ^ 2 := Nat.pow_le_pow_left hb.le 2
  omega

/-- Settles O25: the squares stay within the root's range, and its quotient by n is the floor. -/
theorem apparentIsFloor : Obligations.ApparentIsFloor := by
  intro p sp sq n hn hsp hsq
  obtain ⟨hlo, hhi⟩ := isqrt_div_spec (squares_lt hsp hsq) hn
  have hsum : sp ^ 2 + sq ^ 2 = ((sp.natAbs ^ 2 + sq.natAbs ^ 2 : Nat) : Int) := by
    rw [Nat.cast_add, Nat.cast_pow, Nat.cast_pow, Int.natAbs_sq, Int.natAbs_sq]
  dsimp only [apparent]
  rw [if_neg Bool.false_ne_true, hsum]
  exact ⟨by exact_mod_cast hlo, by exact_mod_cast hhi⟩

/-! ### The accumulators -/

/-- An addition that leaves the meter unsaturated is exact, and the meter was unsaturated before. -/
theorem Meter.addAcc_of_unsaturated {x : Meter} {i : Nat} {v : Int} (h : (x.addAcc i v).saturated = false) :
    x.saturated = false ∧ ∀ j, (x.addAcc i v).accOf j = x.accOf j + if j = i then v else 0 := by
  obtain ⟨hx, hv⟩ := Bool.or_eq_false_iff.1 h
  refine ⟨hx, fun j => ?_⟩
  by_cases hj : j = i
  · subst hj
    rw [if_pos rfl]
    exact Sparse.get_set_same.trans (not_not.1 (of_decide_eq_false hv))
  · rw [if_neg hj, Int.add_zero]
    exact Sparse.get_set_other hj

/-- The total of quantity q less the sum of its eight tariff registers. -/
def Meter.totalGap (q : Nat) (y : Meter) : Int := y.accOf (9 * q) - sumI ((List.range 8).map fun k => y.accOf (9 * q + 1 + k))

theorem sumI_range_eight (f : Nat → Int) :
    sumI ((List.range 8).map f) = f 0 + f 1 + f 2 + f 3 + f 4 + f 5 + f 6 + f 7 := by
  simp [sumI, List.range_succ]

/-- A quantity's contribution goes to its total and to the one tariff register: no gap moves. -/
theorem Meter.addPair_totalGap {x : Meter} {r t : Nat} {v : Int} (q : Nat) (ht : 1 ≤ t) (ht8 : t ≤ 8)
    (h : ((x.addAcc (9 * r) v).addAcc (9 * r + t) v).saturated = false) :
    x.saturated = false ∧ ((x.addAcc (9 * r) v).addAcc (9 * r + t) v).totalGap q = x.totalGap q := by
  obtain ⟨hmid, hsnd⟩ := Meter.addAcc_of_unsaturated h
  obtain ⟨hx, hfst⟩ := Meter.addAcc_of_unsaturated hmid
  refine ⟨hx, ?_⟩
  have htotal : ((x.addAcc (9 * r) v).addAcc (9 * r + t) v).accOf (9 * q) = x.accOf (9 * q) + if q = r then v else 0 := by
    rw [hsnd, hfst, if_neg (c := 9 * q = 9 * r + t) (by omega), Int.add_zero]
    simp
  have hpart : ∀ k, k < 8 → ((x.addAcc (9 * r) v).addAcc (9 * r + t) v).accOf (9 * q + 1 + k) =
      x.accOf (9 * q + 1 + k) + if q = r ∧ k + 1 = t then v else 0 := fun k hk => by
    have hiff : 9 * q + 1 + k = 9 * r + t ↔ q = r ∧ k + 1 = t := by omega
    rw [hsnd, hfst, if_neg (c := 9 * q + 1 + k = 9 * r) (by omega), Int.add_zero]
    simp only [hiff]
  simp only [Meter.totalGap, sumI_range_eight, htotal, hpart, Nat.reduceLT]
  by_cases hq : q = r
  · subst hq
    interval_cases t <;> simp <;> ring
  · simp [hq]

/-- A fold of contributions that ends unsaturated keeps every gap. -/
theorem Meter.accumulateAll_totalGap {t : Nat} (q : Nat) (ht : 1 ≤ t) (ht8 : t ≤ 8) (l : List (Nat × Int)) (x : Meter)
    (hp : x.provisional = false) :
    let y := l.foldl (fun (x : Meter) k =>
      if x.provisional then x.addProv k.1 k.2 else (x.addAcc (9 * k.1) k.2).addAcc (9 * k.1 + t) k.2) x
    y.saturated = false → x.saturated = false ∧ y.totalGap q = x.totalGap q := by
  induction l generalizing x with
  | nil => exact fun h => ⟨h, rfl⟩
  | cons k l ih =>
    intro y hy
    dsimp only [y] at hy ⊢
    rw [List.foldl_cons, if_neg (by simp [hp])] at hy ⊢
    obtain ⟨hs, hg⟩ := ih ((x.addAcc (9 * k.1) k.2).addAcc (9 * k.1 + t) k.2) hp hy
    obtain ⟨hx, hk⟩ := Meter.addPair_totalGap q ht ht8 hs
    exact ⟨hx, hg.trans hk⟩

/-- Settles O26: each contribution of the Stride keeps the gap. -/
theorem totalIsSumOfTariffs : Obligations.TotalIsSumOfTariffs := by
  intro x t q ht ht8 _ hp _ hs
  exact (Meter.accumulateAll_totalGap q ht ht8 x.contributions x hp hs).2

/-! ### The published registers -/

/-- The exact value of the total is the sum of the exact values of its tariff registers. -/
theorem Meter.exact_total {x : Meter} {q : Nat}
    (hacc : x.accOf (9 * q) = sumI ((List.range 8).map fun k => x.accOf (9 * q + 1 + k)))
    (hbase : x.baseOf (9 * q) = sumI ((List.range 8).map fun k => x.baseOf (9 * q + 1 + k))) :
    x.exact (9 * q) = sumI ((List.range 8).map fun k => x.exact (9 * q + 1 + k)) := by
  simp only [sumI_range_eight] at hacc hbase ⊢
  unfold Meter.exact
  rw [hacc, hbase]
  ring

theorem Meter.published_of_lt {x : Meter} {j : Nat} (h : x.exact j < 2 ^ 136) : x.published j = (x.exact j).toNat / 2 ^ 72 := by
  unfold Meter.published
  omega

/-- The floor of a sum is at least the sum of the floors and exceeds it by less than one for each term. -/
theorem sum_div_bounds {m : Nat} (hm : 0 < m) (l : List Nat) :
    (l.map (· / m)).sum ≤ l.sum / m ∧ l.sum / m ≤ (l.map (· / m)).sum + l.length := by
  induction l with
  | nil => simp
  | cons a l ih =>
    obtain ⟨hlo, hhi⟩ := ih
    have hdown : a / m + l.sum / m ≤ (a + l.sum) / m := Nat.div_add_div_le_add_div
    have hup : (a + l.sum) / m ≤ a / m + l.sum / m + 1 := by
      rw [Nat.add_div hm]
      split <;> omega
    rw [List.map_cons, List.sum_cons, List.sum_cons, List.length_cons]
    omega

/-- Where no part is negative, the exact total is the sum of the parts as a number, and each part is at most the total. -/
theorem Meter.exact_total_toNat {x : Meter} {q : Nat}
    (h : x.exact (9 * q) = sumI ((List.range 8).map fun k => x.exact (9 * q + 1 + k)))
    (hpos : ∀ k, k < 8 → 0 ≤ x.exact (9 * q + 1 + k)) :
    (x.exact (9 * q)).toNat = ((List.range 8).map fun k => (x.exact (9 * q + 1 + k)).toNat).sum ∧
      ∀ k, k < 8 → x.exact (9 * q + 1 + k) ≤ x.exact (9 * q) := by
  have hall : 0 ≤ x.exact (9 * q + 1 + 0) ∧ 0 ≤ x.exact (9 * q + 1 + 1) ∧ 0 ≤ x.exact (9 * q + 1 + 2) ∧
      0 ≤ x.exact (9 * q + 1 + 3) ∧ 0 ≤ x.exact (9 * q + 1 + 4) ∧ 0 ≤ x.exact (9 * q + 1 + 5) ∧
      0 ≤ x.exact (9 * q + 1 + 6) ∧ 0 ≤ x.exact (9 * q + 1 + 7) := by
    simp only [hpos, Nat.reduceLT, and_self]
  rw [sumI_range_eight] at h
  refine ⟨?_, fun k hk => ?_⟩
  · simp only [List.range, List.range.loop, List.map_cons, List.map_nil, List.sum_cons, List.sum_nil]
    omega
  · interval_cases k <;> omega

/-- Settles O27: the published values are the floors of the exact ones, which add up. -/
theorem publishedTotal : Obligations.PublishedTotal := by
  intro x q hacc hbase hpos hlt parts
  obtain ⟨hsum, hle⟩ := Meter.exact_total_toNat (Meter.exact_total hacc hbase) hpos
  have hparts : parts = (((List.range 8).map fun k => (x.exact (9 * q + 1 + k)).toNat).map (· / 2 ^ 72)).sum := by
    rw [List.map_map]
    refine congrArg List.sum (List.map_congr_left fun k hk => ?_)
    exact Meter.published_of_lt ((hle k (List.mem_range.1 hk)).trans_lt hlt)
  obtain ⟨hlo, hhi⟩ := sum_div_bounds (m := 2 ^ 72) (by decide) ((List.range 8).map fun k => (x.exact (9 * q + 1 + k)).toNat)
  rw [hparts, Meter.published_of_lt hlt, hsum]
  exact ⟨hlo, hhi.trans_eq (by rw [List.length_map, List.length_range])⟩

/-! ### The duty under a current limit -/

/-- Settles O36: above 1700 the limit of the upper formula binds, and otherwise that of the lower one. -/
theorem dutyClamp : Obligations.DutyClamp := by
  intro d l hlo hhi fits
  have hfits : ∀ x, fits x ↔ 200 ≤ x ∧ x ≤ d ∧ if x ≤ 1700 then 3 * x ≤ 10 * l else 10 * x ≤ 8 * l + 12800 := fun _ => Iff.rfl
  have hdef : dutyFit d l =
      if 1700 < min d ((8 * l + 12800) / 10) then min d ((8 * l + 12800) / 10)
      else if 200 ≤ min d (min 1700 (10 * l / 3)) then min d (min 1700 (10 * l / 3)) else 2000 := rfl
  simp only [hfits, hdef]
  refine ⟨fun ⟨x, hx, hxd, hxl⟩ => ⟨?_, fun y ⟨hy, hyd, hyl⟩ => ?_⟩, fun hnone => ?_⟩
  · split_ifs at hxl ⊢ <;> omega
  · split_ifs at hyl ⊢ <;> omega
  · have hhigh : ¬ 1700 < min d ((8 * l + 12800) / 10) := fun h =>
      hnone ⟨min d ((8 * l + 12800) / 10), by omega, by omega, by rw [if_neg (by omega)]; omega⟩
    have hlow : ¬ 200 ≤ min d (min 1700 (10 * l / 3)) := fun h =>
      hnone ⟨min d (min 1700 (10 * l / 3)), h, by omega, by rw [if_pos (by omega)]; omega⟩
    rw [if_neg hhigh, if_neg hlow]

/-! ### The sums of a join -/

/-- A number is in the list after the insertion of k when it is k or was there. -/
theorem mem_insertSorted {l : List Nat} {j k : Nat} : j ∈ insertSorted l k ↔ j = k ∨ j ∈ l := by
  induction l with
  | nil => simp [insertSorted]
  | cons i l ih =>
    unfold insertSorted
    split
    · simp
    · split
      case isTrue h => simp [h]
      case isFalse => simp only [List.mem_cons, ih]; tauto

theorem mem_foldl_insertSorted {l acc : List Nat} {j : Nat} : j ∈ l.foldl insertSorted acc ↔ j ∈ acc ∨ j ∈ l := by
  induction l generalizing acc with
  | nil => simp
  | cons i l ih =>
    rw [List.foldl_cons, ih, mem_insertSorted, List.mem_cons]
    tauto

/-- A key that a map does not list reads as the default. -/
theorem Sparse.get_of_notMem {α : Type} {dflt : Nat → α} {m : Sparse α} {k : Nat} (h : k ∉ m.map Prod.fst) :
    Sparse.get dflt m k = dflt k := by
  have hf : Sparse.find m k = none := by
    induction m with
    | nil => rfl
    | cons p m ih =>
      obtain ⟨hp, hm⟩ := not_or.1 (mt List.mem_cons.2 h)
      exact (if_neg hp).trans (ih hm)
  unfold Sparse.get
  rw [hf]
  rfl

/-- Writing a function's values at the listed keys: a listed key reads the function, any other what it read before. -/
theorem Sparse.get_foldl_set {α : Type} [DecidableEq α] {dflt : Nat → α} (f : Nat → α) (l : List Nat) (m : Sparse α) (k : Nat) :
    Sparse.get dflt (l.foldl (fun (m : Sparse α) j => Sparse.set dflt m j (f j)) m) k =
      if k ∈ l then f k else Sparse.get dflt m k := by
  induction l generalizing m with
  | nil => rfl
  | cons i l ih =>
    rw [List.foldl_cons, ih]
    by_cases hl : k ∈ l
    · rw [if_pos hl, if_pos (List.mem_cons_of_mem i hl)]
    · by_cases hi : k = i
      · subst hi
        rw [if_neg hl, if_pos List.mem_cons_self, Sparse.get_set_same]
      · rw [if_neg hl, if_neg (by simp [hi, hl]), Sparse.get_set_other hi]

/-- In each key: own − own mark + Near's mark. -/
theorem addMarks_get (own mark near : Sparse Int) (k : Nat) :
    Sparse.get (fun _ => 0) (addMarks own mark near) k =
      Sparse.get (fun _ => 0) own k - Sparse.get (fun _ => 0) mark k + Sparse.get (fun _ => 0) near k := by
  unfold addMarks
  dsimp only
  rw [Sparse.get_foldl_set fun k => Sparse.get (fun _ => 0) own k - Sparse.get (fun _ => 0) mark k + Sparse.get (fun _ => 0) near k]
  split
  case isTrue => rfl
  case isFalse h =>
    simp only [mem_foldl_insertSorted, List.not_mem_nil, false_or, List.map_append, List.mem_append, not_or] at h
    obtain ⟨⟨hown, hmark⟩, hnear⟩ := h
    rw [Sparse.get_of_notMem hown, Sparse.get_of_notMem hmark, Sparse.get_of_notMem hnear]
    rfl

/-- Settles O50: the sum in each key, and equal growth cancels. -/
theorem joinIsExact : Obligations.JoinIsExact := by
  refine ⟨addMarks_get, fun mark near d => ?_⟩
  unfold addMark
  omega

end Sys2Proof.Machine
end

section
/-! PROOFS. Registers behind an event: an event writes EV_PEND of its page and registers of the event controller, and no other register
(R46, R456, R458). -/

namespace Sys2Proof.Machine

/-! ### What a fold of operations keeps -/

/-- A fold keeps what each of its operations keeps. -/
theorem foldl_keeps {α β γ : Type} (g : α → γ) {f : α → β → α} {l : List β} (h : ∀ b ∈ l, ∀ x, g (f x b) = g x) (x : α) :
    g (l.foldl f x) = g x := by
  induction l generalizing x with
  | nil => rfl
  | cons b l ih => exact (ih (fun d hd => h d (List.mem_cons_of_mem b hd)) (f x b)).trans (h b List.mem_cons_self x)

theorem forN_keeps {α γ : Type} (g : α → γ) {n : Nat} {f : Nat → α → α} (h : ∀ k < n, ∀ x, g (f k x) = g x) (x : α) :
    g (forN n f x) = g x :=
  foldl_keeps g (fun k hk => h k (List.mem_range.1 hk)) x

/-- A choice keeps what both of its sides keep. -/
theorem ite_keeps {α γ : Type} (g : α → γ) {p : Prop} [Decidable p] {x y : α} {z : γ} (hx : p → g x = z) (hy : ¬ p → g y = z) :
    g (if p then x else y) = z := by
  split
  case isTrue h => exact hx h
  case isFalse h => exact hy h

/-! ### Fields of a register that stands -/

theorem Chip.rd_of_word {c d : Chip} {f : Fld} (h : d.word f.addr = c.word f.addr) : d.rd f = c.rd f := by
  unfold Chip.rd
  rw [h]

theorem Chip.flag_of_word {c d : Chip} {f : Fld} (h : d.word f.addr = c.word f.addr) : d.flag f = c.flag f := by
  unfold Chip.flag
  rw [Chip.rd_of_word h]

theorem Chip.rd_lt (c : Chip) (f : Fld) : c.rd f < 2 ^ f.w := BitVec.isLt _

theorem Chip.word_setFlag_other {c : Chip} (f : Fld) (b : Bool) {a : Nat} (h : a ≠ f.addr) : (c.setFlag f b).word a = c.word a :=
  Chip.word_put_other f _ h

theorem Chip.flag_put_other {c : Chip} (f g : Fld) (v : Nat) (hg : g.lo + g.w ≤ 32) (hd : f.disjoint g) : (c.put f v).flag g = c.flag g := by
  unfold Chip.flag
  rw [Chip.rd_put_other f g v hg hd]

theorem Chip.flag_setFlag_other {c : Chip} (f g : Fld) (b : Bool) (hg : g.lo + g.w ≤ 32) (hd : f.disjoint g) :
    (c.setFlag f b).flag g = c.flag g :=
  Chip.flag_put_other f g _ hg hd

theorem Chip.rd_setFlag_other {c : Chip} (f g : Fld) (b : Bool) (hg : g.lo + g.w ≤ 32) (hd : f.disjoint g) :
    (c.setFlag f b).rd g = c.rd g :=
  Chip.rd_put_other f g _ hg hd

/-! ### Registers outside the event controller -/

/-- The register stands outside the page of the event controller. -/
def OutsideEvc (a : Nat) : Prop := a < 0x40010000 ∨ 0x40011000 ≤ a

theorem Chip.effective_lt {c : Chip} {id f : Nat} (h : c.effective id = some f) : f < 8 := by
  have htgt : c.rd (srcTarget id) < 8 := c.rd_lt _
  have hfb : c.rd (EVC_TCFG_fallback (c.rd (srcTarget id))) < 8 := c.rd_lt _
  unfold Chip.effective at h
  dsimp only at h
  split at h
  · cases h; exact htgt
  · split at h
    · cases h
    · split at h
      · cases h; exact hfb
      · cases h

/-- A redirection that begins is one of a shared source to a target. -/
theorem Chip.mem_redirectedNow_bounds {c : Chip} {r : Nat × Nat} (h : r ∈ c.redirectedNow) : r.1 < 1056 ∧ r.2 < 8 := by
  unfold Chip.redirectedNow at h
  obtain ⟨k, hk, hr⟩ := List.mem_filterMap.1 h
  dsimp only at hr
  split at hr
  · cases hr
  · obtain ⟨f, hf, rfl⟩ := Option.map_eq_some_iff.1 hr
    have := List.mem_range.1 hk
    exact ⟨by omega, Chip.effective_lt hf⟩

theorem Chip.mem_new_redirection {c : Chip} {r : Nat × Nat} (h : r ∈ c.redirected.filter fun r => !c.evc.redirections.contains r) :
    r ∈ c.redirectedNow := by
  obtain ⟨hr, hn⟩ := List.mem_filter.1 h
  unfold Chip.redirected at hr
  rcases List.mem_append.1 hr with hnow | hold
  · split at hnow
    · cases hnow
    · exact hnow
  · exact absurd (List.mem_filter.1 hold).1 (by simpa using hn)

section

variable {a : Nat} (ha : OutsideEvc a)
include ha

theorem OutsideEvc.ne_of_evc {f : Fld} (lo : 0x40010000 ≤ f.addr) (hi : f.addr < 0x40011000) : a ≠ f.addr := by
  unfold OutsideEvc at ha
  omega

theorem Chip.wakeCores_word (c : Chip) : c.wakeCores.word a = c.word a :=
  forN_keeps (fun d : Chip => d.word a) (fun t ht d => ite_keeps (fun d : Chip => d.word a)
    (fun _ => Chip.word_setFlag_other _ _ (ha.ne_of_evc (by simp only [EVC_TSTAT_wfi]; omega) (by simp only [EVC_TSTAT_wfi]; omega)))
    (fun _ => rfl)) c

theorem Chip.firePrivate_word (c : Chip) {t : Nat} (ht : t < 8) (k : Nat) : (c.firePrivate t k).word a = c.word a :=
  (Chip.wakeCores_word ha _).trans (Chip.word_setFlag_other _ _
    (ha.ne_of_evc (by simp only [Fld.bitOf, EVC_PRIV_PEND]; omega) (by simp only [Fld.bitOf, EVC_PRIV_PEND]; omega)))

omit ha in
theorem Chip.edgeEv_word (c : Chip) {page k : Nat} (h : a ≠ page + 0x018) : (c.edgeEv page k).word a = c.word a :=
  ite_keeps (fun d : Chip => d.word a) (fun _ => Chip.word_setFlag_other _ _ h) (fun _ => rfl)

theorem Chip.settleRedirection_word (c : Chip) : c.settleRedirection.word a = c.word a := by
  have ht : ∀ t < 8, a ≠ (EVC_TSTAT_redir_in t).addr := fun t ht =>
    ha.ne_of_evc (by simp only [EVC_TSTAT_redir_in]; omega) (by simp only [EVC_TSTAT_redir_in]; omega)
  unfold Chip.settleRedirection
  refine ite_keeps (fun d : Chip => d.word a) (fun _ => rfl) fun _ => ?_
  have evc : ∀ (d : Chip) (e : Events), ({ d with evc := e } : Chip).word a = d.word a := fun _ _ => rfl
  refine ((evc _ _).trans (forN_keeps (fun d : Chip => d.word a) (fun t h d => Chip.word_setFlag_other _ _ (ht t h)) _)).trans ?_
  refine foldl_keeps (fun d : Chip => d.word a) (fun r hr d => ?_) c
  obtain ⟨hsrc, htgt⟩ := Chip.mem_redirectedNow_bounds (Chip.mem_new_redirection hr)
  have hbegin : ((d.setFlag (srcRedir r.1) true).edgeEv 0x40010000 1).word a = d.word a :=
    (Chip.edgeEv_word _ (ha.ne_of_evc (f := ⟨0x40010018, 0, 1⟩) (by decide) (by decide))).trans
      (Chip.word_setFlag_other _ _ (ha.ne_of_evc (by simp only [srcRedir]; omega) (by simp only [srcRedir]; omega)))
  exact ite_keeps (fun d : Chip => d.word a) (fun _ => hbegin)
    (fun _ => (Chip.word_setFlag_other _ _ (ht _ htgt)).trans ((Chip.firePrivate_word ha _ htgt 14).trans hbegin))

theorem Chip.settleEvents_word (c : Chip) : c.settleEvents.word a = c.word a :=
  (Chip.wakeCores_word ha _).trans (Chip.settleRedirection_word ha c)

/-- An event writes EV_PEND of its page, and registers of the event controller. -/
theorem Chip.raiseEv_word (c : Chip) {page k : Nat} (h : a ≠ page + 0x018) : (c.raiseEv page k).word a = c.word a :=
  (Chip.settleEvents_word ha _).trans (Chip.edgeEv_word c h)

/-- A condition that changes writes EV_RAW and EV_PEND of its page, and registers of the event controller. -/
theorem Chip.setRaw_word (c : Chip) {page k : Nat} (b : Bool) (hr : a ≠ page + 0x010) (hp : a ≠ page + 0x018) :
    (c.setRaw page k b).word a = c.word a := by
  have hraw : (c.setFlag (evRaw page k) b).word a = c.word a := Chip.word_setFlag_other _ _ hr
  exact ite_keeps (fun d : Chip => d.word a) (fun _ => (Chip.raiseEv_word ha _ hp).trans hraw)
    fun _ => ite_keeps (fun d : Chip => d.word a) (fun _ => hraw) (fun _ => (Chip.settleEvents_word ha _).trans hraw)

end

@[simp] theorem Chip.setFault_word (c : Chip) (level code unit a : Nat) : (c.setFault level code unit).word a = c.word a :=
  ite_keeps (fun d : Chip => d.word a) (fun _ => rfl) (fun _ => rfl)

@[simp] theorem Chip.clearFault_word (c : Chip) (level code unit a : Nat) : (c.clearFault level code unit).word a = c.word a := rfl

@[simp] theorem Chip.faultIs_word (c : Chip) (level code unit : Nat) (b : Bool) (a : Nat) : (c.faultIs level code unit b).word a = c.word a :=
  ite_keeps (fun d : Chip => d.word a) (fun _ => c.setFault_word level code unit a) (fun _ => rfl)

end Sys2Proof.Machine
end

section
/-! PROOFS. Power quality: what one detector does over one window (R174–R176), and the evaluation of the windows of a Stride with the order
of its records (R175, R183). -/

namespace Sys2Proof.Machine

/-! ### The open events of an element -/

@[simp] theorem Quality.setEvent_event_same (q : Quality) (k : Nat) (e : Option OpenEvent) : (q.setEvent k e).event k = e := by
  unfold Quality.setEvent Quality.event
  split
  · rfl
  · split <;> rfl

theorem Quality.setEvent_event_other {j k : Nat} (hj : 1 ≤ j) (hj3 : j ≤ 3) (hk : 1 ≤ k) (hk3 : k ≤ 3) (h : j ≠ k) (q : Quality)
    (e : Option OpenEvent) : (q.setEvent k e).event j = q.event j := by
  interval_cases k <;> interval_cases j <;> simp_all [Quality.setEvent, Quality.event]

theorem Chip.modPq_pq_same (c : Chip) (n : Nat) (f : Quality → Quality) : ((c.modPq n f).elem n).pq = f (c.elem n).pq :=
  congrArg Element.pq (c.modElem_elem_same n _)

theorem Chip.modPq_elem_other {m n : Nat} (h : m ≠ n) (c : Chip) (f : Quality → Quality) : (c.modPq n f).elem m = c.elem m :=
  c.modElem_elem_other h _

/-- The power-quality state after an event of kind k has closed, with its count. -/
def Quality.closed (k : Nat) (q : Quality) : Quality :=
  let q := q.setEvent k none
  if k = 1 then { q with sags := (q.sags + 1) % 65536 }
  else if k = 2 then { q with swells := (q.swells + 1) % 65536 }
  else { q with intrs := (q.intrs + 1) % 65536 }

/-- The counts are no events. -/
theorem Quality.closed_event (k j : Nat) (q : Quality) : (q.closed k).event j = (q.setEvent k none).event j := by
  unfold Quality.closed
  dsimp only
  split
  · rfl
  · split <;> rfl

/-! ### What a window does to the state of its element -/

/-- The event that a window opens. -/
def DipWindow.opened (w : DipWindow) (u : Nat) : OpenEvent :=
  { start := w.start, lc := w.lc, clock := w.clock, extreme := u, invalid := w.invalid }

/-- The event over one more window of kind k. -/
def Chip.heldDip (c : Chip) (k u : Nat) (w : DipWindow) (e : OpenEvent) : OpenEvent :=
  { c.touch w.start e with extreme := dipExtreme k e.extreme u }

theorem Chip.noteDip_elements (c : Chip) (r : DipRecord) : (c.noteDip r).elements = c.elements := rfl

/-- Closing an event touches the elements only in the state of its own. -/
theorem Chip.closeDip_elements {c : Chip} {n k : Nat} {e : OpenEvent} (h : (c.elem n).pq.event k = some e) (flags stop : Nat) :
    (c.closeDip n k flags stop).elements = (c.modPq n (Quality.closed k)).elements := by
  unfold Chip.closeDip
  rw [h]
  extract_lets c1 c2 fold c3
  have h3 : c3.elements = (c.modPq n (Quality.closed k)).elements :=
    (Chip.setRaw_elements _ _ _ _).trans (Chip.raiseEv_elements _ _ _)
  exact ite_keeps Chip.elements (fun _ => h3) (fun _ => h3)

section

variable {c : Chip} {n k u : Nat} {w : DipWindow}

theorem Chip.detect_of_none (h : (c.elem n).pq.event k = none) :
    (c.detect n k u w).elements =
      if dipStarts k (c.dipLevels n k).1 (c.rd (PQM_UDIN_udin n)) u = true then
        (c.modPq n fun q => q.setEvent k (some (w.opened u))).elements
      else c.elements := by
  unfold Chip.detect
  rw [h]
  dsimp only
  split
  · exact (Chip.setRaw_elements _ _ _ _).trans (Chip.raiseEv_elements _ _ _)
  · rfl

theorem Chip.detect_of_some {e : OpenEvent} (h : (c.elem n).pq.event k = some e) :
    (c.detect n k u w).elements =
      if dipEnds k (c.dipLevels n k).1 (c.dipLevels n k).2 (c.rd (PQM_UDIN_udin n)) u = true then
        (c.modPq n (Quality.closed k)).elements
      else (c.modPq n fun q => q.setEvent k (some (c.heldDip k u w e))).elements := by
  unfold Chip.detect
  rw [h]
  dsimp only
  split
  · exact Chip.closeDip_elements h 0 w.start
  · rfl

end

/-- A window leaves the elements as they are, or sets or closes the event of its own kind in its own element. -/
theorem Chip.detect_elements (c : Chip) (n k u : Nat) (w : DipWindow) :
    (c.detect n k u w).elements = c.elements ∨ (c.detect n k u w).elements = (c.modPq n (Quality.closed k)).elements ∨
      ∃ e, (c.detect n k u w).elements = (c.modPq n fun q => q.setEvent k e).elements := by
  cases h : (c.elem n).pq.event k with
  | none =>
    rw [Chip.detect_of_none h]
    split
    · exact .inr (.inr ⟨_, rfl⟩)
    · exact .inl rfl
  | some e =>
    rw [Chip.detect_of_some h]
    split
    · exact .inr (.inl rfl)
    · exact .inr (.inr ⟨_, rfl⟩)

theorem Chip.detect_elem_other {m n : Nat} (h : m ≠ n) (c : Chip) (k u : Nat) (w : DipWindow) : (c.detect n k u w).elem m = c.elem m := by
  rcases c.detect_elements n k u w with he | he | ⟨e, he⟩
  · exact Chip.elem_of_elements_eq he m
  · exact (Chip.elem_of_elements_eq he m).trans (c.modPq_elem_other h _)
  · exact (Chip.elem_of_elements_eq he m).trans (c.modPq_elem_other h _)

theorem Chip.detect_event_other {j k : Nat} (hj : 1 ≤ j) (hj3 : j ≤ 3) (hk : 1 ≤ k) (hk3 : k ≤ 3) (h : j ≠ k) (c : Chip) (n u : Nat)
    (w : DipWindow) : ((c.detect n k u w).elem n).pq.event j = (c.elem n).pq.event j := by
  rcases c.detect_elements n k u w with he | he | ⟨e, he⟩
  · rw [Chip.elem_of_elements_eq he]
  · rw [Chip.elem_of_elements_eq he, Chip.modPq_pq_same, Quality.closed_event, Quality.setEvent_event_other hj hj3 hk hk3 h]
  · rw [Chip.elem_of_elements_eq he, Chip.modPq_pq_same, Quality.setEvent_event_other hj hj3 hk hk3 h]

/-! ### The conditions of a detector -/

theorem dipStarts_iff (k start udin u : Nat) :
    dipStarts k start udin u = true ↔ if k = 2 then start * udin < u * 10000 else u * 10000 < start * udin := by
  unfold dipStarts
  split <;> exact decide_eq_true_iff

theorem dipEnds_iff (k start hyst udin u : Nat) :
    dipEnds k start hyst udin u = true ↔
      if k = 2 then start < hyst ∨ u * 10000 ≤ (start - hyst) * udin else (start + hyst) * udin ≤ u * 10000 := by
  unfold dipEnds
  split
  · rw [Bool.or_eq_true, decide_eq_true_iff, decide_eq_true_iff]
  · exact decide_eq_true_iff

/-- Settles O30: idle and open, a window does to its own event what its condition says, and to no other. -/
theorem detectorRules : Obligations.DetectorRules := by
  intro c n k u w hk hk3 q r start hyst udin starts ends
  have hstarts : dipStarts k start udin u = true ↔ starts := dipStarts_iff k start udin u
  have hends : dipEnds k start hyst udin u = true ↔ ends := dipEnds_iff k start hyst udin u
  refine ⟨fun hq hs => ?_, fun hq hs => ?_, fun e hq => ⟨fun he => ?_, fun he => ?_⟩,
    fun j hj hj3 hne => c.detect_event_other hj hj3 hk hk3 hne n u w, fun m hm => c.detect_elem_other hm k u w⟩
  · have hel := (Chip.detect_of_none (u := u) (w := w) hq).trans (if_pos (hstarts.2 hs))
    exact (congrArg (fun x : Element => x.pq.event k) (Chip.elem_of_elements_eq hel n)).trans
      ((congrArg (Quality.event · k) (c.modPq_pq_same n _)).trans (Quality.setEvent_event_same _ k _))
  · have hel := (Chip.detect_of_none (u := u) (w := w) hq).trans (if_neg (mt hstarts.1 hs))
    exact (congrArg (fun x : Element => x.pq.event k) (Chip.elem_of_elements_eq hel n)).trans hq
  · have hel := (Chip.detect_of_some (u := u) (w := w) hq).trans (if_pos (hends.2 he))
    exact (congrArg (fun x : Element => x.pq.event k) (Chip.elem_of_elements_eq hel n)).trans
      ((congrArg (Quality.event · k) (c.modPq_pq_same n _)).trans
        ((Quality.closed_event k k _).trans (Quality.setEvent_event_same _ k _)))
  · have hel := (Chip.detect_of_some (u := u) (w := w) hq).trans (if_neg (mt hends.1 he))
    exact (congrArg (fun x : Element => x.pq.event k) (Chip.elem_of_elements_eq hel n)).trans
      ((congrArg (Quality.event · k) (c.modPq_pq_same n _)).trans (Quality.setEvent_event_same _ k _))

/-! ### The order of the records -/

theorem placeDip_perm (r : DipRecord) (l : List DipRecord) : (placeDip r l).Perm (r :: l) := by
  induction l with
  | nil => exact .refl _
  | cons x l ih =>
    unfold placeDip
    split
    · exact .refl _
    · exact (ih.cons x).trans (.swap r x l)

theorem placeDip_sorted {l : List DipRecord} (h : l.Pairwise fun a b => a.rank ≤ b.rank) (r : DipRecord) :
    (placeDip r l).Pairwise fun a b => a.rank ≤ b.rank := by
  induction l with
  | nil => exact List.pairwise_singleton _ r
  | cons x l ih =>
    obtain ⟨hx, hl⟩ := List.pairwise_cons.1 h
    unfold placeDip
    split
    case isTrue hlt =>
      refine List.pairwise_cons.2 ⟨fun y hy => ?_, h⟩
      rcases List.mem_cons.1 hy with rfl | hy
      · exact hlt.le
      · exact hlt.le.trans (hx y hy)
    case isFalse hge =>
      refine List.pairwise_cons.2 ⟨fun y hy => ?_, ih hl⟩
      rcases List.mem_cons.1 ((placeDip_perm r l).mem_iff.1 hy) with rfl | hy
      · exact Nat.le_of_not_lt hge
      · exact hx y hy

theorem placeDips_order (l acc : List DipRecord) (h : acc.Pairwise fun a b => a.rank ≤ b.rank) :
    (l.foldl (fun (l : List DipRecord) r => placeDip r l) acc).Perm (acc ++ l) ∧
      (l.foldl (fun (l : List DipRecord) r => placeDip r l) acc).Pairwise fun a b => a.rank ≤ b.rank := by
  induction l generalizing acc with
  | nil => exact ⟨by rw [List.append_nil]; exact .refl _, h⟩
  | cons r l ih =>
    obtain ⟨hp, hs⟩ := ih (placeDip r acc) (placeDip_sorted h r)
    exact ⟨hp.trans (((placeDip_perm r acc).append_right l).trans List.perm_middle.symm), hs⟩

/-! ### The windows of a Stride -/

theorem Chip.evalWindow_of_none {c : Chip} {n : Nat} (h : (c.elem n).pq.done = none) : c.evalWindow n = c := by
  unfold Chip.evalWindow
  rw [h]

/-- The element evaluates its window: detection on, a declared voltage, not suspended (R177). -/
def Chip.Fit (c : Chip) (n : Nat) : Prop :=
  c.flag (PQM_CFG_en n) = true ∧ c.rd (PQM_UDIN_udin n) ≠ 0 ∧ (c.elem n).pq.suspended = false

theorem Chip.not_fit_iff (c : Chip) (n : Nat) :
    (¬ c.flag (PQM_CFG_en n) = true ∨ c.rd (PQM_UDIN_udin n) = 0 ∨ (c.elem n).pq.suspended = true) ↔ ¬ c.Fit n := by
  unfold Chip.Fit
  rw [← Bool.not_eq_true]
  tauto

/-- The window is taken. -/
def Chip.takeWindow (c : Chip) (n : Nat) : Chip := c.modPq n fun q => { q with done := none }

theorem Chip.evalWindow_of_unfit {c : Chip} {n : Nat} {w : DipWindow} (h : (c.elem n).pq.done = some w) (hf : ¬ (c.takeWindow n).Fit n) :
    c.evalWindow n = c.takeWindow n := by
  unfold Chip.evalWindow
  rw [h]
  exact if_pos (((c.takeWindow n).not_fit_iff n).2 hf)

theorem Chip.evalWindow_of_fit {c : Chip} {n : Nat} {w : DipWindow} (h : (c.elem n).pq.done = some w) (hf : (c.takeWindow n).Fit n) :
    let u : Int := if c.flag (SFE_ASSIGN_kind n) then rhe w.sum 3 else (isqrt (w.sum.toNat / w.len) : Nat)
    let y := (c.takeWindow n).modPq n fun q => { q with lastU := u, lastLen := w.len }
    c.evalWindow n = ((y.detect n 1 u.natAbs w).detect n 2 u.natAbs w).detect n 3 u.natAbs w := by
  unfold Chip.evalWindow
  rw [h]
  exact if_neg fun hn => ((c.takeWindow n).not_fit_iff n).1 hn hf

/-- Settles O29: the records are placed one by one in their order, and an element's window meets the conditions of R177 or not. -/
theorem windowEvaluation : Obligations.WindowEvaluation :=
  ⟨fun _ => answers rfl rfl, fun l => placeDips_order l [] .nil, fun _ _ => Chip.evalWindow_of_none,
    fun _ _ _ h => ⟨Chip.evalWindow_of_unfit h, Chip.evalWindow_of_fit h⟩⟩

end Sys2Proof.Machine
end

section
/-! PROOFS. The evaluation of a load channel (R275, R351): its output, its demand and its forcing as it leaves them, and the registers that
it writes. -/

namespace Sys2Proof.Machine

/-! ### The low bits of LSW_STATUS -/

/-- A bit below 4 of LSW_STATUS of channel n: on, demand, forced, interlock. -/
structure LowStatus (n : Nat) (g : Fld) : Prop where
  addr : g.addr = 0x4031000C + n * 0x1000
  lo : g.lo < 4
  w : g.w = 1

theorem lowStatus_on (n : Nat) : LowStatus n (LSW_STATUS_on n) := ⟨rfl, Nat.le_of_ble_eq_true rfl, rfl⟩
theorem lowStatus_demand (n : Nat) : LowStatus n (LSW_STATUS_demand n) := ⟨rfl, Nat.le_of_ble_eq_true rfl, rfl⟩
theorem lowStatus_forced (n : Nat) : LowStatus n (LSW_STATUS_forced n) := ⟨rfl, Nat.le_of_ble_eq_true rfl, rfl⟩
theorem lowStatus_interlock (n : Nat) : LowStatus n (LSW_STATUS_interlock n) := ⟨rfl, Nat.le_of_ble_eq_true rfl, rfl⟩

section

variable {n : Nat} {g : Fld} (hg : LowStatus n g)
include hg

theorem LowStatus.outsideEvc : OutsideEvc g.addr := by
  obtain ⟨ha, _, _⟩ := hg
  unfold OutsideEvc
  omega

theorem LowStatus.inWord : g.lo + g.w ≤ 32 := by
  obtain ⟨_, hlo, hw⟩ := hg
  omega

/-- A field of LSW_STATUS from bit 4 on shares no bit with it. -/
theorem LowStatus.disjoint_high {f : Fld} (h : 4 ≤ f.lo) : f.disjoint g := by
  obtain ⟨_, hlo, hw⟩ := hg
  unfold Fld.disjoint
  omega

theorem LowStatus.disjoint_page {f : Fld} {ofs : Nat} (h : f.addr = 0x40310000 + n * 0x1000 + ofs) (hne : ofs ≠ 0x00C) : f.disjoint g := by
  obtain ⟨ha, _, _⟩ := hg
  exact .inl (by omega)

theorem LowStatus.raiseEv (c : Chip) (k : Nat) : (c.raiseEv (lswPage n) k).flag g = c.flag g := by
  obtain ⟨ha, _, _⟩ := id hg
  exact Chip.flag_of_word (Chip.raiseEv_word hg.outsideEvc c (by unfold lswPage; omega))

theorem LowStatus.noteChannel (c : Chip) : (c.noteChannel n).flag g = c.flag g := by
  obtain ⟨ha, _, _⟩ := id hg
  exact Chip.flag_of_word (Chip.setRaw_word hg.outsideEvc _ _ (by unfold lswPage; omega) (by unfold lswPage; omega))

theorem LowStatus.setHigh (c : Chip) {f : Fld} (b : Bool) (h : 4 ≤ f.lo) : (c.setFlag f b).flag g = c.flag g :=
  Chip.flag_setFlag_other f g b hg.inWord (hg.disjoint_high h)

theorem LowStatus.endDiag (c : Chip) (r : Nat) : (c.endDiag n r).flag g = c.flag g :=
  (hg.raiseEv _ 5).trans ((Chip.flag_put_other (LSW_DIAG_result n) g r hg.inWord
    (hg.disjoint_page (ofs := 0x134) (by simp only [LSW_DIAG_result]; omega) (by decide))).trans
    (hg.setHigh (f := LSW_STATUS_diag_busy n) _ false (by simp only [LSW_STATUS_diag_busy]; omega)))

theorem LowStatus.retryDecide (c : Chip) : (c.retryDecide n).flag g = c.flag g := by
  have exhausted : 4 ≤ (LSW_STATUS_exhausted n).lo := by simp only [LSW_STATUS_exhausted]; omega
  have wait : 4 ≤ (LSW_STATUS_oc_wait n).lo := by simp only [LSW_STATUS_oc_wait]; omega
  have remaining : 4 ≤ (LSW_STATUS_remaining n).lo := by simp only [LSW_STATUS_remaining]; omega
  refine ite_keeps (Chip.flag · g) (fun _ => rfl) fun _ => ite_keeps (Chip.flag · g) (fun _ => rfl) fun _ =>
    ite_keeps (Chip.flag · g) (fun _ => ?_) fun _ => ite_keeps (Chip.flag · g) (fun _ => rfl) fun _ => ?_
  · exact (hg.noteChannel _).trans ((hg.raiseEv _ 3).trans ((hg.setHigh _ false wait).trans (hg.setHigh c true exhausted)))
  · exact (hg.setHigh _ false wait).trans (Chip.flag_put_other _ g _ hg.inWord (hg.disjoint_high remaining))

end

/-! ### The output -/

theorem wordBit_addr (n : Nat) : (wordBit LSW_BSTATE_LO_on LSW_BSTATE_HI_on n).addr < 0x40300110 := by
  unfold wordBit
  split <;> (simp only [Fld.bitOf, LSW_BSTATE_LO_on, LSW_BSTATE_HI_on]; omega)

/-- What an output's change keeps: LSW_STATUS above its bit 0, and the bank of the channel. -/
theorem Chip.setOutput_flag_other {n : Nat} {g : Fld} (hw : g.lo + g.w ≤ 32)
    (h : (g.addr = 0x4031000C + n * 0x1000 ∧ 1 ≤ g.lo) ∨ g.addr = 0x403001C0 + n / 8 * 4) (c : Chip) (b : Bool) :
    (c.setOutput n b).flag g = c.flag g := by
  have hword := wordBit_addr n
  have on : (LSW_STATUS_on n).disjoint g := by unfold Fld.disjoint; simp only [LSW_STATUS_on]; omega
  have state : (wordBit LSW_BSTATE_LO_on LSW_BSTATE_HI_on n).disjoint g := .inl (by omega)
  have off : (LSW_TOFF_count n).disjoint g := .inl (by simp only [LSW_TOFF_count]; omega)
  have hset : ((c.setFlag (LSW_STATUS_on n) b).setFlag (wordBit LSW_BSTATE_LO_on LSW_BSTATE_HI_on n) b).flag g = c.flag g :=
    (Chip.flag_setFlag_other _ g b hw state).trans (Chip.flag_setFlag_other _ g b hw on)
  have hcount : ∀ d : Chip, d.flag g = c.flag g → Chip.flag (if c.flag (LSW_STATUS_on n) && !b then d.incSat (LSW_TOFF_count n) else d) g =
      c.flag g := fun d hd => ite_keeps (Chip.flag · g) (fun _ => (Chip.flag_put_other _ g _ hw off).trans hd) (fun _ => hd)
  exact ite_keeps (Chip.flag · g) (fun _ => hcount _ hset) (fun _ => hcount _ hset)

theorem Chip.setOutput_on (c : Chip) (n : Nat) (b : Bool) : (c.setOutput n b).flag (LSW_STATUS_on n) = b := by
  have hword := wordBit_addr n
  have state : (wordBit LSW_BSTATE_LO_on LSW_BSTATE_HI_on n).disjoint (LSW_STATUS_on n) :=
    .inl (by simp only [LSW_STATUS_on]; omega)
  have off : (LSW_TOFF_count n).disjoint (LSW_STATUS_on n) := .inl (by simp only [LSW_TOFF_count, LSW_STATUS_on]; omega)
  have hset : ((c.setFlag (LSW_STATUS_on n) b).setFlag (wordBit LSW_BSTATE_LO_on LSW_BSTATE_HI_on n) b).flag (LSW_STATUS_on n) = b :=
    (Chip.flag_setFlag_other _ _ b (Nat.le_of_ble_eq_true rfl) state).trans (Chip.flag_setFlag_same _ b rfl (Nat.le_of_ble_eq_true rfl))
  have hcount : ∀ d : Chip, d.flag (LSW_STATUS_on n) = b →
      Chip.flag (if c.flag (LSW_STATUS_on n) && !b then d.incSat (LSW_TOFF_count n) else d) (LSW_STATUS_on n) = b := fun d hd =>
    ite_keeps (Chip.flag · (LSW_STATUS_on n)) (fun _ => (Chip.flag_put_other _ _ _ (Nat.le_of_ble_eq_true rfl) off).trans hd) (fun _ => hd)
  exact ite_keeps (Chip.flag · (LSW_STATUS_on n)) (fun _ => hcount _ hset) (fun _ => hcount _ hset)

theorem Chip.setOutput_protectedOff (c : Chip) (n : Nat) (b : Bool) : (c.setOutput n b).protectedOff n = c.protectedOff n := by
  have status : ∀ g : Fld, g.addr = 0x4031000C + n * 0x1000 → 1 ≤ g.lo → g.lo + g.w ≤ 32 → (c.setOutput n b).flag g = c.flag g :=
    fun g ha hlo hw => Chip.setOutput_flag_other hw (.inl ⟨ha, hlo⟩) c b
  have bank : (c.setOutput n b).flag (LSW_BANK_rev (n / 8)) = c.flag (LSW_BANK_rev (n / 8)) :=
    Chip.setOutput_flag_other (by simp only [LSW_BANK_rev]; omega) (.inr rfl) c b
  unfold Chip.protectedOff
  have le : ∀ {m k : Nat}, Nat.ble m k = true → m ≤ k := Nat.le_of_ble_eq_true
  rw [status (LSW_STATUS_shed_off n) rfl (le rfl) (le rfl), status (LSW_STATUS_therm n) rfl (le rfl) (le rfl),
    status (LSW_STATUS_clamp_lock n) rfl (le rfl) (le rfl), status (LSW_STATUS_oc_wait n) rfl (le rfl) (le rfl),
    status (LSW_STATUS_exhausted n) rfl (le rfl) (le rfl), status (LSW_STATUS_uv_off n) rfl (le rfl) (le rfl), bank]

/-! ### The demand -/

/-- Forcing, its interlock and the source of a channel as its evaluation notes them. -/
def Chip.noteSource (c : Chip) (n : Nat) : Chip :=
  let d := if c.flag (LSW_STATUS_forced n) && !c.forced n && c.channelSource n && !(c.offHoldEnds && bit c.pair.follow n) then
      c.setFlag (LSW_STATUS_interlock n) true
    else c
  let d := d.setFlag (LSW_STATUS_forced n) (c.forced n)
  let x := d.channel n
  let d := if c.channelSource n then d.setChannel n fun x => { x with sourceSeen := true } else d
  d.setFlag (LSW_STATUS_pin_unclaimed n) (x.ctrl % 4 == 2 && !x.pinClaimed)

/-- The demand of a channel whose source and forcing are noted in d (R275, R351). -/
def Chip.demandIn (c d : Chip) (n : Nat) : Bool :=
  if d.inBridle n then d.mapDemand n else if d.twinHeld n then bit d.pair.nearOutputs n
  else !c.forced n && c.channelSource n && !d.flag (LSW_STATUS_interlock n)

/-- A channel's demand is stored; a diagnosis ends where it is 1; then the retry is decided. -/
def Chip.takeDemand (c : Chip) (n : Nat) (b : Bool) : Chip :=
  let d := c.setFlag (LSW_STATUS_demand n) b
  let d := if b && d.flag (LSW_STATUS_diag_busy n) then d.endDiag n 0 else d
  d.retryDecide n

theorem Chip.settleChannel_eq (c : Chip) (n : Nat) :
    c.settleChannel n =
      let d := c.noteSource n
      let b := c.demandIn d n
      let e := d.takeDemand n b
      e.setOutput n (b && !e.protectedOff n && !d.twinHeld n) := rfl

theorem Chip.takeDemand_low {n : Nat} {g : Fld} (hg : LowStatus n g) (c : Chip) (b : Bool) :
    (c.takeDemand n b).flag g = (c.setFlag (LSW_STATUS_demand n) b).flag g :=
  (hg.retryDecide _).trans (ite_keeps (Chip.flag · g) (fun _ => hg.endDiag _ 0) (fun _ => rfl))

/-- The notes of a source keep what neither LSW_STATUS of the channel nor the note of its source bears on. -/
theorem Chip.noteSource_keeps {γ : Type} (g : Chip → γ) {n : Nat}
    (hflag : ∀ (d : Chip) (f : Fld) (b : Bool), f.addr = 0x4031000C + n * 0x1000 → g (d.setFlag f b) = g d)
    (hseen : ∀ d : Chip, g (d.setChannel n fun x => { x with sourceSeen := true }) = g d) (c : Chip) : g (c.noteSource n) = g c := by
  refine (hflag _ _ _ rfl).trans (ite_keeps g (fun _ => (hseen _).trans ?_) fun _ => ?_)
  all_goals exact (hflag _ _ _ rfl).trans (ite_keeps g (fun _ => hflag c _ true rfl) (fun _ => rfl))

theorem Chip.setChannel_channel_same (c : Chip) (n : Nat) (f : Channel → Channel) : (c.setChannel n f).channel n = f (c.channel n) :=
  Sparse.get_set_same

theorem Chip.noteSource_pair (c : Chip) (n : Nat) : (c.noteSource n).pair = c.pair :=
  c.noteSource_keeps Chip.pair (fun _ _ _ _ => rfl) (fun _ => rfl)

theorem Chip.noteSource_inBridle (c : Chip) (n : Nat) : (c.noteSource n).inBridle n = c.inBridle n :=
  c.noteSource_keeps (Chip.inBridle · n) (fun _ _ _ _ => rfl) (fun _ => rfl)

theorem Chip.mapDemand_congr {c d : Chip} {n : Nat} (hentry : (d.channel n).entry = (c.channel n).entry)
    (hheld : (d.channel n).held = (c.channel n).held) (hin : d.word LSW_BRIDLE_IN_in.addr = c.word LSW_BRIDLE_IN_in.addr) :
    d.mapDemand n = c.mapDemand n := by
  unfold Chip.mapDemand
  dsimp only
  rw [hentry, hheld, Chip.rd_of_word hin]

theorem Chip.noteSource_mapDemand (c : Chip) (n : Nat) : (c.noteSource n).mapDemand n = c.mapDemand n := by
  refine c.noteSource_keeps (Chip.mapDemand · n) (fun d f b hf => ?_) fun d => ?_
  · exact Chip.mapDemand_congr rfl rfl (Chip.word_setFlag_other f b (by rw [hf]; simp only [LSW_BRIDLE_IN_in]; omega))
  · exact Chip.mapDemand_congr (by rw [Chip.setChannel_channel_same]) (by rw [Chip.setChannel_channel_same]) rfl

theorem Chip.twinHeld_congr {c d : Chip} {n : Nat} (hctrl : (d.channel n).ctrl = (c.channel n).ctrl) (hload : d.load.bridle = c.load.bridle)
    (hen : d.word HRN_CTRL_pair_en.addr = c.word HRN_CTRL_pair_en.addr)
    (hrole : d.word HRN_STATUS_role.addr = c.word HRN_STATUS_role.addr) (hpair : d.pair = c.pair) : d.twinHeld n = c.twinHeld n := by
  unfold Chip.twinHeld Chip.outputsHeld Chip.isOff Chip.inBridle
  rw [hctrl, hload, Chip.flag_of_word hen, Chip.rd_of_word hrole, hpair]

theorem Chip.noteSource_twinHeld (c : Chip) {n : Nat} (hn : n < 64) : (c.noteSource n).twinHeld n = c.twinHeld n := by
  refine c.noteSource_keeps (Chip.twinHeld · n) (fun d f b hf => ?_) fun d => ?_
  · exact Chip.twinHeld_congr rfl rfl (Chip.word_setFlag_other f b (by rw [hf]; simp only [HRN_CTRL_pair_en]; omega))
      (Chip.word_setFlag_other f b (by rw [hf]; simp only [HRN_STATUS_role]; omega)) rfl
  · exact Chip.twinHeld_congr (by rw [Chip.setChannel_channel_same]) rfl rfl rfl rfl

theorem Chip.noteSource_forced (c : Chip) (n : Nat) : (c.noteSource n).flag (LSW_STATUS_forced n) = c.forced n := by
  have hpin : ∀ (d : Chip) (b : Bool), (d.setFlag (LSW_STATUS_pin_unclaimed n) b).flag (LSW_STATUS_forced n) = d.flag (LSW_STATUS_forced n) :=
    fun d b => (lowStatus_forced n).setHigh d b (Nat.le_of_ble_eq_true rfl)
  have hset : ∀ d : Chip, (d.setFlag (LSW_STATUS_forced n) (c.forced n)).flag (LSW_STATUS_forced n) = c.forced n :=
    fun d => Chip.flag_setFlag_same _ _ rfl (Nat.le_of_ble_eq_true rfl)
  exact (hpin _ _).trans (ite_keeps (Chip.flag · (LSW_STATUS_forced n)) (fun _ => hset _) (fun _ => hset _))

/-! ### The channel after its evaluation -/

section

variable (c : Chip) (n : Nat)

/-- The evaluation leaves a low bit of LSW_STATUS other than the output as the demand was stored. -/
theorem Chip.settleChannel_low {g : Fld} (hg : LowStatus n g) (h : 1 ≤ g.lo) :
    (c.settleChannel n).flag g = ((c.noteSource n).setFlag (LSW_STATUS_demand n) (c.demandIn (c.noteSource n) n)).flag g := by
  rw [Chip.settleChannel_eq]
  exact (Chip.setOutput_flag_other hg.inWord (.inl ⟨hg.addr, h⟩) _ _).trans (Chip.takeDemand_low hg _ _)

theorem Chip.settleChannel_demand : (c.settleChannel n).flag (LSW_STATUS_demand n) = c.demandIn (c.noteSource n) n :=
  (c.settleChannel_low n (lowStatus_demand n) (Nat.le_of_ble_eq_true rfl)).trans
    (Chip.flag_setFlag_same _ _ rfl (Nat.le_of_ble_eq_true rfl))

theorem Chip.settleChannel_forced : (c.settleChannel n).flag (LSW_STATUS_forced n) = c.forced n :=
  (c.settleChannel_low n (lowStatus_forced n) (Nat.le_of_ble_eq_true rfl)).trans
    ((Chip.flag_setFlag_other _ _ _ (Nat.le_of_ble_eq_true rfl) (.inr (.inl (Nat.le_of_ble_eq_true rfl)))).trans (c.noteSource_forced n))

theorem Chip.settleChannel_interlock :
    (c.settleChannel n).flag (LSW_STATUS_interlock n) = (c.noteSource n).flag (LSW_STATUS_interlock n) :=
  (c.settleChannel_low n (lowStatus_interlock n) (Nat.le_of_ble_eq_true rfl)).trans
    (Chip.flag_setFlag_other _ _ _ (Nat.le_of_ble_eq_true rfl) (.inr (.inl (Nat.le_of_ble_eq_true rfl))))

theorem Chip.settleChannel_on (hn : n < 64) :
    (c.settleChannel n).flag (LSW_STATUS_on n) =
      (c.demandIn (c.noteSource n) n && !(c.settleChannel n).protectedOff n && !c.twinHeld n) := by
  rw [Chip.settleChannel_eq]
  dsimp only
  rw [Chip.setOutput_on, Chip.setOutput_protectedOff, c.noteSource_twinHeld hn]

/-- The demand in terms of the channel before its evaluation, and of the interlock as it stands after it. -/
theorem Chip.settleChannel_demand_eq (hn : n < 64) :
    (c.settleChannel n).flag (LSW_STATUS_demand n) =
      if c.inBridle n then c.mapDemand n else if c.twinHeld n then bit c.pair.nearOutputs n
      else !c.forced n && c.channelSource n && !(c.settleChannel n).flag (LSW_STATUS_interlock n) := by
  rw [Chip.settleChannel_demand, Chip.settleChannel_interlock]
  unfold Chip.demandIn
  rw [Chip.noteSource_inBridle, Chip.noteSource_mapDemand, c.noteSource_twinHeld hn, Chip.noteSource_pair]

end

/-- A channel that the twin holds off is not in bridle mode. -/
theorem Chip.not_inBridle_of_twinHeld {c : Chip} {n : Nat} (h : c.twinHeld n = true) : c.inBridle n = false := by
  unfold Chip.twinHeld at h
  simpa using (Bool.and_eq_true_iff.1 h).2

/-- Settles O41: the stored demand, and the output that it, the protections and the twin's hold give. -/
theorem channelOutput : Obligations.ChannelOutput := by
  intro c n _ hn d
  have hd : d.flag (LSW_STATUS_demand n) = _ := c.settleChannel_demand_eq n hn
  refine ⟨?_, fun hb ht => ?_, fun hb => ?_, fun ht => ?_, c.settleChannel_forced n⟩
  · have hon : d.flag (LSW_STATUS_on n) = _ := c.settleChannel_on n hn
    rw [hon, show d.flag (LSW_STATUS_demand n) = _ from c.settleChannel_demand n]
    simp [d, and_assoc]
  · rw [hd, if_neg (by simp [hb]), if_neg (by simp [ht])]
    simp [d, and_assoc]
  · rw [hd, if_pos hb]
  · rw [hd, if_neg (by simp [Chip.not_inBridle_of_twinHeld ht]), if_pos ht]

end Sys2Proof.Machine
end

section
/-! PROOFS. The drop of a port (R249, R250, R252): what follows from a port's inputs writes the port's status and its limit, the claim of
its generator and the load channels, so that a drop stays latched and the permit is gone. -/

namespace Sys2Proof.Machine

/-! ### Registers below the load switches -/

/-- The register stands in a page of a port: what raises events and settles load channels leaves it alone. -/
structure PortWord (n a : Nat) : Prop where
  unit : n < 32
  lo : 0x40200000 + n * 0x1000 ≤ a
  hi : a < 0x40201000 + n * 0x1000
  /-- Not EV_RAW and not EV_PEND. -/
  raw : a ≠ 0x40200010 + n * 0x1000
  pend : a ≠ 0x40200018 + n * 0x1000

section

variable {n a : Nat} (ha : PortWord n a)
include ha

theorem PortWord.outsideEvc : OutsideEvc a := by
  obtain ⟨_, _, _, _, _⟩ := ha
  unfold OutsideEvc
  omega

theorem PortWord.lt_load : a < 0x40300000 := by
  obtain ⟨_, _, _, _, _⟩ := ha
  omega

theorem PortWord.not_can (k : Nat) : a < 0x40240000 + k := by
  obtain ⟨_, _, _, _, _⟩ := ha
  omega

theorem PortWord.raiseEv (c : Chip) (k : Nat) : (c.raiseEv (optPage n) k).word a = c.word a :=
  Chip.raiseEv_word ha.outsideEvc c (by have := ha.pend; unfold optPage; omega)

/-! ### The load channels -/

theorem PortWord.setLoadFlag (c : Chip) {f : Fld} (hf : 0x40300000 ≤ f.addr) (b : Bool) : (c.setFlag f b).word a = c.word a :=
  Chip.word_setFlag_other f b (ha.lt_load.trans_le hf).ne

theorem PortWord.putLoad (c : Chip) {f : Fld} (hf : 0x40300000 ≤ f.addr) (v : Nat) : (c.put f v).word a = c.word a :=
  Chip.word_put_other f v (ha.lt_load.trans_le hf).ne

theorem PortWord.raiseLoadEv (c : Chip) (m k : Nat) : (c.raiseEv (lswPage m) k).word a = c.word a :=
  Chip.raiseEv_word ha.outsideEvc c (by have := ha.lt_load; unfold lswPage; omega)

theorem PortWord.noteChannel (c : Chip) (m : Nat) : (c.noteChannel m).word a = c.word a :=
  Chip.setRaw_word ha.outsideEvc _ _ (by have := ha.lt_load; unfold lswPage; omega) (by have := ha.lt_load; unfold lswPage; omega)

theorem PortWord.endDiag (c : Chip) (m r : Nat) : (c.endDiag m r).word a = c.word a :=
  (ha.raiseLoadEv _ m 5).trans ((ha.putLoad _ (by simp only [LSW_DIAG_result]; omega) r).trans
    (ha.setLoadFlag (c.setChannel m _) (by simp only [LSW_STATUS_diag_busy]; omega) false))

theorem PortWord.retryDecide (c : Chip) (m : Nat) : (c.retryDecide m).word a = c.word a := by
  have wait : 0x40300000 ≤ (LSW_STATUS_oc_wait m).addr := by simp only [LSW_STATUS_oc_wait]; omega
  have exhausted : 0x40300000 ≤ (LSW_STATUS_exhausted m).addr := by simp only [LSW_STATUS_exhausted]; omega
  have remaining : 0x40300000 ≤ (LSW_STATUS_remaining m).addr := by simp only [LSW_STATUS_remaining]; omega
  refine ite_keeps (Chip.word · a) (fun _ => rfl) fun _ => ite_keeps (Chip.word · a) (fun _ => rfl) fun _ =>
    ite_keeps (Chip.word · a) (fun _ => ?_) fun _ => ite_keeps (Chip.word · a) (fun _ => rfl) fun _ => ?_
  · exact (ha.noteChannel _ m).trans ((ha.raiseLoadEv _ m 3).trans ((ha.setLoadFlag _ wait false).trans (ha.setLoadFlag c exhausted true)))
  · exact (ha.setLoadFlag _ wait false).trans (ha.putLoad c remaining _)

theorem PortWord.setOutput (c : Chip) (m : Nat) (b : Bool) : (c.setOutput m b).word a = c.word a := by
  have state : 0x40300000 ≤ (wordBit LSW_BSTATE_LO_on LSW_BSTATE_HI_on m).addr := by
    unfold wordBit
    split <;> simp [Fld.bitOf, LSW_BSTATE_LO_on, LSW_BSTATE_HI_on]
  have on : 0x40300000 ≤ (LSW_STATUS_on m).addr := by simp only [LSW_STATUS_on]; omega
  have off : 0x40300000 ≤ (LSW_TOFF_count m).addr := by simp only [LSW_TOFF_count]; omega
  have hset := (ha.setLoadFlag _ state b).trans (ha.setLoadFlag c on b)
  refine ite_keeps (Chip.word · a) (fun _ => ?_) (fun _ => ?_)
  all_goals exact ite_keeps (Chip.word · a) (fun _ => (ha.putLoad _ off _).trans hset) (fun _ => hset)

theorem PortWord.settleChannel (c : Chip) (m : Nat) : (c.settleChannel m).word a = c.word a := by
  have demand : 0x40300000 ≤ (LSW_STATUS_demand m).addr := by simp only [LSW_STATUS_demand]; omega
  rw [Chip.settleChannel_eq]
  refine (ha.setOutput _ m _).trans ((ha.retryDecide _ m).trans ?_)
  have hsource : (c.noteSource m).word a = c.word a :=
    c.noteSource_keeps (Chip.word · a) (fun d f b hf => ha.setLoadFlag d (by omega) b) (fun _ => rfl)
  have hdemand := (ha.setLoadFlag (c.noteSource m) demand (c.demandIn (c.noteSource m) m)).trans hsource
  exact ite_keeps (Chip.word · a) (fun _ => (ha.endDiag _ m 0).trans hdemand) (fun _ => hdemand)

theorem PortWord.settleContactors (c : Chip) (m : Nat) : (c.settleContactors m).word a = c.word a := by
  have one : ∀ (d : Chip) (v ch : Fld), (d.settleContactor v ch).word a = d.word a := fun d v ch =>
    ite_keeps (Chip.word · a) (fun _ => ha.settleChannel d _) (fun _ => rfl)
  exact (one _ _ _).trans (one c _ _)

/-! ### The stop buffers -/

omit ha in
theorem Chip.canSettle_word (c : Chip) (k : Nat) : (c.canSettle k).word a = c.word a := by
  unfold Chip.canSettle
  dsimp only
  split
  · exact ite_keeps (Chip.word · a) (fun _ => rfl) (fun _ => rfl)
  · rfl

theorem PortWord.canRequest (c : Chip) (k mask : Nat) : (c.canRequest k mask).word a = c.word a := by
  have pend : a ≠ (CAN_TX_PEND_pend k).addr := by have := ha.not_can 0; simp only [CAN_TX_PEND_pend]; omega
  exact (ite_keeps (Chip.word · a) (fun _ => rfl) (fun _ => rfl) : (Chip.canContend _ k).word a = _).trans
    ((Chip.word_put_other _ _ pend).trans (c.canSettle_word k))

theorem PortWord.canStop (c : Chip) (port : Nat) : (c.canStop port).word a = c.word a :=
  forN_keeps (Chip.word · a) (fun k _ d => ite_keeps (Chip.word · a) (fun _ => ha.canRequest d k _) (fun _ => rfl)) c

end

/-! ### What follows from a port's inputs -/

/-- The status, the claim's override, lock_fault and the limit of a port as its inputs give them, before its permit. -/
def Chip.noteInputs (c : Chip) (n : Nat) : Chip :=
  let acc := (c.port n).accepted
  let c := c.put (OPT_STATUS_state n) (c.shownState n acc)
  let cut := c.portCut n
  let c := (c.setFlag (OPT_STATUS_override n) cut).setFlag (FAB_CLAIM_override (16 + n)) cut
  let c := c.put (FAB_CLAIM_override_by (16 + n)) (if cut then 2 else 0)
  let lf := bit (c.dropCauses n acc) 7
  let c := if lf && !c.flag (OPT_STATUS_lock_fault n) then c.raiseEv (optPage n) 5 else c
  (c.setFlag (OPT_STATUS_lock_fault n) lf).showLimit n

/-- What follows from a change of the permit: a weld check, the contactors, the generator's output and the faults. -/
def Chip.afterPermit (c : Chip) (n : Nat) (was now : Bool) : Chip :=
  let c := if was && !now then c.startWeld n else c
  let c := if was != now then c.settleContactors n else c
  (c.noteOutput n).notePorts

theorem Chip.settlePort_eq (c : Chip) (n : Nat) :
    c.settlePort n =
      let d := c.noteInputs n
      (d.setFlag (OPT_STATUS_permit n) (d.permitted n)).afterPermit n (d.flag (OPT_STATUS_permit n)) (d.permitted n) := rfl

theorem PortWord.afterPermit {n a : Nat} (ha : PortWord n a) (c : Chip) (was now : Bool) : (c.afterPermit n was now).word a = c.word a := by
  have hout : ∀ d : Chip, ((d.noteOutput n).notePorts).word a = d.word a := fun d =>
    (ite_keeps (Chip.word · a) (fun _ => rfl) (fun _ => rfl) : (d.noteOutput n).word a = _)
  have hweld : Chip.word (if was && !now then c.startWeld n else c) a = c.word a :=
    ite_keeps (Chip.word · a) (fun _ => ite_keeps (Chip.word · a) (fun _ => rfl) (fun _ => rfl)) (fun _ => rfl)
  exact (hout _).trans (ite_keeps (Chip.word · a) (fun _ => (ha.settleContactors _ n).trans hweld) (fun _ => hweld))

/-- A field of a port's page that its inputs are not shown in. -/
structure OutsideInputs (n : Nat) (g : Fld) : Prop where
  word : PortWord n g.addr
  inWord : g.lo + g.w ≤ 32
  state : (OPT_STATUS_state n).disjoint g
  override : (OPT_STATUS_override n).disjoint g
  lockFault : (OPT_STATUS_lock_fault n).disjoint g
  limit : (OPT_LIM2_ilim n).disjoint g

theorem OutsideInputs.noteInputs {n : Nat} {g : Fld} (hg : OutsideInputs n g) (c : Chip) : (c.noteInputs n).rd g = c.rd g := by
  obtain ⟨hword, hw, hstate, hover, hlock, hlimit⟩ := hg
  have hn := hword.unit
  have hlo := hword.lo
  have claim : (FAB_CLAIM_override (16 + n)).disjoint g := .inl (by simp only [FAB_CLAIM_override]; omega)
  have claimBy : (FAB_CLAIM_override_by (16 + n)).disjoint g := .inl (by simp only [FAB_CLAIM_override_by]; omega)
  refine (Chip.rd_put_other _ g _ hw hlimit).trans ((Chip.rd_setFlag_other _ g _ hw hlock).trans ?_)
  have hclaims := fun (d : Chip) (b : Bool) (v : Nat) =>
    (Chip.rd_put_other (c := (d.setFlag (OPT_STATUS_override n) b).setFlag (FAB_CLAIM_override (16 + n)) b) _ g v hw claimBy).trans
      ((Chip.rd_setFlag_other _ g b hw claim).trans (Chip.rd_setFlag_other (c := d) _ g b hw hover))
  have hinputs := fun (b : Bool) (v : Nat) =>
    (hclaims _ b v).trans (Chip.rd_put_other (c := c) (OPT_STATUS_state n) g (c.shownState n (c.port n).accepted) hw hstate)
  exact ite_keeps (Chip.rd · g) (fun _ => (Chip.rd_of_word (hword.raiseEv _ 5)).trans (hinputs _ _)) (fun _ => hinputs _ _)

/-- A field of the port that neither its inputs nor its permit are shown in stands. -/
theorem OutsideInputs.settlePort {n : Nat} {g : Fld} (hg : OutsideInputs n g) (hp : (OPT_STATUS_permit n).disjoint g) (c : Chip) :
    (c.settlePort n).rd g = c.rd g := by
  rw [Chip.settlePort_eq]
  exact (Chip.rd_of_word (hg.word.afterPermit _ _ _)).trans ((Chip.rd_setFlag_other _ g _ hg.inWord hp).trans (hg.noteInputs c))

theorem Chip.settlePort_permit {n : Nat} (hn : n < 32) (c : Chip) :
    (c.settlePort n).flag (OPT_STATUS_permit n) = (c.noteInputs n).permitted n := by
  have hword : PortWord n (OPT_STATUS_permit n).addr := by
    refine ⟨hn, ?_, ?_, ?_, ?_⟩ <;> (simp only [OPT_STATUS_permit]; omega)
  rw [Chip.settlePort_eq]
  exact (Chip.flag_of_word (hword.afterPermit _ _ _)).trans (Chip.flag_setFlag_same _ _ rfl (Nat.le_of_ble_eq_true rfl))

/-- A dropped port has no permit. -/
theorem Chip.permitted_of_dropped {c : Chip} {n : Nat} (h : c.flag (OPT_STATUS_dropped n) = true) : c.permitted n = false := by
  unfold Chip.permitted
  rw [h]
  simp

/-! ### A drop -/

theorem Chip.rd_setPort (c : Chip) (n : Nat) (f : Port → Port) (g : Fld) : (c.setPort n f).rd g = c.rd g := rfl

/-- The block with the drop of a port latched, its causes and the Stride stored. -/
def Chip.latchDrop (c : Chip) (n all : Nat) : Chip :=
  let c := (c.setFlag (OPT_STATUS_dropped n) true).put (OPT_DROP_cause n) all
  let c := c.put64 (OPT_DROP_STRIDE_LO_stride n) (OPT_DROP_STRIDE_HI_stride n) c.stride
  (((c.setPort n fun p => { p with rearm := false, rearmHeld := false }).raiseEv (optPage n) 1).canStop n)

theorem Chip.dropPort_eq {c : Chip} {n causes : Nat} (hn : n < c.variant.ports) (hc : 0 < causes) (he : c.flag (OPT_CTRL_en n) = true)
    (hd : c.flag (OPT_STATUS_dropped n) = false) :
    c.dropPort n causes = (c.latchDrop n (causes ||| c.dropCauses n (c.port n).accepted)).settlePort n := by
  unfold Chip.dropPort
  rw [if_neg (by omega), if_neg (by simp [hd]), if_neg (by simp [he])]
  rfl

section

variable {n : Nat} (hn : n < 32)
include hn

theorem outsideInputs_dropped : OutsideInputs n (OPT_STATUS_dropped n) := by
  refine ⟨?_, Nat.le_of_ble_eq_true rfl, .inr (.inl (Nat.le_of_ble_eq_true rfl)), .inr (.inr (Nat.le_of_ble_eq_true rfl)),
    .inr (.inr (Nat.le_of_ble_eq_true rfl)), .inl ?_⟩
  · refine ⟨hn, ?_, ?_, ?_, ?_⟩ <;> (simp only [OPT_STATUS_dropped]; omega)
  · simp only [OPT_STATUS_dropped, OPT_LIM2_ilim]; omega

theorem outsideInputs_of_drop {g : Fld} (lo : 0x40200128 + n * 0x1000 ≤ g.addr) (hi : g.addr < 0x40200140 + n * 0x1000)
    (hw : g.lo + g.w ≤ 32) : OutsideInputs n g := by
  refine ⟨by constructor <;> omega, hw, .inl ?_, .inl ?_, .inl ?_, .inl ?_⟩
  · simp only [OPT_STATUS_state]; omega
  · simp only [OPT_STATUS_override]; omega
  · simp only [OPT_STATUS_lock_fault]; omega
  · simp only [OPT_LIM2_ilim]; omega

omit hn in
/-- The event and the stop buffers of a drop leave the port's own registers. -/
theorem Chip.latchDrop_rd {g : Fld} (hg : PortWord n g.addr) (c : Chip) (all : Nat) :
    (c.latchDrop n all).rd g =
      (((c.setFlag (OPT_STATUS_dropped n) true).put (OPT_DROP_cause n) all).put64 (OPT_DROP_STRIDE_LO_stride n)
        (OPT_DROP_STRIDE_HI_stride n) c.stride).rd g := by
  unfold Chip.latchDrop
  rw [Chip.rd_of_word (hg.canStop _ n), Chip.rd_of_word (hg.raiseEv _ 1), Chip.rd_setPort, Chip.put_stride, Chip.setFlag_stride]

theorem Chip.latchDrop_dropped (c : Chip) (all : Nat) : (c.latchDrop n all).flag (OPT_STATUS_dropped n) = true := by
  have hlo : (OPT_DROP_STRIDE_LO_stride n).disjoint (OPT_STATUS_dropped n) :=
    .inl (by simp only [OPT_DROP_STRIDE_LO_stride, OPT_STATUS_dropped]; omega)
  have hhi : (OPT_DROP_STRIDE_HI_stride n).disjoint (OPT_STATUS_dropped n) :=
    .inl (by simp only [OPT_DROP_STRIDE_HI_stride, OPT_STATUS_dropped]; omega)
  have hcause : (OPT_DROP_cause n).disjoint (OPT_STATUS_dropped n) := .inl (by simp only [OPT_DROP_cause, OPT_STATUS_dropped]; omega)
  have hw : (OPT_STATUS_dropped n).lo + (OPT_STATUS_dropped n).w ≤ 32 := Nat.le_of_ble_eq_true rfl
  unfold Chip.flag
  rw [Chip.latchDrop_rd (outsideInputs_dropped hn).word, Chip.put64, Chip.rd_put_other _ _ _ hw hhi, Chip.rd_put_other _ _ _ hw hlo,
    Chip.rd_put_other _ _ _ hw hcause]
  exact Chip.flag_setFlag_same (OPT_STATUS_dropped n) true rfl (Nat.le_of_ble_eq_true rfl)

theorem Chip.latchDrop_cause (c : Chip) (all : Nat) : (c.latchDrop n all).rd (OPT_DROP_cause n) = all % 2 ^ 11 := by
  have hword : PortWord n (OPT_DROP_cause n).addr := by refine ⟨hn, ?_, ?_, ?_, ?_⟩ <;> (simp only [OPT_DROP_cause]; omega)
  have hlo : (OPT_DROP_STRIDE_LO_stride n).disjoint (OPT_DROP_cause n) :=
    .inl (by simp only [OPT_DROP_STRIDE_LO_stride, OPT_DROP_cause]; omega)
  have hhi : (OPT_DROP_STRIDE_HI_stride n).disjoint (OPT_DROP_cause n) :=
    .inl (by simp only [OPT_DROP_STRIDE_HI_stride, OPT_DROP_cause]; omega)
  have hw : (OPT_DROP_cause n).lo + (OPT_DROP_cause n).w ≤ 32 := Nat.le_of_ble_eq_true rfl
  rw [Chip.latchDrop_rd hword, Chip.put64, Chip.rd_put_other _ _ _ hw hhi, Chip.rd_put_other _ _ _ hw hlo]
  exact Chip.rd_put_same (OPT_DROP_cause n) all hw

theorem Chip.latchDrop_stride (c : Chip) (all : Nat) :
    (c.latchDrop n all).rd64 (OPT_DROP_STRIDE_LO_stride n) (OPT_DROP_STRIDE_HI_stride n) = c.stride % 2 ^ 64 := by
  have hwl : PortWord n (OPT_DROP_STRIDE_LO_stride n).addr := by refine ⟨hn, ?_, ?_, ?_, ?_⟩ <;> (simp only [OPT_DROP_STRIDE_LO_stride]; omega)
  have hwh : PortWord n (OPT_DROP_STRIDE_HI_stride n).addr := by refine ⟨hn, ?_, ?_, ?_, ?_⟩ <;> (simp only [OPT_DROP_STRIDE_HI_stride]; omega)
  have hd : (OPT_DROP_STRIDE_HI_stride n).disjoint (OPT_DROP_STRIDE_LO_stride n) :=
    .inl (by simp only [OPT_DROP_STRIDE_LO_stride, OPT_DROP_STRIDE_HI_stride]; omega)
  unfold Chip.rd64
  rw [Chip.latchDrop_rd hwl, Chip.latchDrop_rd hwh, Chip.put64, Chip.rd_put_same _ _ (Nat.le_of_ble_eq_true rfl),
    Chip.rd_put_other _ _ _ (Nat.le_of_ble_eq_true rfl) hd, Chip.rd_put_same _ _ (Nat.le_of_ble_eq_true rfl)]
  simp only [OPT_DROP_STRIDE_LO_stride, OPT_DROP_STRIDE_HI_stride]
  omega

end

/-- Settles O38: the drop is latched with its causes and its Stride, and a dropped port has no permit. -/
theorem dropWithdrawsPermit : Obligations.DropWithdrawsPermit := by
  intro c n causes hn hn32 hc hc11 he hd d
  have heq : d = _ := Chip.dropPort_eq hn hc he hd
  have hpermit : ∀ {g : Fld}, 0x40200128 + n * 0x1000 ≤ g.addr → (OPT_STATUS_permit n).disjoint g := fun {g} h =>
    .inl (by simp only [OPT_STATUS_permit]; omega)
  have hdropped : d.flag (OPT_STATUS_dropped n) = true := by
    unfold Chip.flag
    rw [heq, (outsideInputs_dropped hn32).settlePort (.inr (.inr (Nat.le_of_ble_eq_true rfl)))]
    exact Chip.latchDrop_dropped hn32 c _
  refine ⟨hdropped, ?_, Chip.permitted_of_dropped hdropped, fun b hb => ?_, ?_⟩
  · rw [heq, Chip.settlePort_permit hn32]
    refine Chip.permitted_of_dropped ?_
    unfold Chip.flag
    rw [(outsideInputs_dropped hn32).noteInputs]
    exact Chip.latchDrop_dropped hn32 c _
  · have hb11 : b < 11 := (Nat.pow_lt_pow_iff_right (by decide : 1 < 2)).1 ((Nat.ge_two_pow_of_testBit hb).trans_lt hc11)
    rw [heq, (outsideInputs_of_drop hn32 (g := OPT_DROP_cause n) (by simp only [OPT_DROP_cause]; omega)
      (by simp only [OPT_DROP_cause]; omega) (Nat.le_of_ble_eq_true rfl)).settlePort (hpermit (by simp only [OPT_DROP_cause]; omega)),
      Chip.latchDrop_cause hn32, Nat.testBit_mod_two_pow, Nat.testBit_or, hb]
    simp [hb11]
  · have hlo := (outsideInputs_of_drop hn32 (g := OPT_DROP_STRIDE_LO_stride n) (by simp only [OPT_DROP_STRIDE_LO_stride]; omega)
      (by simp only [OPT_DROP_STRIDE_LO_stride]; omega) (Nat.le_of_ble_eq_true rfl)).settlePort
      (hpermit (by simp only [OPT_DROP_STRIDE_LO_stride]; omega))
    have hhi := (outsideInputs_of_drop hn32 (g := OPT_DROP_STRIDE_HI_stride n) (by simp only [OPT_DROP_STRIDE_HI_stride]; omega)
      (by simp only [OPT_DROP_STRIDE_HI_stride]; omega) (Nat.le_of_ble_eq_true rfl)).settlePort
      (hpermit (by simp only [OPT_DROP_STRIDE_HI_stride]; omega))
    rw [heq, Chip.rd64, hlo, hhi]
    exact Chip.latchDrop_stride hn32 c _

end Sys2Proof.Machine
end

section
/-! PROOFS. Demands on Flocks (R304, R330): how an operation of the safety function moves the state of a Flock, and that a demand only moves
states up. -/

namespace Sys2Proof.Machine

/-! ### The state of a Flock through the operations of the safety function -/

theorem Chip.flockState_lt (c : Chip) (f : Nat) : c.flockState f < 4 := c.rd_lt (SAF_FLOCK_ST_state f)

theorem Chip.flockState_of_word {c d : Chip} {f : Nat} (h : d.word (SAF_FLOCK_ST_state f).addr = c.word (SAF_FLOCK_ST_state f).addr) :
    d.flockState f = c.flockState f :=
  Chip.rd_of_word h

theorem outsideEvc_flock (f : Nat) : OutsideEvc (SAF_FLOCK_ST_state f).addr := by
  unfold OutsideEvc
  simp only [SAF_FLOCK_ST_state]
  omega

theorem Chip.raiseSafEv_flockState (c : Chip) (k f : Nat) : (c.raiseEv safPage k).flockState f = c.flockState f :=
  Chip.flockState_of_word (Chip.raiseEv_word (outsideEvc_flock f) c (by simp only [SAF_FLOCK_ST_state, safPage]; omega))

/-- A record of a log writes the store and, of the registers, the log's own two. -/
theorem Chip.appendLog_word {a n : Nat} (hn : a ≠ (LDG_LOG_NEXT_seq n).addr) (ho : a ≠ (LDG_LOG_OLDEST_seq n).addr) (c : Chip)
    (rec_ : List Nat) : (c.appendLog n rec_).word a = c.word a :=
  ite_keeps (Chip.word · a) (fun _ => (Chip.word_put_other _ _ ho).trans (Chip.word_put_other _ _ hn)) (fun _ => rfl)

theorem Chip.logSafety_flockState (c : Chip) (kind level unit old new channels cause : Nat) (detail : List Nat) (f : Nat) :
    (c.logSafety kind level unit old new channels cause detail).flockState f = c.flockState f :=
  ite_keeps (Chip.flockState · f) (fun _ => Chip.flockState_of_word (Chip.appendLog_word
    (by simp only [SAF_FLOCK_ST_state, LDG_LOG_NEXT_seq]; omega) (by simp only [SAF_FLOCK_ST_state, LDG_LOG_OLDEST_seq]; omega) c _))
    (fun _ => rfl)

theorem Chip.putSaf_flockState {c : Chip} {g : Fld} {f : Nat} (hg : g.addr < 0x40400110 ∨ 0x40400130 ≤ g.addr) (hf : f < 8) (v : Nat) :
    (c.put g v).flockState f = c.flockState f :=
  Chip.flockState_of_word (Chip.word_put_other g v (by simp only [SAF_FLOCK_ST_state]; omega))

/-! ### A Flock enters a state -/

/-- The words of a Flock's registers after it has entered another state, but for the log and the event. -/
def Chip.enterState (c : Chip) (f new : Nat) : Chip :=
  let c := c.put (SAF_FLOCK_ST_state f) new
  let c := c.setFlock f fun k =>
    { k with
      degraded := if new = 1 then max 1 k.degraded else if 2 ≤ new then 0 else k.degraded
      halved := new == 1 && k.halved
      exceed := 0, cleared := 0 }
  if new = 1 then c else (c.setFlag (SAF_FLOCK_ST_warn f) false).put (SAF_FLOCK_ST_left f) 0

theorem Chip.setFlockState_eq (c : Chip) (f new cause channels : Nat) :
    c.setFlockState f new cause channels =
      if new = c.flockState f then c
      else ((c.enterState f new).logSafety 1 4 f (c.flockState f) new channels cause []).raiseEv safPage 0 := rfl

theorem Chip.enterState_self {new : Nat} (h : new < 4) (c : Chip) (f : Nat) : (c.enterState f new).flockState f = new := by
  have hput : (c.put (SAF_FLOCK_ST_state f) new).flockState f = new :=
    (Chip.rd_put_same _ new (Nat.le_of_ble_eq_true rfl)).trans (Nat.mod_eq_of_lt h)
  have hw : (SAF_FLOCK_ST_state f).lo + (SAF_FLOCK_ST_state f).w ≤ 32 := Nat.le_of_ble_eq_true rfl
  refine ite_keeps (Chip.flockState · f) (fun _ => hput) fun _ => ?_
  exact (Chip.rd_put_other _ _ _ hw (.inr (.inr (Nat.le_of_ble_eq_true rfl)))).trans
    ((Chip.rd_setFlag_other _ _ _ hw (.inr (.inr (Nat.le_of_ble_eq_true rfl)))).trans hput)

theorem Chip.enterState_other {f g : Nat} (h : g ≠ f) (c : Chip) (new : Nat) : (c.enterState f new).flockState g = c.flockState g := by
  have hne : (SAF_FLOCK_ST_state g).addr ≠ (SAF_FLOCK_ST_state f).addr := by simp only [SAF_FLOCK_ST_state]; omega
  have hput : (c.put (SAF_FLOCK_ST_state f) new).flockState g = c.flockState g := Chip.flockState_of_word (Chip.word_put_other _ _ hne)
  refine ite_keeps (Chip.flockState · g) (fun _ => hput) fun _ => ?_
  exact (Chip.flockState_of_word (Chip.word_put_other (SAF_FLOCK_ST_left f) 0 hne)).trans
    ((Chip.flockState_of_word (Chip.word_setFlag_other (SAF_FLOCK_ST_warn f) false hne)).trans hput)

theorem Chip.setFlockState_self {new : Nat} (h : new < 4) (c : Chip) (f cause channels : Nat) :
    (c.setFlockState f new cause channels).flockState f = new := by
  rw [Chip.setFlockState_eq]
  refine ite_keeps (Chip.flockState · f) (fun he => he.symm) fun _ => ?_
  exact (Chip.raiseSafEv_flockState _ 0 f).trans ((Chip.logSafety_flockState _ _ _ _ _ _ _ _ _ f).trans (c.enterState_self h f))

theorem Chip.setFlockState_other {f g : Nat} (h : g ≠ f) (c : Chip) (new cause channels : Nat) :
    (c.setFlockState f new cause channels).flockState g = c.flockState g := by
  rw [Chip.setFlockState_eq]
  refine ite_keeps (Chip.flockState · g) (fun _ => rfl) fun _ => ?_
  exact (Chip.raiseSafEv_flockState _ 0 g).trans ((Chip.logSafety_flockState _ _ _ _ _ _ _ _ _ g).trans (c.enterState_other h new))

/-! ### States that only move up -/

/-- From c to d no Flock becomes less conservative. -/
def Chip.FlocksRise (c d : Chip) : Prop := ∀ f : Nat, f < 8 → c.flockState f ≤ d.flockState f

theorem Chip.FlocksRise.refl (c : Chip) : c.FlocksRise c := fun _ _ => le_rfl

theorem Chip.FlocksRise.trans {c d e : Chip} (h : c.FlocksRise d) (g : d.FlocksRise e) : c.FlocksRise e :=
  fun f hf => (h f hf).trans (g f hf)

theorem Chip.FlocksRise.of_eq {c d : Chip} (h : ∀ f < 8, d.flockState f = c.flockState f) : c.FlocksRise d :=
  fun f hf => (h f hf).ge

theorem Chip.setFlock_rises (c : Chip) (f : Nat) (g : Flock → Flock) : c.FlocksRise (c.setFlock f g) := .of_eq fun _ _ => rfl

theorem Chip.FlocksRise.ite {c d e : Chip} {p : Prop} [Decidable p] (h : p → c.FlocksRise d) (g : ¬ p → c.FlocksRise e) :
    c.FlocksRise (if p then d else e) := by
  split
  case isTrue hp => exact h hp
  case isFalse hp => exact g hp

theorem Chip.FlocksRise.foldl {α : Type} {step : Chip → α → Chip} {l : List α} (h : ∀ b ∈ l, ∀ d : Chip, d.FlocksRise (step d b)) (c : Chip) :
    c.FlocksRise (l.foldl step c) := by
  induction l generalizing c with
  | nil => exact .refl c
  | cons b l ih => exact (h b List.mem_cons_self c).trans (ih (fun a ha => h a (List.mem_cons_of_mem b ha)) (step c b))

theorem Chip.setFlockState_rises {new : Nat} (h : new < 4) (c : Chip) {f : Nat} (hle : c.flockState f ≤ new) (cause channels : Nat) :
    c.FlocksRise (c.setFlockState f new cause channels) := by
  intro g _
  by_cases hg : g = f
  · subst hg
    rwa [c.setFlockState_self h]
  · exact (c.setFlockState_other hg new cause channels).ge

theorem Chip.raiseFlock_rises {state : Nat} (h : state < 4) (c : Chip) (f cause channels : Nat) :
    c.FlocksRise (c.raiseFlock f state cause channels) :=
  .ite (fun hlt => c.setFlockState_rises h hlt.le cause channels) (fun _ => .refl c)

theorem Chip.raiseFlock_reaches {state : Nat} (h : state < 4) (c : Chip) (f cause channels : Nat) :
    state ≤ (c.raiseFlock f state cause channels).flockState f := by
  unfold Chip.raiseFlock
  split
  case isTrue => rw [c.setFlockState_self h]
  case isFalse hge => exact Nat.le_of_not_lt hge

theorem Chip.raiseFlock_other {f g : Nat} (h : g ≠ f) (c : Chip) (state cause channels : Nat) :
    (c.raiseFlock f state cause channels).flockState g = c.flockState g :=
  ite_keeps (Chip.flockState · g) (fun _ => c.setFlockState_other h state cause channels) (fun _ => rfl)

@[simp] theorem Chip.latchCause_flockState (c : Chip) (f : Nat) (k : Cause) (g : Nat) : (c.latchCause f k).flockState g = c.flockState g := rfl

/-! ### Recoveries -/

theorem Chip.showSingle_flockState (c : Chip) (on : Bool) {f : Nat} (hf : f < 8) : (c.showSingle on).flockState f = c.flockState f := by
  have hfault : ((c.setFlag SAF_STATUS_net_single on).faultIs 5 0x4020 0 on).flockState f = c.flockState f :=
    (Chip.flockState_of_word (Chip.faultIs_word _ 5 0x4020 0 on _)).trans (Chip.putSaf_flockState (.inl (by decide)) hf _)
  have hput := (Chip.putSaf_flockState (g := SAF_NET_ST_left) (.inr (by decide)) hf
    (if on then (((c.setFlag SAF_STATUS_net_single on).faultIs 5 0x4020 0 on).saf.singleLeft + 7999) / 8000 else 0)).trans hfault
  exact ite_keeps (Chip.flockState · f) (fun _ => (Chip.raiseSafEv_flockState _ 3 f).trans hput) (fun _ => hput)

theorem Chip.endSingle_rises (c : Chip) : c.FlocksRise c.endSingle :=
  (Chip.FlocksRise.of_eq fun _ hf => c.showSingle_flockState false hf).trans
    (.foldl (fun f _ d => (d.setFlock_rises f _).trans (Chip.raiseFlock_rises (by decide) (d.latchCause f _) f _ 2)) _)

/-- Giving a recovery up puts its Flocks at least in their states before it. -/
theorem Chip.abandonRecovery_rises {c : Chip} (h : ∀ r : Recovery, c.saf.running = some r → ∀ b ∈ r.before, b.2.1 < 4) :
    c.FlocksRise c.abandonRecovery := by
  unfold Chip.abandonRecovery
  cases hr : c.saf.running with
  | none => exact .refl c
  | some r =>
    dsimp -zeta only
    extract_lets c1 c2
    have h1 : c.FlocksRise c1 := .of_eq fun _ hf =>
      Chip.putSaf_flockState (c := c.setSaf fun s => { s with running := none }) (.inl (by decide)) hf _
    have h2 : c1.FlocksRise c2 := .foldl (fun b hb d => by
      refine (d.setFlock_rises b.1 _).trans (Chip.setFlockState_rises ?_ _ (Nat.le_max_right _ _) 0 2)
      exact Nat.max_lt.2 ⟨h r hr b hb, Chip.flockState_lt _ _⟩) c1
    refine (h1.trans h2).trans ?_
    split
    · exact c2.endSingle_rises
    · exact .of_eq fun _ hf => Chip.showSingle_flockState _ true hf
    · exact .refl c2

theorem Chip.leaveRecovery_flockState (c : Chip) (g : Nat) {f : Nat} (hf : f < 8) : (c.leaveRecovery g).flockState f = c.flockState f := by
  unfold Chip.leaveRecovery
  split
  · rfl
  · refine ite_keeps (Chip.flockState · f) (fun _ => rfl) fun _ => ite_keeps (Chip.flockState · f) (fun _ => ?_) (fun _ => rfl)
    exact Chip.putSaf_flockState (c := c.setSaf _) (.inl (by decide)) hf _

theorem Chip.commandResult_flockState (c : Chip) (word reason : Nat) {f : Nat} (hf : f < 8) :
    (c.commandResult word reason).flockState f = c.flockState f := by
  have hlog : ∀ d : Chip, d.flockState f = c.flockState f →
      Chip.flockState (d.logSafety 4 5 0 0 0 2 0 (leBytes 4 word)) f = c.flockState f :=
    fun d hd => (Chip.logSafety_flockState _ _ _ _ _ _ _ _ _ f).trans hd
  have hput := (Chip.putSaf_flockState (c := c.put SAF_CMD_ST_result (if reason = 0 then 1 else 2)) (g := SAF_CMD_ST_reason)
    (.inr (by decide)) hf reason).trans (Chip.putSaf_flockState (c := c) (g := SAF_CMD_ST_result) (.inr (by decide)) hf _)
  exact ite_keeps (Chip.flockState · f) (fun _ => hlog _ hput) (fun _ => (Chip.raiseSafEv_flockState _ 4 f).trans (hlog _ hput))

theorem Chip.refuseReleased_rises {c : Chip} (h : ∀ r : Recovery, c.saf.running = some r → ∀ b ∈ r.before, b.2.1 < 4) (mask : Nat) :
    c.FlocksRise (c.refuseReleased mask) := by
  unfold Chip.refuseReleased
  cases c.saf.released with
  | none => exact .refl c
  | some p =>
    refine .ite (fun _ => .refl c) fun _ => ?_
    have hres : ∀ (d : Chip) (s : Safety → Safety), d.FlocksRise ((d.setSaf s).commandResult (p.2 + 0x1000) 1) :=
      fun d s => .of_eq fun _ hf => (d.setSaf s).commandResult_flockState _ _ hf
    exact (Chip.FlocksRise.ite (fun _ => Chip.abandonRecovery_rises h) (fun _ => .refl c)).trans (hres _ _)

/-- No release of this Stride is refused. -/
theorem Chip.refuseReleased_of_none {c : Chip} {mask : Nat}
    (h : ∀ t m : Nat, c.saf.released = some (t, m) → t ≠ c.stride ∨ m &&& mask % 2 ^ c.variant.flocks = 0) : c.refuseReleased mask = c := by
  unfold Chip.refuseReleased
  cases hr : c.saf.released with
  | none => rfl
  | some p => exact if_pos (h p.1 p.2 hr)

/-! ### A demand -/

/-- What a demand does to one Flock of its mask. -/
def Chip.demandOne (cause state unit : Nat) (c : Chip) (f : Nat) : Chip :=
  let c := c.setFlock f fun k => { k with demand := some c.stride }
  let c := if c.flockState f < state then c.leaveRecovery f else c
  (c.latchCause f ⟨cause, state, unit, unit != 0⟩).raiseFlock f state cause (unitChannels unit)

theorem Chip.demandFlocks_eq (c : Chip) (mask cause state unit : Nat) :
    c.demandFlocks mask cause state unit = (c.flocksIn mask).foldl (Chip.demandOne cause state unit) (c.refuseReleased mask) := rfl

/-- The Flock before its raise: its state and every other one's are as they were. -/
def Chip.noteDemand (c : Chip) (f state : Nat) : Chip :=
  let c := c.setFlock f fun k => { k with demand := some c.stride }
  if c.flockState f < state then c.leaveRecovery f else c

theorem Chip.noteDemand_flockState (c : Chip) (f state : Nat) {g : Nat} (hg : g < 8) : (c.noteDemand f state).flockState g = c.flockState g :=
  ite_keeps (Chip.flockState · g) (fun _ => Chip.leaveRecovery_flockState (c.setFlock f _) f hg) (fun _ => rfl)

theorem Chip.demandOne_rises {state : Nat} (h : state < 4) (cause unit : Nat) (c : Chip) (f : Nat) :
    c.FlocksRise (c.demandOne cause state unit f) :=
  (Chip.FlocksRise.of_eq fun _ hg => c.noteDemand_flockState f state hg).trans
    (Chip.raiseFlock_rises h ((c.noteDemand f state).latchCause f _) f cause (unitChannels unit))

theorem Chip.demandOne_reaches {state : Nat} (h : state < 4) (cause unit : Nat) (c : Chip) (f : Nat) :
    state ≤ (c.demandOne cause state unit f).flockState f :=
  Chip.raiseFlock_reaches h _ f cause _

theorem Chip.demandOne_other {f g : Nat} (hg : g < 8) (h : g ≠ f) (cause state unit : Nat) (c : Chip) :
    (c.demandOne cause state unit f).flockState g = c.flockState g :=
  (Chip.raiseFlock_other h ((c.noteDemand f state).latchCause f _) state cause _).trans (c.noteDemand_flockState f state hg)

/-- Every Flock of the list ends at least in the demanded state. -/
theorem Chip.demandAll_reaches {state f : Nat} (h : state < 4) (hf : f < 8) (cause unit : Nat) {l : List Nat} (hl : f ∈ l) (c : Chip) :
    state ≤ (l.foldl (Chip.demandOne cause state unit) c).flockState f := by
  induction l generalizing c with
  | nil => cases hl
  | cons b l ih =>
    rcases List.mem_cons.1 hl with rfl | hl
    · exact (c.demandOne_reaches h cause unit f).trans (Chip.FlocksRise.foldl (fun b _ d => d.demandOne_rises h cause unit b) _ f hf)
    · exact ih hl _

theorem Chip.mem_flocksIn_iff {c : Chip} {mask f : Nat} : f ∈ c.flocksIn mask ↔ f < c.variant.flocks ∧ mask.testBit f = true := by
  unfold Chip.flocksIn bitsSet
  rw [List.mem_filter, List.mem_range]
  rfl

theorem Variant.flocks_le (v : Variant) : v.flocks ≤ 8 := by cases v <;> decide

/-- Settles O47: each Flock of the mask is raised in turn, and the refusal of a release gives a recovery up, which only raises. -/
theorem demandIsConservative : Obligations.DemandIsConservative := by
  intro c mask cause state unit hs d
  have hd : d = _ := c.demandFlocks_eq mask cause state unit
  refine ⟨fun hr => ⟨fun f hf => ?_, fun f hf hm => ?_⟩, fun hrel f hf hm => ?_⟩
  · rw [hd]
    exact ((Chip.refuseReleased_rises hr mask).trans (.foldl (fun b _ x => x.demandOne_rises hs cause unit b) _)) f hf
  · rw [hd]
    exact Chip.demandAll_reaches hs (hf.trans_le c.variant.flocks_le) cause unit (Chip.mem_flocksIn_iff.2 ⟨hf, hm⟩) _
  · rw [hd, Chip.refuseReleased_of_none hrel]
    refine foldl_keeps (Chip.flockState · f) (fun b hb x => x.demandOne_other hf (fun he => ?_) cause state unit) c
    simp [(Chip.mem_flocksIn_iff.1 (he ▸ hb)).2] at hm

end Sys2Proof.Machine
end

section
/-! PROOFS. Key updates (R429, R430): the bank that a command writes at its start, and the entry that puts it in force. The decision of a
ping of an antenna (R410). -/

namespace Sys2Proof.Machine

theorem VaultKey.bank_valid (b : VaultKey) : b.bank.valid = true := beq_self_eq_true _

/-- The other half of a pair is another one. -/
theorem other_half_ne (k b : Nat) : 2 * k + b ≠ 2 * k + (1 - b) := by omega

/-! ### The new bank -/

theorem Chip.stageBank_vaultSlot (c : Chip) (x : VaultCommand) (j : Nat) : (c.stageBank x).vaultSlot j = c.vaultSlot j := by
  cases x <;> rfl

theorem Chip.stageBank_entries (c : Chip) (x : VaultCommand) : (c.stageBank x).vlt.entries = c.vlt.entries := by
  cases x <;> rfl

theorem Chip.stageBank_changes (c : Chip) (x : VaultCommand) : (c.stageBank x).vlt.header.changes = c.vlt.header.changes := by
  cases x <;> rfl

section

variable (c : Chip) (k : Nat) (b : VaultKey)

theorem Chip.stageBank_banks :
    (c.stageBank (.slot k b)).vlt.banks =
      Sparse.set (fun _ => none) c.vlt.banks (2 * k + (1 - (c.vaultSlot k).bank)) (some b.bank) := rfl

theorem Chip.stageBank_bank_same :
    Sparse.get (fun _ => none) (c.stageBank (.slot k b)).vlt.banks (2 * k + (1 - (c.vaultSlot k).bank)) = some b.bank := by
  rw [Chip.stageBank_banks, Sparse.get_set_same]

theorem Chip.stageBank_bank_other {i : Nat} (h : i ≠ 2 * k + (1 - (c.vaultSlot k).bank)) :
    Sparse.get (fun _ => none) (c.stageBank (.slot k b)).vlt.banks i = Sparse.get (fun _ => none) c.vlt.banks i := by
  rw [Chip.stageBank_banks, Sparse.get_set_other h]

/-! ### The commit entry -/

theorem Chip.commitSlot_banks : (c.commitSlot k b).vlt.banks = c.vlt.banks := rfl

theorem Chip.commitSlot_changes : (c.commitSlot k b).vlt.header.changes = satN 32 (c.vlt.header.changes + 1) := rfl

theorem Chip.commitSlot_entries :
    ∃ e : VaultEntry, (c.commitSlot k b).vlt.entries =
      Sparse.set (fun _ => none) c.vlt.entries (2 * k + (1 - (c.vaultSlot k).entry)) (some e.whole) := ⟨_, rfl⟩

theorem Chip.commitSlot_entry_other {i : Nat} (h : i ≠ 2 * k + (1 - (c.vaultSlot k).entry)) :
    Sparse.get (fun _ => none) (c.commitSlot k b).vlt.entries i = Sparse.get (fun _ => none) c.vlt.entries i := by
  obtain ⟨e, he⟩ := c.commitSlot_entries k b
  rw [he, Sparse.get_set_other h]

theorem Chip.commitSlot_vaultSlot_same (hk : 0 < k) :
    (c.commitSlot k b).vaultSlot k = { key := b, bank := 1 - (c.vaultSlot k).bank, entry := 1 - (c.vaultSlot k).entry } :=
  (if_neg hk.ne').trans Sparse.get_set_same

theorem Chip.commitSlot_vaultSlot_other {j : Nat} (h : j ≠ k) : (c.commitSlot k b).vaultSlot j = c.vaultSlot j := by
  unfold Chip.vaultSlot
  split
  · rfl
  · exact Sparse.get_set_other h

end

/-- Settles O56: the start writes the bank that is not in force, and the end the entry that is not. -/
theorem keyUpdateIsDoubleBanked : Obligations.KeyUpdateIsDoubleBanked := by
  intro c k b hk old x d
  have hx : ∀ j, x.vaultSlot j = c.vaultSlot j := c.stageBank_vaultSlot _
  refine ⟨fun _ _ _ _ => rfl, hx, c.stageBank_entries _, ?_, ?_, ?_, c.stageBank_bank_same k b, b.bank_valid, fun j hj => ?_, ?_⟩
  · rw [show d.vaultSlot k = _ from x.commitSlot_vaultSlot_same k b hk, hx]
  · exact c.stageBank_bank_other k b (other_half_ne k _)
  · exact (x.commitSlot_entry_other k b (by rw [hx]; exact other_half_ne k _)).trans (by rw [c.stageBank_entries])
  · exact (x.commitSlot_vaultSlot_other k b hj).trans (hx j)
  · rw [show d.vlt.header.changes = _ from x.commitSlot_changes k b, c.stageBank_changes]

/-! ### Pings -/

/-- Truncation toward zero is division toward zero. -/
theorem trunc0_eq_tdiv (x : Int) (n : Nat) : trunc0 x n = x.tdiv ((2 ^ n : Nat) : Int) := by
  unfold trunc0
  split
  case isTrue h => rw [Int.tdiv_eq_ediv_of_nonneg h]
  case isFalse h =>
    rw [← neg_neg x, Int.neg_tdiv, neg_neg, Int.tdiv_eq_ediv_of_nonneg (by omega)]

theorem Chip.measureGamma_exceeded (c : Chip) (a : Nat) (re im : Int) : (c.measureGamma a re im).tag.exceeded = c.tag.exceeded := by
  have keeps : ∀ d : Chip, d.tag = c.tag → d.tag.exceeded = c.tag.exceeded := fun d hd => by rw [hd]
  refine ite_keeps (fun d : Chip => d.tag.exceeded)
    (fun _ => ite_keeps (fun d : Chip => d.tag.exceeded) (fun _ => rfl) (fun _ => keeps _ (Chip.raiseEv_tag _ _ _))) (fun _ => rfl)

/-- The reflection lies beyond the threshold from the reference, as the ping computes it. -/
theorem far_iff (thr dre dim : Int) : thr * thr * 16 < dre * dre + dim * dim ↔ thr ^ 2 * 2 ^ 4 < dre ^ 2 + dim ^ 2 := by
  rw [sq, sq, sq]
  norm_num

/-- Settles O53: the rows of the decision, by the antenna's fault, the distance, and the ping before. -/
theorem pingDecision : Obligations.PingDecision := by
  intro c a re im y far x
  have hwas : y.tag.exceeded = c.tag.exceeded := c.measureGamma_exceeded a re im
  have hping : c.pingAntenna a re im =
      if y.flag (TAG_ANT_ST_fault a) then (false, x)
      else if far ∧ c.tag.exceeded.testBit a = true then
        (true, (((x.putS (TAG_GAMMA_REF_re a) re).putS (TAG_GAMMA_REF_im a) im).incSat (TAG_ANT_CNT_wakes a)).raiseEv (antPage a) 0)
      else if far then (false, x)
      else
        (false,
          let z := x.putS (TAG_GAMMA_REF_re a) (x.rdS (TAG_GAMMA_REF_re a) + (re - y.rdS (TAG_GAMMA_REF_re a)).tdiv 16)
          z.putS (TAG_GAMMA_REF_im a) (z.rdS (TAG_GAMMA_REF_im a) + (im - y.rdS (TAG_GAMMA_REF_im a)).tdiv 16)) := by
    unfold Chip.pingAntenna
    simp only [bit, trunc0_eq_tdiv, far_iff, decide_eq_true_eq]
    rw [← hwas]
    rfl
  refine ⟨fun hf => ?_, fun hf => ⟨fun h hw => ?_, fun h hw => ?_, fun h => ?_⟩⟩
  · rw [hping, if_pos hf]
  · rw [hping, if_neg (by simp [hf]), if_pos ⟨h, hw⟩]
  · rw [hping, if_neg (by simp [hf]), if_neg (by simp [hw]), if_pos h]
  · rw [hping, if_neg (by simp [hf]), if_neg (fun hn => h hn.1), if_neg h]

end Sys2Proof.Machine
end

section
/-! PROOFS. The state at reset (R44, R421, R444, R483): an empty register map, so that every register reads its reset word. -/

namespace Sys2Proof.Machine

/-- A register that nothing has written reads its reset word. -/
theorem reset_word (a : Nat) : State.reset.chip.word a = resetWord .mh6432 a := rfl

/-- Settles O7: the register map and the memories list nothing, and the fields named are read off the reset words. -/
theorem resetState : Obligations.ResetState := by
  refine ⟨rfl, ⟨by decide, by decide, by decide⟩, reset_word, by decide, by decide, by decide, by decide, by decide, by decide,
    by decide, by decide, by decide, by decide, rfl, rfl, by decide, by decide, by decide, by decide, fun _ => ⟨rfl, rfl⟩⟩

end Sys2Proof.Machine
end

section
/-! PROOFS. Mailboxes (R29): the access of each row, by the plane that makes it and the state of the slot. -/

namespace Sys2Proof.Machine

/-! ### The block of an address -/

/-- The pages of two blocks share no address. -/
theorem blocks_apart (v : Variant) :
    ∀ b ∈ allBlocks, ∀ d ∈ allBlocks, b = d ∨ b.base + b.count v * b.pitch ≤ d.base ∨ d.base + d.count v * d.pitch ≤ b.base := by
  cases v <;> decide

/-- An address among the pages of a block lies in that block. -/
theorem locate_of_mem_pages {v : Variant} {b : Blk} {a : Nat} (hb : b ∈ allBlocks) (lo : b.base ≤ a) (hi : a < b.base + b.count v * b.pitch) :
    locate v a = some (b, (a - b.base) / b.pitch) := by
  unfold locate
  cases hf : allBlocks.find? (fun b => decide (b.base ≤ a) && decide (a < b.base + b.count v * b.pitch)) with
  | none =>
    have hn := List.find?_eq_none.1 hf b hb
    simp [lo, hi] at hn
  | some d =>
    have hd := List.find?_some hf
    simp only [Bool.and_eq_true, decide_eq_true_eq] at hd
    rcases blocks_apart v b hb d (List.mem_of_find?_eq_some hf) with rfl | h | h
    · rfl
    · omega
    · omega

theorem locate_mailbox {v : Variant} {a p : Nat} (hp : p < 6) (lo : 0x3FF00000 + p * 0x800 ≤ a) (hi : a < 0x3FF00000 + p * 0x800 + 0x800) :
    locate v a = some (.mbx, p) := by
  have hl := locate_of_mem_pages (v := v) (b := .mbx) (a := a) (by decide) (by simp only [Blk.base]; omega)
    (by simp only [Blk.base, Blk.count, Blk.pitch]; omega)
  have hn : (a - Blk.mbx.base) / Blk.mbx.pitch = p := by simp only [Blk.base, Blk.pitch]; omega
  rwa [hn] at hl

/-! ### An access of a mailbox -/

section

variable {c : Chip} {acc : Access} {p : Nat}

theorem Chip.writeUnit_of_accepts {b : Blk} {n a v : Nat} (hn : n < b.count c.variant) (h : c.Accepts acc a v) (f : Chip → Chip) :
    c.writeUnit b n acc a v f = f c :=
  (if_pos hn).trans (Chip.write_of_accepts h f)

theorem Chip.writeUnit_of_violation {b : Blk} {n a v kind : Nat} (hn : n < b.count c.variant) (h : c.writeViolation acc a v = some kind)
    (f : Chip → Chip) : c.writeUnit b n acc a v f = c.violate acc a kind true :=
  (if_pos hn).trans (Chip.write_of_violation h f)

theorem Chip.mailboxWrite_of_accepts {a : Nat} (hp : p < 6) (h : c.Accepts acc a 0) (plane : Nat) (f : Chip → Chip) :
    c.mailboxWrite acc a p plane f = if initiatorPlane acc.by_ ≠ plane then c.violate acc a 3 true else f c :=
  Chip.writeUnit_of_accepts hp h _

/-- A plane that is not one of the pair may write none of its words (R48). -/
theorem Chip.writeViolation_outsider {a : Nat} (hp : p < 6) (lo : 0x3FF00000 + p * 0x800 ≤ a) (hi : a < 0x3FF00000 + p * 0x800 + 0x800)
    (hsize : acc.size = 4) (hskew : acc.skew = 0) (hout : inPair p (initiatorPlane acc.by_) = false) (v : Nat) :
    c.writeViolation acc a v = some 0 := by
  have hw : ¬ (0x3F000000 ≤ a ∧ a < 0x3F300000) := by omega
  simp [Chip.writeViolation, hw, locate_mailbox hp lo hi, hsize, hskew, Chip.mayWrite, hout]

theorem Chip.readViolation_outsider {a : Nat} (hp : p < 6) (lo : 0x3FF00000 + p * 0x800 ≤ a) (hi : a < 0x3FF00000 + p * 0x800 + 0x800)
    (hsize : acc.size = 4) (hskew : acc.skew = 0) (hout : inPair p (initiatorPlane acc.by_) = false) :
    c.readViolation acc a = some 2 := by
  simp [Chip.readViolation, locate_mailbox hp lo hi, hsize, hskew, Chip.mayRead, hout]

/-- A read of a mailbox block is a read of its word behind the checks, zero for the receiver of a free slot. -/
theorem latchedWordRead_mailbox {a : Nat} (hp : p < 6) (lo : 0x3FF00000 + p * 0x800 ≤ a) (hi : a < 0x3FF00000 + p * 0x800 + 0x800) :
    latchedWordRead acc a c = c.read acc a fun c =>
      if c.freeSlotRead (initiatorPlane acc.by_) p (a - 0x3FF00000 - p * 0x800) then { c with rdata := 0 }
      else c.readWord .mbx a (a - 0x3FF00000 - p * 0x800) := by
  have hm : isMemory a = false := by
    have htop : ¬ trafficBase ≤ a := by unfold trafficBase; omega
    simp [isMemory, htop]; omega
  have hw : ¬ (0x3F000000 ≤ a ∧ a < 0x3F300000) := by omega
  have hc : ¬ (0x3FE00000 ≤ a ∧ a < 0x3FE10000) := by omega
  have hofs : (a - Blk.mbx.base) % Blk.mbx.pitch = a - 0x3FF00000 - p * 0x800 := by simp only [Blk.base, Blk.pitch]; omega
  simp [latchedWordRead, hm, hw, hc, locate_mailbox hp lo hi, hofs, readHasOwnRow, isShadow]

end

/-! ### The rows -/

section

variable {c : Chip} {acc : Access} {p k : Nat}

theorem mbxPayloadWrite_eq {w : Nat} (hk : k < 16) (hw : w < 16) (v : Nat) :
    mbxPayloadWrite acc p k w v c = c.mailboxWrite acc (mailboxWord p k w) p (mailboxSender p k) fun c =>
      if c.flag ((MBX_STATE_full p).bitOf k) then c.mailboxRefuse p k else c.setBytes (mailboxWord p k w) (leBytes 4 v) :=
  if_neg (by omega)

theorem mbxPost_eq (hk : k < 16) :
    mbxPost acc p k c = c.mailboxWrite acc (MBX_POST p).addr p (mailboxSender p k) fun c =>
      if c.flag ((MBX_STATE_full p).bitOf k) then c.mailboxRefuse p k
      else (c.setFlag ((MBX_STATE_full p).bitOf k) true).fireShared (doorbell p (if k < 8 then 0 else 2)) := by
  unfold mbxPost
  rw [Nat.mod_eq_of_lt hk]

theorem mbxTake_eq (hk : k < 16) :
    mbxTake acc p k c = c.mailboxWrite acc (MBX_TAKE p).addr p (if k < 8 then (pairPlanes p).2 else (pairPlanes p).1) fun c =>
      if c.flag ((MBX_STATE_full p).bitOf k) then
        (c.setFlag ((MBX_STATE_full p).bitOf k) false).fireShared (doorbell p (if k < 8 then 1 else 3))
      else c := by
  unfold mbxTake
  rw [Nat.mod_eq_of_lt hk]

/-- The two planes of a pair are two. -/
theorem pairPlanes_ne (p : Nat) : (pairPlanes p).1 ≠ (pairPlanes p).2 := by
  unfold pairPlanes
  split <;> decide

/-- The sender of a slot does not take it. -/
theorem mailboxSender_ne_receiver (p k : Nat) : mailboxSender p k ≠ if k < 8 then (pairPlanes p).2 else (pairPlanes p).1 := by
  unfold mailboxSender
  split
  · exact pairPlanes_ne p
  · exact (pairPlanes_ne p).symm

theorem mailboxWord_bounds {w : Nat} (hk : k < 16) (hw : w < 16) :
    0x3FF00000 + p * 0x800 ≤ mailboxWord p k w ∧ mailboxWord p k w < 0x3FF00000 + p * 0x800 + 0x800 := by
  unfold mailboxWord
  omega

theorem mbxPost_bounds (p : Nat) : 0x3FF00000 + p * 0x800 ≤ (MBX_POST p).addr ∧ (MBX_POST p).addr < 0x3FF00000 + p * 0x800 + 0x800 := by
  simp only [MBX_POST]
  omega

theorem mbxTake_bounds (p : Nat) : 0x3FF00000 + p * 0x800 ≤ (MBX_TAKE p).addr ∧ (MBX_TAKE p).addr < 0x3FF00000 + p * 0x800 + 0x800 := by
  simp only [MBX_TAKE]
  omega

/-- The receiver reads a free slot as zero. -/
theorem latchedWordRead_of_free {w : Nat} (hp : p < 6) (hk : k < 16) (hw : w < 16) (h : c.Readable acc (mailboxWord p k w))
    (hr : initiatorPlane acc.by_ = if k < 8 then (pairPlanes p).2 else (pairPlanes p).1)
    (hfree : c.flag ((MBX_STATE_full p).bitOf k) = false) :
    latchedWordRead acc (mailboxWord p k w) c = { c with rdata := 0 } := by
  obtain ⟨lo, hi⟩ := mailboxWord_bounds (p := p) hk hw
  have hofs : mailboxWord p k w - 0x3FF00000 - p * 0x800 = k * 0x40 + w * 4 := by unfold mailboxWord; omega
  have hslot : (k * 0x40 + w * 4) / 0x40 = k := by omega
  have hlow : k * 0x40 + w * 4 < 0x400 := by omega
  rw [latchedWordRead_mailbox hp lo hi, Chip.read_of_readable h, hofs]
  refine if_pos ?_
  simp [Chip.freeSlotRead, hslot, hlow, hfree, hr]

end

/-- Settles O8: each row is a write behind the checks of R48 and of the slot's direction; an outsider's access is refused by R48. -/
theorem mailboxes : Obligations.Mailboxes := by
  refine ⟨fun s acc p k hp hk => ⟨fun w v hw h hs => ?_, fun h hs => ?_, fun h hr => ?_, fun w hw h hr hfree => ?_⟩,
    fun s acc p k w v hp hk hw => ⟨fun h hs => ?_, fun h hs => ?_, fun h hs => ?_⟩,
    fun s acc p k hp hk hsize hskew hout => ⟨fun a lo hi => ?_, fun w v hw => ?_, ?_, ?_⟩⟩
  · exact answers rfl (by rw [mbxPayloadWrite_eq hk hw, Chip.mailboxWrite_of_accepts hp h, if_neg (not_not.2 hs)])
  · exact answers rfl (by rw [mbxPost_eq hk, Chip.mailboxWrite_of_accepts hp h, if_neg (not_not.2 hs)])
  · exact answers rfl (by rw [mbxTake_eq hk, Chip.mailboxWrite_of_accepts hp h, if_neg (not_not.2 hr)])
  · exact answers rfl (latchedWordRead_of_free hp hk hw h hr hfree)
  · exact answers rfl (by rw [mbxPayloadWrite_eq hk hw, Chip.mailboxWrite_of_accepts hp h, if_pos hs])
  · exact answers rfl (by rw [mbxPost_eq hk, Chip.mailboxWrite_of_accepts hp h, if_pos hs])
  · exact answers rfl (by rw [mbxTake_eq hk, Chip.mailboxWrite_of_accepts hp h, if_pos (hs ▸ mailboxSender_ne_receiver p k)])
  · have hlo : 0x3FF00000 + p * 0x800 ≤ a := by unfold mailboxWord at lo; omega
    have hhi : a < 0x3FF00000 + p * 0x800 + 0x800 := by unfold mailboxWord at hi; omega
    refine answers rfl ?_
    rw [latchedWordRead_mailbox hp hlo hhi, Chip.read_of_violation (Chip.readViolation_outsider hp hlo hhi hsize hskew hout)]
  · obtain ⟨lo, hi⟩ := mailboxWord_bounds (p := p) hk hw
    refine answers rfl ?_
    rw [mbxPayloadWrite_eq hk hw]
    exact Chip.writeUnit_of_violation hp (Chip.writeViolation_outsider hp lo hi hsize hskew hout 0) _
  · obtain ⟨lo, hi⟩ := mbxPost_bounds p
    refine answers rfl ?_
    rw [mbxPost_eq hk]
    exact Chip.writeUnit_of_violation hp (Chip.writeViolation_outsider hp lo hi hsize hskew hout 0) _
  · obtain ⟨lo, hi⟩ := mbxTake_bounds p
    refine answers rfl ?_
    rw [mbxTake_eq hk]
    exact Chip.writeUnit_of_violation hp (Chip.writeViolation_outsider hp lo hi hsize hskew hout 0) _

end Sys2Proof.Machine
end

section
/-! PROOFS. The registers of a page (R46, R49, R50), claims of shared resources (R52), and bus writes and reads (R22, R48, R49). -/

namespace Sys2Proof.Machine

/-! ### The rows of a page -/

section

variable {c : Chip} {acc : Access} {page v : Nat}

theorem evPendClear_of_accepts (hp : c.isPage page = true) (h : c.Accepts acc (page + 0x018) v) (arriving : Nat) :
    evPendClear acc page v arriving c = (c.setWord (page + 0x018)
      ((c.word (page + 0x018) &&& ~~~(BitVec.ofNat 32 v &&& c.word (page + 0x01C))) |||
        (BitVec.ofNat 32 arriving &&& c.word (page + 0x01C)))).settleEvents :=
  (if_neg (not_not.2 hp)).trans (Chip.write_of_accepts h _)

theorem evTypeWrite_of_accepts (hp : c.isPage page = true) (h : c.Accepts acc (page + 0x01C) v) :
    evTypeWrite acc page v c =
      ((c.setWord (page + 0x018) (c.word (page + 0x018) &&& ~~~(c.word (page + 0x01C) ^^^ BitVec.ofNat 32 v))).setWord
        (page + 0x01C) (BitVec.ofNat 32 v)).settleEvents :=
  (if_neg (not_not.2 hp)).trans (Chip.write_of_accepts h _)

theorem violationClear_of_accepts (h : c.Accepts acc FAB_VIOL_CLR.addr v) (hv : v % 2 = 1) :
    violationClear acc v c = ((c.put FAB_VIOL_COUNT 0).put FAB_VIOL_ADDR 0).put FAB_VIOL_INFO 0 :=
  (Chip.write_of_accepts h _).trans (if_pos hv)

theorem Chip.Accepts.locate {a : Nat} (h : c.Accepts acc a v) : ∃ b n, locate c.variant a = some (b, n) := by
  have hf := h.fitted
  unfold isFitted at hf
  cases hl : Machine.locate c.variant a with
  | none => simp [hl] at hf
  | some p => exact ⟨p.1, p.2, rfl⟩

theorem shadowWrite_of_accepts {a n : Nat} {b : Blk} (hl : Machine.locate c.variant a = some (b, n)) (h : c.Accepts acc a v)
    (hs : stagedMask b (activeOfs ((a - b.base) % b.pitch)) ≠ 0) :
    shadowWrite acc a v false c = c.stageWrite (initiatorPlane acc.by_) a v := by
  unfold shadowWrite
  rw [hl]
  exact (if_neg hs).trans ((if_neg Bool.false_ne_true).trans (Chip.write_of_accepts h _))

/-- A write of OWNER that passes, behind the store of the read scope (R50). -/
theorem ownerWrite_of_accepts (hp : c.isPage page = true) (h : c.Accepts acc (page + 0x030) v) :
    ownerWrite acc page v c =
      let d := c.put (scopeFld page) (v / 16)
      if ¬ d.flag ⟨page + 0x030, 8, 1⟩ = true ∨ ¬ d.ownerAllowed page (v % 4) = true ∨ v % 4 = d.rd (ownerFld page) then d
      else if d.frozen page = true then d.violate acc (page + 0x030) 0 true
      else if (d.stg.dirty.any fun e => e.1 == page) = true then (d.put (ownerFld page) (v % 4)).discardShadows page
      else d.put (ownerFld page) (v % 4) :=
  (if_neg (not_not.2 hp)).trans (Chip.write_of_accepts h _)

end

/-- Settles O9: the rows behind their checks, and the owner's write by the conditions of R50 in their order. -/
theorem pageRegisters : Obligations.PageRegisters := by
  refine ⟨fun s acc page v arriving hp => ⟨fun h => answers rfl (evPendClear_of_accepts hp h arriving),
    fun h => answers rfl (evTypeWrite_of_accepts hp h), fun h hv => answers rfl (violationClear_of_accepts h hv), fun a h hs => ?_⟩,
    fun s acc page v hp h => ?_⟩
  · obtain ⟨b, n, hl⟩ := h.locate
    rw [hl] at hs
    exact answers rfl (shadowWrite_of_accepts hl h hs)
  · intro c
    have he : ∀ d : Chip, ownerWrite acc page v s.chip = d → exec (.ownerWrite acc page v) s = .next (s.after d.tagSettle) :=
      fun d hd => answers (f := fun c => (ownerWrite acc page v c).tagSettle) rfl (congrArg Chip.tagSettle hd)
    have hw := ownerWrite_of_accepts hp h
    refine ⟨fun hn => he c (hw.trans (if_pos ?_)), fun hr hne ha hf => he _ (hw.trans ((if_neg ?_).trans (if_pos hf))),
      fun hr hne ha hf => ?_⟩
    · rw [Bool.not_eq_true, Bool.not_eq_true]
      tauto
    · rintro (hn | hn | hn)
      · exact hn hr
      · exact hn ha
      · exact hne hn
    · rw [← apply_ite Chip.tagSettle]
      refine he _ (hw.trans ((if_neg ?_).trans (if_neg (Bool.eq_false_iff.1 hf))))
      rintro (hn | hn | hn)
      · exact hn hr
      · exact hn ha
      · exact hne hn

/-! ### Claims -/

section

variable {c : Chip} {acc : Access} {k : Nat}

theorem claim_of_free (hk : k < 76) (h : c.flag (FAB_CLAIM_held k) = false) :
    claim acc k c =
      ((c.setFlag (FAB_CLAIM_held k) true).put (FAB_CLAIM_owner k) (initiatorPlane acc.by_)).setFlag (FAB_CLAIM_refused k) false := by
  unfold claim
  rw [if_neg (by omega), if_pos (by simp [h])]

theorem claim_of_held (hk : k < 76) (h : c.flag (FAB_CLAIM_held k) = true) :
    claim acc k c = if c.rd (FAB_CLAIM_owner k) = initiatorPlane acc.by_ then c else c.setFlag (FAB_CLAIM_refused k) true := by
  unfold claim
  rw [if_neg (by omega), if_neg (by simp [h])]

theorem Chip.releaseWord_of_holder (hk : k < 76) (h : c.holds (initiatorPlane acc.by_) k = true) :
    c.releaseWord acc k = if k = 63 then c else (c.setFlag (FAB_CLAIM_held k) false).put (FAB_CLAIM_owner k) 0 := by
  unfold Chip.releaseWord fixedOwner
  rw [if_neg (by omega), if_pos h]
  simp only [beq_iff_eq]

theorem Chip.releaseWord_of_other (hk : k < 76) (h : c.holds (initiatorPlane acc.by_) k = false) :
    c.releaseWord acc k = c.violate acc (FAB_CLAIM k).addr (if acc.size ≠ 4 ∨ acc.skew ≠ 0 then 4 else 5) true := by
  unfold Chip.releaseWord
  rw [if_neg (by omega), if_neg (by simp [h])]

theorem claimForce_of_held (hk : k < 76) (ha : c.Accepts acc FAB_CLAIM_FORCE.addr k) (hfix : k ≠ 63)
    (h : c.flag (FAB_CLAIM_held k) = true) :
    claimForce acc k c = (((c.setFlag (FAB_CLAIM_held k) false).put (FAB_CLAIM_owner k) 0).stopResource k).tagSettle := by
  unfold claimForce
  rw [Chip.write_of_accepts ha, Nat.mod_eq_of_lt (by omega)]
  exact if_neg (by simp [fixedOwner, hfix, h, hk])

end

/-- Settles O10: the rows of a claim by who holds the resource. -/
theorem claims : Obligations.Claims := by
  intro s acc k hk
  refine ⟨fun h => answers rfl (claim_of_free hk h), fun h => answers rfl (claim_of_held hk h), fun h => ?_, fun h => ?_,
    fun ha hfix h => answers rfl (claimForce_of_held hk ha hfix h)⟩
  · exact answers (f := fun c => (c.releaseWord acc k).tagSettle) rfl (congrArg Chip.tagSettle (Chip.releaseWord_of_holder hk h))
  · exact answers (f := fun c => (c.releaseWord acc k).tagSettle) rfl (congrArg Chip.tagSettle (Chip.releaseWord_of_other hk h))

/-! ### Bus accesses -/

section

variable {c : Chip} {acc : Access} {a : Nat}

/-- A write of a register without a row of its own is a write behind the checks, but for TRF_CAL_ADDR on Off. -/
theorem registerWrite_of_register {cyc n : Nat} {b : Blk} (hm : isMemory a = false) (hl : locate (c.advanceTo cyc).variant a = some (b, n))
    (hrow : hasOwnRow b ((a - b.base) % b.pitch) = false) (hs : isShadow b ((a - b.base) % b.pitch) = false) (v : Nat) :
    registerWrite acc a v cyc c = (c.advanceTo cyc).write acc a v fun d =>
      if b = .trf ∧ (a - b.base) % b.pitch = 0x130 ∧ d.isOff = true then d.violate acc a 0 true
      else d.storeRegister (initiatorPlane acc.by_) b n a ((a - b.base) % b.pitch) v := by
  unfold registerWrite
  dsimp only
  rw [if_neg (by simp [hm]), hl]
  dsimp only
  rw [if_neg (by simp [hs]), if_neg (by simp [hrow, hs])]

theorem registerWrite_of_memory (hm : isMemory a = true) (v cyc : Nat) :
    registerWrite acc a v cyc c =
      if (c.advanceTo cyc).mayReach (initiatorPlane acc.by_) (a + acc.skew) acc.size = true then
        (c.advanceTo cyc).setBytes (a + acc.skew) (leBytes (min 8 acc.size) v)
      else (c.advanceTo cyc).violate acc a 0 true :=
  if_pos hm

theorem latchedWordRead_of_memory (hm : isMemory a = true) :
    latchedWordRead acc a c =
      if c.mayReach (initiatorPlane acc.by_) (a + acc.skew) acc.size = true then
        { c with rdata := Memory.le c.mem (a + acc.skew) (min 8 acc.size) }
      else { c.violate acc a 2 false with rdata := 0 } :=
  if_pos hm

/-- Between the planes' memories and the port-traffic buffer no address is memory. -/
theorem isMemory_eq_false_of_mid (lo : 0x3F000000 ≤ a) (hi : a < 0x100000000) : isMemory a = false := by
  have htop : ¬ trafficBase ≤ a := by unfold trafficBase; omega
  simp [isMemory, htop, lo]

theorem latchedWordRead_of_window {k ofs : Nat} (hk : k < 3) (hofs : ofs < 0x100000) (ha : a = 0x3F000000 + 0x100000 * k + ofs)
    (hsize : acc.size = 4) (hskew : acc.skew = 0) :
    latchedWordRead acc a c =
      if ofs = 12 then { c with rdata := (Sparse.get (resetWord c.variant) c.latch a).toNat }
      else if ofs = 8 then
        { c with
          latch := Sparse.set (resetWord c.variant) c.latch (a + 4) (BitVec.ofNat 32 (wordOf c.progress 1))
          rdata := wordOf c.progress 0 }
      else { c with rdata := c.windowWord k ofs } := by
  have hmod : a % 0x100000 = ofs := by omega
  have hdiv : a / 0x100000 % 4 = k := by omega
  unfold latchedWordRead
  rw [if_neg (by simp [isMemory_eq_false_of_mid (a := a) (by omega) (by omega)]), if_pos (by omega)]
  unfold Chip.readWindow
  rw [if_neg (by simp [hsize, hskew]), hmod, hdiv]
  dsimp only
  split
  · rfl
  · split
    case isTrue h8 =>
      subst h8
      rfl
    case isFalse => rfl

theorem latchedWordRead_of_can {n ofs : Nat} (hn : n < Blk.can.count c.variant) (hofs : ofs < 0x4000) (ha : a = 0x3FE00000 + 0x4000 * n + ofs)
    (hsize : acc.size = 4) (hskew : acc.skew = 0) (hscope : bit (c.rd (scopeFld (canPage n))) (initiatorPlane acc.by_) = true) :
    latchedWordRead acc a c = { c with rdata := Memory.le c.mem a 4 } := by
  have hn4 : n < 4 := hn
  have hdiv : (a - 0x3FE00000) / 0x4000 = n := by omega
  unfold latchedWordRead
  rw [if_neg (by simp [isMemory_eq_false_of_mid (a := a) (by omega) (by omega)]), if_neg (by omega), if_pos (by omega)]
  unfold Chip.readCan
  rw [hdiv]
  dsimp only
  rw [if_neg (Nat.not_le.2 hn), if_neg (by simp [hsize, hskew]), if_neg (by simp [hscope])]

/-- A read of a register whose read is no other row is a read behind the checks. -/
theorem latchedWordRead_of_register {b : Blk} {n : Nat} (hm : isMemory a = false) (hw : ¬ (0x3F000000 ≤ a ∧ a < 0x3F300000))
    (hc : ¬ (0x3FE00000 ≤ a ∧ a < 0x3FE10000)) (hl : locate c.variant a = some (b, n))
    (hrow : readHasOwnRow b ((a - b.base) % b.pitch) = false)
    (hs : isShadow b ((a - b.base) % b.pitch) = true → stagedMask b (activeOfs ((a - b.base) % b.pitch)) ≠ 0) :
    latchedWordRead acc a c = c.read acc a fun d =>
      if b = .mbx ∧ d.freeSlotRead (initiatorPlane acc.by_) n ((a - b.base) % b.pitch) = true then { d with rdata := 0 }
      else d.readWord b a ((a - b.base) % b.pitch) := by
  unfold latchedWordRead
  rw [if_neg (by simp [hm]), if_neg hw, if_neg hc, hl]
  dsimp only
  rw [if_neg (by simp [hrow]), if_neg fun h => hs h.1 h.2]

end

/-- Settles O14: each kind of address takes its branch, and a register's access passes its checks or is recorded. -/
theorem registerAccess : Obligations.RegisterAccess := by
  intro s acc a v cyc c d plane
  refine ⟨fun b n hm hl hrow hs => ⟨fun h => answers rfl ?_, fun kind h => answers rfl ?_⟩,
    fun hm => ⟨answers rfl (registerWrite_of_memory hm v cyc), answers rfl (latchedWordRead_of_memory hm)⟩,
    fun k hk ofs hofs ha hsize hskew => answers rfl (latchedWordRead_of_window hk hofs ha hsize hskew),
    fun n ofs hn hofs ha hsize hskew hscope => answers rfl (latchedWordRead_of_can hn hofs ha hsize hskew hscope),
    fun b n hm hw hc hl hrow hs => ⟨fun h => answers rfl ?_, fun kind h => answers rfl ?_⟩⟩
  · rw [registerWrite_of_register hm hl hrow hs, Chip.write_of_accepts h]
  · rw [registerWrite_of_register hm hl hrow hs, Chip.write_of_violation h]
  · rw [latchedWordRead_of_register hm hw hc hl hrow hs, Chip.read_of_readable h]
  · rw [latchedWordRead_of_register hm hw hc hl hrow hs, Chip.read_of_violation h]

end Sys2Proof.Machine
end

section
/-! PROOFS. The staged-change controller (R54–R58, R61, R155, R156, R165, R221). -/

namespace Sys2Proof.Machine

/-! ### Arms and cancels -/

section

variable {c : Chip} {acc : Access} {p v : Nat}

/-- The hand-over window after an arm: that of slot 1 ends it (R165). -/
def Chip.windowEnded (c : Chip) (p : Nat) : Chip := if p = 1 then c.setFlag SFE_CAL_SEAL_ho_open false else c

/-- The captured target of slot p. -/
def Chip.targetOf (c : Chip) (p : Nat) : Nat := c.rd64 (STG_TGT_LO_target p) (STG_TGT_HI_target p)

/-- The arm is the hand-over arm (R165). -/
def Chip.handoverArm (c : Chip) (p : Nat) : Bool := p == 1 && c.flag SFE_CAL_SEAL_ho_open

theorem stgArm_of_accepts (hp : p < 4) (h : c.Accepts acc (STG_CMD p).addr v) (hv : v % 4 = 1) :
    stgArm acc p v c =
      if c.armState p (c.handoverArm p) = 1 then
        let e := (c.windowEnded p).armSlot p (c.targetOf p) (c.handoverArm p) false
        if e.pairPages p then e.mirror (.arm p (c.targetOf p) (c.handoverArm p)) else e
      else ((c.windowEnded p).put (STG_SLOT_ST_state p) (c.armState p (c.handoverArm p))).raiseEv stgPage (4 + p) :=
  (if_neg (Nat.not_le.2 hp)).trans ((Chip.write_of_accepts h _).trans (if_neg (not_not.2 hv)))

theorem stgArm_idle (hp : p < 4) (h : c.Accepts acc (STG_CMD p).addr v) (hv : v % 4 ≠ 1) : stgArm acc p v c = c :=
  (if_neg (Nat.not_le.2 hp)).trans ((Chip.write_of_accepts h _).trans (if_pos hv))

theorem stgCancel_of_accepts (hp : p < 4) (h : c.Accepts acc (STG_CMD p).addr v) :
    stgCancel acc p v c =
      if v % 4 = 2 ∧ c.armed p = true then
        ((if c.pairPages p then c.mirror (.cancel p) else c).put (STG_SLOT_ST_state p) 5).setSlot p {}
      else c :=
  (if_neg (Nat.not_le.2 hp)).trans (Chip.write_of_accepts h _)

end

/-! ### The state that an arm gives -/

section

variable {c : Chip} {p : Nat} {ho : Bool}

theorem Chip.armState_of_armed (h : c.armed p = true) : c.armState p ho = 4 := if_pos h

theorem Chip.armState_of_late (h : c.armed p = false) (hl : c.targetOf p < c.stride + 2) : c.armState p ho = 3 :=
  (if_neg (Bool.eq_false_iff.1 h)).trans (if_pos hl)

theorem Chip.armState_of_empty (h : c.armed p = false) (hl : c.stride + 2 ≤ c.targetOf p) (he : c.dirtyPages p = []) :
    c.armState p ho = 7 :=
  (if_neg (Bool.eq_false_iff.1 h)).trans ((if_neg (Nat.not_lt.2 hl)).trans (if_pos (List.isEmpty_iff.2 he)))

/-- An arm of dirty pages in time is decided by what it arms. -/
theorem Chip.armState_of_dirty (h : c.armed p = false) (hl : c.stride + 2 ≤ c.targetOf p) (he : c.dirtyPages p ≠ []) :
    c.armState p ho =
      if ho = true then (if c.rd SFE_CAL_CRC_STG_crc = c.rd SFE_CAL_HO_CRC_crc then 1 else 6)
      else if (c.dirtyPages p).any c.sealBlocks = true then 6
      else if (c.dirtyPages p).any (imagePage c.variant) = true ∧
          (c.rd SFE_CAL_COUNT_count = 0xFFFFFFFF ∨ c.noSession = true ∨ ¬ c.flag SFE_CAL_SEAL_handed_over = true) then 6
      else 1 :=
  (if_neg (Bool.eq_false_iff.1 h)).trans ((if_neg (Nat.not_lt.2 hl)).trans (if_neg (mt List.isEmpty_iff.1 he)))

end

/-- An arm whose state is 1 is accepted. -/
theorem stgArm_accepted {c : Chip} {acc : Access} {p v : Nat} {ho : Bool} (hp : p < 4) (h : c.Accepts acc (STG_CMD p).addr v) (hv : v % 4 = 1)
    (hho : c.handoverArm p = ho) (hs : c.armState p ho = 1) :
    stgArm acc p v c =
      let e := (c.windowEnded p).armSlot p (c.targetOf p) ho false
      if e.pairPages p then e.mirror (.arm p (c.targetOf p) ho) else e := by
  subst hho
  exact (stgArm_of_accepts hp h hv).trans (if_pos hs)

/-- An arm with another state is refused with it. -/
theorem stgArm_refused {c : Chip} {acc : Access} {p v r : Nat} (hp : p < 4) (h : c.Accepts acc (STG_CMD p).addr v) (hv : v % 4 = 1)
    (hs : c.armState p (c.handoverArm p) = r) (hr : r ≠ 1) :
    stgArm acc p v c = ((c.windowEnded p).put (STG_SLOT_ST_state p) r).raiseEv stgPage (4 + p) := by
  subst hs
  exact (stgArm_of_accepts hp h hv).trans (if_neg hr)

/-! ### Mirrored writes, arm records and the edge -/

section

variable {c : Chip}

theorem shadowWrite_of_mirrored {acc : Access} {a v n : Nat} {b : Blk} (hl : locate c.variant a = some (b, n)) (hoff : c.isOff = true)
    (hb : b.pairScope = true) (hs : stagedMask b (activeOfs ((a - b.base) % b.pitch)) ≠ 0) :
    shadowWrite acc a v true c = c.stageWrite (c.rd (ownerFld (pageOf b n))) a v := by
  unfold shadowWrite
  rw [hl]
  exact (if_neg hs).trans ((if_pos rfl).trans (if_pos ⟨hoff, hb⟩))

theorem armRecordReceive_of_off {p : Nat} (hp : p < 4) (hoff : c.isOff = true) (target : Nat) (cancel ho : Bool) :
    armRecordReceive p target cancel ho c =
      if cancel = true then (if c.armed p then (c.put (STG_SLOT_ST_state p) 5).setSlot p {} else c)
      else if target ≤ c.stride then c else c.armSlot p target ho true :=
  if_neg (by simp [hoff, hp])

theorem armRecordReceive_of_not_off (hoff : c.isOff = false) (p target : Nat) (cancel ho : Bool) :
    armRecordReceive p target cancel ho c = c :=
  if_pos (by simp [hoff])

/-- The slots armed for the coming edge. -/
def Chip.dueSlots (c : Chip) : List Nat := (List.range 4).filter fun p => c.armed p && (c.slot p).target == some c.nextStride

/-- The block with pair_mismatch set where Near applies a slot that is not due here. -/
def Chip.missedNear (c : Chip) (near : Nat) : Chip :=
  if (c.isOff && (List.range 4).any fun p => bit near p && !c.dueSlots.contains p) = true then c.pairMismatch else c

/-- Near applies a slot with mirrored pages that Off has not confirmed. -/
def Chip.appliesAlone (c : Chip) (due : List Nat) : Bool :=
  c.flag HRN_CTRL_pair_en && c.rd HRN_STATUS_role == 1 && due.any fun p => c.pairPages p && !(c.slot p).confirmed

theorem stgApply_eq (near : Nat) (c : Chip) :
    stgApply near c =
      let d := c.missedNear near
      if c.dueSlots.isEmpty = true then d
      else if d.flag LDG_STATUS_committed = true then
        c.dueSlots.foldl (fun (c : Chip) p => ((c.put (STG_SLOT_ST_state p) 5).setSlot p {}).raiseEv stgPage (4 + p)) d
      else
        (c.dueSlots.foldl (fun (e : Chip) p => e.applySlot p c.nextStride) (if d.appliesAlone c.dueSlots then d.pairMismatch else d)).inc
          STG_APPLY_COUNT_count := rfl

theorem pageStoreEccError_of_located {page n : Nat} {b : Blk} (hl : locate c.variant page = some (b, n)) :
    pageStoreEccError page c = forN 4 (fun p c =>
      if c.armed p && (c.slot p).frozen.contains (pageBase page) then
        ((c.put (STG_SLOT_ST_state p) 5).setSlot p {}).raiseEv stgPage (4 + p)
      else c) (c.setFault (c.pageLevel b n).1 (b.code * 256 + 32) (c.pageLevel b n).2) := by
  unfold pageStoreEccError
  rw [hl]
  rfl

end

/-- Settles O13: an arm by the state that it gives, a cancel, the records of Near's arms, the edge by what is due, and an error of the page
store. -/
theorem stagedChange : Obligations.StagedChange := by
  refine ⟨fun s acc p v hp h => ?_, fun s => ⟨fun acc a v b n hl hoff hb hs => answers rfl (shadowWrite_of_mirrored hl hoff hb hs),
    fun p target ho hp hoff => ⟨answers rfl (armRecordReceive_of_off hp hoff target false ho),
      answers rfl (armRecordReceive_of_off hp hoff target true ho)⟩,
    fun p target cancel ho hoff => answers rfl (armRecordReceive_of_not_off hoff p target cancel ho), fun near => ?_,
    fun page b n hl => answers rfl (pageStoreEccError_of_located hl)⟩⟩
  · intro c d ho target accepted refused
    have hacc : ∀ {x : Bool}, v % 4 = 1 → ho = x → c.armState p x = 1 → accepted x := fun hv hx hs =>
      answers rfl (stgArm_accepted hp h hv hx hs)
    have href : ∀ {r : Nat}, v % 4 = 1 → c.armState p ho = r → r ≠ 1 → refused r := fun hv hs hr =>
      answers rfl (stgArm_refused hp h hv hs hr)
    refine ⟨fun hv => ⟨answers rfl (stgArm_idle hp h (by omega)), answers rfl ((stgCancel_of_accepts hp h).trans (if_neg (by omega)))⟩,
      fun hv => ⟨fun ha => href hv (Chip.armState_of_armed ha) (by decide),
        fun ha hl => href hv (Chip.armState_of_late ha hl) (by decide),
        fun ha hl he => href hv (Chip.armState_of_empty ha hl he) (by decide),
        fun ha hl he hho => ⟨fun hcrc => ?_, fun hcrc => ?_⟩, fun ha hl he hho => ⟨fun hb => ?_, fun hb hi hn => ?_, fun hb hi => ?_⟩⟩,
      fun hv => ?_⟩
    · exact hacc hv hho ((Chip.armState_of_dirty ha hl he).trans ((if_pos rfl).trans (if_pos hcrc)))
    · exact href hv ((Chip.armState_of_dirty ha hl he).trans ((if_pos hho).trans (if_neg hcrc))) (by decide)
    · exact href hv ((Chip.armState_of_dirty ha hl he).trans ((if_neg (Bool.eq_false_iff.1 hho)).trans (if_pos hb))) (by decide)
    · refine href hv ((Chip.armState_of_dirty ha hl he).trans ((if_neg (Bool.eq_false_iff.1 hho)).trans
        ((if_neg (Bool.eq_false_iff.1 hb)).trans (if_pos ⟨hi, ?_⟩)))) (by decide)
      rwa [Bool.not_eq_true]
    · refine hacc hv hho ((Chip.armState_of_dirty ha hl he).trans ((if_neg Bool.false_ne_true).trans
        ((if_neg (Bool.eq_false_iff.1 hb)).trans (if_neg fun hn => ?_))))
      obtain ⟨hcount, hsess, hhand⟩ := hi hn.1
      rcases hn.2 with h1 | h2 | h3
      · exact hcount h1
      · exact Bool.eq_false_iff.1 hsess h2
      · exact h3 hhand
    · by_cases ha : c.armed p = true
      · rw [if_pos ha]
        exact answers rfl ((stgCancel_of_accepts hp h).trans (if_pos ⟨hv, ha⟩))
      · rw [if_neg ha]
        exact answers rfl ((stgCancel_of_accepts hp h).trans (if_neg fun hn => ha hn.2))
  · intro due missed c alone
    refine ⟨fun he => answers rfl ((stgApply_eq near s.chip).trans (if_pos (List.isEmpty_iff.2 he))),
      fun he hc => answers rfl ((stgApply_eq near s.chip).trans ((if_neg (mt List.isEmpty_iff.1 he)).trans (if_pos hc))),
      fun he hc => answers rfl ((stgApply_eq near s.chip).trans ((if_neg (mt List.isEmpty_iff.1 he)).trans
        (if_neg (Bool.eq_false_iff.1 hc))))⟩

end Sys2Proof.Machine
end

section
/-! PROOFS. The publication of a Stride (R24, R25), and the commands of the event controller (R451–R466). -/

namespace Sys2Proof.Machine

/-! ### The publication -/

/-- Settles O15: the publication by the two conditions under which it does nothing. -/
theorem snapshotPublication_settled : Obligations.SnapshotPublication := by
  refine fun s => ⟨fun h => answers rfl (if_pos ?_), fun hr hp => answers rfl (if_neg ?_)⟩
  · rwa [Bool.not_eq_true]
  · simp [hr, hp]

/-! ### The event controller -/

section

variable {c : Chip} {acc : Access} {t : Nat}

theorem evcClaimRead_of_no_claim (h : c.Readable acc (EVC_CLAIM t).addr)
    (hn : initiatorNo acc.by_ ≠ t ∨ c.rd (EVC_TSTAT_held t) ≠ 0xFFFF) :
    evcClaimRead acc t c = { c with rdata := c.rd (EVC_TSTAT_held t) } :=
  (Chip.read_of_readable h _).trans (if_pos hn)

theorem evcClaimRead_of_none (h : c.Readable acc (EVC_CLAIM t).addr) (hi : initiatorNo acc.by_ = t) (hh : c.rd (EVC_TSTAT_held t) = 0xFFFF)
    (hl : c.lowestDeliverable t = none) : evcClaimRead acc t c = { c with rdata := 0xFFFF } := by
  unfold evcClaimRead
  rw [Chip.read_of_readable h, hl]
  exact if_neg (by simp [hi, hh])

theorem evcClaimRead_of_some {id : Nat} (h : c.Readable acc (EVC_CLAIM t).addr) (hi : initiatorNo acc.by_ = t)
    (hh : c.rd (EVC_TSTAT_held t) = 0xFFFF) (hl : c.lowestDeliverable t = some id) :
    evcClaimRead acc t c = { ((c.consume t id).put (EVC_TSTAT_held t) id).inc (EVC_CLAIMS t) with rdata := id } := by
  unfold evcClaimRead
  rw [Chip.read_of_readable h, hl]
  exact if_neg (by simp [hi, hh])

theorem evcComplete_of_held {v : Nat} (h : c.Accepts acc (EVC_COMPLETE t).addr v) (hh : c.rd (EVC_TSTAT_held t) ≠ 0xFFFF)
    (hv : v % 2048 = c.rd (EVC_TSTAT_held t)) :
    evcComplete acc t v c =
      (if bit v 31 = true then (c.put (EVC_TSTAT_held t) 0xFFFF).incSat (EVC_TCNT_spurious t)
      else c.put (EVC_TSTAT_held t) 0xFFFF).settleEvents :=
  (Chip.write_of_accepts h _).trans (if_pos ⟨hh, hv⟩)

theorem evcComplete_of_other {v : Nat} (h : c.Accepts acc (EVC_COMPLETE t).addr v)
    (hn : c.rd (EVC_TSTAT_held t) = 0xFFFF ∨ v % 2048 ≠ c.rd (EVC_TSTAT_held t)) :
    evcComplete acc t v c = (c.incSat (EVC_TCNT_mismatch t)).raiseEv 0x40010000 0 :=
  (Chip.write_of_accepts h _).trans (if_neg (by tauto))

/-- A raise by the value written: a destination, the self source, an aliased one, a software source (R455). -/
theorem evcRaise_of_accepts {v : Nat} (h : c.Accepts acc (EVC_RAISE t).addr v) :
    evcRaise acc t v c =
      if bit v 12 = true then c.firePrivate (v / 8192 % 8) (1 + t)
      else if v % 2048 = 0 then c.firePrivate t 0
      else if c.flag EVC_CTRL_compat = true ∧ v % 2048 < 752 then c
      else if 496 ≤ v % 2048 ∧ v % 2048 < 1056 then c.fireShared (v % 2048)
      else c :=
  Chip.write_of_accepts h _

theorem bit_twelve (v : Nat) : bit v 12 = decide (v / 4096 % 2 = 1) := Nat.testBit_eq_decide_div_mod_eq

theorem evcRaise_of_software {id : Nat} (lo : 496 ≤ id) (hi : id < 1056) (h : c.Accepts acc (EVC_RAISE t).addr id) :
    evcRaise acc t id c = if c.flag EVC_CTRL_compat = true ∧ id < 752 then c else c.fireShared id := by
  have hb : bit id 12 = false := by rw [bit_twelve]; exact decide_eq_false (by omega)
  have hid : id % 2048 = id := Nat.mod_eq_of_lt (by omega)
  rw [evcRaise_of_accepts h, if_neg (Bool.eq_false_iff.1 hb), hid, if_neg (by omega)]
  simp only [lo, hi, and_self, if_true]

theorem evcRaise_of_dest {dest : Nat} (hd : dest < 8) (h : c.Accepts acc (EVC_RAISE t).addr (4096 + 8192 * dest)) :
    evcRaise acc t (4096 + 8192 * dest) c = c.firePrivate dest (1 + t) := by
  have hb : bit (4096 + 8192 * dest) 12 = true := by rw [bit_twelve]; exact decide_eq_true (by omega)
  have hdest : (4096 + 8192 * dest) / 8192 % 8 = dest := by omega
  rw [evcRaise_of_accepts h, if_pos hb, hdest]

theorem evcTargetWrite_of_accepts {id : Nat} (h : c.Accepts acc (srcTarget id).addr 0) (x : Nat) :
    evcTargetWrite acc id x c =
      if (c.flag EVC_CTRL_compat && c.sourceEnabled id) = true then c else (c.put (srcTarget id) x).settleSources :=
  Chip.write_of_accepts h _

end

/-- Settles O16: each row by its table of conditions. -/
theorem eventController : Obligations.EventController := by
  intro s acc t ht c held
  refine ⟨fun h => ⟨fun hn => answers (if_neg (by omega)) (evcClaimRead_of_no_claim h hn),
      fun hi hh hl => answers (if_neg (by omega)) (evcClaimRead_of_none h hi hh hl),
      fun id hi hh hl => answers (if_neg (by omega)) (evcClaimRead_of_some h hi hh hl)⟩,
    fun v h => ⟨fun hh hv hb => answers (if_neg (by omega)) ((evcComplete_of_held h hh hv).trans ?_),
      fun hh hv hb => answers (if_neg (by omega)) ((evcComplete_of_held h hh hv).trans ?_),
      fun hn => answers (if_neg (by omega)) (evcComplete_of_other h hn)⟩,
    fun h => answers (if_neg (by omega)) (evcRaise_of_accepts h),
    fun id lo hi h => ?_, fun dest hd h => answers (if_neg (by omega)) (evcRaise_of_dest hd h), fun id x lo hi h => ?_,
    fun v h => answers rfl (Chip.write_of_accepts h _), fun woken => answers rfl (if_neg (Nat.not_le.2 ht)),
    fun level => answers rfl (if_neg (Nat.not_le.2 ht)), fun id h hf => answers rfl (if_pos ⟨h, Bool.eq_false_iff.1 hf⟩)⟩
  · rw [if_neg (Bool.eq_false_iff.1 hb)]
  · rw [if_pos hb]
  · have he := answers (s := s) (i := .evcRaiseSoftware acc t id) (if_neg (by omega)) (evcRaise_of_software lo hi h)
    rw [he]
    split <;> rfl
  · have he := answers (s := s) (i := .evcTargetWrite acc id x) (if_neg (by omega)) (evcTargetWrite_of_accepts h x)
    rw [he]
    split <;> rfl

end Sys2Proof.Machine
end

section
/-! PROOFS. The time unit (R64–R72, R83): the clock, the servo, steps, loads, samples, holdover, time limits, comparators and captures. -/

namespace Sys2Proof.Machine

/-- A guard and the negation of another's: the branches change places. -/
theorem ite_of_iff_not {α : Type} {p q : Prop} [Decidable p] [Decidable q] {a b : α} (h : p ↔ ¬ q) :
    (if p then a else b) = if q then b else a :=
  (if_congr h rfl rfl).trans (ite_not q a b)

/-! ### Steps and samples -/

theorem stepApply_of_none {c : Chip} (h : c.tim.step = none) : stepApply c = c := by
  unfold stepApply; rw [h]

theorem stepApply_of_late {c : Chip} (h : strideCycles < c.tim.stepCycle + 100) : stepApply c = c := by
  unfold stepApply
  cases c.tim.step with
  | none => rfl
  | some n => exact if_pos h

/-- A step that came in time, at its edge: refused below zero, taken otherwise (R65). -/
theorem stepApply_of_due {c : Chip} {n : Int} (h : c.tim.step = some n) (hc : c.tim.stepCycle + 100 ≤ strideCycles) :
    let e := c.advanceTo strideCycles
    let x := (e.setTim fun t => { t with step := none }).setFlag (tst 5) false
    let new : Int := e.tim.clock + n * 2 ^ 32
    stepApply c =
      if new < 0 then ((x.setFlag (tst 6) true).setFault 5 0x0306 0).raiseEv timPage 3
      else ((((x.setTim fun t => { t with clock := new.toNat }).setFlag (tst 6) false).clearFault 5 0x0306 0).raiseEv timPage 3).lockLost.markPassed
        e.tim.clock new.toNat := by
  intro e x new
  unfold stepApply
  rw [h]
  exact if_neg (Nat.not_lt.2 hc)

theorem isSome_eq_false_of_eq_none {o : Option Int} (h : o = none) : ¬ o.isSome = true := by rw [h]; exact Bool.false_ne_true

section

variable {c : Chip} {o : Int}

theorem offsetSample_of_pending (h : c.tim.step.isSome = true) : c.offsetSample o = c := if_pos h

theorem offsetSample_of_servo_off (h : c.tim.step = none) (hs : (c.countSample o).flag TIM_CTRL_servo_en = false) :
    c.offsetSample o = (c.countSample o).putS TIM_LAST_OFS_ofs o :=
  (if_neg (isSome_eq_false_of_eq_none h)).trans (if_pos (Bool.eq_false_iff.1 hs))

theorem offsetSample_of_small (h : c.tim.step = none) (hs : (c.countSample o).flag TIM_CTRL_servo_en = true)
    (ho : o.natAbs < (c.countSample o).rd TIM_STEP_THR_thr * 256) : c.offsetSample o = (c.countSample o).servo o :=
  (if_neg (isSome_eq_false_of_eq_none h)).trans ((if_neg (not_not.2 hs)).trans (if_neg (by omega)))

theorem offsetSample_of_large (h : c.tim.step = none) (hs : (c.countSample o).flag TIM_CTRL_servo_en = true)
    (ho : (c.countSample o).rd TIM_STEP_THR_thr * 256 ≤ o.natAbs) :
    c.offsetSample o =
      if (c.countSample o).flag TIM_CTRL_auto_step then (c.countSample o).requestStep (rhe (-o) 8)
      else (c.countSample o).raiseEv timPage 4 :=
  (if_neg (isSome_eq_false_of_eq_none h)).trans ((if_neg (not_not.2 hs)).trans (if_pos (by omega)))

end

section

variable {c : Chip} {acc : Access} {v cyc : Nat}

theorem offsetSampleWrite_of_accepts (h : (c.advanceTo cyc).Accepts acc TIM_OFS.addr v) :
    offsetSampleWrite acc v cyc c =
      if (c.advanceTo cyc).rd TIM_CTRL_ref_src = 1 then (c.advanceTo cyc).offsetSample (signed 32 v) else c.advanceTo cyc :=
  Chip.write_of_accepts h _

theorem offsetSampleWrite_of_selected (h : (c.advanceTo cyc).Accepts acc TIM_OFS.addr v)
    (hr : (c.advanceTo cyc).rd TIM_CTRL_ref_src = 1) :
    offsetSampleWrite acc v cyc c = (c.advanceTo cyc).offsetSample (signed 32 v) :=
  (offsetSampleWrite_of_accepts h).trans (if_pos hr)

theorem offsetSampleWrite_of_unused (h : (c.advanceTo cyc).Accepts acc TIM_OFS.addr v)
    (hr : (c.advanceTo cyc).rd TIM_CTRL_ref_src ≠ 1 ∨ (c.advanceTo cyc).tim.step.isSome = true) :
    offsetSampleWrite acc v cyc c = c.advanceTo cyc := by
  rw [offsetSampleWrite_of_accepts h]
  split
  case isTrue h1 => exact offsetSample_of_pending (hr.resolve_left (not_not.2 h1))
  case isFalse => rfl

end

/-! ### Loads, the loop and the limits -/

theorem strideLoad_eq (c : Chip) :
    let x := (c.advanceTo strideCycles).setTim fun t => { t with loadRequest := false }
    strideLoad c =
      if c.tim.loadRequest = false then c
      else if x.rd HRN_STATUS_role = 2 ∨ computedStride x.tim.clock = x.stride + 1 then x
      else x.loadNext (computedStride x.tim.clock) := by
  intro x
  have hf : x.strideFollows = true ↔ x.rd HRN_STATUS_role = 2 := beq_iff_eq
  exact (if_congr Iff.rfl (if_congr (or_congr_left hf) rfl rfl) rfl).trans (ite_of_iff_not (Bool.not_eq_false _).to_iff.symm)

theorem ppsMissing_eq (c : Chip) :
    ppsMissing c =
      if c.rd TIM_CTRL_ref_src = 2 ∧ 12000 ≤ c.tim.sincePps ∧ c.flag (tst 9) = false then (c.setFlag (tst 9) true).raiseEv timPage 27
      else c := by
  simp only [ppsMissing, Bool.not_eq_true]

/-- Settles O18: each command by its cases. -/
theorem timeUnit : Obligations.TimeUnit := by
  refine ⟨fun s acc cyc v => ?_, fun s => ⟨fun hl hs => answers rfl (if_pos ⟨hl, hs⟩), fun hn => answers rfl (if_neg ?_),
    fun hf hh => answers rfl (if_pos ⟨hf, hh⟩), fun hn => answers rfl (if_neg ?_), answers rfl (ppsMissing_eq _), answers rfl rfl⟩⟩
  · intro c d e
    refine ⟨fun h => answers rfl (Chip.read_of_readable h _), fun h => answers rfl (Chip.write_of_accepts h _),
      fun n hn hc => answers rfl (stepApply_of_due hn hc), ?_, fun h => answers rfl (Chip.write_of_accepts h _),
      answers rfl (strideLoad_eq _), fun h => answers rfl (Chip.write_of_accepts h _),
      fun h hr => answers rfl (offsetSampleWrite_of_unused h hr), fun h hr hs => ?_,
      fun rising hr => answers rfl (if_neg hr), fun rising hr => answers rfl (if_pos hr), answers rfl rfl⟩
    · rintro (h | h)
      · exact answers rfl (stepApply_of_none h)
      · exact answers rfl (stepApply_of_late h)
    · have hw := offsetSampleWrite_of_selected h hr
      exact ⟨fun h0 => answers rfl (hw.trans (offsetSample_of_servo_off hs h0)),
        fun h1 ho => answers rfl (hw.trans (offsetSample_of_small hs h1 ho)),
        fun h1 ho => answers rfl (hw.trans (offsetSample_of_large hs h1 ho))⟩
  · rintro ⟨hl, hs⟩
    rcases hn with hn | hn
    · exact Bool.eq_false_iff.1 hn hl
    · omega
  · rintro ⟨hl, hs⟩
    rcases hn with hn | hn
    · exact Bool.eq_false_iff.1 hn hl
    · omega

/-! ### Comparators and captures -/

section

variable {c : Chip} {acc : Access} {t : Nat}

theorem comparatorFire_eq (ht : t < 8) (cyc : Nat) :
    let d := c.advanceTo cyc
    comparatorFire t cyc c =
      if d.flag (TIM_TC_CFG_arm t) = true ∧ d.comparatorTarget t ≤ d.tim.clock then
        (d.comparatorAct t (bit d.tim.passed t && d.comparatorPeriod t != 0)).comparatorNext t (bit d.tim.passed t)
      else d := by
  intro d
  have hn : (¬ d.flag (TIM_TC_CFG_arm t) = true ∨ d.tim.clock < d.comparatorTarget t) ↔
      ¬ (d.flag (TIM_TC_CFG_arm t) = true ∧ d.comparatorTarget t ≤ d.tim.clock) := by rw [not_and_or, not_le]
  exact (if_neg (Nat.not_le.2 ht)).trans (ite_of_iff_not hn)

theorem captureEdge_eq (ht : t < 8) (rising : Bool) (cyc : Nat) :
    let d := c.advanceTo cyc
    captureEdge t rising cyc c =
      if bit (d.rd (TIM_CAP_CFG_edge t)) (if rising then 0 else 1) = false then d
      else if 16 ≤ (d.captures t).length then (d.setFlag (TIM_CAP_STAT_overflow t) true).raiseEv timPage 26
      else d.setCaptures t (d.captures t ++ [⟨clockSec d.tim.clock, clockNs d.tim.clock, rising⟩]) := by
  intro d
  exact (if_neg (Nat.not_le.2 ht)).trans (if_congr (Bool.not_eq_true _).to_iff rfl rfl)

theorem capturePop_of_empty (ht : t < 8) (h : c.Readable acc (TIM_CAP_NS t).addr) (he : c.captures t = []) :
    capturePop acc t c = { c with rdata := 0 } := by
  refine (if_neg (Nat.not_le.2 ht)).trans ((Chip.read_of_readable h _).trans ?_)
  rw [he]

theorem capturePop_of_cons {x : Capture} {l : List Capture} (ht : t < 8) (h : c.Readable acc (TIM_CAP_NS t).addr)
    (he : c.captures t = x :: l) :
    let y := ((c.setCaptures t l).put (TIM_CAP_SEC_LO_sec t) x.sec).put (TIM_CAP_SEC_HI_sec t) (x.sec / 2 ^ 32)
    capturePop acc t c =
      { (y.put (TIM_CAP_NS_ns t) x.ns).setFlag (TIM_CAP_NS_rising t) x.rising with rdata := x.ns + 2 ^ 31 * x.rising.toNat } := by
  refine (if_neg (Nat.not_le.2 ht)).trans ((Chip.read_of_readable h _).trans ?_)
  rw [he]

end

/-- Settles O21: each command by its cases. -/
theorem comparatorsAndCaptures : Obligations.ComparatorsAndCaptures := by
  intro s acc t v cyc ht d
  exact ⟨fun h => answers rfl ((if_neg (Nat.not_le.2 ht)).trans (Chip.write_of_accepts h _)),
    answers rfl (comparatorFire_eq ht cyc), answers rfl rfl, fun rising => answers rfl (captureEdge_eq ht rising cyc),
    fun h => ⟨fun he => answers rfl (capturePop_of_empty ht h he), fun x l he => answers rfl (capturePop_of_cons ht h he)⟩⟩

end Sys2Proof.Machine
end

section
/-! PROOFS. The front end's own events (R93–R107), the events of the energy arithmetic (R123–R140) and the commands of calibration
(R150–R153, R165). -/

namespace Sys2Proof.Machine

/-! ### The front end -/

theorem settlingEnd_eq (n k : Nat) (c : Chip) :
    settlingEnd n k c =
      if k < 3 ∧ ((c.elem n).path k).settling = true ∧ 33 ≤ ((c.elem n).path k).settled then
        (c.modElem n fun e => e.setPath k { e.path k with settling := false, settled := 0 }).showSettling n
      else c :=
  ite_of_iff_not (by rw [not_and_or, not_and_or, not_lt, not_le])

theorem ratioApply_of_none {n : Nat} {c : Chip} (h : (c.elem n).pending = none) : ratioApply n c = c := by
  unfold ratioApply; rw [h]

theorem ratioApply_of_pending {n : Nat} {c : Chip} {r : PendingRatio} (h : (c.elem n).pending = some r) :
    let x := c.modElem n fun e => { e with pending := none }
    let y := ((x.put (SFE_RATIO_APPLIED_ratio n) r.ratio).putS (SFE_OFFS_APPLIED_offs n) r.offs).modElem n fun e =>
      { e with k := reciprocal r.ratio }
    ratioApply n c =
      if c.nextStride < r.due then c
      else if c.switchDue n c.nextStride then x
      else (y.put64 (SFE_REG_STRIDE_LO_stride n) (SFE_REG_STRIDE_HI_stride n) y.nextStride).raiseEv (sfePage n) 4 := by
  intro x y
  unfold ratioApply
  rw [h]
  rfl

theorem regressionWindowEnd_eq (c : Chip) :
    let x := forN c.variant.elements (fun n c => if c.flag (SFE_ECTRL_en n) then c.windowEnd n else c) c
    regressionWindowEnd c =
      if c.stride % 8000 = 7999 ∧ c.fold.regressed = false then { x with fold := { x.fold with regressed := true } } else c :=
  ite_of_iff_not (by rw [not_and_or, Bool.not_eq_false])

/-- The block after the health fault b of element n has set, before its meter notes it (R106, R107). -/
def Chip.withHealthFault (c : Chip) (n b : Nat) : Chip :=
  let x := (c.setFlag (healthBit n b) true).setFlag ((SFE_HEALTH_LATCH_latch n).bitOf b) true
  let x := ((((x.showHealth n).raiseEv (sfePage n) 0).raiseEv sfgPage 0).healthReport n b true).logFault 2 (0x1100 + b) n true
  let x := if (4 ≤ b ∧ b < 12) ∨ b = 14 then x.modElem n fun e => { e with window := none } else x
  if b < 4 ∨ b = 14 then (x.freqInvalid n).suspend n x.stride else x

section

variable {n b : Nat} {c : Chip}

theorem healthFaultSet_of_due (hn : n < c.variant.elements) (hb : b ≤ 14) (hf : c.flag (healthBit n b) = false)
    (hx : c.healthFails n b = true) :
    healthFaultSet n b c =
      match (c.withHealthFault n b).meterOf n with
      | some m => (c.withHealthFault n b).noteInput m
      | none => c.withHealthFault n b :=
  if_neg (by simp [hn, hb, hf, hx])

theorem healthFaultSet_of_no_meter (hn : n < c.variant.elements) (hb : b ≤ 14) (hf : c.flag (healthBit n b) = false)
    (hx : c.healthFails n b = true) (hm : (c.withHealthFault n b).meterOf n = none) :
    healthFaultSet n b c = c.withHealthFault n b := by
  rw [healthFaultSet_of_due hn hb hf hx, hm]

theorem healthFaultSet_of_meter {m : Nat} (hn : n < c.variant.elements) (hb : b ≤ 14) (hf : c.flag (healthBit n b) = false)
    (hx : c.healthFails n b = true) (hm : (c.withHealthFault n b).meterOf n = some m) :
    healthFaultSet n b c = (c.withHealthFault n b).noteInput m := by
  rw [healthFaultSet_of_due hn hb hf hx, hm]

theorem healthFaultClear_of_due (hn : n < c.variant.elements) (hb : b ≤ 14) (hf : c.flag (healthBit n b) = true)
    (hx : c.healthPasses n b = true) :
    let x := ((c.setFlag (healthBit n b) false).showHealth n).raiseEv (sfePage n) 1
    let x := ((x.raiseEv sfgPage 1).healthReport n b false).logFault 2 (0x1100 + b) n false
    healthFaultClear n b c =
      if b < 12 ∧ ¬ x.pathFault n (healthPath b) then
        ((x.settlePath n (healthPath b)).modElem n fun e =>
          e.setPath (healthPath b) { e.path (healthPath b) with afterFault := true }).showSettling n
      else x :=
  if_neg (by simp [hn, hb, hf, hx])

end

/-- Settles O22: each event by its guard. -/
theorem frontEndEvents : Obligations.FrontEndEvents := by
  intro s n k b c
  refine ⟨answers rfl (settlingEnd_eq n k _), answers rfl rfl, fun h => answers rfl (ratioApply_of_none h),
    fun r h => answers rfl (ratioApply_of_pending h), answers rfl (regressionWindowEnd_eq _),
    fun hn hb hf hx => ⟨fun hm => answers rfl (healthFaultSet_of_no_meter hn hb hf hx hm),
      fun m hm => answers rfl (healthFaultSet_of_meter hn hb hf hx hm)⟩,
    fun hn hb hf hx => ⟨fun hk => answers rfl ((healthFaultClear_of_due hn hb hf hx).trans (if_neg ?_)),
      fun h12 hk => answers rfl ((healthFaultClear_of_due hn hb hf hx).trans (if_pos ⟨h12, Bool.eq_false_iff.1 hk⟩))⟩,
    fun h => answers rfl (if_pos ?_), fun h => answers rfl (if_pos ?_)⟩
  · rintro ⟨h12, hp⟩
    exact hk.elim (Nat.not_le.2 h12) hp
  · rwa [Bool.not_eq_true]
  · rwa [Bool.not_eq_true, Bool.not_eq_true]

/-! ### The energy arithmetic -/

theorem oneSecondPublish_eq (c : Chip) :
    let f : Nat → Chip → Chip := fun n c =>
      if c.flag (SFE_ECTRL_en n) = true then
        (c.modElem n fun e =>
          { e with
            vRms1s := isqrt (e.v2Sum.toNat / 8000), iRms1s := isqrt (e.i2Sum.toNat / 8000)
            vDc1s := rheDiv e.vSum 8000, iDc1s := rheDiv e.iSum 8000
            window1s := c.stride / 8000, incomplete1s := e.forced1s }).raiseEv (metPage n) 3
      else c
    let y := (forN c.variant.elements f c).openSums
    oneSecondPublish c =
      if c.stride % 8000 = 7999 ∧ c.fold.published1s = false then { y with fold := { y.fold with published1s := true } } else c := by
  intro f y
  have hf : (fun (n : Nat) (c : Chip) =>
      if ¬ c.flag (SFE_ECTRL_en n) then c
      else
        let c := c.modElem n fun e =>
          { e with
            vRms1s := isqrt (e.v2Sum.toNat / 8000), iRms1s := isqrt (e.i2Sum.toNat / 8000)
            vDc1s := rheDiv e.vSum 8000, iDc1s := rheDiv e.iSum 8000
            window1s := c.stride / 8000, incomplete1s := e.forced1s }
        c.raiseEv (metPage n) 3) = f := funext fun n => funext fun c => ite_of_iff_not Iff.rfl
  unfold oneSecondPublish
  rw [hf]
  exact ite_of_iff_not (by rw [not_and_or, Bool.not_eq_false])

theorem inputFaultClear_eq (m : Nat) (c : Chip) :
    inputFaultClear m c =
      if (c.meter m).inputFault = true ∧ c.inputsBad m = false then
        ((c.modMeter m fun x => { x with inputFault := false }).clearFault 3 0x1403 m).raiseEv (mtrPage m) 2
      else c :=
  if_congr (by rw [Bool.and_eq_true, Bool.not_eq_true']) rfl rfl

/-! ### Calibration -/

theorem dieTempRead_eq (t : Int) (c : Chip) :
    let x := c.putS SFE_CAL_TEMP_temp t
    let x := if t < 1600 then x.clearFault 5 0x0121 0 else x
    let hot := if 1760 ≤ t then min 10 (c.fold.dieHot + 1) else 0
    let deg := clampI (-40) 125 (rhe t 4)
    let targets := forN 8 (fun g l => Sparse.set (fun _ => 0) l g (clampI (-16) 16 (Config.trimTable g deg))) c.fold.trimTarget
    dieTempRead t c = { x with fold := { x.fold with dieHot := hot, trimTarget := targets } } := by
  by_cases h : t < 1600 <;> simp only [dieTempRead, h, if_true, if_false] <;> rfl

theorem tauTrimStep_eq (c : Chip) :
    let x : Chip := { c with fold := { c.fold with trimmed := c.nextStride } }
    tauTrimStep c =
      if c.nextStride % 8000 = 2 ∧ 8002 ≤ c.nextStride ∧ c.fold.trimmed ≠ c.nextStride then
        forN 8 (fun g d =>
          d.putS (SFE_CAL_TTRIM_trim g)
            (if d.trimRemote then Sparse.get (fun _ => d.rdS (SFE_CAL_TTRIM_trim g)) d.fold.nearTrim g
              else (d.sentTrim g).getD (d.steppedTrim g))) x
      else c := by
  intro x
  refine ite_of_iff_not ?_
  simp only [trimStride, Bool.and_eq_true, beq_iff_eq, decide_eq_true_eq, ne_eq]
  tauto

/-- Settles O24: each event and command by its guard. -/
theorem meteringAndCalibration : Obligations.MeteringAndCalibration :=
  ⟨fun _ n => ⟨answers rfl rfl, answers rfl (oneSecondPublish_eq _), answers rfl (inputFaultClear_eq n _)⟩,
    fun _ _ t _ => ⟨answers rfl rfl, answers rfl (dieTempRead_eq t _), answers rfl (tauTrimStep_eq _),
      fun h => answers rfl (Chip.write_of_accepts h _), answers rfl rfl⟩⟩

end Sys2Proof.Machine
end

section
/-! PROOFS. The six key commands of the vault (R425–R430, R445). -/

namespace Sys2Proof.Machine

section

variable {c : Chip} {op : KeyOp}

theorem keyCommand_of_accepted (h : c.keyRefusal op = none) :
    c.keyCommand op =
      ((((c.keyStart op).2.stageBank (c.keyStart op).1).setVlt fun v => { v with command := some (c.keyStart op).1 }).put
        VLT_KW_ST_reason 0).put VLT_KW_ST_state 1 := by
  unfold Chip.keyCommand; rw [h]

theorem keyCommand_of_busy (h : c.keyRefusal op = some 1) :
    c.keyCommand op = (c.put VLT_KW_ST_reason 1).raiseEv vlpPage 1 := by
  unfold Chip.keyCommand; rw [h]; exact if_pos rfl

theorem keyCommand_of_refused {r : Nat} (hr : r ≠ 1) (h : c.keyRefusal op = some r) :
    c.keyCommand op = (((c.put VLT_KW_ST_reason r).raiseEv vlpPage 1).put VLT_KW_ST_state 3).wipeKeyData := by
  unfold Chip.keyCommand; rw [h]; exact if_neg hr

theorem keyWrite_of_accepts {acc : Access} (h : c.Accepts acc VLT_KW_CMD.addr op.word) : keyWrite acc op c = c.keyCommand op :=
  Chip.write_of_accepts h _

/-- Slot 0 has no key command (R428): a running command or the slot itself refuses it. -/
theorem keyRefusal_of_slot_zero (ho : op.onSlot = true) (hk : c.rd VLT_KW_SLOT_slot = 0) :
    c.keyRefusal op = some 1 ∨ c.keyRefusal op = some 2 := by
  by_cases hc : c.vlt.command.isSome = true
  · exact .inl (if_pos hc)
  · exact .inr ((if_neg hc).trans (if_pos ⟨ho, hk⟩))

/-- What every end of a key command leaves (R427, R430). -/
def Chip.keyEnded (c : Chip) : Chip := ((c.put VLT_KW_ST_state 2).wipeKeyData).raiseEv vlpPage 0

/-- The block without its running key command. -/
def Chip.keyIdle (c : Chip) : Chip := c.setVlt fun v => { v with command := none }

theorem keyCommandDone_of_none (h : c.vlt.command = none) : keyCommandDone c = c := by
  unfold keyCommandDone; rw [h]

theorem keyCommandDone_of_slot {k : Nat} {b : VaultKey} (h : c.vlt.command = some (.slot k b)) :
    keyCommandDone c = ((c.keyIdle.commitSlot k b).raiseEv vltPage 1).keyEnded := by
  unfold keyCommandDone; rw [h]; rfl

theorem keyCommandDone_of_halter {g i last : Nat} (h : c.vlt.command = some (.halter g i last)) :
    keyCommandDone c = (c.keyIdle.setHalter g i last).keyEnded := by
  unfold keyCommandDone; rw [h]; rfl

/-- The block that has stored a configuration as generation g in copy e and adopted it (R429, R445). -/
def Chip.storeConfig (c : Chip) (e g : Nat) (words : List Nat) : Chip :=
  (c.setVlt fun v => { v with stored := Sparse.set (fun _ => none) v.stored e (some ⟨g, words, copyCheck g words⟩) }).adoptConfig words

theorem keyCommandDone_of_first_config {words : List Nat} (h : c.vlt.command = some (.config words))
    (ho : newestCopy c.vlt.stored = none) : keyCommandDone c = ((c.keyIdle.storeConfig 0 1 words).raiseEv vltPage 1).keyEnded := by
  have hi : newestCopy c.keyIdle.vlt.stored = none := ho
  simp only [Chip.keyIdle] at hi
  unfold keyCommandDone
  rw [h]
  dsimp only
  rw [hi]
  rfl

theorem keyCommandDone_of_config {words old : List Nat} {g e : Nat} (h : c.vlt.command = some (.config words))
    (ho : newestCopy c.vlt.stored = some ((g, old), e)) : keyCommandDone c = ((c.keyIdle.storeConfig (1 - e) (g + 1) words).raiseEv vltPage 1).keyEnded := by
  have hi : newestCopy c.keyIdle.vlt.stored = some ((g, old), e) := ho
  simp only [Chip.keyIdle] at hi
  unfold keyCommandDone
  rw [h]
  dsimp only
  rw [hi]
  rfl

end

/-- The instruction of a key command. -/
def KeyOp.instr (acc : Access) : KeyOp → Instr
  | .write => .keyWrite acc
  | .erase => .keyErase acc
  | .generate => .keyGenerate acc
  | .attr => .keyAttr acc
  | .cfg => .vaultCfgCommit acc
  | .halter => .halterSet acc

theorem exec_keyOp (s : State) (acc : Access) (op : KeyOp) : exec (op.instr acc) s = s.effect (keyWrite acc op) := by
  cases op <;> rfl

/-- Settles O55: each row runs its command, which the first reason of R428 decides. -/
theorem keyCommands : Obligations.KeyCommands := by
  intro s acc c rows
  have hrows : ∀ p ∈ rows, p.2 = p.1.instr acc := by
    intro p hp
    simp only [rows, List.mem_cons, List.not_mem_nil, or_false] at hp
    rcases hp with rfl | rfl | rfl | rfl | rfl | rfl <;> rfl
  refine ⟨fun p hp h => ?_, fun op ho hk => keyRefusal_of_slot_zero ho hk, fun h => answers rfl (keyCommandDone_of_none h),
    fun k b h => answers rfl (keyCommandDone_of_slot h),
    fun words h => ⟨fun ho => answers rfl (keyCommandDone_of_first_config h ho),
      fun g e old ho => answers rfl (keyCommandDone_of_config h ho)⟩,
    fun g i last h => answers rfl (keyCommandDone_of_halter h)⟩
  rw [hrows p hp]
  have he := exec_keyOp s acc p.1
  have hw := keyWrite_of_accepts h
  exact ⟨fun hr => answers he (hw.trans (keyCommand_of_accepted hr)), fun hr => answers he (hw.trans (keyCommand_of_busy hr)),
    fun r h1 hr => answers he (hw.trans (keyCommand_of_refused h1 hr))⟩

end Sys2Proof.Machine
end

section
/-! PROOFS. The commands of the calendars and the validation of an arm (R191–R193, R207). -/

namespace Sys2Proof.Machine

section

variable {c : Chip} {acc : Access} {v : Nat}

/-! ### The data word -/

theorem calendarDataAccess_read (h : c.Readable acc TRF_CAL_DATA.addr) :
    calendarDataAccess acc false v none c =
      { c.advanceCal acc with
        rdata := if 552 < c.rd TRF_CAL_ADDR_word then 0
          else calBits (if c.flag TRF_CAL_ADDR_bank then c.trf.active else c.trf.passive) (c.rd TRF_CAL_ADDR_word) 0 32 } := by
  simp only [calendarDataAccess, Bool.false_eq_true, if_false, Chip.read_of_readable h]

theorem calendarDataAccess_write (ho : c.isOff = false) (h : c.Accepts acc TRF_CAL_DATA.addr v) :
    calendarDataAccess acc true v none c =
      (if c.flag TRF_CAL_ADDR_bank then c
        else (c.storeCal (c.rd TRF_CAL_ADDR_word) v).mirror (.calendar (c.rd TRF_CAL_ADDR_word) v)).advanceCal acc :=
  (if_neg fun hx => Bool.eq_false_iff.1 ho hx.1).trans (Chip.write_of_accepts h _)

theorem Chip.Accepts.isNone {a : Nat} (h : c.Accepts acc a v) : (c.writeViolation acc a v).isNone = true := by rw [h.clean]; rfl

theorem calendarDataAccess_write_on_off (ho : c.isOff = true) (hw : c.ownsTrf acc = true) (h : c.Accepts acc TRF_CAL_DATA.addr v) :
    calendarDataAccess acc true v none c = c.violate acc TRF_CAL_DATA.addr 0 true :=
  if_pos ⟨ho, hw, h.isNone⟩

theorem calendarDataAccess_mirrored (w : Bool) (k : Nat) (ho : c.isOff = true) :
    calendarDataAccess acc w v (some k) c = c.storeCal k v := if_pos ho

theorem calendarDataAccess_mirrored_not_off (w : Bool) (k : Nat) (ho : c.isOff = false) :
    calendarDataAccess acc w v (some k) c = c := if_neg (Bool.eq_false_iff.1 ho)

/-! ### TRF_PCMD -/

theorem pcmd_local (ho : c.isOff = false) (h : c.Accepts acc TRF_PCMD.addr v) (f : Chip → Chip) :
    c.pcmd acc v none f = f (c.mirror (.calendarCmd v (c.rd64 TRF_PACT_LO_lc TRF_PACT_HI_lc))) :=
  (if_neg fun hx => Bool.eq_false_iff.1 ho hx.1).trans (Chip.write_of_accepts h _)

theorem pcmd_local_on_off (ho : c.isOff = true) (hw : c.ownsTrf acc = true) (h : c.Accepts acc TRF_PCMD.addr v) (f : Chip → Chip) :
    c.pcmd acc v none f = c.violate acc TRF_PCMD.addr 0 true :=
  if_pos ⟨ho, hw, h.isNone⟩

theorem pcmd_mirrored (ho : c.isOff = true) (at_ : Nat) (f : Chip → Chip) :
    c.pcmd acc v (some at_) f = f (if c.calArmed then c else c.put64 TRF_PACT_LO_lc TRF_PACT_HI_lc at_) :=
  if_neg (not_not.2 ho)

theorem pcmd_mirrored_not_off (ho : c.isOff = false) (at_ : Nat) (f : Chip → Chip) : c.pcmd acc v (some at_) f = c :=
  if_pos (Bool.eq_false_iff.1 ho)

end

/-! ### The validation of an arm -/

theorem armCalendar_of_armed {c : Chip} (h : c.calArmed = true) : c.armCalendar = c := if_pos h

theorem armCalendar_of_error {c : Chip} (h : c.calArmed = false) (he : calendarError c.trf.passive ≠ 0) :
    c.armCalendar = ((c.put TRF_PSTATE_error (calendarError c.trf.passive)).put TRF_PSTATE_state 3).raiseEv trfPage 3 :=
  (if_neg (Bool.eq_false_iff.1 h)).trans (if_pos he)

/-- The block that has armed its passive calendar for a time (R193). -/
def Chip.calendarArmed (c : Chip) (at_ : Nat) : Chip :=
  ((((c.put TRF_PSTATE_error 0).put TRF_PSTATE_state 1).setFlag TRF_PSTATE_wrote_armed false).setFlag TRF_PSTATE_late
    (decide (at_ ≤ c.lc + 1))).setTrf fun x => { x with activateAt := at_, armStride := c.stride }

theorem rd64_put_of_ne {c : Chip} {f lo hi : Fld} (v : Nat) (h1 : lo.addr ≠ f.addr) (h2 : hi.addr ≠ f.addr) :
    (c.put f v).rd64 lo hi = c.rd64 lo hi := by
  simp only [Chip.rd64, Chip.rd_of_word (Chip.word_put_other f v h1), Chip.rd_of_word (Chip.word_put_other f v h2)]

theorem armCalendar_of_valid {c : Chip} (h : c.calArmed = false) (he : calendarError c.trf.passive = 0) :
    c.armCalendar = c.calendarArmed (c.rd64 TRF_PACT_LO_lc TRF_PACT_HI_lc) := by
  have hr : (c.put TRF_PSTATE_error 0).rd64 TRF_PACT_LO_lc TRF_PACT_HI_lc = c.rd64 TRF_PACT_LO_lc TRF_PACT_HI_lc :=
    rd64_put_of_ne 0 (by decide) (by decide)
  unfold Chip.armCalendar
  rw [if_neg (Bool.eq_false_iff.1 h), he]
  dsimp only
  rw [hr]
  generalize c.rd64 TRF_PACT_LO_lc TRF_PACT_HI_lc = at_
  rw [if_neg (not_not.2 rfl)]
  rw [Chip.calendarArmed, Chip.setFlag_lc, Chip.put_lc, Chip.put_lc, Chip.setFlag_stride, Chip.setFlag_stride, Chip.put_stride,
    Chip.put_stride]

theorem rd_setTrf (c : Chip) (f : Tariff → Tariff) (x : Fld) : (c.setTrf f).rd x = c.rd x := rfl

theorem flag_setTrf (c : Chip) (f : Tariff → Tariff) (x : Fld) : (c.setTrf f).flag x = c.flag x := rfl

section

variable (c : Chip) (at_ : Nat)

theorem calendarArmed_calArmed : (c.calendarArmed at_).calArmed = true := by
  refine beq_iff_eq.2 ?_
  rw [Chip.calendarArmed, rd_setTrf, Chip.rd_setFlag_other _ _ _ (by decide) (.inr (by decide)), Chip.rd_setFlag_other _ _ _ (by decide) (.inr (by decide))]
  exact Chip.rd_put_same _ _ (by decide)

theorem calendarArmed_error : (c.calendarArmed at_).rd TRF_PSTATE_error = 0 := by
  rw [Chip.calendarArmed, rd_setTrf, Chip.rd_setFlag_other _ _ _ (by decide) (.inr (by decide)), Chip.rd_setFlag_other _ _ _ (by decide) (.inr (by decide))]
  exact (Chip.rd_put_other _ _ _ (by decide) (.inr (by decide))).trans (Chip.rd_put_same _ _ (by decide))

theorem calendarArmed_wrote_armed : (c.calendarArmed at_).flag TRF_PSTATE_wrote_armed = false := by
  rw [Chip.calendarArmed, flag_setTrf, Chip.flag_setFlag_other _ _ _ (by decide) (.inr (by decide))]
  exact Chip.flag_setFlag_same _ _ rfl (by decide)

theorem calendarArmed_late : (c.calendarArmed at_).flag TRF_PSTATE_late = decide (at_ ≤ c.lc + 1) := by
  rw [Chip.calendarArmed, flag_setTrf]
  exact Chip.flag_setFlag_same _ _ rfl (by decide)

end

/-! ### The swap -/

theorem calendarActivate_eq (c : Chip) :
    let before := calCrc c.trf.active
    let after := calCrc c.trf.passive
    let x := c.setTrf fun x => { x with active := x.passive, passive := x.active, pcrcDue := false }
    let x := ((x.put TRF_PSTATE_state 2).put64 TRF_ACT_LO_lc TRF_ACT_HI_lc (x.lc + 1)).put TRF_ACAL_CRC_crc after
    let x := (x.put TRF_PCAL_CRC_crc before).raiseEv trfPage 2
    let x := x.appendAudit (x.auditHead 6 ++ leBytes 4 before ++ leBytes 4 after ++ fit 16 [] ++
      leBytes 4 (calBits c.trf.passive 552 0 32))
    calendarActivate c = if c.activationDue then (x.journal (.activation (x.lc + 1) after before)).lookupNext else c :=
  ite_of_iff_not Iff.rfl

/-- Settles O31: each command by its form, local or mirrored, and the arm by its first broken rule. -/
theorem calendars : Obligations.Calendars := by
  refine ⟨fun s acc v => ?_, fun c => ?_⟩
  · intro c k keep sent taken
    refine ⟨fun h => answers rfl (calendarDataAccess_read h),
      fun ho => ⟨fun h => answers rfl (calendarDataAccess_write ho h), fun h => answers rfl (pcmd_local ho h _),
        fun h => answers rfl (pcmd_local ho h _), fun w j => ⟨answers rfl (calendarDataAccess_mirrored_not_off w j ho),
          answers rfl (pcmd_mirrored_not_off ho j _), answers rfl (pcmd_mirrored_not_off ho j _)⟩⟩,
      fun ho => ⟨fun hw h => answers rfl (calendarDataAccess_write_on_off ho hw h),
        fun hw h => ⟨answers rfl (pcmd_local_on_off ho hw h _), answers rfl (pcmd_local_on_off ho hw h _)⟩,
        fun w j => answers rfl (calendarDataAccess_mirrored w j ho),
        fun at_ => ⟨answers rfl (pcmd_mirrored ho at_ _), answers rfl (pcmd_mirrored ho at_ _)⟩⟩,
      answers rfl (calendarActivate_eq _), answers rfl rfl⟩
  · refine ⟨armCalendar_of_armed, fun h he => armCalendar_of_error h he, fun h he => ?_⟩
    rw [armCalendar_of_valid h he]
    exact ⟨calendarArmed_calArmed c _, calendarArmed_error c _, calendarArmed_wrote_armed c _, rfl, calendarArmed_late c _⟩

end Sys2Proof.Machine
end

section
/-! PROOFS. Demand and billing closes, and the grid of sub-interval ends (R195, R200). -/

namespace Sys2Proof.Machine

/-! ### What a close leaves of the demand engine -/

theorem journal_dmd (c : Chip) (e : JournalEntry) : (c.journal e).dmd = c.dmd := by
  unfold Chip.journal
  exact Chip.advanceLog_dmd _ _ _

theorem setMax_dmd (c : Chip) (m j : Nat) (v : Maximum) : (c.setMax m j v).dmd = c.dmd := by
  rw [Chip.setMax, Chip.raiseEv_dmd, journal_dmd]
  rfl

theorem raiseMax_dmd (c : Chip) (m j d e flags : Nat) : (c.raiseMax m j d e flags).dmd = c.dmd :=
  ite_keeps Chip.dmd (fun _ => setMax_dmd c m j _) (fun _ => rfl)

theorem windowClose_dmd (c : Chip) (m e : Nat) : (c.windowClose m e).dmd = c.dmd :=
  ite_keeps Chip.dmd (fun _ => rfl) fun _ => by rw [raiseMax_dmd, raiseMax_dmd, raiseMax_dmd, raiseMax_dmd]; rfl

/-- A sub-interval of some length that closes leaves its end as the high-water mark and its length in the list (R195). -/
theorem closeSub_dmd {c : Chip} {e : Nat} (extra : Nat) (ho : c.dmd.isOpen = true) (he : c.dmd.start < e) :
    ∃ flags, (c.closeSub e extra).dmd =
      { c.dmd with isOpen := false, hw := max c.dmd.hw e, closed := ((e - c.dmd.start, flags) :: c.dmd.closed).take 15 } := by
  refine ⟨c.dmd.flags ||| extra ||| (if c.isOff then flagOff else 0), ?_⟩
  unfold Chip.closeSub
  rw [if_neg (not_not.2 ho)]
  dsimp only
  rw [if_neg (Nat.not_le.2 he)]
  refine ite_keeps Chip.dmd (fun _ => (forN_keeps Chip.dmd (fun m _ d => ?_) _).trans ?_) fun _ => ?_
  · exact ite_keeps Chip.dmd (fun _ => windowClose_dmd d m e) (fun _ => rfl)
  all_goals
    refine (forN_keeps Chip.dmd (fun m _ d => ?_) _).trans ?_
    · exact ite_keeps Chip.dmd (fun _ => rfl) (fun _ => (journal_dmd _ _).trans (journal_dmd d _))
    · rw [Chip.raiseEv_dmd]; rfl

theorem openSub_dmd (c : Chip) (e flags : Nat) :
    (c.openSub e flags).dmd = { c.dmd with isOpen := true, start := e, flags := flags } := by
  unfold Chip.openSub
  refine (forN_keeps Chip.dmd (fun m _ d => ?_) _).trans rfl
  exact ite_keeps Chip.dmd (fun _ => rfl) (fun _ => rfl)

theorem showDemand_dmd (c : Chip) : c.showDemand.dmd = c.dmd := by
  unfold Chip.showDemand
  rw [Chip.put64_dmd, Chip.put_dmd, Chip.setFlag_dmd, Chip.put_dmd, Chip.put64_dmd]

/-! ### The grid -/

theorem subEnd_eq_some {c : Chip} {e : Nat} (h : c.subEnd = some e) :
    c.dmd.isOpen = true ∧ e = c.gridAfter (max c.dmd.start c.dmd.hw) := by
  unfold Chip.subEnd at h
  split at h
  case isTrue ho => exact ⟨ho.1, (Option.some.inj h).symm⟩
  case isFalse => cases h

/-- A point lies on the grid of sub-interval ends (R195). -/
def Chip.OnGrid (c : Chip) (x : Nat) : Prop := ((x : Int) + 8000 * c.tsOffset) % (c.dmd.ls : Int) = 0

theorem gridAfter_is_first {c : Chip} (x : Nat) (hl : 0 < c.dmd.ls) :
    x < c.gridAfter x ∧ c.OnGrid (c.gridAfter x) ∧ ∀ y : Nat, x < y → y < c.gridAfter x → ¬ c.OnGrid y := by
  have hl' : (0 : Int) < c.dmd.ls := by omega
  obtain ⟨r, hr⟩ := Int.eq_ofNat_of_zero_le (Int.emod_nonneg ((x : Int) + 8000 * c.tsOffset) hl'.ne')
  have hlt : r < c.dmd.ls := by have := Int.emod_lt_of_pos ((x : Int) + 8000 * c.tsOffset) hl'; omega
  have hg : c.gridAfter x = x + c.dmd.ls - r := by rw [Chip.gridAfter, hr]; rfl
  have hdiv := Int.emod_add_mul_ediv ((x : Int) + 8000 * c.tsOffset) c.dmd.ls
  rw [hr] at hdiv
  unfold Chip.OnGrid
  refine ⟨by omega, ?_, fun y hy hy' => ?_⟩
  · have he : ((c.gridAfter x : Nat) : Int) + 8000 * c.tsOffset =
        c.dmd.ls * (((x : Int) + 8000 * c.tsOffset) / c.dmd.ls + 1) := by
      rw [Int.mul_add, Int.mul_one, hg]; omega
    rw [he]
    exact Int.mul_emod_right _ _
  · have he : (y : Int) + 8000 * c.tsOffset =
        (r + (y - x) : Int) + c.dmd.ls * (((x : Int) + 8000 * c.tsOffset) / c.dmd.ls) := by omega
    rw [he, Int.add_mul_emod_self_left, Int.emod_eq_of_lt (by omega) (by omega)]
    omega

/-! ### The commands -/

theorem demandClose_of_end {c : Chip} {e : Nat} (h : c.subEnd = some e) :
    demandClose c =
      if c.flag LDG_STATUS_restored = true ∧ c.suspended = false ∧ e ≤ c.lc + 1 then
        ((c.closeSub e (if c.dmd.catchUp then flagPowerFail else 0)).openSub e 0).showDemand
      else c := by
  unfold demandClose
  rw [h]
  by_cases hg : c.flag LDG_STATUS_restored = true ∧ c.suspended = false
  · rw [if_neg (by rw [hg.1, hg.2]; simp)]
    exact if_congr ⟨fun he => ⟨hg.1, hg.2, he⟩, fun hx => hx.2.2⟩ rfl rfl
  · rw [if_pos (by rw [← Bool.not_eq_false (Chip.suspended c)]; exact not_and_or.1 hg)]
    exact (if_neg fun hx => hg ⟨hx.1, hx.2.1⟩).symm

theorem demandClose_of_no_end {c : Chip} (h : c.subEnd = none) : demandClose c = c := by
  unfold demandClose
  rw [h]
  exact ite_self c

theorem billingClose_of_idle {c : Chip} (h : c.trf.billDue = none ∨ c.suspended = true) : billingClose c = c := by
  unfold billingClose
  cases hb : c.trf.billDue with
  | none => rfl
  | some b =>
    obtain ⟨lc, reason, late⟩ := b
    exact if_pos (h.resolve_left (by rw [hb]; exact Option.some_ne_none _))

theorem billingClose_of_due {c : Chip} {lc reason : Nat} {late : Bool} (h : c.trf.billDue = some (lc, reason, late))
    (hs : c.suspended = false) :
    let x := (c.setTrf fun x => { x with billDue := none }).inc TRF_BPERIOD_count
    let period := x.rd TRF_BPERIOD_count
    let slot := (period + 2 ^ 32 - 1) % 16
    let x := (x.put64 TRF_BLAST_LO_lc TRF_BLAST_HI_lc lc).put TRF_BLAST_ST_reason reason
    let x := (x.setFlag TRF_BLAST_ST_late late).raiseEv trfPage 4
    let x := (x.store (0x3200000 + slot * 0x10000) (x.historicSet period lc reason)).journal (.billing period lc reason slot)
    billingClose c =
      forN x.variant.meters (fun m c => if (c.meter m).maxima = [] then c else c.modMeter m fun x => { x with maxima := [] }) x := by
  unfold billingClose
  rw [h]
  exact if_neg (Bool.eq_false_iff.1 hs)

/-- Settles O32: the closes by their guards, and the end of a sub-interval as the first point of the grid. -/
theorem demandAndBilling : Obligations.DemandAndBilling := by
  refine ⟨fun s => ⟨fun e h => answers rfl (demandClose_of_end h), fun h => answers rfl (demandClose_of_no_end h),
    fun h => answers rfl (billingClose_of_idle h), fun lc reason late h hs => answers rfl (billingClose_of_due h hs)⟩,
    fun s e hl hr hs he hlc => ?_⟩
  intro c onGrid
  obtain ⟨ho, hg⟩ := subEnd_eq_some he
  obtain ⟨hlt, hon, hfirst⟩ := gridAfter_is_first (max c.dmd.start c.dmd.hw) hl
  rw [← hg] at hlt hon hfirst
  obtain ⟨hstart, hhw⟩ := max_lt_iff.1 hlt
  refine ⟨⟨hlt, hon, hfirst⟩, _, answers rfl ((demandClose_of_end he).trans (if_pos ⟨hr, hs, hlc⟩)), rfl, ?_⟩
  obtain ⟨flags, hd⟩ := closeSub_dmd (if c.dmd.catchUp then flagPowerFail else 0) ho hstart
  have hfinal := (showDemand_dmd _).trans (openSub_dmd (c.closeSub e (if c.dmd.catchUp then flagPowerFail else 0)) e 0)
  rw [hd, max_eq_right hhw.le] at hfinal
  exact ⟨congrArg Demand.hw hfinal, congrArg Demand.start hfinal, congrArg Demand.isOpen hfinal, flags, congrArg Demand.closed hfinal⟩

end Sys2Proof.Machine
end

section
/-! PROOFS. Saves, commits, tail records, brownout and the release of a power failure (R214, R218–R224). -/

namespace Sys2Proof.Machine

section

variable {c : Chip}

/-! ### Saves -/

theorem takeSave_of_busy (h : c.led.saving.isSome = true) : c.takeSave = (c.inc LDG_SAVE_SKIP_count).raiseEv ldgPage 1 := if_pos h

theorem takeSave_of_free (h : c.led.saving = none) :
    c.takeSave = (c.setLed fun l => { l with saving := some (c.capture l.nextSave), nextSave := (l.nextSave + 1) % 2 ^ 32 }).setFlag
      LDG_STATUS_save_busy true := by
  unfold Chip.takeSave
  rw [h]
  rfl

theorem periodicSave_of_idle (h : c.flag LDG_STATUS_restored = false ∨ c.flag LDG_STATUS_committed = true) : periodicSave c = c :=
  if_pos (h.imp Bool.eq_false_iff.1 id)

theorem periodicSave_of_running (hr : c.flag LDG_STATUS_restored = true) (hc : c.flag LDG_STATUS_committed = false) :
    let x := c.flushStepFour
    let taken : Bool := (match x.led.saving with
      | some i => i.stride == x.stride
      | none => false) || (x.stride != 0 && x.rd64 LDG_SAVE_STRIDE_LO_stride LDG_SAVE_STRIDE_HI_stride == x.stride)
    let y := if x.stride % 8000 = 0 ∧ taken = false then x.takeSave else x
    periodicSave c =
      match y.led.forceSave with
      | some r => if r < y.stride then (y.setLed fun l => { l with forceSave := none }).takeSave else y
      | none => y := by
  unfold periodicSave
  rw [if_neg (by rw [hr, hc]; simp)]
  simp only [Bool.not_eq_true] <;> rfl

theorem saveComplete_of_none (h : c.led.saving = none) : saveComplete c = c := by
  unfold saveComplete; rw [h]

theorem saveComplete_of_some {i : LedgerImage} (h : c.led.saving = some i) :
    let y := c.setLed fun l =>
      { l with saving := none, everSaved := true, saves := Sparse.insert l.saves (i.seq % 256) (some i) }
    let y := (y.setFlag LDG_STATUS_save_busy false).put LDG_SAVE_SEQ_seq i.seq
    saveComplete c = (y.put64 LDG_SAVE_STRIDE_LO_stride LDG_SAVE_STRIDE_HI_stride i.stride).raiseEv ldgPage 0 := by
  unfold saveComplete; rw [h]

/-! ### Commits -/

theorem dropSaving_saving (x : Ledger) : x.dropSaving.saving = none := by
  unfold Ledger.dropSaving
  cases h : x.saving with
  | none => exact h
  | some y => rfl

theorem takeCommit_led (c : Chip) :
    c.takeCommit.led =
      { c.flushStepFour.led.dropSaving with
        nextCommit := (c.flushStepFour.led.nextCommit + 1) % 2 ^ 32
        writing := some (c.flushStepFour.capture c.flushStepFour.led.nextCommit) } := by
  unfold Chip.takeCommit
  rw [Chip.put64_led, Chip.setFlag_led, Chip.setLed_led]

theorem resetCommit_of_none (h : c.led.resetWanted = none) : resetCommit c = c := by
  unfold resetCommit; rw [h]

theorem resetCommit_of_some {r : Nat} (h : c.led.resetWanted = some r) :
    resetCommit c =
      if r < c.stride ∧ c.led.writing = none ∧ c.led.resetDone = false ∧ c.flag LDG_STATUS_restored = true ∧ c.flag LDG_STATUS_pfw = false then
        c.takeCommit.setLed fun l => { l with resetSeq := some c.led.nextCommit }
      else c := by
  unfold resetCommit
  rw [h]
  simp only [Option.isNone_iff_eq_none, Bool.not_eq_true]

theorem commitWritten_of_none (h : c.led.writing = none) : commitWritten c = c := by
  unfold commitWritten; rw [h]

theorem commitWritten_of_some {k : LedgerImage} (h : c.led.writing = some k) :
    commitWritten c = (c.setLed fun l =>
      { l with
        writing := none, commits := Sparse.insert l.commits (k.seq % 2) (some k), resetSeq := none
        resetDone := l.resetDone || l.resetSeq == some k.seq }).raiseEv ldgPage 3 := by
  unfold commitWritten; rw [h]

theorem tailRecord_of_none (h : c.led.committed = none) : tailRecord c = c := by
  unfold tailRecord; rw [h]

theorem tailRecord_of_some {k : LedgerImage} (h : c.led.committed = some k) :
    let n := c.stride - k.stride
    let t : LedgerImage :=
      { seq := n / 8, commit := k.seq, stride := c.stride, lc := c.lc
        meters := (List.range c.variant.meters).foldl (fun (a : Sparse Meter) m =>
          Sparse.set (fun _ => {}) a m (c.savedAggregates ((c.meter m).since (Sparse.get (fun _ => {}) k.meters m)))) []
        events := (c.elements.filter fun p => p.2.pq.anyOpen).map fun p => (p.1, c.savedEvents p.2.pq) }
    tailRecord c =
      if c.flag LDG_STATUS_pfw = true ∧ n ≠ 0 ∧ n % 8 = 0 then
        (c.setLed fun l => { l with tails := Sparse.insert l.tails (n / 8 % 48) (some t) }).put LDG_TAIL_k (n / 8)
      else c := by
  intro n t
  unfold tailRecord
  rw [h]
  exact ite_of_iff_not (by rw [not_and_or, not_and_or, not_not])

/-! ### The power failure -/

theorem pfwAccept_of_asserted (h : c.led.asserted = true) :
    let taken := if c.flag LDG_STATUS_pfw then c else ((c.setFlag LDG_STATUS_pfw true).inc LDG_PFW_CNT_count).raiseEv ldgPage 2
    pfwAccept c = if taken.flag LDG_STATUS_restored ∧ ¬ taken.flag LDG_STATUS_committed then taken.powerFailCommit else taken :=
  if_neg (not_not.2 h)

theorem pfwAccept_of_released (h : c.led.asserted = false) :
    let x := (c.setLed fun l => { l with pfwAge := 0 }).setFlag LDG_STATUS_pfw false
    let x := ((x.setFlag LDG_STATUS_brownout false).clearFault 5 0x1A06 0).raiseEv ldgPage 4
    pfwAccept c =
      if c.flag LDG_STATUS_pfw = false then c
      else if x.flag LDG_STATUS_committed then
        (((x.setFlag LDG_STATUS_committed false).journal (.released x.stride x.lc)).setLed fun l =>
          { l with committed := none }).setDmd fun d => { d with resuming := true }
      else x := by
  refine (if_pos (Bool.eq_false_iff.1 h)).trans (if_congr ?_ rfl rfl)
  rw [h, Bool.not_eq_true]
  simp

theorem brownout_eq (c : Chip) :
    brownout c =
      if c.flag LDG_STATUS_pfw = true ∧ 8000 ≤ c.led.pfwAge ∧ c.flag LDG_STATUS_brownout = false then
        ((c.setFlag LDG_STATUS_brownout true).setFault 5 0x1A06 0).raiseEv ldgPage 7
      else c :=
  if_congr (by rw [Bool.not_eq_true]) rfl rfl

end

/-- Settles O33: each command by its guard. -/
theorem savesAndPowerFailure : Obligations.SavesAndPowerFailure := by
  refine ⟨⟨fun s acc v => ?_, fun c => ⟨takeSave_of_busy, takeSave_of_free, ?_, ?_, ?_⟩⟩, fun s => ?_⟩
  · intro c x taken y
    exact ⟨fun h => answers rfl (periodicSave_of_idle h), fun hr hc => answers rfl (periodicSave_of_running hr hc),
      fun h => answers rfl (Chip.write_of_accepts h _), fun h => answers rfl (saveComplete_of_none h),
      fun i h => answers rfl (saveComplete_of_some h), fun h => answers rfl (resetCommit_of_none h),
      fun r h => answers rfl (resetCommit_of_some h)⟩
  · rw [takeCommit_led]; exact dropSaving_saving _
  · rw [takeCommit_led]
  · rw [takeCommit_led]
  · intro c taken
    exact ⟨answers rfl rfl, answers rfl rfl, fun h => answers rfl (pfwAccept_of_asserted h),
      fun h => answers rfl (pfwAccept_of_released h), fun h => answers rfl (commitWritten_of_none h),
      fun k h => answers rfl (commitWritten_of_some h), fun h => answers rfl (tailRecord_of_none h),
      fun k h => answers rfl (tailRecord_of_some h), answers rfl (brownout_eq _)⟩

end Sys2Proof.Machine
end

section
/-! PROOFS. The ledger store: the restore, memory errors, words of the store and fault records (R211–R213, R225, R226, R237). -/

namespace Sys2Proof.Machine

/-! ### The restore -/

/-- The state that a restore adopts with a commit or without one, and the ledger clock up to which billing instants were looked for (R225,
R226). -/
def Chip.restoreBase (c : Chip) : Chip × Nat :=
  match newest (images c.led.saves) with
  | none => (({ c with lc := 0 } : Chip).restoreNothing, 0)
  | some s =>
    let x := c.adoptSave s
    let x := x.put LDG_RESTORE_ST_fallbacks (satN 8 (x.led.rejected.filter fun q => decide (s.seq < q)).length)
    let x := (x.put LDG_SAVE_SEQ_seq s.seq).put64 LDG_SAVE_STRIDE_LO_stride LDG_SAVE_STRIDE_HI_stride s.stride
    let r := x.replayFrom (x.led.journal.length + 1) s.journalNext none
    let y : Chip × Nat := match newest (images r.1.led.commits) with
      | some k => if s.seq ≤ k.saveSeq ∧ k.journalNext = r.2 then (r.1.adoptCommit k, k.lc) else (r.1.restoreGap s, s.lc)
      | none => (r.1.restoreGap s, s.lc)
    (y.1.eachMeter fun m z => z.addOwn (c.meter m), y.2)

/-- What every restore ends with (R225). -/
def Chip.restoreEnd (own : Chip) (l : List CalRecord) (c : Chip) (looked : Nat) : Chip :=
  let c := c.put64 LDG_RESTORE_LC_LO_lc LDG_RESTORE_LC_HI_lc c.lc
  let c := c.put64 TIM_LEDGER_LO_lc TIM_LEDGER_HI_lc c.lc
  let c := c.eachMeter fun m x => { x with restored := true, c := c.meterConst m, cr := c.meterCr m }
  let c := forN c.variant.meters (fun m x => x.noteRegisters m (own.meter m)) c
  let c := c.setTrf fun x =>
    { x with
      billedTo := some ((looked + 1 : Nat) + 8000 * c.tsOffset)
      reached := some (max (x.reached.getD (c.scaledStamp (looked + 1))) (c.scaledStamp (looked + 1))) }
  let c := (c.loadDemand.setDmd fun d => { d with restart := true }).setFlag LDG_STATUS_restored true
  ((forN 5 (fun n c => c.showLog n) c).selectRecord l).showDemand

section

variable {c : Chip} {l : List CalRecord}

theorem ledgerRestore_of_idle (h : c.flag LDG_STATUS_restored = true ∨ c.flag VLT_STATUS_ready = false) : ledgerRestore l c = c :=
  if_pos (h.imp id Bool.eq_false_iff.1)

theorem ledgerRestore_of_due (hr : c.flag LDG_STATUS_restored = false) (hv : c.flag VLT_STATUS_ready = true) :
    ledgerRestore l c = c.restoreEnd l c.restoreBase.1 c.restoreBase.2 :=
  if_neg (by rw [hr, hv]; simp)

theorem restoreBase_of_no_save (h : newest (images c.led.saves) = none) :
    c.restoreBase = (({ c with lc := 0 } : Chip).restoreNothing, 0) := by
  unfold Chip.restoreBase; rw [h]

/-- The save with its registers, and the journal behind it (R225). -/
def Chip.restoreSave (c : Chip) (i : LedgerImage) : Chip × Nat :=
  let x := c.adoptSave i
  let x := x.put LDG_RESTORE_ST_fallbacks (satN 8 (x.led.rejected.filter fun q => decide (i.seq < q)).length)
  let x := (x.put LDG_SAVE_SEQ_seq i.seq).put64 LDG_SAVE_STRIDE_LO_stride LDG_SAVE_STRIDE_HI_stride i.stride
  x.replayFrom (x.led.journal.length + 1) i.journalNext none

theorem restoreBase_of_save {i : LedgerImage} (h : newest (images c.led.saves) = some i) :
    c.restoreBase =
      let r := c.restoreSave i
      let y : Chip × Nat := match newest (images r.1.led.commits) with
        | some k => if i.seq ≤ k.saveSeq ∧ k.journalNext = r.2 then (r.1.adoptCommit k, k.lc) else (r.1.restoreGap i, i.lc)
        | none => (r.1.restoreGap i, i.lc)
      (y.1.eachMeter fun m z => z.addOwn (c.meter m), y.2) := by
  unfold Chip.restoreBase; rw [h]; rfl

theorem restoreBase_of_gap {i : LedgerImage} (h : newest (images c.led.saves) = some i)
    (hk : newest (images (c.restoreSave i).1.led.commits) = none) :
    c.restoreBase = (((c.restoreSave i).1.restoreGap i).eachMeter fun m z => z.addOwn (c.meter m), i.lc) := by
  rw [restoreBase_of_save h]
  dsimp only
  rw [hk]

theorem restoreBase_of_commit {i k : LedgerImage} (h : newest (images c.led.saves) = some i)
    (hk : newest (images (c.restoreSave i).1.led.commits) = some k) :
    c.restoreBase =
      if i.seq ≤ k.saveSeq ∧ k.journalNext = (c.restoreSave i).2 then
        (((c.restoreSave i).1.adoptCommit k).eachMeter fun m z => z.addOwn (c.meter m), k.lc)
      else (((c.restoreSave i).1.restoreGap i).eachMeter fun m z => z.addOwn (c.meter m), i.lc) := by
  rw [restoreBase_of_save h]
  dsimp only
  rw [hk]
  dsimp only
  split <;> rfl

/-! ### Words of the store -/

theorem Chip.with_rdata_ite (x : Chip) {p : Prop} [Decidable p] (a b : Nat) :
    ({ x with rdata := if p then a else b } : Chip) = if p then { x with rdata := a } else { x with rdata := b } := by
  split <;> rfl

theorem ledgerWriteWord_of_accepts {acc : Access} {v : Nat} (h : c.Accepts acc LDG_WR_DATA.addr v) :
    let dst := 4 * c.rd LDG_WR_ADDR_addr
    let x := (c.store dst (leBytes 4 v)).put LDG_WR_ADDR_addr (dst / 4 + 1)
    ledgerWriteWord acc v c =
      if 0x10000 ≤ dst ∧ dst < 0x100000 then if Config.signatureEnd dst then x.setFlag SFE_CAL_SEAL_rec_unsigned false else x
      else c.setFlag LDG_ERR_wr_refused true :=
  Chip.write_of_accepts h _

theorem ledgerReadWord_of_readable {acc : Access} (h : c.Readable acc LDG_RD_DATA.addr) :
    let a := 4 * c.rd LDG_RD_ADDR_addr
    let x := c.put LDG_RD_ADDR_addr (a / 4 + 1)
    ledgerReadWord acc c =
      { x with
        rdata := if 0x3F00000 ≤ a then 0 else if typedRegion a then Config.storeWord a (c.led.slotKey a) % 2 ^ 32
          else ofLe (x.stored a 4) } := by
  intro a x
  have hl : x.led = c.led := Chip.put_led c _ _
  rw [Chip.with_rdata_ite, Chip.with_rdata_ite, ← hl]
  exact Chip.read_of_readable h _

end

/-- Settles O34: the restore by what the store holds, the other commands by their guards. -/
theorem ledgerStore : Obligations.LedgerStore := by
  refine ⟨fun s l => ?_, fun c h => if_pos (Bool.eq_false_iff.1 h), fun s a => answers rfl rfl, fun s acc v => ?_⟩
  · intro c done
    refine ⟨fun h => answers rfl (ledgerRestore_of_idle h), fun hr hv hn => answers rfl ?_, fun i hr hv hi => ?_⟩
    · rw [ledgerRestore_of_due hr hv, restoreBase_of_no_save hn]
      rfl
    · intro x _ _ r own
      refine ⟨fun hk => answers rfl ?_, fun k hk => answers rfl ?_⟩
      · rw [ledgerRestore_of_due hr hv, restoreBase_of_gap hi hk]
        rfl
      · rw [ledgerRestore_of_due hr hv, restoreBase_of_commit hi hk]
        split
        case isTrue hc => exact (if_pos hc).symm
        case isFalse hc => exact (if_neg hc).symm
  · intro c dst a
    exact ⟨fun h => answers rfl (ledgerWriteWord_of_accepts h), fun h => answers rfl (ledgerReadWord_of_readable h),
      fun h => answers rfl (Chip.write_of_accepts h _)⟩

end Sys2Proof.Machine
end

section
/-! PROOFS. The displays: polls, replies, item steps and the item table (R231, R232, R234, R240). -/

namespace Sys2Proof.Machine

section

variable {c : Chip} {d : Nat}

/-! ### Items and polls -/

theorem sendChanged_of_running (hl : c.linkRuns = true) (ho : c.displayOn d = true) :
    c.sendChanged d = if (c.display d).lastSent = some (c.shownItem d) then c else c.sendItem d :=
  if_congr (by rw [hl, ho]; simp) rfl rfl

theorem displayPoll_of_idle (h : c.linkRuns = false ∨ c.dsp.sincePoll < 800) : displayPoll c = c :=
  if_pos (h.imp Bool.eq_false_iff.1 id)

/-- Display d is polled, its item sent first where it changed (R231). -/
def pollDisplay (d : Nat) (c : Chip) : Chip :=
  let i := c.rd (DSP_DISP_ST_item d)
  let c := if c.itemValid (c.itemWord d i) then c else c.put (DSP_DISP_ST_item d) (c.nextItem d i)
  let c := c.sendChanged d
  let q := (c.display d).seq
  (c.sendFrame d [0xA5, d + 32, q]).modDisplay d fun z => { z with polled := some q }

theorem displayPoll_of_due (hl : c.linkRuns = true) (hp : 800 ≤ c.dsp.sincePoll) :
    let x := c.setDsp fun r => { r with sincePoll := 0, sent := [] }
    displayPoll c = forN x.variant.ports (fun d c => if c.displayOn d = false then c else pollDisplay d c) x := by
  intro x
  have hf : (fun (d : Nat) (c : Chip) => if ¬ c.displayOn d then c else pollDisplay d c) =
      fun d c => if c.displayOn d = false then c else pollDisplay d c :=
    funext fun d => funext fun c => if_congr (Bool.not_eq_true _).to_iff rfl rfl
  rw [← hf]
  exact if_neg (by rw [hl]; simp [hp])

/-! ### Replies -/

theorem displayReply_of_absent {bytes : List Nat} (h : c.variant.ports ≤ d ∨ (c.display d).polled = none) : displayReply d bytes c = c := by
  unfold displayReply
  by_cases hp : c.variant.ports ≤ d
  · exact if_pos hp
  · rw [if_neg hp, h.resolve_left hp]

theorem displayReply_of_polled {q : Nat} (bytes : List Nat) (hd : d < c.variant.ports) (hq : (c.display d).polled = some q) :
    let x := c.setDsp fun r => { r with sent := [] }
    let y := (x.modDisplay d fun z => { z with polled := none, bad := 0 }).setFlag (DSP_DISP_ST_responding d) true
    let y := if y.flag (DSP_DISP_ST_fault d) then ((y.setFlag (DSP_DISP_ST_fault d) false).raiseEv dspPage 1).showDisplayFaults else y
    displayReply d bytes c =
      if bytes.length = 9 ∧ bytes.drop 5 = leBytes 4 (crc32 (fit 5 bytes)) ∧ nth bytes 0 = 0x5A ∧ nth bytes 1 = d + 64 ∧ nth bytes 2 = q then
        y.pushReply d (nth bytes 3) (bit (nth bytes 4) 0)
      else (x.raiseEv dspPage 3).badReply d := by
  intro x y y
  unfold displayReply
  rw [if_neg (Nat.not_le.2 hd), hq]
  exact if_congr (by simp only [Bool.and_eq_true, beq_iff_eq, and_assoc]) rfl rfl

theorem displayReplyTimeout_eq (c : Chip) (d : Nat) :
    displayReplyTimeout d c = if (c.display d).polled = none then c else (c.incSat (DSP_DISP_ST_missed d)).badReply d :=
  if_congr Option.isNone_iff_eq_none rfl rfl

theorem displayItemStep_eq (c : Chip) (d : Nat) :
    displayItemStep d c =
      if c.displayOn d = true ∧ c.displayStep d ≤ (c.display d).timer then
        (c.setDsp fun r => { r with sent := [] }).showItem d (c.stepItem d)
      else c :=
  ite_of_iff_not (by rw [not_and_or, not_le])

/-! ### The item table -/

theorem displayItemAccess_read {acc : Access} {shadow : Bool} (v : Nat)
    (h : c.Readable acc (DSP_ITEM_DATA.addr + (if shadow then 0x700 else 0))) :
    displayItemAccess acc shadow false v none c =
      { c.advanceItem acc with
        rdata := (Sparse.get (fun _ => (0 : Word)) (if shadow then c.dsp.shadow else c.dsp.items) c.itemEntry).toNat } := by
  simp only [displayItemAccess, Bool.false_eq_true, if_false, Chip.read_of_readable h]

theorem displayItemAccess_write {acc : Access} {shadow : Bool} {v : Nat}
    (h : c.Accepts acc (DSP_ITEM_DATA.addr + (if shadow then 0x700 else 0)) v) :
    let a := DSP_ITEM_DATA.addr + (if shadow then 0x700 else 0)
    let e := c.itemEntry
    let w := BitVec.ofNat 32 v
    let y := c.advanceItem acc
    displayItemAccess acc shadow true v none c =
      if c.isOff then c.violate acc a 0 true
      else if y.legalEntry e = true ∧ y.sealOpen 1 = false ∧ Sparse.get (fun _ => (0 : Word)) y.dsp.shadow e ≠ w &&& itemMask then
        y.violate acc a 1 true
      else if y.armed 1 then y.setFlag (STG_SLOT_ST_wrote_armed 1) true
      else if y.variant.ports ≤ e / 64 then y.mirror (.item e v)
      else (((y.setDsp fun r => { r with shadow := Sparse.set (fun _ => 0) r.shadow e (w &&& itemMask) }).markDirty dspPage 1).mirror
        (.item e v)) := by
  intro a e w y
  have hs : (y.storeItem e w).mirror (.item e v) =
      if y.variant.ports ≤ e / 64 then y.mirror (.item e v)
      else (((y.setDsp fun r => { r with shadow := Sparse.set (fun _ => 0) r.shadow e (w &&& itemMask) }).markDirty dspPage 1).mirror
        (.item e v)) := apply_ite (fun x : Chip => x.mirror (.item e v)) _ _ _
  rw [← hs]
  simp only [displayItemAccess, if_true, Chip.write_of_accepts h]
  refine if_congr Iff.rfl rfl (if_congr ?_ rfl rfl)
  rw [Bool.and_eq_true, Bool.and_eq_true, Bool.not_eq_true', bne_iff_ne, and_assoc]

theorem displayItemAccess_mirrored (acc : Access) (shadow write : Bool) (v j : Nat) (c : Chip) :
    displayItemAccess acc shadow write v (some j) c =
      if c.isOff = true ∧ j % 2048 / 64 < c.variant.ports then
        (c.setDsp fun r => { r with shadow := Sparse.set (fun _ => 0) r.shadow (j % 2048) (BitVec.ofNat 32 v &&& itemMask) }).markDirty dspPage 1
      else c := by
  by_cases ho : c.isOff = true
  · by_cases hj : j % 2048 / 64 < c.variant.ports
    · exact (if_pos ho).trans ((if_neg (Nat.not_le.2 hj)).trans (if_pos ⟨ho, hj⟩).symm)
    · exact (if_pos ho).trans ((if_pos (Nat.not_lt.1 hj)).trans (if_neg fun hx => hj hx.2).symm)
  · exact (if_neg ho).trans (if_neg fun hx => ho hx.1).symm

end

/-- Settles O35: each command by its guard. -/
theorem displays : Obligations.Displays :=
  ⟨fun _ _ hl ho => sendChanged_of_running hl ho,
    fun _ => ⟨fun h => answers rfl (displayPoll_of_idle h), fun hl hp => answers rfl (displayPoll_of_due hl hp)⟩,
    fun _ d bytes => ⟨fun h => answers rfl (displayReply_of_absent h), fun _ hd hq => answers rfl (displayReply_of_polled bytes hd hq),
      answers rfl (displayReplyTimeout_eq _ d), answers rfl (displayItemStep_eq _ d)⟩,
    fun _ acc v shadow => ⟨fun h => answers rfl (displayItemAccess_read v h), fun h => answers rfl (displayItemAccess_write h),
      fun write j => answers rfl (displayItemAccess_mirrored acc shadow write v j _)⟩⟩

end Sys2Proof.Machine
end

section
/-! PROOFS. The commands and the frames of a port (R244–R259, R265). -/

namespace Sys2Proof.Machine

theorem Chip.writeUnit_of_absent {c : Chip} {b : Blk} {n : Nat} (h : b.count c.variant ≤ n) (acc : Access) (a v : Nat) (f : Chip → Chip) :
    c.writeUnit b n acc a v f = c :=
  if_neg (Nat.not_lt.2 h)

section

variable {c : Chip} {n : Nat}

/-! ### Pilot and drops -/

theorem pwmPeriodStart_eq (hn : n < c.variant.ports) :
    let ok := dutyValid (c.rd (OPT_PWM_duty n))
    let d := if ok then c.rd (OPT_PWM_duty n) else 2000
    let a := if d = 100 ∨ d = 2000 then d else dutyFit d (c.currentLimit n)
    let x := if (a != d) && !c.flag (OPT_STATUS_duty_clamped n) then c.raiseEv (optPage n) 10 else c
    let y := ((x.put (OPT_PWM_APPLIED_duty n) a).setFlag (OPT_STATUS_duty_clamped n) (a != d)).setFlag (OPT_STATUS_duty_invalid n) (!ok)
    pwmPeriodStart n c =
      if c.stride % 8 = c.rd (OPT_PWM_phase n) ∧ c.flag (OPT_STATUS_dropped n) = false ∧ c.portCut n = false then y.noteOutput n else c :=
  ite_of_iff_not (by
    rw [not_and_or, not_and_or, Bool.not_eq_false, Bool.not_eq_false]
    exact or_iff_right (Nat.not_le.2 hn))

theorem pilotStateAccept_of_none (h : (c.port n).due = none) : pilotStateAccept n c = c := by
  unfold pilotStateAccept; rw [h]

theorem pilotStateAccept_of_due {k : PilotClass} (h : (c.port n).due = some k) :
    let x := lockDebounce n (proximityAccept n (c.setPort n fun p => { p with due := none }))
    let y := (x.setPort n fun p => { p with accepted := some k }).setFlag (OPT_STATUS_diode_fault n) false
    pilotStateAccept n c =
      if x.pilotOutput n = none ∧ k ≠ .e ∧ k ≠ .invalid then x
      else if k = .diode then (x.setFlag (OPT_STATUS_diode_fault n) true).checkDrop n
      else (if (x.port n).accepted ≠ some k then y.raiseEv (optPage n) 0 else y).checkDrop n := by
  intro x y
  unfold pilotStateAccept
  rw [h]
  have hy : (if ((x.port n).accepted != some k) = true then y.raiseEv (optPage n) 0 else y) =
      if (x.port n).accepted ≠ some k then y.raiseEv (optPage n) 0 else y := if_congr bne_iff_ne rfl rfl
  rw [← hy]
  exact if_congr (by rw [Option.isNone_iff_eq_none]) rfl rfl

theorem portRearm_of_accepts {acc : Access} (hn : n < c.variant.ports) (h : c.Accepts acc (OPT_CMD n).addr 2) :
    portRearm acc n c =
      if c.flag (OPT_STATUS_dropped n) = false then c
      else if c.dropCauses n (c.port n).accepted = 0 ∧ c.shownState n (c.port n).accepted < 2 then c.setPort n fun p => { p with rearm := true }
      else c.setFlag (OPT_STATUS_rearm_refused n) true :=
  (Chip.writeUnit_of_accepts hn h _).trans (if_congr (Bool.not_eq_true _).to_iff rfl rfl)

theorem portAutoRearm_eq (hn : n < c.variant.ports) :
    portAutoRearm n c =
      if c.flag (OPT_STATUS_dropped n) = true ∧ c.flag (OPT_CTRL_auto_rearm n) = true ∧ 16 ≤ (c.port n).aRun ∧
        c.dropCauses n (c.port n).accepted = 0 then c.clearDrop n
      else c :=
  if_congr (by rw [and_iff_left hn]) rfl rfl

/-! ### Proximity, lock and temperature -/

theorem proximityAccept_eq (hn : n < c.variant.ports) :
    let p := c.port n
    let x := c.setPort n fun p => { p with pp := some p.ppCode }
    proximityAccept n c =
      if c.rd (OPT_CFG_pp_mode n) = 1 ∧ 16 ≤ p.ppRun then
        ((x.setFlag (OPT_STATUS_pp_fault n) (p.ppCode == 0 || p.ppCode == 5)).setCable n (cableRating p.ppCode)).checkDrop n
      else c :=
  ite_of_iff_not (by
    rw [not_and_or, not_le]
    exact or_iff_right (Nat.not_le.2 hn))

theorem lockDebounce_eq (hn : n < c.variant.ports) :
    let p := c.port n
    let x := c.setPort n fun p => { p with lockLevel := some p.lockPin }
    lockDebounce n c =
      if 16 ≤ p.lockRun ∧ p.lockLevel ≠ some p.lockPin then (x.setFlag (OPT_LOCK_locked n) (x.locked n)).checkDrop n else c :=
  ite_of_iff_not (by
    rw [not_and_or, not_le, ne_eq, not_not]
    exact or_iff_right (Nat.not_le.2 hn))

theorem cableTempConvert_of_due (hn : n < c.variant.ports) (hs : c.stride % 8 = 0) (r : Nat) :
    cableTempConvert n r c = (c.convertTemp n r).heldRearm n :=
  if_neg (by omega)

section

variable {r : Nat}

/-- The port notes the Stride of its temperature conversion (R254). -/
def Chip.conversionNoted (c : Chip) (n : Nat) : Chip := c.setPort n fun p => { p with converted := some c.stride }

theorem convertTemp_of_no_sensor (h : (c.conversionNoted n).rd (OPT_CFG_temp_type n) = 0 ∨ (c.conversionNoted n).rd (OPT_CFG_temp_type n) = 3) :
    c.convertTemp n r =
      ((((c.conversionNoted n).setPort n fun p => { p with hot := 0, good := 8 }).put (OPT_TEMP_t n) 0).setFlag
        (OPT_STATUS_temp_fault n) false).notePorts :=
  if_pos h

theorem convertTemp_of_sensor (h : (c.conversionNoted n).rd (OPT_CFG_temp_type n) = 1 ∨ (c.conversionNoted n).rd (OPT_CFG_temp_type n) = 2) :
    c.convertTemp n r =
      match sensorTemperature ((c.conversionNoted n).rd (OPT_CFG_temp_type n)) r with
      | none =>
        let bad := (c.conversionNoted n).setPort n fun p => { p with hot := 0, good := 0 }
        ((if bad.flag (OPT_STATUS_temp_fault n) then bad else bad.raiseEv (optPage n) 4).setFlag (OPT_STATUS_temp_fault n) true).checkDrop n
      | some t =>
        let y := ((c.conversionNoted n).setPort n fun p =>
          { p with
            hot := if decide ((c.conversionNoted n).rdS (OPT_TEMP_LIM_trip n) ≤ t) then min 8 (p.hot + 1) else 0
            good := min 8 (p.good + 1) }).putS (OPT_TEMP_t n) t
        (if 8 ≤ (y.port n).good then y.setFlag (OPT_STATUS_temp_fault n) false else y).checkDrop n :=
  have hs : ¬ ((c.conversionNoted n).rd (OPT_CFG_temp_type n) = 0 ∨ (c.conversionNoted n).rd (OPT_CFG_temp_type n) = 3) := by omega
  if_neg hs

theorem convertTemp_of_bad_reading (h : (c.conversionNoted n).rd (OPT_CFG_temp_type n) = 1 ∨ (c.conversionNoted n).rd (OPT_CFG_temp_type n) = 2)
    (ht : sensorTemperature ((c.conversionNoted n).rd (OPT_CFG_temp_type n)) r = none) :
    let bad := (c.conversionNoted n).setPort n fun p => { p with hot := 0, good := 0 }
    c.convertTemp n r =
      ((if bad.flag (OPT_STATUS_temp_fault n) then bad else bad.raiseEv (optPage n) 4).setFlag (OPT_STATUS_temp_fault n) true).checkDrop n := by
  rw [convertTemp_of_sensor h, ht]

theorem convertTemp_of_reading (h : (c.conversionNoted n).rd (OPT_CFG_temp_type n) = 1 ∨ (c.conversionNoted n).rd (OPT_CFG_temp_type n) = 2)
    {t : Int} (ht : sensorTemperature ((c.conversionNoted n).rd (OPT_CFG_temp_type n)) r = some t) :
    let y := ((c.conversionNoted n).setPort n fun p =>
      { p with
        hot := if (c.conversionNoted n).rdS (OPT_TEMP_LIM_trip n) ≤ t then min 8 (p.hot + 1) else 0
        good := min 8 (p.good + 1) }).putS (OPT_TEMP_t n) t
    c.convertTemp n r = (if 8 ≤ (y.port n).good then y.setFlag (OPT_STATUS_temp_fault n) false else y).checkDrop n := by
  rw [convertTemp_of_sensor h, ht]
  simp only [decide_eq_true_eq]

end

/-! ### Frames -/

theorem portFrameReceive_eq (c : Chip) (n : Nat) (bytes att : List Nat) (cyc : Nat) :
    let y := (c.advanceTo cyc).slacSound n att
    let size := ringSize (y.rd (OPT_RING_SIZE_rx n))
    let h := y.rd (OPT_RX_HEAD_idx n) % size
    let d := y.rd (OPT_RX_BASE_addr n) + 16 * h
    let z := (y.setBytes (Memory.le y.mem d 4) bytes).setBytes (d + 4)
      (leBytes 4 (bytes.length + 0x10000) ++ leBytes 4 (clockNs y.tim.clock) ++ leBytes 4 (clockSec y.tim.clock % 2 ^ 16))
    portFrameReceive n bytes att cyc c =
      if c.variant.ports ≤ n ∨ c.portPhy n = false ∨ 1522 < bytes.length then c
      else if (h + 1) % size = y.rd (OPT_RX_TAIL_idx n) % size then (y.incSat (OPT_RX_DROP_count n)).raiseEv (optPage n) 9
      else (z.put (OPT_RX_HEAD_idx n) ((h + 1) % size)).setRaw (optPage n) 6 true :=
  if_congr (by rw [Bool.not_eq_true]) rfl rfl

theorem portFrameSent_eq (c : Chip) (n : Nat) (bad : Bool) (cyc : Nat) :
    let x := c.advanceTo cyc
    let stamp := leBytes 4 (clockNs x.tim.clock) ++ leBytes 4 (clockSec x.tim.clock % 2 ^ 16)
    let size := ringSize (c.rd (OPT_RING_SIZE_tx n))
    let h := c.rd (OPT_TX_HEAD_idx n) % size
    let d := x.rd (OPT_TX_BASE_addr n) + 16 * h
    let w := Memory.le x.mem (d + 4) 4 % 0x10000 + 0x10000 + 0x20000 * bad.toNat
    portFrameSent n bad cyc c =
      if c.variant.ports ≤ n ∨ c.mayTransmit n = false ∨ h = c.rd (OPT_TX_TAIL_idx n) % size then c
      else ((x.setBytes (d + 4) (leBytes 4 w ++ stamp)).put (OPT_TX_HEAD_idx n) ((h + 1) % size)).raiseEv (optPage n) 7 := by
  intro x stamp size h d w
  simp only [stamp, ← List.append_assoc]
  exact if_congr (by rw [Bool.not_eq_true]) rfl rfl

theorem portPhyLinkChange_eq (c : Chip) (n : Nat) (up : Bool) :
    portPhyLinkChange n up c =
      if c.variant.ports ≤ n ∨ c.portPhy n = false ∨ c.flag (OPT_STATUS_link_up n) = up then c
      else (c.setFlag (OPT_STATUS_link_up n) up).raiseEv (optPage n) 8 :=
  if_congr (by rw [Bool.not_eq_true]) rfl rfl

end

/-- Settles O37: each command and frame by its guard. -/
theorem portCommands : Obligations.PortCommands := by
  refine ⟨fun s acc n v => ?_, fun s acc n v cyc bytes att bad up => ?_⟩
  · intro c p state
    refine ⟨fun hn => ⟨answers rfl (Chip.writeUnit_of_absent hn _ _ _ _), answers rfl (if_pos (.inl hn)),
        answers rfl (Chip.writeUnit_of_absent hn _ _ _ _), answers rfl (Chip.writeUnit_of_absent hn _ _ _ _),
        answers rfl (if_neg fun h => Nat.not_lt.2 hn h.2.2.2.2), answers rfl (if_pos (.inl hn)), answers rfl (if_pos (.inl hn)),
        answers rfl (if_pos (.inl hn))⟩,
      fun h => answers rfl (pilotStateAccept_of_none h), fun k h => answers rfl (pilotStateAccept_of_due h), fun hn => ?_⟩
    refine ⟨fun h => answers rfl (Chip.writeUnit_of_accepts hn h _), answers rfl (pwmPeriodStart_eq hn),
      fun h => answers rfl ((Chip.writeUnit_of_accepts hn h _).trans (if_neg ?_)),
      fun h => answers rfl (portRearm_of_accepts hn h), answers rfl (portAutoRearm_eq hn), answers rfl (proximityAccept_eq hn),
      fun hs => answers rfl (if_pos (.inr hs)), fun hs => ?_, answers rfl (lockDebounce_eq hn)⟩
    · exact fun h => h.elim (by decide) (Nat.not_le.2 hn)
    · have hc := cableTempConvert_of_due hn hs v
      exact ⟨fun h => answers rfl (hc.trans (congrArg (Chip.heldRearm · n) (convertTemp_of_no_sensor h))),
        fun h ht => answers rfl (hc.trans (congrArg (Chip.heldRearm · n) (convertTemp_of_bad_reading h ht))),
        fun h t ht => answers rfl (hc.trans (congrArg (Chip.heldRearm · n) (convertTemp_of_reading h ht)))⟩
  · exact ⟨answers rfl (portFrameReceive_eq _ n bytes att cyc), fun hn h => answers rfl (Chip.writeUnit_of_accepts hn h _),
      fun hn => answers rfl (Chip.writeUnit_of_absent hn _ _ _ _), answers rfl (portFrameSent_eq _ n bad cyc),
      answers rfl (portPhyLinkChange_eq _ n up)⟩

end Sys2Proof.Machine
end

section
/-! PROOFS. The commands of a CAN controller (R260–R268). -/

namespace Sys2Proof.Machine

section

variable {c : Chip} {n : Nat} (hn : n < Blk.can.count c.variant)
include hn

theorem canBufferWrite_eq {b w : Nat} (acc : Access) (v : Nat) (hb : b < 32) (hw : w < 18) :
    let a := canBuffer n b + 4 * w
    canBufferWrite acc n b w v c =
      if acc.size ≠ 4 ∨ acc.skew ≠ 0 then c.violate acc a 4 true
      else if initiatorPlane acc.by_ ≠ c.rd (ownerFld (canPage n)) then c.violate acc a 0 true
      else if bit (c.rd (CAN_TX_PEND_pend n)) b then c.setFlag (CAN_STATUS_wr_pending n) true
      else c.setBytes a (leBytes 4 v) :=
  if_neg (by omega)

/-- The frame that a controller has on the bus, or would win the bus (R261). -/
def Chip.canGoing (c : Chip) (n : Nat) : Option Nat :=
  if (c.canState n).sending.isSome then (c.canState n).sending else if (c.canState n).contend.isSome then c.canWinner n else none

omit hn in
theorem canFrameSent_of_none (h : c.canGoing n = none) : canFrameSent n c = c := by
  unfold Chip.canGoing at h
  unfold canFrameSent
  dsimp only
  rw [h]

omit hn in
theorem canFrameSent_of_some {b : Nat} (h : c.canGoing n = some b) :
    let x := c.put (CAN_TX_PEND_pend n) (putBit (c.rd (CAN_TX_PEND_pend n)) b false)
    let x := (x.put (CAN_TX_DONE_done n) (x.rd (CAN_TX_DONE_done n) ||| 2 ^ b)).raiseEv (canPage n) 1
    let x := if x.flag (CAN_STOP_CFG_en n) && x.rd (CAN_STOP_CFG_buf n) == b then x.raiseEv (canPage n) 7 else x
    canFrameSent n c =
      (x.setCan n { x.canState n with sending := none, contend := none, idleAt := 0, sent := c.canBytes n b }).canContend n := by
  unfold Chip.canGoing at h
  unfold canFrameSent
  dsimp only
  rw [h]

theorem canFrameReceive_eq (w0 w1 cyc : Nat) (data : List Nat) :
    let x := (c.advanceTo cyc).canYield n (Config.canFrameCycles w0 w1 data (c.rd (CAN_NBT n)) (c.rd (CAN_DBT n)))
    let k := x.rd (CAN_RX_COUNT_count n)
    let entry : Nat → List Nat := fun f => leBytes 4 (w0 % 2 ^ 30) ++ leBytes 4 (w1 % 64 + 256 * f) ++ leBytes 4 (clockNs x.tim.clock) ++
      leBytes 4 (clockSec x.tim.clock % 2 ^ 16) ++ fit 64 data
    canFrameReceive n w0 w1 data cyc c =
      if c.canOnBus n = false then c
      else if x.canTakes n w1 = false then x
      else match x.canMatch n w0 with
        | none => x
        | some f =>
          if 64 ≤ k then (x.incSat (CAN_RX_LOST_count n)).raiseEv (canPage n) 6
          else ((x.setBytes (canSlot n (((x.canState n).head + k) % 64)) (entry f)).put (CAN_RX_COUNT_count n) (k + 1)).setRaw (canPage n) 0
            true := by
  refine if_congr ?_ rfl (if_congr (Bool.not_eq_true _).to_iff rfl rfl)
  rw [Bool.not_eq_true]
  exact or_iff_right (Nat.not_le.2 hn)

theorem canBusOff_eq :
    let x := ((c.put (CAN_STATUS_state n) 2).put (CAN_STATUS_tec n) 255).raiseEv (canPage n) 5
    let off : CanState := { x.canState n with sending := none, contend := none }
    canBusOff n c = if c.canOnBus n then (x.setCan n off).setFault 5 0x2400 n else c :=
  ite_of_iff_not (or_iff_right (Nat.not_le.2 hn))

theorem canBusOffRecovery_eq :
    canBusOffRecovery n c =
      if c.rd (CAN_STATUS_state n) = 2 ∧ c.flag (CAN_CTRL_auto_recover n) = true then
        ((((c.put (CAN_STATUS_state n) 0).put (CAN_STATUS_tec n) 0).put (CAN_STATUS_rec n) 0).clearFault 5 0x2400 n).canContend n
      else c :=
  ite_of_iff_not (by
    rw [not_and_or, or_iff_left (Nat.not_le.2 hn)])

theorem canErrorPassive_eq (tec rec_ : Nat) :
    let passive := 128 ≤ tec ∨ 128 ≤ rec_
    let x := (c.put (CAN_STATUS_tec n) (satN 8 tec)).put (CAN_STATUS_rec n) (satN 8 rec_)
    let x := x.put (CAN_STATUS_state n) (if passive then 1 else 0)
    canErrorPassive n tec rec_ c =
      if c.canOnBus n = false then c else if passive ∧ c.rd (CAN_STATUS_state n) = 0 then x.raiseEv (canPage n) 4 else x := by
  refine if_congr ?_ rfl rfl
  rw [Bool.not_eq_true]
  exact or_iff_right (Nat.not_le.2 hn)

end

/-- Settles O39: each command by its guard. -/
theorem canCommands : Obligations.CanCommands := by
  intro s acc n v hn c r
  exact ⟨fun h => answers rfl (Chip.writeUnit_of_accepts hn h _), fun h => answers rfl (Chip.writeUnit_of_accepts hn h _),
    fun b w hb hw => answers rfl (canBufferWrite_eq hn acc v hb hw),
    ⟨fun h => answers rfl (canFrameSent_of_none h), fun b h => answers rfl (canFrameSent_of_some h)⟩,
    fun w0 w1 cyc data => answers rfl (canFrameReceive_eq hn w0 w1 cyc data), fun h => answers rfl (Chip.writeUnit_of_accepts hn h _),
    answers rfl (canBusOff_eq hn), answers rfl (canBusOffRecovery_eq hn), fun tec rec_ => answers rfl (canErrorPassive_eq hn tec rec_)⟩

end Sys2Proof.Machine
end

section
/-! PROOFS. The load channels: protection, pins, banks, diagnosis, mode and routing (R271–R286). -/

namespace Sys2Proof.Machine

/-- Guards by an order: the branches change places. -/
theorem ite_le_eq_ite_lt {α : Type} (a b : Nat) (x y : α) : (if a ≤ b then x else y) = if b < a then y else x :=
  ite_of_iff_not not_lt.symm

section

variable {c : Chip} {n : Nat}

/-! ### Protection -/

/-- The block after an overcurrent trip of channel n (R276). -/
def Chip.tripped (c : Chip) (n : Nat) : Chip :=
  let t := ((c.setFlag (LSW_STATUS_oc_fault n) true).setFlag (LSW_STATUS_oc_wait n) true).incSat (LSW_OC_CNT_trips n)
  let t := t.setChannel n fun x =>
    { x with waitLeft := x.retryStrides, delayDone := false, thermInWait := false, tripped := true, clean := 0 }
  (((t.raiseEv (lswPage n) 0).setOutput n false).noteChannel n).settleChannel n

theorem trip_eq (hn : n < c.variant.channels) : c.trip n = if c.flag (LSW_STATUS_on n) = true then c.tripped n else c :=
  ite_of_iff_not (or_iff_right (Nat.not_le.2 hn))

theorem trip_of_absent (hn : c.variant.channels ≤ n) : c.trip n = c := if_pos (.inl hn)

theorem ite_trip_eq {p : Prop} [Decidable p] (hn : n < c.variant.channels) :
    (if p then c.trip n else c) = if c.flag (LSW_STATUS_on n) = true ∧ p then c.tripped n else c := by
  rw [trip_eq hn, ← ite_and]
  exact if_congr and_comm rfl rfl

theorem ite_trip_of_absent {p : Prop} [Decidable p] (hn : c.variant.channels ≤ n) : (if p then c.trip n else c) = c := by
  rw [trip_of_absent hn, ite_self]

theorem thermalLatchSet_eq (hn : n < c.variant.channels) :
    let t := (c.setFlag (LSW_STATUS_therm n) true).incSat (LSW_OC_CNT_therm n)
    let t := t.setChannel n fun x => { x with thermInWait := x.thermInWait || c.flag (LSW_STATUS_oc_wait n), clean := 0 }
    thermalLatchSet n c =
      if c.flag (LSW_STATUS_therm n) then c else ((t.raiseEv (lswPage n) 1).noteChannel n).settleChannel n :=
  if_congr (or_iff_right (Nat.not_le.2 hn)) rfl rfl

theorem thermalLatchRelease_eq (hn : n < c.variant.channels) :
    let t := c.setFlag (LSW_STATUS_therm n) false
    let t := if t.flag (LSW_STATUS_oc_wait n) && (t.channel n).thermInWait then
        t.setChannel n fun x => { x with waitLeft := x.retryStrides, delayDone := false, thermInWait := false }
      else t
    thermalLatchRelease n c = if c.flag (LSW_STATUS_therm n) then (t.noteChannel n).settleChannel n else c :=
  ite_of_iff_not (or_iff_right (Nat.not_le.2 hn))

theorem retryDelayExpire_eq (hn : n < c.variant.channels) :
    retryDelayExpire n c =
      if c.flag (LSW_STATUS_oc_wait n) = true ∧ (c.channel n).waitLeft = 0 ∧ (c.channel n).thermInWait = false then
        (c.setChannel n fun x => { x with delayDone := true }).settleChannel n
      else c :=
  ite_of_iff_not (by
    rw [not_and_or, not_and_or, Bool.not_eq_false]
    exact or_iff_right (Nat.not_le.2 hn))

theorem retryReload_eq (hn : n < c.variant.channels) :
    retryReload n c =
      if (c.channel n).clean < 8000 then c
      else (c.put (LSW_STATUS_remaining n) ((c.channel n).retry % 16)).setChannel n fun x => { x with clean := 0 } :=
  if_congr (or_iff_right (Nat.not_le.2 hn)) rfl rfl

/-! ### Banks and diagnosis -/

theorem bankOverload_eq (c : Chip) (b : Nat) :
    let hot := ((c.setFlag (LSW_BANK_over b) true).raiseEv lsgPage 4).setFault 5 0x3012 b
    let all := ((c.setFlag LSW_GSTATUS_module_over true).raiseEv lsgPage 4).setFault 5 0x3007 0
    bankOverload b c =
      if Sparse.get (fun _ => 0) c.load.overRun b < 800 then c
      else if b = 8 then all.shed (List.range c.variant.channels)
      else if b < c.variant.flocks then hot.shed (c.bankChannels b) else c := by
  intro hot all
  rw [← ite_le_eq_ite_lt c.variant.flocks b]
  rfl

theorem openLoadOn_eq (hn : n < c.variant.channels) :
    openLoadOn n c =
      if (c.channel n).openRun < max 1 ((c.channel n).ol / 256 % 256) * 8 then c
      else ((c.setFlag (LSW_STATUS_open_on n) true).raiseEv (lswPage n) 4).noteChannel n :=
  if_congr (or_iff_right (Nat.not_le.2 hn)) rfl rfl

theorem diagComplete_eq (hn : n < c.variant.channels) :
    diagComplete n c =
      if (c.channel n).diag ≠ 17 then c
      else if (c.channel n).high1 then ((c.setFlag (LSW_STATUS_stb n) true).endDiag n 3).noteChannel n
      else if (c.channel n).high2 then ((c.setFlag (LSW_STATUS_open_off n) true).endDiag n 2).noteChannel n
      else (((c.setFlag (LSW_STATUS_open_off n) false).setFlag (LSW_STATUS_stb n) false).endDiag n 1).noteChannel n :=
  if_congr (or_iff_right (Nat.not_le.2 hn)) rfl rfl

end

/-- Settles O40: each command by its guard. -/
theorem loadChannels : Obligations.LoadChannels := by
  refine ⟨fun s acc n ma => ?_, fun s acc n v level => ?_⟩
  · intro c x trip
    refine ⟨fun hn => ⟨answers rfl (ite_trip_of_absent hn), answers rfl (ite_trip_of_absent hn), answers rfl (if_pos (.inl hn)),
        answers rfl (if_pos (.inl hn)), answers rfl (Chip.writeUnit_of_absent hn _ _ _ _), answers rfl (if_pos (.inl hn)),
        answers rfl (if_pos (.inl hn)), answers rfl (Chip.writeUnit_of_absent hn _ _ _ _)⟩, fun hn => ?_⟩
    exact ⟨answers rfl (ite_trip_eq hn), answers rfl (ite_trip_eq hn), answers rfl (thermalLatchSet_eq hn),
      answers rfl (thermalLatchRelease_eq hn), fun h => answers rfl (Chip.writeUnit_of_accepts hn h _),
      answers rfl (retryDelayExpire_eq hn), answers rfl (retryReload_eq hn), fun h => answers rfl (Chip.writeUnit_of_accepts hn h _)⟩
  · intro c x uv
    refine ⟨fun k => answers rfl (ite_le_eq_ite_lt _ _ _ _),
      fun b => ⟨answers rfl (ite_le_eq_ite_lt _ _ _ _), answers rfl (ite_le_eq_ite_lt _ _ _ _), answers rfl (ite_le_eq_ite_lt _ _ _ _),
        answers rfl (bankOverload_eq _ b)⟩,
      fun hn => ⟨answers rfl (if_pos (.inl hn)), answers rfl (Chip.writeUnit_of_absent hn _ _ _ _), answers rfl (if_pos (.inl hn)),
        answers rfl (Chip.writeUnit_of_absent hn _ _ _ _)⟩,
      fun hn => ⟨answers rfl (openLoadOn_eq hn), fun h => answers rfl (Chip.writeUnit_of_accepts hn h _), answers rfl (diagComplete_eq hn),
        fun h => answers rfl (Chip.writeUnit_of_accepts hn h _)⟩,
      fun h => answers rfl (Chip.write_of_accepts h _)⟩

end Sys2Proof.Machine
end

section
/-! PROOFS. Bridle mode, takes and the bridle map (R19, R287–R293). -/

namespace Sys2Proof.Machine

section

variable {c : Chip}

theorem switchLinkLoss_eq (c : Chip) (d : Nat) :
    switchLinkLoss d c =
      if d < 2 ∧ c.dieFitted d = true ∧ 2 ≤ Sparse.get (fun _ => 0) c.load.linkBad d then
        ((c.raiseEv lsgPage 6).setFault 5 (0x3005 + d) 0).enterBridle d 3
      else c :=
  ite_of_iff_not (by rw [not_and_or, not_and_or, not_lt, not_le])

section

variable {acc : Access} {v : Nat}

theorem take_of_accepts (h : c.Accepts acc LSW_TAKE.addr v) :
    take acc v c =
      if v % 2 = 0 ∨ c.load.bridle = 0 then c
      else match c.takeRefusal with
        | some r => c.refuseTake r
        | none => c.setLoad fun l => { l with take := true } :=
  Chip.write_of_accepts h _

theorem take_of_asked (h : c.Accepts acc LSW_TAKE.addr v) (hv : v % 2 = 1) (hb : c.load.bridle ≠ 0) :
    take acc v c =
      match c.takeRefusal with
      | some r => c.refuseTake r
      | none => c.setLoad fun l => { l with take := true } :=
  (take_of_accepts h).trans (if_neg (by omega))

theorem take_of_refused {r : Nat} (h : c.Accepts acc LSW_TAKE.addr v) (hv : v % 2 = 1) (hb : c.load.bridle ≠ 0)
    (hr : c.takeRefusal = some r) : take acc v c = c.refuseTake r := by
  rw [take_of_asked h hv hb, hr]

theorem take_of_allowed (h : c.Accepts acc LSW_TAKE.addr v) (hv : v % 2 = 1) (hb : c.load.bridle ≠ 0) (hr : c.takeRefusal = none) :
    take acc v c = c.setLoad fun l => { l with take := true } := by
  rw [take_of_asked h hv hb, hr]

end

theorem takeApply_of_refused {r : Nat} (h : c.load.take = true) (hr : c.takeRefusal = some r) : takeApply c = c.refuseTake r := by
  unfold takeApply
  rw [if_neg (not_not.2 h), hr]

theorem takeApply_of_allowed (h : c.load.take = true) (hr : c.takeRefusal = none) :
    let x := c.setLoad fun l => { l with take := false, bridle := 0 }
    let x := forN x.variant.channels (fun n d => ((d.setFlag (LSW_STATUS_bridle n) false).frameCopy n).settleChannel n) x
    let x := (x.put LSW_TAKE_DIFF_LO_diff (x.rd LSW_BSTATE_LO_on ^^^ c.rd LSW_BSTATE_LO_on)).put LSW_TAKE_DIFF_HI_diff
      (x.rd LSW_BSTATE_HI_on ^^^ c.rd LSW_BSTATE_HI_on)
    let x := ((x.put LSW_BRIDLE_CAUSE 0).put LSW_TAKE_ST_state 1).put LSW_TAKE_ST_reason 0
    takeApply c = (x.raiseEv lsgPage 1).showBridle := by
  unfold takeApply
  rw [if_neg (not_not.2 h), hr]

theorem bridleMapCommit_of_accepts {acc : Access} {v : Nat} (h : c.Accepts acc LSW_BMAP_CMD.addr v) :
    let bytes := (c.mapBytes LSW_BMAP_STG_entries).mapIdx fun n b => if n < c.variant.channels then b else 0
    bridleMapCommit acc v c =
      if v % 2 = 0 ∨ c.rd LSW_BMAP_ST_state = 1 then c
      else if c.sealOpen 2 = false then c.refuseCommit 4
      else if c.load.bridle ≠ 0 ∧ c.flag LSW_GSTATUS_map_fault = false then c.refuseCommit 1
      else if bytes.any (fun b => b % 4 == 3) then c.refuseCommit 2
      else if bytes.any (fun b => bit b 5 && b % 4 != 0) then c.refuseCommit 3
      else ((c.put LSW_BMAP_ST_state 1).put LSW_BMAP_ST_error 0).setLoad fun l => { l with commit := some bytes } := by
  intro bytes
  refine (Chip.write_of_accepts h _).trans ?_
  simp only [← Bool.not_eq_true]
  rfl

theorem bridleMapCommitDone_of_none (ok0 ok1 : Bool) (h : c.load.commit = none) : bridleMapCommitDone ok0 ok1 c = c := by
  unfold bridleMapCommitDone; rw [h]

theorem bridleMapCommitDone_of_some (ok0 ok1 : Bool) {bytes : List Nat} (h : c.load.commit = some bytes) :
    let ok : Nat → Bool := fun d => if d = 0 then ok0 else ok1
    let x := forN 16 (fun k d =>
      if ok (k / 8) then d.put (LSW_BMAP_ACT_entries k) (ofLe ((bytes.drop (4 * k)).take 4)) else d) c
    let x := x.setLoad fun l =>
      { l with commit := none, mapFault := putBit (putBit l.mapFault 0 (bit l.mapFault 0 && !ok0)) 1 (bit l.mapFault 1 && !ok1) }
    let x := (x.incSat LSW_BMAP_WR_count).put LSW_BMAP_CRC_crc (crc32 (x.mapBytes LSW_BMAP_ACT_entries))
    let good := (((x.put LSW_BMAP_ST_state 2).put LSW_BMAP_ST_error 0).setFlag LSW_GSTATUS_map_fault false).clearFault 5 0x3003 0
    bridleMapCommitDone ok0 ok1 c = (if ok0 && ok1 then good.raiseEv lsgPage 3 else x.refuseCommit 5).checkCoilMap := by
  unfold bridleMapCommitDone; rw [h]

theorem switchDiePowerUp_eq (c : Chip) (d : Nat) (mapOk : Bool) :
    let x := c.setLoad fun l => { l with bridle := putBit l.bridle d false }
    let x := (x.dieChannels d).foldl (fun (y : Chip) n =>
      let y := ((y.setChannel n fun _ => {}).setOutput n false).put (LSW_STATUS n) 0
      let y := y.put (LSW_STATUS_remaining n) ((y.channel n).retry % 16)
      y.put (LSW_BUCKET_level n) (y.channel n).budget) x
    let off := forN 8 (fun k y => y.put (LSW_BMAP_ACT_entries (8 * d + k)) 0) x
    let x := if mapOk then x
      else ((off.setFlag LSW_GSTATUS_map_fault true).setFault 5 0x3003 0).setLoad fun l => { l with mapFault := putBit l.mapFault d true }
    let shown : Chip := { x with faults := x.faults.filter (fun f : ActiveFault => f.code / 32 != 0x188) ++ x.loadFaults }
    switchDiePowerUp d mapOk c = if 2 ≤ d ∨ c.dieFitted d = false then c else shown.enterBridle d 2 :=
  if_congr (by rw [Bool.not_eq_true]) rfl rfl

end

/-- Settles O42: each command by its guard. -/
theorem bridleCommands : Obligations.BridleCommands := by
  intro s acc v c
  exact ⟨answers rfl rfl, fun k level => answers rfl (ite_le_eq_ite_lt _ _ _ _), fun d => answers rfl (switchLinkLoss_eq _ d),
    fun h => ⟨fun hi => answers rfl ((take_of_accepts h).trans (if_pos hi)), fun hv hb =>
      ⟨fun r hr => answers rfl (take_of_refused h hv hb hr), fun hr => answers rfl (take_of_allowed h hv hb hr)⟩⟩,
    fun h => answers rfl (if_pos (Bool.eq_false_iff.1 h)),
    fun h => ⟨fun r hr => answers rfl (takeApply_of_refused h hr), fun hr => answers rfl (takeApply_of_allowed h hr)⟩,
    fun h => answers rfl (bridleMapCommit_of_accepts h), fun ok0 ok1 h => answers rfl (bridleMapCommitDone_of_none ok0 ok1 h),
    fun ok0 ok1 bytes h => answers rfl (bridleMapCommitDone_of_some ok0 ok1 h), fun d mapOk => answers rfl (switchDiePowerUp_eq _ d mapOk)⟩

end Sys2Proof.Machine
end

section
/-! PROOFS. Cut outputs, residual current, its test and weld checks (R302–R314). -/

namespace Sys2Proof.Machine

/-! ### Cut outputs -/

theorem darkTest_eq (a fell : Bool) (f : Nat) (c : Chip) :
    let o := if a then 8 + f else f
    let x := c.setSaf fun s => { s with dark := Sparse.set (fun _ => 0) s.dark o 2 }
    darkTest a f fell c =
      if f < c.variant.flocks ∧ c.cutCommand o = false ∧ (a = true ∨ c.stride % 8000 = 0) then
        if fell then x else (x.faultFlocks (2 ^ (o % 8)) causeOutput 3 (unitStuckOn o)).settleSafety
      else c :=
  ite_of_iff_not (by rw [not_and_or, not_and_or, not_or, not_lt, Bool.not_eq_false])

/-! ### Residual current -/

section

variable {c : Chip} {n : Nat}

theorem rcmSensorFault_eq (c : Chip) (n : Nat) (bad : Bool) :
    let mask := 2 ^ c.flockOf n
    let set := ((c.setFlag (RCM_STATUS_sensor_fault n) true).raiseEv (rcmPage n) 1).faultFlocks mask causeRcm 2 (unitSensor n)
    let clear := (c.setFlag (RCM_STATUS_sensor_fault n) (c.rd (RCM_STATUS_test n) == 3)).clearCause mask (unitSensor n) true
    rcmSensorFault n bad c =
      if n < c.variant.ports ∧ c.rcmType n ≠ 0 ∧ bad = (c.residual n).astray then (if bad then set else clear).settleSafety else c := by
  have hg : (c.variant.ports ≤ n ∨ c.rcmType n = 0 ∨ bad ≠ (c.residual n).astray) ↔
      ¬ (n < c.variant.ports ∧ c.rcmType n ≠ 0 ∧ bad = (c.residual n).astray) := by
    rw [not_and_or, not_and_or, not_lt, ne_eq, not_not]
  cases bad with
  | true => exact ite_of_iff_not hg
  | false => exact ite_of_iff_not hg

/-- The port supervises the band (R309). -/
def Chip.hasBand (c : Chip) (n band : Nat) : Prop := n < c.variant.ports ∧ bit (bandsOf (c.rcmType n)) band = true

theorem rcmBandTrip_of_absent {band : Nat} (a : Bool) (h : ¬ c.hasBand n band) : rcmBandTrip a n band c = c :=
  if_pos (by rwa [← not_lt, ← not_and_or])

theorem rcmBandTrip_of_band {band : Nat} (a : Bool) (h : c.hasBand n band) :
    rcmBandTrip a n band c =
      if a then
        if (c.residual n).holdsA.getD band 0 < 8 * holdA band ∨ bit (c.residual n).tripA band then c
        else
          let x := c.setResidual n fun r => { r with tripA := putBit r.tripA band true, latchedA := true }
          if ¬ x.fold.running then (x.latchCause (x.flockOf n) ⟨causeRcm, 2, unitRcmA n, true⟩).crookActs
          else ((x.logTrip n band true).demandFlocks (2 ^ x.flockOf n) causeRcm 2 (unitRcmA n)).settleSafety
      else if (c.residual n).holds.getD band 0 ≤ 8 * holdB band ∨ c.flag ((RCM_STATUS_trip n).bitOf band) then c
      else
        let y := ((c.setFlag ((RCM_STATUS_trip n).bitOf band) true).incSat (RCM_TRIPS_count n)).raiseEv (rcmPage n) 0
        ((y.logTrip n band false).demandFlocks (2 ^ y.flockOf n) causeRcm 2 (unitRcmB n)).settleSafety :=
  if_neg (by rw [← not_lt, ← not_and_or]; exact not_not.2 h)

theorem rcmBandTrip_a_eq (c : Chip) (n band : Nat) :
    let x := c.setResidual n fun r => { r with tripA := putBit r.tripA band true, latchedA := true }
    rcmBandTrip true n band c =
      if (n < c.variant.ports ∧ bit (bandsOf (c.rcmType n)) band = true) ∧ 8 * holdA band ≤ (c.residual n).holdsA.getD band 0 ∧
          bit (c.residual n).tripA band = false then
        if c.fold.running then ((x.logTrip n band true).demandFlocks (2 ^ x.flockOf n) causeRcm 2 (unitRcmA n)).settleSafety
        else (x.latchCause (x.flockOf n) ⟨causeRcm, 2, unitRcmA n, true⟩).crookActs
      else c := by
  intro x
  by_cases hb : c.hasBand n band
  · refine (rcmBandTrip_of_band true hb).trans ((if_pos rfl).trans ?_)
    refine (ite_of_iff_not ?_).trans (if_congr Iff.rfl (ite_not _ _ _) rfl)
    rw [and_iff_right (show n < c.variant.ports ∧ bit (bandsOf (c.rcmType n)) band = true from hb), not_and_or, not_le, Bool.not_eq_false]
  · exact (rcmBandTrip_of_absent true hb).trans (if_neg fun h => hb h.1).symm

theorem rcmBandTrip_b_eq (c : Chip) (n band : Nat) :
    let y := ((c.setFlag ((RCM_STATUS_trip n).bitOf band) true).incSat (RCM_TRIPS_count n)).raiseEv (rcmPage n) 0
    rcmBandTrip false n band c =
      if (n < c.variant.ports ∧ bit (bandsOf (c.rcmType n)) band = true) ∧ 8 * holdB band < (c.residual n).holds.getD band 0 ∧
          c.flag ((RCM_STATUS_trip n).bitOf band) = false then
        ((y.logTrip n band false).demandFlocks (2 ^ y.flockOf n) causeRcm 2 (unitRcmB n)).settleSafety
      else c := by
  intro y
  by_cases hb : c.hasBand n band
  · refine (rcmBandTrip_of_band false hb).trans ((if_neg Bool.false_ne_true).trans (ite_of_iff_not ?_))
    rw [and_iff_right (show n < c.variant.ports ∧ bit (bandsOf (c.rcmType n)) band = true from hb), not_and_or, not_lt, Bool.not_eq_false]
  · exact (rcmBandTrip_of_absent false hb).trans (if_neg fun h => hb h.1).symm

theorem rcmBandDisagree_eq (c : Chip) (n band : Nat) :
    rcmBandDisagree n band c =
      if n < c.variant.ports ∧ c.saf.crookBad = 0 ∧ c.disagrees n band = true then
        ((c.setFlag (CRK_DISAGREE_ports.bitOf n) true).faultFlocks (2 ^ c.flockOf n) causeFault 1 (unitBands n)).settleSafety
      else c :=
  ite_of_iff_not (by rw [not_and_or, not_and_or, not_lt])

theorem rcmTest_of_accepts {acc : Access} {v : Nat} (hn : n < c.variant.ports) (h : c.Accepts acc (RCM_TEST n).addr v) :
    rcmTest acc n v c =
      if v % 2 = 1 ∧ c.flag (OPT_STATUS_safe_ok n) = false ∧ (c.residual n).test = 0 then
        c.setResidual n fun r => { r with test := 321, testSeen := 0 }
      else c := by
  refine (Chip.writeUnit_of_accepts hn h _).trans (ite_of_iff_not ?_)
  rw [not_and_or, not_and_or, Bool.not_eq_false, Nat.mod_two_not_eq_one]

theorem rcmTestDone_eq (c : Chip) (n : Nat) :
    let r := c.residual n
    let mask := 2 ^ c.flockOf n
    let x := (c.setResidual n fun r => { r with test := 0, testSeen := 0, passed := r.testSeen == 3 }).raiseEv (rcmPage n) 2
    let x := x.put (RCM_STATUS_test n) (if r.testSeen = 3 then 1 else if r.testSeen = 0 then 3 else 2)
    let y :=
      if r.testSeen = 3 then (x.clearCause mask (unitTest n) true).clearCause mask (unitSilent n) true
      else if r.testSeen = 0 then
        ((x.clearCause mask (unitTest n) true).raiseEv (rcmPage n) 1).faultFlocks mask causeRcm 2 (unitSilent n)
      else (x.faultFlocks mask causeFault 1 (unitTest n)).clearCause mask (unitSilent n) true
    let faulty := y.causePresent (c.flockOf n) (unitSensor n) || y.causePresent (c.flockOf n) (unitSilent n)
    rcmTestDone n c = if r.test = 1 then (y.setFlag (RCM_STATUS_sensor_fault n) faulty).settleSafety else c := by
  intro r mask x x y faulty
  unfold rcmTestDone
  by_cases ht : r.test = 1
  · rw [if_neg (not_not.2 ht), if_pos ht]
    by_cases h3 : r.testSeen = 3
    · simp only [faulty, y, x, r, mask, if_pos h3]
      rfl
    · by_cases h0 : r.testSeen = 0
      · simp only [faulty, y, x, r, mask, if_neg h3, if_pos h0]
        rfl
      · simp only [faulty, y, x, r, mask, if_neg h3, if_neg h0]
        rfl
  · rw [if_pos ht, if_neg ht]

/-! ### Weld checks -/

theorem weldCheckTimeout_of_none (h : c.saf.welds.find? (fun w => w.port == n) = none) : weldCheckTimeout n c = c := by
  unfold weldCheckTimeout; rw [h]

theorem weldCheckTimeout_of_some {w : Weld} (h : c.saf.welds.find? (fun w => w.port == n) = some w) :
    let mask := 2 ^ c.flockOf n
    let coil := !w.coilOff && !w.coilFailed && decide (160 ≤ w.age)
    let weld := !w.low && !w.weldFailed && decide (c.spb 14 2 * 8 ≤ w.age)
    let x := if coil then c.faultFlocks mask causeWeld 3 (unitCoil n) else c
    let x := if weld then x.faultFlocks mask causeWeld 3 (unitWeld n) else x
    let x := x.setSaf fun s =>
      { s with
        welds := s.welds.map fun y =>
          if y.port = n then { y with coilFailed := y.coilFailed || coil, weldFailed := y.weldFailed || weld } else y }
    weldCheckTimeout n c = if coil || weld then x.settleSafety else x := by
  unfold weldCheckTimeout; rw [h]

end

/-- Settles O43: each command by its guard. -/
theorem cutsAndResidualCurrent : Obligations.CutsAndResidualCurrent := by
  intro s acc f n band v a bad fell c r mask o
  exact ⟨answers rfl (darkTest_eq a fell f _), answers rfl rfl, answers rfl (rcmSensorFault_eq _ n bad),
    ⟨answers rfl (rcmBandTrip_a_eq _ n band), answers rfl (rcmBandTrip_b_eq _ n band)⟩, answers rfl (rcmBandDisagree_eq _ n band),
    fun hn => answers rfl (Chip.writeUnit_of_absent hn _ _ _ _), fun hn h => answers rfl (rcmTest_of_accepts hn h),
    answers rfl (rcmTestDone_eq _ n), fun h => answers rfl (weldCheckTimeout_of_none h),
    fun w h => answers rfl (weldCheckTimeout_of_some h)⟩

end Sys2Proof.Machine
end

section
/-! PROOFS. The emergency stops, the power demand and SAF_CMD (R315–R318, R327). -/

namespace Sys2Proof.Machine

/-! ### Emergency stops and power -/

/-- The levels of the two contacts of an e-stop. -/
def Estop.levels (e : Estop) : Bool × Bool := (e.closedA, e.closedB)

/-- A change of a contact sets its level; what follows from it changes no level (R316). -/
theorem contact_levels (e : Estop) (b closed : Bool) :
    (e.contact b closed).levels = if b then (e.closedA, closed) else (closed, e.closedB) := by
  unfold Estop.contact
  extract_lets e1 e2 e3 e4
  have h1 : e1.levels = if b then (e.closedA, closed) else (closed, e.closedB) := apply_ite Estop.levels _ _ _
  have h2 : e2.levels = e1.levels := ite_keeps Estop.levels (fun _ => rfl) (fun _ => rfl)
  have h3 : e3.levels = e2.levels := ite_keeps Estop.levels (fun _ => rfl) (fun _ => rfl)
  have h4 : e4.levels = e3.levels := ite_keeps Estop.levels (fun _ => rfl) (fun _ => rfl)
  refine Eq.trans (b := e4.levels) (ite_keeps Estop.levels (fun _ => rfl) (fun _ => rfl)) ?_
  exact h4.trans (h3.trans (h2.trans h1))

theorem contact_opened (e : Estop) (b : Bool) : (e.contact b false).closedA = false ∨ (e.contact b false).closedB = false := by
  have h := contact_levels e b false
  cases b with
  | true => exact .inr (congrArg Prod.snd h)
  | false => exact .inl (congrArg Prod.fst h)

theorem estopTestPulse_eq (k : Nat) (b stayed : Bool) (c : Chip) :
    let flocks := c.spbByte (672 + 4 * k)
    let x := c.setEstop k fun e => { e with short := putBit e.short b.toNat stayed }
    estopTestPulse k b stayed c =
      if 4 ≤ k then c
      else if (x.estop k).short = 0 then (x.clearCause flocks (unitShort k) true).settleSafety
      else if x.fold.running then ((x.actuate k).faultFlocks flocks causeEstop 3 (unitShort k)).settleSafety
      else (x.actuate k).crookActs := by
  intro flocks x
  rw [← ite_not (p := x.fold.running = true)]
  rfl

theorem estopDiscrepancy_eq (k : Nat) (c : Chip) :
    estopDiscrepancy k c =
      if k < 4 ∧ 400 < (c.estop k).differ then (c.setEstop k fun e => { e with discrepancy := true }).settleSafety else c :=
  ite_of_iff_not (by rw [not_and_or, not_lt, not_lt])

theorem flockPowerExceed_eq (f : Nat) (c : Chip) :
    flockPowerExceed f c =
      if f < c.variant.flocks ∧ (c.flockState f = 0 ∧ 16000 < (c.flock f).exceed ∨ c.flockState f = 1 ∧ 8000 < (c.flock f).exceed) then
        (c.demandFlocks (2 ^ f) causePower 2 unitPower).settleSafety
      else c :=
  ite_of_iff_not (by rw [not_and_or, not_lt])

/-! ### SAF_CMD -/

/-- The block after a SAF_CMD that leaves a block and gives a reason, 0 for none (R327, R340). -/
def Chip.safAnswer (word : Nat) (r : Chip × Nat) : Chip := (r.1.commandResult word r.2).settleSafety

/-- What becomes of a choice, from what becomes of its sides. -/
theorem map_ite_of_eq {α β : Type} {g : α → β} {p : Prop} [Decidable p] {x y : α} {u v : β} (hx : g x = u) (hy : g y = v) :
    g (if p then x else y) = if p then u else v := by
  rw [apply_ite g, hx, hy]

theorem safCmd_of_accepts {c : Chip} {acc : Access} {word : Nat} (h : c.Accepts acc SAF_CMD.addr word) (f : Chip → Chip × Nat) :
    c.safCmd acc word f = Chip.safAnswer word (f c) :=
  Chip.write_of_accepts h _

theorem safCmdInvalid_of_accepts {c : Chip} {acc : Access} {op : Nat} (ho : op / 4096 % 8 = 0 ∨ 4 < op / 4096 % 8)
    (h : c.Accepts acc SAF_CMD.addr (op % 2 ^ 15)) : safCmdInvalid acc op c = Chip.safAnswer (op % 2 ^ 15) (c, 6) :=
  (if_neg (by omega)).trans (safCmd_of_accepts h _)

/-- Settles O44: the e-stops by their guards, each SAF_CMD by the first matching row of its op. -/
theorem estopsAndSafetyCommands : Obligations.EstopsAndSafetyCommands := by
  intro s acc k f mask op b closed stayed c flocks answer
  refine ⟨answers rfl (ite_le_eq_ite_lt _ _ _ _), contact_opened _ b, fun h => if_neg (Bool.eq_false_iff.1 h),
    answers rfl (estopTestPulse_eq k b stayed _), answers rfl (estopDiscrepancy_eq k _), answers rfl (flockPowerExceed_eq f _),
    fun h => ?_, fun h => answers rfl (safCmd_of_accepts h _), fun h => ?_, fun h => ?_,
    fun ho h => answers rfl (safCmdInvalid_of_accepts ho h)⟩
  · refine (answers rfl (safCmd_of_accepts h _) : exec (.flockRelease acc mask) s = _).trans (congrArg _ ?_)
    let g : Chip × Nat → State := fun r => s.after (Chip.safAnswer (mask % 4096 + 0x1000) r)
    exact map_ite_of_eq (g := g) rfl (map_ite_of_eq (g := g) rfl (map_ite_of_eq (g := g) rfl (map_ite_of_eq (g := g) rfl rfl)))
  · refine (answers rfl (safCmd_of_accepts h _) : exec (.lockoutRelease acc mask) s = _).trans (congrArg _ ?_)
    let g : Chip × Nat → State := fun r => s.after (Chip.safAnswer (mask % 4096 + 0x3000) r)
    exact map_ite_of_eq (g := g) rfl (map_ite_of_eq (g := g) rfl rfl)
  · refine (answers rfl (safCmd_of_accepts h _) : exec (.estopReset acc mask) s = _).trans (congrArg _ ?_)
    let g : Chip × Nat → State := fun r => s.after (Chip.safAnswer (mask % 4096 + 0x4000) r)
    exact map_ite_of_eq (g := g) rfl (map_ite_of_eq (g := g) rfl rfl)

end Sys2Proof.Machine
end

section
/-! PROOFS. Safety frames, peers, the network and Degraded operation (R319–R329). -/

namespace Sys2Proof.Machine

/-! ### Windows, heartbeats and peers -/

theorem safetyFrameSend_of_accepts {c : Chip} {acc : Access} {v cyc : Nat} (h : (c.advanceTo cyc).Accepts acc SAF_TX_CMD.addr v) :
    let d := c.advanceTo cyc
    safetyFrameSend acc v cyc c =
      if v % 2 = 1 ∧ d.flag SAF_CTRL_net_en = true then
        d.sendSafety (d.rd SAF_TX_BUF_word % 256) (d.rd SAF_TX_DEST_addr) (d.rd SAF_TX_BUF_word / 256 % 256)
      else d :=
  (Chip.write_of_accepts h _).trans (ite_of_iff_not (by rw [not_and_or, Nat.mod_two_not_eq_one]))

theorem heartbeatSend_eq (cyc : Nat) (c : Chip) :
    let mask := (List.range c.variant.flocks).foldl (fun x f => if 2 ≤ c.flockState f then x + 2 ^ f else x) 0
    heartbeatSend cyc c =
      if c.flag SAF_CTRL_net_en = true ∧ c.spb 26 2 * 8 ≤ c.saf.heartbeat then
        ((c.advanceTo cyc).sendSafety 1 0xFFFFFFFF mask).setSaf fun s => { s with heartbeat := 0 }
      else c :=
  ite_of_iff_not (by rw [not_and_or, not_le])

/-- A choice by which of two things hold. -/
theorem ite_both_or_one {α : Type} (p q : Bool) (x y z z' : α) (hz : p = false → q = false → z = z') :
    (if p = true ∧ q = true then x else if p = true ∨ q = true then y else z) =
      if (p && q) = true then x else if (p || q) = true then y else z' := by
  refine ite_congr (Bool.and_eq_true p q).symm (fun _ => rfl) fun _ =>
    ite_congr (Bool.or_eq_true p q).symm (fun _ => rfl) fun hnone => ?_
  obtain ⟨hp, hq⟩ := not_or.1 (mt (Bool.or_eq_true p q).mpr hnone)
  exact hz (Bool.eq_false_iff.2 hp) (Bool.eq_false_iff.2 hq)

theorem peerTimeout_eq (i : Nat) (c : Chip) :
    let x := if c.peerSilent i 0 then c.setFlag (SAF_PEER_OK_heard.bitOf i) false else c
    let x := if c.peerSilent i 1 then x.setFlag (SAF_PEER_OK_heard.bitOf (16 + i)) false else x
    peerTimeout i c =
      if i < 16 ∧ c.spb (816 + 12 * i) 4 ≠ 0 ∧ c.flag SAF_CTRL_net_en = true then
        if c.peerSilent i 0 && c.peerSilent i 1 then
          (x.demandFlocks (x.spbByte (820 + 12 * i)) causePeer 2 (unitPeer i)).settleSafety
        else if c.peerSilent i 0 || c.peerSilent i 1 then x.beginSingle
        else c
      else c := by
  intro x₀ x
  refine (ite_of_iff_not (by rw [not_and_or, not_and_or, not_lt, not_not])).trans (if_congr Iff.rfl ?_ rfl)
  refine ite_both_or_one _ _ _ _ x c fun h0 h1 => ?_
  have hx : x = x₀ := if_neg (Bool.eq_false_iff.1 h1)
  exact hx.trans (if_neg (Bool.eq_false_iff.1 h0))

theorem singleNetworkEnd_eq (c : Chip) :
    singleNetworkEnd c =
      if c.flag SAF_STATUS_net_single = true ∧ c.saf.singleLeft = 0 then
        ((c.showSingle false).demandFlocks c.allFlocks causeSingle 2 unitSingleEnd).settleSafety
      else c :=
  ite_of_iff_not (by rw [not_and_or])

theorem networkRecovery_eq (c : Chip) :
    networkRecovery c =
      if c.mayRecoverNetwork = false then c
      else if c.saf.running.isSome then c.setSaf fun s => { s with waiting := putBit s.waiting 8 true }
      else c.recoverNetwork.settleSafety :=
  if_congr (by rw [Bool.not_eq_true]) rfl rfl

/-! ### Degraded operation and recoveries -/

theorem degradedSupervisionStart_eq (f : Nat) (c : Chip) :
    degradedSupervisionStart f c =
      if (f < c.variant.flocks ∧ c.flockState f = 1) ∧ 40000 ≤ c.degradedFor f ∧ (c.flock f).halved = false then
        c.setFlock f fun k => { k with halved := true, exceed := 0 }
      else c :=
  ite_of_iff_not (by rw [and_assoc, not_and_or, not_and_or, not_and_or, not_lt, not_le, Bool.not_eq_false])

theorem degradedWarning_eq (f : Nat) (c : Chip) :
    degradedWarning f c =
      if (f < c.variant.flocks ∧ c.flockState f = 1) ∧ c.flag (SAF_FLOCK_ST_warn f) = false ∧ c.degradedTime - 480000 ≤ c.degradedFor f then
        (c.setFlag (SAF_FLOCK_ST_warn f) true).raiseEv safPage 2
      else c :=
  ite_of_iff_not (by rw [and_assoc, not_and_or, not_and_or, not_and_or, not_lt, not_le, Bool.not_eq_false])

theorem degradedDeadline_eq (f : Nat) (c : Chip) :
    let recovering : Bool := match c.saf.running with
      | some r => r.before.any fun b => b.1 == f && b.2.1 == 1
      | none => false
    let x := if recovering then c.abandonRecovery else c
    degradedDeadline f c =
      if f < c.variant.flocks ∧ (c.flock f).degraded ≠ 0 ∧ c.degradedTime ≤ c.degradedFor f ∧ (c.flockState f = 1 ∨ recovering = true) then
        (x.setFlockState f 2 causeFault 2).settleSafety
      else c :=
  ite_of_iff_not (by rw [not_and_or, not_and_or, not_and_or, not_lt, not_le, not_not] <;> exact Iff.rfl)

theorem degradedRecovery_eq (f : Nat) (c : Chip) :
    degradedRecovery f c =
      if c.variant.flocks ≤ f ∨ c.mayRecover f = false then c
      else if c.saf.running.isSome then c.setSaf fun s => { s with waiting := putBit s.waiting f true }
      else (c.recoverFlocks [f]).settleSafety :=
  if_congr (by rw [Bool.not_eq_true]) rfl rfl

theorem recoveryFinish_of_none {c : Chip} (h : c.saf.running = none) : recoveryFinish c = c := by
  unfold recoveryFinish
  rw [h]

theorem recoveryFinish_of_some {c : Chip} {r : Recovery} (h : c.saf.running = some r) :
    let x := (c.setSaf fun s => { s with running := none }).setFlag SAF_STATUS_recov_busy false
    let x := r.before.foldl (fun (y : Chip) (b : Nat × Nat × List Cause) =>
      if y.flockState b.1 = 1 then y else y.setFlock b.1 fun k => { k with degraded := 0 }) x
    recoveryFinish c = if r.age < 8000 then c else x.startWaiting.settleSafety := by
  intro x y
  unfold recoveryFinish
  rw [h]

/-! ### A copy of a safety frame -/

/-- The frame comes from a listed peer and goes to this module or to all (R321). -/
def Chip.isAddressed (c : Chip) (bs : List Nat) : Prop :=
  (frameLe bs 8 4 = c.spb 4 4 ∨ frameLe bs 8 4 = 0xFFFFFFFF) ∧ (c.peerOf (frameLe bs 4 4)).isSome = true

theorem Chip.not_isAddressed_iff {c : Chip} {bs : List Nat} :
    ¬ c.isAddressed bs ↔ (frameLe bs 8 4 ≠ c.spb 4 4 ∧ frameLe bs 8 4 ≠ 0xFFFFFFFF) ∨ (c.peerOf (frameLe bs 4 4)).isNone = true := by
  unfold Chip.isAddressed
  rw [not_and_or, not_or, Option.not_isSome_iff_eq_none, Option.isNone_iff_eq_none]

/-- The frame was sent longer ago than it may be old, by a clock that is valid (R321). -/
def Chip.isLate (c : Chip) (bs : List Nat) : Prop :=
  c.timeValid = true ∧
    frameLe bs 16 6 * 1000000000 + frameLe bs 22 4 + c.spb 22 2 * 1000000 < clockSec c.tim.clock * 1000000000 + clockNs c.tim.clock

section

variable {c : Chip} {net : Nat} {bs : List Nat}

theorem Chip.safetyCopy_of_ignored (h : c.flag SAF_CTRL_net_en = false ∨ 2 ≤ net ∨ bs.length ≠ 48) : c.safetyCopy net bs = c :=
  if_pos (by rwa [Bool.not_eq_true])

variable (hen : c.flag SAF_CTRL_net_en = true) (hnet : net < 2) (hlen : bs.length = 48)
include hen hnet hlen

theorem Chip.safetyCopy_eq :
    c.safetyCopy net bs =
      if frameLe bs 44 4 ≠ crc32c (leBytes 4 (c.spb 8 4) ++ bs.take 44) then c.incSat (SAF_RX_CNT_count 3)
      else if (frameLe bs 8 4 ≠ c.spb 4 4 ∧ frameLe bs 8 4 ≠ 0xFFFFFFFF) ∨ (c.peerOf (frameLe bs 4 4)).isNone then c
      else if c.timeValid ∧ frameLe bs 16 6 * 1000000000 + frameLe bs 22 4 + c.spb 22 2 * 1000000 <
          clockSec c.tim.clock * 1000000000 + clockNs c.tim.clock then c.incSat (SAF_RX_CNT_count 4)
      else (c.acceptCopy bs net).settleSafety :=
  if_neg (not_or.2 ⟨not_not.2 hen, not_or.2 ⟨Nat.not_le.2 hnet, not_not.2 hlen⟩⟩)

theorem Chip.safetyCopy_of_corrupt (h : ¬ frameLe bs 44 4 = crc32c (leBytes 4 (c.spb 8 4) ++ bs.take 44)) :
    c.safetyCopy net bs = c.incSat (SAF_RX_CNT_count 3) :=
  (Chip.safetyCopy_eq hen hnet hlen).trans (if_pos h)

variable (hcrc : frameLe bs 44 4 = crc32c (leBytes 4 (c.spb 8 4) ++ bs.take 44))
include hcrc

theorem Chip.safetyCopy_of_foreign (h : ¬ c.isAddressed bs) : c.safetyCopy net bs = c :=
  (Chip.safetyCopy_eq hen hnet hlen).trans ((if_neg (not_not.2 hcrc)).trans (if_pos (Chip.not_isAddressed_iff.1 h)))

theorem Chip.safetyCopy_of_late (h : c.isAddressed bs) (hl : c.isLate bs) : c.safetyCopy net bs = c.incSat (SAF_RX_CNT_count 4) :=
  (Chip.safetyCopy_eq hen hnet hlen).trans ((if_neg (not_not.2 hcrc)).trans
    ((if_neg (mt Chip.not_isAddressed_iff.2 (not_not.2 h))).trans (if_pos hl)))

theorem Chip.safetyCopy_of_timely (h : c.isAddressed bs) (hl : ¬ c.isLate bs) :
    c.safetyCopy net bs = (c.acceptCopy bs net).settleSafety :=
  (Chip.safetyCopy_eq hen hnet hlen).trans ((if_neg (not_not.2 hcrc)).trans
    ((if_neg (mt Chip.not_isAddressed_iff.2 (not_not.2 h))).trans (if_neg hl)))

end

/-! ### An accepted copy -/

/-- The window holds the other copy of the frame: its source and its sequence are the frame's (R321). -/
def SafetyWindow.holds (bs : List Nat) (w : SafetyWindow) : Bool :=
  w.source == frameLe bs 4 4 && frameLe w.bytes 12 4 == frameLe bs 12 4

/-- The sequence above the last one of the frame's source that was acted on. -/
def Chip.nextSequence (c : Chip) (bs : List Nat) : Nat := Sparse.get (fun _ => 0) c.saf.sequences (frameLe bs 4 4)

section

variable {c : Chip} {bs : List Nat} {net : Nat}

theorem Chip.acceptCopy_of_old (h : frameLe bs 12 4 < (c.hearPeer bs net).nextSequence bs) :
    c.acceptCopy bs net = (c.hearPeer bs net).incSat (SAF_RX_CNT_count 5) :=
  if_pos h

variable (hnew : (c.hearPeer bs net).nextSequence bs ≤ frameLe bs 12 4)
include hnew

theorem Chip.acceptCopy_of_first (hw : (c.hearPeer bs net).saf.windows.find? (SafetyWindow.holds bs) = none) :
    c.acceptCopy bs net =
      if (c.hearPeer bs net).flag SAF_STATUS_net_single then (c.hearPeer bs net).actFrame bs
      else (c.hearPeer bs net).setSaf fun s => { s with windows := s.windows ++ [⟨frameLe bs 4 4, bs, net, 0⟩] } := by
  refine (if_neg (Nat.not_lt.2 hnew)).trans ?_
  unfold SafetyWindow.holds at hw
  rw [hw]

theorem Chip.acceptCopy_of_second {w : SafetyWindow}
    (hw : (c.hearPeer bs net).saf.windows.find? (SafetyWindow.holds bs) = some w) :
    let taken := (c.hearPeer bs net).setSaf fun s => { s with windows := s.windows.filter fun w => !SafetyWindow.holds bs w }
    let x := (taken.incSat (SAF_RX_CNT_count 2)).beginSingle
    let x := if nth w.bytes 1 = 2 then x.actFrame w.bytes else x
    c.acceptCopy bs net =
      if w.net = net ∧ (c.hearPeer bs net).variant.ports ≥ 24 then (c.hearPeer bs net).incSat (SAF_RX_CNT_count 5)
      else if w.bytes = bs then taken.actFrame bs
      else if nth bs 1 = 2 then x.actFrame bs else x := by
  refine (if_neg (Nat.not_lt.2 hnew)).trans ?_
  unfold SafetyWindow.holds at hw
  rw [hw]
  rfl

end

/-- Settles O45: each command by its guard, a copy by the first matching row of R321. -/
theorem safetyNetworkAndDegraded : Obligations.SafetyNetworkAndDegraded := by
  refine ⟨fun s acc f i v cyc => ?_, fun s net cyc bytes => ?_⟩
  · intro c d
    exact ⟨answers rfl (if_congr List.isEmpty_iff rfl rfl), fun h => answers rfl (safetyFrameSend_of_accepts h),
      answers rfl (heartbeatSend_eq cyc c), answers rfl (peerTimeout_eq i c), answers rfl (singleNetworkEnd_eq c),
      answers rfl (networkRecovery_eq c), ⟨answers rfl (degradedSupervisionStart_eq f c), answers rfl (degradedWarning_eq f c)⟩,
      answers rfl (degradedDeadline_eq f c), answers rfl (degradedRecovery_eq f c), answers rfl (if_congr List.isEmpty_iff rfl rfl),
      fun h => answers rfl (recoveryFinish_of_none h), fun r h => answers rfl (recoveryFinish_of_some h)⟩
  · intro d src seq last good mine late answer same h twin taken
    have received : ∀ x, d.safetyCopy net bytes = x → answer x := fun x hx =>
      answers (f := fun c => (c.advanceTo cyc).safetyCopy net bytes) rfl hx
    refine ⟨fun hi => received _ (Chip.safetyCopy_of_ignored hi), fun hen hnet hlen => ⟨fun hg => ?_, fun hg hm => ?_,
      fun hg hm hl => ?_, fun hg hm hl => ?_⟩, fun _ _ => rfl⟩
    · exact received _ (Chip.safetyCopy_of_corrupt hen hnet hlen hg)
    · exact received _ (Chip.safetyCopy_of_foreign hen hnet hlen hg hm)
    · exact received _ (Chip.safetyCopy_of_late hen hnet hlen hg hm hl)
    · have taken_up : ∀ x, d.acceptCopy bytes net = x → answer x.settleSafety := fun x hx =>
        received _ ((Chip.safetyCopy_of_timely hen hnet hlen hg hm hl).trans (congrArg Chip.settleSafety hx))
      have apart : ∀ {w : SafetyWindow}, w.net ≠ net ∨ h.variant.ports < 24 → ¬ (w.net = net ∧ h.variant.ports ≥ 24) :=
        fun hw hx => hw.elim (fun hn => hn hx.1) fun hp => Nat.not_le.2 hp hx.2
      refine ⟨fun ho => taken_up _ (Chip.acceptCopy_of_old ho), fun hn ht hs => taken_up _ ?_, fun hn ht hs => taken_up _ ?_,
        fun w hn ht => ⟨fun hw => taken_up _ ?_, fun hw he => taken_up _ ?_, fun hw he => taken_up _ ?_⟩⟩
      · exact (Chip.acceptCopy_of_first hn ht).trans (if_neg (Bool.eq_false_iff.1 hs))
      · exact (Chip.acceptCopy_of_first hn ht).trans (if_pos hs)
      · exact (Chip.acceptCopy_of_second hn ht).trans (if_pos hw)
      · exact (Chip.acceptCopy_of_second hn ht).trans ((if_neg (apart hw)).trans (if_pos he))
      · exact (Chip.acceptCopy_of_second hn ht).trans ((if_neg (apart hw)).trans (if_neg he))

end Sys2Proof.Machine
end

section
/-! PROOFS. Straps, the site parameter block, releases and the worked seal words (R331–R337, R341, R344). -/

namespace Sys2Proof.Machine

section

variable {c : Chip} {acc : Access} {v : Nat}

/-! ### The block's data port -/

/-- The page's owner moves the data port on (R341). -/
def Chip.stepBlock (c : Chip) (acc : Access) (x : Chip) : Chip :=
  if initiatorPlane acc.by_ = c.rd (ownerFld safPage) then x.advanceBlock else x

theorem locate_blockData (w : Variant) : locate w SAF_SPB_DATA.addr = some (.saf, 0) := by
  cases w <;> decide

theorem Chip.spbData_writeViolation (h : acc.size ≠ 4 ∨ acc.skew ≠ 0) : c.writeViolation acc SAF_SPB_DATA.addr v = some 4 := by
  unfold Chip.writeViolation
  rw [if_neg (by decide), locate_blockData]
  exact if_pos h

theorem Chip.spbData_readViolation (h : acc.size ≠ 4 ∨ acc.skew ≠ 0) : c.readViolation acc SAF_SPB_DATA.addr = some 4 := by
  unfold Chip.readViolation
  rw [locate_blockData]
  exact if_pos h

theorem spbDataAccess_write_stored (h : c.Accepts acc SAF_SPB_DATA.addr v) (hb : c.flag SAF_SPB_ADDR_bank = true) :
    spbDataAccess acc true v c = c.stepBlock acc c := by
  have hk : ¬ (¬ c.flag SAF_SPB_ADDR_bank = true ∧ ¬ c.sealOpen 2 = true ∧
      Sparse.get (fun _ => (0 : Word)) c.saf.staged (c.rd SAF_SPB_ADDR_word) ≠ BitVec.ofNat 32 v) := fun hx => hx.1 hb
  unfold spbDataAccess
  simp only [h.clean, if_true, if_neg hk, if_pos hb]
  exact if_congr beq_iff_eq rfl rfl

theorem spbDataAccess_write_staged (h : c.Accepts acc SAF_SPB_DATA.addr v) (hb : c.flag SAF_SPB_ADDR_bank = false) :
    let k := c.rd SAF_SPB_ADDR_word
    spbDataAccess acc true v c = c.stepBlock acc
      (if c.sealOpen 2 = true ∨ Sparse.get (fun _ => (0 : Word)) c.saf.staged k = BitVec.ofNat 32 v then
        c.setSaf fun s => { s with staged := Sparse.set (fun _ => (0 : Word)) s.staged k (BitVec.ofNat 32 v) }
      else c.violate acc SAF_SPB_DATA.addr 1 true) := by
  intro k
  unfold spbDataAccess
  by_cases hs : c.sealOpen 2 = true ∨ Sparse.get (fun _ => (0 : Word)) c.saf.staged k = BitVec.ofNat 32 v
  · have hk : ¬ (¬ c.flag SAF_SPB_ADDR_bank = true ∧ ¬ c.sealOpen 2 = true ∧
        Sparse.get (fun _ => (0 : Word)) c.saf.staged (c.rd SAF_SPB_ADDR_word) ≠ BitVec.ofNat 32 v) := fun hx =>
      hs.elim hx.2.1 hx.2.2
    simp only [h.clean, if_true, if_neg hk, if_pos hs, if_neg (Bool.eq_false_iff.1 hb)]
    exact if_congr beq_iff_eq rfl rfl
  · have hk : ¬ c.flag SAF_SPB_ADDR_bank = true ∧ ¬ c.sealOpen 2 = true ∧
        Sparse.get (fun _ => (0 : Word)) c.saf.staged (c.rd SAF_SPB_ADDR_word) ≠ BitVec.ofNat 32 v :=
      ⟨Bool.eq_false_iff.1 hb, not_or.1 hs⟩
    simp only [h.clean, if_true, if_pos hk, if_neg hs]
    exact if_congr beq_iff_eq rfl rfl

theorem spbDataAccess_write_unaligned (h : acc.size ≠ 4 ∨ acc.skew ≠ 0) :
    spbDataAccess acc true v c = c.stepBlock acc (c.violate acc SAF_SPB_DATA.addr 4 true) := by
  unfold spbDataAccess
  simp only [Chip.spbData_writeViolation h, if_true]
  exact if_congr beq_iff_eq rfl rfl

theorem spbDataAccess_read (h : c.Readable acc SAF_SPB_DATA.addr) :
    spbDataAccess acc false v c = c.stepBlock acc
      { c with
        rdata := (Sparse.get (fun _ => (0 : Word)) (if c.flag SAF_SPB_ADDR_bank then c.saf.stored else c.saf.staged)
          (c.rd SAF_SPB_ADDR_word)).toNat } := by
  simp only [spbDataAccess, Bool.false_eq_true, if_false, Chip.read_of_readable h,
    apply_ite fun m => Sparse.get (fun _ => (0 : Word)) m (c.rd SAF_SPB_ADDR_word)]
  exact if_congr beq_iff_eq rfl rfl

theorem spbDataAccess_read_unaligned (h : acc.size ≠ 4 ∨ acc.skew ≠ 0) :
    spbDataAccess acc false v c = c.stepBlock acc { c.violate acc SAF_SPB_DATA.addr 4 false with rdata := 0 } := by
  simp only [spbDataAccess, Bool.false_eq_true, if_false, Chip.read_of_violation (Chip.spbData_readViolation h)]
  exact if_congr beq_iff_eq rfl rfl

/-! ### Commit and confirmation -/

theorem spbConfirm_of_accepts (h : c.Accepts acc SAF_SPB_CMD.addr 2) :
    let refusedBlock : Nat → Chip := fun e => (c.put SAF_SPB_ST_state 3).put SAF_SPB_ST_error e
    let x := (c.put SAF_SPB_CONF_crc (c.rd SAF_SPB_CONF_VAL_crc)).put SAF_SPB_CONF_MAP_crc (c.rd SAF_SPB_MAP_VAL_crc)
    let x := (x.put SAF_SPB_ST_state 2).put SAF_SPB_ST_error 0
    let x := x.logSafety 6 5 0 1 2 3 0 (leBytes 4 (c.rd SAF_SPB_CONF_VAL_crc) ++ leBytes 4 (c.rd SAF_SPB_MAP_VAL_crc))
    spbConfirm acc c =
      if c.sealOpen 2 = false then refusedBlock 4
      else if c.rd SAF_SPB_CONF_VAL_crc = c.rd SAF_SPB_CRC_A_crc ∧ c.rd SAF_SPB_MAP_VAL_crc = c.rd LSW_BMAP_CRC_crc then
        ((x.raiseEv safPage 6).showConfirmed).settleSafety
      else refusedBlock 0 :=
  (Chip.write_of_accepts h _).trans (if_congr (by rw [Bool.not_eq_true]) rfl (ite_of_iff_not (by rw [not_and_or])))

/-! ### Releases and links -/

theorem safeOkRelease_eq (n : Nat) (c : Chip) :
    safeOkRelease n c =
      if n < c.variant.ports ∧ c.flag (OPT_STATUS_safe_ok n) = false ∧ c.isOff = false ∧ c.okHolds n 0 = true then
        (c.setSafeOk n true).settlePort n
      else c :=
  ite_of_iff_not (by
    rw [not_and_or, not_and_or, not_and_or, not_lt, Bool.not_eq_false, Bool.not_eq_false, or_comm (a := c.isOff = true)])

theorem startupRelease_eq (f : Nat) (c : Chip) :
    let x := c.setFlock f fun k => { k with causes := k.causes.filter fun j => j.bit != causeStart }
    let state := (x.flock f).causes.foldl (fun y k => max y k.state) 0
    startupRelease f c =
      if f < c.variant.flocks ∧ c.mayStart f = true ∧ (c.flock f).causes.any (fun k => k.bit == causeStart) = true then
        (if x.flockState f = 3 ∧ state < 3 then x else x.setFlockState f state causeStart 2).settleSafety
      else c :=
  ite_of_iff_not (by rw [not_and_or, not_and_or, not_lt])

theorem safetyRxPop_of_accepts (h : c.Accepts acc safRxPop.addr v) :
    safetyRxPop acc v c = if v % 2 = 1 then (c.setSaf fun s => { s with rx := s.rx.drop 1 }).showSafetyRx else c :=
  (Chip.write_of_accepts h _).trans (ite_of_iff_not (by rw [Nat.mod_two_not_eq_one]))

theorem pairedCrookLossCut_eq (c : Chip) :
    pairedCrookLossCut c =
      if c.saf.crookPaired = true ∧ 160 ≤ c.saf.crookBad then (c.setSaf fun s => { s with cutA := c.allFlocks }).settleSafety else c :=
  ite_of_iff_not (by rw [not_and_or, not_le])

end

/-! ### Seal words -/

/-- An AC port has RCM (R333). -/
theorem portWordValid_of_no_rcm {w : Nat} (hc : w / 128 % 8 ≤ 1) (hr : w / 16 % 4 = 0) : portWordValid w = false := by
  simp [portWordValid, hc, hr]

/-- A DC port has IMD (R333). -/
theorem portWordValid_of_no_imd {w : Nat} (hc : w / 128 % 8 = 2) (hi : w.testBit 6 = false) : portWordValid w = false := by
  simp [portWordValid, hc, bit, hi]

/-- Settles O46: the data port by its checks, the commands by their guards, the worked words by evaluation. -/
theorem strapsBlockAndRelease : Obligations.StrapsBlockAndRelease := by
  refine ⟨fun s acc n f v words crook => ?_, by decide, by decide, by decide, by decide, by decide, by decide, by decide, by decide,
    by decide, by decide, by decide, fun _ => portWordValid_of_no_rcm, fun _ => portWordValid_of_no_imd⟩
  intro c k refusedBlock
  refine ⟨rfl, rfl, ⟨fun h => ⟨fun hb => answers rfl (spbDataAccess_write_stored h hb), fun hb => answers rfl (spbDataAccess_write_staged h hb)⟩,
    fun h => answers rfl (spbDataAccess_read h), fun h => ⟨answers rfl (spbDataAccess_write_unaligned h),
      answers rfl (spbDataAccess_read_unaligned h)⟩⟩, fun h => answers rfl (Chip.write_of_accepts h _),
    fun h => answers rfl (spbConfirm_of_accepts h), rfl, answers rfl (safeOkRelease_eq n c), answers rfl (startupRelease_eq f c),
    fun h => answers rfl (safetyRxPop_of_accepts h), answers rfl (ite_le_eq_ite_lt _ _ _ _).symm, answers rfl (pairedCrookLossCut_eq c),
    fun h => answers rfl ((Chip.write_of_accepts h _).trans (ite_not _ _ _))⟩

end Sys2Proof.Machine
end

section
/-! PROOFS. Roles, their decision, takeover, assume, swap and rejoin (R347, R348, R354, R358, R362–R364). -/

namespace Sys2Proof.Machine

section

variable {c : Chip}

/-! ### The role -/

theorem Chip.roleOf_of_alone (h : c.paired = false) : c.roleOf = 1 := if_pos (Bool.eq_false_iff.1 h)

variable (hp : c.paired = true)
include hp

theorem Chip.roleOf_of_undecided (hd : c.pair.decided = false) : c.roleOf = 0 :=
  (if_neg (not_not.2 hp)).trans (if_pos (.inl (Bool.eq_false_iff.1 hd)))

theorem Chip.roleOf_of_clash (hpos : c.flag HRN_STATUS_pos_clash = true) (hc : c.pair.claims = false) : c.roleOf = 0 :=
  (if_neg (not_not.2 hp)).trans (if_pos (.inr ⟨hpos, Bool.eq_false_iff.1 hc⟩))

theorem Chip.roleOf_of_unclaimed (hd : c.pair.decided = true) (hpos : c.flag HRN_STATUS_pos_clash = false) (hc : c.pair.claims = false) :
    c.roleOf = if c.pair.aligned then 2 else 0 :=
  (if_neg (not_not.2 hp)).trans ((if_neg (not_or.2 ⟨not_not.2 hd, fun h => Bool.eq_false_iff.1 hpos h.1⟩)).trans
    (if_pos (Bool.eq_false_iff.1 hc)))

theorem Chip.roleOf_of_claim (hd : c.pair.decided = true) (hc : c.pair.claims = true) :
    c.roleOf = if c.pair.select = c.flag HRN_STATUS_pos then 1 else 3 :=
  (if_neg (not_not.2 hp)).trans ((if_neg (not_or.2 ⟨not_not.2 hd, fun h => h.2 hc⟩)).trans (if_neg (not_not.2 hc)))

end

/-! ### The decision -/

section

variable {c : Chip} {t : TwinReport}

theorem Chip.unfit_iff :
    c.unfit t = true ↔ t.variant ≠ c.variant.ports ∨ t.sealDiff ≠ 0 ∨ t.onLink = true ∧ t.position = c.flag HRN_STATUS_pos := by
  unfold Chip.unfit
  rw [Bool.or_eq_true, Bool.or_eq_true, Bool.and_eq_true, bne_iff_ne, bne_iff_ne, beq_iff_eq, or_assoc]

theorem roleDecision_of_decided (h : c.pair.decided = true) (t : TwinReport) :
    roleDecision (some t) c =
      if ¬ c.paired ∨ c.rd HRN_STATUS_role ≠ 1 then c
      else if c.unfit t then (c.showTwin t).refuseTwin t
      else c.showTwin t :=
  if_pos h

theorem roleDecision_none_of_decided (h : c.pair.decided = true) : roleDecision none c = c := if_pos h

theorem roleDecision_of_alone (hd : c.pair.decided = false) (hp : c.paired = false) (twin : Option TwinReport) :
    roleDecision twin c = (c.setFlag HRN_CTRL_pair_en false).settleRole :=
  (if_neg (Bool.eq_false_iff.1 hd)).trans (if_pos (Bool.eq_false_iff.1 hp))

section

variable (hd : c.pair.decided = false) (hp : c.paired = true)
include hd hp

theorem roleDecision_none :
    let x := c.setPair fun p => { p with decided := true }
    roleDecision none c = (((x.claimNear).setFlag HRN_STATUS_twin_absent true).pairFault 10 true).settleRole :=
  (if_neg (Bool.eq_false_iff.1 hd)).trans (if_neg (not_not.2 hp))

theorem roleDecision_some (t : TwinReport) :
    let y := (c.setPair fun p => { p with decided := true }).showTwin t
    roleDecision (some t) c =
      if t.variant ≠ y.variant.ports ∨ t.sealDiff ≠ 0 then (y.claimNear.refuseTwin t).settleRole
      else if y.unfit t then (y.refuseTwin t).settleRole
      else if t.isNear ∨ y.flag HRN_STATUS_pos then (y.setPair fun p => { p with joinWanted := true }).settleRole
      else y.claimNear.settleRole :=
  (if_neg (Bool.eq_false_iff.1 hd)).trans (if_neg (not_not.2 hp))

end

end

/-! ### Takeover and swap -/

section

variable {c : Chip}

theorem takeover_of_none (h : c.pair.takeoverAt = none) : takeover c = c := by
  unfold takeover
  rw [h]

theorem takeover_of_some {t : Nat} {unverified : Bool} (h : c.pair.takeoverAt = some (t, unverified)) :
    let x := (c.becomeNear c.nextStride).incSat HRN_COUNTS_takeovers
    let x := if unverified then ((x.setFlag HRN_STATUS_unverified true).pairFault 12 true).flagMeters 0x520C true else x
    let x := x.endJoin
    let x := if x.rd HRN_CMD_ST_state = 1 then x.put HRN_CMD_ST_state 2 else x
    takeover c = if t ≤ c.nextStride ∧ c.inOffRole = true then (x.setFault 6 0x5221 0).raiseEv hrnPage 1 else c := by
  intro x₁ x₂ x₃ x
  unfold takeover
  rw [h]
  exact ite_of_iff_not (by rw [not_and_or, not_le])

theorem swapCmd_of_accepts {acc : Access} (h : c.Accepts acc HRN_CMD.addr 1) :
    swapCmd acc c =
      match c.swapRefusal with
      | some r => c.refusePair r
      | none => ((c.put HRN_CMD_ST_state 1).put HRN_CMD_ST_reason 0).nameSwap :=
  Chip.write_of_accepts h _

theorem swapHandover_eq (c : Chip) :
    let t := c.nextStride
    let old := c.setPair fun p =>
      { p with
        claims := false, swapAt := none, keepUntil := some (t + 8)
        nearPilots := (List.range c.variant.ports).map fun n => c.pilotOutput n
        nearOutputs := c.rd LSW_BSTATE_LO_on + 2 ^ 32 * c.rd LSW_BSTATE_HI_on, nearOk := c.rd SAF_SAFE_OK_ports }
    let old := ((old.put HRN_STATUS_role 2).setFlag STG_STATUS_near false).raiseEv hrnPage 0
    let new := ((c.becomeNear t).incSat HRN_COUNTS_swaps).raiseEv hrnPage 2
    swapHandover c =
      if c.paired = false then c
      else if c.rd HRN_STATUS_role = 1 then (if c.pair.swapAt = some t then old.roleOutputs else c)
      else if c.inOffRole = true ∧ c.flag HRN_STATUS_joined = true ∧ c.flag HRN_STATUS_divergent = false ∧ t % 8 = 0 then
        (if c.pair.resyncAfterSwap then new.beginRebuild else new)
      else c :=
  if_congr (by rw [Bool.not_eq_true]) rfl (if_congr Iff.rfl (ite_not _ _ _)
    (ite_of_iff_not (by rw [not_and_or, not_and_or, not_and_or, Bool.not_eq_false])))

theorem swapComplete_of_none (h : c.pair.keepUntil = none) : swapComplete c = c := by
  unfold swapComplete
  rw [h]

theorem swapComplete_of_some {t : Nat} (h : c.pair.keepUntil = some t) :
    let x := (c.setPair fun p => { p with keepUntil := none }).roleOutputs
    let x := (x.incSat HRN_COUNTS_swaps).raiseEv hrnPage 2
    let x := if x.rd HRN_CMD_ST_state = 1 then x.put HRN_CMD_ST_state 2 else x
    swapComplete c = if c.nextStride < t then c else if x.pair.resyncAfterSwap then x.beginResync else x := by
  intro x₁ x₂ x
  unfold swapComplete
  rw [h]

end

/-- Settles O48: the role by R347's table, the decision by R348's rows, the commands and edges by their guards. -/
theorem rolesTakeoverAndSwap : Obligations.RolesTakeoverAndSwap := by
  refine ⟨⟨fun c => ⟨Chip.roleOf_of_alone, Chip.roleOf_of_undecided, fun hp _ => Chip.roleOf_of_clash hp, Chip.roleOf_of_unclaimed,
    Chip.roleOf_of_claim⟩, fun _ _ => rfl, fun s twin => ?_⟩, fun s acc => ?_⟩
  · intro c refuse unfit
    refine ⟨fun hd t => ⟨answers rfl (roleDecision_none_of_decided hd), fun hn => ?_, fun hp hr => ⟨fun hu => ?_, fun hu => ?_⟩⟩,
      fun hd hp => answers rfl (roleDecision_of_alone hd hp twin), fun hd hp t => ?_⟩
    · exact answers rfl ((roleDecision_of_decided hd t).trans (if_pos (hn.imp Bool.eq_false_iff.1 id)))
    · exact answers rfl ((roleDecision_of_decided hd t).trans ((if_neg (by simp [hp, hr])).trans (if_pos (Chip.unfit_iff.2 hu))))
    · exact answers rfl ((roleDecision_of_decided hd t).trans ((if_neg (by simp [hp, hr])).trans (if_neg (mt Chip.unfit_iff.1 hu))))
    · intro x y claim alone
      refine ⟨answers rfl (roleDecision_none hd hp), fun hv => ?_, fun hv hs => ⟨fun hu => ?_, fun hu => ?_⟩⟩
      · exact answers rfl ((roleDecision_some hd hp t).trans (if_pos hv))
      · exact answers rfl ((roleDecision_some hd hp t).trans ((if_neg (not_or.2 ⟨not_not.2 hv, not_not.2 hs⟩)).trans
          (if_pos (Chip.unfit_iff.2 hu))))
      · refine answers rfl ((roleDecision_some hd hp t).trans ((if_neg (not_or.2 ⟨not_not.2 hv, not_not.2 hs⟩)).trans
          ((if_neg (mt Chip.unfit_iff.1 hu)).trans (apply_ite Chip.settleRole _ _ _).symm)))
  · intro c busy
    exact ⟨fun h => answers rfl (takeover_of_none h), fun t unverified h => answers rfl (takeover_of_some h),
      fun h => answers rfl ((Chip.write_of_accepts h _).trans (ite_not _ _ _)),
      fun h => ⟨fun r hr => answers rfl ((swapCmd_of_accepts h).trans (by rw [hr])),
        fun hr => answers rfl ((swapCmd_of_accepts h).trans (by rw [hr]))⟩,
      fun h => answers rfl (Chip.write_of_accepts h _), answers rfl (swapHandover_eq c), fun h => answers rfl (swapComplete_of_none h),
      fun t h => answers rfl (swapComplete_of_some h)⟩

end Sys2Proof.Machine
end

section
/-! PROOFS. Joins, Stride frames, and the link with its lanes and messages (R352–R361, R365, R367–R369). -/

namespace Sys2Proof.Machine

/-! ### What a fold over units changes -/

theorem forN_succ {α : Type} (n : Nat) (f : Nat → α → α) (x : α) : forN (n + 1) f x = f n (forN n f x) := by
  unfold forN
  rw [List.range_succ, List.foldl_append]
  rfl

/-- A fold whose operation k changes part k alone changes each part once. -/
theorem forN_parts {α β : Type} (g : α → Nat → β) (F : Nat → β → β) {f : Nat → α → α} (hsame : ∀ k x, g (f k x) k = F k (g x k))
    (hother : ∀ k j x, j ≠ k → g (f k x) j = g x j) (n : Nat) (x : α) (m : Nat) :
    g (forN n f x) m = if m < n then F m (g x m) else g x m := by
  induction n with
  | zero => exact (if_neg (Nat.not_lt_zero m)).symm
  | succ n ih =>
    rw [forN_succ]
    by_cases hm : m = n
    · subst hm
      rw [hsame, ih, if_neg (Nat.lt_irrefl m), if_pos (Nat.lt_succ_self m)]
    · rw [hother n m _ hm, ih]
      exact if_congr (by omega) rfl rfl

/-! ### Joins -/

section

variable {c : Chip}

/-- The flags of a join, its counter and its bookkeeping change no role. -/
theorem Chip.rd_role_of_flags (d : Chip) (a b : Bool) :
    ((d.setFlag HRN_STATUS_joining a).setFlag HRN_STATUS_joined b).rd HRN_STATUS_role = d.rd HRN_STATUS_role :=
  (Chip.rd_setFlag_other _ HRN_STATUS_role b (by decide) (.inr (by decide))).trans
    (Chip.rd_setFlag_other _ HRN_STATUS_role a (by decide) (.inr (by decide)))

theorem Chip.isOff_of_flags (d : Chip) (a b : Bool) : ((d.setFlag HRN_STATUS_joining a).setFlag HRN_STATUS_joined b).isOff = d.isOff := by
  unfold Chip.isOff
  rw [Chip.rd_role_of_flags, Chip.flag_setFlag_other _ HRN_CTRL_pair_en b (by decide) (.inl (by decide)),
    Chip.flag_setFlag_other _ HRN_CTRL_pair_en a (by decide) (.inl (by decide))]

theorem join_of_idle {stride : Nat} {delays : List Nat}
    (h : c.paired = false ∨ c.flag HRN_STATUS_link_up = false ∨ c.flag HRN_STATUS_joining = true) : join stride delays c = c :=
  if_pos (by rwa [Bool.not_eq_true, Bool.not_eq_true])

theorem Chip.rd_setPair (d : Chip) (g : Pair → Pair) (f : Fld) : (d.setPair g).rd f = d.rd f := rfl

theorem join_unless_unwanted (stride : Nat) (delays : List Nat) (c : Chip) :
    (if c.isOff ∧ ¬ c.pair.joinWanted then c else join stride delays c) =
      if c.isOff = true ∧ c.pair.joinWanted = false then c else join stride delays c :=
  if_congr (by rw [Bool.not_eq_true]) rfl rfl

/-- The block whose join has begun (R359). -/
def Chip.startJoin (c : Chip) : Chip :=
  (((c.setFlag HRN_STATUS_joining true).setFlag HRN_STATUS_joined false).put HRN_COPY_kib 0).setPair fun p =>
    { p with joinStep := 1, joinWanted := false }

theorem Chip.startJoin_role (c : Chip) : c.startJoin.rd HRN_STATUS_role = c.rd HRN_STATUS_role := by
  unfold Chip.startJoin
  rw [Chip.rd_setPair, Chip.rd_put_other HRN_COPY_kib HRN_STATUS_role 0 (by decide) (.inl (by decide)), Chip.rd_role_of_flags]

theorem join_of_start (stride : Nat) (delays : List Nat) (hp : c.paired = true) (hl : c.flag HRN_STATUS_link_up = true)
    (hj : c.flag HRN_STATUS_joining = false) :
    let x := c.startJoin
    let y := forN 2 (fun l d =>
      match delays[l]? with
      | some ps => (d.put (HRN_LANE_DELAY_ps l) ps).setFlag (HRN_LANE_ST_aligned l) true
      | none => d) x
    let y := (((y.setFlag HRN_STATUS_detached false).loadNext stride).setPair fun p => { p with aligned := true }).settleRole
    join stride delays c =
      if c.rd HRN_STATUS_role = 1 then x
      else forN y.variant.elements (fun n d => if d.flag (SFE_ECTRL_en n) then d.settleElement n else d) y := by
  intro x y₁ y
  refine (if_neg (by simp [hp, hl, hj])).trans ?_
  exact if_congr (by rw [← Chip.startJoin_role c]; rfl) rfl rfl

/-! ### The store copy -/

theorem storeCopyDone_of_load (near : TwinImage) (hs : c.pair.joinStep = 2) (hl : c.pair.loadDue = true) :
    storeCopyDone near c = (c.loadActive near).setPair fun p => { p with loadDue := false } :=
  if_pos ⟨hs, hl⟩

theorem storeCopyDone_of_other {near : TwinImage} (hs : c.pair.joinStep ≠ 1) (hl : ¬ (c.pair.joinStep = 2 ∧ c.pair.loadDue = true)) :
    storeCopyDone near c = c :=
  (if_neg hl).trans (if_pos hs)

theorem storeCopyDone_of_copy (near : TwinImage) (hs : c.pair.joinStep = 1) :
    let x := c.put HRN_COPY_kib 64448
    let y := near.store.foldl (fun (c : Chip) b => if 0x10000 ≤ b.1 ∧ b.1 < 0x3F00000 then c.store b.1 [b.2] else c) x
    let y := { y with led := { near.led with everSaved := y.led.everSaved, asserted := y.led.asserted, pfwAge := y.led.pfwAge } }
    let y := (near.words.filter fun w => joinWords.contains w.1).foldl (fun (c : Chip) w => c.setWord w.1 w.2) y
    let y := y.setTrf fun t =>
      { t with
        active := near.trf.active, passive := near.trf.passive, activateAt := near.trf.activateAt, reached := near.trf.reached }
    storeCopyDone near c = (if x.isOff then (forN 5 (fun n c => c.showLog n) y).loadActive near else x).beginRebuild := by
  intro x y₁ y₂ y₃ y
  refine (if_neg (by omega)).trans ((if_neg (not_not.2 hs)).trans ?_)
  exact congrArg Chip.beginRebuild (ite_not _ _ _)

/-! ### Step 3 -/

theorem Chip.beginRebuild_eq (c : Chip) :
    let d := c.setPair fun p => { p with joinStep := 2, joinAt := none, mark := none, loadDue := false, resyncAfterSwap := false }
    let d := (d.setFlag HRN_STATUS_joining true).setFlag HRN_STATUS_joined false
    c.beginRebuild = if c.isOff then d else d.agreeOn c.joinStride := by
  intro d₁ d
  have hoff : d.isOff = c.isOff := Chip.isOff_of_flags d₁ true false
  rw [← hoff]
  rfl

theorem Chip.hearJoin_of_new {j : Nat} (hs : c.pair.joinStep = 2) (hj : c.pair.joinAt ≠ some j) : c.hearJoin (some j) = c.agreeOn j :=
  (if_pos hs).trans (if_neg hj)

theorem Chip.hearJoin_of_joined {j : Nat} (hs : c.pair.joinStep = 0) (hj : c.flag HRN_STATUS_joined = true) :
    c.hearJoin (some j) = c.beginResync.agreeOn j :=
  (if_neg (by omega)).trans (if_pos ⟨hs, hj⟩)

theorem joinMarkCapture_eq (c : Chip) :
    joinMarkCapture c =
      if c.pair.joinStep = 2 ∧ c.pair.joinAt = some (c.stride + 16) then c.setPair fun p => { p with mark := some c.markOf } else c :=
  ite_of_iff_not (by rw [not_and_or])

end

/-! ### The edge of J -/

/-- The counters and the selector of an element at the edge of J, and its words that a mark holds (R360). -/
def Chip.joinElement (mark near frame : TwinImage) (n : Nat) (c : Chip) : Chip :=
  let e (m : Sparse Element) : Element := Sparse.get (fun _ => {}) m n
  let c := c.modElem n fun own => own.joined (e mark.elements) (e near.elements) (e frame.elements)
  let w (m : TwinImage) (f : Fld) : Nat := (Sparse.get (fun _ => (0 : Word)) m.words f.addr).toNat
  let add (c : Chip) (f : Fld) : Chip := c.put f (addMark (c.rd f) (w mark f) (w near f))
  let c := (add (add c (SFE_SEAM_CNT n)) (SFE_LOW_CNT n)).put (SFE_RATIO_APPLIED n) (w near (SFE_RATIO_APPLIED n))
  c.put (SFE_OFFS_APPLIED n) (w near (SFE_OFFS_APPLIED n))

/-- A meter at the edge of J, as the marks and the join frame give it (R360). -/
def joinedMeter (mark near frame : TwinImage) (m : Nat) (own : Meter) : Meter :=
  own.joined (Sparse.get (fun _ => {}) mark.meters m) (Sparse.get (fun _ => {}) near.meters m) (Sparse.get (fun _ => {}) frame.meters m)

def Chip.joinMeter (mark near frame : TwinImage) (m : Nat) (c : Chip) : Chip :=
  (c.setMeter m (joinedMeter mark near frame m (c.meter m))).noteRegisters m (c.meter m)

/-- The billing words of Near at the edge of J (R360). -/
def Chip.joinBilling (c : Chip) (near : TwinImage) : Chip :=
  [TRF_BPERIOD, TRF_BLAST_LO, TRF_BLAST_HI, TRF_BLAST_ST].foldl (fun (c : Chip) f =>
    c.put f (Sparse.get (fun _ => (0 : Word)) near.words f.addr).toNat) c

/-- Near's tariffs and demand at the edge of J; Off's own flags of the open sub-interval stay (R360). -/
def Chip.joinTariff (c : Chip) (near : TwinImage) : Chip :=
  (c.setDmd fun d => { near.dmd with flags := near.dmd.flags ||| d.flags }).setTrf fun t =>
    { t with
      now := near.trf.now, next := near.trf.next, billedTo := near.trf.billedTo, reached := near.trf.reached
      closedMonth := near.trf.closedMonth }

def Chip.joinTrims (c : Chip) (near : TwinImage) : Chip :=
  forN 8 (fun g c => c.putS (SFE_CAL_TTRIM_trim g) (Sparse.get (fun _ => 0) near.trims g)) c

def Chip.joinLogs (c : Chip) (near : TwinImage) : Chip :=
  { c with led := { c.led with nextSave := near.led.nextSave, logNext := near.led.logNext, logOldest := near.led.logOldest } }

/-- The tariffs, the demand, the trims and the logs at the edge of J (R360). -/
def Chip.joinShared (c : Chip) (near : TwinImage) : Chip :=
  forN 5 (fun n c => c.showLog n) ((((c.joinBilling near).joinTariff near).joinTrims near).joinLogs near)

/-- Off's block at the edge of J. -/
def Chip.joinOff (mark near frame : TwinImage) (c : Chip) : Chip :=
  let c := forN c.variant.elements (Chip.joinElement mark near frame) c
  (forN c.variant.meters (Chip.joinMeter mark near frame) c).joinShared near

section

variable {c : Chip} {near frame : TwinImage}

theorem joinApply_of_other (h : c.pair.joinStep ≠ 2 ∨ c.pair.joinAt ≠ some c.nextStride) : joinApply near frame c = c := if_pos h

variable (hs : c.pair.joinStep = 2) (hj : c.pair.joinAt = some c.nextStride)
include hs hj

theorem joinApply_of_near (h : c.isOff = false ∨ c.pair.mark = none) :
    joinApply near frame c = c.setPair fun p => { p with joinStep := 3 } := by
  refine (if_neg (by simp [hs, hj])).trans ?_
  by_cases hoff : c.isOff = true
  · have hm : (c.setPair fun p => { p with joinStep := 3 }).pair.mark = none := h.resolve_left (by simp [hoff])
    refine (if_neg (not_not.2 hoff)).trans ?_
    rw [hm]
  · exact if_pos hoff

theorem joinApply_of_off {mark : TwinImage} (hoff : c.isOff = true) (hm : c.pair.mark = some mark) :
    joinApply near frame c = (c.setPair fun p => { p with joinStep := 3 }).joinOff mark near frame := by
  have hm' : (c.setPair fun p => { p with joinStep := 3 }).pair.mark = some mark := hm
  refine (if_neg (by simp [hs, hj])).trans ((if_neg (not_not.2 hoff)).trans ?_)
  rw [hm']
  rfl

end

section

variable (mark near frame : TwinImage) (c : Chip)

/-- The elements' part of a join keeps what no write of a register and of an element changes. -/
theorem Chip.joinElement_keeps {γ : Type} (g : Chip → γ) (hput : ∀ d f v, g (Chip.put d f v) = g d)
    (helem : ∀ d n e, g (Chip.setElem d n e) = g d) (n : Nat) : g (Chip.joinElement mark near frame n c) = g c := by
  unfold Chip.joinElement
  dsimp only
  rw [hput, hput, hput, hput]
  exact helem _ _ _

theorem Chip.noteRegisters_keeps {γ : Type} (g : Chip → γ) (hmeter : ∀ d m x, g (Chip.setMeter d m x) = g d)
    (hset : ∀ d l k u, g (Chip.setFault d l k u) = g d) (hclear : ∀ d l k u, g (Chip.clearFault d l k u) = g d)
    (hev : ∀ d p k, g (Chip.raiseEv d p k) = g d) (m : Nat) (before : Meter) : g (c.noteRegisters m before) = g c := by
  have hfault : ∀ (d : Chip) (l k u : Nat) (b : Bool), g (d.faultIs l k u b) = g d := fun d l k u b =>
    ite_keeps g (fun _ => hset d l k u) (fun _ => hclear d l k u)
  unfold Chip.noteRegisters
  dsimp only
  refine ite_keeps g (fun _ => (hev _ _ _).trans ?_) fun _ => ?_
  all_goals
    refine ite_keeps g (fun _ => (hev _ _ _).trans ?_) fun _ => ?_
    all_goals exact (hfault _ _ _ _ _).trans ((hfault _ _ _ _ _).trans (hmeter _ _ _))

/-- What R134 notes of a meter: that a register is negative, that one has reached its limit. -/
def Meter.noted (x : Meter) : Meter :=
  { x with
    neg := (List.range 72).any fun j => decide (x.exact j < 0)
    saturated := x.saturated || (List.range 72).any fun j => decide (2 ^ 64 ≤ (x.exact j).toNat / 2 ^ 72) }

theorem Chip.noteRegisters_meters (m : Nat) (before : Meter) :
    (c.noteRegisters m before).meters = Sparse.set (fun _ => {}) c.meters m (c.meter m).noted := by
  have hfault : ∀ (d : Chip) (l k u : Nat) (b : Bool), (d.faultIs l k u b).meters = d.meters := fun d l k u b =>
    ite_keeps Chip.meters (fun _ => Chip.setFault_meters _ l k u) (fun _ => Chip.clearFault_meters _ l k u)
  unfold Chip.noteRegisters
  dsimp only
  refine ite_keeps Chip.meters (fun _ => (Chip.raiseEv_meters _ _ _).trans ?_) fun _ => ?_
  all_goals
    refine ite_keeps Chip.meters (fun _ => (Chip.raiseEv_meters _ _ _).trans ?_) fun _ => ?_
    all_goals exact (hfault _ _ _ _ _).trans (hfault _ _ _ _ _)

theorem Chip.meter_setMeter_same (m : Nat) (x : Meter) : (c.setMeter m x).meter m = x := Sparse.get_set_same

theorem Chip.joinMeter_meter_same (m : Nat) :
    (Chip.joinMeter mark near frame m c).meter m = (joinedMeter mark near frame m (c.meter m)).noted := by
  unfold Chip.joinMeter
  unfold Chip.meter
  rw [Chip.noteRegisters_meters, Sparse.get_set_same, Chip.meter_setMeter_same]

theorem Chip.joinMeter_meter_other (m j : Nat) (hj : j ≠ m) : (Chip.joinMeter mark near frame m c).meter j = c.meter j := by
  unfold Chip.joinMeter
  unfold Chip.meter
  rw [Chip.noteRegisters_meters, Sparse.get_set_other hj]
  exact Sparse.get_set_other hj

/-! What the shared part of a join gives, and what it keeps. -/

theorem Chip.joinBilling_keeps {γ : Type} (g : Chip → γ) (hput : ∀ d f v, g (Chip.put d f v) = g d) : g (c.joinBilling near) = g c :=
  foldl_keeps g (fun _ _ d => hput d _ _) _

theorem Chip.joinTrims_keeps {γ : Type} (g : Chip → γ) (hput : ∀ d f v, g (Chip.put d f v) = g d) : g (c.joinTrims near) = g c :=
  forN_keeps g (fun _ _ d => hput d _ _) _

theorem Chip.joinShared_keeps {γ : Type} (g : Chip → γ) (hput : ∀ d f v, g (Chip.put d f v) = g d)
    (htariff : ∀ d, g (Chip.joinTariff d near) = g d) (hlogs : ∀ d, g (Chip.joinLogs d near) = g d)
    (hlog : ∀ d n, g (Chip.showLog d n) = g d) : g (c.joinShared near) = g c :=
  (forN_keeps g (fun k _ d => hlog d k) _).trans ((hlogs _).trans ((Chip.joinTrims_keeps near _ g hput).trans
    ((htariff _).trans (Chip.joinBilling_keeps near c g hput))))

theorem Chip.joinShared_dmd : (c.joinShared near).dmd = { near.dmd with flags := near.dmd.flags ||| c.dmd.flags } := by
  have hput : ∀ d f v, (Chip.put d f v).dmd = d.dmd := fun _ _ _ => rfl
  have htariff : ((c.joinBilling near).joinTariff near).dmd = { near.dmd with flags := near.dmd.flags ||| c.dmd.flags } := by
    rw [← Chip.joinBilling_keeps near c Chip.dmd hput]
    rfl
  have hlogs : ∀ d : Chip, (d.joinLogs near).dmd = d.dmd := fun _ => rfl
  unfold Chip.joinShared
  rw [forN_keeps Chip.dmd (fun k _ d => Chip.showLog_dmd d k), hlogs, Chip.joinTrims_keeps near _ Chip.dmd hput, htariff]

theorem Chip.joinShared_trf : (c.joinShared near).trf = ((c.joinBilling near).joinTariff near).trf := by
  have hlogs : ∀ d : Chip, (d.joinLogs near).trf = d.trf := fun _ => rfl
  unfold Chip.joinShared
  rw [forN_keeps Chip.trf (fun k _ d => Chip.showLog_trf d k), hlogs, Chip.joinTrims_keeps near _ Chip.trf fun _ _ _ => rfl]

theorem Chip.joinShared_led :
    (c.joinShared near).led = ((((c.joinBilling near).joinTariff near).joinTrims near).joinLogs near).led := by
  unfold Chip.joinShared
  rw [forN_keeps Chip.led (fun k _ d => Chip.showLog_led d k)]

theorem Chip.joinShared_now : (c.joinShared near).trf.now = near.trf.now := by rw [Chip.joinShared_trf]; rfl

theorem Chip.joinShared_next : (c.joinShared near).trf.next = near.trf.next := by rw [Chip.joinShared_trf]; rfl

theorem Chip.joinShared_billedTo : (c.joinShared near).trf.billedTo = near.trf.billedTo := by rw [Chip.joinShared_trf]; rfl

theorem Chip.joinShared_logNext : (c.joinShared near).led.logNext = near.led.logNext := by rw [Chip.joinShared_led]; rfl

theorem Chip.joinShared_nextSave : (c.joinShared near).led.nextSave = near.led.nextSave := by rw [Chip.joinShared_led]; rfl

/-! Off's block at the edge of J. -/

theorem Chip.joinMeters_keeps {γ : Type} (g : Chip → γ) (hmeter : ∀ d m x, g (Chip.setMeter d m x) = g d)
    (hset : ∀ d l k u, g (Chip.setFault d l k u) = g d) (hclear : ∀ d l k u, g (Chip.clearFault d l k u) = g d)
    (hev : ∀ d p k, g (Chip.raiseEv d p k) = g d) : g (forN c.variant.meters (Chip.joinMeter mark near frame) c) = g c :=
  forN_keeps g (fun m _ d => (Chip.noteRegisters_keeps _ g hmeter hset hclear hev m _).trans (hmeter d m _)) _

theorem Chip.joinElements_keeps {γ : Type} (g : Chip → γ) (hput : ∀ d f v, g (Chip.put d f v) = g d)
    (helem : ∀ d n e, g (Chip.setElem d n e) = g d) : g (forN c.variant.elements (Chip.joinElement mark near frame) c) = g c :=
  forN_keeps g (fun n _ d => Chip.joinElement_keeps mark near frame d g hput helem n) _

theorem Chip.joinOff_pair : (Chip.joinOff mark near frame c).pair = c.pair :=
  (Chip.joinShared_keeps near _ Chip.pair (fun _ _ _ => rfl) (fun _ => rfl) (fun _ => rfl) Chip.showLog_pair).trans
    ((Chip.joinMeters_keeps mark near frame _ Chip.pair (fun _ _ _ => rfl) Chip.setFault_pair Chip.clearFault_pair
      Chip.raiseEv_pair).trans (Chip.joinElements_keeps mark near frame c Chip.pair (fun _ _ _ => rfl) (fun _ _ _ => rfl)))

theorem Chip.joinOff_dmd :
    (Chip.joinOff mark near frame c).dmd = { near.dmd with flags := near.dmd.flags ||| c.dmd.flags } := by
  have hkept := (Chip.joinMeters_keeps mark near frame _ Chip.dmd (fun _ _ _ => rfl) Chip.setFault_dmd Chip.clearFault_dmd
    Chip.raiseEv_dmd).trans (Chip.joinElements_keeps mark near frame c Chip.dmd (fun _ _ _ => rfl) (fun _ _ _ => rfl))
  exact (Chip.joinShared_dmd near _).trans (by rw [hkept])

/-- Off's block at the edge of J ends with what the modules share. -/
theorem Chip.joinOff_eq_joinShared : ∃ d : Chip, Chip.joinOff mark near frame c = d.joinShared near := ⟨_, rfl⟩

theorem Chip.joinOff_meter {m : Nat} (hm : m < c.variant.meters) :
    (Chip.joinOff mark near frame c).meter m = (joinedMeter mark near frame m (c.meter m)).noted := by
  have helements := Chip.joinElements_keeps mark near frame c Chip.meter (fun _ _ _ => rfl) (fun _ _ _ => rfl)
  have hvariant := Chip.joinElements_keeps mark near frame c Chip.variant (fun _ _ _ => rfl) (fun _ _ _ => rfl)
  have hshared : ∀ d : Chip, (d.joinShared near).meter m = d.meter m := fun d =>
    Chip.joinShared_keeps near d (fun c => c.meter m) (fun _ _ _ => rfl) (fun _ => rfl) (fun _ => rfl)
      fun d k => by unfold Chip.meter; rw [Chip.showLog_meters]
  refine (hshared _).trans ((forN_parts Chip.meter (fun m x => (joinedMeter mark near frame m x).noted)
    (fun k d => Chip.joinMeter_meter_same mark near frame d k) (fun k j d => Chip.joinMeter_meter_other mark near frame d k j)
    _ _ m).trans ?_)
  rw [hvariant, helements, if_pos hm]

end

/-! ### Stride frames and the link -/

section

variable {c : Chip}

theorem strideFrameReceive_eq (valid errored : Nat) (f : StrideFrame) (c : Chip) :
    let x := (c.laneEdge valid errored).setPair fun p => { p with received := true }
    let x := ((x.put HRN_HB_MISS_frames 0).setFlag HRN_STATUS_twin_absent false).pairFault 10 false
    let x := x.compareDigest f
    strideFrameReceive valid errored f c =
      if c.paired = true ∧ c.pair.received = false ∧ valid % 4 ≠ 0 then
        (if x.isOff ∧ ¬ x.flag HRN_STATUS_detached ∧ f.role = 1 then x.followNear f
        else if x.rd HRN_STATUS_role = 1 ∧ f.role ≠ 1 then x.hearOff f
        else x)
      else c :=
  ite_of_iff_not (by rw [not_and_or, not_and_or, Bool.not_eq_false, not_not])

theorem strideFrameDeadline_eq (errored : Nat) (c : Chip) :
    let x := (c.laneEdge 0 errored).setPair fun p => { p with received := true, missed := some c.stride }
    let x := x.incSat HRN_HB_MISS_frames
    let y := x.loneWindow
    strideFrameDeadline errored c =
      if c.paired = true ∧ c.pair.received = false then
        (if ¬ x.inOffRole then x
        else if 2 ≤ y.rd HRN_HB_MISS_frames ∧ y.pair.takeoverAt.isNone then y.takeoverDecision
        else y)
      else c :=
  ite_of_iff_not (by rw [not_and_or, Bool.not_eq_false])

theorem harnessLinkDown_eq (c : Chip) :
    let x := (((c.setFlag HRN_STATUS_link_up false).setFlag STG_STATUS_harness_up false).pairFault 4 true).raiseEv hrnPage 6
    harnessLinkDown c =
      if c.flag HRN_STATUS_link_up = true ∧ 2 ≤ c.rd HRN_HB_MISS_frames then
        (if x.isOff = false then x.endJoin.pairFault 10 (decide (2 ≤ x.rd HRN_HB_MISS_pins)) else x.detach)
      else c.detach :=
  (ite_of_iff_not (by rw [not_and_or, not_le])).trans (if_congr Iff.rfl (if_congr (by rw [Bool.not_eq_true]) rfl rfl) rfl)

theorem Chip.detach_of_lost (ho : c.inOffRole = true) (hd : c.flag HRN_STATUS_detached = false) (hl : c.flag HRN_STATUS_link_up = false)
    (hf : 2 ≤ c.rd HRN_HB_MISS_frames) (hp : c.rd HRN_HB_MISS_pins < 2) (ht : c.pair.takeoverAt = none) :
    c.detach = (c.setFlag HRN_STATUS_detached true).endJoin :=
  if_neg (by simp [ho, hd, hl, Nat.not_lt.2 hf, Chip.heartSilent, Nat.not_le.2 hp, ht])

theorem Chip.detach_of_other
    (h : c.inOffRole = false ∨ c.flag HRN_STATUS_detached = true ∨ c.flag HRN_STATUS_link_up = true ∨ 2 ≤ c.rd HRN_HB_MISS_pins) :
    c.detach = c := by
  refine if_pos ?_
  rcases h with h | h | h | h
  · exact .inl (Bool.eq_false_iff.1 h)
  · exact .inr (.inl h)
  · exact .inr (.inr (.inl h))
  · exact .inr (.inr (.inr (.inr (.inl (decide_eq_true h)))))

theorem harnessLinkUp_eq (c : Chip) :
    let x := (((c.setFlag HRN_STATUS_link_up true).setFlag STG_STATUS_harness_up true).pairFault 4 false).raiseEv hrnPage 7
    harnessLinkUp c =
      if c.paired = true ∧ c.flag HRN_STATUS_link_up = false ∧ c.rd HRN_HB_MISS_frames = 0 then
        (if x.isOff ∧ x.flag HRN_STATUS_detached ∧ x.flag HRN_CTRL_auto_rejoin then x.setPair fun p => { p with joinWanted := true } else x)
      else c :=
  ite_of_iff_not (by rw [not_and_or, not_and_or, Bool.not_eq_false])

theorem harnessLaneDown_eq (l : Nat) (c : Chip) :
    harnessLaneDown l c =
      if l < 2 ∧ c.flag (HRN_LANE_ST_up l) = true ∧ 8 ≤ Sparse.get (fun _ => 0) c.pair.laneErrors l then
        ((c.setFlag (HRN_LANE_ST_up l) false).setFault 6 0x5300 l).raiseEv (hrlPage l) 1
      else c :=
  ite_of_iff_not (by rw [not_and_or, not_and_or, not_lt, not_le])

theorem harnessLaneUp_eq (l : Nat) (c : Chip) :
    let x := c.setPair fun p => { p with laneErrors := Sparse.set (fun _ => 0) p.laneErrors l 0 }
    harnessLaneUp l c =
      if l < Blk.count c.variant .hrl ∧ c.flag (HRN_LANE_ST_up l) = false then
        ((x.setFlag (HRN_LANE_ST_up l) true).clearFault 6 0x5300 l).raiseEv (hrlPage l) 0
      else c :=
  ite_of_iff_not (by rw [not_and_or, not_lt, Bool.not_eq_false])

/-! ### Messages -/

variable {acc : Access} {v : Nat}

theorem harnessMsgSend_of_accepts (h : c.Accepts acc HRN_MSG_CMD.addr v) :
    let out := (List.range 16).flatMap fun k => leBytes 4 (Sparse.get (fun _ => (0 : Word)) c.pair.txWords k).toNat
    harnessMsgSend acc v c =
      if v % 2 = 1 ∧ c.flag HRN_MSG_ST_tx_busy = false then
        (c.setFlag HRN_MSG_ST_tx_busy true).setPair fun p => { p with inFlight := some out }
      else c :=
  (Chip.write_of_accepts h _).trans (ite_of_iff_not (by rw [not_and_or, Nat.mod_two_not_eq_one, Bool.not_eq_false]))

theorem harnessMsgReceive_eq (bytes : List Nat) (c : Chip) :
    harnessMsgReceive bytes c =
      if c.paired = false ∨ bytes.length ≠ 64 then c
      else if 16 ≤ c.pair.messages.length then c.incSat HRN_MSG_ST_lost
      else (c.setPair fun p => { p with messages := p.messages ++ [bytes] }).showMessages :=
  if_congr (by rw [Bool.not_eq_true]) rfl rfl

theorem harnessMsgPop_of_accepts (h : c.Accepts acc HRN_MSG_POP.addr v) :
    harnessMsgPop acc v c =
      if v % 2 = 1 then (c.setPair fun p => { p with messages := p.messages.drop 1 }).showMessages else c :=
  (Chip.write_of_accepts h _).trans (ite_of_iff_not (by rw [Nat.mod_two_not_eq_one]))

end

/-- Settles O49: a join by its steps, the meters of Off at J by the fold over them, the link and its messages by their guards. -/
theorem joinAndHarnessLink : Obligations.JoinAndHarnessLink := by
  refine ⟨fun s near frame f stride valid errored delays => ?_, fun s acc l v bytes => ?_⟩
  · intro c
    refine ⟨answers (f := fun c => if c.isOff ∧ ¬ c.pair.joinWanted then c else join stride delays c) rfl
      (join_unless_unwanted stride delays c), join_of_idle, fun hp hl hj => ⟨fun hr => ?_, fun hr => ?_⟩,
      fun hs hl => answers rfl (storeCopyDone_of_load near hs hl), fun hs => ?_,
      fun hs => answers rfl (storeCopyDone_of_copy near hs), answers rfl (joinMarkCapture_eq c),
      fun h => answers rfl (joinApply_of_other h), fun hs hj => ⟨fun h => answers rfl (joinApply_of_near hs hj h), fun mark ho hm => ?_⟩,
      ⟨fun h => (Chip.beginRebuild_eq c).trans (if_pos h), fun h => (Chip.beginRebuild_eq c).trans (if_neg (Bool.eq_false_iff.1 h))⟩,
      fun _ => Chip.hearJoin_of_new, fun _ => Chip.hearJoin_of_joined, fun _ => rfl, answers rfl (strideFrameReceive_eq valid errored f c),
      answers rfl (strideFrameDeadline_eq errored c)⟩
    · exact (join_of_start stride delays hp hl hj).trans (if_pos hr)
    · exact (join_of_start stride delays hp hl hj).trans (if_neg hr)
    · by_cases hl : c.pair.joinStep = 2 ∧ c.pair.loadDue = true
      · exact .inl hl
      · exact .inr (answers rfl (storeCopyDone_of_other hs hl))
    · let x := c.setPair fun p => { p with joinStep := 3 }
      obtain ⟨y, hy⟩ := Chip.joinOff_eq_joinShared mark near frame x
      refine ⟨x.joinOff mark near frame, answers rfl (joinApply_of_off hs hj ho hm), Chip.joinOff_pair mark near frame x,
        fun m hm => Chip.joinOff_meter mark near frame x hm, Chip.joinOff_dmd mark near frame x, ?_⟩
      rw [hy]
      exact ⟨Chip.joinShared_now near y, Chip.joinShared_next near y, Chip.joinShared_billedTo near y, Chip.joinShared_logNext near y,
        Chip.joinShared_nextSave near y⟩
  · intro c
    exact ⟨answers rfl (harnessLinkDown_eq c), ⟨Chip.detach_of_lost, Chip.detach_of_other⟩, answers rfl (harnessLinkUp_eq c),
      answers rfl (harnessLaneDown_eq l c), answers rfl (harnessLaneUp_eq l c), fun h => answers rfl (harnessMsgSend_of_accepts h),
      answers rfl (harnessMsgReceive_eq bytes c), fun h => answers rfl (harnessMsgPop_of_accepts h)⟩

end Sys2Proof.Machine
end

section
/-! PROOFS. Links, received frames, rings, transmission and streams (R371–R381). -/

namespace Sys2Proof.Machine

section

variable {c : Chip} {n cyc : Nat}

/-! ### Links -/

theorem netLinkUp_of_absent (h : c.variant.nets ≤ n) (b : Bool) : netLinkUp n b c = c := if_pos (.inl h)

theorem netLinkUp_of_port (h : n < c.variant.nets) (b : Bool) :
    let speed := c.rd (NET_PCTRL_speed n)
    let allowed := if speed = 1 then b else if speed = 2 then !b else b == (c.netPort n).tries10g
    let y := ((c.setLink n true b).setFlag (NET_PSTATUS_los n) false).raiseEv (ntpPage n) 0
    let y := y.setNetPort n fun p => { p with trying := 0 }
    netLinkUp n b c =
      if c.flag (NET_PCTRL_en n) = true ∧ c.flag (NET_PSTATUS_link_up n) = false ∧ allowed = true then
        (((y.showLinkFault n).recheckStream n 0).recheckStream n 1).startTx n
      else c :=
  ite_of_iff_not (by rw [or_iff_right (Nat.not_le.2 h), not_and_or, not_and_or, Bool.not_eq_false])

theorem netLinkDown_of_port (h : n < c.variant.nets) (b : Bool) :
    netLinkDown n b c = (c.setFlag (NET_PSTATUS_los n) b).linkDown n :=
  if_neg (Nat.not_le.2 h)

theorem netSpeedTry_of_port (h : n < c.variant.nets) :
    let speed := c.rd (NET_PCTRL_speed n)
    netSpeedTry n c =
      if c.flag (NET_PCTRL_en n) = true ∧ c.flag (NET_PSTATUS_link_up n) = false ∧ speed ≠ 1 ∧ speed ≠ 2 ∧
          4000 ≤ (c.netPort n).trying then
        c.setNetPort n fun p => { p with trying := 0, tries10g := !p.tries10g }
      else c :=
  ite_of_iff_not (by
    rw [or_iff_right (Nat.not_le.2 h), not_and_or, not_and_or, not_and_or, not_and_or, Bool.not_eq_false, not_not, not_not, not_le])

theorem modAbsChange_of_port (h : n < c.variant.nets) (b : Bool) :
    modAbsChange n b c =
      if c.flag (NET_PSTATUS_mod_abs n) = b then c else (c.setFlag (NET_PSTATUS_mod_abs n) b).raiseEv (ntpPage n) 3 :=
  if_congr (or_iff_right (Nat.not_le.2 h)) rfl rfl

/-! ### Received frames -/

theorem netFrameReceive_of_stopped (h : (c.advanceTo cyc).netRuns n = false) (frame : List Nat) :
    netFrameReceive n frame cyc c = c.advanceTo cyc :=
  if_pos (Bool.eq_false_iff.1 h)

/-- A frame of a wrong length, or whose FCS does not hold, is the first row of R372. -/
theorem Chip.steer_of_corrupt {frame : List Nat}
    (h : frame.length < 64 ∨ c.maxLen n < frame.length ∨
      ofLe (frame.drop (frame.length - 4)) ≠ crc32 (frame.take (frame.length - 4))) : c.steer n frame = .crcError :=
  if_pos h

/-- The frame is a PAUSE frame that the port honours. -/
def Chip.honoursPause (c : Chip) (n : Nat) (frame : List Nat) : Prop :=
  c.isPause n (frame.take (frame.length - 4)) = true ∧ c.flag (NET_PCTRL_pause_rx n) = true

section

variable {frame : List Nat} (hr : (c.advanceTo cyc).netRuns n = true)
include hr

theorem netFrameReceive_of_corrupt (hs : (c.advanceTo cyc).steer n frame = .crcError) :
    netFrameReceive n frame cyc c = (c.advanceTo cyc).rxDrop n (NET_RX_CRC_ERR_count n) := by
  refine (if_neg (not_not.2 hr)).trans ?_
  rw [hs]

theorem netFrameReceive_of_pause (hs : (c.advanceTo cyc).steer n frame ≠ .crcError) (hp : (c.advanceTo cyc).honoursPause n frame) :
    let x := c.advanceTo cyc
    let q := frameBe (frame.take (frame.length - 4)) 16 2 * (if x.flag (NET_PSTATUS_is_10g n) then 512 else 5120)
    netFrameReceive n frame cyc c =
      (x.setNetPort n fun p => { p with pausedTo := x.netNow + (q + 99) / 100 }).startTx n := by
  intro x q
  refine (if_neg (not_not.2 hr)).trans ?_
  cases hsteer : x.steer n frame with
  | crcError => exact absurd hsteer hs
  | foreign | vlan | saf | ring k => exact if_pos hp

variable (hp : ¬ (c.advanceTo cyc).honoursPause n frame)
include hp

theorem netFrameReceive_of_saf (hs : (c.advanceTo cyc).steer n frame = .saf) :
    let x := c.advanceTo cyc
    netFrameReceive n frame cyc c =
      ((x.incSat (NET_RX_FRAMES_count n)).enterFifo n ⟨frame.take (frame.length - 4), 8, none, x.rxStamp n x.tim.clock⟩ 4096).noteStall
        n := by
  intro x
  refine (if_neg (not_not.2 hr)).trans ?_
  rw [hs]
  exact if_neg hp

theorem netFrameReceive_of_ring {k : Nat} (hs : (c.advanceTo cyc).steer n frame = .ring k) :
    let x := c.advanceTo cyc
    let bs := frame.take (frame.length - 4)
    let stamp := x.rxStamp n x.tim.clock
    let pcp := if tagged bs then frameBe bs 14 2 / 8192 else 0
    netFrameReceive n frame cyc c =
      (((x.incSat (NET_RX_FRAMES_count n)).notePdelay n stamp bs).enterFifo n ⟨bs, pcp, some k, stamp⟩ 4096).noteStall n := by
  intro x bs stamp pcp
  refine (if_neg (not_not.2 hr)).trans ?_
  rw [hs]
  exact if_neg hp

theorem netFrameReceive_of_vlan (hs : (c.advanceTo cyc).steer n frame = .vlan) :
    netFrameReceive n frame cyc c = (c.advanceTo cyc).rxDrop n (NET_RX_DROP_VLAN_count n) := by
  refine (if_neg (not_not.2 hr)).trans ?_
  rw [hs]
  exact if_neg hp

theorem netFrameReceive_of_foreign (hs : (c.advanceTo cyc).steer n frame = .foreign) : netFrameReceive n frame cyc c = c.advanceTo cyc := by
  refine (if_neg (not_not.2 hr)).trans ?_
  rw [hs]
  exact if_neg hp

end

/-! ### Frames sent -/

theorem netFrameSent_of_stopped (h : (c.advanceTo cyc).netRuns n = false) : netFrameSent n cyc c = c.advanceTo cyc :=
  if_pos (Bool.eq_false_iff.1 h)

theorem netFrameSent_of_idle (hr : (c.advanceTo cyc).netRuns n = true) (hs : ((c.advanceTo cyc).netPort n).sending = none) :
    netFrameSent n cyc c = (c.advanceTo cyc).startTx n := by
  refine (if_neg (not_not.2 hr)).trans ?_
  rw [hs]

/-- The block with the frame of a port sent and its descriptor, where it has one, complete (R376). -/
def Chip.completeTx (c : Chip) (n : Nat) (f : TxFrame) : Chip :=
  let y := (c.incSat (NET_TX_FRAMES_count n)).setNetPort n fun p => { p with sending := none, last := some f }
  match f.descriptor with
  | some (r, i) => y.txDone r i f.stamp false
  | none => y

theorem netFrameSent_of_frame {f : TxFrame} (hr : (c.advanceTo cyc).netRuns n = true)
    (hs : ((c.advanceTo cyc).netPort n).sending = some f) :
    netFrameSent n cyc c = ((c.advanceTo cyc).completeTx n f).startTx n := by
  refine (if_neg (not_not.2 hr)).trans ?_
  rw [hs]
  rfl

/-! ### Rings -/

theorem netRingDeliver_of_idle
    (h : (c.advanceTo cyc).variant.nets ≤ n ∨ (c.advanceTo cyc).flag NET_CTRL_en = false ∨ ((c.advanceTo cyc).netPort n).fifo = []) :
    netRingDeliver n cyc c = c.advanceTo cyc := by
  by_cases hrun : (c.advanceTo cyc).variant.nets ≤ n ∨ ¬ (c.advanceTo cyc).flag NET_CTRL_en = true
  · exact if_pos hrun
  · obtain ⟨hn, hen⟩ := not_or.1 hrun
    have hfifo : ((c.advanceTo cyc).netPort n).fifo = [] := (h.resolve_left hn).resolve_left (by simpa using hen)
    refine (if_neg hrun).trans ?_
    rw [hfifo]

section

variable {f : RxFrame} {rest : List RxFrame} (hn : n < (c.advanceTo cyc).variant.nets)
  (hen : (c.advanceTo cyc).flag NET_CTRL_en = true) (hf : ((c.advanceTo cyc).netPort n).fifo = f :: rest)
include hn hen hf

theorem netRingDeliver_of_ring {k : Nat} (hk : f.ring = some k) :
    netRingDeliver n cyc c = (((c.advanceTo cyc).setNetPort n fun p => { p with fifo := rest }).noteStall n).intoRing n k f := by
  refine (if_neg (not_or.2 ⟨Nat.not_le.2 hn, not_not.2 hen⟩)).trans ?_
  rw [hf]
  dsimp only
  rw [hk]

theorem netRingDeliver_of_saf (hk : f.ring = none) :
    netRingDeliver n cyc c = (((c.advanceTo cyc).setNetPort n fun p => { p with fifo := rest }).noteStall n).safetyCopy n
      ((f.bytes.drop (typeAt f.bytes + 2)).take 48) := by
  refine (if_neg (not_or.2 ⟨Nat.not_le.2 hn, not_not.2 hen⟩)).trans ?_
  rw [hf]
  dsimp only
  rw [hk]

end

variable {acc : Access} {r v : Nat}

theorem netTxTailWrite_of_accepts (hr : r < 8) (h : (c.advanceTo cyc).Accepts acc (NET_TX_TAIL r).addr v) :
    netTxTailWrite acc r v cyc c = ((c.advanceTo cyc).put (NET_TX_TAIL_idx r) v).pumpRing r 1024 :=
  (if_neg (Nat.not_le.2 hr)).trans (Chip.write_of_accepts h _)

theorem ringPlaneWrite_of_accepts (hr : r < 8) (h : (c.advanceTo cyc).Accepts acc (NET_RING_CFG r).addr (v % 4)) :
    let x := c.advanceTo cyc
    ringPlaneWrite acc r v cyc c = if initiatorPlane acc.by_ = 2 then x.setRingPlane r v else x :=
  (if_neg (Nat.not_le.2 hr)).trans (Chip.write_of_accepts h _)

/-! ### Streams -/

theorem streamEnable_of_accepts (hr : r < 2) (h : c.Accepts acc (NET_STR_CFG r).addr v) :
    let y := (c.put (NET_STR_CFG r) (v % 2 ^ 26)).setFlag (NET_STR_CFG_en r) false
    streamEnable acc r v c =
      if (c.stream r).active then (if v % 2 = 1 then c.setFlag (NET_STR_ST_wrote_running r) true else c.stopStream r)
      else if v % 2 = 0 then y
      else if y.streamRefused r then (y.setFlag (NET_STR_ST_refused r) true).raiseEv netPage 3
      else ((y.setFlag (NET_STR_ST_refused r) false).setFlag (NET_STR_CFG_en r) true).setStream r fun z =>
        { z.cleared with active := true, starting := true, ready := [], lost := false } :=
  (if_neg (Nat.not_le.2 hr)).trans (Chip.write_of_accepts h _)

theorem streamFrameSend_of_empty (h : (c.stream r).ready = []) : streamFrameSend r c = c := by
  by_cases hr : 2 ≤ r
  · exact if_pos hr
  · refine (if_neg hr).trans ?_
    dsimp only
    rw [h]

theorem streamFrameSend_of_ready {flags : Nat} {h payload : List Nat} {rest : List (Nat × List Nat × List Nat)} (hr : r < 2)
    (hready : (c.stream r).ready = (flags, h, payload) :: rest) :
    let x := c.stream r
    let n := c.streamPort r
    let q := min 6 (c.rd (NET_STR_CFG_queue r))
    let tag := if c.flag (NET_STR_CFG_tagged r) then
        [0x81, 0x00] ++ beBytes 2 (c.rd (NET_STR_CFG_pcp r) * 8192 + c.rd (NET_STR_CFG_vid r))
      else []
    let bytes := beBytes 6 (c.rd64 (NET_STR_DST_LO_mac r) (NET_STR_DST_HI_mac r)) ++ beBytes 6 (c.ownMac n) ++ tag ++ [0x88, 0xB6] ++
      [1, 1 + r, r, c.streamK r] ++ leBytes 4 (c.rd (NET_STR_SEQ_seq r)) ++ (h.take 10 ++ leBytes 2 (flags ||| x.lost.toNat) ++ h.drop 12) ++
      payload
    streamFrameSend r c =
      if Config.txQueueFrames ≤ (c.txQueue n q).length then
        ((c.setStream r fun z => { z with ready := rest, lost := true }).incSat (NET_STR_DROP_count r)).raiseEv netPage 4
      else
        ((c.setStream r fun z => { z with ready := rest, lost := false }).inc (NET_STR_SEQ_seq r)).enqueue n q { bytes := padded bytes } := by
  intro x n q tag bytes
  refine (if_neg (Nat.not_le.2 hr)).trans ?_
  dsimp only
  rw [hready]

end

/-- Settles O51: a received frame by the row of R372 that it meets, the other commands by their guards. -/
theorem networkCommands : Obligations.NetworkCommands := by
  refine ⟨fun s acc n r v cyc frame b => ?_, fun s acc r v => ?_⟩
  · intro c x bs speed
    have received : ∀ d, netFrameReceive n frame cyc c = d → exec (.netFrameReceive n frame cyc) s = .next (s.after d) := fun _ h =>
      answers rfl h
    refine ⟨fun hn => ⟨answers rfl (if_pos (.inl hn)), answers rfl (if_pos hn), answers rfl (if_pos (.inl hn)),
        answers rfl (if_pos (.inl hn))⟩,
      fun hn => ⟨answers rfl (netLinkUp_of_port hn b), answers rfl (netLinkDown_of_port hn b), answers rfl (netSpeedTry_of_port hn),
        answers rfl (modAbsChange_of_port hn b)⟩,
      fun hr => ⟨received _ (netFrameReceive_of_stopped hr frame), answers rfl (netFrameSent_of_stopped hr)⟩, fun hr => ?_,
      fun h => answers rfl (netRingDeliver_of_idle h), fun f rest hn hen hf => ⟨fun k hk => ?_, fun hk => ?_⟩,
      fun hr => ⟨answers rfl (if_pos hr), answers rfl (if_pos hr)⟩, fun hr h => answers rfl (netTxTailWrite_of_accepts hr h),
      fun hr h => answers rfl (ringPlaneWrite_of_accepts hr h)⟩
    · exact ⟨fun h => received _ (netFrameReceive_of_corrupt hr (Chip.steer_of_corrupt h)),
        fun hs hp => received _ (netFrameReceive_of_pause hr hs hp), fun hs hp => received _ (netFrameReceive_of_saf hr hp hs),
        fun k hs hp => received _ (netFrameReceive_of_ring hr hp hs), fun hs hp => received _ (netFrameReceive_of_vlan hr hp hs),
        fun hs hp => received _ (netFrameReceive_of_foreign hr hp hs), fun hs => answers rfl (netFrameSent_of_idle hr hs),
        fun f hs => answers rfl (netFrameSent_of_frame hr hs)⟩
    · exact answers rfl (netRingDeliver_of_ring hn hen hf hk)
    · exact answers rfl (netRingDeliver_of_saf hn hen hf hk)
  · intro c x
    exact ⟨fun hr => ⟨answers rfl (if_pos hr), answers rfl (if_pos hr)⟩, fun hr h => answers rfl (streamEnable_of_accepts hr h),
      fun h => answers rfl (streamFrameSend_of_empty h), fun flags h payload rest hr hready => answers rfl (streamFrameSend_of_ready hr hready)⟩

end Sys2Proof.Machine
end

section
/-! PROOFS. The mains link: its tracker, receptions and transmissions (R390, R391, R396, R400–R403). -/

namespace Sys2Proof.Machine

section

variable {c : Chip} {p cyc : Nat}

/-! ### The tracker -/

/-- The spacing of two edges is that of the mains (R390). -/
def atMainsRate (spacing : Option Nat) : Bool :=
  match spacing with
  | some d => decide (769000 ≤ d) && decide (d ≤ 1111000)
  | none => false

theorem atMainsRate_iff (spacing : Option Nat) : atMainsRate spacing = true ↔ ∃ d : Nat, spacing = some d ∧ 769000 ≤ d ∧ d ≤ 1111000 := by
  cases spacing <;> simp [atMainsRate]

theorem mainsZcEdge_of_absent (h : (c.advanceTo cyc).hasMains = false ∨ 3 ≤ p) : mainsZcEdge p cyc c = c.advanceTo cyc :=
  if_pos (h.imp Bool.eq_false_iff.1 id)

/-- The spacing of an edge at coupler p from the edge before it. -/
def Chip.edgeSpacing (c : Chip) (p : Nat) : Option Nat := (Sparse.get (fun _ => none) c.mlk.edges p).map (c.netNow - ·)

/-- The block with the edge noted, and with the sense shown where the edges come at mains rate. -/
def Chip.noteEdge (c : Chip) (p : Nat) : Chip :=
  let y := c.setMlk fun m => { m with edges := Sparse.set (fun _ => none) m.edges p (some c.netNow) }
  if atMainsRate (c.edgeSpacing p) then (y.setFlag (MLK_CSTATUS_sense_ok p) true).clearFault 5 0x5500 p else y

theorem mainsZcEdge_of_coupler (hm : (c.advanceTo cyc).hasMains = true) (hp : p < 3) :
    let x := c.advanceTo cyc
    let z := x.noteEdge p
    mainsZcEdge p cyc c = if p = z.refPhase ∧ z.flag MLK_CTRL_en = true then z.trackEdge x.netNow (x.edgeSpacing p) else z :=
  if_neg (not_or.2 ⟨not_not.2 hm, Nat.not_le.2 hp⟩)

theorem zcPredictedCrossing_eq (cyc : Nat) (c : Chip) :
    let x := c.advanceTo cyc
    let y := (x.inc MLK_ZC_ST_run).incSat MLK_ZC_ST_misses
    let y := y.startHalf (y.netNow - y.mlk.next)
    let y := (y.setMlk fun m => { m with crossing := none, next := m.next + y.halfPeriod }).halfCycle
    zcPredictedCrossing cyc c =
      if x.hasMains = true ∧ x.flag MLK_STATUS_locked = true ∧ x.mlk.next + 20000 < x.netNow then
        (if 8 ≤ y.rd MLK_ZC_ST_run then y.loseLock else y)
      else x :=
  ite_of_iff_not (by rw [not_and_or, not_and_or, not_lt])

theorem zcSenseLoss_eq (p : Nat) (c : Chip) :
    let y := (c.setFlag (MLK_CSTATUS_sense_ok p) false).raiseEv (mlcPage p) 1
    zcSenseLoss p c =
      if (c.hasMains = true ∧ p < 3) ∧ c.flag (MLK_CSTATUS_sense_ok p) = true then (if p = y.refPhase then y.setFault 5 0x5500 p else y)
      else c :=
  ite_of_iff_not (by rw [and_assoc, not_and_or, not_and_or, not_lt])

theorem couplerDriverFault_eq (p : Nat) (busy : Bool) (c : Chip) :
    let y := (c.setFlag (MLK_CSTATUS_drv_fault p) busy).faultIs 5 0x5501 p busy
    couplerDriverFault p busy c =
      if (c.hasMains = true ∧ p < 3) ∧ c.flag (MLK_CSTATUS_drv_fault p) ≠ busy then (if busy then y.raiseEv (mlcPage p) 0 else y)
      else c :=
  ite_of_iff_not (by rw [and_assoc, not_and_or, not_and_or, not_lt, not_not])

/-! ### Receptions -/

/-- The link can receive. -/
def Chip.mayReceive (c : Chip) : Prop := c.mainsRuns = true ∧ c.flag MLK_STATUS_locked = true ∧ c.rd MLK_TX_ST_state ≠ 2

theorem Chip.not_mayReceive_iff : ¬ c.mayReceive ↔ ¬ c.mainsRuns = true ∨ ¬ c.flag MLK_STATUS_locked = true ∨ c.rd MLK_TX_ST_state = 2 := by
  unfold Chip.mayReceive
  rw [not_and_or, not_and_or, not_not]

theorem mainsFrameReceive_of_not (rx : List MainsCoupler) (h : ¬ (c.advanceTo cyc).mayReceive) :
    mainsFrameReceive rx cyc c = c.advanceTo cyc :=
  if_pos (Chip.not_mayReceive_iff.1 h)

theorem mainsFrameReceive_of_end (rx : List MainsCoupler) {stamp : Nat} (h : (c.advanceTo cyc).mayReceive)
    (hs : (c.advanceTo cyc).mlk.receiving = some stamp) : mainsFrameReceive rx cyc c = (c.advanceTo cyc).mainsEnd rx stamp := by
  refine (if_neg (mt Chip.not_mayReceive_iff.2 (not_not.2 h))).trans ?_
  rw [hs]

theorem mainsFrameReceive_of_sync (rx : List MainsCoupler) (h : (c.advanceTo cyc).mayReceive)
    (hs : (c.advanceTo cyc).mlk.receiving = none) :
    let x := c.advanceTo cyc
    let y := forN 3 (fun k d => d.put (MLK_CNOISE_floor k) (satN 16 (rx.getD k {}).noise)) x
    mainsFrameReceive rx cyc c =
      if x.syncAccepted rx then (y.setMlk fun m => { m with receiving := some y.mlk.start }).setFlag MLK_STATUS_rx_busy true else x := by
  intro x y
  refine (if_neg (mt Chip.not_mayReceive_iff.2 (not_not.2 h))).trans ?_
  rw [hs]
  exact ite_not _ _ _

theorem mainsRxPop_of_accepts {acc : Access} {v : Nat} (h : c.Accepts acc MLK_RX_POP.addr v) :
    mainsRxPop acc v c = if v % 2 = 1 then (c.setMlk fun m => { m with fifo := m.fifo.drop 1 }).showMainsRx else c :=
  (Chip.write_of_accepts h _).trans (ite_of_iff_not (by rw [Nat.mod_two_not_eq_one]))

/-! ### Transmissions -/

/-- Band C has been quiet for 125 ms (R389). -/
def Chip.lineQuiet (c : Chip) : Bool :=
  match c.mlk.ended with
  | some t => decide (t + 12500000 ≤ c.netNow)
  | none => true

theorem Chip.lineQuiet_iff : c.lineQuiet = true ↔ ∀ t : Nat, c.mlk.ended = some t → t + 12500000 ≤ c.netNow := by
  unfold Chip.lineQuiet
  cases c.mlk.ended <;> simp

/-- A waiting frame may start at a crossing (R389, R400). -/
def Chip.mayStartTx (c : Chip) (busy : Bool) : Prop :=
  c.mainsRuns = true ∧ c.isOff = false ∧ c.rd MLK_TX_ST_state = 1 ∧ c.mlk.crossed = true ∧ c.mlk.receiving = none ∧
    4 ≤ c.mlk.gap ∧ c.mlk.backoff = 0 ∧ (c.bandC = true → busy = false ∧ ∀ t : Nat, c.mlk.ended = some t → t + 12500000 ≤ c.netNow)

theorem Chip.not_mayStartTx_iff {busy : Bool} :
    ¬ c.mayStartTx busy ↔
      ¬ c.mainsRuns = true ∨ c.isOff = true ∨ c.rd MLK_TX_ST_state ≠ 1 ∨ ¬ c.mlk.crossed = true ∨ c.mlk.receiving.isSome = true ∨
        c.mlk.gap < 4 ∨ c.mlk.backoff ≠ 0 ∨ (c.bandC = true ∧ (busy = true ∨ ¬ c.lineQuiet = true)) := by
  unfold Chip.mayStartTx
  rw [not_and_or, not_and_or, not_and_or, not_and_or, not_and_or, not_and_or, not_and_or, Classical.not_imp, not_and_or,
    Bool.not_eq_false, Bool.not_eq_false, not_le, Chip.lineQuiet_iff, Option.isSome_iff_ne_none]

theorem mainsTxStart_of_mains (busy : Bool) (h : c.hasMains = true) :
    let y := c.setFlag MLK_STATUS_band_busy busy
    let line := lineFrame y.hz60 (y.flag MLK_CFG_mode) c.mlk.frame
    mainsTxStart busy c =
      if ¬ y.mainsRuns = true ∨ y.isOff = true ∨ y.rd MLK_TX_ST_state ≠ 1 ∨ ¬ y.mlk.crossed = true ∨ y.mlk.receiving.isSome = true ∨
          y.mlk.gap < 4 ∨ y.mlk.backoff ≠ 0 ∨ (y.bandC = true ∧ (busy = true ∨ ¬ y.lineQuiet = true)) then
        y.setMlk fun m => { m with crossed := false }
      else
        ((y.setTx 2).put MLK_TX_ST_h (line.length - 1)).setMlk fun m => { m with crossed := false, line := line, left := line.length } :=
  if_neg (not_not.2 h)

theorem mainsTxDone_eq (c : Chip) :
    let z := c.abortDue
    let y := ((z.setTx 3).incSat MLK_TX_FRAMES_count).raiseEv mlkPage 1
    mainsTxDone c =
      if z.rd MLK_TX_ST_state = 2 ∧ z.mlk.left = 0 then
        y.setMlk fun m => { m with frame := [], gap := 0, aborting := none, ended := some y.netNow }
      else z :=
  ite_of_iff_not (by rw [not_and_or])

end

/-- Settles O52: each command by its guards, an edge by whether it comes at mains rate. -/
theorem mainsCommands : Obligations.MainsCommands := by
  intro s acc p v cyc rx busy c x st has
  refine ⟨⟨fun h => answers rfl (mainsZcEdge_of_absent h), fun hm hp hrate => ?_, fun hm hp hrate => ?_⟩,
    answers rfl (zcPredictedCrossing_eq cyc c), answers rfl (zcSenseLoss_eq p c), answers rfl (couplerDriverFault_eq p busy c),
    ⟨fun h => answers rfl (mainsFrameReceive_of_not rx h), fun stamp h hs => answers rfl (mainsFrameReceive_of_end rx h hs),
      fun h hs => answers rfl (mainsFrameReceive_of_sync rx h hs)⟩,
    fun h => answers rfl (mainsRxPop_of_accepts h),
    fun h => ⟨answers rfl (Chip.write_of_accepts h _), answers rfl (Chip.write_of_accepts h _)⟩,
    ⟨fun h => answers rfl (if_pos (Bool.eq_false_iff.1 h)), fun hm hmay => ?_, fun hm hmay => ?_⟩, answers rfl (mainsTxDone_eq c)⟩
  · have hz : x.noteEdge p = _ := if_pos ((atMainsRate_iff _).2 hrate)
    refine answers rfl ((mainsZcEdge_of_coupler hm hp).trans ?_)
    rw [hz]
    rfl
  · have hz : x.noteEdge p = _ := if_neg (mt (atMainsRate_iff _).1 hrate)
    refine answers rfl ((mainsZcEdge_of_coupler hm hp).trans ?_)
    rw [hz]
    rfl
  · exact answers rfl ((mainsTxStart_of_mains busy hm).trans (if_neg (mt Chip.not_mayStartTx_iff.2 (not_not.2 hmay))))
  · exact answers rfl ((mainsTxStart_of_mains busy hm).trans (if_pos (Chip.not_mayStartTx_iff.1 hmay)))

end Sys2Proof.Machine
end

section
/-! PROOFS. The tag reader: the radio link, pings, rounds and their slots, the Halter exchange, writes and reports (R406–R421). -/

namespace Sys2Proof.Machine

section

variable {c : Chip}

/-! ### The radio link and pings -/

theorem tagPing_eq (gammas : List (Nat × (Int × Int))) (c : Chip) :
    let x := forN 4 (pingStep gammas) ([], (c.setTag fun t => { t with sincePing := 0 }).tunePing)
    tagPing gammas c =
      if c.flag TAG_CTRL_en = true ∧ c.tagBusy = false ∧ 8 * max 20 (c.rd TAG_PING_CFG_period) ≤ c.tag.sincePing then
        (match x.1 with
        | k :: _ =>
          if x.2.flag TAG_CFG_auto_inv then x.2.beginJob ⟨k, x.2.rdS (TAG_GAMMA_re k), x.2.rdS (TAG_GAMMA_im k), none⟩ else x.2
        | [] => x.2)
      else c := by
  unfold tagPing
  dsimp only
  generalize forN 4 (pingStep gammas) _ = x
  obtain ⟨woken, d⟩ := x
  refine (ite_of_iff_not ?_).trans (if_congr Iff.rfl rfl rfl)
  rw [not_and_or, not_and_or, Bool.not_eq_false, not_le]

theorem antennaFault_eq (a : Nat) (sent : Bool) (c : Chip) :
    let x := ((c.setFlag (TAG_ANT_ST_fault a) true).incSat (TAG_ANT_CNT_faults a)).raiseEv (antPage a) 1
    antennaFault a sent c =
      if c.activeAntenna = some a ∧ c.carrierPaused = false ∧ c.flag (TAG_ANT_ST_fault a) = false then x.tagAbort sent else c :=
  ite_of_iff_not (by rw [not_and_or, not_and_or, Bool.not_eq_false, Bool.not_eq_false])

/-- The reader is to leave its channel (R406). -/
def Chip.hopDue (c : Chip) : Prop := c.tagBusy = true ∧ c.dwellLimit ≤ c.tag.dwell ∧ c.awaitsReply = false

theorem Chip.not_hopDue_iff : ¬ c.hopDue ↔ ¬ c.tagBusy = true ∨ c.tag.dwell < c.dwellLimit ∨ c.awaitsReply = true := by
  unfold Chip.hopDue
  rw [not_and_or, not_and_or, not_le, Bool.not_eq_false]

theorem tagChannelHop_of_not (h : ¬ c.hopDue) : tagChannelHop c = c := if_pos (Chip.not_hopDue_iff.1 h)

theorem tagChannelHop_of_due (h : c.hopDue) :
    tagChannelHop c =
      if c.flag TAG_CFG_region then
        let x := (c.draw).2.hopChannel (c.draw).1
        x.2.tuneTo x.1
      else c.tuneTo c.nextChannel :=
  if_neg (mt Chip.not_hopDue_iff.2 (not_not.2 h))

/-! ### Starts -/

section

variable {a : Nat} {re im : Int} {work : Option TagWork}

theorem Chip.tagStart_of_busy (h : c.tagBusy = true) : c.tagStart a re im work = c := if_pos h

theorem Chip.tagStart_of_refused (hb : c.tagBusy = false) (hm : c.tagMay a = false) :
    c.tagStart a re im work = c.setFlag TAG_STATUS_refused true :=
  (if_neg (Bool.eq_false_iff.1 hb)).trans (if_pos (Bool.eq_false_iff.1 hm))

theorem Chip.tagStart_of_may (hb : c.tagBusy = false) (hm : c.tagMay a = true) :
    c.tagStart a re im work = c.beginJob ⟨a, re, im, work⟩ :=
  (if_neg (Bool.eq_false_iff.1 hb)).trans (if_neg (not_not.2 hm))

theorem Chip.beginJob_of_paused {j : TagJob} (h : c.tagChannel.carrierPaused = true) :
    c.beginJob j = (c.tagChannel.setTag fun t => { t with deferred := some j }).tagShow :=
  if_pos h

/-- The block as it is when the carrier has come on and Γ is measured (R407, R411). -/
def Chip.carrierOn (c : Chip) (a : Nat) (re im : Int) : Chip :=
  (c.tagChannel.setTag fun t => { t with deferred := none }).measureGamma a re im

theorem Chip.beginJob_round (h : c.tagChannel.carrierPaused = false) :
    let x := c.carrierOn a re im
    c.beginJob ⟨a, re, im, none⟩ =
      if x.flag (TAG_ANT_ST_fault a) then (x.setFlag TAG_STATUS_refused true).tagShow else x.startRound a :=
  if_neg (Bool.eq_false_iff.1 h)

theorem Chip.beginJob_work (h : c.tagChannel.carrierPaused = false) (w : TagWork) :
    let x := c.carrierOn a re im
    c.beginJob ⟨a, re, im, some w⟩ =
      if x.flag (TAG_ANT_ST_fault a) then (x.setFlag TAG_STATUS_refused true).tagShow else x.runWork a w :=
  if_neg (Bool.eq_false_iff.1 h)

end

/-! ### The end of a round -/

/-- The round has no sub-round open, and its last two frames were empty at Q = 0 (R411). -/
def TagRound.quiet (r : TagRound) : Bool :=
  match r.frames with
  | [f] => decide (2 ≤ f.empties)
  | _ => false

theorem TagRound.quiet_iff (r : TagRound) : r.quiet = true ↔ ∃ f : TagFrame, r.frames = [f] ∧ 2 ≤ f.empties := by
  unfold TagRound.quiet
  rcases r.frames with _ | ⟨f, _ | ⟨g, fs⟩⟩ <;> simp

theorem tagRoundEnd_of_none (h : c.tag.round = none) : tagRoundEnd c = c := by
  unfold tagRoundEnd
  rw [h]

theorem tagRoundEnd_of_round {r : TagRound} (h : c.tag.round = some r) :
    tagRoundEnd c =
      if ¬ r.exchange = true ∧ (r.quiet = true ∨ 8 * max 1 (c.rd TAG_ROUND_max_ms) ≤ r.age) then c.endRound else c := by
  unfold tagRoundEnd
  rw [h]
  rfl

/-! ### The answer to a Halter resolve -/

/-- The vault's answer to a resolve. -/
def Chip.answerTo (c : Chip) (x : TagResolve) : Option VaultAnswer := Sparse.get (fun _ => none) c.vlt.answers x.id

theorem halterResolveAnswer_of_none (h : c.tag.resolves.find? (fun x => (c.answerTo x).isSome || c.resolveLate x) = none) :
    halterResolveAnswer c = c := by
  unfold Chip.answerTo at h
  unfold halterResolveAnswer
  dsimp only
  rw [h]

section

variable {x : TagResolve} (hx : c.tag.resolves.find? (fun x => (c.answerTo x).isSome || c.resolveLate x) = some x)
include hx

theorem halterResolveAnswer_of_unanswered (h : c.answerTo x = none) : halterResolveAnswer c = c.endResolve x 3 3 0 := by
  unfold Chip.answerTo at h hx
  unfold halterResolveAnswer
  dsimp only
  rw [hx]
  dsimp only
  rw [h]

/-- What a resolve ends with, from the identities that the vault found (R415). -/
def Chip.endFound (c : Chip) (x : TagResolve) (found : List (Nat × Nat)) : Chip :=
  match found with
  | [] => c.endResolve x 3 1 0
  | [(i, _)] => c.endResolve x 2 0 i
  | _ => c.endResolve x 3 2 0

theorem halterResolveAnswer_of_answer {y : VaultAnswer} (h : c.answerTo x = some y) :
    halterResolveAnswer c = if y.error ≠ 0 ∨ c.resolveLate x = true then c.endResolve x 3 3 0 else c.endFound x y.found := by
  unfold Chip.answerTo at h hx
  unfold halterResolveAnswer
  dsimp only
  rw [hx]
  dsimp only
  rw [h]
  rfl

theorem halterResolveAnswer_of_late (h : c.answerTo x = none ∨ c.resolveLate x = true) :
    halterResolveAnswer c = c.endResolve x 3 3 0 := by
  cases ha : c.answerTo x with
  | none => exact halterResolveAnswer_of_unanswered hx ha
  | some y => exact (halterResolveAnswer_of_answer hx ha).trans (if_pos (.inr (h.resolve_left (by simp [ha]))))

theorem halterResolveAnswer_of_found {y : VaultAnswer} (h : c.answerTo x = some y) (hl : c.resolveLate x = false) (he : y.error = 0) :
    halterResolveAnswer c = c.endFound x y.found :=
  (halterResolveAnswer_of_answer hx h).trans (if_neg (not_or.2 ⟨not_not.2 he, Bool.eq_false_iff.1 hl⟩))

end

theorem Chip.endFound_of_many {x : TagResolve} {found : List (Nat × Nat)} (h : 2 ≤ found.length) :
    c.endFound x found = c.endResolve x 3 2 0 := by
  rcases found with _ | ⟨p, _ | ⟨q, l⟩⟩
  · simp at h
  · simp at h
  · rfl

/-! ### Slots -/

/-- A slot that is no part of a Halter exchange, by the rows of R412. -/
def Chip.slotReply (c : Chip) (r : TagRound) (reply : TagReply) (rssi phase : Int) : Chip :=
  match reply with
  | .empty => c.emptySlot r
  | .collided => c.collidedSlot r
  | .epc pc bytes crc conflict =>
    if crc16 (beBytes 2 pc ++ bytes) = crc then
      if pc / 2048 % 32 = 0 ∧ c.flag TAG_CFG_halter_en then c.beginExchange r
      else (c.repliedSlot r [.ack]).tagReport (reportBytes 1 r.ant 0 pc bytes (c.reportTail rssi phase) 0)
    else match conflict with
      | some b => (c.tagReport (reportBytes 4 r.ant 0 b [] (c.reportTail rssi phase) 0)).bitSplit r b
      | none => (c.repliedSlot r [.ack, .nak]).incSat TAG_ERR_CNT_count
  | .authenticate _ _ => c

/-- The reply that a Halter exchange waits for (R415). -/
def Chip.exchangeReply (c : Chip) (r : TagRound) (reply : TagReply) (rssi phase : Int) : Chip :=
  match reply with
  | .authenticate bytes crc =>
    (if crc16 bytes = crc then c.resolveHalter r (bytes.take 8) (c.reportTail rssi phase) else c.unanswered r.ant rssi phase).endExchange r
  | _ => c

theorem tagSlot_of_none (h : c.tag.round = none) (reply : TagReply) (rssi phase : Int) (cyc : Nat) : tagSlot reply rssi phase cyc c = c := by
  unfold tagSlot
  rw [h]

theorem tagSlot_of_round {r : TagRound} (h : c.tag.round = some r) (reply : TagReply) (rssi phase : Int) (cyc : Nat) :
    tagSlot reply rssi phase cyc c =
      if c.carrierPaused = true then c
      else if r.exchange = true then (c.advanceTo cyc).exchangeReply r reply rssi phase
      else (c.advanceTo cyc).slotReply r reply rssi phase := by
  unfold tagSlot
  rw [h]
  rfl

theorem Chip.emptySlot_of_frames {r : TagRound} {f : TagFrame} {fs : List TagFrame} (h : r.frames = f :: fs) :
    let e := { f with empties := if f.q = 0 then f.empties + 1 else 0 }
    let low := nextSlot e (e.q2 - 1)
    c.emptySlot r =
      if e.empties < 2 then (c.setFrames r (low.2 :: fs)).onAir r.ant [low.1]
      else if fs.isEmpty then c.setFrames r [e]
      else c.enterFrame r [] fs := by
  intro e low
  unfold Chip.emptySlot
  rw [h]
  rfl

theorem Chip.collidedSlot_of_frames {r : TagRound} {f : TagFrame} {fs : List TagFrame} (h : r.frames = f :: fs) :
    let high := nextSlot { f with empties := 0 } (min 30 (f.q2 + 1))
    c.collidedSlot r = (c.setFrames r (high.2 :: fs)).onAir r.ant [high.1] := by
  intro high
  unfold Chip.collidedSlot
  rw [h]
  rfl

theorem Chip.exchangeReply_of_other {r : TagRound} {reply : TagReply} (h : ∀ (bytes : List Nat) (crc : Nat), reply ≠ .authenticate bytes crc)
    (rssi phase : Int) : c.exchangeReply r reply rssi phase = c := by
  cases reply with
  | authenticate bytes crc => exact absurd rfl (h bytes crc)
  | empty | collided | epc _ _ _ _ => rfl

/-! ### Records -/

/-- The copy that a record write writes, and its generation, from the newer valid copy (R418). -/
def recordTarget (newer : Option Nat) : Nat := if newer = some 0 then 1 else 0

def recordGeneration (read : List Nat × List Nat) (newer : Option Nat) : Nat :=
  match newer with
  | some k => nextGeneration (nth (copyOf read k) 0)
  | none => 1

theorem recordTarget_generation_of_newer {n target g : Nat} {read : List Nat × List Nat}
    (h : newerCopy n read = none ∧ target = 0 ∧ g = 1 ∨
      newerCopy n read = some 0 ∧ target = 1 ∧ g = nextGeneration (nth read.1 0) ∨
      newerCopy n read = some 1 ∧ target = 0 ∧ g = nextGeneration (nth read.2 0)) :
    target = recordTarget (newerCopy n read) ∧ g = recordGeneration read (newerCopy n read) := by
  rcases h with ⟨hnew, rfl, rfl⟩ | ⟨hnew, rfl, rfl⟩ | ⟨hnew, rfl, rfl⟩
  all_goals
    rw [hnew]
    exact ⟨rfl, rfl⟩

theorem Chip.recordWork_some (read : List Nat × List Nat) (replies : List TagWriteReply) (verify : Option (List Nat × List Nat)) :
    let n := clampN 1 30 (c.rd TAG_REC_CFG_n)
    let target := recordTarget (newerCopy n read)
    let g := recordGeneration read (newerCopy n read)
    let data := (List.range n).map c.writeData
    let base := c.rd TAG_REC_CFG_ptr + target * (n + 2)
    let crc := copyCrc g data
    (c.recordWork (some read) replies verify).words =
        [(3, base, 0)] ++ (data.zipIdx).map (fun d => (3, base + 1 + d.2, d.1)) ++ [(3, base + n + 1, crc), (3, base, g)] ∧
      (c.recordWork (some read) replies verify).verified = recordResult n target (g :: data ++ [crc]) verify :=
  ⟨rfl, rfl⟩

theorem Chip.runWork_of_unread {a : Nat} {w : TagWork} (h : w.unread = true) :
    c.runWork a w = (c.onAir a (c.singulation ++ w.reads)).endWrite 2 0 0 0 :=
  if_pos h

/-! ### Stop, and a reply that does not come -/

theorem Chip.tagHalt_of_round {r : TagRound} (h : c.tag.round = some r) :
    c.tagHalt = if r.exchange = true then c.setTag fun t => { t with round := some { r with ending := true } } else c.tagAbort false := by
  unfold Chip.tagHalt
  rw [h]

theorem Chip.tagHalt_of_none (h : c.tag.round = none) : c.tagHalt = c.tagAbort (!c.tag.midCommand) := by
  unfold Chip.tagHalt
  rw [h]

variable {rssi phase : Int} {cyc : Nat}

theorem tagReplyTimeout_of_writing {p step : Nat} (h : c.tag.writing = some (p, step)) :
    tagReplyTimeout rssi phase cyc c = c.endWrite 2 step 0 0 := by
  unfold tagReplyTimeout
  rw [h]

theorem tagReplyTimeout_of_round {r : TagRound} (hw : c.tag.writing = none) (hr : c.tag.round = some r) :
    tagReplyTimeout rssi phase cyc c = if r.exchange = true then ((c.advanceTo cyc).unanswered r.ant rssi phase).endExchange r else c := by
  unfold tagReplyTimeout
  rw [hw, hr]

theorem tagReplyTimeout_of_none (hw : c.tag.writing = none) (hr : c.tag.round = none) : tagReplyTimeout rssi phase cyc c = c := by
  unfold tagReplyTimeout
  rw [hw, hr]

end

/-- Settles O54: the reader's commands by their guards, a slot by the row of R412, a start by what it finds. -/
theorem tagReader : Obligations.TagReader := by
  refine ⟨fun s acc re im gammas a lost sent => ?_, fun s rssi phase reply cyc r => ?_,
    fun s acc re im rssi phase replies copies verify v cyc => ?_⟩
  · intro c
    refine ⟨rfl, answers rfl (tagPing_eq gammas c), fun h => ⟨fun hb => ?_, fun hb hm => ?_, fun hb hm hp => ?_, fun hb hm hp => ?_⟩,
      fun h => answers rfl (tagRoundEnd_of_none h), fun r hr => ⟨fun h => ?_, fun h => ?_⟩, ⟨fun h => answers rfl (halterResolveAnswer_of_none h),
        fun x hx => ⟨fun h => answers rfl (halterResolveAnswer_of_late hx h), fun y hy hl => ⟨fun he => ?_, fun he hf => ?_,
          fun i ctr he hf => ?_, fun he hf => ?_⟩⟩⟩,
      answers rfl (antennaFault_eq a sent c), ⟨fun h => answers rfl (tagChannelHop_of_not h), fun h hr => ?_, fun h hr => ?_⟩⟩
    · exact answers rfl ((Chip.write_of_accepts h _).trans (Chip.tagStart_of_busy hb))
    · exact answers rfl ((Chip.write_of_accepts h _).trans (Chip.tagStart_of_refused hb hm))
    · exact answers rfl ((Chip.write_of_accepts h _).trans ((Chip.tagStart_of_may hb hm).trans (Chip.beginJob_of_paused hp)))
    · exact answers rfl ((Chip.write_of_accepts h _).trans ((Chip.tagStart_of_may hb hm).trans (Chip.beginJob_round hp)))
    · exact answers rfl ((tagRoundEnd_of_round hr).trans (if_pos ⟨Bool.eq_false_iff.1 h.1, h.2.imp_left r.quiet_iff.2⟩))
    · refine answers rfl ((tagRoundEnd_of_round hr).trans (if_neg fun hend => ?_))
      rcases h with he | ⟨hq, ha⟩
      · exact hend.1 he
      · exact hend.2.elim (fun hquiet => hq (r.quiet_iff.1 hquiet)) (Nat.not_le.2 ha)
    · exact answers rfl ((halterResolveAnswer_of_answer hx hy).trans (if_pos (.inl he)))
    · exact answers rfl ((halterResolveAnswer_of_found hx hy hl he).trans (by rw [hf]; rfl))
    · exact answers rfl ((halterResolveAnswer_of_found hx hy hl he).trans (by rw [hf]; rfl))
    · exact answers rfl ((halterResolveAnswer_of_found hx hy hl he).trans (Chip.endFound_of_many hf))
    · exact answers rfl ((tagChannelHop_of_due h).trans (if_neg (Bool.eq_false_iff.1 hr)))
    · exact answers rfl ((tagChannelHop_of_due h).trans (if_pos hr))
  · intro c x tail
    have paused : ∀ {reply}, c.tag.round = some r → c.carrierPaused = true → tagSlot reply rssi phase cyc c = c := fun hr hp =>
      (tagSlot_of_round hr _ rssi phase cyc).trans (if_pos hp)
    refine ⟨fun h => answers rfl (tagSlot_of_none h reply rssi phase cyc), fun hr hp => answers rfl (paused hr hp), fun hr hp he => ?_,
      fun hr hp he => ?_⟩
    · have slot : ∀ {reply d}, x.slotReply r reply rssi phase = d →
          exec (.tagSlot reply rssi phase cyc) s = .next (s.after d) := fun {reply d} hd =>
        answers rfl ((tagSlot_of_round hr reply rssi phase cyc).trans ((if_neg (Bool.eq_false_iff.1 hp)).trans
          ((if_neg (Bool.eq_false_iff.1 he)).trans hd)))
      exact ⟨fun f fs hf => ⟨slot (Chip.emptySlot_of_frames hf), slot (Chip.collidedSlot_of_frames hf)⟩,
        fun pc crc bytes conflict hc => slot (if_pos hc),
        fun pc crc bytes hc => ⟨fun b => slot (if_neg hc), slot (if_neg hc)⟩, fun bytes crc => slot rfl⟩
    · have answered : ∀ {reply d}, x.exchangeReply r reply rssi phase = d →
          exec (.tagSlot reply rssi phase cyc) s = .next (s.after d) := fun {reply d} hd =>
        answers rfl ((tagSlot_of_round hr reply rssi phase cyc).trans ((if_neg (Bool.eq_false_iff.1 hp)).trans ((if_pos he).trans hd)))
      exact ⟨fun bytes crc => answered rfl, fun h => answered (Chip.exchangeReply_of_other h rssi phase)⟩
  · intro c a y x words write record starts
    have start : ∀ (i : Instr) (w : TagWork), (∀ d, c.tagStart a re im (some w) = d → exec i s = .next (s.after d)) → starts i w :=
      fun i w h => ⟨fun hb => h _ (Chip.tagStart_of_busy hb), fun hb hm => h _ (Chip.tagStart_of_refused hb hm),
        fun hb hm hp => h _ ((Chip.tagStart_of_may hb hm).trans (Chip.beginJob_of_paused hp)),
        fun hb hm hp hf => h _ ((Chip.tagStart_of_may hb hm).trans ((Chip.beginJob_work hp w).trans (if_pos hf))),
        fun hb hm hp hf => h _ ((Chip.tagStart_of_may hb hm).trans ((Chip.beginJob_work hp w).trans (if_neg (Bool.eq_false_iff.1 hf))))⟩
    refine ⟨fun h => start _ write fun d hd => answers rfl ((Chip.write_of_accepts h _).trans hd),
      fun h => start _ record fun d hd => answers rfl ((Chip.write_of_accepts h _).trans hd), fun h => ?_,
      fun read n base crc g target data hread hn hdata hcrc hbase hnew => ?_,
      fun h => ⟨fun r hr he => ?_, fun r hr he => ?_, fun hr => ?_⟩, fun p step h => answers rfl (tagReplyTimeout_of_writing h),
      fun r hw hr => answers rfl (tagReplyTimeout_of_round hw hr), fun hw hr => answers rfl (tagReplyTimeout_of_none hw hr),
      fun h => answers rfl (Chip.write_of_accepts h _)⟩
    · have hrecord : record = c.recordWork none replies (readPair verify) := congrArg (c.recordWork · replies (readPair verify)) h
      have hunread : record.unread = true := by rw [hrecord]; rfl
      exact ⟨hunread, fun b => Chip.runWork_of_unread hunread⟩
    · have hrecord : record = c.recordWork (some read) replies (readPair verify) :=
        congrArg (c.recordWork · replies (readPair verify)) hread
      obtain ⟨htarget, hg⟩ := recordTarget_generation_of_newer hnew
      subst hn hdata hcrc hbase htarget hg
      rw [hrecord]
      exact Chip.recordWork_some read replies (readPair verify)
    · exact answers rfl ((Chip.write_of_accepts h _).trans ((Chip.tagHalt_of_round hr).trans (if_pos he)))
    · exact answers rfl ((Chip.write_of_accepts h _).trans ((Chip.tagHalt_of_round hr).trans (if_neg (Bool.eq_false_iff.1 he))))
    · exact answers rfl ((Chip.write_of_accepts h _).trans (Chip.tagHalt_of_none hr))

end Sys2Proof.Machine
end

section
/-! PROOFS. Vault requests, its engines, the random source and the restore, and signed readings (R235, R236, R435–R446). -/

namespace Sys2Proof.Machine

section

variable {c : Chip} {acc : Access} {n e : Nat}

/-! ### A window slot -/

theorem vaultGo_of_accepts {op : Nat} (hn : n < Blk.vrq.count c.variant) (h : c.Accepts acc (VREQ_CMD n).addr 1) :
    let r := c.windowRequest n
    vaultGo acc n op c =
      if c.rd (VREQ_OP_op n) ≠ op then c
      else if c.windowBusy n then c.setFlag (VREQ_ST_wrote_busy n) true
      else if c.goError r = 0 then c.queueRequest r
      else c.endRequest r { error := c.goError r } :=
  (Chip.writeUnit_of_accepts hn h _).trans (ite_not _ _ _).symm

/-! ### The engines -/

theorem vaultRequestStart_of_idle (h : 3 ≤ e ∨ c.engine e ≠ none ∨ c.nextRequest e = none) : vaultRequestStart e c = c := by
  by_cases hbusy : 3 ≤ e ∨ (c.engine e).isSome = true
  · exact if_pos hbusy
  · obtain ⟨he, hrun⟩ := not_or.1 hbusy
    have hnext : c.nextRequest e = none := (h.resolve_left he).resolve_left (not_not.2 (Option.not_isSome_iff_eq_none.1 hrun))
    refine (if_neg hbusy).trans ?_
    rw [hnext]

/-- The slot of a window request that an engine takes shows that it runs (R437). -/
def Chip.showRunning (c : Chip) : VaultSource → Chip
  | .window n => c.put (VREQ_ST_state n) 2
  | _ => c

/-- The block with the requests of a source taken from the queue. -/
def Chip.dequeue (c : Chip) (r : VaultRequest) : Chip :=
  c.setVlt fun v => { v with queue := v.queue.filter fun y => !(decide (y.source = r.source)) }

theorem vaultRequestStart_of_request {r : VaultRequest} (he : e < 3) (hidle : c.engine e = none) (hr : c.nextRequest e = some r) :
    vaultRequestStart e c =
      if (c.dequeue r).keyError r ≠ 0 then (c.dequeue r).endRequest r { error := (c.dequeue r).keyError r }
      else (((c.dequeue r).vaultRun r).2.showRunning r.source).setEngine e (some (r, ((c.dequeue r).vaultRun r).1)) := by
  refine (if_neg (not_or.2 ⟨Nat.not_le.2 he, by rw [hidle]; exact Bool.false_ne_true⟩)).trans ?_
  rw [hr]
  refine if_congr Iff.rfl rfl ?_
  unfold Chip.dequeue
  generalize Chip.vaultRun _ r = answer
  rfl

theorem Chip.showRunning_of_window {d : Chip} {s : VaultSource} {m : Nat} (h : s = .window m) :
    d.showRunning s = d.put (VREQ_ST_state m) 2 := by
  rw [h]
  rfl

theorem Chip.showRunning_of_internal {d : Chip} {s : VaultSource} (h : ∀ m : Nat, s ≠ .window m) : d.showRunning s = d := by
  cases s with
  | window m => exact absurd rfl (h m)
  | readout | tag _ => rfl

theorem vaultRequestDone_of_idle (h : c.engine e = none) : vaultRequestDone e c = c := by
  unfold vaultRequestDone
  rw [h]

theorem vaultRequestDone_of_answer {r : VaultRequest} {a : VaultAnswer} (h : c.engine e = some (r, a)) :
    vaultRequestDone e c = (c.setEngine e none).endRequest r a := by
  unfold vaultRequestDone
  rw [h]

/-! ### The restore -/

/-- The table of the listed slots as R431 restores them. -/
def Chip.restoredTable (c : Chip) (ks : List Nat) : Sparse VaultSlot :=
  (ks.map fun k => (k, c.restoreSlot k)).foldl (fun (m : Sparse VaultSlot) r => Sparse.set (fun _ => {}) m r.1 r.2.1) []

/-- The slots as R431 restores them, and their count of key changes. -/
def Chip.restoreSlots (c : Chip) : Chip :=
  let rs := ((List.range 256).drop 1).map fun k => (k, c.restoreSlot k)
  let sum := (rs.map fun r => r.2.1.key.generation).foldl (· + ·) 0
  let c := c.setVlt fun v =>
    { v with
      slots := c.restoredTable ((List.range 256).drop 1)
      header := v.header.counted (satN 32 (max v.header.changes sum)), drawn := 0, sinceSeed := 0 }
  c.put VLT_KEY_CHG_count c.vlt.header.changes

/-- The newest stored configuration is in force (R431). -/
def Chip.adoptStored (c : Chip) : Chip :=
  match newestCopy c.vlt.stored with
  | some x => c.adoptConfig x.1.2
  | none => c

/-- The end of a restore, with a fault of the store or without (R431, R446). -/
def Chip.showReady (c : Chip) (bad : Bool) : Chip :=
  let c := if bad then ((c.setFlag VLT_STATUS_store_fault true).setFault 5 0x5802 0).raiseEv vltPage 3 else c
  let c := if c.vlt.testsFailed then c else (c.setFlag VLT_STATUS_trng_fault false).clearFault 5 0x5801 0
  (c.setFlag VLT_STATUS_ready true).raiseEv vltPage 0

theorem vaultRestoreDone_of_pending (h : c.flag VLT_STATUS_ready = false) :
    ∃ bad : Bool, vaultRestoreDone c = c.restoreSlots.adoptStored.showReady bad :=
  ⟨(((List.range 256).drop 1).map fun k => (k, c.restoreSlot k)).any fun r => r.2.2, if_neg (Bool.eq_false_iff.1 h)⟩

theorem Chip.showReady_vlt (bad : Bool) : (c.showReady bad).vlt = c.vlt := by
  unfold Chip.showReady
  dsimp only
  rw [Chip.raiseEv_vlt, Chip.setFlag_vlt]
  have hbad : (if bad then ((c.setFlag VLT_STATUS_store_fault true).setFault 5 0x5802 0).raiseEv vltPage 3 else c).vlt = c.vlt :=
    ite_keeps Chip.vlt (fun _ => by rw [Chip.raiseEv_vlt, Chip.setFault_vlt, Chip.setFlag_vlt]) (fun _ => rfl)
  exact ite_keeps Chip.vlt (fun _ => hbad) (fun _ => by rw [Chip.clearFault_vlt, Chip.setFlag_vlt]; exact hbad)

theorem Chip.adoptStored_slots : c.adoptStored.vlt.slots = c.vlt.slots ∧ c.adoptStored.vlt.drawn = c.vlt.drawn := by
  unfold Chip.adoptStored
  cases newestCopy c.vlt.stored <;> exact ⟨rfl, rfl⟩

theorem Chip.adoptStored_config {g k : Nat} {words : List Nat} (h : newestCopy c.vlt.stored = some ((g, words), k)) :
    c.adoptStored.vlt.config = words := by
  unfold Chip.adoptStored
  rw [h]
  rfl

theorem Chip.get_restoredTable {ks : List Nat} {k : Nat} (h : k ∈ ks) :
    Sparse.get (fun _ => {}) (c.restoredTable ks) k = (c.restoreSlot k).1 := by
  unfold Chip.restoredTable
  rw [List.foldl_map, Sparse.get_foldl_set (dflt := fun _ => {}) (fun j => (c.restoreSlot j).1), if_pos h]

theorem Chip.restoreSlots_slots : c.restoreSlots.vlt.slots = c.restoredTable ((List.range 256).drop 1) := by
  simp only [Chip.restoreSlots, Chip.put_vlt, Chip.setVlt_vlt]

theorem Chip.restoreSlots_slot {k : Nat} (hk : 0 < k) (hk256 : k < 256) : c.restoreSlots.vaultSlot k = (c.restoreSlot k).1 := by
  have hmem : k ∈ (List.range 256).drop 1 := by
    rw [List.range_eq_range', List.drop_range', List.mem_range'_1]
    omega
  unfold Chip.vaultSlot
  rw [if_neg (Nat.pos_iff_ne_zero.1 hk), Chip.restoreSlots_slots, Chip.get_restoredTable hmem]

/-! ### Signed readings -/

theorem signReading_of_accepts {v : Nat} (h : c.Accepts acc LDG_SIGN_CMD.addr v) :
    let m := c.rd LDG_SIGN_MTR_meter
    let x : Chip :=
      { c with
        dsp :=
          { c.dsp with
            signing := some (m, c.rd LDG_SIGN_SEL, c.regBytes LDG_SIGN_NONCE_nonce (min 32 (c.rd LDG_SIGN_NLEN_len))), payload := none } }
    signReading acc v c =
      if v % 2 = 0 ∨ c.rd LDG_SIGN_ST_state = 1 then c
      else if m < c.variant.meters ∧ (c.meter m).active = true then
        ((x.put LDG_SIGN_ST_state 1).put LDG_SIGN_ST_error 0).put LDG_SIGN_ST_length 0
      else c.signError 1 :=
  (Chip.write_of_accepts h _).trans (if_congr Iff.rfl rfl (ite_not _ _ _))

theorem signReadingDone_of_none (h : Sparse.get (fun _ => none) c.vlt.answers 256 = none) : signReadingDone c = c := by
  unfold signReadingDone
  rw [h]

theorem signReadingDone_of_answer {a : VaultAnswer} (h : Sparse.get (fun _ => none) c.vlt.answers 256 = some a) :
    let x := c.setVlt fun v => { v with answers := Sparse.set (fun _ => none) v.answers 256 none }
    let y := { x with dsp := { x.dsp with signing := none, payload := none } }
    let y := forN ((a.output.length + 3) / 4) (fun k d => d.put (LDG_SIGN_OUT_obj k) (ofLe ((a.output.drop (4 * k)).take 4))) y
    signReadingDone c =
      if x.rd LDG_SIGN_ST_state ≠ 1 then x
      else if a.error = 3 ∨ a.error = 4 then x.signError 3
      else if a.error = 8 ∨ 1024 < a.output.length then x.signError 4
      else if a.error ≠ 0 then x.signError 2
      else ((y.put LDG_SIGN_ST_state 2).put LDG_SIGN_ST_length a.output.length).raiseEv 0x40103000 6 := by
  intro x y₁ y
  unfold signReadingDone
  rw [h]

end

/-- Settles O57: a go by R438's order, an engine by its next request, the restore by the slots that it rebuilds. -/
theorem vaultRequests : Obligations.VaultRequests := by
  refine ⟨fun s acc n e => ?_, fun s acc v => ?_⟩
  · intro c r rows
    have hrows : ∀ p ∈ rows, exec p.2 s = s.effect (vaultGo acc n p.1) := by
      intro p hp
      simp only [rows, List.mem_cons, List.not_mem_nil, or_false] at hp
      rcases hp with rfl | rfl | rfl | rfl | rfl | rfl | rfl | rfl | rfl | rfl | rfl | rfl | rfl <;> rfl
    refine ⟨fun p hp => ⟨fun hn => answers (hrows p hp) (Chip.writeUnit_of_absent hn ..),
        fun hn h => answers (hrows p hp) (vaultGo_of_accepts hn h)⟩,
      fun hn => answers rfl (Chip.writeUnit_of_absent hn ..), fun hn h => answers rfl (Chip.writeUnit_of_accepts hn h _),
      fun h => answers rfl (vaultRequestStart_of_idle h), fun r he hidle hr => ⟨fun hk => ?_, fun m hm hk => ?_, fun hm hk => ?_⟩,
      fun h => answers rfl (vaultRequestDone_of_idle h), fun r a h => answers rfl (vaultRequestDone_of_answer h), rfl, rfl,
      fun h => answers rfl (if_pos h), fun h => ?_⟩
    · exact answers rfl ((vaultRequestStart_of_request he hidle hr).trans (if_pos hk))
    · refine answers rfl ((vaultRequestStart_of_request he hidle hr).trans ((if_neg (not_not.2 hk)).trans ?_))
      rw [Chip.showRunning_of_window hm]
      rfl
    · refine answers rfl ((vaultRequestStart_of_request he hidle hr).trans ((if_neg (not_not.2 hk)).trans ?_))
      rw [Chip.showRunning_of_internal hm]
      rfl
    · obtain ⟨bad, hd⟩ := vaultRestoreDone_of_pending h
      refine ⟨_, answers rfl hd, fun k hk hk256 => ?_, ?_, fun g e words hw => ?_⟩
      · refine Eq.trans ?_ (Chip.restoreSlots_slot hk hk256)
        unfold Chip.vaultSlot
        rw [Chip.showReady_vlt, Chip.adoptStored_slots.1]
      · rw [Chip.showReady_vlt, Chip.adoptStored_slots.2]
        rfl
      · rw [Chip.showReady_vlt]
        exact Chip.adoptStored_config hw
  · intro c m
    exact ⟨fun h => answers rfl (signReading_of_accepts h), fun h => answers rfl (signReadingDone_of_none h),
      fun a h => answers rfl (signReadingDone_of_answer h)⟩

end Sys2Proof.Machine
end

section
/-! PROOFS. Plane commands, the image loader, trials, the update page and signing keys (R468, R469, R477–R485). -/

namespace Sys2Proof.Machine

section

variable {c : Chip} {acc : Access} {p v : Nat}

/-! ### UPD_PL_CMD -/

/-- The block after a write of UPD_PL_CMD whose command k gives `x`: the write needs the key and the command's bit (R484). -/
def Chip.keyed (c : Chip) (v k : Nat) (x : Chip) : Chip := if v / 65536 % 65536 = 0xC1A5 ∧ v.testBit k = true then x else c

theorem planeCommand_of_accepts (hp : p < 4) (h : c.Accepts acc (UPD_PL_CMD p).addr v) (k : Nat) (f : Chip → Chip) :
    c.planeCommand acc p v k f = c.keyed v k (f c) :=
  (if_neg (Nat.not_le.2 hp)).trans ((Chip.write_of_accepts h _).trans (ite_of_iff_not not_and_or.symm))

/-- The switch of a plane: its refusal, or a trial of the other bank (R481). -/
def Chip.switchPlane (c : Chip) (p : Nat) : Chip :=
  match c.switchRefusal p with
  | some r => c.endPlaneCommand p 3 r
  | none =>
    let bank := c.rd (UPD_PL_ST_bank p)
    ((c.setBootPlane p { c.bootPlane p with previous := bank, trialBank := 1 - bank, trial := true, tries := 0 }).endPlaneCommand p 2
      0).planeReset p

theorem planeSwitchCmd_of_accepts (hp : p < 4) (h : c.Accepts acc (UPD_PL_CMD p).addr v) :
    planeSwitchCmd acc p v c = c.keyed v 1 (c.switchPlane p) :=
  planeCommand_of_accepts hp h 1 _

theorem Chip.switchPlane_of_refusal {r : Nat} (h : c.switchRefusal p = some r) : c.switchPlane p = c.endPlaneCommand p 3 r := by
  unfold Chip.switchPlane
  rw [h]

theorem Chip.switchPlane_of_none (h : c.switchRefusal p = none) :
    let bank := c.rd (UPD_PL_ST_bank p)
    c.switchPlane p =
      ((c.setBootPlane p { c.bootPlane p with previous := bank, trialBank := 1 - bank, trial := true, tries := 0 }).endPlaneCommand p 2
        0).planeReset p := by
  intro bank
  unfold Chip.switchPlane
  rw [h]

/-! ### The loader and the trials -/

theorem imageLoadDone_of_none (h : c.boot.loading = none) : imageLoadDone c = c := by
  unfold imageLoadDone
  rw [h]

theorem imageLoadDone_of_image {bank : Nat} (h : c.boot.loading = some (p, bank)) :
    let x := c.setBoot fun b => { b with loading := none }
    let y := if (x.bootPlane p).trial then x.revertPlane p
      else ((x.setFlag (UPD_PL_ST_failover p) true).planeFault p 6 true).raiseEv updPage 2
    imageLoadDone c =
      (if x.imageValid p bank then x.startPlane p bank
      else if y.imageValid p (1 - bank) then y.startPlane p (1 - bank) else y.failPlane p).loaderNext := by
  intro x y
  unfold imageLoadDone
  rw [h]

theorem trialWindowExpire_of_none (h : Sparse.find c.boot.trials p = none) : trialWindowExpire p c = c := by
  unfold trialWindowExpire
  rw [h]

theorem trialWindowExpire_of_trial {age : Nat} (h : Sparse.find c.boot.trials p = some age) :
    trialWindowExpire p c =
      if (c.bootPlane p).trial = true ∧ 8000 * max 1 (c.rd (UPD_PL_CFG_window p)) ≤ age then c.planeReset p else c := by
  unfold trialWindowExpire
  rw [h]

/-! ### The update page -/

/-- The verified banks when a command begins: a program unverifies its bank (R480). -/
def NorCommand.unverify (cmd : NorCommand) (verified : Nat) : Nat :=
  match cmd with
  | .program p bank _ _ => putBit verified (2 * p + bank) false
  | _ => verified

/-- The rows of UPD_U_CMD: bit k, the command's offset and alignment, what it runs (R485). -/
def Chip.UpdateRow (c : Chip) (acc : Access) (k ofs align : Nat) (cmd : NorCommand) (i : Instr) : Prop :=
  k = 0 ∧ ofs = c.rd UPD_U_OFS_ofs ∧ align = 0x10000 ∧ cmd = .erase (c.rd UPD_U_TGT_plane) (c.rd UPD_U_TGT_bank) ofs ∧ i = .norEraseCmd acc ∨
    k = 1 ∧ ofs = c.rd UPD_U_OFS_ofs ∧ align = 256 ∧
      cmd = .program (c.rd UPD_U_TGT_plane) (c.rd UPD_U_TGT_bank) ofs (c.regBytes UPD_U_BUF_data 256) ∧ i = .norProgramCmd acc ∨
    k = 2 ∧ ofs = 0 ∧ align = 1 ∧ cmd = .verify (c.rd UPD_U_TGT_plane) (c.rd UPD_U_TGT_bank) ∧ i = .norVerifyCmd acc ∨
    k = 3 ∧ ofs = 0 ∧ align = 1 ∧ cmd = .erase (c.rd UPD_U_TGT_plane) (c.rd UPD_U_TGT_bank) 0 ∧ i = .norInvalidateCmd acc

section

variable {k ofs align : Nat} {cmd : NorCommand}

theorem exec_of_updateRow {s : State} {i : Instr} (h : s.chip.UpdateRow acc k ofs align cmd i) :
    exec i s = .next (s.after (s.chip.updateCommand acc k ofs align cmd)) := by
  rcases h with ⟨rfl, rfl, rfl, rfl, rfl⟩ | ⟨rfl, rfl, rfl, rfl, rfl⟩ | ⟨rfl, rfl, rfl, rfl, rfl⟩ | ⟨rfl, rfl, rfl, rfl, rfl⟩ <;> rfl

theorem unverify_of_updateRow {i : Instr} (h : c.UpdateRow acc k ofs align cmd i) (x : Nat) :
    cmd.unverify x = if k = 1 then putBit x (2 * c.rd UPD_U_TGT_plane + c.rd UPD_U_TGT_bank) false else x := by
  rcases h with ⟨rfl, -, -, rfl, -⟩ | ⟨rfl, -, -, rfl, -⟩ | ⟨rfl, -, -, rfl, -⟩ | ⟨rfl, -, -, rfl, -⟩ <;> rfl

variable (h : c.Accepts acc UPD_U_CMD.addr (2 ^ k))
include h

theorem updateCommand_of_restarting (hr : c.boot.restarting.testBit 2 = true) : c.updateCommand acc k ofs align cmd = c :=
  (Chip.write_of_accepts h _).trans (if_pos hr)

theorem updateCommand_of_refusal (hr : c.boot.restarting.testBit 2 = false) {r : Nat} (hf : c.updateRefusal ofs align = some r) :
    c.updateCommand acc k ofs align cmd = ((c.put UPD_U_ST_state 3).put UPD_U_ST_reason r).raiseEv upuPage 1 := by
  refine (Chip.write_of_accepts h _).trans ((if_neg (Bool.eq_false_iff.1 hr)).trans ?_)
  rw [hf]

theorem updateCommand_of_start (hr : c.boot.restarting.testBit 2 = false) (hf : c.updateRefusal ofs align = none) :
    c.updateCommand acc k ofs align cmd =
      (((c.setBoot fun b => { b with command := some cmd, verified := cmd.unverify b.verified }).put UPD_U_ST_state 1).put UPD_U_ST_reason
        0).showUpdate := by
  refine (Chip.write_of_accepts h _).trans ((if_neg (Bool.eq_false_iff.1 hr)).trans ?_)
  rw [hf]
  rfl

end

theorem norCommandDone_of_none (h : c.boot.command = none) : norCommandDone c = c := by
  unfold norCommandDone
  rw [h]

/-- What a NOR command leaves when it ends (R485). -/
def Chip.endNor (c : Chip) (cmd : NorCommand) : Chip :=
  match cmd with
  | .erase p bank ofs => (c.setImage p bank ofs (List.replicate 0x10000 0xFF)).endUpdate 2 0
  | .program p bank ofs data =>
    ((c.setImage p bank ofs data).setBoot fun b => { b with spoilt := putBit b.spoilt (2 * p + bank) false }).endUpdate 2 0
  | .verify p bank =>
    if c.imageValid p bank then (c.setBoot fun b => { b with verified := putBit b.verified (2 * p + bank) true }).endUpdate 2 0
    else c.endUpdate 4 4

theorem norCommandDone_of_command {cmd : NorCommand} (h : c.boot.command = some cmd) :
    norCommandDone c = (c.setBoot fun b => { b with command := none }).endNor cmd := by
  unfold norCommandDone
  rw [h]
  rfl

end

/-- Settles O58: the keyed commands of a plane, the loader's verdict, and the update page's commands row by row. -/
theorem imagesAndUpdates : Obligations.ImagesAndUpdates := by
  intro s acc p v c
  refine ⟨fun hp h => ?_, fun hp => ?_, fun h => answers rfl (imageLoadDone_of_none h), fun bank h x hx y hy => ?_,
    fun h => answers rfl (trialWindowExpire_of_none h), fun age h => answers rfl (trialWindowExpire_of_trial h),
    fun k ofs align cmd i tp htp tb htb hrow h => ?_, fun h => answers rfl (norCommandDone_of_none h),
    fun tp tb ofs data x hx => ?_, fun k hk => ?_⟩
  · intro keyed bank hbank x hx
    subst hbank hx
    exact ⟨answers rfl (planeCommand_of_accepts hp h 0 _),
      fun r hr => answers rfl ((planeSwitchCmd_of_accepts hp h).trans (congrArg (c.keyed v 1) (Chip.switchPlane_of_refusal hr))),
      fun hr => answers rfl ((planeSwitchCmd_of_accepts hp h).trans (congrArg (c.keyed v 1) (Chip.switchPlane_of_none hr))),
      answers rfl ((planeCommand_of_accepts hp h 2 _).trans (congrArg (c.keyed v 2) (ite_not _ _ _))),
      answers rfl ((planeCommand_of_accepts hp h 3 _).trans (congrArg (c.keyed v 3) (ite_not _ _ _))),
      answers rfl (planeCommand_of_accepts hp h 4 _)⟩
  · exact ⟨answers rfl (if_pos hp), answers rfl (if_pos hp), answers rfl (if_pos hp), answers rfl (if_pos hp), answers rfl (if_pos hp)⟩
  · subst hx hy
    exact answers rfl (imageLoadDone_of_image h)
  · subst htp htb
    have hexec := exec_of_updateRow hrow
    refine ⟨fun hr => hexec.trans ?_, fun hr => ⟨fun r hf => hexec.trans ?_, fun hf => hexec.trans ?_⟩⟩
    · rw [updateCommand_of_restarting h hr]
    · rw [updateCommand_of_refusal h hr hf]
    · rw [updateCommand_of_start h hr hf]
      simp only [unverify_of_updateRow hrow]
  · subst hx
    exact ⟨fun h => answers rfl (norCommandDone_of_command h), fun h => answers rfl (norCommandDone_of_command h),
      fun h => answers rfl (norCommandDone_of_command h)⟩
  · subst hk
    exact ⟨fun h => answers rfl (Chip.write_of_accepts h _), fun h => answers rfl (Chip.write_of_accepts h _)⟩

end Sys2Proof.Machine
end

section
/-! PROOFS. Bring-up, resets, the Stride edge and core gating (O59). -/

namespace Sys2Proof.Machine

section
variable (c : Chip)

theorem strideEdge_of_running (inp : StrideInputs) (h : c.fold.running = true) :
    strideEdge inp c =
      ((((((c.settleAwait.newStride.portsSample inp).timeEdge).openSecond).sealEdge inp.sealMet).powerFailAge.safetyEdge inp).foldSchedule
        inp).ticks.unitsEdge inp :=
  if_neg (not_not.2 h)

theorem strideEdge_of_stopped (inp : StrideInputs) (h : c.fold.running = false) :
    strideEdge inp c = if c.boot.powered = true then c else (c.crookAlone inp).switchesEdge inp :=
  if_pos (Bool.eq_false_iff.1 h)

theorem resetRelease_eq (start : StartInputs) :
    resetRelease start c =
      if c.boot.held = true ∧ c.boot.powered = false then (c.setBoot fun b => { b with held := false, refclkBad := false }).bringUp start
      else c :=
  ite_of_iff_not (by rw [not_and_or, Bool.not_eq_false])

theorem Chip.newStride_stride :
    c.newStride.stride = (forN 4 (fun n d => d.canStrideEnd n) (c.advanceTo strideCycles)).nextStride := by
  unfold Chip.newStride
  rfl

theorem Chip.newStride_strideNext : c.newStride.strideNext = none := by
  unfold Chip.newStride
  rfl

theorem Chip.newStride_cycle : c.newStride.cycle = 0 := by
  unfold Chip.newStride
  rfl

theorem Chip.planeReset_of_committing (h : c.resetCommitting = true) (p : Nat) : c.planeReset p = c := if_pos (.inr (.inr h))

theorem controllerDieReset_of_none (h : c.boot.wanted = none) : controllerDieReset c = c := by
  unfold controllerDieReset
  rw [h]

theorem controllerDieReset_of_wanted {module : Bool} {cause plane : Nat} (h : c.boot.wanted = some (module, cause, plane)) :
    controllerDieReset c =
      if c.led.resetDone = true ∨ c.flag LDG_STATUS_pfw = true ∨ c.flag LDG_STATUS_restored = false then
        (if module then c.resetDies else c.dieReset).resetCause cause plane
      else c := by
  unfold controllerDieReset
  rw [h]
  exact if_congr (by rw [Bool.not_eq_true]) rfl rfl

end

/-! ### The keyed write of FAB_RST -/

/-- A write of FAB_RST by any of its commands. -/
theorem exec_of_resetRow {i : Instr} {s : State} {acc : Access} {v : Nat}
    (hi : i = .planeResetCmd acc v ∨ i = .dieResetCmd acc v ∨ i = .moduleResetCmd acc v) :
    exec i s = s.effect (resetWrite acc v) := by
  rcases hi with rfl | rfl | rfl
  · rfl
  · rfl
  · rfl

section
variable {c : Chip} {acc : Access} {v : Nat} (h : c.Accepts acc FAB_RST.addr v)
include h

theorem resetWrite_of_wrong_key (hk : v / 65536 % 65536 ≠ resetKey) : resetWrite acc v c = c :=
  (Chip.write_of_accepts h _).trans (if_pos hk)

theorem resetWrite_of_key (hk : v / 65536 % 65536 = resetKey) :
    resetWrite acc v c =
      if v.testBit 9 then c.requestReset true 3 0
      else if v.testBit 8 then c.requestReset false 4 0
      else forN 4 (fun p c => if v.testBit p then c.planeReset p else c) c :=
  (Chip.write_of_accepts h _).trans (if_neg (not_not.2 hk))

end

/-- Settles O59: each reset and its guard, the edge with and without the controller die, and the widest kind that FAB_RST names. -/
theorem resetsAndBringUp : Obligations.ResetsAndBringUp := by
  intro s acc v start inp c
  refine ⟨fun x hx y hy => ?_, answers rfl (resetRelease_eq c start), fun h x hx => ?_,
    fun h => answers rfl (strideEdge_of_stopped c inp h), ?_, fun i hi h => ?_, fun hw hl p => ?_,
    fun h => answers rfl (controllerDieReset_of_none c h), fun module cause plane h => answers rfl (controllerDieReset_of_wanted c h),
    answers rfl rfl, answers rfl rfl, fun h => answers rfl (Chip.write_of_accepts h _)⟩
  · subst hx hy
    exact answers rfl (ite_not _ _ _)
  · subst hx
    exact answers rfl (strideEdge_of_running c inp h)
  · exact ⟨Chip.newStride_stride _, Chip.newStride_strideNext _, Chip.newStride_cycle _⟩
  · have hexec := exec_of_resetRow (s := s) hi
    refine ⟨fun hk => answers hexec (resetWrite_of_wrong_key h hk), fun hk => ⟨fun h9 => ?_, fun h9 h8 => ?_, fun h9 h8 => ?_⟩⟩
    all_goals refine answers hexec ((resetWrite_of_key h hk).trans ?_)
    · rw [if_pos h9]
    · rw [if_neg (Bool.eq_false_iff.1 h9), if_pos h8]
    · rw [if_neg (Bool.eq_false_iff.1 h9), if_neg (Bool.eq_false_iff.1 h8)]
  · exact Chip.planeReset_of_committing c (Bool.and_eq_true_iff.2 ⟨hw, hl⟩) p

end Sys2Proof.Machine
end

section
/-! PROOFS. Watchdogs, lockstep and memory errors, cap hits, supply, clock, temperature and insulation (O60). -/

namespace Sys2Proof.Machine

section
variable (c : Chip)

/-! ### The watchdogs of the planes and of S0 -/

theorem watchdogService_eq (t v : Nat) :
    watchdogService t v c =
      if t < 7 ∧ v = 0x5AFE ∧ (c.watchdog (targetPlane t)).isSome = true then
        let x := (c.setBoot fun b => { b with
          watchdogs := Sparse.set (fun _ => none) b.watchdogs (targetPlane t) (some 0)
          halves := putBit b.halves (targetPlane t) false }).setFlag (FAB_WDT_ST.bitOf (targetPlane t)) false
        if targetPlane t = 2 then x.managementExpired false else x
      else c :=
  ite_of_iff_not (by rw [not_and_or, not_and_or, not_lt, Option.not_isSome_iff_eq_none, Option.isNone_iff_eq_none])

theorem watchdogHalf_of_none {p : Nat} (h : c.watchdog p = none) : watchdogHalf p c = c := by
  unfold watchdogHalf
  rw [h]

theorem watchdogHalf_of_age {p age : Nat} (h : c.watchdog p = some age) :
    watchdogHalf p c =
      if c.watchdogTime p ≤ 2 * age ∧ c.boot.halves.testBit p = false then
        (planeTargets p).foldl (fun (c : Chip) t => c.firePrivate t 10) (c.setBoot fun b => { b with halves := putBit b.halves p true })
      else c := by
  unfold watchdogHalf
  rw [h]
  exact if_congr (and_congr_right fun _ => Iff.of_eq (Bool.not_eq_true _)) rfl rfl

theorem watchdogExpire_of_none {p : Nat} (h : c.watchdog p = none) : watchdogExpire p c = c := by
  unfold watchdogExpire
  rw [h]

/-- The watchdog of plane p stops, and is reported. -/
def Chip.stopWatchdog (p : Nat) : Chip :=
  let x := ((c.setBoot fun b => { b with watchdogs := Sparse.set (fun _ => none) b.watchdogs p none }).setFlag
    (FAB_WDT_ST.bitOf p) true).raiseEv fabPage 4
  if p = 2 then x.managementExpired true else x

theorem watchdogExpire_of_age {p age : Nat} (h : c.watchdog p = some age) :
    watchdogExpire p c =
      if age < c.watchdogTime p then c
      else if (c.stopWatchdog p).flag (FAB_WDT_CFG_action p) then (c.stopWatchdog p).requestReset false 5 p
      else (c.stopWatchdog p).planeReset p := by
  unfold watchdogExpire
  rw [h]
  rfl

theorem safetyWatchdogExpire_eq :
    safetyWatchdogExpire c =
      if c.saf.running0 = true ∧ c.saf.expired = false ∧ 80 ≤ c.saf.watchdog then
        (((((c.setSaf fun s => { s with expired := true }).setFlag (FAB_WDT_ST.bitOf 3) true).raiseEv fabPage 4).setLoad fun l =>
          { l with wdSafety := true }).watchdogsChanged.safetyPlaneFault unitWatchdog)
      else c :=
  ite_of_iff_not (by rw [not_and_or, not_and_or, not_le, Bool.not_eq_false])

/-! ### Cap hits, the supply and the clock -/

theorem fabricCapHit_eq (k : Nat) :
    fabricCapHit k c =
      if k < 4 then ((c.incSat (FAB_CAPHIT_count k)).raiseEv fabPage 0).setFault 5 0x0124 k
      else if k < 6 then (c.incSat (FAB_CAPHIT_count k)).raiseEv fabPage 1
      else c := by
  refine (ite_le_eq_ite_lt _ _ _ _).trans ?_
  split
  next h6 => rfl
  next h6 => rw [if_neg fun h4 => h6 (Nat.lt_trans h4 (by decide))]

theorem Chip.requestReset_of_some (h : c.boot.wanted ≠ none) (module : Bool) (cause plane : Nat) :
    c.requestReset module cause plane = c :=
  if_pos (Option.isSome_iff_ne_none.2 h)

theorem Chip.requestReset_of_none (h : c.boot.wanted = none) (module : Bool) (cause plane : Nat) :
    c.requestReset module cause plane =
      (c.setBoot fun b => { b with wanted := some (module, cause, plane) }).setLed fun l => { l with resetWanted := some c.stride } :=
  if_neg fun hs => Option.isSome_iff_ne_none.1 hs h

/-- The block with its REFCLK at fault and the code of the reset's cause drawn. -/
def Chip.refclkLost : Chip := (c.setBoot fun b => { b with refclkBad := true }).draw.2

theorem refclkFault_of_held (h : c.boot.powered = true ∨ c.boot.held = true) :
    refclkFault c = c.setBoot fun b => { b with refclkBad := true } :=
  if_pos h

theorem refclkFault_of_service (hp : c.boot.powered = false) (hh : c.boot.held = false) :
    refclkFault c = c.refclkLost.requestReset false ((c.setBoot fun b => { b with refclkBad := true }).draw.1 % 8) 0 :=
  if_neg (not_or.2 ⟨Bool.eq_false_iff.1 hp, Bool.eq_false_iff.1 hh⟩)

theorem Chip.requestReset_refclkBad (module : Bool) (cause plane : Nat) :
    (c.requestReset module cause plane).boot.refclkBad = c.boot.refclkBad := by
  by_cases h : c.boot.wanted = none
  · rw [c.requestReset_of_none h]
    rfl
  · rw [c.requestReset_of_some h]

/-! ### Insulation -/

theorem imdHalfPeriodEnd_of_not {k uv ms : Nat} {settled : Bool}
    (h : c.variant.ports / 4 ≤ k ∨ c.flag (IMD_STATUS_enabled k) = false ∨ c.saf.running0 = false ∨
      (c.insulation k).ends uv ms settled = false) :
    imdHalfPeriodEnd k uv ms settled c = c :=
  if_pos (h.imp_right (Or.imp Bool.eq_false_iff.1 (Or.imp Bool.eq_false_iff.1 Bool.eq_false_iff.1)))

/-- The half-period that ends has its length shown, and the fault of one that did not settle or lies outside. -/
def Chip.halfMeasured (k uv ms : Nat) (settled : Bool) : Chip :=
  let x := c.put (IMD_HALF_ms k) ms
  (if imdOutside uv || !settled then x.imdFault k else x).setInsulation k fun i => { i with noValue := i.noValue || !settled }

/-- The next half-period begins, of the other sign. -/
def Chip.turnHalf (k : Nat) : Chip := c.setInsulation k fun i => { i with age := 0, negative := !i.negative }

/-- The end of a full period, whose halves are those of `i`: Riso, alarm, trip, fault and their release (R313). -/
def Chip.endPeriod (k uv : Nat) (i : Insulation) : Chip :=
  let y := c.put (IMD_UM_NEG_uv k) uv
  let r := y.insulationOf k (c.rd (IMD_UM_POS_uv k)) uv
  let q := if i.noValue then y else (y.put (IMD_RISO_kohm k) r.1).setFlag (IMD_STATUS_over k) r.2
  let trip := if i.noValue then q.flag (IMD_STATUS_trip k) else decide (r.1 < q.spb (690 + 16 * k) 2)
  let low := decide (r.1 < q.spb (688 + 16 * k) 2)
  let good := if trip || i.unsettled then 0 else min 2 (i.good + 1)
  let w := q.setInsulation k fun j =>
    { j with
      unsettled := false, noValue := false
      alarms := if j.noValue then j.alarms else if low then min 2 (j.alarms + 1) else 0, good := good
      stopping := trip || i.unsettled || (j.stopping && good != 2) }
  let alarm := (w.insulation k).alarms == 2
  let w1 := if alarm && !w.flag (IMD_STATUS_alarm k) then w.raiseEv (imdPage k) 0 else w
  let w2 := if trip && !w1.flag (IMD_STATUS_trip k) then
      (w1.imdFlocks k).foldl (fun (c : Chip) f => c.logSafety 7 4 f (c.flockState f) (c.flockState f) 2 0 (leBytes 4 r.1))
        (w1.raiseEv (imdPage k) 1)
    else w1
  ((w2.showImd k alarm trip i.unsettled).raiseEv (imdPage k) 3).settleSafety

theorem imdHalfPeriodEnd_of_ends {k uv ms : Nat} {settled : Bool} (hk : k < c.variant.ports / 4)
    (he : c.flag (IMD_STATUS_enabled k) = true) (hr : c.saf.running0 = true) (hi : (c.insulation k).ends uv ms settled = true) :
    imdHalfPeriodEnd k uv ms settled c =
      let x := c.halfMeasured k uv ms settled
      if (x.insulation k).negative = true then (x.turnHalf k).endPeriod k uv (x.insulation k)
      else (((x.turnHalf k).put (IMD_UM_POS_uv k) uv).settleSafety) := by
  have hgo : ¬ (c.variant.ports / 4 ≤ k ∨ ¬ c.flag (IMD_STATUS_enabled k) = true ∨ ¬ c.saf.running0 = true ∨
      ¬ (c.insulation k).ends uv ms settled = true) := by
    rintro (h | h | h | h)
    · exact Nat.not_lt.2 h hk
    · exact h he
    · exact h hr
    · exact h hi
  exact (if_neg hgo).trans (ite_not _ _ _)

end

/-- Settles O60: each watchdog, fault and pin by its guard, and the end of an insulation half-period of either sign. -/
theorem watchdogsAndFaults : Obligations.WatchdogsAndFaults := by
  intro s t v p k mv c
  refine ⟨fun x hx => ?_, fun h => ⟨answers rfl (watchdogHalf_of_none c h), answers rfl (watchdogExpire_of_none c h)⟩,
    fun age h => ⟨answers rfl (watchdogHalf_of_age c h), fun x hx y hy => ?_⟩, answers rfl (safetyWatchdogExpire_eq c),
    answers rfl rfl, fun meters x hx => ?_, answers rfl rfl, answers rfl rfl, answers rfl (fabricCapHit_eq c k), answers rfl rfl,
    fun h => answers rfl (refclkFault_of_held c h), fun hp hh => ?_, answers rfl rfl, fun i uv ms settled hi => ⟨fun h => ?_, ?_⟩⟩
  · subst hx
    exact answers rfl (watchdogService_eq c t v)
  · subst hx hy
    exact answers rfl (watchdogExpire_of_age c h)
  · subst hx
    exact ⟨answers rfl rfl, answers rfl rfl, answers rfl rfl, answers rfl rfl⟩
  · refine ⟨_, answers rfl (refclkFault_of_service c hp hh), rfl, Chip.requestReset_refclkBad _ _ _ _, fun hw => ?_, fun hw => ?_⟩
    · exact congrArg (fun d : Chip => d.led.resetWanted) (c.refclkLost.requestReset_of_none hw false _ 0)
    · exact (congrArg (fun d : Chip => d.boot.wanted) (c.refclkLost.requestReset_of_some hw false _ 0) :)
  · subst hi
    exact answers rfl (imdHalfPeriodEnd_of_not c h)
  · intro hk he hr hends x0 hx0 x hx z hz
    subst hi hx0 hx hz
    refine ⟨fun hn => answers rfl ((imdHalfPeriodEnd_of_ends c hk he hr hends).trans (if_neg (Bool.eq_false_iff.1 hn))),
      fun hn => ?_⟩
    intro y hy r hr' fault hf none hnone q hq trip ht low hl good hg w hw alarm ha w1 hw1 w2 hw2
    subst hy hr' hf hnone hq ht hl hg hw ha hw1 hw2
    exact answers rfl ((imdHalfPeriodEnd_of_ends c hk he hr hends).trans (if_pos hn))

end Sys2Proof.Machine
end
